-- ==== Sys2Proof/Word.lean ====
section
/-! DEFINITION. The register word, the line of data, and the plainest bit arithmetic used all over the model. -/
namespace Sys2Proof

/-- A control register: every register is 32 bits wide (R85). -/
abbrev Word := BitVec 32

/-- The 64 data bytes of a line (R1); byte 0 is bits [7:0] (R163). -/
abbrev Line := BitVec 512

/-- A line as the DRAM stores it: 512 data bits and 128 check bits (R291). -/
abbrev RawLine := BitVec 640

/-- A quantity of 64 bits (R85). -/
abbrev Quad := BitVec 64

end Sys2Proof
end

