-- ==== Sys2Proof/Config.lean ====
section
/-! DEFINITION. What an implementation or its boot store fixes and the spec does not: the free values (opaque, with no
body, so that no proof can see what they are), and the table of speed bins of R11. -/
namespace Sys2Proof

/-- The speed bins of R11. -/
inductive Bin where
  | rdimm5600 | rdimm6400 | rdimm7200 | rdimm8000 | rdimm8800 | mrdimm8800 | mrdimm12800
  deriving DecidableEq, Repr

namespace Bin

/-- k, the BCLK per slot (R11). -/
def k : Bin → Nat
  | rdimm5600 => 6 | rdimm6400 => 6 | rdimm7200 => 5 | rdimm8000 => 4 | rdimm8800 => 4 | mrdimm8800 => 4
  | mrdimm12800 => 3

/-- BCLK in MHz (R11). -/
def mhz : Bin → Nat
  | rdimm5600 => 2100 | rdimm6400 => 2400 | rdimm7200 => 2250 | rdimm8000 => 2000 | rdimm8800 => 2200
  | mrdimm8800 => 2200 | mrdimm12800 => 2400

/-- The default FRAME_SLOTS (R11). -/
def slots : Bin → Nat
  | rdimm5600 => 85 | rdimm6400 => 97 | rdimm7200 => 109 | rdimm8000 => 121 | rdimm8800 => 134 | mrdimm8800 => 134
  | mrdimm12800 => 195

/-- The code of the bin in MAXBIN of CC_MODULE_ID (R298). -/
def code : Bin → Nat
  | rdimm5600 => 0 | rdimm6400 => 1 | rdimm7200 => 2 | rdimm8000 => 3 | rdimm8800 => 4 | mrdimm8800 => 5
  | mrdimm12800 => 6

/-- An MRDIMM bin: host slots of 4 tCK, two pseudo-channels (R271). -/
def mrd : Bin → Bool
  | mrdimm8800 => true | mrdimm12800 => true | _ => false

/-- The DRAM clock in femtoseconds times its data rate: tCK = 2 / (DRAM transfer rate). The DRAM transfer rate in MT/s
(R11, R271: an MRDIMM's pseudo-channel runs at half the host rate). -/
def dramMts : Bin → Nat
  | rdimm5600 => 5600 | rdimm6400 => 6400 | rdimm7200 => 7200 | rdimm8000 => 8000 | rdimm8800 => 8800
  | mrdimm8800 => 4400 | mrdimm12800 => 6400

/-- s of R351: the slot length in tCK. -/
def slotTck (b : Bin) : Nat := if b.mrd then 4 else 8

/-- BCLK in a time given in nanoseconds, rounded up. -/
def ns (b : Bin) (n : Nat) : Nat := (n * b.mhz + 999) / 1000

/-- BCLK in a time given in microseconds. -/
def us (b : Bin) (n : Nat) : Nat := n * b.mhz

end Bin

/-- The contents of a DRAM line that the spec leaves undefined, for the `n`-th use of a free value: after a full
training run (R542), after power-up without a fill (R513), after a reset that loses contents (R424). -/
opaque Config.freeLine : Nat → RawLine

/-- A register or field value that the spec leaves unstated, for the `n`-th use of a free value. -/
opaque Config.freeWord : Nat → Word

/-- A word of a route set of the boot store whose contents R731 does not give: set, router, and 0 for TRT_CFG or 1 + d for the
entry of destination d. -/
opaque Config.routeImage : Nat → Nat → Nat → Nat

end Sys2Proof
end

