-- ==== Sys2Proof/Syntax.lean ====
section
/-! DEFINITION. The commands the block takes: one constructor per row of spec/opcode_table.json, in the table's order.
The table gives no row any bits; the operands are what the rule of the row says comes from outside the block. -/
namespace Sys2Proof

/-- A request header flit (R161). `last` and `seq` are the LAST bit and the sequence number of its trailer (R149). -/
structure ReqHdr where
  opcode : Nat := 1
  tag : Nat := 0
  hint : Nat := 0
  nlines : Nat := 1
  poisonIn : Bool := false
  addr : Nat := 0
  itag : Nat := 0
  pasid : Nat := 0
  pasidV : Bool := false
  priv : Bool := false
  svcWr : Bool := false
  svcSize : Bool := false
  svcData : Nat := 0
  last : Bool := true
  /-- SEQ of the flit's trailer -/
  seq : Nat := 0
  deriving DecidableEq, Repr

/-- Who makes a register access: a request at a fabric port (R81), the service processor or the test port at the Crown port
(R103, R902), or Movement (R94, R126). -/
inductive Src where
  | fabric (port itag : Nat) (priv : Bool)
  | crown (tap : Bool)
  | movement
  deriving DecidableEq, Repr

/-- A DRAM location: physical channel, subchannel, rank field, bank group, bank, row, line index (R231, R301). -/
structure Loc where
  ch : Nat := 0
  sc : Nat := 0
  rk : Nat := 0
  bg : Nat := 0
  ba : Nat := 0
  row : Nat := 0
  col : Nat := 0
  deriving DecidableEq, Repr

/-- The shape by which the PHY classifies an ALERT_n assertion (R276, R278). -/
inductive AlertKind where
  | writeCrc
  | caParity
  /-- an activation-count back-off: the rank, how many RFMs the DRAM asks for, and within how many frames -/
  | backOff (rk n frames : Nat)
  | unclassified
  deriving DecidableEq, Repr

/-- How a sideband transaction ended (R297): data read (or written), no acknowledgement, a packet error. -/
inductive SbResult where
  | data (v : Word) | nack | pecErr
  deriving DecidableEq, Repr

/-- The DDR5 parameters of a channel's timing set that Movement reads from the SPD, each in whole tCK (R312, R407). -/
structure Timing where
  cl : Nat
  cwl : Nat
  rcd : Nat
  rp : Nat
  ras : Nat
  rtp : Nat
  wr : Nat
  rrdL : Nat
  faw : Nat
  ccdL : Nat
  ccdLWr : Nat
  wtrS : Nat
  wtrL : Nat
  rfc1 : Nat
  rfcsb : Nat
  rfm : Nat
  drfm : Nat
  deriving DecidableEq, Repr

/-- The debounced level of a channel's PRSNT_N (R952): high, or low with a DIMM seated; as it falls the supplies of the module are stable
or not (R956). -/
inductive Presence where
  | high
  | low (supplies : Bool)
  deriving DecidableEq, Repr

/-- The SPD contents of the DIMM in slot 1 of a channel with two DIMMs (R265, R270). -/
structure Dimm where
  moduleType : Nat := 1
  ranksM1 : Nat := 0
  x8 : Bool := false
  x16 : Bool := false
  dens : Nat := 0
  stack : Nat := 0
  mfr : Nat := 0
  part : Nat := 0
  serial : Nat := 0
  deriving DecidableEq, Repr

/-- The SPD contents of a channel as Movement reads them (R266, R270, R298, R312): the DIMM in slot 0, the ranks of the whole
channel, and the DIMM in slot 1 where there are two. -/
structure Spd where
  moduleType : Nat := 1
  dpc2 : Bool := false
  ranksM1 : Nat := 0
  x8 : Bool := false
  x16 : Bool := false
  dens : Nat := 0
  stack : Nat := 0
  maxBin : Nat := 6
  drfm : Bool := false
  prac : Bool := false
  refuse : Nat := 0
  mfr : Nat := 0
  part : Nat := 0
  serial : Nat := 0
  second : Dimm := {}
  /-- the timing parameters, where they differ from the reference set of the bin -/
  timing : Option Timing := none
  deriving DecidableEq, Repr

/-- What the PHY senses in a slot that carries a read burst, a lent burst or a mode-register read (R585, R586, R589, R300):
per lane the early and late edges and gate edges; the lanes whose monitor sampler differed from the training pattern and
those whose data sampler misread it; the oscillator counts; the values a mode-register read returns, by device (the last one
listed stands for every device after it). -/
structure Sense where
  early : List Nat := []
  late : List Nat := []
  gEarly : List Nat := []
  gLate : List Nat := []
  fail : Nat := 0
  bad : Nat := 0
  osc : List Nat := []
  mr : List Nat := []
  deriving DecidableEq, Repr

/-- What a PHY pair's comparator finds against CALREF (R590, R948): the resistor in units of 0.125 Ω, and the codes that bring
the pull-up, pull-down and termination legs to their settings. -/
structure CalMeas where
  meas : Nat := 1920
  pu : Nat := 0
  pd : Nat := 0
  term : Nat := 0
  deriving DecidableEq, Repr

/-- A range of sweep points at which every bit swept is free of errors over the first `clean` bursts of the training pattern
(R547), the 31-bit LFSR whose polynomial and seeds the spec does not give. -/
structure Span where
  lo : Nat := 0
  hi : Nat := 0
  clean : Nat := 256
  deriving DecidableEq, Repr

/-- What Caliper's sweeps of one step find for one lane of a rank, or for the CA group, in one attempt (R539 to R550, R553): the repeat
that it is; 5 where a CA parity alert was raised; the spans of each bit (of each CA signal) at Vref code 60; the spans of the whole lane
or group at each Vref code, for a CA point those without a parity error too; the window of a one-dimensional sweep that the training
feedback judges; in step FINAL the spans of the read width and height and of the write width and height; in step DQMAP the source, by DQ
number, of each bit received (none: in order); in step WLVL the RCD's output delay in tCK, and `window` counted from 1 UI before the
position of R544; in step DFE `rows` are those of the read and `wrRows` those of the write with the setting chosen. -/
structure Sweep where
  step : Nat := 0
  sc : Nat := 0
  rk : Nat := 0
  lane : Nat := 0
  tries : Nat := 0
  reason : Nat := 0
  bitSpans : List (List Span) := []
  rows : List (Nat × Span) := []
  window : Option (Nat × Nat) := none
  final : List (List Span) := []
  source : List Nat := []
  rcdDelay : Nat := 0
  wrRows : List (Nat × Span) := []
  deriving DecidableEq, Repr

/-- The platform configuration as Movement reads it from the boot store (R498): the bin named, or none for AUTO (R268); the
reserve (R18); values of registers by page number and offset (R198, R502, R615, R932); the shares of instance 0 by role (R824). -/
structure PlatCfg where
  bin : Option Bin := none
  reserve : Nat := 16
  regs : List (Nat × Nat × Word) := []
  shares : List Nat := []
  deriving DecidableEq, Repr

/-- What a start-up phase finds outside the block (R498): in phase 1 the images of the boot store as MVC_FW_VER_A and _B show them
and the platform configuration; in phase 2 what each PHY pair measures at its CALREF; in phase 3 each channel's SPD, where it can
be read, and the channels whose buses stayed in I2C mode. -/
structure PhaseIn where
  verA : Word := 0
  verB : Word := 0
  plat : PlatCfg := {}
  meas : List CalMeas := []
  spds : List (Option Spd) := []
  i2c : Nat := 0
  deriving DecidableEq, Repr

/-- The commands, in the order of spec/opcode_table.json. Units are numbered as the spec numbers them: gateways 0 to 15 (R713),
channels 0 to 16, subchannels A and B as 0 and 1, Lathe engines 0 and 1, routers by node (R713), count boxes by page (R87); `u` in
HOLD_RECEIVE, HELD_REQUEST_RELEASE and FENCED_SINK counts the gateways or channels first and the engines after them. A page is given
by its number: window offset / 4,096. -/
inductive Instr where
  -- the frame (chapters 01, 06)
  | escapementTick (ms : List CalMeas)
  | latchPoint (late : List (Nat × Nat))
  | decisionPoint (c : Fin 17) (sc : Fin 2) (z : Sense)
  -- control pages (chapter 02)
  | svcAccess (g : Fin 16) (h : ReqHdr)
  | crownPageAccess (tap : Bool) (addr : Nat) (wide wr : Bool) (data : BitVec 64)
  | registerWrite (src : Src) (addr : Nat) (wide : Bool) (data : BitVec 64)
  | rcRead (src : Src) (addr : Nat)
  | loReadLatch (src : Src) (addr : Nat)
  | pgCtlWrite (src : Src) (page : Nat) (v : Word)
  | escEnClear (src : Src)
  | escEnSet (src : Src)
  | intentAdoption (page : Nat)
  | pgIsetWrite (src : Src) (page : Nat) (v : Word)
  | commitGo (src : Src) (page : Nat)
  | commitCancel (src : Src) (page : Nat)
  | commitDiscard (src : Src) (page : Nat)
  | commitCheck (page : Nat)
  | interruptMessage
  | blkIntEoi (src : Src)
  | blkIntCfgWrite (src : Src) (v : Word)
  | mbGo (src : Src) (m : Fin 2)
  -- mailbox commands: Movement takes up the one whose turn it is (R136)
  | unknownCommand
  | frameSet
  | frameStatus
  | mapSet
  | reserveSet
  | tableSet
  | refreshSet
  | park
  | arbSet
  | train
  | calSet
  | scrubSet
  | burlSet
  | heatSet
  | routeSet
  | latheSetPool
  | latheSetAttach
  | latheSetDetach
  | latheSetEngine
  | insCreate
  | insDestroy
  | insReset
  | shareSet
  | freeze
  | thaw
  | save
  | restore
  | cntUserSet
  | takeover
  | rejoin
  | fwSwap (wrote : Bool)
  | chanTestLine (errs : Nat) (ranks : BitVec 8) (w0 w1 : Word)
  | chanTestLoopback (errs : Nat) (ranks : BitVec 8) (w0 w1 : Word)
  | intentGet
  -- the fabric ports (chapter 03)
  | lineRead (g : Fin 16) (h : ReqHdr)
  | multiRead (g : Fin 16) (h : ReqHdr)
  | lineWrite (g : Fin 16) (h : ReqHdr)
  | lineWriteData (g : Fin 16) (seq : Nat) (d : Line)
  | strayDataFlit (g : Fin 16) (seq : Nat) (d : Line)
  | missingWriteData (g : Fin 16) (h : ReqHdr)
  | linkCrcError (g : Fin 16)
  | ackReceived (g : Fin 16) (ack : Nat)
  | nakReceived (g : Fin 16) (ack : Nat)
  | rewindTimer (g : Fin 16)
  | replayTimeout (g : Fin 16)
  | idleAck (g : Fin 16)
  | phaseErr (g : Fin 16)
  | aliveFall (g : Fin 16)
  | aliveRise (g : Fin 16)
  | linkInit (g : Fin 16)
  | meshInit (g : Fin 16) (hdr data : Nat)
  | gwFlush (src : Src) (g : Fin 16)
  | tailDiscardEat (g : Fin 16) (seq : Nat) (d : Line)
  | tailDiscardHeader (g : Fin 16) (h : ReqHdr)
  | responseEgress (g : Fin 16)
  | retryCBounce (g : Fin 16)
  | setAsideRelease (g : Fin 16)
  -- the address map (chapter 04)
  | addrMapEpochSwitch (ms : List CalMeas)
  | mapXlate (src : Src) (pa : BitVec 52)
  -- the DRAM and its modules (chapter 05)
  | alertN (c : Fin 17) (sc : Fin 2) (k : AlertKind)
  | alertWindowClose (c : Fin 17) (sc : Fin 2)
  | mr4Read (c : Fin 17) (sc : Fin 2) (asks : Nat)
  | ecsRead (c : Fin 17) (sc : Fin 2) (count dev bg ba row : Nat)
  | mrCmdGo (src : Src) (c : Fin 17) (v : Word)
  | i3cCmdGo (src : Src) (c : Fin 17) (v : Word)
  | sidebandTransactionDone (c : Fin 17) (r : SbResult)
  | sidebandPoll (c : Fin 17) (phy : BitVec 8)
  | inBandInterrupt (c : Fin 17) (hid dtype : Nat)
  | sidebandTimeout (c : Fin 17)
  | prsntChange (c : Fin 17) (level : Presence)
  -- subchannels (chapters 06 to 08)
  | channelEnqueue (c : Fin 17)
  | crownAccessEnqueue
  | readDecode (c : Fin 17) (sc : Fin 2) (err : RawLine)
  | emergencyCommand (c : Fin 17) (sc : Fin 2)
  | selfRefreshEntry (c : Fin 17) (ms : List CalMeas)
  | selfRefreshExitDone (c : Fin 17)
  | parkEntry (c : Fin 17) (ms : List CalMeas)
  -- inlet arbitration (chapter 09)
  | arbiterRound (c : Fin 17)
  | backoffEnd (c : Fin 17) (i : Fin 20)
  | urgency3 (c : Fin 17) (i : Fin 20)
  | crownEmerg
  -- start-up and power (chapter 11)
  | blockResetRelease
  | startPhaseComplete (x : PhaseIn)
  | bclkLock
  | bclkLockTimeout
  | warmReset
  | fastRestoreDone (c : Fin 17) (pass : Bool)
  | zeroFillDone (c : Fin 17)
  | chRst (src : Src) (mask : BitVec 17)
  | mvcRestart (src : Src) (crc : Bool)
  | cntClr (src : Src)
  | lockstepDisagreement (crc : Bool)
  | thermUpd (headroom tj : BitVec 8)
  | headroomStale
  | rebuildRateEval (ms : List CalMeas)
  -- Caliper (chapter 12)
  | caliperRunStart (c : Fin 17) (spd : Spd)
  | caliperRefab (c : Fin 17) (step rk progress : Nat)
  | calStepTimeout (c : Fin 17) (again : Bool)
  | caliperRunEnd (c : Fin 17) (ws : List Sweep)
  | jewelRecordWrite (bad1 bad2 : Nat)
  -- Balance (chapter 13)
  | balanceRunStart (c : Fin 17) (ms : List CalMeas)
  | compatStopEnd (c : Fin 17) (sc : Fin 2) (grid osc : List Nat)
  -- errors and the Burl table (chapters 14, 15)
  | scrubCredit (c : Fin 17)
  | holdReceive (u : Fin 18)
  | heldRequestRelease (u : Fin 18)
  | burlWindowRollover (c : Fin 17) (sc : Fin 2) (ms : List CalMeas)
  | heatIntervalEnd (c : Fin 17) (ms : List CalMeas)
  | heatPublish (ms : List CalMeas)
  | brlIdxWrite (src : Src) (c : Fin 17) (v : Word)
  -- the torus (chapter 16)
  | routeEpochSwitch (ms : List CalMeas)
  | torusFlitCrcError (n : Fin 36) (p : Fin 4) (again : Bool)
  | creditTimeout (n : Fin 36) (p : Fin 4)
  | lossSwitchGo
  | clear (n : Fin 36)
  | clearAll
  | clearAllAnswer (ms : List CalMeas)
  | fenceEffect (c : Fin 17) (ms : List CalMeas)
  | fencedSink (u : Fin 19)
  -- Lathe (chapter 17)
  | insDoorbell (src : Src) (i : Fin 4096) (v : BitVec 64)
  | doorbellRestart (e : Fin 2)
  | doorbellArrival (e : Fin 2)
  | ringAttach (src : Src) (r : BitVec 18)
  | ringDetach (src : Src) (r : BitVec 18)
  | ringFlush (src : Src) (r : BitVec 18)
  | latheLineIssue (e : Fin 2)
  | descriptorFetchReturn (e : Fin 2)
  | latheLineResponse (e : Fin 2)
  | offlineReissue (e : Fin 2)
  | completionForm (r : BitVec 18)
  | handoverDone (e : Fin 2)
  | enginePowerUp (e : Fin 2)
  -- instances (chapter 18)
  | resetDone (i : Fin 4096)
  | quiesced (i : Fin 4096)
  | instanceFree (i : Fin 4096) (ms : List CalMeas)
  | instanceIntMessage (i : Fin 4096)
  -- keeping the memory up (chapter 19)
  | takeoverStart (c : Fin 17)
  | copyLine
  | poisonMode
  | takeoverPower
  | fwRestart (ms : List CalMeas)
  | fwHeartbeatTimeout
  | crnInjGo (tap : Bool) (v : Word)
  | injDone
  -- count boxes (chapter 20)
  | snap (src : Src) (b : Fin 72)
  | quadClr (src : Src) (b : Fin 72)
  | cntSnapClr (src : Src) (b : Fin 72)
  | cntValWrite (src : Src) (b : Fin 72) (n : Fin 8) (v : BitVec 48)
  | cntCtlWrite (src : Src) (b : Fin 72) (v : Word)
  | sampleWindowEnd (b : Fin 72)
  -- rows of several chapters
  | meshCreditReturn (g : Fin 16) (hdr data : Nat)
  | fwSwapped
  | powerFailure (code : Nat)
  | crownTestPortClaim (on : Bool)
  | serviceProcessorLink (up : Bool)
  deriving DecidableEq, Repr

end Sys2Proof
end

