-- ==== Sys2Proof/WellFormed.lean ====
section
/-! DEFINITION. Well-formed commands: operands within the widths of the fields they stand for. A meaning takes an operand beyond its
field's width as what the field would hold. -/
namespace Sys2Proof

/-- A header's fields have the widths of R161, and its SEQ that of R149. -/
def wfHdr (h : ReqHdr) : Bool :=
  decide (h.opcode < 16) && decide (h.tag < 512) && decide (h.hint < 4) && decide (h.nlines < 8) && decide (h.addr < 2 ^ 52) &&
  decide (h.itag < 4096) && decide (h.pasid < 2 ^ 20) && decide (h.svcData < 2 ^ 64) && decide (h.seq < 4096)

/-- A source names one of 16 ports and an ITAG of 12 bits (R161). -/
def wfSrc : Src → Bool
  | .fabric p i _ => decide (p < 16) && decide (i < 4096)
  | .crown _ => true
  | .movement => true

/-- What a slot's sensing gives: at most 10 lanes, masks and counts of their widths (R585, R589). -/
def wfSense (z : Sense) : Bool :=
  [z.early, z.late, z.gEarly, z.gLate, z.osc].all (fun l => decide (l.length ≤ 10)) && decide (z.fail < 2 ^ 10) &&
  decide (z.bad < 2 ^ 10) && decide (z.mr.length ≤ 10) && (z.mr.all fun n => decide (n < 256)) && z.osc.all fun n => decide (n < 2 ^ 16)

/-- An alert's back-off names a rank field (R276). -/
def wfAlert : AlertKind → Bool
  | .backOff rk _ _ => decide (rk < 8)
  | .writeCrc => true
  | .caParity => true
  | .unclassified => true

/-- An SPD's fields have the widths of CC_MODULE_ID (R298). -/
def wfSpd (d : Spd) : Bool := decide (d.ranksM1 < 4) && decide (d.maxBin ≤ 6) && decide (d.refuse < 16) &&
  decide (d.moduleType < 4) && decide (d.second.moduleType < 4) && decide (d.second.ranksM1 < 4)

/-- A sweep names a subchannel, a rank field and a lane (R569). -/
def wfSweep (w : Sweep) : Bool := decide (w.sc < 2) && decide (w.rk < 8) && decide (w.lane < 16) && decide (w.step < 16)

/-- A command is well formed. -/
def wf : Instr → Bool
  | .escapementTick ms => decide (ms.length ≤ 9)
  | .latchPoint late => late.all fun x => decide (x.1 < 7) && (decide (x.2 < 17) || x.2 == 255)
  | .decisionPoint _ _ z => wfSense z
  | .svcAccess _ h => wfHdr h && h.opcode == 4
  | .crownPageAccess _ addr _ _ _ => decide (addr < 2 ^ 25)
  | .registerWrite src addr _ _ => wfSrc src && decide (addr < 2 ^ 25)
  | .rcRead src addr => wfSrc src && decide (addr < 2 ^ 25)
  | .loReadLatch src addr => wfSrc src && decide (addr < 2 ^ 25)
  | .pgCtlWrite src page _ => wfSrc src && decide (page < 2 ^ 13)
  | .escEnClear src => wfSrc src
  | .escEnSet src => wfSrc src
  | .intentAdoption page => decide (page < 2 ^ 13)
  | .pgIsetWrite src page _ => wfSrc src && decide (page < 2 ^ 13)
  | .commitGo src page => wfSrc src && decide (page < 2 ^ 13)
  | .commitCancel src page => wfSrc src && decide (page < 2 ^ 13)
  | .commitDiscard src page => wfSrc src && decide (page < 2 ^ 13)
  | .commitCheck page => decide (page < 2 ^ 13)
  | .interruptMessage => true
  | .blkIntEoi src => wfSrc src
  | .blkIntCfgWrite src _ => wfSrc src
  | .mbGo src _ => wfSrc src
  | .unknownCommand => true
  | .frameSet => true
  | .frameStatus => true
  | .mapSet => true
  | .reserveSet => true
  | .tableSet => true
  | .refreshSet => true
  | .park => true
  | .arbSet => true
  | .train => true
  | .calSet => true
  | .scrubSet => true
  | .burlSet => true
  | .heatSet => true
  | .routeSet => true
  | .latheSetPool => true
  | .latheSetAttach => true
  | .latheSetDetach => true
  | .latheSetEngine => true
  | .insCreate => true
  | .insDestroy => true
  | .insReset => true
  | .shareSet => true
  | .freeze => true
  | .thaw => true
  | .save => true
  | .restore => true
  | .cntUserSet => true
  | .takeover => true
  | .rejoin => true
  | .fwSwap _ => true
  | .chanTestLine errs _ _ _ => decide (errs < 2 ^ 32)
  | .chanTestLoopback errs _ _ _ => decide (errs < 2 ^ 32)
  | .intentGet => true
  | .lineRead _ h => wfHdr h && !(decide (2 ≤ h.opcode) && decide (h.opcode ≤ 4))
  | .multiRead _ h => wfHdr h && h.opcode == 2
  | .lineWrite _ h => wfHdr h && h.opcode == 3
  | .lineWriteData _ seq _ => decide (seq < 4096)
  | .strayDataFlit _ seq _ => decide (seq < 4096)
  | .missingWriteData _ h => wfHdr h
  | .linkCrcError _ => true
  | .ackReceived _ ack => decide (ack < 4096)
  | .nakReceived _ ack => decide (ack < 4096)
  | .rewindTimer _ => true
  | .replayTimeout _ => true
  | .idleAck _ => true
  | .phaseErr _ => true
  | .aliveFall _ => true
  | .aliveRise _ => true
  | .linkInit _ => true
  | .meshInit _ hdr data => decide (hdr < 256) && decide (data < 256)
  | .gwFlush src _ => wfSrc src
  | .tailDiscardEat _ seq _ => decide (seq < 4096)
  | .tailDiscardHeader _ h => wfHdr h
  | .responseEgress _ => true
  | .retryCBounce _ => true
  | .setAsideRelease _ => true
  | .addrMapEpochSwitch ms => decide (ms.length ≤ 9)
  | .mapXlate src _ => wfSrc src
  | .alertN _ _ k => wfAlert k
  | .alertWindowClose _ _ => true
  | .mr4Read _ _ asks => decide (1 ≤ asks) && decide (asks ≤ 3)
  | .ecsRead _ _ count dev bg ba row => decide (dev < 10) && decide (bg < 8) && decide (ba < 4) && decide (row < 2 ^ 18) && decide (count < 2 ^ 16)
  | .mrCmdGo src _ _ => wfSrc src
  | .i3cCmdGo src _ _ => wfSrc src
  | .sidebandTransactionDone _ _ => true
  | .sidebandPoll _ _ => true
  | .inBandInterrupt _ hid dtype => decide (hid < 8) && decide (dtype < 16)
  | .sidebandTimeout _ => true
  | .prsntChange _ _ => true
  | .channelEnqueue _ => true
  | .crownAccessEnqueue => true
  | .readDecode _ _ _ => true
  | .emergencyCommand _ _ => true
  | .selfRefreshEntry _ ms => decide (ms.length ≤ 9)
  | .selfRefreshExitDone _ => true
  | .parkEntry _ ms => decide (ms.length ≤ 9)
  | .arbiterRound _ => true
  | .backoffEnd _ _ => true
  | .urgency3 _ _ => true
  | .crownEmerg => true
  | .blockResetRelease => true
  | .startPhaseComplete x => decide (x.meas.length ≤ 9) && decide (x.spds.length ≤ 17) && x.spds.all (fun d => d.all wfSpd) && decide (x.i2c < 2 ^ 17)
  | .bclkLock => true
  | .bclkLockTimeout => true
  | .warmReset => true
  | .fastRestoreDone _ _ => true
  | .zeroFillDone _ => true
  | .chRst src _ => wfSrc src
  | .mvcRestart src _ => wfSrc src
  | .cntClr src => wfSrc src
  | .lockstepDisagreement _ => true
  | .thermUpd _ _ => true
  | .headroomStale => true
  | .rebuildRateEval ms => decide (ms.length ≤ 9)
  | .caliperRunStart _ spd => wfSpd spd
  | .caliperRefab _ step rk _ => decide (step < 16) && decide (rk < 8)
  | .calStepTimeout _ _ => true
  | .caliperRunEnd _ ws => ws.all wfSweep
  | .jewelRecordWrite bad1 bad2 => decide (bad1 < 8) && decide (bad2 < 8)
  | .balanceRunStart _ ms => decide (ms.length ≤ 9)
  | .compatStopEnd _ _ grid osc => decide (grid.length ≤ 10) && grid.all (fun m => decide (m < 2 ^ 25)) && decide (osc.length ≤ 10) && osc.all (fun n => decide (n < 2 ^ 16))
  | .scrubCredit _ => true
  | .holdReceive _ => true
  | .heldRequestRelease _ => true
  | .burlWindowRollover _ _ ms => decide (ms.length ≤ 9)
  | .heatIntervalEnd _ ms => decide (ms.length ≤ 9)
  | .heatPublish ms => decide (ms.length ≤ 9)
  | .brlIdxWrite src _ _ => wfSrc src
  | .routeEpochSwitch ms => decide (ms.length ≤ 9)
  | .torusFlitCrcError _ _ _ => true
  | .creditTimeout _ _ => true
  | .lossSwitchGo => true
  | .clear _ => true
  | .clearAll => true
  | .clearAllAnswer ms => decide (ms.length ≤ 9)
  | .fenceEffect _ ms => decide (ms.length ≤ 9)
  | .fencedSink _ => true
  | .insDoorbell src _ _ => wfSrc src
  | .doorbellRestart _ => true
  | .doorbellArrival _ => true
  | .ringAttach src _ => wfSrc src
  | .ringDetach src _ => wfSrc src
  | .ringFlush src _ => wfSrc src
  | .latheLineIssue _ => true
  | .descriptorFetchReturn _ => true
  | .latheLineResponse _ => true
  | .offlineReissue _ => true
  | .completionForm _ => true
  | .handoverDone _ => true
  | .enginePowerUp _ => true
  | .resetDone _ => true
  | .quiesced _ => true
  | .instanceFree _ ms => decide (ms.length ≤ 9)
  | .instanceIntMessage _ => true
  | .takeoverStart _ => true
  | .copyLine => true
  | .poisonMode => true
  | .takeoverPower => true
  | .fwRestart ms => decide (ms.length ≤ 9)
  | .fwHeartbeatTimeout => true
  | .crnInjGo _ _ => true
  | .injDone => true
  | .snap src _ => wfSrc src
  | .quadClr src _ => wfSrc src
  | .cntSnapClr src _ => wfSrc src
  | .cntValWrite src _ _ _ => wfSrc src
  | .cntCtlWrite src _ _ => wfSrc src
  | .sampleWindowEnd _ => true
  | .meshCreditReturn _ hdr data => decide (hdr < 8) && decide (data < 8)
  | .fwSwapped => true
  | .powerFailure code => decide (code < 8)
  | .crownTestPortClaim _ => true
  | .serviceProcessorLink _ => true

end Sys2Proof
end

