-- ==== Sys2Proof/Machine/Table.lean ====
section
/-! DEFINITION. Sparse tables in one canonical form, and the bit-field helpers every family uses.
A table lists (key, value) pairs with keys strictly rising and no value equal to the default of its key, so equal
tables are equal lists; an unlisted key reads as its default. -/
namespace Sys2Proof.Machine

/-- A sparse table: pairs of key and value, keys strictly rising. -/
abbrev Tbl (α : Type) := List (Nat × α)

namespace Tbl
variable {α : Type}

/-- The value at a key; `d` gives what an unlisted key reads as. -/
def get (d : Nat → α) : Tbl α → Nat → α
  | [], n => d n
  | (k, v) :: t, n => if n = k then v else get d t n

/-- An entry in its place among keys that rise. -/
def put : Tbl α → Nat → α → Tbl α
  | [], n, v => [(n, v)]
  | (k, w) :: t, n, v => if n < k then (n, v) :: (k, w) :: t else if n = k then (n, v) :: t else (k, w) :: put t n v

/-- Writing a key keeps the canonical form: writing the default removes the entry. -/
def set [DecidableEq α] (d : Nat → α) (t : Tbl α) (n : Nat) (v : α) : Tbl α :=
  if v = d n then t.filter fun e => e.1 != n else put t n v

/-- Applying a function to the value at a key. -/
def upd [DecidableEq α] (d : Nat → α) (t : Tbl α) (n : Nat) (f : α → α) : Tbl α := set d t n (f (get d t n))

/-- All keys of the table lie above `n`. -/
def above (n : Nat) : Tbl α → Bool
  | [] => true
  | (k, _) :: _ => n < k

/-- The canonical form: keys strictly rising, no entry equal to the default of its key. -/
def wf [DecidableEq α] (d : Nat → α) : Tbl α → Bool
  | [] => true
  | (k, v) :: t => decide (v ≠ d k) && above k t && wf d t

/-- Removing every entry whose key the test selects (those keys then read as their default). -/
def drop (p : Nat → Bool) (t : Tbl α) : Tbl α := t.filter fun e => !p e.1

end Tbl

/-- The `n` bits of `w` from bit `lo` up, as a number. -/
def bits (w lo n : Nat) : Nat := (w >>> lo) % 2 ^ n

/-- The `n` bits of a register from bit `lo` up. -/
def fld (w : Word) (lo n : Nat) : Nat := bits w.toNat lo n

/-- One bit of a register. -/
def flag (w : Word) (i : Nat) : Bool := w.toNat.testBit i

/-- A Bool as a bit. -/
def b2n (b : Bool) : Nat := if b then 1 else 0

/-- A register composed of fields: (lowest bit, width, value), the value cut to the width. -/
def packNat : List (Nat × Nat × Nat) → Nat
  | [] => 0
  | (lo, n, v) :: t => ((v % 2 ^ n) <<< lo) ||| packNat t

/-- A register word composed of fields. -/
def pack (fs : List (Nat × Nat × Nat)) : Word := BitVec.ofNat 32 (packNat fs)

/-- A word with the `n` bits from `lo` replaced by `v`. -/
def setFld (w : Word) (lo n v : Nat) : Word :=
  BitVec.ofNat 32 ((w.toNat - ((bits w.toNat lo n) <<< lo)) + ((v % 2 ^ n) <<< lo))

/-- Setting bits of a status word. -/
def setBit (w : Word) (i : Nat) : Word := w ||| BitVec.ofNat 32 (1 <<< i)

/-- A counter that saturates at `top`. -/
def satAdd (top c n : Nat) : Nat := min top (c + n)

/-- A counter of `w` bits that wraps. -/
def wrapAdd (w c n : Nat) : Nat := (c + n) % 2 ^ w

/-- The parity of the bits of a number: the XOR of its low `n` bits. -/
def parity : Nat → Nat → Bool
  | 0, _ => false
  | n + 1, x => xor (x.testBit n) (parity n x)

/-- How many of the low `n` bits of a number are 1. -/
def popcount : Nat → Nat → Nat
  | 0, _ => 0
  | n + 1, x => b2n (x.testBit n) + popcount n x

/-- The numbers from `a` up to, not including, `a + n`. -/
def rangeFrom (a : Nat) : Nat → List Nat
  | 0 => []
  | n + 1 => a :: rangeFrom (a + 1) n

/-- The position of the `v`-th lowest 1 among bits `[p, p + n)` of `x`, counting from 0. -/
def nthOne (x : Nat) : Nat → Nat → Nat → Option Nat
  | 0, _, _ => none
  | n + 1, p, v => if x.testBit p then (if v = 0 then some p else nthOne x n (p + 1) (v - 1)) else nthOne x n (p + 1) v

/-- `log2` of a power of two among 1, 2, 4, 8, 16; none for any other number. -/
def log2exact (n : Nat) : Option Nat :=
  if n = 1 then some 0 else if n = 2 then some 1 else if n = 4 then some 2 else if n = 8 then some 3
  else if n = 16 then some 4 else none

/-- Replaces the first element that the test selects. -/
def replaceFirst {α : Type} (p : α → Bool) (f : α → α) : List α → List α
  | [] => []
  | a :: t => if p a then f a :: t else a :: replaceFirst p f t

/-- Removes the first element that the test selects. -/
def eraseFirst {α : Type} (p : α → Bool) : List α → List α
  | [] => []
  | a :: t => if p a then t else a :: eraseFirst p t

/-- The ceiling of a quotient. -/
def ceilDiv (a b : Nat) : Nat := (a + b - 1) / b

end Sys2Proof.Machine
end

