-- ==== Sys2Proof/Machine/Regs.lean ====
section
/-! DEFINITION. The window map (R87), the registers each page carries (R142, R66) with their access types, fields, reset
values and ranges, and the placement of units on the torus (R713). -/
namespace Sys2Proof.Machine

/-- The pages of the window (R87). -/
inductive PageId where
  | blk | map | esc | mvc | jwl | crn
  | gw (g : Nat) | gwAdm (g : Nat) | cnt (box : Nat)
  | cc (c : Nat) | slt (c s : Nat) | phy (c : Nat) | cal (c : Nat) | bal (c : Nat) | brl (c : Nat) | brlHeat (c : Nat)
  | elog (c : Nat) | elog2 (c : Nat)
  | trt (n : Nat) | lth (e : Nat) | lthPool | ins (i : Nat)
  deriving DecidableEq, Repr

/-- The page at a page number (window offset / 4,096), if the window map has one there (R87). -/
def pageOf (n : Nat) : Option PageId :=
  if n = 0 then some .blk else if n = 1 then some .map else if n = 2 then some .esc else if n = 3 then some .mvc
  else if n = 4 then some .jwl else if n = 5 then some .crn else if n = 6 then some (.cnt 71)
  else if 0x10 ≤ n ∧ n < 0x50 then
    let g := (n - 0x10) / 4
    match (n - 0x10) % 4 with
    | 0 => some (.gw g) | 1 => some (.gwAdm g) | 2 => some (.cnt (17 + g)) | _ => none
  else if 0x100 ≤ n ∧ n < 0x100 + 0x20 * 17 then
    let c := (n - 0x100) / 0x20
    match (n - 0x100) % 0x20 with
    | 0 => some (.cc c) | 1 => some (.slt c 0) | 2 => some (.slt c 1) | 3 => some (.phy c) | 4 => some (.cal c)
    | 5 => some (.bal c) | 6 => some (.brl c) | 7 => some (.brlHeat c) | 8 => some (.elog c) | 9 => some (.elog2 c)
    | 10 => some (.cnt c) | _ => none
  else if 0x400 ≤ n ∧ n < 0x424 then some (.trt (n - 0x400))
  else if 0x440 ≤ n ∧ n < 0x464 then some (.cnt (35 + (n - 0x440)))
  else if n = 0x500 then some (.lth 0) else if n = 0x501 then some .lthPool else if n = 0x502 then some (.cnt 33)
  else if n = 0x510 then some (.lth 1) else if n = 0x512 then some (.cnt 34)
  else if 0x1000 ≤ n ∧ n < 0x2000 then some (.ins (n - 0x1000))
  else none

namespace PageId

/-- The page number of a page (R87). -/
def num : PageId → Nat
  | blk => 0 | map => 1 | esc => 2 | mvc => 3 | jwl => 4 | crn => 5
  | gw g => 0x10 + 4 * g | gwAdm g => 0x11 + 4 * g
  | cnt b => if b < 17 then 0x10A + 0x20 * b else if b < 33 then 0x12 + 4 * (b - 17)
             else if b < 35 then 0x502 + 0x10 * (b - 33) else if b < 71 then 0x440 + (b - 35) else 6
  | cc c => 0x100 + 0x20 * c | slt c s => 0x101 + 0x20 * c + s | phy c => 0x103 + 0x20 * c
  | cal c => 0x104 + 0x20 * c | bal c => 0x105 + 0x20 * c | brl c => 0x106 + 0x20 * c
  | brlHeat c => 0x107 + 0x20 * c | elog c => 0x108 + 0x20 * c | elog2 c => 0x109 + 0x20 * c
  | trt n => 0x400 + n | lth e => 0x500 + 0x10 * e | lthPool => 0x501 | ins i => 0x1000 + i

/-- The type code of PG_ID (R87). -/
def typeCode : PageId → Nat
  | blk => 0x01 | map => 0x01 | esc => 0x02 | mvc => 0x03 | jwl => 0x04 | crn => 0x05 | gw _ => 0x10 | gwAdm _ => 0x10
  | cnt _ => 0x30 | cc _ => 0x20 | slt _ _ => 0x21 | phy _ => 0x22 | cal _ => 0x23 | bal _ => 0x24 | brl _ => 0x25
  | brlHeat _ => 0x25 | elog _ => 0x26 | elog2 _ => 0x26 | trt _ => 0x40 | lth _ => 0x50 | lthPool => 0x50
  | ins _ => 0x60

/-- The unit number of PG_ID (R87, R88). -/
def unit : PageId → Nat
  | blk => 0 | map => 1 | esc => 0 | mvc => 0 | jwl => 0 | crn => 0 | gw g => 0x100 * g | gwAdm g => 0x100 * g + 1
  | cnt b => b | cc c => 0x100 * c | slt c s => 0x100 * c + 1 + s | phy c => 0x100 * c + 3 | cal c => 0x100 * c + 4
  | bal c => 0x100 * c + 5 | brl c => 0x100 * c + 6 | brlHeat c => 0x100 * c + 7 | elog c => 0x100 * c + 8
  | elog2 c => 0x100 * c + 9 | trt n => 0x100 * n | lth e => 0x100 * e | lthPool => 1 | ins i => i

/-- PG_CAP.EXPERT_OK (R91). -/
def expertOk : PageId → Bool
  | mvc => false | crn => false | ins _ => false | _ => true

/-- PG_CAP.USER_OK (R91). -/
def userOk : PageId → Bool
  | cnt _ => true | ins _ => true | _ => false

/-- The channel whose page it is. -/
def chan : PageId → Option Nat
  | cc c => some c | slt c _ => some c | phy c => some c | cal c => some c | bal c => some c | brl c => some c
  | brlHeat c => some c | elog c => some c | elog2 c => some c | _ => none

/-- The PG_ISR bits the page defines (R76, R116, R214, R215, R261, R343, R395, R432 and the owning chapters). -/
def isrMask : PageId → Nat
  | blk => 0x1F | map => 0x3 | esc => 0x1F | mvc => 0x3 | jwl => 0x7 | crn => 0x1 | gw _ => 0x1F | gwAdm _ => 0x1F
  | cnt _ => 0x7FF | cc _ => 0x1FFF | slt _ _ => 0xFF | phy _ => 0 | cal _ => 0x7 | bal _ => 0x1F | brl _ => 0x7
  | brlHeat _ => 0x3 | elog _ => 0x7F | elog2 _ => 0 | trt _ => 0x3F | lth _ => 0x1F | lthPool => 0x1 | ins _ => 0x3F

end PageId

/-- The node of a unit's router, n = 6y + x (R713). -/
def nodeGw (g : Nat) : Nat :=
  if g < 6 then 6 + g else if g < 12 then 18 + (g - 6) else 30 + (g - 12)

/-- The node of a channel (R713). -/
def nodeCh (c : Nat) : Nat :=
  if c < 6 then c else if c < 12 then 12 + (c - 6) else 24 + (c - 12)

/-- The node of a Lathe engine (R713). -/
def nodeLe (e : Nat) : Nat := if e = 0 then 29 else 35

/-- The service node (R713). -/
def nodeSvc : Nat := 34

/-- The router joined to port `p` of router `n` (R717); ports 4 and 5 join units. -/
def neighbour (n p : Nat) : Nat :=
  let x := n % 6
  let y := n / 6
  if p = 0 then 6 * y + (x + 1) % 6 else if p = 1 then 6 * y + (x + 5) % 6
  else if p = 2 then 6 * ((y + 1) % 6) + x else if p = 3 then 6 * ((y + 5) % 6) + x else n

/-- The entry of the XY table at router `n` for destination `d`: x the shorter way round, + at distance 3, then y
(R730); 4 at the destination. -/
def xyPort (n d : Nat) : Nat :=
  let dx := (d % 6 + 6 - n % 6) % 6
  let dy := (d / 6 + 6 - n / 6) % 6
  if dx ≠ 0 then (if dx ≤ 3 then 0 else 1) else if dy ≠ 0 then (if dy ≤ 3 then 2 else 3) else 4

/-- The YX table: the same rules with y first (R731). -/
def yxPort (n d : Nat) : Nat :=
  let dx := (d % 6 + 6 - n % 6) % 6
  let dy := (d / 6 + 6 - n / 6) % 6
  if dy ≠ 0 then (if dy ≤ 3 then 2 else 3) else if dx ≠ 0 then (if dx ≤ 3 then 0 else 1) else 4

/-- The access types of R97. -/
inductive Acc where
  | ro | rs | rw | wo | w1s | rc
  deriving DecidableEq, Repr

/-- A writable field: lowest bit, width, reset value, range, and whether zero is refused by rule ZERO (R140). -/
structure Fld where
  lo : Nat
  w : Nat
  reset : Nat := 0
  min : Nat := 0
  max : Nat := 0xFFFFFFFF
  zero : Bool := false
  deriving DecidableEq, Repr

/-- A register or a row of like registers of a page. -/
structure RegRow where
  off : Nat
  acc : Acc
  flds : List Fld := []
  stride : Nat := 4
  count : Nat := 1
  deriving DecidableEq, Repr

/-- The function registers of a page (R66, R142) with the fields of their owning chapters. -/
def regRows : PageId → List RegRow
  | .blk => [
      ⟨0x040, .rs, [⟨0, 1, 1, 0, 1, false⟩, ⟨1, 1, 1, 0, 1, false⟩], 4, 1⟩,                        -- BLK_CFG R525
      ⟨0x044, .w1s, [], 4, 1⟩,                                                                    -- BLK_RESET R526
      ⟨0x048, .rs, [⟨0, 5, 4, 1, 17, true⟩, ⟨5, 7, 24, 1, 102, true⟩], 4, 1⟩,                      -- BLK_PWR_CFG R527
      ⟨0x04C, .ro, [], 4, 3⟩,                                            -- BLK_THERM R528, BLK_INT_SUM_LO, _HI R114
      ⟨0x058, .rw, [], 4, 4⟩,                                            -- BLK_INT_ADDR, _DATA, _CFG R117 to R119
      ⟨0x068, .w1s, [], 4, 1⟩,                                                                    -- BLK_INT_EOI R120
      ⟨0x070, .rc, [], 4, 1⟩, ⟨0x074, .ro, [], 4, 1⟩, ⟨0x078, .rc, [], 4, 1⟩,                      -- R121 to R123
      ⟨0x100, .rw, [], 4, 20⟩, ⟨0x180, .rw, [], 4, 20⟩]                                           -- MB0, MB1 R134
  | .map => [
      ⟨0x040, .rs, [⟨30, 2, 0, 0, 3, false⟩], 8, 16⟩,                                   -- MAP_SETn_BASE_LO, LIMIT_LO R251
      ⟨0x044, .rs, [⟨0, 20, 0, 0, 0xFFFFF, false⟩], 8, 16⟩,                             -- MAP_SETn_BASE_HI, LIMIT_HI R251
      ⟨0x0C0, .rs, [⟨0, 16, 0, 0, 0xFFFF, false⟩, ⟨16, 4, 0, 0, 12, false⟩, ⟨20, 1, 0, 0, 1, false⟩], 4, 8⟩,  -- R252
      ⟨0x100, .rs, [⟨0, 32, 0, 0, 0xFFFFFFFF, false⟩], 8, 96⟩,                          -- MAP_MASK_LO R253
      ⟨0x104, .rs, [⟨0, 20, 0, 0, 0xFFFFF, false⟩], 8, 96⟩,                             -- MAP_MASK_HI R253
      ⟨0x400, .rs, [⟨0, 4, 0, 6, 7, true⟩, ⟨4, 5, 0, 16, 20, true⟩, ⟨9, 2, 0, 0, 2, false⟩, ⟨11, 2, 0, 0, 2, false⟩,
        ⟨13, 1, 0, 0, 1, false⟩], 4, 1⟩,                                                -- MAP_ROWCOL R254
      ⟨0x408, .rs, [⟨0, 1, 0, 0, 1, false⟩, ⟨1, 4, 0, 0, 8, false⟩, ⟨30, 2, 0, 0, 3, false⟩], 4, 1⟩,  -- MAP_RESERVE_LO R255
      ⟨0x40C, .rs, [⟨0, 20, 0, 0, 0xFFFFF, false⟩], 4, 1⟩,                              -- MAP_RESERVE_HI R255
      ⟨0x410, .ro, [], 4, 2⟩, ⟨0x418, .wo, [], 4, 2⟩, ⟨0x420, .ro, [], 4, 1⟩]
  | .esc => [
      ⟨0x040, .ro, [], 4, 4⟩,
      ⟨0x050, .rs, [⟨0, 9, 195, 32, 256, true⟩], 4, 1⟩,                                 -- ESC_FRAME_CFG R69
      ⟨0x054, .ro, [], 4, 5⟩,
      ⟨0x068, .rs, [⟨0, 16, 0, 0, 0xFFFF, false⟩], 4, 1⟩,                               -- ESC_TICK_EVT R72
      ⟨0x06C, .rs, [⟨0, 8, 16, 0, 0xFF, false⟩], 4, 1⟩,                                 -- ESC_OVR_CTL R73
      ⟨0x070, .ro, [], 4, 2⟩, ⟨0x080, .ro, [], 4, 7⟩, ⟨0x09C, .w1s, [], 4, 1⟩]
  | .mvc => [⟨0x040, .ro, [], 4, 7⟩]
  | .jwl => [
      ⟨0x040, .rs, [⟨0, 11, 60, 0, 1440, false⟩, ⟨11, 1, 0, 0, 1, false⟩], 4, 1⟩,        -- JWL_CTL R623
      ⟨0x044, .ro, [], 4, 1⟩,
      ⟨0x048, .rw, [⟨0, 5, 0, 0, 31, false⟩, ⟨5, 1, 0, 0, 1, false⟩], 4, 1⟩,             -- JWL_REC_SEL R625
      ⟨0x04C, .ro, [], 4, 4⟩]
  | .crn => [
      ⟨0x040, .rw, [⟨0, 1, 1, 0, 1, false⟩], 4, 1⟩,                                      -- CRN_CTL R902
      ⟨0x044, .ro, [], 4, 1⟩,
      ⟨0x048, .rw, [⟨0, 32, 0, 0, 0xFFFFFFFF, false⟩], 4, 1⟩,                            -- CRN_INJ_ADDR_LO R903
      ⟨0x04C, .rw, [⟨0, 20, 0, 0, 0xFFFFF, false⟩], 4, 1⟩,                               -- CRN_INJ_ADDR_HI R903
      ⟨0x050, .wo, [], 4, 1⟩, ⟨0x054, .ro, [], 4, 2⟩,
      ⟨0x100, .rw, [⟨0, 32, 0, 0, 0xFFFFFFFF, false⟩], 4, 16⟩]                           -- CRN_INJ_DATA
  | .gw _ => [
      ⟨0x040, .rs, [⟨0, 2, 1, 1, 2, false⟩, ⟨2, 1, 1, 0, 1, false⟩, ⟨3, 1, 0, 0, 1, false⟩], 4, 1⟩,  -- GW_PORT_CFG R201
      ⟨0x044, .ro, [], 4, 3⟩,
      ⟨0x050, .rs, [⟨0, 3, 2, 1, 4, true⟩], 4, 1⟩,                                       -- GW_CT_CFG R205
      ⟨0x054, .rs, [⟨0, 10, 32, 1, 1000, true⟩], 4, 1⟩,                                  -- GW_REPLAY_CFG R206
      ⟨0x058, .ro, [], 4, 1⟩, ⟨0x05C, .w1s, [], 4, 1⟩, ⟨0x060, .ro, [], 4, 2⟩, ⟨0x100, .ro, [], 4, 192⟩]
  | .gwAdm _ => [
      ⟨0x040, .rs, [⟨0, 1, 0, 0, 1, false⟩], 4, 1⟩,                                      -- GW_ADMIT_CFG R211
      ⟨0x044, .ro, [], 4, 5⟩]
  | .cc _ => [
      ⟨0x040, .rs, [⟨0, 6, 0xF, 0, 0x3F, false⟩], 4, 1⟩,                                 -- CC_CTL R894
      ⟨0x044, .ro, [], 4, 2⟩,
      ⟨0x04C, .rs, [⟨0, 1, 0, 0, 1, false⟩], 4, 1⟩,                                      -- CC_FENCE R759
      ⟨0x050, .rs, [⟨0, 16, 0, 0, 0xFFFF, false⟩, ⟨16, 1, 0, 0, 1, false⟩, ⟨17, 1, 0, 0, 1, false⟩], 4, 1⟩,  -- CC_SR_CFG R428
      ⟨0x054, .rs, [⟨0, 1, 0, 0, 1, false⟩, ⟨8, 7, 85, 0, 125, false⟩, ⟨16, 4, 2, 1, 15, true⟩], 4, 1⟩,  -- CC_REF_CFG R429
      ⟨0x058, .ro, [], 4, 2⟩,
      ⟨0x060, .rs, [⟨0, 1, 0, 0, 1, false⟩, ⟨1, 4, 4, 1, 8, true⟩, ⟨5, 4, 2, 1, 15, true⟩, ⟨9, 4, 8, 1, 10, true⟩], 4, 1⟩,
      ⟨0x064, .ro, [], 4, 1⟩,
      ⟨0x068, .rs, [⟨0, 8, 24, 0, 255, false⟩, ⟨8, 1, 1, 0, 1, false⟩], 4, 1⟩,           -- CC_SCRUB_CFG R664
      ⟨0x06C, .ro, [], 4, 1⟩,
      ⟨0x070, .rw, [⟨0, 18, 0, 0, 0x3FFFF, false⟩], 4, 1⟩,                               -- CC_I3C_CMD R295
      ⟨0x074, .rw, [⟨0, 32, 0, 0, 0xFFFFFFFF, false⟩], 4, 1⟩,                            -- CC_I3C_DATA R296
      ⟨0x078, .ro, [], 4, 2⟩,
      ⟨0x080, .rw, [⟨0, 21, 0, 0, 0x1FFFFF, false⟩, ⟨22, 4, 0, 0, 15, false⟩], 4, 1⟩,    -- CC_MR_CMD R299
      ⟨0x084, .ro, [], 4, 1⟩,
      ⟨0x090, .rs, [⟨0, 5, 0, 0, 16, false⟩, ⟨5, 1, 0, 0, 1, false⟩, ⟨6, 1, 0, 0, 1, false⟩, ⟨7, 1, 0, 0, 1, false⟩], 4, 1⟩,
      ⟨0x094, .ro, [], 4, 1⟩,
      ⟨0x100, .rs, [⟨0, 16, 4096, 1, 0xFFFF, true⟩], 4, 20⟩]                             -- CC_LAT_TGTn R470
  | .slt _ _ => [
      ⟨0x040, .rs, [⟨0, 9, 195, 32, 256, true⟩, ⟨9, 1, 0, 0, 1, false⟩, ⟨10, 1, 0, 0, 1, false⟩, ⟨11, 1, 0, 0, 1, false⟩,
        ⟨12, 3, 4, 1, 4, true⟩, ⟨16, 8, 0, 0, 255, false⟩], 4, 1⟩,                       -- SLT_CFG R338
      ⟨0x044, .ro, [], 4, 13⟩,
      ⟨0x078, .rs, [⟨0, 8, 0, 0, 255, false⟩, ⟨8, 8, 0, 0, 255, false⟩, ⟨16, 1, 0, 0, 1, false⟩], 4, 1⟩,  -- SLT_FLEX R341
      ⟨0x400, .ro, [], 4, 128⟩,
      ⟨0x600, .rs, [⟨0, 32, 0xC000C000, 0, 0xFFFFFFFF, false⟩], 4, 128⟩]                 -- SLT_SHD_TBL R340
  | .phy _ => [
      ⟨0x040, .rs, [⟨0, 2, 1, 0, 2, false⟩, ⟨2, 3, 2, 0, 6, false⟩], 4, 1⟩,              -- PHY_CFG R572
      ⟨0x044, .ro, [], 4, 2⟩,
      ⟨0x04C, .rw, [⟨0, 11, 0, 0, 0x7FF, false⟩], 4, 1⟩,                                 -- PHY_LANE_SEL R574
      ⟨0x050, .ro, [], 4, 3⟩]
  | .cal _ => [
      ⟨0x040, .rs, [⟨0, 2, 0, 0, 2, false⟩, ⟨2, 8, 24, 1, 255, true⟩, ⟨10, 4, 6, 1, 15, true⟩, ⟨14, 2, 2, 0, 3, false⟩,
        ⟨16, 2, 3, 0, 3, false⟩, ⟨18, 1, 1, 0, 1, false⟩, ⟨19, 1, 0, 0, 1, false⟩], 4, 1⟩,  -- CAL_CTL R565
      ⟨0x044, .ro, [], 4, 2⟩,
      ⟨0x04C, .rw, [⟨0, 12, 0, 0, 0xFFF, false⟩], 4, 1⟩,                                 -- CAL_RES_SEL R568
      ⟨0x050, .ro, [], 4, 5⟩]
  | .bal _ => [
      ⟨0x040, .rs, [⟨0, 4, 4, 0, 15, false⟩, ⟨4, 16, 1000, 0, 60000, false⟩, ⟨20, 2, 0, 0, 2, false⟩, ⟨22, 1, 0, 0, 1, false⟩,
        ⟨23, 4, 12, 8, 15, true⟩], 4, 1⟩,                                                -- BAL_CFG R616
      ⟨0x044, .ro, [], 4, 2⟩, ⟨0x04C, .rc, [], 4, 1⟩, ⟨0x050, .ro, [], 4, 2⟩]
  | .brl _ => [
      ⟨0x040, .rs, [⟨0, 16, 1024, 1, 0xFFFF, true⟩, ⟨16, 8, 4, 1, 255, true⟩, ⟨24, 1, 1, 0, 1, false⟩], 4, 1⟩,  -- BRL_CFG R701
      ⟨0x044, .rs, [⟨0, 16, 0, 0, 0xFFFF, false⟩, ⟨16, 1, 0, 0, 1, false⟩, ⟨17, 1, 0, 0, 1, false⟩], 4, 1⟩,  -- R702
      ⟨0x048, .ro, [], 4, 1⟩,
      ⟨0x04C, .rw, [⟨0, 14, 0, 0, 0x3FFF, false⟩], 4, 1⟩,                                -- BRL_IDX R704
      ⟨0x050, .ro, [], 4, 5⟩]
  | .brlHeat _ => [⟨0x040, .ro, [], 4, 1⟩, ⟨0x100, .ro, [], 4, 512⟩]
  | .elog _ => [
      ⟨0x040, .rs, [⟨0, 1, 1, 0, 1, false⟩, ⟨1, 1, 0, 0, 1, false⟩, ⟨2, 1, 1, 0, 1, false⟩, ⟨3, 3, 3, 0, 7, false⟩,
        ⟨6, 1, 0, 0, 1, false⟩], 4, 1⟩,                                                  -- ELOG_CTL R667
      ⟨0x044, .ro, [], 4, 3⟩, ⟨0x100, .ro, [], 4, 512⟩]
  | .elog2 _ => [⟨0x100, .ro, [], 4, 512⟩]
  | .cnt b => [
      ⟨0x040, .ro, [], 4, 2⟩,
      ⟨0x048, .rw, [⟨0, 2, 0, 0, 3, false⟩, ⟨4, 12, 0, 0, 0xFFF, false⟩], 4, 1⟩,         -- CNT_CTL R935
      ⟨0x04C, .w1s, [], 4, 1⟩,
      ⟨0x050, .rw, [⟨0, 14, 0, 0, 0x3FFF, false⟩, ⟨16, 3, 0, 0, 7, false⟩, ⟨20, 12, 0, 0, 0xFFF, false⟩], 4, 8⟩,  -- R937
      ⟨0x080, .rw, [], 4, 16⟩, ⟨0x0C0, .ro, [], 4, 4⟩] ++
      (if b < 17 then [⟨0x100, .ro, [], 4, 16⟩, ⟨0x140, .ro, [], 4, 4⟩] else [])
  | .trt _ => [
      ⟨0x040, .rs, [⟨0, 4, 3, 1, 15, true⟩, ⟨4, 8, 4, 1, 255, true⟩, ⟨12, 1, 0, 0, 1, false⟩, ⟨13, 1, 0, 0, 1, false⟩], 4, 1⟩,
      ⟨0x044, .ro, [], 4, 2⟩,
      ⟨0x04C, .rs, [⟨0, 4, 0, 0, 15, false⟩, ⟨4, 1, 0, 0, 1, false⟩], 4, 1⟩,             -- TRT_FENCE R756
      ⟨0x050, .ro, [], 4, 7⟩,
      ⟨0x100, .rs, [⟨0, 3, 0, 0, 7, false⟩], 4, 36⟩, ⟨0x200, .rs, [⟨0, 3, 0, 0, 7, false⟩], 4, 36⟩]  -- R729
  | .lth _ => [
      ⟨0x040, .rs, [⟨0, 1, 1, 0, 1, false⟩, ⟨1, 7, 64, 1, 127, true⟩, ⟨8, 1, 0, 0, 1, false⟩], 4, 1⟩,  -- LTH_CTL R803
      ⟨0x044, .ro, [], 4, 5⟩]
  | .lthPool => [
      ⟨0x040, .rs, [⟨24, 8, 0, 0, 255, false⟩], 4, 1⟩, ⟨0x044, .rs, [⟨0, 20, 0, 0, 0xFFFFF, false⟩], 4, 1⟩,  -- R809
      ⟨0x048, .rs, [⟨0, 16, 4096, 1, 0xFFFF, true⟩, ⟨16, 16, 100, 1, 0xFFFF, true⟩], 4, 1⟩,  -- LTH_POOL_CFG R810
      ⟨0x04C, .ro, [], 4, 1⟩,
      ⟨0x050, .rw, [⟨0, 18, 0, 0, 0x3FFFF, false⟩], 4, 1⟩,                               -- LTH_RING_SEL R812
      ⟨0x054, .ro, [], 4, 1⟩]
  | .ins _ => [
      ⟨0x040, .ro, [], 4, 2⟩, ⟨0x048, .wo, [], 4, 2⟩,
      ⟨0x050, .rs, [⟨0, 3, 0, 0, 7, false⟩, ⟨8, 4, 0, 0, 15, false⟩], 4, 1⟩,             -- INS_CFG R854
      ⟨0x080, .ro, [], 4, 16⟩, ⟨0x100, .ro, [], 4, 1⟩,
      ⟨0x104, .rw, [⟨0, 13, 0, 0, 0x1FFF, false⟩], 4, 1⟩,                                -- INS_ELOG_SEL R857
      ⟨0x108, .ro, [], 4, 4⟩, ⟨0x200, .ro, [], 4, 512⟩]

namespace RegRow

/-- The row holds a register at the offset. -/
def has (r : RegRow) (off : Nat) : Bool :=
  decide (r.off ≤ off) && decide ((off - r.off) % r.stride = 0) && decide ((off - r.off) / r.stride < r.count)

/-- The bits of its fields. -/
def mask (r : RegRow) : Nat := r.flds.foldl (fun m f => m ||| ((2 ^ f.w - 1) <<< f.lo)) 0

/-- The reset value its fields give. -/
def reset (r : RegRow) : Nat := packNat (r.flds.map fun f => (f.lo, f.w, f.reset))

end RegRow

/-- The row of the register at an offset of a page. -/
def regRow (p : PageId) (off : Nat) : Option RegRow := (regRows p).find? fun r => r.has off

/-- The reset value of a stored register; the route tables reset to the XY table (R729). -/
def regReset (p : PageId) (off : Nat) : Word :=
  match p with
  | .trt n =>
    if 0x100 ≤ off ∧ off < 0x190 then BitVec.ofNat 32 (xyPort n ((off - 0x100) / 4))
    else if 0x200 ≤ off ∧ off < 0x290 then BitVec.ofNat 32 (xyPort n ((off - 0x200) / 4))
    else match regRow p off with | some r => BitVec.ofNat 32 r.reset | none => 0
  | _ => match regRow p off with | some r => BitVec.ofNat 32 r.reset | none => 0

/-- The bits a write of a stored register changes: reserved bits ignore what is written (R86). -/
def regMask (p : PageId) (off : Nat) : Word :=
  match regRow p off with
  | some r => BitVec.ofNat 32 r.mask
  | none => 0

/-- The refusal rule of the first field of a register that fails its range (R107, R140): 1 RANGE, 2 ZERO; 0 for none. -/
def fldRule (v : Word) : List Fld → Nat
  | [] => 0
  | f :: fs =>
    let x := fld v f.lo f.w
    if f.zero && x == 0 then 2
    else if x < f.min || f.max < x then 1
    else fldRule v fs

end Sys2Proof.Machine
end

