-- ==== Sys2Proof/Machine/State.lean ====
section
/-! DEFINITION. The state of the block as plain data, its faults and refusals, and the state after reset. -/
namespace Sys2Proof.Machine

/-- The faults of a step. There is none: the spec gives every command an effect in every state, and answers an access to an address
that does not exist with a status (R83). -/
inductive Fault where
  deriving DecidableEq, Repr

/-- The refusals of a step. -/
inductive Refusal where
  /-- Raised by `exec` for a command that has no meaning yet, by its mnemonic; no arm raises it. Safe: nothing is said of the command. -/
  | notModelled (mnemonic : String)
  deriving DecidableEq, Repr

/-- A slot position: the frame (a count of ticks; FRAME_NO is its low 48 bits, R36) and the slot index (R25). -/
structure Pos where
  frame : Nat := 0
  slot : Nat := 0
  deriving DecidableEq, Repr

/-! ### Control pages (chapter 02) -/

/-- The state of a page's commit (R95). -/
inductive CmtState where
  | idle | checking | armed
  deriving DecidableEq, Repr

/-- A commit as GO captured it (R51, R56, R58). -/
structure Commit where
  /-- the frame in which GO arrived -/
  arrive : Nat := 0
  /-- GO arrived at or after the latch point of that frame -/
  late : Bool := false
  /-- PG_COMMIT_FRAME as captured at GO -/
  want : Word := 0
  /-- the named target frame; none for target 0 -/
  target : Option Nat := none
  /-- the frame against which R58 judges a slip -/
  ref : Nat := 0
  /-- the effective frame, once armed -/
  eff : Nat := 0
  /-- Movement's commit for a mailbox command or for its own work -/
  mvc : Bool := false
  /-- a table of the fill set: COVER asks it for writes alone (R511; DESIGN CHOICE, log entry 60) -/
  fill : Bool := false
  /-- the BCLK of GO -/
  at_ : Nat := 0
  /-- it has taken effect -/
  applied : Bool := false
  /-- an epoch's switch frame (R55) -/
  swFrame : Nat := 0
  /-- the registers that it changed as it took effect, each with the bits changed (R47, R104) -/
  chg : List (Nat × Word) := []
  deriving DecidableEq, Repr

/-- A 4 KiB control page: its header (R89 to R96, R111, R112) and its stored registers (R97, R105). -/
structure Page where
  /-- PG_CTL.EN in force -/
  en : Bool := false
  /-- PG_CTL.EN as last accepted (R92) -/
  enReq : Bool := false
  /-- who has written EN since the latest tick: 0 nobody, 1 Movement, 2 another (R104) -/
  enBy : Nat := 0
  expert : Bool := false
  user : Bool := false
  shadowView : Bool := false
  mvcActive : Bool := false
  cmt : CmtState := .idle
  cmtRefused : Bool := false
  commit : Commit := {}
  /-- the page carries its tables with a commit of the ESC page (R959) -/
  carried : Bool := false
  isr : Word := 0
  /-- the bits that events set in the BCLK of the latest event, and that BCLK (R98) -/
  evt : Word := 0
  evtAt : Nat := 0
  imr : Word := 0xFFFFFFFF
  commitFrame : Word := 0
  err : Word := 0
  /-- the BCLK of the latest update of PG_ERR, and what it held before that BCLK (R99) -/
  errWas : Option (Nat × Word) := none
  /-- active copies of RS registers and the values of RW registers, by offset within the page -/
  act : Tbl Word := []
  /-- shadow copies of RS registers -/
  shd : Tbl Word := []
  /-- HI registers as latched by a read of their LO register (R85), by the offset of HI -/
  hi : Tbl Word := []
  /-- HI halves of RS and RW pairs held since a 4-byte read of their LO halves (R85), by the offset of HI -/
  hiHeld : List (Nat × Word) := []
  /-- Movement's standing intent for the page (R132): values of its RS registers -/
  intent : Tbl Word := []
  /-- changes of the interrupt output on its way to the summary (R482): the BCLK and the new level, newest first -/
  wire : List (Nat × Bool) := []
  deriving DecidableEq, Repr

/-! ### The frame (chapter 01) -/

/-- A piece of service work in progress: its kind code and unit (R41), and the
consecutive frames in which it was abandoned (R46). -/
structure SvcWork where
  kind : Nat := 0
  unit : Nat := 0
  abandoned : Nat := 0
  deriving DecidableEq, Repr

/-- The escapement: frame count, length, latch, overruns (R35, R43, R66 to R76). -/
structure Esc where
  /-- the frames run: the ESC page's EN is in effect -/
  running : Bool := false
  /-- EN has been cleared: the next tick is the last (R29) -/
  stopping : Bool := false
  /-- ticks since block reset; FRAME_NO is its low 48 bits -/
  frame : Nat := 0
  /-- the BCLK in which the present frame began: that of the most recent tick, or of the setting of EN -/
  tickBclk : Nat := 0
  /-- the BCLK count captured at the most recent tick (R70) -/
  cap : Nat := 0
  /-- slots counted from the first tick to slot 0 of the present frame -/
  slotBase : Nat := 0
  /-- FRAME_SLOTS in force -/
  fs : Nat := 195
  /-- the latch point of the present frame has passed -/
  latched : Bool := false
  /-- the next tick is the first after EN was set, recorded as a frame-length change (R29) -/
  restart : Bool := false
  fschgFrame : Nat := 0
  /-- FRAME_SLOTS before the frame `fschgFrame` -/
  fsPrev : Nat := 195
  fschgBclk : Nat := 0
  ovrKind : Nat := 0
  ovrUnit : Nat := 0
  ovrFrame : Nat := 0
  /-- ESC_OVR_CNT0 to 6 -/
  ovrCnt : Tbl Nat := []
  slipCnt : Nat := 0
  /-- kind and unit of the abandonments that step 11 of the coming tick records (R48) -/
  ovrDue : List (Nat × Nat) := []
  works : List SvcWork := []
  /-- kind and unit of the work abandoned at the latch point of the present frame -/
  late : List (Nat × Nat) := []
  deriving DecidableEq, Repr

/-! ### The block control page, mailboxes, Movement (chapters 02, 11, 19) -/

/-- A mailbox (R134 to R137). -/
structure Mbx where
  cmd : Nat := 0
  seq : Nat := 0
  go : Bool := false
  busy : Bool := false
  done : Bool := false
  running : Bool := false
  status : Nat := 0
  seqEcho : Nat := 0
  detail : Nat := 0
  args : Tbl Word := []
  res : Tbl Word := []
  /-- pages whose commits the running command awaits, by page number -/
  await : List Nat := []
  /-- pages whose commits have been refused -/
  refused : List Nat := []
  /-- channels whose state the running command awaits -/
  chans : List Nat := []
  /-- the latest effective frame among its commits -/
  eff : Nat := 0
  deriving DecidableEq, Repr

/-- An interrupt message formed at the service node (R115, R844). -/
structure IntMsg where
  port : Nat := 0
  addr : Nat := 0
  data : Word := 0
  /-- the instance that sends it; none for the block's own -/
  ins : Option Nat := none
  /-- the BCLK of its E2 at the port -/
  at_ : Nat := 0
  /-- it met a link that was not up and is sent again once it is (R961) -/
  held : Bool := false
  deriving DecidableEq, Repr

/-- Block control: interrupt path, recorded accesses, mailboxes (R115 to R123). -/
structure Blk where
  intAddr : Nat := 0
  intData : Word := 0
  intPort : Nat := 0
  intEn : Bool := false
  intArmed : Bool := false
  /-- the BCLK in which the path was last armed -/
  armedAt : Nat := 0
  /-- messages sent and not yet at their port's E2 -/
  msgs : List IntMsg := []
  /-- messages delivered at the ports, latest first -/
  delivered : List IntMsg := []
  badAcc : Word := 0
  badAccCnt : Nat := 0
  cmtRef : Word := 0
  /-- the BCLK of the latest update of BLK_BADACC and of BLK_CMT_REF, and what each held before that BCLK (R99) -/
  badWas : Option (Nat × Word) := none
  refWas : Option (Nat × Word) := none
  mb0 : Mbx := {}
  mb1 : Mbx := {}
  /-- the answer of the latest register access of the Crown port or of Movement: status and data -/
  accStatus : Nat := 0
  accData : Nat := 0
  deriving DecidableEq, Repr

/-! ### Requests and packets -/

/-- A memory request inside the block (R344, R433). `src` is the requester of R433 (20: the Crown port). -/
structure Req where
  src : Nat := 0
  tag : Nat := 0
  line : Nat := 0
  write : Bool := false
  poison : Bool := false
  /-- the physical address of the line; meaningless for requests by location -/
  pa : Nat := 0
  loc : Loc := {}
  itag : Nat := 0
  gen : Nat := 0
  open_ : Bool := false
  g : Bool := false
  data : Line := 0
  thr : Bool := false
  /-- the BCLK in which it was created (R435) -/
  created : Nat := 0
  /-- the BCLK in which its header reached the gateway (R472) -/
  hdrAt : Nat := 0
  /-- what a request of Movement, the scrubber or the copy unit is for: 0 none, 1 scrub read, 2 scrub write-back,
  3 copy read, 4 copy or poison write, 5 mirrored write -/
  use : Nat := 0
  /-- it stood admitted or unanswered at the last loss switch (R742) -/
  marked : Bool := false
  /-- a read that a takeover moved: the stamp it had at the failing channel (R489, R871), and the exception under which it was counted
  there (R492) -/
  due : Option Pos := none
  exc : Option Nat := none
  deriving DecidableEq, Repr

/-- A response on its way to its requester (R169). -/
structure Resp where
  req : Req := {}
  /-- R19 -/
  status : Nat := 0
  /-- 0x1 READ_DATA, 0x2 WRITE_DONE, 0x3 SVC_DONE, 0x4 REFUSE (R169) -/
  rkind : Nat := 4
  stamp : Nat := 0
  late : Bool := false
  corr : Bool := false
  thr : Bool := false
  data : Line := 0
  svcData : Nat := 0
  /-- it answers an item that never entered G0: it holds no tag (R167, R186) -/
  bare : Bool := false
  deriving DecidableEq, Repr

/-- What a packet carries. -/
inductive Body where
  | memReq (r : Req)
  | memResp (r : Resp)
  | bounce (r : Req) (reason : Nat)
  | svcReq (g : Nat) (h : ReqHdr)
  | hold (itag : Nat) (loc : Loc) (gap : Nat) (endFrame : Nat)
  deriving DecidableEq, Repr

/-- A packet in the torus: nodes, the BCLK of its injection and of its ejection on a free path (R473). -/
structure Pkt where
  body : Body
  src : Nat := 0
  dst : Nat := 0
  /-- the BCLK from which it may be injected (R726), and that of its header's injection -/
  ready : Nat := 0
  inj : Nat := 0
  /-- the BCLK from which its header may be ejected on a free path (R718), and that of its ejection -/
  near : Nat := 0
  arr : Nat := 0
  /-- the input port and virtual channel by which it reaches its last router (R727) -/
  lane : Nat := 0
  /-- the grant BCLK of the train it belongs to (R443) -/
  train : Option Nat := none
  /-- waiting at its node for the end of a route-epoch hold (R486), or at a router before a failed link -/
  waiting : Bool := false
  /-- its path crosses a failed link (R738) -/
  stuck : Bool := false
  deriving DecidableEq, Repr

/-! ### Gateways (chapter 03) -/

/-- LINK of GW_PORT_STAT (R202). -/
inductive GwLink where
  | aliveLow | init | up | down
  deriving DecidableEq, Repr

/-- An item of the ingress FIFO (R184): its header and, for a LINE_WRITE, its data flit once arrived. -/
structure Item where
  hdr : ReqHdr := {}
  data : Option Line := none
  /-- the BCLK in which the header arrived (R472), and CT_THRESH as it did (R200) -/
  at_ : Nat := 0
  thr : Nat := 2
  deriving DecidableEq, Repr

/-- A line of a request, or an SVC_ACCESS, in the pipeline of a gateway (R175, R181). -/
structure PLine where
  req : Req := {}
  hdr : ReqHdr := {}
  /-- the BCLK of its G0: line L of a MULTI_READ stands L BCLK later; a line kept waiting moves on -/
  g0 : Nat := 0
  /-- the stage that it has passed: 0 G0, 1 G1, 3 G3 -/
  st : Nat := 0
  /-- its data flit is still to come (R185) -/
  wait : Bool := false
  deriving DecidableEq, Repr

/-- A link flit that the gateway has sent (R149), with the BCLK in which it was written. -/
structure Flit where
  seq : Nat := 0
  ack : Nat := 0
  /-- 0 idle, 1 header, 2 data, 3 link control -/
  fkind : Nat := 0
  last : Bool := true
  nak : Bool := false
  hdrCr : Nat := 0
  dataCr : Nat := 0
  body : BitVec 512 := 0
  at_ : Nat := 0
  deriving DecidableEq, Repr

/-- A tag in use (R167): responses still to leave, the ITAG admitted, whether it is of an earlier session. -/
structure TagRec where
  left : Nat := 0
  itag : Nat := 0
  gen : Nat := 0
  old : Bool := false
  /-- the request is a LINE_WRITE -/
  wr : Bool := false
  /-- the BCLK in which its header arrived -/
  at_ : Nat := 0
  deriving DecidableEq, Repr

/-- A flit in the replay buffer (R157): its SEQ, its kind and content, and when it was last sent. -/
structure RpFlit where
  seq : Nat := 0
  /-- 1 header, 2 data, 3 link control (R149) -/
  fkind : Nat := 1
  resp : Resp := {}
  sent : Nat := 0
  deriving DecidableEq, Repr

/-- A response or bounce that has reached the gateway's egress, with the BCLK in which it enters E0. -/
structure Eg where
  resp : Resp := {}
  at_ : Nat := 0
  /-- formed at the gateway: it never reached a channel (R173) -/
  own : Bool := false
  deriving DecidableEq, Repr

/-- A waiting C request at a requester's queue (R436). -/
structure CWait where
  req : Req := {}
  /-- the BCLK in which its request line was raised -/
  raised : Nat := 0
  /-- URG3 has been set for it -/
  urg3 : Bool := false
  deriving DecidableEq, Repr

/-- A request set aside (R462): until when, and the tag and line of the earlier G request. -/
structure Aside where
  req : Req := {}
  until_ : Nat := 0
  bounced : Bool := false
  deriving DecidableEq, Repr

/-- A G request injected lately, for R462, by the BCLK of its last flit. -/
structure GInj where
  req : Req := {}
  inj : Nat := 0
  bounced : Bool := false
  deriving DecidableEq, Repr

/-- A Burl hold entry (R687). -/
structure HoldEnt where
  itag : Nat := 0
  ch : Nat := 0
  sc : Nat := 0
  rk : Nat := 0
  bg : Nat := 0
  ba : Nat := 0
  row : Nat := 0
  gap : Nat := 0
  /-- the frame at whose end the hold ends -/
  endFrame : Nat := 0
  next : Nat := 0
  held : List Req := []
  deriving DecidableEq, Repr

/-- A gateway. -/
structure Gw where
  alive : Bool := false
  link : GwLink := .aliveLow
  phaseErr : Bool := false
  /-- the BCLK in which the gateway's INIT was sent, and that in which the mesh's INIT arrived -/
  initSent : Option Nat := none
  initRecv : Option Nat := none
  reqHdr : Nat := 48
  reqData : Nat := 32
  rspHdr : Nat := 0
  rspData : Nat := 0
  crStall : Bool := false
  protoCnt : Nat := 0
  malfCnt : Nat := 0
  fifo : List Item := []
  /-- what the next flit has to be: 0 a header, 1 the data of a LINE_WRITE, 2 the flit after a header of another opcode with LAST = 0
  (R163, R166) -/
  due : Nat := 0
  /-- the BCLK at whose end a flush takes effect (R186) -/
  flushAt : Option Nat := none
  /-- the lines between G0 and G4, oldest first -/
  pipe : List PLine := []
  /-- the BCLK from which G2, and G4, takes the next line that has been kept waiting -/
  g2Free : Nat := 0
  g4Free : Nat := 0
  tailDisc : Bool := false
  /-- the BCLK to whose end a flush or tail discard lasts (R186, R188) -/
  discAt : Option Nat := none
  /-- the SEQ of the next good flit; a NAK has been asked for and the flits before it are discarded -/
  expSeq : Nat := 0
  nakMode : Bool := false
  /-- the BCLK from which an idle flit carries it, where no other flit goes before (R151) -/
  nakAt : Option Nat := none
  /-- header and data credits returned and not yet sent in a trailer (R149, R153) -/
  crHdr : Nat := 0
  crData : Nat := 0
  unacked : Option Nat := none
  txSeq : Nat := 0
  replay : List RpFlit := []
  /-- flits at the end of the replay buffer still to be sent again (R159) -/
  resend : Nat := 0
  stallSince : Option Nat := none
  rplyOut : Nat := 0
  rplyIn : Nat := 0
  tags : Tbl TagRec := []
  g0Free : Nat := 0
  /-- lines that wait at G4 for a place to be held or set aside (R462, R689), oldest first -/
  g4q : List Req := []
  cq : List CWait := []
  aside : List Aside := []
  recent : List GInj := []
  gOut : Nat := 0
  eg : List Eg := []
  egFree : Nat := 0
  falls : Nat := 0
  dropCnt : Nat := 0
  downTags : List Nat := []
  staleCnt : Nat := 0
  rcToken : Nat := 0
  rcHorizon : Nat := 0
  rcFull : Nat := 0
  holds : List HoldEnt := []
  ovf : Nat := 0
  thrCnt : Nat := 0
  /-- responses written into the egress bridge, and the flits sent, latest first -/
  out : List Resp := []
  tx : List Flit := []
  deriving DecidableEq, Repr

/-! ### The address map (chapter 04) -/

/-- An epoch in progress: armed with its hold frame, announced, holding (R55, R244). -/
structure MapSt where
  epoch : Nat := 0
  announced : Bool := false
  hold : Bool := false
  resClosed : Bool := false
  /-- what the epoch in progress is: 0 none, 1 a page commit, 2 the close of the reserve range (R241), 3 a takeover or
  rehash switch (R870, R880) -/
  kind : Nat := 0
  /-- the hold frame E of an epoch that Movement armed -/
  eff : Nat := 0
  /-- a takeover's source and destination channel -/
  tkSrc : Nat := 0
  tkDst : Nat := 0
  committed : Bool := false
  xlateLo : Word := 0
  xlateHi : Word := 0
  xlateRes : Word := 0
  check : Word := 0
  /-- the channel nominated as reserve (R18) and whether the block runs without one -/
  reserveNom : Nat := 16
  noReserve : Bool := false
  /-- the reserve that a RESERVE_SET in progress names (R18, R250) -/
  nomNext : Option Nat := none
  /-- per logical channel, the physical channel that last held it (R223) -/
  lastHeld : Tbl Nat := []
  deriving DecidableEq, Repr

/-! ### Subchannels (chapters 06 to 08) -/

/-- A slot-table entry, unpacked (R301). -/
structure Entry where
  /-- 0 G, 1 C, 2 SVC, 3 TURN -/
  kind : Nat := 3
  dir : Bool := false
  rk : Nat := 0
  bg : Nat := 0
  ba : Nat := 0
  col : Bool := false
  sel : Nat := 0
  deriving DecidableEq, Repr

/-- A table: its configuration, flexible section and entries (R301, R338, R341). -/
structure Table where
  len : Nat := 0
  wcrc : Bool := false
  refSb : Bool := false
  rkAlt : Bool := false
  cyc : Nat := 4
  flexEn : Bool := false
  flexFirst : Nat := 0
  flexLast : Nat := 0
  ents : List Entry := []
  deriving DecidableEq, Repr

/-- What a record asks for (R344). -/
inductive RKind where
  | read | write | fwd
  deriving DecidableEq, Repr

/-- A request-RAM record (R344), in enqueue order; `sn` is the model's serial number of the request. -/
structure Rec where
  sn : Nat := 0
  kind : RKind := .read
  /-- class G and not demoted -/
  g : Bool := false
  req : Req := {}
  stamp : Pos := {}
  /-- the serial number of the write-buffer line it holds or is bound to -/
  wbuf : Option Nat := none
  pred : Option Nat := none
  late : Bool := false
  /-- the exception under which it has been counted (R492) -/
  exc : Option Nat := none
  deriving DecidableEq, Repr

/-- A write-buffer line (R371 to R377). -/
structure WLine where
  sn : Nat := 0
  req : Req := {}
  /-- the slot of its latest attempt, once decided -/
  slot : Option Pos := none
  attempts : Nat := 0
  /-- named by an alert and in the retry queue -/
  retry : Bool := false
  /-- the alert that named it was a CA parity or unclassified one (R394) -/
  capar : Bool := false
  /-- the poison write of R377: never retried -/
  final : Bool := false
  /-- the serial number from which requests come after it ended under R377 -/
  finalSn : Nat := 0
  /-- its alert window has closed without naming it; a poison write: it has crossed the bus -/
  closed : Bool := false
  /-- the ACT and the column command of its latest attempt, in absolute tCK (R311, R368) -/
  cmds : List Nat := []
  /-- serial numbers of forwarded reads bound to it that have not crossed their slot -/
  bound : List Nat := []
  stamp : Pos := {}
  /-- it is mirrored, and its mirror holds no copy-unit buffer yet (R867, R868) -/
  mir : Bool := false
  /-- it has been counted under an exception (R492) -/
  exc : Bool := false
  /-- the BCLK of the alert that named it for retry (R375), and the exception that first took from that retry an entry (R380, R413) -/
  retryAt : Nat := 0
  moved : Option Nat := none
  deriving DecidableEq, Repr

/-- A decided read whose response has not been injected. -/
structure Served where
  sn : Nat := 0
  req : Req := {}
  slot : Pos := {}
  raw : RawLine := 0
  fwd : Bool := false
  fwdData : Line := 0
  fwdPoison : Bool := false
  late : Bool := false
  /-- its ACT and its column command, in absolute tCK; a forwarded read has none (R311, R368) -/
  cmds : List Nat := []
  /-- named by a CA parity alert (R276, R962) -/
  named : Bool := false
  /-- a Crown access -/
  crown : Bool := false
  deriving DecidableEq, Repr

/-- A refresh, RFM or DRFM command issued: target, absolute tCK, length, kind 0 window, 1 emergency. -/
structure RefCmd where
  rk : Nat := 0
  /-- the bank set of a same-bank command -/
  ba : Option Nat := none
  tck : Nat := 0
  len : Nat := 0
  emerg : Bool := false
  deriving DecidableEq, Repr

/-- Why an entry that is taken is taken, or its outcome (R389). -/
inductive SlotOut where
  | readMoved | writeMoved | demandIdle | planIdle
  deriving DecidableEq, Repr

/-- An RFM or DRFM waiting for a window (R406): target, whether DRFM, deadline frame. -/
structure Mitig where
  rk : Nat := 0
  ba : Option Nat := none
  bg : Nat := 0
  drfm : Bool := false
  deadline : Nat := 0
  /-- who asked: 0 an alert back-off (R276), 1 a Burl trigger (R682), 2 fallback (R693) -/
  src : Nat := 0
  /-- the row whose sample waits for the pending DRFM of its bank (R684) -/
  waits : Option Nat := none
  deriving DecidableEq, Repr

/-- A pending Crown access at a subchannel (R454). -/
structure CrnAcc where
  req : Req := {}
  sn : Nat := 0
  /-- the BCLK of its enqueue -/
  at_ : Nat := 0
  pred : Option Nat := none
  /-- the write-buffer line a read is bound to (R373, R374) -/
  wbuf : Option Nat := none
  /-- a write that is mirrored (R867) -/
  mir : Bool := false
  /-- the exception that first took from it an entry (R380, R413) -/
  moved : Option Nat := none
  deriving DecidableEq, Repr

/-- An open alert window (R277): first and last slot. -/
structure AlertWin where
  from_ : Pos := {}
  to_ : Pos := {}
  kind : AlertKind := .writeCrc
  deriving DecidableEq, Repr

/-- An emergency on a target (R409): armed at a latch point, in force from the next tick. -/
structure Emerg where
  rk : Nat := 0
  ba : Option Nat := none
  inForce : Bool := false
  /-- for debt (REFs), or the RFM or DRFM it issues -/
  mit : Option Mitig := none
  deriving DecidableEq, Repr

/-- A compatibility stop of a rank position (R601): the rank and the slot S. -/
structure Stop where
  rk : Nat := 0
  from_ : Pos := {}
  /-- the BCLK at which it ends -/
  ends : Nat := 0
  started : Bool := false
  deriving DecidableEq, Repr

/-- A hammer entry of the Burl table (R673 to R682). -/
structure Hammer where
  used : Bool := false
  rk : Nat := 0
  bg : Nat := 0
  ba : Nat := 0
  row : Nat := 0
  cnt : Nat := 0
  fl : Nat := 0
  req1 : Option (Nat × Nat) := none
  req2 : Option (Nat × Nat) := none
  deriving DecidableEq, Repr

/-- An ACT decided and not yet on the CA bus (R676): its BCLK and frame, what it opens, who caused it. -/
structure Act where
  at_ : Nat := 0
  frame : Nat := 0
  loc : Loc := {}
  src : Nat := 0
  itag : Nat := 0
  deriving DecidableEq, Repr

/-- A heat entry (R695). -/
structure Heat where
  used : Bool := false
  page : Nat := 0
  itag : Nat := 0
  cnt : Nat := 0
  deriving DecidableEq, Repr

/-- A subchannel: slot engine, request RAM, write buffer, refresh debt, Burl half (chapters 06 to 08, 15). -/
structure Sub where
  /-- the last position decided; none before the first -/
  lastDec : Option Pos := none
  /-- SLT_STAT.STATE other than what the channel's role and self-refresh give: a legal table has been committed -/
  legal : Bool := false
  /-- SLT_VAL_RES -/
  valRes : Word := 0
  /-- the directions decided for the flexible sections of the present and the coming frame, by frame: true for WRITE (R329) -/
  flex : List (Nat × Bool) := []
  /-- the tables in force before the swaps of the latest frames: the frame of the swap and the table before it, oldest first (R319) -/
  old : List (Nat × Table) := []
  /-- due frames of the table before a swap that fall before the new table's first one for the target (R320) -/
  owed : List (Nat × Nat × Option Nat) := []
  /-- Crown writes decided, with the BCLK in which their alert windows close (R362) -/
  crnWr : List (Nat × Nat) := []
  /-- the bursts decided in the present frame and after: position, rank field, and whether it is a write (R595) -/
  bursts : List (Pos × Nat × Bool) := []
  ram : List Rec := []
  wb : List WLine := []
  /-- claim pointers by FIFO key (R353) -/
  claims : Tbl Pos := []
  /-- the latest stamp issued, over all requests -/
  maxStamp : Option Pos := none
  served : List Served := []
  /-- rows open, by bank key: row + 1; 0 for a closed bank (R365 to R367) -/
  openRows : Tbl Nat := []
  crown : Option CrnAcc := none
  peakRam : Nat := 0
  peakWb : Nat := 0
  wcrcRetry : Nat := 0
  wcrcCapar : Nat := 0
  wcrcFail : Nat := 0
  exc : Tbl Nat := []
  alert : Option AlertWin := none
  /-- frames of the CA parity alerts since the last event of R279 -/
  caFrames : List Nat := []
  /-- debt by target key (R402): below 0 after a REF decided before the tick that makes it due (R403) -/
  debt : Tbl Int := []
  refs : List RefCmd := []
  /-- CA cycles taken by commands decided: first cycle and length, in absolute tCK (R314, R409) -/
  ca : List (Nat × Nat) := []
  /-- the tCK at which each bank's latest precharge completes, by bank -/
  preDone : Tbl Nat := []
  /-- mode-register reads issued and not yet answered: 0 MR4, 1 ECS; rank position -/
  mrsRead : List (Nat × Nat) := []
  /-- windows whose REF has been decided: position and whether the REF issues (R403) -/
  winDec : List (Pos × Bool) := []
  emergs : List Emerg := []
  mits : List Mitig := []
  /-- the quad: read-moved, write-moved, demand-idle, plan-idle, and DISCARDED (R389) -/
  quadRd : Nat := 0
  quadWr : Nat := 0
  quadDem : Nat := 0
  quadPlan : Nat := 0
  disc : Nat := 0
  /-- the next mode-register reads due (R280): rank positions whose MR4 read, and whose ECS read, is due -/
  mr4Due : List Nat := []
  ecsDue : List Nat := []
  stop : Option Stop := none
  /-- Burl (chapter 15) -/
  hammer : Tbl Hammer := []
  /-- ACTs decided whose CA cycle lies ahead -/
  acts : List Act := []
  floor : Nat := 0
  fallback : Bool := false
  /-- every frame of the window has run at the doubled rate -/
  win2x : Bool := true
  /-- the frame whose tick opened the window -/
  winStart : Nat := 0
  /-- the rollover at the coming tick is late by an overrun of kind 3 (R679) -/
  winLate : Bool := false
  winSeq : Nat := 0
  /-- the split in force (R673): 0 hammer only, 1 shared, 2 whole -/
  split : Nat := 0
  /-- rolling activation counts of fallback by bank (R693) -/
  raa : Tbl Nat := []
  heat : Tbl Heat := []
  hfloor : Nat := 0
  deriving DecidableEq, Repr

/-- An error-log entry: its four words (R655). -/
structure LogEnt where
  w0 : Word := 0
  w1 : Word := 0
  w2 : Word := 0
  w3 : Word := 0
  deriving DecidableEq, Repr

/-- A channel's error log, correction counts and marks (R639 to R641, R654 to R658, R668 to R670). -/
structure Elog where
  ring : Tbl LogEnt := []
  next : Nat := 0
  seq : Nat := 0
  ceCnt : Nat := 0
  ueCnt : Nat := 0
  markCnt : Nat := 0
  /-- the staging queue, oldest first (R657) -/
  stage : List LogEnt := []
  /-- corrected lines by device and rank position: key 16 p + d -/
  corr : Tbl Nat := []
  /-- the marked device of a rank position, plus 1; 0 for none -/
  mark : Tbl Nat := []
  /-- marks pending until the next tick, by rank position: device plus 1 -/
  markPend : Tbl Nat := []
  deriving DecidableEq, Repr

/-- A channel's patrol scrubber (R648 to R652, R664, R665). -/
structure Scrub where
  /-- position in the pass: how many lines have been read -/
  pos : Nat := 0
  credits : Nat := 0
  /-- I of R649 in force -/
  interval : Nat := 0
  /-- the BCLK at which the last interval ended -/
  last : Nat := 0
  /-- the line in flight: its location -/
  fly : Option Loc := none
  /-- a write to the line in flight has been enqueued since the scrub read was (R652) -/
  wrote : Bool := false
  /-- its requests waiting at the channel's inlet arbiter -/
  q : List CWait := []
  /-- BCLK in which the pass in progress has earned credits -/
  awake : Nat := 0
  passes : Nat := 0
  latePass : Bool := false
  deriving DecidableEq, Repr

/-- A page of a heat list: page, instance, unscaled sum. -/
structure HeatRow where
  page : Nat := 0
  itag : Nat := 0
  sum : Nat := 0
  deriving DecidableEq, Repr

/-- The channel's part of the Burl table (R697, R703 to R708). -/
structure BrlCh where
  trig : Nat := 0
  fbRfm : Nat := 0
  emerg : Nat := 0
  /-- BRL_DATA0 to 3 as sampled -/
  data : List Word := []
  /-- the interval captured and not yet published: its merged rows and the frame that publishes it -/
  cap : Option (List HeatRow × Nat) := none
  seq : Nat := 0
  valid : Bool := false
  skipped : Bool := false
  scale : Nat := 0
  list : List HeatRow := []
  /-- the BCLK from which the next hold may be sent (R686) -/
  holdFree : Nat := 0
  deriving DecidableEq, Repr

/-- A value that Balance moves (R578, R594, R595): anchor, live value, the live value before its last step, target, the frame in
which it last moved. -/
structure Slew where
  anchor : Int := 0
  live : Int := 0
  was : Int := 0
  target : Int := 0
  moved : Nat := 0
  deriving DecidableEq, Repr

/-- The passive counters and rejections of one lane of one rank position (R585, R599). -/
structure LaneCnt where
  early : Nat := 0
  late : Nat := 0
  gEarly : Nat := 0
  gLate : Nat := 0
  rej : Nat := 0
  /-- it has escalated with no accepted result since -/
  esc : Bool := false
  /-- the last fold rejected it with NO_TRANS -/
  noTrans : Bool := false
  deriving DecidableEq, Repr

/-- A pattern probe of a lane group (R586): bursts taken, lanes that failed at LEFT, RIGHT, LOW, HIGH. -/
structure Probe where
  want : Bool := false
  done : Bool := false
  bursts : Nat := 0
  fails : List Nat := []
  deriving DecidableEq, Repr

/-- The bus operations of a rank position (R583, R589, R591): stage 0 to start, 1 running since `at_`, 2 done. -/
structure RankBal where
  osc : Nat := 0
  oscAt : Nat := 0
  /-- counts read from the devices, by lane -/
  count : List Nat := []
  /-- the baseline counts of the first read after the anchor -/
  base : List Nat := []
  zq : Nat := 0
  zqAt : Nat := 0
  /-- data-buffer write-delay steps waiting (R579) -/
  db : Nat := 0
  deriving DecidableEq, Repr

/-- A channel's Balance engine (R580 to R604, R617 to R621). -/
structure Bal where
  running : Bool := false
  /-- triggers pending: bit 1 temperature, 2 periodic, 3 anchor, 4 wake, 5 request -/
  trig : Nat := 0
  /-- triggers pending at the latest latch point -/
  trigLatched : Nat := 0
  lastTrig : Nat := 0
  startFrame : Nat := 0
  startBclk : Nat := 0
  started : Bool := false
  lastFrames : Nat := 0
  runs : Nat := 0
  ref0 : Nat := 0
  ref1 : Nat := 0
  refPhy : Nat := 0
  /-- the next step: 0 impedance, 1 + i the i-th lane group -/
  step : Nat := 0
  vals : Tbl Slew := []
  lanes : Tbl LaneCnt := []
  probes : Tbl Probe := []
  ranks : Tbl RankBal := []
  rejTotal : Nat := 0
  rejLane : Nat := 0
  lastReason : Nat := 0
  rejCalref : Nat := 0
  /-- consecutive CALREF rejections of the PHY pair, kept beside each channel -/
  calrefRow : Nat := 0
  laneEvt : Word := 0
  /-- the BCLK of the latest update of BAL_LANE_EVT, and what it held before that BCLK (R99) -/
  laneWas : Option (Nat × Word) := none
  stops : Nat := 0
  escal : Nat := 0
  /-- rank positions for which a stop waits to be armed, in order -/
  stopWant : List Nat := []
  deriving DecidableEq, Repr

/-- The state of a requester at an inlet arbiter (R442, R448, R470). -/
structure ArbReq where
  losses : Nat := 0
  /-- the first BCLK of the backoff in force (R448) -/
  from_ : Nat := 0
  /-- the BCLK from which it is eligible again; 0 for no backoff -/
  until_ : Nat := 0
  urg : Nat := 0
  deriving DecidableEq, Repr

/-- An inlet arbiter (chapter 09). -/
structure Arb where
  ptr : Nat := 0
  lastWin : Nat := 31
  reqs : Tbl ArbReq := []
  /-- the BCLK in which the train in transfer, if any, gives its R0, and that in which the arbiter is idle again (R439) -/
  free : Nat := 0
  idle : Nat := 0
  /-- the winner of the latest grant of a train, and its BCLK -/
  win : Nat := 31
  grantAt : Nat := 0
  /-- requests granted and not yet enqueued -/
  granted : Nat := 0
  revokeCnt : Nat := 0
  /-- the latest grant, while its BCLK lies ahead: that BCLK, LAST_WIN and PTR before it, and the requests it grants -/
  pre : Option (Nat × Nat × Nat × Nat) := none
  /-- the BCLK of the latest tick that changed MODE, and the old MODE: a round whose R0 falls before it completes under that (R452) -/
  modeWas : Option (Nat × Bool) := none
  deriving DecidableEq, Repr

/-- SR_STATE of CC_SR_CFG (R428). -/
inductive SrState where
  | awake | idleSr | parked | waking
  deriving DecidableEq, Repr

/-- A sideband transaction (R288): 0 a poll, 1 an in-band interrupt read, 2 CC_I3C_CMD; host identifier, device type. -/
structure SbTxn where
  kind : Nat := 0
  hid : Nat := 0
  dtype : Nat := 0
  /-- CC_I3C_CMD as written with GO -/
  cmd : Word := 0
  start : Nat := 0
  deriving DecidableEq, Repr

/-- What service work on a channel has found and staged (R40, R41): a rank's MR4, an error count of a rank with what the device names, a
reading of a device on the sideband, that of the PHY's own sensor; and what follows from Balance's measurements and from a poll that
failed. -/
inductive Reading where
  | mr4 (p v : Nat)
  | ecs (p count dev bg ba row : Nat)
  | dev (hid dtype : Nat) (v : Word)
  | phy (v : Nat)
  /-- what a compatibility stop of a rank position found: its grid and its oscillator (R603) -/
  | stop (p : Nat) (grid osc : List Nat)
  /-- a probe burst of a rank position misread its pattern on the lanes of a mask (R598) -/
  | misread (p mask : Nat)
  /-- a measurement of Balance came to nothing, for a reason of R598 -/
  | spoilt (reason : Nat)
  /-- an autonomous poll of a device failed: the `run`-th in a row abandoned after 100 µs, or (0) ended by the bus (R290, R297) -/
  | noPoll (hid dtype run : Nat)
  deriving DecidableEq, Repr

/-- A channel: role, module, sideband, mode registers, refresh rate, self-refresh, tokens, arbiter. -/
structure Chan where
  /-- 0 to 15 logical, 16 reserve, 31 offline (R896) -/
  role : Nat := 31
  prevRole : Nat := 31
  roleChanges : Nat := 0
  /-- CC_MODULE_ID and what Movement keeps of the SPD (R266, R270, R298); none read before start-up -/
  spd : Option Spd := none
  /-- a channel reset has cleared CC_MODULE_ID, which Movement has not written since (R298, R514) -/
  idGone : Bool := false
  -- sideband (R284 to R297)
  sbI2c : Bool := false
  sbBusy : Bool := false
  sbDone : Bool := false
  sbNack : Bool := false
  sbPec : Bool := false
  sbDenied : Bool := false
  sbTmo : Bool := false
  pollErr : Nat := 0
  ibiCnt : Nat := 0
  sbTxn : Option SbTxn := none
  /-- transactions waiting, in the order they will run -/
  sbQueue : List SbTxn := []
  /-- consecutive abandoned polls by device key (R290) -/
  sbAbandoned : Tbl Nat := []
  -- CC_MR_DATA (R300)
  mrValue : Nat := 0
  mrDiffer : Bool := false
  mrDone : Bool := false
  mrBusy : Bool := false
  mrDenied : Bool := false
  /-- CC_MR_CMD as written with the GO of the command in progress (R283) -/
  mrCmd : Word := 0
  /-- per rank position, the ECS error count at the last read (R656) -/
  ecs : Tbl Nat := []
  -- refresh (chapter 08)
  rate2x : Bool := false
  /-- the rate latched for step 5 of the coming tick -/
  rateNext : Option Bool := none
  emergCnt : Nat := 0
  /-- per rank position, the latest MR4 read: 0 none since the wake, 1 normal, 2 doubled, 3 more than doubled -/
  mr4 : Tbl Nat := []
  /-- per rank position, consecutive MR4 reads that asked for the normal rate -/
  mr4Norm : Tbl Nat := []
  tooHot : Bool := false
  ts0 : Nat := 0
  ts1 : Nat := 0
  tsPhy : Nat := 0
  /-- device keys of the sensors whose reading is held after abandoned polls (R290, R431) -/
  tsStale : List Nat := []
  /-- the latest reading of a sensor, by 2 * host identifier + sensor -/
  tsRaw : Tbl Nat := []
  /-- readings staged, oldest first, each with the frame whose tick applies it (R40) -/
  staged : List (Nat × Reading) := []
  /-- the frame from which the next poll is due (R287) -/
  pollAt : Nat := 0
  sr : SrState := .awake
  retained : Bool := false
  wakes : Nat := 0
  idleCnt : Nat := 0
  /-- T_w + EXIT_BCLK of an exit in progress, and the wake slot (R417, R418) -/
  readyAt : Nat := 0
  wakeSlot : Option Pos := none
  -- guaranteed tokens (R383, R387), by ITAG
  tokens : Tbl Nat := []
  share : Tbl Nat := []
  /-- share changes armed: ITAG, new share, the frame from whose tick it may take effect, and its reference frame -/
  shareChg : List (Nat × Nat × Nat × Nat) := []
  /-- for each owner whose decrease is armed, as the first tick after found it: the latest slot of the G requests admitted under the
  old share, and a serial number that is higher than theirs (R387) -/
  shareOld : List (Nat × Pos × Nat) := []
  arb : Arb := {}
  /-- the first BCLK in which the next enqueue may start (R347) -/
  enqFree : Nat := 0
  /-- every line never written since reads as zeros: the channel has been filled (R512) -/
  filled : Bool := false
  /-- which undefined contents the channel has: changes when its contents are lost -/
  memGen : Nat := 0
  /-- RESET_n is low -/
  resetN : Bool := true
  /-- a G request's decided slots by owner for R387: the latest slot of each owner's admitted G requests -/
  ownerLast : Tbl Pos := []
  -- error log, scrubber (chapter 14), Burl (chapter 15), Balance (chapter 13)
  elog : Elog := {}
  scrub : Scrub := {}
  brl : BrlCh := {}
  bal : Bal := {}
  /-- RAAIMT and RAAMMT as read from the DRAM's mode registers at training (R693) -/
  raaimt : Nat := 48
  raammt : Nat := 192
  /-- fence in force, committed, and waiting for PEND = 0 (R746, R759) -/
  fenced : Bool := false
  /-- the RCD control words, data-buffer control words and DRAM mode-register values in force, 32 words each, as the sections RCD, DB and MR
  of a record hold them (R538, R557); none before a run -/
  mods : List Word := []
  /-- a Caliper run is in progress on the channel (R532) -/
  calRun : Bool := false
  /-- reads of the channel have been moved or stalled: the takeover drain (R870) -/
  drain : Bool := false
  -- keeping the memory up (chapter 19)
  /-- EVENTS of CC_STAT (R895) -/
  events : Nat := 0
  powered : Bool := false
  /-- Movement has staged a change of the supplies: on, or off, and the frame from whose tick it applies (R40, R127) -/
  supNext : Option (Bool × Nat) := none
  prsnt : Bool := false
  /-- the supplies of its modules were stable as PRSNT_N last fell (R956) -/
  supplies : Bool := true
  svcReady : Bool := false
  rotNew : Bool := false
  /-- STATE of CAL_STAT (R566): 0 untrained, 1 waiting, 2 running, 3 trained -/
  calState : Nat := 0
  /-- `calState` as Movement's work found it at the latest latch point (R40) -/
  calSeen : Nat := 0
  /-- a CHAN_TEST runs on the channel (R895) -/
  test : Bool := false
  /-- packets discarded by the fence (R759) -/
  disc : Nat := 0
  /-- a commit of FENCE = 1 waits for PEND = 0 -/
  fencePend : Bool := false
  /-- PEND was 0 at the latest latch point -/
  fenceLatch : Bool := false
  /-- TKO and RJN of CC_STAT (R895) -/
  tko : Nat := 0
  rjn : Nat := 0
  /-- the BCLK of the latest event that calls for a takeover (R862) -/
  evtAt : Option Nat := none
  deriving DecidableEq, Repr


/-- A copy of the counters of a box (R916): CNT_FIXED, the programmable counters, the quads and DISCARDED of both
subchannels in register order (R940). -/
structure CntBank where
  fixed : Nat := 0
  vals : Tbl Nat := []
  quads : List Nat := []
  frame : Nat := 0
  deriving DecidableEq, Repr

/-- A sampler armed by an overflow of a counter (R919). -/
structure Armed where
  ctr : Nat := 0
  at_ : Nat := 0
  lost : Bool := false
  deriving DecidableEq, Repr

/-- A count box (chapter 20). -/
structure Cnt where
  /-- the BCLK count at the last CNT_CLR: CNT_FIXED counts from it (R906) -/
  base : Nat := 0
  /-- CNT_VAL0 to 7 -/
  vals : Tbl Nat := []
  bank : CntBank := {}
  /-- a periodic capture whose transfer into the bank is not complete -/
  capture : Option CntBank := none
  snapMiss : Bool := false
  snapMan : Bool := false
  quadClr : Bool := false
  /-- the BCLK of the latest clear of the quads (R929) -/
  quadAt : Nat := 0
  armed : Option Armed := none
  /-- CNT_SAMPLE0 to 3 -/
  sample : Tbl Word := []
  /-- groups of registers latched together and not yet all read (R912, R920, R928): offset, value, whether it has been read -/
  latch : List (List (Nat × Word × Bool)) := []
  deriving DecidableEq, Repr

/-- A row of an instance's heat list (R699, R709): page, channel, SCALE, unscaled sum. -/
structure InsHeat where
  page : Nat := 0
  ch : Nat := 0
  scale : Nat := 0
  sum : Nat := 0
  deriving DecidableEq, Repr

/-- An instance (R821 to R859). -/
structure Ins where
  /-- 0 FREE, 1 ACTIVE, 2 RESETTING, 3 FREEZING, 4 FROZEN, 5 DESTROYING (R825) -/
  st : Nat := 0
  direct : Bool := false
  elastic : Bool := false
  slice : Option (Nat × Nat) := none
  msgAddr : Nat := 0
  msgData : Word := 0
  ranges : List (Nat × Nat) := []
  /-- shares by role, 0 to 16 (R822) -/
  shares : List Nat := []
  quota : Nat := 0
  resets : Nat := 0
  resetDone : Bool := true
  resetBclk : Nat := 0
  /-- tallies 0 to 7, and increments not yet folded (R840, R841) -/
  tally : Tbl Nat := []
  fold : Tbl Nat := []
  elogCnt : Nat := 0
  lastCh : Nat := 0
  lastIdx : Nat := 0
  lastValid : Bool := false
  heat : List InsHeat := []
  heatSeq : Nat := 0
  /-- the page's interrupt as last seen asserted (R844) -/
  asserted : Bool := false
  /-- the BCLK of the cause of a message that is due and has not been sent -/
  msgDue : Option Nat := none
  /-- the generation being drained (R837) -/
  oldGen : Nat := 0
  /-- a command waits for its tick: 0 none, 3 reset, 4 freeze, 5 thaw, 6 destroy, 7 CNT_USER_SET, 8 SHARE_SET -/
  next : Nat := 0
  /-- the frame whose tick that is (R827) -/
  nextAt : Nat := 0
  /-- the frame of the tick of the latest command that has taken effect -/
  effAt : Nat := 0
  /-- CNT_USER_EN as CNT_USER_SET gives it -/
  userNext : Bool := false
  /-- the mailbox whose command concerns the instance -/
  mb : Option Nat := none
  deriving DecidableEq, Repr

/-- A ring's context (R766). -/
structure Ctx where
  st : Nat := 0
  log2 : Nat := 0
  cfg : Nat := 0
  itag : Nat := 0
  gen : Nat := 0
  err : Nat := 0
  descBase : Nat := 0
  cmplBase : Nat := 0
  tail : Nat := 0
  head : Nat := 0
  cur : Nat := 0
  chainPos : Nat := 0
  chainAddr : Nat := 0
  acc : Nat := 0
  errIdx : Nat := 0
  deriving DecidableEq, Repr

/-- An instance that INS_CREATE or RESTORE makes at its tick (R826, R827): its ITAG, its record, INS_CFG, its restored rings. -/
structure InsStage where
  itag : Nat := 0
  body : Ins := {}
  cfg : Word := 0
  rings : List (Nat × Ctx) := []
  restore : Bool := false
  /-- the frame whose tick it is -/
  at_ : Nat := 0
  mb : Option Nat := none
  deriving DecidableEq, Repr

/-- A result of the last Caliper run for a step, subchannel, rank and lane (R569). -/
structure CalRes where
  dly : Nat := 0
  vref : Nat := 0
  eyeW : Nat := 0
  eyeH : Nat := 0
  /-- the write eye of step FINAL -/
  wrW : Nat := 0
  wrH : Nat := 0
  tries : Nat := 0
  /-- signed deskew of the lane's bits, one byte each -/
  deskew : List Nat := []
  deriving DecidableEq, Repr

/-- A channel's Caliper engine (R531 to R570) and the place it holds or awaits (R521). -/
structure Cal where
  /-- the run waiting or in progress: 0 none, 1 full, 2 fast restore -/
  kind : Nat := 0
  /-- who started it: 0 start-up, 1 REJOIN, 2 TRAIN, 3 a commit of CAL_CTL, 4 CHAN_TEST -/
  owner : Nat := 0
  noJwl : Bool := false
  /-- the channel holds a place under TRN_PWR_MAX -/
  place : Bool := false
  /-- a test waits for its place -/
  testWait : Bool := false
  start : Nat := 0
  restored : Bool := false
  failed : Bool := false
  jwlPending : Bool := false
  jwlWritten : Bool := false
  elapsed : Nat := 0
  runs : Nat := 0
  step : Nat := 0
  stepSc : Nat := 0
  stepRk : Nat := 0
  progress : Nat := 0
  tries : Nat := 0
  /-- CAL_FAIL bits [15:0] -/
  failWord : Nat := 0
  restoreFails : Nat := 0
  runFails : Nat := 0
  /-- results by step, subchannel, rank field and lane: key 16 (8 (2 step + sc) + rk) + lane -/
  res : Tbl CalRes := []
  /-- REFab commands issued in the run (R536) -/
  refabs : Nat := 0
  /-- a fast restore of this run has come to nothing: what goes on is the same run, in full (R555) -/
  fell : Bool := false
  /-- the BCLK of the latest progress of the step, and of the latest REFab -/
  progAt : Nat := 0
  refAt : Nat := 0
  deriving DecidableEq, Repr

/-- The calibration reference of a PHY pair (R499, R947 to R949). -/
structure Calref where
  meas : Nat := 0
  /-- 0 not measured, 1 usable, 2 open, 3 short -/
  st : Nat := 0
  warn : Bool := false
  startFault : Bool := false
  faults : Nat := 0
  deriving DecidableEq, Repr

/-- A copy of a channel's record in the Jewel (R606 to R608): its state code as JWL_REC_INFO reports it, and what of its
contents the block acts on. -/
structure JwlCopy where
  /-- 0 valid, 1 never written, 2 MAGIC, 3 FORMAT and others, 4 KIND, 5 CRC -/
  st : Nat := 1
  kind : Nat := 0
  seq : Nat := 0
  frame : Nat := 0
  /-- the SPD identity and configuration of IDENT and TIMING -/
  spd : Spd := {}
  bin : Nat := 0
  moduleId : Word := 0
  temp : Nat := 0
  /-- the values of LANE, CACS and IMP, by the keys of Balance -/
  vals : List (Nat × Int) := []
  /-- the sections RCD, DB and MR, as words -/
  mods : List Word := []
  deriving DecidableEq, Repr

/-- A payload waiting to be written (R559, R610, R510). -/
structure JwlPend where
  kind : Nat := 1
  frame : Nat := 0
  spd : Spd := {}
  bin : Nat := 0
  moduleId : Word := 0
  temp : Nat := 0
  vals : List (Nat × Int) := []
  mods : List Word := []
  deriving DecidableEq, Repr

/-- The Jewel (R606 to R629). -/
structure Jwl where
  /-- copy X of channel c at key 2c + X -/
  copies : Tbl JwlCopy := []
  pend : Tbl (Option JwlPend) := []
  wrFail : Bool := false
  lastCh : Nat := 0
  lastCopy : Bool := false
  wrCnt : Nat := 0
  wrFails : Nat := 0
  badCopies : Nat := 0
  /-- the BCLK of a channel's latest write, plus 1 -/
  last : Tbl Nat := []
  deriving DecidableEq, Repr

/-- A Lathe descriptor (R773). -/
structure Desc where
  op : Nat := 0
  irq : Bool := false
  end_ : Bool := false
  hint : Nat := 0
  swap : Nat := 0
  len : Nat := 0
  src : Nat := 0
  dst : Nat := 0
  user : Nat := 0
  deriving DecidableEq, Repr

/-- A descriptor of a ring that has started and whose completion has not been formed (R777, R783 to R785, R792). -/
structure Job where
  /-- the model's serial number of the job within its ring -/
  sn : Nat := 0
  idx : Nat := 0
  /-- the descriptor in the ring -/
  top : Desc := {}
  /-- the descriptor whose lines are issued: the chain's, inside a chain -/
  d : Desc := {}
  inChain : Bool := false
  chainPos : Nat := 0
  /-- the next chain descriptor to fetch -/
  chainAddr : Nat := 0
  /-- `d` is still to be fetched -/
  fetch : Bool := false
  /-- lines of `d` issued -/
  next : Nat := 0
  issued : Bool := false
  /-- the status met (R783), and the offset, chain position and line number of the line that met it first -/
  status : Nat := 0
  off : Nat := 0
  pos : Nat := 0
  k : Nat := 0
  named : Bool := false
  late : Bool := false
  corr : Bool := false
  thr : Bool := false
  diff : Bool := false
  form : Bool := false
  halt : Bool := false
  /-- BCLK of the descriptor's first OFFLINE -/
  offline : Option Nat := none
  deriving DecidableEq, Repr

/-- A Lathe ring (R763 to R796). -/
structure Ring where
  ctx : Ctx := {}
  /-- descriptors fetched, checked and not started, oldest first, with the status of their checks (R775) -/
  pre : List (Nat × Desc) := []
  /-- index of the next descriptor to fetch -/
  fetchIdx : Nat := 0
  /-- chain descriptors fetched and not started -/
  cpre : List (Nat × Desc) := []
  jobs : List Job := []
  nextJob : Nat := 0
  /-- the records of the completion line in progress: index and record -/
  recs : List (Nat × Nat) := []
  deriving DecidableEq, Repr

/-- What an operation slot of a Lathe engine is for (R778). -/
inductive OpKind where
  | fetch | chain | read | chkA | chkB | write | cmpl
  deriving DecidableEq, Repr

/-- Where a Lathe operation stands: waiting for its grant, injected, held by Burl, waiting 1 µs under R784, waiting under R781,
or answered and waiting for its pair (R774). -/
inductive OpSt where
  | queued | sent | held | retry (t : Nat) | order | answered
  deriving DecidableEq, Repr

/-- An operation slot in use (R778). -/
structure LOp where
  id : Nat := 0
  kind : OpKind := .read
  st : OpSt := .queued
  ring : Nat := 0
  itag : Nat := 0
  gen : Nat := 0
  job : Nat := 0
  idx : Nat := 0
  pos : Nat := 0
  off : Nat := 0
  /-- the address of the request, and where a copy's write goes -/
  pa : Nat := 0
  dst : Nat := 0
  swap : Nat := 0
  open_ : Bool := false
  buf : Bool := false
  data : Line := 0
  poison : Bool := false
  /-- a completion write that interrupts its owner when answered -/
  irq : Bool := false
  thr : Bool := false
  /-- BCLK of the first OFFLINE of a write that outlives its job -/
  offline : Option Nat := none
  deriving DecidableEq, Repr

/-- A Lathe engine (R761 to R808). -/
structure Le where
  /-- 0 online, 1 handing over, 2 offline, 3 powered down -/
  st : Nat := 0
  cq : List CWait := []
  ops : List LOp := []
  nextId : Nat := 0
  cached : List Nat := []
  /-- the ring whose turn it is and the lines it has issued in the turn -/
  turn : Nat := 0
  turnCnt : Nat := 0
  holds : List HoldEnt := []
  ovf : Nat := 0
  ctxHit : Nat := 0
  ctxMiss : Nat := 0
  dbRej : Nat := 0
  dbStale : Nat := 0
  halts : Nat := 0
  lateFail : Nat := 0
  disc : Nat := 0
  /-- the BCLK from which the next line may be issued -/
  free : Nat := 0
  deriving DecidableEq, Repr

/-- A doorbell on its way to an engine (R769). -/
structure Bell where
  page : Nat := 0
  ring : Nat := 0
  tail : Nat := 0
  restart : Bool := false
  arr : Nat := 0
  /-- a route-epoch hold keeps it at the service node (R486), with the BCLK that its way takes -/
  held : Option Nat := none
  deriving DecidableEq, Repr

/-- A doorbell that a route-epoch hold has kept leaves in BCLK `t`. -/
def Bell.leave (b : Bell) (t : Nat) : Bell := match b.held with | some n => { b with arr := t + n, held := none } | none => b

/-- The ring command of the pool page (R812), and the mailbox that waits for it. -/
structure Pool where
  busy : Bool := false
  /-- the ring whose ATTACH has met an offline line -/
  ring : Nat := 0
  result : Nat := 0
  /-- a ring command that Movement has staged: its mailbox, ring and code, and the frame from whose tick it is given (R40, R127) -/
  next : Option (Nat × Nat × Nat × Nat) := none
  deriving DecidableEq, Repr

/-- Movement's cores and firmware (R518 to R530, R886 to R901). -/
structure Mvc where
  running : Bool := false
  halted : Bool := false
  /-- MVC_FAULT has been raised since Movement's last reset (R433) -/
  fault : Bool := false
  faults : Nat := 0
  restarts : Nat := 0
  /-- BCLK counts of the disagreements of the last second -/
  recent : List Nat := []
  /-- MVC_HEARTBEAT as it read when Movement last began to run, and that BCLK (R125) -/
  heartbeat : Nat := 0
  beatAt : Nat := 0
  slot : Bool := false
  fallback : Bool := false
  swapPend : Bool := false
  swaps : Nat := 0
  verA : Word := 0
  verB : Word := 0
  /-- the frame and BCLK of a restart into a new image that has not written its heartbeat -/
  trial : Option (Nat × Nat) := none
  /-- the mailbox that carries FW_SWAP -/
  swapMb : Option Nat := none
  /-- the frame whose tick restarts Movement into the new image (R888) -/
  swapFrame : Nat := 0
  /-- MVC_STANDOFF_CNT (R128) -/
  standoff : Nat := 0
  /-- INTENT_OK (R124) -/
  intentOk : Bool := false
  /-- waiting C requests of requester 19 -/
  cq : List CWait := []
  nextTag : Nat := 0
  deriving DecidableEq, Repr

/-- The copy unit (R865 to R872, R897, R898). -/
structure Copy where
  on : Bool := false
  src : Nat := 0
  dst : Nat := 0
  remap : Bool := false
  poison : Bool := false
  /-- lines visited: the frontier is the line before -/
  next : Nat := 0
  done : Bool := false
  mirror : Bool := false
  /-- the lines of the copy reads issued and not returned -/
  out : List Nat := []
  lastRead : Nat := 0
  poisoned : Nat := 0
  /-- the rate in force, and the BCLK and line from which the present rate is counted -/
  t0 : Nat := 0
  n0 : Nat := 0
  deriving DecidableEq, Repr

/-- What Movement is carrying out on channels (R862 to R882): 0 nothing, 1 takeover, 2 rejoin, 3 a step of a rehash, 5 the fill
that ends a rehash. Its phase is 0 until the tick that begins it (R127). -/
structure Task where
  kind : Nat := 0
  src : Nat := 0
  dst : Nat := 0
  /-- TKO or RJN -/
  phase : Nat := 0
  force : Bool := false
  mb : Option Nat := none
  swFrame : Nat := 0
  copyStart : Nat := 0
  copyMs : Nat := 0
  /-- logical channels of a rehash still to be moved -/
  left : List Nat := []
  /-- the BCLK in which it began -/
  began : Nat := 0
  /-- the destination has raised an event (R874) -/
  fail : Bool := false
  /-- the frame whose tick ends the phase -/
  until_ : Option Nat := none
  /-- the frame from whose tick what Movement has staged applies: its start, and the end of phase 5 (R40, R127) -/
  at_ : Nat := 0
  /-- the phase of a rejoin that Movement has staged, and the frame from whose tick it shows -/
  rjn : Option (Nat × Nat) := none
  deriving DecidableEq, Repr

/-- A CHAN_TEST in progress (R883 to R885): channel, kind, whether a line test's training is still to come. -/
structure Tst where
  on : Bool := false
  ch : Nat := 0
  kind : Nat := 0
  mb : Option Nat := none
  train : Bool := false
  /-- the test has ended: the status and results to be given, and the frame from whose tick it ends (R40, R127) -/
  fin : Option (Nat × List (Nat × Nat) × Nat) := none
  deriving DecidableEq, Repr

/-- Thermal input and rate (R523, R524, R528, R950). -/
structure Therm where
  headroom : Nat := 0
  /-- the headroom captured before the present BCLK, and the BCLK of the latest capture -/
  prev : Nat := 0
  capBclk : Option Nat := none
  stale : Bool := true
  tj : Nat := 0
  rate : Nat := 0
  rateNext : Option Nat := none
  deriving DecidableEq, Repr

/-- The Crown port (R889 to R905). -/
structure Crn where
  spUp : Bool := false
  tap : Bool := false
  accCnt : Nat := 0
  busy : Bool := false
  done : Bool := false
  denied : Bool := false
  late : Bool := false
  corr : Bool := false
  status : Nat := 0
  /-- the access waiting for EGNT: its channel, and the BCLK in which EMERG is raised -/
  emerg : Option (Req × Nat) := none
  /-- granted: the BCLK of EGNT -/
  egnt : Option (Req × Nat) := none
  deriving DecidableEq, Repr

/-- A router's own state (R719, R738, R754, R757). -/
structure Rtr where
  linkFail : Nat := 0
  /-- consecutive failed resends, by input port -/
  fails : Tbl Nat := []
  retries : Nat := 0
  lost : Nat := 0
  deriving DecidableEq, Repr

/-- The torus as a whole (R739 to R745, R755). -/
structure Trt where
  epoch : Nat := 0
  /-- the table in force: false E0, true E1 -/
  active : Bool := false
  announced : Bool := false
  hold : Bool := false
  loss : Bool := false
  clearPend : Bool := false
  double : Bool := false
  /-- units whose CLEAR has been received, by node -/
  clears : List Nat := []
  /-- the frame in which CLEAR_ALL reaches its units; none before it is sent -/
  clearAll : Option Nat := none
  /-- the last route commit's check: RESULT, REASON, SRC, DEST (R754) -/
  check : Word := 0
  /-- requests that a loss has left without a response (R742) -/
  lost : List Req := []
  /-- the switch in progress is a loss switch -/
  lossNext : Bool := false
  deriving DecidableEq, Repr

/-- The machine. -/
structure State where
  /-- commands waiting, first in, first out -/
  pending : List Instr := []
  /-- the block BCLK count (R68); its low 64 bits are what registers show -/
  bclk : Nat := 0
  /-- BCLK has locked: the count runs -/
  locked : Bool := false
  bin : Bin := .mrdimm12800
  esc : Esc := {}
  pages : Tbl Page := []
  blk : Blk := {}
  map : MapSt := {}
  gws : Tbl Gw := []
  subs : Tbl Sub := []
  chans : Tbl Chan := []
  /-- stored lines by location key; an unlisted line is free (R542, R513) or zero, as `fill` of its channel says -/
  mem : Tbl (Option RawLine) := []
  pkts : List Pkt := []
  /-- by node, the BCLK after its latest register access (R481) -/
  nodeFree : Tbl Nat := []
  /-- serial numbers given to requests at enqueue; the model's own -/
  nextSn : Nat := 0
  /-- how many free values have been used; the model's own -/
  nextFree : Nat := 0
  trt : Trt := {}
  cnts : Tbl Cnt := []
  /-- the generation of each ITAG in force (R817, R835), and the BCLK of its latest change (R183) -/
  gens : Tbl Nat := []
  genAt : Tbl Nat := []
  /-- CRN_PREEMPT_CNT (R891) -/
  crnPreempt : Nat := 0
  ins : Tbl Ins := []
  insStage : Option InsStage := none
  cals : Tbl Cal := []
  /-- the nine calibration references -/
  calrefs : Tbl Calref := []
  jwl : Jwl := {}
  rings : Tbl Ring := []
  les : Tbl Le := []
  bells : List Bell := []
  pool : Pool := {}
  mvc : Mvc := {}
  copy : Copy := {}
  task : Task := {}
  therm : Therm := {}
  crn : Crn := {}
  rtrs : Tbl Rtr := []
  /-- PHASE of BLK PG_STAT (R498) -/
  phase : Nat := 0
  warm : Bool := false
  chRstDenied : Bool := false
  fillSkipped : Bool := false
  /-- the platform configuration that Movement has read -/
  plat : PlatCfg := {}
  /-- BLK_CFG as it stood at the start-up in effect (R525) -/
  startCfg : Word := 0
  /-- channels whose zero fill is still to end (R511, R512) -/
  filling : List Nat := []
  /-- a channel of the reference configuration (R267) -/
  refSpd : Option Spd := none
  tst : Tst := {}
  deriving DecidableEq, Repr

/-- The machine right after reset: every field at the value its structure gives it. -/
def State.reset : State := {}

end Sys2Proof.Machine
end

