-- ==== Sys2Proof/Machine/Ops.lean ====
section
/-! DEFINITION. The named operations over the state that every family shares: reading and writing pages and their
registers, units, the frame's arithmetic, DRAM lines, packets and the paths they take. -/
namespace Sys2Proof.Machine

/-! ### Units -/

/-- A page before anything is written to it: EN is 1 on the BLK, MVC and CRN pages (R92). -/
def pageDflt (n : Nat) : Page :=
  if n = 0 ∨ n = 1 ∨ n = 3 ∨ n = 5 then { en := true, enReq := true } else {}

/-- A page. -/
def State.page (s : State) (p : PageId) : Page := Tbl.get pageDflt s.pages p.num

/-- The page asserts its interrupt (R96). -/
def Page.asserts (pg : Page) : Bool := (pg.isr &&& ~~~pg.imr) != 0

/-- The level of the interrupt output that the summary has received by BCLK `t` (R482). -/
def Page.seen (pg : Page) (t : Nat) : Bool := ((pg.wire.find? fun x => decide (x.1 + 4 ≤ t)).map (·.2)).getD false

/-- A change of the interrupt output in BCLK `t` enters the page's wire to the summary (R482). -/
def Page.rewire (pg : Page) (t : Nat) : Page :=
  if ((pg.wire.head?).map (·.2)).getD false = pg.asserts then pg
  else { pg with wire := (t, pg.asserts) :: (pg.wire.filter fun x => decide (t < x.1 + 4)) ++ ((pg.wire.find? fun x => decide (x.1 + 4 ≤ t)).toList) }

/-- Changes a page. -/
def State.updPage (s : State) (p : PageId) (f : Page → Page) : State :=
  { s with pages := Tbl.upd pageDflt s.pages p.num fun pg => (f pg).rewire s.bclk }

/-- A gateway. -/
def State.gw (s : State) (g : Nat) : Gw := Tbl.get (fun _ => {}) s.gws g

/-- Changes a gateway. -/
def State.updGw (s : State) (g : Nat) (f : Gw → Gw) : State :=
  { s with gws := Tbl.upd (fun _ => {}) s.gws g f }

/-- A channel. -/
def State.chan (s : State) (c : Nat) : Chan := Tbl.get (fun _ => {}) s.chans c

/-- Changes a channel. -/
def State.updChan (s : State) (c : Nat) (f : Chan → Chan) : State :=
  { s with chans := Tbl.upd (fun _ => {}) s.chans c f }

/-- Subchannel `sc` of channel `c`. -/
def State.sub (s : State) (c sc : Nat) : Sub := Tbl.get (fun _ => {}) s.subs (2 * c + sc)

/-- Changes a subchannel. -/
def State.updSub (s : State) (c sc : Nat) (f : Sub → Sub) : State :=
  { s with subs := Tbl.upd (fun _ => {}) s.subs (2 * c + sc) f }

/-- The channel is in service: it holds a logical index or the reserve role (R28, R222). -/
def Chan.inService (ch : Chan) : Bool := decide (ch.role ≤ 16)

/-! ### Registers held by pages -/

/-- The active copy of an RS register, or the value of an RW register. -/
def Page.actReg (pg : Page) (p : PageId) (off : Nat) : Word := Tbl.get (regReset p) pg.act off

/-- The shadow copy of an RS register. -/
def Page.shdReg (pg : Page) (p : PageId) (off : Nat) : Word := Tbl.get (regReset p) pg.shd off

/-- The active copy of a register of the machine. -/
def State.reg (s : State) (p : PageId) (off : Nat) : Word := (s.page p).actReg p off

/-- The shadow copy of a register of the machine. -/
def State.shd (s : State) (p : PageId) (off : Nat) : Word := (s.page p).shdReg p off

/-- A field of the active copy of a register. -/
def State.regFld (s : State) (p : PageId) (off lo w : Nat) : Nat := fld (s.reg p off) lo w

/-- Stores the active copy of a register. -/
def State.setReg (s : State) (p : PageId) (off : Nat) (v : Word) : State :=
  s.updPage p fun pg => { pg with act := Tbl.set (regReset p) pg.act off v }

/-- Stores the shadow copy of a register. -/
def State.setShd (s : State) (p : PageId) (off : Nat) (v : Word) : State :=
  s.updPage p fun pg => { pg with shd := Tbl.set (regReset p) pg.shd off v }

/-- Stores both copies of a register: a bit the hardware clears in both copies (R564, R602, R753). -/
def State.setBoth (s : State) (p : PageId) (off : Nat) (v : Word) : State := (s.setReg p off v).setShd p off v

/-- An event sets a bit of a page's PG_ISR (R96). -/
def State.raise (s : State) (p : PageId) (bit : Nat) : State :=
  s.updPage p fun pg =>
    { pg with isr := setBit pg.isr bit, evt := setBit (if pg.evtAt = s.bclk then pg.evt else 0) bit, evtAt := s.bclk }

/-- `raise` under a condition. -/
def State.raiseIf (s : State) (b : Bool) (p : PageId) (bit : Nat) : State := if b then s.raise p bit else s

/-- A commit that takes effect at the tick of the present frame changes bits of `m` of a register: a staged result for them is
superseded (R47, R104). -/
def State.superseded (s : State) (p : PageId) (off : Nat) (m : Word) : Bool :=
  let pg := s.page p
  (pg.cmt == .armed && decide (pg.commit.eff ≤ s.esc.frame) && ((s.shd p off ^^^ s.reg p off) &&& m) != 0) ||
  (pg.cmt == .idle && pg.commit.applied && decide (pg.commit.eff = s.esc.frame) &&
    pg.commit.chg.any fun x => x.1 == off && (x.2 &&& m) != 0)

/-- A field takes a value in both copies of a register: a bit that the hardware sets or clears (R564, R602, R753, R843). -/
def State.setFldBoth (s : State) (p : PageId) (off lo w v : Nat) : State :=
  (s.setReg p off (setFld (s.reg p off) lo w v)).setShd p off (setFld (s.shd p off) lo w v)

/-- A piece of service work is abandoned, or its result discarded: step 11 of the coming tick records it (R44, R47, R48, R104). -/
def State.overrun (s : State) (kind unit : Nat) : State :=
  if s.esc.running then { s with esc := { s.esc with ovrDue := s.esc.ovrDue ++ [(kind, unit)] } } else s

/-- The work was abandoned at the latch point of the frame in progress, or of the frame that ends at this tick. -/
def State.wasLate (s : State) (kind unit : Nat) : Bool := s.esc.late.contains (kind, unit)

/-- What an RC register remembers as an update reaches it in BCLK `now`: the value before that BCLK (R99). -/
def rcSet (was : Option (Nat × Word)) (now : Nat) (old : Word) : Option (Nat × Word) :=
  match was with
  | some x => if now ≤ x.1 then some x else some (now, old)
  | none => some (now, old)

/-- A read of an RC register in BCLK `now`: what it returns and what it leaves (R97, R99). -/
def rcRead (was : Option (Nat × Word)) (now : Nat) (v : Word) : Word × Word :=
  match was with
  | some x => if x.1 = now then (x.2, v) else (v, 0)
  | none => (v, 0)

/-- What an RC register remembers after a read in BCLK `now`: another read of that BCLK finds nothing before the update. -/
def rcRest (was : Option (Nat × Word)) (now : Nat) : Option (Nat × Word) := was.map fun x => if x.1 = now then (now, 0) else x

/-- A FIELD refusal recorded in PG_ERR in BCLK `t` (R112): the offset of the register refused and the rule. -/
def State.setErrAt (s : State) (p : PageId) (off rule t : Nat) : State :=
  s.updPage p fun pg =>
    { pg with err := pack [(0, 12, off), (16, 8, rule), (24, 8, 0x0C)], errWas := rcSet pg.errWas t pg.err }

/-- A FIELD refusal recorded in PG_ERR in the present BCLK. -/
def State.setErr (s : State) (p : PageId) (off rule : Nat) : State := s.setErrAt p off rule s.bclk

/-! ### Frames and slots -/

/-- k, the BCLK per slot. -/
def State.k (s : State) : Nat := s.bin.k

/-- FRAME_NO (R35, R36). -/
def State.frameNo (s : State) : Nat := s.esc.frame % 2 ^ 48

/-- The BCLK of the coming tick (R27). -/
def State.nextTick (s : State) : Nat := s.esc.tickBclk + s.esc.fs * s.k

/-- The slot index in which the block stands (R25); while the frames do not run it is 0 (DESIGN CHOICE: R70 says nothing of it; log
entry 58). -/
def State.slotNow (s : State) : Nat := if s.esc.running then (s.bclk - s.esc.tickBclk) / s.k else 0

/-- The BCLK of the latch point of the present frame (R43). -/
def State.latchBclk (s : State) : Nat := s.esc.tickBclk + (s.esc.fs - 8) * s.k

/-- The block has passed the latch point of the present frame. -/
def State.pastLatch (s : State) : Bool := s.esc.latched || decide (s.latchBclk ≤ s.bclk)

/-- The frame from whose tick what service work or Movement stages now applies: the first whose latch point lies ahead (R40, R127). -/
def State.soonFrame (s : State) : Nat := s.esc.frame + 1 + b2n s.pastLatch

/-- The commit pending on the ESC page that changes FRAME_SLOTS, once armed: its effective frame and new length. -/
def State.fsArmed (s : State) : Option (Nat × Nat) :=
  let pg := s.page .esc
  let n := fld (pg.shdReg .esc 0x050) 0 9
  if pg.cmt = .armed ∧ n ≠ s.esc.fs then some (pg.commit.eff, n) else none

/-- The frame length in force in frame `f` (R31). -/
def State.fsAt (s : State) (f : Nat) : Nat :=
  if f < s.esc.frame then (if f < s.esc.fschgFrame then s.esc.fsPrev else s.esc.fs)
  else match s.fsArmed with
  | some (e, n) => if e ≤ f then n else s.esc.fs
  | none => s.esc.fs

/-- The slots from slot 0 of an earlier frame to slot 0 of the present one: FRAME_SLOTS changes no more than once within the frames
that any slot still counts in. -/
def State.slotsBack (s : State) (f : Nat) : Nat :=
  let n := s.esc.frame - f
  let new := min n (s.esc.frame - s.esc.fschgFrame)
  new * s.esc.fs + (n - new) * s.esc.fsPrev

/-- One position is before another. -/
def Pos.lt (a b : Pos) : Bool := decide (a.frame < b.frame) || (decide (a.frame = b.frame) && decide (a.slot < b.slot))

/-- One position is at or before another. -/
def Pos.le (a b : Pos) : Bool := !Pos.lt b a

/-- The later of two positions. -/
def Pos.max (a b : Pos) : Pos := if Pos.lt a b then b else a

/-- A slot index beyond its frame's end is carried into the frames that follow. -/
def State.normPos (s : State) : Nat → Nat → Nat → Pos
  | 0, f, x => ⟨f, x⟩
  | n + 1, f, x => if x < s.fsAt f then ⟨f, x⟩ else s.normPos n (f + 1) (x - s.fsAt f)

/-- The slot `n` slots after a position. -/
def State.posAdd (s : State) (p : Pos) (n : Nat) : Pos := s.normPos (n / 32 + 2) p.frame (p.slot + n)

/-- The slot after a position. -/
def State.posNext (s : State) (p : Pos) : Pos := s.posAdd p 1

/-- The slots between slot 0 of the present frame and slot 0 of frame `f`, for `f` at or after it. -/
def State.framesSlots (s : State) (f : Nat) : Nat :=
  let n := f - s.esc.frame
  match s.fsArmed with
  | some (e, m) => let old := min n (e - s.esc.frame); old * s.esc.fs + (n - old) * m
  | none => n * s.esc.fs

/-- The absolute slot of a position: slots since the first tick. -/
def State.absSlot (s : State) (p : Pos) : Nat :=
  if s.esc.frame ≤ p.frame then s.esc.slotBase + s.framesSlots p.frame + p.slot
  else s.esc.slotBase + p.slot - s.slotsBack p.frame

/-- The BCLK at which the slot of a position begins (R64). -/
def State.slotBclk (s : State) (p : Pos) : Nat :=
  if s.esc.frame ≤ p.frame then s.esc.tickBclk + (s.framesSlots p.frame + p.slot) * s.k
  else s.esc.tickBclk + p.slot * s.k - s.slotsBack p.frame * s.k

/-- The position of the slot that contains a BCLK at or after the present tick. -/
def State.posAt (s : State) (b : Nat) : Pos := s.posAdd ⟨s.esc.frame, 0⟩ ((b - s.esc.tickBclk) / s.k)

/-- The first slot that begins at or after a BCLK. -/
def State.posFrom (s : State) (b : Nat) : Pos := s.posAdd ⟨s.esc.frame, 0⟩ (ceilDiv (b - s.esc.tickBclk) s.k)

/-- The stamp field of a response: FRAME_NO[15:0] and the slot index (R61). -/
def Pos.stamp (p : Pos) : Nat := (p.frame % 2 ^ 16) * 256 + p.slot % 256

/-- An event that falls in BCLK `t` can be reached without passing the coming tick. -/
def State.canReach (s : State) (t : Nat) : Bool := !s.esc.running || decide (t < s.nextTick)


/-! ### DRAM lines -/

/-- The key of a location (R374). -/
def locKey (l : Loc) : Nat :=
  ((((((l.ch * 2 + l.sc) * 8 + l.rk) * 8 + l.bg) * 4 + l.ba) * 2 ^ 20 + l.row) * 128) + l.col

/-- The channel of a location's key. -/
def chanOfKey (key : Nat) : Nat := key / (2 * 8 * 8 * 4 * 2 ^ 20 * 128)

/-- The bank of a location: rank field, bank group, bank (R344). -/
def locBank (l : Loc) : Nat := (l.rk * 8 + l.bg) * 4 + l.ba

/-- The stored line at a location: what was written there; else zeros in a filled channel (R512), else an undefined
line, a free value of the location and of the channel's loss of contents. -/
def State.readLine (s : State) (l : Loc) : RawLine :=
  match Tbl.get (fun _ => none) s.mem (locKey l) with
  | some r => r
  | none => if (s.chan (chanOfKey (locKey l))).filled then 0 else Config.freeLine (2 * ((s.chan l.ch).memGen * 2 ^ 48 + locKey l))

/-- Storing a line keeps the canonical form: zeros in a filled channel are not listed. -/
def State.writeLine (s : State) (l : Loc) (r : RawLine) : State :=
  { s with mem := Tbl.set (fun _ => none) s.mem (locKey l) (if (s.chan (chanOfKey (locKey l))).filled ∧ r = 0 then none else some r) }

/-- A channel's contents are lost (R424, R542) or, with `fill`, become zeros (R512). -/
def State.loseLines (s : State) (c : Nat) (fill : Bool) : State :=
  let s := { s with mem := Tbl.drop (fun key => chanOfKey key == c) s.mem }
  s.updChan c fun ch => { ch with filled := fill, memGen := ch.memGen + 1 }

/-- The canonical form of the DRAM: keys strictly rising, every entry present, and none that a filled channel would
read anyway. -/
def State.memWf (s : State) : Bool :=
  Tbl.wf (fun _ => none) s.mem &&
  s.mem.all fun e => !((s.chan (chanOfKey e.1)).filled && e.2 == some 0)

/-! ### Paths through the torus -/

/-- The offset of the route table in force (R729, R755). -/
def State.routeBase (s : State) : Nat := if s.trt.active then 0x200 else 0x100

/-- The output port at router `n` for destination `d` in the table in force. -/
def State.routePort (s : State) (n d : Nat) : Nat := s.regFld (.trt n) (s.routeBase + 4 * d) 0 3

/-- The router a unit's node is attached to (R714, R735). -/
def State.attach (s : State) (n : Nat) : Nat :=
  let sb := neighbour n 0
  if s.regFld (.trt sb) 0x040 12 1 = 1 then sb else n

/-- The hops from router `n` to the unit of node `d` along the table in force; none where the table does not lead
there within 12 hops. -/
def State.walk (s : State) (d : Nat) : Nat → Nat → Option Nat
  | 0, _ => none
  | fuel + 1, n =>
    let p := s.routePort n d
    if p = 4 then (if n = d then some 0 else none)
    else if p = 5 then (if s.attach d = n then some 0 else none)
    else if p < 4 then (s.walk d fuel (neighbour n p)).map (· + 1)
    else none

/-- The hops between two nodes (R715, R716); 0 where no path is. -/
def State.hops (s : State) (a b : Nat) : Nat := (s.walk b 13 (s.attach a)).getD 0

/-- The routers a packet passes and the port it leaves each by, ending at the port of its unit (R717, R729); cut at 13. -/
def State.path (s : State) (d : Nat) : Nat → Nat → List (Nat × Nat)
  | 0, _ => []
  | fuel + 1, n =>
    let p := s.routePort n d
    if p < 4 then (n, p) :: s.path d fuel (neighbour n p) else [(n, p)]

/-- A router. -/
def State.rtr (s : State) (n : Nat) : Rtr := Tbl.get (fun _ => {}) s.rtrs n

/-- Changes a router. -/
def State.updRtr (s : State) (n : Nat) (f : Rtr → Rtr) : State := { s with rtrs := Tbl.upd (fun _ => {}) s.rtrs n f }

/-- A path leaves a router by a link declared failed (R738). -/
def State.crossesFail (s : State) (l : List (Nat × Nat)) : Bool :=
  l.any fun x => decide (x.2 < 4) && (s.rtr x.1).linkFail.testBit x.2

/-- The link of router `n` on port `p` is a dateline (R724). -/
def dateline (n p : Nat) : Bool :=
  (p == 0 && n % 6 == 5) || (p == 1 && n % 6 == 0) || (p == 2 && n / 6 == 5) || (p == 3 && n / 6 == 0)

/-- The virtual channels a packet travels on along its path (R724): `d` the dimension it arrived in, `b` that it is on B. -/
def pathVc : List (Nat × Nat) → Option Nat → Bool → List (Nat × Nat × Bool)
  | [], _, _ => []
  | (n, p) :: t, d, b =>
    let v := if p < 4 ∧ dateline n p then true else if d = some (p / 2) then b else false
    (n, p, v) :: pathVc t (some (p / 2)) v

/-- The flits of a packet (R722). -/
def Body.flits : Body → Nat
  | .memReq r => if r.write then 2 else 1
  | .memResp r => if r.rkind = 1 then 2 else 1
  | _ => 1

/-- The class of a packet's kind: 0 REQ, 1 RSP, 2 SVC (R722). -/
def Body.cls : Body → Nat
  | .memReq _ => 0
  | .svcReq _ _ => 2
  | _ => 1

/-! ### The port between a unit and its router (R443, R726, R727, R762) -/

/-- A node is a Lathe engine's, whose port has three lanes (R762). -/
def isLathe (n : Nat) : Bool := n == nodeLe 0 || n == nodeLe 1

/-- The port, and lane, by which a packet is injected (R762). -/
def Pkt.inPort (p : Pkt) : Nat × Nat := (p.src, if isLathe p.src then p.dst % 3 else 0)

/-- The port, and lane, by which a packet is ejected (R762). -/
def Pkt.outPort (p : Pkt) : Nat × Nat := (p.dst, if isLathe p.dst then p.src % 3 else 0)

/-- A packet crosses the torus: it is no patrol request, which stays at its channel, and does not wait for a switch. -/
def Pkt.moves (p : Pkt) : Bool := !p.waiting && p.src != p.dst

/-- The first BCLK, from `t` on, from which `n` BCLK are free of the flits in `busy`: pairs of a first BCLK and a length. -/
def gapFrom (busy : List (Nat × Nat)) (n : Nat) : Nat → Nat → Nat
  | 0, t => t
  | fuel + 1, t =>
    match busy.find? fun b => decide (b.1 < t + n) && decide (t < b.1 + b.2) with
    | some b => gapFrom busy n fuel (b.1 + b.2)
    | none => t

/-- The BCLK that a port gives each packet: at each free BCLK, of those ready the one that `before` puts first; a packet's flits
go in consecutive BCLK (R725). -/
def portPlan (busy : List (Nat × Nat)) (before : Pkt → Pkt → Bool) (ready : Pkt → Nat) :
    Nat → List (Nat × Pkt) → Nat → List (Nat × Nat)
  | 0, _, _ => []
  | _, [], _ => []
  | fuel + 1, e :: es, free =>
    let t := gapFrom busy 1 busy.length (max free (es.foldl (fun k x => min k (ready x.2)) (ready e.2)))
    match (e :: es).filter fun x => decide (ready x.2 ≤ t) with
    | [] => []
    | y :: ys =>
      let w := ys.foldl (fun b x => if before x.2 b.2 then x else b) y
      let u := gapFrom busy w.2.body.flits busy.length t
      (w.1, u) :: portPlan busy before ready fuel ((e :: es).filter fun x => x.1 != w.1) (u + w.2.body.flits)

/-- The order of injection (R443, R726): the one ready first; a train's packets after every other, by grant BCLK and channel. -/
def Pkt.goesBefore (a b : Pkt) : Bool :=
  match a.train, b.train with
  | none, some _ => true
  | some _, none => false
  | none, none => decide (a.ready < b.ready)
  | some x, some y => decide (x < y) || (x == y && decide (a.dst < b.dst))

/-- The order of ejection (R727): the one that reached the router first, then the lower input port and virtual channel. -/
def Pkt.leavesBefore (a b : Pkt) : Bool :=
  decide (a.near < b.near) || (a.near == b.near && decide (a.lane < b.lane))

/-- The flits that port `k` has passed or is passing in BCLK `now`. -/
def passed (l : List (Nat × Pkt)) (at_ : Pkt → Nat) (now : Nat) : List (Nat × Nat) :=
  (l.filter fun x => decide (at_ x.2 ≤ now)).map fun x => (at_ x.2, x.2.body.flits)

/-- The packets of a port injected anew from BCLK `now` on: those already injected stay. -/
def planIn (pkts : List Pkt) (k : Nat × Nat) (now : Nat) (fresh : Nat) : List Pkt :=
  let l := (pkts.zipIdx.map fun x => (x.2, x.1)).filter fun x => x.2.moves && x.2.inPort == k
  let old := l.filter fun x => x.1 != fresh
  let todo := l.filter fun x => x.1 == fresh || decide (now < x.2.inj)
  let plan := portPlan (passed old Pkt.inj now) Pkt.goesBefore Pkt.ready todo.length todo 0
  pkts.mapIdx fun i p => match plan.find? fun x => x.1 == i with
    | some x => { p with inj := x.2, near := x.2 + (p.near - p.inj), arr := if p.inj = x.2 then p.arr else x.2 + (p.near - p.inj) }
    | none => p

/-- The packets of a port ejected anew after BCLK `now`: those ejected stay. -/
def planOut (pkts : List Pkt) (k : Nat × Nat) (now : Nat) (fresh : Nat) : List Pkt :=
  let l := (pkts.zipIdx.map fun x => (x.2, x.1)).filter fun x => x.2.moves && x.2.outPort == k
  let old := l.filter fun x => x.1 != fresh
  let todo := l.filter fun x => x.1 == fresh || decide (now < x.2.arr)
  let plan := portPlan (passed old Pkt.arr now) Pkt.leavesBefore Pkt.near todo.length todo 0
  pkts.mapIdx fun i p => match plan.find? fun x => x.1 == i with
    | some x => { p with arr := x.2 }
    | none => p

/-- The BCLK in which the last flit of a train granted in BCLK `g` to channel `c` is injected. -/
def trainEnd (pkts : List Pkt) (c g : Nat) : Nat :=
  pkts.foldl (fun n p => if p.train = some g ∧ p.dst = nodeCh c then max n (p.inj + p.body.flits - 1) else n) 0

/-- LAST2 moves by as much as its train's last flit does (R443). -/
def Chan.shiftTrain (ch : Chan) (c : Nat) (old new : List Pkt) : Chan :=
  let a := trainEnd old c ch.arb.grantAt
  let b := trainEnd new c ch.arb.grantAt
  { ch with arb := { ch.arb with free := ch.arb.free + b - a, idle := ch.arb.idle + b - a } }

/-- A packet is ready in BCLK `t` to enter the torus: its flits wait for the port (R443, R726), and on a free path its header is
ejected 1 + 2h BCLK after its injection (R718), later where the unit's port is taken (R727). During a route hold it waits at its
node (R486); before a failed link it waits for a loss switch (R738). -/
def State.putPkt (s : State) (body : Body) (src dst t : Nat) (train : Option Nat := none) : State :=
  let path := s.path dst 13 (s.attach src)
  let stuck := s.crossesFail path
  let far := 2 * s.hops src dst + 1
  let last := (pathVc path none false).filter fun x => decide (x.2.1 < 4)
  let lane := match last.getLast? with
    | some x => 6 * (x.2.1 / 2 * 2 + (1 - x.2.1 % 2)) + 2 * body.cls + b2n x.2.2
    | none => 24 + 2 * body.cls
  let p : Pkt := { body := body, src := src, dst := dst, ready := t, inj := t, near := t + far, arr := t + far, lane := lane,
                   train := train, waiting := s.trt.hold || stuck, stuck := stuck && !s.trt.hold }
  let old := s.pkts ++ [p]
  let new := planIn old p.inPort s.bclk s.pkts.length
  let outs := ((old.zip new).filter fun x => x.1.inj != x.2.inj).map fun x => x.2.outPort
  let new := (p.outPort :: outs.eraseDups.erase p.outPort).foldl (fun l k => planOut l k s.bclk s.pkts.length) new
  let moved := ((s.pkts.zip new).filter fun x => x.1.train.isSome && x.1.inj != x.2.inj).map fun x => x.1.dst
  let s := ((List.range 17).filter fun c => moved.contains (nodeCh c)).foldl (fun s c => s.updChan c fun ch => ch.shiftTrain c s.pkts new.dropLast) s
  { s with pkts := new }

/-- The node of a requester (R433) for a request or response. -/
def nodeOfSrc (r : Nat) : Nat :=
  if r < 16 then nodeGw r else if r = 16 then nodeLe 0 else if r = 17 then nodeLe 1 else nodeSvc

end Sys2Proof.Machine
end

