-- ==== Sys2Proof/Machine/MapDecode.lean ====
section
/-! DEFINITION. From physical address to bank (chapter 04): the forward decode (R216 to R234, R239), the checks of an
address-map commit (R237) and the translator (R259, R260). -/
namespace Sys2Proof.Machine

/-- An image of the address-map page: its registers by offset. -/
abbrev MapImg := Nat → Word

/-- The active map. -/
def State.mapAct (s : State) : MapImg := fun off => s.reg .map off

/-- The map in the shadow. -/
def State.mapShd (s : State) : MapImg := fun off => s.shd .map off

namespace MapImg

/-- COL_BITS, ROW_BITS, RK_BITS, CID_BITS and MRD of MAP_ROWCOL (R254). -/
def colBits (m : MapImg) : Nat := fld (m 0x400) 0 4
/-- ROW_BITS. -/
def rowBits (m : MapImg) : Nat := fld (m 0x400) 4 5
/-- RK_BITS. -/
def rkBits (m : MapImg) : Nat := fld (m 0x400) 9 2
/-- CID_BITS. -/
def cidBits (m : MapImg) : Nat := fld (m 0x400) 11 2
/-- MRD. -/
def mrd (m : MapImg) : Bool := flag (m 0x400) 13

/-- Nch of R217. -/
def nch (m : MapImg) : Nat := 6 + 1 + m.rkBits + 5 + m.colBits + m.rowBits

/-- BASE of set `n` (R251). -/
def base (m : MapImg) (n : Nat) : Nat := fld (m (0x040 + 0x10 * n)) 30 2 <<< 30 ||| fld (m (0x044 + 0x10 * n)) 0 20 <<< 32

/-- LIMIT of set `n`: its bits [29:0] are all ones (R226). -/
def limit (m : MapImg) (n : Nat) : Nat :=
  fld (m (0x048 + 0x10 * n)) 30 2 <<< 30 ||| fld (m (0x04C + 0x10 * n)) 0 20 <<< 32 ||| (2 ^ 30 - 1)

/-- LCH_MAP of set `n` (R252). -/
def lch (m : MapImg) (n : Nat) : Nat := fld (m (0x0C0 + 4 * n)) 0 16
/-- SEL_LOW of set `n`. -/
def selLow (m : MapImg) (n : Nat) : Nat := fld (m (0x0C0 + 4 * n)) 16 4
/-- EN of set `n`. -/
def en (m : MapImg) (n : Nat) : Bool := flag (m (0x0C0 + 4 * n)) 20

/-- MAP_MASK of set `n`, select `i` (R253). -/
def mask (m : MapImg) (n i : Nat) : Nat :=
  fld (m (0x100 + 0x60 * n + 8 * i)) 0 32 ||| fld (m (0x104 + 0x60 * n + 8 * i)) 0 20 <<< 32

/-- log2 of the ways W of set `n` (R224); none where W is not 1, 2, 4, 8 or 16. -/
def ways (m : MapImg) (n : Nat) : Option Nat := log2exact (popcount 16 (m.lch n))

/-- N of set `n`: the set's span is 2^N bytes (R224). -/
def span (m : MapImg) (n : Nat) : Nat := (m.ways n).getD 0 + m.nch

/-- A select is in use (R231). -/
def used (m : MapImg) (n i : Nat) : Bool :=
  if i < 4 then decide (i < (m.ways n).getD 0)
  else if i = 5 ∨ i = 6 then decide (i - 5 < m.rkBits) else true

/-- S: how many selects the set uses (R229). -/
def selects (m : MapImg) (n : Nat) : Nat := (m.ways n).getD 0 + 1 + m.rkBits + 5

/-- The select positions, lowest first, for SEL_LOW = `low` and S = `sn` (R229). -/
def selPos (m : MapImg) (low sn : Nat) : List Nat :=
  rangeFrom 6 low ++ rangeFrom (6 + low + m.colBits) (sn - low)

/-- The value of select `i` for an address: the parity of the address under its mask (R232). -/
def selVal (m : MapImg) (n i pa : Nat) : Nat := b2n (parity 52 (Nat.land pa (m.mask n i)))

/-- RBASE of the reserve range (R255). -/
def rbase (m : MapImg) : Nat := fld (m 0x408) 30 2 <<< 30 ||| fld (m 0x40C) 0 20 <<< 32
/-- MAP_RESERVE.EN. -/
def resEn (m : MapImg) : Bool := flag (m 0x408) 0
/-- RSEL_LOW. -/
def rselLow (m : MapImg) : Nat := fld (m 0x408) 1 4

/-- The rank field of a rank select (R220): 4 × PC + rank on an MRDIMM. -/
def rkField (m : MapImg) (sel : Nat) : Nat := if m.mrd then 4 * (sel % 2) + sel / 2 else sel

end MapImg

/-- What an address decodes to: nowhere (R228); a set's logical channel; the reserve range. -/
inductive Decoded where
  | unmapped
  | set (n lch : Nat) (loc : Loc)
  | reserve (loc : Loc)
  deriving DecidableEq, Repr

/-- The physical channel that holds a role, lowest first. -/
def State.chanOfRole (s : State) (r : Nat) : Option Nat := (List.range 17).find? fun c => (s.chan c).role == r

/-- The physical channel a request for logical channel `l` goes to (R223): the channel that holds it, else the one that
last held it. -/
def State.physOf (s : State) (l : Nat) : Nat :=
  match s.chanOfRole l with
  | some c => c
  | none => Tbl.get (fun n => n) s.map.lastHeld l

/-- The physical channel of the reserve range: the reserve, else the channel that last held the role. -/
def State.physRes (s : State) : Nat :=
  match s.chanOfRole 16 with
  | some c => c
  | none => s.map.reserveNom

/-- The location of an address within set `n` (R229 to R234). -/
def setLoc (m : MapImg) (n pa : Nat) : Nat × Loc :=
  let w := (m.ways n).getD 0
  let v := (List.range w).foldl (fun a i => a + m.selVal n i pa * 2 ^ i) 0
  let lch := (nthOne (m.lch n) 16 0 v).getD 0
  let rk := m.rkField ((if m.rkBits > 0 then m.selVal n 5 pa else 0) + (if m.rkBits > 1 then 2 * m.selVal n 6 pa else 0))
  (lch, { ch := 0, sc := m.selVal n 4 pa, rk := rk,
          bg := m.selVal n 7 pa + 2 * m.selVal n 8 pa + 4 * m.selVal n 9 pa,
          ba := m.selVal n 10 pa + 2 * m.selVal n 11 pa,
          row := bits pa (m.span n - m.rowBits) m.rowBits,
          col := bits pa (6 + m.selLow n) m.colBits })

/-- The location of an address within the reserve range (R239): its selects are address bits, bit for bit. -/
def resLoc (m : MapImg) (pa : Nat) : Loc :=
  let ps := m.selPos m.rselLow (1 + m.rkBits + 5)
  let b := fun i => b2n (pa.testBit (ps.getD i 0))
  let r := m.rkBits
  { ch := 0, sc := b 0,
    rk := m.rkField ((if r > 0 then b 1 else 0) + (if r > 1 then 2 * b 2 else 0)),
    bg := b (1 + r) + 2 * b (2 + r) + 4 * b (3 + r), ba := b (4 + r) + 2 * b (5 + r),
    row := bits pa (m.nch - m.rowBits) m.rowBits, col := bits pa (6 + m.rselLow) m.colBits }

/-- The forward decode of a physical address (R216, R228). -/
def decodePa (m : MapImg) (pa : Nat) : Decoded :=
  match (List.range 8).find? fun n => m.en n && decide (m.base n ≤ pa) && decide (pa ≤ m.limit n) with
  | some n => let r := setLoc m n pa; .set n r.1 r.2
  | none =>
    if m.resEn ∧ m.rbase ≤ pa ∧ pa < m.rbase + 2 ^ m.nch then .reserve (resLoc m pa) else .unmapped

/-- Where a request for an address goes under the map in force: UNMAPPED (R228), OFFLINE in a closed reserve range
(R241), or a location on a physical channel (R223). -/
inductive Dest where
  | unmapped | closed | at_ (loc : Loc)
  deriving DecidableEq, Repr

/-- The location of an address in set `n` on physical channel `c`, `loc` under the active masks: a logical channel that a rehash has moved
decodes under the new ones (R881). -/
def State.setAt (s : State) (n pa c : Nat) (loc : Loc) : Loc :=
  { (if (s.chan c).rotNew then (setLoc s.mapShd n pa).2 else loc) with ch := c }

/-- The destination of an address under the epoch in force. -/
def State.dest (s : State) (pa : Nat) : Dest :=
  match decodePa s.mapAct pa with
  | .unmapped => .unmapped
  | .set n l loc => .at_ (s.setAt n pa (s.physOf l) loc)
  | .reserve loc => if s.map.resClosed then .closed else .at_ { loc with ch := s.physRes }

/-- MAP_XLATE_RES of a forward decode under the epoch in force (R259, R260). -/
def State.xlate (s : State) (pa : Nat) : Word :=
  let ep := s.map.epoch % 16
  let locF := fun (l : Loc) => [(11, 1, l.sc), (12, 3, l.rk), (15, 3, l.bg), (18, 2, l.ba), (20, 7, l.col)]
  match decodePa s.mapAct pa with
  | .unmapped => pack [(0, 1, 1), (1, 1, 1), (28, 4, ep)]
  | .set n l loc => pack ([(0, 1, 1), (2, 3, n), (6, 5, s.physOf l), (28, 4, ep)] ++ locF (s.setAt n pa (s.physOf l) loc))
  | .reserve loc =>
    pack ([(0, 1, 1), (5, 1, 1), (6, 5, s.physRes), (27, 1, b2n s.map.resClosed), (28, 4, ep)] ++ locF loc)

/-! ### Reverse decode (R238) -/

/-- One step of elimination over GF(2) on rows with a right-hand side: a row is added to rows in reduced form. -/
def addRow (rows : List (Nat × Bool)) (r : Nat × Bool) : List (Nat × Bool) :=
  let r := rows.foldl (fun (r : Nat × Bool) p => if r.1.testBit (Nat.log2 p.1) then (Nat.xor r.1 p.1, xor r.2 p.2) else r) r
  if r.1 = 0 then rows
  else r :: rows.map fun p => if p.1.testBit (Nat.log2 r.1) then (Nat.xor p.1 r.1, xor p.2 r.2) else p

/-- The bits of an address at the positions `ps`. -/
def placeBits (v : Nat) (ps : List Nat) : Nat := ps.zipIdx.foldl (fun a p => a + b2n (v.testBit p.2) * 2 ^ p.1) 0

/-- The rank select of a rank field (R220). -/
def rkSelect (mrd : Bool) (rk : Nat) : Nat := if mrd then rk / 4 + 2 * (rk % 4) else rk

/-- The physical address of a location of logical channel `l` in set `n`; none where the set does not use it (R238). -/
def reversePa (m : MapImg) (n l : Nat) (loc : Loc) : Option Nat :=
  if !m.en n ∨ !(m.lch n).testBit l then none
  else
    let v := popcount l (m.lch n)
    let rk := rkSelect m.mrd loc.rk
    let want := fun i => if i < 4 then v.testBit i else if i = 4 then loc.sc = 1 else if i < 7 then rk.testBit (i - 5)
      else if i < 10 then loc.bg.testBit (i - 7) else loc.ba.testBit (i - 10)
    let pa := m.base n + placeBits loc.row (rangeFrom (m.span n - m.rowBits) m.rowBits) +
      placeBits loc.col (rangeFrom (6 + m.selLow n) m.colBits)
    let ps := (m.selPos (m.selLow n) (m.selects n)).foldl (fun a p => a + 2 ^ p) 0
    let rows := ((List.range 12).filter (m.used n)).map fun i =>
      (Nat.land (m.mask n i) ps, xor (want i) (parity 52 (Nat.land pa (m.mask n i))))
    let x := (rows.foldl addRow []).foldl (fun a r => if r.2 then a + 2 ^ (Nat.log2 r.1) else a) 0
    if pa + x ≤ m.limit n then some (pa + x) else none

/-- Where the copy unit writes a line of the source (R865, R881): its own location on the destination, or under a rehash the
location that the new masks give its address. -/
def State.copyLoc (s : State) (l : Loc) : Loc :=
  let d := { l with ch := s.copy.dst }
  if !s.copy.remap then d
  else
    let lch := (s.chan s.copy.src).role
    match (List.range 8).findSome? fun n => (reversePa s.mapAct n lch l).map fun pa => (n, pa) with
    | some (n, pa) => { (setLoc s.mapShd n pa).2 with ch := s.copy.dst }
    | none => d

/-- Adds a waiting request in the order of the BCLK in which it is raised. -/
def insertWait (w : CWait) : List CWait → List CWait
  | [] => [w]
  | x :: t => if w.raised < x.raised then w :: x :: t else x :: insertWait w t

/-- The copy unit queues a write for the destination (R868): a copy write or a mirror, with its place in BCLK `t`. -/
def State.copyWrite (s : State) (l : Loc) (data : Line) (poison : Bool) (use sn t : Nat) : State :=
  let r : Req := { src := 19, tag := sn, write := true, poison := poison, loc := s.copyLoc l, data := data, created := t,
                   hdrAt := t, use := use }
  { s with mvc := { s.mvc with cq := insertWait { req := r, raised := t } s.mvc.cq } }

/-- A mirrored write has crossed its slot, which ended before BCLK `t`: its mirror takes its place (R867, R868). -/
def State.mirror (s : State) (on : Bool) (l : Loc) (data : Line) (poison : Bool) (sn t : Nat) : State :=
  if on ∧ s.copy.on then s.copyWrite l data poison 5 sn (t + 7) else s

/-! ### The checks of a commit (R237, R258) -/

/-- A failed check: whether it concerns the reserve range, the set, the select, and the reason. -/
structure MapFail where
  res : Bool := false
  set : Nat := 0
  sel : Nat := 0
  reason : Nat := 0
  deriving DecidableEq, Repr

namespace MapFail

/-- MAP_CHECK for a refusal (R257). -/
def word (f : MapFail) : Word :=
  pack [(0, 2, 2), (2, 3, f.set), (5, 1, b2n f.res), (6, 4, f.sel), (16, 8, f.reason)]

/-- The register PG_ERR names (R108). -/
def off (f : MapFail) : Nat :=
  if f.res then 0x408
  else if f.reason = 1 then 0x400
  else if f.reason = 9 ∨ f.reason = 10 ∨ f.reason = 11 then 0x100 + 0x60 * f.set + 8 * f.sel
  else if f.reason = 5 then 0x040 + 0x10 * f.set
  else if f.reason = 6 then 0x048 + 0x10 * f.set
  else 0x0C0 + 4 * f.set

end MapFail

/-- The MAP_ROWCOL that a module's SPD gives (R217 to R220): RK_BITS from the ranks, COL_BITS from the width, ROW_BITS
from the density and stack. -/
def spdRowCol (d : Spd) : Word :=
  let rk := if d.ranksM1 = 0 then 0 else if d.ranksM1 = 1 then 1 else 2
  let cid := d.stack
  pack [(0, 4, if d.x8 then 6 else 7), (4, 5, 16 + d.dens + cid), (9, 2, rk), (11, 2, cid), (13, 1, b2n (d.moduleType == 2))]

/-- GEOM (R220, R221): MAP_ROWCOL disagrees with the SPD of a channel in service, or MRD = 1 with RK_BITS = 0. -/
def State.geomFails (s : State) (m : MapImg) : Bool :=
  (m.mrd && m.rkBits == 0) ||
  (List.range 17).any fun c =>
    let ch := s.chan c
    ch.role ≤ 16 && match ch.spd with | some d => m 0x400 != spdRowCol d | none => true

/-- One step of elimination: reduces a row by the pivots found (each with its lowest set bit as pivot). -/
def reduceRow (pivots : List Nat) (r : Nat) : Nat :=
  pivots.foldl (fun r p => if r.testBit (Nat.log2 p) then Nat.xor r p else r) r

/-- The first select whose restricted mask depends on those before it (R235). -/
def firstDependent (pivots : List Nat) : List (Nat × Nat) → Option Nat
  | [] => none
  | (i, r) :: t =>
    let r' := reduceRow pivots r
    if r' = 0 then some i else firstDependent (r' :: pivots.map fun p => if p.testBit (Nat.log2 r') then Nat.xor p r' else p) t

/-- The bits of a mask that lie at the positions given. -/
def bitsAt (ps : List Nat) : Nat := ps.foldl (fun a p => a + 2 ^ p) 0

/-- The lowest select index whose mask fails a test. -/
def firstSel (p : Nat → Bool) : Option Nat := (List.range 12).find? p

/-- Two ranges overlap (R227). -/
def overlaps (a b : Nat × Nat) : Bool := decide (a.1 ≤ b.2) && decide (b.1 ≤ a.2)

/-- The checks of enabled set `n`, in ascending REASON code (R237). -/
def State.setFails (s : State) (m : MapImg) (n : Nat) : Option MapFail :=
  let f := fun (reason sel : Nat) => some { set := n, sel := sel, reason := reason : MapFail }
  match m.ways n with
  | none => f 2 0
  | some _ =>
    let lower := (List.range n).filter m.en
    let N := m.span n
    let sn := m.selects n
    if (List.range 16).any fun l => (m.lch n).testBit l &&
        ((List.range 8).any fun n' => n' != n && m.en n' && (m.lch n').testBit l) then f 3 0
    else if (List.range 16).any fun l => (m.lch n).testBit l && (s.chanOfRole l).isNone then f 4 0
    else if m.base n % 2 ^ N ≠ 0 then f 5 0
    else if m.limit n < m.base n ∨ m.base n + 2 ^ N - 1 < m.limit n ∨ 2 ^ 52 - 1 < m.limit n then f 6 0
    else if lower.any fun n' => overlaps (m.base n, m.limit n) (m.base n', m.limit n') then f 7 0
    else if sn < m.selLow n then f 8 0
    else match firstSel fun i => m.used n i && (m.mask n i % 64 != 0 || decide (2 ^ N ≤ m.mask n i)) with
      | some i => f 9 i
      | none =>
        match firstSel fun i => !m.used n i && m.mask n i != 0 with
        | some i => f 10 i
        | none =>
          let ps := bitsAt (m.selPos (m.selLow n) sn)
          match firstDependent [] (((List.range 12).filter (m.used n)).map fun i => (i, Nat.land (m.mask n i) ps)) with
          | some i => f 11 i
          | none => none

/-- The checks of the reserve range (R239, R240). -/
def State.resFails (s : State) (m : MapImg) : Option MapFail :=
  if m.resEn then
    let f := fun (reason : Nat) => some { res := true, reason := reason : MapFail }
    if m.rbase % 2 ^ m.nch ≠ 0 then f 5
    else if (List.range 8).any fun n => m.en n && overlaps (m.rbase, m.rbase + 2 ^ m.nch - 1) (m.base n, m.limit n) then f 7
    else if 1 + m.rkBits + 5 < m.rselLow then f 8
    else if s.map.noReserve ∨ s.chanOfRole 16 = none ∨ s.map.kind = 3 then f 12
    else none
  else none

/-- The checks of an address-map commit, in the order of R237; none where it passes. -/
def State.mapFails (s : State) (m : MapImg) : Option MapFail :=
  if s.geomFails m then some { reason := 1 }
  else
    match ((List.range 8).filter m.en).findSome? (s.setFails m) with
    | some f => some f
    | none => s.resFails m

end Sys2Proof.Machine
end

