-- ==== Sys2Proof/Machine/Slots.lean ====
section
/-! DEFINITION. Slot tables (chapter 06): entries, the timing set, command positions, windows and their shadows, which
entries a stamp may count on, the G capacity, and the lead. -/
namespace Sys2Proof.Machine

/-! ### The timing set (R312, R475) -/

/-- A time in ten-thousandths of a nanosecond as whole tCK of a bin, rounded up, never below 8 (R312). -/
def tckOf (b : Bin) (t : Nat) : Nat := max 8 (ceilDiv (t * b.dramMts) 20000000)

/-- CL of the reference set (R475). -/
def refCl : Bin → Nat
  | .rdimm5600 => 46 | .rdimm6400 => 52 | .rdimm7200 => 58 | .rdimm8000 => 64 | .rdimm8800 => 72 | .mrdimm8800 => 36
  | .mrdimm12800 => 52

/-- tPD (R475). -/
def tPD : Bin → Nat
  | .mrdimm8800 => 5 | .mrdimm12800 => 7 | _ => 1

/-- tAO (R475). -/
def tAO (b : Bin) : Nat := if b.mrd then 1 else 0

/-- tRTW_GAP and tRNK (R312), tCCD_S, tCCD_S_WR, tRRD_S and BL/2 on the DRAM bus, in tCK. -/
def tRTWGAP : Nat := 4
/-- tRNK. -/
def tRNK : Nat := 2
/-- The clock-defined parameters of 8 tCK. -/
def t8 : Nat := 8

/-- The reference timing set of a bin and density code (R312). -/
def refTiming (b : Bin) (dens : Nat) : Timing :=
  { cl := refCl b, cwl := refCl b - 2, rcd := refCl b, rp := refCl b,
    ras := tckOf b 321875, rtp := tckOf b 75000, wr := tckOf b 300000, rrdL := tckOf b 50000, faw := tckOf b 100000,
    ccdL := tckOf b 50000, ccdLWr := tckOf b 200000, wtrS := tckOf b 25000, wtrL := tckOf b 100000,
    rfc1 := tckOf b (if dens = 0 then 2950000 else if dens = 1 then 4100000 else 5500000),
    rfcsb := tckOf b (if dens = 0 then 1300000 else if dens = 1 then 1900000 else 2800000),
    rfm := tckOf b (if dens = 0 then 2950000 else if dens = 1 then 4100000 else 5500000),
    drfm := tckOf b (if dens = 0 then 2950000 else if dens = 1 then 4100000 else 5500000) }

/-- The timing set of a channel (R312): what its SPD gives, else the reference set. -/
def State.timing (s : State) (c : Nat) : Timing :=
  match (s.chan c).spd with
  | some d => d.timing.getD (refTiming s.bin d.dens)
  | none => refTiming s.bin 0

/-- tREFI in tCK: 3,900 ns rounded down (R312). -/
def tREFI (b : Bin) : Nat := 3900 * b.dramMts / 2000

/-- The decision lead L in slots (R351). -/
def State.lead (s : State) (c : Nat) : Nat :=
  let t := s.timing c
  ceilDiv (t.rcd + t.cl + tPD s.bin + tAO s.bin) s.bin.slotTck

/-! ### Entries (R301 to R304) -/

/-- The entry a 16-bit word spells (R301). -/
def entryOf (w : Nat) : Entry :=
  { kind := bits w 14 2, dir := w.testBit 13, rk := bits w 10 3, bg := bits w 7 3, ba := bits w 5 2, col := w.testBit 4,
    sel := bits w 0 4 }

/-- The word of an entry. -/
def Entry.word (e : Entry) : Nat :=
  packNat [(14, 2, e.kind), (13, 1, b2n e.dir), (10, 3, e.rk), (7, 3, e.bg), (5, 2, e.ba), (4, 1, b2n e.col), (0, 4, e.sel)]

namespace Entry
/-- A REF window entry (R303). -/
def isRef (e : Entry) : Bool := e.kind == 2 && decide (e.sel < 8)
/-- A mode-register service entry. -/
def isMrs (e : Entry) : Bool := e.kind == 2 && e.sel == 8
/-- A Balance service entry. -/
def isCal (e : Entry) : Bool := e.kind == 2 && e.sel == 9
/-- A data entry: G, C, or the C role of a REF entry (R302). -/
def isData (e : Entry) : Bool := e.kind == 0 || e.kind == 1 || e.isRef
/-- The bank it names. -/
def bank (e : Entry) : Nat := (e.rk * 8 + e.bg) * 4 + e.ba
/-- It names a bank and a direction. -/
def names (e : Entry) (bank : Nat) (dir : Bool) : Bool := e.bank == bank && e.dir == dir
end Entry

/-- The rank fields of a population (R220, R344). -/
def ranksOf (d : Spd) : List Nat :=
  if d.moduleType = 2 then (if d.ranksM1 ≥ 3 then [0, 1, 4, 5] else [0, 4]) else List.range (d.ranksM1 + 1)

/-- The entries of the words of SLT_SHD_TBL in a copy of a page's registers, two per register. -/
def tableEnts (rd : Nat → Word) (len : Nat) : List Entry :=
  (List.range len).map fun i => entryOf (fld (rd (0x600 + 4 * (i / 2))) (16 * (i % 2)) 16)

/-- The table that a copy of an SLT page's registers holds. -/
def tableOf (rd : Nat → Word) : Table :=
  let cfg := rd 0x040
  let flx := rd 0x078
  { len := fld cfg 0 9, wcrc := flag cfg 9, refSb := flag cfg 10, rkAlt := flag cfg 11, cyc := fld cfg 12 3,
    flexFirst := fld flx 0 8, flexLast := fld flx 8 8, flexEn := flag flx 16, ents := tableEnts rd (fld cfg 0 9) }

/-- The active table of a subchannel. -/
def State.tblAct (s : State) (c sc : Nat) : Table := tableOf ((s.page (.slt c sc)).actReg (.slt c sc))

/-- The table in the shadow. -/
def State.tblShd (s : State) (c sc : Nat) : Table := tableOf ((s.page (.slt c sc)).shdReg (.slt c sc))

/-- The effective frame of a validated swap of the subchannel's table (R54): its own commit's, or the ESC page's that
carries it (R959). -/
def State.swapAt (s : State) (c sc : Nat) : Option Nat :=
  let pg := s.page (.slt c sc)
  if pg.carried then (if (s.page .esc).cmt = .armed then some (s.page .esc).commit.eff else none)
  else if pg.cmt = .armed then some pg.commit.eff else none

/-- The tables of past frames and of those to come: the active one, from its effective frame on a validated new one, and before the swaps
of the latest frames those they replaced (R54, R319). -/
structure Tables where
  act : Table
  next : Option (Nat × Table)
  /-- the tables before the latest swaps (R319) -/
  old : List (Nat × Table)
  deriving DecidableEq, Repr

/-- The tables of a subchannel. -/
def State.tables (s : State) (c sc : Nat) : Tables :=
  { act := s.tblAct c sc, next := (s.swapAt c sc).map fun e => (e, s.tblShd c sc), old := (s.sub c sc).old }

/-- The table in force in frame `f`. -/
def Tables.at_ (t : Tables) (f : Nat) : Table :=
  match t.old.find? fun x => decide (f < x.1) with
  | some x => x.2
  | none => match t.next with
    | some (e, n) => if e ≤ f then n else t.act
    | none => t.act

/-- The table in force in frame `f` (R54, R354). -/
def State.tblAt (s : State) (c sc f : Nat) : Table := (s.tables c sc).at_ f

/-- The entry as it stands in frame `f`: with RK_ALT, odd frames name the inverse of rank bit 0 (R305). -/
def Table.entry (t : Table) (f x : Nat) : Entry :=
  let e := t.ents.getD x {}
  if t.rkAlt ∧ f % 2 = 1 then { e with rk := Nat.xor e.rk 1 } else e

/-- An entry lies in the flexible section (R329). -/
def Table.inFlex (t : Table) (x : Nat) : Bool := t.flexEn && decide (t.flexFirst ≤ x) && decide (x ≤ t.flexLast)

/-! ### Command positions (R311), in tCK from the start of the frame the slot belongs to -/

/-- Data start, column command, ACT and earliest precharge of a data entry in absolute slot `x`. -/
structure CmdPos where
  td : Int
  col : Int
  act : Int
  pre : Int
  deriving DecidableEq, Repr

/-- The earliest precharge after an ACT and a column command (R311). -/
def preMin (t : Timing) (dir : Bool) (act col : Int) : Int :=
  if dir then max (act + t.ras) (col + t.cwl + t8 + t.wr) else max (act + t.ras) (col + t.rtp)

/-- The command positions of R311 for slot `x` (counted from any fixed slot). -/
def cmdPos (b : Bin) (t : Timing) (dir : Bool) (x : Int) : CmdPos :=
  let td := x * b.slotTck
  let col := td - (if dir then t.cwl else t.cl) - tPD b
  let act := col - t.rcd - tAO b
  { td := td, col := col, act := act, pre := preMin t dir act col }

/-- The positions of a COL entry, whose ACT is that of the entry that opened its row (R311). -/
def CmdPos.openedBy (t : Timing) (dir : Bool) (p : CmdPos) (act : Int) : CmdPos := { p with act := act, pre := preMin t dir act p.col }

/-- The command positions of the entry `e` of frame `f` in slot `x`: a COL entry's ACT is that of the bank's nearest preceding non-COL
data entry, in its frame or the one before (R311). -/
def entryPos (b : Bin) (tm : Timing) (tbl : Nat → Table) (base : Nat → Int) (f x : Nat) (e : Entry) : CmdPos :=
  let p := cmdPos b tm e.dir (base f + x)
  if !e.col then p
  else
    let find := fun (g n : Nat) => ((List.range n).reverse.find? fun y =>
      let o := (tbl g).entry g y
      o.isData && !o.col && o.bank == e.bank).map fun y => (cmdPos b tm ((tbl g).entry g y).dir (base g + y)).act
    match (find f x).or (if f = 0 then none else find (f - 1) (tbl (f - 1)).len) with
    | some a => p.openedBy tm e.dir a
    | none => p

/-! ### Windows and shadows (R306 to R310) -/

/-- A window of phase `p` is live in frame `f` under the doubled rate (R306). -/
def live2x (cyc p f : Nat) : Bool := f % 2 ^ (cyc - 1) == p % 2 ^ (cyc - 1)

/-- A window of phase `p` is live in frame `f` at the normal rate (R306). -/
def live1x (cyc p f : Nat) : Bool := f % 2 ^ cyc == p

/-- A bank is under a refresh of target rank `rk`, bank set `ba` (none: the whole rank). -/
def bankUnder (rk : Nat) (ba : Option Nat) (e : Entry) : Bool :=
  e.rk == rk && match ba with | none => true | some b => e.ba == b

/-- An entry with the positions `p` lies in the shadow of a refresh command at `tr` lasting `rfc` (R308): its bank's precharge would
end after the command and its ACT (for a COL entry its column command) would fall before the command's end. -/
def inShadow (t : Timing) (e : Entry) (p : CmdPos) (tr : Int) (rfc : Nat) : Bool :=
  decide (p.pre + t.rp > tr) && decide ((if e.col then p.col else p.act) < tr + rfc)

/-- The refresh command time of a window entry in absolute slot `x`: its read column position (R307). -/
def refTime (b : Bin) (t : Timing) (x : Int) : Int := x * b.slotTck - t.cl - tPD b

/-- The windows of the table in force in frame `f`, with their slots. -/
def Table.windows (t : Table) (f : Nat) : List (Nat × Entry) :=
  (List.range t.len).filterMap fun x => let e := t.entry f x; if e.isRef then some (x, e) else none

/-- The length of a refresh of the table: tRFC1 or tRFCsb (R308). -/
def Table.rfc (t : Table) (tm : Timing) : Nat := if t.refSb then tm.rfcsb else tm.rfc1

/-- The target of a window entry: its rank, and its bank set with REFsb. -/
def Table.target (t : Table) (e : Entry) : Nat × Option Nat := (e.rk, if t.refSb then some e.ba else none)

/-- The frames whose windows can shadow an entry of frame `f`: four before it, and the next. -/
def shadowFrames (f : Nat) : List Nat := rangeFrom (f - 4) (min f 4 + 2)

/-- The entry of slot (f, x) is shadowed under the doubled-rate schedule (R309): the tables in force in the frames
around it are given by `tbl`, and `base g` is the absolute slot of slot 0 of frame `g`. -/
def shadowed2x (b : Bin) (tm : Timing) (tbl : Nat → Table) (base : Nat → Int) (f x : Nat) : Bool :=
  let e := (tbl f).entry f x
  let p := entryPos b tm tbl base f x e
  (shadowFrames f).any fun g =>
    let t := tbl g
    (t.windows g).any fun w =>
      live2x t.cyc w.2.sel g && !(g == f && w.1 == x) &&
      (let tg := t.target w.2
       bankUnder tg.1 tg.2 e && inShadow tm e p (refTime b tm (base g + w.1)) (t.rfc tm))

/-- The absolute slot of slot 0 of frame `g`, as an integer. -/
def State.base (s : State) (g : Nat) : Int := (s.absSlot ⟨g, 0⟩ : Int)

/-- The command positions of an entry of a subchannel at a position, in absolute tCK (R311). -/
def State.posOf (s : State) (c sc : Nat) (p : Pos) (e : Entry) : CmdPos :=
  entryPos s.bin (s.timing c) (s.tables c sc).at_ s.base p.frame p.slot e

/-- With the tables of a subchannel given, the entry of a position is shadowed under the doubled-rate schedule (R309). -/
def State.shadowedOn (s : State) (c : Nat) (t : Tables) (p : Pos) : Bool :=
  shadowed2x s.bin (s.timing c) t.at_ s.base p.frame p.slot

/-- The entry of a position is shadowed under the doubled-rate schedule (R309). -/
def State.shadowed (s : State) (c sc : Nat) (p : Pos) : Bool := s.shadowedOn c (s.tables c sc) p

/-- G capacity C_G of a table (R310): the G entries not shadowed over a doubled-rate cycle (two with RK_ALT), per frame. -/
def gCapacity (b : Bin) (tm : Timing) (t : Table) : Nat :=
  let n := 2 ^ (t.cyc - 1) * (if t.rkAlt then 2 else 1)
  let start := 16
  let cnt := (List.range n).foldl (fun a i =>
    a + ((List.range t.len).filter fun x =>
      (t.entry (start + i) x).kind == 0 &&
      !shadowed2x b tm (fun _ => t) (fun g => ((g * t.len : Nat) : Int)) (start + i) x).length) 0
  cnt / n

/-! ### Countable entries (R355, R356) and the stamp search (R353) -/

/-- The entry of a position is countable for a G request of a bank and direction (R355). -/
def State.countableG (s : State) (c : Nat) (t : Tables) (bank : Nat) (dir : Bool) (p : Pos) : Bool :=
  let e := (t.at_ p.frame).entry p.frame p.slot
  e.kind == 0 && e.names bank dir && !s.shadowedOn c t p

/-- The flexible section of frame `f` has been decided READ (R330). -/
def Sub.flexRead (b : Sub) (f : Nat) : Bool := b.flex.contains (f, false)

/-- The entry of a position is countable for a C request of a bank and direction (R356). -/
def State.countableC (s : State) (c sc : Nat) (ts : Tables) (bank : Nat) (dir : Bool) (p : Pos) : Bool :=
  let t := ts.at_ p.frame
  let e := t.entry p.frame p.slot
  e.names bank dir &&
  (if t.inFlex p.slot then e.kind == 1 && dir && !(s.sub c sc).flexRead p.frame && !s.shadowedOn c ts p
   else if e.kind == 1 then !e.col && !s.shadowedOn c ts p
   else e.isRef && !live2x t.cyc e.sel p.frame && !s.shadowedOn c ts p)

/-- The first slot of frame `f` at or after slot `x` that a test takes. -/
def firstIn (ok : Pos → Bool) (f : Nat) (n : Nat) : Nat → Option Pos
  | x => ((rangeFrom x (n - x)).find? fun y => ok ⟨f, y⟩).map fun y => ⟨f, y⟩

/-- The first position at or after a given one that a test takes, over at most the given number of frames. -/
def State.firstPos (s : State) (ok : Pos → Bool) : Nat → Pos → Option Pos
  | 0, _ => none
  | n + 1, p =>
    match firstIn ok p.frame (s.fsAt p.frame) p.slot with
    | some q => some q
    | none => s.firstPos ok n ⟨p.frame + 1, 0⟩

/-- Some entry of the table in force, or of a validated new table, is a G entry for the bank and direction (R357). -/
def State.hasG (s : State) (c sc bank : Nat) (dir : Bool) : Bool :=
  let has := fun (t : Table) => (List.range t.len).any fun x =>
    let e := t.ents.getD x {}
    e.kind == 0 && (e.names bank dir || (t.rkAlt && ({ e with rk := Nat.xor e.rk 1 } : Entry).names bank dir))
  has (s.tblAct c sc) || ((s.swapAt c sc).isSome && has (s.tblShd c sc))

end Sys2Proof.Machine
end

