-- ==== Sys2Proof/Machine/BootStore.lean ====
section
/-! DEFINITION. What the boot store holds: the two listed default tables (R326, R327), and as free values what the
Mandrel listing gives and the spec does not (R963). -/
namespace Sys2Proof.Machine

/-- A default table as its listing gives it: SLT_CFG, SLT_FLEX and its entries' words. -/
structure Image where
  cfg : Word := 0
  flex : Word := 0
  ents : List Nat := []
  deriving DecidableEq, Repr

/-- The default table for RDIMM-6400 with one rank per subchannel (R326). -/
def table6400 : Image :=
  let rd := fun (kind x : Nat) => ({ kind := kind, bg := x % 8, ba := x / 8 % 4 } : Entry).word
  { cfg := pack [(0, 9, 97), (12, 3, 4)],
    ents := (List.range 97).map fun x =>
      if x < 23 then rd 0 x else if x < 54 then rd 1 x
      else if x = 54 then 0x8340 else if x = 55 then 0x8008 else if x = 56 then 0xC000
      else if x < 89 then ({ kind := 1, dir := true, bg := (x - 57) % 8, ba := (x - 57) / 8 } : Entry).word
      else 0xC000 }

/-- The default table for MRDIMM-12800 with one rank per pseudo-channel (R327). -/
def table12800 : Image :=
  let rd := fun (kind x : Nat) => ({ kind := kind, rk := 4 * (x % 2), bg := x / 2 % 8, ba := x / 2 / 8 % 4 } : Entry).word
  { cfg := pack [(0, 9, 195), (9, 1, 1), (12, 3, 4)],
    ents := (List.range 195).map fun x =>
      if x < 42 then rd 0 x else if x < 104 then rd 1 x
      else if x = 104 then 0x8240 else if x = 105 then 0x9244 else if x = 106 then 0x8008 else if x = 107 then 0x9008
      else if x = 108 then 0xC000
      else if x < 180 then
        let r := (x - 109) / 9
        let m := (x - 109) % 9
        if m = 8 then 0xC000
        else ({ kind := 1, dir := true, rk := 4 * (m % 2), bg := (4 * r + m / 2) % 8, ba := (4 * r + m / 2) / 8 } : Entry).word
      else 0xC000 }

/-- The words of any other table image of the boot store, by set, profile, bin, ranks, density and word number. -/
opaque Config.bootImage : Nat → Nat → Bin → Nat → Nat → Nat → Word

/-- Whether a set other than set 0 holds an image for a bin and population (R335, R963). -/
opaque Config.bootHas : Nat → Bin → Nat → Nat → Bool

/-- An entry as the fill set holds it (R511): a write where it carries data, else a TURN or SVC entry as it stands. -/
def fillEntry (w : Nat) : Nat := if (entryOf w).kind < 2 then ({ entryOf w with dir := true } : Entry).word else w

/-- The two tables that the spec lists (R326, R327). -/
def listedTable (set profile : Nat) (b : Bin) (d : Spd) : Option Image :=
  if set ≠ 0 ∨ profile ≠ 0 then none
  else if b = .rdimm6400 ∧ d.ranksM1 = 0 then some table6400
  else if b = .mrdimm12800 ∧ d.ranksM1 = 1 then some table12800 else none

/-- The image of a set and profile for a population (R332, R334, R511, R963). A number from 256 on is a set as it stands at another frame
length than the bin's: 256 times that length is added to it (R32; DESIGN CHOICE: the spec does not number them; log entry 60). -/
def bootTable (set profile : Nat) (b : Bin) (d : Spd) : Image :=
  match listedTable set profile b d with
  | some t => t
  | none =>
    let w := fun i => Config.bootImage set profile b d.ranksM1 d.dens i
    let e := fun i => fld (w (2 + i / 2)) (16 * (i % 2)) 16
    { cfg := w 0, flex := w 1, ents := (List.range 256).map fun i => if set % 256 = 1 then fillEntry (e i) else e i }

/-- A set holds an image for a population: set 0 always does, in both profiles (R963). -/
def bootHas (set : Nat) (b : Bin) (d : Spd) : Bool := set == 0 || Config.bootHas set b d.ranksM1 d.dens

/-- The words of SLT_SHD_TBL that an image fills. -/
def Image.words (i : Image) : List Word :=
  (List.range 128).map fun n => BitVec.ofNat 32 (i.ents.getD (2 * n) 0xC000 + 65536 * i.ents.getD (2 * n + 1) 0xC000)

/-- The table of an image. -/
def Image.table (i : Image) : Table :=
  tableOf fun off => if off = 0x040 then i.cfg else if off = 0x078 then i.flex else i.words.getD ((off - 0x600) / 4) 0

end Sys2Proof.Machine
end

