-- ==== Sys2Proof/Machine/Validator.lean ====
section
/-! DEFINITION. The slot-table validator (R313 to R315, R331). -/
namespace Sys2Proof.Machine

/-- A burst of a sequence under examination: its index (slots of the frame before lie below 0), what it is and where its
commands fall. -/
structure Use where
  idx : Int
  /-- slot index within its own frame -/
  slot : Nat
  dir : Bool
  rk : Nat
  bg : Nat
  ba : Nat
  /-- a data entry (a mode-register or Balance read otherwise) -/
  data : Bool
  col : Bool
  p : CmdPos
  deriving DecidableEq, Repr

namespace Use
/-- Same bank. -/
def sameBank (a b : Use) : Bool := a.data && b.data && a.rk == b.rk && a.bg == b.bg && a.ba == b.ba
/-- It has an ACT. -/
def hasAct (a : Use) : Bool := a.data && !a.col
end Use

/-- The role of an entry with the section running in direction `d` (true WRITE) in a frame of parity `f` (R331): READ turns the C
writes and TURNs of the section to C reads. -/
def roleOf (t : Table) (f : Nat) (d : Bool) (x : Nat) : Entry :=
  let e := t.entry f x
  if t.inFlex x ∧ !d ∧ ((e.kind = 1 ∧ e.dir) ∨ e.kind = 3) then { e with kind := 1, dir := false, col := false, sel := 0 } else e

/-- The burst of slot `x`, placed at index `i`; none for an idle entry. -/
def useOf (b : Bin) (tm : Timing) (e : Entry) (i : Int) (x : Nat) : Option Use :=
  if e.isData then
    some { idx := i, slot := x, dir := e.dir, rk := e.rk, bg := e.bg, ba := e.ba, data := true, col := e.col,
           p := cmdPos b tm e.dir i }
  else if e.isMrs || e.isCal then
    some { idx := i, slot := x, dir := false, rk := e.rk, bg := 0, ba := 0, data := false, col := false,
           p := cmdPos b tm false i }
  else none

/-- The bursts of one frame of a table, the first slot placed at index `i0`. -/
def frameUses (b : Bin) (tm : Timing) (t : Table) (f : Nat) (d : Bool) (i0 : Int) : List Use :=
  (List.range t.len).filterMap fun x => useOf b tm (roleOf t f d x) (i0 + x) x

/-- A COL entry's ACT is that of the bank's nearest preceding non-COL data entry (R311); `prev` latest first. -/
def fixAct (tm : Timing) (prev : List Use) (u : Use) : Use :=
  if u.data ∧ u.col then
    match prev.find? fun v => v.sameBank u && v.hasAct with
    | some v => { u with p := u.p.openedBy tm u.dir v.p.act }
    | none => u
  else u

/-- The entry of a list with the greatest value of `key` among those a test takes. -/
def argMax (key : Use → Int) : List Use → Option Use
  | [] => none
  | u :: t => match argMax key t with
    | none => some u
    | some v => if key v < key u then some u else some v

/-- The entry of a list with the least value of `key`. -/
def argMin (key : Use → Int) : List Use → Option Use := argMax fun u => -key u

/-- The neighbours of `u` in time among `prev`, by `key`: the nearest before and the nearest after. -/
def neighbours (key : Use → Int) (u : Use) (prev : List Use) : List Use :=
  (argMax key (prev.filter fun v => key v ≤ key u)).toList ++ (argMin key (prev.filter fun v => key u < key v)).toList

/-- The first of the neighbours that lies closer than `gap` to `u`. -/
def tooClose (key : Use → Int) (gap : Use → Nat) (u : Use) (vs : List Use) : Option Use :=
  vs.find? fun v => decide ((key u - key v).natAbs < gap v)

/-- The CA cycles a burst's commands occupy (R314): two each for an ACT and a column command. On an MRDIMM the host CA
bus runs at twice the pseudo-channel's DRAM clock, so two of its cycles are one tCK (DEDUCED: log entry 12). -/
def caCycles (b : Bin) (u : Use) : List Int :=
  if b.mrd then u.p.col :: (if u.hasAct then [u.p.act] else [])
  else [u.p.col, u.p.col + 1] ++ (if u.hasAct then [u.p.act, u.p.act + 1] else [])

/-- Rule TRRD. -/
def ruleTrrd (tm : Timing) (prev : List Use) (u : Use) : Option Use :=
  if u.hasAct then
    tooClose (·.p.act) (fun v => if v.bg = u.bg then tm.rrdL else t8) u
      (neighbours (·.p.act) u (prev.filter fun v => v.hasAct && v.rk == u.rk))
  else none

/-- Inserts a burst into a list ordered by ACT, latest first. -/
def insAct : List Use → Use → List Use
  | [], u => [u]
  | v :: t, u => if v.p.act ≤ u.p.act then u :: v :: t else v :: insAct t u

/-- Rule TFAW: the fourth ACT before this one of the rank. -/
def ruleTfaw (tm : Timing) (prev : List Use) (u : Use) : Option Use :=
  if u.hasAct then
    let acts := (prev.filter fun v => v.hasAct && v.rk == u.rk && decide (v.p.act ≤ u.p.act)).foldl insAct []
    match acts[3]? with
    | some v => if (u.p.act - v.p.act) < tm.faw then some v else none
    | none => none
  else none

/-- Rule TCCD: consecutive column commands of one rank in one direction. -/
def ruleTccd (tm : Timing) (prev : List Use) (u : Use) : Option Use :=
  tooClose (·.p.col)
    (fun v => if u.data && v.data && v.bg == u.bg then (if u.dir then tm.ccdLWr else tm.ccdL) else t8) u
    (neighbours (·.p.col) u (prev.filter fun v => v.rk == u.rk && v.dir == u.dir))

/-- Rule RTW: a read burst followed by a write burst, on the pseudo-channel's bus and on the host bus. -/
def ruleRtw (b : Bin) (prev : List Use) (u : Use) : Option Use :=
  if u.dir then
    let near := fun (vs : List Use) (gap : Nat) =>
      match argMax (·.p.td) vs with
      | some v => if u.p.td < v.p.td + gap then some v else none
      | none => none
    let reads := prev.filter fun v => !v.dir
    if b.mrd then
      match near (reads.filter fun v => v.rk / 4 == u.rk / 4) (t8 + tRTWGAP) with
      | some v => some v
      | none => near reads (4 + tRTWGAP)
    else near reads (t8 + tRTWGAP)
  else none

/-- Rule WTR: against every earlier write of the rank. -/
def ruleWtr (tm : Timing) (prev : List Use) (u : Use) : Option Use :=
  if u.dir then none
  else prev.find? fun v => v.dir && v.rk == u.rk &&
    decide (u.p.col < v.p.col + tm.cwl + t8 + (if !u.data || v.bg == u.bg then tm.wtrL else tm.wtrS))

/-- Rule RANK: consecutive bursts of different ranks (of one pseudo-channel on an MRDIMM). -/
def ruleRank (b : Bin) (prev : List Use) (u : Use) : Option Use :=
  match argMax (·.p.td) (prev.filter fun v => !b.mrd || v.rk / 4 == u.rk / 4) with
  | some v => if v.rk ≠ u.rk ∧ u.p.td < v.p.td + t8 + tRNK then some v else none
  | none => none

/-- Rule PC_ALT. -/
def rulePcAlt (b : Bin) (prev : List Use) (u : Use) : Option Use :=
  if b.mrd then prev.find? fun v => decide (u.idx - v.idx < 2) && (v.rk / 4 == u.rk / 4 || v.dir != u.dir) else none

/-- Rule CA: no shared CA cycle, and on an RDIMM a free cycle for the precharge of an open row. `all` holds every
burst of the two frames. -/
def ruleCa (b : Bin) (tm : Timing) (all prev : List Use) (u : Use) : Option Use :=
  match prev.find? fun v => (caCycles b u).any fun c => (caCycles b v).contains c with
  | some v => some v
  | none =>
    if !b.mrd && u.hasAct then
      match prev.find? fun v => v.sameBank u with
      | some v =>
        let n := (u.p.act - tm.rp - v.p.pre + 1).toNat
        let busy := (all.flatMap (caCycles b))
        if (List.range n).any fun (i : Nat) => !busy.contains (v.p.pre + (i : Int)) then none else some v
      | none => none
    else none

/-- Rule WCRC: no more than 8 writes in consecutive slots; `prev` latest first. -/
def ruleWcrc (t : Table) (prev : List Use) (u : Use) : Option Use :=
  if t.wcrc ∧ u.dir then
    if (List.range 8).all fun (i : Nat) => prev.any fun v => v.dir && v.idx == u.idx - 1 - (i : Int) then
      prev.find? fun v => v.idx == u.idx - 8
    else none
  else none

/-- The frame parities that a table tells apart (R305). -/
def Table.parities (t : Table) : List Nat := if t.rkAlt then [0, 1] else [0]

/-- Rules 0x03 to 0x0D at one slot, in ascending code order: the code and the conflicting earlier use. -/
def slotRules (b : Bin) (tm : Timing) (t : Table) (all prev : List Use) (u : Use) : Option (Nat × Use) :=
  let recur := if u.hasAct then
      match prev.find? fun v => v.sameBank u with
      | some v => if u.p.act < v.p.pre + tm.rp then some v else none
      | none => none
    else none
  let tag := fun (n : Nat) (o : Option Use) => o.map fun v => (n, v)
  (tag 3 recur) <|> (tag 4 (ruleTrrd tm prev u)) <|> (tag 5 (ruleTfaw tm prev u)) <|> (tag 6 (ruleTccd tm prev u)) <|>
  (tag 7 (ruleRtw b prev u)) <|> (tag 8 (ruleWtr tm prev u)) <|> (tag 9 (ruleRank b prev u)) <|>
  (tag 10 (rulePcAlt b prev u)) <|> (tag 11 (ruleCa b tm all prev u)) <|> (tag 12 (ruleWcrc t prev u)) <|>
  (if u.col && !(t.parities.any fun f => (List.range t.len).any fun x =>
      let e := t.entry f x
      e.isData && !e.col && e.rk == u.rk && e.bg == u.bg && e.ba == u.ba) then some (13, u) else none)

/-- One sequence examined (R313): the frame before (its table, parity, direction) and the frame checked. -/
structure Seq2 where
  prev : Table
  pf : Nat
  pd : Bool
  cf : Nat
  cd : Bool
  seam : Bool
  deriving Repr

/-- The first failure at slot `x` of a sequence: code, earlier slot, and whether that slot lies in the frame before. -/
def seqAt (b : Bin) (tm : Timing) (t : Table) (q : Seq2) (x : Nat) : Option (Nat × Nat × Bool) :=
  let before := frameUses b tm q.prev q.pf q.pd (-(q.prev.len : Int))
  let cur := frameUses b tm t q.cf q.cd 0
  let fix := fun (l : List Use) => (l.foldl (fun acc u => fixAct tm acc u :: acc) ([] : List Use))
  let all := fix (before ++ cur)
  match all.find? fun u => u.idx == (x : Int) with
  | none => none
  | some u =>
    let prev := all.filter fun v => decide (v.idx < u.idx)
    (slotRules b tm t all prev u).map fun r => (r.1, r.2.slot, decide (r.2.idx < 0))

/-- The directions a table's section can take, READ first (R315); a section whose bounds are bad takes none but its entries' own. -/
def Table.dirs (t : Table) : List Bool :=
  if t.flexEn && decide (t.flexFirst ≤ t.flexLast) && decide (t.flexLast < t.len) then [false, true] else [true]

/-- The sequences checked together: the table after itself, or after the active table (the seam). -/
def seqs (before t : Table) (seam : Bool) : List Seq2 :=
  (if t.rkAlt || before.rkAlt then [0, 1] else [0]).flatMap fun par =>
    t.dirs.flatMap fun cd => before.dirs.map fun pd =>
      { prev := before, pf := par + 1, pd := pd, cf := par, cd := cd, seam := seam }

/-- The first failing slot of a set of sequences, checked together at each slot (R315): code, slot, other, seam. -/
def seqFails (b : Bin) (tm : Timing) (t : Table) (qs : List Seq2) : Option (Nat × Nat × Nat × Bool) :=
  (List.range t.len).findSome? fun x =>
    qs.findSome? fun q => (seqAt b tm t q x).map fun r => (r.1, x, r.2.1, q.seam && r.2.2)

/-- Rule FIELD for one entry (R304), in both frames of the pair with RK_ALT (R305). -/
def fieldBad (t : Table) (mrd : Bool) (ranks : List Nat) (x : Nat) : Bool :=
  let e := t.ents.getD x {}
  let absent := t.parities.any fun f => !ranks.contains (t.entry f x).rk
  (e.kind != 2 && e.sel != 0) || decide (10 ≤ e.sel) ||
  (e.kind == 3 && !t.inFlex x && (e.dir || e.rk != 0 || e.bg != 0 || e.ba != 0 || e.col)) ||
  (e.kind == 3 && t.inFlex x && (e.dir || e.col)) ||
  ((e.isMrs || e.isCal) && (e.dir || e.bg != 0 || e.ba != 0 || e.col)) ||
  (e.col && e.kind != 1) || (e.col && mrd) ||
  ((e.kind != 3 || t.inFlex x) && absent) ||
  (e.isRef && decide (2 ^ t.cyc ≤ e.sel))

/-- A failure the validator reports (R315, R339). -/
structure ValFail where
  code : Nat
  slot : Nat := 0
  other : Nat := 0
  seam : Bool := false
  dirT : Bool := false
  deriving DecidableEq, Repr

/-- The refresh targets of a population (R314, REF_SUPPLY). -/
def targetsOf (t : Table) (ranks : List Nat) : List (Nat × Option Nat) :=
  ranks.flatMap fun r => if t.refSb then (List.range 4).map fun b => (r, some b) else [(r, none)]

/-- The times, in tCK from the start of the cycle, at which a target's windows are live in `n` frames at a rate. -/
def liveTimes (b : Bin) (tm : Timing) (t : Table) (dbl : Bool) (tg : Nat × Option Nat) (n : Nat) : List Int :=
  (List.range n).flatMap fun f =>
    (t.windows f).filterMap fun w =>
      if t.target w.2 = tg ∧ (if dbl then live2x t.cyc w.2.sel f else live1x t.cyc w.2.sel f) then
        some (refTime b tm ((f * t.len + w.1 : Nat) : Int)) else none

/-- No two successive times lie more than `gap` apart. -/
def gapsOk (gap : Int) : List Int → Bool
  | a :: b :: r => decide (b - a ≤ gap) && gapsOk gap (b :: r)
  | _ => true

/-- Rule REF_SUPPLY for one target: a window that comes to be live, no shared phase, and the spacing at both rates. -/
def refSupplyOk (b : Bin) (tm : Timing) (t : Table) (tg : Nat × Option Nat) : Bool :=
  let ws := ((t.windows 0 ++ (if t.rkAlt then t.windows 1 else [])).filter fun w => decide (t.target w.2 = tg)).map
    fun w => w.2.sel % 2 ^ (t.cyc - 1)
  let n := 2 ^ t.cyc * 2
  let live := fun (dbl : Bool) (gap : Int) =>
    let l := liveTimes b tm t dbl tg (n + 2 ^ t.cyc)
    !l.isEmpty && gapsOk gap l
  !ws.isEmpty && decide ws.Nodup && live true (tREFI b / 2) && live false (tREFI b)

/-- An entry covers a bank and direction (COVER): a C entry with COL = 0, or a REF entry's C role. -/
def covers (t : Table) (bank : Nat) (dir : Bool) (f x : Nat) : Bool :=
  let e := t.entry f x
  e.names bank dir && ((e.kind == 1 && !e.col) || e.isRef)

/-- The banks of a population, as SLOT reports a target (R315): RK in [7:5], BG in [4:2], BA in [1:0]. -/
def banksOf (ranks : List Nat) : List Nat := ranks.flatMap fun r => (List.range 32).map fun i => r * 32 + i

/-- Rule FLEX: the first bad slot of the section, or FLX_LAST when the bounds are bad. -/
def flexBad (t : Table) (ranks : List Nat) : Option Nat :=
  if !t.flexEn then none
  else if t.flexLast < t.flexFirst ∨ t.len ≤ t.flexLast then some t.flexLast
  else (rangeFrom t.flexFirst (t.flexLast + 1 - t.flexFirst)).find? fun x =>
    let e := t.ents.getD x {}
    !((e.kind == 1 && e.dir && !e.col) || e.kind == 3) ||
    t.parities.any fun f => !ranks.contains (t.entry f x).rk ||
      !(t.parities.any fun g => (List.range t.len).any fun y =>
          !t.inFlex y && (let o := t.entry g y; o.kind == 1 && o.names (t.entry f x).bank false))

/-- The validator on a table for a subchannel (R315): the first failure, or none. `fs` is the FRAME_SLOTS that will be in
force; `before` the active table, examined at the seam where it is legal; `shareOk` the outcome of rule SHARE. A table of the fill set
contains only write entries (R511), so COVER asks it for writes alone (DESIGN CHOICE: R314 names no exception; log entry 60). -/
def validate (b : Bin) (tm : Timing) (d : Spd) (fs : Nat) (before : Option Table) (t : Table) (cg : Nat) (shareOk fill : Bool) :
    Option ValFail :=
  let ranks := ranksOf d
  if t.len ≠ fs then some { code := 1 }
  else match (List.range t.len).find? fun x => fieldBad t b.mrd ranks x with
  | some x => some { code := 2, slot := x, other := x }
  | none =>
    match seqFails b tm t (seqs t t false) with
    | some r => some { code := r.1, slot := r.2.1, other := r.2.2.1 }
    | none =>
      let seam := match before with
        | some a => (seqFails b tm t (seqs a t true)).map fun r =>
            ({ code := r.1, slot := r.2.1, other := r.2.2.1, seam := r.2.2.2 } : ValFail)
        | none => none
      match seam with
      | some f => some f
      | none =>
        let par := t.parities
        match (targetsOf t ranks).find? fun tg => !refSupplyOk b tm t tg with
        | some tg => some { code := 0x0E, slot := tg.1 * 32 + tg.2.getD 0 }
        | none =>
          match (banksOf ranks).findSome? fun bk => ((if fill then [true] else [false, true]).find? fun dir =>
              !(par.any fun f => (List.range t.len).any fun x => covers t bk dir f x)).map fun dir => (bk, dir) with
          | some r => some { code := 0x0F, slot := r.1, dirT := r.2 }
          | none =>
            let named := ranks.filter fun r => (List.range t.len).any fun x =>
              let e := t.ents.getD x {}; e.isData && (e.rk == r || (t.rkAlt && Nat.xor e.rk 1 == r))
            match named.find? fun r => !((List.range t.len).any fun x =>
                let e := t.ents.getD x {}; e.isMrs && (e.rk == r || (t.rkAlt && Nat.xor e.rk 1 == r))) with
            | some r => some { code := 0x10, slot := r * 32 }
            | none =>
              if !shareOk then some { code := 0x11, other := cg }
              else match flexBad t ranks with
                | some x => some { code := 0x12, slot := x }
                | none => none

/-- SLT_VAL_RES of an outcome (R339). -/
def valWord : Option ValFail → Word
  | none => pack [(0, 2, 1)]
  | some f => pack [(0, 2, 2), (2, 1, b2n f.seam), (3, 1, b2n f.dirT), (4, 8, f.slot), (12, 8, f.other), (24, 8, f.code)]

/-- The register that PG_ERR names for a failure on an SLT page (R108). -/
def ValFail.off (f : ValFail) : Nat :=
  if f.code = 1 ∨ f.code = 0x0E ∨ f.code = 0x0F ∨ f.code = 0x10 ∨ f.code = 0x11 then 0x040
  else if f.code = 0x12 then 0x078 else 0x600 + 4 * (f.slot / 2)

end Sys2Proof.Machine
end

