-- ==== Sys2Proof/Machine/DefaultTables.lean ====
section
/-! DEFINITION. What the default tables of set 0 are bound to (R274, R312, R325, R332, R398, R963), and where Movement commits
them. -/
namespace Sys2Proof.Machine

/-- No parameter of a timing set exceeds the other's (R312). -/
def timingLe (a r : Timing) : Bool :=
  [(a.cl, r.cl), (a.cwl, r.cwl), (a.rcd, r.rcd), (a.rp, r.rp), (a.ras, r.ras), (a.rtp, r.rtp), (a.wr, r.wr), (a.rrdL, r.rrdL),
   (a.faw, r.faw), (a.ccdL, r.ccdL), (a.ccdLWr, r.ccdLWr), (a.wtrS, r.wtrS), (a.wtrL, r.wtrL), (a.rfc1, r.rfc1),
   (a.rfcsb, r.rfcsb), (a.rfm, r.rfm), (a.drfm, r.drfm)].all fun x => decide (x.1 ≤ x.2)

/-- The slots outside the flexible section that can carry a burst of a rank and direction, in order. -/
def Table.visits (t : Table) (rk : Nat) (dir : Bool) : List Nat :=
  (List.range t.len).filter fun x => let e := t.ents.getD x {}; e.isData && e.rk == rk && e.dir == dir

/-- The rank fields that a table's even frames visit. -/
def Table.visited (t : Table) : List Nat := (List.range 8).filter fun rk => !(t.visits rk false).isEmpty

/-- The bank index of an entry (R325). -/
def bankIndex (e : Entry) : Nat := 8 * e.ba + e.bg

/-- Each bank of a list follows the one before it in the rotation (R325). -/
def rotates : List Nat → Bool
  | a :: b :: r => b == (a + 1) % 32 && rotates (b :: r)
  | _ => true

/-- Reads come first in the frame and writes follow, and the bank index advances by one per data slot of each rank (R325). -/
def Table.ordered (t : Table) : Bool :=
  let at_ := fun x => t.ents.getD x {}
  (t.visited.all fun rk => [false, true].all fun dir => rotates ((t.visits rk dir).map fun x => bankIndex (at_ x))) &&
  ((List.range t.len).all fun x => (List.range x).all fun y =>
    !((at_ x).isData && !(at_ x).dir && (at_ y).isData && (at_ y).dir))

/-- G entries are second read visits (R325): the bank of one has a read entry that is not G, and no other G entry. -/
def Table.secondVisits (t : Table) : Bool :=
  let at_ := fun x => t.ents.getD x {}
  (List.range t.len).all fun x =>
    let e := at_ x
    e.kind != 0 || ((List.range t.len).any fun y => let o := at_ y; o.isData && !o.dir && o.kind != 0 && o.bank == e.bank) &&
      (List.range t.len).all fun y => let o := at_ y; y == x || o.kind != 0 || o.bank != e.bank

/-- The windows of each rank take its last `n` read positions, and the phases are spread evenly (R325, R398). -/
def Table.placed (t : Table) (n : Nat) : Bool :=
  let ws := t.windows 0
  let phases := (List.range ws.length).map fun i => 8 * i / ws.length
  t.cyc == 4 && (phases.all fun p => ws.any fun w => w.2.sel == p) && (ws.map fun w => t.target w.2).Nodup &&
  t.visited.all fun rk =>
    let v := t.visits rk false
    decide (n ≤ v.length) && (ws.filter fun w => w.2.rk == rk).map (·.1) == v.drop (v.length - n)

/-- A table of the standard profile as R274 and R325 have it: REFab, write CRC from 8,000 MT/s on, no flexible section. -/
def Table.standard (t : Table) (b : Bin) : Bool :=
  !t.refSb && !t.flexEn && t.wcrc == decide (8000 ≤ if b.mrd then 2 * b.dramMts else b.dramMts) && t.ordered && t.secondVisits && t.placed 1

/-- A table of the high-throughput profile against the standard one of its population (R332): the TURN entries of the section take read
roles, windows stand in read entries of the same banks, and every other entry is the standard table's. -/
def Table.throughput (t std : Table) (b : Bin) (tm : Timing) : Bool :=
  let last := ((List.range t.len).filter fun x => let e := t.ents.getD x {}; e.isData && !e.dir).getLastD 0
  t.refSb && t.flexEn && t.len == std.len && t.wcrc == std.wcrc && t.rkAlt == std.rkAlt && t.placed 4 &&
  ((List.range t.len).all fun x =>
    let e := t.ents.getD x {}
    let o := std.ents.getD x {}
    t.inFlex x == (e.isData && e.dir || (e.kind == 3 && decide (last < x))) &&
    (if t.inFlex x && e.kind == 3 then o.kind == 3
     else if e.isRef then o.isData && !o.dir && o.kind != 0 && o.bank == e.bank
     else e == o)) &&
  decide (gCapacity b tm std ≤ gCapacity b tm t)

/-- An image of set 0 is what R963 binds it to: it follows its profile's rules, and it passes every rule of R314 with the reference
timing set. -/
def bootFollows (profile : Nat) (b : Bin) (d : Spd) : Bool :=
  let tm := refTiming b d.dens
  let t := (bootTable 0 profile b d).table
  (listedTable 0 profile b d).isSome ||
  ((if profile = 0 then t.standard b else t.throughput (bootTable 0 0 b d).table b tm) &&
   (validate b tm d b.slots none t (gCapacity b tm t) true false).isNone)

/-- Movement commits a table of a set on a channel (R312, R963): a default table only where no parameter of the SPD exceeds the
reference set, and only as R963 has it. An unlisted image whose free words do not follow R963 is one that no Brixzen holds, and
nothing is committed (log entry 60). -/
def bootFits (set profile : Nat) (b : Bin) (d : Spd) : Bool :=
  set % 256 != 0 || (timingLe (d.timing.getD (refTiming b d.dens)) (refTiming b d.dens) && (decide (256 ≤ set) || bootFollows profile b d))

end Sys2Proof.Machine
end

