-- ==== Sys2Proof/Machine/Counters.lean ====
section
/-! DEFINITION. Count boxes (chapter 20): the events and their qualifiers, overflow, chains, the sampler, snapshots,
clears, and the occupancies that add in every BCLK. -/
namespace Sys2Proof.Machine

/-- A count box. -/
def State.cnt (s : State) (b : Nat) : Cnt := Tbl.get (fun _ => {}) s.cnts b

/-- Changes a count box. -/
def State.updCnt (s : State) (b : Nat) (f : Cnt → Cnt) : State :=
  { s with cnts := Tbl.upd (fun _ => {}) s.cnts b f }

/-- The count boxes of units (R87). -/
def boxGw (g : Nat) : Nat := 17 + g
/-- The box of a Lathe engine. -/
def boxLe (e : Nat) : Nat := 33 + e
/-- The box of a router. -/
def boxTr (n : Nat) : Nat := 35 + n
/-- The block's box. -/
def boxBlk : Nat := 71

/-- What an event offers to a counter's qualifier (R922 to R926). -/
inductive Qual where
  | none
  | sc (s : Nat)
  /-- the low `w` bits of QUAL name the value -/
  | is (w v : Nat)
  | port (p v : Nat)
  deriving DecidableEq, Repr

/-- A qualifier matches (0 means all). -/
def Qual.hits (q : Qual) (qual : Nat) : Bool :=
  match q with
  | .none => true
  | .sc s => qual % 4 == 0 || qual % 4 == 3 || qual % 4 == s + 1
  | .is w v => qual == 0 || qual % 2 ^ w == v
  | .port p v =>
    (qual % 8 == 0 || qual % 8 == 7 || qual % 8 == p + 1) && (qual / 8 == 0 || qual / 8 == 7 || qual / 8 == v + 1)

/-- An event of a unit: its box, code, qualifier, how much it adds, and the request it concerns with the slot of its
entry. -/
structure Ev where
  box : Nat
  code : Nat
  qual : Qual := .none
  n : Nat := 1
  req : Option Req := none
  /-- it concerns a request whose ITAG the filter of R911 tests -/
  itag : Option Nat := none
  pos : Option Pos := none

/-- A channel event that concerns a request. -/
def evReq (box code : Nat) (q : Qual) (r : Req) (p : Option Pos) : Ev :=
  { box := box, code := code, qual := q, req := some r, itag := some r.itag, pos := p }

/-- The programmable counters of a box run (R906). -/
def State.cntRuns (s : State) (b : Nat) : Bool :=
  let pg := s.page (.cnt b)
  pg.en && !flag (pg.actReg (.cnt b) 0x048) 0

/-- CNT_EVSELn of a box. -/
def State.evsel (s : State) (b n : Nat) : Word := s.reg (.cnt b) (0x050 + 4 * n)

/-- A counter is chained to the one below it (R910); counter 0 never is. -/
def State.chained (s : State) (b n : Nat) : Bool := n != 0 && flag (s.evsel b n) 17

/-- The lowest counter of the chain a counter belongs to. -/
def State.chainBase (s : State) (b : Nat) : Nat → Nat
  | 0 => 0
  | n + 1 => if s.chained b (n + 1) then s.chainBase b n else n + 1

/-- An overflow of counter `n` arms the sampler, or is lost where it is armed (R919, R920). -/
def Cnt.arm (c : Cnt) (n now : Nat) : Cnt :=
  match c.armed with
  | some a => { c with armed := some { a with lost := true } }
  | none => { c with armed := some { ctr := n, at_ := now } }

/-- Counter `n` of a box adds `k`; a wrap sets OVFn, carries into a chained counter and may arm the sampler
(R909, R910, R919). -/
def State.bump (s : State) (b : Nat) : Nat → Nat → Nat → State
  | 0, _, _ => s
  | fuel + 1, n, k =>
    let v := Tbl.get (fun _ => 0) (s.cnt b).vals n + k
    let s := s.updCnt b fun c => { c with vals := Tbl.set (fun _ => 0) c.vals n (v % 2 ^ 48) }
    if v < 2 ^ 48 then s
    else
      let s := s.raise (.cnt b) n
      let s := if flag (s.evsel b n) 16 then s.updCnt b fun c => c.arm n s.bclk else s
      if n < 7 ∧ s.chained b (n + 1) then s.bump b fuel (n + 1) 1 else s

/-- The sample record for an event of a box (R921, R939). -/
def State.sampleWords (s : State) (b : Nat) (a : Armed) (e : Option Ev) : List (Nat × Word) :=
  let pos := match e.bind (·.pos) with
    | some p => p
    | none => { frame := s.esc.frame, slot := s.slotNow }
  let skid := min 16 ((s.bclk - a.at_) / s.k)
  match e.bind (·.req) with
  | some r =>
    let pa := if b < 17 ∨ (35 ≤ b ∧ b < 71) then r.pa / 4096 * 4096 else r.pa
    let page := b < 17 ∨ (35 ≤ b ∧ b < 71)
    [(0, pack [(0, 1, 1), (2, 3, a.ctr), (5, 5, r.src), (10, 10, r.tag), (20, 12, r.itag)]),
     (1, pack [(0, 32, pa / 64)]),
     (2, pack [(0, 14, pa / 2 ^ 38), (14, 1, b2n page), (16, 8, pos.slot), (24, 5, skid), (29, 1, b2n a.lost)]),
     (3, pack [(0, 32, pos.frame)])]
  | none =>
    [(0, pack [(0, 1, 1), (1, 1, b2n e.isNone), (2, 3, a.ctr)]), (1, 0),
     (2, pack [(15, 1, 1), (16, 8, pos.slot), (24, 5, skid), (29, 1, b2n a.lost)]), (3, pack [(0, 32, pos.frame)])]

/-- A sample record is written (R920). -/
def State.writeSample (s : State) (b : Nat) (ws : List (Nat × Word)) : State :=
  let s := s.updCnt b fun c =>
    { c with armed := none, sample := ws.foldl (fun t w => Tbl.set (fun _ => 0) t w.1 w.2) c.sample }
  s.raise (.cnt b) 8

/-- Counter `n` of the box counts an event (R908, R911). -/
def State.counts (s : State) (e : Ev) (n : Nat) : Bool :=
  let w := s.evsel e.box n
  !s.chained e.box n && fld w 0 8 == e.code && e.code != 0 && e.qual.hits (fld w 8 6) &&
  (!flag w 18 || e.itag == some (fld w 20 12))

/-- An event is counted by every counter of its box that selects it, and sampled by the one whose overflow armed the
sampler (R908, R919). -/
def State.ev (s : State) (e : Ev) : State :=
  if e.n = 0 ∨ !s.cntRuns e.box then s
  else
    (List.range 8).foldl (fun s n =>
      if s.counts e n then
        let s := s.bump e.box 8 n e.n
        match (s.cnt e.box).armed with
        | some a =>
          if s.chainBase e.box a.ctr = n ∧ s.bclk ≤ a.at_ + 16 * s.k ∧ (e.req.isSome ∨ e.box = boxBlk) then
            s.writeSample e.box (s.sampleWords e.box a (some e))
          else s
        | none => s
      else s) s

/-! ### Packets (R718, R720 to R725, R925) -/

/-- What a packet is counted as at a router: a request's fields where it carries them (R921). -/
def Body.evReq : Body → Option Req
  | .memReq r => some r
  | .memResp r => some r.req
  | .bounce r _ => some r
  | _ => none

/-- The router events of a packet's path (R925): flits sent and received by port and virtual channel, dateline crossings. -/
def State.routeEvents (s : State) (body : Body) (l : List (Nat × Nat × Bool)) : State :=
  l.foldl (fun s x =>
    let q := Qual.port x.2.1 (2 * body.cls + b2n x.2.2)
    let e : Ev := { box := boxTr x.1, code := 1, qual := q, n := body.flits, req := body.evReq,
                    itag := body.evReq.map Req.itag }
    let s := s.ev e
    if x.2.1 < 4 then
      let m := neighbour x.1 x.2.1
      let s := s.ev { e with box := boxTr m, code := 2, qual := .port (x.2.1 / 2 * 2 + (1 - x.2.1 % 2)) (2 * body.cls + b2n x.2.2) }
      if dateline x.1 x.2.1 then s.ev { e with code := 8 } else s
    else s) s

/-- A unit injects a packet in BCLK `t` (R718, R726); the routers it will pass count its flits. During a route hold it waits
at its node (R486). -/
def State.inject (s : State) (body : Body) (src dst t : Nat) (train : Option Nat := none) : State :=
  if s.trt.hold then s.putPkt body src dst t train
  else (s.routeEvents body (pathVc (s.path dst 13 (s.attach src)) none false)).putPkt body src dst t train

/-- A quad counter or DISCARDED of a subchannel adds `n`; a wrap sets QUAD_WRAP (R930). -/
def quadAdd (v n : Nat) : Nat × Bool := ((v + n) % 2 ^ 48, decide (2 ^ 48 ≤ v + n))

/-- The quad places a slot (R389, R927), and the channel box counts it. -/
def State.quad (s : State) (c sc : Nat) (o : SlotOut) (p : Option Pos) (r : Option Req) : State :=
  let b := s.sub c sc
  let v := match o with
    | .readMoved => quadAdd b.quadRd 1 | .writeMoved => quadAdd b.quadWr 1
    | .demandIdle => quadAdd b.quadDem 1 | .planIdle => quadAdd b.quadPlan 1
  let s := s.updSub c sc fun b =>
    match o with
    | .readMoved => { b with quadRd := v.1 } | .writeMoved => { b with quadWr := v.1 }
    | .demandIdle => { b with quadDem := v.1 } | .planIdle => { b with quadPlan := v.1 }
  let s := s.raiseIf v.2 (.cnt c) 9
  let code := match o with | .readMoved => 1 | .writeMoved => 2 | .demandIdle => 3 | .planIdle => 4
  s.ev { box := c, code := code, qual := .sc sc, req := r, itag := none, pos := p }

/-- DISCARDED adds 1 (R389, R390). -/
def State.discard (s : State) (c sc : Nat) (p : Option Pos) : State :=
  let v := quadAdd (s.sub c sc).disc 1
  let s := s.updSub c sc fun b => { b with disc := v.1 }
  let s := s.raiseIf v.2 (.cnt c) 9
  s.ev { box := c, code := 0x2C, qual := .sc sc, pos := p }

/-- The live counters of a box as a capture (R916). -/
def State.capture (s : State) (b : Nat) : CntBank :=
  { fixed := s.bclk - (s.cnt b).base, vals := (s.cnt b).vals, frame := s.esc.frame,
    quads := if b < 17 then
        (List.range 2).flatMap (fun sc => let u := s.sub b sc; [u.quadRd, u.quadWr, u.quadDem, u.quadPlan]) ++
        (List.range 2).map fun sc => (s.sub b sc).disc
      else [] }

/-- CNT_SNAP.CLR (R915): the programmable counters and the sample record. -/
def State.cntClear (s : State) (b : Nat) : State :=
  s.updCnt b fun c => { c with vals := [], sample := [], armed := none }

/-- Clears both quads and DISCARDED counters of a channel box (R915, R929). -/
def State.quadClear (s : State) (c : Nat) : State :=
  let s := s.updCnt c fun x => { x with quadAt := s.bclk, quadClr := false }
  (List.range 2).foldl (fun s sc => s.updSub c sc fun b =>
    { b with quadRd := 0, quadWr := 0, quadDem := 0, quadPlan := 0, disc := 0 }) s

end Sys2Proof.Machine
end

