-- ==== Sys2Proof/Machine/Ecc.lean ====
section
/-! DEFINITION. The symbol code (R291, R292, R630 to R635), the poison encoding, and what a decode does: the error log,
correction counts, marks and channel events (R639 to R647, R654 to R659, R862). -/
namespace Sys2Proof.Machine

/-! ### GF(2^16) with x^16 + x^12 + x^3 + x + 1 (R630) -/

/-- Multiplication by the root α. -/
def gfX (a : Nat) : Nat := if a < 2 ^ 15 then 2 * a else Nat.xor (2 * a) 0x1100B

/-- The product, over the low `n` bits of `b`. -/
def gfMulN (a : Nat) : Nat → Nat → Nat
  | 0, _ => 0
  | n + 1, b => Nat.xor (gfX (gfMulN a n (b / 2))) (if b % 2 = 1 then a else 0)

/-- The product of two elements. -/
def gfMul (a b : Nat) : Nat := gfMulN a 16 b

/-- α to a power. -/
def alphaPow : Nat → Nat
  | 0 => 1
  | n + 1 => gfX (alphaPow n)

/-- The inverse of α^8 + α^9, which the encoder divides by (R631). -/
def encInv : Nat := 0x75D3

/-- P1 = α^1000 of the poison syndrome (R633). -/
def poisonP1 : Nat := 0xA1D6

/-! ### Symbols of a line (R291, R292) -/

/-- Symbol (j, d) of a stored line: data symbols in the low 512 bits, check symbols above. -/
def symOf (r : RawLine) (j d : Nat) : Nat :=
  if d < 8 then bits r.toNat (128 * j + 16 * d) 16 else bits r.toNat (512 + 32 * j + 16 * (d - 8)) 16

/-- XOR of a list of numbers. -/
def xorAll (l : List Nat) : Nat := l.foldl Nat.xor 0

/-- The two syndromes of codeword `j` (R631). -/
def syndrome (r : RawLine) (j : Nat) : Nat × Nat :=
  (xorAll ((List.range 10).map fun d => symOf r j d),
   xorAll ((List.range 10).map fun d => gfMul (symOf r j d) (alphaPow d)))

/-- The check symbols c8, c9 of a codeword whose data symbols are given and whose syndrome is to be (p0, p1) (R631,
R633). -/
def checkSyms (sym : Nat → Nat) (p0 p1 : Nat) : Nat × Nat :=
  let a := Nat.xor p0 (xorAll ((List.range 8).map sym))
  let b := Nat.xor p1 (xorAll ((List.range 8).map fun d => gfMul (sym d) (alphaPow d)))
  let c9 := gfMul (Nat.xor b (gfMul a (alphaPow 8))) encInv
  (Nat.xor a c9, c9)

/-- The 128 check bits of a line of data. -/
def checkBits (line : Line) (p0 p1 : Nat) : Nat :=
  packNat ((List.range 4).flatMap fun j =>
    let c := checkSyms (fun d => bits line.toNat (128 * j + 16 * d) 16) p0 p1
    [(32 * j, 16, c.1), (32 * j + 16, 16, c.2)])

/-- A line as the encoder stores it (R371, R631). -/
def encodeLine (line : Line) : RawLine := BitVec.ofNat 640 (line.toNat + checkBits line 0 0 * 2 ^ 512)

/-- The poison encoding (R633). -/
def poisonLine : RawLine := BitVec.ofNat 640 (checkBits 0 1 poisonP1 * 2 ^ 512)

/-! ### The decoder (R632, R634, R635) -/

/-- What a syndrome is: clean, a single-symbol error at a position, or another error (R632). -/
inductive Synd where
  | clean
  | single (d v : Nat)
  | other
  deriving DecidableEq, Repr

/-- The class of a syndrome (R632). -/
def syndOf (s : Nat × Nat) : Synd :=
  if s.1 = 0 ∧ s.2 = 0 then .clean
  else if s.1 = 0 then .other
  else match (List.range 10).find? fun d => gfMul s.1 (alphaPow d) == s.2 with
    | some d => .single d s.1
    | none => .other

/-- The positions of the single-symbol errors among four codewords; none where some codeword is not one. -/
def errPositions : List Synd → Option (List Nat)
  | [] => some []
  | .clean :: t => errPositions t
  | .single d _ :: t => (errPositions t).map (d :: ·)
  | .other :: _ => none

/-- The errors are accepted: all at one position, and at the marked one if a device is marked (R635). -/
def accepted (mark : Option Nat) (l : List Synd) : Bool :=
  match errPositions l with
  | none => false
  | some [] => true
  | some (d :: t) => t.all (· == d) && (match mark with | some m => d == m | none => true)

/-- The result of decoding a line (R634): 0 OK, 1 poisoned, 2 uncorrectable; CORR; the position of the errors; which
codewords had a non-zero syndrome; the data. -/
structure Decode where
  res : Nat := 0
  corr : Bool := false
  pos : Option Nat := none
  cwmask : Nat := 0
  data : Line := 0
  deriving DecidableEq, Repr

/-- A syndrome minus that of the poison encoding. -/
def minusP (s : Nat × Nat) : Nat × Nat := (Nat.xor s.1 1, Nat.xor s.2 poisonP1)

/-- The data of a line with its single-symbol errors corrected. -/
def fixData (r : RawLine) (l : List Synd) : Line :=
  let fix := (List.range 4).foldl (fun a j =>
    match l.getD j .clean with
    | .single d v => if d < 8 then Nat.xor a (v <<< (128 * j + 16 * d)) else a
    | _ => a) 0
  BitVec.ofNat 512 (Nat.xor (r.toNat % 2 ^ 512) fix)

/-- The common position of the errors, where there is one. -/
def onePos (l : List Synd) : Option Nat :=
  match errPositions l with
  | some (d :: t) => if t.all (· == d) then some d else none
  | _ => none

/-- The decoder (R634). -/
def decodeLine (mark : Option Nat) (r : RawLine) : Decode :=
  let ss := (List.range 4).map (syndrome r)
  let cw := packNat ((List.range 4).map fun j => (j, 1, b2n (ss.getD j (0, 0) != (0, 0))))
  let pois := ss.map fun s => syndOf (minusP s)
  let plain := ss.map syndOf
  if accepted mark pois then { res := 1, pos := onePos pois, cwmask := cw }
  else if accepted mark plain then
    { res := 0, corr := cw != 0, pos := onePos plain, cwmask := cw, data := fixData r plain }
  else { res := 2, pos := onePos plain, cwmask := cw }

/-! ### The error log (R654 to R659) -/

/-- Changes a channel's error log. -/
def State.updElog (s : State) (c : Nat) (f : Elog → Elog) : State := s.updChan c fun ch => { ch with elog := f ch.elog }

/-- The PG_ISR bit of an entry's class (R659); WCRC entries set a bit of the SLT page instead. -/
def classBit (cls : Nat) : Option Nat :=
  if cls = 1 then some 1 else if cls = 2 ∨ cls = 3 then some 0 else if cls = 4 then some 3 else if cls = 5 then some 2
  else if cls = 6 then some 4 else if cls = 8 then some 5 else none

/-- An entry (R655). -/
def logEnt (cls : Nat) (l : Loc) (status dev cwmask src itag gen count : Nat) (marked : Bool) (frame : Nat) : LogEnt :=
  { w0 := pack [(0, 1, 1), (1, 5, cls), (6, 1, l.sc), (7, 3, l.rk), (10, 3, l.bg), (13, 2, l.ba), (16, 8, status),
                (24, 4, dev), (28, 4, cwmask)]
    w1 := pack [(0, 20, l.row), (20, 7, l.col), (27, 5, src)]
    w2 := pack [(0, 12, itag), (12, 8, gen), (20, 8, count), (28, 1, b2n marked)]
    w3 := pack [(0, 32, frame)] }

/-- An entry is staged while EN of both log pages is 1 (R93, R657), and its interrupt bit set (R659). -/
def State.log (s : State) (c cls : Nat) (e : LogEnt) : State :=
  let s := if (s.page (.elog c)).en ∧ (s.page (.elog2 c)).en then s.updElog c fun g => { g with stage := g.stage ++ [e] } else s
  match classBit cls with
  | some b => s.raise (.elog c) b
  | none => s

/-- One staged entry is written into the ring (R654, R658). -/
def Elog.write (g : Elog) : Elog :=
  match g.stage with
  | [] => g
  | e :: t =>
    { g with stage := t, ring := Tbl.set (fun _ => {}) g.ring g.next e, next := (g.next + 1) % 256,
             seq := (g.seq + 1) % 2 ^ 24 }

/-- An instance counts an entry of its present generation (R842, R856, R859). -/
def State.insElog (s : State) (c idx : Nat) (e : LogEnt) : State :=
  let i := fld e.w2 0 12
  let live := i == 0 || (Tbl.get (fun _ => ({} : Ins)) s.ins i).st != 0
  if !live ∨ fld e.w2 12 8 ≠ Tbl.get (fun _ => 0) s.gens i then s
  else
    let s := { s with ins := Tbl.upd (fun _ => {}) s.ins i fun x =>
      { x with elogCnt := wrapAdd 16 x.elogCnt 1, lastCh := c, lastIdx := idx, lastValid := true } }
    s.raise (.ins i) 2

/-- Up to `n` BCLK pass at a channel's log: one staged entry is written in each (R657); a wrap of NEXT sets WRAP. -/
def State.logDrain (s : State) (c : Nat) : Nat → State
  | 0 => s
  | n + 1 =>
    let g := (s.chan c).elog
    if g.stage = [] then s
    else
      let e := g.stage.headD {}
      (((s.updElog c Elog.write).raiseIf (g.next == 255) (.elog c) 6).insElog c g.next e).logDrain c n

/-- The logs of every channel as `n` BCLK pass. -/
def State.logsDrain (s : State) (n : Nat) : State :=
  s.chans.foldl (fun s e => if e.2.elog.stage = [] then s else s.logDrain e.1 (min n e.2.elog.stage.length)) s

/-! ### Rank positions, marks, channel events -/

/-- The rank position of a rank field, 0 to 3 (R670). -/
def posOfRk (mrd : Bool) (rk : Nat) : Nat := if mrd then 2 * (rk / 4) + rk % 2 else rk % 4

/-- The rank field of a rank position within a subchannel. -/
def rkOfPos (mrd : Bool) (p : Nat) : Nat := if mrd then 4 * (p / 2) + p % 2 else p

/-- The rank position p of a location, 0 to 7 (R670). -/
def State.rankPos (s : State) (sc rk : Nat) : Nat := 4 * sc + posOfRk s.bin.mrd rk

/-- The marked device of a rank position (R640). -/
def Elog.markOf (g : Elog) (p : Nat) : Option Nat :=
  let v := Tbl.get (fun _ => 0) g.mark p
  if v = 0 then none else some (v - 1)

/-- A channel event (R862): event `n` sets its EVENTS bit, and CH_EVENT. An event that calls for a takeover is kept for
Movement, and one of a takeover's destination ends it early (R874). -/
def State.chanEvent (s : State) (c n : Nat) : State :=
  let calls := flag (s.reg (.cc c) 0x040) n && (s.task.kind == 0 || s.task.kind == 3 || s.task.kind == 5)
  let s := s.updChan c fun ch =>
    { ch with events := Nat.lor ch.events (2 ^ n), evtAt := if calls then some s.bclk else ch.evtAt }
  let hit := (s.task.kind == 1 || s.task.kind == 3) && decide (s.task.phase ≤ 2) && s.task.dst == c
  { s with task := { s.task with fail := s.task.fail || hit } }.raise (.cc c) 9

/-- ELOG_CTL in force. -/
def State.elogCtl (s : State) (c : Nat) : Word := s.reg (.elog c) 0x040

/-- The channel's modules are x8 (R266). -/
def Chan.isX8 (ch : Chan) : Bool := match ch.spd with | some d => d.x8 | none => false

/-- A line corrected at position `d` counts for that device (R639); a device that reaches the threshold is marked, with its
entry, its interrupt bit and its channel event (R642). -/
def State.countCorr (s : State) (c : Nat) (l : Loc) (d frame src itag gen : Nat) : State :=
  let p := s.rankPos l.sc l.rk
  let g := (s.chan c).elog
  let n := Tbl.get (fun _ => 0) g.corr (16 * p + d) + 1
  let s := s.updElog c fun g => { g with corr := Tbl.set (fun _ => 0) g.corr (16 * p + d) n }
  let ctl := s.elogCtl c
  if flag ctl 2 ∧ !(s.chan c).isX8 ∧ 2 ^ fld ctl 3 3 ≤ n ∧ (g.markOf p).isNone ∧
      Tbl.get (fun _ => 0) g.markPend p = 0 then
    let s := s.updElog c fun g =>
      { g with markPend := Tbl.set (fun _ => 0) g.markPend p (d + 1), markCnt := satAdd 255 g.markCnt 1 }
    let s := s.log c 5 (logEnt 5 l 0 d 0 src itag gen 0 false frame)
    s.chanEvent c 0
  else s

/-- Marks pending take effect at a tick (R639). -/
def Elog.markTick (g : Elog) : Elog :=
  { g with mark := g.markPend.foldl (fun t e => Tbl.set (fun _ => 0) t e.1 e.2) g.mark, markPend := [] }

/-- Marks and correction counts are cleared (R640, R641). -/
def Elog.clearMarks (g : Elog) : Elog := { g with mark := [], markPend := [], corr := [] }

/-- What the decode of a line read sets in motion (R634, R639, R642, R645 to R647): counts, log entries and interrupt bits.
`status` is the status returned to the requester. -/
def State.noteDecode (s : State) (c : Nat) (l : Loc) (d : Decode) (r : Req) (frame status : Nat) : State :=
  let ctl := s.elogCtl c
  let p := s.rankPos l.sc l.rk
  let mark := (s.chan c).elog.markOf p
  let ent := fun (cls : Nat) => logEnt cls l status (d.pos.getD 15) d.cwmask r.src r.itag r.gen 0 mark.isSome frame
  let e := fun (code : Nat) => evReq c code (.sc l.sc) r none
  if d.res = 1 then
    let s := s.ev (e 0x1A)
    if flag ctl 1 then s.log c 4 (ent 4) else s
  else if d.res = 2 then
    let s := s.ev (e 0x19)
    let s := s.updElog c fun g => { g with ueCnt := satAdd 255 g.ueCnt 1 }
    let cls := if mark.isSome then 3 else 2
    s.log c cls (ent cls)
  else match d.corr, d.pos with
    | true, some pos =>
      if mark = some pos then s.ev (e 0x18)
      else
        let s := s.ev (e 0x17)
        let s := s.updElog c fun g => { g with ceCnt := wrapAdd 16 g.ceCnt 1 }
        let s := if flag ctl 0 then s.log c 1 (ent 1) else s
        s.countCorr c l pos frame r.src r.itag r.gen
    | _, _ => s

end Sys2Proof.Machine
end

