-- ==== Sys2Proof/Machine/Burl.lean ====
section
/-! DEFINITION. The Burl table (chapter 15): counting activations, triggers and holds, windows, fallback, and heat. -/
namespace Sys2Proof.Machine

/-- BRL_CFG in force: BURL_TH, BURL_GAP and HOLD_EN (R701). -/
def State.brlCfg (s : State) (c : Nat) : Word := s.reg (.brl c) 0x040

/-- REF_CYC in force on a subchannel. -/
def State.refCyc (s : State) (c sc : Nat) : Nat := fld (s.reg (.slt c sc) 0x040) 12 3

/-- The split a configuration asks for (R673): 0 hammer only, 1 shared, 2 whole. -/
def splitOf (heatCfg : Word) : Nat := if fld heatCfg 0 16 = 0 then 0 else if flag heatCfg 16 then 2 else 1

/-- E: the hammer entries of a split. -/
def hammerEntries (split : Nat) : Nat := if split = 0 then 4096 else if split = 1 then 2048 else 0

/-- The first and the number of the heat entries of a split. -/
def heatEntries (split : Nat) : Nat × Nat := if split = 0 then (0, 0) else if split = 1 then (2048, 2048) else (0, 4096)

/-- The length in frames of a window under R678. -/
def State.winLen (s : State) (c sc : Nat) : Nat :=
  8196 * 2 ^ (s.refCyc c sc - if (s.sub c sc).win2x then 1 else 0)

/-- The frame at whose tick the present window is due to end (R678). -/
def State.winEnd (s : State) (c sc : Nat) : Nat := (s.sub c sc).winStart + s.winLen c sc

/-- CC_MODULE_ID.PRAC (R298). -/
def Chan.hasPrac (ch : Chan) : Bool := match ch.spd with | some d => d.prac | none => false

/-- CC_MODULE_ID.DRFM (R298). -/
def Chan.hasDrfm (ch : Chan) : Bool := match ch.spd with | some d => d.drfm | none => false

/-- A subchannel is in fallback (R692). -/
def State.inFallback (s : State) (c sc : Nat) : Bool := (s.sub c sc).fallback || !(s.page (.brl c)).en

/-! ### Space-saving tables (R677, R696) -/

/-- The lowest index from `lo` for `n` that a test selects. -/
def lowestIdx (p : Nat → Bool) (lo n : Nat) : Option Nat := (rangeFrom lo n).find? p

/-- The used index with the least count, the lowest among equals; the indices are all in use. -/
def leastIdx (cnt : Nat → Nat) : List Nat → Option Nat
  | [] => none
  | i :: t => match leastIdx cnt t with
    | some j => if cnt i ≤ cnt j then some i else some j
    | none => some i

/-- Hammer entry `i`. -/
def Sub.ham (b : Sub) (i : Nat) : Hammer := Tbl.get (fun _ => {}) b.hammer i

/-- An entry names the row of a location. -/
def Hammer.holds (h : Hammer) (l : Loc) : Bool :=
  h.used && h.rk == l.rk && h.bg == l.bg && h.ba == l.ba && h.row == l.row

/-- A hold is sent to a requester that is a gateway or an engine (R686, R691). -/
def State.sendHold (s : State) (c : Nat) (l : Loc) (q : Option (Nat × Nat)) (endFrame : Nat) : State :=
  match q with
  | some (src, itag) =>
    if src < 18 then
      let t := max s.bclk (s.chan c).brl.holdFree
      let s := s.updChan c fun ch => { ch with brl := { ch.brl with holdFree := t + 1 } }
      s.inject (.hold itag { l with ch := c, col := 0 } (fld (s.brlCfg c) 16 8) endFrame) (nodeCh c) (nodeOfSrc src) (t + 1)
    else s
  | none => s

/-- A trigger on a row (R682 to R684): the mitigation command, the holds, the count. -/
def State.trigger (s : State) (c sc : Nat) (h : Hammer) (frame : Nat) : State :=
  let b := s.sub c sc
  let l : Loc := { ch := c, sc := sc, rk := h.rk, bg := h.bg, ba := h.ba, row := h.row }
  let dl := frame + 2 ^ s.refCyc c sc
  let drfm := (s.chan c).hasDrfm
  let pend := drfm && b.mits.any fun m => m.drfm && m.rk == h.rk && m.ba == some h.ba && m.bg == h.bg
  let m : Mitig := { rk := h.rk, ba := some h.ba, bg := h.bg, drfm := drfm, deadline := dl, src := 1,
                     waits := if pend then some h.row else none }
  let s := s.updSub c sc fun b => { b with mits := b.mits ++ [m] }
  let s := if flag (s.brlCfg c) 24 then (s.sendHold c l h.req1 (s.winEnd c sc)).sendHold c l h.req2 (s.winEnd c sc) else s
  let s := s.updChan c fun ch => { ch with brl := { ch.brl with trig := wrapAdd 16 ch.brl.trig 1 } }
  (s.raise (.brl c) 0).ev { box := c, code := 0x2A, qual := .sc sc }

/-- The hammer entry that an ACT counts in, with FLOOR afterwards (R677). -/
def Sub.hamTake (b : Sub) (l : Loc) : Option (Nat × Hammer × Nat) :=
  let n := hammerEntries b.split
  match lowestIdx (fun i => (b.ham i).holds l) 0 n with
  | some i => some (i, b.ham i, b.floor)
  | none =>
    let new : Hammer := { used := true, rk := l.rk, bg := l.bg, ba := l.ba, row := l.row }
    match lowestIdx (fun i => !(b.ham i).used) 0 n with
    | some i => some (i, { new with fl := b.floor }, b.floor)
    | none =>
      match leastIdx (fun i => (b.ham i).cnt) (List.range n) with
      | some i =>
        let f := max b.floor (b.ham i).cnt
        some (i, { new with cnt := f, fl := f }, f)
      | none => none

/-- A fallback RFM is placed when a bank's rolling count reaches RAAIMT (R693). -/
def State.fallbackAct (s : State) (c sc : Nat) (l : Loc) (frame : Nat) : State :=
  if s.inFallback c sc ∧ !(s.chan c).hasPrac then
    let bank := locBank l
    let n := Tbl.get (fun _ => 0) (s.sub c sc).raa bank + 1
    let s := s.updSub c sc fun b => { b with raa := Tbl.set (fun _ => 0) b.raa bank n }
    let pend := (s.sub c sc).mits.any fun m => m.src == 2 && m.rk == l.rk && m.ba == some l.ba && m.bg == l.bg
    if (s.chan c).raaimt ≤ n ∧ !pend then
      s.updSub c sc fun b => { b with mits := b.mits ++
        [{ rk := l.rk, ba := some l.ba, bg := l.bg, deadline := frame + 2 ^ s.refCyc c sc, src := 2 }] }
    else s
  else s

/-- A waiting DRFM sample is taken at a precharge of its row once the bank's earlier sample has gone (R684). -/
def State.takeSample (s : State) (c sc : Nat) (l : Loc) (frame : Nat) : State :=
  let same := fun (m : Mitig) => m.drfm && m.rk == l.rk && m.ba == some l.ba && m.bg == l.bg
  if (s.sub c sc).mits.any fun m => same m && m.waits.isNone then s
  else s.updSub c sc fun b =>
    let ms := replaceFirst (fun m => same m && m.waits == some l.row)
      (fun m => { m with waits := none, deadline := frame + 2 ^ s.refCyc c sc }) b.mits
    { b with mits := ms }

/-- An ACT is counted in its CA cycle (R676, R677). -/
def State.actCount (s : State) (c sc : Nat) (a : Act) : State :=
  let th := fld (s.brlCfg c) 0 16
  let h2 := ceilDiv th 2
  let s := s.takeSample c sc a.loc a.frame
  let s := match (s.sub c sc).hamTake a.loc with
    | none => s
    | some (i, e, fl) =>
      let cnt := min (e.cnt + 1) 65535
      let q := some (a.src, a.itag)
      let e := { e with cnt := cnt }
      let e := if e.req1 = q then e else { e with req2 := e.req1, req1 := q }
      let trig := decide (th ≤ cnt) && decide (h2 ≤ cnt - e.fl)
      let e' := if trig then { e with cnt := 0, fl := 0 } else e
      let was := s.inFallback c sc
      let s := s.updSub c sc fun b =>
        { b with hammer := Tbl.set (fun _ => {}) b.hammer i e', floor := fl, fallback := b.fallback || decide (h2 ≤ fl),
                 raa := if was || decide (fl < h2) then b.raa else [] }
      let s := s.raiseIf (!was && decide (h2 ≤ fl)) (.brl c) 1
      if trig then s.trigger c sc e a.frame else s
  s.fallbackAct c sc a.loc a.frame

/-- The ACTs whose CA cycle lies before BCLK `t` are counted, in order. -/
def State.drainActs (s : State) (c sc t : Nat) : State :=
  let b := s.sub c sc
  let due := b.acts.filter fun a => decide (a.at_ < t)
  let s := s.updSub c sc fun b => { b with acts := b.acts.filter fun a => !decide (a.at_ < t) }
  due.foldl (fun s a => s.actCount c sc a) s

/-- A REF, RFM or DRFM reduces the rolling counts of its banks by RAAIMT (R693). -/
def State.raaRefresh (s : State) (c sc rk : Nat) (ba : Option Nat) : State :=
  let n := (s.chan c).raaimt
  let hit := fun (bank : Nat) => bank / 32 == rk && (match ba with | none => true | some x => bank % 4 == x)
  s.updSub c sc fun b =>
    let raa := b.raa.map fun e => if hit e.1 then (e.1, e.2 - n) else e
    { b with raa := raa.filter fun e => e.2 != 0 }

/-! ### Windows (R674, R678, R679) -/

/-- A window rollover: it clears every hammer entry, FLOOR and fallback, and applies a pending split, clearing every entry
that changes use (R674, R678). -/
def State.rollover (s : State) (c sc : Nat) (frame : Nat) : State :=
  let want := splitOf (s.reg (.brl c) 0x044)
  s.updSub c sc fun b =>
    let h := heatEntries want
    { b with hammer := [], floor := 0, fallback := false, winStart := frame, win2x := (s.chan c).rate2x,
             winSeq := wrapAdd 16 b.winSeq 1, winLate := false, split := want,
             heat := if want = b.split then b.heat
               else b.heat.filter fun e => decide (h.1 ≤ e.1) && decide (e.1 < h.1 + h.2) &&
                 decide ((heatEntries b.split).1 ≤ e.1),
             raa := if (s.page (.brl c)).en then [] else b.raa }

/-! ### Heat (R695 to R699) -/

/-- Heat entry `i`. -/
def Sub.heatAt (b : Sub) (i : Nat) : Heat := Tbl.get (fun _ => {}) b.heat i

/-- An access to a page is counted (R695, R696). -/
def Sub.heatCount (b : Sub) (page itag : Nat) : Sub :=
  let r := heatEntries b.split
  let put := fun (i : Nat) (cnt fl : Nat) =>
    { b with heat := Tbl.set (fun _ => {}) b.heat i { used := true, page := page, itag := itag, cnt := min (cnt + 1) (2 ^ 24 - 1) },
             hfloor := fl : Sub }
  if r.2 = 0 then b
  else match lowestIdx (fun i => (b.heatAt i).used && (b.heatAt i).page == page && (b.heatAt i).itag == itag) r.1 r.2 with
    | some i => put i (b.heatAt i).cnt b.hfloor
    | none =>
      match lowestIdx (fun i => !(b.heatAt i).used) r.1 r.2 with
      | some i => put i 0 b.hfloor
      | none =>
        match leastIdx (fun i => (b.heatAt i).cnt) (rangeFrom r.1 r.2) with
        | some i => let f := max b.hfloor (b.heatAt i).cnt; put i f f
        | none => b

/-- The order of a heat list: the larger sum, then the lower page, then the lower ITAG (R697). -/
def HeatRow.before (a b : HeatRow) : Bool :=
  decide (b.sum < a.sum) || (a.sum == b.sum &&
    (decide (a.page < b.page) || (a.page == b.page && decide (a.itag < b.itag))))

/-- Inserts a row in its place. -/
def heatInsert (r : HeatRow) : List HeatRow → List HeatRow
  | [] => [r]
  | x :: t => if r.before x then r :: x :: t else x :: heatInsert r t

/-- Adds an entry to the merged rows, by page and ITAG (R697). -/
def heatAdd (r : HeatRow) : List HeatRow → List HeatRow
  | [] => [r]
  | x :: t => if x.page = r.page ∧ x.itag = r.itag then { x with sum := x.sum + r.sum } :: t else x :: heatAdd r t

/-- The merged rows of both subchannels, ranked, the 256 largest (R697). -/
def State.heatMerge (s : State) (c : Nat) : List HeatRow :=
  let rows := ((s.sub c 0).heat ++ (s.sub c 1).heat).filter (·.2.used)
  let merged := rows.foldl (fun l e => heatAdd { page := e.2.page, itag := e.2.itag, sum := e.2.cnt } l) []
  (merged.foldl (fun l r => heatInsert r l) []).take 256

/-- The number of bits of a number. -/
def bitLen (n : Nat) : Nat := if n = 0 then 0 else Nat.log2 n + 1

/-- SCALE of a list (R698). -/
def heatScale (l : List HeatRow) : Nat := match l with | r :: _ => bitLen r.sum - 12 | [] => 0

/-! ### BRL_DATA (R704, R705) -/

/-- The four data registers for a selection. -/
def State.brlSample (s : State) (c : Nat) (idx : Word) : List Word :=
  let i := fld idx 0 12
  let sc := fld idx 12 1
  let b := s.sub c sc
  if flag idx 13 then
    let a := s.sub c 0
    let z := s.sub c 1
    [pack [(0, 16, a.floor), (16, 16, z.floor)], pack [(0, 16, min 65535 a.hfloor), (16, 16, min 65535 z.hfloor)],
     pack [(0, 32, s.esc.frame - b.winStart)], pack [(0, 32, s.winLen c sc)]]
  else if i < hammerEntries b.split then
    let h := b.ham i
    let q := fun (r : Option (Nat × Nat)) => match r with | some (x, t) => pack [(0, 5, x), (5, 12, t)] | none => 0
    if h.used then
      [pack [(0, 1, 1), (2, 3, h.rk), (5, 3, h.bg), (8, 2, h.ba), (10, 20, h.row)], pack [(0, 16, h.cnt), (16, 16, h.fl)],
       q h.req1, q h.req2]
    else [0, 0, 0, 0]
  else
    let h := b.heatAt i
    if h.used then
      [3, pack [(0, 32, h.page)], pack [(0, 8, h.page / 2 ^ 32), (8, 12, h.itag)], pack [(0, 24, h.cnt)]]
    else [0, 0, 0, 0]

end Sys2Proof.Machine
end

