-- ==== Sys2Proof/Machine/Enqueue.lean ====
section
/-! DEFINITION. Enqueue and stamping at a subchannel (R344 to R360, R371 to R374, R383 to R388): room, reserves, tokens,
due stamps, bounces, forwarded reads, and the wake of a channel in self-refresh. -/
namespace Sys2Proof.Machine

/-- The FIFO key of a bank, class and direction (R344). -/
def fifoKey (bank : Nat) (g dir : Bool) : Nat := bank * 4 + 2 * b2n g + b2n dir

/-- EXIT_BCLK (R417): 1.6 µs. -/
def State.exitBclk (s : State) : Nat := s.bin.ns 1600

/-- The wake slot of an exit whose waking event's stamping ends in BCLK `tw` (R418). -/
def State.wakeSlotOf (s : State) (c tw : Nat) : Pos := s.posFrom (tw + s.exitBclk + s.lead c * s.k)

/-- The wake slot that bounds the stamps of a channel, where it sleeps or wakes (R353, R418): `tend` is the last BCLK of
the stamping. -/
def State.wakeBound (s : State) (c tend : Nat) : Option Pos :=
  let ch := s.chan c
  match ch.sr with
  | .idleSr => some (s.wakeSlotOf c tend)
  | .waking => ch.wakeSlot
  | _ => none

/-- The earliest legal slot of a request whose stamping ends in BCLK `tend` (R353). -/
def State.earliest (s : State) (c tend : Nat) : Pos :=
  let e := s.posFrom (tend + 1 + s.lead c * s.k)
  match s.wakeBound c tend with
  | some w => Pos.max e w
  | none => e

/-- The last frame that the horizon of R384 and the G reserve of R349 reach. -/
def State.horizonFrame (s : State) (c tend : Nat) : Nat :=
  match s.wakeBound c tend with
  | some w => w.frame + 2
  | none => s.esc.frame + 2

/-- The G entries that no stamp has claimed from the present earliest legal slot to the horizon (R349): reads and
writes, or writes alone. -/
def State.freeG (s : State) (c sc : Nat) (writesOnly : Bool) : Nat :=
  let e := s.earliest c s.bclk
  let last := s.horizonFrame c s.bclk
  let claimed := ((s.sub c sc).ram.filter (·.g)).map (·.stamp)
  let ts := s.tables c sc
  ((rangeFrom e.frame (last + 1 - e.frame)).map fun f =>
    ((List.range (s.fsAt f)).filter fun x =>
      let en := (ts.at_ f).entry f x
      en.kind == 0 && (!writesOnly || en.dir) && Pos.le e ⟨f, x⟩ && !claimed.contains ⟨f, x⟩ &&
      !s.shadowedOn c ts ⟨f, x⟩).length).foldl (· + ·) 0

/-- G_RESV (R349). -/
def State.gResv (s : State) (c sc : Nat) : Nat := min 128 (s.freeG c sc false)

/-- G_RESV_W (R349). -/
def State.gResvW (s : State) (c sc : Nat) : Nat := min 48 (s.freeG c sc true)

/-- The C room of a subchannel (R350). -/
def State.subRoom (s : State) (c sc : Nat) : Nat :=
  let b := s.sub c sc
  min (192 - b.ram.length - s.gResv c sc) (96 - b.wb.length - s.gResvW c sc)

/-- The room a channel reports to its arbiter (R350), less what it has granted and not yet enqueued (R440). -/
def State.room (s : State) (c : Nat) : Nat := min (s.subRoom c 0) (s.subRoom c 1) - (s.chan c).arb.granted

/-- The stamp frontier of a subchannel (R53): the frame of the latest stamp issued, while its slot has not passed. -/
def State.frontier (s : State) (c sc : Nat) : Option Nat :=
  match (s.sub c sc).maxStamp with
  | some p => if s.slotBclk p + s.k ≤ s.bclk then none else some p.frame
  | none => none

/-- The latest earlier request to a location among the records and the buffered writes. -/
def Sub.predOf0 (b : Sub) (l : Loc) : Option (Nat × Pos) :=
  match (b.ram.reverse.find? fun r => r.req.loc == l) with
  | some r => some (r.sn, r.stamp)
  | none =>
    match b.wb.reverse.find? fun w => w.req.loc == l with
    | some w => some (w.sn, w.stamp)
    | none => none

/-- The line predecessor of a request to a location (R353, R374): the latest of the requests to the line in the request RAM, else the write
whose buffer line still holds it, and the pending Crown access; with the stamp after which the request's own must lie. -/
def Sub.predOf (b : Sub) (l : Loc) : Option (Nat × Pos) :=
  let p := b.predOf0 l
  let n := match p with | some x => x.1 | none => 0
  match b.crown with
  | some a => if a.req.loc = l ∧ n ≤ a.sn then some (a.sn, match p with | some x => x.2 | none => {}) else p
  | none => p

/-- The newest write-buffer line that holds a location (R373). -/
def Sub.bufOf (b : Sub) (l : Loc) : Option WLine := b.wb.reverse.find? fun w => w.req.loc == l

/-- The first slot a request may be stamped to: after its earliest legal slot, its line predecessor and its FIFO's claim
(R353). -/
def State.stampFrom (s : State) (c sc : Nat) (r : Req) (g : Bool) (tend : Nat) : Pos :=
  let b := s.sub c sc
  let e := s.earliest c tend
  let e := match b.predOf r.loc with | some (_, p) => Pos.max e (s.posNext p) | none => e
  let claim := Tbl.get (fun _ => {}) b.claims (fifoKey (locBank r.loc) g r.write)
  if claim = {} then e else Pos.max e (s.posNext claim)

/-- The stamp search of R353 for class G: a countable G entry up to the horizon. -/
def State.stampG (s : State) (c sc : Nat) (r : Req) (tend : Nat) : Option Pos :=
  let s0 := s.stampFrom c sc r true tend
  s.firstPos (s.countableG c (s.tables c sc) (locBank r.loc) r.write) (s.horizonFrame c tend + 1 - s0.frame) s0

/-- The stamp search of R353 for class C. A legal table has a countable entry within a doubled-rate cycle. -/
def State.stampC (s : State) (c sc : Nat) (r : Req) (tend : Nat) : Option Pos :=
  let s0 := s.stampFrom c sc r false tend
  s.firstPos (s.countableC c sc (s.tables c sc) (locBank r.loc) r.write) 64 s0

/-- The token count of an owner on a channel (R383). -/
def Chan.tokensOf (ch : Chan) (itag : Nat) : Nat := Tbl.get (fun _ => 0) ch.tokens itag

/-- A channel wakes (R417): the exit starts in BCLK `tw`, when the waking event's stamping ends. -/
def State.wake (s : State) (c tw : Nat) : State :=
  if (s.chan c).sr = .idleSr then
    let w := s.wakeSlotOf c tw
    s.updChan c fun ch => { ch with sr := .waking, readyAt := tw + s.exitBclk, wakeSlot := some w }
  else s

/-- Which of class G, class C or a bounce a request receives, with its stamp (R357, R384). -/
inductive Placed where
  | at_ (g : Bool) (p : Pos)
  | bounce (reason : Nat)
  | none
  deriving DecidableEq, Repr

/-- The placing of a request (R353, R357, R384): the reasons of a bounce in their order. -/
def State.place (s : State) (c sc : Nat) (r : Req) (tend : Nat) : Placed :=
  let b := s.sub c sc
  let noLine := r.write && decide (96 ≤ b.wb.length)
  if r.g then
    if r.due.isSome then
      match s.stampG c sc r tend with
      | some p => .at_ true p
      | none => match s.stampC c sc r tend with | some p => .at_ false p | none => .none
    else if (s.chan c).tokensOf r.itag = 0 then .bounce 1
    else if s.hasG c sc (locBank r.loc) r.write then
      match s.stampG c sc r tend with
      | none => .bounce 2
      | some p => if 192 ≤ b.ram.length ∨ noLine then .bounce 3 else .at_ true p
    else if s.subRoom c sc = 0 ∨ noLine then .bounce 3
    else match s.stampC c sc r tend with
      | some p => .at_ false p
      | none => .none
  else match s.stampC c sc r tend with
    | some p => .at_ false p
    | none => .none

/-- A response of a channel is injected toward its requester in BCLK `t`. The patrol scrubber's are
answered within the channel, and the copy unit takes its own at READ_DECODE. -/
def State.respond (s : State) (c t : Nat) (r : Resp) : State :=
  if r.req.src = 18 ∨ r.req.src = 19 then s
  else s.inject (.memResp r) (nodeCh c) (nodeOfSrc r.req.src) t

/-! ### The patrol scrubber's place in its pass (R648 to R650) -/

/-- Changes a channel's scrubber. -/
def State.updScrub (s : State) (c : Nat) (f : Scrub → Scrub) : State := s.updChan c fun ch => { ch with scrub := f ch.scrub }

/-- LINES of R649: the lines of a channel under the geometry in force. -/
def State.chanLines (s : State) : Nat := 2 ^ (s.mapAct.nch - 6)

/-- The location of a line in the order of R648: line index fastest, then bank group, bank, rank position, subchannel, and
row slowest. -/
def State.lineLoc (s : State) (c n : Nat) : Loc :=
  let m := s.mapAct
  let nc := 2 ^ m.colBits
  let nr := 2 ^ m.rkBits
  let col := n % nc
  let n := n / nc
  let bg := n % 8
  let n := n / 8
  let ba := n % 4
  let n := n / 4
  let pos := n % nr
  let n := n / nr
  { ch := c, sc := n % 2, rk := rkOfPos m.mrd (if m.mrd ∧ m.rkBits = 1 then 2 * pos else pos), bg := bg, ba := ba,
    row := n / 2, col := col }

/-- CC_SCRUB_CFG in force. -/
def State.scrubCfg (s : State) (c : Nat) : Word := s.reg (.cc c) 0x068

/-- The scrubber earns no credit and raises nothing (R650). -/
def State.scrubHeld (s : State) (c : Nat) : Bool :=
  let ch := s.chan c
  ch.sr != .awake || ch.calRun || !ch.inService || fld (s.scrubCfg c) 0 8 == 0

/-- While it holds a credit and has no line in flight, the scrubber raises the next read of its pass (R648, R649). -/
def State.scrubRaise (s : State) (c : Nat) : State :=
  let x := (s.chan c).scrub
  if x.credits = 0 ∨ x.fly.isSome ∨ s.scrubHeld c ∨ s.chanLines ≤ x.pos then s
  else
    let l := s.lineLoc c x.pos
    let r : Req := { src := 18, loc := l, created := s.bclk, hdrAt := s.bclk, use := 1 }
    s.updScrub c fun x =>
      { x with credits := x.credits - 1, fly := some l, wrote := false, pos := x.pos + 1, q := x.q ++ [{ req := r, raised := s.bclk }] }

/-- The answer to a request that takes no record (R459): OFFLINE in the BCLK after the three of stamping. -/
def State.answerOffline (s : State) (c tend : Nat) (r : Req) : State :=
  let s := if r.src = 18 then s.updScrub c fun x => { x with fly := none } else s
  s.respond c (tend + 1) { req := r, status := 3, rkind := 4, thr := r.thr }

/-- What an enqueue means to the channel's patrol scrubber (R652): a write to its line in flight; its own read and
write-back. -/
def State.scrubNote (s : State) (c : Nat) (r : Req) : State :=
  let f := (s.chan c).scrub.fly
  let upd := fun (s : State) (g : Scrub → Scrub) => s.updChan c fun ch => { ch with scrub := g ch.scrub }
  if r.use = 1 then upd (s.ev { box := c, code := 0x1B }) fun x => { x with wrote := false }
  else if r.use = 2 then (upd (s.ev { box := c, code := 0x1C }) fun x => { x with fly := none }).scrubRaise c
  else if r.write ∧ f = some r.loc then upd s fun x => { x with wrote := true }
  else s

/-- A record enters the request RAM (R348): its claim, its stamp, its buffer line if it is a write, its forwarding line if
the buffer holds its line (R373). A write's WRITE_DONE is injected in the next BCLK (R171, R348). -/
def State.enter (s : State) (c sc : Nat) (r : Req) (g : Bool) (p : Pos) (tend : Nat) : State :=
  let b := s.sub c sc
  let sn := s.nextSn
  let pred := (b.predOf r.loc).map (·.1)
  let buf := if r.write then none else b.bufOf r.loc
  let kind : RKind := if r.write then .write else if buf.isSome then .fwd else .read
  let wbuf := if r.write then some sn else buf.map (·.sn)
  let rec_ : Rec := { sn := sn, kind := kind, g := g, req := r, stamp := p, wbuf := wbuf, pred := pred, exc := r.exc }
  let wb := if r.write then b.wb ++ [{ sn := sn, req := r, stamp := p }]
    else match buf with
      | some w => replaceFirst (fun x => x.sn == w.sn) (fun x => { x with bound := x.bound ++ [sn] }) b.wb
      | none => b.wb
  let s := { s with nextSn := sn + 1 }
  let s := s.updSub c sc fun b =>
    { b with
      ram := b.ram ++ [rec_], wb := wb,
      claims := Tbl.set (fun _ => {}) b.claims (fifoKey (locBank r.loc) g r.write) p,
      maxStamp := some (match b.maxStamp with | some q => Pos.max q p | none => p),
      peakRam := max b.peakRam (b.ram.length + 1), peakWb := max b.peakWb wb.length }
  let s := s.raiseIf (r.write && decide (wb.length = 96)) (.slt c sc) 6
  let s := s.scrubNote c r
  let s := if r.src < 18 then s.updSub c sc fun b => b.heatCount (r.pa / 4096) r.itag else s
  let s := s.ev (evReq c (if r.write then 0x11 else 0x10) (.is 2 (if g then 2 else 1)) r none)
  if r.write then
    s.respond c (tend + 1) { req := r, status := 0, rkind := 2, stamp := p.stamp, thr := r.thr }
  else s

/-- A request's stamping at a channel ends in BCLK `tend`: it takes a record, or is bounced (R384), or, where the channel's
tables hold no entry it could ever be served by, is answered OFFLINE. -/
def State.enqueue (s : State) (c : Nat) (r : Req) (tend : Nat) : State :=
  let sc := r.loc.sc
  if r.use = 2 ∧ (s.chan c).scrub.wrote then
    ((s.ev { box := c, code := 0x1D }).updScrub c fun x => { x with fly := none }).scrubRaise c
  else
  match s.place c sc r tend with
  | .none => s.answerOffline c tend r
  | .bounce n =>
    let s := s.ev (evReq c 0x0F (.is 2 n) r none)
    let s := s.raiseIf (n == 3) (.slt c sc) 3
    let s := s.raiseIf (n == 2) (.slt c sc) 4
    s.inject (.bounce r n) (nodeCh c) (nodeOfSrc r.src) (tend + 1)
  | .at_ g p =>
    let s := if r.g ∧ r.due.isNone then
        let s := s.updChan c fun ch =>
          { ch with tokens := Tbl.upd (fun _ => 0) ch.tokens r.itag (· - 1),
                    ownerLast := if g then Tbl.upd (fun _ => {}) ch.ownerLast r.itag fun q => Pos.max q p else ch.ownerLast }
        if g then s else s.ev (evReq c 0x0E (.sc sc) r none)
      else s
    (s.wake c tend).enter c sc r g p tend

end Sys2Proof.Machine
end

