-- ==== Sys2Proof/Machine/Pipeline.lean ====
section
/-! DEFINITION. The gateways as time passes (chapter 03, R461, R462, R688, R815 to R820): an item's entry to G0, the stages G0 to G4 each
in its own BCLK, a flush, link init; the bits of a flit; interrupt messages. -/
namespace Sys2Proof.Machine

/-! ### Instances at G1 (R815 to R820) -/

/-- The generation of an ITAG in force. -/
def State.genOf (s : State) (itag : Nat) : Nat := Tbl.get (fun _ => 0) s.gens itag

/-- An instance; ITAG 0 is always ACTIVE (R818, R824). -/
def State.insOf (s : State) (i : Nat) : Ins := Tbl.get (fun _ => {}) s.ins i

/-- Changes an instance. -/
def State.updIns (s : State) (i : Nat) (f : Ins → Ins) : State := { s with ins := Tbl.upd (fun _ => {}) s.ins i f }

/-- An event of an instance's tally (R840), kept for the next fold. -/
def State.tally (s : State) (i n k : Nat) : State :=
  s.updIns i fun x => { x with fold := Tbl.upd (fun _ => 0) x.fold n (· + k) }

/-- A PASID lies in a slice (R816). -/
def inSlice (sl : Nat × Nat) (pasid : Nat) : Bool := pasid / 2 ^ sl.2 == sl.1 / 2 ^ sl.2

/-- The ITAG of a request (R815): the slice's instance for a PASID where the port maps them, else the header's; none where
no slice holds the PASID. -/
def State.itagOf (s : State) (g : Nat) (h : ReqHdr) : Option Nat :=
  if flag (s.reg (.gw g) 0x040) 3 ∧ h.pasidV then
    (s.ins.find? fun e => match e.2.slice with | some sl => e.2.st != 0 && inSlice sl h.pasid | none => false).map (·.1)
  else some (h.itag % 4096)

/-- The memory requests of an ITAG are admitted (R818, R825). -/
def State.insMay (s : State) (i : Nat) : Bool := i == 0 || (s.insOf i).st == 1 || (s.insOf i).st == 2

/-- A line is permitted to an ITAG (R818, R819). -/
def State.lineMay (s : State) (i pa : Nat) : Bool :=
  s.insMay i && (i == 0 || (s.insOf i).ranges == [] || (s.insOf i).ranges.any fun r => decide (r.1 ≤ pa) && decide (pa ≤ r.2))

/-! ### The bits of a flit (R149, R161, R169, R197) -/

/-- The body of a request header flit (R161). -/
def hdrBody (h : ReqHdr) : BitVec 512 :=
  BitVec.ofNat 512 (packNat
    [(0, 4, h.opcode), (8, 9, h.tag), (17, 2, h.hint), (20, 3, h.nlines), (23, 1, b2n h.poisonIn), (24, 52, h.addr), (76, 12, h.itag),
     (88, 20, h.pasid), (108, 1, b2n h.pasidV), (109, 1, b2n h.priv), (110, 1, b2n h.svcWr), (111, 1, b2n h.svcSize),
     (128, 64, h.svcData)])

/-- The fields of a request header flit by its body (R161), with the LAST and SEQ of its trailer: every other bit is ignored. -/
def hdrOf (b : BitVec 512) (last : Bool) (seq : Nat) : ReqHdr :=
  let f := fun (lo w : Nat) => bits b.toNat lo w
  let bit := fun (n : Nat) => f n 1 == 1
  { opcode := f 0 4, tag := f 8 9, hint := f 17 2, nlines := f 20 3, poisonIn := bit 23, addr := f 24 52, itag := f 76 12,
    pasid := f 88 20, pasidV := bit 108, priv := bit 109, svcWr := bit 110, svcSize := bit 111, svcData := f 128 64,
    last := last, seq := seq % 4096 }

/-- The body of a response header flit (R169). -/
def Resp.body (r : Resp) : BitVec 512 :=
  BitVec.ofNat 512 (packNat
    [(0, 4, r.rkind), (8, 9, r.req.tag), (17, 2, r.req.line), (24, 8, r.status), (32, 24, r.stamp), (56, 1, b2n r.late), (57, 1, b2n r.corr),
     (58, 1, b2n r.thr), (64, 12, r.req.itag), (128, 64, r.svcData)])

/-- The body of the gateway's INIT flit: 48 header and 32 data credits (R152, R197). -/
def initBody : BitVec 512 := BitVec.ofNat 512 (packNat [(0, 8, 48), (8, 8, 32)])

/-- Bits [47:0] of a flit's trailer (R149). -/
def Flit.low (x : Flit) : BitVec 48 :=
  BitVec.ofNat 48 (packNat [(0, 12, x.seq), (12, 12, x.ack), (24, 2, x.fkind), (26, 1, b2n x.last), (27, 1, b2n x.nak), (28, 3, x.hdrCr),
                            (31, 3, x.dataCr)])

/-- CRC-16 with polynomial 0x1021 and initial value 0xFFFF over bytes, each from its most significant bit (R149; the order of the bits is a
DESIGN CHOICE: log entry 59). -/
def crc16 (bs : List Nat) : Nat :=
  let step := fun (c : Nat) => (if 32768 ≤ c then Nat.xor (2 * c) 0x1021 else 2 * c) % 65536
  bs.foldl (fun c b => (List.range 8).foldl (fun c _ => step c) (Nat.xor c (256 * b))) 0xFFFF

/-- The CRC of a flit: over its body and bits [47:0] of its trailer, from the lowest byte (R149). -/
def Flit.crc (x : Flit) : Nat :=
  crc16 (((List.range 64).map fun i => bits x.body.toNat (8 * i) 8) ++ (List.range 6).map fun i => bits x.low.toNat (8 * i) 8)

/-- A flit's trailer (R149). -/
def Flit.trailer (x : Flit) : BitVec 64 := BitVec.ofNat 64 (packNat [(0, 48, x.low.toNat), (48, 16, x.crc)])

/-- A flit is sent in BCLK `t` (R149, R150): its trailer carries the number of the last good flit, a NAK that is due, and up to seven
credits of each kind. The egress is free for the next flit: E0 comes two BCLK before E2 (R183). -/
def Gw.emit (w : Gw) (seq fkind : Nat) (last : Bool) (body : BitVec 512) (t : Nat) : Gw :=
  let ch := min 7 w.crHdr
  let cd := min 7 w.crData
  let x : Flit := { seq := seq, ack := (w.expSeq + 4095) % 4096, fkind := fkind, last := last, nak := w.nakAt.isSome, hdrCr := ch, dataCr := cd,
                    body := body, at_ := t }
  { w with tx := x :: w.tx, crHdr := w.crHdr - ch, crData := w.crData - cd, nakAt := none, unacked := none, egFree := max w.egFree (t - 1) }

/-- The body of a flit of the replay buffer. -/
def RpFlit.body (f : RpFlit) : BitVec 512 := if f.fkind = 1 then f.resp.body else if f.fkind = 2 then f.resp.data else initBody

/-- A flit of the replay buffer is the last of its packet. -/
def RpFlit.last (f : RpFlit) : Bool := f.fkind != 1 || f.resp.rkind != 1

/-- A flit that is not idle is sent for the first time in BCLK `t`: it takes the next number and its place in the replay buffer (R157). -/
def Gw.sendNew (w : Gw) (f : RpFlit) (t : Nat) : Gw :=
  { w.emit w.txSeq f.fkind f.last f.body t with
    replay := w.replay ++ [{ f with seq := w.txSeq, sent := t }], txSeq := (w.txSeq + 1) % 4096 }

/-- The BCLK in which the link is free for a flit, from BCLK `t` on. -/
def Gw.linkFree (w : Gw) (t : Nat) : Nat := max t (w.egFree + 2)

/-- The next flit of the replay buffer that a rewind sends again goes out in BCLK `t`, with its own number (R159). -/
def Gw.sendAgain (w : Gw) (t : Nat) : Gw :=
  let n := w.replay.length - w.resend
  match w.replay[n]? with
  | some f => { w.emit f.seq f.fkind f.last f.body t with
                replay := w.replay.set n { f with sent := t }, resend := w.resend - 1 }
  | none => { w with resend := 0 }

/-- An idle flit carries the next number and does not consume it (R149, R150); its LAST is 1 and its body zero (DESIGN CHOICE: log entry 59).
-/
def Gw.sendIdle (w : Gw) (t : Nat) : Gw := w.emit w.txSeq 0 true 0 t

/-- Credits come back to the mesh: a header's, and a data flit's (R153). -/
def Gw.giveBack (w : Gw) (hdr data : Nat) : Gw :=
  { w with reqHdr := w.reqHdr + hdr, crHdr := w.crHdr + hdr, reqData := w.reqData + data, crData := w.crData + data }

/-! ### The form of a request (R166) -/

/-- The status code MALFORMED (R19). -/
def stMalformed : Nat := 4

/-- A request header is malformed (R82, R166). -/
def hdrMalformed (h : ReqHdr) : Bool :=
  !(decide (1 ≤ h.opcode) && decide (h.opcode ≤ 4)) || decide (384 ≤ h.tag) || h.hint == 3 ||
  h.nlines == 0 || decide (5 ≤ h.nlines) || (h.nlines != 1 && h.opcode != 2) ||
  (h.opcode != 4 && h.addr % 64 != 0) ||
  (h.opcode == 2 && decide (2 ^ 52 ≤ h.addr + 64 * (h.nlines - 1))) ||
  (h.opcode == 4 && (decide (2 ^ 25 ≤ h.addr) || h.addr % (if h.svcSize then 8 else 4) != 0)) ||
  (if h.opcode = 3 then h.last else !h.last)

/-- The number of responses a request takes (R164). -/
def hdrAnswers (h : ReqHdr) : Nat := if h.opcode = 2 then h.nlines else 1

/-! ### Tags and responses -/

/-- A tag of a gateway; none where it is free. -/
def Gw.tag (w : Gw) (t : Nat) : TagRec := Tbl.get (fun _ => {}) w.tags t

/-- A tag is in use. -/
def Gw.inUse (w : Gw) (t : Nat) : Bool := decide (0 < (w.tag t).left)

/-- One response to a tag has left or been dropped: the tag is released with its last (R164). -/
def Gw.release (w : Gw) (t : Nat) : Gw :=
  { w with tags := Tbl.upd (fun _ => {}) w.tags t fun r => if r.left ≤ 1 then {} else { r with left := r.left - 1 } }

/-- A response leaves the gateway's tags: one that holds no tag leaves them as they are (R167, R186). -/
def Gw.answered (w : Gw) (r : Resp) : Gw := if r.bare then w else w.release r.req.tag

/-- A protocol error is counted (R202, R214). -/
def State.protoErr (s : State) (g : Nat) : State :=
  (s.updGw g fun w => { w with protoCnt := satAdd 255 w.protoCnt 1 }).raise (.gw g) 1

/-- A response formed at the gateway enters E0 in BCLK `t` (R173, R176). -/
def State.ownResp (s : State) (g : Nat) (r : Resp) (t : Nat) : State :=
  let s := s.ev { box := boxGw g, code := 0x03, qual := .is 6 r.status, req := some r.req, itag := some r.req.itag }
  s.updGw g fun w => { w with eg := w.eg ++ [{ resp := r, at_ := t, own := true }] }

/-- A refusal formed at the gateway enters E0 in BCLK `t` (R173, R176). -/
def State.refuse (s : State) (g : Nat) (r : Req) (status t : Nat) : State :=
  s.ownResp g { req := r, status := status, rkind := if r.use = 9 then 3 else 4, thr := r.thr } t

/-- The request of a header's line `n`. -/
def hdrReq (h : ReqHdr) (g n itag gen t0 arr : Nat) : Req :=
  { src := g, tag := h.tag, line := n, write := h.opcode == 3, poison := h.poisonIn, pa := h.addr + 64 * n, itag := itag,
    gen := gen, created := t0 + 4 + n, hdrAt := arr, use := if h.opcode = 4 then 9 else 0 }

/-- A fabric request reaches a page (R100, R101). -/
def State.reaches (s : State) (itag : Nat) (priv wr : Bool) (p : PageId) : Bool :=
  let pg := s.page p
  (priv || pg.user) &&
  (itag == 0 || match p with
    | .ins i => i == itag
    | .cnt _ => !wr && pg.user && flag (s.reg (.ins itag) 0x050) 1
    | _ => false)

/-- The page of a window offset. -/
def pageAt (addr : Nat) : Option PageId := if addr < 2 ^ 25 then pageOf (addr / 4096) else none

/-- A fabric request may have its offset answered at all (R100, R101): ACCESS comes before UNMAPPED (R21). -/
def State.reachesAt (s : State) (itag : Nat) (priv wr : Bool) (addr : Nat) : Bool :=
  match pageAt addr with
  | some p => s.reaches itag priv wr p
  | none => priv && itag == 0

/-- BLK_BADACC records an access that R83 or R102 answers (R121, R122). -/
def State.badAccess (s : State) (src : Src) (addr : Nat) (wr acc : Bool) : State :=
  match src with
  | .fabric g _ _ =>
    let w := pack [(0, 25, addr), (25, 4, g), (29, 1, b2n wr), (30, 1, b2n acc), (31, 1, 1)]
    (({ s with blk := { s.blk with badAcc := w, badWas := rcSet s.blk.badWas s.bclk s.blk.badAcc,
                                   badAccCnt := satAdd (2 ^ 32 - 1) s.blk.badAccCnt 1 } }).raise .blk 3).ev
      { box := boxBlk, code := 0x09 }
  | _ => s

/-! ### G4 (R175, R177, R178, R180, R461, R462, R688) -/

/-- The hops of the request leg and back between a gateway and a channel. -/
def State.hopsGC (s : State) (g c : Nat) : Nat × Nat := (s.hops (nodeGw g) (nodeCh c), s.hops (nodeCh c) (nodeGw g))

/-- The bounce time from a gateway to a channel (R385, R479). -/
def State.bounceTime (s : State) (g c : Nat) : Nat := let h := s.hopsGC g c; 7 + 2 * h.1 + 2 * h.2

/-- A hold entry matches a request (R688). -/
def HoldEnt.hits (h : HoldEnt) (r : Req) : Bool :=
  h.itag == r.itag && h.ch == r.loc.ch && h.sc == r.loc.sc && h.rk == r.loc.rk && h.bg == r.loc.bg && h.ba == r.loc.ba &&
  h.row == r.loc.row

/-- The requests held by Burl at a gateway (R689). -/
def Gw.heldCount (w : Gw) : Nat := w.holds.foldl (fun n h => n + h.held.length) 0

/-- A C request joins the gateway's queue in BCLK `t` (R178, R436). -/
def State.raiseC (s : State) (g : Nat) (r : Req) (t : Nat) : State :=
  let s := s.ev { box := boxGw g, code := 0x05, qual := .is 6 (r.loc.ch + 1), req := some r, itag := some r.itag }
  s.updGw g fun w => { w with cq := w.cq ++ [{ req := { r with g := false }, raised := t }] }

/-- A request of a gateway waits for its inlet grant (R461): in its queue, or in a train whose grant BCLK has not come. -/
def State.waitsLine (s : State) (g pa : Nat) : Bool :=
  ((s.gw g).cq.any fun q => q.req.pa / 64 == pa / 64) ||
  s.pkts.any fun p => match p.body, p.train with
    | .memReq r, some k => r.src == g && r.pa / 64 == pa / 64 && decide (s.bclk < k)
    | _, _ => false

/-- Class choice and admission of a line that Burl lets pass (R177, R178, R461): to G it is injected, to C it joins the
queue, in the BCLK after `t`. -/
def State.classLine (s : State) (g : Nat) (r : Req) (t : Nat) : State :=
  let share := Tbl.get (fun _ => 0) (s.chan r.loc.ch).share r.itag
  let wait := s.waitsLine g r.pa
  if share > 0 ∧ !flag (s.reg (.gwAdm g) 0x040) 0 ∧ !wait then
    let r := { r with g := true }
    let s := s.ev { box := boxGw g, code := 0x04, req := some r, itag := some r.itag }
    let keep := (s.gw g).recent.filter fun x => decide (t < x.inj + s.bounceTime g x.req.loc.ch)
    let s := s.inject (.memReq r) (nodeGw g) (nodeCh r.loc.ch) (t + 1)
    let inj := (s.pkts.getLast?.map Pkt.inj).getD (t + 1)
    s.updGw g fun w => { w with gOut := w.gOut + 1, recent := keep ++ [{ req := r, inj := inj + b2n r.write }] }
  else s.raiseC g r (t + 1)

/-- The set-aside rule (R462): a line with earlier G requests still within their bounce times waits for the last of these; none where all
16 places are taken. -/
def State.asideOrClass (s : State) (g : Nat) (r : Req) (t : Nat) : Option State :=
  let w := s.gw g
  let end_ := fun (x : GInj) => x.inj + s.bounceTime g x.req.loc.ch
  match (s.gw g).recent.filter fun x => x.req.pa / 64 == r.pa / 64 && decide (t < end_ x) with
  | x :: xs =>
    if 16 ≤ w.aside.length then none
    else
      let s := s.ev { box := boxGw g, code := 0x0A, req := some r, itag := some r.itag }
      some (s.updGw g fun w => { w with aside := w.aside ++
        [{ req := r, until_ := xs.foldl (fun n y => max n (end_ y)) (end_ x), bounced := x.bounced || xs.any (·.bounced) }] })
  | [] => some (s.classLine g r t)

/-- A line is held by a hold entry (R688, R689); none where 64 are held. -/
def State.holdLine (s : State) (g : Nat) (h : HoldEnt) (r : Req) : Option State :=
  if 64 ≤ (s.gw g).heldCount then none
  else
    let s := s.ev { box := boxGw g, code := 0x09, req := some r, itag := some r.itag }
    let s := s.updGw g fun w =>
      { w with holds := replaceFirst (fun x => x == h) (fun x => { x with held := x.held ++ [{ r with thr := true }] }) w.holds }
    some (s.raiseIf (decide ((s.gw g).heldCount = 64)) (.gwAdm g) 4)

/-- A line at G4 in BCLK `t` (R175, R177, R180, R688): held by Burl, set aside or classed; none where it waits at G4. -/
def State.g4 (s : State) (g : Nat) (r : Req) (t : Nat) : Option State :=
  let w := s.gw g
  match w.holds.find? fun h => h.held.any fun q => q.pa / 64 == r.pa / 64 with
  | some h => s.holdLine g h r
  | none =>
    match w.holds.find? fun h => h.hits r with
    | none => s.asideOrClass g r t
    | some h =>
      if s.esc.frame < h.next then s.holdLine g h r
      else
        let s := s.updGw g fun w =>
          { w with holds := replaceFirst (fun x => x == h) (fun x => { x with next := s.esc.frame + x.gap }) w.holds }
        s.asideOrClass g r t

/-- The lines that wait at G4 proceed, in order, as far as they can: each is created as it leaves G4 (R435). -/
def State.g4Retry (s : State) (g : Nat) : List Req → State
  | [] => s.updGw g fun w => { w with g4q := [] }
  | r :: t => match s.g4 g { r with created := s.bclk } s.bclk with
    | some s => s.g4Retry g t
    | none => s.updGw g fun w => { w with g4q := r :: t }

/-! ### G0 to G3 (R175, R176, R181, R184, R185, R216, R244) -/

/-- CT_THRESH in force. -/
def State.ctThresh (s : State) (g : Nat) : Nat := fld (s.reg (.gw g) 0x050) 0 3

/-- The flits of an item, by its LAST bit, and those that have arrived (R149, R184). -/
def Item.flits (i : Item) : Nat × Nat := if i.hdr.last then (1, 1) else (2, if i.data.isSome then 2 else 1)

/-- The OPEN hint of a request as it leaves G0 (R161, R200, R201). -/
def State.hintOpen (s : State) (g : Nat) (h : ReqHdr) : Bool :=
  h.hint == 2 || (h.hint == 0 && fld (s.reg (.gw g) 0x040) 0 2 == 2)

/-- A line at G4 in BCLK `t` keeps the pipeline waiting (R185, R462, R689): its data flit has not come, or it has found no place. -/
def Gw.stalled (w : Gw) (t : Nat) : Bool := w.g4q != [] || w.pipe.any fun l => l.wait && decide (l.g0 + 4 < t)

/-- The BCLK in which the first item of the FIFO enters G0 (R181, R184, R185). -/
def State.g0Due (s : State) (g : Nat) : Option Nat :=
  let w := s.gw g
  match w.fifo with
  | [] => none
  | i :: _ =>
    let t := max s.bclk w.g0Free
    if min i.thr i.flits.1 ≤ i.flits.2 ∧ !w.stalled t then some t else none

/-- G0 (R166, R167, R175): an item leaves the FIFO; it is discarded where its tag is in use, refused where it is malformed, or its tag is
recorded and its lines follow one another into the pipeline. -/
def State.g0 (s : State) (g : Nat) : State :=
  match (s.gw g).fifo with
  | [] => s
  | i :: rest =>
    let h := i.hdr
    let t := s.bclk
    let dup := (s.gw g).inUse h.tag
    let bad := hdrMalformed h
    let n := if bad ∨ dup then 1 else hdrAnswers h
    let s := s.updGw g fun w =>
      { w with fifo := rest, g0Free := t + n }.giveBack 1 (b2n (i.data.isSome && h.opcode == 3))
    let s := s.ev { box := boxGw g, code := 0x01, qual := .is 6 h.opcode }
    if dup then s.protoErr g
    else
      let rec_ : TagRec := { left := n, itag := h.itag % 4096, wr := h.opcode == 3, at_ := i.at_ }
      let s := if 384 ≤ h.tag then s else s.updGw g fun w => { w with tags := Tbl.set (fun _ => {}) w.tags h.tag rec_ }
      if bad then
        let s := s.updGw g fun w => { w with malfCnt := satAdd 65535 w.malfCnt 1 }
        let r := { hdrReq h g 0 (h.itag % 4096) 0 t i.at_ with use := 0 }
        s.ownResp g { req := r, status := stMalformed, bare := decide (384 ≤ h.tag) } (t + 5)
      else
        let op := s.hintOpen g h
        let line := fun (k : Nat) =>
          ({ req := { hdrReq h g k (h.itag % 4096) 0 t i.at_ with open_ := op, data := i.data.getD 0 }, hdr := h, g0 := t + k,
             wait := h.opcode == 3 && i.data.isNone } : PLine)
        s.updGw g fun w => { w with pipe := w.pipe ++ (List.range n).map line }

/-- SVC_ACCESS at G1 (R100 to R102, R175, R201): on to the service node, or answered ACCESS. -/
def State.svcG1 (s : State) (g : Nat) (h : ReqHdr) (r : Req) (t0 : Nat) : State :=
  if !flag (s.reg (.gw g) 0x040) 2 then (s.refuse g r 8 (t0 + 5)).raise (.gwAdm g) 0
  else if !s.reachesAt h.itag h.priv h.svcWr h.addr then
    ((s.badAccess (.fabric g h.itag h.priv) h.addr h.svcWr true).refuse g r 8 (t0 + 5)).raise (.gwAdm g) 0
  else s.inject (.svcReq g h) (nodeGw g) nodeSvc (t0 + 5)

/-- A line leaves the pipeline. -/
def State.pipeOut (s : State) (g i : Nat) : State := s.updGw g fun w => { w with pipe := w.pipe.eraseIdx i }

/-- A line of the pipeline changes. -/
def State.pipeSet (s : State) (g i : Nat) (l : PLine) : State := s.updGw g fun w => { w with pipe := w.pipe.set i l }

/-- G1 (R175, R176, R815, R818, R835): the instance, in its generation, and what it may reach. -/
def State.g1 (s : State) (g i : Nat) (l : PLine) : State :=
  let t0 := s.bclk - 1
  match s.itagOf g l.hdr with
  | none => ((s.pipeOut g i).refuse g l.req 8 (t0 + 5)).raise (.gwAdm g) 0
  | some k =>
    let gen := s.genOf k
    let r := { l.req with itag := k, gen := gen }
    let s := s.updGw g fun w => { w with tags := Tbl.upd (fun _ => {}) w.tags l.hdr.tag fun x => { x with itag := k, gen := gen } }
    if l.hdr.opcode = 4 then (s.pipeOut g i).svcG1 g { l.hdr with itag := k } r t0
    else if s.lineMay k r.pa then s.pipeSet g i { l with req := r, st := 1 }
    else ((s.pipeOut g i).refuse g r 8 (t0 + 5)).raise (.gwAdm g) 0

/-- G2 and G3 (R175, R176, R216, R244): the line is decoded under the map in force. A request sent before READY is refused, as while no map is
committed (R501 names no other status for it: DESIGN CHOICE, log entry 59). -/
def State.g2 (s : State) (g i : Nat) (l : PLine) : State :=
  let t0 := s.bclk - 2
  let s := s.updGw g fun w => { w with g2Free := s.bclk + 1 }
  match if s.phase < 9 then .unmapped else s.dest l.req.pa with
  | .unmapped => ((s.pipeOut g i).refuse g l.req 2 (t0 + 5)).raise (.gwAdm g) 1
  | .closed => (s.pipeOut g i).refuse g l.req 3 (t0 + 5)
  | .at_ x => s.pipeSet g i { l with req := { l.req with loc := x }, g0 := t0, st := 3 }

/-- G4: the line leaves the pipeline, or waits there for a place (R462, R689). -/
def State.g4Out (s : State) (g i : Nat) (l : PLine) : State :=
  let r := { l.req with created := s.bclk }
  let s := (s.pipeOut g i).updGw g fun w => { w with g4Free := s.bclk + 1 }
  (s.g4 g r s.bclk).getD (s.updGw g fun w => { w with g4q := w.g4q ++ [r] })

/-- The BCLK in which a line of the pipeline takes its next stage; none while it waits. `first` tells that no line before it has passed
G3. -/
def State.lineDue (s : State) (w : Gw) (first : Bool) (l : PLine) : Option Nat :=
  if l.st = 0 then some (l.g0 + 1)
  else if l.st = 1 then (if s.map.hold then none else some (max (l.g0 + 2) w.g2Free))
  else if first ∧ !l.wait ∧ w.g4q = [] then some (max (l.g0 + 4) w.g4Free)
  else none

/-- A line takes its next stage in the present BCLK. -/
def State.stageOf (s : State) (g i : Nat) (l : PLine) : State :=
  if l.st = 0 then s.g1 g i l else if l.st = 1 then s.g2 g i l else s.g4Out g i l

/-! ### Drops, flushes (R186 to R191, R194) -/

/-- Drops a response of the port (R190, R191, R194): counted, its tag listed once and released. -/
def State.dropResp (s : State) (g : Nat) (r : Resp) : State :=
  let s := s.ev { box := boxGw g, code := 0x0F, req := some r.req, itag := some r.req.itag }
  s.updGw g fun w =>
    { w.answered r with
      dropCnt := wrapAdd 32 w.dropCnt 1,
      downTags := if w.downTags.contains r.req.tag then w.downTags else w.downTags ++ [r.req.tag] }

/-- A flush (R186): the items of the FIFO are answered FLUSHED, one per BCLK, or, as the port goes away, the answers are dropped (R190).
None of them holds a tag. -/
def State.flushItems (s : State) (g : Nat) (dropped : Bool) : State :=
  let w := s.gw g
  let part := match w.fifo.getLast? with | some i => i.flits.1 == 2 && i.data.isNone | none => false
  let s := s.updGw g fun w =>
    { w with fifo := [], due := if part then 0 else w.due, tailDisc := w.tailDisc || part, flushAt := none }.giveBack w.fifo.length
      (w.fifo.filter fun (i : Item) => i.data.isSome && i.hdr.opcode == 3).length
  let one := fun (s : State) (x : Item × Nat) =>
    let h := x.1.hdr
    let r := { hdrReq h g 0 (h.itag % 4096) 0 s.bclk x.1.at_ with use := 0 }
    let a : Resp := { req := r, status := 9, bare := true }
    let s := s.ev { box := boxGw g, code := 0x16, req := some r, itag := some r.itag }
    if dropped then s.dropResp g a else s.ownResp g a (s.bclk + 1 + x.2)
  (w.fifo.zipIdx.foldl one s).raise (.gw g) 2

/-- The flush takes effect at the end of its BCLK (R186, R188). -/
def State.flushNow (s : State) (g : Nat) : State :=
  (s.flushItems g false).updGw g fun w => { w with discAt := some s.bclk }

/-! ### The link and interrupt messages (R115, R196, R197, R844, R961) -/

/-- EN of both pages of a gateway (R93). -/
def State.gwEn (s : State) (g : Nat) : Bool := (s.page (.gw g)).en && (s.page (.gwAdm g)).en

/-- The gateway's port takes and sends flits: ALIVE high, the link up, EN set (R93, R190, R193, R961). -/
def State.linkUp (s : State) (g : Nat) : Bool := (s.gw g).link == .up && s.gwEn g

/-- Interrupt messages whose E2 has passed are delivered, or wait to be sent again where the port's link is not up (R961). -/
def State.msgsDue (s : State) : State :=
  let due := s.blk.msgs.filter fun m => !m.held && decide (m.at_ ≤ s.bclk)
  let rest := s.blk.msgs.filter fun m => m.held || !decide (m.at_ ≤ s.bclk)
  let ok := due.filter fun m => s.linkUp m.port
  let back := (due.filter fun m => !s.linkUp m.port).map fun m => { m with held := true }
  { s with blk := { s.blk with msgs := rest ++ back, delivered := ok.reverse ++ s.blk.delivered } }

/-- The BCLK of E2 of a message formed at the service node in BCLK `f` (R478, R482). -/
def State.msgAt (s : State) (port f : Nat) : Nat := f + 5 + 2 * s.hops nodeSvc (nodeGw port)

/-- A message formed in BCLK `f` leaves the service node, or is held there while the link of its port is not up (R115, R961) or a
route-epoch hold stops every injection (R486). -/
def State.sendMsg (s : State) (m : IntMsg) (f : Nat) : State :=
  if !s.linkUp m.port ∨ s.trt.hold then { s with blk := { s.blk with msgs := s.blk.msgs ++ [{ m with held := true }] } }
  else
  let path := pathVc (s.path (nodeGw m.port) 13 (s.attach nodeSvc)) none false
  (({ s with blk := { s.blk with msgs := s.blk.msgs ++ [{ m with at_ := s.msgAt m.port f, held := false }] } }).ev
    { box := boxBlk, code := 0x06 }).routeEvents (.hold 0 {} 0 0) path

/-- Messages that met a link that was not up leave once it is (R961), and those that a route-epoch hold kept at the switch (R486). -/
def State.resendMsgs (s : State) : State :=
  let may := fun (m : IntMsg) => m.held && s.linkUp m.port && !s.trt.hold
  let go := s.blk.msgs.filter may
  let s := { s with blk := { s.blk with msgs := s.blk.msgs.filter fun m => !may m } }
  go.foldl (fun s m => s.sendMsg m s.bclk) s

/-- Sets a gateway's link state. -/
def State.setLink (s : State) (g : Nat) (l : GwLink) : State := s.msgsDue.updGw g fun w => { w with link := l }

/-- The gateway sends its INIT, the first flit of the session (R157, R196, R197). -/
def State.sendInit (s : State) (g : Nat) : State :=
  s.updGw g fun w => { w with initSent := some s.bclk }.sendNew { fkind := 3 } s.bclk

/-- The link is up (R196); messages that waited for it leave (R961). -/
def State.linkGoesUp (s : State) (g : Nat) : State := ((s.setLink g .up).raise (.gw g) 4).resendMsgs

/-- The moments of BCLK `t`: its beginning, before the commands that arrive in it, and its end, after them. -/
def atStart (t : Nat) : Nat := 2 * t
/-- The end of BCLK `t`. -/
def atEnd (t : Nat) : Nat := 2 * t + 1

/-- In link init: the moment of the gateway's INIT, with no tag in use, or that from which the link is up. -/
def State.linkDue (s : State) (g : Nat) : Option Nat :=
  let w := s.gw g
  if w.link ≠ .init ∨ !s.gwEn g then none
  else match w.initSent, w.initRecv with
    | none, _ => if w.tags = [] then some (atEnd s.bclk) else none
    | some a, some b => some (atStart (max a b + 1))
    | some _, none => none

/-- What falls due in link init is done. -/
def State.linkStep (s : State) (g : Nat) : State := if (s.gw g).initSent.isNone then s.sendInit g else s.linkGoesUp g

/-! ### Time passes -/

/-- What a gateway does next by itself. -/
inductive GwWork where
  | link
  | line (i : Nat)
  | g0
  | flush
  | again
  | nak
  deriving DecidableEq, Repr

/-- Of two things that fall due, the earlier; the first where both fall due at one moment. -/
def sooner (a b : Option (Nat × GwWork)) : Option (Nat × GwWork) :=
  match a, b with
  | some x, some y => if y.1 < x.1 then b else a
  | none, _ => b
  | _, none => a

/-- What a gateway does next by itself, and the moment of it: in one BCLK the older lines come first, then G0, then a flush. -/
def State.gwDue (s : State) (g : Nat) : Option (Nat × GwWork) :=
  let w := s.gw g
  let line := fun (a : Option (Nat × GwWork) × Bool) (x : PLine × Nat) =>
    (sooner a.1 ((s.lineDue w a.2 x.1).map fun t => (atEnd t, .line x.2)), a.2 && decide (x.1.st ≠ 3))
  let a := ((s.linkDue g).map fun t => (t, GwWork.link))
  let a := (w.pipe.zipIdx.foldl line (a, true)).1
  let a := sooner a ((s.g0Due g).map fun t => (atEnd t, .g0))
  let a := sooner a (w.flushAt.map fun t => (atEnd t, .flush))
  let a := sooner a (if w.resend = 0 then none else some (atEnd (w.linkFree s.bclk), .again))
  sooner a (w.nakAt.map fun t => (atEnd (w.linkFree t), .nak))

/-- It is done in the present BCLK. -/
def State.gwDo (s : State) (g : Nat) : GwWork → State
  | .link => s.linkStep g
  | .line i => match (s.gw g).pipe[i]? with | some l => s.stageOf g i l | none => s
  | .g0 => s.g0 g
  | .flush => s.flushNow g
  | .again => s.updGw g fun w => w.sendAgain s.bclk
  | .nak => s.updGw g fun w => w.sendIdle s.bclk

/-- What falls due first at any gateway, with its moment and the gateway. -/
def State.gwFirst (s : State) : Option (Nat × Nat × GwWork) :=
  s.gws.foldl (fun a e => match s.gwDue e.1, a with
    | some x, some y => if x.1 < y.1 then some (x.1, e.1, x.2) else a
    | some x, none => some (x.1, e.1, x.2)
    | none, _ => a) none

/-- A bound on what the gateways can do by themselves: four stages for each line of each item, and the flits to send again. -/
def State.gwWork (s : State) : Nat :=
  s.gws.foldl (fun n e => n + 20 * e.2.fifo.length + 4 * e.2.pipe.length + e.2.resend + 5) 1

end Sys2Proof.Machine
end

