-- ==== Sys2Proof/Machine/Clock.lean ====
section
/-! DEFINITION. The block's count moves on: what adds in every BCLK (R908, R922 to R926), the staging queues of the error
logs (R657), and what the gateways do by themselves (R175, R186, R196). -/
namespace Sys2Proof.Machine

/-- A subchannel's share of an occupancy. -/
def scPart (qual sc n : Nat) : Nat := if (Qual.sc sc).hits qual then n else 0

/-- The quantity an occupancy event of a box adds in each BCLK (R922 to R926), by code and qualifier. -/
def State.perBclk (s : State) (b code qual : Nat) : Nat :=
  if b < 17 then
    let u := fun sc => s.sub b sc
    if code = 0x26 then scPart qual 0 (u 0).ram.length + scPart qual 1 (u 1).ram.length
    else if code = 0x27 then scPart qual 0 (u 0).wb.length + scPart qual 1 (u 1).wb.length
    else if code = 0x2B then b2n ((s.chan b).sr != .awake)
    else if code = 0x25 then b2n (s.room b == 0)
    else 0
  else if b < 33 then
    let g := s.gw (b - 17)
    if code = 0x07 then g.cq.length else if code = 0x10 then b2n g.crStall
    else if code = 0x11 then b2n (decide (256 ≤ g.replay.length))
    else if code = 0x14 then g.tags.length else 0
  else if b < 35 then
    let ops := (Tbl.get (fun _ => ({} : Le)) s.les (b - 33)).ops
    if code = 0x06 then ops.length
    else if code = 0x07 then (ops.filter fun o => o.buf && !(o.kind == .write && o.st == .sent)).length else 0
  else if b = boxBlk then
    if code = 0x08 then
      (if (Qual.is 6 1).hits qual then b2n s.map.hold else 0) + (if (Qual.is 6 2).hits qual then b2n s.trt.hold else 0)
    else 0
  else 0

/-- `n` BCLK pass: every running counter that selects an occupancy adds it (R908, "per BCLK" events). -/
def State.accrue (s : State) (n : Nat) : State :=
  s.pages.foldl (fun s e =>
    match pageOf e.1 with
    | some (.cnt b) =>
      if s.cntRuns b then
        (List.range 8).foldl (fun s i =>
          let w := s.evsel b i
          let q := s.perBclk b (fld w 0 8) (fld w 8 6)
          if q ≠ 0 ∧ !s.chained b i ∧ !flag w 18 then s.bump b 8 i (q * n) else s) s
      else s
    | _ => s) s

/-- The block's count moves on to BCLK `t`, the occupancies add for every BCLK passed, and the logs write what they have staged. -/
def State.advance (s : State) (t : Nat) : State :=
  if t ≤ s.bclk then s else { (s.accrue (t - s.bclk)).logsDrain (t - s.bclk) with bclk := t }

/-- The gateways do what falls due up to the beginning of BCLK `t`, each thing in its BCLK. -/
def State.gwRun (t : Nat) : Nat → State → State
  | 0, s => s
  | n + 1, s => match s.gwFirst with
    | some (m, g, e) => if atStart t < m then s else State.gwRun t n ((s.advance (m / 2)).gwDo g e)
    | none => s

/-- Time passes up to the beginning of BCLK `t`. -/
def State.goto (s : State) (t : Nat) : State := if t ≤ s.bclk then s else (State.gwRun t s.gwWork s).advance t

/-- Time passes while something falls due at a gateway before the BCLK that a test gives, or while it gives none. -/
def State.gwAheadOf (cand : State → Option Nat) : Nat → State → State
  | 0, s => s
  | n + 1, s => match s.gwFirst with
    | none => s
    | some (m, _, _) =>
      let t := max ((m + 1) / 2) (s.bclk + 1)
      let stop : Bool := match cand s with | some b => decide (b ≤ m / 2) | none => false
      if stop ∨ !s.canReach t then s else State.gwAheadOf cand n (s.goto t)

/-- What the gateways have yet to send comes before what a command looks for: the pipelines go on until they hold nothing that could. -/
def State.gwAhead (s : State) (cand : State → Option Nat) : State := State.gwAheadOf cand s.gwWork s

end Sys2Proof.Machine
end

