-- ==== Sys2Proof/Machine/Refresh.lean ====
section
/-! DEFINITION. Refresh (chapter 08): targets and due phases, debt, window decisions, where an RFM or DRFM goes, and
emergencies. -/
namespace Sys2Proof.Machine

/-- A refresh target: a rank, or a bank set of a rank. -/
abbrev Target := Nat × Option Nat

/-- The key of a target's debt. -/
def tgtKey (t : Target) : Nat := 4 * t.1 + t.2.getD 0

/-- The windows of a table as they name their ranks: with RK_ALT those of even frames and those of odd ones (R305), a window standing
only among the frames in which its phase is ever live (R306). -/
def Table.windowsLive (t : Table) : List (Nat × Entry) :=
  if t.rkAlt then [0, 1].flatMap fun f => (t.windows f).filter fun w => t.cyc ≤ 1 || w.2.sel % 2 == f else t.windows 0

/-- The targets of a table, with the inverted ranks of RK_ALT. -/
def Table.targets (t : Table) : List Target :=
  (t.windowsLive.map fun w => t.target w.2).foldl (fun l x => if l.contains x then l else l ++ [x]) []

/-- The due phase of a target: its lowest phase (R397). -/
def Table.duePhase (t : Table) (g : Target) : Nat :=
  (t.windowsLive.filter fun w => t.target w.2 == g).foldl (fun m w => min m w.2.sel) 8

/-- A frame is a due frame of a target under a rate (R397, R402). -/
def Table.dueIn (t : Table) (g : Target) (twice : Bool) (f : Nat) : Bool :=
  (t.windows f).any fun w => t.target w.2 == g && w.2.sel == t.duePhase g &&
    (if twice then live2x t.cyc w.2.sel f else live1x t.cyc w.2.sel f)

/-- D of a target (R402): below 0 while a REF decided early is not due yet. -/
def Sub.debtAt (b : Sub) (g : Target) : Int := Tbl.get (fun _ => 0) b.debt (tgtKey g)

/-- The REFs that a target owes (R402). -/
def Sub.debtOf (b : Sub) (g : Target) : Nat := (b.debtAt g).toNat

/-- Changes a target's debt. -/
def Sub.setDebt (b : Sub) (g : Target) (n : Int) : Sub := { b with debt := Tbl.set (fun _ => 0) b.debt (tgtKey g) n }

/-- The debts as a table of other targets finds them: a target that its own table had keeps its D, any other takes the highest D of
the old targets that share banks with it (DESIGN CHOICE: R402 speaks of no such change; log entry 60). -/
def Sub.rekeyDebt (b : Sub) (was new : List Target) : Sub :=
  new.foldl (fun (u : Sub) g =>
    if was.contains g then u.setDebt g (b.debtAt g)
    else u.setDebt g ((was.filter fun h => h.1 == g.1 && (h.2.isNone || g.2.isNone)).foldl (fun m h => max m (b.debtAt h)) 0))
    { b with debt := [] }

/-- The rate that will be in force after the coming tick. -/
def Chan.rateSoon (ch : Chan) : Bool := ch.rateNext.getD ch.rate2x

/-- The ceiling of R405 for a rate. -/
def debtCeil (twice : Bool) : Nat := if twice then 4 else 2

/-- An absolute slot and a number of tCK before its data start, as an absolute tCK. -/
def State.tckOfSlot (s : State) (p : Pos) : Nat := s.absSlot p * s.bin.slotTck

/-- The BCLK in which an absolute tCK falls: slots last k BCLK. -/
def State.bclkOfTck (s : State) (t : Nat) : Nat :=
  let base := s.esc.slotBase * s.bin.slotTck
  if base ≤ t then s.esc.tickBclk + (t - base) * s.k / s.bin.slotTck
  else s.esc.tickBclk - ((base - t) * s.k + s.bin.slotTck - 1) / s.bin.slotTck

/-- The first tCK of a BCLK. -/
def State.tckOfBclk (s : State) (b : Nat) : Nat :=
  s.esc.slotBase * s.bin.slotTck + ceilDiv ((b - s.esc.tickBclk) * s.bin.slotTck) s.k

/-- The refresh command time of the window at a position, absolute (R307). -/
def State.winTck (s : State) (c : Nat) (p : Pos) : Nat := s.tckOfSlot p - (s.timing c).cl - tPD s.bin

/-- A frame adds to the debt of a target (R320, R402): a due frame of the table in force, or one that a swap has put off. -/
def State.owes (s : State) (c sc : Nat) (g : Target) (twice : Bool) (f : Nat) : Bool :=
  (s.tblAt c sc f).dueIn g twice f || (s.sub c sc).owed.contains (f, g)

/-- The increments of step 10 for a target at ticks after the present one and at or before an absolute tCK (R403). -/
def State.incsUntil (s : State) (c sc : Nat) (g : Target) (t : Nat) : Nat :=
  let ch := s.chan c
  ((rangeFrom (s.esc.frame + 1) 40).filter fun f =>
    decide (s.absSlot ⟨f, 0⟩ * s.bin.slotTck ≤ t) && s.owes c sc g ch.rateSoon f).length

/-- Windows of a frame that may issue a REF: those live under the doubled-rate schedule, in slot order, with whether the
window is its target's due window in that frame under the rate that will be in force (R397). -/
def State.liveWins (s : State) (c sc f : Nat) : List (Pos × Target × Bool) :=
  let t := s.tblAt c sc f
  let twice := if f = s.esc.frame then (s.chan c).rate2x else (s.chan c).rateSoon
  (t.windows f).filterMap fun w =>
    if live2x t.cyc w.2.sel f then
      some (⟨f, w.1⟩, t.target w.2,
        w.2.sel == t.duePhase (t.target w.2) && (if twice then true else live1x t.cyc w.2.sel f))
    else none

/-- The refresh command of a target of the table in force in frame `f` lasts so long (R308). -/
def State.rfcAt (s : State) (c sc f : Nat) : Nat := (s.tblAt c sc f).rfc (s.timing c)

/-- The length of a mitigation command (R407). -/
def State.mitLen (s : State) (c : Nat) (m : Mitig) : Nat := if m.drfm then (s.timing c).drfm else (s.timing c).rfm

/-- A mitigation command may be placed in windows: it is not longer than tRFCsb in its same-bank form, or tRFC1 (R407). -/
def State.mitFits (s : State) (c : Nat) (m : Mitig) : Bool :=
  decide (s.mitLen c m ≤ if m.ba.isSome then (s.timing c).rfcsb else (s.timing c).rfc1)

/-- A window of a target can carry a mitigation for a target: the window's banks are those the command names, or all of
the rank. -/
def mitOn (m : Mitig) (g : Target) : Bool := m.rk == g.1 && (g.2.isNone || m.ba == g.2 || m.ba.isNone)

/-- The windows that could still carry a mitigation before its deadline, with the projected debt of each one's target there (R403,
R406): `d` gives the debts on the way, `f` the frames that remain; the windows `taken` carry other mitigations. -/
def State.mitWalk (s : State) (c sc : Nat) (m : Mitig) (from_ : Pos) (taken : List Pos) :
    Nat → Nat → (Target → Int) → List (Pos × Target × Bool × Int)
  | 0, _, _ => []
  | n + 1, f, d =>
    let ws := (s.liveWins c sc f).filter fun w => mitOn m w.2.1
    let d := fun (g : Target) => d g + b2n (decide (s.esc.frame < f) && s.owes c sc g (s.chan c).rateSoon f)
    let here := ws.filter fun w => Pos.le from_ w.1 && !((s.sub c sc).winDec.any fun q => q.1 == w.1) && !taken.contains w.1
    let step := here.foldl (fun (a : List (Pos × Target × Bool × Int) × (Target → Int)) w =>
      (a.1 ++ [(w.1, w.2.1, w.2.2, a.2 w.2.1)],
        fun g => if g = w.2.1 ∧ 1 ≤ a.2 g then a.2 g - 1 else a.2 g)) ([], d)
    step.1 ++ s.mitWalk c sc m from_ taken n (f + 1) step.2

/-- The window that carries a mitigation, in the order of R406; none where no allowed window does before the deadline. -/
def State.mitPlace (s : State) (c sc : Nat) (m : Mitig) (from_ : Pos) (taken : List Pos) : Option Pos :=
  if m.waits.isSome ∨ !s.mitFits c m then none
  else
    let ws := s.mitWalk c sc m from_ taken (m.deadline + 1 - from_.frame) from_.frame (s.sub c sc).debtAt
    let top : Int := debtCeil (s.chan c).rateSoon
    match ws.find? fun w => !w.2.2.1 && decide (w.2.2.2 ≤ 0) with
    | some w => some w.1
    | none =>
      match ws.find? fun w => !w.2.2.1 && decide (w.2.2.2 ≤ top) with
      | some w => some w.1
      | none => (ws.find? fun w => w.2.2.1 && decide (w.2.2.2 ≤ top)).map (·.1)

/-- The places of a subchannel's mitigations, oldest first: no two in one window. -/
def State.mitPlaces (s : State) (c sc : Nat) (from_ : Pos) : List (Mitig × Option Pos) :=
  ((s.sub c sc).mits.foldl (fun (a : List (Mitig × Option Pos) × List Pos) m =>
    let w := s.mitPlace c sc m from_ a.2
    (a.1 ++ [(m, w)], a.2 ++ w.toList)) ([], [])).1

/-- A REF is issued to a target at an absolute tCK (R402). -/
def State.issueRef (s : State) (c sc : Nat) (g : Target) (t len : Nat) (emerg : Bool) : State :=
  let s := s.updSub c sc fun b =>
    { b.setDebt g (b.debtAt g - 1) with
      refs := b.refs ++ [{ rk := g.1, ba := g.2, tck := t, len := len, emerg := emerg }], ca := b.ca ++ [(t, 1)] }
  (s.raaRefresh c sc g.1 g.2).ev { box := c, code := 0x14, qual := .sc sc }

/-- An RFM or DRFM is issued to its target at an absolute tCK (R407); fallback's are counted (R693, R706). -/
def State.issueMit (s : State) (c sc : Nat) (m : Mitig) (t : Nat) (emerg : Bool) : State :=
  let len := s.mitLen c m
  let s := s.updSub c sc fun b =>
    { b with mits := eraseFirst (fun x => x == m) b.mits,
             refs := b.refs ++ [{ rk := m.rk, ba := m.ba, tck := t, len := len, emerg := emerg }], ca := b.ca ++ [(t, 1)] }
  let s := if m.src = 2 then s.updChan c fun ch => { ch with brl := { ch.brl with fbRfm := wrapAdd 8 ch.brl.fbRfm 1 } } else s
  let s := if emerg ∧ m.src ≠ 0 then
      (s.updChan c fun ch => { ch with brl := { ch.brl with emerg := satAdd 255 ch.brl.emerg 1 } }).raise (.brl c) 2
    else s
  (s.raaRefresh c sc m.rk m.ba).ev { box := c, code := 0x15, qual := .sc sc }

/-- A refresh of the list covers the banks of a target. -/
def RefCmd.onTgt (r : RefCmd) (g : Target) : Bool :=
  r.rk == g.1 && (r.ba.isNone || g.2.isNone || r.ba == g.2)

/-- The position of a live window lies in the shadow of an emergency command of its target, or its CA cycle in a stop: it
issues nothing and its REF stays owed (R404, R411). -/
def State.winBlocked (s : State) (c sc : Nat) (p : Pos) (g : Target) : Bool :=
  let b := s.sub c sc
  let t := s.winTck c p
  (b.refs.any fun r => r.onTgt g && decide (t < r.tck + r.len)) ||
  (match b.stop with
   | some st => st.rk == g.1 && decide (s.tckOfSlot st.from_ ≤ t) && decide (t < s.tckOfSlot st.from_ + ceilDiv (1400 * s.bin.dramMts) 2000)
   | none => false) ||
  (b.emergs.any fun e => e.inForce && e.rk == g.1 && (e.ba.isNone || g.2.isNone || e.ba == g.2))

/-- The REF decision of a window (R403, R404, R406): an RFM or DRFM whose place it is, else a REF where the projected debt
is 1 or more, else nothing. -/
def State.decideWin (s : State) (c sc : Nat) (w : Pos × Target × Bool) : State :=
  let g := w.2.1
  let t := s.winTck c w.1
  let put := fun (s : State) (b : Bool) => s.updSub c sc fun u => { u with winDec := u.winDec ++ [(w.1, b)] }
  if s.winBlocked c sc w.1 g then put s false
  else
    match (s.mitPlaces c sc w.1).find? fun x => mitOn x.1 g && x.2 == some w.1 with
    | some x => put (s.issueMit c sc x.1 t false) true
    | none =>
      if 1 ≤ (s.sub c sc).debtAt g + s.incsUntil c sc g t then put (s.issueRef c sc g t (s.rfcAt c sc w.1.frame) false) true
      else put s false

/-- A refresh of a target from an absolute tCK on, for so long, shadows the entry of a position (R308). -/
def State.refCovers (s : State) (c sc : Nat) (g : Target) (t len : Nat) (p : Pos) (e : Entry) : Bool :=
  if e.isMrs || e.isCal then
    e.rk == g.1 && decide (s.tckOfSlot p < t + len + (s.timing c).cl + tPD s.bin) && decide (t < s.tckOfSlot p + s.bin.slotTck)
  else bankUnder g.1 g.2 e && inShadow (s.timing c) e (s.posOf c sc p e) t len

/-- A window's shadow can reach the entry of a position (R403). -/
def State.winReaches (s : State) (c sc : Nat) (w : Pos × Target × Bool) (p : Pos) : Bool :=
  let e := (s.tblAt c sc p.frame).entry p.frame p.slot
  w.1 == p || ((e.isData || e.isMrs || e.isCal) && s.refCovers c sc w.2.1 (s.winTck c w.1) (s.rfcAt c sc w.1.frame) p e)

/-- The REF decisions that fall at the decision point of a position (R403): those of every undecided live window there or
later whose shadow reaches it. -/
def State.decideWins (s : State) (c sc : Nat) (p : Pos) : State :=
  let ws := (s.liveWins c sc p.frame ++ s.liveWins c sc (p.frame + 1)).filter fun w => Pos.le p w.1
  ws.foldl (fun s w =>
    if (s.sub c sc).winDec.any (fun q => q.1 == w.1) then s
    else if s.winReaches c sc w p then s.decideWin c sc w else s) s

/-- The refresh that shadows the entry of a position, if one does (R308, R411): a window's or an emergency's. -/
def State.shadowRef (s : State) (c sc : Nat) (p : Pos) (e : Entry) : Option RefCmd :=
  (s.sub c sc).refs.find? fun r => s.refCovers c sc (r.rk, r.ba) r.tck r.len p e

/-- The emergency in force that names the entry's target (R409). -/
def State.emergOn (s : State) (c sc : Nat) (e : Entry) : Bool :=
  (s.sub c sc).emergs.any fun m => m.inForce && m.rk == e.rk && (m.ba.isNone || e.isMrs || e.isCal || m.ba == some e.ba)

/-! ### Arming and issuing emergencies (R408 to R411) -/

/-- An emergency is armed (R409, R430, R432). -/
def State.armEmerg (s : State) (c sc : Nat) (e : Emerg) : State :=
  let s := s.updSub c sc fun b => { b with emergs := b.emergs ++ [e] }
  let s := s.updChan c fun ch => { ch with emergCnt := satAdd 255 ch.emergCnt 1 }
  s.raise (.cc c) 1

/-- The emergencies that a latch point arms on a subchannel: debt beyond the limit, and commands no window can carry
(R405, R409). -/
def State.emergLatch (s : State) (c sc : Nat) : State :=
  let from_ : Pos := match (s.sub c sc).lastDec with | some p => s.posNext p | none => ⟨s.esc.frame, s.slotNow⟩
  let s := (s.tblAct c sc).targets.foldl (fun s g =>
    if debtCeil (s.chan c).rate2x < (s.sub c sc).debtOf g ∧
        !((s.sub c sc).emergs.any fun e => e.rk == g.1 && e.ba == g.2 && e.mit.isNone) then
      s.armEmerg c sc { rk := g.1, ba := g.2 }
    else s) s
  let left := (s.mitPlaces c sc from_).filter fun x => x.1.waits.isNone && x.2.isNone
  (left.map (·.1)).foldl (fun s m =>
    let n := (left.filter fun x => x.1 == m).length
    if ((s.sub c sc).emergs.filter fun e => e.mit == some m).length < n then s.armEmerg c sc { rk := m.rk, ba := m.ba, mit := some m }
    else s) s

/-- An emergency for debt ends at a latch point that finds D within the limit (R410). -/
def State.emergEnd (s : State) (c sc : Nat) : State :=
  s.updSub c sc fun b =>
    { b with emergs := b.emergs.filter fun e =>
        !(e.inForce && e.mit.isNone && decide (b.debtOf (e.rk, e.ba) ≤ debtCeil (s.chan c).rate2x)) }

/-- The banks of a target, as bank numbers of a subchannel. -/
def tgtBanks (g : Target) : List Nat :=
  (List.range 32).filterMap fun i => match g.2 with
    | none => some (32 * g.1 + i)
    | some ba => if i % 4 = ba then some (32 * g.1 + i) else none

/-- A CA cycle is free of every command decided. -/
def Sub.caFree (b : Sub) (t : Nat) : Bool := !(b.ca.any fun x => decide (x.1 ≤ t) && decide (t < x.1 + x.2))

/-- The first free CA cycle at or after a tCK. -/
def Sub.firstFree (b : Sub) : Nat → Nat → Nat
  | 0, t => t
  | n + 1, t => if b.caFree t then t else b.firstFree n (t + 1)

/-- The CA cycle in which an emergency's owed command is issued (R409). -/
def State.emergTck (s : State) (c sc : Nat) (e : Emerg) : Nat :=
  let b := s.sub c sc
  let g : Target := (e.rk, e.ba)
  let t := s.tckOfBclk s.bclk
  let t := (tgtBanks g).foldl (fun t k => max t (Tbl.get (fun _ => 0) b.preDone k)) t
  let t := b.refs.foldl (fun t r => if r.onTgt g then max t (r.tck + r.len) else t) t
  b.firstFree 256 t

/-- What an emergency in force still owes: its RFM or DRFM, or a REF (R410). -/
def Sub.emergOwes (b : Sub) (e : Emerg) : Bool := e.inForce && (e.mit.isSome || b.debtOf (e.rk, e.ba) != 0)

/-- The emergency that issues its command first (R409). -/
def State.emergNext (s : State) (c sc : Nat) : Option Emerg :=
  ((s.sub c sc).emergs.filter (s.sub c sc).emergOwes).foldl (fun a e => match a with
    | some x => if s.emergTck c sc e < s.emergTck c sc x then some e else a
    | none => some e) none

/-- The rows of a target that are open when an emergency comes into force are precharged in the first free CA cycles
(R367). -/
def State.emergPre (s : State) (c sc : Nat) (g : Target) : State :=
  (tgtBanks g).foldl (fun s k =>
    let b := s.sub c sc
    if Tbl.get (fun _ => 0) b.openRows k = 0 then s
    else
      let t := b.firstFree 256 (s.tckOfBclk s.bclk)
      let s := s.updSub c sc fun b =>
        { b with openRows := Tbl.set (fun _ => 0) b.openRows k 0, ca := b.ca ++ [(t, 1)],
                 preDone := Tbl.set (fun _ => 0) b.preDone k (max (Tbl.get (fun _ => 0) b.preDone k) (t + (s.timing c).rp)) }
      s.ev { box := c, code := 0x13, qual := .sc sc }) s

/-- Emergencies armed come into force at a tick (R409). -/
def State.emergTick (s : State) (c sc : Nat) : State :=
  let new := (s.sub c sc).emergs.filter fun e => !e.inForce
  let s := s.updSub c sc fun b => { b with emergs := b.emergs.map fun e => { e with inForce := true } }
  new.foldl (fun s e => s.emergPre c sc (e.rk, e.ba)) s

/-! ### The rate and the debt at a tick (R399 to R402) -/

/-- Step 5: the rate latched takes effect, doubling or halving every debt (R400, R402, R432). -/
def State.rateTick (s : State) (c : Nat) : State :=
  let ch := s.chan c
  match ch.rateNext with
  | none => s
  | some r =>
    let s := s.updChan c fun ch => { ch with rate2x := r, rateNext := none }
    if r = ch.rate2x then s
    else
      let s := (List.range 2).foldl (fun s sc => s.updSub c sc fun b =>
        { b with debt := b.debt.filterMap fun e =>
                   let d := if r then 2 * e.2 else (e.2 + 1) / 2
                   if d = 0 then none else some (e.1, d),
                 win2x := b.win2x && r }) s
      let full := (List.range 2).any fun sc => (s.sub c sc).debt.any fun e => decide ((debtCeil r : Int) ≤ e.2)
      (s.raise (.cc c) 0).raiseIf full (.cc c) 3

/-- Step 10: the debts of the targets whose due frame the new frame is (R402); DEBT_CEIL (R432). -/
def State.debtTick (s : State) (c sc : Nat) : State :=
  let t := s.tblAct c sc
  let ch := s.chan c
  let s := t.targets.foldl (fun s g =>
    if s.owes c sc g ch.rate2x s.esc.frame then
      let d := (s.sub c sc).debtAt g + 1
      (s.updSub c sc fun b => b.setDebt g d).raiseIf (decide ((debtCeil ch.rate2x : Int) ≤ d)) (.cc c) 3
    else s) s
  s.updSub c sc fun b => { b with owed := b.owed.filter fun x => decide (s.esc.frame < x.1) }

/-- The channel asks for the doubled rate (R399): an MR4 read, a DIMM temperature, or FORCE_2X. -/
def Chan.wants2x (ch : Chan) (cfg : Word) : Bool :=
  let ref := fld cfg 8 7
  flag cfg 0 || (ch.mr4.any fun e => decide (2 ≤ e.2)) ||
  (ref != 0 && ((decide (ch.ts0 < 128) && decide (ref ≤ ch.ts0)) || (decide (ch.ts1 < 128) && decide (ref ≤ ch.ts1))))

/-- The rank positions of a channel, by subchannel: those of its population. -/
def State.rankPositions (s : State) (c : Nat) : List Nat :=
  let per := match (s.chan c).spd with | some d => (ranksOf d).map (posOfRk s.bin.mrd) | none => []
  per ++ per.map (· + 4)

/-- The rate demand latched at a latch point (R399, R400). -/
def State.rateDemand (s : State) (c : Nat) (cfg : Word) : Option Bool :=
  let ch := s.chan c
  if ch.wants2x cfg then (if ch.rate2x then none else some true)
  else if ch.rate2x ∧ (s.rankPositions c).all (fun p => decide (fld cfg 16 4 ≤ Tbl.get (fun _ => 0) ch.mr4Norm p)) then some false
  else none

end Sys2Proof.Machine
end

