-- ==== Sys2Proof/Machine/Balance.lean ====
section
/-! DEFINITION. Balance (chapter 13): runs, steps, measurements, rejections, the hairspring slew and the compatibility
stop. -/
namespace Sys2Proof.Machine

/-- What service work on a channel has found is staged, for the next tick whose latch point lies ahead (R40). -/
def State.stage (s : State) (c : Nat) (r : Reading) : State :=
  s.updChan c fun ch => { ch with staged := ch.staged ++ [(s.soonFrame, r)] }

/-- The mode-register reads of a channel that are made and not answered are due again. -/
def State.mrsBack (s : State) (c : Nat) : State :=
  [0, 1].foldl (fun s sc => s.updSub c sc fun b =>
    let back := fun (k : Nat) (l : List Nat) => ((b.mrsRead.filter fun x => x.1 == k && !l.contains x.2).map (·.2)) ++ l
    { b with mrsRead := [], mr4Due := back 0 b.mr4Due, ecsDue := back 1 b.ecsDue }) s

/-- Changes a channel's Balance engine. -/
def State.updBal (s : State) (c : Nat) (f : Bal → Bal) : State := s.updChan c fun ch => { ch with bal := f ch.bal }

/-! ### Values (R578): the kinds 0 RD_DQS, 1 WR_LVL, 2 RD_GATE, 3 WR_DQ, 4 CA, 5 CS, 6 host Vref, 7 DRAM Vref, 8 impedance
codes, 9 the data buffer's DRAM-side write delay; `p` a rank position, `i` a lane (for 8: 0 PU, 1 PD, 2 TERM) -/

/-- The key of a value. -/
def valKey (kind p i : Nat) : Nat := 256 * kind + 16 * p + i

/-- A value. -/
def Bal.val (b : Bal) (k : Nat) : Slew := Tbl.get (fun _ => {}) b.vals k

/-- Sets a target. -/
def Bal.setTarget (b : Bal) (k : Nat) (v : Int) : Bal := { b with vals := Tbl.upd (fun _ => {}) b.vals k fun x => { x with target := v } }

/-- A value put in force by a Caliper run or fast restore: it is its own anchor and target. -/
def Bal.anchorVal (b : Bal) (k : Nat) (v : Int) : Bal :=
  { b with vals := Tbl.upd (fun _ => {}) b.vals k fun x => { x with anchor := v, live := v, was := v, target := v } }

/-- The slew interval of a kind, in frames (R578). -/
def slewEvery (kind : Nat) : Nat := if kind = 6 then 4 else if kind = 8 then 16 else 1

/-- The drift bound of a kind (R578). -/
def driftMax (kind : Nat) : Nat := if kind = 6 ∨ kind = 8 then 8 else 32

/-- Step 8 of a tick moves each live value that differs from its target one unit, once its interval has passed (R594). -/
def Slew.step (kind frame : Nat) (v : Slew) : Slew :=
  if v.live = v.target ∨ frame < v.moved + slewEvery kind then v
  else { v with live := if v.live < v.target then v.live + 1 else v.live - 1, was := v.live, moved := frame }

/-- The hairspring slew of a channel at the tick of a frame (R594, R596): not while it sleeps. The data-buffer delays move
in MRS service instead (R579). -/
def Bal.slew (b : Bal) (frame : Nat) : Bal :=
  { b with vals := b.vals.map fun e => if e.1 / 256 = 9 then e else (e.1, e.2.step (e.1 / 256) frame) }

/-- A slot that opened at or before now in the present frame carries no burst that `p` describes (rank field, write) in a
subchannel. -/
def State.quiet (s : State) (c sc x : Nat) (p : Nat × Bool → Bool) : Bool :=
  decide (s.slotBclk ⟨s.esc.frame, x⟩ ≤ s.bclk) && (s.sub c sc).bursts.all fun b => b.1 != ⟨s.esc.frame, x⟩ || !p b.2

/-- The PHY has come, in the present frame, to the slot in which it applies a step of a value (R595): for a delay of a rank position the
first one without a burst of that rank, for an impedance code the first one in which the PHY drives no burst. The host Vref has no
rank position: its slot is the first one without any burst of its subchannel (DESIGN CHOICE, log entry 60). -/
def State.phyCame (s : State) (c key : Nat) : Bool :=
  let kind := key / 256
  let p := key / 16 % 16
  let rk := rkOfPos s.bin.mrd (p % 4)
  (List.range s.esc.fs).any fun x =>
    if kind = 8 then [0, 1].all fun sc => s.quiet c sc x (·.2)
    else if kind = 6 then s.quiet c (p / 4) x fun _ => true
    else s.quiet c (p / 4) x fun b => b.1 == rk

/-- A value as the PHY has it in use: the step of a tick waits for its slot of the new frame (R575 to R577, R595). The data buffers'
delays are written in MRS service (R579) and do not wait. -/
def State.phyVal (s : State) (c key : Nat) : Slew :=
  let v := (s.chan c).bal.val key
  if v.moved = s.esc.frame ∧ key / 256 ≠ 9 ∧ s.esc.running ∧ !s.phyCame c key then { v with live := v.was } else v

/-! ### Rejections (R598 to R600) -/

/-- A lane of a rank position. -/
def Bal.lane (b : Bal) (p i : Nat) : LaneCnt := Tbl.get (fun _ => {}) b.lanes (16 * p + i)

/-- Changes a lane. -/
def Bal.updLane (b : Bal) (p i : Nat) (f : LaneCnt → LaneCnt) : Bal :=
  { b with lanes := Tbl.upd (fun _ => {}) b.lanes (16 * p + i) f }

/-- BAL_CFG in force. -/
def State.balCfg (s : State) (c : Nat) : Word := s.reg (.bal c) 0x040

/-- MODE of BAL_CFG. -/
def State.balMode (s : State) (c : Nat) : Nat := fld (s.balCfg c) 20 2

/-- A rejection is counted (R598, R618). -/
def State.rejectCount (s : State) (c reason : Nat) : State :=
  let s := s.updBal c fun b =>
    { b with rejTotal := wrapAdd 16 b.rejTotal 1, lastReason := reason,
             rejLane := if reason = 3 ∨ reason = 4 ∨ reason = 5 ∨ reason = 7 then wrapAdd 8 b.rejLane 1 else b.rejLane,
             rejCalref := if reason = 6 then satAdd 15 b.rejCalref 1 else b.rejCalref }
  s.ev { box := c, code := 0x28, qual := .is 3 reason }

/-- A lane's result is rejected (R598); the third rejection in a row for reasons 3, 4, 5 or 7 escalates (R599). -/
def State.reject (s : State) (c p i reason : Nat) : State :=
  let s := s.rejectCount c reason
  if reason = 3 ∨ reason = 4 ∨ reason = 5 ∨ reason = 7 then
    let l := (s.chan c).bal.lane p i
    if l.rej + 1 < 3 then s.updBal c fun b => b.updLane p i fun l => { l with rej := l.rej + 1 }
    else
      let stop := s.balMode c = 1 ∧ !l.esc
      let evt := pack [(0, 1, 1), (1, 1, b2n l.esc), (2, 1, p / 4), (3, 3, rkOfPos s.bin.mrd (p % 4)), (6, 4, i), (10, 3, reason),
                       (13, 1, b2n stop), (16, 16, s.esc.frame)]
      let s := s.updBal c fun b =>
        { b.updLane p i (fun l => { l with rej := 0, esc := true }) with
          laneEvt := evt, laneWas := rcSet b.laneWas s.bclk b.laneEvt, escal := wrapAdd 8 b.escal 1, stopWant := if stop then b.stopWant ++ [p] else b.stopWant }
      let s := s.raise (.bal c) 1
      if l.esc then (s.raise (.bal c) 4).chanEvent c 3 else s
  else s

/-- A lane's result is accepted: its count of rejections clears (R599). -/
def State.acceptLane (s : State) (c p i : Nat) : State :=
  s.updBal c fun b => b.updLane p i fun l => { l with rej := 0, esc := false }

/-- A new target passes the drift check of R598 and is staged, or is rejected. -/
def State.stageTarget (s : State) (c kind p i : Nat) (v : Int) : State :=
  let a := ((s.chan c).bal.val (valKey kind p i)).anchor
  if v - a ≤ driftMax kind ∧ a - v ≤ driftMax kind then
    (s.updBal c fun b => b.setTarget (valKey kind p i) v).acceptLane c p i
  else s.reject c p i 5

/-! ### Measurements -/

/-- The lanes of a subchannel. -/
def allLanes : List Nat := List.range 10

/-- A read burst of a rank position updates the passive counters of its lanes (R585). -/
def State.track (s : State) (c p : Nat) (z : Sense) : State :=
  if z.early = [] ∧ z.late = [] ∧ z.gEarly = [] ∧ z.gLate = [] then s
  else s.updBal c fun b => allLanes.foldl (fun b i => b.updLane p i fun l =>
    { l with early := l.early + z.early.getD i 0, late := l.late + z.late.getD i 0,
             gEarly := l.gEarly + z.gEarly.getD i 0, gLate := l.gLate + z.gLate.getD i 0 }) b

/-- Rounds a quotient to the nearest integer, halves away from zero (R585). -/
def roundDiv (a : Int) (n : Nat) : Int :=
  if 0 ≤ a then ((2 * a.toNat + n) / (2 * n) : Nat) else -(((2 * (-a).toNat + n) / (2 * n) : Nat) : Int)

/-- The shift of a fold (R585). -/
def edgeShift (early late : Nat) : Int := max (-4) (min 4 (roundDiv (8 * ((late : Int) - early)) (early + late)))

/-- The correction of the write delay from oscillator counts (R589): 128 × RT × (1/c − 1/c0), rounded toward zero. -/
def oscDelta (cnt c0 : Nat) : Int := Int.tdiv (128 * 2048 * ((c0 : Int) - cnt)) ((cnt * c0 : Nat) : Int)

/-- A rank position's bus operations. -/
def Bal.rank (b : Bal) (p : Nat) : RankBal := Tbl.get (fun _ => {}) b.ranks p

/-- Changes a rank position's bus operations. -/
def Bal.updRank (b : Bal) (p : Nat) (f : RankBal → RankBal) : Bal := { b with ranks := Tbl.upd (fun _ => {}) b.ranks p f }

/-- A lane group's probe. -/
def Bal.probe (b : Bal) (p : Nat) : Probe := Tbl.get (fun _ => {}) b.probes p

/-- Changes a lane group's probe. -/
def Bal.updProbe (b : Bal) (p : Nat) (f : Probe → Probe) : Bal := { b with probes := Tbl.upd (fun _ => {}) b.probes p f }

/-- The kind of the write delay that the oscillator corrects (R578). -/
def State.wrKind (s : State) : Nat := if s.bin.mrd then 9 else 3

/-- The UPDATE step of a lane group (R585, R587, R589): edge tracking, the gate, a completed probe, the write delay. -/
def State.updateGroup (s : State) (c p : Nat) : State :=
  let minN := 2 ^ fld (s.balCfg c) 23 4
  let pr := (s.chan c).bal.probe p
  let f := fun (n i : Nat) => (pr.fails.getD n 0).testBit i
  let s := allLanes.foldl (fun s i =>
    let b := (s.chan c).bal
    let l := b.lane p i
    let rd := b.val (valKey 0 p i)
    let gt := b.val (valKey 2 p i)
    let vr := b.val (valKey 6 (p / 4 * 4) i)
    let n := l.early + l.late
    let gn := l.gEarly + l.gLate
    let s := s.updBal c fun b => b.updLane p i fun l =>
      { l with early := 0, late := 0, gEarly := 0, gLate := 0, noTrans := decide (n < minN) }
    let s := if minN ≤ n then s.stageTarget c 0 p i (rd.target + edgeShift l.early l.late)
      else s.rejectCount c 1
    let s := if 64 ≤ gn then s.stageTarget c 2 p i (gt.target + edgeShift l.gEarly l.gLate) else s
    let s := if pr.done then
        let s := if minN ≤ n then s
          else if f 0 i ∧ f 1 i then s.reject c p i 4
          else if f 0 i then s.stageTarget c 0 p i (rd.target + 1)
          else if f 1 i then s.stageTarget c 0 p i (rd.target - 1)
          else s.acceptLane c p i
        if f 2 i ∧ f 3 i then s.reject c p i 4
        else if f 2 i then s.stageTarget c 6 (p / 4 * 4) i (vr.target + 1)
        else if f 3 i then s.stageTarget c 6 (p / 4 * 4) i (vr.target - 1)
        else s
      else s
    let rk := (s.chan c).bal.rank p
    let cnt : Nat := rk.count.getD i 0
    let c0 : Nat := rk.base.getD i 0
    let w := (s.chan c).bal.val (valKey s.wrKind p i)
    if cnt = 0 ∨ cnt = 2 ^ 16 - 1 then s.reject c p i 7
    else s.stageTarget c s.wrKind p i (w.anchor + oscDelta cnt c0)) s
  s.updBal c fun b => b.updProbe p fun x => if x.done then {} else x

/-- STATE of a CALREF measurement in units of 0.125 Ω (R948, R949): 1 usable, 2 OPEN, 3 SHORT. -/
def calrefState (meas : Nat) : Nat := if meas ≤ 192 then 3 else if 3840 ≤ meas then 2 else 1

/-- WARN of a usable measurement: outside 235.2 Ω to 244.8 Ω (R948). -/
def calrefWarn (meas : Nat) : Bool := calrefState meas == 1 && (decide (5 * meas < 9408) || decide (9792 < 5 * meas))

/-- The calibration reference of a PHY pair. -/
def State.calref (s : State) (n : Nat) : Calref := Tbl.get (fun _ => {}) s.calrefs n

/-- A CALREF is measured (R948, R949): in phase 2, or in service. -/
def State.measureCalref (s : State) (n meas : Nat) (start : Bool) : State :=
  let bad := calrefState meas != 1
  { s with calrefs := Tbl.upd (fun _ => {}) s.calrefs n fun r =>
      { r with meas := min 4095 meas, st := calrefState meas, warn := calrefWarn meas,
               startFault := if start then bad else r.startFault, faults := satAdd 255 r.faults (b2n (bad && !start)) } }

/-- The impedance step against CALREF (R590, R598, R600): the codes' targets, or a rejection that both channels of the pair
count. -/
def State.impedance (s : State) (c : Nat) (m : CalMeas) : State :=
  let s := s.measureCalref (c / 2) m.meas false
  let pair := [2 * (c / 2), 2 * (c / 2) + 1].filter (· < 17)
  if calrefState m.meas ≠ 1 then
    let s := s.rejectCount c 6
    let n := (s.chan c).bal.calrefRow + 1
    let s := pair.foldl (fun s x => s.updBal x fun b => { b with calrefRow := n }) s
    if 3 ≤ n then pair.foldl (fun s x => s.raise (.bal x) 3) s else s
  else
    let s := pair.foldl (fun s x => s.updBal x fun b => { b with calrefRow := 0 }) s
    ((s.stageTarget c 8 0 0 m.pu).stageTarget c 8 0 1 m.pd).stageTarget c 8 0 2 m.term

/-! ### Runs (R580 to R584) -/

/-- Balance may run on the channel (R581). -/
def State.balMay (s : State) (c : Nat) : Bool :=
  let ch := s.chan c
  (s.page (.bal c)).en && ch.calState == 3 && ch.sr == .awake && ch.inService

/-- A reading as a signed temperature. -/
def tempOf (v : Nat) : Int := if v < 128 then v else (v : Int) - 256

/-- Two readings differ by at least `dt` degrees. -/
def tempFar (dt a b : Nat) : Bool := decide (dt ≤ (tempOf a - tempOf b).natAbs)

/-- The triggers that become pending at a latch point (R580): bit 1 temperature, 2 periodic, 5 request; the anchor and wake
triggers are set as they occur. -/
def State.balTriggers (s : State) (c : Nat) : Nat :=
  let ch := s.chan c
  let cfg := s.balCfg c
  let b := ch.bal
  let dt := fld cfg 0 4
  let ms := fld cfg 4 16
  let t := dt != 0 && b.started && (tempFar dt ch.ts0 b.ref0 || tempFar dt ch.ts1 b.ref1 || tempFar dt ch.tsPhy b.refPhy)
  let per := ms != 0 && decide (b.startBclk + ms * 1000 * s.bin.mhz ≤ s.bclk)
  let tr := Nat.lor b.trig (packNat [(1, 1, b2n t), (2, 1, b2n per)])
  Nat.lor tr (b2n (flag cfg 22) * 32)

/-- The trigger reported for a run: the lowest code pending. -/
def firstTrig (m : Nat) : Nat := ((rangeFrom 1 5).find? fun i => m.testBit i).getD 0

/-- A run starts (R580, R582): its references, its probes requested, its first step due. RUN_REQ clears in both copies where the run
answers it; where a commit changes it at this very tick the commit stands, the clear is discarded as an overrun of Balance, and the
request starts another run (R47, R616). -/
def State.balStart (s : State) (c : Nat) : State :=
  let ch := s.chan c
  let ps := s.rankPositions c
  let s := s.updBal c fun b =>
    let b := { b with running := true, lastTrig := firstTrig b.trigLatched, trig := 0, trigLatched := 0, started := true,
                      startFrame := s.esc.frame, startBclk := s.esc.tickBclk, ref0 := ch.ts0, ref1 := ch.ts1,
                      refPhy := ch.tsPhy, step := 0, stopWant := if s.balMode c = 2 then ps else b.stopWant }
    ps.foldl (fun b p => (b.updRank p fun r => { r with osc := 0, zq := 0 }).updProbe p fun x => { x with want := true }) b
  if !ch.bal.trigLatched.testBit 5 then s
  else if s.superseded (.bal c) 0x040 (BitVec.ofNat 32 (2 ^ 22)) then s.overrun 0 c
  else s.setFldBoth (.bal c) 0x040 22 1 0

/-- The lane group whose UPDATE is step `n` of a run. -/
def State.groupOfStep (s : State) (c n : Nat) : Option Nat := if n = 0 then none else (s.rankPositions c)[n - 1]?

/-- One Balance step at a tick (R583, R590): the impedance comparison in the channel's own frames, then an UPDATE whose
rank's oscillator has been read; after the last step and every ZQ latch the run ends (R584). -/
def State.balStep (s : State) (c : Nat) (m : CalMeas) : State :=
  let b := (s.chan c).bal
  if !b.running then s
  else if !s.balMay c then s.updBal c fun b => { b with running := false }
  else
    let ps := s.rankPositions c
    if b.step = 0 then
      if s.esc.frame % 2 = c % 2 then (s.impedance c m).updBal c fun b => { b with step := 1 } else s
    else match s.groupOfStep c b.step with
      | some p =>
        if (b.rank p).osc = 2 then (s.updateGroup c p).updBal c fun b => { b with step := b.step + 1 } else s
      | none =>
        if ps.all fun p => (b.rank p).zq == 2 then
          let n := min 255 (s.esc.frame - b.startFrame)
          (s.updBal c fun b => { b with running := false, runs := wrapAdd 16 b.runs 1, lastFrames := n }).raise (.bal c) 0
        else s

/-! ### Bus operations (R586 to R593) -/

/-- A burst of a group's probe (R586): a misread pattern discards the probe, and the rejection is staged (R40, R598). -/
def State.probeBurst (s : State) (c p : Nat) (z : Sense) : State :=
  if z.bad ≠ 0 then
    (s.updBal c fun b => b.updProbe p fun x => { x with bursts := 0, fails := [] }).stage c (.misread p z.bad)
  else s.updBal c fun b => b.updProbe p fun x =>
    let n := x.bursts / 16
    let fs := (List.range 4).map fun j => if j = n then Nat.lor (x.fails.getD j 0) z.fail else x.fails.getD j 0
    { x with bursts := x.bursts + 1, fails := fs, done := decide (x.bursts + 1 = 64), want := decide (x.bursts + 1 < 64) }

/-- The oscillator of a rank can be read at BCLK `t` (R589). -/
def State.oscReady (s : State) (r : RankBal) (t : Nat) : Bool :=
  r.osc == 1 && decide (r.oscAt + ceilDiv (2048 * 2 * s.bin.mhz) s.bin.dramMts ≤ t)

/-- The oscillator is read (R589): the first read after the anchor gives the baseline. -/
def State.oscRead (s : State) (c p : Nat) (z : Sense) : State :=
  s.updBal c fun b => b.updRank p fun r =>
    { r with osc := 2, count := z.osc, base := if r.base = [] then z.osc else r.base }

/-- A group's probe may be served: it is wanted, and no other group of the subchannel has a lane without transitions before
it (R588). -/
def Bal.probeDue (b : Bal) (p : Nat) : Bool :=
  let lacking := fun q => allLanes.any fun i => (b.lane q i).noTrans
  (b.probe p).want && (lacking p || !((List.range 4).any fun q => (b.probe (p / 4 * 4 + q)).want && lacking (p / 4 * 4 + q)))

/-- A slot of a rank is lent to Balance (R592): the oscillator read that is due, else a probe burst. Answers whether it was
lent. -/
def State.lend (s : State) (c sc rk t : Nat) (z : Sense) : Option State :=
  let p := s.rankPos sc rk
  let b := (s.chan c).bal
  if !s.balMay c ∨ !b.running then none
  else if s.oscReady (b.rank p) t then some (s.oscRead c p z)
  else if b.probeDue p then some (s.probeBurst c p z)
  else none

/-- Balance's operation in an MRS entry of a rank is the oscillator read, which returns a burst (R593). -/
def State.balReads (s : State) (c sc rk t : Nat) : Bool :=
  let b := (s.chan c).bal
  let r := b.rank (s.rankPos sc rk)
  s.balMay c && b.running && r.osc != 0 && s.oscReady r t

/-- One Balance operation in an MRS entry of a rank (R593): oscillator start and read, ZQ start and latch, a data-buffer
step. -/
def State.balMrs (s : State) (c sc rk t : Nat) (z : Sense) : Option State :=
  let p := s.rankPos sc rk
  let b := (s.chan c).bal
  let r := b.rank p
  if !s.balMay c then none
  else if b.running ∧ r.osc = 0 then some (s.updBal c fun b => b.updRank p fun r => { r with osc := 1, oscAt := t })
  else if b.running ∧ s.oscReady r t then some (s.oscRead c p z)
  else if b.running ∧ r.osc = 2 ∧ r.zq = 0 then some (s.updBal c fun b => b.updRank p fun r => { r with zq := 1, zqAt := t })
  else if r.zq = 1 ∧ r.zqAt + s.bin.us 1 ≤ t then some (s.updBal c fun b => b.updRank p fun r => { r with zq := 2 })
  else if s.bin.mrd then
    match allLanes.find? fun i => let v := b.val (valKey 9 p i); v.live != v.target with
    | some i => some (s.updBal c fun b =>
        { b with vals := Tbl.upd (fun _ => {}) b.vals (valKey 9 p i) fun v =>
            { v with live := if v.live < v.target then v.live + 1 else v.live - 1, was := v.live, moved := s.esc.frame } })
    | none => none
  else none

/-- A refresh, an emergency, self-refresh or an alert window interrupts the oscillator run and the probe of a rank: both are
discarded and redone, and the rejection is staged (R40, R598). -/
def State.balInterrupt (s : State) (c p : Nat) : State :=
  let b := (s.chan c).bal
  if (b.rank p).osc = 1 ∨ ((b.probe p).want ∧ 0 < (b.probe p).bursts) then
    (s.updBal c fun b =>
      (b.updRank p fun r => if r.osc = 1 then { r with osc := 0 } else r).updProbe p fun x => { x with bursts := 0, fails := [] }).stage c (.spoilt 2)
  else s

/-! ### The compatibility stop (R601 to R604) -/

/-- 1,400 ns in tCK of the DRAM. -/
def stopTck (b : Bin) : Nat := ceilDiv (1400 * b.dramMts) 2000

/-- Every REF of the rank's targets that a stop from frame `f` would cover can stay owed (R602). -/
def State.stopOwes (s : State) (c sc rk f : Nat) : Bool :=
  let n := ceilDiv (stopTck s.bin) (s.esc.fs * s.bin.slotTck)
  (s.tblAct c sc).targets.all fun g => g.1 != rk ||
    decide ((s.sub c sc).debtOf g +
      ((rangeFrom (s.esc.frame + 1) (n + 2 + (f - s.esc.frame))).filter fun x =>
        s.owes c sc g (s.chan c).rateSoon x).length ≤ debtCeil (s.chan c).rateSoon)

/-- A stop is armed at a latch point where its conditions hold (R601, R602), for the first rank position that waits. -/
def State.stopLatch (s : State) (c : Nat) (holdSoon : Bool) : State :=
  match (s.chan c).bal.stopWant with
  | [] => s
  | p :: rest =>
    let sc := p / 4
    let rk := rkOfPos s.bin.mrd (p % 4)
    let b := s.sub c sc
    if (b.emergs.any fun e => e.rk == rk) ∨ (s.sub c 0).stop.isSome ∨ (s.sub c 1).stop.isSome ∨ holdSoon ∨ !s.balMay c ∨
        !s.stopOwes c sc rk (s.esc.frame + 2) then s
    else
      let f : Pos := ⟨s.esc.frame + 2, 0⟩
      let s := s.updBal c fun b => { b with stopWant := rest }
      s.updSub c sc fun b => { b with stop := some { rk := rk, from_ := f, ends := s.slotBclk f + s.bin.ns 1400 } }

/-- An entry of a rank is taken by a stop (R601). -/
def State.stopTakes (s : State) (c sc : Nat) (p : Pos) (e : Entry) : Bool :=
  match (s.sub c sc).stop with
  | none => false
  | some st =>
    let t0 := s.tckOfSlot st.from_
    if e.rk != st.rk then false
    else if e.isMrs || e.isCal then
      decide (s.tckOfSlot p < t0 + stopTck s.bin + (s.timing c).cl + tPD s.bin) && decide (t0 < s.tckOfSlot p + s.bin.slotTck)
    else inShadow (s.timing c) e (s.posOf c sc p e) t0 (stopTck s.bin)

/-- A rectangle of the 5 × 5 grid: lowest and highest delay index, lowest and highest Vref index. -/
abbrev GridRect := Nat × Nat × Nat × Nat

/-- The rectangles of the grid in the order in which ties are won (R548): the larger delay extent, then the lower Vref
range, then the lower delay range. -/
def gridRects : List GridRect :=
  (List.range 5).flatMap fun k =>
    (List.range 5).flatMap fun vlo => (rangeFrom vlo (5 - vlo)).flatMap fun vhi =>
      (List.range (k + 1)).map fun dlo => (dlo, dlo + (4 - k), vlo, vhi)

/-- The grid points of a rectangle. -/
def rectPoints (r : GridRect) : Nat := (r.2.1 - r.1 + 1) * (r.2.2.2 - r.2.2.1 + 1)

/-- Every point of a rectangle passes; bit 5 v + d of the mask is the point of delay d and Vref v. -/
def rectPasses (mask : Nat) (r : GridRect) : Bool :=
  (rangeFrom r.1 (r.2.1 + 1 - r.1)).all fun d => (rangeFrom r.2.2.1 (r.2.2.2 + 1 - r.2.2.1)).all fun v => mask.testBit (5 * v + d)

/-- The chosen rectangle (R548): the most points, ties in the order of `gridRects`. -/
def gridBest (mask : Nat) : Option GridRect :=
  (gridRects.filter (rectPasses mask)).foldl (fun a r =>
    match a with | some b => if rectPoints b < rectPoints r then some r else a | none => some r) none

/-- The results of a stop are staged (R603): per lane the centre of the chosen rectangle, and the write delay. -/
def State.stopResults (s : State) (c p : Nat) (grid osc : List Nat) : State :=
  let minW := s.regFld (.cal c) 0x040 2 8
  let minH := s.regFld (.cal c) 0x040 10 4
  let s := s.oscRead c p { osc := osc }
  allLanes.foldl (fun s i =>
    let b := (s.chan c).bal
    let rd := b.val (valKey 0 p i)
    let vr := b.val (valKey 6 (p / 4 * 4) i)
    let s := match gridBest (grid.getD i 0) with
      | none => s.reject c p i 4
      | some r =>
        let d := ((r.1 + r.2.1) / 2 : Nat)
        let v := ((r.2.2.1 + r.2.2.2) / 2 : Nat)
        let s := s.stageTarget c 0 p i (rd.live + ((d : Int) - 2) * ((minW / 4 : Nat) : Int))
        s.stageTarget c 6 (p / 4 * 4) i (vr.live + ((v : Int) - 2) * ((max 1 (minH / 4) : Nat) : Int))
    let rk := (s.chan c).bal.rank p
    let cnt : Nat := rk.count.getD i 0
    let w := (s.chan c).bal.val (valKey s.wrKind p i)
    if cnt = 0 ∨ cnt = 2 ^ 16 - 1 then s.reject c p i 7
    else s.stageTarget c s.wrKind p i (w.anchor + oscDelta cnt (rk.base.getD i 0))) s

end Sys2Proof.Machine
end

