-- ==== Sys2Proof/Machine/Jewel.lean ====
section
/-! DEFINITION. The Jewel (R606 to R613, R627 to R629): which copy is in force, what waits to be written, a record write, and
the acceptance of modules whose identity a record keeps (R262 to R270, R298). -/
namespace Sys2Proof.Machine

/-! ### Modules (R262 to R270, R298) -/

/-- CC_MODULE_ID of what Movement read (R298). TYPE of a module that is neither an RDIMM nor an MRDIMM, and so refused, reads 0: the
register has no code for it (DESIGN CHOICE, log entry 58). -/
def moduleIdWord (d : Spd) : Word :=
  pack [(0, 2, if d.moduleType = 3 then 0 else d.moduleType), (2, 1, b2n d.dpc2), (3, 2, d.ranksM1), (5, 1, b2n d.x8), (6, 2, d.dens), (8, 2, d.stack),
    (10, 3, d.maxBin), (13, 1, b2n d.drfm), (14, 1, b2n d.prac), (16, 4, d.refuse)]

/-- The CC_MODULE_ID image of a channel's modules. -/
def Chan.moduleId (ch : Chan) : Word := match ch.spd with | some d => moduleIdWord d | none => 0

/-- The bin of a code of MAXBIN (R298). -/
def binOfCode (n : Nat) : Bin :=
  if n = 0 then .rdimm5600 else if n = 1 then .rdimm6400 else if n = 2 then .rdimm7200 else if n = 3 then .rdimm8000
  else if n = 4 then .rdimm8800 else if n = 5 then .mrdimm8800 else .mrdimm12800

/-- The address bits of a channel of a module (R217). -/
def spdNch (d : Spd) : Nat :=
  let w := spdRowCol d
  12 + fld w 9 2 + fld w 0 4 + fld w 4 5

/-- What stands for a channel whose SPD was not read (R266, R298): absent (1) or unreadable (2). -/
def noSpd (code : Nat) : Spd := { moduleType := 0, maxBin := 0, refuse := code }

/-- What Movement keeps of a reading: nothing but the code of one that was not made. -/
def asRead (d : Spd) : Spd := if d.refuse = 1 ∨ d.refuse = 2 then noSpd d.refuse else d

/-- The ranks of the DIMM in slot 0, less one: the channel's less those of the DIMM in slot 1 (R265). -/
def ranksOfSlot0 (d : Spd) : Nat := if d.dpc2 then d.ranksM1 - (d.second.ranksM1 + 1) else d.ranksM1

/-- The DIMM slot that holds a rank (R265): one rank a DIMM, slot 0 holds rank 0 and slot 1 rank 1; two, slot 0 holds 0 and 1. -/
def slotOfRank (d : Spd) (rk : Nat) : Nat := if !d.dpc2 then 0 else if d.ranksM1 ≤ 1 then rk % 2 else rk / 2 % 2

/-- The two DIMMs of a channel are of one shape (R265). -/
def paired (d : Spd) : Bool :=
  d.ranksM1 == 2 * d.second.ranksM1 + 1 && d.x8 == d.second.x8 && d.x16 == d.second.x16 && d.dens == d.second.dens &&
  d.stack == d.second.stack

/-- The REFUSE codes that the contents of the channel's SPDs give by R262 to R265, beside the one that the reading gives. -/
def spdCodes (d : Spd) : List Nat :=
  let mrd := d.moduleType == 2
  let two := d.dpc2
  let ranks := if mrd then d.ranksM1 == 1 || d.ranksM1 == 3
               else decide (ranksOfSlot0 d ≤ 1) && !(two && decide (1 < d.second.ranksM1))
  let dense := fun (dens stack : Nat) (x8 : Bool) => decide (3 ≤ dens) || decide (3 ≤ stack) || (stack != 0 && (x8 || mrd))
  (if d.refuse ≠ 0 then [d.refuse] else []) ++
  (if !(mrd || d.moduleType == 1) ∨ (two ∧ (mrd ∨ d.second.moduleType ≠ 1)) then [3] else []) ++
  (if d.x16 ∨ (mrd ∧ d.x8) ∨ (two ∧ d.second.x16) then [5] else []) ++ (if ranks then [] else [6]) ++
  (if dense d.dens d.stack d.x8 ∨ (two ∧ dense d.second.dens d.second.stack d.second.x8) then [7] else []) ++
  (if 39 < spdNch d then [8] else []) ++ (if two ∧ !paired d then [10] else [])

/-- The least of a list; 0 for an empty one. -/
def leastOf : List Nat → Nat
  | [] => 0
  | a :: t => t.foldl min a

/-- Two modules have the same configuration (R267). -/
def sameConfig (a b : Spd) : Bool :=
  a.moduleType == b.moduleType && a.dpc2 == b.dpc2 && a.ranksM1 == b.ranksM1 && a.x8 == b.x8 && a.dens == b.dens &&
  a.stack == b.stack

/-- MAXBIN with what the population allows (R262): an RDIMM reaches RDIMM-8800, with x8 devices or two DIMMs per channel
RDIMM-6400; an MRDIMM runs at no bin below MRDIMM-8800. -/
def capBin (d : Spd) : Spd :=
  if d.moduleType = 1 then { d with maxBin := min d.maxBin (if d.x8 ∨ d.dpc2 then 1 else 4) }
  else if d.moduleType = 2 then { d with maxBin := max d.maxBin 5 } else d

/-- A channel's SPD as Movement judges it against the bin named and the reference configuration: REFUSE is the first reason in
code order (R266 to R268). -/
def judge (bin : Option Bin) (ref : Option Spd) (d : Spd) : Spd :=
  let d := capBin (asRead d)
  let own := spdCodes d
  let byBin := match bin with | some b => if d.maxBin < b.code ∨ (b.mrd ≠ (d.moduleType == 2)) then [4] else [] | none => []
  let unlike := match ref with | some r => if sameConfig r d then [] else [9] | none => []
  { d with refuse := leastOf (own ++ byBin ++ unlike) }

/-- The channel's module is accepted (R266). -/
def Chan.accepted (ch : Chan) : Bool := match ch.spd with | some d => d.refuse == 0 | none => false

/-! ### Copies (R608) -/

/-- Copy `x` of a channel's record. -/
def State.jwlCopy (s : State) (c x : Nat) : JwlCopy := Tbl.get (fun _ => {}) s.jwl.copies (2 * c + x)

/-- The copy in force: the valid one with the higher SEQ, A for equal SEQ. -/
def State.jwlForce (s : State) (c : Nat) : Option Nat :=
  let a := s.jwlCopy c 0
  let b := s.jwlCopy c 1
  if a.st = 0 then (if b.st = 0 ∧ a.seq < b.seq then some 1 else some 0)
  else if b.st = 0 then some 1 else none

/-- The record in force. -/
def State.jwlRecord (s : State) (c : Nat) : Option JwlCopy := (s.jwlForce c).map fun x => s.jwlCopy c x

/-- The payload that waits for a channel. -/
def State.jwlPend (s : State) (c : Nat) : Option JwlPend := Tbl.get (fun _ => none) s.jwl.pend c

/-- Changes a channel's Caliper engine. -/
def State.updCal (s : State) (c : Nat) (f : Cal → Cal) : State := { s with cals := Tbl.upd (fun _ => {}) s.cals c f }

/-- A channel's Caliper engine. -/
def State.cal (s : State) (c : Nat) : Cal := Tbl.get (fun _ => {}) s.cals c

/-- Records are written: the page's EN is 1 and WP is 0 (R93, R613). -/
def State.jwlOpen (s : State) : Bool := (s.page .jwl).en && !flag (s.reg .jwl 0x040) 11

/-- A record of a channel falls due (R559, R610, R510): it waits, in place of one that waited, or is dropped (R613). -/
def State.jwlQueue (s : State) (c : Nat) (p : JwlPend) : State :=
  if s.jwlOpen then { s with jwl := { s.jwl with pend := Tbl.set (fun _ => none) s.jwl.pend c (some p) } } else s

/-- The targets in force of a channel, as a payload keeps them. -/
def Bal.targets (b : Bal) : List (Nat × Int) := b.vals.map fun e => (e.1, e.2.target)

/-- The payload formed from a channel's present values. -/
def State.payload (s : State) (c kind : Nat) : JwlPend :=
  let ch := s.chan c
  { kind := kind, frame := s.frameNo, spd := ch.spd.getD {}, bin := s.bin.code, moduleId := ch.moduleId,
    temp := max ch.ts0 ch.ts1, vals := ch.bal.targets, mods := ch.mods }

/-- The 10 s between the writes of a channel's record have passed by BCLK `t` (R611). -/
def State.jwlMay (s : State) (c t : Nat) : Bool :=
  let l := Tbl.get (fun _ => 0) s.jwl.last c
  l == 0 || decide (l - 1 + s.bin.us 10000000 ≤ t)

/-- The channel whose record is written next (R609): the lowest that waits and may be written. -/
def State.jwlNext (s : State) : Option Nat :=
  (List.range 17).find? fun c => (s.jwlPend c).isSome && s.jwlMay c s.bclk

/-- The copy a write goes to, and its SEQ (R609). -/
def State.jwlDest (s : State) (c : Nat) : Nat × Nat :=
  let x := match s.jwlForce c with | some x => 1 - x | none => 0
  let sq := fun y => if (s.jwlCopy c y).st = 0 then (s.jwlCopy c y).seq else 0
  (x, max (sq 0) (sq 1) + 1)

/-- A copy is overwritten. -/
def State.setCopy (s : State) (c x : Nat) (v : JwlCopy) : State :=
  { s with jwl := { s.jwl with copies := Tbl.set (fun _ => {}) s.jwl.copies (2 * c + x) v } }

/-- JEWEL_RECORD_WRITE (R609, R559, R627 to R629): the record is written and read back, once more where the first read-back
fails; `bad1` and `bad2` are the states that the read-backs find (R608; 0 valid). -/
def State.jewelWrite (s : State) (bad1 bad2 : Nat) : State :=
  match s.jwlNext with
  | none => s
  | some c =>
    match s.jwlPend c with
    | none => s
    | some p =>
      if !s.mvc.running then s
      else
        let d := s.jwlDest c
        let n := if bad1 = 0 then 1 else 2
        let st := if bad1 = 0 then 0 else bad2
        let v : JwlCopy := { st := st, kind := p.kind, seq := d.2, frame := p.frame, spd := p.spd, bin := p.bin,
                             moduleId := p.moduleId, temp := p.temp, vals := p.vals, mods := p.mods }
        let s := s.setCopy c d.1 v
        let s := { s with jwl := { s.jwl with pend := Tbl.set (fun _ => none) s.jwl.pend c none,
                                              last := Tbl.set (fun _ => 0) s.jwl.last c (s.bclk + 1),
                                              wrCnt := s.jwl.wrCnt + n, lastCh := c, lastCopy := d.1 == 1,
                                              wrFail := st != 0, wrFails := satAdd 65535 s.jwl.wrFails (b2n (st != 0)) } }
        let s := s.ev { box := boxBlk, code := 0x0A, n := n }
        if st = 0 then
          let s := s.raise .jwl 0
          if p.kind = 1 then (s.updCal c fun k => { k with jwlPending := false, jwlWritten := true }).raise (.cal c) 2 else s
        else s.raise .jwl 1

/-- The keys of values a Balance update compares: the lane entries and the impedance codes (R610, R558). -/
def recKey (k : Nat) : Bool := k / 256 == 0 || k / 256 == 1 || k / 256 == 2 || k / 256 == 3 || k / 256 == 6 || k / 256 == 7 || k / 256 == 8

/-- A Balance update of a channel's record falls due (R610). -/
def State.jwlUpdate (s : State) (c : Nat) : State :=
  let m := fld (s.reg .jwl 0x040) 0 11
  let l := Tbl.get (fun _ => 0) s.jwl.last c
  match s.jwlRecord c with
  | none => s
  | some r =>
    let ts := (s.chan c).bal.targets
    if m = 0 ∨ (s.jwlPend c).isSome ∨ s.bclk + 1 < l + m * s.bin.us 60000000 ∨ (s.chan c).calState ≠ 3 ∨
        ts.filter (fun e => recKey e.1) = r.vals.filter (fun e => recKey e.1) then s
    else s.jwlQueue c { s.payload c 2 with spd := r.spd, bin := r.bin, moduleId := r.moduleId, mods := r.mods,
                                           vals := ts.filter (fun e => recKey e.1) ++ r.vals.filter fun e => !recKey e.1 }

/-- A record serves fast restore (R503, R525): FAST_OK of the start-up in effect, validity, the serial numbers, the bin and CC_MODULE_ID. -/
def State.jwlServes (s : State) (c : Nat) : Option JwlCopy :=
  match s.jwlRecord c, (s.chan c).spd with
  | some r, some d =>
    if flag s.startCfg 0 ∧ r.spd.serial = d.serial ∧ (d.dpc2 → r.spd.second.serial = d.second.serial) ∧ r.bin = s.bin.code ∧ r.moduleId = moduleIdWord d then some r else none
  | _, _ => none

end Sys2Proof.Machine
end

