-- ==== Sys2Proof/Machine/Caliper.lean ====
section
/-! DEFINITION. Caliper (chapter 12): places under TRN_PWR_MAX, a run's start, its failures, the eyes it chooses, and its
end. -/
namespace Sys2Proof.Machine

/-! ### Places and requests (R521, R532, R561 to R564) -/

/-- A channel holds a place under TRN_PWR_MAX or waits as its CHAN_TEST. -/
def State.placesUsed (s : State) : Nat := ((List.range 17).filter fun c => (s.cal c).place).length

/-- A place is free. -/
def State.placeFree (s : State) : Bool := decide (s.placesUsed < s.regFld .blk 0x048 0 5)

/-- The channel that takes the next place for training: the lowest that waits with a full run (R521) and whose engine may run (R93). The
training of a CHAN_TEST runs in the test's place (R884). -/
def State.nextTrain (s : State) : Option Nat :=
  (List.range 17).find? fun c => (s.chan c).calState == 1 && (s.cal c).kind == 1 && (s.cal c).owner != 4 && (s.page (.cal c)).en

/-- A run is waiting or in progress. -/
def State.calBusy (s : State) (c : Nat) : Bool := (s.chan c).calState == 1 || (s.chan c).calState == 2

/-- The CALREF of the channel is faulty (R499). -/
def State.calrefFault (s : State) (c : Nat) : Bool := (s.calref (c / 2)).startFault

/-- The cases of R562 for a channel, but for the level of its page. -/
def State.trainRefused (s : State) (c : Nat) : Bool :=
  (s.chan c).inService || (s.chan c).sr == .parked || s.calBusy c || (s.chan c).test || (s.cal c).testWait || s.calrefFault c

/-- A run is asked for (R531, R563): it waits in WAITING until it starts. A fast restore without a record that serves is a full
run (R503). -/
def State.calRequest (s : State) (c kind owner : Nat) (noJwl : Bool) : State :=
  let k := if kind = 2 ∧ (s.jwlServes c).isNone then 1 else kind
  (s.updCal c fun x => { x with kind := k, owner := owner, noJwl := noJwl, fell := false }).updChan c fun ch =>
    { ch with calState := 1, calSeen := 1 }

/-! ### The reset table (R32, R533) -/

/-- Both tables of a channel's subchannels return to TURN entries of the frame length in force. -/
def State.turnTables (s : State) (c : Nat) : State :=
  [0, 1].foldl (fun s sc =>
    let p := PageId.slt c sc
    let s := s.updPage p fun pg => { pg with act := [], shd := [] }
    let s := s.setBoth p 0x040 (pack [(0, 9, s.esc.fs), (12, 3, 4)])
    s.updSub c sc fun b => { b with legal := false, flex := [], old := [], owed := [] }) s

/-- The clock time of a count of BCLK in whole milliseconds. -/
def State.msOf (s : State) (n : Nat) : Nat := n / (1000 * s.bin.mhz)

/-! ### The end of a run (R536, R538, R554, R564) -/

/-- REQ clears in both copies (R564); no standing intent asks for a run (R531). -/
def State.clearReq (s : State) (c : Nat) : State :=
  (s.setFldBoth (.cal c) 0x040 0 2 0).updPage (.cal c) fun pg =>
    { pg with intent := Tbl.upd (regReset (.cal c)) pg.intent 0x040 fun w => setFld w 0 2 0 }

/-- What ends with every run: the place, the debts, the rate. -/
def State.calEnd (s : State) (c : Nat) : State :=
  let ms := min 255 (s.msOf (s.bclk - (s.cal c).start))
  let s := s.updCal c fun x => { x with kind := 0, place := x.place && x.owner == 4, elapsed := ms }
  let s := [0, 1].foldl (fun s sc => s.updSub c sc fun b => { b with debt := [], refs := [], emergs := [] }) s
  let rate := s.rateDemand c (s.reg (.cc c) 0x054)
  (s.updChan c fun ch => { ch with calRun := false, rate2x := rate.getD ch.rate2x, rateNext := none }).clearReq c

/-- A run fails (R554): what failed is recorded, RESET_n is low, the channel untrained and its contents lost. -/
def State.calFail (s : State) (c step sc rk lane reason : Nat) : State :=
  let s := s.calEnd c
  let s := s.updCal c fun x =>
    { x with failed := true, restored := false, runFails := wrapAdd 8 x.runFails 1, step := step,
             failWord := packNat [(0, 4, step), (4, 1, sc), (5, 3, rk), (8, 4, lane), (12, 4, reason)] }
  let s := (s.updChan c fun ch => { ch with calState := 0, resetN := true }).loseLines c false
  s.raise (.cal c) 1

/-- A run passes (R538, R559, R640): its values are in force, a full run clears the marks, and its record waits. -/
def State.calPass (s : State) (c : Nat) (restored : Bool) : State :=
  let k := s.cal c
  let s := (s.calEnd c).updCal c fun x => { x with restored := restored }
  let s := (s.updChan c fun ch =>
    { ch with calState := 3, filled := if restored then ch.filled else false,
              elog := if restored then ch.elog else ch.elog.clearMarks }).raise (.cal c) 0
  let s := s.updBal c fun b => { b with trig := Nat.lor b.trig 8, lanes := [], probes := [], ranks := [], running := false }
  if restored ∨ k.noJwl then s
  else
    let t := s.jwlQueue c (s.payload c 1)
    if (t.jwlPend c).isSome then t.updCal c fun x => { x with jwlPending := true } else t

/-- A restore goes over to full training, which waits for its place; a run in progress goes on as the same run (R503, R555). -/
def State.goFull (s : State) (c : Nat) : State :=
  (s.updCal c fun x => { x with kind := 1, fell := (s.chan c).calState == 2 }).updChan c fun ch => { ch with calState := 1, calRun := false }

/-- A restore fails (R504, R509, R555): the failure is counted, and the channel goes to full training. -/
def State.restoreFail (s : State) (c reason : Nat) : State :=
  let s := s.updCal c fun x =>
    { x with restoreFails := wrapAdd 8 x.restoreFails 1, step := 12, failWord := packNat [(0, 4, 12), (12, 4, reason)] }
  ((s.goFull c).updChan c fun ch => { ch with retained := false }).raise (.cal c) 1

/-! ### The start of a run (R532, R533, R535) -/

/-- A run may start now: Movement starts it (R537), and it holds a place, or needs none. In phase 6 the channel holds its role of phase 3
already (R222, R896). -/
def State.calMay (s : State) (c : Nat) : Bool :=
  s.mvc.running && (s.chan c).calState == 1 && ((s.cal c).owner == 0 || !(s.chan c).inService) && (s.page (.cal c)).en && !s.calrefFault c &&
  ((s.cal c).kind == 2 || (s.cal c).owner == 4 || (s.placeFree && s.nextTrain == some c)) &&
  ((s.cal c).owner != 1 || (s.chan c).rjn == 2)

/-- What Movement reads of a channel's modules (R266): a module that is not there, or what its SPD holds. -/
def State.calRead (s : State) (c : Nat) (spd : Spd) : Spd := if (s.chan c).prsnt then spd else noSpd 1

/-- CALIPER_RUN_START (R532, R535): the modules are read afresh outside phase 6, and the run begins or ends at once with reason
MODULE. -/
def State.caliperStart (s : State) (c : Nat) (spd : Spd) : State :=
  if 17 ≤ c ∨ !s.calMay c then s
  else
    let k := s.cal c
    let full := k.kind == 1
    let s := s.updCal c fun x =>
      { x with place := full || x.place, start := if k.fell then x.start else s.bclk, failed := false, jwlWritten := false,
               runs := if k.fell then x.runs else satAdd 65535 x.runs 1, fell := false,
               step := if full then 1 else 12, stepSc := if full then 1 else 0, stepRk := 0, progress := 0, tries := 0,
               refabs := 0, progAt := s.bclk, refAt := s.bclk, res := if full then [] else x.res }
    let s := (s.updChan c fun ch => { ch with calState := 2, calRun := true, resetN := false }).turnTables c
    let s := if k.owner = 0 then s
      else s.updChan c fun ch => { ch with spd := some (judge (some s.bin) s.refSpd (s.calRead c spd)), idGone := false }
    if k.owner ≠ 0 ∧ !(s.chan c).accepted then s.calFail c 1 0 0 0 7
    else match full, s.jwlServes c with
      | false, some r =>
        (s.updBal c fun b => r.vals.foldl (fun b e => b.anchorVal e.1 e.2) { b with vals := [] }).updChan c fun ch => { ch with mods := r.mods }
      | false, none => if (s.chan c).retained then s.restoreFail c 9 else s.goFull c
      | true, _ => s

/-- The sanity reads of a channel that holds no retained contents write and read back 64 lines in row 0, bank 0 of every rank (R504). The
spec gives neither the columns nor the data: every line of that row holds a free value. -/
def State.sanityLines (s : State) (c : Nat) : State :=
  let ls := (s.rankPositions c).flatMap fun p => (List.range 128).map fun col =>
    ({ ch := c, sc := p / 4, rk := rkOfPos s.bin.mrd (p % 4), col := col } : Loc)
  ls.foldl (fun s l => { s.writeLine l (Config.freeLine (2 * s.nextFree + 1)) with nextFree := s.nextFree + 1 }) s

/-- FAST_RESTORE_DONE (R504, R508, R509): the sanity reads end. -/
def State.fastRestoreDone (s : State) (c : Nat) (pass : Bool) : State :=
  if 17 ≤ c ∨ (s.chan c).calState ≠ 2 ∨ (s.cal c).kind ≠ 2 ∨ (s.chan c).sr ≠ .awake then s
  else
    let s := if (s.chan c).retained then s else s.sanityLines c
    if pass then s.calPass c true else s.restoreFail c 8

/-- CALIPER_REFAB (R536, R567): after step CS, every 1.95 µs, REFab goes to every rank between two sweep points; the run stands
at a step, rank and sweep point. -/
def State.caliperRefab (s : State) (c step rk progress : Nat) : State :=
  let k := s.cal c
  let t := k.refAt + (s.bin.mhz * 195 + 99) / 100
  if 17 ≤ c ∨ (s.chan c).calState ≠ 2 ∨ k.kind ≠ 1 ∨ step < 3 ∨ 11 < step ∨ step < k.step ∨ !s.canReach t then s
  else
    let s := s.goto t
    let moved := step != k.step || rk != k.stepRk || progress != k.progress
    s.updCal c fun x =>
      { x with step := step, stepSc := 1, stepRk := rk, progress := min 255 progress,
               tries := if step = x.step ∧ rk = x.stepRk then x.tries else 0, refabs := x.refabs + 1, refAt := s.bclk,
               progAt := if moved then s.bclk else x.progAt }

/-- CAL_STEP_TIMEOUT (R553, R555): a step that makes no progress for 1 ms fails on its rank, which is repeated up to RETRY times
while the step's budget allows. -/
def State.calStepTimeout (s : State) (c : Nat) (again : Bool) : State :=
  let k := s.cal c
  let t := k.progAt + s.bin.us 1000
  if 17 ≤ c ∨ (s.chan c).calState ≠ 2 ∨ k.kind ≠ 1 ∨ !s.canReach t then s
  else
  let s := s.goto t
  if again ∧ k.tries < s.regFld (.cal c) 0x040 14 2 then
    s.updCal c fun x => { x with tries := x.tries + 1, progAt := s.bclk }
  else s.calFail c k.step k.stepSc k.stepRk 0 6

/-! ### Eyes (R546 to R550) -/

/-- The bursts of the pattern at each sweep point (R547): 32 × 2^PAT. -/
def patBursts (pat : Nat) : Nat := 32 * 2 ^ pat

/-- The span that passes: the first one free of errors over `n` bursts. -/
def spanAt (n : Nat) (l : List Span) : Option Span := l.find? fun x => decide (n ≤ x.clean) && decide (x.lo ≤ x.hi)

/-- The passing delays at each Vref code. -/
def rowsAt (n : Nat) (l : List (Nat × Span)) : List (Nat × Nat × Nat) :=
  (l.filter fun r => decide (n ≤ r.2.clean)).map fun r => (r.1, r.2.lo, r.2.hi)

/-- A rectangle of passing points: lowest and highest delay, lowest and highest code. -/
abbrev Eye := Nat × Nat × Nat × Nat

/-- Every point of a rectangle passes: each of its codes, two apart, has an interval that holds its delays. -/
def eyePasses (rows : List (Nat × Nat × Nat)) (e : Eye) : Bool :=
  (rangeFrom 0 ((e.2.2.2 - e.2.2.1) / 2 + 1)).all fun i =>
    rows.any fun r => r.1 == e.2.2.1 + 2 * i && decide (r.2.1 ≤ e.1) && decide (e.2.1 ≤ r.2.2)

/-- Its grid points. -/
def eyePoints (e : Eye) : Nat := ((e.2.1 - e.1) / 2 + 1) * ((e.2.2.2 - e.2.2.1) / 2 + 1)

/-- One rectangle is chosen before another (R548): more points, then the larger delay extent, then the lower Vref range, then the
lower delay range. -/
def eyeBefore (a b : Eye) : Bool :=
  if eyePoints a ≠ eyePoints b then decide (eyePoints b < eyePoints a)
  else if a.2.1 - a.1 ≠ b.2.1 - b.1 then decide (b.2.1 - b.1 < a.2.1 - a.1)
  else if a.2.2.1 ≠ b.2.2.1 then decide (a.2.2.1 < b.2.2.1) else decide (a.1 < b.1)

/-- The rectangles bounded by the intervals found. -/
def eyeCands (rows : List (Nat × Nat × Nat)) : List Eye :=
  rows.flatMap fun a => rows.flatMap fun b => rows.flatMap fun lo => rows.filterMap fun hi =>
    if a.1 ≤ b.1 ∧ lo.2.1 ≤ hi.2.2 ∧ eyePasses rows (lo.2.1, hi.2.2, a.1, b.1) then some (lo.2.1, hi.2.2, a.1, b.1) else none

/-- The chosen rectangle (R548). -/
def eyeBest (rows : List (Nat × Nat × Nat)) : Option Eye :=
  (eyeCands rows).foldl (fun a e => match a with | none => some e | some b => if eyeBefore e b then some e else a) none

/-- The centre of a range, rounded down to the stride of 2 (R548). -/
def eyeCentre (lo hi : Nat) : Nat := let m := (lo + hi) / 2; m - m % 2

/-- The deskew of each bit from its pass edges (R550): the lane's mean centre less the bit's, rounded toward zero. -/
def deskewOf (edges : List (Nat × Nat)) : List Int :=
  let n := edges.length
  let sum : Nat := edges.foldl (fun (a : Nat) e => a + e.1 + e.2) 0
  edges.map fun e => Int.tdiv ((sum : Int) - (n * (e.1 + e.2) : Nat)) ((2 * n : Nat) : Int)

/-- What the sweeps of a run go by: CAL_CTL, CWL, and the rank fields and lanes of the population (R539, R565). -/
structure CalCfg where
  minW : Nat := 24
  minH : Nat := 6
  retry : Nat := 2
  pat : Nat := 3
  dfe : Bool := true
  cwl : Nat := 0
  x8 : Bool := false
  ranks : List Nat := []
  deriving DecidableEq, Repr

/-- The lanes of a subchannel. -/
def CalCfg.lanes (k : CalCfg) : List Nat := List.range (if k.x8 then 5 else 10)

/-- The key of a result: step, subchannel, rank field, lane. -/
def resKey (step sc rk lane : Nat) : Nat := 16 * (8 * (2 * step + sc) + rk) + lane

/-- The rows of a sweep within its range (R546): 2 UI about a position, codes 20 to 100 two apart. -/
def inRange (at_ : Option Nat) (rows : List (Nat × Nat × Nat)) : List (Nat × Nat × Nat) :=
  rows.filterMap fun r =>
    let lo := match at_ with | some p => max r.2.1 (p - 128) | none => r.2.1
    let hi := match at_ with | some p => min r.2.2 (p + 128) | none => r.2.2
    if 20 ≤ r.1 ∧ r.1 ≤ 100 ∧ r.1 % 2 = 0 ∧ lo ≤ hi then some (r.1, lo, hi) else none

/-- The eye of a two-dimensional sweep, or why it fails (R546 to R549). -/
def eyeOf (k : CalCfg) (at_ : Option Nat) (rows : List (Nat × Span)) : Nat ⊕ Eye :=
  match eyeBest (inRange at_ (rowsAt (patBursts k.pat) rows)) with
  | none => .inl 1
  | some e => if e.2.1 - e.1 < k.minW ∨ e.2.2.2 - e.2.2.1 < k.minH then .inl 2 else .inr e

/-- A result of an eye. -/
def eyeRes (r : CalRes) (e : Eye) : CalRes :=
  { r with dly := eyeCentre e.1 e.2.1, vref := eyeCentre e.2.2.1 e.2.2.2, eyeW := e.2.1 - e.1, eyeH := e.2.2.2 - e.2.2.1 }

/-- The position about which a lane's eye is swept (R546): RGATE's plus ½ UI for a read, WLVL's plus ¼ UI for a write. The spec gives no
INIT position, so the sweep of CA is taken as it comes (DESIGN CHOICE, log entry 58). -/
def eyeAt (acc : Tbl CalRes) (step sc rk lane : Nat) : Option Nat :=
  let r := fun st => (Tbl.get (fun _ => {}) acc (resKey st sc rk lane)).dly
  if step = 8 then some (r 5 + 64) else if step = 9 then some (r 4 + 32) else none

/-- Every bit that a lane received comes from a lane of its own nibble (R294, R543). -/
def CalCfg.mapped (k : CalCfg) (w : Sweep) : Bool :=
  w.source.zipIdx.all fun x => x.1 / 4 == ((if k.x8 then 8 else 4) * w.lane + x.2) / 4

/-- A result under the key of its step for the sweep's lane. -/
def keyed (w : Sweep) (step : Nat) (r : CalRes) : Nat × CalRes := (resKey step w.sc w.rk w.lane, r)

/-- The sweeps of steps CA, RDQ and WDQ (R546 to R550): the deskew of each bit, then the eye. A bit that passes nowhere is a sweep with no
passing point. The result of CA stands under each signal with that signal's deskew (DESIGN CHOICE, log entry 58). -/
def eyeSweep (k : CalCfg) (acc : Tbl CalRes) (w : Sweep) : Nat ⊕ List (Nat × CalRes) :=
  let edges := w.bitSpans.map (spanAt (patBursts k.pat))
  let dk := deskewOf (edges.map fun e => match e with | some x => (x.lo, x.hi) | none => (0, 0))
  let byte := fun (d : Int) => (Int.emod d 256).toNat
  if edges.any fun e => e.isNone then .inl 1
  else if dk.any fun d => decide (d < -32) || decide (31 < d) then .inl 4
  else match eyeOf k (eyeAt acc w.step w.sc w.rk w.lane) w.rows with
    | .inl n => .inl n
    | .inr e =>
      if w.step = 3 then .inr ((List.range 8).map fun i =>
        (resKey 3 w.sc w.rk i, eyeRes { tries := w.tries, deskew := (dk[i]?.map byte).toList } e))
      else .inr [keyed w w.step (eyeRes { tries := w.tries, deskew := dk.map byte } e)]

/-- Step DFE (R539): the centres of RDQ and WDQ are found again with the setting chosen. -/
def dfeSweep (k : CalCfg) (acc : Tbl CalRes) (w : Sweep) : Nat ⊕ List (Nat × CalRes) :=
  let was := fun st => Tbl.get (fun _ => {}) acc (resKey st w.sc w.rk w.lane)
  match eyeOf k (eyeAt acc 8 w.sc w.rk w.lane) w.rows, eyeOf k (eyeAt acc 9 w.sc w.rk w.lane) w.wrRows with
  | .inr r, .inr x => .inr [keyed w 8 (eyeRes (was 8) r), keyed w 9 (eyeRes (was 9) x)]
  | .inl n, _ => .inl n
  | _, .inl n => .inl n

/-- Step FINAL (R539, R549): the width at the centre Vref and the height at the centre delay of the read and the write eye. -/
def finalSweep (k : CalCfg) (w : Sweep) : Nat ⊕ List (Nat × CalRes) :=
  let n := patBursts k.pat
  let f := fun i => match spanAt n (w.final.getD i []) with | some x => x.hi - x.lo | none => 0
  if (List.range 4).any (fun i => (spanAt n (w.final.getD i [])).isNone) then .inl 1
  else if f 0 < k.minW ∨ f 1 < k.minH ∨ f 2 < k.minW ∨ f 3 < k.minH then .inl 2
  else .inr [keyed w 11 { eyeW := f 0, eyeH := f 1, wrW := f 2, wrH := f 3 }]

/-- What a sweep gives: a failure reason, or results by key (R539, R543 to R550). CS takes the centre of its window; WLVL the first delay
with an edge within 2 UI about CWL and the RCD's delay; RGATE the middle of the first preamble tCK within its 4 UI. -/
def sweepResult (k : CalCfg) (acc : Tbl CalRes) (w : Sweep) : Nat ⊕ List (Nat × CalRes) :=
  if w.reason = 5 ∧ 6 ≤ w.step ∧ w.step ≤ 11 then .inl 5
  else match w.step, w.window with
    | 2, some (lo, hi) => .inr [keyed w 2 { dly := (lo + hi) / 2, eyeW := hi - lo, tries := w.tries }]
    | 4, some (lo, _) =>
      if 256 < lo then .inl 1
      else .inr [keyed w 4 { dly := (256 * (k.cwl + w.rcdDelay) + lo - 128) % 2 ^ 16, tries := w.tries }]
    | 5, some (lo, hi) =>
      if lo + 512 < hi then .inl 1 else .inr [keyed w 5 { dly := (lo + hi) / 2, eyeW := hi - lo, tries := w.tries }]
    | 3, _ => eyeSweep k acc w
    | 8, _ => eyeSweep k acc w
    | 9, _ => eyeSweep k acc w
    | 6, _ => if k.mapped w then .inr [] else .inl 3
    | 7, _ => .inr []
    | 10, _ => dfeSweep k acc w
    | 11, _ => finalSweep k w
    | _, _ => .inl 1

/-! ### The steps of a run (R539, R540, R551, R553) -/

/-- The lanes that a step sweeps: CS sweeps a rank and CA a subchannel as a whole. -/
def CalCfg.stepLanes (k : CalCfg) (step : Nat) : List Nat := if step = 2 ∨ step = 3 then [0] else k.lanes

/-- What attempt `n` of a step on a rank finds, both subchannels and every lane in parallel (R540). A lane of which nothing is reported has
no passing point. -/
def tryStep (k : CalCfg) (acc : Tbl CalRes) (ws : List Sweep) (step rk n : Nat) : List (Nat × Nat × (Nat ⊕ List (Nat × CalRes))) :=
  [0, 1].flatMap fun sc => (k.stepLanes step).map fun l =>
    let w := (ws.find? fun w => w.step == step && w.sc == sc && w.rk == rk && w.lane == l && w.tries == n).getD
      { step := step, sc := sc, rk := rk, lane := l, tries := n }
    (sc, l, sweepResult k acc w)

/-- The first lane that fails in an attempt, in ascending order of subchannel and lane (DESIGN CHOICE, log entry 58): subchannel, lane,
reason. -/
def firstFail (r : List (Nat × Nat × (Nat ⊕ List (Nat × CalRes)))) : Option (Nat × Nat × Nat) :=
  r.findSome? fun x => match x.2.2 with | .inl n => some (x.1, x.2.1, n) | .inr _ => none

/-- A step on a rank (R553): an attempt that fails is repeated while repeats are left and the sweeps report one, which is one that the
step's budget allowed. Its results, or the failure of its last attempt. -/
def stepRank (k : CalCfg) (acc : Tbl CalRes) (ws : List Sweep) (step rk : Nat) : Nat → Nat → (Nat × Nat × Nat) ⊕ List (Nat × CalRes)
  | left, n =>
    let r := tryStep k acc ws step rk n
    match firstFail r, left with
    | none, _ => .inr (r.flatMap fun x => match x.2.2 with | .inr l => l | .inl _ => [])
    | some f, 0 => .inl f
    | some f, left + 1 =>
      if ws.any fun w => w.step == step && w.rk == rk && w.tries == n + 1 then stepRank k acc ws step rk left (n + 1) else .inl f

/-- The steps with their ranks in order (R539, R540): CA once, for each subchannel as a whole; DFE where DFE_EN has it. -/
def CalCfg.plan (k : CalCfg) : List (Nat × Nat) :=
  [2, 3, 4, 5, 6, 7, 8, 9, 10, 11].flatMap fun st =>
    (if st = 3 then k.ranks.take 1 else if st = 10 ∧ !k.dfe then [] else k.ranks).map fun rk => (st, rk)

/-- The run works through its steps: the results so far, and the first failure, which ends it (R554): step, subchannel, rank, lane,
reason. -/
def calRun (k : CalCfg) (ws : List Sweep) : List (Nat × Nat) → Tbl CalRes → Tbl CalRes × Option (Nat × Nat × Nat × Nat × Nat)
  | [], acc => (acc, none)
  | (st, rk) :: rest, acc =>
    match stepRank k acc ws st rk k.retry 0 with
    | .inl (sc, l, why) => (acc, some (st, sc, rk, l, why))
    | .inr rs => calRun k ws rest (rs.foldl (fun t r => Tbl.set (fun _ => {}) t r.1 r.2) acc)

/-- What the sweeps of a channel's run go by. -/
def State.calCfg (s : State) (c : Nat) : CalCfg :=
  let f := s.regFld (.cal c) 0x040
  let d := (s.chan c).spd
  { minW := f 2 8, minH := f 10 4, retry := f 14 2, pat := f 16 2, dfe := f 18 1 == 1, cwl := (s.timing c).cwl,
    x8 := (d.map (·.x8)).getD false, ranks := (d.map ranksOf).getD [] }

/-- A result puts its values in force (R538, R539): the PHY's delays, and the Vref codes of receiver and DRAM. -/
def Bal.putResult (s : State) (b : Bal) (x : Nat × CalRes) : Bal :=
  let lane := x.1 % 16
  let rk := x.1 / 16 % 8
  let sc := x.1 / 128 % 2
  let step := x.1 / 256
  let p := s.rankPos sc rk
  let kind := if step = 2 then some 5 else if step = 3 then some 4 else if step = 4 then some 1
              else if step = 5 then some 2 else if step = 8 then some 0 else if step = 9 then some 3 else none
  let b := match kind with
    | some k => b.anchorVal (valKey k (if k = 4 then 4 * sc else p) lane) x.2.dly
    | none => b
  if step = 8 then b.anchorVal (valKey 6 (4 * sc) lane) x.2.vref
  else if step = 9 then b.anchorVal (valKey 7 p lane) x.2.vref
  else b

/-- The RCD, data-buffer and mode-register values that a full run leaves (R538, R539, R551): the spec numbers none of them, so each is a free
value; an RDIMM has no data buffers. -/
def State.putMods (s : State) (c : Nat) : State :=
  let w := fun i => if 32 ≤ i ∧ i < 64 ∧ !s.bin.mrd then 0 else Config.freeWord (s.nextFree + i)
  { s with nextFree := s.nextFree + 96 }.updChan c fun ch => { ch with mods := (List.range 96).map w }

/-- CALIPER_RUN_END (R538, R554, R559): the run's steps in their order, to its pass or its first failure; the values of a run that passes are
in force. The lines of the channel are undefined afterwards (R542). -/
def State.caliperEnd (s : State) (c : Nat) (ws : List Sweep) : State :=
  if 17 ≤ c ∨ (s.chan c).calState ≠ 2 ∨ (s.cal c).kind ≠ 1 then s
  else
    let k := s.calCfg c
    let out := calRun k ws k.plan []
    let s := (s.loseLines c false).updCal c fun x => { x with res := out.1 }
    match out.2 with
    | some (st, sc, rk, l, why) => s.calFail c st sc rk l why
    | none =>
      let imp := (s.chan c).bal.vals.filter fun e => e.1 / 256 == 8
      let s := s.updBal c fun b => out.1.foldl (Bal.putResult s) { b with vals := imp }
      ((s.updCal c fun x => { x with step := 11, progress := 255 }).putMods c).calPass c false

/-- A CA parity alert during steps 6 to 11 of a run (R545, R553): the step in progress is repeated while repeats are left, or fails with
reason PARITY. -/
def State.calParity (s : State) (c sc : Nat) (a : AlertKind) : State :=
  let k := s.cal c
  if (s.chan c).calState ≠ 2 ∨ k.kind ≠ 1 ∨ k.step < 6 ∨ 11 < k.step ∨ a ≠ .caParity then s
  else if k.tries < s.regFld (.cal c) 0x040 14 2 then s.updCal c fun x => { x with tries := x.tries + 1, progAt := s.bclk }
  else s.calFail c k.step sc k.stepRk 0 5

end Sys2Proof.Machine
end

