-- ==== Sys2Proof/Machine/Decide.lean ====
section
/-! DEFINITION. The decision points of a slot engine (R351 to R382, R389, R487): what each slot serves, what exceptions
displace, rows left open, and the services of MRS and CAL entries. -/
namespace Sys2Proof.Machine

/-- The next position whose decision point the engine has not passed. -/
def State.nextDec (s : State) (c sc : Nat) : Pos :=
  match (s.sub c sc).lastDec with
  | some p => s.posNext p
  | none => s.posFrom (s.bclk + s.lead c * s.k)

/-- The BCLK of the decision point of a position (R352). -/
def State.decBclk (s : State) (c : Nat) (p : Pos) : Nat := s.slotBclk p - s.lead c * s.k

/-- The channel is held by the EN of one of its pages (R92). -/
def State.held (s : State) (c sc : Nat) : Bool :=
  !(s.page (.cc c)).en || !(s.page (.slt c sc)).en || !(s.page (.phy c)).en

/-- The slot engine decides nothing for a position: the slot is plan-idle (R389). -/
def State.notRunning (s : State) (c sc : Nat) (p : Pos) : Bool :=
  let ch := s.chan c
  !ch.inService || s.held c sc || !(s.sub c sc).legal || ch.calRun ||
  (match ch.sr with
   | .awake => false
   | .idleSr => true
   | .parked => true
   | .waking => match ch.wakeSlot with | some w => Pos.lt p w | none => true)

/-- A Lathe engine. -/
def State.le (s : State) (e : Nat) : Le := Tbl.get (fun _ => {}) s.les e

/-- Changes a Lathe engine. -/
def State.updLe (s : State) (e : Nat) (f : Le → Le) : State := { s with les := Tbl.upd (fun _ => {}) s.les e f }

/-- ALIVE of a requester (R433). -/
def State.alive (s : State) (c i : Nat) : Bool :=
  if i < 16 then (s.gw i).alive && (s.gw i).link != .down && (s.page (.gw i)).en && (s.page (.gwAdm i)).en
  else if i < 18 then (s.page (.lth (i - 16))).en && decide ((s.le (i - 16)).st ≤ 1)
  else if i = 18 then decide ((s.chan c).role ≤ 16) && fld (s.scrubCfg c) 0 8 != 0
  else (s.mvc.running && !s.mvc.fault) || (s.copy.on && (s.copy.src == c || s.copy.dst == c))

/-- A read's data will be thrown away: its generation has changed, or its requester's ALIVE is low or its port down (R389, R458). -/
def State.deadReq (s : State) (r : Req) : Bool :=
  s.genOf r.itag != r.gen || (decide (r.src < 20) && !s.alive r.loc.ch r.src) || (decide (r.src < 16) && (s.gw r.src).link != .up)

/-! ### The flexible section (R329, R330) -/

/-- A write holds a stamp in the section in frame `f`, the retry queue holds a write, or a Crown write to one of its banks
is pending. -/
def State.flexWants (s : State) (c sc f : Nat) : Bool :=
  let t := s.tblAt c sc f
  let b := s.sub c sc
  (b.ram.any fun r => r.req.write && r.stamp.frame == f && t.inFlex r.stamp.slot) ||
  (b.wb.any fun w => w.retry) ||
  (match b.crown with
   | some a => a.req.write && (List.range t.len).any fun x =>
       t.inFlex x && (t.entry f x).kind == 1 && (t.entry f x).bank == locBank a.req.loc
   | none => false)

/-- The section's direction is decided at its first entry (R329). -/
def State.flexDecide (s : State) (c sc : Nat) (p : Pos) : State :=
  let t := s.tblAt c sc p.frame
  if t.flexEn ∧ p.slot = t.flexFirst then
    let w := s.flexWants c sc p.frame
    s.updSub c sc fun b => { b with flex := (p.frame, w) :: b.flex.filter fun x => decide (s.esc.frame ≤ x.1) }
  else s

/-- The entry of a position as the engine runs it: in a section decided READ, its C writes and TURNs run as C reads. -/
def State.effEntry (s : State) (c sc : Nat) (p : Pos) : Entry :=
  let t := s.tblAt c sc p.frame
  let e := t.entry p.frame p.slot
  if t.inFlex p.slot ∧ (s.sub c sc).flexRead p.frame ∧ ((e.kind = 1 ∧ e.dir) ∨ e.kind = 3) then
    { e with kind := 1, dir := false, col := false, sel := 0 }
  else e

/-! ### Heads, eligibility and what an entry would serve (R344, R361 to R363) -/

/-- The head of a FIFO. -/
def Sub.head (b : Sub) (bank : Nat) (g dir : Bool) : Option Rec :=
  b.ram.find? fun r => locBank r.req.loc == bank && r.g == g && r.req.write == dir

/-- A predecessor is resolved for a request (R362): between two writes, only once the alert window of the first has closed. -/
def Sub.resolved (b : Sub) (pred : Option Nat) (write : Bool) : Bool :=
  match pred with
  | none => true
  | some n =>
    if b.ram.any fun r => r.sn == n then false
    else if (match b.crown with | some a => a.sn == n | none => false) then false
    else match b.wb.find? fun w => w.sn == n with
      | some w => w.slot.isSome && !w.retry && (!write || w.closed)
      | none => !(write && b.crnWr.any fun x => x.1 == n)

/-- A record is eligible (R362). -/
def Sub.eligible (b : Sub) (r : Rec) : Bool := b.resolved r.pred r.req.write

/-- How an entry serves a record. -/
inductive How where
  | gHead | fall | cEntry | colHit | refRole
  deriving DecidableEq, Repr

/-- The event code of a way of serving (R922). -/
def How.code : How → Nat
  | gHead => 0x05 | fall => 0x06 | cEntry => 0x07 | colHit => 0x08 | refRole => 0x0A

/-- What an entry finds: a record it serves, an ineligible head, or nothing. -/
inductive Found where
  | serve (r : Rec) (h : How)
  | ineligible (r : Rec)
  | miss
  | empty
  deriving DecidableEq, Repr

/-- The C head of an entry's bank and direction, in a role. -/
def Sub.cHead (b : Sub) (e : Entry) (h : How) : Found :=
  match b.head e.bank false e.dir with
  | some r => if b.eligible r then .serve r h else .ineligible r
  | none => .empty

/-- What the entry of a position would serve by the table of R361, exceptions apart. -/
def State.found (s : State) (c sc : Nat) (p : Pos) (e : Entry) : Found :=
  let b := s.sub c sc
  if e.kind = 0 then
    if s.shadowed c sc p then b.cHead e .fall
    else match b.head e.bank true e.dir with
      | some r =>
        if Pos.le r.stamp p then
          (if b.eligible r then .serve r .gHead
           else match b.cHead e .fall with
             | .serve q h => .serve q h
             | _ => .ineligible r)
        else b.cHead e .fall
      | none => b.cHead e .fall
  else if e.col then
    let row := Tbl.get (fun _ => 0) b.openRows e.bank
    match b.head e.bank false e.dir with
    | some r =>
      if !b.eligible r then .ineligible r
      else if row = r.req.loc.row + 1 then .serve r .colHit else .miss
    | none => .empty
  else b.cHead e (if e.isRef then .refRole else .cEntry)

/-! ### Exceptions (R378, R380, R490 to R493) -/

/-- A request is counted under an exception, once, a read that a takeover moved under the takeover stall (R380, R492). -/
def State.countExc (s : State) (c sc sn n : Nat) (p : Pos) : State :=
  match (s.sub c sc).ram.find? fun r => r.sn == sn with
  | none => s
  | some r =>
    if r.exc.isSome then s
    else
      let n := if r.req.due.isSome then 5 else n
      let s := s.updSub c sc fun b =>
        { b with ram := replaceFirst (fun x => x.sn == sn) (fun x => { x with exc := some n, late := true }) b.ram,
                 exc := Tbl.upd (fun _ => 0) b.exc n (wrapAdd 32 · 1) }
      s.ev (evReq c 0x16 (.is 3 (n + 1)) r.req (some p))

/-- The claim pointer of a G FIFO advances by one countable G entry (R378). -/
def State.advanceClaim (s : State) (c sc : Nat) (r : Rec) : State :=
  let key := fifoKey (locBank r.req.loc) true r.req.write
  let claim := Tbl.get (fun _ => {}) (s.sub c sc).claims key
  match s.firstPos (s.countableG c (s.tables c sc) (locBank r.req.loc) r.req.write) 64 (s.posNext claim) with
  | some q => s.updSub c sc fun b => { b with claims := Tbl.set (fun _ => {}) b.claims key q }
  | none => s

/-- The exception that a held head suffers through line order (R376, R380): that of its predecessor, or write-CRC retry
behind a retried write. -/
def Sub.predExc (b : Sub) (r : Rec) : Option Nat :=
  match r.pred with
  | none => none
  | some n =>
    match b.ram.find? fun x => x.sn == n with
    | some x => x.exc
    | none => if b.wb.any (fun w => w.sn == n && w.retry) then some 3 else none

/-- A head whose stamp or bound has come and that line order holds behind a displaced request is counted under the same exception
(R376, R380). -/
def State.countHeld (s : State) (c sc : Nat) (p : Pos) (r : Rec) : State :=
  match (s.sub c sc).predExc r with
  | some n => if Pos.le r.stamp p then s.countExc c sc r.sn n p else s
  | none => s

/-- The G head of an entry that line order holds while the entry falls through to the C head (R361). -/
def State.heldG (s : State) (c sc : Nat) (p : Pos) (e : Entry) (h : How) : State :=
  match (s.sub c sc).head e.bank true e.dir with
  | some q => if h = .fall ∧ !s.shadowed c sc p ∧ !(s.sub c sc).eligible q then s.countHeld c sc p q else s
  | none => s

/-- An exception takes an entry: the request it would have served keeps its place (R378), and so do those that line order holds
(R380). -/
def State.displace (s : State) (c sc : Nat) (p : Pos) (e : Entry) (n : Nat) : State :=
  match s.found c sc p e with
  | .serve r h =>
    let s := (s.heldG c sc p e h).countExc c sc r.sn n p
    if h = .gHead then s.advanceClaim c sc r else s
  | .ineligible r => s.countHeld c sc p r
  | _ => s

/-! ### Rows left open (R365 to R367) -/

/-- The entry of a position as it may come to run: a TURN of a section not decided WRITE may run as a C read (R329, R365). -/
def State.mayRun (s : State) (c sc : Nat) (p : Pos) : Entry :=
  let e := s.effEntry c sc p
  if e.kind = 3 ∧ (s.tblAt c sc p.frame).inFlex p.slot ∧ !(s.sub c sc).flex.contains (p.frame, true) then { e with kind := 1 } else e

/-- The first position after a given one whose entry names a bank, and satisfies a test; within 64 frames. -/
def State.nextOfBank (s : State) (c sc bank : Nat) (p : Pos) (ok : Entry → Bool) : Option Pos :=
  s.firstPos (fun q => let e := s.mayRun c sc q; e.isData && e.bank == bank && ok e) 64 (s.posNext p)

/-- An OPEN request's column command leaves the row open (R365, R324). -/
def State.keepOpen (s : State) (c sc : Nat) (p : Pos) (r : Req) : Bool :=
  let bank := locBank r.loc
  r.open_ && !s.bin.mrd &&
  match s.nextOfBank c sc bank p (fun _ => true), s.nextOfBank c sc bank p (fun e => !e.col) with
  | some q, some nc =>
    let e := s.mayRun c sc q
    let col := (cmdPos s.bin (s.timing c) r.write (s.absSlot p)).col
    let act := (cmdPos s.bin (s.timing c) (s.mayRun c sc nc).dir (s.absSlot nc)).act
    let e0 : Entry := { rk := r.loc.rk, bg := r.loc.bg, ba := r.loc.ba }
    e.col && !s.shadowed c sc q &&
    !((s.sub c sc).emergs.any fun m => m.rk == r.loc.rk && (m.ba.isNone || m.ba == some r.loc.ba)) &&
    !((rangeFrom p.frame (nc.frame + 2 - p.frame)).any fun f => (s.liveWins c sc f).any fun w =>
        bankUnder w.2.1.1 w.2.1.2 e0 && decide (col < (s.winTck c w.1 : Int)) && decide ((s.winTck c w.1 : Int) < act))
  | _, _ => false

/-- The latest free CA cycle at or before a tCK. -/
def Sub.lastFree (b : Sub) : Nat → Nat → Nat
  | 0, t => t
  | n + 1, t => if b.caFree t then t else b.lastFree n (t - 1)

/-- The open row of a bank is precharged in the latest free CA cycle at or before ACT − tRP of the entry whose ACT falls at `act` (R323,
R367). -/
def State.closeRow (s : State) (c sc bank act : Nat) : State :=
  if Tbl.get (fun _ => 0) (s.sub c sc).openRows bank = 0 then s
  else
    let rp := (s.timing c).rp
    let t := (s.sub c sc).lastFree 256 (act - rp)
    let s := s.updSub c sc fun b =>
      { b with openRows := Tbl.set (fun _ => 0) b.openRows bank 0, ca := b.ca ++ [(t, 1)],
               preDone := Tbl.set (fun _ => 0) b.preDone bank (max (Tbl.get (fun _ => 0) b.preDone bank) (t + rp)) }
    s.ev { box := c, code := 0x13, qual := .sc sc }

/-- Rows left open are precharged for their banks' next non-COL entries, whatever those will serve (R367): a PRE is placed at the decision
point of the last slot before its cycle, when every command that could share the cycle is known. -/
def State.preDue (s : State) (c sc : Nat) (p : Pos) : State :=
  let next := s.tckOfSlot p + s.bin.slotTck - s.lead c * s.bin.slotTck
  (s.sub c sc).openRows.foldl (fun s x =>
    match s.nextOfBank c sc x.1 p (fun e => !e.col) with
    | some q =>
      let act := (cmdPos s.bin (s.timing c) (s.mayRun c sc q).dir (s.absSlot q)).act.toNat
      if act < next + (s.timing c).rp then s.closeRow c sc x.1 act else s
    | none => s) s

/-! ### Serving -/

/-- The command positions of a request that the entry of a position serves, `col` for a COL entry (R311). -/
def State.usePos (s : State) (c sc : Nat) (p : Pos) (col : Bool) (r : Req) : CmdPos :=
  s.posOf c sc p { kind := 1, dir := r.write, rk := r.loc.rk, bg := r.loc.bg, ba := r.loc.ba, col := col }

/-- The cycles of its ACT, which a COL entry does not issue, and of its column command (R368). -/
def State.useCmds (s : State) (c sc : Nat) (p : Pos) (col : Bool) (r : Req) : List Nat :=
  let cp := s.usePos c sc p col r
  (if col then [] else [cp.act.toNat]) ++ [cp.col.toNat]

/-- The tCK of the command bus that a command of two cycles takes (R314; log entry 12). -/
def caTwo (b : Bin) : Nat := if b.mrd then 1 else 2

/-- A service command of a slot takes the CA cycles at its read position (R311, R314, R409). -/
def State.noteCa (s : State) (c sc : Nat) (p : Pos) (n : Nat) : State :=
  s.updSub c sc fun b => { b with ca := b.ca ++ [((cmdPos s.bin (s.timing c) false (s.absSlot p)).col.toNat, n)] }

/-- A mode-register or pattern read is decided for a slot: its burst (R595) and its command. -/
def State.noteBurst (s : State) (c sc : Nat) (p : Pos) (rk : Nat) (write : Bool) : State :=
  (s.updSub c sc fun b => { b with bursts := b.bursts ++ [(p, rk, write)] }).noteCa c sc p (caTwo s.bin)

/-- The commands of a data entry that serves a request (R311, R365 to R368): the ACT, counted by Burl, the column command,
and whether the row stays open. -/
def State.commands (s : State) (c sc : Nat) (p : Pos) (col : Bool) (r : Req) : State :=
  let cp := s.usePos c sc p col r
  let bank := locBank r.loc
  let act := cp.act.toNat
  let s := if col then s
    else
      let s := s.closeRow c sc bank act
      let s := s.updSub c sc fun b => { b with acts := b.acts ++
        [{ at_ := s.bclkOfTck act, frame := (s.posAt (max s.bclk (s.bclkOfTck act))).frame, loc := r.loc, src := r.src,
           itag := r.itag }] }
      s.ev { box := c, code := 0x12, qual := .sc sc }
  let op := s.keepOpen c sc p r
  let s := if r.open_ ∧ !op then s.ev (evReq c 0x0D (.sc sc) r (some p)) else s
  s.updSub c sc fun b =>
    { b with
      openRows := Tbl.set (fun _ => 0) b.openRows bank (if op then r.loc.row + 1 else 0),
      preDone := Tbl.set (fun _ => 0) b.preDone bank (cp.pre + (s.timing c).rp).toNat,
      bursts := b.bursts ++ [(p, r.loc.rk, r.write)],
      ca := (if col then b.ca else b.ca ++ [(act, caTwo s.bin)]) ++ [(cp.col.toNat, caTwo s.bin)] }

/-- A read bound to a buffered write returns POISON (R373, R377): the write carried it, or ended in it before the read came. -/
def WLine.poisonFor (w : WLine) (sn : Nat) : Bool := w.req.poison || (w.final && decide (w.finalSn ≤ sn))

/-- What a write stores (R371, R377). -/
def WLine.raw (w : WLine) : RawLine := if w.final ∨ w.req.poison then poisonLine else encodeLine w.req.data

/-- The burst of a buffered write crosses in a position, after its commands: the line is stored, the attempt counted (R368, R375, R377). -/
def State.burst (s : State) (c sc : Nat) (p : Pos) (w : WLine) (cmds : List Nat) : State :=
  let s := s.writeLine w.req.loc w.raw
  let s := s.mirror w.mir w.req.loc w.req.data (w.final || w.req.poison) w.sn (s.slotBclk p + s.k)
  s.updSub c sc fun b =>
    let wb := replaceFirst (fun x => x.sn == w.sn)
      (fun x => { x with slot := some p, attempts := x.attempts + 1, retry := false, moved := none, closed := false, cmds := cmds }) b.wb
    { b with wb := wb }

/-- A record is served in a position (R361, R364, R368, R389). -/
def State.serve (s : State) (c sc : Nat) (p : Pos) (r : Rec) (h : How) (z : Sense) : State :=
  let b := s.sub c sc
  let s := match r.req.due with
    | some d => if Pos.lt d p then s.countExc c sc r.sn 5 p else s
    | none => s
  let counted := (s.sub c sc).ram.any fun x => x.sn == r.sn && x.exc.isSome
  let s := s.updSub c sc fun b => { b with
    ram := eraseFirst (fun x => x.sn == r.sn) b.ram,
    wb := if counted then replaceFirst (fun x => x.sn == r.sn) (fun x => { x with exc := true }) b.wb else b.wb }
  let s := s.ev (evReq c h.code (.sc sc) r.req (some p))
  if r.req.write then
    match b.wb.find? fun w => w.sn == r.sn with
    | some w => ((s.commands c sc p (h == .colHit) r.req).burst c sc p w (s.useCmds c sc p (h == .colHit) r.req)).quad c sc .writeMoved (some p) (some r.req)
    | none => s
  else
    let late := Pos.lt (r.req.due.getD r.stamp) p
    let v : Served := { sn := r.sn, req := r.req, slot := p, late := late }
    let s := if r.kind = .fwd then
        let w := (b.wb.find? fun w => some w.sn == r.wbuf).getD {}
        let s := s.updSub c sc fun b =>
          { b with served := b.served ++ [{ v with fwd := true, fwdData := w.req.data, fwdPoison := w.poisonFor r.sn }] }
        s.ev (evReq c 0x0B (.sc sc) r.req (some p))
      else
        let raw := s.readLine r.req.loc
        let s := s.commands c sc p (h == .colHit) r.req
        let v := { v with raw := raw, cmds := s.useCmds c sc p (h == .colHit) r.req }
        let s := s.updSub c sc fun b => { b with served := b.served ++ [v] }
        s.track c (s.rankPos sc r.req.loc.rk) z
    let s := s.quad c sc .readMoved (some p) (some r.req)
    if s.deadReq r.req then (s.discard c sc (some p)).raise (.slt c sc) 7 else s

/-- A pending Crown access takes an entry (R379): the line is read or stored, and the block answers at READ_DECODE or for a
write once stored. -/
def State.serveCrown (s : State) (c sc : Nat) (p : Pos) (a : CrnAcc) : State :=
  let s := s.updSub c sc fun b => { b with crown := none }
  let s := { s with crnPreempt := wrapAdd 32 s.crnPreempt 1 }
  if a.req.write then
    let s := s.commands c sc p false a.req
    let s := s.writeLine a.req.loc (if a.req.poison then poisonLine else encodeLine a.req.data)
    let s := s.mirror a.mir a.req.loc a.req.data a.req.poison a.sn (s.slotBclk p + s.k)
    let s := s.updSub c sc fun b =>
      { b with served := b.served ++ [{ sn := a.sn, req := a.req, slot := p, crown := true }],
               crnWr := b.crnWr ++ [(a.sn, s.slotBclk (s.posAdd p 33))] }
    s.quad c sc .writeMoved (some p) none
  else
    let w := (s.sub c sc).wb.find? fun w => some w.sn == a.wbuf
    let v : Served := { sn := a.sn, req := a.req, slot := p, crown := true }
    let s := match w with
      | some w => s.updSub c sc fun b =>
          { b with served := b.served ++ [{ v with fwd := true, fwdData := w.req.data, fwdPoison := w.poisonFor a.sn }] }
      | none =>
        let raw := s.readLine a.req.loc
        let v := { v with raw := raw, cmds := s.useCmds c sc p false a.req }
        (s.commands c sc p false a.req).updSub c sc fun b => { b with served := b.served ++ [v] }
    s.quad c sc .readMoved (some p) none

/-- A retried write counts under the write-CRC exception, once with every exception that displaced it (R276, R492). -/
def State.countRetry (s : State) (c sc : Nat) (p : Pos) (w : WLine) : State :=
  if w.exc then s
  else
    let s := s.updSub c sc fun b =>
      { b with wb := replaceFirst (fun x => x.sn == w.sn) (fun x => { x with exc := true }) b.wb,
               exc := Tbl.upd (fun _ => 0) b.exc 3 (wrapAdd 32 · 1) }
    s.ev (evReq c 0x16 (.is 3 4) w.req (some p))

/-- A write in the retry queue takes an entry (R375, R377, R394): the earliest by its original slot. -/
def State.serveRetry (s : State) (c sc : Nat) (p : Pos) (w : WLine) : State :=
  let s := (s.commands c sc p false w.req).burst c sc p w (s.useCmds c sc p false w.req)
  let s := if w.final then s
    else
      let s := s.updSub c sc fun b =>
        { b with wcrcRetry := wrapAdd 16 b.wcrcRetry 1, wcrcCapar := if w.capar then wrapAdd 8 b.wcrcCapar 1 else b.wcrcCapar }
      let s := s.ev { box := c, code := 0x20, qual := .sc sc }
      s.countRetry c sc p w
  s.quad c sc .writeMoved (some p) (some w.req)

/-- The retry queue's write of a bank at a decision point in BCLK `t`, after the alert's (R375): the first by original slot. -/
def Sub.retryOf (b : Sub) (bank t : Nat) : Option WLine :=
  (b.wb.filter fun w => w.retry && decide (w.retryAt < t) && locBank w.req.loc == bank).foldl (fun a w =>
    match a with
    | some x => if Pos.lt (w.slot.getD {}) (x.slot.getD {}) then some w else a
    | none => some w) none

/-- The retried write that takes the entry of a position (R361, R375). -/
def State.retryFor (s : State) (c sc : Nat) (p : Pos) (e : Entry) : Option WLine :=
  if e.isData ∧ e.dir ∧ !e.col then (s.sub c sc).retryOf e.bank (s.decBclk c p) else none

/-- The Crown access that takes the entry of a position (R361, R379). -/
def State.crownFor (s : State) (c sc : Nat) (p : Pos) (e : Entry) : Option CrnAcc :=
  (s.sub c sc).crown.filter fun a => e.isData && !e.col && locBank a.req.loc == e.bank && a.req.write == e.dir &&
    (s.sub c sc).resolved a.pred a.req.write && decide (a.at_ < s.decBclk c p)

/-- The retry or Crown access that would have taken a suppressed entry waits: what it displaces later counts under the exception that
suppressed this one (R380, R413). -/
def State.delay (s : State) (c sc : Nat) (p : Pos) (e : Entry) (n : Nat) : State :=
  match s.retryFor c sc p e, s.crownFor c sc p e with
  | some w, _ => s.updSub c sc fun b =>
      { b with wb := replaceFirst (fun x => x.sn == w.sn) (fun x => { x with moved := some (x.moved.getD n) }) b.wb }
  | none, some _ => s.updSub c sc fun b => { b with crown := b.crown.map fun a => { a with moved := some (a.moved.getD n) } }
  | none, none => s

/-! ### Service entries (R281, R592, R593) -/

/-- The value that device `i` of a rank returns to a mode-register read (R299, R300): the last one listed stands for every device after
it. -/
def senseMr (z : Sense) (i : Nat) : Nat := z.mr.getD i (z.mr.getLastD 0) % 256

/-- The queued mode-register command is issued in an MRS entry of its rank, or denied (R281, R282, R300). -/
def State.mrExec (s : State) (c sc rk : Nat) (z : Sense) : State :=
  let ch := s.chan c
  let cmd := ch.mrCmd
  if ch.mrBusy ∧ fld cmd 19 1 = sc ∧ fld cmd 16 3 = rk then
    let wr := flag cmd 20
    let deny := wr && (ch.inService || ch.calState != 3)
    let n := if ch.isX8 then 5 else 10
    let dev := if fld cmd 22 4 < n then fld cmd 22 4 else 0
    let differ := (List.range n).any fun i => senseMr z i != senseMr z dev
    s.updChan c fun ch =>
      if deny then { ch with mrBusy := false, mrDone := true, mrDenied := true }
      else { ch with mrBusy := false, mrDone := true, mrDenied := false,
                     mrValue := if wr then ch.mrValue else senseMr z dev, mrDiffer := if wr then ch.mrDiffer else differ }
  else s

/-- The MRS entry of a rank carries the burst of a mode-register read (R593, R595). -/
def State.mrsReads (s : State) (c sc rk t : Nat) : Bool :=
  let p := s.rankPos sc rk
  let b := s.sub c sc
  let ch := s.chan c
  b.mr4Due.contains p || b.ecsDue.contains p || s.balReads c sc rk t ||
    (ch.mrBusy && fld ch.mrCmd 19 1 == sc && fld ch.mrCmd 16 3 == rk && !flag ch.mrCmd 20)

/-- One operation in an MRS entry of a rank (R593): an autonomous read that is due, then Balance, then CC_MR_CMD. -/
def State.mrsEntry (s : State) (c sc : Nat) (slot : Pos) (rk : Nat) (z : Sense) : State :=
  let t := s.slotBclk slot
  let s := if s.mrsReads c sc rk t then s.noteBurst c sc slot rk false else s.noteCa c sc slot (caTwo s.bin)
  let p := s.rankPos sc rk
  let b := s.sub c sc
  if b.mr4Due.contains p then
    s.updSub c sc fun b => { b with mr4Due := b.mr4Due.erase p, mrsRead := b.mrsRead ++ [(0, p)] }
  else if b.ecsDue.contains p then
    s.updSub c sc fun b => { b with ecsDue := b.ecsDue.erase p, mrsRead := b.mrsRead ++ [(1, p)] }
  else match s.balMrs c sc rk t z with
    | some s => s
    | none => s.mrExec c sc rk z

/-! ### The decision -/

/-- The BCLK of the tick that opens a route hold's frame (R486): the coming tick when announced, the past when holding. -/
def State.holdTick (s : State) : Option Nat :=
  if s.trt.hold then some s.esc.tickBclk else if s.trt.announced then some s.nextTick else none

/-- Every old-epoch packet has left the torus by ejection before BCLK `t` (R737). -/
def State.routeDrained (s : State) (t : Nat) : Bool :=
  s.pkts.all fun p => if p.waiting then !p.stuck else decide (p.arr + p.body.flits ≤ t)

/-- A read entry is suppressed by a route-epoch hold (R487). -/
def State.holdTakes (s : State) (p : Pos) (e : Entry) : Bool :=
  e.isData && !e.dir &&
  match s.holdTick with
  | none => false
  | some t => !decide (s.slotBclk p + s.k + 7 < t) && !(s.trt.hold && s.routeDrained s.bclk && decide (s.esc.frame < p.frame))

/-- The exception, if any, that suppresses the entry of a position; `some none` for a window's shadow, which displaces
nothing. -/
def State.suppressed (s : State) (c sc : Nat) (p : Pos) (e : Entry) : Option (Option Nat) :=
  if e.kind = 3 then none
  else if s.emergOn c sc e then some (some 0)
  else match s.shadowRef c sc p e with
    | some r => some (if r.emerg then some 0 else none)
    | none => if s.stopTakes c sc p e then some (some 2) else if s.holdTakes p e then some (some 4) else none

/-- The head found is held by line order (R362, R380). -/
def State.heldHead (s : State) (c sc : Nat) (p : Pos) (r : Rec) : State :=
  (s.ev { box := c, code := 0x0C, qual := .sc sc }).countHeld c sc p r

/-- A read slot is lent to Balance where it has work for the rank (R389, R592). -/
def State.lendSlot (s : State) (c sc : Nat) (p : Pos) (rk : Nat) (z : Sense) : State :=
  match s.lend c sc rk (s.slotBclk p) z with
  | some s => s.noteBurst c sc p rk false
  | none => s

/-- An entry that serves no request: a read slot may be lent to Balance (R389, R592). -/
def State.idleEntry (s : State) (c sc : Nat) (p : Pos) (e : Entry) (z : Sense) : State :=
  let s := if e.dir ∨ e.col then s else s.lendSlot c sc p e.rk z
  s.quad c sc .demandIdle (some p) none

/-- The entry of a position takes its work in the order of R361. -/
def State.serveEntry (s : State) (c sc : Nat) (p : Pos) (e : Entry) (z : Sense) : State :=
  match s.retryFor c sc p e with
  | some w => ((s.displace c sc p e (w.moved.getD 3)).serveRetry c sc p w)
  | none =>
    match s.crownFor c sc p e with
    | some a => (s.displace c sc p e (a.moved.getD 1)).serveCrown c sc p a
    | none =>
      match s.found c sc p e with
      | .serve r h => (s.heldG c sc p e h).serve c sc p r h z
      | .ineligible r =>
        let s := s.heldHead c sc p r
        let s := if e.col then s.ev { box := c, code := 0x09, qual := .sc sc } else s
        s.idleEntry c sc p e z
      | .miss => (s.ev { box := c, code := 0x09, qual := .sc sc }).quad c sc .demandIdle (some p) none
      | .empty =>
        let s := if e.col then s.ev { box := c, code := 0x09, qual := .sc sc } else s
        s.idleEntry c sc p e z

/-- A zero fill writes through the slot engine (R511, R878, R882): the fill table is in force and the fill is not complete. -/
def State.fills (s : State) (c sc : Nat) : Bool :=
  let k := (s.page (.slt c sc)).commit
  k.fill && k.applied && ((s.phase == 8 && s.filling.contains c) || (s.chan c).rjn == 4 || (s.task.kind == 5 && s.task.dst == c))

/-- What the engine does at the decision point of a running subchannel (R361, R389). -/
def State.decideAt (s : State) (c sc : Nat) (p : Pos) (z : Sense) : State :=
  let s := s.flexDecide c sc p
  let s := s.decideWins c sc p
  let e := s.effEntry c sc p
  let plan := fun (s : State) => s.quad c sc .planIdle (some p) none
  if (s.chan c).drain ∧ e.isData ∧ !e.dir then plan s
  else match s.suppressed c sc p e with
  | some x => plan (match x with | some n => (s.displace c sc p e n).delay c sc p e n | none => s)
  | none =>
    if e.kind = 3 then plan s
    else if e.isMrs then plan (s.mrsEntry c sc p e.rk z)
    else if e.isCal then plan (if (s.chan c).bal.probeDue (s.rankPos sc e.rk) then s.lendSlot c sc p e.rk z else s)
    else if (s.sub c sc).winDec.any fun q => q.1 == p && q.2 then plan s
    else if e.dir ∧ s.fills c sc then s.quad c sc .writeMoved (some p) none
    else
      let s := if e.col then s else s.closeRow c sc e.bank (cmdPos s.bin (s.timing c) e.dir (s.absSlot p)).act.toNat
      s.serveEntry c sc p e z

/-- Windows, refreshes and CA cycles long past are forgotten. -/
def State.prune (s : State) (c sc : Nat) (p : Pos) : State :=
  let now := s.tckOfSlot p - 2048
  s.updSub c sc fun b =>
    { b with winDec := b.winDec.filter (fun q => Pos.le p q.1), refs := b.refs.filter (fun r => decide (now ≤ r.tck + r.len)),
             ca := b.ca.filter (fun x => decide (now ≤ x.1)), bursts := b.bursts.filter fun x => decide (s.esc.frame ≤ x.1.frame) }

/-- On a trained channel that is offline, the engine offers the mode-register service of its table to CC_MR_CMD alone (R281, R282). A
command that waits is denied once the channel is in reset or a run is in progress (R282, R533). -/
def State.mrOffline (s : State) (c sc : Nat) (p : Pos) (z : Sense) : State :=
  let ch := s.chan c
  let e := s.effEntry c sc p
  if ch.mrBusy ∧ (ch.resetN ∨ ch.calRun) then s.updChan c fun ch => { ch with mrBusy := false, mrDone := true, mrDenied := true }
  else if ch.inService ∨ s.held c sc ∨ !(s.sub c sc).legal ∨ ch.calRun ∨ ch.resetN ∨ ch.sr ≠ .awake ∨ !e.isMrs then s
  else s.mrExec c sc e.rk z

/-- A decision point (R352): the next undecided slot of the subchannel, at its own BCLK. -/
def State.decisionPoint (s : State) (c sc : Nat) (z : Sense) : State :=
  let p := s.nextDec c sc
  let t := s.decBclk c p
  if !s.esc.running ∨ !s.canReach t then s
  else
    let s := s.goto t
    let s := s.drainActs c sc s.bclk
    let s := s.updSub c sc fun b => { b with lastDec := some p, crnWr := b.crnWr.filter fun x => decide (s.bclk < x.2) }
    if s.notRunning c sc p then
      let e := s.effEntry c sc p
      (s.mrOffline c sc p z).quad c sc (if e.isData && e.dir && s.fills c sc then .writeMoved else .planIdle) (some p) none
    else ((s.decideAt c sc p z).preDue c sc p).prune c sc p

end Sys2Proof.Machine
end

