-- ==== Sys2Proof/Machine/ReadPath.lean ====
section
/-! DEFINITION. What follows a slot: the decode of a read and its response (R369, R370, R644 to R652), ALERT_n and its
window (R276 to R279, R375 to R377, R962), and the release of write-buffer lines (R372). -/
namespace Sys2Proof.Machine

/-! ### The patrol scrubber's pass (R648 to R652) -/

/-- The scrubber's action on the decode of the line it read (R651). -/
def State.scrubActs (s : State) (c : Nat) (l : Loc) (d : Decode) (mark : Option Nat) : State :=
  let back := fun (s : State) (data : Line) (poison : Bool) =>
    s.updScrub c fun x =>
      { x with q := x.q ++ [{ req := { src := 18, write := true, poison := poison, loc := l, data := data, use := 2,
                                       created := s.bclk, hdrAt := s.bclk }, raised := s.bclk }] }
  let done := fun (s : State) => s.updScrub c fun x => { x with fly := none }
  if d.res = 2 then back s 0 true
  else if d.res = 1 then done (s.ev { box := c, code := 0x1E })
  else if d.corr ∧ d.pos ≠ mark ∧ flag (s.scrubCfg c) 8 then back s d.data false
  else done s

/-- The last line of a pass has been read (R641, R648, R650, R665, R666). -/
def State.scrubPass (s : State) (c : Nat) : State :=
  if (s.chan c).scrub.pos < s.chanLines then s
  else
    let late := decide (fld (s.scrubCfg c) 0 8 * 3600 * s.bin.us 1000000 < (s.chan c).scrub.awake)
    let s := s.updScrub c fun x => { x with pos := 0, passes := wrapAdd 16 x.passes 1, latePass := late, awake := 0 }
    let s := s.updElog c fun g => { g with corr := [] }
    (s.raise (.cc c) 6).raiseIf late (.cc c) 7

/-! ### Decode and response -/

/-- The write-buffer lines that may be released are (R372): each has crossed the bus, its alert window has closed, and no read is bound to
it. -/
def Sub.release (b : Sub) : Sub :=
  { b with wb := b.wb.filter fun w => !(w.slot.isSome && w.closed && !w.retry && w.bound.isEmpty && !w.mir) }

/-- The response of a served read in its status (R369, R370, R644, R646): named reads and forwarded reads are not decoded. -/
def Served.answer (v : Served) (d : Decode) : Resp :=
  let poison := if v.named then true else if v.fwd then v.fwdPoison else d.res != 0
  { req := v.req, status := if v.req.write then 0 else b2n poison, rkind := if v.req.write then 2 else 1,
    stamp := v.slot.stamp, late := v.late, corr := !v.named && !v.fwd && !poison && d.corr, thr := v.req.thr,
    data := if v.req.write ∨ poison then 0 else if v.fwd then v.fwdData else d.data }

/-- A copy read's data is back (R865, R868, R869): its write takes its place for the destination, a poisoned one in the poison
encoding. -/
def State.copyBack (s : State) (l : Loc) (a : Resp) (t : Nat) : State :=
  let p := a.status != 0
  let n := a.req.tag
  if !s.copy.out.contains n then s
  else
    let s := { s with copy := { s.copy with out := s.copy.out.filter (· != n), lastRead := t, poisoned := s.copy.poisoned + b2n p } }
    if s.copy.on then s.copyWrite l a.data p 4 0 t else s

/-- READ_DECODE (R369): the oldest served request of the subchannel leaves the decoder one slot and 7 BCLK after its slot
began. `err` is what the devices and the bus turned over in the stored line. -/
def State.readDecode (s : State) (c sc : Nat) (err : RawLine) : State :=
  match (s.sub c sc).served with
  | [] => s
  | v :: rest =>
    let t := s.slotBclk v.slot + s.k + 7
    if !s.canReach t then s
    else
      let s := s.goto t
      let mark := (s.chan c).elog.markOf (s.rankPos sc v.req.loc.rk)
      let d := decodeLine mark (v.raw ^^^ err)
      let a := v.answer d
      let s := s.updSub c sc fun b =>
        let wb := b.wb.map fun w => { w with bound := w.bound.filter (· != v.sn) }
        { b with served := rest, wb := wb : Sub }.release
      let s := if v.named ∨ v.fwd ∨ v.req.write then s
        else s.noteDecode c v.req.loc d v.req v.slot.frame (if v.req.src = 18 then 0 else a.status)
      let s := s.raiseIf v.late (.slt c sc) 5
      if v.req.src = 18 then
        ((if v.named ∨ v.fwd then s.updScrub c fun x => { x with fly := none } else s.scrubActs c v.req.loc d mark).scrubPass c).scrubRaise c
      else if v.req.use = 3 then s.copyBack v.req.loc a t
      else s.respond c t a

/-! ### ALERT_n -/

/-- The code of an alert's source in event 0x1F (R922). -/
def alertCode : AlertKind → Nat
  | .writeCrc => 1 | .caParity => 2 | .backOff _ _ _ => 3 | .unclassified => 4

/-- One of a request's commands lies in a window of slots, up to the slot `to_` (R276, R277). -/
def State.cmdIn (s : State) (cmds : List Nat) (from_ to_ : Pos) : Bool :=
  cmds.any fun t => decide (s.tckOfSlot from_ ≤ t) && decide (t < s.tckOfSlot to_)

/-- A write named by an alert enters the retry queue; after its fourth attempt it ends in the poison encoding (R375, R377,
R390). -/
def State.nameWrite (s : State) (c sc : Nat) (w : WLine) (ca : Bool) : State :=
  let end_ := decide (4 ≤ w.attempts)
  let s := s.updSub c sc fun b =>
    let wb := replaceFirst (fun x => x.sn == w.sn) (fun x => { x with retry := true, retryAt := s.bclk, moved := none, capar := ca, final := end_, finalSn := s.nextSn }) b.wb
    { b with wb := wb, wcrcFail := if end_ then satAdd 255 b.wcrcFail 1 else b.wcrcFail }
  let old := match w.slot with | some p => decide (s.decBclk c p < (s.cnt c).quadAt) | none => false
  let s := if old then s else s.discard c sc none
  if end_ then
    let f := (w.slot.getD {}).frame
    let s := s.log c 7 (logEnt 7 w.req.loc 0 15 0 w.req.src w.req.itag w.req.gen 0
      ((s.chan c).elog.markOf (s.rankPos sc w.req.loc.rk)).isSome f)
    s.raise (.slt c sc) 2
  else s

/-- A read named by a CA parity alert is answered POISON and logged (R276, R962). -/
def State.nameRead (s : State) (c sc : Nat) (v : Served) : State :=
  let s := s.updSub c sc fun b =>
    { b with served := replaceFirst (fun x => x.sn == v.sn) (fun x => { x with named := true }) b.served }
  s.log c 6 (logEnt 6 v.req.loc 1 15 0 v.req.src v.req.itag v.req.gen 0
    ((s.chan c).elog.markOf (s.rankPos sc v.req.loc.rk)).isSome v.slot.frame)

/-- The handling of the open window has ended (R277). -/
def Sub.alertDone (b : Sub) : Bool := !(b.wb.any fun w => w.retry) && !(b.served.any fun v => v.named)

/-- CA parity alerts are counted for R279: 16 within 1,024 frames raise a channel event. -/
def State.caParityCount (s : State) (c sc : Nat) : State :=
  let now := s.esc.frame
  let fs := ((s.sub c sc).caFrames.filter fun f => decide (now < f + 1024)) ++ [now]
  if 16 ≤ fs.length then (s.updSub c sc fun b => { b with caFrames := [] }).chanEvent c 1
  else s.updSub c sc fun b => { b with caFrames := fs }

/-- ALERT_N (R276 to R278): an assertion sampled in the present BCLK. -/
def State.alertN (s : State) (c sc : Nat) (k : AlertKind) : State :=
  if !s.esc.running then s
  else
    let b := s.sub c sc
    let here := s.posAt s.bclk
    let from0 := s.posAt (s.bclk - min s.bclk (32 * s.k))
    let from1 : Pos := if s.bclk < s.esc.tickBclk + 32 * s.k then
        let back := 32 - s.slotNow
        { frame := s.esc.frame - 1, slot := s.fsAt (s.esc.frame - 1) - back }
      else from0
    let win : Pos × Pos := match b.alert with
      | some a => if !b.alertDone ∧ Pos.lt from1 a.to_ then (a.from_, here) else (from1, here)
      | none => (from1, here)
    let s := s.ev { box := c, code := 0x1F, qual := .is 3 (alertCode k) }
    let s := s.updSub c sc fun b => { b with alert := some { from_ := win.1, to_ := win.2, kind := k } }
    let s := (s.rankPositions c).foldl (fun s p => if p / 4 = sc then s.balInterrupt c p else s) s
    match k with
    | .backOff rk n fr =>
      s.updSub c sc fun b => { b with mits := b.mits ++ List.replicate n { rk := rk, deadline := s.esc.frame + fr } }
    | .writeCrc =>
      (b.wb.filter fun w => !w.retry && !w.final && !w.closed &&
          (match w.slot with | some p => Pos.le win.1 p && Pos.lt p win.2 | none => false)).foldl
        (fun s w => s.nameWrite c sc w false) s
    | _ =>
      let s := (b.wb.filter fun w => !w.retry && !w.final && !w.closed &&
          w.slot.isSome && s.cmdIn w.cmds win.1 win.2).foldl
        (fun s w => s.nameWrite c sc w true) s
      let s := (b.served.filter fun v => !v.named && !v.req.write && s.cmdIn v.cmds win.1 win.2).foldl
        (fun s v => s.nameRead c sc v) s
      s.caParityCount c sc

/-- The BCLK in which a settled write is done with its slot: its alert window has closed, or a poison write has crossed the bus
(R362, R372, R377). -/
def State.closeAt (s : State) (w : WLine) : Nat := s.slotBclk (s.posAdd (w.slot.getD {}) (if w.final then 1 else 33))

/-- ALERT_WINDOW_CLOSE (R362, R372, R377): the alert window of the oldest settled write closes at the end of its slot + 32; a poison
write is done once it has crossed the bus. -/
def State.alertWindowClose (s : State) (c sc : Nat) : State :=
  let b := s.sub c sc
  let cand := (b.wb.filter fun w => w.slot.isSome && !w.retry && !w.closed).foldl (fun (a : Option WLine) w =>
    match a with
    | some x => if s.closeAt w < s.closeAt x then some w else a
    | none => some w) none
  match cand with
  | none => s
  | some w =>
    let t := s.closeAt w
    if !s.canReach t then s
    else
      let s := s.goto t
      s.updSub c sc fun b =>
        let wb := replaceFirst (fun x => x.sn == w.sn) (fun x => { x with closed := true }) b.wb
        { b with wb := wb : Sub }.release

end Sys2Proof.Machine
end

