-- ==== Sys2Proof/Machine/Gateway.lean ====
section
/-! DEFINITION. Fabric ports and gateways (chapter 03, R461, R462, R688 to R690): flits and credits, the ingress FIFO, link faults and
replay, ALIVE, the egress. What a gateway does by itself is in Pipeline. -/
namespace Sys2Proof.Machine

/-! ### The port goes away (R155, R190 to R193, R453 to R457) -/

/-- Tags of requests that leave without a response are released (R190, R192, R835). -/
def Gw.releaseAll (w : Gw) (rs : List Req) : Gw := rs.foldl (fun w r => w.release r.tag) w

/-- The requests a gateway has not admitted (R190, R192): in the pipeline, held by Burl, set aside, waiting at G4 or for a grant. -/
def Gw.unadmitted (w : Gw) : List Req :=
  w.pipe.map (·.req) ++ w.holds.flatMap (·.held) ++ w.aside.map (·.req) ++ w.g4q ++ w.cq.map (·.req)

/-- A request of a train that has not been injected by BCLK `now`. -/
def Pkt.unsent (p : Pkt) (now : Nat) : Option Req :=
  match p.body with
  | .memReq r => if !r.g ∧ now < p.inj then some r else none
  | _ => none

/-- The last BCLK in which a request granted to channel `c` and injected by BCLK `now` sends a flit. -/
def State.lastFlit (s : State) (c now : Nat) : Nat :=
  s.pkts.foldl (fun n p => match p.body with
    | .memReq r => if !r.g ∧ r.loc.ch = c ∧ p.inj ≤ now then max n (p.inj + b2n r.write) else n
    | _ => n) 0

/-- Trains end at their next request boundary (R453, R457, R460): the requests chosen that have not been injected are taken
back, and each channel's arbiter is idle after the last flit sent. Answers the requests. -/
def State.cutTrains (s : State) (sel : Req → Bool) : State × List Req :=
  let now := s.bclk
  let un := s.pkts.filterMap fun p => match p.unsent now with | some r => if sel r then some r else none | none => none
  let s := { s with pkts := s.pkts.filter fun p => match p.unsent now with | some r => !sel r | none => true }
  let s := un.foldl (fun s r => s.updChan r.loc.ch fun ch =>
    let idle := max (s.lastFlit r.loc.ch now + 1) now
    { ch with arb := { ch.arb with granted := ch.arb.granted - 1, free := idle, idle := idle } }) s
  (s, un)

/-- A requester whose ALIVE falls has no losses and no backoff any more, at the channels chosen (R456). -/
def State.forgetLosses (s : State) (i : Nat) (on : Nat → Bool) : State :=
  ((List.range 17).filter on).foldl (fun s c => s.updChan c fun ch =>
    { ch with arb := { ch.arb with reqs := Tbl.upd (fun _ => {}) ch.arb.reqs i fun q => { q with losses := 0, until_ := 0, from_ := 0 } } }) s

/-- The port goes away (R190, R192, R193, R456, R457): flush, discard of every unadmitted request, and withdrawal from the
arbiters. -/
def State.portGone (s : State) (g : Nat) : State :=
  let s := s.flushItems g true
  let cut := s.cutTrains fun r => r.src == g
  let s := cut.1
  let mine := fun (p : Pkt) => decide (s.bclk < p.inj) && match p.body with
    | .memReq r => r.src == g | .svcReq k _ => k == g | _ => false
  let early := s.pkts.filterMap fun p => if !mine p then none else match p.body with
    | .memReq r => some r | .svcReq _ h => some (hdrReq h g 0 h.itag 0 0 0) | _ => none
  let s := { s with pkts := s.pkts.filter fun p => !mine p }
  let s := s.updGw g fun w =>
    let w := w.releaseAll (w.unadmitted ++ cut.2 ++ early)
    { w with gOut := w.gOut - (early.filter fun (r : Req) => r.g).length,
             due := 0, tailDisc := false, pipe := [], holds := w.holds.map (fun h => { h with held := [] }), aside := [], g4q := [], cq := [],
             crStall := false, nakMode := false, nakAt := none, resend := 0, stallSince := none, unacked := none }
  s.forgetLosses g fun _ => true

/-- The port is declared down (R155, R160, R193). -/
def State.portDown (s : State) (g : Nat) : State := ((s.setLink g .down).portGone g).raise (.gw g) 0

/-! ### Flits in (R149 to R155, R163, R166, R168, R184 to R189, R960) -/

/-- LINK_CRC_ERROR (R151): a bad CRC or a SEQ gap: the flit is discarded, a NAK sent, by an idle flit where no other goes before, and later
flits discarded until the one asked for arrives. While they are, a further error counts nothing and asks for nothing again (DESIGN
CHOICE: log entry 59), and neither does one before the link is up, the mesh's INIT among them (DESIGN CHOICE: log entry 59). -/
def State.linkCrc (s : State) (g : Nat) : State :=
  if !s.linkUp g ∨ (s.gw g).nakMode then s
  else
    let s := s.ev { box := boxGw g, code := 0x13 }
    s.updGw g fun w => { w with nakMode := true, nakAt := some (s.bclk + 1), rplyIn := satAdd 255 w.rplyIn 1 }

/-- A good flit with its sequence number arrives (R149 to R151): the expected one is taken; any other, one received before among them, is a
gap (DESIGN CHOICE: log entry 59). -/
def State.flitIn (s : State) (g seq : Nat) (f : State → State) : State :=
  if !s.linkUp g then s
  else if seq % 4096 = (s.gw g).expSeq then
    f (s.updGw g fun w =>
      { w with expSeq := (w.expSeq + 1) % 4096, nakMode := false, unacked := some (w.unacked.getD s.bclk) })
  else s.linkCrc g

/-- A header flit is accepted as a new item (R152, R184): another flit is due after it where its LAST says so. -/
def State.newItem (s : State) (g : Nat) (h : ReqHdr) : State :=
  s.updGw g fun w =>
    { w with reqHdr := w.reqHdr - 1, fifo := w.fifo ++ [{ hdr := h, at_ := s.bclk, thr := s.ctThresh g }],
             due := if h.last then 0 else if h.opcode = 3 then 1 else 2 }

/-- An item whose second flit is still to come. -/
def Item.part (i : Item) : Bool := i.flits.1 == 2 && i.data.isNone

/-- The last item of the FIFO waits for its second flit. -/
def Gw.partLast (w : Gw) : Bool := match w.fifo.getLast? with | some i => i.part | none => false

/-- The last item of the FIFO takes its second flit. -/
def fillLast (d : Line) : List Item → List Item
  | [] => []
  | [i] => [{ i with data := some d }]
  | i :: t => i :: fillLast d t

/-- A data flit joins its request (R163, R185): in the FIFO, or in the pipeline, where it passes straight through and its credit returns;
that of a write already answered is discarded. -/
def Gw.joinData (w : Gw) (d : Line) (t : Nat) : Gw :=
  if w.partLast then { w with due := 0, reqData := w.reqData - 1, fifo := fillLast d w.fifo }
  else { w with due := 0, crData := w.crData + 1, pipe := w.pipe.map fun l =>
    if l.wait then { l with wait := false, g0 := max l.g0 (t - 4), req := { l.req with data := d } } else l }

/-- A write whose data is missing is answered MALFORMED (R960); the answer enters E0 in the BCLK after the arriving header also where the
write is still in the FIFO, or between G0 and G4 (DESIGN CHOICE: log entry 59). -/
def State.dropWrite (s : State) (g : Nat) : State :=
  let w := s.gw g
  let s := s.updGw g fun w => { w with due := 0 }
  let count := fun (w : Gw) => { w with malfCnt := satAdd 65535 w.malfCnt 1 }
  match (if w.partLast then w.fifo.getLast? else none) with
  | some i =>
    let s := s.updGw g fun w => (count { w with fifo := w.fifo.dropLast }).giveBack 1 0
    s.ownResp g { req := hdrReq i.hdr g 0 (i.hdr.itag % 4096) 0 s.bclk i.at_, status := stMalformed, bare := true } (s.bclk + 1)
  | none => match w.pipe.find? (·.wait) with
    | some l => (s.updGw g fun w => count { w with pipe := w.pipe.filter fun x => !x.wait }).refuse g l.req stMalformed (s.bclk + 1)
    | none => s

/-- The flit after a header of another opcode with LAST = 0 is discarded, whatever it is (R166); its credit returns (R153). -/
def Gw.skipFlit (w : Gw) (hdr : Bool) : Gw :=
  { w with due := 0, crHdr := w.crHdr + b2n hdr, crData := w.crData + b2n (!hdr),
           fifo := if w.partLast then fillLast 0 w.fifo else w.fifo }

/-- A header flit where a header may come (R155, R161, R166, R189, R960): in tail discard, or where a write's data is due, it counts a
protocol error first. -/
def State.headerIn (s : State) (g : Nat) (h : ReqHdr) : State :=
  let w := s.gw g
  if w.reqHdr = 0 then (s.protoErr g).portDown g
  else if w.tailDisc then ((s.protoErr g).updGw g fun w => { w with tailDisc := false, discAt := some s.bclk }).newItem g h
  else if w.due = 2 then s.updGw g fun w => w.skipFlit true
  else if w.due = 1 then ((s.protoErr g).dropWrite g).newItem g h
  else s.newItem g h

/-- A data flit (R155, R163, R166, R168, R186): eaten in tail discard, joined to its request, or stray; its credit returns as it is eaten or
discarded. -/
def State.dataIn (s : State) (g : Nat) (d : Line) : State :=
  let w := s.gw g
  if w.reqData = 0 then (s.protoErr g).portDown g
  else if w.tailDisc then s.updGw g fun w => { w with tailDisc := false, discAt := some s.bclk, crData := w.crData + 1 }
  else if w.due = 2 then s.updGw g fun w => w.skipFlit false
  else if w.due = 1 then s.updGw g fun w => w.joinData d s.bclk
  else (s.protoErr g).updGw g fun w => { w with crData := w.crData + 1 }

/-- TAILDISC (R188, R208): a flush is pending or tail discard is active in BCLK `t`. -/
def Gw.discards (w : Gw) (t : Nat) : Bool := w.flushAt.isSome || w.tailDisc || w.discAt == some t

/-- GW_FLUSH (R186, R188): the flush takes effect at the end of the present BCLK. -/
def State.gwFlush (s : State) (g : Nat) : State :=
  if (s.gw g).discards s.bclk then s else s.updGw g fun w => { w with flushAt := some s.bclk }

/-! ### The link (R145 to R160, R196, R197, R961) -/

/-- The mesh's flits carry acknowledgements: the link is up, or in link init its INIT has come (R150, R157, R196). -/
def State.linkHears (s : State) (g : Nat) : Bool :=
  s.linkUp g || ((s.gw g).link == .init && (s.gw g).initRecv.isSome && s.gwEn g)

/-- ACK_RECEIVED (R157, R158): the flits up to the acknowledged number leave the replay buffer, the gateway's INIT among them. -/
def State.ackReceived (s : State) (g ack : Nat) : State :=
  let w := s.gw g
  if s.linkHears g && w.replay.any fun f => f.seq == ack % 4096 then
    s.updGw g fun w =>
      let rest := (w.replay.dropWhile fun f => f.seq != ack % 4096).drop 1
      { w with replay := rest, resend := min w.resend rest.length, stallSince := none }
  else s

/-- The egress rewinds to the mark: every flit from there is sent again, from the next BCLK on, before any new one (R159). -/
def State.rewind (s : State) (g : Nat) : State :=
  let n := (s.gw g).replay.length
  let s := s.ev { box := boxGw g, code := 0x12, n := n }
  s.updGw g fun w => { w with resend := n, egFree := max w.egFree (s.bclk - 1), rplyOut := satAdd 255 w.rplyOut 1 }

/-- NAK_RECEIVED (R159): the flits up to the acknowledged one leave the buffer and the rest are sent again. -/
def State.nakReceived (s : State) (g ack : Nat) : State := if s.linkHears g then (s.ackReceived g ack).rewind g else s

/-- REWIND_TIMER (R159): the flit at the mark, the gateway's INIT in link init, has been unacknowledged for 2 µs since it was last sent. -/
def State.rewindTimer (s : State) (g : Nat) : State :=
  match (s.gw g).replay with
  | [] => s
  | f :: _ =>
    let t := f.sent + s.bin.us 2
    if !(s.linkUp g || (s.gw g).link == .init && s.gwEn g) ∨ (s.gw g).resend ≠ 0 ∨ !s.canReach t then s else (s.goto t).rewind g

/-- A packet carries a response to a gateway. -/
def Pkt.respFor (p : Pkt) (g : Nat) : Option Resp :=
  match p.body with
  | .memResp r => if r.req.src = g ∧ p.dst = nodeGw g ∧ !p.waiting then some r else none
  | _ => none

/-- Responses that have reached a gateway's egress by BCLK `t`: their packets. -/
def State.arrived (s : State) (g t : Nat) : List (Pkt × Resp) :=
  s.pkts.filterMap fun p => if p.arr + 1 ≤ t then (p.respFor g).map fun r => (p, r) else none

/-- REPLAY_TIMEOUT (R160): the stall at the mark has lasted REPLAY_TMO. Every response in the egress and in the replay buffer is dropped;
those in the buffer have released their tags. One whose header is acknowledged stands there while its data flit does. -/
def State.replayTimeout (s : State) (g : Nat) : State :=
  match (s.gw g).stallSince with
  | none => s
  | some b =>
    let t := b + s.bin.us (fld (s.reg (.gw g) 0x054) 0 10)
    if !s.linkUp g ∨ !s.canReach t then s
    else
      let s := s.goto t
      let here := s.arrived g s.bclk
      let half := ((s.gw g).replay.take 1).filter fun f => f.fkind == 2
      let sent := (half ++ (s.gw g).replay.filter fun f => f.fkind == 1).map fun f => { f.resp with bare := true }
      let rs := sent ++ here.map (·.2) ++ (s.gw g).eg.map (·.resp)
      let s := { s with pkts := s.pkts.filter fun p => !here.any fun x => x.1 == p }
      let s := rs.foldl (fun s r => s.dropResp g r) s
      (s.updGw g fun w =>
        { w with eg := [], replay := [], gOut := w.gOut - (here.filter fun x => x.2.req.g).length }).portDown g

/-- Nothing goes out at a gateway by BCLK `t`: no response has reached its egress, one that cannot leave for want of credits or room among
them (DESIGN CHOICE: log entry 59), and nothing is to be sent again. -/
def State.egIdle (s : State) (g t : Nat) : Bool :=
  (s.arrived g t).isEmpty && !((s.gw g).eg.any fun e => decide (e.at_ ≤ t)) && (s.gw g).resend == 0

/-- IDLE_ACK (R150): a good flit has been unacknowledged for 64 BCLK with nothing to send: an idle flit carries the ACK. -/
def State.idleAck (s : State) (g : Nat) : State :=
  match (s.gw g).unacked with
  | none => s
  | some b =>
    let t := b + 64
    if !s.linkUp g ∨ !s.canReach t then s
    else
      let u := s.goto t
      if (u.gw g).unacked = some b ∧ u.egIdle g u.bclk then u.updGw g fun w => w.sendIdle (w.linkFree u.bclk) else s

/-- PHASE_ERR (R145): the bridge has found no common edge: the port stays down. -/
def State.phaseErr (s : State) (g : Nat) : State :=
  let s := s.updGw g fun w => { w with phaseErr := true }
  if (s.gw g).link = .init ∨ (s.gw g).link = .up then (s.setLink g .down).portGone g else s

/-- ALIVE_FALL (R190 to R194, R213). -/
def State.aliveFall (s : State) (g : Nat) : State :=
  if !(s.gw g).alive then s
  else
    let s := (s.setLink g .aliveLow).portGone g
    let s := s.updGw g fun w =>
      { w with alive := false, falls := satAdd 65535 w.falls 1, initSent := none, initRecv := none, replay := [],
               tags := w.tags.map fun e => (e.1, { e.2 with old := true }) }
    s.raise (.gw g) 3

/-- ALIVE_RISE (R195). A port whose bridge found no common edge stays down (R145), and LINK reads 0b11, declared down (DESIGN CHOICE: log
entry 59). -/
def State.aliveRise (s : State) (g : Nat) : State :=
  if (s.gw g).alive then s
  else
    let s := s.updGw g fun w =>
      { w with alive := true, downTags := [], link := if w.phaseErr then .down else .init, initSent := none, initRecv := none,
               reqHdr := 48, reqData := 32, crHdr := 0, crData := 0, expSeq := 0, txSeq := 0, due := 0, tailDisc := false,
               nakMode := false, replay := [] }
    s.raise (.gw g) 3

/-- MESH_INIT (R150, R196, R197): the mesh's INIT arrives with its credits, and is held until the gateway's own has been sent. -/
def State.meshInit (s : State) (g hdr data : Nat) : State :=
  let w := s.gw g
  if w.link ≠ .init ∨ w.initRecv.isSome ∨ !s.gwEn g then s
  else s.updGw g fun w =>
    { w with initRecv := some s.bclk, rspHdr := min 255 hdr, rspData := min 255 data, expSeq := 1, unacked := some s.bclk }

/-- LINK_INIT (R196): time passes up to what falls due next in link init: the gateway's INIT, once no tag is in use, or the link's coming
up once both have passed. -/
def State.linkInit (s : State) (g : Nat) : State :=
  match s.linkDue g with
  | none => s
  | some m =>
    let t := max ((m + 1) / 2) (s.bclk + 1)
    if s.canReach t then s.goto t else s

/-! ### Egress (R169 to R174, R183, R191, R194) -/

/-- The next response at a gateway's egress (R174): of the packets ejected and the responses formed here, the one that enters
E0 first, in one BCLK the one from the torus (DESIGN CHOICE: log entry 59); with the BCLK in which it does. -/
def State.nextEgress (s : State) (g : Nat) : Option (Resp × Nat × Option Pkt) :=
  let fromPkt := (s.pkts.filterMap fun p => (p.respFor g).map fun r => (r, p.arr + 1, some p)).foldl
    (fun (a : Option (Resp × Nat × Option Pkt)) x => match a with | some y => if x.2.1 < y.2.1 then some x else a | none => some x) none
  let own := ((s.gw g).eg.map fun e => (e.resp, e.at_, (none : Option Pkt))).foldl
    (fun (a : Option (Resp × Nat × Option Pkt)) x => match a with | some y => if x.2.1 < y.2.1 then some x else a | none => some x) none
  match fromPkt, own with
  | some x, some y => if y.2.1 < x.2.1 then some y else some x
  | some x, none => some x
  | none, o => o

/-- A response lacks the mesh credits that it needs (R154). -/
def Gw.lacks (w : Gw) (r : Resp) : Bool := w.rspHdr == 0 || (r.rkind == 1 && w.rspData == 0)

/-- MESH_CREDIT_RETURN (R154): response credits come back in a trailer; the egress waits on while its next response lacks one. -/
def State.meshCredit (s : State) (g hdr data : Nat) : State :=
  if !s.linkUp g then s
  else
    let s := s.updGw g fun w => { w with rspHdr := satAdd 255 w.rspHdr (hdr % 8), rspData := satAdd 255 w.rspData (data % 8) }
    let wants := match s.nextEgress g with | some x => (s.gw g).lacks x.1 | none => false
    s.updGw g fun w => { w with crStall := w.crStall && wants }

/-- Takes a response from where it stood. -/
def State.takeEgress (s : State) (g : Nat) (r : Resp) (p : Option Pkt) : State :=
  match p with
  | some p => { s with pkts := eraseFirst (fun q => q == p) s.pkts }
  | none => s.updGw g fun w => { w with eg := eraseFirst (fun e => e.resp == r) w.eg }

/-- The tallies of a response that leaves (R840). -/
def State.respTally (s : State) (r : Resp) : State :=
  let i := r.req.itag
  let s := if r.rkind = 1 then s.tally i 0 64 else if r.rkind = 2 then s.tally i 1 64 else s
  let s := if r.late then s.tally i 4 1 else s
  let s := if r.status ≠ 0 then s.tally i 5 1 else s
  if r.thr then s.tally i 7 1 else s

/-- A response is written into the egress bridge and the replay buffer at E2, in the present BCLK; a data flit follows in the next (R148,
R156, R157, R183). -/
def State.sendResp (s : State) (g : Nat) (r : Resp) : State :=
  let rd := r.rkind == 1
  let t := s.bclk
  let e := fun (code : Nat) (q : Qual) (n : Nat) =>
    { box := boxGw g, code := code, qual := q, n := n, req := some r.req, itag := some r.req.itag : Ev }
  let s := s.ev (e 0x02 (.is 6 r.rkind) 1)
  let s := s.ev (e 0x0B .none (b2n r.late))
  let s := s.ev (e 0x0C .none (b2n r.corr))
  let s := s.ev (e 0x0D .none (b2n r.thr))
  let s := s.ev (e 0x15 .none (if rd then t + 1 - r.req.hdrAt else 0))
  let s := s.respTally r
  s.updGw g fun w =>
    let w := w.answered r
    let w := w.sendNew { fkind := 1, resp := r } t
    let w := if rd then w.sendNew { fkind := 2, resp := r } (t + 1) else w
    { w with
      out := r :: w.out, rspHdr := w.rspHdr - 1, rspData := if rd then w.rspData - 1 else w.rspData,
      thrCnt := if r.thr then wrapAdd 32 w.thrCnt 1 else w.thrCnt }

/-- The generation of a response was old as it entered E0 in BCLK `e0` (R183, R835): a change since then does not count. -/
def State.staleAt (s : State) (r : Resp) (e0 : Nat) : Bool :=
  s.genOf r.req.itag != r.req.gen &&
    (decide (Tbl.get (fun _ => 0) s.genAt r.req.itag ≤ e0) || (r.req.gen + 1) % 256 != s.genOf r.req.itag % 256)

/-- RESPONSE_EGRESS (R156, R158 to R160, R183, R191): the next response passes E0 to E2; it is discarded if its generation is old at E0,
dropped if the link is not up, and waits for mesh credits and replay space, and for the flits that are sent again. A READ_DATA waits whole, its header too, where the replay buffer has
no place for both its flits (DESIGN CHOICE: log entry 59). -/
def State.responseEgress (s : State) (g : Nat) : State :=
  match s.nextEgress g with
  | none => s
  | some (r, t0, p) =>
    let t := max t0 (s.gw g).egFree + 2
    if !s.canReach t ∨ (s.gw g).resend ≠ 0 then s
    else
      let s := s.goto t
      let gDone := fun (s : State) => if r.req.g then s.updGw g fun w => { w with gOut := w.gOut - 1 } else s
      if p.isSome ∧ s.staleAt r (t - 2) then
        let s := gDone (s.takeEgress g r p)
        let s := s.ev { box := boxGw g, code := 0x0E, req := some r.req, itag := some r.req.itag }
        s.updGw g fun w => { w.answered r with staleCnt := wrapAdd 32 w.staleCnt 1, crStall := false }
      else if !s.linkUp g then gDone ((s.takeEgress g r p).dropResp g r)
      else
        let need := if r.rkind = 1 then 2 else 1
        if (s.gw g).lacks r then s.updGw g fun w => { w with crStall := true }
        else if 256 < (s.gw g).replay.length + need then
          s.updGw g fun w => { w with stallSince := some (w.stallSince.getD s.bclk) }
        else (gDone (s.takeEgress g r p)).sendResp g r

/-- What the gateway does by itself goes on while it falls due before its next response enters E0, or flits are to be sent again. -/
def State.egressAhead (s : State) (g : Nat) : State :=
  s.gwAhead fun s => if (s.gw g).resend ≠ 0 then none else (s.nextEgress g).map fun x => max x.2.1 (s.gw g).egFree

/-! ### Bounces, set-aside requests and holds (R179, R192, R462, R687 to R690) -/

/-- A bounce on its way to a gateway. -/
def Pkt.bounceFor (p : Pkt) (g : Nat) : Option (Req × Nat) :=
  match p.body with
  | .bounce r n => if r.src = g ∧ !p.waiting then some (r, n) else none
  | _ => none

/-- RETRY_C_BOUNCE (R179, R192, R385, R396): the bounce that arrives first is raised as a C request in the next BCLK. -/
def State.bounceArrives (s : State) (g : Nat) : State :=
  let first := s.pkts.foldl (fun (a : Option Pkt) p =>
    if (p.bounceFor g).isSome then (match a with | some q => if p.arr < q.arr then some p else a | none => some p) else a) none
  match first with
  | none => s
  | some p =>
    match p.bounceFor g with
    | none => s
    | some (r, n) =>
      let t := p.arr + 1
      if !s.canReach t then s
      else
        let s := s.goto t
        let s := { s with pkts := eraseFirst (fun q => q == p) s.pkts }
        let s := s.ev { box := boxGw g, code := 0x08, qual := .is 6 n, req := some r, itag := some r.itag }
        let s := s.updGw g fun w =>
          { w with gOut := w.gOut - 1,
                   recent := w.recent.map (fun x => if x.req = r then { x with bounced := true } else x),
                   aside := w.aside.map (fun x => if x.req.pa / 64 = r.pa / 64 then { x with bounced := true } else x),
                   rcToken := if n = 1 then wrapAdd 16 w.rcToken 1 else w.rcToken,
                   rcHorizon := if n = 2 then wrapAdd 8 w.rcHorizon 1 else w.rcHorizon,
                   rcFull := if n = 3 then wrapAdd 8 w.rcFull 1 else w.rcFull }
        if s.linkUp g ∧ !((s.gw g).tag r.tag).old ∧ s.genOf r.itag = r.gen then s.raiseC g r (t + 1)
        else s.updGw g fun w => w.release r.tag

/-- The set-aside request whose time passes first. -/
def Gw.firstAside (w : Gw) : Option Aside :=
  w.aside.foldl (fun a x => match a with
    | some y => if x.until_ < y.until_ then some x else a
    | none => some x) none

/-- The bounces that arrive at a gateway by BCLK `t` arrive. -/
def State.bouncesTo (s : State) (g t : Nat) : State :=
  (s.pkts.filter fun p => (p.bounceFor g).isSome && decide (p.arr + 1 ≤ t)).foldl (fun s _ => s.bounceArrives g) s

/-- SET_ASIDE_RELEASE (R462): the set-aside request whose bounce time passes first joins the queue behind the bounced request, or is
classed; a bounce of that BCLK has arrived. -/
def State.asideRelease (s : State) (g : Nat) : State :=
  match (s.gw g).firstAside with
  | none => s
  | some a =>
    if !s.canReach a.until_ then s
    else
      let s := (s.bouncesTo g a.until_).goto a.until_
      let a := (s.gw g).firstAside.getD a
      let s := s.updGw g fun w => { w with aside := eraseFirst (fun x => x == a) w.aside }
      let s := if a.bounced then s.raiseC g a.req (s.bclk + 1) else s.classLine g a.req s.bclk
      s.g4Retry g (s.gw g).g4q

/-- A gateway holds a request whose entry's next admission frame has come. -/
def State.heldDue (s : State) (g : Nat) : Option Nat :=
  if (s.gw g).holds.any fun h => h.held != [] && decide (h.next ≤ s.esc.frame) then some s.bclk else none

/-- HELD_REQUEST_RELEASE (R689): at an entry's next admission frame its oldest held request is released and classed, with the
requests of the same line behind it. -/
def State.heldRelease (s : State) (g : Nat) : State :=
  match (s.gw g).holds.find? fun h => h.held != [] && decide (h.next ≤ s.esc.frame) with
  | none => s
  | some h =>
    match h.held with
    | [] => s
    | r :: rest =>
      let follow := rest.filter fun q => q.pa / 64 == r.pa / 64
      let keep := rest.filter fun q => q.pa / 64 != r.pa / 64
      let s := s.updGw g fun w =>
        let hs := replaceFirst (fun x => x == h) (fun x => { x with held := keep, next := s.esc.frame + x.gap }) w.holds
        { w with holds := hs }
      let put := fun (s : State) (q : Req) (t : Nat) =>
        (s.asideOrClass g q t).getD (s.updGw g fun w => { w with g4q := w.g4q ++ [q] })
      let s := put s r s.bclk
      let s := follow.foldl (fun s q => put s q (s.bclk + 1)) s
      s.g4Retry g (s.gw g).g4q

end Sys2Proof.Machine
end

