-- ==== Sys2Proof/Machine/Arbiter.lean ====
section
/-! DEFINITION. The inlet arbiters (R433 to R471), a request's arrival at a channel (R347, R348, R459, R747, R867), and the
Crown port's path into a channel (R453, R454, R890). -/
namespace Sys2Proof.Machine

/-! ### Requesters (R433 to R436) -/

/-- The C requests of requester `i` that wait for channel `c`, in queue order (R436). -/
def State.cwaits (s : State) (c i : Nat) : List CWait :=
  let here := fun (l : List CWait) => l.filter fun w => w.req.loc.ch == c
  if i < 16 then here (s.gw i).cq
  else if i < 18 then here (s.le (i - 16)).cq
  else if i = 18 then (s.chan c).scrub.q
  else here s.mvc.cq

/-- Changes the queue of requester `i`, at channel `c` where it has one for each channel. -/
def State.updWaits (s : State) (c i : Nat) (f : List CWait → List CWait) : State :=
  if i < 16 then s.updGw i fun w => { w with cq := f w.cq }
  else if i < 18 then s.updLe (i - 16) fun w => { w with cq := f w.cq }
  else if i = 18 then s.updScrub c fun x => { x with q := f x.q }
  else { s with mvc := { s.mvc with cq := f s.mvc.cq } }

/-- Removes the waiting requests that a grant has taken. -/
def dropWaits (l train : List CWait) : List CWait := train.foldl (fun l w => eraseFirst (fun x => x == w) l) l

/-- A requester of a channel. -/
def Arb.req (a : Arb) (i : Nat) : ArbReq := Tbl.get (fun _ => {}) a.reqs i

/-- Changes a channel's arbiter. -/
def State.updArb (s : State) (c : Nat) (f : Arb → Arb) : State := s.updChan c fun ch => { ch with arb := f ch.arb }

/-- Changes a requester at a channel's arbiter. -/
def State.updArbReq (s : State) (c i : Nat) (f : ArbReq → ArbReq) : State :=
  s.updArb c fun a => { a with reqs := Tbl.upd (fun _ => {}) a.reqs i f }

/-- The channel's role is offline or it is parked (R459). -/
def State.offOrParked (s : State) (c : Nat) : Bool := !(s.chan c).inService || (s.chan c).sr == .parked

/-- The arbiter runs as in hold mode (R451, R459). -/
def State.holdMode (s : State) (c : Nat) : Bool := flag (s.reg (.cc c) 0x060) 0 || s.offOrParked c

/-- The arbiter runs as in hold mode for a round whose R0 falls in BCLK `t` (R452). -/
def State.holdAt (s : State) (c t : Nat) : Bool :=
  match (s.chan c).arb.modeWas with
  | some (k, m) => if t < k then m || s.offOrParked c else s.holdMode c
  | none => s.holdMode c

/-! ### Urgency (R445 to R449) -/

/-- LAT_TGT of a requester. -/
def State.latTgt (s : State) (c i : Nat) : Nat := fld (s.reg (.cc c) (0x100 + 4 * i)) 0 16

/-- The creation of the oldest request that waits (R435). -/
def oldest (l : List CWait) : Nat := l.foldl (fun n w => min n w.req.created) (match l with | w :: _ => w.req.created | [] => 0)

/-- The urgency of an age under a latency target (R445). -/
def urgencyOf (tgt age : Nat) : Nat :=
  b2n (decide (tgt / 2 < age)) + b2n (decide (3 * tgt / 4 < age)) + b2n (decide (9 * tgt / 10 < age))

/-- AGE of a requester at BCLK `t` (R435). -/
def State.age (s : State) (c i t : Nat) : Nat := min 65535 (t - oldest (s.cwaits c i))

/-- The urgency of a requester at BCLK `t`. -/
def State.urgAt (s : State) (c i t : Nat) : Nat := urgencyOf (s.latTgt c i) (s.age c i t)

/-! ### Rounds (R437 to R444, R448, R451, R459) -/

/-- The requesters. -/
def requesters : List Nat := List.range 20

/-- A requester's REQ as the arbiter samples it at R0 in BCLK `t` (R438). -/
def State.reqHigh (s : State) (c i t : Nat) : Bool := (s.cwaits c i).any fun w => decide (w.raised + 1 ≤ t)

/-- A requester is eligible at R0 in BCLK `t` (R438, R451). -/
def State.eligibleAt (s : State) (c i t : Nat) : Bool :=
  s.reqHigh c i t && s.alive c i &&
  (s.holdMode c || decide (((s.chan c).arb.req i).until_ ≤ t) || s.urgAt c i t == 3)

/-- The first BCLK, from `base` on, at which a requester is eligible. -/
def State.firstEligible (s : State) (c i base : Nat) : Option Nat :=
  match s.cwaits c i with
  | [] => none
  | w :: ws =>
    if !s.alive c i then none
    else
      let r := (ws.foldl (fun n x => min n x.raised) w.raised) + 1
      let free := if s.holdMode c then 0
        else min ((s.chan c).arb.req i).until_ (oldest (w :: ws) + 9 * s.latTgt c i / 10 + 1)
      some (max base (max r free))

/-- The first BCLK, from `base` on, at which some requester is eligible. -/
def State.anyEligible (s : State) (c base : Nat) : Option Nat :=
  requesters.foldl (fun a i => match s.firstEligible c i base with
    | none => a
    | some t => match a with | none => some t | some u => some (min t u)) none

/-- The BCLK of R0 of the next round (R439), whose R1 does not lie in the past: at the BCLK the train in transfer gives, or from the BCLK in
which the arbiter is idle. -/
def State.nextR0 (s : State) (c : Nat) : Option Nat :=
  let a := (s.chan c).arb
  let now := s.bclk - 1
  let idle := s.anyEligible c (max now a.idle)
  if now ≤ a.free then
    match s.anyEligible c a.free with
    | some t => if t = a.free then some t else idle
    | none => none
  else idle

/-- LAST_WIN, PTR and the requests granted as CC_ARB_STAT shows them in BCLK `t` (R469). -/
def Arb.shown (a : Arb) (t : Nat) : Nat × Nat × Nat :=
  match a.pre with
  | some (g, w, p, n) => if t < g then (w, p, a.granted - n) else (a.lastWin, a.ptr, a.granted)
  | none => (a.lastWin, a.ptr, a.granted)

/-- The room that bounds a grant: that of R440, ignored where R459 says so. -/
def State.grantRoom (s : State) (c : Nat) : Nat := if s.offOrParked c then 8 else s.room c

/-- The winner of a round (R441, R451): of the eligible requesters of the highest urgency, the first at or after the pointer. -/
def winnerOf (ptr : Nat) (urg : Nat → Nat) (el : List Nat) : Option Nat :=
  let top := el.foldl (fun n i => max n (urg i)) 0
  let cand := el.filter fun i => urg i == top
  match cand.find? fun i => decide (ptr ≤ i) with
  | some i => some i
  | none => cand.head?

/-- BO of R448: the rounds of a backoff after a loss. -/
def backoffRounds (base cap losses urg : Nat) : Nat :=
  if urg = 3 then 0
  else if urg = 2 then base * 2 ^ (min losses cap) / 2
  else base * 2 ^ (min losses cap)

/-- A loser of a round whose R0 fell in BCLK `t` (R442, R448). -/
def State.lose (s : State) (c i t urg : Nat) : State :=
  let cfg := s.reg (.cc c) 0x060
  let n := satAdd 15 ((s.chan c).arb.req i).losses 1
  let b := backoffRounds (fld cfg 5 4) (fld cfg 9 4) n urg
  let s := s.ev { box := c, code := 0x22, qual := .is 6 (i + 1), req := (s.cwaits c i).head?.map (·.req),
                  itag := (s.cwaits c i).head?.map (·.req.itag) }
  s.updArbReq c i fun q => { q with losses := n, from_ := t + 2, until_ := if b = 0 then 0 else t + 2 + 2 * b }

/-- A request of the train granted in BCLK `g` is admitted from BCLK `t` on: its header is injected when the requester's port is free
(R443). -/
def State.admitC (s : State) (c i g : Nat) (r : Req) (t : Nat) : State :=
  let s := if i < 16 then s.ev { box := boxGw i, code := 6, qual := .is 6 (c + 1), req := some r, itag := some r.itag }
    else if i < 18 then s.updLe (i - 16) fun w =>
      { w with ops := w.ops.map fun o => if o.id = r.tag ∧ o.st = .queued then { o with st := .sent } else o }
    else s
  if i = 18 then { s with pkts := s.pkts ++ [{ body := .memReq r, src := nodeCh c, dst := nodeCh c, ready := t, inj := t, near := t, arr := t,
                                                train := some g }] }
  else s.inject (.memReq r) (nodeOfSrc i) (nodeCh c) t (some g)

/-- The requests of a train granted in BCLK `g` are injected one after another, each with its flits in consecutive BCLK (R443). -/
def State.sendTrain (s : State) (c i g : Nat) : List CWait → Nat → State
  | [], _ => s
  | w :: ws, t => (s.admitC c i g w.req t).sendTrain c i g ws (if i = 18 then t + 1 + b2n w.req.write else t)

/-- The mirrors that hold a copy-unit buffer let go of the write-buffer lines they mirror (R866, R868). -/
def State.mirrorBufs (s : State) : State :=
  if !s.copy.on then s
  else
    let held := ((s.mvc.cq.filter fun w => w.req.use == 4 || w.req.use == 5).drop (64 - s.copy.out.length)).filter
      fun w => w.req.use == 5
    let late := held.map fun w => w.req.tag
    (List.range 2).foldl (fun s sc => s.updSub s.copy.src sc fun b =>
      { b with wb := b.wb.map fun w => if w.mir ∧ w.slot.isSome ∧ !late.contains w.sn then { w with mir := false } else w }) s

/-- EMERG is sampled by the BCLK after `t`: a round whose R0 falls in `t` would be abandoned (R453). -/
def State.emergSoon (s : State) (c t : Nat) : Bool :=
  match s.crn.emerg with
  | some (r, u) => r.loc.ch == c && decide (u ≤ t)
  | none => false

/-- ARBITER_ROUND (R437 to R444, R448, R451, R452, R459, R460): R0 of one round in BCLK `t`, its R1 in the next, in which the room and
GRANT_TRAIN are taken, and the grant. No round is held during a route-epoch hold, nor where the Crown port's EMERG is sampled by R1. -/
def State.arbiterRound (s : State) (c : Nat) : State :=
  let s := s.gwAhead fun s => s.nextR0 c
  match s.nextR0 c with
  | none => s
  | some t =>
    if s.trt.hold ∨ !s.canReach (t + 1) ∨ s.grantRoom c = 0 ∨ s.emergSoon c t then s
    else
      let s := s.goto (t + 1)
      let hold := s.holdAt c t
      let urg := fun i => s.urgAt c i t
      let el := requesters.filter fun i => s.eligibleAt c i t
      match winnerOf (s.chan c).arb.ptr (if hold then fun _ => 0 else urg) el with
      | none => s
      | some i =>
        let w := (s.cwaits c i).filter fun x => decide (x.raised + 1 ≤ t)
        let n := min (min w.length 8) (min (fld (s.reg (.cc c) 0x060) 1 4) (s.grantRoom c))
        if n = 0 then s else
        let train := w.take n
        let f := train.foldl (fun k x => k + 1 + b2n x.req.write) 0
        let s := requesters.foldl (fun s j => s.updArbReq c j fun q => { q with urg := urg j }) s
        let s := if hold then s else (el.filter fun j => j != i).foldl (fun s j => s.lose c j t (urg j)) s
        let s := s.updArbReq c i fun q => { q with losses := 0 }
        let s := s.ev { box := c, code := 0x21, qual := .is 6 (i + 1), req := train.head?.map (·.req),
                        itag := train.head?.map (·.req.itag) }
        let s := s.updWaits c i fun l => dropWaits l train
        let s := s.updArb c fun a =>
          { a with pre := some (t + 2, a.lastWin, a.ptr, n), ptr := (i + 1) % 20, lastWin := i, win := i, grantAt := t + 2, granted := a.granted + n,
                   free := t + 2 + max f 2 - 2, idle := t + 2 + f }
        let s := s.sendTrain c i (t + 2) train (t + 2)
        let last := trainEnd s.pkts c (t + 2)
        (s.updArb c fun a => { a with free := max a.free (if f = 1 then last else last - 1), idle := max a.idle (last + 1) }).mirrorBufs

/-- BACKOFF_END (R448): the backoff of a requester ends in the BCLK after its last. -/
def State.backoffEnd (s : State) (c i : Nat) : State :=
  let t := ((s.chan c).arb.req i).until_
  if t = 0 ∨ !s.canReach t then s
  else (s.goto t).updArbReq c i fun q => { q with until_ := 0 }

/-- URGENCY3 (R449, R471): a requester's AGE first exceeds T3 while its REQ and ALIVE are high. -/
def State.urgency3 (s : State) (c i : Nat) : State :=
  let s := s.gwAhead fun s => if s.cwaits c i = [] then none else some s.bclk
  match (s.cwaits c i).find? fun w => w.req.created == oldest (s.cwaits c i) && !w.urg3 with
  | none => s
  | some w =>
    let t := max (oldest (s.cwaits c i) + 9 * s.latTgt c i / 10 + 1) (w.raised + 1)
    if !s.alive c i ∨ !s.canReach t then s
    else
      let s := s.goto t
      let s := s.updWaits c i (replaceFirst (fun x => x == w) fun x => { x with urg3 := true })
      let s := s.updArbReq c i fun q => { q with until_ := 0, from_ := 0 }
      (s.ev { box := c, code := 0x24, qual := .is 6 (i + 1) }).raise (.cc c) 4

/-! ### Arrival at a channel (R347, R348, R459, R747, R867) -/

/-- The position of a location in the order of R648: the inverse of `lineLoc`. -/
def State.lineNo (s : State) (l : Loc) : Nat :=
  let m := s.mapAct
  let nc := 2 ^ m.colBits
  let nr := 2 ^ m.rkBits
  let p := posOfRk m.mrd l.rk
  let pos := if m.mrd ∧ m.rkBits = 1 then p / 2 else p
  l.col + nc * (l.bg + 8 * (l.ba + 4 * (pos + nr * (l.sc + 2 * l.row))))

/-- A write enqueued at the source of a copy is mirrored (R867): its line lies at or below the frontier. -/
def State.mirrors (s : State) (c : Nat) (r : Req) : Bool :=
  s.copy.on && s.copy.mirror && s.copy.src == c && r.write && decide (s.lineNo r.loc < s.copy.next)

/-- The fence's answer or discard (R747): a request is answered OFFLINE in the BCLK after its header is ejected. -/
def State.fenced (s : State) (c : Nat) (p : Pkt) : State :=
  let s := s.goto p.arr
  match p.body with
  | .memReq r => s.inject (.memResp { req := r, status := 3, rkind := 4 }) (nodeCh c) (nodeOfSrc r.src) (p.arr + 1)
  | _ => s.updChan c fun ch => { ch with disc := satAdd 255 ch.disc 1 }

/-- The request packet that reaches a channel first. -/
def State.firstReq (s : State) (c : Nat) : Option (Pkt × Req) :=
  (s.pkts.filterMap fun p => match p.body with
    | .memReq r => if p.dst = nodeCh c ∧ r.loc.ch = c ∧ !p.waiting then some (p, r) else none
    | _ => none).foldl (fun a x => match a with
    | some y => if x.1.arr < y.1.arr then some x else a
    | none => some x) none

/-- CHANNEL_ENQUEUE (R347, R348, R459, R533): the request that reaches the channel first is enqueued and stamped, or answered
OFFLINE; a fenced node does not take it, and a read that a takeover moves waits at the node while all 192 records are in use (R344;
DESIGN CHOICE: log entry 60). -/
def State.channelEnqueue (s : State) (c : Nat) : State :=
  let s := s.gwAhead fun s => (s.firstReq c).map fun x => x.1.arr
  match s.firstReq c with
  | none => s
  | some (p, r) =>
    if (s.chan c).fenced ∨ (r.due.isSome ∧ 192 ≤ (s.sub c r.loc.sc).ram.length) then s
    else
      let start := max (p.arr + b2n r.write + 1) (s.chan c).enqFree
      let tend := start + 2
      if !s.canReach tend then s
      else
        let s := s.goto tend
        let s := { s with pkts := eraseFirst (fun q => q == p) s.pkts }
        let s := s.updChan c fun ch =>
          { ch with enqFree := start + 1, arb := { ch.arb with granted := if r.g then ch.arb.granted else ch.arb.granted - 1 } }
        if s.offOrParked c ∨ (s.chan c).calRun then s.answerOffline c tend r
        else
          let m := s.mirrors c r
          let sn := s.nextSn
          let s := s.enqueue c r tend
          if m ∧ s.nextSn ≠ sn then s.updSub c r.loc.sc fun b =>
            { b with wb := b.wb.map fun w => if w.sn = sn then { w with mir := true } else w }
          else s

/-- FENCED_SINK (R747, R748): a packet that reaches a fenced channel's node is answered or discarded. -/
def State.fencedSink (s : State) (c : Nat) : State :=
  let hit := s.pkts.foldl (fun (a : Option Pkt) p =>
    if p.dst = nodeCh c ∧ !p.waiting ∧ p.body.cls ≤ 1 then
      (match a with | some q => if p.arr < q.arr then some p else a | none => some p) else a) none
  match hit with
  | none => s
  | some p =>
    if !(s.chan c).fenced ∨ !s.canReach p.arr then s
    else
      let s := s.fenced c p
      let s := { s with pkts := eraseFirst (fun q => q == p) s.pkts }
      match p.body with
      | .memReq r => if r.g then s else s.updArb c fun a => { a with granted := a.granted - 1 }
      | _ => s

/-! ### The Crown port (R453 to R455, R379, R890) -/

/-- A request's AGE has exceeded its requester's T3 (R445). -/
def State.overT3 (s : State) (c : Nat) (r : Req) : Bool := decide (9 * s.latTgt c r.src / 10 < s.bclk - r.created)

/-- Requests taken back from trains return to the front of their queues (R455, R460). -/
def State.requeue (s : State) (rs : List Req) : State :=
  let one := fun (s : State) (r : Req) =>
    let s := s.updWaits r.loc.ch r.src fun l => { req := r, raised := r.created, urg3 := s.overT3 r.loc.ch r } :: l
    if 16 ≤ r.src ∧ r.src < 18 then s.updLe (r.src - 16) fun w =>
      { w with ops := w.ops.map fun (o : LOp) => if o.id = r.tag then { o with st := .queued } else o }
    else s
  rs.reverse.foldl one s

/-- ALIVE of a requester that is no gateway falls at the channels chosen (R456, R457): its trains in transfer end at the next request
boundary, what they have not injected returns to its queue, and its losses and backoffs are gone. -/
def State.aliveLost (s : State) (i : Nat) (on : Nat → Bool) : State :=
  let cut := s.cutTrains fun r => r.src == i && on r.loc.ch
  (cut.1.requeue cut.2).forgetLosses i on

/-- CROWN_EMERG (R453, R455): EMERG is sampled; the train in transfer ends after the request in progress, and EGNT follows. -/
def State.crownEmerg (s : State) : State :=
  match s.crn.emerg with
  | none => s
  | some (r, u) =>
    let t := u + 1
    let c := r.loc.ch
    if !s.canReach t then s
    else
      let s := s.goto t
      let last := s.lastFlit c s.bclk
      let cut := s.cutTrains fun q => q.loc.ch == c
      let s := cut.1
      let s := match cut.2 with
        | [] => s
        | _ :: _ =>
          let s := (s.requeue cut.2).updArb c fun a => { a with revokeCnt := wrapAdd 8 a.revokeCnt 1 }
          (s.ev { box := c, code := 0x23 }).raise (.cc c) 5
      let egnt := max (s.bclk + 1) (last + 1)
      let s := s.updArb c fun a => { a with pre := some (egnt, a.lastWin, a.ptr, 0), lastWin := 20, free := egnt, idle := egnt }
      let s := s.ev { box := c, code := 0x21, qual := .is 6 21, req := some r, itag := some r.itag }
      { s with crn := { s.crn with emerg := none, egnt := some (r, egnt) } }

/-- The answer to a Crown access that reaches no slot. -/
def State.crownAnswer (s : State) (r : Req) (status t : Nat) : State :=
  s.inject (.memResp { req := r, status := status, rkind := 4 }) (nodeCh r.loc.ch) nodeSvc t

/-- The requests whose stamping began before BCLK `t` are enqueued (R347). -/
def State.enqueueBefore (s : State) (c t : Nat) : Nat → State
  | 0 => s
  | n + 1 => match s.firstReq c with
    | none => s
    | some (p, r) =>
      if max (p.arr + b2n r.write + 1) (s.chan c).enqFree < t then (s.channelEnqueue c).enqueueBefore c t n else s

/-- CROWN_ACCESS_ENQUEUE (R347, R379, R417, R454, R890): the access granted reaches its subchannel in a BCLK of its own; a
channel that is offline, parked, fenced or in a Caliper run answers OFFLINE. -/
def State.crownEnqueue (s : State) : State :=
  match s.crn.egnt with
  | none => s
  | some (r, e) =>
    let c := r.loc.ch
    let t := max e (s.chan c).enqFree
    if !s.canReach (t + 2) then s
    else
      let s := (s.enqueueBefore c t s.pkts.length).goto t
      let s := { s with crn := { s.crn with egnt := none } }
      let s := s.updChan c fun ch => { ch with enqFree := t + 1 }
      if s.offOrParked c ∨ (s.chan c).fenced ∨ (s.chan c).calRun then s.crownAnswer r 3 (t + 1)
      else
        let s := s.wake c (t + 2)
        let b := s.sub c r.loc.sc
        let sn := s.nextSn
        let a : CrnAcc := { req := r, sn := sn, at_ := t, pred := (b.predOf r.loc).map (·.1),
                            wbuf := if r.write then none else (b.bufOf r.loc).map (·.sn), mir := s.mirrors c r }
        { s with nextSn := sn + 1 }.updSub c r.loc.sc fun b =>
          { b with crown := some a, wb := b.wb.map fun (w : WLine) => if a.wbuf = some w.sn then { w with bound := w.bound ++ [sn] } else w }

end Sys2Proof.Machine
end

