-- ==== Sys2Proof/Machine/Lathe.lean ====
section
/-! DEFINITION. The Lathe (chapter 17): rings and their contexts, doorbells, descriptors and their checks, the lines an engine
issues and what comes back, completions, SETTLE, chains, failures, and the handover between the engines. -/
namespace Sys2Proof.Machine

/-! ### Memory as Movement and the ring contexts see it -/

/-- What a read of a line finds: data, or a status (R19). -/
inductive Seen where
  | data (l : Line)
  | status (n : Nat)
  deriving DecidableEq, Repr

/-- A line at a location as a read stamped now would return it: the newest buffered write of the line, else what the DRAM
holds (R373). -/
def State.seeLoc (s : State) (l : Loc) : Seen :=
  match (s.sub l.ch l.sc).bufOf l with
  | some w => if w.final ∨ w.req.poison then .status 1 else .data w.req.data
  | none =>
    let d := Machine.decodeLine ((s.chan l.ch).elog.markOf (s.rankPos l.sc l.rk)) (s.readLine l)
    if d.res = 0 then .data d.data else .status 1

/-- A line of the physical map as Movement, or an engine at a ring's context, reads it. -/
def State.seeLine (s : State) (pa : Nat) : Seen :=
  match s.dest pa with
  | .unmapped => .status 2
  | .closed => .status 3
  | .at_ l => if s.offOrParked l.ch ∨ (s.chan l.ch).fenced then .status 3 else s.seeLoc l

/-- A write of a line by Movement, or of a ring's context: it takes the place of the newest buffered write of the line, else is
stored, and mirrored where a copy has passed it (R867). -/
def State.putLine (s : State) (pa : Nat) (d : Line) : State :=
  match s.dest pa with
  | .at_ l =>
    if s.offOrParked l.ch ∨ (s.chan l.ch).fenced then s
    else match (s.sub l.ch l.sc).bufOf l with
      | some w =>
        let s := s.updSub l.ch l.sc fun b =>
          { b with wb := b.wb.map fun x => if x.sn = w.sn then { x with req := { x.req with data := d, poison := false } } else x }
        if w.slot.isSome then s.writeLine l (encodeLine d) else s
      | none =>
        s.writeLine l (encodeLine d) |>.mirror (s.mirrors l.ch { loc := l, write := true }) l d false 0 s.bclk
  | _ => s

/-! ### Rings and contexts (R763, R766) -/

/-- A ring. -/
def State.ring (s : State) (r : Nat) : Ring := Tbl.get (fun _ => {}) s.rings r

/-- Changes a ring. -/
def State.updRing (s : State) (r : Nat) (f : Ring → Ring) : State := { s with rings := Tbl.upd (fun _ => {}) s.rings r f }

/-- Changes a ring's context. -/
def State.updCtx (s : State) (r : Nat) (f : Ctx → Ctx) : State := s.updRing r fun g => { g with ctx := f g.ctx }

/-- Bytes of a line as a number, least significant byte first. -/
def lineNat (l : Line) (off n : Nat) : Nat := bits l.toNat (8 * off) (8 * n)

/-- The context that a 64-byte image gives (R766). -/
def ctxOfLine (l : Line) : Ctx :=
  { st := lineNat l 0 1, log2 := lineNat l 1 1, cfg := lineNat l 2 1 % 8, itag := lineNat l 4 2 % 4096, gen := lineNat l 6 1,
    err := lineNat l 7 1, descBase := lineNat l 8 8 % 2 ^ 52, cmplBase := lineNat l 16 8 % 2 ^ 52,
    tail := lineNat l 0x18 4 % 2 ^ 21, head := lineNat l 0x1C 4 % 2 ^ 21, cur := lineNat l 0x20 4,
    chainPos := lineNat l 0x24 2, chainAddr := lineNat l 0x28 8 % 2 ^ 52, acc := lineNat l 0x30 4 % 2 ^ 16,
    errIdx := lineNat l 0x34 4 % 2 ^ 21 }

/-- The image of a context (R766). -/
def lineOfCtx (c : Ctx) : Line :=
  BitVec.ofNat 512 (packNat [(0, 8, c.st), (8, 8, c.log2), (16, 3, c.cfg), (32, 12, c.itag), (48, 8, c.gen), (56, 8, c.err),
    (64, 52, c.descBase), (128, 52, c.cmplBase), (192, 21, c.tail), (224, 21, c.head), (256, 32, c.cur),
    (288, 16, c.chainPos), (320, 52, c.chainAddr), (384, 16, c.acc), (416, 21, c.errIdx)])

/-- A reserved bit of a context image is set (R766, R767). -/
def ctxReserved (l : Line) : Bool :=
  lineNat l 2 1 / 8 != 0 || lineNat l 3 1 != 0 || lineNat l 4 2 / 4096 != 0 || lineNat l 8 8 / 2 ^ 52 != 0 ||
  lineNat l 16 8 / 2 ^ 52 != 0 || lineNat l 0x18 4 / 2 ^ 21 != 0 || lineNat l 0x1C 4 / 2 ^ 21 != 0 ||
  lineNat l 0x26 2 != 0 || lineNat l 0x28 8 / 2 ^ 52 != 0 || bits (lineNat l 0x30 4) 3 5 != 0 ||
  lineNat l 0x32 2 != 0 || lineNat l 0x34 4 / 2 ^ 21 != 0 || lineNat l 0x38 8 != 0

/-- LTH_CTXR_BASE (R764, R809). -/
def State.ctxBase (s : State) : Nat :=
  fld (s.reg .lthPool 0x040) 24 8 <<< 24 ||| fld (s.reg .lthPool 0x044) 0 20 <<< 32

/-- The address of a ring's context. -/
def State.ctxAddr (s : State) (r : Nat) : Nat := s.ctxBase + 64 * r

/-- A range of bytes touches the context region (R765). -/
def State.inCtxr (s : State) (a n : Nat) : Bool :=
  decide (0 < n) && decide (a < s.ctxBase + 2 ^ 24) && decide (s.ctxBase < a + n)

/-- (a − b) mod 2^21. -/
def sub21 (a b : Nat) : Nat := (a + 2 ^ 21 - b % 2 ^ 21) % 2 ^ 21

/-- The checks of an attach, in order (R767): 0 for none failed. -/
def State.attachFails (s : State) (r : Nat) (l : Line) : Nat :=
  let c := ctxOfLine l
  let n := 2 ^ c.log2
  if (s.ring r).ctx.st ≠ 0 ∨ c.st ≠ 0 then 1
  else if c.log2 = 0 then 2
  else if c.log2 < 4 ∨ 20 < c.log2 ∨ c.cfg % 4 = 0 ∨ c.cfg % 4 = 3 ∨ ctxReserved l ∨ n < sub21 c.tail c.head then 3
  else if c.descBase % 64 ≠ 0 ∨ c.cmplBase % 64 ≠ 0 then 4
  else if s.inCtxr c.descBase (32 * n) ∨ s.inCtxr c.cmplBase (16 * n) ∨ 2 ^ 52 < c.descBase + 32 * n ∨
      2 ^ 52 < c.cmplBase + 16 * n then 5
  else 0

/-- The engine that serves a ring (R763, R797): its own, or the partner while its own is offline. -/
def State.srvOf (s : State) (r : Nat) : Nat := if (s.le (r % 2)).st ≤ 1 then r % 2 else 1 - r % 2

/-- RUN if there is work, else IDLE. -/
def Ctx.wake (c : Ctx) : Ctx := { c with st := if c.tail = c.head then 1 else 2 }

/-- A context lookup of an engine (R761, R806): a hit, or a miss that reads the context and may evict the oldest one. -/
def State.lookup (s : State) (e r : Nat) : State :=
  if (s.le e).cached.contains r then
    (s.updLe e fun w => { w with ctxHit := wrapAdd 32 w.ctxHit 1 }).ev { box := boxLe e, code := 0x04 }
  else
    let s := (s.updLe e fun w => { w with ctxMiss := wrapAdd 32 w.ctxMiss 1 }).ev { box := boxLe e, code := 0x05 }
    let s := match (s.le e).cached with
      | [] => s
      | old :: rest =>
        if (s.le e).cached.length < 2048 then s
        else (s.putLine (s.ctxAddr old) (lineOfCtx (s.ring old).ctx)).updLe e fun w => { w with cached := rest }
    s.updLe e fun w => { w with cached := w.cached ++ [r] }

/-- A ring's context is written back (R768, R797). -/
def State.writeBack (s : State) (r : Nat) : State := s.putLine (s.ctxAddr r) (lineOfCtx (s.ring r).ctx)

/-- A ring leaves the cache of both engines. -/
def State.uncache (s : State) (r : Nat) : State :=
  (List.range 2).foldl (fun s e => s.updLe e fun w => { w with cached := w.cached.filter fun x => x != r }) s

/-! ### Attach, detach and flush (R767, R768) -/

/-- A ring is attached from the image in its slot (R767): the RESULT, or none while its line is offline (R784). -/
def State.attach? (s : State) (r : Nat) : Option (State × Nat) :=
  match s.seeLine (s.ctxAddr r) with
  | .status 3 => none
  | .status _ => some ({ s with nextFree := s.nextFree + 1 }, fld (Config.freeWord s.nextFree) 0 3)
  | .data l =>
    let n := s.attachFails r l
    if n ≠ 0 then some (s, n)
    else
      let c := ctxOfLine l
      let c := ({ c with cur := 0, chainPos := 0, chainAddr := 0, acc := 0, err := 0, errIdx := 0,
                         gen := s.genOf c.itag } : Ctx).wake
      let s := s.updRing r fun _ => { ctx := c, fetchIdx := c.head }
      some (s.lookup (s.srvOf r) r, 0)

/-- A ring is detached: its context is written back as OFF and it leaves the cache (R768, R851). -/
def State.dropRing (s : State) (r : Nat) : State :=
  let s := s.updCtx r fun c => { c with st := 0 }
  ((s.writeBack r).uncache r).updRing r fun _ => {}

/-- DETACH (R768): refused with STATE unless the ring is IDLE or ERROR. -/
def State.detach (s : State) (r : Nat) : State × Nat :=
  let st := (s.ring r).ctx.st
  if st = 1 ∨ st = 3 then (s.dropRing r, 0) else (s, 1)

/-- FLUSH (R768): the cached context of an attached ring is written back as it stands. -/
def State.flushRing (s : State) (r : Nat) : State := if (s.ring r).ctx.st = 0 then s else s.writeBack r

/-- A ring command ends (R812, R813). -/
def State.poolDone (s : State) (n : Nat) : State :=
  { s with pool := { s.pool with busy := false, result := n } }.raise .lthPool 0

/-- CMD of LTH_RING_SEL (R812). -/
def State.ringCmd (s : State) (r cmd : Nat) : State :=
  if s.pool.busy then s
  else if cmd = 1 then
    match s.attach? r with
    | some (s, n) => s.poolDone n
    | none => { s with pool := { s.pool with busy := true, ring := r } }
  else if cmd = 2 then let x := s.detach r; x.1.poolDone x.2
  else if cmd = 3 then (s.flushRing r).poolDone 0
  else s

/-- An ATTACH whose line was offline reads it again (R767, R784). -/
def State.poolRetry (s : State) : State :=
  if !s.pool.busy then s
  else match s.attach? s.pool.ring with
    | some (s, n) => s.poolDone n
    | none => s

/-! ### Halts (R796) and interrupts (R788, R859) -/

/-- A ring halts in ERROR (R796). -/
def State.haltRing (s : State) (r st idx : Nat) : State :=
  let e := s.srvOf r
  let i := (s.ring r).ctx.itag
  let s := s.updRing r fun g =>
    { g with ctx := { g.ctx with st := 3, err := st, errIdx := idx }, jobs := [], pre := [], cpre := [], fetchIdx := g.ctx.head }
  let s := s.updLe e fun w => { w with halts := satAdd 255 w.halts 1 }
  ((s.ev { box := boxLe e, code := 0x0D }).raise (.lth e) 0).raise (.ins i) 1

/-! ### Doorbells (R769 to R771) -/

/-- A doorbell written on page `i` leaves for the engine in BCLK `t` (R769), after a route-epoch hold (R486). -/
def State.ringBell (s : State) (i lo hi t : Nat) : State :=
  let r := hi % 2 ^ 18
  let n := 2 + 2 * s.hops nodeSvc (nodeLe (s.srvOf r))
  { s with bells := s.bells ++ [{ page := i, ring := r, tail := lo % 2 ^ 21, restart := hi.testBit 31, arr := t + n,
                                  held := if s.trt.hold then some n else none }] }

/-- A doorbell at its engine (R769 to R771). -/
def State.bellAt (s : State) (b : Bell) : State :=
  let r := b.ring
  let e := s.srvOf r
  let c := (s.ring r).ctx
  if c.st = 0 ∨ c.itag ≠ b.page then
    let s := s.updLe e fun w => { w with dbRej := satAdd 255 w.dbRej 1 }
    (s.ev { box := boxLe e, code := 0x0C }).raise (.lth e) 3
  else
    let s := s.lookup e r
    let only := !(s.page (.lth e)).en || (c.itag != 0 && decide (3 ≤ (s.insOf c.itag).st))
    let n := sub21 b.tail c.head
    let ok := decide (sub21 c.tail c.head ≤ n) && decide (n ≤ 2 ^ c.log2)
    let s := if ok then
        (s.updCtx r fun c => { c with tail := b.tail, st := if c.st = 1 ∧ n ≠ 0 ∧ !only then 2 else c.st }).ev
          { box := boxLe e, code := 0x0B }
      else
        (s.updLe e fun w => { w with dbStale := satAdd 255 w.dbStale 1 }).ev { box := boxLe e, code := 0x0C }
    if b.restart ∧ !only ∧ (s.ring r).ctx.st = 3 then s.updCtx r fun c => ({ c with err := 0 } : Ctx).wake else s

/-- The doorbell, among those chosen, that arrives first. -/
def State.firstBell (s : State) (p : Bell → Bool) : Option Bell :=
  (s.bells.filter fun b => b.held.isNone && p b).foldl (fun a b => match a with | some x => if b.arr < x.arr then some b else a | none => some b) none

/-- A doorbell chosen arrives. -/
def State.bellArrives (s : State) (p : Bell → Bool) : State :=
  match s.firstBell p with
  | none => s
  | some b =>
    if !s.canReach b.arr then s
    else
      let s := s.goto b.arr
      { s with bells := eraseFirst (fun x => x == b) s.bells }.bellAt b

/-! ### Descriptors and their checks (R773 to R775) -/

/-- A descriptor in a line, at byte offset 0 or 32 (R773). -/
def descOfLine (l : Line) (o : Nat) : Desc :=
  let w := lineNat l o 4
  { op := bits w 0 4, irq := w.testBit 4, end_ := w.testBit 5, hint := bits w 6 2, swap := bits w 8 3,
    len := lineNat l (o + 4) 4, src := lineNat l (o + 8) 8, dst := lineNat l (o + 0x10) 8, user := lineNat l (o + 0x18) 4 }

/-- The operation moves lines. -/
def Desc.moves (d : Desc) : Bool := decide (1 ≤ d.op) && decide (d.op ≤ 5)
/-- It uses SRC as an address. -/
def Desc.usesSrc (d : Desc) : Bool := d.op == 1 || d.op == 4 || d.op == 5
/-- It uses DST as an address. -/
def Desc.usesDst (d : Desc) : Bool := d.moves

/-- The checks 2 to 6 of a descriptor: the status and whether it halts the ring; none where they pass (R775). -/
def State.descFails (s : State) (d : Desc) : Option (Nat × Bool) :=
  let bad := fun (p : Nat → Bool) => (d.usesSrc && p d.src) || (d.usesDst && p d.dst)
  if d.op = 0 ∨ 8 ≤ d.op ∨ d.hint = 3 ∨ (d.op = 4 ∧ (d.swap = 0 ∨ 6 ≤ d.swap)) then some (4, true)
  else if d.moves ∧ d.len = 0 then some (0, false)
  else if d.moves ∧ (d.len % 64 ≠ 0 ∨ bad fun a => a % 64 != 0) then some (5, true)
  else if d.op = 7 ∧ d.src % 32 ≠ 0 then some (5, true)
  else if d.moves ∧ (bad fun a => s.inCtxr a d.len) then some (8, false)
  else if d.op = 7 ∧ s.inCtxr d.src 32 then some (8, true)
  else if d.moves ∧ (bad fun a => decide (2 ^ 52 < a + d.len)) then some (2, false)
  else if d.op = 7 ∧ 2 ^ 52 < d.src + 32 then some (2, true)
  else none

/-- The result of a descriptor's checks as the ring keeps it: status, 256 for a halt, 512 for a failure, 1,024 for a fetch
that failed. -/
def State.descCode (s : State) (d : Desc) : Nat :=
  match s.descFails d with
  | some (st, h) => st + 256 * b2n h + 512
  | none => 0

/-- How many lines a descriptor has. -/
def Desc.lines (d : Desc) : Nat := if d.moves then d.len / 64 else 0

/-- Its lines run in descending order: the ranges of a copy overlap with DST above SRC (R777). -/
def Desc.down (d : Desc) : Bool :=
  (d.op == 1 || d.op == 4) && decide (d.src < d.dst) && decide (d.dst < d.src + d.len)

/-- The offset of the `k`-th line in line order. -/
def Desc.offset (d : Desc) (k : Nat) : Nat := if d.down then d.len - 64 * (k + 1) else 64 * k

/-- The line number in line order of an offset. -/
def Desc.lineOf (d : Desc) (off : Nat) : Nat := if d.down then d.len / 64 - 1 - off / 64 else off / 64

/-- A line of FILL: the pattern eight times; ZERO: zeros (R774). -/
def Desc.fill (d : Desc) : Line :=
  if d.op = 2 then BitVec.ofNat 512 (packNat ((List.range 8).map fun q => (64 * q, 64, d.src))) else 0

/-- Rearranges the units of `w` bits in groups of `g`, each group reversed. -/
def revUnits (l : Line) (w g : Nat) : Line :=
  BitVec.ofNat 512 (packNat ((List.range (512 / w)).map fun i =>
    (w * i, w, bits l.toNat (w * (i / g * g + (g - 1 - i % g))) w)))

/-- SWAP of a SWAPCOPY (R774). -/
def swapLine (mode : Nat) (l : Line) : Line :=
  if mode = 1 then revUnits l 8 2 else if mode = 2 then revUnits l 8 4 else if mode = 3 then revUnits l 8 8
  else if mode = 4 then revUnits l 16 2 else if mode = 5 then revUnits l 16 4 else l

/-! ### The status of a descriptor (R783) -/

/-- The order of R783. -/
def statusRank (st : Nat) : Nat :=
  if st = 0 then 9 else if st = 4 then 0 else if st = 5 then 1 else if st = 6 then 2 else if st = 8 then 3
  else if st = 2 then 4 else if st = 7 then 5 else if st = 1 then 6 else 7

/-- A line of a job meets a status: the first of R783's order, named by the first line in line order. -/
def Job.meet (j : Job) (st off pos k : Nat) : Job :=
  if statusRank st < statusRank j.status ∨
     (st = j.status ∧ j.named ∧ (pos < j.pos ∨ (pos = j.pos ∧ k < j.k))) then
    { j with status := st, off := off, pos := pos, k := k, named := true }
  else j

/-- The job stops issuing lines. -/
def Job.stop (j : Job) : Job := { j with issued := true }

/-- Changes a job of a ring. -/
def State.updJob (s : State) (r n : Nat) (f : Job → Job) : State :=
  s.updRing r fun g => { g with jobs := g.jobs.map fun j => if j.sn = n then f j else j }

/-! ### Operations (R778 to R781) -/

/-- Line buffers in use (R778). -/
def Le.bufs (w : Le) : Nat := (w.ops.filter fun o => o.buf && !(o.kind == .write && o.st == .sent)).length

/-- The lowest operation number not in use. -/
def Le.freeId (w : Le) : Option Nat := (List.range 1024).find? fun i => !(w.ops.any fun o => o.id == i)

/-- Changes an operation. -/
def State.updOp (s : State) (e id : Nat) (f : LOp → LOp) : State :=
  s.updLe e fun w => { w with ops := w.ops.map fun o => if o.id = id then f o else o }

/-- Releases an operation slot. -/
def State.freeOp (s : State) (e id : Nat) : State := s.updLe e fun w => { w with ops := w.ops.filter fun o => o.id != id }

/-- What becomes of a line request at decode (R779, R783, R795). -/
inductive LGo where
  | fail (st : Nat)
  | offline
  | go (l : Loc)
  deriving DecidableEq, Repr

/-- The permission and decode of a line for an owner. -/
def State.lDecode (s : State) (itag pa : Nat) : LGo :=
  if !s.lineMay itag pa then .fail 8
  else match s.dest pa with
    | .unmapped => .fail 2
    | .closed => .offline
    | .at_ l => .go l

/-- The operation writes memory. -/
def OpKind.writes : OpKind → Bool
  | .write => true | .cmpl => true | _ => false

/-- The request of an operation. -/
def LOp.req (o : LOp) (e : Nat) (l : Loc) (t : Nat) : Req :=
  { src := 16 + e, tag := o.id, write := o.kind.writes, poison := o.poison, pa := o.pa, loc := l, itag := o.itag, gen := o.gen,
    open_ := o.open_, data := o.data, thr := o.thr, created := t, hdrAt := t }

/-- An operation's request is raised at its channel's arbiter in BCLK `t`, or held by Burl (R688, R779). -/
def State.raiseOp (s : State) (e : Nat) (o : LOp) (l : Loc) (t : Nat) : State :=
  let s := s.ev { box := boxLe e, code := if o.kind.writes then 0x03 else 0x02, req := some (o.req e l t), itag := some o.itag }
  let put := fun (s : State) =>
    (s.updOp e o.id fun o => { o with st := .queued }).updLe e fun w =>
      { w with cq := insertWait { req := o.req e l t, raised := t } w.cq }
  let hold := fun (s : State) (h : HoldEnt) =>
    let s := s.ev { box := boxLe e, code := 0x09, req := some (o.req e l t), itag := some o.itag }
    let s := s.tally o.itag 7 1
    let s := s.updJob o.ring o.job fun j => { j with thr := true }
    let s := s.updOp e o.id fun o => { o with st := .held, thr := true }
    s.updLe e fun w =>
      let hs := replaceFirst (fun x => x == h) (fun x => { x with held := x.held ++ [{ (o.req e l t) with thr := true }] }) w.holds
      { w with holds := hs }
  let r := o.req e l t
  match (s.le e).holds.find? fun h => h.held.any fun q => q.pa / 64 == o.pa / 64 with
  | some h => hold s h
  | none => match (s.le e).holds.find? fun h => h.hits r with
    | none => put s
    | some h =>
      if s.esc.frame < h.next then hold s h
      else put (s.updLe e fun w =>
        let hs := replaceFirst (fun x => x == h) (fun x => { x with next := s.esc.frame + x.gap }) w.holds
        { w with holds := hs })

/-- The ring's owner lets it start lines: ACTIVE or RESETTING (R818, R825, R846). -/
def State.ownerRuns (s : State) (r : Nat) : Bool := (s.insOf (s.ring r).ctx.itag).st != 3 && s.insMay (s.ring r).ctx.itag

/-- A write answered after its descriptor's completion fails (R791). -/
def State.lateFailure (s : State) (r st idx : Nat) : State :=
  let e := s.srvOf r
  let s := s.updLe e fun w => { w with lateFail := satAdd 255 w.lateFail 1 }
  let s := s.raise (.lth e) 2
  match (s.ring r).jobs with
  | j :: _ =>
    if j.top.op = 6 then s.updJob r j.sn fun j => { (j.meet st 0 0 0) with halt := true, named := false }
    else s.haltRing r st idx
  | [] => s.haltRing r st idx

/-- A line of an operation ends with a status that is not OK (R775, R783, R788, R791). -/
def State.opFails (s : State) (e : Nat) (o : LOp) (st : Nat) : State :=
  let s := s.freeOp e o.id
  let s := s.tally o.itag 5 1
  let g := s.ring o.ring
  match o.kind with
  | .fetch => s.updRing o.ring fun g => { g with pre := g.pre ++ [(st + 256 + 512 + 1024, {})], fetchIdx := (g.fetchIdx + 1) % 2 ^ 21 }
  | .chain => s.updRing o.ring fun g => { g with cpre := g.cpre ++ [(st + 256 + 512 + 1024, {})] }
  | .cmpl => s.haltRing o.ring st o.idx
  | _ =>
    match g.jobs.find? fun j => j.sn == o.job with
    | some j =>
      let k := j.d.lineOf o.off
      s.updJob o.ring o.job fun j => (j.meet st o.off o.pos k).stop
    | none => s.lateFailure o.ring st o.idx

/-- LATHE_TMO in BCLK (R810). -/
def State.latheTmo (s : State) : Nat := s.bin.us (fld (s.reg .lthPool 0x048) 16 16)

/-- The BCLK of the first OFFLINE that bears on an operation (R784): its descriptor's, or its own once its job is gone. -/
def State.firstOffline (s : State) (o : LOp) : Option Nat :=
  match (s.ring o.ring).jobs.find? fun j => j.sn == o.job with
  | some j => j.offline
  | none => o.offline

/-- An operation is answered OFFLINE (R784): it waits 1 µs, or its line ends in TIMEOUT. -/
def State.opOffline (s : State) (e : Nat) (o : LOp) : State :=
  let first := (s.firstOffline o).getD s.bclk
  let s := s.updJob o.ring o.job fun j => { j with offline := some first }
  if first + s.latheTmo ≤ s.bclk then s.opFails e o 7
  else s.updOp e o.id fun o => { o with st := .retry (s.bclk + s.bin.us 1), offline := some first }

/-- An operation's request is decoded and raised in BCLK `t`. -/
def State.startOp (s : State) (e : Nat) (o : LOp) (t : Nat) : State :=
  match s.lDecode o.itag o.pa with
  | .fail st => s.opFails e o st
  | .offline => s.opOffline e o
  | .go l => s.raiseOp e o l t

/-- A new operation takes a slot, and a buffer where it reads (R778). -/
def State.newOp (s : State) (e : Nat) (o : LOp) : State :=
  match (s.le e).freeId with
  | none => s
  | some id =>
    let o := { o with id := id }
    (s.updLe e fun w => { w with ops := w.ops ++ [o] }).startOp e o (s.bclk + 6)

/-! ### Issuing lines (R776, R777, R781) -/

/-- A read of the same line in the same descriptor has not been admitted, and does not wait in the queue the write would join
(R780, R781). -/
def State.mustWait (s : State) (e : Nat) (o : LOp) : Bool :=
  (s.le e).ops.any fun x => x.kind == .read && x.ring == o.ring && x.job == o.job && x.pos == o.pos && x.pa == o.pa &&
    (match x.st with | .held => true | .retry _ => true | .order => true | _ => false)

/-- The work a ring offers its engine. -/
inductive Work where
  | fetch | chainFetch | startJob | startChain | advance | line
  deriving DecidableEq, Repr

/-- An operation of a ring of one of the kinds is in progress. -/
def State.hasOp (s : State) (r : Nat) (p : LOp → Bool) : Bool :=
  (List.range 2).any fun e => (s.le e).ops.any fun o => o.ring == r && p o

/-- The next piece of work of a ring in RUN (R775 to R777, R784, R790, R792). -/
def State.ringWork (s : State) (r : Nat) : Option Work :=
  let g := s.ring r
  let waits := s.hasOp r fun o => match o.st with | .retry _ => true | _ => false
  let fetching := s.hasOp r fun o => o.kind == .fetch
  if g.ctx.st ≠ 2 ∨ !s.ownerRuns r ∨ waits then none
  else if g.pre.length < 7 ∧ g.fetchIdx ≠ g.ctx.tail ∧ !fetching ∧
      !(match g.pre.getLast? with | some (c, _) => c.testBit 8 | none => false) then some .fetch
  else
    let start := if g.pre = [] then none else some Work.startJob
    match g.jobs.getLast? with
    | none => start
    | some j =>
      if j.issued then (if j.top.op = 6 ∨ j.halt then none else start)
      else if j.inChain ∧ j.fetch then
        if g.cpre ≠ [] then some .startChain
        else if s.hasOp r fun o => o.kind == .chain then none else some .chainFetch
      else if j.d.op = 6 then (if s.hasOp r fun o => o.kind.writes then none else some .advance)
      else if j.next < j.d.lines then some .line
      else some .advance

/-- The address of descriptor `n` of a ring. -/
def Ctx.descAddr (c : Ctx) (n : Nat) : Nat := c.descBase + 32 * (n % 2 ^ c.log2)

/-- The HINT of an operation (R773). -/
def hintOpenOf (c : Ctx) (d : Desc) : Bool := if d.hint = 0 then c.cfg % 4 == 2 else d.hint == 2

/-- The job of a descriptor whose checks are done starts (R775, R777, R792), continuing where the context says (R797). -/
def State.startJob (s : State) (r : Nat) : State :=
  let g := s.ring r
  match g.pre with
  | [] => s
  | (code, d) :: rest =>
    let idx := match g.jobs.getLast? with | some j => (j.idx + 1) % 2 ^ 21 | none => g.ctx.head
    let c := g.ctx
    let acc := c.acc
    let j : Job := { sn := g.nextJob, idx := idx, top := d, d := d }
    let resume := idx = c.head ∧ code / 512 = 0
    let j := if code / 512 ≠ 0 then
        let st := code % 256
        { (j.meet st d.len 0 0) with named := false, off := d.len, halt := code.testBit 8, form := st ≠ 0 ∧ code.testBit 8,
                                     issued := true }
      else if d.op = 7 then
        { j with inChain := true, fetch := true, chainAddr := if resume ∧ c.chainAddr ≠ 0 then c.chainAddr else d.src,
                 chainPos := if resume then c.chainPos else 0 }
      else if d.op = 6 then { j with issued := true }
      else if resume ∧ d.op ≠ 5 then { j with next := c.cur / 64 } else j
    let j := if resume then
        let j := { j with late := acc.testBit 0, corr := acc.testBit 1, thr := acc.testBit 2 }
        if bits acc 8 8 ≠ 0 then j.meet (bits acc 8 8) 0 0 0 else j
      else j
    s.updRing r fun g =>
      { g with pre := rest, jobs := g.jobs ++ [j], nextJob := g.nextJob + 1,
               ctx := { g.ctx with cur := 0, chainPos := 0, chainAddr := 0, acc := 0 } }

/-- The chain of a job ends. -/
def Job.endChain (j : Job) : Job := { j with issued := true, fetch := false }

/-- The next chain descriptor starts (R792 to R794): it counts one toward CHAIN_MAX. -/
def State.startChain (s : State) (r : Nat) : State :=
  let g := s.ring r
  let max := fld (s.reg .lthPool 0x048) 0 16
  match g.cpre, g.jobs.getLast? with
  | (code, d) :: rest, some j =>
    let s := s.updRing r fun g => { g with cpre := rest }
    let pos := j.chainPos + 1
    let st := code % 256
    s.updJob r j.sn fun j =>
      if max < pos then
        { (j.meet 6 0 pos 0).endChain with halt := true }
      else
        let j := { j with chainPos := pos, fetch := false, next := 0 }
        if code / 512 = 0 then
          if d.op = 7 then { j with d := d, fetch := true, chainAddr := d.src }
          else { j with d := d, chainAddr := j.chainAddr + 32 }
        else if code.testBit 8 then { (j.meet st 0 pos 0).endChain with halt := true, form := true }
        else
          let j := if st = 0 then j else j.meet st 0 pos 0
          { j with d := { d with len := 0 }, chainAddr := j.chainAddr + 32 }
  | _, _ => s

/-- A job whose present descriptor has issued every line goes on: to the next of its chain, or it has issued its last. -/
def State.advanceJob (s : State) (r : Nat) : State :=
  match (s.ring r).jobs.getLast? with
  | none => s
  | some j =>
    let jump := j.inChain && !j.d.end_ 
    let s := if jump then s.updJob r j.sn fun j => { j with fetch := true } else s.updJob r j.sn Job.endChain
    if jump then s else s.updRing r fun g => { g with cpre := [] }

/-- The next line of a job is issued (R774, R778). -/
def State.issueLine (s : State) (e r : Nat) : State :=
  let g := s.ring r
  match g.jobs.getLast? with
  | none => s
  | some j =>
    let d := j.d
    let off := d.offset j.next
    let s := s.updJob r j.sn fun j => { j with next := j.next + 1 }
    let o : LOp := { ring := r, itag := g.ctx.itag, gen := g.ctx.gen, job := j.sn, idx := j.idx, pos := j.chainPos, off := off,
                     open_ := hintOpenOf g.ctx d, pa := d.src + off, dst := d.dst + off }
    if d.op = 1 ∨ d.op = 4 then s.newOp e { o with kind := .read, buf := true, swap := if d.op = 4 then d.swap else 0 }
    else if d.op = 5 then
      (s.newOp e { o with kind := .chkA, buf := true }).newOp e { o with kind := .chkB, buf := true, pa := d.dst + off }
    else s.newOp e { o with kind := .write, pa := d.dst + off, data := d.fill }

/-- A ring's next piece of work is done by an engine. -/
def State.doWork (s : State) (e r : Nat) (w : Work) : State :=
  let g := s.ring r
  let o : LOp := { ring := r, itag := g.ctx.itag, gen := g.ctx.gen, idx := g.fetchIdx, open_ := g.ctx.cfg % 4 == 2 }
  match w with
  | .fetch => s.newOp e { o with kind := .fetch, pa := g.ctx.descAddr g.fetchIdx / 64 * 64 }
  | .chainFetch =>
    match g.jobs.getLast? with
    | none => s
    | some j =>
      if s.inCtxr j.chainAddr 32 ∨ 2 ^ 52 < j.chainAddr + 32 then
        let st := if s.inCtxr j.chainAddr 32 then 8 else 2
        s.updRing r fun g => { g with cpre := [(st + 256 + 512, {})] }
      else s.newOp e { o with kind := .chain, job := j.sn, idx := j.idx, off := j.chainAddr, pa := j.chainAddr / 64 * 64 }
  | .startJob => s.startJob r
  | .startChain => s.startChain r
  | .advance => s.advanceJob r
  | .line => s.issueLine e r

/-- Slots and buffers a piece of work takes (R778). -/
def State.workNeeds (s : State) (r : Nat) (w : Work) : Nat × Nat :=
  match w with
  | .fetch => (1, 0)
  | .chainFetch => (1, 0)
  | .line =>
    match (s.ring r).jobs.getLast? with
    | some j => if j.d.op = 5 then (2, 2) else if j.d.op = 1 ∨ j.d.op = 4 then (1, 1) else (1, 0)
    | none => (0, 0)
  | _ => (0, 0)

/-- A ring whose engine is to take it back starts no line (R799). -/
def State.handsBack (s : State) (r : Nat) : Bool := decide (2 ≤ (s.le (r % 2)).st) && flag (s.reg (.lth (r % 2)) 0x040) 0

/-- The rings of an engine that have work, in ascending order. -/
def State.workRings (s : State) (e : Nat) : List Nat :=
  (s.rings.filter fun x => s.srvOf x.1 == e && !s.handsBack x.1 && (s.ringWork x.1).isSome).map (·.1)

/-- The ring whose turn it is (R776). -/
def State.turnOf (s : State) (e : Nat) : Option Nat :=
  let w := s.le e
  let l := s.workRings e
  if l.contains w.turn ∧ w.turnCnt < fld (s.reg (.lth e) 0x040) 1 7 then some w.turn
  else match l.find? fun r => decide (w.turn < r) with
    | some r => some r
    | none => l.head?

/-- A copy's write that waited under R781 and may go. -/
def State.readyWrite (s : State) (e : Nat) : Option LOp := (s.le e).ops.find? fun o => o.st == .order && !s.mustWait e o

/-- LATHE_LINE_ISSUE (R776 to R781): the engine does the next piece of work of the ring whose turn it is. -/
def State.lineIssue (s : State) (e : Nat) : State :=
  let w := s.le e
  let t := max s.bclk w.free
  if w.st ≠ 0 ∨ !(s.page (.lth e)).en ∨ !s.canReach t then s
  else match s.readyWrite e with
    | some o => (s.goto t).startOp e o ((s.goto t).bclk + 1)
    | none =>
      if s.map.hold then s else
      match s.turnOf e with
      | none => s
      | some r =>
        match s.ringWork r with
        | none => s
        | some k =>
          let n := s.workNeeds r k
          let s := s.goto t
          if 1024 < w.ops.length + n.1 ∨ 1024 < w.bufs + n.2 then s.ev { box := boxLe e, code := 0x0E }
          else
            let s := (s.lookup e r).doWork e r k
            s.updLe e fun w =>
              { w with turn := r, turnCnt := if w.turn = r then w.turnCnt + b2n (k == .line) else b2n (k == .line),
                       free := if n.1 = 0 then w.free else t + 1 }

/-! ### What comes back (R775, R778, R783, R784, R788, R791) -/

/-- A response packet at an engine whose operation is chosen, the one that arrives first. -/
def State.firstLeResp (s : State) (e : Nat) (p : LOp → Bool) : Option (Pkt × Resp × LOp) :=
  (s.pkts.filterMap fun k => match k.body with
    | .memResp r =>
      if k.dst = nodeLe e ∧ !k.waiting then
        match (s.le e).ops.find? fun o => o.id == r.req.tag with
        | some o => if p o then some (k, r, o) else none
        | none => none
      else none
    | _ => none).foldl (fun a x => match a with
    | some y => if x.1.arr < y.1.arr then some x else a
    | none => some x) none

/-- LATE, CORR and the tallies of a response (R783, R840). -/
def State.leFlags (s : State) (r : Resp) (o : LOp) : State :=
  let s := if r.late then s.tally o.itag 4 1 else s
  s.updJob o.ring o.job fun j => { j with late := j.late || r.late, corr := j.corr || r.corr }

/-- The data of a copy's read is back (R480, R643, R774, R781): the write of its line follows. Its address was decoded while the read was
in flight, so an address-map hold waits for it (R244, `mapDrained`). -/
def State.copyRead (s : State) (e : Nat) (r : Resp) (o : LOp) : State :=
  let k := match (s.ring o.ring).jobs.find? fun j => j.sn == o.job with | some j => j.d.lineOf o.off | none => 0
  let poison := r.status == 1
  let s := if poison then (s.tally o.itag 5 1).updJob o.ring o.job fun j => j.meet 1 o.off o.pos k else s
  let o := { o with kind := .write, pa := o.dst, data := if poison then 0 else swapLine o.swap r.data, poison := poison,
                    st := .order }
  let s := s.updOp e o.id fun _ => o
  if s.mustWait e o then s else s.startOp e o (s.bclk + 1)

/-- A line of CHECK has both its halves (R774, R783, R840). -/
def State.checkLine (s : State) (e : Nat) (a b : LOp) : State :=
  let k := match (s.ring a.ring).jobs.find? fun j => j.sn == a.job with | some j => j.d.lineOf a.off | none => 0
  let s := (s.freeOp e a.id).freeOp e b.id
  let s := s.tally a.itag 6 64
  let found := fun (j : Job) (st : Nat) (diff : Bool) =>
    if (j.named || j.diff) ∧ (j.pos < a.pos ∨ (j.pos = a.pos ∧ j.k < k)) then j
    else { j with status := if st = 1 ∨ j.status = 1 then st else j.status, diff := diff, off := a.off, pos := a.pos, k := k,
                  named := true, issued := true }
  if a.poison ∨ b.poison then (s.tally a.itag 5 1).updJob a.ring a.job fun j => found j 1 false
  else if a.data ≠ b.data then s.updJob a.ring a.job fun j => found j 0 true
  else s

/-- A half of a CHECK line is back. -/
def State.checkRead (s : State) (e : Nat) (r : Resp) (o : LOp) : State :=
  let o := { o with data := r.data, poison := r.status == 1, st := .answered }
  let s := s.updOp e o.id fun _ => o
  let other := if o.kind = .chkA then OpKind.chkB else OpKind.chkA
  match (s.le e).ops.find? fun x => x.kind == other && x.ring == o.ring && x.job == o.job && x.off == o.off && x.pos == o.pos with
  | some x => if x.st = .answered then s.checkLine e o x else s
  | none => s.freeOp e o.id

/-- A response to an operation of the engine that is no fetch. -/
def State.opResp (s : State) (e : Nat) (r : Resp) (o : LOp) : State :=
  if o.gen ≠ s.genOf o.itag then (s.ev { box := boxLe e, code := 0x0A, req := some r.req, itag := some o.itag }).freeOp e o.id
  else
    let s := s.leFlags r o
    if r.status = 3 then s.opOffline e o
    else match o.kind with
      | .read => if r.status = 0 ∨ r.status = 1 then s.copyRead e r o else s.opFails e o r.status
      | .write => if r.status = 0 then (s.tally o.itag 6 64).freeOp e o.id else s.opFails e o r.status
      | .cmpl =>
        if r.status = 0 then
          let s := s.freeOp e o.id
          if o.irq then s.raise (.ins o.itag) 0 else s
        else s.opFails e o r.status
      | _ => if r.status = 0 ∨ r.status = 1 then s.checkRead e r o else s.opFails e o r.status

/-- Whether an operation fetches descriptors. -/
def LOp.fetches (o : LOp) : Bool := o.kind == .fetch || o.kind == .chain

/-- The other half of a CHECK line is back already. -/
def State.halfBack (s : State) (e : Nat) (o : LOp) : Bool :=
  (o.kind == .chkA || o.kind == .chkB) && (s.le e).ops.any fun x =>
    x.st == .answered && x.ring == o.ring && x.job == o.job && x.off == o.off && x.pos == o.pos

/-- LATHE_LINE_RESPONSE (R479, R778): a line of CHECK ends in the BCLK after its later return. -/
def State.lineResponse (s : State) (e : Nat) : State :=
  match s.firstLeResp e fun o => !o.fetches with
  | none => s
  | some (k, r, o) =>
    let t := k.arr + b2n (s.halfBack e o)
    if !s.canReach t then s
    else
      let s := s.goto t
      { s with pkts := eraseFirst (fun q => q == k) s.pkts }.opResp e r o

/-- The descriptors of a fetched line that the ring may still start, with the results of their checks (R775, R777). -/
def State.fetched (s : State) (o : LOp) (l : Line) : State :=
  let code := fun (d : Desc) => (s.descCode d, d)
  let g := s.ring o.ring
  if o.kind = .chain then
    let first := descOfLine l (o.off % 64)
    let two := o.off % 64 = 0 ∧ !first.end_ ∧ first.op ≠ 7
    s.updRing o.ring fun g =>
      { g with cpre := g.cpre ++ code first :: (if two then [code (descOfLine l 32)] else []) }
  else
    let n := g.fetchIdx
    let two := n % 2 = 0 ∧ (n + 1) % 2 ^ 21 ≠ g.ctx.tail
    let ds := code (descOfLine l (32 * (n % 2))) :: (if two then [code (descOfLine l 32)] else [])
    s.updRing o.ring fun g => { g with pre := g.pre ++ ds, fetchIdx := (n + ds.length) % 2 ^ 21 }

/-- DESCRIPTOR_FETCH_RETURN (R765, R775, R792 to R794). -/
def State.fetchReturn (s : State) (e : Nat) : State :=
  match s.firstLeResp e LOp.fetches with
  | none => s
  | some (k, r, o) =>
    if !s.canReach k.arr then s
    else
      let s := s.goto k.arr
      let s := { s with pkts := eraseFirst (fun q => q == k) s.pkts }
      if o.gen ≠ s.genOf o.itag then (s.ev { box := boxLe e, code := 0x0A, req := some r.req, itag := some o.itag }).freeOp e o.id
      else if r.status = 3 then s.opOffline e o
      else if r.status = 0 then (s.freeOp e o.id).fetched o r.data
      else s.opFails e o r.status

/-- OFFLINE_REISSUE (R784): 1 µs after an OFFLINE answer the request is decoded and raised again, after an address-map hold (R244), or
its line takes TIMEOUT. -/
def State.offlineReissue (s : State) (e : Nat) : State :=
  let first := (s.le e).ops.foldl (fun (a : Option (Nat × LOp)) o => match o.st with
    | .retry t => (match a with | some x => if t < x.1 then some (t, o) else a | none => some (t, o))
    | _ => a) none
  match first with
  | none => s
  | some (t, o) =>
    if !s.canReach t then s
    else
      let s := s.goto t
      if ((s.firstOffline o).getD t) + s.latheTmo ≤ s.bclk then s.opFails e o 7
      else if s.map.hold then s
      else (s.ev { box := boxLe e, code := 0x08, itag := some o.itag }).startOp e o (s.bclk + 6)

/-! ### Completions (R782, R785 to R790) -/

/-- The record of a job (R782), as a number of 128 bits. -/
def State.record (s : State) (r : Nat) (j : Job) : Nat :=
  let c := (s.ring r).ctx
  packNat [(0, 8, j.status), (8, 1, b2n (j.idx.testBit c.log2)), (9, 1, b2n j.late), (10, 1, b2n j.corr), (11, 1, b2n j.thr),
    (12, 1, b2n j.halt), (13, 1, b2n j.diff), (14, 1, b2n j.form), (16, 4, j.top.op), (32, 32, j.top.user),
    (64, 32, if j.named then j.off else j.top.len), (96, 16, if j.named then j.pos else 0)]

/-- The whole line that holds a record (R786): the records of the present wrap, and zeros with the inverse phase. -/
def complLine (log2 idx : Nat) (recs : List (Nat × Nat)) : Line :=
  let inv := b2n (!idx.testBit log2)
  BitVec.ofNat 512 (packNat ((List.range 4).map fun i =>
    (128 * i, 128, match recs.find? fun x => x.1 == idx / 4 * 4 + i with | some x => x.2 | none => 256 * inv)))

/-- The completion of a ring's first job may be formed (R785, R790). -/
def State.mayForm (s : State) (r : Nat) : Bool :=
  match (s.ring r).jobs with
  | [] => false
  | j :: _ =>
    j.issued &&
    (if j.top.op = 6 ∧ !j.form then !s.hasOp r fun o => o.kind.writes
     else !s.hasOp r fun o => o.job == j.sn && !o.fetches && (match o.kind with
       | .write => o.st != .sent
       | .cmpl => false
       | .read => true
       | _ => !(j.named && decide (j.k < j.d.lineOf o.off))))

/-- COMPLETION_FORM (R782, R785, R786): the completion of a ring's first job is formed, its line written, and HEAD advances; an
address-map hold holds it (R244), and so does EN = 0 of the engine's page (R93). -/
def State.completionForm (s : State) (r : Nat) : State :=
  let e := s.srvOf r
  match (s.ring r).jobs with
  | [] => s
  | j :: rest =>
    if !s.mayForm r ∨ !(s.page (.lth e)).en ∨ s.map.hold ∨ 1024 ≤ (s.le e).ops.length ∨ (s.ring r).ctx.gen ≠ s.genOf (s.ring r).ctx.itag then s
    else
      let g := s.ring r
      let c := g.ctx
      let recs := (g.recs.filter fun x => x.1 / 4 == j.idx / 4) ++ [(j.idx, s.record r j)]
      let head := (j.idx + 1) % 2 ^ 21
      let st := if head = c.tail ∧ c.st = 2 then 1 else c.st
      let s := s.updRing r fun g => { g with jobs := rest, recs := recs, ctx := { g.ctx with head := head, st := st } }
      let s := s.ev { box := boxLe e, code := 0x01, qual := .is 6 (j.status + 1), itag := some c.itag }
      let s := if j.status ≠ 0 then s.tally c.itag 5 1 else s
      let o : LOp := { kind := .cmpl, ring := r, itag := c.itag, gen := c.gen, job := j.sn, idx := j.idx,
                       pa := (c.cmplBase + 16 * (j.idx % 2 ^ c.log2)) / 64 * 64, open_ := c.cfg % 4 == 2,
                       data := complLine c.log2 j.idx recs, irq := j.top.irq || c.cfg.testBit 2 }
      let s := s.newOp e o
      if j.halt then s.haltRing r j.status j.idx else s

/-! ### Freezing and handing over (R797 to R799, R846) -/

/-- A ring's progress is put into its context (R797, R846): CUR, CHAIN_POS, CHAIN_ADDR and ACC as they stand; CHECK and SETTLE
restart. -/
def State.quiesceRing (s : State) (r : Nat) : State :=
  s.updRing r fun g =>
    let c := match g.jobs with
      | j :: _ =>
        if j.idx = g.ctx.head ∧ !j.issued then
          { g.ctx with cur := if j.d.op = 5 ∨ j.inChain then 0 else 64 * j.next, chainPos := j.chainPos - b2n (j.inChain && !j.fetch),
                       chainAddr := if j.inChain then (if j.fetch then j.chainAddr else j.chainAddr - 32) else 0,
                       acc := packNat [(0, 1, b2n j.late), (1, 1, b2n j.corr), (2, 1, b2n j.thr), (8, 8, j.status)] }
        else g.ctx
      | [] => g.ctx
    { g with ctx := c, jobs := [], pre := [], cpre := [], fetchIdx := g.ctx.head }

/-- HANDOVER_DONE (R797, R798): every line of an engine that goes offline has completed; its contexts are written back and the
partner serves its rings. -/
def State.handoverDone (s : State) (e : Nat) : State :=
  let w := s.le e
  let mine := (s.rings.filter fun x => s.srvOf x.1 == e && x.2.ctx.st != 0).map (·.1)
  if w.st ≠ 1 ∨ w.ops ≠ [] ∨ mine.any (fun r => s.mayForm r) then s
  else
    let s := mine.foldl (fun s r => (s.quiesceRing r).writeBack r) s
    let down := flag (s.reg (.lth e) 0x040) 8
    ((s.updLe e fun w => { w with st := if down then 3 else 2, cached := [] }).aliveLost (16 + e) fun _ => true).raise (.lth e) 1

/-- ENGINE_POWER_UP (R799): an engine committed online takes its rings back from the partner. -/
def State.enginePowerUp (s : State) (e : Nat) : State :=
  let back := (s.rings.filter fun x => x.1 % 2 == e && x.2.ctx.st != 0).map (·.1)
  if (s.le e).st < 2 ∨ !flag (s.reg (.lth e) 0x040) 0 ∨ (s.le (1 - e)).ops.any (fun o => o.ring % 2 == e) then s
  else
    let s := back.foldl (fun s r => ((s.quiesceRing r).writeBack r).uncache r) s
    (s.updLe e fun w => { w with st := 0 }).raise (.lth e) 1

/-- FENCED_SINK at a powered-down engine (R798): a REQ or RSP packet that arrives is discarded. -/
def State.engineSink (s : State) (e : Nat) : State :=
  let hit := s.pkts.foldl (fun (a : Option Pkt) p =>
    if p.dst = nodeLe e ∧ !p.waiting ∧ p.body.cls ≤ 1 then
      (match a with | some q => if p.arr < q.arr then some p else a | none => some p) else a) none
  match hit with
  | none => s
  | some p =>
    if (s.le e).st ≠ 3 ∨ !s.canReach p.arr then s
    else
      let s := s.goto p.arr
      ({ s with pkts := eraseFirst (fun q => q == p) s.pkts }.updLe e fun w => { w with disc := satAdd 255 w.disc 1 }).raise
        (.lth e) 4

/-- The held operation of an engine whose entry's admission frame has come is released (R689). -/
def State.leHeldRelease (s : State) (e : Nat) : State :=
  match (s.le e).holds.find? fun h => h.held != [] && decide (h.next ≤ s.esc.frame) with
  | none => s
  | some h =>
    match h.held with
    | [] => s
    | r :: rest =>
      let follow := rest.filter fun q => q.pa / 64 == r.pa / 64
      let keep := rest.filter fun q => q.pa / 64 != r.pa / 64
      let out := r :: follow
      s.updLe e fun w =>
        let hs := replaceFirst (fun x => x == h) (fun x => { x with held := keep, next := s.esc.frame + x.gap }) w.holds
        { w with holds := hs, cq := out.foldl (fun l q => insertWait { req := q, raised := s.bclk } l) w.cq,
                 ops := w.ops.map fun o => if out.any (fun q => q.tag == o.id) ∧ o.st = .held then { o with st := .queued } else o }

end Sys2Proof.Machine
end

