-- ==== Sys2Proof/Machine/Torus.lean ====
section
/-! DEFINITION. The torus as it changes (chapter 16): route sets and the checks of a route commit, failures of links, the hold and
the switch, the resolution of what a loss leaves without a response, and fences. -/
namespace Sys2Proof.Machine

/-! ### Links and routers that have failed (R717, R738, R740) -/

/-- A router is declared failed: every link to it has failed (R719). -/
def State.routerDead (s : State) (n : Nat) : Bool := (s.rtr n).linkFail % 16 == 15

/-- The control router of the torus (R740). -/
def State.ctlRouter (s : State) : Nat := if s.routerDead 0 then 1 else 0

/-- The port by which the router across port `p` sees the link. -/
def backPort (p : Nat) : Nat := p / 2 * 2 + (1 - p % 2)

/-- The number of the link on port `p` of router `n` (R717). -/
def linkNo (n p : Nat) : Nat :=
  if p = 0 then 2 * n else if p = 1 then 2 * neighbour n 1 else if p = 2 then 2 * n + 1 else 2 * neighbour n 3 + 1

/-! ### Route sets (R731) -/

/-- The router that a link number belongs to, and its port. -/
def linkEnd (l : Nat) : Nat × Nat := (l / 2, if l % 2 = 0 then 0 else 2)

/-- LINK_OFF of router `n` in a route set: the links of the failed router, or the failed link. -/
def setLinkOff (set n : Nat) : Nat :=
  if 2 ≤ set ∧ set < 38 then
    let r := set - 2
    if n = r then 15 else packNat ((List.range 4).map fun p => (p, 1, b2n (neighbour n p == r)))
  else if 38 ≤ set then
    let e := linkEnd (set - 38)
    if n = e.1 then 2 ^ e.2 else if n = neighbour e.1 e.2 then 2 ^ backPort e.2 else 0
  else 0

/-- TRT_CFG, TRT_FENCE and the entries of a route set for router `n`, by word: 0, 1, and 2 + d for destination d (R731). The
entries of the detour sets and the values of RETRY_MAX and CR_TMO are the boot store's. -/
def routeSetWord (set n i : Nat) : Word :=
  let c := Config.routeImage set n 0
  if i = 0 then
    pack [(0, 4, 1 + c % 15), (4, 8, 1 + c / 16 % 255), (12, 1, b2n (decide (2 ≤ set) && decide (set < 38) && n == neighbour (set - 2) 0))]
  else if i = 1 then pack [(0, 4, setLinkOff set n), (4, 1, b2n (set == n + 2))]
  else if set = 0 then BitVec.ofNat 32 (xyPort n (i - 2))
  else if set = 1 then BitVec.ofNat 32 (yxPort n (i - 2))
  else BitVec.ofNat 32 (Config.routeImage set n (i - 1) % 8)

/-! ### The checks of a route commit (R732) -/

/-- What a route commit would put in force: entries, LINK_OFF, ROUTER_OFF and SB_ATTACH by router. -/
structure RouteImg where
  port : Nat → Nat → Nat
  off : Nat → Nat
  dead : Nat → Bool
  sb : Nat → Bool

/-- The offset of the standby table. -/
def State.standbyBase (s : State) : Nat := if s.trt.active then 0x100 else 0x200

/-- The image that the shadows give; a failed router counts as fenced with every link out of service (R740). -/
def State.routeImg (s : State) : RouteImg :=
  { port := fun n d => fld (s.shd (.trt n) (s.standbyBase + 4 * d)) 0 3,
    off := fun n => if s.routerDead n then 15 else fld (s.shd (.trt n) 0x04C) 0 4,
    dead := fun n => s.routerDead n || flag (s.shd (.trt n) 0x04C) 4,
    sb := fun n => !s.routerDead n && flag (s.shd (.trt n) 0x040) 12 }

namespace RouteImg

/-- The router whose STANDBY port a unit would use (R714). -/
def sbOf (u : Nat) : Nat := neighbour u 0

/-- The unit is attached on STANDBY. -/
def onSb (m : RouteImg) (u : Nat) : Bool := m.sb (sbOf u)

/-- The router a unit is attached to; none where it is attached to no port or to two. -/
def home (m : RouteImg) (u : Nat) : Option Nat :=
  match m.onSb u, m.dead u with
  | true, true => some (sbOf u)
  | false, false => some u
  | _, _ => none

/-- The unit is exempt from the path checks (R732). -/
def exempt (m : RouteImg) (u : Nat) : Bool := m.dead u && m.onSb u

/-- Both ends of the link on port `p` of router `n` keep it in service, and so do both routers. -/
def linkOk (m : RouteImg) (n p : Nat) : Bool :=
  let b := neighbour n p
  !(m.off n).testBit p && !(m.off b).testBit (backPort p) && !m.dead n && !m.dead b

/-- Follows a path: the hops taken, and the reasons met (R732): 1 LOOP, 2 NO_PATH, 3 FENCED, 4 ATTACH. -/
def follow (m : RouteImg) (d : Nat) : Nat → Nat → List Nat → List (Nat × Nat) × List Nat
  | 0, _, _ => ([], [1])
  | fuel + 1, n, seen =>
    if seen.contains n then ([], [1])
    else
      let p := m.port n d
      if p = 4 then ([], if n = d && !m.dead n && m.home d == some d then [] else [2])
      else if p = 5 then ([], if !m.sb n then [4] else if sbOf d = n then [] else [2])
      else if p < 4 then
        let r := m.follow d fuel (neighbour n p) (n :: seen)
        ((n, p) :: r.1, if m.linkOk n p then r.2 else 3 :: r.2)
      else ([], [2])

/-- The path from unit `a` to unit `d` with its lowest reason; 0 for none. -/
def pathFails (m : RouteImg) (a d : Nat) : Nat :=
  match m.home a, m.home d with
  | some h, some _ => (m.follow d 13 h []).2.foldl (fun n r => if n = 0 then r else min n r) 0
  | _, _ => 4

/-- The pairs of units checked, in order (R732). -/
def pairs (m : RouteImg) : List (Nat × Nat) :=
  (List.range 36).flatMap fun a => (List.range 36).filterMap fun d => if m.exempt a || m.exempt d then none else some (a, d)

/-- The link directions and virtual channels a path uses, in order (R724): key 8 n + 2 p + vc. -/
def uses (m : RouteImg) (a d : Nat) : List Nat :=
  match m.home a with
  | some h => ((pathVc (m.follow d 13 h []).1 none false).map fun x => 8 * x.1 + 2 * x.2.1 + b2n x.2.2)
  | none => []

/-- Consecutive pairs of a list. -/
def steps : List Nat → List (Nat × Nat)
  | a :: b :: t => (a, b) :: steps (b :: t)
  | _ => []

/-- The dependency edges of all paths. -/
def edges (m : RouteImg) : List (Nat × Nat) :=
  (m.pairs.flatMap fun x => steps (m.uses x.1 x.2)).foldl (fun l e => if l.contains e then l else e :: l) []

/-- What can be reached from the nodes of a list. -/
def reach (es : List (Nat × Nat)) : Nat → List Nat → List Nat
  | 0, l => l
  | fuel + 1, l =>
    let new := es.filterMap fun e => if l.contains e.1 && !l.contains e.2 then some e.2 else none
    match new with
    | [] => l
    | v :: _ => reach es fuel (v :: l)

/-- The first path that uses an edge of a cycle. -/
def cycleAt (m : RouteImg) : Option (Nat × Nat) :=
  let es := m.edges
  let bad := es.filter fun e => (reach es 288 [e.2]).contains e.1
  if bad = [] then none
  else m.pairs.find? fun x => (steps (m.uses x.1 x.2)).any fun e => bad.contains e

/-- The first failure of a route commit: reason, source, destination. -/
def fails (m : RouteImg) : Option (Nat × Nat × Nat) :=
  match m.pairs.findSome? fun x => let r := m.pathFails x.1 x.2; if r = 0 then none else some (r, x.1, x.2) with
  | some f => some f
  | none => m.cycleAt.map fun x => (5, x.1, x.2)

end RouteImg

/-! ### Failures (R719, R738, R745) -/

/-- A packet that is lost: its request, if it carries one, will be left without a response (R742). -/
def lostReq : Body → List Req
  | .memReq r => [r]
  | .memResp r => [r.req]
  | .bounce r _ => [r]
  | .svcReq g h => [{ hdrReq h g 0 h.itag 0 0 0 with use := 9 }]
  | .hold _ _ _ _ => []

/-- A request of a packet that never reaches its channel no longer counts against the channel's grants (R440). -/
def State.ungrant (s : State) (b : Body) : State :=
  match b with
  | .memReq r => if r.g ∨ r.src = 20 then s else s.updArb r.loc.ch fun a => { a with granted := a.granted - 1 }
  | _ => s

/-- A packet is lost with its request. -/
def State.losePkt (s : State) (p : Pkt) (answered : Bool) : State :=
  let s := s.ungrant p.body
  if answered then { s with trt := { s.trt with lost := s.trt.lost ++ lostReq p.body } } else s

/-- A router discards a packet and counts its flits (R741, R745). -/
def State.discardAt (s : State) (n : Nat) (p : Pkt) (answered : Bool) : State :=
  let s := s.updRtr n fun r => { r with lost := satAdd 255 r.lost p.body.flits }
  let s := s.ev { box := boxTr n, code := 9, n := p.body.flits, req := p.body.evReq, itag := p.body.evReq.map Req.itag }
  s.losePkt p answered

/-- How a packet stands to a link: it crosses it later, it is on it, or neither (R718). -/
inductive OnLink where
  | ahead | on | clear
  deriving DecidableEq, Repr

/-- Where a packet stands to a link in either direction, in the present BCLK. -/
def State.onLink (s : State) (p : Pkt) (n q : Nat) : OnLink :=
  let path := s.path p.dst 13 (s.attach p.src)
  match path.zipIdx.find? fun x => x.1 == (n, q) || x.1 == (neighbour n q, backPort q) with
  | none => .clear
  | some (_, j) =>
    if s.bclk < p.inj + 2 * j + 1 then .ahead
    else if s.bclk ≤ p.inj + 2 * j + 1 + p.body.flits then .on else .clear

/-- The router at which a packet waits for a failed link, if its path crosses one. -/
def State.stuckAt (s : State) (p : Pkt) : Option Nat :=
  ((s.path p.dst 13 (s.attach p.src)).find? fun x => decide (x.2 < 4) && (s.rtr x.1).linkFail.testBit x.2).map (·.1)

/-- A failure is a double fault (R745): the set in force is a detour that does not fence the link, or the failed links are not
those of one router or one link. -/
def State.isDouble (s : State) (n p : Nat) : Bool :=
  let fence := fun m => s.reg (.trt m) 0x04C
  let detour := (List.range 36).any fun m => fence m != 0
  let covered := flag (fence n) p || flag (fence n) 4 || flag (fence (neighbour n p)) 4
  let failed := (List.range 36).flatMap fun m => (List.range 4).filterMap fun q =>
    if (s.rtr m).linkFail.testBit q then some (linkNo m q) else none
  let one := failed.all fun l => l == linkNo n p
  let router := (List.range 36).any fun m => failed.all fun l => (List.range 4).any fun q => linkNo m q == l
  if covered then false else detour || !(one || router)

/-- A link is declared failed (R738): both routers stop using it, what is on it is lost, and what would cross it waits, or is
discarded where the failure is a double fault (R745). -/
def State.failLink (s : State) (n p : Nat) : State :=
  if (s.rtr n).linkFail.testBit p then s
  else
    let m := neighbour n p
    let mark := fun (s : State) (a q : Nat) =>
      (s.updRtr a fun r => { r with linkFail := Nat.lor r.linkFail (2 ^ q), fails := Tbl.set (fun _ => 0) r.fails q 0 }).raise (.trt a) 0
    let old := s
    let s := mark (mark s n p) m (backPort p)
    let dbl := s.isDouble n p
    let here := s.pkts
    let s := { s with pkts := [] }
    let s := here.foldl (fun (s : State) k =>
      if k.waiting then { s with pkts := s.pkts ++ [k] }
      else match old.onLink k n p with
        | .clear => { s with pkts := s.pkts ++ [k] }
        | .on => s.losePkt k (!dbl)
        | .ahead => if dbl then s.discardAt n k false else { s with pkts := s.pkts ++ [{ k with waiting := true, stuck := true }] }) s
    if dbl then ({ s with trt := { s.trt with double := true } }).raise (.trt s.ctlRouter) 4 else s

/-- TORUS_FLIT_CRC_ERROR (R719, R754): router `n` receives a flit with a bad CRC on port `p`; `again` says that it is a resend.
After RETRY_MAX failed resends the link has failed. -/
def State.flitCrc (s : State) (n p : Nat) (again : Bool) : State :=
  if 36 ≤ n ∨ 4 ≤ p ∨ (s.rtr n).linkFail.testBit p then s
  else
    let k := if again then Tbl.get (fun _ => 0) (s.rtr n).fails p + 1 else 0
    let s := s.updRtr n fun r => { r with fails := Tbl.set (fun _ => 0) r.fails p k, retries := satAdd 127 r.retries 1 }
    let s := s.ev { box := boxTr n, code := 6, qual := .port p 0 }
    let s := (s.ev { box := boxTr (neighbour n p), code := 5, qual := .port (backPort p) 0 }).raise (.trt n) 5
    if s.regFld (.trt n) 0x040 0 4 ≤ k then s.failLink n p else s

/-- CREDIT_TIMEOUT (R719): flits have waited CR_TMO for a link with no crossing and no credit. -/
def State.creditTimeout (s : State) (n p : Nat) : State := if 36 ≤ n ∨ 4 ≤ p then s else s.failLink n p

/-! ### The hold and the switch (R55, R460, R486, R735, R741) -/

/-- The tick that opens a route hold (R460, R486, R741): trains end, nothing is injected from this BCLK on, and at a loss switch
what waits before a failed link is discarded. -/
def State.openRouteHold (s : State) : State :=
  let now := s.bclk
  let cut := ({ s with bclk := now - 1 } : State).cutTrains fun _ => true
  let s := ({ cut.1 with bclk := now } : State).requeue cut.2
  let s := { s with pkts := s.pkts.map fun (p : Pkt) => if now ≤ p.inj then { p with waiting := true } else p,
                    trt := { s.trt with hold := true, announced := false } }
  if s.trt.lossNext then
    let st := s.pkts.filter (·.stuck)
    let s := { s with pkts := s.pkts.filter fun p => !p.stuck }
    st.foldl (fun s p => s.discardAt ((s.stuckAt p).getD 0) p true) s
  else s

/-- The offsets of a route table's entries. -/
def tableOffs (base : Nat) : List Nat := (List.range 36).map fun d => base + 4 * d

/-- The pages of every router take what a switch puts in force (R735). -/
def State.routeApply (s : State) : State :=
  let new := s.standbyBase
  let old := s.routeBase
  (List.range 36).foldl (fun s n =>
    if s.routerDead n then s
    else
      let p := PageId.trt n
      let s := (tableOffs new ++ [0x040, 0x04C]).foldl (fun s o => s.setReg p o (s.shd p o)) s
      (tableOffs old).foldl (fun s o => s.setShd p o (s.reg p o)) s) s

/-- What a channel or the Crown port holds at a loss switch is marked (R742). -/
def State.markHeld (s : State) : State :=
  let mk := fun (r : Req) => { r with marked := true }
  let inPkt := fun (p : Pkt) => match p.body with
    | .memReq r => if p.waiting then p else { p with body := .memReq (mk r) }
    | _ => p
  let inSub := fun (b : Sub) =>
    { b with ram := b.ram.map fun (r : Rec) => { r with req := mk r.req },
             served := b.served.map fun (v : Served) => { v with req := mk v.req },
             crown := b.crown.map fun (a : CrnAcc) => { a with req := mk a.req } }
  { s with pkts := s.pkts.map inPkt, subs := s.subs.map fun (e : Nat × Sub) => (e.1, inSub e.2) }

/-- The node that holds a page (R481). -/
def PageId.node : PageId → Nat
  | .gw g => nodeGw g | .gwAdm g => nodeGw g
  | .cc c => nodeCh c | .slt c _ => nodeCh c | .phy c => nodeCh c | .cal c => nodeCh c | .bal c => nodeCh c
  | .brl c => nodeCh c | .brlHeat c => nodeCh c | .elog c => nodeCh c | .elog2 c => nodeCh c
  | .trt n => n | .lth e => nodeLe e | .lthPool => nodeLe 0
  | .cnt b => if b < 17 then nodeCh b else if b < 33 then nodeGw (b - 17) else if b < 35 then nodeLe (b - 33)
              else if b < 71 then b - 35 else nodeSvc
  | _ => nodeSvc

/-- A page held at the service node itself (R481). -/
def PageId.atSvc : PageId → Bool
  | .blk => true | .map => true | .esc => true | .mvc => true | .jwl => true | .crn => true | .ins _ => true
  | .cnt b => b == 71 | _ => false

/-- A register request whose leg to its page's node would leave the service node at or after the tick that opens the latest route hold
(R481, R486). -/
def State.svcLate (s : State) (p : Pkt) (h : ReqHdr) : Bool :=
  let open_ := s.slotBclk { frame := (s.page (.trt s.ctlRouter)).commit.eff }
  decide (open_ ≤ p.arr + 1) && match pageOf (h.addr / 4096) with | some q => !q.atSvc | none => false

/-- Such a request leaves at the switch tick. -/
def State.svcGo (s : State) (p : Pkt) : Pkt :=
  match p.body with
  | .svcReq _ h => if s.svcLate p h then { p with arr := max p.arr (s.bclk - 1) } else p
  | _ => p

/-- What waited for the switch is injected at it, a packet that is not ready yet once it is (R486). -/
def State.releaseHeld (s : State) : State :=
  let held := s.pkts.filter (·.waiting)
  let s := { s with pkts := (s.pkts.filter fun (p : Pkt) => !p.waiting).map s.svcGo, bells := s.bells.map fun (b : Bell) => b.leave s.bclk }
  (held.foldl (fun s p => s.inject p.body p.src p.dst (max p.ready s.bclk)) s).resendMsgs

/-- A slip is counted (R58, R75, R76). -/
def State.slip (s : State) : State :=
  ({ s with esc := { s.esc with slipCnt := wrapAdd 32 s.esc.slipCnt 1 } }.raise .esc 3).ev { box := boxBlk, code := 0x03 }

/-- The route switch, at step 3 of its tick (R735, R742, R744); a commit whose hold frame lay beyond its reference frame is a slip
(R55, R58). -/
def State.routeSwitch (s : State) : State :=
  let loss := s.trt.lossNext
  let c := s.ctlRouter
  let g := (s.page (.trt c)).commit
  let s := if (s.page (.trt c)).cmt = .armed ∧ g.ref < g.eff then s.slip else s
  let s := s.routeApply
  let s := s.setFldBoth (.trt c) 0x040 13 1 0
  let s := { s with trt := { s.trt with epoch := wrapAdd 16 s.trt.epoch 1, active := !s.trt.active, hold := false,
                                        announced := false, loss := loss, lossNext := false } }
  let f := s.esc.frame
  let s := s.updPage (.trt c) fun pg =>
    if pg.cmt = .armed then { pg with cmt := .idle, commit := { pg.commit with applied := true, swFrame := f } } else pg
  let s := (s.raise (.trt c) 1).raiseIf loss (.trt c) 2
  let s := s.ev { box := boxBlk, code := 7, qual := .is 6 2 }
  let s := if loss then
      let s := { s with trt := { s.trt with clearPend := true, clears := [], clearAll := none } }.markHeld
      { s with blk := { s.blk with intArmed := s.blk.intEn, armedAt := s.bclk } }
    else s
  s.releaseHeld

/-! ### Resolving a loss (R742) -/

/-- The units that send CLEAR: channels and Lathe engines in service, by node. -/
def State.clearUnits (s : State) : List Nat :=
  ((List.range 17).filter fun c => (s.chan c).inService).map nodeCh ++
  ((List.range 2).filter fun e => decide ((s.le e).st ≤ 1)).map nodeLe

/-- A unit still holds a marked request. -/
def State.holdsMarked (s : State) (n : Nat) : Bool :=
  (s.pkts.any fun p => p.dst == n && !p.waiting && (match p.body with | .memReq r => r.marked | _ => false)) ||
  (List.range 17).any fun c => nodeCh c == n && (List.range 2).any fun sc =>
    (s.sub c sc).ram.any (fun r => r.req.marked && !r.req.write) || ((s.sub c sc).served.any fun v => v.req.marked) ||
    (match (s.sub c sc).crown with | some a => a.req.marked | none => false)

/-- CLEAR (R742): a unit whose marked requests have all been answered sends CLEAR to the service node. -/
def State.sendClear (s : State) (n : Nat) : State :=
  if !s.trt.clearPend ∨ s.trt.clearAll.isSome ∨ !s.clearUnits.contains n ∨ s.trt.clears.contains n ∨ s.holdsMarked n then s
  else { s with trt := { s.trt with clears := s.trt.clears ++ [n] } }

/-- CLEAR_ALL (R742): every unit in service has sent CLEAR. The packet reaches the last of its units within the present frame, or
in the next. -/
def State.clearAllGo (s : State) : State :=
  if !s.trt.clearPend ∨ s.trt.clearAll.isSome ∨ !(s.clearUnits.all fun n => s.trt.clears.contains n) then s
  else
    let h := ((List.range 16).map nodeGw ++ [nodeLe 0, nodeLe 1]).foldl (fun m n => max m (s.hops nodeSvc n)) 0
    let f := if s.esc.running ∧ s.nextTick ≤ s.bclk + 2 + 2 * h then s.esc.frame + 1 else s.esc.frame
    { s with trt := { s.trt with clearAll := some f } }

/-- A request lost is answered OFFLINE by the unit that injected it (R742). -/
def State.answerLost (s : State) (r : Req) : State :=
  if r.src < 16 then
    let s := if r.g then s.updGw r.src fun w => { w with gOut := w.gOut - 1 } else s
    if ((s.gw r.src).tag r.tag).left = 0 then s else s.refuse r.src r 3 s.bclk
  else if r.src < 18 then
    match (s.le (r.src - 16)).ops.find? fun o => o.id == r.tag with
    | some o => s.opOffline (r.src - 16) o
    | none => s
  else s

/-- CLEAR_ALL_ANSWER, at the fourth tick after CLEAR_ALL (R742). -/
def State.clearAnswer (s : State) : State :=
  match s.trt.clearAll with
  | none => s
  | some f =>
    if s.esc.frame < f + 4 then s
    else
      let lost := s.trt.lost
      let s := { s with trt := { s.trt with lost := [], clearPend := false, clearAll := none, clears := [] } }
      (lost.foldl (fun s r => s.answerLost r) s).raise (.trt s.ctlRouter) 3

/-! ### Fences (R746, R759) -/

/-- PEND of CC_FENCE (R759). -/
def State.pend (s : State) (c : Nat) : Nat :=
  (s.sub c 0).ram.length + (s.sub c 1).ram.length + (s.sub c 0).wb.length + (s.sub c 1).wb.length +
  (if (s.sub c 0).crown.isSome ∨ (s.sub c 1).crown.isSome then 1 else 0)

/-- A latch point tests PEND for every fence that waits, or that is committed for the coming tick (R746). -/
def State.fenceLatches (s : State) : State :=
  (List.range 17).foldl (fun s c =>
    let pg := s.page (.cc c)
    let soon := pg.cmt == .armed && decide (pg.commit.eff ≤ s.esc.frame + 1) && flag (pg.shdReg (.cc c) 0x04C) 0
    if (s.chan c).fencePend ∨ (soon ∧ !(s.chan c).fenced) then s.updChan c fun ch => { ch with fenceLatch := decide (s.pend c = 0) } else s) s

/-- FENCE_EFFECT (R746, R760): a fence whose latch point found PEND = 0 takes effect. -/
def State.fenceTick (s : State) (c : Nat) : State :=
  if (s.chan c).fencePend ∧ (s.chan c).fenceLatch then
    (s.updChan c fun ch => { ch with fenced := true, fencePend := false, fenceLatch := false }).raise (.cc c) 8
  else s

end Sys2Proof.Machine
end

