-- ==== Sys2Proof/Machine/Commit.lean ====
section
/-! DEFINITION. Commits (R51 to R60, R105 to R113): GO, CANCEL and DISCARD, the checks, arming, and what takes effect at the
tick of a commit. -/
namespace Sys2Proof.Machine

/-! ### Pages and their shadowed registers (R91, R105) -/

/-- The page holds shadowed registers (R91). -/
def PageId.hasRs (p : PageId) : Bool := (regRows p).any fun r => r.acc == .rs

/-- COMMIT_KIND (R91): 0 none, 1 shadowed register, 2 table swap, 3 epoch. -/
def PageId.commitKind (p : PageId) : Nat :=
  match p with
  | .esc => 2 | .slt _ _ => 2 | .map => 3 | .trt _ => 3
  | _ => if p.hasRs then 1 else 0

/-- The frames from arrival to the earliest effective frame of a kind (R51). -/
def kindFrames (k : Nat) : Nat := if k = 2 then 3 else if k = 3 then 2 else k

/-- The offsets of a row. -/
def RegRow.offs (r : RegRow) : List Nat := (List.range r.count).map fun i => r.off + r.stride * i

/-- The offsets of a page's shadowed registers. -/
def PageId.rsOffs (p : PageId) : List Nat := (regRows p).flatMap fun r => if r.acc = .rs then r.offs else []

/-- The first shadowed field that fails its check, in ascending offset order (R107): the offset and the rule. -/
def State.fieldFail (s : State) (p : PageId) : Option (Nat × Nat) :=
  let pg := s.page p
  let bad := (regRows p).flatMap fun r => if r.acc = .rs then r.offs.filterMap fun o =>
    let n := fldRule (pg.shdReg p o) r.flds
    if n = 0 then none else some (o, n) else []
  bad.foldl (fun a x => match a with | none => some x | some y => if x.1 < y.1 then some x else a) none

/-- A commit is pending on the page, its own or the ESC page's that carries it (R59, R959). -/
def Page.pendingCmt (pg : Page) : Bool := pg.cmt != .idle || pg.carried

/-- Writes to RS registers of the page are refused (R106, R734). -/
def State.rsLocked (s : State) (p : PageId) : Bool :=
  (s.page p).pendingCmt || match p with | .trt _ => (s.page (.trt s.ctlRouter)).pendingCmt | _ => false

/-! ### Conditions that other parts of the block set -/

/-- GW_ALIVE.EFFECTIVE of a gateway (R93, R213). -/
def State.effective (s : State) (g : Nat) : Bool :=
  (s.gw g).alive && (s.gw g).link != .down && (s.page (.gw g)).en && (s.page (.gwAdm g)).en

/-- Traffic may run: a gateway is EFFECTIVE or a Lathe engine is enabled (R246, R422, R880). -/
def State.traffic (s : State) : Bool :=
  (List.range 16).any (fun g => s.effective g) || (s.page (.lth 0)).en || (s.page (.lth 1)).en

/-- Any ring is attached. -/
def State.anyRing (s : State) : Bool := s.rings.any fun x => x.2.ctx.st != 0

/-- A takeover, rejoin, rehash, test, Caliper run or zero fill is in progress (R30). -/
def State.upheaval (s : State) : Bool :=
  s.task.kind != 0 || s.phase == 8 ||
  (List.range 17).any fun c => (s.chan c).test || (s.cal c).testWait || s.calBusy c

/-- A takeover, rejoin or rehash is in progress (R247, R422). -/
def State.moving (s : State) : Bool := s.task.kind == 1 || s.task.kind == 2 || s.task.kind == 3 || s.task.kind == 5

/-- The SLT pages that a FRAME_SLOTS change carries (R30, R959). -/
def State.fsPages (s : State) : List (Nat × Nat) :=
  (List.range 17).flatMap fun c => if (s.chan c).inService then [(c, 0), (c, 1)] else []

/-- The shadow of the ESC page changes FRAME_SLOTS. -/
def State.fsNew (s : State) : Option Nat :=
  let n := fld (s.shd .esc 0x050) 0 9
  if n = s.esc.fs then none else some n

/-! ### Shares against a channel's capacity (R33, R310, R314) -/

/-- The owners' G shares on a channel: those in force, each with the increase that is armed. -/
def State.shareSum (s : State) (c : Nat) : Nat :=
  let ch := s.chan c
  let own := ch.shareChg.foldl (fun l x => if l.contains x.1 then l else l ++ [x.1]) (ch.share.map (·.1))
  own.foldl (fun a i =>
    a + max (Tbl.get (fun _ => 0) ch.share i) (ch.shareChg.foldl (fun m x => if x.1 = i then max m x.2.1 else m) 0)) 0

/-- C_G of a subchannel from a frame on: the least among the tables it runs from then (R314). -/
def State.capFrom (s : State) (c sc f : Nat) : Nat :=
  let tm := s.timing c
  match s.swapAt c sc with
  | some e =>
    let new := gCapacity s.bin tm (s.tblShd c sc)
    if e ≤ f then new else min new (gCapacity s.bin tm (s.tblAct c sc))
  | none => gCapacity s.bin tm (s.tblAct c sc)

/-! ### The validator on a subchannel (R313 to R315, R339) -/

/-- Validates the shadow table of a subchannel with frame length `fs`; `other` is the other subchannel's part of the capacity, `fill` tells a
table of the fill set. -/
def State.validateSub (s : State) (c sc fs other : Nat) (fill : Bool) : Option ValFail :=
  let t := s.tblShd c sc
  let tm := s.timing c
  let cg := gCapacity s.bin tm t
  let before := if (s.sub c sc).legal then some (s.tblAct c sc) else none
  validate s.bin tm ((s.chan c).spd.getD {}) fs before t cg (decide (s.shareSum c ≤ cg + other)) fill

/-- Records an outcome (R339, R343). -/
def State.recordVal (s : State) (c sc : Nat) (r : Option ValFail) : State :=
  (s.updSub c sc fun b => { b with valRes := valWord r }).raise (.slt c sc) 1

/-- SLT_VAL_RES as it reads (R339): checking while a commit of the page's own or the one that carries it is checked (R959), and else the
outcome of the last check since reset. -/
def State.valShown (s : State) (c sc : Nat) : Word :=
  let pg := s.page (.slt c sc)
  if pg.cmt = .checking ∨ (pg.carried ∧ (s.page .esc).cmt = .checking) then pack [(0, 2, 3)] else (s.sub c sc).valRes

/-- The frame after the frontiers of the subchannels a table commit affects (R53). -/
def State.pastFrontiers (s : State) (l : List (Nat × Nat)) : Nat :=
  l.foldl (fun m x => match s.frontier x.1 x.2 with | some f => max m (f + 1) | none => m) 0

/-! ### State conditions (R28, R30, R109, R113) -/

/-- The register whose change moves the data of an enabled set (R246), the lowest. -/
def State.mapMoves (s : State) : Option Nat :=
  let a := s.mapAct
  let b := s.mapShd
  let both := (List.range 8).filter fun n => a.en n && b.en n
  let offs := both.flatMap fun n =>
    [0x040 + 16 * n, 0x044 + 16 * n] ++ (if a.lch n ≠ b.lch n ∨ a.selLow n ≠ b.selLow n then [0x0C0 + 4 * n] else []) ++
    (List.range 24).map fun i => 0x100 + 0x60 * n + 4 * i
  let diff := offs.filter fun o => (0x0C0 ≤ o ∧ o < 0x0E0) ∨ a o ≠ b o
  let diff := if both ≠ [] ∧ a 0x400 ≠ b 0x400 then diff ++ [0x400] else diff
  match diff with
  | [] => none
  | x :: t => some (t.foldl min x)

/-- The channel's logical index is named by an enabled set. -/
def State.inMap (s : State) (c : Nat) : Bool :=
  let r := (s.chan c).role
  decide (r < 16) && (List.range 8).any fun n => s.mapAct.en n && (s.mapAct.lch n).testBit r

/-- The state condition of a page that forbids its commit: the register named and the rule. `mvc` is a commit of Movement. -/
def State.stateFail (s : State) (p : PageId) (mvc : Bool) : Option (Nat × Nat) :=
  match p with
  | .esc =>
    if s.fsNew.isNone then none
    else if s.fsPages.any fun x => (s.page (.slt x.1 x.2)).cmt != .idle then some (0x050, 3)
    else if s.upheaval then some (0x050, 8) else none
  | .map =>
    if s.moving then some (0x01C, 8)
    else if s.traffic then s.mapMoves.map fun o => (o, 8) else none
  | .trt n =>
    if flag (s.shd (.trt n) 0x040) 13 && !((List.range 36).any fun m => (s.rtr m).linkFail != 0) then some (0x040, 8) else none
  | .cc c =>
    let ch := s.chan c
    if flag (s.shd p 0x04C) 0 ∧ ch.inService then some (0x04C, 8)
    else if flag (s.shd p 0x050) 17 ∧ (s.moving ∨ (ch.role = 16 ∧ s.mapAct.resEn) ∨ (s.inMap c ∧ s.traffic)) then some (0x050, 8)
    else if (s.page p).expert ∧ flag (s.shd p 0x090) 7 ∧ !mvc then some (0x090, 8) else none
  | .cal c =>
    if s.calBusy c then some (0x040, 8)
    else if fld (s.shd p 0x040) 0 2 ≠ 0 ∧ s.trainRefused c then some (0x040, 8) else none
  | .brl c => if flag (s.shd p 0x044) 16 ∧ !(s.chan c).hasPrac then some (0x044, 8) else none
  | .lth e => if !flag (s.shd p 0x040) 0 ∧ (s.le (1 - e)).st ≠ 0 ∧ s.anyRing then some (0x040, 8) else none
  | .lthPool =>
    if s.anyRing ∧ (s.shd p 0x040 ≠ s.reg p 0x040 ∨ s.shd p 0x044 ≠ s.reg p 0x044) then some (0x040, 8) else none
  | _ => none

/-! ### Refusal and arming (R56, R58, R109) -/

/-- The ESC page's commit no longer carries tables. -/
def State.uncarry (s : State) : State :=
  s.fsPages.foldl (fun s x => s.updPage (.slt x.1 x.2) fun pg => { pg with carried := false }) s

/-- Movement's commit of a page has come to nothing: what is in force stays its standing intent (R132). -/
def State.intentBack (s : State) (p : PageId) : State :=
  let ps := match p with | .trt _ => (List.range 36).map PageId.trt | _ => [p]
  if !(s.page p).commit.mvc then s
  else ps.foldl (fun s q =>
    let t := q.rsOffs.foldl (fun t o => Tbl.set (regReset q) t o (s.reg q o)) []
    s.updPage q fun pg => { pg with intent := t }) s

/-- A commit is refused in BCLK `t` (R109): the page returns to idle and the block records it. -/
def State.commitRefuseAt (s : State) (p : PageId) (off rule t : Nat) : State :=
  let s := ((s.setErrAt p off rule t).updPage p fun pg => { pg with cmt := .idle, cmtRefused := true }).intentBack p
  let s := { s with blk := { s.blk with cmtRef := pack [(0, 13, p.num), (16, 8, rule), (31, 1, 1)],
                                        refWas := rcSet s.blk.refWas t s.blk.cmtRef } }
  let s := s.raise .blk 2
  match p with | .esc => s.uncarry | _ => s

/-- A commit is refused in the present BCLK. -/
def State.commitRefuse (s : State) (p : PageId) (off rule : Nat) : State := s.commitRefuseAt p off rule s.bclk

/-- The target frame named at GO (R56): none for the next boundary; `some none` for a value that names no frame ahead. -/
def targetOf (frame want : Nat) : Option (Option Nat) :=
  let d := (want + 2 ^ 32 - frame % 2 ^ 32) % 2 ^ 32
  if want = 0 then none else if d = 0 ∨ 2 ^ 31 ≤ d then some none else some (some (frame + d))

/-- The earliest effective frame of a commit (R51, R52). -/
def earliestEff (k : Nat) (c : Commit) : Nat := c.arrive + kindFrames k + b2n c.late

/-- A commit is armed (R58): its effective frame is read back. PG_COMMIT_FRAME keeps that frame once the commit has taken effect or has
been cancelled, so that a later GO that leaves it there is refused with TARGET (DESIGN CHOICE: R58 says no more; log entry 58). -/
def State.commitArm (s : State) (p : PageId) (eff : Nat) : State :=
  s.updPage p fun pg =>
    let r := match pg.commit.target with | some t => t | none => pg.commit.arrive + kindFrames p.commitKind
    { pg with cmt := .armed, commitFrame := BitVec.ofNat 32 eff, commit := { pg.commit with eff := eff, ref := r } }

/-! ### The dependent checks (R108) -/

/-- An SLT page's own commit; the checks of this section complete in BCLK `t`. -/
def State.checkSlt (s : State) (c sc : Nat) (eff t : Nat) : State :=
  let e := max eff (s.pastFrontiers [(c, sc)])
  let r := s.validateSub c sc (s.fsAt e) (s.capFrom c (1 - sc) e) (s.page (.slt c sc)).commit.fill
  let s := s.recordVal c sc r
  match r with
  | some f => s.commitRefuseAt (.slt c sc) f.off 6 t
  | none => s.commitArm (.slt c sc) e

/-- The ESC page's commit: a change of FRAME_SLOTS validates every table it carries (R33, R959). -/
def State.checkEsc (s : State) (eff t : Nat) : State :=
  match s.fsNew with
  | none => s.commitArm .esc eff
  | some n =>
    let ps := s.fsPages
    let cap := fun c sc => gCapacity s.bin (s.timing c) (s.tblShd c sc)
    let rs := ps.map fun x => (x, s.validateSub x.1 x.2 n (cap x.1 (1 - x.2)) false)
    let s := rs.foldl (fun s x => s.recordVal x.1.1 x.1.2 x.2) s
    if rs.any fun x => x.2.isSome then s.commitRefuseAt .esc 0x050 6 t
    else s.commitArm .esc (max eff (s.pastFrontiers ps))

/-- The address-map page's commit (R237, R257). -/
def State.checkMap (s : State) (eff t : Nat) : State :=
  match s.mapFails s.mapShd with
  | some f => ({ s with map := { s.map with check := f.word } }).commitRefuseAt .map f.off 6 t
  | none =>
    let s := { s with map := { s.map with check := pack [(0, 2, 1)], kind := 1, eff := eff } }
    s.commitArm .map eff

/-- The route commit (R732 to R734, R754). -/
def State.checkTrt (s : State) (n : Nat) (eff t : Nat) : State :=
  match s.routeImg.fails with
  | some (r, a, d) =>
    ({ s with trt := { s.trt with check := pack [(0, 2, 2), (2, 3, r), (5, 6, a), (11, 6, d)] } }).commitRefuseAt (.trt n) 0x040 6 t
  | none =>
    let loss := flag (s.shd (.trt n) 0x040) 13
    let s := { s with trt := { s.trt with check := pack [(0, 2, 1)], lossNext := loss } }
    s.commitArm (.trt n) eff

/-- The first field of the TRT pages that fails, the control page's first. -/
def State.trtFieldFail (s : State) (n : Nat) : Option (Nat × Nat) :=
  (n :: List.range 36).findSome? fun m => s.fieldFail (.trt m)

/-- COMMIT_CHECK (R107 to R109): the checks of a commit complete at BCLK `t`, and it is armed or refused. -/
def State.commitCheckAt (s : State) (p : PageId) (t : Nat) : State :=
  let pg := s.page p
  if pg.cmt ≠ .checking then s
  else
    let bad := match p with | .trt n => s.trtFieldFail n | _ => s.fieldFail p
    match bad with
    | some (o, r) => s.commitRefuseAt p o r t
    | none =>
      match targetOf pg.commit.arrive pg.commit.want.toNat with
      | some none => s.commitRefuseAt p 0x020 4 t
      | tg =>
        let named := match tg with | some (some f) => some f | _ => none
        let s := s.updPage p fun pg => { pg with commit := { pg.commit with target := named } }
        match s.stateFail p pg.commit.mvc with
        | some (o, r) => s.commitRefuseAt p o r t
        | none =>
          let slow := match p with
            | .trt _ => !pg.commit.late &&
                (decide (pg.commit.arrive < s.esc.frame) || decide (s.latchBclk ≤ t))
            | _ => false
          let eff := max (named.getD 0) (earliestEff p.commitKind pg.commit + b2n slow)
          match p with
          | .slt c sc => s.checkSlt c sc eff t
          | .esc => s.checkEsc eff t
          | .map => s.checkMap eff t
          | .trt n => s.checkTrt n eff t
          | _ => s.commitArm p eff

/-- `commitCheckAt` in the present BCLK. -/
def State.commitCheck (s : State) (p : PageId) : State := s.commitCheckAt p s.bclk

/-- Every page number that may hold a commit. -/
def State.checkingPages (s : State) : List PageId :=
  s.pages.filterMap fun e => if e.2.cmt = .checking then pageOf e.1 else none

/-- The checks that have run out of time by the present BCLK complete (R107, R237, R733). -/
def State.settle (s : State) : State :=
  s.checkingPages.foldl (fun s p =>
    let c := (s.page p).commit
    let done := if p.commitKind = 1 then decide (c.at_ + 64 ≤ s.bclk)
      else match p with
        | .trt n => decide (c.at_ + 480 ≤ s.bclk) || (decide (c.at_ + 64 ≤ s.bclk) && (s.trtFieldFail n).isSome)
        | .map => decide (c.at_ + 96 ≤ s.bclk) || (decide (c.at_ + 64 ≤ s.bclk) && (s.fieldFail p).isSome)
        | _ => decide (c.at_ + 64 ≤ s.bclk) && (s.fieldFail p).isSome
    if done then s.commitCheckAt p (c.at_ + if p.commitKind = 3 then 480 else 64) else s) s

/-- The checks that the coming tick, which opens frame `f`, leaves no more time for (R51, R52, R55). -/
def State.forceChecks (s : State) (f : Nat) : State :=
  s.checkingPages.foldl (fun s p =>
    let c := (s.page p).commit
    let last := c.arrive + b2n c.late + (if p.commitKind = 2 then 2 else 1)
    if p.commitKind = 1 ∨ last ≤ f then s.commitCheckAt p (min s.bclk (c.at_ + if p.commitKind = 3 then 480 else 64)) else s) s

/-! ### PG_COMMIT (R59, R111) -/

/-- GO (R111): the commit starts with PG_COMMIT_FRAME as captured. -/
def State.commitGo (s : State) (p : PageId) (mvc : Bool) : State :=
  let pg := s.page p
  if p.commitKind = 0 then s.setErr p 0x01C 8
  else if pg.pendingCmt then s.setErr p 0x01C 3
  else if !s.esc.running then s.commitRefuse p 0x01C 8
  else if (match p with | .trt n => n != s.ctlRouter | _ => false) then s.commitRefuse p 0x01C 8
  else if p = .esc ∧ s.fsNew.isSome ∧ s.fsPages.any fun x => (s.page (.slt x.1 x.2)).cmt != .idle then s.commitRefuse p 0x050 3
  else
    let s := s.updPage p fun pg =>
      { pg with cmt := .checking, cmtRefused := false,
                commit := { arrive := s.esc.frame, late := s.pastLatch, want := pg.commitFrame, mvc := mvc, at_ := s.bclk } }
    if p = .esc ∧ s.fsNew.isSome then
      s.fsPages.foldl (fun s x => s.updPage (.slt x.1 x.2) fun pg => { pg with carried := true }) s
    else s

/-- The cancel point of a pending commit has passed (R51). -/
def State.cancelLate (s : State) (p : PageId) : Bool :=
  let pg := s.page p
  if pg.cmt = .idle then true
  else if pg.cmt = .checking then false
  else if p.commitKind = 1 then decide (pg.commit.eff = s.esc.frame + 1) && s.pastLatch
  else if p.commitKind = 2 then true
  else decide (pg.commit.eff ≤ s.esc.frame + 1)

/-- A pending commit is disarmed; the shadow keeps its values, and of an epoch neither announcement nor hold stays (R29). -/
def State.disarm (s : State) (p : PageId) : State :=
  let s := (s.updPage p fun pg => { pg with cmt := .idle }).intentBack p
  match p with
  | .esc => s.uncarry
  | .map => { s with map := { s.map with kind := 0, announced := false, hold := false } }
  | .trt _ => { s with trt := { s.trt with lossNext := false, announced := false, hold := false } }
  | _ => s

/-- CANCEL (R59, R111). -/
def State.commitCancel (s : State) (p : PageId) : State :=
  if p.commitKind = 0 then s.setErr p 0x01C 8
  else if s.cancelLate p then s.setErr p 0x01C 5
  else s.disarm p

/-- DISCARD (R111): every active value is copied into the shadow. -/
def State.commitDiscard (s : State) (p : PageId) : State :=
  if p.commitKind = 0 then s.setErr p 0x01C 8
  else if (s.page p).pendingCmt then s.setErr p 0x01C 3
  else p.rsOffs.foldl (fun s o => s.setShd p o (s.reg p o)) s

/-- A write of PG_COMMIT (R111). Of the two rules that forbid more than one command bit on a page that takes no commits, RANGE is the one
recorded (DESIGN CHOICE: log entry 58). -/
def State.writeCommit (s : State) (p : PageId) (v : Word) (mvc : Bool) : State :=
  let n := fld v 0 3
  if n = 0 then s
  else if n = 1 then s.commitGo p mvc
  else if n = 2 then s.commitCancel p
  else if n = 4 then s.commitDiscard p
  else s.setErr p 0x01C 1

/-! ### Movement's commits (R51, R127, R132) -/

/-- A write of Movement to an expert page is blocked and counted (R128). -/
def State.standoff (s : State) : State := { s with mvc := { s.mvc with standoff := wrapAdd 32 s.mvc.standoff 1 } }

/-- Movement writes a shadowed register; with `keep` the value becomes part of the page's standing intent. -/
def State.mvcShadow (s : State) (p : PageId) (off : Nat) (v : Word) (keep : Bool) : State :=
  if (s.page p).expert then s.standoff
  else
    let v := v &&& regMask p off
    (s.setShd p off v).updPage p fun pg => { pg with intent := if keep then Tbl.set (regReset p) pg.intent off v else pg.intent }

/-- A field that Movement sets becomes part of the page's standing intent (R132). -/
def State.keepFld (s : State) (p : PageId) (off lo w v : Nat) : State :=
  s.updPage p fun pg => { pg with intent := Tbl.upd (regReset p) pg.intent off fun x => setFld x lo w v }

/-- Movement writes a shadowed register and takes the value into the page's standing intent. -/
def State.mvcWrite (s : State) (p : PageId) (off : Nat) (v : Word) : State := s.mvcShadow p off v true

/-- Movement commits a page with a target frame (R56). -/
def State.mvcCommit (s : State) (p : PageId) (target : Word) : State :=
  if (s.page p).expert then s.standoff
  else (s.updPage p fun pg => { pg with commitFrame := target }).commitGo p true

/-- Movement commits a table on a subchannel; `fill` tells one of the fill set (R325, R511, R870). The validator checks it as any other
(R108, R316). -/
def State.mvcTable (s : State) (c sc : Nat) (target : Word) (fill : Bool) : State :=
  let p := PageId.slt c sc
  if (s.page p).pendingCmt ∨ (s.page p).expert then s
  else (s.mvcCommit p target).updPage p fun pg => { pg with commit := { pg.commit with fill := fill } }

/-! ### What takes effect at a tick (R48, R110) -/

/-- Every active field takes its shadow value, and a later effective frame than the reference is a slip (R58, R75, R110). -/
def State.applyShadow (s : State) (p : PageId) : State :=
  let chg := p.rsOffs.filterMap fun o => if s.shd p o = s.reg p o then none else some (o, s.shd p o ^^^ s.reg p o)
  let s := p.rsOffs.foldl (fun s o => s.setReg p o (s.shd p o)) s
  let c := (s.page p).commit
  let s := s.updPage p fun pg => { pg with cmt := .idle, commit := { pg.commit with applied := true, swFrame := c.eff, chg := chg } }
  if c.ref < c.eff then s.slip else s

/-- The due frames of a target's old table, from frame `f` on, that fall before the first one of the new table (R320). -/
def putOff (was new : Table) (twice : Bool) (f : Nat) (g : Target) : List (Nat × Target) :=
  match (rangeFrom f 33).find? fun x => new.dueIn g twice x with
  | some e => ((rangeFrom f (e - f)).filter fun x => was.dueIn g twice x).map fun x => (x, g)
  | none => []

/-- A table of a subchannel takes effect (R318, R343): `was`, the one before it, stands for the frames past (R319), and what it would have
refreshed sooner is owed (R320). -/
def State.applyTable (s : State) (c sc : Nat) (was : Table) : State :=
  let p := PageId.slt c sc
  let f := s.esc.frame
  let s := p.rsOffs.foldl (fun s o => s.setReg p o (s.shd p o)) s
  let s := s.updPage p fun pg => { pg with carried := false }
  let new := s.tblAct c sc
  let owed := if (s.sub c sc).legal then was.targets.flatMap (putOff was new (s.chan c).rate2x f) else []
  (s.updSub c sc fun b =>
    { b.rekeyDebt was.targets new.targets with legal := true, old := (b.old.filter fun x => decide (f < x.1 + 8)) ++ [(f, was)], owed := b.owed ++ owed }).raise p 0

/-- Step 4 of a tick (R31, R32, R48): table swaps and a change of FRAME_SLOTS. -/
def State.applyTables (s : State) : State :=
  let f := s.esc.frame
  let due := fun (s : State) (p : PageId) => (s.page p).cmt == .armed && decide ((s.page p).commit.eff ≤ f)
  let s := if due s .esc then
      let new := s.fsNew
      let ps := s.fsPages
      let s := s.applyShadow .esc
      match new with
      | none => s
      | some n =>
        let s := ps.foldl (fun s x => s.applyTable x.1 x.2 (s.tblAct x.1 x.2)) s
        let s := { s with esc := { s.esc with fs := n, fsPrev := s.esc.fs, fschgFrame := f, fschgBclk := s.esc.tickBclk } }.raise .esc 4
        ((List.range 17).filter fun c => !(s.chan c).inService).foldl (fun s c => s.turnTables c) s
    else s
  (List.range 34).foldl (fun s i =>
    let c := i / 2
    let sc := i % 2
    if due s (.slt c sc) then (s.applyShadow (.slt c sc)).applyTable c sc (s.tblAct c sc) else s) s

/-- What a change of a channel's control page starts at its tick (R417, R452, R746). -/
def State.applyCc (s : State) (c : Nat) (old : Nat → Word) : State :=
  let p := PageId.cc c
  let s := if flag (s.reg p 0x04C) 0 then
      (if (s.chan c).fenced then s else s.updChan c fun ch => { ch with fencePend := true })
    else s.updChan c fun ch => { ch with fenced := false, fencePend := false, fenceLatch := false }
  let s := if flag (old 0x060) 0 ≠ flag (s.reg p 0x060) 0 then
      s.updArb c fun a => { a with reqs := a.reqs.map fun x => (x.1, { urg := x.2.urg }), modeWas := some (s.bclk, flag (old 0x060) 0) }
    else s
  let s := if fld (old 0x068) 0 8 ≠ 0 ∧ fld (s.reg p 0x068) 0 8 = 0 then s.aliveLost 18 (· == c) else s
  let s := if fld (s.reg p 0x050) 0 16 = 0 ∧ !flag (s.reg p 0x050) 17 ∧ (s.chan c).sr = .idleSr then s.wake c s.bclk else s
  if flag (old 0x050) 17 ∧ !flag (s.reg p 0x050) 17 ∧ (s.chan c).sr = .parked then
    (s.updChan c fun ch => { ch with sr := .idleSr }).wake c s.bclk
  else s

/-- The copy unit starts or stops with CC_COPY_CFG.EN of the source (R865, R869, R897). -/
def State.applyCopy (s : State) (c : Nat) (old : Word) : State :=
  let w := s.reg (.cc c) 0x090
  if flag w 7 ∧ !flag old 7 then
    { s with copy := { on := true, src := c, dst := fld w 0 5, remap := flag w 6, poison := flag w 5, mirror := true,
                       lastRead := s.bclk, t0 := s.bclk } }
  else if !flag w 7 ∧ flag old 7 ∧ s.copy.src = c then { s with copy := { s.copy with on := false, mirror := false } }
  else s

/-- The error log's marks are cleared by the commit (R667). -/
def State.applyElog (s : State) (c : Nat) : State :=
  if flag (s.reg (.elog c) 0x040) 6 then
    let s := s.updChan c fun ch => { ch with elog := { ch.elog with corr := [], mark := [], markPend := [] } }
    s.setFldBoth (.elog c) 0x040 6 1 0
  else s

/-- What the commit of a page starts beside its values. -/
def State.applyHook (s : State) (p : PageId) (old : Nat → Word) : State :=
  match p with
  | .cc c => (s.applyCc c old).applyCopy c (old 0x090)
  | .cal c =>
    let w := s.reg p 0x040
    if fld w 0 2 ≠ 0 ∧ !(s.page p).commit.mvc then s.calRequest c (fld w 0 2) 3 (flag w 19) else s
  | .elog c => s.applyElog c
  | .brl c =>
    if fld (old 0x044) 0 16 = 0 ∧ fld (s.reg p 0x044) 0 16 ≠ 0 then
      s.updChan c fun ch => { ch with brl := { ch.brl with seq := 0, skipped := false, cap := none } }
    else s
  | .lth e =>
    let on := flag (s.reg p 0x040) 0
    s.updLe e fun w => if !on ∧ w.st = 0 then { w with st := 1 } else if on ∧ w.st = 1 then { w with st := 0 } else w
  | _ => s

/-- Step 7 of a tick: every other armed shadowed register. -/
def State.applyOthers (s : State) : State :=
  let due := s.pages.filterMap fun e =>
    if e.2.cmt = .armed ∧ e.2.commit.eff ≤ s.esc.frame then
      match pageOf e.1 with | some p => if p.commitKind = 1 then some p else none | none => none
    else none
  due.foldl (fun s p =>
    let old := fun off => s.reg p off
    (s.applyShadow p).applyHook p old) s

end Sys2Proof.Machine
end

