-- ==== Sys2Proof/Machine/Shares.lean ====
section
/-! DEFINITION. Roles (R222, R223, R896) and the G shares that follow them (R383, R386, R387, R822): arming, steps 6 and 9 of a
tick, the latch point's test. -/
namespace Sys2Proof.Machine

/-- A share in force on a channel. -/
def Chan.shareOf (ch : Chan) (i : Nat) : Nat := Tbl.get (fun _ => 0) ch.share i

/-- The shares of a role, over all instances (R822). -/
def State.roleShares (s : State) (r : Nat) : Tbl Nat :=
  s.ins.filterMap fun e => let n := e.2.shares.getD r 0; if n ≠ 0 ∧ (e.1 = 0 ∨ e.2.st ≠ 0) then some (e.1, n) else none

/-- A channel takes a role (R223, R896). -/
def State.setRole (s : State) (c r : Nat) : State :=
  if (s.chan c).role = r then s
  else
    let s := s.updChan c fun ch => { ch with prevRole := ch.role, role := r, roleChanges := wrapAdd 16 ch.roleChanges 1 }
    if r < 16 then { s with map := { s.map with lastHeld := Tbl.set (fun n => n) s.map.lastHeld r c } }
    else if r = 16 then { s with map := { s.map with reserveNom := c } } else s

/-- A channel takes a role with the role's shares in force; with none its scrubber's ALIVE falls (R433, R456). -/
def State.giveRole (s : State) (c r : Nat) : State :=
  let t := s.setRole c r
  (if 16 < r then t.aliveLost 18 (· == c) else t).updChan c fun ch => { ch with share := if r ≤ 16 then s.roleShares r else [], shareChg := [], tokens := [] }

/-- Roles are assigned (R222, R269): `nom` is the nominated reserve, the others take logical indices in ascending order; a single
channel that is refused leaves its index to the reserve. -/
def State.assignRoles (s : State) (nom : Nat) (ok : Nat → Bool) : State :=
  let idx := fun c => if c < nom then c else c - 1
  let others := (List.range 17).filter (· != nom)
  let bad := others.filter fun c => !ok c
  let s := others.foldl (fun s c => s.giveRole c (if ok c then idx c else 31)) s
  match ok nom, bad with
  | true, [c] => { s.giveRole nom (idx c) with map := { (s.giveRole nom (idx c)).map with noReserve := true, reserveNom := nom } }
  | true, _ => { s.giveRole nom 16 with map := { (s.giveRole nom 16).map with noReserve := false, reserveNom := nom } }
  | false, _ => { s.giveRole nom 31 with map := { (s.giveRole nom 31).map with noReserve := true, reserveNom := nom } }

/-- A change of an owner's share on the channel that holds a role is armed (R51, R387, R827): from the tick of frame `f`, with the
reference `ref` of R58. -/
def State.armShare (s : State) (c i new f ref : Nat) : State :=
  s.updChan c fun ch => { ch with shareChg := ch.shareChg.filter (fun x => x.1 != i) ++ [(i, new, f, ref)],
                                  shareOld := ch.shareOld.filter fun x => x.1 != i }

/-- The latest slot of an owner's G requests admitted under its old share, and a serial number beyond theirs: those of the first tick
after the decrease was armed, from which the owner has only the tokens of its new share (R387). -/
def State.shareBefore (s : State) (c i : Nat) : Pos × Nat :=
  let ch := s.chan c
  match ch.shareOld.find? fun x => x.1 == i with
  | some x => x.2
  | none => (Tbl.get (fun _ => {}) ch.ownerLast i, s.nextSn)

/-- The decrease of an owner's share may take effect at the coming tick (R387): every G request of the owner admitted under the
old share has passed its slot. -/
def State.shareFree (s : State) (c i : Nat) : Bool :=
  let x := s.shareBefore c i
  let past := fun (p : Pos) => decide (s.slotBclk p + s.k ≤ s.bclk)
  let old := fun (q : Req) (sn : Nat) => q.itag == i && q.g && decide (sn < x.2)
  past x.1 &&
  [0, 1].all fun sc =>
    let b := s.sub c sc
    (b.ram.all fun r => !(r.g && old r.req r.sn)) && (b.served.all fun v => !(v.late && old v.req v.sn) || past v.slot) &&
    b.wb.all fun w => !(w.exc && old w.req w.sn) || match w.slot with | some p => past p | none => true

/-- The latch point defers the decreases that may not yet take effect by one frame (R51, R387). -/
def State.shareLatch (s : State) (c : Nat) : State :=
  let ch := s.chan c
  if ch.shareChg = [] then s
  else
    let next := s.esc.frame + 1
    let chg := ch.shareChg.map fun x =>
      if x.2.2.1 ≤ next ∧ x.2.1 < ch.shareOf x.1 ∧ !s.shareFree c x.1 then (x.1, x.2.1, next + 1, x.2.2.2) else x
    s.updChan c fun ch => { ch with shareChg := chg }

/-- Step 6: the changes due take effect (R48, R386, R387). A change later than its SHARE_SET asked for counts one slip for each channel and
owner it changes (DESIGN CHOICE: log entry 58). -/
def State.shareTick (s : State) (c : Nat) : State :=
  let ch := s.chan c
  let due := ch.shareChg.filter fun x => decide (x.2.2.1 ≤ s.esc.frame)
  if due = [] then s
  else
    let s := due.foldl (fun s x =>
      let s := s.updChan c fun ch => { ch with share := Tbl.set (fun _ => 0) ch.share x.1 x.2.1 }
      if x.2.2.2 < x.2.2.1 then s.slip else s) s
    s.updChan c fun ch =>
      { ch with shareChg := ch.shareChg.filter fun x => !decide (x.2.2.1 ≤ s.esc.frame),
                shareOld := ch.shareOld.filter fun x => !due.any fun y => y.1 == x.1 }

/-- Step 9: the tokens of every owner are set to its share, a decrease armed counting at once (R49, R386, R387): from the first tick
after it was armed nothing more is admitted under the old share. -/
def State.tokenTick (s : State) (c : Nat) : State :=
  s.updChan c fun ch =>
    { ch with
      tokens := ch.shareChg.foldl (fun t x => if x.2.1 < ch.shareOf x.1 then Tbl.set (fun _ => 0) t x.1 x.2.1 else t) ch.share,
      shareOld := ch.shareChg.filterMap fun x => if x.2.1 < ch.shareOf x.1 then some (x.1, s.shareBefore c x.1) else none }

end Sys2Proof.Machine
end

