-- ==== Sys2Proof/Machine/MapEpoch.lean ====
section
/-! DEFINITION. Address-map epochs (R55, R241 to R249, R870 to R872, R881): arming, the hold, the drain, a takeover's moved reads,
and the switch. -/
namespace Sys2Proof.Machine

/-- Movement arms an address-map epoch of its own (R241, R870): 2 the close of the reserve range, 3 a takeover's switch, with the
hold frame `e`. -/
def State.armMap (s : State) (kind e : Nat) : State := { s with map := { s.map with kind := kind, eff := e } }

/-- Announcement and hold of an armed epoch at the tick that opens the present frame (R55, R244). -/
def State.mapOpen (s : State) : State :=
  let f := s.esc.frame
  if s.map.kind = 0 ∨ s.map.hold then s
  else if s.map.eff ≤ f then { s with map := { s.map with hold := true, announced := false } }
  else if s.map.eff = f + 1 then { s with map := { s.map with announced := true } }
  else s

/-- A packet carries a request decoded under the epoch in force, or its bounce (R244). -/
def Pkt.decoded (p : Pkt) : Bool :=
  match p.body with
  | .memReq r => decide (r.src < 18)
  | .bounce r _ => decide (r.src < 18)
  | _ => false

/-- Every request decoded under the old epoch has entered its bank FIFO or received a refusal (R244), the writes of the copies whose
reads are in flight among them (R480). -/
def State.mapDrained (s : State) : Bool :=
  !(s.pkts.any fun p => p.decoded) &&
  (s.gws.all fun e => e.2.cq.isEmpty && e.2.aside.isEmpty && e.2.g4q.isEmpty && (e.2.pipe.all fun l => l.st != 3) && e.2.holds.all fun h => h.held.isEmpty) &&
  s.crn.emerg.isNone && s.crn.egnt.isNone &&
  s.les.all fun e => e.2.cq.isEmpty && (e.2.holds.all fun h => h.held.isEmpty) && e.2.ops.all fun o => match o.st with
    | .retry _ => true
    | .order => s.mustWait e.1 o
    | _ => o.kind != .read

/-- Step 1 of R870: every write in the source has passed its slot, and the copy-unit queue is empty and enqueued. -/
def State.tkWritesDone (s : State) : Bool :=
  [0, 1].all (fun sc =>
    let b := s.sub s.map.tkSrc sc
    (b.ram.all fun r => !r.req.write) && b.crown.isNone &&
    b.wb.all fun w => !w.retry && match w.slot with | some p => decide (s.slotBclk p + s.k ≤ s.bclk) | none => false) &&
  (s.mvc.cq.all fun w => w.req.use != 3 && w.req.use != 4 && w.req.use != 5) && s.copy.out.isEmpty &&
  !(s.pkts.any fun p => match p.body with | .memReq r => r.src == 19 | _ => false)

/-- The source sends its remaining reads to the destination, one per BCLK, in enqueue order (R871). -/
def State.moveReads (s : State) : State :=
  let c := s.map.tkSrc
  let d := s.map.tkDst
  let recs := [0, 1].flatMap fun sc => (s.sub c sc).ram
  let order := recs.foldl (fun (l : List Rec) r =>
    (l.filter fun x => decide (x.sn < r.sn)) ++ [r] ++ l.filter fun x => !decide (x.sn < r.sn)) []
  let move := fun (s : State) (x : Rec × Nat) =>
    let due : Pos := x.1.req.due.getD x.1.stamp
    let dst := s.copyLoc x.1.req.loc
    s.inject (.memReq { x.1.req with loc := { dst with ch := d }, due := some due, exc := x.1.exc }) (nodeCh c) (nodeCh d) (s.bclk + 1 + x.2)
  let s := order.zipIdx.foldl move s
  [0, 1].foldl (fun s sc => s.updSub c sc fun b => { b with ram := [], wb := b.wb.map fun w => { w with bound := [] } : Sub }.release) s

/-- A latch point of a takeover's hold (R870): once step 1 holds, the source stops deciding reads and sends those it has. -/
def State.tkLatch (s : State) : State :=
  if s.map.kind ≠ 3 ∨ !s.map.hold ∨ (s.chan s.map.tkSrc).drain ∨ !s.tkWritesDone ∨ !s.mapDrained then s
  else (s.updChan s.map.tkSrc fun ch => { ch with drain := true }).moveReads

/-- The drain of the hold is complete. -/
def State.mapReady (s : State) : Bool :=
  s.mapDrained &&
  (s.map.kind != 3 || ((s.chan s.map.tkSrc).drain &&
    !(s.pkts.any fun p => match p.body with | .memReq r => r.due.isSome | _ => false)))

/-- The map of the shadow becomes active (R110, R244). -/
def State.mapApply (s : State) : State := PageId.map.rsOffs.foldl (fun s o => s.setReg .map o (s.shd .map o)) s

/-- The roles change at a takeover's switch (R243, R872, R881): the destination takes the index with its shares; the source goes
offline, or in a rehash becomes the reserve. -/
def State.tkRoles (s : State) : State :=
  let c := s.map.tkSrc
  let d := s.map.tkDst
  let old := s.chan c
  let rehash := s.task.kind == 3
  let s := s.setRole d old.role
  let s := s.updChan d fun ch => { ch with share := old.share, shareChg := old.shareChg, shareOld := [], tokens := [], ownerLast := [],
                                           rotNew := rehash || ch.rotNew }
  let s := if rehash then s.giveRole c 16 else s.giveRole c 31
  let s := s.updChan c fun ch =>
    { ch with drain := false, rotNew := false, scrub := { ch.scrub with fly := none, q := [] } }
  let s := s.setFldBoth (.cc c) 0x090 7 1 0
  let s := { s with copy := { s.copy with on := false, mirror := false } }
  if rehash then s else { s with map := { s.map with noReserve := true } }

/-- Step 2 of a tick (R48, R244): an epoch whose drain is complete switches; the lines that wait before G2 go on under the new map. A
commit whose hold frame lay beyond its reference frame is a slip; an epoch that Movement armed by itself is no commit and never counts
as one (DESIGN CHOICE: R75 does not name it; log entry 58). -/
def State.mapSwitch (s : State) : State :=
  let k := s.map.kind
  let f := s.esc.frame
  if k = 0 ∨ !s.map.hold ∨ f ≤ s.map.eff ∨ !s.mapReady then s
  else
    let slipped := k == 1 && decide ((s.page .map).commit.ref < (s.page .map).commit.eff)
    let s := if k = 1 then
        let s := s.mapApply
        let s := s.updPage .map fun pg => { pg with cmt := .idle, commit := { pg.commit with applied := true, swFrame := f } }
        let s := match s.map.nomNext with
          | some c => s.assignRoles c fun c => (s.chan c).inService
          | none => s
        { s with map := { s.map with nomNext := none, committed := true, resClosed := s.map.resClosed && (s.chanOfRole 16).isNone } }
      else if k = 2 then ({ s with map := { s.map with resClosed := true } }).raise .map 1
      else { s.tkRoles with task := { s.task with swFrame := f } }
    let s := { s with map := { s.map with epoch := wrapAdd 16 s.map.epoch 1, hold := false, announced := false, kind := 0 } }
    let s := (s.raise .map 0).ev { box := boxBlk, code := 7, qual := .is 6 1 }
    if slipped then s.slip else s

end Sys2Proof.Machine
end

