-- ==== Sys2Proof/Machine/Mailbox.lean ====
section
/-! DEFINITION. The mailboxes (R133 to R139): which command runs, its completion, and the commits it awaits. -/
namespace Sys2Proof.Machine

/-- A mailbox: 0 the manager's, 1 the Crown port's. -/
def State.mbx (s : State) (m : Nat) : Mbx := if m = 1 then s.blk.mb1 else s.blk.mb0

/-- Changes a mailbox. -/
def State.updMbx (s : State) (m : Nat) (f : Mbx → Mbx) : State :=
  if m = 1 then { s with blk := { s.blk with mb1 := f s.blk.mb1 } } else { s with blk := { s.blk with mb0 := f s.blk.mb0 } }

/-- MB_ARGn of a mailbox. -/
def Mbx.arg (x : Mbx) (n : Nat) : Word := Tbl.get (fun _ => 0) x.args n

/-- A field of MB_ARGn. -/
def Mbx.argF (x : Mbx) (n lo w : Nat) : Nat := fld (x.arg n) lo w

/-- The address in MB_ARGn [31:0] and MB_ARGn+1 [51:32]. -/
def Mbx.addr (x : Mbx) (n : Nat) : Nat := (x.arg n).toNat + x.argF (n + 1) 0 20 * 2 ^ 32

/-- Stores results (R137); those that the command does not name stay. -/
def Mbx.put (x : Mbx) (res : List (Nat × Nat)) : Mbx :=
  { x with res := res.foldl (fun t e => Tbl.set (fun _ => 0) t e.1 (BitVec.ofNat 32 e.2)) x.res }

/-- A command completes (R137). -/
def State.mbDone (s : State) (m status detail : Nat) (res : List (Nat × Nat)) : State :=
  let s := s.updMbx m fun x =>
    { (x.put res) with go := false, busy := false, running := false, done := true, status := status, seqEcho := x.seq,
                       detail := detail % 256, await := [], refused := [], chans := [], eff := 0 }
  (s.raise .blk m).ev { box := boxBlk, code := 0x05, qual := .is 6 (m + 1) }

/-- A command ends at once with FIELD and a reason in MB_RES1 (R873, R877). -/
def State.mbReason (s : State) (m reason : Nat) : State := s.mbDone m 0x0C 0 [(1, reason)]

/-- A command is running (R136). -/
def State.mbBusy (s : State) : Bool := s.blk.mb0.running || s.blk.mb1.running

/-- The mailbox whose command Movement takes up next (R136). -/
def State.mbFront (s : State) : Option Nat :=
  if !s.mvc.running ∨ s.mbBusy then none else if s.blk.mb1.go then some 1 else if s.blk.mb0.go then some 0 else none

/-- The mailbox whose turn it is, where its command has the code. -/
def State.mbOf (s : State) (code : Nat) : Option Nat :=
  match s.mbFront with
  | some m => if (s.mbx m).cmd = code then some m else none
  | none => none

/-- The command is taken up and awaits the outcome of commits (R137). -/
def State.mbRun (s : State) (m : Nat) (await chans : List Nat) : State :=
  s.updMbx m fun x => { x with go := false, running := true, await := await, refused := [], chans := chans, eff := 0 }

/-- The channels of a mask. -/
def maskChans (w : Nat) : List Nat := (List.range 17).filter fun c => w.testBit c

/-- A mask of channels. -/
def chanMask (l : List Nat) : Nat := l.foldl (fun a c => Nat.lor a (2 ^ c)) 0

/-- The channels of pages, by page number. -/
def pageChans (l : List Nat) : List Nat := l.filterMap fun n => (pageOf n).bind fun p => p.chan

/-- A page, by its number. -/
def State.pageN (s : State) (n : Nat) : Page := Tbl.get pageDflt s.pages n

/-- One of the pages is at the expert level (R129). -/
def State.anyExpert (s : State) (l : List PageId) : Bool := l.any fun p => (s.page p).expert

/-- A command that names these pages waits: an adoption (R131) or a commit of Movement's own is not complete on one of them. -/
def State.pagesBusy (s : State) (l : List PageId) : Bool := l.any fun p => (s.page p).mvcActive || (s.page p).pendingCmt

/-- The commits a running command awaits: those that have ended leave the list (R336, R425, R467). -/
def State.mbPages (s : State) (m : Nat) : State :=
  let x := s.mbx m
  x.await.foldl (fun s n =>
    let pg := s.pageN n
    if pg.cmt ≠ .idle then s
    else s.updMbx m fun x =>
      let x := { x with await := x.await.filter (· != n) }
      if pg.cmtRefused ∨ !pg.commit.applied then { x with refused := x.refused ++ [n] }
      else { x with eff := max x.eff pg.commit.swFrame }) s

/-- Writes images to pages' shadows and commits each page once with a target (R56). -/
def State.mvcSet (s : State) (ws : List (PageId × Nat × Word)) (target : Word) : State :=
  let s := ws.foldl (fun s w => s.mvcWrite w.1 w.2.1 w.2.2) s
  let ps := ws.foldl (fun (l : List PageId) w => if l.contains w.1 then l else l ++ [w.1]) []
  ps.foldl (fun s p => s.mvcCommit p target) s

/-- A command that commits registers on the channels it names, with one target (R425, R467, R614, R663, R700). -/
def State.mbCommit (s : State) (m : Nat) (pages : List PageId) (ws : List (PageId × Nat × Word)) (target : Word) : State :=
  if s.anyExpert pages then s.mbDone m 8 0 []
  else if s.pagesBusy pages then s
  else if pages = [] then s.mbDone m 0 0 [(0, 0), (1, 0)]
  else (s.mvcSet ws target).mbRun m (pages.map PageId.num) []

/-! ### Memory that a command reads or writes (R138) -/

/-- The lines of a buffer, or the status of the first that is not read. -/
def State.readLines (s : State) (pa : Nat) : Nat → Sum Nat (List Line)
  | 0 => .inr []
  | n + 1 =>
    match s.seeLine pa with
    | .status st => .inl st
    | .data l =>
      match s.readLines (pa + 64) n with
      | .inl st => .inl st
      | .inr ls => .inr (l :: ls)

/-- The bytes of a list of lines, from the lowest address. -/
def lineBytes (ls : List Line) : List Nat := ls.flatMap fun l => (List.range 64).map fun i => lineNat l i 1

/-- The bytes of a buffer at any address. -/
def State.readBytes (s : State) (pa n : Nat) : Sum Nat (List Nat) :=
  if n = 0 then .inr []
  else
    let first := pa / 64
    let last := (pa + n - 1) / 64
    match s.readLines (64 * first) (last - first + 1) with
    | .inl st => .inl st
    | .inr ls => .inr (((lineBytes ls).drop (pa % 64)).take n)

/-- Bytes as 32-bit words, least significant byte first. -/
def wordsOf : List Nat → List Word
  | a :: b :: c :: d :: t => BitVec.ofNat 32 (a + 256 * b + 65536 * c + 16777216 * d) :: wordsOf t
  | _ => []

/-- A word as bytes, least significant first. -/
def bytesOf (w : Word) : List Nat := [fld w 0 8, fld w 8 8, fld w 16 8, fld w 24 8]

/-- A line with bytes from an offset on replaced. -/
def lineWith (l : Line) (off : Nat) (bs : List Nat) : Line :=
  let old := lineBytes [l]
  let new := old.take off ++ bs ++ old.drop (off + bs.length)
  BitVec.ofNat 512 (new.zipIdx.foldl (fun a b => a + b.1 * 2 ^ (8 * b.2)) 0)

/-- Writes bytes at an address, each line as a whole. A line that cannot be read gives its status. -/
def State.writeBytes (s : State) : Nat → Nat → List Nat → Sum Nat State
  | 0, _, _ => .inr s
  | fuel + 1, pa, bs =>
    if bs = [] then .inr s
    else
      let off := pa % 64
      let n := min (64 - off) bs.length
      let base := 64 * (pa / 64)
      let put := fun (l : Line) => (s.putLine base (lineWith l off (bs.take n))).writeBytes fuel (base + 64) (bs.drop n)
      if n = 64 then
        match s.dest base with
        | .unmapped => .inl 2
        | .closed => .inl 3
        | .at_ l => if s.offOrParked l.ch ∨ (s.chan l.ch).fenced then .inl 3 else put 0
      else match s.seeLine base with
        | .status st => .inl st
        | .data l => put l

/-- CRC-32 of R607 over bytes: polynomial 0x04C11DB7 reflected, initial and final value all ones. -/
def crc32 (bs : List Nat) : Nat :=
  let step := fun (c : Nat) => if c % 2 = 1 then Nat.xor (c / 2) 0xEDB88320 else c / 2
  let byte := fun (c b : Nat) => (List.range 8).foldl (fun c _ => step c) (Nat.xor c b)
  Nat.xor (bs.foldl byte 0xFFFFFFFF) 0xFFFFFFFF

end Sys2Proof.Machine
end

