-- ==== Sys2Proof/Machine/LiveService.lean ====
section
/-! DEFINITION. Keeping the memory up (chapter 19): takeover, rejoin, rehash, channel tests, the copy unit, Movement's restarts and
its firmware update. -/
namespace Sys2Proof.Machine

/-! ### Service work abandoned (R44, R46, R74, R75) -/

/-- Step 11 of a tick records that a piece of service work was abandoned: counted by kind, with its unit and the frame that the tick
opens, and its run of abandonments noted. -/
def State.abandon (s : State) (kind unit : Nat) : State :=
  let key := fun (w : SvcWork) => w.kind == kind && w.unit == unit
  let n := (match s.esc.works.find? key with | some w => w.abandoned | none => 0) + 1
  let th := s.regFld .esc 0x06C 0 8
  let hit := th != 0 && decide (th ≤ n)
  let w : SvcWork := { kind := kind, unit := unit, abandoned := if hit then 0 else n }
  let s := { s with esc := { s.esc with
    ovrKind := kind, ovrUnit := unit, ovrFrame := s.esc.frame % 65536,
    ovrCnt := Tbl.upd (fun _ => 0) s.esc.ovrCnt kind fun c => wrapAdd 32 c 1,
    works := (s.esc.works.filter fun x => !key x) ++ [w] } }
  (s.ev { box := boxBlk, code := 0x02, qual := .is 6 (kind + 1) }).raiseIf hit .esc 2

/-! ### Tables, enables and intents that Movement sets (R93, R132, R325, R511) -/

/-- Movement loads a table image; with `keep` it becomes the standing intent. -/
def State.loadTable (s : State) (c sc : Nat) (img : Image) (keep : Bool) : State :=
  let p := PageId.slt c sc
  let s := (s.mvcShadow p 0x040 img.cfg keep).mvcShadow p 0x078 img.flex keep
  img.words.zipIdx.foldl (fun s w => s.mvcShadow p (0x600 + 4 * w.2) w.1 keep) s

/-- The word PG_COMMIT_FRAME that names the frame `n` frames ahead of the earliest a commit may name (R51, R56). -/
def State.ahead (s : State) (n : Nat) : Word := BitVec.ofNat 32 (s.esc.frame + n + b2n s.pastLatch)

/-- A set of the boot store for the frame length in force (R32). -/
def State.setNow (s : State) (set : Nat) : Nat := if s.esc.fs = s.bin.slots then set else set + 256 * s.esc.fs

/-- Both subchannels of a channel take a table set of the boot store, in the frame length in force, where Movement commits it (R32, R312,
R325, R511). -/
def State.bootTables (s : State) (c set : Nat) (keep : Bool) : State :=
  let d := (s.chan c).spd.getD {}
  let n := s.setNow set
  if !bootFits n 0 s.bin d then s
  else [0, 1].foldl (fun s sc => (s.loadTable c sc (bootTable n 0 s.bin d) keep).mvcTable c sc (s.ahead 3) (set == 1)) s

/-- The latest table commits of a channel have taken effect. -/
def State.tablesDone (s : State) (c : Nat) : Bool :=
  [0, 1].all fun sc => let pg := s.page (.slt c sc); pg.cmt == .idle && pg.commit.applied

/-- Movement sets EN of a page; the change applies at the next tick (R92, R93). On an expert page the write is dropped and counted (R94,
R128), and where the Crown port has written EN for the same tick its value stands (R104). -/
def State.enable (s : State) (p : PageId) : State :=
  if (s.page p).enReq then s
  else if (s.page p).expert then s.standoff
  else if (s.page p).enBy = 2 then s.overrun 6 (p.chan.getD 255)
  else s.updPage p fun pg => { pg with enReq := true, enBy := 1 }

/-- The pages of a channel that Movement enables when it takes the channel up (R93). -/
def chanPages (c : Nat) : List PageId := [.cc c, .slt c 0, .slt c 1, .phy c, .cal c, .elog c, .elog2 c]

/-- A register of a page's standing intent (R132). -/
def State.intentOf (s : State) (p : PageId) (off : Nat) : Word := Tbl.get (regReset p) (s.page p).intent off

/-- Movement takes a page's active values as its standing intent (R131, R519). -/
def State.adopt (s : State) (p : PageId) : State :=
  let t := p.rsOffs.foldl (fun t o => Tbl.set (regReset p) t o (s.reg p o)) []
  s.updPage p fun pg => { pg with intent := t, mvcActive := false }

/-- Movement reapplies the standing intent of a page at the basic level where it differs from what is in force (R132). -/
def State.reapply (s : State) (p : PageId) : State :=
  if (s.page p).expert ∨ (s.page p).pendingCmt ∨ p.rsOffs.all (fun o => s.intentOf p o == s.reg p o) then s
  else (p.rsOffs.foldl (fun s o => s.setShd p o (s.intentOf p o)) s).mvcCommit p 0

/-- A channel's supplies go off again and its DIMM may be removed (R876, R878, R884). -/
def State.supplyOff (s : State) (c : Nat) : State :=
  s.updChan c fun ch => { ch with powered := false, svcReady := true, resetN := true, calState := 0, rjn := 0, test := false }

/-- A channel's supplies go on and RESET_n is released (R878, R884). -/
def State.supplyOn (s : State) (c : Nat) : State :=
  let s := s.updChan c fun ch => { ch with powered := true, svcReady := false, resetN := false }
  (chanPages c).foldl (fun s p => s.enable p) s

/-! ### Takeover and the steps of a rehash (R862 to R882) -/

/-- A channel's supplies change at a tick as Movement has staged it (R127). -/
def State.supplyTick (s : State) (c : Nat) : State :=
  match (s.chan c).supNext with
  | none => s
  | some (on, f) =>
    if s.esc.frame < f then s
    else
      let s := s.updChan c fun ch => { ch with supNext := none }
      if on then s.supplyOn c else s.supplyOff c

/-- Movement stages a change of a channel's supplies. -/
def State.stageSupply (s : State) (c : Nat) (on : Bool) : State := s.updChan c fun ch => { ch with supNext := some (on, s.soonFrame) }

/-- A takeover, rejoin, rehash or test is in progress (R862, R873). -/
def State.atWork (s : State) : Bool := s.task.kind != 0 || s.tst.on

/-- The pages that a takeover writes. -/
def tkPages (src dst : Nat) : List PageId := [.cc src, .cc dst, .map, .slt dst 0, .slt dst 1, .brl dst]

/-- The reason of R873 that refuses a takeover of a channel; 0 for none. -/
def State.tkRefuse (s : State) (c : Nat) : Nat :=
  if 16 ≤ (s.chan c).role ∨ (s.chan c).sr = .parked then 1
  else if (s.chanOfRole 16).isNone then 2
  else if s.atWork then 3 else 0

/-- A takeover, or a step of a rehash, is staged for the next tick (R127, R864). -/
def State.moveStart (s : State) (kind src dst : Nat) (force : Bool) (mb : Option Nat) (left : List Nat) (began : Nat) : State :=
  { s with task := { kind := kind, src := src, dst := dst, force := force, mb := mb, left := left, began := began, at_ := s.soonFrame } }

/-- Phase 1, CLOSE, begins at its tick (R127, R864): the reserve wakes, as does a source in idle self-refresh (R417), its range closes, and it
takes the fill tables. -/
def State.moveOpen (s : State) : State :=
  let k := s.task
  let s := if (s.chan k.dst).sr = .parked then s.mvcSet [(.cc k.dst, 0x050, setFld (s.shd (.cc k.dst) 0x050) 17 1 0)] 0
           else s.wake k.dst s.bclk
  let s := s.wake k.src s.bclk
  let s := if s.mapAct.resEn ∧ !s.map.resClosed then s.armMap 2 (s.esc.frame + 2 + b2n s.pastLatch) else s
  let s := s.bootTables k.dst 1 false
  let s := s.updChan k.src fun ch => { ch with tko := 1 }
  { s with task := { k with phase := 1 } }

/-- TAKEOVER_START (R862): an event of the last 1 ms calls for a takeover of its channel. -/
def State.takeoverStart (s : State) (c : Nat) : State :=
  match (s.chan c).evtAt, s.chanOfRole 16 with
  | some t, some d =>
    if 17 ≤ c ∨ t + s.bin.us 1000 < s.bclk ∨ s.tkRefuse c ≠ 0 ∨ !s.mvc.running ∨ s.map.kind ≠ 0 ∨
        s.anyExpert (tkPages c d) ∨ s.pagesBusy (tkPages c d) then s
    else (s.updChan c fun ch => { ch with evtAt := none }).moveStart 1 c d false none [] s.bclk
  | _, _ => s

/-- The copy unit is switched on or off (R897): a staged result of Movement's, which goes on as `go` says. On an expert page it is blocked
and counted (R128); where a commit that takes effect at this tick changes the register, the commit stands, the result is discarded as an
overrun of Movement, and the work is done again at the next tick (R47, R104). -/
def State.copyCfg (s : State) (c : Nat) (v : Word) (go : State → State) : State :=
  if (s.page (.cc c)).expert then s.standoff
  else if s.superseded (.cc c) 0x090 0xFFFFFFFF then s.overrun 6 c
  else
    let old := s.reg (.cc c) 0x090
    go ((s.setBoth (.cc c) 0x090 v).applyCopy c old)

/-- Phase 2, COPY, begins (R864, R865). -/
def State.copyStart (s : State) : State :=
  let k := s.task
  let v := pack [(0, 5, k.dst), (5, 1, b2n k.force), (6, 1, b2n (k.kind = 3)), (7, 1, 1)]
  s.copyCfg k.src v fun s =>
    { s.updChan k.src (fun ch => { ch with tko := 2 }) with task := { k with phase := 2, copyStart := s.bclk } }

/-- The destination has raised an event before the switch (R874). -/
def State.moveFail (s : State) : State :=
  let k := s.task
  s.copyCfg k.src (setFld (s.reg (.cc k.src) 0x090) 7 1 0) fun s =>
    let s := (s.updChan k.src fun ch => { ch with tko := 0 }).giveRole k.dst 31
    let s := { s with map := { s.map with noReserve := true }, task := {} }
    match k.mb with | some m => s.mbDone m 3 0 [(1, 4)] | none => s

/-- The last phase, DONE, at the tick after POWER (R864, R873): the fenced source's supplies go off, the takeover is complete, and
Movement reapplies the intents of the channel that has taken the index (R132). -/
def State.moveDone (s : State) : State :=
  let k := s.task
  let s := (s.supplyOff k.src).updChan k.src fun ch => { ch with tko := 6 }
  let s := { s.raise (.cc k.src) 10 with task := {} }
  let s := [PageId.cc k.dst, .slt k.dst 0, .slt k.dst 1, .brl k.dst].foldl (fun s p => s.reapply p) s
  match k.mb with
  | some m => s.mbDone m 0 0 [(0, k.swFrame), (1, min s.copy.poisoned (2 ^ 32 - 1)), (2, k.copyMs)]
  | none => s

/-- Phase 3, SWITCH (R870): the destination takes the source's standing tables and settings, and the switch is armed for the frame
after. -/
def State.switchStart (s : State) : State :=
  let k := s.task
  let e := s.ahead 3
  let s := [0, 1].foldl (fun s sc =>
    let s := (PageId.slt k.dst sc).rsOffs.foldl (fun s o => s.mvcWrite (.slt k.dst sc) o (s.intentOf (.slt k.src sc) o)) s
    s.mvcTable k.dst sc e false) s
  let offs := [0x060, 0x054] ++ (List.range 20).map fun i => 0x100 + 4 * i
  let s := s.mvcSet (offs.map fun o => (PageId.cc k.dst, o, s.intentOf (.cc k.src) o)) e
  let s := s.mvcSet [(.brl k.dst, 0x040, s.intentOf (.brl k.src) 0x040)] e
  let s := s.armMap 3 (s.esc.frame + 4)
  let s := s.updChan k.src fun ch => { ch with tko := 3 }
  { s with map := { s.map with tkSrc := k.src, tkDst := k.dst },
           task := { k with phase := 3, copyMs := s.msOf (s.bclk - k.copyStart) } }

/-- After the switch of a takeover the source is fenced; after that of a rehash step the next step starts, or the new masks wait for
the next tick (R864, R881, R882). -/
def State.afterSwitch (s : State) : State :=
  let k := s.task
  if k.kind = 1 then
    if s.pagesBusy [.cc k.src] then s
    else
      let s := s.mvcSet [(.cc k.src, 0x04C, 1)] 0
      { s.updChan k.src (fun ch => { ch with tko := 4 }) with task := { k with phase := 4 } }
  else
    let s := s.updChan k.src fun ch => { ch with tko := 0 }
    match k.left with
    | l :: rest =>
      let src := s.physOf l
      if s.pagesBusy (tkPages src k.src) then s else (s.moveStart 3 src k.src false k.mb rest k.began).moveOpen
    | [] => { s with task := { k with phase := 4, until_ := some (s.esc.frame + 1) } }

/-- The new masks of a rehash become the active map, and the channel left over is filled (R882). -/
def State.rehashEnd (s : State) : State :=
  let k := s.task
  let s := s.mapApply
  let s := (List.range 17).foldl (fun s c => s.updChan c fun ch => { ch with rotNew := false }) s
  let s := s.bootTables k.src 1 false
  { s with task := { kind := 5, dst := k.src, mb := k.mb, swFrame := s.esc.frame, began := k.began } }

/-- What a tick moves on in a takeover or rehash (R864, R874, R881). -/
def State.moveTick (s : State) : State :=
  let k := s.task
  if (k.kind ≠ 1 ∧ k.kind ≠ 3) ∨ !s.mvc.running ∨ s.esc.frame < k.at_ then s
  else if k.fail ∧ k.phase ≤ 2 then s.moveFail
  else if k.phase = 0 then
    if s.pagesBusy (tkPages k.src k.dst) ∨ s.map.kind ≠ 0 then s else s.moveOpen
  else if k.phase = 1 then
    if s.map.kind = 0 ∧ s.tablesDone k.dst ∧ (s.chan k.dst).sr = .awake ∧ !s.pagesBusy [.cc k.src] then s.copyStart else s
  else if k.phase = 2 then
    if s.copy.next < s.chanLines ∨ s.copy.out ≠ [] then s
    else
      let s := { s with copy := { s.copy with done := true } }
      if s.pagesBusy (tkPages k.src k.dst) ∨ s.map.kind ≠ 0 then s else s.switchStart
  else if k.phase = 3 then (if s.map.kind = 0 then s.afterSwitch else s)
  else if k.phase = 4 ∧ k.kind = 1 then
    if (s.chan k.src).fenced then { s.updChan k.src (fun ch => { ch with tko := 5 }) with task := { k with phase := 5 } } else s
  else if k.phase = 4 ∧ k.until_ = some s.esc.frame then s.rehashEnd
  else if k.phase = 6 then s.moveDone
  else s

/-- TAKEOVER_POWER (R127, R864): Movement has carried out phase 5 over the sideband; the source's supplies go off and the takeover is
complete at the next tick. -/
def State.takeoverPower (s : State) : State :=
  let k := s.task
  if k.kind ≠ 1 ∨ k.phase ≠ 5 ∨ !s.mvc.running then s else { s with task := { k with phase := 6, at_ := s.soonFrame } }

/-! ### The copy unit (R865 to R869) -/

/-- The BCLK of line `n` at the rate in force: every 64 / RATE ns, each time rounded up (R865). -/
def State.copyTime (s : State) (n : Nat) : Nat :=
  s.copy.t0 + ceilDiv ((n - s.copy.n0) * 64 * s.bin.mhz) (1000 * s.therm.rate)

/-- COPY_LINE (R865, R866, R869): the next copy read, or in poison mode the next poison write. -/
def State.copyLine (s : State) : State :=
  let k := s.copy
  let n := k.next
  if !k.on ∨ s.chanLines ≤ n ∨ s.therm.rate = 0 then s
  else
    let t := max s.bclk (s.copyTime n)
    let queued := (s.mvc.cq.filter fun w => w.req.use == 4 || w.req.use == 5).length
    if !s.canReach t ∨ (!k.poison ∧ 64 < k.out.length + queued + 16) then s
    else
      let s := s.goto t
      let l := s.lineLoc k.src n
      if k.poison then
        let s := s.copyWrite l 0 true 4 0 s.bclk
        { s with copy := { s.copy with next := n + 1, poisoned := s.copy.poisoned + 1 } }
      else
        let r : Req := { src := 19, tag := n, loc := l, created := s.bclk, hdrAt := s.bclk, use := 3 }
        let s := { s with mvc := { s.mvc with cq := insertWait { req := r, raised := s.bclk } s.mvc.cq } }
        { s with copy := { s.copy with next := n + 1, out := s.copy.out ++ [n],
                                       lastRead := if k.out = [] then s.bclk else k.lastRead } }

/-- POISON_MODE (R869): no copy read has returned for 10 ms. The lines whose reads are out are poisoned too. -/
def State.poisonMode (s : State) : State :=
  let k := s.copy
  let t := max s.bclk (k.lastRead + s.bin.us 10000)
  if !k.on ∨ k.poison ∨ k.out = [] ∨ !s.canReach t then s
  else
    let s := s.goto t
    let s := k.out.foldl (fun s n => s.copyWrite (s.lineLoc k.src n) 0 true 4 0 s.bclk) s
    let cq := s.mvc.cq.filter fun w => w.req.use != 3
    { s with mvc := { s.mvc with cq := cq },
             copy := { s.copy with poison := true, out := [], poisoned := s.copy.poisoned + k.out.length } }

/-- The rate evaluated at the last tick is in force (R523). -/
def State.rateApply (s : State) : State :=
  match s.therm.rateNext with
  | none => s
  | some r =>
    let s := { s with therm := { s.therm with rateNext := none } }
    if r = s.therm.rate then s
    else { s with therm := { s.therm with rate := r }, copy := { s.copy with t0 := s.bclk, n0 := s.copy.next } }

/-! ### Rejoin (R876 to R879) -/

/-- The reason of R877 that refuses a rejoin; 0 for none. -/
def State.rjnRefuse (s : State) (c : Nat) : Nat :=
  if 17 ≤ c ∨ (s.chan c).inService ∨ !(s.chan c).prsnt then 1
  else if (s.chanOfRole 16).isSome then 2
  else if s.atWork then 3
  else if s.calrefFault c then 5 else 0

/-- A rejoin is staged for the next tick (R127, R878). -/
def State.rejoinStart (s : State) (c m : Nat) : State :=
  { s with task := { kind := 2, dst := c, mb := some m, began := s.bclk, at_ := s.soonFrame } }

/-- Phase 1, POWER, begins at its tick (R878). -/
def State.rejoinOpen (s : State) : State :=
  let k := s.task
  let s := (s.supplyOn k.dst).updChan k.dst fun ch => { ch with rjn := 1, tko := 0 }
  { s with task := { k with phase := 1 } }

/-- A rejoin ends at ACCEPT or TRAIN (R878), at a tick (R127): the channel stays offline, and its supplies go off. -/
def State.rejoinFail (s : State) (reason : Nat) : State :=
  let k := s.task
  let s := { s.supplyOff k.dst with task := {} }
  match k.mb with | some m => s.mbReason m reason | none => s

/-- A rejoin ends in its POWER phase (R956): the PMIC's enable has failed. The spec gives REJOIN no reason code for it; MB_RES1 holds a
free value. -/
def State.rejoinNoPower (s : State) : State :=
  { s with nextFree := s.nextFree + 1 }.rejoinFail (Config.freeWord s.nextFree).toNat

/-- What the start of a Caliper run, its end or its refusal at the start means for a rejoin (R878), as the latest latch point found it
(R40). -/
def State.rejoinCal (s : State) : State :=
  let k := s.task
  let c := k.dst
  let ch := s.chan c
  if k.kind ≠ 2 ∨ !s.mvc.running ∨ (ch.rjn ≠ 2 ∧ ch.rjn ≠ 3) then s
  else if ch.calSeen = 2 then s.updChan c fun ch => { ch with rjn := 3 }
  else if ch.calSeen = 3 then (s.bootTables c 1 false).updChan c fun ch => { ch with rjn := 4 }
  else if ch.calSeen = 0 then s.rejoinFail (if fld (BitVec.ofNat 32 (s.cal c).failWord) 12 4 = 7 then 6 else 7)
  else s

/-- Movement's work notes at a latch point what Caliper has done (R40). -/
def State.calLatch (s : State) (c : Nat) : State := s.updChan c fun ch => { ch with calSeen := ch.calState }

/-- The fill of a rejoin, or the one that ends a rehash, is complete (R878, R882). -/
def State.fillDone (s : State) (c : Nat) : State :=
  let k := s.task
  if k.dst ≠ c ∨ !s.tablesDone c ∨ !s.mvc.running then s
  else if k.kind = 2 ∧ (s.chan c).rjn = 4 ∧ !s.pagesBusy [.cc c] then
    let s := (s.loseLines c true).bootTables c 0 true
    let s := (s.mvcWrite (.cc c) 0x04C 0).mvcWrite (.cc c) 0x090 0
    let s := (PageId.cc c).rsOffs.foldl (fun s o => s.mvcShadow (.cc c) o (s.intentOf (.cc c) o) false) s
    let s := s.mvcCommit (.cc c) (s.ahead 3)
    let s := [PageId.phy c, .cal c, .elog c].foldl (fun s p => s.reapply p) s
    let s := [PageId.bal c, .brl c, .brlHeat c].foldl (fun s p => (s.enable p).reapply p) s
    { s with task := { k with rjn := some (5, s.soonFrame), until_ := some (s.esc.frame + 3 + b2n s.pastLatch) } }
  else if k.kind = 5 then
    let s := (s.loseLines c true).bootTables c 0 true
    let s := (List.range 17).foldl (fun s c =>
      s.updChan c fun ch => { ch with evtAt := ch.evtAt.map fun t => if k.began ≤ t then s.bclk else t }) s
    let s := { s with task := {} }
    match k.mb with | some m => s.mbDone m 0 0 [(0, k.swFrame)] | none => s
  else s

/-- A change of the rejoin's progress that Movement staged takes effect at its tick (R40, R878). -/
def State.rejoinMoved (s : State) : State :=
  match s.task.rjn with
  | some (n, f) =>
    if s.task.kind = 2 ∧ f ≤ s.esc.frame ∧ s.mvc.running then
      { s.updChan s.task.dst (fun ch => { ch with rjn := n }) with task := { s.task with rjn := none } }
    else s
  | none => s

/-- What a tick moves on in a rejoin (R878). -/
def State.rejoinTick (s : State) : State :=
  let c := s.task.dst
  let s := s.rejoinMoved
  let k := s.task
  if k.kind ≠ 2 ∨ !s.mvc.running ∨ s.esc.frame < k.at_ then s
  else if k.phase = 0 then s.rejoinOpen
  else if (s.chan c).rjn = 1 then
    if (s.chan c).supplies then (s.updChan c fun ch => { ch with rjn := 2 }).calRequest c 1 1 false else s.rejoinNoPower
  else if k.until_ = some s.esc.frame then
    let s := s.giveRole c 16
    let s := s.updChan c fun ch => { ch with rjn := 0, events := 0, evtAt := none }
    let s := { s.raise (.cc c) 11 with map := { s.map with noReserve := false }, task := {} }
    match k.mb with | some m => s.mbDone m 0 0 [(0, s.esc.frame)] | none => s
  else s

/-! ### Channel tests (R883 to R885) -/

/-- The test that waits takes a place once one is free and no training waits (R521). -/
def State.testPlace (s : State) : State :=
  let c := s.tst.ch
  if !s.tst.on ∨ !(s.cal c).testWait ∨ !s.placeFree ∨ s.nextTrain.isSome ∨ !s.mvc.running then s
  else
    let s := s.updCal c fun x => { x with testWait := false, place := true }
    let s := (s.supplyOn c).updChan c fun ch => { ch with test := true }
    if s.tst.train then s.calRequest c 1 4 true
    else if s.tst.kind = 0 then s.bootTables c 1 false else s

/-- A test ends: the contents are lost, the supplies go off, the place is free (R884, R885). -/
def State.testEnd (s : State) (status : Nat) (res : List (Nat × Nat)) : State :=
  let k := s.tst
  let s := (s.loseLines k.ch false).supplyOff k.ch
  let s := s.updCal k.ch fun x => { x with place := false }
  let s := { s.raise (.cc k.ch) 12 with tst := {} }
  match k.mb with | some m => s.mbDone m status 0 res | none => s

/-- What a tick moves on in a test (R884, R885): it ends, or the training that a line test runs first has ended as the latest latch point
found it (R40). -/
def State.testTick (s : State) : State :=
  let k := s.tst
  match k.fin with
  | some (status, res, f) => if k.on ∧ f ≤ s.esc.frame then s.testEnd status res else s
  | none =>
    if !k.on ∨ !k.train ∨ (s.cal k.ch).testWait then s
    else if (s.chan k.ch).calSeen = 3 then { s.bootTables k.ch 1 false with tst := { k with train := false } }
    else if (s.chan k.ch).calSeen = 0 then s.testEnd 0x0C [(1, 7)]
    else s

/-- CHAN_TEST of one kind (R883 to R885): taken up, it waits for its place; executed again once its passes can have run, it completes
with what they found, from the next tick on (R40): lines or bursts with errors, the mask of failing rank positions, and the first failing
line. -/
def State.chanTest (s : State) (kind errs ranks : Nat) (w0 w1 : Word) : State :=
  let k := s.tst
  if k.on then
    if k.kind ≠ kind ∨ !(s.chan k.ch).test ∨ k.train ∨ k.fin.isSome ∨ (kind = 0 ∧ !s.tablesDone k.ch) then s
    else
      let res := [(0, min errs (2 ^ 32 - 1)), (1, ranks % 256), (2, w0.toNat), (3, w1.toNat)]
      { s.loseLines k.ch false with tst := { k with fin := some (0, res, s.soonFrame) } }
  else match s.mbOf 0xB3 with
    | none => s
    | some m =>
      let x := s.mbx m
      let c := x.argF 0 0 5
      let kd := x.argF 0 8 2
      if 2 ≤ kd then s.mbDone m 0x0C 0 []
      else if kd ≠ kind then s
      else if x.argF 1 0 8 = 0 then s.mbDone m 0 0 []
      else if 17 ≤ c ∨ (s.chan c).inService ∨ !(s.chan c).prsnt ∨ s.calrefFault c then s.mbDone m 0x0C 0 []
      else if s.anyExpert (chanPages c) then s.mbDone m 8 0 []
      else if s.pagesBusy (chanPages c) ∨ s.calBusy c then s
      else
        let s := (s.mbRun m [] []).updCal c fun y => { y with testWait := true }
        { s with tst := { on := true, ch := c, kind := kind, mb := some m,
                          train := kind = 0 && (s.chan c).calState != 3 } }

/-! ### Movement's restarts and its firmware update (R518 to R520, R886 to R901) -/

/-- MVC_HEARTBEAT (R125): it counts once in every full 1 ms since the image began to run (DESIGN CHOICE: the spec gives only a least rate; log
entry 58). -/
def State.beat (s : State) : Nat :=
  (s.mvc.heartbeat + if s.mvc.running then (s.bclk - s.mvc.beatAt) / s.bin.us 1000 else 0) % 2 ^ 32

/-- The count stands in its field as Movement stops or begins to run. -/
def State.beatFold (s : State) : State := { s with mvc := { s.mvc with heartbeat := s.beat, beatAt := s.bclk } }

/-- Movement reapplies its standing intents to every page at the basic level (R132); the pages of the routers take theirs together, by the
commit of the control router (R732). -/
def State.reapplyAll (s : State) : State :=
  let ps := s.pages.filterMap fun e => pageOf e.1
  let s := ps.foldl (fun s p => match p with | .trt _ => s | _ => s.reapply p) s
  let ts := (List.range 36).map PageId.trt
  let ctl := PageId.trt s.ctlRouter
  if s.anyExpert ts ∨ s.pagesBusy ts ∨ ts.all fun p => p.rsOffs.all fun o => s.intentOf p o == s.reg p o then s
  else (ts.foldl (fun s p => p.rsOffs.foldl (fun s o => s.setShd p o (s.intentOf p o)) s) s).mvcCommit ctl 0

/-- Movement finds its intent region failing its CRC: it takes the active values of every page at the basic level (R519). -/
def State.intentLost (s : State) : State :=
  let s := { s with mvc := { s.mvc with intentOk := false } }
  (s.pages.filterMap fun e => if e.2.expert then none else pageOf e.1).foldl (fun s p => s.adopt p) s

/-- What Movement carries out goes on without a mailbox that would hear of it; a ring command still to be given is none. -/
def State.dropMail (s : State) : State :=
  { s.ins.foldl (fun s e => s.updIns e.1 fun x => { x with mb := none }) s with
    insStage := s.insStage.map (fun (x : InsStage) => { x with mb := none }), task := { s.task with mb := none },
    tst := { s.tst with mb := none }, pool := { s.pool with next := none } }

/-- A restart of Movement (R514, R518 to R520): commands in progress complete OFFLINE, but for FW_SWAP's, and an idle mailbox is reset; what
it carries out on channels goes on without its mailbox. `crc` tells whether the intent region passes its CRC. -/
def State.mvcRestart (s : State) (crc : Bool) : State :=
  let s := if s.mbBusy then s.overrun 6 255 else s
  let s := if s.mvc.running then s else s.beatFold
  let s := [0, 1].foldl (fun s m =>
    if s.mvc.swapMb = some m ∨ (s.mvc.swapMb.isSome ∧ !(s.mbx m).running) then s
    else if (s.mbx m).busy then s.mbDone m 3 0 [] else s.updMbx m fun _ => {}) s
  let s := { s.dropMail with mvc := { s.mvc with running := true, halted := false, fault := false, intentOk := crc,
                                                 restarts := wrapAdd 8 s.mvc.restarts 1 } }
  if crc then s else s.intentLost

/-- Movement is halted (R456, R457, R518, R520): its work is abandoned, GO is answered OFFLINE until it restarts, and at the arbiters where it
is not alive it loses its train and its backoff. A firmware swap stays as it is. -/
def State.mvcHalt (s : State) : State :=
  let s := if s.mbBusy then s.overrun 6 255 else s
  let s := [0, 1].foldl (fun s m => if (s.mbx m).busy ∧ s.mvc.swapMb ≠ some m then s.mbDone m 3 0 [] else s) s
  let s := s.dropMail.beatFold
  let s := { s with mvc := { s.mvc with running := false, halted := true } }
  s.aliveLost 19 fun c => !s.alive c 19

/-- LOCKSTEP_DISAGREEMENT (R518): MVC_FAULT is set; Movement restarts, or halts at the third disagreement within 1 s. -/
def State.lockstep (s : State) (crc : Bool) : State :=
  if s.phase = 0 ∨ s.mvc.halted then s
  else
    let near := s.mvc.recent.filter fun t => decide (s.bclk ≤ t + s.bin.us 1000000)
    let s := { s with mvc := { s.mvc with faults := satAdd 65535 s.mvc.faults 1, recent := near ++ [s.bclk] } }.raise .blk 4
    if 2 ≤ near.length then { s with mvc := { s.mvc with fault := true } }.mvcHalt
    else s.mvcRestart crc

/-- MVC_RESTART (R514, R518, R526). -/
def State.mvcRestartCmd (s : State) (crc : Bool) : State :=
  if s.phase = 0 then s else s.mvcRestart crc

/-- The header of an image (R886): VERSION and LENGTH, where it passes. -/
def imageHeader (b : List Nat) : Option (Nat × Nat) :=
  match wordsOf (b.take 20) with
  | [magic, fmt, ver, len, _] =>
    let n := len.toNat
    if magic.toNat = 0x4D564649 ∧ fmt.toNat = 1 ∧ fld ver 28 4 = 0 ∧ n % 4 = 0 ∧ 64 ≤ n ∧ n ≤ 458752 then some (ver.toNat, n) else none
  | _ => none

/-- FW_SWAP (R887, R888): the image is checked and written to the inactive slot; `wrote` tells whether the slot reads back as it was
written. SWAP_PEND then waits for its tick. -/
def State.fwSwap (s : State) (wrote : Bool) : State :=
  match s.mbOf 0xB2 with
  | none => s
  | some m =>
    let x := s.mbx m
    let n := (x.arg 2).toNat
    if n = 0 then s.mbDone m 0 0 []
    else if s.atWork then s.mbReason m 3
    else match s.readBytes (x.addr 0) 20 with
      | .inl st => s.mbDone m st 0 []
      | .inr h =>
        match imageHeader h with
        | none => s.mbDone m 0x0C 0 []
        | some (ver, len) =>
          if n ≠ len then s.mbDone m 0x0C 2 []
          else match s.readBytes (x.addr 0) len with
            | .inl st => s.mbDone m st 0 []
            | .inr b =>
              let ok := wrote && crc32 (b.take 16 ++ b.drop 20) == ((wordsOf (h.drop 16)).getD 0 0).toNat
              let w : Word := BitVec.ofNat 32 (ver % 2 ^ 28 + if ok then 2 ^ 31 else 0)
              let s := { s with mvc := if s.mvc.slot then { s.mvc with verA := w } else { s.mvc with verB := w } }
              if !ok then s.mbReason m 8
              else
                let s := s.mbRun m [] []
                { s with mvc := { s.mvc with swapPend := true, swapMb := some m,
                                             swapFrame := s.esc.frame + 1 + b2n s.pastLatch } }

/-- The outcome of the CRC of the intent region at a restart that no command reports (R519): a free value. -/
def State.crcFree (s : State) : Bool × State :=
  (flag (Config.freeWord s.nextFree) 0, { s with nextFree := s.nextFree + 1 })

/-- FW_RESTART (R519, R888): at the tick after the latch point that follows SWAP_PEND, Movement restarts from the new slot. -/
def State.fwTick (s : State) : State :=
  if !s.mvc.swapPend ∨ s.mvc.halted ∨ s.esc.frame < s.mvc.swapFrame then s
  else
    let x := s.crcFree
    let s := (x.2.mvcRestart x.1).beatFold
    { s with mvc := { s.mvc with swapPend := false, running := false, trial := some (s.esc.frame, s.bclk) } }

/-- FW_SWAPPED (R888): the new image's first heartbeat within 10 ms completes the swap. -/
def State.fwSwapped (s : State) : State :=
  match s.mvc.trial with
  | none => s
  | some (f, t) =>
    if t + s.bin.us 10000 < s.bclk ∨ s.mvc.halted then s
    else
      let slot := !s.mvc.slot
      let v := if slot then s.mvc.verB else s.mvc.verA
      let mb := s.mvc.swapMb
      let s := { s with mvc := { s.mvc with running := true, slot := slot, fallback := false, swaps := wrapAdd 8 s.mvc.swaps 1,
                                            heartbeat := wrapAdd 32 s.mvc.heartbeat 1, beatAt := s.bclk, trial := none,
                                            swapMb := none } }.raise .mvc 0
      let s := s.reapplyAll
      match mb with | some m => s.mbDone m 0 0 [(0, f), (1, fld v 0 28)] | none => s

/-- FW_HEARTBEAT_TIMEOUT (R519, R888): without it, Movement restarts from the old slot, where it is not halted. -/
def State.fwTimeout (s : State) : State :=
  match s.mvc.trial with
  | none => s
  | some (_, t) =>
    let u := max s.bclk (t + s.bin.us 10000)
    if !s.canReach u then s
    else
      let s := s.goto u
      let mb := s.mvc.swapMb
      let x := s.crcFree
      let s := { x.2 with mvc := { s.mvc with running := !s.mvc.halted, beatAt := s.bclk, fallback := true, intentOk := x.1,
                                              restarts := wrapAdd 8 s.mvc.restarts 1, trial := none, swapMb := none } }.raise .mvc 1
      let s := if x.1 then s else s.intentLost
      match mb with | some m => s.mbReason m 9 | none => s

end Sys2Proof.Machine
end

