-- ==== Sys2Proof/Machine/Sleep.lean ====
section
/-! DEFINITION. Timed work of a channel: self-refresh and parking (R414 to R424), emergency commands (R409, R410), the end of a
compatibility stop (R603, R604), the patrol scrubber's credits (R649, R650), Burl windows and heat intervals (R674, R678,
R697 to R699). -/
namespace Sys2Proof.Machine

/-! ### Self-refresh (R414 to R422) -/

/-- A channel is idle (R414). -/
def State.idle (s : State) (c : Nat) : Bool :=
  (s.chan c).inService && (List.range 20).all (fun i => i == 18 || (s.cwaits c i).isEmpty) &&
  !((s.crn.emerg.toList ++ s.crn.egnt.toList).any fun x => x.1.loc.ch == c) &&
  [0, 1].all fun sc =>
    let b := s.sub c sc
    b.ram.all (fun r => r.req.src == 18) && b.wb.all (fun l => l.req.src == 18) && b.crown.isNone && b.stop.isNone &&
      (s.tblAct c sc).targets.all fun g => b.debtOf g == 0

/-- A latch point counts the idle frames of a channel (R415). -/
def State.idleLatch (s : State) (c : Nat) : State :=
  let n := s.regFld (.cc c) 0x050 0 16
  let ok := (s.chan c).sr == .awake && n != 0 && s.idle c
  s.updChan c fun ch => { ch with idleCnt := if ok then min 65535 (ch.idleCnt + 1) else 0 }

/-- SRE goes to a rank once its banks are precharged and its refreshes have passed their tRFC, in the first free CA cycle (R416). -/
def State.sreRank (s : State) (c sc rk : Nat) : State :=
  let s := s.emergPre c sc (rk, none)
  let t := s.emergTck c sc { rk := rk }
  s.updSub c sc fun b => { b with ca := b.ca ++ [(t, 1)] }

/-- With RETAIN a park's record falls due (R510). -/
def State.parkRecord (s : State) (c : Nat) : State :=
  if flag (s.reg (.cc c) 0x050) 16 then s.jwlQueue c (s.payload c 3) else s

/-- A channel enters self-refresh (R416, R432, R598): SRE goes to every rank in turn, what Balance measured is interrupted, the
mode-register reads without an answer are held. -/
def State.srEnter (s : State) (c : Nat) (park : Bool) : State :=
  let s := (s.rankPositions c).foldl (fun s p => (s.balInterrupt c p).sreRank c (p / 4) (rkOfPos s.bin.mrd (p % 4))) s
  let s := (s.updChan c fun ch => { ch with sr := if park then .parked else .idleSr, idleCnt := 0, rateNext := none }).mrsBack c
  let s := [0, 1].foldl (fun s sc => s.updSub c sc fun b => { b with emergs := [] }) s
  let s := s.raise (.cc c) 2
  if park then s.parkRecord c else s

/-- SELF_REFRESH_ENTRY and PARK_ENTRY (R415, R420): what a tick starts on an idle channel; one that is not idle any more counts its idle
frames anew. -/
def State.srTick (s : State) (c : Nat) : State :=
  let ch := s.chan c
  let park := flag (s.reg (.cc c) 0x050) 17
  let n := s.regFld (.cc c) 0x050 0 16
  if ch.sr = .idleSr ∧ park then (s.updChan c fun ch => { ch with sr := .parked }).parkRecord c
  else if ch.sr ≠ .awake then s
  else if !s.idle c then s.updChan c fun ch => { ch with idleCnt := 0 }
  else if park then s.srEnter c true
  else if n ≠ 0 ∧ n ≤ ch.idleCnt then s.srEnter c false
  else s

/-- A self-refresh entry of channel `c` falls to the coming tick. -/
def State.srDue (s : State) (c : Nat) : Bool :=
  let ch := s.chan c
  let n := s.regFld (.cc c) 0x050 0 16
  let seen := if s.esc.latched then ch.idleCnt else ch.idleCnt + 1
  ch.sr == .awake && s.idle c && n != 0 && decide (n ≤ seen)

/-- A park of channel `c` falls to the coming tick. -/
def State.parkDue (s : State) (c : Nat) : Bool :=
  let pg := s.page (.cc c)
  let req := if pg.cmt = .armed ∧ pg.commit.eff ≤ s.esc.frame + 1 then pg.shdReg (.cc c) 0x050 else pg.actReg (.cc c) 0x050
  flag req 17 && ((s.chan c).sr == .idleSr || ((s.chan c).sr == .awake && s.idle c))

/-- SELF_REFRESH_EXIT_DONE (R417 to R419): EXIT_BCLK after T_w the channel is awake, at the doubled rate with D = 0; MR4 rounds read before
the sleep do not count. -/
def State.srExit (s : State) (c : Nat) : State :=
  let t := max s.bclk (s.chan c).readyAt
  if 17 ≤ c ∨ (s.chan c).sr ≠ .waking ∨ !s.canReach t then s
  else
    let s := s.goto t
    let s := s.updChan c fun ch => { ch with sr := .awake, rate2x := true, rateNext := none, wakes := wrapAdd 8 ch.wakes 1,
                                             idleCnt := 0, mr4Norm := [] }
    let s := s.updBal c fun b => { b with trig := Nat.lor b.trig 16 }
    let s := [0, 1].foldl (fun s sc => s.updSub c sc fun b => { b with debt := [] }) s
    (s.raise (.cc c) 2).scrubRaise c

/-! ### Emergencies (R409, R410) -/

/-- EMERGENCY_COMMAND (R409, R410): the emergency in force whose CA cycle comes first issues the command it owes. -/
def State.emergencyCommand (s : State) (c sc : Nat) : State :=
  match s.emergNext c sc with
  | none => s
  | some e =>
    let t := s.emergTck c sc e
    let b := max s.bclk (s.bclkOfTck t)
    if !s.canReach b then s
    else
      let s := s.goto b
      let s := match e.mit with
        | some m => (s.issueMit c sc m t true).updSub c sc fun u => { u with emergs := eraseFirst (fun x => x == e) u.emergs }
        | none => s.issueRef c sc (e.rk, e.ba) t (s.rfcAt c sc s.esc.frame) true
      s.balInterrupt c (s.rankPos sc e.rk)

/-! ### The end of a compatibility stop (R603, R604) -/

/-- COMPAT_STOP_END (R603, R604): the stop ends and the rank is free; the results of its grid and its oscillator
are staged (R40), and the stop is counted as they are taken. -/
def State.stopEnd (s : State) (c sc : Nat) (grid osc : List Nat) : State :=
  match (s.sub c sc).stop with
  | none => s
  | some st =>
    let t := max s.bclk st.ends
    if !s.canReach t then s
    else
      let s := s.goto t
      (s.updSub c sc fun b => { b with stop := none }).stage c (.stop (s.rankPos sc st.rk) grid osc)

/-! ### The patrol scrubber's credits (R649, R650) -/

/-- I of R649. -/
def State.scrubI (s : State) (c : Nat) : Nat := fld (s.scrubCfg c) 0 8 * 3600 * s.bin.us 1000000 / s.chanLines

/-- At a tick I follows SCRUB_HOURS and the geometry; while no credit may be earned, the time does not run (R649, R650). -/
def State.scrubTick (s : State) (c : Nat) : State :=
  let i := s.scrubI c
  if s.scrubHeld c then s.updScrub c fun x => { x with interval := i, last := s.bclk }
  else s.updScrub c fun x => if x.interval = i then x else { x with interval := i, last := s.bclk }

/-- SCRUB_CREDIT (R649): an interval has passed; a credit is earned, and spent at once where no line is in flight. -/
def State.scrubCredit (s : State) (c : Nat) : State :=
  let x := (s.chan c).scrub
  let t := max s.bclk (x.last + x.interval)
  if 17 ≤ c ∨ s.scrubHeld c ∨ x.interval = 0 ∨ !s.canReach t then s
  else
    let s := s.goto t
    (s.updScrub c fun x => { x with credits := min 16 (x.credits + 1), last := x.last + x.interval,
                                    awake := x.awake + x.interval }).scrubRaise c

/-! ### Burl windows and heat (R674, R678, R679, R697 to R699) -/

/-- The window of a subchannel ends at the tick that opens frame `f` (R678): the judgment of R679's late rollover included. -/
def State.windowEnds (s : State) (c sc f : Nat) : Bool := decide (s.winEnd c sc ≤ f) && !(s.sub c sc).winLate

/-- A tick judges the window of a subchannel (R678, R679): a rollover whose maintenance was late waits one frame. -/
def State.windowTick (s : State) (c sc : Nat) : State :=
  if s.windowEnds c sc s.esc.frame then
    s.rollover c sc s.esc.frame
  else s.updSub c sc fun b => { b with winLate := false, win2x := b.win2x && (s.chan c).rate2x }

/-- HEAT_INTERVAL_END (R697): the counts of both subchannels are captured and cleared. -/
def State.heatCapture (s : State) (c : Nat) : State :=
  let n := s.regFld (.brl c) 0x044 0 16
  if n = 0 ∨ s.frameNo % n ≠ 0 then s
  else
    let rows := s.heatMerge c
    let s := [0, 1].foldl (fun s sc => s.updSub c sc fun b => { b with heat := [], hfloor := 0 }) s
    let s := s.raiseIf (s.chan c).brl.cap.isSome (.brlHeat c) 1
    s.updChan c fun ch => { ch with brl := { ch.brl with
      skipped := ch.brl.cap.isSome, seq := if ch.brl.cap.isSome then wrapAdd 16 ch.brl.seq 1 else ch.brl.seq,
      cap := some (rows, s.esc.frame + 8) } }

/-- A channel's list falls to be published at the present tick. -/
def State.heatNow (s : State) (c : Nat) : Bool := match (s.chan c).brl.cap with | some (_, f) => decide (f ≤ s.esc.frame) | none => false

/-- The instance list of R699 from the lists published at this tick. -/
def State.insHeat (s : State) (i : Nat) (cs : List Nat) : List InsHeat :=
  let rows := cs.flatMap fun c => (s.chan c).brl.list.filterMap fun r => if r.itag = i then some (c, r) else none
  let add := fun (l : List (Nat × HeatRow)) (x : Nat × HeatRow) =>
    (l.filter fun y => decide (x.2.sum ≤ y.2.sum)) ++ [x] ++ l.filter fun y => !decide (x.2.sum ≤ y.2.sum)
  ((rows.foldl add []).take 256).map fun x => { page := x.2.page, ch := x.1, scale := (s.chan x.1).brl.scale, sum := x.2.sum }

/-- HEAT_PUBLISH (R697 to R699): the lists due are published, and with them the lists of the instances. -/
def State.heatPublish (s : State) : State :=
  let cs := (List.range 17).filter fun c => s.heatNow c
  if cs = [] then s
  else
    let s := cs.foldl (fun s c =>
      let s := s.updChan c fun ch =>
        match ch.brl.cap with
        | some (rows, _) => { ch with brl := { ch.brl with list := rows, scale := heatScale rows, valid := true, cap := none,
                                                           seq := wrapAdd 16 ch.brl.seq 1 } }
        | none => ch
      s.raise (.brlHeat c) 0) s
    let pub := cs.filter fun c => flag (s.reg (.brl c) 0x044) 17
    if pub = [] then s
    else
      let on := s.ins.filter fun e => (e.1 = 0 ∨ e.2.st ≠ 0) && flag (s.reg (.ins e.1) 0x050) 0
      on.foldl (fun s e =>
        let l := s.insHeat e.1 pub
        (s.updIns e.1 fun x => { x with heat := l, heatSeq := wrapAdd 16 x.heatSeq 1 }).raise (.ins e.1) 3) s

end Sys2Proof.Machine
end

