-- ==== Sys2Proof/Machine/Holds.lean ====
section
/-! DEFINITION. Burl holds at gateways and Lathe engines (R686, R687, R712). -/
namespace Sys2Proof.Machine

/-- A hold packet on its way to a requester. -/
def Pkt.holdFor (p : Pkt) (src : Nat) : Option HoldEnt :=
  match p.body with
  | .hold itag l gap endFrame =>
    if p.dst = nodeOfSrc src ∧ !p.waiting then
      some { itag := itag, ch := l.ch, sc := l.sc, rk := l.rk, bg := l.bg, ba := l.ba, row := l.row, gap := gap, endFrame := endFrame }
    else none
  | _ => none

/-- Two hold entries have the same key (R687). -/
def HoldEnt.same (a b : HoldEnt) : Bool :=
  a.itag == b.itag && a.ch == b.ch && a.sc == b.sc && a.rk == b.rk && a.bg == b.bg && a.ba == b.ba && a.row == b.row

/-- A list of entries takes a hold: the new list, and whether the hold was placed (1), updated an entry (0) or found no room (2). -/
def takeHold (hs : List HoldEnt) (h : HoldEnt) : List HoldEnt × Nat :=
  if hs.any fun x => x.same h then
    (hs.map (fun x => if x.same h then { x with gap := h.gap, endFrame := h.endFrame } else x), 0)
  else if 32 ≤ hs.length then (hs, 2) else (hs ++ [h], 1)

/-- HOLD_RECEIVE (R686, R687): the hold that arrives first at a gateway (0 to 15) or Lathe engine (16, 17). -/
def State.holdReceive (s : State) (u : Nat) : State :=
  let first := s.pkts.foldl (fun (a : Option Pkt) p =>
    if (p.holdFor u).isSome then (match a with | some q => if p.arr < q.arr then some p else a | none => some p) else a) none
  match first with
  | none => s
  | some p =>
    match p.holdFor u with
    | none => s
    | some h =>
      let t := max s.bclk (p.arr + 1)
      if 18 ≤ u ∨ !s.canReach t then s
      else
        let s := s.goto t
        let s := { s with pkts := eraseFirst (fun q => q == p) s.pkts }
        if u < 16 then
          let r := takeHold (s.gw u).holds h
          let s := s.updGw u fun w => { w with holds := r.1, ovf := if r.2 = 2 then satAdd 255 w.ovf 1 else w.ovf }
          (s.raiseIf (r.2 == 1) (.gwAdm u) 2).raiseIf (r.2 == 2) (.gwAdm u) 3
        else
          let r := takeHold (s.le (u - 16)).holds h
          s.updLe (u - 16) fun w => { w with holds := r.1, ovf := if r.2 = 2 then satAdd 255 w.ovf 1 else w.ovf }

/-- The tick that opens an entry's end frame releases it (R687); the requests it holds go on. -/
def State.holdsTick (s : State) : State :=
  let past := fun (h : HoldEnt) => decide (h.endFrame ≤ s.esc.frame)
  let s := (List.range 16).foldl (fun s g =>
    let go := (s.gw g).holds.filter past
    if go = [] then s
    else
      let s := s.updGw g fun w => { w with holds := w.holds.filter fun h => !past h }
      let put := fun (s : State) (q : Req) =>
        (s.asideOrClass g q s.bclk).getD (s.updGw g fun w => { w with g4q := w.g4q ++ [q] })
      let s := (go.flatMap fun h => h.held).foldl put s
      s.g4Retry g (s.gw g).g4q) s
  [0, 1].foldl (fun s e =>
    let out := ((s.le e).holds.filter past).flatMap fun h => h.held
    s.updLe e fun w =>
      { w with holds := w.holds.filter (fun h => !past h), cq := w.cq ++ out.map (fun q => { req := q, raised := s.bclk }),
               ops := w.ops.map fun o => if out.any (fun q => q.tag == o.id) ∧ o.st = .held then { o with st := .queued } else o }) s

end Sys2Proof.Machine
end

