-- ==== Sys2Proof/Machine/Sideband.lean ====
section
/-! DEFINITION. Mode registers on the CA bus (R280 to R283, R299, R300), the sideband (R284 to R290, R295 to R297), presence (R952),
and the thermal input (R523, R524, R950, R951). -/
namespace Sys2Proof.Machine

/-! ### Mode registers -/

/-- The rank field is one of the channel's population (R299). -/
def Chan.hasRank (ch : Chan) (rk : Nat) : Bool := match ch.spd with | some d => (ranksOf d).contains rk | none => false

/-- MR_CMD_GO (R281 to R283, R299, R533): a write of CC_MR_CMD with GO. -/
def State.mrGo (s : State) (c : Nat) (v : Word) : State :=
  let ch := s.chan c
  if ch.mrBusy then s
  else
    let s := s.setReg (.cc c) 0x080 (v &&& regMask (.cc c) 0x080)
    let bad := !ch.hasRank (fld v 16 3) ||
      ch.calRun || (if flag v 20 then ch.inService || ch.calState != 3 else ch.resetN || ch.sr == .idleSr || ch.sr == .parked)
    s.updChan c fun ch => { ch with mrCmd := v, mrBusy := !bad, mrDone := bad, mrDenied := bad }

/-- The reads of R280 that fall due at a tick, for the channels whose engine runs. -/
def State.mrDue (s : State) (c : Nat) : State :=
  if !(s.chan c).inService then s
  else
    let f := s.frameNo
    (s.rankPositions c).foldl (fun s p =>
      let sc := p / 4
      let s := if f % 16 = (c + 2 * p) % 16 then
          s.updSub c sc fun b => if b.mr4Due.contains p then b else { b with mr4Due := b.mr4Due ++ [p] }
        else s
      if f % 2 ^ 22 = c + 2 * p then
        s.updSub c sc fun b => if b.ecsDue.contains p then b else { b with ecsDue := b.ecsDue ++ [p] }
      else s) s

/-- The oldest mode-register read of a kind that has been made and not answered. -/
def Sub.mrsOf (b : Sub) (kind : Nat) : Option Nat := (b.mrsRead.find? fun x => x.1 == kind).map (·.2)

/-- MR4_READ (R280, R399, R401): the rank asks for the normal rate (1), the doubled rate (2) or more (3). -/
def State.mr4Read (s : State) (c sc asks : Nat) : State :=
  match (s.sub c sc).mrsOf 0 with
  | none => s
  | some p =>
    (s.updSub c sc fun b => { b with mrsRead := eraseFirst (fun x => x.1 == 0) b.mrsRead }).stage c (.mr4 p (max 1 (min 3 asks)))

/-- ECS_READ (R280, R656): the rank's error count, the first device that reports an increase, and the row with most errors. -/
def State.ecsRead (s : State) (c sc count dev bg ba row : Nat) : State :=
  match (s.sub c sc).mrsOf 1 with
  | none => s
  | some p =>
    (s.updSub c sc fun b => { b with mrsRead := eraseFirst (fun x => x.1 == 1) b.mrsRead }).stage c (.ecs p count dev bg ba row)

/-- An ECS count takes effect (R656); an increase is logged. The entry's SRC and COL, which R655 and R656 do not give, are free. -/
def State.ecsTake (s : State) (c p count dev bg ba row : Nat) : State :=
  let old := Tbl.get (fun _ => 0) (s.chan c).ecs p
  let s := s.updChan c fun ch => { ch with ecs := Tbl.set (fun _ => 0) ch.ecs p count }
  if old < count then
    let w := Config.freeWord s.nextFree
    let s := { s with nextFree := s.nextFree + 1 }
    let mk := ((s.chan c).elog.markOf p).isSome
    let l : Loc := { ch := c, sc := p / 4, rk := rkOfPos s.bin.mrd (p % 4), bg := bg, ba := ba, row := row, col := fld w 0 7 }
    s.log c 8 (logEnt 8 l 0 dev 0 (fld w 8 5) 0 0 (min 255 (count - old)) mk (s.frameNo % 2 ^ 32))
  else s

/-! ### The sideband -/

/-- The key of a device of a channel's DIMMs: host identifier and device type (R286). -/
def devKey (hid dtype : Nat) : Nat := 16 * hid + dtype

/-- The device types of R286. -/
def dtPmic : Nat := 9
/-- Temperature sensors 0 and 1. -/
def dtTs (i : Nat) : Nat := if i = 0 then 2 else 6

/-- A device type of R286. -/
def dtypeOk (d : Nat) : Bool := d == 10 || d == dtPmic || d == dtTs 0 || d == dtTs 1

/-- The transaction at the next boundary: an in-band interrupt's read, then CC_I3C_CMD, then the polls in order (R287, R288). -/
def nextTxn (q : List SbTxn) : Option SbTxn :=
  match q.find? fun t => t.kind == 1 with
  | some t => some t
  | none => match q.find? fun t => t.kind == 2 with
    | some t => some t
    | none => q.head?

/-- The transactions that may start: while the frames stand still, or where the channel's sampling was abandoned at this frame's latch
point, those of CC_I3C_CMD alone (R29, R44). -/
def State.sbReady (s : State) (c : Nat) : List SbTxn :=
  let q := (s.chan c).sbQueue
  if !s.esc.running ∨ s.wasLate 2 c then q.filter fun t => t.kind == 2 else q

/-- The sideband starts its next transaction where none is in progress; one through CC_I3C_CMD that may not start ends at once (R289,
R295). -/
def State.sbStart (s : State) (c : Nat) : Nat → State
  | 0 => s
  | n + 1 =>
    let ch := s.chan c
    if ch.sbTxn.isSome then s
    else match nextTxn (s.sbReady c) with
      | none => s
      | some t =>
        let s := s.updChan c fun ch => { ch with sbQueue := eraseFirst (fun x => x == t) ch.sbQueue }
        let nack := !dtypeOk t.dtype
        let deny := flag t.cmd 17 && t.dtype == dtPmic && ch.inService
        if t.kind = 2 ∧ (nack ∨ deny) then
          (s.updChan c fun ch => { ch with sbBusy := false, sbDone := true, sbNack := nack, sbDenied := deny && !nack }).sbStart c n
        else s.updChan c fun ch => { ch with sbTxn := some { t with start := s.bclk } }

/-- The sideband goes on at a transaction boundary. -/
def State.sbGo (s : State) (c : Nat) : State := s.sbStart c ((s.chan c).sbQueue.length + 1)

/-- I3C_CMD_GO (R288, R295, R297): a write of CC_I3C_CMD with GO. -/
def State.i3cGo (s : State) (c : Nat) (v : Word) : State :=
  let busy := (s.chan c).sbBusy
  let s := s.setReg (.cc c) 0x070 (v &&& regMask (.cc c) 0x070)
  if busy then s
  else
    let t : SbTxn := { kind := 2, hid := fld v 8 3, dtype := fld v 11 4, cmd := v }
    (s.updChan c fun ch =>
      { ch with sbBusy := true, sbDone := false, sbNack := false, sbPec := false, sbDenied := false, sbTmo := false,
                sbQueue := ch.sbQueue ++ [t] }).sbGo c

/-- SIDEBAND_POLL (R287): the polls of every DIMM of the channel are queued once every 4,096 frames, and the PHY's own sensor is
sampled. -/
def State.sbPoll (s : State) (c phy : Nat) : State :=
  let ch := s.chan c
  match ch.spd with
  | none => s
  | some d =>
    if 17 ≤ c ∨ !ch.prsnt ∨ !s.esc.running ∨ s.esc.frame < ch.pollAt then s
    else
      let one := fun (h : Nat) => [dtTs 0, dtTs 1, dtPmic].map fun t => ({ kind := 0, hid := h, dtype := t } : SbTxn)
      ((s.updChan c fun ch =>
        { ch with pollAt := s.esc.frame + 4096,
                  sbQueue := ch.sbQueue.filter (fun t => t.kind != 0) ++ one 0 ++ if d.dpc2 then one 1 else [] }).stage c (.phy (phy % 256))).sbGo c

/-- IN_BAND_INTERRUPT (R284, R285, R287, R297): from a temperature sensor or a PMIC, in I3C mode, which no sideband enters before
phase 3 is done. -/
def State.sbIbi (s : State) (c hid dtype : Nat) : State :=
  if 17 ≤ c ∨ s.phase < 4 ∨ (s.chan c).sbI2c ∨ 2 ≤ hid ∨ !(dtype == dtPmic || dtype == dtTs 0 || dtype == dtTs 1) then s
  else
    (s.updChan c fun ch =>
      { ch with ibiCnt := wrapAdd 8 ch.ibiCnt 1, sbQueue := ch.sbQueue ++ [{ kind := 1, hid := hid, dtype := dtype }] }).sbGo c

/-- A signed byte. -/
def sbyte (n : Nat) : Int := if n % 256 < 128 then (n % 256 : Int) else (n % 256 : Int) - 256

/-- The higher of a DIMM's two sensor readings (R431). -/
def Chan.higher (ch : Chan) (h : Nat) : Nat :=
  let a := Tbl.get (fun _ => 0) ch.tsRaw (2 * h)
  let b := Tbl.get (fun _ => 0) ch.tsRaw (2 * h + 1)
  if sbyte a < sbyte b then b else a

/-- A device's polls abandoned in a row are none any more: one of its polls has ended (R290). -/
def State.pollEnded (s : State) (c : Nat) (t : SbTxn) : State :=
  if t.kind = 0 then s.updChan c fun ch => { ch with sbAbandoned := Tbl.set (fun _ => 0) ch.sbAbandoned (devKey t.hid t.dtype) 0 } else s

/-- A poll that gives no reading (R290, R297) is staged as such; `run` counts the polls of its device abandoned in a row. -/
def State.pollFails (s : State) (c : Nat) (t : SbTxn) (run : Nat) : State :=
  if t.kind = 0 then s.stage c (.noPoll t.hid t.dtype run) else s

/-- What a reading gives the channel as it takes effect (R280, R287, R399, R401, R431). -/
def Chan.take (ch : Chan) : Reading → Chan
  | .mr4 p v =>
    { ch with mr4 := Tbl.set (fun _ => 0) ch.mr4 p v,
              mr4Norm := Tbl.upd (fun _ => 0) ch.mr4Norm p fun n => if v = 1 then min 15 (n + 1) else 0,
              tooHot := ch.tooHot || v == 3 }
  | .ecs _ _ _ _ _ _ => ch
  | .dev hid dtype v =>
    let ch := { ch with tsStale := ch.tsStale.filter (· != devKey hid dtype) }
    if dtype = dtPmic then ch
    else
      let ch := { ch with tsRaw := Tbl.set (fun _ => 0) ch.tsRaw (2 * hid + b2n (dtype == dtTs 1)) (fld v 0 8) }
      if hid = 0 then { ch with ts0 := ch.higher 0 } else { ch with ts1 := ch.higher 1 }
  | .phy v => { ch with tsPhy := v }
  | .noPoll hid dtype run =>
    { ch with pollErr := satAdd 255 ch.pollErr 1,
              tsStale := if run = 0 ∨ dtype = dtPmic ∨ ch.tsStale.contains (devKey hid dtype) then ch.tsStale
                else ch.tsStale ++ [devKey hid dtype] }
  | _ => ch

/-- A reading takes effect, with the channel event that it calls for (R287, R290, R401), or with what it gives Balance (R598, R603, R604). -/
def State.takeReading (s : State) (c : Nat) (r : Reading) : State :=
  let s := s.updChan c fun ch => ch.take r
  match r with
  | .mr4 _ v => if v = 3 then s.chanEvent c 5 else s
  | .ecs p count dev bg ba row => s.ecsTake c p count dev bg ba row
  | .dev _ dtype v => if dtype = dtPmic ∧ v ≠ 0 then s.chanEvent c 2 else s
  | .phy _ => s
  | .noPoll _ _ run => if run = 3 then s.chanEvent c 4 else s
  | .misread p mask => allLanes.foldl (fun s i => if mask.testBit i then s.reject c p i 3 else s) s
  | .spoilt reason => s.rejectCount c reason
  | .stop p grid osc => ((s.stopResults c p grid osc).updBal c fun b => { b with stops := b.stops + 1 }).raise (.bal c) 2

/-- The readings that the tick of frame `f` applies. -/
def Chan.dueAt (ch : Chan) (f : Nat) : List Reading := (ch.staged.filter fun x => decide (x.1 ≤ f)).map (·.2)

/-- Staged readings take effect at their tick (R40, R48). -/
def State.sampleTick (s : State) (c : Nat) : State :=
  let due := (s.chan c).dueAt s.esc.frame
  let s := s.updChan c fun ch => { ch with staged := ch.staged.filter fun x => decide (s.esc.frame < x.1) }
  due.foldl (fun s r => s.takeReading c r) s

/-- The readings of a channel that have no result are abandoned, to be made again from the beginning (R29, R44). -/
def State.sampleDrop (s : State) (c : Nat) : State :=
  let s := s.mrsBack c
  match (s.chan c).sbTxn with
  | none => s
  | some t => if t.kind = 2 then s else s.updChan c fun ch => { ch with sbTxn := none, sbQueue := t :: ch.sbQueue }

/-- The bytes of a read: those beyond LEN + 1 read 0 (R296). -/
def i3cBytes (cmd v : Word) : Word := BitVec.ofNat 32 (fld v 0 (8 * (fld cmd 15 2 + 1)))

/-- SIDEBAND_TRANSACTION_DONE (R287, R296, R297): the transaction in progress finishes within its 100 µs. -/
def State.sbTxnDone (s : State) (c : Nat) (r : SbResult) : State :=
  match (s.chan c).sbTxn with
  | none => s
  | some t =>
    if t.start + s.bin.us 100 < s.bclk then s
    else
      let s := s.updChan c fun ch => { ch with sbTxn := none }
      let s :=
        if t.kind = 2 then
          let s := s.updChan c fun ch => { ch with sbBusy := false, sbDone := true, sbNack := r == .nack, sbPec := r == .pecErr }
          match r with
          | .data v => if flag t.cmd 17 then s else s.setReg (.cc c) 0x074 (i3cBytes t.cmd v)
          | _ => s
        else match r with
          | .data v => (s.pollEnded c t).stage c (.dev t.hid t.dtype v)
          | _ => (s.pollEnded c t).pollFails c t 0
      s.sbGo c

/-- SIDEBAND_TIMEOUT (R290): the transaction in progress is abandoned 100 µs after it started. -/
def State.sbTimeout (s : State) (c : Nat) : State :=
  match (s.chan c).sbTxn with
  | none => s
  | some t =>
    let e := max s.bclk (t.start + s.bin.us 100)
    if !s.canReach e then s
    else
      let s := s.goto e
      let s := s.updChan c fun ch => { ch with sbTxn := none, sbTmo := true, sbBusy := ch.sbBusy && t.kind != 2 }
      let key := devKey t.hid t.dtype
      let n := Tbl.get (fun _ => 0) (s.chan c).sbAbandoned key + 1
      let s := if t.kind = 0 then s.updChan c fun ch => { ch with sbAbandoned := Tbl.set (fun _ => 0) ch.sbAbandoned key (n % 3) } else s
      (s.pollFails c t n).sbGo c

/-- PRSNT_CHANGE (R952, R956): the debounced level; as it falls, the channel notes whether the module's supplies are stable. -/
def State.prsntChange (s : State) (c : Nat) (level : Presence) : State :=
  if 17 ≤ c then s
  else s.updChan c fun ch => match level with
    | .high => { ch with prsnt := false }
    | .low ok => { ch with prsnt := true, supplies := if ch.prsnt then ch.supplies else ok }

/-! ### The thermal input -/

/-- THERM_UPD (R528, R950, R951): the value on THERM_HEADROOM is captured; `tj` is the highest junction temperature. -/
def State.thermUpd (s : State) (headroom tj : Nat) : State :=
  let k := s.therm
  if !s.locked then s
  else { s with therm := { k with
    headroom := headroom % 256, tj := tj % 256, stale := false, capBclk := some s.bclk,
    prev := if k.capBclk = some s.bclk then k.prev else if k.stale then 0 else k.headroom } }

/-- HEADROOM_STALE (R524): no capture for 1 ms. -/
def State.headroomStale (s : State) : State :=
  match s.therm.capBclk with
  | none => s
  | some t =>
    let e := max s.bclk (t + s.bin.us 1000)
    if s.therm.stale ∨ !s.canReach e then s else { s.goto e with therm := { s.therm with stale := true } }

/-- The evaluation of a tick uses the value captured before its BCLK (R951). -/
def State.rateEval (s : State) : State :=
  if s.frameNo % 1024 ≠ 0 then s
  else
    let k := s.therm
    let h := if k.capBclk = some s.bclk then k.prev else if k.stale then 0 else k.headroom
    { s with therm := { k with rateNext := some (min (s.regFld .blk 0x048 5 7) (5 * h)) } }

end Sys2Proof.Machine
end

