-- ==== Sys2Proof/Machine/MbCmds.lean ====
section
/-! DEFINITION. The mailbox commands of Movement but for those of instances (R78, R79, R135 to R139, R248 to R250, R335 to R337, R425
to R427, R467, R561, R562, R614, R663, R700, R751, R752, R801, R873, R877, R880), and their completion. -/
namespace Sys2Proof.Machine

/-! ### Completion (R137) -/

/-- The status of a command that commits pages: FIELD if any was refused. -/
def fieldIf (b : Bool) : Nat := if b then 0x0C else 0

/-- The named subchannels whose tables were refused, lowest first: 2c + s. -/
def refusedSubs (l : List Nat) : List Nat :=
  (List.range 34).filter fun i => l.contains (PageId.num (.slt (i / 2) (i % 2)))

/-- TRT_STAT of a router (R754). -/
def State.trtStat (s : State) (n : Nat) : Word :=
  let ctl := n == s.ctlRouter
  let r := s.rtr n
  let chk := if (s.page (.trt n)).cmt = .checking then pack [(0, 2, 3)] else s.trt.check
  pack [(0, 17, if ctl then fld chk 0 17 else 0), (17, 6, r.linkFail), (23, 1, b2n (flag (s.reg (.trt n) 0x04C) 4)),
        (24, 1, s.regFld (.trt n) 0x040 12 1), (25, 7, min 127 r.retries)]

/-- The channels of PARK that have reached the requested state, a wake at its wake slot (R426, R510). -/
def State.parkDone (s : State) (c : Nat) (park : Bool) : Bool :=
  let ch := s.chan c
  if park then ch.sr == .parked && (!flag (s.reg (.cc c) 0x050) 16 || (s.jwlPend c).isNone)
  else ch.sr == .awake && (match ch.wakeSlot with | some w => decide (s.slotBclk w ≤ s.bclk) | none => true)

/-- The LTH_CTL of an engine has done its work (R801): the handover has ended, or the engine serves again. -/
def State.engineDone (s : State) (e : Nat) : Bool :=
  if flag (s.reg (.lth e) 0x040) 0 then (s.le e).st == 0 else decide (2 ≤ (s.le e).st)

/-- TABLE_SET has heard of every commit (R336). -/
def State.tableSetDone (s : State) (m : Nat) : State :=
  let x := s.mbx m
  let bad := refusedSubs x.refused
  let mask := bad.foldl (fun a i => a + 2 ^ i) 0
  let res := [(0, x.eff % 2 ^ 32), (1, mask % 2 ^ 32), (2, mask / 2 ^ 32)]
  match bad with
  | [] => s.mbDone m 0 0 res
  | i :: _ =>
    s.mbDone m 0x0C 0 (res ++ [(3, (s.valShown (i / 2) (i % 2)).toNat), (4, (s.page (.slt (i / 2) (i % 2))).err.toNat)])

/-- A command that awaits commits or channels completes once all it awaits has come (R137). FRAME_SET's effective frame goes into MB_RES0
(R78 says only that its completion carries it; DESIGN CHOICE: log entry 57). -/
def State.mbFinish (s : State) (m : Nat) : State :=
  let x := s.mbx m
  let ref := x.refused
  let page := fun p => (s.page p).err.toNat
  match x.cmd with
  | 0x01 => if ref = [] then s.mbDone m 0 0 [(0, x.eff % 2 ^ 32)] else s.mbDone m 0x0C 0 []
  | 0x10 =>
    if s.task.mb = some m then s
    else if ref = [] then s.mbDone m 0 0 [(0, x.eff % 2 ^ 32), (1, s.map.epoch)]
    else s.mbDone m 0x0C 0 [(2, s.map.check.toNat), (3, page .map)]
  | 0x11 =>
    let s := { s with map := { s.map with nomNext := none } }
    if ref = [] then s.mbDone m 0 0 [(0, x.eff % 2 ^ 32), (1, s.map.epoch)]
    else s.mbDone m 0x0C 0 [(2, s.map.check.toNat), (3, page .map)]
  | 0x20 => s.tableSetDone m
  | 0x31 =>
    let bad := pageChans ref
    let park := flag (x.arg 1) 0
    if x.chans.all fun c => bad.contains c || s.parkDone c park then s.mbDone m (fieldIf (bad != [])) 0 [(0, chanMask bad)] else s
  | 0x50 =>
    if x.chans.all fun c => (s.chan c).calState == 0 || (s.chan c).calState == 3 then
      let ok := x.chans.filter fun c => (s.chan c).calState == 3
      let bad := pageChans ref
      let lvl := ref.all fun n => match pageOf n with | some (.cal _) => true | _ => false
      s.mbDone m (if bad = [] then 0 else if lvl then 8 else 0x0C) 0
        [(0, chanMask ok), (1, chanMask (x.chans.filter fun c => !ok.contains c)), (2, chanMask bad)]
    else s
  | 0x80 =>
    if ref ≠ [] then s.mbDone m 0x0C 0 [(1, (s.trtStat s.ctlRouter).toNat), (2, page (.trt s.ctlRouter))]
    else if flag (x.arg 4) 0 ∧ s.trt.clearPend then s
    else s.mbDone m 0 0 [(0, x.eff % 2 ^ 32)]
  | 0x90 =>
    let f := x.argF 0 0 2
    if f = 1 ∨ f = 2 then
      if s.pool.next.isSome ∨ s.pool.busy then s
      else if s.pool.result = 0 then s.mbDone m 0 0 [] else s.mbDone m 0x0C 0 [(1, s.pool.result)]
    else if ref ≠ [] then s.mbDone m 0x0C 0 []
    else if f = 3 ∧ !s.engineDone (x.argF 1 0 1) then s
    else s.mbDone m 0 0 [(0, x.eff % 2 ^ 32)]
  | 0x30 | 0x40 | 0x51 | 0x60 | 0x70 | 0x71 =>
    let bad := pageChans ref
    s.mbDone m (fieldIf (bad != [])) 0 [(0, x.eff % 2 ^ 32), (1, chanMask bad)]
  | _ => s

/-- A running command looks at what it awaits. -/
def State.mbPoll1 (s : State) (m : Nat) : State :=
  if !(s.mbx m).running ∨ !s.mvc.running then s
  else
    let s := s.mbPages m
    if (s.mbx m).await = [] then s.mbFinish m else s

/-- Both mailboxes look at what they await. -/
def State.mbPoll (s : State) : State := (s.mbPoll1 0).mbPoll1 1

/-- A command is taken up where it is the next. -/
def State.mbTake (s : State) (code : Nat) (f : Nat → Mbx → State) : State :=
  match s.mbOf code with
  | some m => f m (s.mbx m)
  | none => s

/-- An argument out of its range (R138): its index is the DETAIL. -/
def State.mbField (s : State) (m n : Nat) : State := s.mbDone m 0x0C n []

/-- A mask argument names channels beyond CC16. -/
def badMask (w : Word) : Bool := fld w 17 15 != 0

/-! ### The frame (R78, R79) -/

/-- FRAME_SET (R78): MB_ARG0 [8:0] is FRAME_SLOTS and MB_ARG1 [7:0] the set (DESIGN CHOICE: log entry 57). The arguments are judged in
their order (R138). Its commit names the frame three ahead, or four once the latch point has passed (DESIGN CHOICE: log entry 57). -/
def State.mbFrameSet (s : State) : State := s.mbTake 0x01 fun m x =>
  let n := x.argF 0 0 9
  let set := x.argF 1 0 8
  let subs := s.fsPages
  let pages : List PageId := .esc :: subs.map fun y => .slt y.1 y.2
  let spd := fun c => (s.chan c).spd.getD {}
  if ((regRow .esc 0x050).any fun r => fldRule (pack [(0, 9, n)]) r.flds != 0) then s.mbField m 0
  else if subs.any fun y => !(bootHas set s.bin (spd y.1) && bootFits set 0 s.bin (spd y.1)) then s.mbField m 1
  else if s.anyExpert pages then s.mbDone m 8 0 []
  else if s.pagesBusy pages then s
  else
    let s := subs.foldl (fun s y => s.loadTable y.1 y.2 (bootTable set 0 s.bin (spd y.1)) true) s
    let s := s.mvcWrite .esc 0x050 (pack [(0, 9, n)])
    let tgt := s.ahead 3
    if s.fsNew.isSome then (s.mvcCommit .esc tgt).mbRun m [PageId.num .esc] []
    else (pages.foldl (fun s p => s.mvcCommit p tgt) s).mbRun m (pages.map PageId.num) []

/-- FRAME_STATUS (R79): the seven overrun counts go, 32 bits each, to the buffer of MB_ARG0 and MB_ARG1, since the results are more than
eight words (R138); where each result lies is a DESIGN CHOICE (log entry 57). -/
def State.mbFrameStatus (s : State) : State := s.mbTake 0x02 fun m x =>
  let counts := (List.range 7).flatMap fun i => bytesOf (BitVec.ofNat 32 (Tbl.get (fun _ => 0) s.esc.ovrCnt i))
  let armed := s.fsArmed
  match s.writeBytes 2 (x.addr 0) counts with
  | .inl st => s.mbDone m st 0 []
  | .inr s =>
    s.mbDone m 0 0
      [(0, s.frameNo % 2 ^ 32), (1, s.frameNo / 2 ^ 32),
       (2, packNat [(0, 9, s.esc.fs), (16, 9, match armed with | some y => y.2 | none => 0), (31, 1, b2n armed.isSome)]),
       (3, match armed with | some y => y.1 % 2 ^ 32 | none => 0)]

/-! ### The address map (R248 to R250, R880) -/

/-- The offsets of the image in which it differs from the active map. -/
def State.mapDiff (s : State) (img : Nat → Word) : List Nat :=
  PageId.map.rsOffs.filter fun o => s.reg .map o != (img o &&& regMask .map o)

/-- The offset is of one of masks 4 to 11 of an enabled set; the set. -/
def State.rehashSet (s : State) (o : Nat) : Option Nat :=
  if 0x100 ≤ o ∧ o < 0x400 then
    let n := (o - 0x100) / 0x60
    let i := (o - 0x100) % 0x60 / 8
    if s.mapAct.en n ∧ 4 ≤ i then some n else none
  else none

/-- The logical channels that the change of an image moves, in order (R881). -/
def State.rehashLchs (s : State) (diff : List Nat) : List Nat :=
  let sets := diff.filterMap s.rehashSet
  (List.range 16).filter fun l => sets.any fun n => (s.mapAct.lch n).testBit l

/-- The pages that the steps of a rehash write: each channel moves to the one that the step before has left, and the last one is
filled (R881, R882). -/
def State.rehashPages (s : State) (d : Nat) (ls : List Nat) : List PageId :=
  let cs := ls.map s.physOf
  ((cs.zip (d :: cs)).flatMap fun x => tkPages x.1 x.2) ++ match cs.getLast? with | some c => [.slt c 0, .slt c 1] | none => []

/-- The rehash of a map image (R880 to R882): its check, its conditions, and its first step. -/
def State.rehashStart (s : State) (m : Nat) (diff : List Nat) : State :=
  match s.mapFails s.mapShd with
  | some f =>
    let s := ({ s with map := { s.map with check := f.word } }).commitRefuse .map f.off 6
    s.mbDone m 0x0C 0 [(2, s.map.check.toNat), (3, (s.page .map).err.toNat)]
  | none =>
    match s.chanOfRole 16, s.rehashLchs diff with
    | some d, l :: rest =>
      let s := { s with map := { s.map with check := pack [(0, 2, 1)] } }
      (s.mbRun m [] []).moveStart 3 (s.physOf l) d false (some m) rest s.bclk
    | _, _ => s.mbField m 0

/-- MAP_SET (R248, R249, R880). -/
def State.mbMapSet (s : State) : State := s.mbTake 0x10 fun m x =>
  let n := (x.arg 2).toNat
  if n = 0 then s.mbDone m 0 0 []
  else if n ≠ 976 then s.mbField m 2
  else match s.readBytes (x.addr 0) 976 with
    | .inl st => s.mbDone m st 0 []
    | .inr b =>
      if s.anyExpert [.map] then s.mbDone m 8 0 []
      else if s.pagesBusy [.map] ∨ s.map.kind ≠ 0 then s
      else
        let ws := wordsOf b
        let img := fun o => ws.getD ((o - 0x040) / 4) 0
        let diff := s.mapDiff img
        let put := fun (s : State) => PageId.map.rsOffs.foldl (fun s o => s.mvcWrite .map o (img o)) s
        if s.traffic ∧ diff ≠ [] ∧ diff.all fun o => (s.rehashSet o).isSome then
          let pages := match s.chanOfRole 16 with | some d => s.rehashPages d (s.rehashLchs diff) | none => []
          if s.anyExpert pages then s.mbDone m 8 0 []
          else if s.atWork ∨ (s.chanOfRole 16).isNone then s.mbField m 0
          else if s.pagesBusy pages then s
          else (put s).rehashStart m diff
        else ((put s).mvcCommit .map 0).mbRun m [PageId.num .map] []

/-- RESERVE_SET (R250): before the first address-map commit it may nominate another channel; from then on it names the one that is the
reserve. -/
def State.mbReserveSet (s : State) : State := s.mbTake 0x11 fun m x =>
  let c := (x.arg 0).toNat
  if 17 ≤ c ∨ (s.map.committed ∧ (s.chan c).role ≠ 16) then s.mbField m 0
  else if s.anyExpert [.map] then s.mbDone m 8 0 []
  else if s.pagesBusy [.map] ∨ s.map.kind ≠ 0 then s
  else
    let s := { s with map := { s.map with nomNext := if s.map.committed ∨ c = s.map.reserveNom then none else some c } }
    (s.mvcSet [(.map, 0x408, x.arg 1), (.map, 0x40C, x.arg 2)] 0).mbRun m [PageId.num .map] []

/-! ### Slot tables (R335, R336) -/

/-- An image of a table as words of memory (R334). -/
def imageOf (ws : List Word) : Image :=
  { cfg := ws.getD 0 0, flex := ws.getD 1 0, ents := (List.range 256).map fun i => fld (ws.getD (2 + i / 2) 0) (16 * (i % 2)) 16 }

/-- The tables of named subchannels are loaded and committed with one target. -/
def State.tableGo (s : State) (m : Nat) (subs : List (Nat × Nat)) (img : Nat → Image) (target : Word) : State :=
  let pages : List PageId := subs.map fun y => .slt y.1 y.2
  if s.anyExpert pages then s.mbDone m 8 0 []
  else if s.pagesBusy pages then s
  else
    let s := subs.zipIdx.foldl (fun s y => (s.loadTable y.1.1 y.1.2 (img y.2) true).mvcCommit (.slt y.1.1 y.1.2) target) s
    s.mbRun m (pages.map PageId.num) []

/-- TABLE_SET (R335). A channel on which Movement does not commit the set's default table (R312) is answered as a fault of the channel
mask (DESIGN CHOICE, log entry 60). -/
def State.mbTableSet (s : State) : State := s.mbTake 0x20 fun m x =>
  let src := flag (x.arg 0) 0
  let set := x.argF 0 8 8
  let prof := x.argF 0 16 1
  let mask := x.arg 5
  let subs := (maskChans (x.arg 4).toNat).flatMap fun c => [0, 1].filterMap fun sc => if flag mask sc then some (c, sc) else none
  let spd := fun (y : Nat × Nat) => (s.chan y.1).spd.getD {}
  let n := (x.arg 3).toNat
  if src ∧ n = 0 then s.mbDone m 0 0 []
  else if !src ∧ subs.any (fun y => !bootHas set s.bin (spd y)) then s.mbField m 0
  else if src ∧ n ≠ 520 * subs.length then s.mbField m 3
  else if badMask (x.arg 4) ∨ (!src ∧ subs.any fun y => !bootFits set prof s.bin (spd y)) then s.mbField m 4
  else if fld mask 2 30 ≠ 0 then s.mbField m 5
  else if src then
    match s.readBytes (x.addr 1) n with
    | .inl st => s.mbDone m st 0 []
    | .inr b => let ws := wordsOf b; s.tableGo m subs (fun i => imageOf (ws.drop (130 * i))) (x.arg 6)
  else s.tableGo m subs (fun i => bootTable set prof s.bin (spd (subs.getD i (0, 0)))) (x.arg 6)

/-! ### Registers of channels -/

/-- A command that commits registers on the channels of MB_ARG0. -/
def State.mbChans (s : State) (m : Nat) (x : Mbx) (target : Word) (ws : Nat → List (PageId × Nat × Word)) : State :=
  if badMask (x.arg 0) then s.mbField m 0
  else
    let all := (maskChans (x.arg 0).toNat).flatMap ws
    let pages := all.foldl (fun (l : List PageId) w => if l.contains w.1 then l else l ++ [w.1]) []
    s.mbCommit m pages all target

/-- REFRESH_SET (R425). -/
def State.mbRefreshSet (s : State) : State := s.mbTake 0x30 fun m x =>
  s.mbChans m x 0 fun c =>
    [(.cc c, 0x054, x.arg 1), (.cc c, 0x050, setFld (x.arg 2) 17 1 (s.regFld (.cc c) 0x050 17 1))]

/-- PARK (R426): the commit of PARK_REQ, and the state that it brings. A channel out of service is refused a park. -/
def State.mbPark (s : State) : State := s.mbTake 0x31 fun m x =>
  let park := flag (x.arg 1) 0
  let all := maskChans (x.arg 0).toNat
  let cs := all.filter fun c => !park || (s.chan c).inService
  let pages : List PageId := cs.map .cc
  if badMask (x.arg 0) then s.mbField m 0
  else if s.anyExpert (all.map .cc) then s.mbDone m 8 0 []
  else if s.pagesBusy pages then s
  else
    let s := s.mvcSet (cs.map fun c => (PageId.cc c, 0x050, setFld (s.reg (.cc c) 0x050) 17 1 (b2n park))) 0
    let s := (s.mbRun m (pages.map PageId.num) all).updMbx m fun y =>
      { y with refused := (all.filter fun c => !cs.contains c).map fun c => PageId.num (.cc c) }
    s.mbPoll1 m

/-- ARB_SET (R467). -/
def State.mbArbSet (s : State) : State := s.mbTake 0x40 fun m x =>
  let t := x.argF 3 0 16
  if badMask (x.arg 0) then s.mbField m 0
  else if x.argF 2 20 12 ≠ 0 then s.mbField m 2
  else if x.argF 2 0 20 ≠ 0 ∧ t = 0 then s.mbField m 3
  else s.mbChans m x (x.arg 4) fun c =>
    (PageId.cc c, 0x060, x.arg 1) :: (List.range 20).filterMap fun i =>
      if flag (x.arg 2) i then some (PageId.cc c, 0x100 + 4 * i, BitVec.ofNat 32 t) else none

/-- CAL_SET (R614). -/
def State.mbCalSet (s : State) : State := s.mbTake 0x51 fun m x =>
  s.mbChans m x (x.arg 2) fun c => [(.bal c, 0x040, x.arg 1)]

/-- SCRUB_SET (R663). -/
def State.mbScrubSet (s : State) : State := s.mbTake 0x60 fun m x =>
  s.mbChans m x (x.arg 3) fun c => [(.cc c, 0x068, x.arg 1), (.elog c, 0x040, x.arg 2)]

/-- BURL_SET (R700). -/
def State.mbBurlSet (s : State) : State := s.mbTake 0x70 fun m x =>
  s.mbChans m x (x.arg 2) fun c => [(.brl c, 0x040, x.arg 1)]

/-- HEAT_SET (R700). -/
def State.mbHeatSet (s : State) : State := s.mbTake 0x71 fun m x =>
  s.mbChans m x (x.arg 2) fun c => [(.brl c, 0x044, x.arg 1)]

/-- A page that TRAIN would write on a channel is at the expert level (R129): its CAL page, and while the supplies are off every page that
Movement enables with them. -/
def State.trainLevel (s : State) (c : Nat) : Bool :=
  (s.page (.cal c)).expert || (!(s.chan c).powered && s.anyExpert (chanPages c))

/-- TRAIN (R561, R562): a channel refused for its level alone is kept by its CAL page, any other by its CC page. -/
def State.mbTrain (s : State) : State := s.mbTake 0x50 fun m x =>
  let mode := x.argF 1 0 2
  let all := maskChans (x.arg 0).toNat
  if badMask (x.arg 0) then s.mbField m 0
  else if all = [] then s.mbDone m 0 0 []
  else if mode = 0 ∨ mode = 3 then s.mbField m 1
  else if x.argF 2 1 31 ≠ 0 then s.mbField m 2
  else
    let bad := all.filter s.trainRefused
    let lvl := all.filter fun c => !bad.contains c && s.trainLevel c
    let go := all.filter fun c => !bad.contains c && !lvl.contains c
    if s.pagesBusy (go.map .cal) then s
    else
      let s := go.foldl (fun s c =>
        let s := if (s.chan c).powered then s.enable (.cal c) else s.stageSupply c true
        s.calRequest c mode 2 (flag (x.arg 2) 0)) s
      let s := (s.mbRun m [] go).updMbx m fun y =>
        { y with refused := bad.map (fun c => PageId.num (.cc c)) ++ lvl.map fun c => PageId.num (.cal c) }
      s.mbPoll1 m

/-! ### Routes and the Lathe (R751, R752, R801) -/

/-- The offset of word `i` of a router's part of a route set: TRT_CFG, TRT_FENCE and the entries of the standby table. -/
def State.routeOff (s : State) (i : Nat) : Nat := if i = 0 then 0x040 else if i = 1 then 0x04C else s.standbyBase + 4 * (i - 2)

/-- A route set is loaded into the standby tables of the routers in service and committed (R739, R740, R751). -/
def State.routeGo (s : State) (img : Nat → Nat → Word) (loss : Bool) : State :=
  let ctl := s.ctlRouter
  let s := ((List.range 36).filter fun n => !s.routerDead n).foldl (fun s n =>
    (List.range 38).foldl (fun s i =>
      let w := img n i
      let w := if i = 0 then setFld w 13 1 (b2n (loss && n == ctl)) else w
      s.mvcWrite (.trt n) (s.routeOff i) w) s) s
  s.mvcCommit (.trt ctl) 0

/-- ROUTE_SET (R751, R752). -/
def State.mbRouteSet (s : State) : State := s.mbTake 0x80 fun m x =>
  let src := flag (x.arg 0) 0
  let set := x.argF 0 8 8
  let n := (x.arg 3).toNat
  let loss := flag (x.arg 4) 0
  let pages := (List.range 36).map PageId.trt
  let ctl := s.ctlRouter
  let own := ((s.page (.trt ctl)).pendingCmt && flag (s.shd (.trt ctl) 0x040) 13) || s.trt.clearPend
  if src ∧ n = 0 then s.mbDone m 0 0 []
  else if !src ∧ 109 < set then s.mbField m 0
  else if src ∧ n ≠ 5472 then s.mbField m 3
  else if loss ∧ own then s.mbField m 4
  else if s.anyExpert pages then s.mbDone m 8 0 []
  else if s.pagesBusy pages then s
  else if src then
    match s.readBytes (x.addr 1) 5472 with
    | .inl st => s.mbDone m st 0 []
    | .inr b => let ws := wordsOf b; (s.routeGo (fun n i => ws.getD (38 * n + i) 0) loss).mbRun m [PageId.num (.trt ctl)] []
  else (s.routeGo (fun n i => routeSetWord set n i) loss).mbRun m [PageId.num (.trt ctl)] []

/-- LATHE_SET of one FUNC. -/
def State.mbLathe (s : State) (f : Nat) (go : Nat → Mbx → State) : State := s.mbTake 0x90 fun m x =>
  if x.argF 0 0 2 = f then go m x else s

/-- LATHE_SET POOL (R801, R802). -/
def State.mbLthPool (s : State) : State := s.mbLathe 0 fun m x =>
  s.mbCommit m [.lthPool] [(.lthPool, 0x048, x.arg 1), (.lthPool, 0x040, x.arg 2), (.lthPool, 0x044, x.arg 3)] (x.arg 4)

/-- A ring command of Movement is staged for the next tick (R40, R127); its mailbox completes when BUSY clears (R801). -/
def State.stageRing (s : State) (m r cmd : Nat) : State :=
  { s.mbRun m [] [] with pool := { s.pool with next := some (m, r, cmd, s.soonFrame) } }

/-- A ring command that Movement has staged is given at its tick; on an expert page it is blocked and counted (R128, R129). -/
def State.ringTick (s : State) : State :=
  match s.pool.next with
  | none => s
  | some (m, r, cmd, f) =>
    if s.esc.frame < f ∨ s.pool.busy ∨ !s.mvc.running then s
    else
      let s := { s with pool := { s.pool with next := none } }
      if (s.page .lthPool).expert then s.standoff.mbDone m 8 0 [] else s.ringCmd r cmd

/-- LATHE_SET ATTACH (R767, R801): the image goes into the ring's slot and the ring is attached. -/
def State.mbLthAttach (s : State) : State := s.mbLathe 1 fun m x =>
  let r := (x.arg 1).toNat
  if 262143 < r then s.mbField m 1
  else if s.anyExpert [.lthPool] then s.mbDone m 8 0 []
  else if s.pagesBusy [.lthPool] ∨ s.pool.busy ∨ s.pool.next.isSome then s
  else match s.readBytes (x.addr 2) 64 with
    | .inl st => s.mbDone m st 0 []
    | .inr b =>
      let i := (ctxOfLine (lineWith 0 0 b)).itag
      let have_ := (s.rings.filter fun e => e.2.ctx.st != 0 && e.2.ctx.itag == i).length
      if i ≠ 0 ∧ (!s.insMay i ∨ (s.insOf i).quota ≤ have_) then s.mbField m 1
      else
      let s := if (s.ring r).ctx.st = 0 then (match s.writeBytes 2 (s.ctxAddr r) b with | .inr t => t | .inl _ => s) else s
      s.stageRing m r 1

/-- LATHE_SET DETACH (R768, R801). -/
def State.mbLthDetach (s : State) : State := s.mbLathe 2 fun m x =>
  let r := (x.arg 1).toNat
  if 262143 < r then s.mbField m 1
  else if s.anyExpert [.lthPool] then s.mbDone m 8 0 []
  else if s.pagesBusy [.lthPool] ∨ s.pool.busy ∨ s.pool.next.isSome then s
  else
    s.stageRing m r 2

/-- LATHE_SET ENGINE (R801). -/
def State.mbLthEngine (s : State) : State := s.mbLathe 3 fun m x =>
  if 1 < (x.arg 1).toNat then s.mbField m 1
  else
    let p := PageId.lth (x.argF 1 0 1)
    s.mbCommit m [p] [(p, 0x040, x.arg 2)] (x.arg 3)

/-! ### Movement's own -/

/-- FLAGS of an instance's blob header (R847). -/
def State.insFlags (s : State) (i : Nat) : Nat :=
  let w := s.reg (.ins i) 0x050
  packNat [(0, 1, b2n (s.insOf i).direct), (1, 1, b2n (s.insOf i).elastic), (2, 1, fld w 0 1), (3, 1, fld w 2 1), (4, 1, fld w 1 1)]

/-- INTENT_GET (R139, R832): an instance's intent, or the first eight shadowed registers of a page in offset order (DESIGN CHOICE: the
spec does not say which eight; log entry 58). It waits for an adoption of the page (R131). -/
def State.mbIntentGet (s : State) : State := s.mbTake 0xC0 fun m x =>
  let page := if (x.arg 0).toNat % 4096 = 0 then pageOf ((x.arg 0).toNat / 4096) else none
  if page.any fun p => (s.page p).mvcActive then s
  else match page with
  | none => s.mbField m 0
  | some (.ins i) =>
    let k := s.insOf i
    let bitsAll := packNat ((List.range 17).map fun j => (10 * j, 10, k.shares.getD j 0))
    let flags := s.insFlags i
    s.mbDone m 0 0 ([(0, k.quota)] ++ (List.range 6).map (fun n => (n + 1, bits bitsAll (32 * n) 32)) ++ [(7, flags)])
  | some p => s.mbDone m 0 0 (((p.rsOffs.take 8).zipIdx).map fun o => (o.2, (s.intentOf p o.1).toNat))

/-- TAKEOVER (R873). -/
def State.mbTakeover (s : State) : State := s.mbTake 0xB0 fun m x =>
  let c := x.argF 0 0 5
  let why := s.tkRefuse c
  if x.argF 0 5 3 ≠ 0 ∨ x.argF 0 9 23 ≠ 0 then s.mbField m 0
  else if 17 ≤ c then s.mbReason m 1
  else if why ≠ 0 then s.mbReason m why
  else match s.chanOfRole 16 with
    | none => s.mbReason m 2
    | some d =>
      if s.anyExpert (tkPages c d) then s.mbDone m 8 0 []
      else if s.pagesBusy (tkPages c d) ∨ s.map.kind ≠ 0 then s
      else (s.mbRun m [] []).moveStart 1 c d (flag (x.arg 0) 8) (some m) [] s.bclk

/-- The pages that a rejoin writes. -/
def rjnPages (c : Nat) : List PageId := [.cc c, .slt c 0, .slt c 1, .phy c, .cal c, .elog c, .elog2 c, .bal c, .brl c, .brlHeat c]

/-- REJOIN (R877, R878). -/
def State.mbRejoin (s : State) : State := s.mbTake 0xB1 fun m x =>
  let c := x.argF 0 0 5
  let why := s.rjnRefuse c
  if why ≠ 0 then s.mbReason m why
  else if s.anyExpert (rjnPages c) then s.mbDone m 8 0 []
  else if s.pagesBusy (rjnPages c) ∨ s.calBusy c then s
  else (s.mbRun m [] []).rejoinStart c m

/-- The command codes of R139. -/
def mbCodes : List Nat :=
  [0x01, 0x02, 0x10, 0x11, 0x20, 0x30, 0x31, 0x40, 0x50, 0x51, 0x60, 0x70, 0x71, 0x80, 0x90, 0xA0, 0xA1, 0xA2, 0xA3, 0xA4, 0xA5,
   0xA6, 0xA7, 0xB0, 0xB1, 0xB2, 0xB3, 0xC0]

/-- UNKNOWN_COMMAND (R138). -/
def State.mbUnknown (s : State) : State :=
  match s.mbFront with
  | some m => if mbCodes.contains (s.mbx m).cmd then s else s.mbDone m 4 0 []
  | none => s

/-- The pages of the commands that run on instances and rings (R801, R826, R827). -/
def State.cmdPages (s : State) : List PageId :=
  (s.insStage.toList.map fun x => PageId.ins x.itag) ++
  (s.ins.filterMap fun e => if e.2.next != 0 || (2 ≤ e.2.st && e.2.st != 4) then some (PageId.ins e.1) else none) ++
  (if (s.pool.busy || s.pool.next.isSome) && [s.blk.mb0, s.blk.mb1].any (fun x => x.running && x.cmd == 0x90) then [.lthPool] else [])

/-- The pages that a task, a test or a training of Movement's writes, or whose commits a running command awaits (R89). -/
def State.mvcPages (s : State) : List Nat :=
  let k := s.task
  let ps : List PageId := if k.kind = 1 ∨ k.kind = 3 then tkPages k.src k.dst
    else if k.kind = 2 then rjnPages k.dst else if k.kind = 5 then [.slt k.dst 0, .slt k.dst 1] else []
  let ts : List PageId := if s.tst.on then chanPages s.tst.ch else []
  let cs := (List.range 17).filterMap fun c => if s.calBusy c && (s.cal c).owner != 3 then some (PageId.cal c) else none
  s.blk.mb0.await ++ s.blk.mb1.await ++ (ps ++ ts ++ cs ++ s.cmdPages).map PageId.num

/-- A commit of Movement's is pending on the page, one of the ESC page that carries it included, and one of the control router for the pages
of all routers (R732, R959). -/
def State.mvcPending (s : State) (p : PageId) : Bool :=
  let own := fun (q : PageId) => (s.page q).cmt != .idle && (s.page q).commit.mvc
  match p with
  | .trt _ => own (.trt s.ctlRouter)
  | _ => own p || ((s.page p).carried && own .esc)

/-- MVC_ACTIVE of a page as it reads (R89, R95, R131): an adoption, a commit of Movement's that is pending, or an action on the page. -/
def State.mvcShown (s : State) (p : PageId) : Bool :=
  (s.page p).mvcActive || s.mvcPending p || s.mvcPages.contains p.num

end Sys2Proof.Machine
end

