-- ==== Sys2Proof/Machine/Instances.lean ====
section
/-! DEFINITION. Interrupt messages (R114, R115, R119, R120, R844, R961) and virtual instances (R815 to R860): creation, shares, reset
with work in flight, freezing, blobs, destruction. -/
namespace Sys2Proof.Machine

/-! ### The interrupt summary and its message (R114, R115) -/

/-- The bit of BLK_INT_SUM that covers a page; none for one that is not covered (R114). -/
def State.sumBit (s : State) (p : PageId) : Option Nat :=
  match p with
  | .blk => some 0 | .map => some 0 | .esc => some 1 | .mvc => some 2 | .jwl => some 3 | .crn => some 4
  | .gw g => some (6 + g) | .gwAdm g => some (6 + g)
  | .cnt b => if b < 17 then some (22 + b) else if b < 33 then some (6 + (b - 17)) else if b < 35 then some (40 + (b - 33))
              else if b < 71 then some 39 else some 5
  | .trt _ => some 39 | .lth e => some (40 + e) | .lthPool => some 40
  | .ins _ => if flag (s.reg p 0x050) 2 then none else some 42
  | p => p.chan.map (22 + ·)

/-- BLK_INT_SUM in BCLK `t`, as the pages' wires have reached it (R114, R482). -/
def State.intSumAt (s : State) (t : Nat) : Nat :=
  s.pages.foldl (fun a e =>
    match (if e.2.seen t then (pageOf e.1).bind s.sumBit else none) with
    | some b => Nat.lor a (2 ^ b)
    | none => a) 0

/-- BLK_INT_SUM (R114). -/
def State.intSum (s : State) : Nat := s.intSumAt s.bclk

/-- The next BCLK in which an armed path forms a message: the BCLK after both the arming and a summary that is not zero
(R115, R482). -/
def State.intNext (s : State) : Option Nat :=
  let m := max s.bclk (s.blk.armedAt + 1)
  let later := s.pages.flatMap fun e => (e.2.wire.map fun x => x.1 + 5).filter fun t => decide (m < t)
  (m :: later).foldl (fun a t =>
    if s.intSumAt (t - 1) = 0 then a else match a with | some x => some (min x t) | none => some t) none

/-- The path, armed, sends one message formed in BCLK `f`, and is disarmed (R115). -/
def State.formInt (s : State) (f : Nat) : State :=
  let b := s.blk
  { s with blk := { b with intArmed := false } }.sendMsg { port := b.intPort, addr := b.intAddr, data := b.intData } f

/-- INTERRUPT_MESSAGE (R115): the path, armed, sends one message and is disarmed. -/
def State.intMessage (s : State) : State :=
  let s := s.msgsDue.resendMsgs
  if !s.blk.intEn ∨ !s.blk.intArmed then s
  else match s.intNext with
    | some f => if f ≤ s.bclk then s.formInt f else if s.canReach f then (s.goto f).formInt f else s
    | none => s

/-- The path, armed again, sends its next message at once where the summary is not zero (R115, R120). -/
def State.intAtOnce (s : State) : State :=
  let s := s.msgsDue.resendMsgs
  let f := s.bclk + 1
  if s.blk.intEn ∧ s.blk.intArmed ∧ s.intSum ≠ 0 then s.formInt f else s

/-- INT_HELD of BLK PG_STAT (R115, R961). -/
def State.intHeld (s : State) : Bool :=
  s.blk.msgs.any fun m => m.held

/-- What a write of PG_ISR or PG_IMR of an INS page means for its own message (R844): `f` is the write. -/
def State.insIrqWrite (s : State) (i : Nat) (f : State → State) : State :=
  let was := (s.page (.ins i)).asserts
  let s := s.updIns i fun x => { x with msgDue := if x.msgDue.isNone && was && !x.asserted then some s.bclk else x.msgDue }
  let s := f s
  let now := (s.page (.ins i)).asserts
  s.updIns i fun x => { x with asserted := now, msgDue := if now then some s.bclk else x.msgDue }

/-- INSTANCE_INT_MESSAGE (R844): an instance in IRQ_MODE 1 whose interrupt has asserted sends its message once its port's link is
up. -/
def State.insMessage (s : State) (i : Nat) : State :=
  let s := s.msgsDue.resendMsgs
  let x := s.insOf i
  let w := s.reg (.ins i) 0x050
  let on := (s.page (.ins i)).asserts
  let port := fld w 8 4
  if 4096 ≤ i ∨ !flag w 2 ∨ !(x.msgDue.isSome || (on && !x.asserted)) then s
  else
    let s := s.updIns i fun x => { x with msgDue := none, asserted := on }
    let t := x.msgDue.getD ((((s.page (.ins i)).wire.head?).map (·.1)).getD s.bclk)
    s.sendMsg { port := port, addr := x.msgAddr, data := x.msgData, ins := some i } (max s.bclk (t + 5))

/-! ### Bytes of records and blobs (R821, R847) -/

/-- `n` bytes at an offset, least significant first. -/
def leNat (b : List Nat) (off n : Nat) : Nat := ((b.drop off).take n).zipIdx.foldl (fun a x => a + x.1 * 2 ^ (8 * x.2)) 0

/-- A number as `n` bytes, least significant first. -/
def leBytes (v n : Nat) : List Nat := (List.range n).map fun i => bits v (8 * i) 8

/-- The shares of a record. -/
def sharesOf (b : List Nat) : List Nat := (List.range 17).map fun j => leNat b (2 * j) 2

/-- A create record (R821). -/
def recordBytes (x : Ins) (shares : List Nat) : List Nat :=
  let sl := match x.slice with | some y => y.1 + y.2 * 2 ^ 20 | none => 0
  let rng := fun n => match x.ranges[n]? with | some y => leBytes y.1 8 ++ leBytes y.2 8 | none => leBytes 0 16
  ((List.range 17).flatMap fun j => leBytes (shares.getD j 0) 2) ++ leBytes 0 2 ++ leBytes sl 4 ++ leBytes x.msgAddr 8 ++
    leBytes x.msgData.toNat 4 ++ leBytes x.ranges.length 4 ++ leBytes 0 8 ++ (List.range 4).flatMap rng

/-! ### What a command may take (R822, R823, R830, R839) -/

/-- The generation that the ITAG's next instance or reset takes (R831). -/
def State.nextGen (s : State) (i : Nat) : Nat := (s.genOf i + 1) % 256

/-- The next generation would alias with work in flight (R839). -/
def State.aliases (s : State) (i : Nat) : Bool :=
  let n := s.nextGen i
  s.gws.any (fun e => e.2.tags.any fun t => t.2.itag == i && t.2.gen == n && decide (0 < t.2.left)) ||
  s.les.any fun e => e.2.ops.any fun o => o.itag == i && o.gen == n

/-- An owner's share on a channel once every change armed has taken effect (R833). -/
def Chan.shareFinal (ch : Chan) (i : Nat) : Nat :=
  match ch.shareChg.find? fun x => x.1 == i with | some x => x.2.1 | none => ch.shareOf i

/-- What remains of the capacity of a role's channel for an owner (R310, R822, R833). -/
def State.shareRoom (s : State) (j i : Nat) : Nat :=
  match s.chanOfRole j with
  | none => 0
  | some c =>
    let ch := s.chan c
    let own := (ch.shareChg.map (·.1) ++ ch.share.map (·.1)).foldl (fun (l : List Nat) x => if l.contains x then l else l ++ [x]) []
    let used := (own.filter (· != i)).foldl (fun (a : Nat) x => a + ch.shareFinal x) 0
    s.capFrom c 0 (s.esc.frame + 1) + s.capFrom c 1 (s.esc.frame + 1) - used

/-- The first role whose share rises beyond what remains. -/
def State.shareBad (s : State) (i : Nat) (shares : List Nat) : Option Nat :=
  (List.range 17).find? fun j =>
    let n := shares.getD j 0
    let old := match s.chanOfRole j with | some c => (s.chan c).shareFinal i | none => 0
    decide (old < n) && decide (s.shareRoom j i < n)

/-- Instances that exist, with one that is being made. -/
def State.living (s : State) : List Ins :=
  (s.ins.filterMap fun e => if e.1 ≠ 0 ∧ e.2.st ≠ 0 then some e.2 else none) ++
  match s.insStage with | some x => [x.body] | none => []

/-- Two slices have a PASID in common (R816). -/
def slicesMeet (a b : Nat × Nat) : Bool := if a.2 ≤ b.2 then inSlice b a.1 else inSlice a b.1

/-- A permission range breaks R819. -/
def rangeBad (r : Nat × Nat) : Bool :=
  r.1 % 2 ^ 30 != 0 || r.2 % 2 ^ 30 != 2 ^ 30 - 1 || decide (r.2 < r.1) || decide (2 ^ 52 ≤ r.2)

/-- Why a record is refused (R830): the reason, the argument of DETAIL by 0 for ARG0, 1 for the quota, 2 for the record's address, and
MB_RES0. -/
def State.recordFails (s : State) (i quota : Nat) (direct elastic : Bool) (b : List Nat) : Option (Nat × Nat × Option Nat) :=
  let lv := s.living
  let sl := (leNat b 0x24 4 % 2 ^ 20, leNat b 0x24 4 / 2 ^ 20 % 32)
  let n := leNat b 0x34 4 % 8
  let rng := fun r => (leNat b (0x40 + 16 * r) 8, leNat b (0x48 + 16 * r) 8)
  if (s.insOf i).st ≠ 0 ∨ s.insStage.isSome ∨ s.aliases i then some (1, 0, none)
  else match s.shareBad i (sharesOf b) with
  | some j => some (2, 2, some (2 * j))
  | none =>
    if 262144 < lv.foldl (fun (a : Nat) x => a + x.quota) quota then some (3, 1, none)
    else if direct ∧ 128 ≤ (lv.filter fun x => x.slice.isSome).length then some (4, 0, none)
    else if elastic ∧ 16 ≤ (lv.filter fun x => x.elastic).length then some (5, 0, none)
    else if direct ∧ (20 < sl.2 ∨ lv.any fun x => match x.slice with | some y => slicesMeet y sl | none => false) then some (6, 2, some 0x24)
    else if 4 < n then some (7, 2, some 0x34)
    else match (List.range n).find? fun r => rangeBad (rng r) with
    | some r => some (7, 2, some (0x40 + 16 * r))
    | none =>
      if leNat b 0x22 2 ≠ 0 then some (8, 2, some 0x22)
      else if direct ∧ leNat b 0x24 4 / 2 ^ 25 ≠ 0 then some (8, 2, some 0x24)
      else if leNat b 0x28 8 / 2 ^ 52 ≠ 0 then some (8, 2, some 0x28)
      else if leNat b 0x34 4 / 8 ≠ 0 then some (8, 2, some 0x34)
      else if leNat b 0x38 8 ≠ 0 then some (8, 2, some 0x38)
      else none

/-- The instance a record describes. -/
def insOfRecord (quota : Nat) (direct elastic : Bool) (b : List Nat) : Ins :=
  { st := 1, direct := direct, elastic := elastic, quota := quota, shares := sharesOf b,
    slice := if direct then some (leNat b 0x24 4 % 2 ^ 20, leNat b 0x24 4 / 2 ^ 20 % 32) else none,
    msgAddr := leNat b 0x28 8 % 2 ^ 52, msgData := BitVec.ofNat 32 (leNat b 0x30 4),
    ranges := (List.range (leNat b 0x34 4 % 8)).map fun r => (leNat b (0x40 + 16 * r) 8, leNat b (0x48 + 16 * r) 8) }

/-- A refusal of R830. -/
def State.insRefuse (s : State) (m : Nat) (f : Nat × Nat × Option Nat) : State :=
  s.mbDone m 0x0C f.2.1 ((match f.2.2 with | some o => [(0, o)] | none => []) ++ [(1, f.1)])

/-- STATE (R826). -/
def State.insState (s : State) (m : Nat) : State := s.insRefuse m (1, 0, none)

/-- A command of an instance waits for its tick. -/
def State.insNext (s : State) (m i kind : Nat) : State :=
  (s.mbRun m [] []).updIns i fun x => { x with next := kind, nextAt := s.soonFrame, mb := some m }

/-- A mailbox command of instances: its ITAG is in MB_ARG0 [11:0], 0 where `zero` allows it (R828). -/
def State.mbIns (s : State) (code : Nat) (zero : Bool) (go : Nat → Mbx → Nat → State) : State := s.mbTake code fun m x =>
  let i := x.argF 0 0 12
  if i = 0 ∧ !zero then s.mbField m 0 else go m x i

/-! ### Commands (R828) -/

/-- INS_CREATE. -/
def State.mbInsCreate (s : State) : State := s.mbIns 0xA0 false fun m x i =>
  let n := (x.arg 4).toNat
  let direct := flag (x.arg 0) 12
  let elastic := flag (x.arg 0) 13
  let quota := (x.arg 1).toNat
  if n = 0 then s.mbDone m 0 0 []
  else if 262144 < quota then s.mbField m 1
  else if n ≠ 128 then s.mbField m 4
  else match s.readBytes (x.addr 2) 128 with
    | .inl st => s.mbDone m st 0 []
    | .inr b =>
      match s.recordFails i quota direct elastic b with
      | some f => s.insRefuse m f
      | none =>
        let w := x.arg 0
        let cfg := pack [(0, 1, fld w 14 1), (1, 1, fld w 20 1), (2, 1, fld w 15 1), (8, 4, fld w 16 4)]
        let k : InsStage :=
          { itag := i, body := insOfRecord quota direct elastic b, cfg := cfg, at_ := s.soonFrame, mb := some m }
        { s.mbRun m [] [] with insStage := some k }

/-- INS_DESTROY (R851). -/
def State.mbInsDestroy (s : State) : State := s.mbIns 0xA1 false fun m _ i =>
  let x := s.insOf i
  if (x.st = 1 ∨ x.st = 4) ∧ x.next = 0 then s.insNext m i 6 else s.insState m

/-- INS_RESET (R835, R839). -/
def State.mbInsReset (s : State) : State := s.mbIns 0xA2 false fun m _ i =>
  let x := s.insOf i
  if x.st = 1 ∧ x.next = 0 ∧ !s.aliases i then s.insNext m i 3 else s.insState m

/-- SHARE_SET (R833, R834): the changes are armed on the channels that hold the roles. -/
def State.mbShareSet (s : State) : State := s.mbIns 0xA3 true fun m x i =>
  let k := s.insOf i
  let n := (x.arg 3).toNat
  if n = 0 then s.mbDone m 0 0 []
  else if n ≠ 34 then s.mbField m 3
  else if i ≠ 0 ∧ (k.st = 0 ∨ k.st = 5 ∨ k.next ≠ 0) then s.insState m
  else if i ≠ 0 ∧ !k.elastic then s.insRefuse m (11, 0, none)
  else match targetOf s.esc.frame (x.arg 4).toNat, s.readBytes (x.addr 1) 34 with
    | some none, _ => s.mbField m 4
    | _, .inl st => s.mbDone m st 0 []
    | tg, .inr b =>
      let sh := sharesOf b
      match s.shareBad i sh with
      | some j => s.insRefuse m (2, 1, some (2 * j))
      | none =>
        let named := match tg with | some (some f) => f | _ => 0
        let f := max named s.soonFrame
        let ref := if named = 0 then s.esc.frame + 1 else named
        let t := (List.range 17).foldl (fun s j => match s.chanOfRole j with
          | some c => if (s.chan c).shareFinal i = sh.getD j 0 then s else s.armShare c i (sh.getD j 0) f ref
          | none => s) s
        (t.mbRun m [] []).updIns i fun y => { y with shares := sh, next := 8, nextAt := f, mb := some m }

/-- FREEZE (R846): from ACTIVE, with THAW = 0. -/
def State.mbFreeze (s : State) : State := s.mbIns 0xA4 false fun m x i =>
  let k := s.insOf i
  if flag (x.arg 0) 12 then s
  else if k.st = 1 ∧ k.next = 0 then s.insNext m i 4 else s.insState m

/-- FREEZE with THAW = 1 (R850). -/
def State.mbThaw (s : State) : State := s.mbIns 0xA4 false fun m x i =>
  let k := s.insOf i
  if !flag (x.arg 0) 12 then s
  else if k.st = 4 ∧ k.next = 0 then s.insNext m i 5 else s.insState m

/-- The rings attached with an ITAG, in ascending order. -/
def State.ringsOf (s : State) (i : Nat) : List Nat :=
  s.rings.filterMap fun e => if e.2.ctx.st ≠ 0 ∧ e.2.ctx.itag = i then some e.1 else none

/-- The shares in force of an instance, by role. -/
def State.sharesNow (s : State) (i : Nat) : List Nat :=
  (List.range 17).map fun j => match s.chanOfRole j with | some c => (s.chan c).shareOf i | none => (s.insOf i).shares.getD j 0

/-- The blob of an instance (R847). -/
def State.blobBytes (s : State) (i : Nat) : List Nat :=
  let x := s.insOf i
  let rs := s.ringsOf i
  let head := leBytes 0x4E495342 4 ++ leBytes 1 2 ++ leBytes 64 2 ++ leBytes (256 + 72 * rs.length) 4 ++ leBytes i 2 ++
    leBytes (s.genOf i) 1 ++ leBytes (s.insFlags i) 1 ++ leBytes rs.length 4 ++ leBytes x.quota 4 ++ leBytes s.frameNo 6 ++
    leBytes (s.regFld (.ins i) 0x050 8 4) 1 ++ leBytes 1 1 ++ leBytes 0 28
  let tail := recordBytes x (s.sharesNow i) ++
    ((List.range 8).flatMap fun n => leBytes ((Tbl.get (fun _ => 0) x.tally n + Tbl.get (fun _ => 0) x.fold n) % 2 ^ 64) 8) ++
    rs.flatMap fun r => leBytes r 4 ++ leBytes 0 4 ++ lineBytes [lineOfCtx (s.ring r).ctx]
  head ++ leBytes (crc32 (head ++ tail)) 4 ++ tail

/-- SAVE (R847, R848). -/
def State.mbSave (s : State) : State := s.mbIns 0xA5 false fun m x i =>
  let n := (x.arg 3).toNat
  if n = 0 then s.mbDone m 0 0 []
  else if (s.insOf i).st ≠ 4 then s.insState m
  else
    let b := s.blobBytes i
    if n < b.length then s.mbDone m 0x0C 3 [(0, b.length)]
    else match s.writeBytes (b.length / 64 + 2) (x.addr 1) b with
      | .inl st => s.mbDone m st 0 []
      | .inr t => t.mbDone m 0 0 [(0, b.length), (1, leNat b 0x3C 4)]

/-- The first field of a blob that fails (R848). -/
def blobFails (b : List Nat) (len : Nat) : Option Nat :=
  let rings := leNat b 0x10 4
  if leNat b 0 4 ≠ 0x4E495342 then some 0
  else if leNat b 4 2 ≠ 1 then some 4
  else if leNat b 6 2 ≠ 64 then some 6
  else if leNat b 8 4 ≠ 256 + 72 * rings ∨ leNat b 8 4 ≠ len then some 8
  else if leNat b 0x0C 2 / 4096 ≠ 0 then some 0x0C
  else if leNat b 0x0F 1 / 32 ≠ 0 then some 0x0F
  else if leNat b 0x1E 1 / 16 ≠ 0 then some 0x1E
  else if leNat b 0x1F 1 ≠ 1 then some 0x1F
  else if leNat b 0x20 28 ≠ 0 then some 0x20
  else if leNat b 0x3C 4 ≠ crc32 (b.take 0x3C ++ (b.drop 0x40).take (len - 0x40)) then some 0x3C
  else (List.range rings).findSome? fun n =>
    let o := 0x100 + 72 * n
    if leNat b o 4 / 2 ^ 18 ≠ 0 then some o
    else if leNat b (o + 4) 4 ≠ 0 then some (o + 4)
    else if leNat b (o + 8) 1 ≠ 3 ∧ leNat b (o + 8) 1 ≠ 4 then some (o + 8)
    else if ctxReserved (lineWith 0 0 ((b.drop (o + 8)).take 64)) then some (o + 8)
    else none

/-- The rings of a blob. -/
def blobRings (b : List Nat) : List (Nat × Ctx) :=
  (List.range (leNat b 0x10 4)).map fun n =>
    (leNat b (0x100 + 72 * n) 4 % 2 ^ 18, ctxOfLine (lineWith 0 0 ((b.drop (0x108 + 72 * n)).take 64)))

/-- RESTORE (R848, R849). -/
def State.mbRestore (s : State) : State := s.mbIns 0xA6 false fun m x i =>
  let n := (x.arg 3).toNat
  if n = 0 then s.mbDone m 0 0 []
  else if n < 256 then s.mbField m 3
  else match s.readBytes (x.addr 1) n with
    | .inl st => s.mbDone m st 0 []
    | .inr b =>
      let flags := leNat b 0x0F 1
      let direct := flags.testBit 0
      let elastic := flags.testBit 1
      let quota := leNat b 0x14 4
      let rs := blobRings b
      let rec_ := (b.drop 0x40).take 128
      match s.recordFails i quota direct elastic rec_, blobFails b n with
      | some (1, d), _ => s.insRefuse m (1, d)
      | _, some o => if o = 8 ∧ leNat b 8 4 = 256 + 72 * leNat b 0x10 4 then s.mbField m 3 else s.insRefuse m (9, 1, some o)
      | some (r, d, o), none => s.insRefuse m (r, if d = 0 then 0 else 1, o)
      | none, none =>
        match rs.find? fun r => (s.ring r.1).ctx.st != 0 with
        | some r => s.insRefuse m (10, 1, some r.1)
        | none =>
          let t := (List.range 8).foldl (fun t k => Tbl.set (fun _ => 0) t k (leNat b (0xC0 + 8 * k) 8)) ([] : Tbl Nat)
          let cfg := pack [(0, 1, bits flags 2 1), (1, 1, bits flags 4 1), (2, 1, bits flags 3 1), (8, 4, leNat b 0x1E 1)]
          let k : InsStage :=
            { itag := i, body := { insOfRecord quota direct elastic rec_ with st := 4, tally := t }, cfg := cfg, rings := rs,
              restore := true, at_ := s.soonFrame, mb := some m }
          { s.mbRun m [] [] with insStage := some k }

/-- CNT_USER_SET (R843). -/
def State.mbCntUserSet (s : State) : State := s.mbIns 0xA7 true fun m x i =>
  let k := s.insOf i
  if i ≠ 0 ∧ (k.st = 0 ∨ k.st = 5 ∨ k.next ≠ 0) then s.insState m
  else (s.insNext m i 7).updIns i fun y => { y with userNext := flag (x.arg 0) 12 }

/-! ### Their ticks (R827) -/

/-- A mailbox that waits for an instance hears of the end of its command. -/
def State.insTell (s : State) (i : Nat) (res : List (Nat × Nat)) : State :=
  match (s.insOf i).mb with
  | some m => (s.mbDone m 0 0 res).updIns i fun x => { x with mb := none }
  | none => s

/-- The work of the old generation that has not been admitted leaves the gateways (R835): requests past G1, held by Burl, set aside,
or waiting for a grant go without a response. -/
def State.dropOld (s : State) (i : Nat) : State :=
  (List.range 16).foldl (fun s g =>
    let w := s.gw g
    let mine := fun (r : Req) => r.itag == i
    let gone := (w.cq.map (·.req)).filter mine ++ (w.aside.map (·.req)).filter mine ++ w.g4q.filter mine ++
      (w.pipe.map fun l => if l.st = 0 then { l.req with itag := 4096 } else l.req).filter mine ++ w.holds.flatMap fun h => h.held.filter mine
    if gone = [] then s
    else s.updGw g fun w =>
      { w.releaseAll gone with
        cq := w.cq.filter fun x => !mine x.req, aside := w.aside.filter fun x => !mine x.req, g4q := w.g4q.filter fun r => !mine r,
        pipe := w.pipe.filter fun l => l.st == 0 || !mine l.req,
        holds := w.holds.map fun h => { h with held := h.held.filter fun r => !mine r } }) s

/-- The engines drop what the old generation has not had admitted (R835). -/
def State.dropOldOps (s : State) (i : Nat) : State :=
  [0, 1].foldl (fun s e => s.updLe e fun w =>
    let keep := fun (o : LOp) => o.itag != i || o.st == .sent
    { w with ops := w.ops.filter keep, cq := w.cq.filter fun x => x.req.itag != i,
             holds := w.holds.map fun h => { h with held := h.held.filter fun r => r.itag != i } }) s

/-- An ITAG takes a generation, in the present BCLK. -/
def State.setGen (s : State) (i gen : Nat) : State :=
  { s with gens := Tbl.set (fun _ => 0) s.gens i gen, genAt := Tbl.set (fun _ => 0) s.genAt i s.bclk }

/-- The generation of an instance increments everywhere (R835). -/
def State.bumpGen (s : State) (i : Nat) : State :=
  let old := s.genOf i
  let s := s.setGen i (s.nextGen i)
  let s := (s.dropOld i).dropOldOps i
  s.updIns i fun x =>
    { x with oldGen := old, resetDone := false, resetBclk := s.bclk, elogCnt := 0, lastCh := 0, lastIdx := 0, lastValid := false }

/-- A ring at a reset tick (R836). -/
def State.resetRing (s : State) (r gen : Nat) : State :=
  s.updRing r fun g =>
    { g with ctx := { g.ctx with head := g.ctx.tail, cur := 0, chainPos := 0, chainAddr := 0, acc := 0, err := 0, errIdx := 0,
                                 gen := gen, st := 1 },
             pre := [], cpre := [], jobs := [], recs := [], fetchIdx := g.ctx.tail }

/-- The reset tick (R835, R836). -/
def State.insResetTick (s : State) (i : Nat) : State :=
  let s := s.bumpGen i
  let s := s.updIns i fun x => { x with st := 2, resets := wrapAdd 8 x.resets 1 }
  (s.ringsOf i).foldl (fun s r => s.resetRing r (s.genOf i)) s

/-- The tick of INS_DESTROY (R851). -/
def State.insDestroyTick (s : State) (i : Nat) : State :=
  let s := s.bumpGen i
  let s := (s.ringsOf i).foldl (fun s r => s.dropRing r) s
  let s := s.updIns i fun x => { x with st := 5, slice := none, ranges := [], quota := 0, shares := [] }
  (List.range 17).foldl (fun s c =>
    if (s.chan c).shareFinal i = 0 then s else s.armShare c i 0 (s.esc.frame + 1) (s.esc.frame + 1)) s

/-- A thaw's tick (R850). -/
def State.insThawTick (s : State) (i : Nat) : State :=
  let s := s.updIns i fun x => { x with st := 1 }
  (s.ringsOf i).foldl (fun s r => if (s.ring r).ctx.st = 4 then s.updCtx r fun c => c.wake else s) s

/-- The tick of a create or restore (R831, R849). -/
def State.insStageTick (s : State) : State :=
  match s.insStage with
  | none => s
  | some k =>
    if s.esc.frame < k.at_ then s
    else
      let i := k.itag
      let gen := s.nextGen i
      let s := { s with insStage := none }.setGen i gen
      let s := (s.updIns i fun _ => { k.body with effAt := s.esc.frame, mb := k.mb }).setBoth (.ins i) 0x050 k.cfg
      let s := s.keepFld (.ins i) 0x050 0 32 k.cfg.toNat
      let s := s.updPage (.ins i) fun pg => { pg with en := true, enReq := true }
      let s := (List.range 17).foldl (fun s j =>
        match s.chanOfRole j with
        | some c => s.updChan c fun ch =>
            { ch with share := Tbl.set (fun _ => 0) ch.share i (k.body.shares.getD j 0),
                      shareChg := ch.shareChg.filter fun x => x.1 != i }
        | none => s) s
      let s := k.rings.foldl (fun s r =>
        let c : Ctx := { r.2 with itag := i, gen := gen }
        let s := s.updRing r.1 fun _ => { ctx := c, fetchIdx := c.head }
        s.writeBack r.1) s
      s.insTell i [(0, s.frameNo % 2 ^ 32), (1, gen)]

/-- What a tick does for an instance whose command waits for it (R827). -/
def State.insTick1 (s : State) (i : Nat) : State :=
  let x := s.insOf i
  let f := s.frameNo % 2 ^ 32
  if x.next = 0 ∨ s.esc.frame < x.nextAt then s
  else if x.next = 8 then
    if (List.range 17).any fun c => (s.chan c).shareChg.any fun y => y.1 == i then s
    else (s.updIns i fun y => { y with next := 0 }).insTell i [(0, f)]
  else
    let s := s.updIns i fun y => { y with next := 0, effAt := s.esc.frame }
    match x.next with
    | 3 => s.insResetTick i
    | 4 => s.updIns i fun y => { y with st := 3 }
    | 5 => (s.insThawTick i).insTell i [(0, f)]
    | 6 => s.insDestroyTick i
    | 7 =>
      if s.superseded (.ins i) 0x050 2 then
        (s.overrun 6 255).updIns i fun y => { y with next := 7, nextAt := s.esc.frame + 1 }
      else ((s.setFldBoth (.ins i) 0x050 1 1 (b2n x.userNext)).keepFld (.ins i) 0x050 1 1 (b2n x.userNext)).insTell i [(0, f)]
    | _ => s

/-- INSTANCE_FREE (R851): at the tick after the drain, the detachments and the release of the shares. -/
def State.insFreeTick (s : State) (i : Nat) : State :=
  let x := s.insOf i
  if x.st ≠ 5 ∨ !x.resetDone ∨ s.ringsOf i ≠ [] ∨ s.esc.frame ≤ x.effAt ∨
      (List.range 17).any (fun c => (s.chan c).shareOf i != 0 || (s.chan c).shareChg.any fun y => y.1 == i) then s
  else
    let s := s.insTell i [(0, x.effAt % 2 ^ 32)]
    (s.updIns i fun _ => {}).updPage (.ins i) fun pg => { pg with en := false, enReq := false }

/-- What a tick does for the instances, at the step of shares, but for the release of those destroyed. -/
def State.insDue (s : State) : State :=
  let s := s.insStageTick
  let ids := (s.ins.filterMap fun e => if e.2.next ≠ 0 then some e.1 else none)
  ids.foldl (fun s i => s.insTick1 i) s

/-- What a tick does for the instances, at the step of shares. -/
def State.insTick (s : State) : State :=
  let s := s.insDue
  (s.ins.filterMap fun e => if e.2.st = 5 then some e.1 else none).foldl (fun s i => s.insFreeTick i) s

/-- The tallies fold the increments kept (R841). -/
def State.foldTick (s : State) : State :=
  (s.ins.filterMap fun e => if e.2.fold ≠ [] then some e.1 else none).foldl (fun s i =>
    s.updIns i fun x =>
      { x with fold := [], tally := x.fold.foldl (fun t e => Tbl.upd (fun _ => 0) t e.1 fun n => wrapAdd 64 n e.2) x.tally }) s

/-! ### Drains (R837, R846) -/

/-- A write of an old generation that a gateway or engine admitted is unanswered (R837). -/
def State.oldWrites (s : State) (i : Nat) : Bool :=
  let g := s.genOf i
  s.gws.any (fun e => e.2.tags.any fun t => t.2.itag == i && t.2.gen != g && t.2.wr && decide (0 < t.2.left)) ||
  s.les.any fun e => e.2.ops.any fun o => o.itag == i && o.gen != g && o.kind.writes

/-- RESET_DONE (R837). -/
def State.resetDone (s : State) (i : Nat) : State :=
  let x := s.insOf i
  if x.resetDone ∨ s.oldWrites i ∨ s.trt.clearPend then s
  else
    let n := s.bclk - x.resetBclk
    let s := (s.updIns i fun y => { y with resetDone := true, st := if y.st = 2 then 1 else y.st }).raise (.ins i) 4
    if x.st = 2 then s.insTell i [(0, x.effAt % 2 ^ 32), (1, s.genOf i), (2, n % 2 ^ 32)] else s

/-- QUIESCED (R846): every request of a freezing instance has been answered and its contexts written back. -/
def State.quiesced (s : State) (i : Nat) : State :=
  let x := s.insOf i
  let busy := s.gws.any (fun e => e.2.tags.any fun t => t.2.itag == i && decide (0 < t.2.left)) ||
    s.les.any fun e => e.2.ops.any fun o => o.itag == i
  let rs := s.ringsOf i
  if x.st ≠ 3 ∨ busy ∨ rs.any (fun r => s.mayForm r) then s
  else
    let s := rs.foldl (fun s r =>
      ((s.quiesceRing r).updCtx r fun c => { c with st := if c.st = 3 then 3 else 4 }).writeBack r) s
    let s := (s.updIns i fun y => { y with st := 4 }).raise (.ins i) 5
    s.insTell i [(0, x.effAt % 2 ^ 32)]

end Sys2Proof.Machine
end

