-- ==== Sys2Proof/Machine/Startup.lean ====
section
/-! DEFINITION. Start-up phase by phase (R496 to R513), the resets (R514 to R517), and a loss of supply (R612). -/
namespace Sys2Proof.Machine

/-! ### Values that Movement writes at start-up (R498, R502, R932) -/

/-- A register of a page takes a value in both copies and in the page's standing intent; a value that fails its check is left out. -/
def State.setStart (s : State) (p : PageId) (off : Nat) (v : Word) : State :=
  match regRow p off with
  | none => s
  | some r =>
    let v := v &&& regMask p off
    if (r.acc ≠ .rs ∧ r.acc ≠ .rw) ∨ fldRule v r.flds ≠ 0 then s
    else if r.acc = .rw then s.setReg p off v
    else (s.setBoth p off v).updPage p fun pg => { pg with intent := Tbl.set (regReset p) pg.intent off v }

/-- Pages whose platform values are written in phase 4; the others follow in phase 7 (R502). -/
def PageId.early : PageId → Bool
  | .blk => true | .esc => true | .jwl => true | .gw _ => true | .gwAdm _ => true | .cc _ => true | .phy _ => true
  | .cal _ => true | .elog _ => true | _ => false

/-- The registers of the platform configuration on pages that the test selects. -/
def State.platRegs (s : State) (sel : PageId → Bool) : List (PageId × Nat × Word) :=
  s.plat.regs.filterMap fun x => match pageOf x.1 with | some p => if sel p then some (p, x.2.1, x.2.2) else none | none => none

/-- A register that a warm reset keeps is not written again (R514). -/
def State.keptReg (s : State) (p : PageId) (off : Nat) : Bool := s.warm && p == .blk && (off == 0x040 || off == 0x048)

/-! ### Phases 1 to 3 -/

/-- Phase 1, BOOT (R498, R500): the active image, else the other one. The intent region counts as having passed its check (DESIGN CHOICE:
no command gives its outcome at a start; log entry 58). -/
def State.bootPhase (s : State) (x : PhaseIn) : State :=
  let m : Word := 0x8FFFFFFF
  let s := { s with mvc := { s.mvc with verA := x.verA &&& m, verB := x.verB &&& m } }
  let ok := fun (slot : Bool) => flag (if slot then x.verB else x.verA) 31
  if !ok false ∧ !ok true then { s with phase := 15 }
  else
    let slot := if ok s.mvc.slot then s.mvc.slot else !s.mvc.slot
    { s with phase := 2, plat := x.plat, mvc := { s.mvc with running := true, slot := slot, intentOk := true, beatAt := s.bclk },
             map := { s.map with reserveNom := min 16 x.plat.reserve } }

/-- Phase 2, CALREF (R498, R499, R948): every pair measures its resistor and sets its impedance codes. -/
def State.calrefPhase (s : State) (x : PhaseIn) : State :=
  let s := x.meas.zipIdx.foldl (fun s m =>
    if 9 ≤ m.2 then s
    else
      let s := s.measureCalref m.2 m.1.meas true
      if calrefState m.1.meas ≠ 1 then s
      else ([2 * m.2, 2 * m.2 + 1].filter (· < 17)).foldl (fun s c => s.updBal c fun b =>
        ((b.anchorVal (valKey 8 0 0) m.1.pu).anchorVal (valKey 8 0 1) m.1.pd).anchorVal (valKey 8 0 2) m.1.term) s) s
  { s with phase := 3 }

/-- The reference configuration (R267): that of most populated channels that pass R262 to R265, the lowest-numbered channel's among
equals. -/
def refConfig (spds : List Spd) : Option Spd :=
  let good := spds.filter fun d => spdCodes d == []
  let votes := fun (d : Spd) => (good.filter fun e => sameConfig d e).length
  good.foldl (fun a d => match a with | none => some d | some b => if votes b < votes d then some d else some b) none

/-- Phase 3, SIDEBAND (R266 to R270, R498, R500, R954): the modules are judged, the bin is chosen, the roles are assigned. -/
def State.sidebandPhase (s : State) (x : PhaseIn) : State :=
  let read := fun c => if (s.chan c).prsnt then (x.spds.getD c none).getD (noSpd 2) else noSpd 1
  let all := (List.range 17).map fun c => capBin (asRead (read c))
  let ref := refConfig all
  let free := all.filter fun d => (judge none ref d).refuse == 0
  let bin := match s.plat.bin with
    | some b => b
    | none => binOfCode (leastOf (free.map (·.maxBin)))
  let named := s.plat.bin
  let s := (List.range 17).foldl (fun s c =>
    let d := judge named ref (read c)
    s.updChan c fun ch => { ch with spd := some d, idGone := false, sbI2c := x.i2c.testBit c, resetN := ch.resetN || d.refuse != 0,
                                    retained := ch.retained && d.refuse == 0, powered := ch.powered && d.refuse == 0, svcReady := d.refuse != 0 }) s
  let s := { s with bin := bin, refSpd := ref }
  if (List.range 17).all fun c => !(s.chan c).accepted then { s with phase := 15 }
  else
    let s := s.assignRoles s.map.reserveNom fun c => (s.chan c).accepted && !s.calrefFault c
    { s with phase := 4 }

/-! ### Phase 4 (R496, R497, R502) -/

/-- The value that phase 4 gives a register of the platform configuration: a warm reset has kept PARK_REQ and RETAIN (R424, R514). -/
def State.startVal (s : State) (p : PageId) (off : Nat) (v : Word) : Word :=
  match p with
  | .cc _ => if s.warm ∧ off = 0x050 then setFld v 16 2 (fld (s.reg p off) 16 2) else v
  | _ => v

/-- BCLK_LOCK (R497, R525): the count runs, the frames start, and the pages take what phase 4 gives them. -/
def State.bclkLock (s : State) : State :=
  if s.phase ≠ 4 ∨ s.locked then s
  else
    let s := { s with locked := true, bclk := 0, esc := { s.esc with running := true, fs := s.bin.slots, tickBclk := 0 } }
    let s := (s.updPage .esc fun pg => { pg with en := true, enReq := true }).setStart .esc 0x050 (pack [(0, 9, s.bin.slots)])
    let s := (List.range 17).foldl (fun s c => s.turnTables c) s
    let ps := [PageId.jwl] ++ (List.range 36).map PageId.trt ++ (List.range 16).flatMap fun g => [PageId.gw g, .gwAdm g]
    let s := ps.foldl (fun s p => s.enable p) s
    let s := (s.platRegs PageId.early).foldl (fun s x =>
      if s.keptReg x.1 x.2.1 ∨ x.1 = .esc ∧ x.2.1 = 0x050 then s else s.setStart x.1 x.2.1 (s.startVal x.1 x.2.1 x.2.2)) s
    { s with startCfg := s.reg .blk 0x040 }

/-- BCLK_LOCK_TIMEOUT (R500). -/
def State.bclkLockTimeout (s : State) : State := if s.phase = 4 ∧ !s.locked then { s with phase := 15 } else s

/-! ### Phases 5 and 6 (R498, R503 to R509) -/

/-- Phase 5, DIMM_INIT: on every accepted channel the supplies are on and RESET_n is high, but low where the CALREF is faulty (R499); a
retained channel is left as it is (R508). -/
def State.dimmPhase (s : State) : State :=
  let s := ((List.range 17).filter fun c => (s.chan c).accepted).foldl (fun s c =>
    let s := if (s.chan c).retained then s
             else s.updChan c fun ch => { ch with powered := true, svcReady := false, resetN := s.calrefFault c }
    (chanPages c).foldl (fun s p => s.enable p) s) s
  { s with phase := 6 }

/-- Phase 6, TRAIN, begins on a channel (R503, R508, R509). -/
def State.trainBegin (s : State) (c : Nat) : State :=
  let s' := s.calRequest c 2 0 false
  if (s.chan c).retained ∧ (s.jwlServes c).isNone then
    (s'.restoreFail c 9).updChan c fun ch => { ch with sr := .awake, resetN := true }
  else s'

/-- CALIPER_RUN_START (R508, R532): a retained channel also leaves self-refresh. -/
def State.runStart (s : State) (c : Nat) (spd : Spd) : State :=
  let t := s.caliperStart c spd
  if (s.chan c).calState = 1 ∧ (t.chan c).calState = 2 ∧ (t.chan c).retained ∧ (t.cal c).kind = 2 then
    t.mvcSet [(.cc c, 0x050, setFld (t.shd (.cc c) 0x050) 17 1 0)] 0
  else t

/-- Phase 6 ends (R506): a channel that did not train loses its role and its supplies (R269, R954). -/
def State.trainPhase (s : State) : State :=
  let bad := (List.range 17).filter fun c => (s.chan c).inService && (s.chan c).calState != 3
  if bad = [] then s
  else (bad.foldl (fun s c => s.supplyOff c) s).assignRoles s.map.reserveNom fun c =>
    (s.chan c).inService && (s.chan c).calState == 3

/-! ### Phases 7 to 9 (R498, R502, R511 to R513, R824) -/

/-- The channels that have trained. -/
def State.trained (s : State) : List Nat := (List.range 17).filter fun c => (s.chan c).inService && (s.chan c).calState == 3

/-- Phase 7, COMMIT, begins: tables, the address map, every other standing intent, instance 0. -/
def State.commitPhase (s : State) : State :=
  let chs := s.trained
  let s := chs.foldl (fun s c => s.bootTables c 0 true) s
  let late := s.platRegs fun p => !p.early
  let rw := late.filter fun x => match regRow x.1 x.2.1 with | some r => r.acc == .rw | none => false
  let rs := late.filter fun x => match regRow x.1 x.2.1 with | some r => r.acc == .rs | none => false
  let s := rw.foldl (fun s x => s.setStart x.1 x.2.1 x.2.2) s
  let s := s.mvcSet rs 0
  let ps := (chs.flatMap fun c => [PageId.bal c, .brl c, .brlHeat c]) ++ (List.range 72).map PageId.cnt ++
    [PageId.lth 0, .lth 1, .lthPool, .ins 0]
  let s := ps.foldl (fun s p => s.enable p) s
  let sh := (List.range 17).map fun r => s.plat.shares.getD r 0
  let s := s.updIns 0 fun x => { x with st := 1, elastic := true, shares := sh }
  let f := s.esc.frame + 3 + b2n s.pastLatch
  let s := (List.range 17).foldl (fun s r =>
    match s.chanOfRole r with
    | some c => if sh.getD r 0 = 0 then s else s.armShare c 0 (sh.getD r 0) f f
    | none => s) s
  { s with phase := 7 }

/-- Every commit of phase 7 has ended and every page follows its EN. -/
def State.commitsDone (s : State) : Bool :=
  (s.pages.all fun e => e.2.cmt == .idle && e.2.en == e.2.enReq) && s.map.kind == 0 &&
  s.chans.all fun e => e.2.shareChg == []

/-- Phase 8, FILL, begins, or is skipped (R511, R513, R525). -/
def State.fillPhase (s : State) : State :=
  if !flag s.startCfg 1 then { s with phase := 9, fillSkipped := true }
  else
    let chs := s.trained.filter fun c => !(s.chan c).retained
    let s := chs.foldl (fun s c => s.bootTables c 1 false) s
    { s with phase := 8, filling := chs }

/-- ZERO_FILL_DONE (R511, R512): a fill ends and the channel takes set 0. -/
def State.zeroFillDone (s : State) (c : Nat) : State :=
  if s.phase = 8 then
    if !s.filling.contains c ∨ !s.tablesDone c ∨ !s.mvc.running then s
    else { (s.loseLines c true).bootTables c 0 true with filling := s.filling.filter (· != c) }
  else s.fillDone c

/-- START_PHASE_COMPLETE (R498, R500): the work of the phase in progress is complete. From phase 2 on it is Movement that goes on to the next
one, and a halted Movement does not (R520). -/
def State.phaseComplete (s : State) (x : PhaseIn) : State :=
  if 2 ≤ s.phase ∧ !s.mvc.running then s
  else match s.phase with
  | 1 => s.bootPhase x
  | 2 => s.calrefPhase x
  | 3 => s.sidebandPhase x
  | 4 => if s.locked then { s with phase := 5 } else s
  | 5 => let s := s.dimmPhase; ((List.range 17).filter fun c => (s.chan c).inService).foldl (fun s c => s.trainBegin c) s
  | 6 => if (List.range 17).any (fun c => s.calBusy c) then s else s.trainPhase.commitPhase
  | 7 => if s.commitsDone then s.fillPhase else s
  | 8 => if s.filling = [] ∧ s.trained.all (fun c => s.tablesDone c) then { s with phase := 9 } else s
  | _ => s

/-- BLOCK_RESET_RELEASE (R496, R498): start-up begins at phase 1. -/
def State.resetRelease (s : State) : State := if s.phase = 0 then { s with phase := 1 } else s

/-! ### Resets (R423, R424, R514, R515, R517) -/

/-- What a warm reset keeps of a channel. -/
def State.keptChan (s : State) (c : Nat) : Chan :=
  let ch := s.chan c
  let keep := ch.sr == .parked && flag (s.reg (.cc c) 0x050) 16
  { prsnt := ch.prsnt, supplies := ch.supplies, powered := ch.powered, svcReady := ch.svcReady, roleChanges := ch.roleChanges, elog := ch.elog,
    filled := ch.filled, memGen := ch.memGen, retained := keep, sr := if keep then .parked else .awake, resetN := !keep }

/-- WARM_RESET (R514, R515): the block is in reset, and keeps what the warm domain keeps. -/
def State.warmReset (s : State) : State :=
  let m : Mvc := { slot := s.mvc.slot, verA := s.mvc.verA, verB := s.mvc.verB, faults := s.mvc.faults, swaps := s.mvc.swaps }
  let r : State :=
    { State.reset with pending := s.pending, warm := true, gens := s.gens, jwl := { copies := s.jwl.copies }, mem := s.mem,
                       nextSn := s.nextSn, nextFree := s.nextFree, mvc := m, blk := { badAccCnt := s.blk.badAccCnt } }
  let r := (r.setStart .blk 0x040 (s.reg .blk 0x040)).setStart .blk 0x048 (s.reg .blk 0x048)
  (List.range 17).foldl (fun r c =>
    let r := r.updChan c fun _ => s.keptChan c
    let r := if (r.chan c).retained then r else r.loseLines c false
    r.setBoth (.cc c) 0x050 (s.reg (.cc c) 0x050 &&& 0x30000)) r

/-- POWER_FAILURE (R612): the copy of a Jewel record being written is left invalid (`code`, as JWL_REC_INFO reads it), or as it was
(0); the supply then returns in a cold reset. -/
def State.powerFailure (s : State) (code : Nat) : State :=
  let s := match s.jwlNext with
    | some c =>
      if code = 0 ∨ 6 ≤ code then s
      else let d := s.jwlDest c; s.setCopy c d.1 { s.jwlCopy c d.1 with st := code }
    | none => s
  let m : Mvc := { slot := s.mvc.slot, verA := s.mvc.verA, verB := s.mvc.verB }
  { State.reset with pending := s.pending, jwl := { copies := s.jwl.copies }, mvc := m, nextSn := s.nextSn, nextFree := s.nextFree }

/-- A channel reset is refused (R517): the channel has a role, or a training or a test runs on it. -/
def State.chRstDenies (s : State) (c : Nat) : Bool :=
  (s.chan c).inService || (s.chan c).calState == 2 || (s.chan c).test

/-- A channel is reset (R514, R517): its tables return to TURN, RESET_n is low, its contents are lost; its log and its count box
stay, as does CHANGES, which counts from a cold reset (R896), and Movement reapplies its intents (R132). -/
def State.chReset (s : State) (c : Nat) : State :=
  let ps : List PageId := [.cc c, .slt c 0, .slt c 1, .phy c, .cal c, .bal c, .brl c, .brlHeat c]
  let s := ps.foldl (fun s p => s.updPage p fun pg => { intent := pg.intent }) s
  let s := s.updChan c fun ch =>
    { roleChanges := ch.roleChanges, spd := ch.spd, idGone := true, rjn := ch.rjn, tko := ch.tko, prsnt := ch.prsnt, supplies := ch.supplies,
      supNext := ch.supNext, sbI2c := ch.sbI2c, powered := ch.powered, svcReady := ch.svcReady, elog := ch.elog, memGen := ch.memGen }
  let s := (s.loseLines c false).updCal c fun x => { testWait := x.testWait }
  let s := [0, 1].foldl (fun s sc => s.updSub c sc fun b =>
    { quadRd := b.quadRd, quadWr := b.quadWr, quadDem := b.quadDem, quadPlan := b.quadPlan, disc := b.disc }) s
  let s := s.turnTables c
  if !s.mvc.running then s
  else [PageId.cc c, .slt c 0, .slt c 1, .phy c, .cal c, .bal c, .brl c, .brlHeat c].foldl (fun s p => s.reapply p) s

/-- CH_RST (R517): each bit written resets its channel or sets CH_RST_DENIED. -/
def State.chRst (s : State) (mask : Nat) : State :=
  let chs := maskChans mask
  let bad := chs.filter fun c => s.chRstDenies c
  let good := chs.filter fun c => !s.chRstDenies c
  let s := if good = [] then s else { s with chRstDenied := false }
  let s := good.foldl (fun s c => s.chReset c) s
  if bad = [] then s else { s with chRstDenied := true }

/-- BLK_RESET.CNT_CLR (R915, R926): every box is cleared in one BCLK. -/
def State.cntClrAll (s : State) : State :=
  (List.range 72).foldl (fun s b =>
    let s := (s.cntClear b).updCnt b fun x => { x with base := s.bclk }
    if b < 17 then s.quadClear b else s) s

end Sys2Proof.Machine
end

