-- ==== Sys2Proof/Machine/Crown.lean ====
section
/-! DEFINITION. Movement's answer to a failed link or router (R739), and the Crown port's injections and links (R890, R891, R902
to R905). -/
namespace Sys2Proof.Machine

/-! ### A loss switch (R739, R740) -/

/-- The links that have failed and that the fences in force do not cover. -/
def State.uncovered (s : State) : List (Nat × Nat) :=
  (List.range 36).flatMap fun n => (List.range 4).filterMap fun p =>
    if (s.rtr n).linkFail.testBit p && !s.routerDead n && !flag (s.reg (.trt n) 0x04C) p then some (n, p) else none

/-- The detour set of a failure: 2 + r for a router, 38 + l for a link (R731). -/
def State.detourSet (s : State) : Option Nat :=
  match s.uncovered with
  | [] => none
  | (n, p) :: _ =>
    match (List.range 36).find? fun r => s.routerDead r with
    | some r => some (2 + r)
    | none => some (38 + linkNo n p)

/-- LOSS_SWITCH_GO (R739, R740): Movement loads the failure's detour set and writes GO. -/
def State.lossSwitchGo (s : State) : State :=
  let pages := (List.range 36).map PageId.trt
  match s.detourSet with
  | none => s
  | some set =>
    if !s.mvc.running ∨ s.trt.double ∨ s.trt.clearPend ∨ s.anyExpert pages ∨ s.pagesBusy pages then s
    else s.routeGo (fun n i => routeSetWord set n i) true

/-! ### Injections -/

/-- An injection ends: its status, flags and data, and INJ_DONE. -/
def State.injEnd (s : State) (status : Nat) (late corr : Bool) : State :=
  let s := { s with crn := { s.crn with busy := false, done := true, late := late, corr := corr, status := status } }
  (s.raise .crn 0).ev { box := boxBlk, code := 0x0B }

/-- The location that CRN_INJ_ADDR gives; none for a channel number above 16 (R903). -/
def injLoc (lo hi : Word) : Option Loc :=
  let c := fld hi 4 5
  if 16 < c then none
  else some { ch := c, sc := fld hi 3 1, rk := fld hi 0 3, bg := fld lo 29 3, ba := fld lo 27 2, row := fld lo 7 20,
              col := fld lo 0 7 }

/-- The line in CRN_INJ_DATA0 to 15, byte 0 in bits [7:0] of the first. -/
def State.injLine (s : State) : Line :=
  (List.range 16).foldl (fun (a : Line) i => a ||| ((s.reg .crn (0x100 + 4 * i)).setWidth 512 <<< (32 * i))) 0

/-- CRN_INJ_GO (R890, R891, R903, R904): a write of CRN_INJ_CMD. -/
def State.injGo (s : State) (v : Word) : State :=
  if !flag v 0 ∨ s.crn.busy then s
  else if !flag (s.reg .crn 0x040) 0 then { s with crn := { s.crn with denied := true } }
  else
    let s := { s with crn := { s.crn with busy := true, done := false, denied := false } }
    let lo := s.reg .crn 0x048
    let hi := s.reg .crn 0x04C
    let pa := 64 * ((lo.toNat + fld hi 0 20 * 2 ^ 32) / 64)
    let go := fun (l : Loc) (pa : Nat) =>
      let r : Req := { src := 20, write := flag v 1, poison := flag v 1 && flag v 3, pa := pa, loc := l,
                       data := if flag v 1 then s.injLine else 0, created := s.bclk, hdrAt := s.bclk, gen := s.genOf 0 }
      { s with crn := { s.crn with emerg := some (r, s.bclk) } }
    if flag v 2 then
      match injLoc lo hi with
      | none => s.injEnd 2 false false
      | some l => go l 0
    else match s.dest pa with
      | .unmapped => s.injEnd 2 false false
      | .closed => s.injEnd 3 false false
      | .at_ l => go l pa

/-- The answer to an injection, in the torus. -/
def State.injResp (s : State) : Option (Pkt × Resp) :=
  (s.pkts.filterMap fun p => match p.body with
    | .memResp r => if r.req.src = 20 ∧ !p.waiting then some (p, r) else none
    | _ => none).head?

/-- INJ_DONE (R890): the response reaches the service node. -/
def State.injDone (s : State) : State :=
  match s.injResp with
  | none => s
  | some (p, r) =>
    if !s.canReach p.arr then s
    else
      let s := s.goto p.arr
      let s := { s with pkts := eraseFirst (fun q => q == p) s.pkts }
      let s := if r.rkind = 1 then
          (List.range 16).foldl (fun s i => s.setReg .crn (0x100 + 4 * i) (BitVec.ofNat 32 (lineNat r.data (4 * i) 4))) s
        else s
      s.injEnd r.status r.late r.corr

/-- CROWN_TEST_PORT_CLAIM (R902). -/
def State.testPort (s : State) (on : Bool) : State := { s with crn := { s.crn with tap := on } }

/-- SERVICE_PROCESSOR_LINK (R902). -/
def State.spLink (s : State) (up : Bool) : State := { s with crn := { s.crn with spUp := up } }

end Sys2Proof.Machine
end

