-- ==== Sys2Proof/Machine/Read.lean ====
section
/-! DEFINITION. What every register of the window reads as (R84 to R97, R142): stored copies, and the status views that the
machine's state gives. -/
namespace Sys2Proof.Machine

/-- The low word of a count. -/
def loW (n : Nat) : Word := BitVec.ofNat 32 n
/-- The next 32 bits of a count. -/
def hiW (n : Nat) : Word := BitVec.ofNat 32 (n / 2 ^ 32)
/-- Bits [47:32] of a count. -/
def hi16 (n : Nat) : Word := BitVec.ofNat 32 (n / 2 ^ 32 % 2 ^ 16)
/-- Half `h` of a LO and HI pair that holds 48 bits. -/
def half48 (n h : Nat) : Word := if h = 0 then loW n else hi16 n
/-- Half `h` of a LO and HI pair that holds 64 bits. -/
def half64 (n h : Nat) : Word := if h = 0 then loW n else hiW n

/-- The stored copy of a register: the active or, in shadow view, the shadow copy of an RS register (R92); an RW register's value. -/
def State.stored (s : State) (p : PageId) (off : Nat) : Word :=
  match regRow p off with
  | none => 0
  | some r =>
    match r.acc with
    | .rs => if (s.page p).shadowView then s.shd p off else s.reg p off
    | .rw => s.reg p off
    | _ => 0

/-! ### The header (R89 to R96, R109 to R112) -/

/-- PG_CAP.PAGE_CAP of a page (owning chapters). -/
def PageId.cap : PageId → Nat
  | .map => 8 + 12 * 16
  | .slt _ _ => 256
  | .lth _ => 1024
  | .cnt b => (if b < 17 then 8 else if b < 33 then 1 else if b < 35 then 2 else if b < 71 then 3 else 4)
  | _ => 0

/-- CMT_STATE of a page (R95); a table carried by a commit of the ESC page reads that commit's (R959). -/
def State.cmtShown (s : State) (p : PageId) : CmtState := if (s.page p).carried then (s.page .esc).cmt else (s.page p).cmt

/-- The code of CMT_STATE. -/
def CmtState.code : CmtState → Nat
  | .idle => 0 | .checking => 1 | .armed => 2

/-- PG_STAT (R95, R529). -/
def State.pgStat (s : State) (p : PageId) : Word :=
  let pg := s.page p
  let own := if p = .blk then
      (0, 4, s.phase) :: if s.locked then
        [(4, 1, b2n s.map.noReserve), (5, 1, b2n s.intHeld), (6, 1, b2n s.warm), (7, 1, b2n s.chRstDenied), (8, 1, b2n s.fillSkipped)]
      else []
    else []
  pack (own ++ [(24, 1, b2n (pg.en != pg.enReq)), (27, 1, b2n (s.mvcShown p)), (28, 1, b2n (pg.err != 0)),
                (29, 1, b2n pg.cmtRefused), (30, 2, (s.cmtShown p).code)])

/-- The header registers (R89). -/
def State.header (s : State) (p : PageId) (off : Nat) : Word :=
  let pg := s.page p
  match off with
  | 0x000 => pack [(0, 16, p.unit), (16, 8, 1), (24, 8, p.typeCode)]
  | 0x004 => pack [(0, 1, b2n p.expertOk), (1, 1, b2n p.userOk), (2, 1, b2n p.hasRs), (3, 2, p.commitKind), (16, 16, p.cap)]
  | 0x008 => pack [(0, 1, b2n pg.enReq), (1, 1, b2n pg.expert), (2, 1, b2n pg.user), (3, 1, b2n pg.shadowView)]
  | 0x00C => s.pgStat p
  | 0x010 => pg.isr
  | 0x014 => pg.imr
  | 0x020 => pg.commitFrame
  | 0x024 => pg.err
  | _ => 0

/-! ### Block pages -/

/-- A mailbox register (R134). -/
def Mbx.read (x : Mbx) (o : Nat) : Word :=
  if o = 0x00 then pack [(0, 16, x.cmd), (16, 8, x.seq)]
  else if o = 0x08 then
    pack [(0, 1, b2n x.busy), (1, 1, b2n x.done), (8, 8, x.status), (16, 8, x.seqEcho), (24, 8, x.detail)]
  else if 0x10 ≤ o ∧ o < 0x30 then x.arg ((o - 0x10) / 4)
  else if 0x30 ≤ o ∧ o < 0x50 then Tbl.get (fun _ => 0) x.res ((o - 0x30) / 4)
  else 0

/-- The BLK page (R114 to R123, R525 to R528). -/
def State.readBlk (s : State) (off : Nat) : Word :=
  if 0x100 ≤ off ∧ off < 0x150 then s.blk.mb0.read (off - 0x100)
  else if 0x180 ≤ off ∧ off < 0x1D0 then s.blk.mb1.read (off - 0x180)
  else match off with
  | 0x04C => pack [(0, 8, s.therm.headroom), (8, 1, b2n s.therm.stale), (16, 8, s.therm.tj), (24, 7, s.therm.rate)]
  | 0x050 => loW s.intSum
  | 0x054 => hiW s.intSum
  | 0x058 => loW s.blk.intAddr
  | 0x05C => pack [(0, 20, s.blk.intAddr / 2 ^ 32)]
  | 0x060 => s.blk.intData
  | 0x064 => pack [(0, 4, s.blk.intPort), (4, 1, b2n s.blk.intEn), (5, 1, b2n s.blk.intArmed)]
  | 0x070 => s.blk.badAcc
  | 0x074 => loW s.blk.badAccCnt
  | 0x078 => s.blk.cmtRef
  | _ => s.stored .blk off

/-- The address-map page (R251 to R260). -/
def State.readMap (s : State) (off : Nat) : Word :=
  match off with
  | 0x410 => pack [(0, 16, s.map.epoch), (16, 1, b2n s.map.announced), (17, 1, b2n s.map.hold), (18, 1, b2n s.map.resClosed)]
  | 0x414 => s.map.check
  | 0x420 => s.map.xlateRes
  | _ => s.stored .map off

/-- The ESC page (R66 to R75). -/
def State.readEsc (s : State) (off : Nat) : Word :=
  match off with
  | 0x040 => half48 s.frameNo 0
  | 0x044 => half48 s.frameNo 1
  | 0x048 => half64 s.esc.cap 0
  | 0x04C => half64 s.esc.cap 1
  | 0x054 => pack [(0, 9, s.esc.fs), (16, 4, s.k), (20, 1, b2n s.fsArmed.isSome), (24, 8, s.slotNow)]
  | 0x058 => half48 s.esc.fschgFrame 0
  | 0x05C => half48 s.esc.fschgFrame 1
  | 0x060 => half64 s.esc.fschgBclk 0
  | 0x064 => half64 s.esc.fschgBclk 1
  | 0x070 => pack [(0, 4, s.esc.ovrKind), (8, 8, s.esc.ovrUnit), (16, 16, s.esc.ovrFrame)]
  | 0x074 => loW s.esc.slipCnt
  | _ =>
    if 0x080 ≤ off ∧ off < 0x09C then loW (Tbl.get (fun _ => 0) s.esc.ovrCnt ((off - 0x080) / 4)) else s.stored .esc off

/-- STATE of MVC_STAT (R124). -/
def State.mvcState (s : State) : Nat :=
  if s.mvc.halted then 3 else if s.mvc.trial.isSome then 2 else if s.mvc.running then 1 else if s.phase ≤ 1 then 0 else 2

/-- The code of the mailbox command that runs; 0 for none. -/
def State.mvcCmd (s : State) : Nat := if s.blk.mb0.running then s.blk.mb0.cmd else if s.blk.mb1.running then s.blk.mb1.cmd else 0

/-- The MVC page (R124, R125, R128, R530, R900, R901). -/
def State.readMvc (s : State) (off : Nat) : Word :=
  let m := s.mvc
  match off with
  | 0x040 => pack [(0, 2, s.mvcState), (2, 1, b2n (if m.trial.isSome then !m.slot else m.slot)), (3, 1, b2n m.intentOk),
                   (4, 1, b2n s.blk.mb0.running), (5, 1, b2n s.blk.mb1.running), (16, 16, s.mvcCmd)]
  | 0x044 => pack [(0, 1, b2n m.slot), (1, 1, b2n m.fallback), (2, 1, b2n m.swapPend), (8, 8, m.swaps)]
  | 0x048 => m.verA
  | 0x04C => m.verB
  | 0x050 => loW s.beat
  | 0x054 => pack [(0, 16, m.faults), (16, 8, m.restarts), (24, 1, b2n m.halted)]
  | 0x058 => loW m.standoff
  | _ => 0

/-- The JWL page (R623 to R628). -/
def State.readJwl (s : State) (off : Nat) : Word :=
  match off with
  | 0x044 =>
    let m := (List.range 17).foldl (fun (a : Nat) c => if (s.jwlPend c).isSome then a + 2 ^ c else a) 0
    pack [(0, 17, m), (18, 1, b2n s.jwl.wrFail), (19, 5, s.jwl.lastCh), (24, 1, b2n s.jwl.lastCopy)]
  | 0x04C =>
    let c := s.regFld .jwl 0x048 0 5
    let x := s.regFld .jwl 0x048 5 1
    if 16 < c then 0
    else
      let r := s.jwlCopy c x
      let ok := r.st == 0
      pack ([(0, 1, b2n ok), (1, 1, b2n (s.jwlForce c == some x)), (2, 3, r.st)] ++
            if ok then [(5, 2, r.kind), (7, 25, r.seq)] else [])
  | 0x050 => half64 s.jwl.wrCnt 0
  | 0x054 => half64 s.jwl.wrCnt 1
  | 0x058 => pack [(0, 16, s.jwl.wrFails), (16, 16, s.jwl.badCopies)]
  | _ => s.stored .jwl off

/-- The CRN page (R902 to R905). -/
def State.readCrn (s : State) (off : Nat) : Word :=
  let c := s.crn
  match off with
  | 0x044 => pack [(0, 1, b2n c.spUp), (1, 1, b2n c.tap), (16, 16, c.accCnt)]
  | 0x054 => pack [(0, 1, b2n c.busy), (1, 1, b2n c.done), (2, 1, b2n c.denied), (3, 1, b2n c.late), (4, 1, b2n c.corr),
                   (8, 8, c.status)]
  | 0x058 => loW s.crnPreempt
  | _ => s.stored .crn off

/-! ### Gateways -/

/-- The code of LINK (R202). -/
def GwLink.code : GwLink → Nat
  | .aliveLow => 0 | .init => 1 | .up => 2 | .down => 3

/-- One entry of GW_DOWN_TAG (R210). -/
def downTag (l : List Nat) (n lo : Nat) : List (Nat × Nat × Nat) :=
  match l[n]? with | some t => [(lo, 9, t), (lo + 15, 1, 1)] | none => []

/-- Page 0 of a gateway (R201 to R210, R860). -/
def State.readGw (s : State) (g off : Nat) : Word :=
  let w := s.gw g
  match off with
  | 0x044 => pack [(0, 2, w.link.code), (2, 1, b2n w.crStall), (3, 1, b2n w.stallSince.isSome), (4, 1, b2n w.phaseErr),
                   (8, 8, w.protoCnt), (16, 16, w.malfCnt)]
  | 0x048 => pack [(0, 8, w.reqHdr), (8, 8, w.reqData), (16, 8, w.rspHdr), (24, 8, w.rspData)]
  | 0x04C => pack [(0, 9, w.tags.length), (31, 1, b2n (w.tags.any fun e => e.2.old))]
  | 0x058 => pack [(0, 9, w.replay.length), (16, 8, w.rplyOut), (24, 8, w.rplyIn)]
  | 0x05C => pack [(1, 1, b2n (w.discards s.bclk))]
  | 0x060 => loW w.dropCnt
  | 0x064 => loW w.staleCnt
  | _ =>
    if 0x100 ≤ off ∧ off < 0x400 then
      let n := (off - 0x100) / 4
      pack (downTag w.downTags (2 * n) 0 ++ downTag w.downTags (2 * n + 1) 16)
    else s.stored (.gw g) off

/-- G_OUT (R212): the G requests of the port that have been injected and are not yet answered or bounced. -/
def State.gOutAt (s : State) (g : Nat) : Nat :=
  let early := s.pkts.filter fun p => match p.body with
    | .memReq r => r.src == g && r.g && (decide (s.bclk < p.inj) || (p.waiting && !p.stuck))
    | _ => false
  (s.gw g).gOut - early.length

/-- C_WAIT (R212): the C requests of the port that are raised and wait for their grant. -/
def State.cWaitAt (s : State) (g : Nat) : Nat :=
  let raised := (s.gw g).cq.filter fun w => decide (w.raised ≤ s.bclk)
  let granted := s.pkts.filter fun p => match p.body, p.train with
    | .memReq r, some t => r.src == g && decide (s.bclk < t)
    | _, _ => false
  raised.length + granted.length

/-- Page 1 of a gateway (R211 to R213, R396, R710, R711). -/
def State.readGwAdm (s : State) (g off : Nat) : Word :=
  let w := s.gw g
  match off with
  | 0x044 => pack [(0, 9, s.gOutAt g), (16, 9, s.cWaitAt g)]
  | 0x048 => pack [(0, 16, w.rcToken), (16, 8, w.rcHorizon), (24, 8, w.rcFull)]
  | 0x04C => pack [(0, 6, w.holds.length), (8, 7, w.heldCount), (16, 8, w.ovf)]
  | 0x050 => loW w.thrCnt
  | 0x054 => pack [(0, 1, b2n w.alive), (1, 1, b2n (s.effective g)), (16, 16, w.falls)]
  | _ => s.stored (.gwAdm g) off

/-! ### Channels -/

/-- The code of SR_STATE (R428). -/
def SrState.code : SrState → Nat
  | .awake => 0 | .idleSr => 1 | .parked => 2 | .waking => 3

/-- The highest debt of a subchannel's targets and its target (R430). -/
def State.maxDebt (s : State) (c sc : Nat) : Nat × Nat :=
  (s.tblAct c sc).targets.foldl (fun (a : Nat × Nat) g =>
    let d := (s.sub c sc).debtOf g
    if a.1 < d then (d, 4 * g.1 + g.2.getD 0) else a) (0, 0)

/-- Whether an MR4 round asks for the doubled rate, and whether a DIMM reading does (R399, R431). -/
def Chan.asks2x (ch : Chan) (cfg : Word) : Bool × Bool :=
  let th := fld cfg 8 7
  let hot := fun (t : Nat) => decide (th ≠ 0) && decide ((th : Int) ≤ tempOf t)
  (ch.mr4.any fun e => decide (2 ≤ e.2), hot ch.ts0 || (match ch.spd with | some d => d.dpc2 && hot ch.ts1 | none => false))

/-- The RO fields of CC_LAT_TGTi (R470). -/
def State.latStat (s : State) (c i : Nat) : Word :=
  let q := (s.chan c).arb.req i
  pack [(16, 2, q.urg), (18, 4, if s.holdMode c then 0 else q.losses), (22, 1, b2n (!s.holdMode c && decide (q.from_ ≤ s.bclk) && decide (s.bclk < q.until_))),
        (23, 1, b2n (!s.alive c i)), (24, 1, b2n (s.reqHigh c i s.bclk))]

/-- The CC page. -/
def State.readCc (s : State) (c off : Nat) : Word :=
  let ch := s.chan c
  let st := s.stored (.cc c) off
  match off with
  | 0x044 => pack [(0, 6, ch.events), (6, 3, ch.tko), (9, 3, ch.rjn), (12, 1, b2n ch.powered), (13, 1, b2n ch.prsnt),
                   (14, 1, b2n ch.svcReady), (15, 1, b2n ch.rotNew), (16, 1, b2n ch.test)]
  | 0x048 => pack [(0, 5, ch.role), (5, 5, ch.prevRole), (16, 16, ch.roleChanges)]
  | 0x04C => st ||| pack [(1, 1, b2n ch.fenced), (8, 8, ch.disc), (16, 10, s.pend c)]
  | 0x050 => st ||| pack [(18, 2, ch.sr.code), (20, 1, b2n ch.retained), (24, 8, ch.wakes)]
  | 0x058 =>
    let a := s.maxDebt c 0
    let b := s.maxDebt c 1
    let em := fun sc => b2n ((s.sub c sc).emergs.any (·.inForce))
    pack [(0, 3, a.1), (3, 5, a.2), (8, 3, b.1), (11, 5, b.2), (16, 1, b2n ch.rate2x), (17, 1, em 0), (18, 1, em 1),
          (24, 8, ch.emergCnt)]
  | 0x05C =>
    let a := ch.asks2x (s.reg (.cc c) 0x054)
    pack [(0, 8, ch.ts0), (8, 8, ch.ts1), (16, 8, ch.tsPhy), (24, 1, b2n a.1), (25, 1, b2n a.2), (26, 1, b2n ch.rate2x),
          (27, 1, b2n (ch.tsStale != [])), (28, 1, b2n ch.tooHot)]
  | 0x064 =>
    let sh := ch.arb.shown s.bclk
    let room := s.room c + (ch.arb.granted - sh.2.2)
    let mine := fun (x : Option (Req × Nat)) => match x with | some r => r.1.loc.ch == c | none => false
    pack [(0, 5, sh.1), (5, 5, sh.2.1), (10, 1, b2n (decide (ch.arb.grantAt ≤ s.bclk) && decide (s.bclk ≤ trainEnd s.pkts c ch.arb.grantAt))),
          (11, 1, b2n (room == 0)), (12, 1, b2n (mine s.crn.emerg || mine s.crn.egnt)), (13, 1, b2n (s.holdMode c)),
          (16, 8, room), (24, 8, ch.arb.revokeCnt)]
  | 0x06C =>
    let b := ch.scrub
    let on := (s.page (.cc c)).en && fld (s.scrubCfg c) 0 8 != 0 && ch.inService
    pack [(0, 16, b.passes), (16, 8, b.pos * 256 / s.chanLines), (24, 1, b2n (on && !s.scrubHeld c)), (25, 1, b2n (s.scrubHeld c)),
          (26, 1, b2n b.latePass), (27, 5, b.credits)]
  | 0x078 => pack [(0, 1, b2n ch.sbBusy), (1, 1, b2n ch.sbDone), (2, 1, b2n ch.sbNack), (3, 1, b2n ch.sbPec), (4, 1, b2n ch.sbI2c),
                   (5, 1, b2n ch.sbDenied), (6, 1, b2n ch.sbTmo), (8, 8, ch.pollErr), (16, 8, ch.ibiCnt)]
  | 0x07C => if ch.idGone then 0 else ch.moduleId
  | 0x084 => pack [(0, 8, ch.mrValue), (8, 1, b2n ch.mrDiffer), (9, 1, b2n ch.mrDone), (10, 1, b2n ch.mrBusy), (11, 1, b2n ch.mrDenied)]
  | 0x094 =>
    if s.copy.on ∧ s.copy.src = c then
      pack [(0, 2, if s.copy.done then 3 else if s.copy.poison then 2 else 1), (2, 1, b2n s.copy.mirror),
            (8, 8, s.copy.next * 256 / s.chanLines), (16, 16, min 65535 (s.copy.poisoned / 1024))]
    else 0
  | _ => if 0x100 ≤ off ∧ off < 0x150 then st ||| s.latStat c ((off - 0x100) / 4) else st

/-- STATE of SLT_STAT (R391). -/
def State.sltState (s : State) (c sc : Nat) : Nat :=
  if !(s.sub c sc).legal then 0
  else if s.offOrParked c then 3 else if (s.chan c).sr != .awake then 2 else 1

/-- An SLT page. -/
def State.readSlt (s : State) (c sc off : Nat) : Word :=
  let b := s.sub c sc
  let st := s.stored (.slt c sc) off
  match off with
  | 0x044 => pack [(0, 6, if (s.chan c).calState = 3 then s.lead c else 0), (6, 2, s.sltState c sc),
                   (8, 8, match s.frontier c sc with | some f => min 255 (f - s.esc.frame) | none => 0),
                   (16, 8, b.openRows.length), (24, 1, b2n (s.subRoom c sc == 0)), (25, 1, b2n (b.wb.any (·.retry)))]
  | 0x048 => match s.frontier c sc with | some f => half48 f 0 | none => 0
  | 0x04C => match s.frontier c sc with | some f => half48 f 1 | none => 0x80000000
  | 0x050 => s.valShown c sc
  | 0x054 =>
    let g := (b.ram.filter (·.g)).length
    pack [(0, 8, g), (8, 8, b.ram.length - g), (16, 8, s.gResv c sc), (24, 8, b.peakRam)]
  | 0x058 =>
    let held := (b.wb.filter fun w => w.closed && !w.retry && w.bound != [] && !w.mir).length
    pack [(0, 7, b.wb.length), (8, 6, s.gResvW c sc), (16, 7, held), (24, 7, b.peakWb)]
  | 0x05C => pack [(0, 16, b.wcrcRetry), (16, 8, b.wcrcCapar), (24, 8, b.wcrcFail)]
  | 0x078 => st ||| pack [(17, 1, b2n (b.flex.contains (s.esc.frame, true)))]
  | _ =>
    if 0x060 ≤ off ∧ off < 0x078 then loW (Tbl.get (fun _ => 0) b.exc ((off - 0x060) / 4))
    else if 0x400 ≤ off ∧ off < 0x600 then s.reg (.slt c sc) (off + 0x200)
    else st

/-- A delay in a half of PHY_LANE_DLY, or a code. -/
def Slew.pair (v : Slew) (w : Nat) : Nat × Nat := ((v.live % (2 ^ w : Int)).toNat, (v.target % (2 ^ w : Int)).toNat)

/-- A value is in motion. -/
def Slew.moving (v : Slew) : Bool := v.live != v.target

/-- A PHY page (R572 to R577, R949). -/
def State.readPhy (s : State) (c off : Nat) : Word :=
  let ch := s.chan c
  let b := ch.bal
  let sel := s.reg (.phy c) 0x04C
  let lane := fld sel 0 4
  let p := s.rankPos (fld sel 4 1) (fld sel 5 3)
  let v := fun k => s.phyVal c k
  match off with
  | 0x044 => pack [(0, 1, b2n (s.locked && (s.page (.phy c)).en)), (1, 1, b2n (ch.sr == .idleSr || ch.sr == .parked)),
                   (2, 1, b2n ((s.calref (c / 2)).st != 0 && !(s.calref (c / 2)).startFault)), (3, 1, b2n (b.vals.any fun e => e.2.moving))]
  | 0x048 =>
    let r := s.calref (c / 2)
    pack [(0, 12, min 4095 r.meas), (12, 2, r.st), (14, 1, b2n r.warn), (15, 1, b2n r.startFault), (16, 4, c / 2), (24, 8, r.faults)]
  | 0x050 =>
    let item := fld sel 8 3
    if 5 < item then 0
    else
      let x := (v (valKey item (if item = 4 then 4 * fld sel 4 1 else p) lane)).pair 16
      pack [(0, 16, x.1), (16, 16, x.2)]
  | 0x054 =>
    let r := (v (valKey 6 (4 * fld sel 4 1) lane)).pair 8
    let w := (v (valKey 7 p lane)).pair 8
    pack [(0, 8, r.1), (8, 8, r.2), (16, 8, w.1), (24, 8, w.2)]
  | 0x058 =>
    let x := fun i => ((v (valKey 8 0 i)).pair 7).1
    pack [(0, 7, x 0), (8, 7, x 1), (16, 7, x 2)]
  | _ => s.stored (.phy c) off

/-- Bytes of a deskew list from one on, as a word. -/
def deskewWord (l : List Nat) (i : Nat) : Word := pack ((List.range 4).map fun j => (8 * j, 8, l.getD (i + j) 0))

/-- A CAL page (R565 to R570). -/
def State.readCal (s : State) (c off : Nat) : Word :=
  let k := s.cal c
  let sel := s.reg (.cal c) 0x04C
  let step := fld sel 8 4
  let r := if [2, 3, 4, 5, 8, 9, 11].contains step then
      Tbl.get (fun _ => ({} : CalRes)) k.res (resKey step (fld sel 4 1) (fld sel 5 3) (fld sel 0 4))
    else {}
  match off with
  | 0x044 => pack [(0, 2, (s.chan c).calState), (2, 1, b2n k.restored), (3, 1, b2n k.failed), (4, 1, b2n k.jwlPending),
                   (5, 1, b2n k.jwlWritten), (8, 8, k.elapsed), (16, 16, k.runs)]
  | 0x048 => pack [(0, 4, k.step), (4, 1, k.stepSc), (5, 3, k.stepRk), (8, 8, k.progress), (16, 2, k.tries)]
  | 0x050 => pack [(0, 16, r.dly), (16, 8, r.vref)]
  | 0x054 =>
    if step = 11 then pack [(0, 8, r.eyeW), (8, 8, r.eyeH), (16, 8, r.wrW), (24, 8, r.wrH)]
    else pack [(0, 8, r.eyeW), (8, 8, r.eyeH), (16, 2, r.tries)]
  | 0x058 => deskewWord r.deskew 0
  | 0x05C => deskewWord r.deskew 4
  | 0x060 => pack [(0, 16, k.failWord), (16, 8, k.restoreFails), (24, 8, k.runFails)]
  | _ => s.stored (.cal c) off

/-- A BAL page (R617 to R621). -/
def State.readBal (s : State) (c off : Nat) : Word :=
  let b := (s.chan c).bal
  let stop := (List.range 2).any fun sc => match (s.sub c sc).stop with | some x => x.started | none => false
  match off with
  | 0x044 =>
    let st := if !s.balMay c then 2 else if stop then 3 else if b.running then 1 else 0
    pack [(0, 2, st), (2, 1, b2n (b.running && b.trig != 0)), (3, 3, b.lastTrig), (8, 8, b.lastFrames), (16, 16, b.runs)]
  | 0x048 => pack [(0, 16, b.rejTotal), (16, 8, b.rejLane), (24, 4, b.lastReason), (28, 4, b.rejCalref)]
  | 0x04C => b.laneEvt
  | 0x050 =>
    let mov := b.vals.filter fun e => e.2.moving
    let dly := mov.filter fun e => e.1 / 256 ≤ 5 || e.1 / 256 == 9
    let dist := dly.foldl (fun (a : Nat) e => max a (e.2.live - e.2.target).natAbs) 0
    pack [(0, 8, min 255 dly.length), (8, 8, min 255 (mov.filter fun e => e.1 / 256 == 6 || e.1 / 256 == 7).length),
          (16, 1, b2n (mov.any fun e => e.1 / 256 == 8)), (24, 8, min 255 dist)]
  | 0x054 => pack [(0, 16, b.stops), (16, 8, b.escal)]
  | _ => s.stored (.bal c) off

/-- The Burl control page (R701 to R706). -/
def State.readBrl (s : State) (c off : Nat) : Word :=
  let b := (s.chan c).brl
  let a := s.sub c 0
  let fb := fun sc => b2n ((s.sub c sc).fallback || (!(s.page (.brl c)).en && (s.chan c).calState == 3))
  match off with
  | 0x048 => pack [(0, 1, fb 0), (1, 1, fb 1), (2, 1, b2n (a.split != 0)), (3, 1, b2n (a.split == 2)),
                   (4, 1, b2n ((List.range 2).any fun sc => (s.sub c sc).split != splitOf (s.reg (.brl c) 0x044))),
                   (5, 1, b2n a.win2x), (16, 16, a.winSeq)]
  | 0x060 => pack [(0, 16, b.trig), (16, 8, b.fbRfm), (24, 8, b.emerg)]
  | _ => if 0x050 ≤ off ∧ off < 0x060 then b.data.getD ((off - 0x050) / 4) 0 else s.stored (.brl c) off

/-- The Burl heat page (R707, R708). -/
def State.readHeat (s : State) (c off : Nat) : Word :=
  let b := (s.chan c).brl
  if off = 0x040 then
    pack [(0, 16, b.seq), (16, 4, b.scale), (20, 9, b.list.length), (29, 1, b2n b.skipped), (31, 1, b2n b.valid)]
  else if 0x100 ≤ off ∧ off < 0x900 then
    match b.list[(off - 0x100) / 8]? with
    | none => 0
    | some r =>
      if off % 8 = 0 then loW r.page else pack [(0, 8, r.page / 2 ^ 32), (8, 12, r.itag), (20, 12, r.sum / 2 ^ b.scale)]
  else 0

/-- A word of an error-log entry. -/
def LogEnt.word (e : LogEnt) (i : Nat) : Word := if i = 0 then e.w0 else if i = 1 then e.w1 else if i = 2 then e.w2 else e.w3

/-- Word `i` of an entry of a channel's log. -/
def State.logWord (s : State) (c n i : Nat) : Word := (Tbl.get (fun _ => ({} : LogEnt)) (s.chan c).elog.ring n).word i

/-- The error-log control page (R655, R667 to R670). -/
def State.readElog (s : State) (c off : Nat) : Word :=
  let g := (s.chan c).elog
  match off with
  | 0x044 => pack [(0, 8, g.next), (8, 24, g.seq)]
  | 0x048 => pack [(0, 16, g.ceCnt), (16, 8, g.ueCnt), (24, 8, g.markCnt)]
  | 0x04C => pack ((List.range 8).map fun p => (4 * p, 4, (g.markOf p).getD 15))
  | _ =>
    if 0x100 ≤ off ∧ off < 0x900 then s.logWord c ((off - 0x100) / 16) ((off - 0x100) / 4 % 4) else s.stored (.elog c) off

/-! ### Count boxes (R934 to R940) -/

/-- A register of the counters of a box, from a capture of them. -/
def CntBank.read (k : CntBank) (off : Nat) : Word :=
  let h := off / 4 % 2
  if off = 0x040 ∨ off = 0x044 then half64 k.fixed h
  else if 0x080 ≤ off ∧ off < 0x0C0 then half48 (Tbl.get (fun _ => 0) k.vals ((off - 0x080) / 8)) h
  else if 0x100 ≤ off ∧ off < 0x150 then half48 (k.quads.getD ((off - 0x100) / 8) 0) h
  else 0

/-- A register that holds a counter. -/
def isCounter (off : Nat) : Bool :=
  off == 0x040 || off == 0x044 || (decide (0x080 ≤ off) && decide (off < 0x0C0)) || (decide (0x100 ≤ off) && decide (off < 0x150))

/-- A CNT page. -/
def State.readCnt (s : State) (b off : Nat) : Word :=
  let k := s.cnt b
  let st := s.stored (.cnt b) off
  if isCounter off then
    if off % 4 ≠ 0 then 0
    else (if flag (s.reg (.cnt b) 0x048) 1 then k.bank else s.capture b).read off
  else if off = 0x048 then st ||| pack [(2, 1, b2n k.snapMiss), (3, 1, b2n k.snapMan), (16, 16, k.bank.frame)]
  else if off = 0x050 then st &&& 0xFFFDFFFF
  else if 0x0C0 ≤ off ∧ off < 0x0D0 then Tbl.get (fun _ => 0) k.sample ((off - 0x0C0) / 4)
  else st

/-! ### The torus (R729, R753 to R758) -/

/-- Where the header of a packet in flight stands: the router, the output port it heads for, and its virtual channel. -/
def State.pktAt (s : State) (p : Pkt) : Option (Nat × Nat × Bool) :=
  if (p.waiting ∧ !p.stuck) ∨ (!p.stuck ∧ (s.bclk < p.inj ∨ p.arr ≤ s.bclk)) then none
  else
    let l := s.path p.dst 13 (s.attach p.src)
    let vs := pathVc l none false
    let i := if p.stuck then (l.findIdx? fun x => some x.1 == s.stuckAt p).getD 0 else min ((s.bclk - p.inj) / 2) (l.length - 1)
    vs[i]?

/-- Flits a router holds (R737). -/
def State.flitsAt (s : State) (n : Nat) : Nat :=
  s.pkts.foldl (fun (a : Nat) p => match s.pktAt p with | some x => if x.1 = n then a + p.body.flits else a | none => a) 0

/-- Credits that router `n` holds for output port `q` in virtual channel `v`: four less the flits that the router downstream
holds (R758). -/
def State.credits (s : State) (n q v : Nat) : Nat :=
  let m := neighbour n q
  let down := s.pkts.foldl (fun (a : Nat) p =>
    match s.pktAt p with
    | some x =>
      let prev := ((s.path p.dst 13 (s.attach p.src)).zip ((s.path p.dst 13 (s.attach p.src)).drop 1)).any fun y =>
        y.1 == (n, q) && y.2.1 == m
      if x.1 = m ∧ prev ∧ 2 * p.body.cls + b2n x.2.2 = v ∧ q < 4 then a + p.body.flits else a
    | none => a) 0
  4 - down

/-- A TRT page. -/
def State.readTrt (s : State) (n off : Nat) : Word :=
  match off with
  | 0x044 => s.trtStat n
  | 0x048 => pack [(0, 16, s.trt.epoch), (16, 1, b2n s.trt.active), (17, 1, b2n s.trt.announced), (18, 1, b2n s.trt.hold),
                   (19, 1, b2n s.trt.loss), (20, 1, b2n s.trt.clearPend), (21, 1, b2n s.trt.double)]
  | 0x050 => let f := s.flitsAt n; pack [(0, 8, f), (8, 8, f), (16, 8, (s.rtr n).lost)]
  | _ =>
    if 0x054 ≤ off ∧ off < 0x06C then pack ((List.range 6).map fun q => (3 * q, 3, s.credits n q ((off - 0x054) / 4)))
    else s.stored (.trt n) off

/-! ### The Lathe (R803 to R813) -/

/-- An engine page. -/
def State.readLth (s : State) (e off : Nat) : Word :=
  let w := s.le e
  match off with
  | 0x044 =>
    let run := (s.rings.filter fun x => x.2.ctx.st == 2 && s.srvOf x.1 == e).length
    pack [(0, 12, w.cached.length), (12, 2, w.st), (14, 1, b2n (decide (2 ≤ (s.le (1 - e)).st))), (15, 17, min 131071 run)]
  | 0x048 => pack [(0, 11, w.ops.length), (11, 11, w.bufs), (22, 10, min 1023 (w.ops.filter fun o => o.st == .held).length)]
  | 0x04C => loW w.ctxHit
  | 0x050 => loW w.ctxMiss
  | 0x054 => pack [(0, 8, w.dbRej), (8, 8, w.dbStale), (16, 8, w.halts), (24, 8, w.lateFail)]
  | _ => s.stored (.lth e) off

/-- The pool page. -/
def State.readPool (s : State) (off : Nat) : Word :=
  match off with
  | 0x04C => loW (262144 - (s.rings.filter fun x => x.2.ctx.st != 0).length)
  | 0x050 => s.stored .lthPool off ||| pack [(21, 1, b2n s.pool.busy), (22, 3, s.pool.result)]
  | 0x054 =>
    let r := s.regFld .lthPool 0x050 0 18
    let x := (s.ring r).ctx
    pack [(0, 12, x.itag), (12, 8, x.gen), (20, 3, x.st), (23, 1, s.srvOf r), (24, 5, x.log2)]
  | _ => s.stored .lthPool off

/-! ### Instances (R709, R842, R852 to R858) -/

/-- An entry of an instance's heat list; empty entries carry SEQ3. -/
def Ins.heatWord (x : Ins) (n h : Nat) : Word :=
  let r : InsHeat := x.heat.getD n {}
  if h = 0 then loW r.page
  else pack [(0, 8, r.page / 2 ^ 32), (8, 5, r.ch), (13, 4, r.scale), (17, 3, x.heatSeq), (20, 12, r.sum / 2 ^ r.scale)]

/-- The selected entry of INS_ELOG_ENT as an instance sees it (R842): its own under its present generation, else zeros. -/
def State.insElogWord (s : State) (i w : Nat) : Word :=
  let sel := s.reg (.ins i) 0x104
  let c := fld sel 0 5
  if 16 < c then 0
  else
    let e := Tbl.get (fun _ => ({} : LogEnt)) (s.chan c).elog.ring (fld sel 5 8)
    if flag e.w0 0 ∧ fld e.w2 0 12 = i ∧ fld e.w2 12 8 = s.genOf i then e.word w else 0

/-- An INS page; while its EN is 0 function registers read 0 (R93). -/
def State.readIns (s : State) (i off : Nat) : Word :=
  let x := s.insOf i
  if !(s.page (.ins i)).en then 0
  else match off with
  | 0x040 =>
    pack [(0, 3, x.st), (3, 1, b2n x.direct), (4, 1, b2n x.elastic), (5, 1, b2n x.resetDone),
          (6, 1, b2n ((List.range 17).any fun c => (s.chan c).shareChg.any fun y =>
            y.1 == i && decide (y.2.2.2 < s.esc.frame) && decide (y.2.1 < (s.chan c).shareOf i))),
          (8, 19, (s.ringsOf i).length)]
  | 0x044 => pack [(0, 8, s.genOf i), (8, 8, x.resets)]
  | 0x100 => pack [(0, 16, x.elogCnt), (16, 5, x.lastCh), (21, 8, x.lastIdx), (31, 1, b2n x.lastValid)]
  | _ =>
    if 0x080 ≤ off ∧ off < 0x0C0 then half64 (Tbl.get (fun _ => 0) x.tally ((off - 0x080) / 8)) (off / 4 % 2)
    else if 0x108 ≤ off ∧ off < 0x118 then s.insElogWord i ((off - 0x108) / 4)
    else if 0x200 ≤ off ∧ off < 0xA00 then x.heatWord ((off - 0x200) / 8) (off / 4 % 2)
    else s.stored (.ins i) off

/-! ### Any register -/

/-- What a 4-byte register holds, with no effect of reading it. An offset that holds no register reads 0 (R84). -/
def State.value (s : State) (p : PageId) (off : Nat) : Word :=
  if off < 0x040 then s.header p off
  else match p with
  | .blk => s.readBlk off
  | .map => s.readMap off
  | .esc => s.readEsc off
  | .mvc => s.readMvc off
  | .jwl => s.readJwl off
  | .crn => s.readCrn off
  | .gw g => s.readGw g off
  | .gwAdm g => s.readGwAdm g off
  | .cnt b => s.readCnt b off
  | .cc c => s.readCc c off
  | .slt c sc => s.readSlt c sc off
  | .phy c => s.readPhy c off
  | .cal c => s.readCal c off
  | .bal c => s.readBal c off
  | .brl c => s.readBrl c off
  | .brlHeat c => s.readHeat c off
  | .elog c => s.readElog c off
  | .elog2 c => if 0x100 ≤ off ∧ off < 0x900 then s.logWord c (128 + (off - 0x100) / 16) ((off - 0x100) / 4 % 4) else 0
  | .trt n => s.readTrt n off
  | .lth e => s.readLth e off
  | .lthPool => s.readPool off
  | .ins i => s.readIns i off

/-- What a register reads as by its reset value, which for these registers is not what the state after reset would show. -/
def resetRead (p : PageId) (off : Nat) : Word :=
  match p with
  | .cc _ => if off = 0x064 then 31 else if off = 0x06C then 0 else if 0x100 ≤ off ∧ off < 0x150 then 4096 else State.reset.value p off
  | .brl _ => if off = 0x048 then 0 else State.reset.value p off
  | .jwl => if off = 0x04C then 0 else State.reset.value p off
  | _ => State.reset.value p off

/-- A register as a read shows it: until BCLK locks, every page reads its reset values (R502), but for the state of start-up. -/
def State.regValue (s : State) (p : PageId) (off : Nat) : Word :=
  if s.locked then s.value p off
  else if p = .blk ∧ off = 0x00C then s.pgStat .blk
  else resetRead p off

end Sys2Proof.Machine
end

