-- ==== Sys2Proof/Machine/Access.lean ====
section
/-! DEFINITION. Register accesses (R81 to R106, R126 to R135, R182, R481): who may reach and write what, the effect of a write
and of a read, and the requests that come through the ports. -/
namespace Sys2Proof.Machine

/-! ### Who may (R94, R100 to R103, R126, R128, R133, R502, R845, R931) -/

/-- The offset lies in mailbox 0 or 1 of the BLK page. -/
def inMb (p : PageId) (off m : Nat) : Bool := p == .blk && decide (0x100 + 0x80 * m ≤ off) && decide (off < 0x150 + 0x80 * m)

/-- A register that stays open at the basic level (R126). -/
def openReg (p : PageId) (off : Nat) : Bool :=
  match p with
  | .blk => inMb p off 0 || [0x044, 0x058, 0x05C, 0x060, 0x064, 0x068].contains off
  | .ins _ => off == 0x048 || off == 0x04C || off == 0x104
  | _ => false

/-- The source may write the register (R93, R94, R103, R126, R128, R133, R502, R845, R931). The Crown port's write of a function register
before phase 7 is answered ACCESS, as the manager's is (DESIGN CHOICE: log entry 58). -/
def State.mayWrite (s : State) (src : Src) (p : PageId) (off : Nat) : Bool :=
  let pg := s.page p
  let insOff := match p with | .ins _ => !pg.en && decide (0x040 ≤ off) && (regRow p off).isSome | _ => false
  match src with
  | .crown _ => !inMb p off 0 && !insOff && (decide (7 ≤ s.phase) || decide (off < 0x040) || openReg p off || inMb p off 1 || (regRow p off).isNone)
  | .movement => !pg.expert
  | .fabric _ itag priv =>
    let own := match p with
      | .ins i => i == itag && [0x010, 0x014, 0x048, 0x04C, 0x104].contains off
      | _ => false
    if insOff ∨ inMb p off 1 then false
    else if itag ≠ 0 then own
    else if (match p with | .cnt _ => !priv | _ => false) then false
    else if off = 0x008 then priv
    else if off < 0x040 ∧ off ≠ 0x01C then true
    else if openReg p off then (match p with | .ins _ => own | _ => priv)
    else if s.phase < 7 ∧ 0x040 ≤ off then false
    else pg.expert || (off ≠ 0x01C && (regRow p off).isNone)

/-- The source may read the register (R133). -/
def mayRead (src : Src) (p : PageId) (off : Nat) : Bool :=
  match src with
  | .crown _ => !inMb p off 0
  | .fabric _ _ _ => !inMb p off 1
  | .movement => true

/-! ### PG_CTL (R28, R29, R92 to R94, R130, R131) -/

/-- Clearing EN is refused (R28, R93). -/
def State.enHeld (s : State) (p : PageId) : Bool :=
  match p with
  | .blk => true | .map => true | .mvc => true | .crn => true | .trt _ => true
  | .esc => (List.range 17).any fun c => (s.chan c).inService
  | .cc c | .slt c _ | .phy c | .cal c | .elog c | .elog2 c => !((s.chan c).role == 31 && (s.chan c).calState == 0)
  | _ => false

/-- ESC_EN_SET (R29): the frames start at once. The first of them opens with slot 0 in this BCLK, and the first tick comes one whole
frame later (DESIGN CHOICE: the spec says when the frames start and not when the first tick is; log entry 58). EN set again after an accepted
clear and before the last tick takes the clear back, and the frames run on (DESIGN CHOICE: log entry 58). -/
def State.escStart (s : State) : State :=
  let s := s.updPage .esc fun pg => { pg with en := true, enReq := true }
  if s.esc.running then { s with esc := { s.esc with stopping := false } }
  else { s with esc := { s.esc with running := true, stopping := false, tickBclk := s.bclk, restart := true, latched := false } }

/-- ESC_EN_CLEAR (R28, R29): the next tick will be the last. -/
def State.escStop (s : State) : State :=
  if s.enHeld .esc then s.setErr .esc 0x008 8
  else { s.updPage .esc (fun pg => { pg with enReq := false }) with esc := { s.esc with stopping := true } }

/-- The value of EN is changed as R92 gives. Where the Crown port and Movement both change it for one tick, the Crown's value stands and
Movement's is discarded (R104). -/
def State.writeEn (s : State) (src : Src) (p : PageId) (en : Bool) : State :=
  let pg := s.page p
  let put := fun (s : State) (n : Nat) => s.updPage p fun pg => { pg with enReq := en, enBy := n }
  if en = pg.enReq then s
  else if p = .esc then
    if en then s.escStart else { s.updPage .esc (fun pg => { pg with enReq := false }) with esc := { s.esc with stopping := true } }
  else match src with
    | .movement => if pg.enBy = 2 then s.overrun 6 (p.chan.getD 255) else put s 1
    | .crown _ => put (if pg.enBy = 1 then s.overrun 6 (p.chan.getD 255) else s) 2
    | .fabric _ _ _ => put s 0

/-- A write of PG_CTL (R92 to R94, R130, R131, R502). Before phase 7 the Crown port's is refused as the manager's is (R502 makes Movement the
only writer and gives the Crown port no answer of its own: DESIGN CHOICE, log entry 58). -/
def State.writeCtl (s : State) (src : Src) (p : PageId) (v : Word) : State :=
  let pg := s.page p
  let en := flag v 0
  let mvc : Bool := match src with | .movement => true | _ => false
  if !mvc ∧ s.phase < 7 then s.setErr p 0x008 8
  else if mvc then
    if !en ∧ pg.enReq ∧ s.enHeld p then s.setErr p 0x008 8 else s.writeEn src p en
  else
    let ex := flag v 1 && p.expertOk
    if (ex ≠ pg.expert ∧ (s.cmtShown p ≠ .idle ∨ pg.pendingCmt)) ∨ (ex ∧ !pg.expert ∧ s.mvcShown p) then s.setErr p 0x008 7
    else if !en ∧ pg.enReq ∧ s.enHeld p then s.setErr p 0x008 8
    else (s.writeEn src p en).updPage p fun x =>
      { x with expert := ex, user := flag v 2 && p.userOk, shadowView := flag v 3,
               mvcActive := x.mvcActive || (pg.expert && !ex) }

/-! ### Writes of function registers -/

/-- A mailbox GO (R135, R520): BUSY sets and DONE clears; while Movement is halted the command ends at once with OFFLINE. -/
def State.mbGo (s : State) (m : Nat) : State :=
  let s := s.updMbx m fun x => { x with go := true, busy := true, done := false }
  if s.mvc.halted then s.mbDone m 3 0 [] else s

/-- A write of a mailbox register (R134, R135). -/
def State.writeMb (s : State) (m o : Nat) (v : Word) : State × Nat :=
  let x := s.mbx m
  let arg := decide (0x10 ≤ o) && decide (o < 0x30)
  if o = 0x00 ∨ o = 0x04 ∨ arg then
    if x.busy then (s, 8)
    else if o = 0x00 then (s.updMbx m fun x => { x with cmd := fld v 0 16, seq := fld v 16 8 }, 0)
    else if o = 0x04 then (if flag v 0 then s.mbGo m else s, 0)
    else (s.updMbx m fun x => { x with args := Tbl.set (fun _ => 0) x.args ((o - 0x10) / 4) v }, 0)
  else (s, 0)

/-- BLK_INT_CFG_WRITE (R119): setting EN arms the path. -/
def State.intCfg (s : State) (v : Word) : State :=
  let arm := flag v 4 && !s.blk.intEn
  { s with blk := { s.blk with
      intPort := fld v 0 4, intEn := flag v 4,
      intArmed := s.blk.intArmed || arm,
      armedAt := if arm then s.bclk else s.blk.armedAt } }

/-- BLK_INT_EOI (R115, R120): the path is armed again, and the next message leaves at once if there is one to send. -/
def State.intEoi (s : State) (v : Word) : State :=
  if flag v 0 then { s with blk := { s.blk with intArmed := true, armedAt := s.bclk } }.intAtOnce else s

/-- BLK_RESET (R517, R518, R526, R915): `crc` says that the intent region passes its check at a restart of Movement. -/
def State.blkReset (s : State) (v : Word) (crc : Bool) : State :=
  let s := s.chRst (fld v 0 17)
  let s := if flag v 17 then s.mvcRestartCmd crc else s
  if flag v 18 then s.cntClrAll else s

/-- The low or high part of an address register is replaced. -/
def putHalf (a : Nat) (hi : Bool) (v : Word) (w : Nat) : Nat :=
  if hi then a % 2 ^ 32 + fld v 0 w * 2 ^ 32 else a / 2 ^ 32 * 2 ^ 32 + v.toNat

/-- A write of a register of the BLK page. A write of BLK_INT_ADDR_HI leaves the HI half that an earlier read of the LO half has latched
(DESIGN CHOICE: R85 does not say whether a write lets go of it; log entry 58). -/
def State.writeBlk (s : State) (off : Nat) (v : Word) : State × Nat :=
  if inMb .blk off 0 then s.writeMb 0 (off - 0x100) v
  else if inMb .blk off 1 then s.writeMb 1 (off - 0x180) v
  else (match off with
    | 0x044 => s.blkReset v true
    | 0x058 => { s with blk := { s.blk with intAddr := putHalf s.blk.intAddr false (v &&& 0xFFFFFFFC) 20 } }
    | 0x05C => { s with blk := { s.blk with intAddr := putHalf s.blk.intAddr true v 20 } }
    | 0x060 => { s with blk := { s.blk with intData := v } }
    | 0x064 => s.intCfg v
    | 0x068 => s.intEoi v
    | _ => s, 0)

/-- ESC_OVR_CLR (R75). -/
def State.ovrClr (s : State) (v : Word) : State :=
  { s with esc := { s.esc with ovrCnt := s.esc.ovrCnt.filter fun e => !flag v e.1,
                               slipCnt := if flag v 8 then 0 else s.esc.slipCnt } }

/-- MAP_XLATE (R259, R260): a write of HI starts a forward decode under the epoch in force. -/
def State.mapXlate (s : State) (hi : Word) : State :=
  let h := hi &&& 0xFFFFF
  let r := s.xlate (s.map.xlateLo.toNat + h.toNat * 2 ^ 32)
  { s with map := { s.map with xlateHi := h, xlateRes := r } }

/-- SNAP (R917): the capture goes directly into the bank. -/
def State.snap (s : State) (b : Nat) : State :=
  let k := s.capture b
  s.updCnt b fun c => { c with bank := k, capture := none, snapMan := true }

/-- CNT_SNAP (R915, R917, R929, R936). -/
def State.cntSnap (s : State) (b : Nat) (v : Word) : State :=
  let s := if flag v 0 then s.snap b else s
  let s := if flag v 1 ∧ b < 17 then s.updCnt b fun c => { c with quadClr := true } else s
  if flag v 2 then s.cntClear b else s

/-- A write of a half of CNT_VALn (R914). -/
def State.cntVal (s : State) (b n : Nat) (hi : Bool) (v : Word) : State :=
  s.updCnt b fun c => { c with vals := Tbl.upd (fun _ => 0) c.vals n fun x => putHalf x hi v 16 }

/-- A write of LTH_RING_SEL (R93, R812). -/
def State.ringSel (s : State) (v : Word) : State :=
  let s := s.setReg .lthPool 0x050 (v &&& regMask .lthPool 0x050)
  let cmd := fld v 18 3
  if (s.page .lthPool).en then s.ringCmd (fld v 0 18) cmd
  else if 1 ≤ cmd ∧ cmd ≤ 3 ∧ !s.pool.busy then { s with pool := { s.pool with result := 1 } }
  else s

/-- A write of BRL_IDX samples the selection (R704). -/
def State.brlIdx (s : State) (c : Nat) (v : Word) : State :=
  let v := v &&& regMask (.brl c) 0x04C
  let s := s.setReg (.brl c) 0x04C v
  s.updChan c fun ch => { ch with brl := { ch.brl with data := s.brlSample c v } }

/-- A write of a stored register: an RW register, or the shadow of an RS register (R86, R105, R106). It lets go of what a read of the LO
half has latched for it (DESIGN CHOICE: R85 does not say so; log entry 58). -/
def State.writeStored (s : State) (p : PageId) (off : Nat) (v : Word) : State :=
  match regRow p off with
  | none => s
  | some r =>
    let v := v &&& regMask p off
    let s := s.updPage p fun pg => { pg with hiHeld := pg.hiHeld.filter fun e => e.1 != off }
    match r.acc with
    | .rs => if s.rsLocked p then s.setErr p off 3 else s.setShd p off v
    | .rw => s.setReg p off v
    | _ => s

/-- The effect of a 4-byte write of a function register, and the status it is answered with. -/
def State.writeFn (s : State) (p : PageId) (off : Nat) (v : Word) : State × Nat :=
  match p with
  | .blk => if off = 0x040 ∨ off = 0x048 then (s.writeStored p off v, 0) else s.writeBlk off v
  | .map =>
    (if off = 0x418 then { s with map := { s.map with xlateLo := v } } else if off = 0x41C then s.mapXlate v
     else s.writeStored p off v, 0)
  | .esc => (if off = 0x09C then s.ovrClr v else s.writeStored p off v, 0)
  | .crn => (if off = 0x050 then s.injGo v else s.writeStored p off v, 0)
  | .gw g => (if off = 0x05C then (if flag v 0 then s.gwFlush g else s) else s.writeStored p off v, 0)
  | .cc c =>
    (if off = 0x070 ∧ flag v 18 then s.i3cGo c v else if off = 0x080 ∧ flag v 21 then s.mrGo c v
     else s.writeStored p off v, 0)
  | .brl c => (if off = 0x04C then s.brlIdx c v else s.writeStored p off v, 0)
  | .cnt b =>
    (if off = 0x04C then s.cntSnap b v
     else if 0x080 ≤ off ∧ off < 0x0C0 ∧ off % 4 = 0 then s.cntVal b ((off - 0x080) / 8) (off % 8 == 4) v
     else s.writeStored p off v, 0)
  | .lthPool => (if off = 0x050 then s.ringSel v else s.writeStored p off v, 0)
  | .ins i =>
    (if off = 0x048 then s.setReg p 0x048 v
     else if off = 0x04C then s.ringBell i (s.reg p 0x048).toNat v.toNat s.bclk
     else s.writeStored p off v, 0)
  | _ => (s.writeStored p off v, 0)

/-- PG_ISR, PG_IMR or PG_ISET is written (R96, R97). -/
def State.writeIrq (s : State) (p : PageId) (off : Nat) (v : Word) : State :=
  s.updPage p fun pg =>
    if off = 0x010 then { pg with isr := pg.isr &&& ~~~(if pg.evtAt = s.bclk then v &&& ~~~pg.evt else v) }
    else if off = 0x014 then { pg with imr := v }
    else { pg with isr := pg.isr ||| (v &&& BitVec.ofNat 32 p.isrMask) }

/-- The effect of a 4-byte write that its source may make, and the status it is answered with. PG_COMMIT_FRAME written while a commit is
armed reads as written from then on, and the commit keeps its frame (DESIGN CHOICE: log entry 58). -/
def State.writeReg (s : State) (src : Src) (p : PageId) (off : Nat) (v : Word) : State × Nat :=
  if !s.locked then (s, 0)
  else if 0x040 ≤ off then s.writeFn p off v
  else
    (match off with
     | 0x008 => s.writeCtl src p v
     | 0x010 => (match p with | .ins i => s.insIrqWrite i fun s => s.writeIrq p off v | _ => s.writeIrq p off v)
     | 0x014 => (match p with | .ins i => s.insIrqWrite i fun s => s.writeIrq p off v | _ => s.writeIrq p off v)
     | 0x018 => s.writeIrq p off v
     | 0x01C => s.writeCommit p v (match src with | .movement => true | _ => false)
     | 0x020 => s.updPage p fun pg => { pg with commitFrame := v }
     | _ => s, 0)

/-! ### Reads (R85, R97, R99, R912, R913, R918, R920, R928) -/

/-- The LO half of an RO pair whose read latches HI (R37, R71, R77, R85, R114, R627, R855). -/
def roLo (p : PageId) (off : Nat) : Bool :=
  match p with
  | .blk => off == 0x050
  | .esc => [0x040, 0x048, 0x058, 0x060].contains off
  | .slt _ _ => off == 0x048
  | .jwl => off == 0x050
  | .ins _ => decide (0x080 ≤ off) && decide (off < 0x0C0) && off % 8 == 0
  | _ => false

/-- The LO half of a pair of stored registers (R85, R117, R251, R253, R255, R809, R903). -/
def storedLo (p : PageId) (off : Nat) : Bool :=
  match p with
  | .blk => off == 0x058
  | .map => off % 8 == 0 && ((decide (0x040 ≤ off) && decide (off < 0x0C0)) || (decide (0x100 ≤ off) && decide (off < 0x400)) || off == 0x408)
  | .crn => off == 0x048
  | .lthPool => off == 0x040
  | _ => false

/-- The counters chained above counter `n` without a break (R910, R912). -/
def State.chainAbove (s : State) (b : Nat) : Nat → Nat → List Nat
  | 0, _ => []
  | fuel + 1, n => if n < 7 ∧ s.chained b (n + 1) then (n + 1) :: s.chainAbove b fuel (n + 1) else []

/-- The registers that a read of a counter's register latches (R85, R912, R920, R928, R934). -/
def State.latchSet (s : State) (b off : Nat) : List Nat :=
  if off = 0x040 then [0x044]
  else if 0x080 ≤ off ∧ off < 0x0C0 ∧ off % 8 = 0 then
    (off + 4) :: (s.chainAbove b 8 ((off - 0x080) / 8)).flatMap fun m => [0x080 + 8 * m, 0x084 + 8 * m]
  else if off = 0x0C0 then [0x0C4, 0x0C8, 0x0CC]
  else if (off = 0x100 ∨ off = 0x120) ∧ b < 17 then
    rangeFrom 1 7 |>.map (fun i => off + 4 * i) |>.append [0x140 + (off - 0x100) / 4, 0x144 + (off - 0x100) / 4]
  else if 0x100 ≤ off ∧ off < 0x150 ∧ off % 8 = 0 ∧ b < 17 then [off + 4]
  else []

/-- The latched value of a register of a box. -/
def Cnt.latched (c : Cnt) (off : Nat) : Option Word :=
  (c.latch.flatMap id).find? (fun e => e.1 == off) |>.map fun e => e.2.1

/-- A latched register has been read: a group all of whose registers have been read lets go. -/
def Cnt.readLatch (c : Cnt) (off : Nat) : Cnt :=
  let mark := fun (g : List (Nat × Word × Bool)) => g.map fun e => if e.1 = off then (e.1, e.2.1, true) else e
  { c with latch := (c.latch.map mark).filter fun g => !(g.all fun e => e.2.2) }

/-- A 4-byte read of a count box's counters. -/
def State.readCounter (s : State) (b off : Nat) : State × Word :=
  let p := PageId.cnt b
  if flag (s.reg p 0x048) 1 then (s, s.regValue p off)
  else match (s.cnt b).latched off with
    | some v => (s.updCnt b fun c => c.readLatch off, v)
    | none =>
      let v := s.regValue p off
      match s.latchSet b off with
      | [] => (s, v)
      | l =>
        let g := l.map fun o => (o, s.regValue p o, false)
        (s.updCnt b fun c => { c with latch := g :: c.latch.filter fun h => !(h.any fun e => l.contains e.1) }, v)

/-- A read of one half of a LO and HI pair, or of a plain register. -/
def State.readHalf (s : State) (p : PageId) (off : Nat) (v : Word) : State × Word :=
  if roLo p off then
    (s.updPage p fun pg => { pg with hi := Tbl.set (resetRead p) pg.hi (off + 4) (s.regValue p (off + 4)) }, v)
  else if 4 ≤ off ∧ roLo p (off - 4) then (s, Tbl.get (resetRead p) (s.page p).hi off)
  else if storedLo p off then
    (s.updPage p fun pg => { pg with hiHeld := (off + 4, s.regValue p (off + 4)) :: pg.hiHeld.filter fun e => e.1 != off + 4 }, v)
  else match (s.page p).hiHeld.find? fun e => e.1 == off with
    | some e => (s.updPage p fun pg => { pg with hiHeld := pg.hiHeld.filter fun x => x.1 != off }, e.2)
    | none => (s, v)

/-- A 4-byte read: its value and what it changes. -/
def State.readReg (s : State) (p : PageId) (off : Nat) : State × Word :=
  let v := s.regValue p off
  if !s.locked then (s, v)
  else if off = 0x024 then
    let r := rcRead (s.page p).errWas s.bclk (s.page p).err
    (s.updPage p fun pg => { pg with err := r.2, errWas := rcRest pg.errWas s.bclk }, r.1)
  else match p with
    | .cnt b => if isCounter off ∨ (0x0C0 ≤ off ∧ off < 0x0D0) then s.readCounter b off else (s, v)
    | .blk =>
      if off = 0x070 then
        let r := rcRead s.blk.badWas s.bclk s.blk.badAcc
        ({ s with blk := { s.blk with badAcc := r.2, badWas := rcRest s.blk.badWas s.bclk } }, r.1)
      else if off = 0x078 then
        let r := rcRead s.blk.refWas s.bclk s.blk.cmtRef
        ({ s with blk := { s.blk with cmtRef := r.2, refWas := rcRest s.blk.refWas s.bclk } }, r.1)
      else s.readHalf p off v
    | .bal c =>
      if off = 0x04C then
        let r := rcRead (s.chan c).bal.laneWas s.bclk (s.chan c).bal.laneEvt
        (s.updBal c fun b => { b with laneEvt := r.2, laneWas := rcRest b.laneWas s.bclk }, r.1)
      else (s, v)
    | _ => s.readHalf p off v

/-- An 8-byte read: both halves of one instant (R85, R913). -/
def State.readWide (s : State) (p : PageId) (off : Nat) : State × Nat :=
  let join := fun (a b : Word) => a.toNat + b.toNat * 2 ^ 32
  if roLo p off ∨ storedLo p off then (s, join (s.regValue p off) (s.regValue p (off + 4)))
  else
    let a := s.readReg p off
    let b := a.1.readReg p (off + 4)
    (b.1, join a.2 b.2)

/-! ### An access -/

/-- A register access at its page: the state it leaves, the status it is answered with, and the data of a read. -/
def State.access (s : State) (src : Src) (addr : Nat) (wide wr : Bool) (data : Nat) : State × Nat × Nat :=
  let s := s.settle
  if addr % (if wide then 8 else 4) ≠ 0 then (s, 4, 0)
  else match pageAt addr with
    | none => (s.badAccess src addr wr false, 2, 0)
    | some p =>
      let off := addr % 4096
      let offs := if wide then [off, off + 4] else [off]
      if wr then
        if offs.all fun o => s.mayWrite src p o then
          let a := s.writeReg src p off (BitVec.ofNat 32 data)
          let b := if wide then
              let b := a.1.writeReg src p (off + 4) (BitVec.ofNat 32 (data / 2 ^ 32))
              (b.1, if a.2 ≠ 0 then a.2 else b.2)
            else a
          (if b.2 = 0 then b.1.ev { box := boxBlk, code := 0x04 } else b.1, b.2, 0)
        else (match src with | .movement => s.standoff | _ => s, 8, 0)
      else if offs.all fun o => mayRead src p o then
        let r := if wide then s.readWide p off else let a := s.readReg p off; (a.1, a.2.toNat)
        (r.1.ev { box := boxBlk, code := 0x04 }, 0, r.2)
      else (s, 8, 0)

/-- The port of the Crown answers to whoever holds it (R902); in FAILED nobody else reaches the pages (R500). -/
def State.holdsPort (s : State) (src : Src) : Bool := match src with | .crown t => t == s.crn.tap | _ => s.phase != 15

/-- A register access made in the present BCLK by its source, with its answer kept. -/
def State.accessNow (s : State) (src : Src) (addr : Nat) (wide wr : Bool) (data : Nat) : State :=
  if !s.holdsPort src then s
  else
    let s := match src with
      | .crown _ => { s with crn := { s.crn with accCnt := wrapAdd 16 s.crn.accCnt 1 } }
      | _ => s
    let r := match src with
      | .fabric _ itag priv =>
        if addr % (if wide then 8 else 4) = 0 ∧ !s.reachesAt itag priv wr addr then (s.badAccess src addr wr true, 8, 0)
        else s.access src addr wide wr data
      | _ => s.access src addr wide wr data
    { r.1 with blk := { r.1.blk with accStatus := r.2.1, accData := r.2.2 } }

/-! ### Requests through a port (R81, R182, R481) -/

/-- The register request of a gateway that reaches the service node first; one whose further way a route hold keeps is none (R486). -/
def State.firstSvc (s : State) (g : Nat) : Option (Pkt × ReqHdr) :=
  (s.pkts.filterMap fun p => match p.body with
    | .svcReq k h => if k = g ∧ !p.waiting ∧ !(s.trt.hold && s.svcLate p h) then some (p, h) else none
    | _ => none).foldl (fun (a : Option (Pkt × ReqHdr)) x => match a with
      | some y => if x.1.arr < y.1.arr then some x else a
      | none => some x) none

/-- The BCLK in which the access of a register request is performed, counted from its arrival at the service node, and that from
the access to the injection of its response (R479, R481). -/
def State.svcLegs (s : State) (h : ReqHdr) : Nat × Nat :=
  match pageOf (h.addr / 4096) with
  | some p =>
    if p.atSvc then (1, 1)
    else let u := p.node; (3 + 2 * s.hops nodeSvc u, 3 + 2 * s.hops u nodeSvc)
  | none => (1, 1)

/-- The node at which a register request's access is performed. -/
def svcNode (h : ReqHdr) : Nat := ((pageOf (h.addr / 4096)).map PageId.node).getD nodeSvc

/-- The BCLK in which a register request's access is performed: a node performs one access in a BCLK (R481). -/
def State.svcWhen (s : State) (p : Pkt) (h : ReqHdr) : Nat :=
  max (p.arr + (s.svcLegs h).1) (Tbl.get (fun _ => 0) s.nodeFree (svcNode h))

/-- A node performs an access in BCLK `t` (R481). -/
def State.nodeUsed (s : State) (n t : Nat) : State := { s with nodeFree := Tbl.set (fun _ => 0) s.nodeFree n (t + 1) }

/-- The flits of the legs between the service node and a unit's node (R722, R925). -/
def State.svcFlits (s : State) (g : Nat) (h : ReqHdr) : State :=
  match pageOf (h.addr / 4096) with
  | some p =>
    if p.atSvc then s
    else
      let u := p.node
      let out := pathVc (s.path u 13 (s.attach nodeSvc)) none false
      let back := pathVc (s.path nodeSvc 13 (s.attach u)) none false
      (s.routeEvents (.svcReq g h) out).routeEvents (.hold 0 {} 0 0) back
  | none => s

/-- One register request of a gateway is performed on its page and its SVC_DONE injected; none where none is due before the
coming tick. -/
def State.svcOne (s : State) (g : Nat) : Option State :=
  match s.firstSvc g with
  | none => none
  | some (p, h) =>
    let legs := s.svcLegs h
    let t := s.svcWhen p h
    if !s.canReach t then none
    else
      let s := (s.goto t).nodeUsed (svcNode h) t
      let s := { s with pkts := eraseFirst (fun q => q == p) s.pkts }.svcFlits g h
      let tr := (s.gw g).tag h.tag
      let r := s.access (.fabric g h.itag h.priv) h.addr h.svcSize h.svcWr h.svcData
      let req := { hdrReq h g 0 h.itag tr.gen (p.ready - 5) tr.at_ with use := 9 }
      some (r.1.inject (.memResp { req := req, status := r.2.1, rkind := 3, svcData := r.2.2 }) nodeSvc (nodeGw g) (t + legs.2))

/-- The register request that is performed next, by its BCLK and its gateway. -/
def State.nextSvc (s : State) : Option (Nat × Nat) :=
  (List.range 16).foldl (fun a g => match s.firstSvc g with
    | none => a
    | some (p, h) =>
      let t := s.svcWhen p h
      match a with
      | some x => if t < x.1 then some (t, g) else a
      | none => some (t, g)) none

/-- Register requests are performed in the order in which they fall due, before the coming tick, while the test holds of the state
and of the BCLK of the next one. -/
def State.svcsWhile (ok : State → Nat → Bool) : Nat → State → State
  | 0, s => s
  | n + 1, s => match s.nextSvc with
    | none => s
    | some (t, g) => if ok s t then (match s.svcOne g with | some s => State.svcsWhile ok n s | none => s) else s

/-- Every register request that falls due before the coming tick is performed. -/
def State.runSvcs (s : State) : State := State.svcsWhile (fun _ _ => true) s.pkts.length s

/-- Those due by BCLK `u` are performed. -/
def State.runSvcsTo (s : State) (u : Nat) : State := State.svcsWhile (fun _ t => decide (t ≤ u)) s.pkts.length s

/-- A register access made in the present BCLK, after every request due before it; a Crown access goes first at its node in its
BCLK (R481). -/
def State.accessHere (s : State) (src : Src) (addr : Nat) (wide wr : Bool) (data : Nat) : State :=
  let s := s.runSvcsTo (s.bclk - 1)
  let s := match src with
    | .crown _ => if s.holdsPort src then s.nodeUsed (((pageOf (addr / 4096)).map PageId.node).getD nodeSvc) s.bclk else s
    | _ => s
  s.accessNow src addr wide wr data

/-- Those due before the next response of a gateway enters E0 are performed; where none is on its way, all are until one of the
gateway's own has been. -/
def State.svcsFor (s : State) (g : Nat) : State :=
  State.svcsWhile (fun s t => match s.nextEgress g with
    | some (_, e, _) => decide (t ≤ e)
    | none => (s.firstSvc g).isSome) s.pkts.length s

/-- SVC_ACCESS (R81, R82, R102, R182): a register request enters the gateway, and is performed once it has reached its page. -/
def State.svcAccess (s : State) (g : Nat) (h : ReqHdr) : State :=
  ((s.flitIn g h.seq fun s => s.headerIn g h).gwAhead fun s => (s.firstSvc g).map fun _ => s.bclk).runSvcs

end Sys2Proof.Machine
end

