-- ==== Sys2Proof/Machine/Frame.lean ====
section
/-! DEFINITION. The frame (R25 to R50): the latch point with what it latches and abandons, and the tick with its steps in the order
of R48. -/
namespace Sys2Proof.Machine

/-- The slot engine of a subchannel runs its table: the channel is awake and in service (R416, R459). -/
def State.subRuns (s : State) (c sc : Nat) : Bool :=
  let ch := s.chan c
  ch.inService && ch.sr == .awake && !ch.calRun && (s.sub c sc).legal && !s.held c sc

/-- Something done for each of the 17 channels, in order. -/
def State.eachCh (s : State) (f : State → Nat → State) : State := (List.range 17).foldl f s

/-- Something done for each of the 34 subchannels, in order. -/
def State.eachSub (s : State) (f : State → Nat → Nat → State) : State :=
  (List.range 34).foldl (fun s i => f s (i / 2) (i % 2)) s

/-! ### Service work at the latch point (R40 to R46) -/

/-- The boxes that a piece of snapshot work serves: a channel's, or for unit 0xFF every other one (R74, R916). -/
def snapBoxes (unit : Nat) : List Nat := if unit < 17 then [unit] else rangeFrom 17 55

/-- A piece of service work of a kind and unit is in progress (R41). -/
def State.working (s : State) (kind unit : Nat) : Bool :=
  let ch := s.chan unit
  match kind with
  | 0 => decide (unit < 17) && ch.bal.running
  | 1 => decide (unit < 17) && ch.bal.vals.any fun e => e.2.moving
  | 2 => decide (unit < 17) && ((ch.sbTxn.any fun t => t.kind != 2) || (s.sub unit 0).mrsRead != [] || (s.sub unit 1).mrsRead != [])
  | 3 => decide (unit < 17) && (ch.brl.cap.isSome || s.windowEnds unit 0 (s.esc.frame + 1) || s.windowEnds unit 1 (s.esc.frame + 1))
  | 4 => (decide (unit < 17) || unit == 255) && (snapBoxes unit).any fun b => (s.cnt b).capture.isSome
  | 5 => unit == 255 && s.ins.any fun e => e.2.fold != []
  | 6 => (decide (unit < 17) || unit == 255) && s.mvc.running
  | _ => false

/-- What the abandonment of a piece of work means beside its count (R41, R44, R679, R697, R916). -/
def State.lateWork (s : State) (kind unit : Nat) : State :=
  if kind = 2 then s.sampleDrop unit
  else if kind = 3 then
    let s := [0, 1].foldl (fun s sc => s.updSub unit sc fun b => { b with winLate := true }) s
    s.updChan unit fun ch => { ch with brl := { ch.brl with
      cap := ch.brl.cap.map fun x => if x.2 ≤ s.esc.frame + 1 then (x.1, s.esc.frame + 2) else x } }
  else if kind = 4 then
    (snapBoxes unit).foldl (fun s b =>
      if (s.cnt b).capture.isSome then
        (s.updCnt b fun c => { c with capture := none, snapMiss := true }).raise (.cnt b) 10
      else s) s
  else s

/-- The work whose result is not staged is abandoned (R44); the coming tick records it. -/
def State.latchWork (s : State) (late : List (Nat × Nat)) : State :=
  let real := late.filter fun x => s.working x.1 x.2
  let s := { s with esc := { s.esc with late := real, ovrDue := s.esc.ovrDue ++ real } }
  real.foldl (fun s x => s.lateWork x.1 x.2) s

/-- What Movement has staged for a channel waits: its action was abandoned (R41, R44). -/
def State.mvcLate (s : State) (u : Nat) : Bool := s.wasLate 6 255 || s.wasLate 6 u

/-! ### The latch point (R43) -/

/-- The value of CC_REF_CFG that a latch point judges the rate by: a commit due at the coming tick counts (R400). -/
def State.refCfgSoon (s : State) (c : Nat) : Word :=
  let pg := s.page (.cc c)
  if pg.cmt = .armed ∧ pg.commit.eff ≤ s.esc.frame + 1 then pg.shdReg (.cc c) 0x054 else pg.actReg (.cc c) 0x054

/-- The checks of register commits that arrived before the latch point are complete at it (R51, R107). -/
def State.latchChecks (s : State) : State :=
  s.settle.checkingPages.foldl (fun s p =>
    if p.commitKind = 1 ∧ !(s.page p).commit.late then s.commitCheckAt p s.bclk else s) s.settle

/-- A route-epoch or address-map hold is announced or in force (R602). -/
def State.holdSoon (s : State) : Bool := s.trt.hold || s.trt.announced || s.map.hold || s.map.announced

/-- What the latch point does for a channel: the idle count, shares, emergencies, the rate, a compatibility stop, Balance's
triggers. -/
def State.latchChan (s : State) (c : Nat) : State :=
  let s := ((s.calLatch c).idleLatch c).shareLatch c
  let s := [0, 1].foldl (fun s sc => if s.subRuns c sc then (s.emergEnd c sc).emergLatch c sc else s) s
  let s := if s.subRuns c 0 then
      let d := (s.updChan c fun ch => (ch.dueAt (s.esc.frame + 1)).foldl Chan.take ch).rateDemand c (s.refCfgSoon c)
      s.updChan c fun ch => { ch with rateNext := d }
    else s
  let s := s.stopLatch c s.holdSoon
  let t := s.balTriggers c
  s.updBal c fun b => { b with trig := t, trigLatched := t }

/-- Everything of the latch point, in its BCLK; `late` names the service work whose result is not staged. -/
def State.latch (s : State) (late : List (Nat × Nat)) : State :=
  let s := (s.latchChecks.eachCh State.latchChan).fenceLatches.tkLatch.latchWork late
  { s with esc := { s.esc with latched := true } }

/-- LATCH_POINT (R43): once a frame, at the start of slot FRAME_SLOTS − 8. -/
def State.latchPoint (s : State) (late : List (Nat × Nat)) : State :=
  let t := max s.bclk s.latchBclk
  if !s.esc.running ∨ s.esc.latched ∨ !s.canReach t then s else (s.goto t).latch late

/-! ### The steps of a tick (R48) -/

/-- Step 1: FRAME_NO increments and the BCLK count is captured (R35, R70, R71). -/
def State.tickOpen (s : State) : State :=
  let s := s.forceChecks (s.esc.frame + 1)
  let e := s.esc
  let f := e.frame + 1
  { s with esc := { e with
      frame := f, tickBclk := s.bclk, cap := s.bclk, slotBase := e.slotBase + e.fs, latched := false, restart := false,
      fschgFrame := if e.restart then f else e.fschgFrame, fschgBclk := if e.restart then s.bclk else e.fschgBclk,
      fsPrev := if e.restart then e.fs else e.fsPrev } }

/-- Step 3: the route epoch's announcement, hold and switch (R55, R486, R735). -/
def State.routeStep (s : State) : State :=
  let pg := s.page (.trt s.ctlRouter)
  let f := s.esc.frame
  if s.trt.hold then (if s.routeDrained s.bclk then s.routeSwitch else s)
  else if pg.cmt ≠ .armed then s
  else if pg.commit.eff ≤ f then s.openRouteHold
  else if pg.commit.eff = f + 1 then { s with trt := { s.trt with announced := true } }
  else s

/-- What a page's function does when its EN changes (R93, R190, R692). -/
def State.enHook (s : State) (p : PageId) (en : Bool) : State :=
  match p with
  | .cc c | .slt c _ | .phy c | .cal c | .elog c | .elog2 c =>
    if en then s else s.updChan c fun ch => { ch with resetN := true }
  | .gw g => if en then s else s.portGone g
  | .gwAdm g => if en then s else s.portGone g
  | .brl c => s.raiseIf (!en && !((s.sub c 0).fallback && (s.sub c 1).fallback)) (.brl c) 0
  | .lth e => if en then s else ((s.le e).cached.foldl (fun s r => s.flushRing r) s).aliveLost (16 + e) fun _ => true
  | _ => s

/-- The changes of EN take effect (R92); that of the ESC page ends the frames with this tick. One that Movement has staged waits where its
action was abandoned (R41, R44). -/
def State.enTick (s : State) : State :=
  let ps := s.pages.filterMap fun e => if e.2.en != e.2.enReq || e.2.enBy != 0 then pageOf e.1 else none
  ps.foldl (fun s p =>
    let en := (s.page p).enReq
    if p = .esc ∨ ((s.page p).enBy = 1 ∧ s.mvcLate (p.chan.getD 255)) then s
    else (if en = (s.page p).en then s else s.enHook p en).updPage p fun pg => { pg with en := en, enBy := 0 }) s

/-- Step 8 for a channel begins: slewing, and the steps of the Balance run in progress. -/
def State.chanSlew (s : State) (ms : List CalMeas) (c : Nat) : State :=
  let s := if (s.chan c).sr = .awake ∧ !s.wasLate 1 c then s.updBal c fun b => b.slew s.esc.frame else s
  if s.wasLate 0 c then s else s.balStep c (ms.getD (c / 2) {})

/-- A Balance run starts where none ran as the step began (R580). -/
def State.balOpen (s : State) (ran : Bool) (c : Nat) : State :=
  if !ran ∧ (s.chan c).bal.trigLatched ≠ 0 ∧ s.balMay c then s.balStart c else s

/-- Burl's window of a subchannel in service (R678). -/
def State.windowOpen (s : State) (c sc : Nat) : State := if (s.chan c).inService then s.windowTick c sc else s

/-- What step 8 does for a subchannel: Burl's window, and a compatibility stop that begins. -/
def State.chanWindow (s : State) (c sc : Nat) : State :=
  let s := s.windowOpen c sc
  match (s.sub c sc).stop with
  | some st => if !st.started ∧ st.from_.frame ≤ s.esc.frame then
      (s.updSub c sc fun b => { b with stop := some { st with started := true } }).emergPre c sc (st.rk, none) else s
  | none => s

/-- Step 8 for a channel, until the windows of its first `n` subchannels. -/
def State.chanWindows (s : State) (ms : List CalMeas) (c n : Nat) : State :=
  (List.range n).foldl (fun s sc => s.chanWindow c sc) ((s.chanSlew ms c).balOpen (s.chan c).bal.running c)

/-- Step 8 for a channel, until its fence. -/
def State.chanToFence (s : State) (ms : List CalMeas) (c : Nat) : State :=
  (((s.chanWindows ms c 2).heatCapture c).updElog c Elog.markTick).sampleTick c

/-- Step 8 for a channel: slewing, Balance's steps and runs, Burl, the scrubber, sleep, marks, what its DRAMs are due. -/
def State.serviceChan (ms : List CalMeas) (s : State) (c : Nat) : State :=
  ((((s.chanToFence ms c).fenceTick c).srTick c).scrubTick c).mrDue c

/-- The last periodic capture of a box is transferred into its bank (R916). -/
def State.snapTick (s : State) (b : Nat) : State :=
  match (s.cnt b).capture with
  | some k => s.updCnt b fun c => { c with bank := k, capture := none, snapMan := false, snapMiss := false }
  | none => s

/-- What Movement's tasks have staged takes effect; where its action was abandoned it waits a frame (R41, R127). -/
def State.mvcMoves (s : State) : State :=
  let s := if s.mvcLate s.task.src ∨ s.mvcLate s.task.dst then s else s.moveTick.rejoinCal.rejoinTick
  let s := if s.mvcLate s.tst.ch then s else s.testTick.testPlace
  s.eachCh fun s c => if s.mvcLate c then s else s.supplyTick c

/-- What Movement has staged takes effect, its own restart and the ring commands last. -/
def State.mvcTick (s : State) : State :=
  let s := s.mvcMoves
  if s.wasLate 6 255 then s else s.fwTick.ringTick

/-- Step 8 as far as Movement's work. -/
def State.serviceToMvc (s : State) (ms : List CalMeas) : State :=
  let s := (List.range 72).foldl State.snapTick (s.eachCh (State.serviceChan ms)).heatPublish
  if s.wasLate 5 255 then s else s.foldTick

/-- Step 8: staged service results take effect (R40, R48). -/
def State.serviceTick (s : State) (ms : List CalMeas) : State :=
  ((s.serviceToMvc ms).mvcTick.rateApply.rateEval).holdsTick

/-- Step 10 for a subchannel: refresh debt, and emergencies that come into force (R402, R409). -/
def State.refreshTick (s : State) (c sc : Nat) : State :=
  if s.subRuns c sc then (s.debtTick c sc).emergTick c sc else s

/-- Step 11: the overruns of the closing frame are recorded (R44, R46, R48): a piece abandoned neither now nor at the tick before begins
a new run of abandonments. One that met several abandonments at this tick counts once (DESIGN CHOICE: log entry 58). -/
def State.ovrTick (s : State) : State :=
  let due := s.esc.ovrDue.eraseDups
  let s := { s with esc := { s.esc with ovrDue := [], late := [], works := s.esc.works.filter fun w => due.contains (w.kind, w.unit) } }
  (due.foldl (fun s x => s.abandon x.1 x.2) s).raiseIf (due != []) .esc 1

/-- Step 11: overruns and the events of the tick (R72, R76). -/
def State.eventTick (s : State) : State :=
  let n := s.regFld .esc 0x068 0 16
  (s.raiseIf (n != 0 && s.frameNo % n == 0) .esc 0).ovrTick.ev { box := boxBlk, code := 0x01 }

/-- A box at a tick (R916, R917, R929): its quads clear where that was asked for, and a periodic capture is taken. -/
def State.cntTick (s : State) (b : Nat) : State :=
  let s := if (s.cnt b).quadClr then s.quadClear b else s
  let n := s.regFld (.cnt b) 0x048 4 12
  if n ≠ 0 ∧ s.frameNo % n = 0 then
    let k := s.capture b
    s.updCnt b fun c => { c with capture := some k }
  else s

/-- What waits for a tick beside the steps of R48: sideband transactions and records that fall due. -/
def State.afterChans (s : State) : State := s.eachCh fun s c => (s.sbGo c).jwlUpdate c

/-- It, the answers after CLEAR_ALL, the commands of Movement that hear of what has taken effect, and interrupt messages. -/
def State.afterTick (s : State) : State := s.afterChans.clearAnswer.mbPoll.msgsDue

/-- The last tick after a clear of ESC EN (R29): no further tick occurs, every commit pending is disarmed, what the hold of a commit kept
back goes on, and no service work runs. -/
def State.escEnd (s : State) : State :=
  let ps := s.pages.filterMap fun e => if e.2.cmt ≠ .idle then pageOf e.1 else none
  let t := ps.foldl (fun s p => s.disarm p) s
  let t := if s.trt.hold ∧ !t.trt.hold then t.releaseHeld else t
  let s := t.eachCh State.sampleDrop
  { s.updPage .esc (fun pg => { pg with en := false }) with esc := { s.esc with running := false, stopping := false } }

/-- The steps of R48 until the shares of instances are at hand. -/
def State.tickToIns (s : State) : State :=
  let s := s.tickOpen.mapOpen.mapSwitch.routeStep.applyTables
  (s.eachCh State.rateTick).eachCh State.shareTick

/-- The steps of R48 up to the registers that take effect: 1 to 7. -/
def State.tickApply (s : State) : State :=
  let s := s.tickToIns
  (if s.wasLate 6 255 then s else s.insTick).applyOthers.enTick

/-- The steps of R48 with their counts, 1 to 11. -/
def State.tickSteps (s : State) (ms : List CalMeas) : State :=
  let s := s.tickApply.serviceTick ms
  let s := ((s.eachCh State.tokenTick).eachSub State.refreshTick).eventTick
  (List.range 72).foldl State.cntTick s

/-- A tick in the present BCLK: the steps of R48 in their order. `ms` gives what each PHY pair finds at its CALREF, for the impedance
steps of Balance. -/
def State.tick (s : State) (ms : List CalMeas) : State :=
  let s := (s.tickSteps ms).afterTick
  if s.esc.stopping then s.escEnd else s

/-- The block comes to the tick: register requests due before it are performed, and its latch point is behind it. -/
def State.toTick (s : State) : State :=
  let s := s.runSvcs
  let s := if s.esc.latched then s else s.latchPoint []
  s.goto s.nextTick

/-- ESCAPEMENT_TICK (R27, R48). -/
def State.escapementTick (s : State) (ms : List CalMeas) : State := if s.esc.running then s.toTick.tick ms else s

/-! ### The coming tick as its steps find it -/

/-- The state in which the coming tick comes to the switch of the address map (step 2). -/
def State.atMap (s : State) : State := s.toTick.tickOpen.mapOpen

/-- The state in which it comes to the route epoch (step 3). -/
def State.atRoute (s : State) : State := s.atMap.mapSwitch

/-- The state in which it comes to the instances that await their release (step 6). -/
def State.atFree (s : State) : State := s.toTick.tickToIns.insDue

/-- The state in which it has done with the instances, unless their work was abandoned (step 6). -/
def State.atInsDone (s : State) : State :=
  let v := s.toTick.tickToIns
  if v.wasLate 6 255 then v else v.insTick

/-- The state in which step 8 comes to a channel. -/
def State.atChan (s : State) (ms : List CalMeas) (c : Nat) : State := (List.range c).foldl (State.serviceChan ms) s.toTick.tickApply

/-- There, the state in which its Balance run may start. -/
def State.atBal (s : State) (ms : List CalMeas) (c : Nat) : State := (s.atChan ms c).chanSlew ms c

/-- The state in which its fence may take effect. -/
def State.atFence (s : State) (ms : List CalMeas) (c : Nat) : State := (s.atChan ms c).chanToFence ms c

/-- The state in which it may fall asleep or be parked. -/
def State.atSleep (s : State) (ms : List CalMeas) (c : Nat) : State := (s.atFence ms c).fenceTick c

/-- The state in which lists of heat are published, all channels behind it. -/
def State.atPublish (s : State) (ms : List CalMeas) : State := s.toTick.tickApply.eachCh (State.serviceChan ms)

/-- The state in which Movement may restart. -/
def State.atRestart (s : State) (ms : List CalMeas) : State := (s.toTick.tickApply.serviceToMvc ms).mvcMoves

/-- The state in which the requests lost are answered. -/
def State.atAnswer (s : State) (ms : List CalMeas) : State := (s.toTick.tickSteps ms).afterChans

/-- The coming tick, where an event falls due at it. -/
def State.tickWhen (s : State) (ms : List CalMeas) (due : Bool) : State := if s.esc.running ∧ due then s.escapementTick ms else s

end Sys2Proof.Machine
end

