-- ==== Sys2Proof/Machine/Command.lean ====
section
/-! DEFINITION. What the meanings of commands share: operands cut to the widths of their fields, and register accesses by page. -/
namespace Sys2Proof.Machine

/-- The outcome of a command. -/
abbrev Res := Host.Outcome State Fault Refusal

/-- A header is read from its body, laid out as R161 says, with the LAST and SEQ of its trailer (R149). -/
def cutHdr (h : ReqHdr) : ReqHdr :=
  hdrOf (hdrBody h) h.last h.seq

/-- A source's fields have their widths: 16 ports, ITAGs of 12 bits. -/
def cutSrc : Src → Src
  | .fabric p i v => .fabric (p % 16) (i % 4096) v
  | x => x

/-- A register access by a source in the present BCLK (R81 to R106). -/
def State.regAccess (s : State) (src : Src) (addr : Nat) (wide wr : Bool) (data : Nat) : State :=
  s.accessHere (cutSrc src) addr wide wr data

/-- A 4-byte write of a register of a page by its number. -/
def State.pageWrite (s : State) (src : Src) (page off : Nat) (v : Nat) : State :=
  s.regAccess src (page * 4096 + off) false true v

/-- PG_CTL of the ESC page as it reads, with another EN. -/
def State.escCtl (s : State) (en : Bool) : Nat := (setFld (s.regValue .esc 0x008) 0 1 (b2n en)).toNat

/-- INTENT_ADOPTION (R131): Movement takes the active values of a page that has returned to the basic level. -/
def State.adoptPage (s : State) (page : Nat) : State :=
  match pageOf page with
  | some p => if (s.page p).mvcActive ∧ !(s.page p).expert ∧ s.mvc.running then s.adopt p else s
  | none => s

/-- On an empty queue one BCLK passes once the count runs, up to the coming tick, which is a command of its own; register requests
that have fallen due are performed, and the mailbox commands running look at what they await. -/
def State.idleBclk (s : State) : State :=
  if s.locked ∧ s.canReach (s.bclk + 1) then ((s.runSvcsTo s.bclk).goto (s.bclk + 1)).mbPoll else s

/-- SAMPLE_WINDOW_END (R919): an armed sampler that has met no event within 16 × k BCLK writes an empty record. -/
def State.sampleEnd (s : State) (b : Nat) : State :=
  match (s.cnt b).armed with
  | none => s
  | some a =>
    let t := max s.bclk (a.at_ + 16 * s.k + 1)
    if !s.canReach t then s
    else
      let s := s.goto t
      match (s.cnt b).armed with
      | some a => s.writeSample b (s.sampleWords b a none)
      | none => s

/-- An instance with a command of a kind that its tick carries out (R827): a reset is 3, a freeze 4. -/
def State.insTicked (i : Nat) (kind : Nat) (s t : State) : Bool := (s.insOf i).next == kind && (t.insOf i).next != kind

/-- A mailbox command of instances, or the tick that carries out one taken up before. -/
def State.insCommand (s : State) (kind : Nat) (f : State → State) (code : Nat) : State :=
  if (s.mbOf code).isSome then f s
  else s.tickWhen [] (s.ins.any fun e => State.insTicked e.1 kind s s.atInsDone)

end Sys2Proof.Machine
end

