-- ==== Sys2Proof/Machine/CmdChannel.lean ====
section
/-! DEFINITION. The commands of the address map, the modules and their sideband, the subchannels, sleep and the inlet arbiters (chapters
04 to 09). -/
namespace Sys2Proof.Machine

/-- ADDR_MAP_EPOCH_SWITCH (R244): the coming tick, where the epoch switches at it. -/
def execAddrMapEpochSwitch (ms : List CalMeas) (s : State) : Res := 
  let v := s.atMap
  .next (s.tickWhen ms (v.mapSwitch.map.epoch != v.map.epoch))

/-- MAP_XLATE (R259): an 8-byte write of MAP_XLATE. -/
def execMapXlate (src : Src) (pa : BitVec 52) (s : State) : Res :=
  .next (s.regAccess src (PageId.map.num * 4096 + 0x418) true true pa.toNat)

/-- ALERT_N (R276 to R278). -/
def execAlertN (c : Fin 17) (sc : Fin 2) (k : AlertKind) (s : State) : Res := .next ((s.alertN c sc k).calParity c sc k)

/-- ALERT_WINDOW_CLOSE (R362, R372). -/
def execAlertWindowClose (c : Fin 17) (sc : Fin 2) (s : State) : Res := .next (s.alertWindowClose c sc)

/-- MR4_READ (R280, R399). -/
def execMr4Read (c : Fin 17) (sc : Fin 2) (asks : Nat) (s : State) : Res := .next (s.mr4Read c sc asks)

/-- ECS_READ (R280, R656). -/
def execEcsRead (c : Fin 17) (sc : Fin 2) (count dev bg ba row : Nat) (s : State) : Res :=
  .next (s.ecsRead c sc count dev bg ba row)

/-- MR_CMD_GO (R281, R299): a write of CC_MR_CMD with GO. -/
def execMrCmdGo (src : Src) (c : Fin 17) (v : Word) (s : State) : Res :=
  .next (s.pageWrite src (PageId.cc c).num 0x080 (setBit v 21).toNat)

/-- I3C_CMD_GO (R288, R295): a write of CC_I3C_CMD with GO. -/
def execI3cCmdGo (src : Src) (c : Fin 17) (v : Word) (s : State) : Res :=
  .next (s.pageWrite src (PageId.cc c).num 0x070 (setBit v 18).toNat)

/-- SIDEBAND_TRANSACTION_DONE (R287, R297). -/
def execSidebandTransactionDone (c : Fin 17) (r : SbResult) (s : State) : Res := .next (s.sbTxnDone c r)

/-- SIDEBAND_POLL (R287): `phy` is the reading of the PHY's own sensor. -/
def execSidebandPoll (c : Fin 17) (phy : BitVec 8) (s : State) : Res := .next (s.sbPoll c phy.toNat)

/-- IN_BAND_INTERRUPT (R284, R287). -/
def execInBandInterrupt (c : Fin 17) (hid dtype : Nat) (s : State) : Res := .next (s.sbIbi c hid dtype)

/-- SIDEBAND_TIMEOUT (R290). -/
def execSidebandTimeout (c : Fin 17) (s : State) : Res := .next (s.sbTimeout c)

/-- PRSNT_CHANGE (R952, R956). -/
def execPrsntChange (c : Fin 17) (level : Presence) (s : State) : Res := .next (s.prsntChange c level)

/-- CHANNEL_ENQUEUE (R347, R348). -/
def execChannelEnqueue (c : Fin 17) (s : State) : Res := .next (s.channelEnqueue c)

/-- CROWN_ACCESS_ENQUEUE (R379, R454). -/
def execCrownAccessEnqueue (s : State) : Res := .next s.crownEnqueue

/-- READ_DECODE (R369): `err` is what the DRAMs and the bus have turned over in the line. -/
def execReadDecode (c : Fin 17) (sc : Fin 2) (err : RawLine) (s : State) : Res := .next (s.readDecode c sc err)

/-- EMERGENCY_COMMAND (R409, R410). -/
def execEmergencyCommand (c : Fin 17) (sc : Fin 2) (s : State) : Res := .next (s.emergencyCommand c sc)

/-- SELF_REFRESH_ENTRY (R415, R416): the coming tick, where the channel falls asleep at it. -/
def execSelfRefreshEntry (c : Fin 17) (ms : List CalMeas) (s : State) : Res :=
  let v := s.atSleep ms c
  .next (s.tickWhen ms ((v.chan c).sr == .awake && ((v.srTick c).chan c).sr == .idleSr))

/-- SELF_REFRESH_EXIT_DONE (R417 to R419). -/
def execSelfRefreshExitDone (c : Fin 17) (s : State) : Res := .next (s.srExit c)

/-- PARK_ENTRY (R420): the coming tick, where the channel is parked at it. -/
def execParkEntry (c : Fin 17) (ms : List CalMeas) (s : State) : Res :=
  let v := s.atSleep ms c
  .next (s.tickWhen ms ((v.chan c).sr != .parked && ((v.srTick c).chan c).sr == .parked))

/-- ARBITER_ROUND (R437 to R444). -/
def execArbiterRound (c : Fin 17) (s : State) : Res := .next (s.arbiterRound c)

/-- BACKOFF_END (R448). -/
def execBackoffEnd (c : Fin 17) (i : Fin 20) (s : State) : Res := .next (s.backoffEnd c i)

/-- URGENCY3 (R449). -/
def execUrgency3 (c : Fin 17) (i : Fin 20) (s : State) : Res := .next (s.urgency3 c i)

/-- CROWN_EMERG (R453). -/
def execCrownEmerg (s : State) : Res := .next s.crownEmerg

end Sys2Proof.Machine
end

