-- ==== Sys2Proof/Machine/CmdFrame.lean ====
section
/-! DEFINITION. The commands of the frame: the tick, the latch point, a decision point (chapters 01 and 06). -/
namespace Sys2Proof.Machine

/-- ESCAPEMENT_TICK (R27, R48): while the frames run, the block comes to its next tick and performs its steps in order. -/
def execEscapementTick (ms : List CalMeas) (s : State) : Res := .next (s.escapementTick ms)

/-- LATCH_POINT (R43, R44): once a frame; `late` is the service work, by kind and unit, whose result is not staged. -/
def execLatchPoint (late : List (Nat × Nat)) (s : State) : Res := .next (s.latchPoint late)

/-- DECISION_POINT (R352, R361): the next undecided slot of a subchannel is decided at its decision point; `z` is what the PHY senses
where the slot carries a read, a lent burst or a mode-register read. -/
def execDecisionPoint (c : Fin 17) (sc : Fin 2) (z : Sense) (s : State) : Res := .next (s.decisionPoint c sc z)

end Sys2Proof.Machine
end

