-- ==== Sys2Proof/Machine/CmdLathe.lean ====
section
/-! DEFINITION. The commands of Lathe and of the instances (chapters 17 and 18). -/
namespace Sys2Proof.Machine

/-- A command of LTH_RING_SEL (R812): 1 ATTACH, 2 DETACH, 3 FLUSH. -/
def State.ringCommand (s : State) (src : Src) (r : BitVec 18) (cmd : Nat) : State :=
  s.pageWrite src PageId.lthPool.num 0x050 (r.toNat + cmd * 2 ^ 18)

/-- INS_DOORBELL (R769): an 8-byte write of the doorbell of page `i`. -/
def execInsDoorbell (src : Src) (i : Fin 4096) (v : BitVec 64) (s : State) : Res :=
  .next (s.regAccess src ((PageId.ins i).num * 4096 + 0x048) true true v.toNat)

/-- DOORBELL_RESTART (R771): a doorbell with RESTART arrives at its engine. -/
def execDoorbellRestart (e : Fin 2) (s : State) : Res := .next (s.bellArrives fun b => b.restart && s.srvOf b.ring == e.val)

/-- DOORBELL_ARRIVAL (R769, R770): the first doorbell without RESTART arrives at its engine. -/
def execDoorbellArrival (e : Fin 2) (s : State) : Res := .next (s.bellArrives fun b => !b.restart && s.srvOf b.ring == e.val)

/-- RING_ATTACH (R767): ATTACH through LTH_RING_SEL, or a further try of one whose line was offline. -/
def execRingAttach (src : Src) (r : BitVec 18) (s : State) : Res :=
  .next (if s.pool.busy ∧ s.pool.ring = r.toNat then s.poolRetry else s.ringCommand src r 1)

/-- RING_DETACH (R768). -/
def execRingDetach (src : Src) (r : BitVec 18) (s : State) : Res := .next (s.ringCommand src r 2)

/-- RING_FLUSH (R768). -/
def execRingFlush (src : Src) (r : BitVec 18) (s : State) : Res := .next (s.ringCommand src r 3)

/-- LATHE_LINE_ISSUE (R776 to R781). -/
def execLatheLineIssue (e : Fin 2) (s : State) : Res := .next (s.lineIssue e)

/-- DESCRIPTOR_FETCH_RETURN (R775). -/
def execDescriptorFetchReturn (e : Fin 2) (s : State) : Res := .next (s.fetchReturn e)

/-- LATHE_LINE_RESPONSE (R778, R783). -/
def execLatheLineResponse (e : Fin 2) (s : State) : Res := .next (s.lineResponse e)

/-- OFFLINE_REISSUE (R784). -/
def execOfflineReissue (e : Fin 2) (s : State) : Res := .next (s.offlineReissue e)

/-- COMPLETION_FORM (R785, R786): of a ring. -/
def execCompletionForm (r : BitVec 18) (s : State) : Res := .next (s.completionForm r.toNat)

/-- HANDOVER_DONE (R797). -/
def execHandoverDone (e : Fin 2) (s : State) : Res := .next (s.handoverDone e)

/-- ENGINE_POWER_UP (R799). -/
def execEnginePowerUp (e : Fin 2) (s : State) : Res := .next (s.enginePowerUp e)

/-- RESET_DONE (R837). -/
def execResetDone (i : Fin 4096) (s : State) : Res := .next (s.resetDone i)

/-- QUIESCED (R846). -/
def execQuiesced (i : Fin 4096) (s : State) : Res := .next (s.quiesced i)

/-- INSTANCE_FREE (R851): the coming tick, where the instance becomes FREE at it. -/
def execInstanceFree (i : Fin 4096) (ms : List CalMeas) (s : State) : Res :=
  let v := s.atFree
  .next (s.tickWhen ms (!s.toTick.tickToIns.wasLate 6 255 && (v.insOf i).st == 5 && ((v.insFreeTick i).insOf i).st == 0))

/-- INSTANCE_INT_MESSAGE (R844). -/
def execInstanceIntMessage (i : Fin 4096) (s : State) : Res := .next (s.insMessage i)

end Sys2Proof.Machine
end

