-- ==== Sys2Proof/Machine/CmdLive.lean ====
section
/-! DEFINITION. The commands of keeping the memory up, of the Crown port and of the count boxes (chapters 19 and 20). -/
namespace Sys2Proof.Machine

/-- TAKEOVER_START (R862). -/
def execTakeoverStart (c : Fin 17) (s : State) : Res := .next (s.takeoverStart c)

/-- COPY_LINE (R865). -/
def execCopyLine (s : State) : Res := .next s.copyLine

/-- POISON_MODE (R869). -/
def execPoisonMode (s : State) : Res := .next s.poisonMode

/-- TAKEOVER_POWER (R864). -/
def execTakeoverPower (s : State) : Res := .next s.takeoverPower

/-- FW_RESTART (R888): the coming tick, where Movement restarts from its new image at it. -/
def execFwRestart (ms : List CalMeas) (s : State) : Res := 
  let v := s.atRestart ms
  .next (s.tickWhen ms (!v.wasLate 6 255 && v.mvc.swapPend && !v.fwTick.mvc.swapPend))

/-- FW_HEARTBEAT_TIMEOUT (R888). -/
def execFwHeartbeatTimeout (s : State) : Res := .next s.fwTimeout

/-- FW_SWAPPED (R888). -/
def execFwSwapped (s : State) : Res := .next s.fwSwapped

/-- CRN_INJ_GO (R890, R904): a write of CRN_INJ_CMD with GO by who holds the Crown port. -/
def execCrnInjGo (tap : Bool) (v : Word) (s : State) : Res :=
  .next (s.pageWrite (.crown tap) PageId.crn.num 0x050 (setBit v 0).toNat)

/-- INJ_DONE (R890). -/
def execInjDone (s : State) : Res := .next s.injDone

/-- CROWN_TEST_PORT_CLAIM (R902). -/
def execCrownTestPortClaim (on : Bool) (s : State) : Res := .next (s.testPort on)

/-- SERVICE_PROCESSOR_LINK (R902). -/
def execServiceProcessorLink (up : Bool) (s : State) : Res := .next (s.spLink up)

/-- SNAP (R917): a write of CNT_SNAP with SNAP. -/
def execSnap (src : Src) (b : Fin 72) (s : State) : Res := .next (s.pageWrite src (PageId.cnt b).num 0x04C 1)

/-- QUAD_CLR (R929): a write of CNT_SNAP with QUAD_CLR; the quads clear at the next tick. -/
def execQuadClr (src : Src) (b : Fin 72) (s : State) : Res := .next (s.pageWrite src (PageId.cnt b).num 0x04C 2)

/-- CNT_SNAP_CLR (R915): a write of CNT_SNAP with CLR. -/
def execCntSnapClr (src : Src) (b : Fin 72) (s : State) : Res := .next (s.pageWrite src (PageId.cnt b).num 0x04C 4)

/-- CNT_VAL_WRITE (R914): an 8-byte write of CNT_VALn. -/
def execCntValWrite (src : Src) (b : Fin 72) (n : Fin 8) (v : BitVec 48) (s : State) : Res :=
  .next (s.regAccess src ((PageId.cnt b).num * 4096 + 0x080 + 8 * n.val) true true v.toNat)

/-- CNT_CTL_WRITE (R933, R935). -/
def execCntCtlWrite (src : Src) (b : Fin 72) (v : Word) (s : State) : Res :=
  .next (s.pageWrite src (PageId.cnt b).num 0x048 v.toNat)

/-- SAMPLE_WINDOW_END (R919). -/
def execSampleWindowEnd (b : Fin 72) (s : State) : Res := .next (s.sampleEnd b)

end Sys2Proof.Machine
end

