-- ==== Sys2Proof/Machine/CmdMailbox.lean ====
section
/-! DEFINITION. The mailbox commands (R134 to R139): Movement takes up the command whose turn it is where it is the one named, and otherwise
nothing happens; a command that awaits commits or a tick completes later. -/
namespace Sys2Proof.Machine

/-- UNKNOWN_COMMAND (R138). -/
def execUnknownCommand (s : State) : Res := .next (s.mbUnknown)

/-- FRAME_SET (R78). -/
def execFrameSet (s : State) : Res := .next (s.mbFrameSet)

/-- FRAME_STATUS (R79). -/
def execFrameStatus (s : State) : Res := .next (s.mbFrameStatus)

/-- MAP_SET (R248, R249, R880). -/
def execMapSet (s : State) : Res := .next (s.mbMapSet)

/-- RESERVE_SET (R250). -/
def execReserveSet (s : State) : Res := .next (s.mbReserveSet)

/-- TABLE_SET (R335, R336). -/
def execTableSet (s : State) : Res := .next (s.mbTableSet)

/-- REFRESH_SET (R425). -/
def execRefreshSet (s : State) : Res := .next (s.mbRefreshSet)

/-- PARK (R426). -/
def execPark (s : State) : Res := .next (s.mbPark)

/-- ARB_SET (R467). -/
def execArbSet (s : State) : Res := .next (s.mbArbSet)

/-- TRAIN (R561, R562). -/
def execTrain (s : State) : Res := .next (s.mbTrain)

/-- CAL_SET (R614). -/
def execCalSet (s : State) : Res := .next (s.mbCalSet)

/-- SCRUB_SET (R663). -/
def execScrubSet (s : State) : Res := .next (s.mbScrubSet)

/-- BURL_SET (R700). -/
def execBurlSet (s : State) : Res := .next (s.mbBurlSet)

/-- HEAT_SET (R700). -/
def execHeatSet (s : State) : Res := .next (s.mbHeatSet)

/-- ROUTE_SET (R751, R752). -/
def execRouteSet (s : State) : Res := .next (s.mbRouteSet)

/-- LATHE_SET POOL (R801, R802). -/
def execLatheSetPool (s : State) : Res := .next (s.mbLthPool)

/-- LATHE_SET ATTACH (R767, R801). -/
def execLatheSetAttach (s : State) : Res := .next (s.mbLthAttach)

/-- LATHE_SET DETACH (R768, R801). -/
def execLatheSetDetach (s : State) : Res := .next (s.mbLthDetach)

/-- LATHE_SET ENGINE (R801). -/
def execLatheSetEngine (s : State) : Res := .next (s.mbLthEngine)

/-- INS_CREATE (R828 to R831). -/
def execInsCreate (s : State) : Res := .next (s.mbInsCreate)

/-- INS_DESTROY (R851). -/
def execInsDestroy (s : State) : Res := .next (s.mbInsDestroy)

/-- INS_RESET (R835 to R839): taken up, and carried out by its tick. -/
def execInsReset (s : State) : Res := .next (s.insCommand 3 State.mbInsReset 0xA2)

/-- SHARE_SET (R833, R834). -/
def execShareSet (s : State) : Res := .next (s.mbShareSet)

/-- FREEZE (R846): taken up, and carried out by its tick. -/
def execFreeze (s : State) : Res := .next (s.insCommand 4 State.mbFreeze 0xA4)

/-- FREEZE with THAW = 1 (R850). -/
def execThaw (s : State) : Res := .next (s.mbThaw)

/-- SAVE (R847, R848). -/
def execSave (s : State) : Res := .next (s.mbSave)

/-- RESTORE (R848, R849). -/
def execRestore (s : State) : Res := .next (s.mbRestore)

/-- CNT_USER_SET (R843). -/
def execCntUserSet (s : State) : Res := .next (s.mbCntUserSet)

/-- TAKEOVER (R873). -/
def execTakeover (s : State) : Res := .next (s.mbTakeover)

/-- REJOIN (R877, R878). -/
def execRejoin (s : State) : Res := .next s.mbRejoin

/-- FW_SWAP (R887, R888): `wrote` tells whether the slot of the boot store reads back as it was written. -/
def execFwSwap (wrote : Bool) (s : State) : Res := .next (s.fwSwap wrote)

/-- CHAN_TEST of lines (R883 to R885): `errs` lines failed, on the rank positions of `ranks`, the first as `w0` and `w1` name it. -/
def execChanTestLine (errs : Nat) (ranks : BitVec 8) (w0 w1 : Word) (s : State) : Res :=
  .next (s.chanTest 0 errs ranks.toNat w0 w1)

/-- CHAN_TEST in loopback (R883 to R885). -/
def execChanTestLoopback (errs : Nat) (ranks : BitVec 8) (w0 w1 : Word) (s : State) : Res :=
  .next (s.chanTest 1 errs ranks.toNat w0 w1)

/-- INTENT_GET (R139, R832). -/
def execIntentGet (s : State) : Res := .next s.mbIntentGet

end Sys2Proof.Machine
end

