-- ==== Sys2Proof/Machine/CmdPages.lean ====
section
/-! DEFINITION. The commands of the control pages (chapter 02): accesses, PG_CTL, commits, interrupts, mailboxes' GO. -/
namespace Sys2Proof.Machine

/-- SVC_ACCESS (R81, R82, R182). -/
def execSvcAccess (g : Fin 16) (h : ReqHdr) (s : State) : Res := .next (s.svcAccess g (cutHdr { h with opcode := 4 }))

/-- CROWN_PAGE_ACCESS (R103, R902): by the service processor, or with `tap` by the test port. -/
def execCrownPageAccess (tap : Bool) (addr : Nat) (wide wr : Bool) (data : BitVec 64) (s : State) : Res :=
  .next (s.regAccess (.crown tap) addr wide wr data.toNat)

/-- REGISTER_WRITE (R86, R97, R105). -/
def execRegisterWrite (src : Src) (addr : Nat) (wide : Bool) (data : BitVec 64) (s : State) : Res :=
  .next (s.regAccess src addr wide true data.toNat)

/-- RC_READ (R97): a 4-byte read; a read-clear register returns its value and clears. -/
def execRcRead (src : Src) (addr : Nat) (s : State) : Res := .next (s.regAccess src addr false false 0)

/-- LO_READ_LATCH (R85, R912): a 4-byte read; a LO register latches what is read with it. -/
def execLoReadLatch (src : Src) (addr : Nat) (s : State) : Res := .next (s.regAccess src addr false false 0)

/-- PG_CTL_WRITE (R92 to R94). -/
def execPgCtlWrite (src : Src) (page : Nat) (v : Word) (s : State) : Res := .next (s.pageWrite src page 0x008 v.toNat)

/-- ESC_EN_CLEAR (R28, R29). -/
def execEscEnClear (src : Src) (s : State) : Res := .next (s.pageWrite src PageId.esc.num 0x008 (s.escCtl false))

/-- ESC_EN_SET (R29). -/
def execEscEnSet (src : Src) (s : State) : Res := .next (s.pageWrite src PageId.esc.num 0x008 (s.escCtl true))

/-- INTENT_ADOPTION (R131). -/
def execIntentAdoption (page : Nat) (s : State) : Res := .next (s.adoptPage page)

/-- PG_ISET_WRITE (R96). -/
def execPgIsetWrite (src : Src) (page : Nat) (v : Word) (s : State) : Res := .next (s.pageWrite src page 0x018 v.toNat)

/-- COMMIT_GO (R111). -/
def execCommitGo (src : Src) (page : Nat) (s : State) : Res := .next (s.pageWrite src page 0x01C 1)

/-- COMMIT_CANCEL (R59, R111). -/
def execCommitCancel (src : Src) (page : Nat) (s : State) : Res := .next (s.pageWrite src page 0x01C 2)

/-- COMMIT_DISCARD (R111). -/
def execCommitDiscard (src : Src) (page : Nat) (s : State) : Res := .next (s.pageWrite src page 0x01C 4)

/-- COMMIT_CHECK (R107, R108): the checks of a page's commit complete in the present BCLK. -/
def execCommitCheck (page : Nat) (s : State) : Res :=
  .next (match pageOf page with | some p => s.commitCheck p | none => s)

/-- INTERRUPT_MESSAGE (R115). -/
def execInterruptMessage (s : State) : Res := .next s.intMessage

/-- BLK_INT_EOI (R120). -/
def execBlkIntEoi (src : Src) (s : State) : Res := .next (s.pageWrite src PageId.blk.num 0x068 1)

/-- BLK_INT_CFG_WRITE (R119). -/
def execBlkIntCfgWrite (src : Src) (v : Word) (s : State) : Res := .next (s.pageWrite src PageId.blk.num 0x064 v.toNat)

/-- MB_GO (R135): a write of GO to mailbox `m`. -/
def execMbGo (src : Src) (m : Fin 2) (s : State) : Res := .next (s.pageWrite src PageId.blk.num (0x104 + 0x80 * m.val) 1)

end Sys2Proof.Machine
end

