-- ==== Sys2Proof/Machine/CmdPorts.lean ====
section
/-! DEFINITION. The commands of the fabric ports (chapter 03): flits and their faults, the link, ALIVE, the egress; and the hold of
Burl at a gateway or an engine (R687, R689). -/
namespace Sys2Proof.Machine

/-- A header flit arrives at a gateway (R149, R161). -/
def State.hdrFlit (s : State) (g : Fin 16) (h : ReqHdr) : State := s.flitIn g (h.seq % 4096) fun s => s.headerIn g (cutHdr h)

/-- A data flit arrives at a gateway (R149, R163). -/
def State.dataFlit (s : State) (g : Fin 16) (seq : Nat) (d : Line) : State := s.flitIn g (seq % 4096) fun s => s.dataIn g d

/-- LINE_READ (R164, R175): the header of a read of one line. -/
def execLineRead (g : Fin 16) (h : ReqHdr) (s : State) : Res := .next (s.hdrFlit g h)

/-- MULTI_READ (R165). -/
def execMultiRead (g : Fin 16) (h : ReqHdr) (s : State) : Res := .next (s.hdrFlit g { h with opcode := 2 })

/-- LINE_WRITE (R171): the header of a write. -/
def execLineWrite (g : Fin 16) (h : ReqHdr) (s : State) : Res := .next (s.hdrFlit g { h with opcode := 3 })

/-- LINE_WRITE_DATA (R163, R185). -/
def execLineWriteData (g : Fin 16) (seq : Nat) (d : Line) (s : State) : Res := .next (s.dataFlit g seq d)

/-- STRAY_DATA_FLIT (R168). -/
def execStrayDataFlit (g : Fin 16) (seq : Nat) (d : Line) (s : State) : Res := .next (s.dataFlit g seq d)

/-- MISSING_WRITE_DATA (R960): a header where a write's data is due. -/
def execMissingWriteData (g : Fin 16) (h : ReqHdr) (s : State) : Res := .next (s.hdrFlit g h)

/-- LINK_CRC_ERROR (R151). -/
def execLinkCrcError (g : Fin 16) (s : State) : Res := .next (s.linkCrc g)

/-- ACK_RECEIVED (R157): `ack` is the number that the mesh acknowledges. -/
def execAckReceived (g : Fin 16) (ack : Nat) (s : State) : Res := .next (s.ackReceived g (ack % 4096))

/-- NAK_RECEIVED (R159). -/
def execNakReceived (g : Fin 16) (ack : Nat) (s : State) : Res := .next (s.nakReceived g (ack % 4096))

/-- REWIND_TIMER (R159). -/
def execRewindTimer (g : Fin 16) (s : State) : Res := .next (s.rewindTimer g)

/-- REPLAY_TIMEOUT (R160). -/
def execReplayTimeout (g : Fin 16) (s : State) : Res := .next (s.replayTimeout g)

/-- IDLE_ACK (R150). -/
def execIdleAck (g : Fin 16) (s : State) : Res := .next (s.idleAck g)

/-- PHASE_ERR (R145). -/
def execPhaseErr (g : Fin 16) (s : State) : Res := .next (s.phaseErr g)

/-- ALIVE_FALL (R190 to R194). -/
def execAliveFall (g : Fin 16) (s : State) : Res := .next (s.aliveFall g)

/-- Movement reapplies a gateway's intents (R132, R198). -/
def State.gwReapply (s : State) (g : Nat) : State := if s.mvc.running then (s.reapply (.gw g)).reapply (.gwAdm g) else s

/-- ALIVE_RISE (R132, R195): the gateway's new session begins, and its intents are reapplied. -/
def execAliveRise (g : Fin 16) (s : State) : Res := .next ((s.aliveRise g).gwReapply g)

/-- LINK_INIT (R196). -/
def execLinkInit (g : Fin 16) (s : State) : Res := .next (s.linkInit g)

/-- MESH_INIT (R197): with the response credits that the mesh's INIT gives. -/
def execMeshInit (g : Fin 16) (hdr data : Nat) (s : State) : Res := .next (s.meshInit g hdr data)

/-- GW_FLUSH (R186): a write of GW_FLUSH. -/
def execGwFlush (src : Src) (g : Fin 16) (s : State) : Res := .next (s.pageWrite src (PageId.gw g).num 0x05C 1)

/-- TAIL_DISCARD_EAT (R186). -/
def execTailDiscardEat (g : Fin 16) (seq : Nat) (d : Line) (s : State) : Res := .next (s.dataFlit g seq d)

/-- TAIL_DISCARD_HEADER (R189). -/
def execTailDiscardHeader (g : Fin 16) (h : ReqHdr) (s : State) : Res := .next (s.hdrFlit g h)

/-- RESPONSE_EGRESS (R156, R183): what the gateway does before, and register accesses that fall due, come first. -/
def execResponseEgress (g : Fin 16) (s : State) : Res := .next (((s.egressAhead g).svcsFor g).responseEgress g)

/-- RETRY_C_BOUNCE (R179). -/
def execRetryCBounce (g : Fin 16) (s : State) : Res := .next (s.bounceArrives g)

/-- SET_ASIDE_RELEASE (R462). -/
def execSetAsideRelease (g : Fin 16) (s : State) : Res := .next ((s.gwAhead fun s => (s.gw g).firstAside.map (·.until_)).asideRelease g)

/-- MESH_CREDIT_RETURN (R154). -/
def execMeshCreditReturn (g : Fin 16) (hdr data : Nat) (s : State) : Res := .next (s.meshCredit g hdr data)

/-- HOLD_RECEIVE (R687): at a gateway, or from 16 on at an engine. -/
def execHoldReceive (u : Fin 18) (s : State) : Res := .next (s.holdReceive u)

/-- HELD_REQUEST_RELEASE (R689). -/
def execHeldRequestRelease (u : Fin 18) (s : State) : Res :=
  .next (if u.val < 16 then (s.gwAhead fun s => s.heldDue u).heldRelease u else s.leHeldRelease (u - 16))

end Sys2Proof.Machine
end

