-- ==== Sys2Proof/Machine/CmdService.lean ====
section
/-! DEFINITION. The commands of the scrubber, the Burl table and the torus (chapters 14 to 16). -/
namespace Sys2Proof.Machine

/-- SCRUB_CREDIT (R649). -/
def execScrubCredit (c : Fin 17) (s : State) : Res := .next (s.scrubCredit c)

/-- BURL_WINDOW_ROLLOVER (R678): the coming tick, where the subchannel's window rolls over at it. -/
def execBurlWindowRollover (c : Fin 17) (sc : Fin 2) (ms : List CalMeas) (s : State) : Res :=
  let v := (s.atChan ms c).chanWindows ms c sc
  .next (s.tickWhen ms (((v.windowOpen c sc).sub c sc).winSeq != (v.sub c sc).winSeq))

/-- HEAT_INTERVAL_END (R697): the coming tick, where an interval of the channel ends at it. -/
def execHeatIntervalEnd (c : Fin 17) (ms : List CalMeas) (s : State) : Res :=
  let v := (s.atChan ms c).chanWindows ms c 2
  let n := v.regFld (.brl c) 0x044 0 16
  .next (s.tickWhen ms (n != 0 && v.frameNo % n == 0))

/-- HEAT_PUBLISH (R697 to R699): the coming tick, where a list is published at it. -/
def execHeatPublish (ms : List CalMeas) (s : State) : Res :=
  let v := s.atPublish ms
  .next (s.tickWhen ms ((List.range 17).any v.heatNow))

/-- BRL_IDX_WRITE (R704). -/
def execBrlIdxWrite (src : Src) (c : Fin 17) (v : Word) (s : State) : Res :=
  .next (s.pageWrite src (PageId.brl c).num 0x04C v.toNat)

/-- ROUTE_EPOCH_SWITCH (R735): the coming tick, where the route epoch switches at it. -/
def execRouteEpochSwitch (ms : List CalMeas) (s : State) : Res := 
  let v := s.atRoute
  .next (s.tickWhen ms (v.routeStep.trt.epoch != v.trt.epoch))

/-- TORUS_FLIT_CRC_ERROR (R719): router `n` on port `p`; `again` for a flit that had been resent. -/
def execTorusFlitCrcError (n : Fin 36) (p : Fin 4) (again : Bool) (s : State) : Res := .next (s.flitCrc n p again)

/-- CREDIT_TIMEOUT (R719). -/
def execCreditTimeout (n : Fin 36) (p : Fin 4) (s : State) : Res := .next (s.creditTimeout n p)

/-- LOSS_SWITCH_GO (R739). -/
def execLossSwitchGo (s : State) : Res := .next s.lossSwitchGo

/-- CLEAR (R742): of the unit at node `n`. -/
def execClear (n : Fin 36) (s : State) : Res := .next (s.sendClear n)

/-- CLEAR_ALL (R742). -/
def execClearAll (s : State) : Res := .next s.clearAllGo

/-- CLEAR_ALL_ANSWER (R742): the coming tick, where the requests lost are answered at it. -/
def execClearAllAnswer (ms : List CalMeas) (s : State) : Res :=
  let v := s.atAnswer ms
  .next (s.tickWhen ms (v.trt.clearAll.isSome && v.clearAnswer.trt.clearAll.isNone))

/-- FENCE_EFFECT (R746): the coming tick, where the fence of the channel takes effect at it. -/
def execFenceEffect (c : Fin 17) (ms : List CalMeas) (s : State) : Res :=
  let v := s.atFence ms c
  .next (s.tickWhen ms (!(v.chan c).fenced && ((v.fenceTick c).chan c).fenced))

/-- FENCED_SINK (R747, R798): at a fenced channel, or from 17 on at a powered-down engine. -/
def execFencedSink (u : Fin 19) (s : State) : Res := .next (if u.val < 17 then s.fencedSink u else s.engineSink (u - 17))

end Sys2Proof.Machine
end

