-- ==== Sys2Proof/Machine/CmdStart.lean ====
section
/-! DEFINITION. The commands of start-up and power, Caliper and Balance (chapters 11 to 13). -/
namespace Sys2Proof.Machine

/-- BLOCK_RESET_RELEASE (R496, R498). -/
def execBlockResetRelease (s : State) : Res := .next s.resetRelease

/-- START_PHASE_COMPLETE (R498, R500): `x` is what the phase finds outside the block. -/
def execStartPhaseComplete (x : PhaseIn) (s : State) : Res := .next (s.phaseComplete x)

/-- BCLK_LOCK (R497). -/
def execBclkLock (s : State) : Res := .next s.bclkLock

/-- BCLK_LOCK_TIMEOUT (R500). -/
def execBclkLockTimeout (s : State) : Res := .next s.bclkLockTimeout

/-- WARM_RESET (R514, R515). -/
def execWarmReset (s : State) : Res := .next s.warmReset

/-- FAST_RESTORE_DONE (R504, R509): `pass` says that the sanity reads agree. -/
def execFastRestoreDone (c : Fin 17) (pass : Bool) (s : State) : Res := .next (s.fastRestoreDone c pass)

/-- ZERO_FILL_DONE (R511, R512): of start-up, or of a rejoin or rehash (R878, R882). -/
def execZeroFillDone (c : Fin 17) (s : State) : Res :=
  .next (if s.filling.contains c.val then s.zeroFillDone c else s.fillDone c)

/-- CH_RST (R517): a write of BLK_RESET with the channels of `mask`. -/
def execChRst (src : Src) (mask : BitVec 17) (s : State) : Res := .next (s.pageWrite src PageId.blk.num 0x044 mask.toNat)

/-- MVC_RESTART (R518, R519, R526): `crc` says that the intent region passes its CRC. -/
def execMvcRestart (src : Src) (crc : Bool) (s : State) : Res :=
  let t := s.pageWrite src PageId.blk.num 0x044 (2 ^ 17)
  .next (if crc ∨ t.mvc.restarts = s.mvc.restarts then t else t.intentLost)

/-- CNT_CLR (R915). -/
def execCntClr (src : Src) (s : State) : Res := .next (s.pageWrite src PageId.blk.num 0x044 (2 ^ 18))

/-- LOCKSTEP_DISAGREEMENT (R518). -/
def execLockstepDisagreement (crc : Bool) (s : State) : Res := .next (s.lockstep crc)

/-- THERM_UPD (R528, R950). -/
def execThermUpd (headroom tj : BitVec 8) (s : State) : Res := .next (s.thermUpd headroom.toNat tj.toNat)

/-- HEADROOM_STALE (R524). -/
def execHeadroomStale (s : State) : Res := .next s.headroomStale

/-- REBUILD_RATE_EVAL (R523): the coming tick, where its frame is a multiple of 1,024. -/
def execRebuildRateEval (ms : List CalMeas) (s : State) : Res :=
  .next (s.tickWhen ms ((s.frameNo + 1) % 1024 == 0))

/-- CALIPER_RUN_START (R508, R532): `spd` is what the modules' SPD reads as now. -/
def execCaliperRunStart (c : Fin 17) (spd : Spd) (s : State) : Res := .next (s.runStart c spd)

/-- CALIPER_REFAB (R536). -/
def execCaliperRefab (c : Fin 17) (step rk progress : Nat) (s : State) : Res := .next (s.caliperRefab c step rk progress)

/-- CAL_STEP_TIMEOUT (R553, R555). -/
def execCalStepTimeout (c : Fin 17) (again : Bool) (s : State) : Res := .next (s.calStepTimeout c again)

/-- CALIPER_RUN_END (R538, R554). -/
def execCaliperRunEnd (c : Fin 17) (ws : List Sweep) (s : State) : Res := .next (s.caliperEnd c ws)

/-- JEWEL_RECORD_WRITE (R609): `bad1` and `bad2` are what the read-backs find. -/
def execJewelRecordWrite (bad1 bad2 : Nat) (s : State) : Res := .next (s.jewelWrite bad1 bad2)

/-- BALANCE_RUN_START (R580): the coming tick, where a run of the channel starts at it. -/
def execBalanceRunStart (c : Fin 17) (ms : List CalMeas) (s : State) : Res :=
  let v := s.atBal ms c
  let ran := ((s.atChan ms c).chan c).bal.running
  .next (s.tickWhen ms (!ran && ((v.balOpen ran c).chan c).bal.running))

/-- COMPAT_STOP_END (R603). -/
def execCompatStopEnd (c : Fin 17) (sc : Fin 2) (grid osc : List Nat) (s : State) : Res := .next (s.stopEnd c sc grid osc)

/-- POWER_FAILURE (R612). -/
def execPowerFailure (code : Nat) (s : State) : Res := .next (s.powerFailure code)

end Sys2Proof.Machine
end

