-- ==== Sys2Proof/Machine/Dispatch.lean ====
section
/-! DEFINITION. The meaning of every command, one arm for each row of the opcode table. -/
namespace Sys2Proof.Machine

def exec (i : Instr) (s : State) : Host.Outcome State Fault Refusal :=
  match i with
  | .escapementTick ms => Sys2Proof.Machine.execEscapementTick ms s
  | .latchPoint late => Sys2Proof.Machine.execLatchPoint late s
  | .decisionPoint c sc z => Sys2Proof.Machine.execDecisionPoint c sc z s
  | .svcAccess g h => Sys2Proof.Machine.execSvcAccess g h s
  | .crownPageAccess tap addr wide wr data => Sys2Proof.Machine.execCrownPageAccess tap addr wide wr data s
  | .registerWrite src addr wide data => Sys2Proof.Machine.execRegisterWrite src addr wide data s
  | .rcRead src addr => Sys2Proof.Machine.execRcRead src addr s
  | .loReadLatch src addr => Sys2Proof.Machine.execLoReadLatch src addr s
  | .pgCtlWrite src page v => Sys2Proof.Machine.execPgCtlWrite src page v s
  | .escEnClear src => Sys2Proof.Machine.execEscEnClear src s
  | .escEnSet src => Sys2Proof.Machine.execEscEnSet src s
  | .intentAdoption page => Sys2Proof.Machine.execIntentAdoption page s
  | .pgIsetWrite src page v => Sys2Proof.Machine.execPgIsetWrite src page v s
  | .commitGo src page => Sys2Proof.Machine.execCommitGo src page s
  | .commitCancel src page => Sys2Proof.Machine.execCommitCancel src page s
  | .commitDiscard src page => Sys2Proof.Machine.execCommitDiscard src page s
  | .commitCheck page => Sys2Proof.Machine.execCommitCheck page s
  | .interruptMessage => Sys2Proof.Machine.execInterruptMessage s
  | .blkIntEoi src => Sys2Proof.Machine.execBlkIntEoi src s
  | .blkIntCfgWrite src v => Sys2Proof.Machine.execBlkIntCfgWrite src v s
  | .mbGo src m => Sys2Proof.Machine.execMbGo src m s
  | .unknownCommand => Sys2Proof.Machine.execUnknownCommand s
  | .frameSet => Sys2Proof.Machine.execFrameSet s
  | .frameStatus => Sys2Proof.Machine.execFrameStatus s
  | .mapSet => Sys2Proof.Machine.execMapSet s
  | .reserveSet => Sys2Proof.Machine.execReserveSet s
  | .tableSet => Sys2Proof.Machine.execTableSet s
  | .refreshSet => Sys2Proof.Machine.execRefreshSet s
  | .park => Sys2Proof.Machine.execPark s
  | .arbSet => Sys2Proof.Machine.execArbSet s
  | .train => Sys2Proof.Machine.execTrain s
  | .calSet => Sys2Proof.Machine.execCalSet s
  | .scrubSet => Sys2Proof.Machine.execScrubSet s
  | .burlSet => Sys2Proof.Machine.execBurlSet s
  | .heatSet => Sys2Proof.Machine.execHeatSet s
  | .routeSet => Sys2Proof.Machine.execRouteSet s
  | .latheSetPool => Sys2Proof.Machine.execLatheSetPool s
  | .latheSetAttach => Sys2Proof.Machine.execLatheSetAttach s
  | .latheSetDetach => Sys2Proof.Machine.execLatheSetDetach s
  | .latheSetEngine => Sys2Proof.Machine.execLatheSetEngine s
  | .insCreate => Sys2Proof.Machine.execInsCreate s
  | .insDestroy => Sys2Proof.Machine.execInsDestroy s
  | .insReset => Sys2Proof.Machine.execInsReset s
  | .shareSet => Sys2Proof.Machine.execShareSet s
  | .freeze => Sys2Proof.Machine.execFreeze s
  | .thaw => Sys2Proof.Machine.execThaw s
  | .save => Sys2Proof.Machine.execSave s
  | .restore => Sys2Proof.Machine.execRestore s
  | .cntUserSet => Sys2Proof.Machine.execCntUserSet s
  | .takeover => Sys2Proof.Machine.execTakeover s
  | .rejoin => Sys2Proof.Machine.execRejoin s
  | .fwSwap wrote => Sys2Proof.Machine.execFwSwap wrote s
  | .chanTestLine errs ranks w0 w1 => Sys2Proof.Machine.execChanTestLine errs ranks w0 w1 s
  | .chanTestLoopback errs ranks w0 w1 => Sys2Proof.Machine.execChanTestLoopback errs ranks w0 w1 s
  | .intentGet => Sys2Proof.Machine.execIntentGet s
  | .lineRead g h => Sys2Proof.Machine.execLineRead g h s
  | .multiRead g h => Sys2Proof.Machine.execMultiRead g h s
  | .lineWrite g h => Sys2Proof.Machine.execLineWrite g h s
  | .lineWriteData g seq d => Sys2Proof.Machine.execLineWriteData g seq d s
  | .strayDataFlit g seq d => Sys2Proof.Machine.execStrayDataFlit g seq d s
  | .missingWriteData g h => Sys2Proof.Machine.execMissingWriteData g h s
  | .linkCrcError g => Sys2Proof.Machine.execLinkCrcError g s
  | .ackReceived g ack => Sys2Proof.Machine.execAckReceived g ack s
  | .nakReceived g ack => Sys2Proof.Machine.execNakReceived g ack s
  | .rewindTimer g => Sys2Proof.Machine.execRewindTimer g s
  | .replayTimeout g => Sys2Proof.Machine.execReplayTimeout g s
  | .idleAck g => Sys2Proof.Machine.execIdleAck g s
  | .phaseErr g => Sys2Proof.Machine.execPhaseErr g s
  | .aliveFall g => Sys2Proof.Machine.execAliveFall g s
  | .aliveRise g => Sys2Proof.Machine.execAliveRise g s
  | .linkInit g => Sys2Proof.Machine.execLinkInit g s
  | .meshInit g hdr data => Sys2Proof.Machine.execMeshInit g hdr data s
  | .gwFlush src g => Sys2Proof.Machine.execGwFlush src g s
  | .tailDiscardEat g seq d => Sys2Proof.Machine.execTailDiscardEat g seq d s
  | .tailDiscardHeader g h => Sys2Proof.Machine.execTailDiscardHeader g h s
  | .responseEgress g => Sys2Proof.Machine.execResponseEgress g s
  | .retryCBounce g => Sys2Proof.Machine.execRetryCBounce g s
  | .setAsideRelease g => Sys2Proof.Machine.execSetAsideRelease g s
  | .addrMapEpochSwitch ms => Sys2Proof.Machine.execAddrMapEpochSwitch ms s
  | .mapXlate src pa => Sys2Proof.Machine.execMapXlate src pa s
  | .alertN c sc k => Sys2Proof.Machine.execAlertN c sc k s
  | .alertWindowClose c sc => Sys2Proof.Machine.execAlertWindowClose c sc s
  | .mr4Read c sc asks => Sys2Proof.Machine.execMr4Read c sc asks s
  | .ecsRead c sc count dev bg ba row => Sys2Proof.Machine.execEcsRead c sc count dev bg ba row s
  | .mrCmdGo src c v => Sys2Proof.Machine.execMrCmdGo src c v s
  | .i3cCmdGo src c v => Sys2Proof.Machine.execI3cCmdGo src c v s
  | .sidebandTransactionDone c r => Sys2Proof.Machine.execSidebandTransactionDone c r s
  | .sidebandPoll c phy => Sys2Proof.Machine.execSidebandPoll c phy s
  | .inBandInterrupt c hid dtype => Sys2Proof.Machine.execInBandInterrupt c hid dtype s
  | .sidebandTimeout c => Sys2Proof.Machine.execSidebandTimeout c s
  | .prsntChange c level => Sys2Proof.Machine.execPrsntChange c level s
  | .channelEnqueue c => Sys2Proof.Machine.execChannelEnqueue c s
  | .crownAccessEnqueue => Sys2Proof.Machine.execCrownAccessEnqueue s
  | .readDecode c sc err => Sys2Proof.Machine.execReadDecode c sc err s
  | .emergencyCommand c sc => Sys2Proof.Machine.execEmergencyCommand c sc s
  | .selfRefreshEntry c ms => Sys2Proof.Machine.execSelfRefreshEntry c ms s
  | .selfRefreshExitDone c => Sys2Proof.Machine.execSelfRefreshExitDone c s
  | .parkEntry c ms => Sys2Proof.Machine.execParkEntry c ms s
  | .arbiterRound c => Sys2Proof.Machine.execArbiterRound c s
  | .backoffEnd c j => Sys2Proof.Machine.execBackoffEnd c j s
  | .urgency3 c n => Sys2Proof.Machine.execUrgency3 c n s
  | .crownEmerg => Sys2Proof.Machine.execCrownEmerg s
  | .blockResetRelease => Sys2Proof.Machine.execBlockResetRelease s
  | .startPhaseComplete x => Sys2Proof.Machine.execStartPhaseComplete x s
  | .bclkLock => Sys2Proof.Machine.execBclkLock s
  | .bclkLockTimeout => Sys2Proof.Machine.execBclkLockTimeout s
  | .warmReset => Sys2Proof.Machine.execWarmReset s
  | .fastRestoreDone c pass => Sys2Proof.Machine.execFastRestoreDone c pass s
  | .zeroFillDone c => Sys2Proof.Machine.execZeroFillDone c s
  | .chRst src mask => Sys2Proof.Machine.execChRst src mask s
  | .mvcRestart src crc => Sys2Proof.Machine.execMvcRestart src crc s
  | .cntClr src => Sys2Proof.Machine.execCntClr src s
  | .lockstepDisagreement crc => Sys2Proof.Machine.execLockstepDisagreement crc s
  | .thermUpd headroom tj => Sys2Proof.Machine.execThermUpd headroom tj s
  | .headroomStale => Sys2Proof.Machine.execHeadroomStale s
  | .rebuildRateEval ms => Sys2Proof.Machine.execRebuildRateEval ms s
  | .caliperRunStart c spd => Sys2Proof.Machine.execCaliperRunStart c spd s
  | .caliperRefab c step rk progress => Sys2Proof.Machine.execCaliperRefab c step rk progress s
  | .calStepTimeout c again => Sys2Proof.Machine.execCalStepTimeout c again s
  | .caliperRunEnd c ws => Sys2Proof.Machine.execCaliperRunEnd c ws s
  | .jewelRecordWrite bad1 bad2 => Sys2Proof.Machine.execJewelRecordWrite bad1 bad2 s
  | .balanceRunStart c ms => Sys2Proof.Machine.execBalanceRunStart c ms s
  | .compatStopEnd c sc grid osc => Sys2Proof.Machine.execCompatStopEnd c sc grid osc s
  | .scrubCredit c => Sys2Proof.Machine.execScrubCredit c s
  | .holdReceive u => Sys2Proof.Machine.execHoldReceive u s
  | .heldRequestRelease u => Sys2Proof.Machine.execHeldRequestRelease u s
  | .burlWindowRollover c sc ms => Sys2Proof.Machine.execBurlWindowRollover c sc ms s
  | .heatIntervalEnd c ms => Sys2Proof.Machine.execHeatIntervalEnd c ms s
  | .heatPublish ms => Sys2Proof.Machine.execHeatPublish ms s
  | .brlIdxWrite src c v => Sys2Proof.Machine.execBrlIdxWrite src c v s
  | .routeEpochSwitch ms => Sys2Proof.Machine.execRouteEpochSwitch ms s
  | .torusFlitCrcError n p again => Sys2Proof.Machine.execTorusFlitCrcError n p again s
  | .creditTimeout n p => Sys2Proof.Machine.execCreditTimeout n p s
  | .lossSwitchGo => Sys2Proof.Machine.execLossSwitchGo s
  | .clear n => Sys2Proof.Machine.execClear n s
  | .clearAll => Sys2Proof.Machine.execClearAll s
  | .clearAllAnswer ms => Sys2Proof.Machine.execClearAllAnswer ms s
  | .fenceEffect c ms => Sys2Proof.Machine.execFenceEffect c ms s
  | .fencedSink u => Sys2Proof.Machine.execFencedSink u s
  | .insDoorbell src n v => Sys2Proof.Machine.execInsDoorbell src n v s
  | .doorbellRestart e => Sys2Proof.Machine.execDoorbellRestart e s
  | .doorbellArrival e => Sys2Proof.Machine.execDoorbellArrival e s
  | .ringAttach src r => Sys2Proof.Machine.execRingAttach src r s
  | .ringDetach src r => Sys2Proof.Machine.execRingDetach src r s
  | .ringFlush src r => Sys2Proof.Machine.execRingFlush src r s
  | .latheLineIssue e => Sys2Proof.Machine.execLatheLineIssue e s
  | .descriptorFetchReturn e => Sys2Proof.Machine.execDescriptorFetchReturn e s
  | .latheLineResponse e => Sys2Proof.Machine.execLatheLineResponse e s
  | .offlineReissue e => Sys2Proof.Machine.execOfflineReissue e s
  | .completionForm r => Sys2Proof.Machine.execCompletionForm r s
  | .handoverDone e => Sys2Proof.Machine.execHandoverDone e s
  | .enginePowerUp e => Sys2Proof.Machine.execEnginePowerUp e s
  | .resetDone n => Sys2Proof.Machine.execResetDone n s
  | .quiesced n => Sys2Proof.Machine.execQuiesced n s
  | .instanceFree n ms => Sys2Proof.Machine.execInstanceFree n ms s
  | .instanceIntMessage n => Sys2Proof.Machine.execInstanceIntMessage n s
  | .takeoverStart c => Sys2Proof.Machine.execTakeoverStart c s
  | .copyLine => Sys2Proof.Machine.execCopyLine s
  | .poisonMode => Sys2Proof.Machine.execPoisonMode s
  | .takeoverPower => Sys2Proof.Machine.execTakeoverPower s
  | .fwRestart ms => Sys2Proof.Machine.execFwRestart ms s
  | .fwHeartbeatTimeout => Sys2Proof.Machine.execFwHeartbeatTimeout s
  | .crnInjGo tap v => Sys2Proof.Machine.execCrnInjGo tap v s
  | .injDone => Sys2Proof.Machine.execInjDone s
  | .snap src b => Sys2Proof.Machine.execSnap src b s
  | .quadClr src b => Sys2Proof.Machine.execQuadClr src b s
  | .cntSnapClr src b => Sys2Proof.Machine.execCntSnapClr src b s
  | .cntValWrite src b n v => Sys2Proof.Machine.execCntValWrite src b n v s
  | .cntCtlWrite src b v => Sys2Proof.Machine.execCntCtlWrite src b v s
  | .sampleWindowEnd b => Sys2Proof.Machine.execSampleWindowEnd b s
  | .meshCreditReturn g hdr data => Sys2Proof.Machine.execMeshCreditReturn g hdr data s
  | .fwSwapped => Sys2Proof.Machine.execFwSwapped s
  | .powerFailure code => Sys2Proof.Machine.execPowerFailure code s
  | .crownTestPortClaim on => Sys2Proof.Machine.execCrownTestPortClaim on s
  | .serviceProcessorLink up => Sys2Proof.Machine.execServiceProcessorLink up s

end Sys2Proof.Machine
end

