-- ==== Sys2Proof/Machine/Step.lean ====
section
/-! DEFINITION. One step: the command at the front of the queue, or an idle BCLK. -/
namespace Sys2Proof.Machine

/-- A step takes the command at the front of the queue and gives its outcome on the state with the queue's rest. On an empty queue the
block idles (DESIGN CHOICE, log entry 1). -/
def step (s : State) : Host.Outcome State Fault Refusal :=
  match s.pending with
  | [] => .next s.idleBclk
  | c :: rest => exec c { s with pending := rest }

/-- The command that a word spells is put at the front of the queue. No word spells one. -/
def State.withFetchWord (s : State) (nbits w : Nat) : State :=
  match decodeTableWord nbits w with
  | some c => { s with pending := c :: s.pending }
  | none => s

end Sys2Proof.Machine
end

