-- ==== Sys2Proof/Safety.lean ====
section
/-! DEFINITION. What counts as a well-kept state and a safe run, and what it means that a command leaves a part of the state alone. -/
namespace Sys2Proof.Machine

/-- The DRAM's lines are in canonical form: addresses strictly rising, and no entry equal to what an unlisted line reads as. -/
def State.MemInv (s : State) : Prop := s.memWf = true

/-- A run is safe while every step answers a next state. -/
def Runs (s : State) : Prop := ∃ t, step s = .next t

/-- The parts of the state beside the queue, in the order of `State`'s fields, and the frame count apart from the rest of `esc`. -/
inductive Part where
  | bclk | locked | bin | esc | pages | blk | map | gws | subs | chans | mem | pkts | nodeFree | nextSn | nextFree | trt
  | cnts | gens | crnPreempt | ins | insStage | cals | calrefs | jwl | rings | les | bells | pool | mvc | copy | task
  | therm | crn | rtrs | phase | warm | chRstDenied | fillSkipped | plat | filling | refSpd | tst
  /-- the count of ticks, which is a field of `esc` -/
  | frame
  deriving DecidableEq, Repr

/-- A part is the same in two states. -/
@[reducible] def Part.same (p : Part) (s t : State) : Prop :=
  match p with
  | .bclk => t.bclk = s.bclk
  | .locked => t.locked = s.locked
  | .bin => t.bin = s.bin
  | .esc => t.esc = s.esc
  | .pages => t.pages = s.pages
  | .blk => t.blk = s.blk
  | .map => t.map = s.map
  | .gws => t.gws = s.gws
  | .subs => t.subs = s.subs
  | .chans => t.chans = s.chans
  | .mem => t.mem = s.mem
  | .pkts => t.pkts = s.pkts
  | .nodeFree => t.nodeFree = s.nodeFree
  | .nextSn => t.nextSn = s.nextSn
  | .nextFree => t.nextFree = s.nextFree
  | .trt => t.trt = s.trt
  | .cnts => t.cnts = s.cnts
  | .gens => (t.gens, t.genAt) = (s.gens, s.genAt)
  | .crnPreempt => t.crnPreempt = s.crnPreempt
  | .ins => t.ins = s.ins
  | .insStage => t.insStage = s.insStage
  | .cals => t.cals = s.cals
  | .calrefs => t.calrefs = s.calrefs
  | .jwl => t.jwl = s.jwl
  | .rings => t.rings = s.rings
  | .les => t.les = s.les
  | .bells => t.bells = s.bells
  | .pool => t.pool = s.pool
  | .mvc => t.mvc = s.mvc
  | .copy => t.copy = s.copy
  | .task => t.task = s.task
  | .therm => t.therm = s.therm
  | .crn => t.crn = s.crn
  | .rtrs => t.rtrs = s.rtrs
  | .phase => t.phase = s.phase
  | .warm => t.warm = s.warm
  | .chRstDenied => t.chRstDenied = s.chRstDenied
  | .fillSkipped => t.fillSkipped = s.fillSkipped
  | .plat => (t.plat, t.startCfg) = (s.plat, s.startCfg)
  | .filling => t.filling = s.filling
  | .refSpd => t.refSpd = s.refSpd
  | .tst => t.tst = s.tst
  | .frame => t.esc.frame = s.esc.frame

/-- `t` is `s` but for the parts named: the frame of a command. The queue is the same. -/
def OnlyIn (ps : List Part) (s t : State) : Prop := t.pending = s.pending ∧ ∀ p, p ∉ ps → p.same s t

/-- Two states agree but for the parts named, and the command always answers such a state. -/
def ChangesOnly (ps : List Part) (c : Instr) : Prop := ∀ s t, exec c s = .next t → OnlyIn ps s t

/-- A command that performs the coming tick, or takes the whole block through a reset. -/
def opensFrame : Instr → Bool
  | .escapementTick _ | .insReset | .freeze | .addrMapEpochSwitch _ | .selfRefreshEntry _ _ | .parkEntry _ _ | .rebuildRateEval _
  | .balanceRunStart _ _ | .burlWindowRollover _ _ _ | .heatIntervalEnd _ _ | .heatPublish _ | .routeEpochSwitch _
  | .clearAllAnswer _ | .fenceEffect _ _ | .instanceFree _ _ | .fwRestart _ => true
  | _ => false

/-- The parts that an access to a register may change: what its function acts on, and the work that was due before it. -/
def accessParts : List Part :=
  [.bclk, .esc, .pages, .blk, .map, .gws, .subs, .chans, .mem, .pkts, .nodeFree, .nextFree, .trt, .cnts, .ins, .insStage, .cals,
   .rings, .les, .bells, .pool, .mvc, .task, .crn, .chRstDenied, .tst]

/-- The parts that a tick may change. -/
def tickParts : List Part :=
  accessParts ++ [.gens, .calrefs, .jwl, .copy, .therm, .rtrs, .frame]

/-- Every part of the state. -/
def allParts : List Part :=
  tickParts ++ [.locked, .bin, .nextSn, .crnPreempt, .phase, .warm, .fillSkipped, .plat, .filling, .refSpd]

/-- The parts of the state that a command may change: the most that its rules let it act on, whatever the state. An access may reach every
unit of the block through its register, and a tick does the frame's work everywhere; the frame count is a tick's alone (R35). -/
def frameOf : Instr → List Part
  | .escapementTick .. | .insReset | .freeze | .addrMapEpochSwitch .. | .selfRefreshEntry .. | .parkEntry .. | .rebuildRateEval ..
  | .balanceRunStart .. | .burlWindowRollover .. | .heatIntervalEnd .. | .heatPublish .. | .routeEpochSwitch .. | .clearAllAnswer ..
  | .fenceEffect .. | .instanceFree .. | .fwRestart .. => tickParts
  | .latchPoint .. => [.bclk, .esc, .pages, .blk, .map, .gws, .subs, .chans, .pkts, .trt, .cnts, .ins]
  | .decisionPoint .. => [.bclk, .pages, .blk, .gws, .subs, .chans, .mem, .pkts, .cnts, .crnPreempt, .ins, .mvc, .task]
  | .svcAccess .. | .crownPageAccess .. | .registerWrite .. | .rcRead .. | .loReadLatch .. | .pgCtlWrite .. | .escEnClear ..
  | .escEnSet .. | .pgIsetWrite .. | .commitGo .. | .commitCancel .. | .commitDiscard .. | .blkIntEoi .. | .blkIntCfgWrite ..
  | .mbGo .. | .gwFlush .. | .responseEgress .. | .mapXlate .. | .mrCmdGo .. | .i3cCmdGo .. | .chRst .. | .mvcRestart .. | .cntClr ..
  | .brlIdxWrite .. | .insDoorbell .. | .ringAttach .. | .ringDetach .. | .ringFlush .. | .crnInjGo .. | .snap .. | .quadClr ..
  | .cntSnapClr .. | .cntValWrite .. | .cntCtlWrite .. => accessParts
  | .intentAdoption .. => [.pages]
  | .commitCheck .. => [.pages, .blk, .map, .subs, .trt]
  | .interruptMessage | .rewindTimer .. | .replayTimeout .. | .idleAck .. | .linkInit .. | .retryCBounce .. | .setAsideRelease ..
  | .backoffEnd .. | .scrubCredit .. | .sampleWindowEnd .. => [.bclk, .pages, .blk, .gws, .chans, .pkts, .cnts, .ins]
  | .unknownCommand | .intentGet => [.pages, .blk, .cnts]
  | .frameSet | .tableSet | .refreshSet | .arbSet | .calSet | .scrubSet | .burlSet | .heatSet | .routeSet | .latheSetPool
  | .latheSetEngine | .fwSwapped => [.pages, .blk, .subs, .cnts, .mvc]
  | .frameStatus | .save => [.pages, .blk, .subs, .mem, .cnts, .mvc]
  | .mapSet | .takeover => [.pages, .blk, .map, .subs, .chans, .cnts, .mvc, .task]
  | .reserveSet | .park => [.pages, .blk, .map, .subs, .cnts, .mvc]
  | .train => [.esc, .pages, .blk, .map, .chans, .cnts, .cals, .mvc]
  | .latheSetAttach => [.pages, .blk, .map, .subs, .mem, .nextFree, .cnts, .rings, .les, .pool, .mvc]
  | .latheSetDetach => [.pages, .blk, .subs, .mem, .nextFree, .cnts, .rings, .les, .pool, .mvc]
  | .insCreate | .restore => [.pages, .blk, .cnts, .insStage]
  | .insDestroy | .thaw | .cntUserSet | .resetDone .. | .instanceIntMessage .. => [.pages, .blk, .cnts, .ins]
  | .shareSet => [.pages, .blk, .chans, .cnts, .ins]
  | .rejoin => [.esc, .pages, .blk, .chans, .cnts, .mvc, .task]
  | .fwSwap .. => [.pages, .blk, .cnts, .mvc]
  | .chanTestLine .. | .chanTestLoopback .. => [.esc, .pages, .blk, .subs, .chans, .mem, .cnts, .cals, .mvc, .tst]
  | .lineRead .. | .multiRead .. | .lineWrite .. | .lineWriteData .. | .strayDataFlit .. | .missingWriteData .. | .phaseErr ..
  | .aliveFall .. | .tailDiscardEat .. | .tailDiscardHeader .. => [.pages, .blk, .gws, .chans, .pkts, .cnts]
  | .linkCrcError .. | .nakReceived .. => [.pages, .gws, .cnts]
  | .ackReceived .. | .meshInit .. | .meshCreditReturn .. => [.gws]
  | .aliveRise .. => [.pages, .blk, .gws, .subs, .mvc]
  | .alertN .. => [.pages, .subs, .chans, .mem, .cnts, .cals, .task]
  | .alertWindowClose .. | .emergencyCommand .. | .selfRefreshExitDone .. => [.bclk, .pages, .blk, .gws, .subs, .chans, .pkts, .cnts, .ins]
  | .mr4Read .. => [.pages, .subs, .chans, .task]
  | .ecsRead .. => [.pages, .subs, .chans, .nextFree]
  | .sidebandTransactionDone .. => [.pages, .chans, .task]
  | .sidebandPoll .. | .inBandInterrupt .. | .prsntChange .. => [.chans]
  | .sidebandTimeout .. => [.bclk, .pages, .blk, .gws, .chans, .pkts, .cnts, .ins, .task]
  | .channelEnqueue .. => [.bclk, .pages, .blk, .gws, .subs, .chans, .pkts, .nextSn, .cnts, .ins]
  | .crownAccessEnqueue => [.bclk, .pages, .blk, .gws, .subs, .chans, .pkts, .nextSn, .cnts, .ins, .crn]
  | .readDecode .. => [.bclk, .pages, .blk, .gws, .subs, .chans, .pkts, .cnts, .ins, .mvc, .copy, .task]
  | .arbiterRound .. => [.bclk, .pages, .blk, .gws, .subs, .chans, .pkts, .cnts, .ins, .les, .mvc]
  | .urgency3 .. => [.bclk, .pages, .blk, .gws, .chans, .pkts, .cnts, .ins, .les, .mvc]
  | .crownEmerg => [.bclk, .pages, .blk, .gws, .chans, .pkts, .cnts, .ins, .les, .mvc, .crn]
  | .blockResetRelease | .bclkLockTimeout => [.phase]
  | .startPhaseComplete .. =>
      [.bin, .esc, .pages, .blk, .map, .gws, .subs, .chans, .pkts, .ins, .cals, .calrefs, .les, .mvc, .phase, .fillSkipped, .plat,
      .filling, .refSpd]
  | .bclkLock => [.bclk, .locked, .esc, .pages, .subs, .mvc, .plat]
  | .warmReset | .powerFailure .. => allParts
  | .fastRestoreDone .. | .caliperRunEnd .. => [.pages, .subs, .chans, .mem, .nextFree, .cals, .jwl]
  | .zeroFillDone .. => [.esc, .pages, .blk, .subs, .chans, .mem, .cnts, .mvc, .task, .filling]
  | .lockstepDisagreement .. => [.esc, .pages, .blk, .gws, .chans, .pkts, .cnts, .ins, .insStage, .les, .pool, .mvc, .task, .tst]
  | .thermUpd .. => [.therm]
  | .headroomStale => [.bclk, .pages, .blk, .gws, .chans, .pkts, .cnts, .ins, .therm]
  | .caliperRunStart .. => [.pages, .blk, .subs, .chans, .mem, .cals, .mvc]
  | .caliperRefab .. => [.bclk, .pages, .blk, .gws, .chans, .pkts, .cnts, .ins, .cals]
  | .calStepTimeout .. => [.bclk, .pages, .blk, .gws, .subs, .chans, .mem, .pkts, .cnts, .ins, .cals]
  | .jewelRecordWrite .. => [.pages, .cnts, .cals, .jwl]
  | .compatStopEnd .. => [.bclk, .pages, .blk, .gws, .subs, .chans, .pkts, .cnts, .ins, .task]
  | .holdReceive .. | .heldRequestRelease .. | .fencedSink .. => [.bclk, .pages, .blk, .gws, .chans, .pkts, .cnts, .ins, .les]
  | .torusFlitCrcError .. | .creditTimeout .. => [.pages, .chans, .pkts, .trt, .cnts, .rtrs]
  | .lossSwitchGo => [.pages, .blk, .subs, .mvc]
  | .clear .. | .clearAll => [.trt]
  | .doorbellRestart .. | .doorbellArrival .. =>
      [.bclk, .pages, .blk, .gws, .subs, .chans, .mem, .pkts, .cnts, .ins, .rings, .les, .bells, .mvc]
  | .latheLineIssue .. => [.bclk, .pages, .blk, .gws, .subs, .chans, .mem, .pkts, .cnts, .ins, .rings, .les, .mvc]
  | .descriptorFetchReturn .. | .latheLineResponse .. | .offlineReissue .. =>
      [.bclk, .pages, .blk, .gws, .chans, .pkts, .cnts, .ins, .rings, .les]
  | .completionForm .. => [.pages, .cnts, .ins, .rings, .les]
  | .handoverDone .. => [.pages, .gws, .subs, .chans, .mem, .pkts, .rings, .les, .mvc]
  | .enginePowerUp .. => [.pages, .subs, .mem, .rings, .les, .mvc]
  | .quiesced .. => [.pages, .blk, .subs, .mem, .cnts, .ins, .rings, .mvc]
  | .takeoverStart .. => [.pages, .blk, .map, .subs, .chans, .mvc, .task]
  | .copyLine | .poisonMode => [.bclk, .pages, .blk, .gws, .chans, .pkts, .cnts, .ins, .mvc, .copy]
  | .takeoverPower => [.pages, .blk, .chans, .cnts, .task]
  | .fwHeartbeatTimeout => [.bclk, .pages, .blk, .gws, .chans, .pkts, .nextFree, .cnts, .ins, .mvc]
  | .injDone => [.bclk, .pages, .blk, .gws, .chans, .pkts, .cnts, .ins, .crn]
  | .crownTestPortClaim .. | .serviceProcessorLink .. => [.crn]

/-- The block as an access of a source to register `off` of a page meets it: the requests due before it have been performed, a Crown
access has taken its node and counted (R481, R903), and the commit checks that are over have been applied. -/
def State.met (s : State) (src : Src) (p : PageId) (off : Nat) : State :=
  let u := s.runSvcsTo (s.bclk - 1)
  (match src with
   | .crown _ =>
     let v := u.nodeUsed (((pageOf ((p.num * 4096 + off) / 4096)).map PageId.node).getD nodeSvc) u.bclk
     { v with crn := { v.crn with accCnt := wrapAdd 16 v.crn.accCnt 1 } }
   | _ => u)

/-- The access is one that its source may make (R81 to R83, R99 to R104, R902): it holds the Crown port if it comes by it, reaches the page,
is aligned, and every register it names takes it. -/
def State.granted (s : State) (src : Src) (p : PageId) (off : Nat) (wide wr : Bool) : Bool :=
  let addr := p.num * 4096 + off
  let u := s.met src p off
  let m := u.settle
  (s.runSvcsTo (s.bclk - 1)).holdsPort src &&
  (match src with | .fabric _ i v => u.reachesAt i v wr addr | _ => true) &&
  addr % (if wide then 8 else 4) == 0 && decide (off < 4096) && pageAt addr == some p &&
  (if wide then [off, off + 4] else [off]).all fun o => if wr then m.mayWrite src p o else mayRead src p o

/-- A page but for its pending interrupts and what reports them. -/
def Page.body (pg : Page) : Page := { pg with isr := 0, evt := 0, evtAt := 0, wire := [] }

/-- The answer of an access: its status and its data, and the count of accesses that succeed. -/
def State.answered (m : State) (status data : Nat) : State :=
  let n := if status = 0 then m.ev { box := boxBlk, code := 0x04 } else m
  { n with blk := { n.blk with accStatus := status, accData := data } }

/-- What a granted 4-byte write leaves. -/
def State.wrote (s : State) (src : Src) (p : PageId) (off : Nat) (v : Word) : State :=
  let a := (s.met src p off).settle.writeReg src p off v
  a.1.answered a.2 0

/-- What a granted 4-byte read leaves. -/
def State.hasRead (s : State) (src : Src) (p : PageId) (off : Nat) : State :=
  let a := (s.met src p off).settle.readReg p off
  a.1.answered 0 a.2.toNat

/-! ### The words of the statements -/

/-- The block as the effect of an access finds it: as `met`, and the commit checks that have run out of time are over (R107). -/
def State.atPage (s : State) (src : Src) (p : PageId) (off : Nat) : State := (s.met src p off).settle

/-- The command answers a next state, of which `P` holds. -/
def Gives (c : Instr) (s : State) (P : State → Prop) : Prop := ∃ t, exec c s = .next t ∧ P t

/-- The access was answered OK with these data (R19), and no page but `p` differs, but for interrupts that the events of the access set. -/
def Answered (p : PageId) (data : Nat) (m t : State) : Prop :=
  t.blk.accStatus = 0 ∧ t.blk.accData = data ∧ ∀ q : PageId, q.num ≠ p.num → (t.page q).body = (m.page q).body

/-- A read-write register whose write does no more than store the value (R97). -/
def plainRw (p : PageId) (off : Nat) : Bool :=
  match p with
  | .blk | .brl _ | .lthPool => false
  | .cc _ => off == 0x074
  | .cnt _ => decide (off < 0x080)
  | _ => true

/-- A command that names an event of a tick, where `t` is the block after the coming tick: it answers that tick where the event falls due at
it, which opens the next frame, and otherwise it changes nothing (log entry 4). -/
def NamesTick (s t : State) (c : Instr) (due : Prop) : Prop :=
  (due → Gives c s fun u => u = t ∧ u.esc.frame = s.esc.frame + 1) ∧ (¬due → exec c s = .next s)

/-- Mailbox `m` has ended its command: BUSY is clear and DONE is set, with the status, the detail, the echo of MB_SEQ and the results
given; every other result register is as it was (R137). -/
def Ended (s t : State) (m status detail : Nat) (res : List (Nat × Nat)) : Prop :=
  (t.mbx m).busy = false ∧ (t.mbx m).done = true ∧ (t.mbx m).running = false ∧ (t.mbx m).status = status ∧
  (t.mbx m).detail = detail ∧ (t.mbx m).seqEcho = (s.mbx m).seq ∧
  ∀ n, Tbl.get (fun _ => 0) (t.mbx m).res n = ((res.lookup n).map (BitVec.ofNat 32)).getD (Tbl.get (fun _ => 0) (s.mbx m).res n)

/-- Mailbox `m` runs a command that awaits commits of the pages given. -/
def Awaits (t : State) (m : Nat) (pages : List PageId) : Prop :=
  (t.mbx m).running = true ∧ (t.mbx m).go = false ∧ (t.mbx m).await = pages.map PageId.num

/-- Movement may write and commit the pages: each is at the basic level, with no commit pending and no adoption in progress (R129, R131). -/
def State.pagesOpen (s : State) (l : List PageId) : Prop := s.esc.running = true ∧ s.anyExpert l = false ∧ s.pagesBusy l = false

/-- The commit of a page is being checked, with the target frame given; it arrived in the present frame (R51, R56). -/
def Checking (s t : State) (p : PageId) (target : Word) : Prop :=
  (t.page p).cmt = .checking ∧ (t.page p).commit.want = target ∧ (t.page p).commit.arrive = s.esc.frame

/-- What a command that commits registers leaves: the shadows hold the values given, each page's commit is being checked, mailbox `m`
awaits the commits, and no active value has changed. -/
def Commits (s : State) (m : Nat) (pages : List PageId) (target : Word) (ws : List (PageId × Nat × Word)) (t : State) : Prop :=
  Awaits t m pages ∧ (∀ x ∈ ws, t.shd x.1 x.2.1 = x.2.2 &&& regMask x.1 x.2.1) ∧ (∀ p ∈ pages, Checking s t p target) ∧
  ∀ p o, t.reg p o = s.reg p o

/-- A gateway that takes the next flit of its link: the link is up, both pages are enabled, and the flit has the expected number (R149). -/
def State.flitOk (s : State) (g seq : Nat) : Prop := (s.gw g).link = .up ∧ s.gwEn g = true ∧ seq % 4096 = (s.gw g).expSeq

/-- A gateway at which a header may come: none of its items is incomplete, and a header credit is out (R152, R184). -/
def State.portClear (s : State) (g : Nat) : Prop := (s.gw g).due = 0 ∧ (s.gw g).tailDisc = false ∧ 0 < (s.gw g).reqHdr

/-- A write whose header is the last in the FIFO and whose data flit is due (R163, R185). -/
def State.writeDue (s : State) (g : Nat) (is : List Item) (i : Item) : Prop :=
  (s.gw g).fifo = is ++ [i] ∧ i.hdr.last = false ∧ i.data = none ∧ (s.gw g).due = 1 ∧ (s.gw g).tailDisc = false

/-- The gateway has taken a header flit with one credit: its item is the last of the FIFO, and nothing is decided of it yet (R149, R152,
R166, R184). -/
def HeaderTaken (s t : State) (g : Nat) (h : ReqHdr) : Prop :=
  (t.gw g).expSeq = ((s.gw g).expSeq + 1) % 4096 ∧ (t.gw g).reqHdr = (s.gw g).reqHdr - 1 ∧
  (t.gw g).due = (if h.last then 0 else if h.opcode = 3 then 1 else 2) ∧
  (t.gw g).fifo = (s.gw g).fifo ++ [{ hdr := h, at_ := s.bclk, thr := s.ctThresh g }] ∧ (t.gw g).tags = (s.gw g).tags ∧ t.pkts = s.pkts

/-- The shadowed registers of a page that an image of a table fills (R334). -/
def tableWrites (p : PageId) (i : Image) : List (PageId × Nat × Word) :=
  (p, 0x040, i.cfg) :: (p, 0x078, i.flex) :: i.words.zipIdx.map fun w => (p, 0x600 + 4 * w.2, w.1)

end Sys2Proof.Machine
end

