-- ==== Sys2Proof/Certificates/Slice0/Obligations.lean ====
section
/-! DEFINITION. The statements of this model, from the numbered rules of the spec: what every command does to the state, and what every
step keeps. A docstring names the rules a statement rests on; where it rests on a choice of this model, the log entry. In a statement `s` is
the state a command finds, `t` the one it answers, and `m` the block as a granted access finds it (`State.atPage`). -/
open Sys2Proof Sys2Proof.Machine

/-! ### The queue, reset and every command -/

/-- The rule of a block's step: the command at the front of the queue is carried out on the state with the queue's rest; on an empty queue
a BCLK passes once BCLK has locked (log entry 1, the model's choice). -/
def Obligations.StepRunsTheFrontCommand : Prop :=
  ∀ s : State, (∀ (c : Instr) (rest : List Instr), s.pending = c :: rest → step s = exec c { s with pending := rest }) ∧
    (s.pending = [] → ∃ t, step s = .next t ∧ t.pending = [] ∧ (s.locked = false → t = s) ∧
      (s.locked = true → s.canReach (s.bclk + 1) = true → s.bclk + 1 ≤ t.bclk))

/-- R1, R512 and log entry 9: the DRAM's lines keep their canonical form through every step. -/
def Obligations.StepsKeepLinesCanonical : Prop := ∀ s t : State, s.MemInv → step s = .next t → t.MemInv

/-- Log entry 9: after reset the DRAM's lines are in canonical form. -/
def Obligations.ResetLinesCanonical : Prop := State.reset.MemInv

/-- R35, R76, R88, R92, R96, R213, R223, R415, R498, R528, R566: what the spec's rules give after reset. -/
def Obligations.ResetValues : Prop :=
  let s := State.reset
  s.esc.frame = 0 ∧ s.esc.running = false ∧ s.phase = 0 ∧ s.mvc.running = false ∧ s.therm.stale = true ∧ s.locked = false ∧
  (∀ p : PageId, (s.page p).imr = 0xFFFFFFFF ∧ (s.page p).isr = 0 ∧ (s.page p).cmt = .idle ∧ (s.page p).expert = false ∧ (s.page p).err = 0) ∧
  (∀ n d, n < 36 → d < 36 → s.routePort n d = xyPort n d) ∧
  (∀ c, c < 17 → (s.chan c).role = 31 ∧ (s.chan c).sr = .awake ∧ (s.chan c).calState = 0) ∧
  ∀ g, g < 16 → (s.gw g).link = .aliveLow ∧ (s.gw g).reqHdr = 48 ∧ (s.gw g).reqData = 32 ∧ (s.gw g).rspHdr = 0 ∧ (s.gw g).rspData = 0

/-- Log entry 3: every command answers a next state from every state, and takes nothing from the queue and adds nothing to it. -/
def Obligations.EveryCommandAnswersANextState : Prop :=
  ∀ (c : Instr) (s : State), Gives c s fun t => t.pending = s.pending

/-- R35, R48: the frame count advances by one at a tick, and only by the commands that a tick carries out; a warm reset or a power failure
alone sets it back. -/
def Obligations.OnlyTicksAdvanceTheFrame : Prop :=
  ∀ (c : Instr) (s t : State), exec c s = .next t →
    t.esc.frame = s.esc.frame ∨ (opensFrame c = true ∧ s.esc.running = true ∧ t.esc.frame = s.esc.frame + 1) ∨
    ((c = .warmReset ∨ ∃ code, c = .powerFailure code) ∧ t.esc.frame = 0)

/-- The frame of every command (log entry 3): where it answers a next state, the queue and every part of the state are as before but for
the parts that `frameOf` names for it. In particular every command whose parts leave out `mem` stores nothing to the DRAM: every line
reads as before. -/
def Obligations.CommandsChangeOnlyTheirParts : Prop :=
  ∀ c : Instr, ChangesOnly (frameOf c) c ∧
    (Part.mem ∉ frameOf c → Part.chans ∉ frameOf c → ∀ s t l, exec c s = .next t → t.readLine l = s.readLine l)

/-- R371, R379, R504, R542, R545, R554, R512, R797, R846: the lines that the commands which store to the DRAM leave alone. A decision point stores to
the line of a write that its subchannel buffers or of its Crown write, and to no other; Caliper, a fast restore, an alert that fails a run
and a fill lose or write lines of their own channel alone; Lathe and a freeze write ring contexts back, each to the line that `ctxAddr` gives, and no other. -/
def Obligations.StoresKeepOtherLines : Prop :=
  ∀ (s t : State) (l : Loc),
    (∀ (c : Fin 17) (sc : Fin 2) z, exec (.decisionPoint c sc z) s = .next t → (∀ w ∈ (s.sub c sc).wb, locKey w.req.loc ≠ locKey l) →
      (∀ a, (s.sub c sc).crown = some a → locKey a.req.loc ≠ locKey l) → t.readLine l = s.readLine l) ∧
    (∀ (c : Fin 17) i, ((∃ spd, i = .caliperRunStart c spd) ∨ (∃ again, i = .calStepTimeout c again) ∨ (∃ ws, i = .caliperRunEnd c ws) ∨
        (∃ ok, i = .fastRestoreDone c ok) ∨ (∃ sc k, i = .alertN c sc k) ∨ i = .zeroFillDone c) → exec i s = .next t → l.ch ≠ c.val → chanOfKey (locKey l) ≠ c.val → t.readLine l = s.readLine l) ∧
    ∀ i, ((∃ e, i = .latheLineIssue e ∨ i = .doorbellArrival e ∨ i = .doorbellRestart e ∨ i = .handoverDone e ∨ i = .enginePowerUp e) ∨
        ∃ n, i = .quiesced n) → exec i s = .next t → (∀ r x, s.dest (s.ctxAddr r) = .at_ x → locKey x ≠ locKey l) → t.readLine l = s.readLine l

/-! ### The frame (chapter 01) and the slot engine's decisions (chapters 06, 07) -/

/-- R35: FRAME_NO reads from the ESC page; it is 0 after reset, and the coming tick, which occurs while the frames run, adds 1 to it.
While they do not run, no tick occurs (R29). -/
def Obligations.TickOpensTheNextFrame : Prop :=
  State.reset.frameNo = 0 ∧
  ∀ (s : State) (ms : List CalMeas),
    (s.locked = true → (s.regValue .esc 0x040).toNat + 2 ^ 32 * (s.regValue .esc 0x044).toNat = s.frameNo) ∧
    (s.esc.running = true → Gives (.escapementTick ms) s fun t => t.frameNo = (s.frameNo + 1) % 2 ^ 48 ∧ t.esc.frame = s.esc.frame + 1 ∧
      t.phase = s.phase ∧ t.locked = s.locked ∧ t.bin = s.bin) ∧
    (s.esc.running = false → exec (.escapementTick ms) s = .next s)

/-- Log entry 4: a command that names what a tick does carries out the coming tick, whole, where its event falls due at it, and otherwise
changes nothing. Whether it falls due is told by the state in which the tick comes to its step, before what the step does: R244 an address-map
epoch switches, R415 a channel enters self-refresh, R420 it is parked, R523 the rate is evaluated, R580 a Balance run starts, R678 a Burl
window rolls over, R697 a heat interval ends and a list is published, R735 the route epoch switches, R742 the requests lost are answered,
R746 a fence takes effect, R851 an instance becomes FREE, R888 Movement restarts into its new image, R835 and R846 an instance is reset and
frozen. -/
def Obligations.TickEventsCarryOutTheirTick : Prop :=
  ∀ (s : State) (ms : List CalMeas),
    let Ticks := fun (c : Instr) (due : Prop) => NamesTick s (s.escapementTick ms) c (s.esc.running = true ∧ due)
    Ticks (.escapementTick ms) True ∧
    Ticks (.rebuildRateEval ms) ((s.frameNo + 1) % 1024 = 0) ∧
    (∀ v : State, v.frameNo % 1024 = 0 → v.rateEval.therm.rateNext = some (min (v.regFld .blk 0x048 5 7)
      (5 * if v.therm.capBclk = some v.bclk then v.therm.prev else if v.therm.stale = true then 0 else v.therm.headroom))) ∧
    (let v := s.atMap
     let due := v.map.kind ≠ 0 ∧ v.map.hold = true ∧ v.map.eff < v.esc.frame ∧ v.mapReady = true
     Ticks (.addrMapEpochSwitch ms) due ∧
     (due → v.mapSwitch.map.epoch = wrapAdd 16 v.map.epoch 1 ∧ v.mapSwitch.map.hold = false ∧ v.mapSwitch.map.kind = 0)) ∧
    (let v := s.atRoute
     let due := v.trt.hold = true ∧ v.routeDrained v.bclk = true
     Ticks (.routeEpochSwitch ms) due ∧
     (due → v.routeStep.trt.epoch = wrapAdd 16 v.trt.epoch 1 ∧ v.routeStep.trt.hold = false ∧ v.routeStep.trt.active = !v.trt.active)) ∧
    (∀ i : Fin 4096,
     let v := s.atFree
     let x := v.insOf i
     let due := s.toTick.tickToIns.wasLate 6 255 = false ∧ x.st = 5 ∧ x.resetDone = true ∧ v.ringsOf i = [] ∧ x.effAt < v.esc.frame ∧
       ∀ c, c < 17 → (v.chan c).shareOf i = 0 ∧ ∀ y ∈ (v.chan c).shareChg, y.1 ≠ i.val
     Ticks (.instanceFree i ms) due ∧ (due → (v.insFreeTick i).insOf i = {} ∧ ((v.insFreeTick i).page (.ins i)).en = false)) ∧
    (∀ c : Fin 17,
      (let v := s.atBal ms c
       let due := ((s.atChan ms c).chan c).bal.running = false ∧ (v.chan c).bal.trigLatched ≠ 0 ∧ v.balMay c = true
       Ticks (.balanceRunStart c ms) due ∧
       (due → let b := ((v.balOpen false c).chan c).bal
         b.running = true ∧ b.lastTrig = firstTrig (v.chan c).bal.trigLatched ∧ b.startFrame = v.esc.frame)) ∧
      (∀ sc : Fin 2,
       let v := (s.atChan ms c).chanWindows ms c sc
       let due := (v.chan c).inService = true ∧ v.windowEnds c sc v.esc.frame = true
       Ticks (.burlWindowRollover c sc ms) due ∧
       (due → let b := (v.windowOpen c sc).sub c sc
         b.winSeq = wrapAdd 16 (v.sub c sc).winSeq 1 ∧ b.winStart = v.esc.frame ∧ b.hammer = [])) ∧
      (let v := (s.atChan ms c).chanWindows ms c 2
       let n := v.regFld (.brl c) 0x044 0 16
       let due := n ≠ 0 ∧ v.frameNo % n = 0
       Ticks (.heatIntervalEnd c ms) due ∧ (due → ((v.heatCapture c).chan c).brl.cap = some (v.heatMerge c, v.esc.frame + 8))) ∧
      (let v := s.atFence ms c
       let due := (v.chan c).fenced = false ∧ (v.chan c).fencePend = true ∧ (v.chan c).fenceLatch = true
       Ticks (.fenceEffect c ms) due ∧
       (due → ((v.fenceTick c).chan c).fenced = true ∧ flag ((v.fenceTick c).page (.cc c)).isr 8 = true)) ∧
      (let v := s.atSleep ms c
       let park := flag (v.reg (.cc c) 0x050) 17
       let n := v.regFld (.cc c) 0x050 0 16
       let due := (v.chan c).sr = .awake ∧ v.idle c = true ∧ park = false ∧ n ≠ 0 ∧ n ≤ (v.chan c).idleCnt
       let parks := park = true ∧ ((v.chan c).sr = .idleSr ∨ ((v.chan c).sr = .awake ∧ v.idle c = true))
       Ticks (.selfRefreshEntry c ms) due ∧ (due → ((v.srTick c).chan c).sr = .idleSr) ∧
       Ticks (.parkEntry c ms) parks ∧ (parks → ((v.srTick c).chan c).sr = .parked))) ∧
    (let v := s.atPublish ms
     let due := fun c => c < 17 ∧ ∃ l f, (v.chan c).brl.cap = some (l, f) ∧ f ≤ v.esc.frame
     Ticks (.heatPublish ms) (∃ c, due c) ∧
     ∀ c l f, c < 17 → (v.chan c).brl.cap = some (l, f) → f ≤ v.esc.frame →
       let b := (v.heatPublish.chan c).brl
       b.cap = none ∧ b.list = l ∧ b.valid = true) ∧
    (let v := s.atRestart ms
     let due := v.wasLate 6 255 = false ∧ v.mvc.swapPend = true ∧ v.mvc.halted = false ∧ v.mvc.swapFrame ≤ v.esc.frame
     Ticks (.fwRestart ms) due ∧
     (due → v.fwTick.mvc.swapPend = false ∧ v.fwTick.mvc.running = false ∧ v.fwTick.mvc.trial = some (v.esc.frame, v.bclk))) ∧
    (let v := s.atAnswer ms
     Ticks (.clearAllAnswer ms) (∃ f, v.trt.clearAll = some f ∧ f + 4 ≤ v.esc.frame) ∧
     ∀ f, v.trt.clearAll = some f → f + 4 ≤ v.esc.frame →
       v.clearAnswer.trt.clearAll = none ∧ v.clearAnswer.trt.clearPend = false ∧ v.clearAnswer.trt.clears = []) ∧
    (ms = [] →
      let v := s.atInsDone
      (s.mbOf 0xA2 = none → Ticks .insReset (∃ e ∈ s.ins, (s.insOf e.1).next = 3 ∧ (v.insOf e.1).next ≠ 3)) ∧
      (s.mbOf 0xA4 = none → Ticks .freeze (∃ e ∈ s.ins, (s.insOf e.1).next = 4 ∧ (v.insOf e.1).next ≠ 4)))

/-- R43: the latch point comes once a frame, at the first BCLK of its slot, and belongs to the frame in progress. -/
def Obligations.LatchPointComesOncePerFrame : Prop :=
  ∀ (s : State) (late : List (Nat × Nat)), s.esc.running = true →
    (s.esc.latched = false → s.canReach (max s.bclk s.latchBclk) = true → Gives (.latchPoint late) s fun t =>
      t.esc.latched = true ∧ t.bclk = max s.bclk s.latchBclk ∧ t.esc.frame = s.esc.frame ∧ t.mem = s.mem) ∧
    (s.esc.latched = true → exec (.latchPoint late) s = .next s)

/-- R352, R364, R389, R511: at the decision point of the next undecided slot, an engine that does not run leaves the slot plan-idle, or
counts a write moved where a zero fill takes it; one whose
entry finds an eligible read serves it there: the read leaves the request RAM and its line is on its way to decode. -/
def Obligations.DecisionPointDecidesNextSlot : Prop :=
  ∀ (s : State) (c : Fin 17) (sc : Fin 2) (z : Sense),
    let p := s.nextDec c sc
    let at_ := s.decBclk c p
    let d := (s.goto at_).drainActs c sc (s.goto at_).bclk
    let u := d.updSub c sc fun b => { b with lastDec := some p, crnWr := b.crnWr.filter fun x => decide (d.bclk < x.2) }
    s.esc.running = true → s.canReach at_ = true →
    (u.notRunning c sc p = true → Gives (.decisionPoint c sc z) s fun t => t.bclk = max s.bclk at_ ∧
      let w := (u.mrOffline c sc p z).sub c sc
      let e := u.effEntry c sc p
      t.sub c sc = if (e.isData && e.dir && u.fills c sc) = true then { w with quadWr := (w.quadWr + 1) % 2 ^ 48 }
        else { w with quadPlan := (w.quadPlan + 1) % 2 ^ 48 }) ∧
    (u.notRunning c sc p = false →
      let v := (u.flexDecide c sc p).decideWins c sc p
      let e := v.effEntry c sc p
      let w := v.closeRow c sc e.bank (cmdPos v.bin (v.timing c) e.dir (v.absSlot p)).act.toNat
      (v.chan c).drain = false → v.suppressed c sc p e = none → e.isData = true → e.isMrs = false → e.isCal = false → e.kind ≠ 3 →
      e.col = false → ((v.sub c sc).winDec.any fun q => q.1 == p && q.2) = false → e.dir = false → (w.sub c sc).crown = none →
      ∀ r h, w.found c sc p e = .serve r h → r.kind = .read → r.req.write = false →
      Gives (.decisionPoint c sc z) s fun t => t.bclk = max s.bclk at_ ∧
        (t.sub c sc).ram.length + 1 = (w.sub c sc).ram.length ∧
        ∃ x, (t.sub c sc).served = (w.sub c sc).served ++ [x] ∧ x.sn = r.sn ∧ x.req = r.req ∧ x.slot = p ∧ x.fwd = false)

/-! ### Register accesses and control pages (chapter 02) -/

/-- R105, R106 and R97: a granted 4-byte write of an RS register changes its shadow copy alone, in its defined bits, and is refused while
a commit is pending; one of a plain RW register changes its value at once. -/
def Obligations.StoredRegistersTakeWrites : Prop :=
  ∀ (s : State) (src : Src) (p : PageId) (off : Nat) (data : BitVec 64) (r : RegRow) (c : Instr),
    wfSrc src = true → s.granted src p off false true = true → s.locked = true → regRow p off = some r →
    (c = .registerWrite src (p.num * 4096 + off) false data ∨
      ∃ tap, src = .crown tap ∧ c = .crownPageAccess tap (p.num * 4096 + off) false true data) →
    let m := s.atPage src p off
    let v := BitVec.ofNat 32 data.toNat &&& regMask p off
    (r.acc = .rs → m.rsLocked p = false → Gives c s fun t => Answered p 0 m t ∧ t.shd p off = v ∧
      (∀ o, o ≠ off → t.shd p o = m.shd p o) ∧ ∀ o, t.reg p o = m.reg p o) ∧
    (r.acc = .rs → m.rsLocked p = true → Gives c s fun t => Answered p 0 m t ∧
      (t.page p).err = pack [(0, 12, off), (16, 8, 3), (24, 8, 0x0C)] ∧ ∀ o, t.shd p o = m.shd p o ∧ t.reg p o = m.reg p o) ∧
    (r.acc = .rw → plainRw p off = true → Gives c s fun t => Answered p 0 m t ∧ t.reg p off = v ∧
      (∀ o, o ≠ off → t.reg p o = m.reg p o) ∧ ∀ o, t.shd p o = m.shd p o)

/-- R97, R99, R112, R121, R123, R619: a granted read of a read-clear register answers its value and clears it, but for what an update of
the same BCLK has set, which stays. -/
def Obligations.ReadClearAnswersAndClears : Prop :=
  ∀ (s : State) (src : Src) (p : PageId) (off : Nat),
    wfSrc src = true → s.granted src p off false false = true → s.locked = true →
    let m := s.atPage src p off
    let c := Instr.rcRead src (p.num * 4096 + off)
    (off = 0x024 →
      let x := rcRead (m.page p).errWas m.bclk (m.page p).err
      Gives c s fun t => Answered p x.1.toNat m t ∧ (t.page p).err = x.2) ∧
    (p = .blk → off = 0x070 →
      let x := rcRead m.blk.badWas m.bclk m.blk.badAcc
      Gives c s fun t => Answered p x.1.toNat m t ∧ t.blk.badAcc = x.2 ∧ t.blk.cmtRef = m.blk.cmtRef) ∧
    (p = .blk → off = 0x078 →
      let x := rcRead m.blk.refWas m.bclk m.blk.cmtRef
      Gives c s fun t => Answered p x.1.toNat m t ∧ t.blk.cmtRef = x.2 ∧ t.blk.badAcc = m.blk.badAcc) ∧
    (∀ ch, p = .bal ch → off = 0x04C →
      let x := rcRead (m.chan ch).bal.laneWas m.bclk (m.chan ch).bal.laneEvt
      Gives c s fun t => Answered p x.1.toNat m t ∧ (t.chan ch).bal.laneEvt = x.2 ∧ ∀ k, k ≠ ch → t.chan k = m.chan k) ∧
    ∀ (was : Option (Nat × Word)) (b : Nat) (v : Word), (∀ x, was = some x → x.1 ≠ b) → rcRead was b v = (v, 0)

/-- R85: a granted 4-byte read of the LO half of a read-only pair answers it, and the next read of the HI half answers what HI held then.
-/
def Obligations.LoReadLatchesHi : Prop :=
  ∀ (s : State) (src : Src) (p : PageId) (off : Nat),
    wfSrc src = true → s.granted src p off false false = true → s.locked = true → roLo p off = true →
    let m := s.atPage src p off
    Gives (.loReadLatch src (p.num * 4096 + off)) s fun t =>
      Answered p (m.regValue p off).toNat m t ∧ ∀ u : State, u.locked = true → u.page p = t.page p → (u.readReg p (off + 4)).2 = m.regValue p (off + 4)

/-- R92, R93: a granted write of PG_CTL of a page other than the ESC page, by the manager or the Crown port, takes EN for the next tick
and EXPERT, USER and SHADOW_VIEW at once; MVC_ACTIVE sets where the page returns to the basic level (R131). Before phase 7 it is refused with
FIELD, rule STATE (R502; for the Crown port the model's choice, log entry 58). -/
def Obligations.PgCtlWriteTakesLevels : Prop :=
  ∀ (s : State) (src : Src) (p : PageId) (v : Word),
    wfSrc src = true → s.granted src p 0x008 false true = true → s.locked = true → src ≠ .movement → p ≠ .esc →
    let m := s.atPage src p 0x008
    (m.phase < 7 → Gives (.pgCtlWrite src p.num v) s fun t => Answered p 0 m t ∧
      (t.page p).err = pack [(0, 12, 0x008), (16, 8, 8), (24, 8, 0x0C)] ∧ (t.page p).enReq = (m.page p).enReq ∧
      (t.page p).en = (m.page p).en ∧ (t.page p).expert = (m.page p).expert) ∧
    (7 ≤ m.phase → (m.cmtShown p = .idle ∧ (m.page p).pendingCmt = false ∧ m.mvcShown p = false) →
      (flag v 0 = true ∨ (m.page p).enReq = false ∨ m.enHeld p = false) →
      Gives (.pgCtlWrite src p.num v) s fun t => Answered p 0 m t ∧
        (t.page p).enReq = flag v 0 ∧ (t.page p).en = (m.page p).en ∧ (t.page p).expert = (flag v 1 && p.expertOk) ∧
        (t.page p).user = (flag v 2 && p.userOk) ∧ (t.page p).shadowView = flag v 3 ∧
        (t.page p).mvcActive = ((m.page p).expert && !(flag v 1 && p.expertOk)) ∧
        ∀ o, t.reg p o = m.reg p o ∧ t.shd p o = m.shd p o)

/-- R28, R29: a granted clear of EN on the ESC page while no channel is in service makes the next tick the last; at any other time it is
refused with FIELD, rule STATE, and the frames keep running. A set of EN while no frames run starts them at once, the first tick to count
as a frame-length change. -/
def Obligations.EscEnableStartsAndStopsFrames : Prop :=
  ∀ (s : State) (src : Src),
    wfSrc src = true → s.granted src .esc 0x008 false true = true → s.locked = true →
    let m := s.atPage src .esc 0x008
    (src = .movement ∨ 7 ≤ m.phase) →
    (src = .movement ∨ (m.cmtShown .esc = .idle ∧ (m.page .esc).pendingCmt = false ∧ m.mvcShown .esc = false)) →
    ((m.page .esc).enReq = true → (∃ c, c < 17 ∧ (m.chan c).inService = true) → Gives (.escEnClear src) s fun t =>
      (t.page .esc).err = pack [(0, 12, 0x008), (16, 8, 8), (24, 8, 0x0C)] ∧ t.esc = m.esc ∧ (t.page .esc).enReq = true ∧
      (t.page .esc).en = (m.page .esc).en) ∧
    ((m.page .esc).enReq = true → (∀ c, c < 17 → (m.chan c).inService = false) → Gives (.escEnClear src) s fun t =>
      t.blk.accStatus = 0 ∧ t.esc = { m.esc with stopping := true } ∧ (t.page .esc).enReq = false ∧ (t.page .esc).en = (m.page .esc).en) ∧
    ((m.page .esc).enReq = false → m.esc.running = false → Gives (.escEnSet src) s fun t =>
      t.blk.accStatus = 0 ∧ (t.page .esc).en = true ∧ (t.page .esc).enReq = true ∧
      t.esc = { m.esc with running := true, stopping := false, tickBclk := m.bclk, restart := true, latched := false })

/-- R96: a granted write of PG_ISET sets every bit of PG_ISR that it names and the page defines, and clears none. -/
def Obligations.IsetSetsPendingBits : Prop :=
  ∀ (s : State) (src : Src) (p : PageId) (v : Word),
    wfSrc src = true → s.granted src p 0x018 false true = true → s.locked = true →
    let m := s.atPage src p 0x018
    Gives (.pgIsetWrite src p.num v) s fun t => Answered p 0 m t ∧ (t.page p).body = (m.page p).body ∧
      ∀ i, i < 32 → (flag v i = true ∧ p.isrMask.testBit i = true) ∨ flag (m.page p).isr i = true → flag (t.page p).isr i = true

/-- R131: Movement adopts the active values of a page that has returned to the basic level as its standing intent, and MVC_ACTIVE clears.
-/
def Obligations.AdoptionTakesActiveValues : Prop :=
  ∀ (s : State) (page : Nat) (p : PageId), pageOf page = some p →
    (s.page p).mvcActive = true → (s.page p).expert = false → s.mvc.running = true →
    Gives (.intentAdoption page) s fun t => (t.page p).mvcActive = false ∧
      (∀ o ∈ p.rsOffs, t.intentOf p o = s.reg p o) ∧ (∀ o, t.reg p o = s.reg p o ∧ t.shd p o = s.shd p o) ∧
      ∀ q : PageId, q.num ≠ p.num → t.page q = s.page q

/-- R105, R111: GO on a page with no commit pending starts the checks with PG_COMMIT_FRAME as captured; CANCEL before the cancel point
returns the page to idle; DISCARD copies every active value into the shadow. None of them changes an active value. -/
def Obligations.CommitGoCancelDiscard : Prop :=
  ∀ (s : State) (src : Src) (p : PageId),
    wfSrc src = true → s.granted src p 0x01C false true = true → s.locked = true → p.commitKind ≠ 0 →
    let m := s.atPage src p 0x01C
    ((m.page p).pendingCmt = false → m.esc.running = true → (∀ n, p = .trt n → n = m.ctlRouter) →
      (p = .esc → m.fsNew = none ∨ ∀ x ∈ m.fsPages, (m.page (.slt x.1 x.2)).cmt = .idle) → Gives (.commitGo src p.num) s fun t =>
      t.blk.accStatus = 0 ∧ (t.page p).cmt = .checking ∧ (t.page p).cmtRefused = false ∧
      (t.page p).commit = { arrive := m.esc.frame, late := m.pastLatch, want := (m.page p).commitFrame, mvc := decide (src = .movement), at_ := m.bclk } ∧
      ∀ o, t.reg p o = m.reg p o ∧ t.shd p o = m.shd p o) ∧
    (m.cancelLate p = false → Gives (.commitCancel src p.num) s fun t =>
      t.blk.accStatus = 0 ∧ (t.page p).cmt = .idle ∧ ∀ o, t.reg p o = m.reg p o ∧ t.shd p o = m.shd p o) ∧
    ((m.page p).pendingCmt = false → Gives (.commitDiscard src p.num) s fun t =>
      Answered p 0 m t ∧ (∀ o ∈ p.rsOffs, t.shd p o = m.reg p o) ∧ ∀ o, t.reg p o = m.reg p o)

/-- R56, R58, R107, R109: the checks of a register commit refuse it with the first field that fails, or arm it for its target or the
earliest frame, whichever is later. -/
def Obligations.CommitCheckArmsOrRefuses : Prop :=
  ∀ (s : State) (page : Nat) (p : PageId), pageOf page = some p → p.commitKind = 1 → (s.page p).cmt = .checking →
    (∀ o r, s.fieldFail p = some (o, r) → Gives (.commitCheck page) s fun t =>
      (t.page p).cmt = .idle ∧ (t.page p).cmtRefused = true ∧ (t.page p).err = pack [(0, 12, o), (16, 8, r), (24, 8, 0x0C)] ∧
      t.blk.cmtRef = pack [(0, 13, p.num), (16, 8, r), (31, 1, 1)] ∧ flag (t.page .blk).isr 2 = true ∧
      ∀ x, t.reg p x = s.reg p x ∧ t.shd p x = s.shd p x) ∧
    ∀ named, s.fieldFail p = none → s.stateFail p (s.page p).commit.mvc = none →
      (targetOf (s.page p).commit.arrive (s.page p).commit.want.toNat = none ∧ named = 0 ∨
        targetOf (s.page p).commit.arrive (s.page p).commit.want.toNat = some (some named)) →
      let eff := max named ((s.page p).commit.arrive + 1 + b2n (s.page p).commit.late)
      Gives (.commitCheck page) s fun t => (t.page p).cmt = .armed ∧ (t.page p).commit.eff = eff ∧
        (t.page p).commitFrame = BitVec.ofNat 32 eff ∧ ∀ x, t.reg p x = s.reg p x ∧ t.shd p x = s.shd p x

/-- R115, R119, R120: setting EN of BLK_INT_CFG arms the path; an end of interrupt arms it again, and with an interrupt pending sends the
next message at once; an armed path sends one message to its port, address and data, and is disarmed. -/
def Obligations.InterruptPathSendsOneMessage : Prop :=
  (∀ (s : State) (src : Src) (v : Word),
    wfSrc src = true → s.granted src .blk 0x064 false true = true → s.locked = true →
    let m := s.atPage src .blk 0x064
    Gives (.blkIntCfgWrite src v) s fun t => Answered .blk 0 m t ∧ t.blk.intPort = fld v 0 4 ∧ t.blk.intEn = flag v 4 ∧
      t.blk.intArmed = (m.blk.intArmed || (flag v 4 && !m.blk.intEn)) ∧ t.blk.msgs = m.blk.msgs) ∧
  (∀ (s : State) (src : Src),
    wfSrc src = true → s.granted src .blk 0x068 false true = true → s.locked = true →
    let m := s.atPage src .blk 0x068
    m.blk.msgs = [] → Gives (.blkIntEoi src) s fun t => t.blk.accStatus = 0 ∧
      if m.blk.intEn = true ∧ m.intSum ≠ 0 then t.blk.intArmed = false ∧
        ∃ x, t.blk.msgs = [x] ∧ x.port = m.blk.intPort ∧ x.addr = m.blk.intAddr ∧ x.data = m.blk.intData ∧ x.held = (!m.linkUp m.blk.intPort || m.trt.hold)
      else t.blk.intArmed = true ∧ t.blk.msgs = []) ∧
  ∀ (s : State) (f : Nat), s.blk.msgs = [] → s.blk.intEn = true → s.blk.intArmed = true → s.intNext = some f →
    (f ≤ s.bclk ∨ s.canReach f = true) → Gives .interruptMessage s fun t => t.bclk = max s.bclk f ∧ t.blk.intArmed = false ∧
      ∃ x, t.blk.msgs = [x] ∧ x.port = s.blk.intPort ∧ x.addr = s.blk.intAddr ∧ x.data = s.blk.intData ∧
        x.held = (!(s.goto f).linkUp s.blk.intPort || s.trt.hold)

/-- R135, R520: GO of a mailbox that is not busy sets BUSY and clears DONE; while Movement is halted the command ends at once OFFLINE.
While BUSY is set, writes to MB_CMD, MB_GO and MB_ARG0 to MB_ARG7 are answered ACCESS and change nothing. -/
def Obligations.MailboxGoStartsCommand : Prop :=
  (∀ (s : State) (src : Src) (k : Fin 2) (off : Nat) (data : BitVec 64), (off = 0x00 ∨ off = 0x04 ∨ ∃ n, n < 8 ∧ off = 0x10 + 4 * n) →
    let o := 0x100 + 0x80 * k.val + off
    wfSrc src = true → s.granted src .blk o false true = true → s.locked = true →
    let m := s.atPage src .blk o
    (m.mbx k).busy = true → Gives (.registerWrite src (PageId.blk.num * 4096 + o) false data) s fun t =>
      t = { m with blk := { m.blk with accStatus := 8, accData := 0 } }) ∧
  ∀ (s : State) (src : Src) (k : Fin 2),
    wfSrc src = true → s.granted src .blk (0x104 + 0x80 * k.val) false true = true → s.locked = true →
    let m := s.atPage src .blk (0x104 + 0x80 * k.val)
    (m.mbx k).busy = false → Gives (.mbGo src k) s fun t => t.blk.accStatus = 0 ∧ (t.mbx k).cmd = (m.mbx k).cmd ∧
      (t.mbx k).args = (m.mbx k).args ∧
      (m.mvc.halted = false → (t.mbx k).go = true ∧ (t.mbx k).busy = true ∧ (t.mbx k).done = false) ∧
      (m.mvc.halted = true → (t.mbx k).busy = false ∧ (t.mbx k).done = true ∧ (t.mbx k).status = 3)

/-- R21, R81, R94, R102, R121, R500: a 4-byte access of the fabric to a page that it may reach but to a register it may not write, or to a page
it may not reach, is answered ACCESS and changes no register; the latter is recorded. In phase 15 no page is reached at all (R500). -/
def Obligations.DeniedAccessesChangeNothing : Prop :=
  ∀ (s : State) (g i : Nat) (priv : Bool) (p : PageId) (off : Nat) (data : BitVec 64),
    let src := Src.fabric g i priv
    wfSrc src = true → off < 4096 → off % 4 = 0 → pageAt (p.num * 4096 + off) = some p →
    let m := s.atPage src p off
    ((s.runSvcsTo (s.bclk - 1)).holdsPort src = false → exec (.registerWrite src (p.num * 4096 + off) false data) s =
      .next (s.runSvcsTo (s.bclk - 1))) ∧
    ((s.runSvcsTo (s.bclk - 1)).holdsPort src = true → (s.met src p off).reachesAt i priv true (p.num * 4096 + off) = true → m.mayWrite src p off = false →
      Gives (.registerWrite src (p.num * 4096 + off) false data) s fun t => t.blk.accStatus = 8 ∧ t.pages = m.pages ∧ t.blk.badAccCnt = m.blk.badAccCnt) ∧
    ((s.runSvcsTo (s.bclk - 1)).holdsPort src = true → (s.met src p off).reachesAt i priv true (p.num * 4096 + off) = false →
      Gives (.registerWrite src (p.num * 4096 + off) false data) s fun t => t.blk.accStatus = 8 ∧
        t.blk.badAcc = pack [(0, 25, p.num * 4096 + off), (25, 4, g), (29, 1, 1), (30, 1, 1), (31, 1, 1)] ∧
        ∀ q : PageId, (t.page q).body = ((s.met src p off).page q).body)

/-- R186, R188: a granted flush of a gateway in which none is pending waits for the end of its BCLK; then it empties the ingress FIFO,
answers its items FLUSHED, one per BCLK, releases no tag, raises FLUSH_DONE and discards what comes in its BCLK. -/
def Obligations.FlushEmptiesIngress : Prop :=
  (∀ (s : State) (src : Src) (g : Fin 16),
    wfSrc src = true → s.granted src (.gw g) 0x05C false true = true → s.locked = true →
    let m := s.atPage src (.gw g) 0x05C
    (m.gw g).discards m.bclk = false → Gives (.gwFlush src g) s fun t => t.blk.accStatus = 0 ∧
      (t.gw g).flushAt = some m.bclk ∧ (t.gw g).fifo = (m.gw g).fifo ∧ (t.gw g).tags = (m.gw g).tags) ∧
  ∀ (s : State) (g : Fin 16),
    let u := s.gwDo g .flush
    (u.gw g).fifo = [] ∧ (u.gw g).flushAt = none ∧ (u.gw g).discAt = some s.bclk ∧ (u.gw g).tags = (s.gw g).tags ∧
    (u.gw g).reqHdr = (s.gw g).reqHdr + (s.gw g).fifo.length ∧ flag (u.page (.gw g)).isr 2 = true ∧
    ∀ n x, (s.gw g).fifo[n]? = some x → ∃ e ∈ (u.gw g).eg, e.at_ = s.bclk + 1 + n ∧ e.resp.status = 9 ∧ e.resp.req.tag = x.hdr.tag

/-- R259, R260, R704, R705: a granted write of MAP_XLATE decodes the address under the epoch in force; one of BRL_IDX stores the selection
and samples what it selects. -/
def Obligations.IndexedReadsSampleTheirTarget : Prop :=
  (∀ (s : State) (src : Src) (pa : BitVec 52),
     wfSrc src = true → s.granted src .map 0x418 true true = true → s.locked = true →
     let m := s.atPage src .map 0x418
     Gives (.mapXlate src pa) s fun t => Answered .map 0 m t ∧ t.map.xlateRes = m.xlate pa.toNat ∧
       t.map.xlateLo.toNat + t.map.xlateHi.toNat * 2 ^ 32 = pa.toNat ∧ t.map.epoch = m.map.epoch) ∧
  ∀ (s : State) (src : Src) (c : Fin 17) (v : Word),
    wfSrc src = true → s.granted src (.brl c) 0x04C false true = true → s.locked = true →
    let m := s.atPage src (.brl c) 0x04C
    let w := v &&& regMask (.brl c) 0x04C
    Gives (.brlIdxWrite src c v) s fun t => Answered (.brl c) 0 m t ∧ t.reg (.brl c) 0x04C = w ∧
      (t.chan c).brl.data = (m.setReg (.brl c) 0x04C w).brlSample c w ∧ t.subs = m.subs

/-- R281 to R283, R288, R295, R299: GO of a mode-register command on an idle interface takes the command, or ends it DENIED where its rank
or the channel's state forbids it; GO of a sideband command starts its transaction at once where the bus is free, and else queues it. -/
def Obligations.ModuleCommandsStart : Prop :=
  (∀ (s : State) (src : Src) (c : Fin 17) (v : Word),
    wfSrc src = true → s.granted src (.cc c) 0x080 false true = true → s.locked = true →
    let m := s.atPage src (.cc c) 0x080
    let w := setBit v 21
    let ch := m.chan c
    let bad := !ch.hasRank (fld w 16 3) || ch.calRun || (if flag w 20 then ch.inService || ch.calState != 3 else ch.resetN || ch.sr == .idleSr || ch.sr == .parked)
    ch.mrBusy = false → Gives (.mrCmdGo src c v) s fun t => Answered (.cc c) 0 m t ∧
      t.chan c = { ch with mrCmd := w, mrBusy := !bad, mrDone := bad, mrDenied := bad } ∧ ∀ k, k ≠ c.val → t.chan k = m.chan k) ∧
  ∀ (s : State) (src : Src) (c : Fin 17) (v : Word),
    wfSrc src = true → s.granted src (.cc c) 0x070 false true = true → s.locked = true →
    let m := s.atPage src (.cc c) 0x070
    let w := setBit v 18
    let ch := m.chan c
    let x : SbTxn := { kind := 2, hid := fld w 8 3, dtype := fld w 11 4, cmd := w }
    ch.sbBusy = false →
    (ch.sbTxn.isSome = true → Gives (.i3cCmdGo src c v) s fun t => Answered (.cc c) 0 m t ∧
      (t.chan c).sbBusy = true ∧ (t.chan c).sbDone = false ∧ (t.chan c).sbQueue = ch.sbQueue ++ [x] ∧ (t.chan c).sbTxn = ch.sbTxn) ∧
    (ch.sbTxn = none → ch.sbQueue = [] → dtypeOk x.dtype = true → (flag w 17 && x.dtype == dtPmic && ch.inService) = false →
      Gives (.i3cCmdGo src c v) s fun t => Answered (.cc c) 0 m t ∧ (t.chan c).sbBusy = true ∧ (t.chan c).sbDone = false ∧
        (t.chan c).sbQueue = [] ∧ (t.chan c).sbTxn = some { x with start := m.bclk })

/-- R890, R903, R904: GO of an injection by location, while injections are enabled and none is in progress, leaves one access waiting for
its EMERG; while they are disabled it is denied. -/
def Obligations.InjectionStartsOrIsDenied : Prop :=
  ∀ (s : State) (tap : Bool) (v : Word),
    s.granted (.crown tap) .crn 0x050 false true = true → s.locked = true →
    let m := s.atPage (.crown tap) .crn 0x050
    m.crn.busy = false →
    (flag (m.reg .crn 0x040) 0 = false → Gives (.crnInjGo tap v) s fun t => Answered .crn 0 m t ∧ t.crn = { m.crn with denied := true }) ∧
    (flag (m.reg .crn 0x040) 0 = true → flag (setBit v 0) 2 = true → ∀ l, injLoc (m.reg .crn 0x048) (m.reg .crn 0x04C) = some l →
      Gives (.crnInjGo tap v) s fun t => Answered .crn 0 m t ∧ t.crn.busy = true ∧ t.crn.done = false ∧ t.crn.denied = false ∧
        ∃ r, t.crn.emerg = some (r, m.bclk) ∧ r.loc = l ∧ r.src = 20 ∧ r.write = flag (setBit v 0) 1)

/-- R137, R514, R517 to R519, R526, R915, R926: a granted write of BLK_RESET. CH_RST resets every channel named that is out of service and
has no run or test: its contents are lost, RESET_n is low and its request RAM and write buffer are empty; a channel in service is denied.
MVC_RESTART restarts Movement from phase 1 on; a command in progress ends OFFLINE; INTENT_OK tells whether the intent region passed its
CRC. CNT_CLR clears the counters of every box, the quads of the channel boxes with them, and starts CNT_FIXED anew; the block's own box
(71) counts the access itself. -/
def Obligations.BlkResetBitsReset : Prop :=
  (∀ (s : State) (src : Src) (mask : BitVec 17) (c : Nat),
     wfSrc src = true → s.granted src .blk 0x044 false true = true → s.locked = true → c < 17 → mask.toNat.testBit c = true →
     let m := s.atPage src .blk 0x044
     (m.chRstDenies c = false → Gives (.chRst src mask) s fun t => t.blk.accStatus = 0 ∧ (t.chan c).resetN = true ∧ (t.chan c).calState = 0 ∧
       (t.chan c).role = (m.chan c).role ∧ (t.chan c).memGen = (m.chan c).memGen + 1 ∧ (t.chan c).filled = false ∧
       ∀ sc, sc < 2 → (t.sub c sc).ram = [] ∧ (t.sub c sc).wb = []) ∧
     (m.chRstDenies c = true → Gives (.chRst src mask) s fun t => t.blk.accStatus = 0 ∧ t.chRstDenied = true ∧ t.chan c = m.chan c)) ∧
  (∀ (s : State) (src : Src) (crc : Bool) (k : Fin 2),
     wfSrc src = true → s.granted src .blk 0x044 false true = true → s.locked = true →
     let m := s.atPage src .blk 0x044
     m.phase ≠ 0 → m.mvc.restarts = s.mvc.restarts → Gives (.mvcRestart src crc) s fun t => t.blk.accStatus = 0 ∧
       t.mvc.running = true ∧ t.mvc.halted = false ∧ t.mvc.restarts = wrapAdd 8 m.mvc.restarts 1 ∧ t.mvc.intentOk = crc ∧
       (m.mvc.swapMb = none → (m.mbx k).busy = true → (t.mbx k).busy = false ∧ (t.mbx k).done = true ∧ (t.mbx k).status = 3)) ∧
  ∀ (s : State) (src : Src), wfSrc src = true → s.granted src .blk 0x044 false true = true → s.locked = true →
    let m := s.atPage src .blk 0x044
    Gives (.cntClr src) s fun t => t.blk.accStatus = 0 ∧
      (∀ b, b < 71 → (t.cnt b).vals = [] ∧ (t.cnt b).sample = [] ∧ (t.cnt b).base = m.bclk) ∧
      ∀ c sc, c < 17 → sc < 2 → (t.sub c sc).quadRd = 0 ∧ (t.sub c sc).quadWr = 0 ∧ (t.sub c sc).quadDem = 0 ∧ (t.sub c sc).quadPlan = 0 ∧
        (t.sub c sc).disc = 0

/-- R914, R915, R917, R929, R935: the commands of a count box clear, capture and write its counters, each without touching another box.
The block's own box (71) counts the access itself (event 0x04), so its live counters are left out. -/
def Obligations.CountBoxCommands : Prop :=
  ∀ (s : State) (src : Src) (b : Fin 72), wfSrc src = true → s.locked = true →
    (let m := s.atPage src (.cnt b) 0x04C
     s.granted src (.cnt b) 0x04C false true = true →
      (Gives (.snap src b) s fun t => t.blk.accStatus = 0 ∧ (t.cnt b).bank = m.capture b ∧ (t.cnt b).snapMan = true ∧ (t.cnt b).capture = none) ∧
      (b.val < 17 → Gives (.quadClr src b) s fun t => t.blk.accStatus = 0 ∧ t.cnt b = { m.cnt b with quadClr := true } ∧ t.subs = m.subs) ∧
      (b.val ≠ 71 → Gives (.cntSnapClr src b) s fun t => t.blk.accStatus = 0 ∧ t.cnt b = { m.cnt b with vals := [], sample := [], armed := none } ∧
        ∀ k, k ≠ b.val → k ≠ 71 → t.cnt k = m.cnt k)) ∧
    (∀ (n : Fin 8) (v : BitVec 48), b.val ≠ 71 → s.granted src (.cnt b) (0x080 + 8 * n.val) true true = true →
      let m := s.atPage src (.cnt b) (0x080 + 8 * n.val)
      Gives (.cntValWrite src b n v) s fun t => t.blk.accStatus = 0 ∧ Tbl.get (fun _ => 0) (t.cnt b).vals n = v.toNat ∧
        (∀ j, j ≠ n.val → Tbl.get (fun _ => 0) (t.cnt b).vals j = Tbl.get (fun _ => 0) (m.cnt b).vals j) ∧
        ∀ k, k ≠ b.val → k ≠ 71 → t.cnt k = m.cnt k) ∧
    ∀ v : Word, s.granted src (.cnt b) 0x048 false true = true →
      Gives (.cntCtlWrite src b v) s fun t => Answered (.cnt b) 0 (s.atPage src (.cnt b) 0x048) t ∧ t.reg (.cnt b) 0x048 = v &&& regMask (.cnt b) 0x048

/-- R93, R767 to R769, R812: a ring command while the pool page is enabled and no command is in progress ends with its RESULT: an ATTACH
of a context that passes its checks leaves the ring IDLE or RUN with that context, a DETACH of an idle or halted ring leaves it OFF and is
refused of any other, a FLUSH writes the cached context back. A granted 8-byte write of a doorbell leaves for the ring's engine, where it
arrives 2 + 2h BCLK later, after a route hold that keeps it (R486). -/
def Obligations.RingCommandsAndDoorbells : Prop :=
  (∀ (s : State) (src : Src) (r : BitVec 18),
     wfSrc src = true → s.granted src .lthPool 0x050 false true = true → s.locked = true → s.pool.busy = false →
     let m := s.atPage src .lthPool 0x050
     let sel := fun cmd => m.setReg .lthPool 0x050 (BitVec.ofNat 32 (r.toNat + cmd * 2 ^ 18) &&& regMask .lthPool 0x050)
     (m.page .lthPool).en = true → m.pool.busy = false →
     (∀ l, (sel 1).seeLine ((sel 1).ctxAddr r.toNat) = .data l → (sel 1).attachFails r.toNat l = 0 → Gives (.ringAttach src r) s fun t =>
       t.blk.accStatus = 0 ∧ t.pool.busy = false ∧ t.pool.result = 0 ∧ (t.ring r.toNat).jobs = [] ∧
       (t.ring r.toNat).ctx.tail = (ctxOfLine l).tail ∧ (t.ring r.toNat).ctx.head = (ctxOfLine l).head ∧ (t.ring r.toNat).ctx.itag = (ctxOfLine l).itag ∧
       (t.ring r.toNat).ctx.st = if (ctxOfLine l).tail = (ctxOfLine l).head then 1 else 2) ∧
     (((m.ring r.toNat).ctx.st = 1 ∨ (m.ring r.toNat).ctx.st = 3) → Gives (.ringDetach src r) s fun t =>
       t.blk.accStatus = 0 ∧ t.pool.busy = false ∧ t.pool.result = 0 ∧ t.ring r.toNat = {}) ∧
     ((m.ring r.toNat).ctx.st ≠ 1 → (m.ring r.toNat).ctx.st ≠ 3 → Gives (.ringDetach src r) s fun t =>
       t.blk.accStatus = 0 ∧ t.pool.busy = false ∧ t.pool.result = 1 ∧ t.rings = m.rings) ∧
     ((m.ring r.toNat).ctx.st ≠ 0 → Gives (.ringFlush src r) s fun t =>
       let u := (sel 3).putLine ((sel 3).ctxAddr r.toNat) (lineOfCtx (m.ring r.toNat).ctx)
       t.blk.accStatus = 0 ∧ t.pool.busy = false ∧ t.pool.result = 0 ∧ t.rings = m.rings ∧ t.mem = u.mem ∧ t.subs = u.subs)) ∧
  ∀ (s : State) (src : Src) (i : Fin 4096) (v : BitVec 64),
    wfSrc src = true → s.granted src (.ins i) 0x048 true true = true → s.locked = true →
    let m := s.atPage src (.ins i) 0x048
    let hi := v.toNat / 2 ^ 32
    let n := 2 + 2 * m.hops nodeSvc (nodeLe (m.srvOf (hi % 2 ^ 18)))
    Gives (.insDoorbell src i v) s fun t => Answered (.ins i) 0 m t ∧
      t.bells = m.bells ++ [{ page := i, ring := hi % 2 ^ 18, tail := v.toNat % 2 ^ 21, restart := hi.testBit 31,
                              arr := m.bclk + n, held := if m.trt.hold = true then some n else none }]

/-! ### Mailbox commands (chapters 02 to 20) -/

/-- R79, R137, R138, R139, R832: a command whose code R139 does not list ends with status MALFORMED; FRAME_STATUS writes the overrun
counts to its buffer and ends at once with the state of the frame, in the registers that log entry 57 chooses, or with the status of a
buffer that it cannot write; INTENT_GET ends at once with the page's first eight intents (log entry 58), or with what an instance was
given. -/
def Obligations.MailboxCommandsAnswerAtOnce : Prop :=
  ∀ (s : State) (m : Nat),
    let x := s.mbx m
    (s.mbFront = some m → x.cmd ∉ mbCodes → Gives .unknownCommand s fun t => Ended s t m 4 0 [] ∧ t.esc = s.esc ∧ t.chans = s.chans) ∧
    (let counts := (List.range 7).flatMap fun i => bytesOf (BitVec.ofNat 32 (Tbl.get (fun _ => 0) s.esc.ovrCnt i))
     s.mbOf 0x02 = some m →
      (∀ u, s.writeBytes 2 (x.addr 0) counts = .inr u → Gives .frameStatus s fun t =>
        t.mem = u.mem ∧ t.subs = u.subs ∧ t.esc = s.esc ∧ Ended s t m 0 0
          [(0, s.frameNo % 2 ^ 32), (1, s.frameNo / 2 ^ 32),
           (2, packNat [(0, 9, s.esc.fs), (16, 9, ((s.fsArmed).map (·.2)).getD 0), (31, 1, b2n (s.fsArmed).isSome)]),
           (3, ((s.fsArmed).map (·.1 % 2 ^ 32)).getD 0)]) ∧
      (∀ st, s.writeBytes 2 (x.addr 0) counts = .inl st → Gives .frameStatus s fun t => t.mem = s.mem ∧ Ended s t m st 0 [])) ∧
    (s.mbOf 0xC0 = some m → ∀ p, (x.arg 0).toNat = p.num * 4096 → pageOf p.num = some p → (s.page p).mvcActive = false →
      ((∀ i, p ≠ .ins i) → Gives .intentGet s fun t => ∃ res, Ended s t m 0 0 res ∧
        ∀ n o, (p.rsOffs.take 8)[n]? = some o → res.lookup n = some (s.intentOf p o).toNat) ∧
      ∀ i, p = .ins i → Gives .intentGet s fun t =>
        let shares := packNat ((List.range 17).map fun j => (10 * j, 10, (s.insOf i).shares.getD j 0))
        Ended s t m 0 0 ([(0, (s.insOf i).quota)] ++ (List.range 6).map (fun n => (n + 1, bits shares (32 * n) 32)) ++ [(7, s.insFlags i)]))

/-- R336, R425, R467, R614, R663, R700, R801: REFRESH_SET, ARB_SET, CAL_SET, SCRUB_SET, BURL_SET, HEAT_SET and LATHE_SET of the pool and
of an engine write the registers that they name into the shadows of their pages, commit each page once with the target given, and await
the commits. -/
def Obligations.RegisterCommandsCommitTheirPages : Prop :=
  ∀ (s : State) (m : Nat),
    let x := s.mbx m
    let cs := maskChans (x.arg 0).toNat
    let t3 := BitVec.ofNat 32 (x.argF 3 0 16)
    (badMask (x.arg 0) = false → cs ≠ [] →
      (s.mbOf 0x30 = some m → s.pagesOpen (cs.map .cc) → Gives .refreshSet s (Commits s m (cs.map .cc) 0
        (cs.flatMap fun c => [(.cc c, 0x054, x.arg 1), (.cc c, 0x050, setFld (x.arg 2) 17 1 (s.regFld (.cc c) 0x050 17 1))]))) ∧
      (s.mbOf 0x40 = some m → x.argF 2 20 12 = 0 → (x.argF 2 0 20 = 0 ∨ x.argF 3 0 16 ≠ 0) → s.pagesOpen (cs.map .cc) →
        Gives .arbSet s (Commits s m (cs.map .cc) (x.arg 4) (cs.flatMap fun c =>
          (.cc c, 0x060, x.arg 1) :: ((List.range 20).filter fun i => flag (x.arg 2) i).map fun i => (.cc c, 0x100 + 4 * i, t3)))) ∧
      (s.mbOf 0x51 = some m → s.pagesOpen (cs.map .bal) →
        Gives .calSet s (Commits s m (cs.map .bal) (x.arg 2) (cs.map fun c => (.bal c, 0x040, x.arg 1)))) ∧
      (s.mbOf 0x60 = some m → s.pagesOpen (cs.flatMap fun c => [.cc c, .elog c]) →
        Gives .scrubSet s (Commits s m (cs.flatMap fun c => [.cc c, .elog c]) (x.arg 3)
          (cs.flatMap fun c => [(.cc c, 0x068, x.arg 1), (.elog c, 0x040, x.arg 2)]))) ∧
      (s.mbOf 0x70 = some m → s.pagesOpen (cs.map .brl) →
        Gives .burlSet s (Commits s m (cs.map .brl) (x.arg 2) (cs.map fun c => (.brl c, 0x040, x.arg 1)))) ∧
      (s.mbOf 0x71 = some m → s.pagesOpen (cs.map .brl) →
        Gives .heatSet s (Commits s m (cs.map .brl) (x.arg 2) (cs.map fun c => (.brl c, 0x044, x.arg 1))))) ∧
    (s.mbOf 0x90 = some m → x.argF 0 0 2 = 0 → s.pagesOpen [.lthPool] →
      Gives .latheSetPool s (Commits s m [.lthPool] (x.arg 4)
        [(.lthPool, 0x048, x.arg 1), (.lthPool, 0x040, x.arg 2), (.lthPool, 0x044, x.arg 3)])) ∧
    (s.mbOf 0x90 = some m → x.argF 0 0 2 = 3 → ∀ e, e < 2 → (x.arg 1).toNat = e → s.pagesOpen [.lth e] →
      Gives .latheSetEngine s (Commits s m [.lth e] (x.arg 3) [(.lth e, 0x040, x.arg 2)]))

/-- R78, R248 to R250, R335 to R337, R426, R427, R751, R752, R880, R881: FRAME_SET, MAP_SET, RESERVE_SET, TABLE_SET, PARK and ROUTE_SET
write the shadows of their pages and await the commits, from the boot store and from a buffer; a MAP_SET that moves the data of a map in
use starts its first step or is refused with the check's word. What they cannot take ends at once. The arguments of FRAME_SET lie where
log entry 57 chooses; log entry 60 says where a default table does not fit. -/
def Obligations.SetCommandsCommitTheirPages : Prop :=
  ∀ (s : State) (m : Nat),
    let x := s.mbx m
    (let n := x.argF 0 0 9
     let bad := (regRow .esc 0x050).any fun r => fldRule (pack [(0, 9, n)]) r.flds != 0
     let img := fun (c : Nat) => bootTable (x.argF 1 0 8) 0 s.bin ((s.chan c).spd.getD {})
     s.mbOf 0x01 = some m →
      (bad = true → Gives .frameSet s fun t => Ended s t m 0x0C 0 [] ∧ t.esc = s.esc) ∧
      (bad = false → s.pagesOpen (.esc :: s.fsPages.map fun y => .slt y.1 y.2) →
        (∀ y ∈ s.fsPages, bootHas (x.argF 1 0 8) s.bin ((s.chan y.1).spd.getD {}) = true ∧
          bootFits (x.argF 1 0 8) 0 s.bin ((s.chan y.1).spd.getD {}) = true) →
        Gives .frameSet s fun t => (t.mbx m).running = true ∧ (t.mbx m).go = false ∧ PageId.esc.num ∈ (t.mbx m).await ∧
          Checking s t .esc (s.ahead 3) ∧ t.shd .esc 0x050 = pack [(0, 9, n)] &&& regMask .esc 0x050 ∧
          (∀ y ∈ s.fsPages, ∀ w ∈ tableWrites (.slt y.1 y.2) (img y.1), t.shd w.1 w.2.1 = w.2.2 &&& regMask w.1 w.2.1) ∧
          ∀ p o, t.reg p o = s.reg p o)) ∧
    (s.mbOf 0x10 = some m → s.map.kind = 0 → (x.arg 2).toNat = 976 → ∀ b, s.readBytes (x.addr 0) 976 = .inr b → s.pagesOpen [.map] →
      let img := fun (o : Nat) => (wordsOf b).getD ((o - 0x040) / 4) 0
      let diff := s.mapDiff img
      let moves : Bool := s.traffic && decide (diff ≠ []) && diff.all fun o => (s.rehashSet o).isSome
      (moves = false → Gives .mapSet s (Commits s m [.map] 0 (PageId.map.rsOffs.map fun o => (.map, o, img o)))) ∧
      (moves = true → ∀ d, s.chanOfRole 16 = some d → s.anyExpert (s.rehashPages d (s.rehashLchs diff)) = false →
        s.pagesBusy (s.rehashPages d (s.rehashLchs diff)) = false → s.atWork = false →
        let u := PageId.map.rsOffs.foldl (fun s o => s.mvcWrite .map o (img o)) s
        (∀ l rest, u.mapFails u.mapShd = none → s.rehashLchs diff = l :: rest → Gives .mapSet s fun t =>
          (t.mbx m).running = true ∧ t.map.check = pack [(0, 2, 1)] ∧ (∀ o ∈ PageId.map.rsOffs, t.shd .map o = img o &&& regMask .map o) ∧
          t.task = { kind := 3, src := s.physOf l, dst := d, mb := some m, left := rest, began := s.bclk }) ∧
        ∀ f, u.mapFails u.mapShd = some f → Gives .mapSet s fun t => t.map.check = f.word ∧ t.task = s.task ∧
          Ended s t m 0x0C 0 [(2, f.word.toNat), (3, (t.page .map).err.toNat)])) ∧
    (let c := (x.arg 0).toNat
     s.mbOf 0x11 = some m →
      (c < 17 → (s.map.committed = false ∨ (s.chan c).role = 16) → s.pagesOpen [.map] → s.map.kind = 0 → Gives .reserveSet s fun t =>
        Commits s m [.map] 0 [(.map, 0x408, x.arg 1), (.map, 0x40C, x.arg 2)] t ∧
        t.map.nomNext = if s.map.committed = true ∨ c = s.map.reserveNom then none else some c) ∧
      ((17 ≤ c ∨ (s.map.committed = true ∧ (s.chan c).role ≠ 16)) → Gives .reserveSet s fun t => Ended s t m 0x0C 0 [] ∧ t.map = s.map)) ∧
    (s.mbOf 0x20 = some m → badMask (x.arg 4) = false → fld (x.arg 5) 2 30 = 0 →
      let subs := (maskChans (x.arg 4).toNat).flatMap fun c => [0, 1].filterMap fun sc => if flag (x.arg 5) sc then some (c, sc) else none
      let pages : List PageId := subs.map fun y => .slt y.1 y.2
      let spd := fun (c : Nat) => (s.chan c).spd.getD {}
      s.pagesOpen pages →
      (flag (x.arg 0) 0 = false → (∀ y ∈ subs, bootHas (x.argF 0 8 8) s.bin (spd y.1) = true ∧
          bootFits (x.argF 0 8 8) (x.argF 0 16 1) s.bin (spd y.1) = true) →
        Gives .tableSet s (Commits s m pages (x.arg 6) (subs.flatMap fun y =>
          tableWrites (.slt y.1 y.2) (bootTable (x.argF 0 8 8) (x.argF 0 16 1) s.bin (spd y.1))))) ∧
      (flag (x.arg 0) 0 = true → (x.arg 3).toNat = 520 * subs.length → subs ≠ [] → ∀ b, s.readBytes (x.addr 1) (x.arg 3).toNat = .inr b →
        Gives .tableSet s (Commits s m pages (x.arg 6) (subs.zipIdx.flatMap fun y =>
          tableWrites (.slt y.1.1 y.1.2) (imageOf ((wordsOf b).drop (130 * y.2))))))) ∧
    (s.mbOf 0x31 = some m → badMask (x.arg 0) = false →
      let park := flag (x.arg 1) 0
      let all := maskChans (x.arg 0).toNat
      let cs := all.filter fun c => !park || (s.chan c).inService
      s.anyExpert (all.map .cc) = false → s.pagesBusy (cs.map .cc) = false → s.esc.running = true →
      (cs ≠ [] → Gives .park s fun t => (t.mbx m).chans = all ∧
        (t.mbx m).refused = (all.filter fun c => !cs.contains c).map (fun c => PageId.num (.cc c)) ∧
        Commits s m (cs.map .cc) 0 (cs.map fun c => (.cc c, 0x050, setFld (s.reg (.cc c) 0x050) 17 1 (b2n park))) t) ∧
      (cs = [] → Gives .park s fun t => Ended s t m (if all = [] then 0 else 0x0C) 0 [(0, chanMask all)])) ∧
    (s.mbOf 0x80 = some m → s.pagesOpen ((List.range 36).map .trt) →
      let k := s.ctlRouter
      let loss := flag (x.arg 4) 0
      (loss = true → s.trt.clearPend = false) →
      let Sets := fun (img : Nat → Nat → Word) (t : State) => Awaits t m [.trt k] ∧ Checking s t (.trt k) 0 ∧
        (∀ r i, r < 36 → s.routerDead r = false → i < 38 → t.shd (.trt r) (s.routeOff i) =
          (if i = 0 then setFld (img r i) 13 1 (b2n (loss && r == k)) else img r i) &&& regMask (.trt r) (s.routeOff i)) ∧
        ∀ p o, t.reg p o = s.reg p o
      (flag (x.arg 0) 0 = false → x.argF 0 8 8 ≤ 109 → Gives .routeSet s (Sets fun r i => routeSetWord (x.argF 0 8 8) r i)) ∧
      (flag (x.arg 0) 0 = true → (x.arg 3).toNat = 5472 → ∀ b, s.readBytes (x.addr 1) 5472 = .inr b →
        Gives .routeSet s (Sets fun r i => (wordsOf b).getD (38 * r + i) 0)))

/-- R561, R562, R127, R129: TRAIN asks for the runs of the channels that are refused by neither their state nor their level, with their
supplies on from the next tick whose latch point is still to come, their CAL pages enabled, and awaits their ends; with none left it ends at once, ACCESS where all were refused for their level. -/
def Obligations.TrainAsksForRuns : Prop :=
  (∀ (s : State) (m : Nat), s.mbOf 0x50 = some m →
    let x := s.mbx m
    let all := maskChans (x.arg 0).toNat
    let bad := all.filter s.trainRefused
    let lvl := all.filter fun c => !bad.contains c && s.trainLevel c
    let go := all.filter fun c => !bad.contains c && !lvl.contains c
    badMask (x.arg 0) = false → all ≠ [] → (x.argF 1 0 2 = 1 ∨ x.argF 1 0 2 = 2) → x.argF 2 1 31 = 0 → s.pagesBusy (go.map .cal) = false →
    (go ≠ [] → Gives .train s fun t => (t.mbx m).running = true ∧ (t.mbx m).chans = go ∧
      (t.mbx m).refused = bad.map (fun c => PageId.num (.cc c)) ++ lvl.map (fun c => PageId.num (.cal c)) ∧ ∀ c ∈ go,
        (t.chan c).calState = 1 ∧ (t.chan c).powered = (s.chan c).powered ∧
        (t.chan c).supNext = (if (s.chan c).powered = true then (s.chan c).supNext else some (true, s.soonFrame)) ∧
        ((s.chan c).powered = true → (s.page (.cal c)).enBy ≠ 2 → (t.page (.cal c)).enReq = true) ∧
        (t.cal c).owner = 2 ∧ (t.cal c).noJwl = flag (x.arg 2) 0 ∧
        (t.cal c).kind = if x.argF 1 0 2 = 2 ∧ (s.jwlServes c).isSome = true then 2 else 1) ∧
    (go = [] → Gives .train s fun t => Ended s t m (if bad = [] then 8 else 0x0C) 0 [(0, 0), (1, 0), (2, chanMask (bad ++ lvl))])) ∧
  ∀ (v : State) (c : Fin 17) (f : Nat), (v.chan c).supNext = some (true, f) → f ≤ v.esc.frame →
    ((v.supplyTick c).chan c).powered = true ∧ ((v.supplyTick c).chan c).svcReady = false ∧ ((v.supplyTick c).chan c).resetN = false ∧
    ((v.supplyTick c).chan c).supNext = none

/-- R40, R127, R767, R768, R801: LATHE_SET ATTACH writes the context's image into the slot of a ring that is OFF; ATTACH and DETACH go to the
pool page at the next tick whose latch point is still to come. There ATTACH attaches the ring, and DETACH detaches an idle or halted ring
and refuses any other; the command ends OK, or FIELD with the RESULT. -/
def Obligations.RingMailboxCommandsEnd : Prop :=
  (∀ (s : State) (m : Nat), s.mbOf 0x90 = some m →
    let x := s.mbx m
    let r := (x.arg 1).toNat
    r < 2 ^ 18 → s.anyExpert [.lthPool] = false → s.pagesBusy [.lthPool] = false → s.pool.busy = false → s.pool.next = none →
    let Stages := fun (cmd : Nat) (t : State) => (t.mbx m).running = true ∧ (t.mbx m).go = false ∧ (t.mbx m).await = [] ∧
      t.pool = { s.pool with next := some (m, r, cmd, s.soonFrame) } ∧ t.rings = s.rings
    (x.argF 0 0 2 = 1 → ∀ b, s.readBytes (x.addr 2) 64 = .inr b →
      let i := (ctxOfLine (lineWith 0 0 b)).itag
      (i = 0 ∨ (s.insMay i = true ∧ (s.rings.filter fun e => e.2.ctx.st != 0 && e.2.ctx.itag == i).length < (s.insOf i).quota)) →
      (∀ u, (s.ring r).ctx.st = 0 → s.writeBytes 2 (s.ctxAddr r) b = .inr u →
        Gives .latheSetAttach s fun t => Stages 1 t ∧ t.mem = u.mem ∧ t.chans = u.chans) ∧
      ((s.ring r).ctx.st ≠ 0 → Gives .latheSetAttach s fun t => Stages 1 t ∧ t.mem = s.mem ∧ t.chans = s.chans)) ∧
    (x.argF 0 0 2 = 2 → Gives .latheSetDetach s fun t => Stages 2 t ∧ t.mem = s.mem)) ∧
  (∀ (v : State) (m r cmd f : Nat), v.pool.next = some (m, r, cmd, f) → f ≤ v.esc.frame → v.pool.busy = false → v.mvc.running = true →
    (v.page .lthPool).expert = false →
    let u := { v with pool := { v.pool with next := none } }
    let t := v.ringTick
    (∀ l, cmd = 1 → u.seeLine (u.ctxAddr r) = .data l → u.attachFails r l = 0 → t.pool = { u.pool with busy := false, result := 0 } ∧
      (t.ring r).ctx.tail = (ctxOfLine l).tail ∧ (t.ring r).ctx.head = (ctxOfLine l).head ∧
      (t.ring r).ctx.st = if (ctxOfLine l).tail = (ctxOfLine l).head then 1 else 2) ∧
    (cmd = 2 → ((v.ring r).ctx.st = 1 ∨ (v.ring r).ctx.st = 3) → t.pool = { u.pool with busy := false, result := 0 } ∧ t.ring r = {}) ∧
    (cmd = 2 → (v.ring r).ctx.st ≠ 1 → (v.ring r).ctx.st ≠ 3 → t.pool = { u.pool with busy := false, result := 1 } ∧ t.rings = v.rings)) ∧
  ∀ (v : State) (m : Nat), (v.mbx m).cmd = 0x90 → ((v.mbx m).argF 0 0 2 = 1 ∨ (v.mbx m).argF 0 0 2 = 2) → v.pool.next = none →
    v.pool.busy = false →
    if v.pool.result = 0 then Ended v (v.mbFinish m) m 0 0 [] else Ended v (v.mbFinish m) m 0x0C 0 [(1, v.pool.result)]

/-- R827 to R831, R833, R835, R843, R846, R849 to R851: a command of an instance that passes its checks is taken up and waits for the
first tick whose latch point is still to come, which carries out what it asks; a command that the instance's state forbids ends FIELD with
reason 1 and changes no instance. -/
def Obligations.InstanceCommandsWaitForTheirTick : Prop :=
  (∀ (s : State) (m : Nat),
    let x := s.mbx m
    let i := x.argF 0 0 12
    let k := s.insOf i
    let Waits := fun (kind : Nat) (t : State) => (t.mbx m).running = true ∧ (t.mbx m).go = false ∧ (t.insOf i).next = kind ∧
      (t.insOf i).nextAt = s.soonFrame ∧ (t.insOf i).mb = some m ∧ (t.insOf i).st = k.st ∧ ∀ j, j ≠ i → t.insOf j = s.insOf j
    (i ≠ 0 →
      (s.mbOf 0xA1 = some m → (k.st = 1 ∨ k.st = 4) → k.next = 0 → Gives .insDestroy s (Waits 6)) ∧
      (s.mbOf 0xA1 = some m → ((k.st ≠ 1 ∧ k.st ≠ 4) ∨ k.next ≠ 0) → Gives .insDestroy s fun t =>
        Ended s t m 0x0C 0 [(1, 1)] ∧ t.ins = s.ins) ∧
      (s.mbOf 0xA2 = some m → k.st = 1 → k.next = 0 → s.aliases i = false → Gives .insReset s (Waits 3)) ∧
      (s.mbOf 0xA4 = some m → flag (x.arg 0) 12 = false → k.st = 1 → k.next = 0 → Gives .freeze s (Waits 4)) ∧
      (s.mbOf 0xA4 = some m → flag (x.arg 0) 12 = true → k.st = 4 → k.next = 0 → Gives .thaw s (Waits 5)) ∧
      (s.mbOf 0xA0 = some m → (x.arg 4).toNat = 128 → (x.arg 1).toNat ≤ 262144 → ∀ b, s.readBytes (x.addr 2) 128 = .inr b →
        s.recordFails i (x.arg 1).toNat (flag (x.arg 0) 12) (flag (x.arg 0) 13) b = none → Gives .insCreate s fun t =>
          (t.mbx m).running = true ∧ t.ins = s.ins ∧ ∃ g, t.insStage = some g ∧ g.itag = i ∧ g.at_ = s.soonFrame ∧ g.mb = some m ∧
            g.restore = false ∧ g.rings = [] ∧ g.body = insOfRecord (x.arg 1).toNat (flag (x.arg 0) 12) (flag (x.arg 0) 13) b) ∧
      (s.mbOf 0xA6 = some m → ∀ b, 256 ≤ (x.arg 3).toNat → s.readBytes (x.addr 1) (x.arg 3).toNat = .inr b →
        blobFails b (x.arg 3).toNat = none → (∀ r ∈ blobRings b, (s.ring r.1).ctx.st = 0) →
        s.recordFails i (leNat b 0x14 4) ((leNat b 0x0F 1).testBit 0) ((leNat b 0x0F 1).testBit 1) ((b.drop 0x40).take 128) = none →
        Gives .restore s fun t => (t.mbx m).running = true ∧ t.ins = s.ins ∧ ∃ g, t.insStage = some g ∧ g.itag = i ∧ g.at_ = s.soonFrame ∧
          g.mb = some m ∧ g.restore = true ∧ g.rings = blobRings b ∧ g.body.st = 4)) ∧
    (s.mbOf 0xA7 = some m → (i = 0 ∨ (k.st ≠ 0 ∧ k.st ≠ 5 ∧ k.next = 0)) → Gives .cntUserSet s fun t =>
      Waits 7 t ∧ (t.insOf i).userNext = flag (x.arg 0) 12) ∧
    (s.mbOf 0xA3 = some m → (i = 0 ∨ (k.st ≠ 0 ∧ k.st ≠ 5 ∧ k.next = 0 ∧ k.elastic = true)) → (x.arg 3).toNat = 34 → (x.arg 4).toNat = 0 →
      ∀ b, s.readBytes (x.addr 1) 34 = .inr b → s.shareBad i (sharesOf b) = none → Gives .shareSet s fun t =>
        Waits 8 t ∧ (t.insOf i).shares = sharesOf b ∧ ∀ j c, j < 17 → s.chanOfRole j = some c →
          (s.chan c).shareFinal i ≠ (sharesOf b).getD j 0 →
          (i, (sharesOf b).getD j 0, s.soonFrame, s.esc.frame + 1) ∈ (t.chan c).shareChg)) ∧
  (∀ (v : State) (i : Nat),
    let x := v.insOf i
    let u := v.insTick1 i
    let Told := fun (res : List (Nat × Nat)) => ∀ m, x.mb = some m → Ended v u m 0 0 res
    x.nextAt ≤ v.esc.frame →
      (x.next = 3 → (u.insOf i).next = 0 ∧ (u.insOf i).st = 2 ∧ (u.insOf i).resets = wrapAdd 8 x.resets 1 ∧ u.genOf i = v.nextGen i) ∧
      (x.next = 4 → (u.insOf i).next = 0 ∧ (u.insOf i).st = 3 ∧ u.genOf i = v.genOf i) ∧
      (x.next = 5 → (u.insOf i).next = 0 ∧ (u.insOf i).st = 1 ∧ Told [(0, v.frameNo % 2 ^ 32)]) ∧
      (x.next = 6 → (u.insOf i).next = 0 ∧ (u.insOf i).st = 5 ∧ (u.insOf i).slice = none ∧ (u.insOf i).quota = 0 ∧
        u.genOf i = v.nextGen i) ∧
      (x.next = 7 → v.superseded (.ins i) 0x050 2 = false →
        (u.insOf i).next = 0 ∧ flag (u.reg (.ins i) 0x050) 1 = x.userNext ∧ Told [(0, v.frameNo % 2 ^ 32)]) ∧
      (x.next = 8 → (∀ c, c < 17 → ∀ y ∈ (v.chan c).shareChg, y.1 ≠ i) → (u.insOf i).next = 0 ∧ Told [(0, v.frameNo % 2 ^ 32)])) ∧
  ∀ (v : State) (k : InsStage), v.insStage = some k → k.at_ ≤ v.esc.frame →
    let u := v.insStageTick
    u.insStage = none ∧ (u.insOf k.itag).st = k.body.st ∧ (u.insOf k.itag).quota = k.body.quota ∧ (u.insOf k.itag).slice = k.body.slice ∧
    (u.page (.ins k.itag)).en = true ∧ u.genOf k.itag = v.nextGen k.itag ∧
    (∀ j c, j < 17 → v.chanOfRole j = some c → (u.chan c).shareOf k.itag = k.body.shares.getD j 0) ∧
    ∀ m, k.mb = some m → Ended v u m 0 0 [(0, v.frameNo % 2 ^ 32), (1, v.nextGen k.itag)]

/-- R847, R848: SAVE of a frozen instance writes its blob into a buffer that holds it, and ends with the blob's length and CRC; one that
does not hold it is refused with the length. -/
def Obligations.SaveWritesTheBlob : Prop :=
  ∀ (s : State) (m : Nat), s.mbOf 0xA5 = some m →
    let x := s.mbx m
    let i := x.argF 0 0 12
    let b := s.blobBytes i
    i ≠ 0 → (x.arg 3).toNat ≠ 0 → (s.insOf i).st = 4 →
    (b.length ≤ (x.arg 3).toNat → ∀ u, s.writeBytes (b.length / 64 + 2) (x.addr 1) b = .inr u → Gives .save s fun t =>
      Ended s t m 0 0 [(0, b.length), (1, leNat b 0x3C 4)] ∧ t.mem = u.mem ∧ t.subs = u.subs ∧ t.ins = u.ins) ∧
    ((x.arg 3).toNat < b.length → Gives .save s fun t => Ended s t m 0x0C 3 [(0, b.length)] ∧ t.mem = s.mem ∧ t.ins = s.ins)

/-- R837, R844, R846: a resetting instance whose old generation has no write left becomes ACTIVE with RESET_DONE; a freezing one whose
work has been answered becomes FROZEN, its contexts written back; one in IRQ_MODE 1 whose interrupt has newly asserted sends its message
to its port, with its address and data. -/
def Obligations.InstancesDrain : Prop :=
  ∀ (s : State) (i : Fin 4096),
    let x := s.insOf i
    (x.resetDone = false → s.oldWrites i = false → s.trt.clearPend = false → x.st = 2 → x.mb = none → Gives (.resetDone i) s fun t =>
      t.insOf i = { x with resetDone := true, st := 1 } ∧ flag (t.page (.ins i)).isr 4 = true) ∧
    (x.resetDone = false → s.oldWrites i = false → s.trt.clearPend = false → x.st = 2 → ∀ m, x.mb = some m → Gives (.resetDone i) s fun t =>
      Ended s t m 0 0 [(0, x.effAt % 2 ^ 32), (1, s.genOf i), (2, (s.bclk - x.resetBclk) % 2 ^ 32)] ∧
      t.insOf i = { x with resetDone := true, st := 1, mb := none }) ∧
    (x.resetDone = false → s.oldWrites i = false → s.trt.clearPend = false → x.st ≠ 2 → Gives (.resetDone i) s fun t =>
      t.insOf i = { x with resetDone := true } ∧ flag (t.page (.ins i)).isr 4 = true) ∧
    (x.st = 3 → (s.gws.any fun e => e.2.tags.any fun t => t.2.itag == i.val && decide (0 < t.2.left)) = false →
      (s.les.any fun e => e.2.ops.any fun o => o.itag == i.val) = false → (∀ r ∈ s.ringsOf i, s.mayForm r = false) →
      Gives (.quiesced i) s fun t => (t.insOf i).st = 4 ∧ (t.insOf i).mb = none ∧ (∀ r ∈ s.ringsOf i, (t.ring r).jobs = [] ∧
        (t.ring r).ctx.st = if (s.ring r).ctx.st = 3 then 3 else 4) ∧ ∀ m, x.mb = some m → Ended s t m 0 0 [(0, x.effAt % 2 ^ 32)]) ∧
    (let w := s.reg (.ins i) 0x050
     s.blk.msgs = [] → flag w 2 = true → x.msgDue = none → (s.page (.ins i)).asserts = true → x.asserted = false →
      Gives (.instanceIntMessage i) s fun t => (t.insOf i).asserted = true ∧ ∃ y, t.blk.msgs = [y] ∧ y.port = fld w 8 4 ∧
        y.addr = x.msgAddr ∧ y.data = x.msgData ∧ y.ins = some i ∧ y.held = (!s.linkUp (fld w 8 4) || s.trt.hold))

/-- R127, R862, R864, R873, R877, R878, R883, R884, R887, R888, R956: TAKEOVER stages its task, whose phase CLOSE begins at a tick, and
REJOIN its own, which begins with POWER and fails there without supplies; FW_SWAP of an image that passes leaves SWAP_PEND, one of an
image that the slot does not read back is refused; CHAN_TEST waits for its place; a test whose passes have run ends at a tick with what
they found; a rejoin that has trained and filled ends as the reserve at its tick. -/
def Obligations.LiveServiceCommandsStart : Prop :=
  (∀ (s : State) (m : Nat),
    let x := s.mbx m
    let c := x.argF 0 0 5
    (s.mbOf 0xB0 = some m → x.argF 0 5 3 = 0 → x.argF 0 9 23 = 0 → c < 17 → s.tkRefuse c = 0 → ∀ d, s.chanOfRole 16 = some d →
      s.anyExpert (tkPages c d) = false → s.pagesBusy (tkPages c d) = false → s.map.kind = 0 → Gives .takeover s fun t =>
        (t.mbx m).running = true ∧ (t.mbx m).go = false ∧ t.chans = s.chans ∧
        t.task = { kind := 1, src := c, dst := d, force := flag (x.arg 0) 8, mb := some m, began := s.bclk, at_ := s.soonFrame }) ∧
    (s.mbOf 0xB1 = some m → s.rjnRefuse c = 0 → s.anyExpert (rjnPages c) = false → s.pagesBusy (rjnPages c) = false →
      s.calBusy c = false → Gives .rejoin s fun t => (t.mbx m).running = true ∧ (t.mbx m).go = false ∧ t.chans = s.chans ∧
        t.task = { kind := 2, dst := c, mb := some m, began := s.bclk, at_ := s.soonFrame }) ∧
    (s.mbOf 0xB2 = some m → s.atWork = false → ∀ h ver b, (x.arg 2).toNat ≠ 0 → s.readBytes (x.addr 0) 20 = .inr h →
      imageHeader h = some (ver, (x.arg 2).toNat) → s.readBytes (x.addr 0) (x.arg 2).toNat = .inr b →
      (crc32 (b.take 16 ++ b.drop 20) = ((wordsOf (h.drop 16)).getD 0 0).toNat → Gives (.fwSwap true) s fun t =>
        (t.mbx m).running = true ∧ t.mvc.swapPend = true ∧ t.mvc.swapMb = some m ∧ t.mvc.swapFrame = s.esc.frame + 1 + b2n s.pastLatch ∧
        t.mvc.slot = s.mvc.slot ∧ (if s.mvc.slot = true then t.mvc.verA else t.mvc.verB) = BitVec.ofNat 32 (ver % 2 ^ 28 + 2 ^ 31)) ∧
      Gives (.fwSwap false) s fun t => Ended s t m 0x0C 0 [(1, 8)] ∧ t.mvc.swapPend = s.mvc.swapPend ∧
        (if s.mvc.slot = true then t.mvc.verA else t.mvc.verB) = BitVec.ofNat 32 (ver % 2 ^ 28)) ∧
    ∀ (errs : Nat) (ranks : BitVec 8) (w0 w1 : Word),
      let Starts := fun (kind : Nat) (t : State) => (t.mbx m).running = true ∧ (t.mbx m).go = false ∧ (t.cal c).testWait = true ∧
        t.tst = { on := true, ch := c, kind := kind, mb := some m, train := decide (kind = 0) && (s.chan c).calState != 3 }
      let Finds := fun (t : State) => t.tst = { s.tst with fin := some (0, [(0, min errs (2 ^ 32 - 1)), (1, ranks.toNat), (2, w0.toNat),
        (3, w1.toNat)], s.soonFrame) } ∧ (t.chan s.tst.ch).filled = false ∧ (t.chan s.tst.ch).test = true
      (s.mbOf 0xB3 = some m → s.tst.on = false → x.argF 1 0 8 ≠ 0 → c < 17 → (s.chan c).inService = false → (s.chan c).prsnt = true →
        s.calrefFault c = false → s.anyExpert (chanPages c) = false → s.pagesBusy (chanPages c) = false → s.calBusy c = false →
        (x.argF 0 8 2 = 0 → Gives (.chanTestLine errs ranks w0 w1) s (Starts 0)) ∧
        (x.argF 0 8 2 = 1 → Gives (.chanTestLoopback errs ranks w0 w1) s (Starts 1))) ∧
      (s.tst.on = true → s.tst.train = false → s.tst.fin = none → (s.chan s.tst.ch).test = true →
        (s.tst.kind = 0 → s.tablesDone s.tst.ch = true → Gives (.chanTestLine errs ranks w0 w1) s Finds) ∧
        (s.tst.kind = 1 → Gives (.chanTestLoopback errs ranks w0 w1) s Finds))) ∧
  (∀ (v : State) st res f, v.tst.on = true → v.tst.fin = some (st, res, f) → f ≤ v.esc.frame →
    let t := v.testTick
    t.tst = {} ∧ (t.chan v.tst.ch).powered = false ∧ (t.chan v.tst.ch).svcReady = true ∧ (t.chan v.tst.ch).resetN = true ∧
    (t.chan v.tst.ch).test = false ∧ (t.chan v.tst.ch).calState = 0 ∧ (t.cal v.tst.ch).place = false ∧
    ∀ m, v.tst.mb = some m → Ended v t m st 0 res) ∧
  ∀ v : State, v.mvc.running = true →
    (let k := v.task
     (k.kind = 1 ∨ k.kind = 3) → k.fail = false → k.phase = 0 → k.at_ ≤ v.esc.frame → v.pagesBusy (tkPages k.src k.dst) = false →
      v.map.kind = 0 → (v.moveTick.chan k.src).tko = 1 ∧ v.moveTick.task = { k with phase := 1 }) ∧
    (∀ n f, v.task.kind = 2 → v.task.rjn = some (n, f) → f ≤ v.esc.frame →
      (v.rejoinMoved.chan v.task.dst).rjn = n ∧ v.rejoinMoved.task = { v.task with rjn := none }) ∧
    let w := v.rejoinMoved
    let k := w.task
    let t := v.rejoinTick
    k.kind = 2 → k.at_ ≤ v.esc.frame →
      (k.phase = 0 → (t.chan k.dst).powered = true ∧ (t.chan k.dst).resetN = false ∧ (t.chan k.dst).rjn = 1 ∧ t.task = { k with phase := 1 }) ∧
      (k.phase ≠ 0 → (w.chan k.dst).rjn = 1 → (w.chan k.dst).supplies = true →
        (t.chan k.dst).rjn = 2 ∧ (t.chan k.dst).calState = 1 ∧ t.task = k) ∧
      (k.phase ≠ 0 → (w.chan k.dst).rjn = 1 → (w.chan k.dst).supplies = false →
        (t.chan k.dst).rjn = 0 ∧ (t.chan k.dst).powered = false ∧ (t.chan k.dst).resetN = true ∧ t.task = {} ∧
        ∀ m, k.mb = some m → (t.mbx m).busy = false ∧ (t.mbx m).done = true ∧ (t.mbx m).status = 0x0C) ∧
      (k.phase ≠ 0 → (w.chan k.dst).rjn ≠ 1 → k.until_ = some v.esc.frame →
        (t.chan k.dst).role = 16 ∧ (t.chan k.dst).rjn = 0 ∧ t.task = {} ∧ flag (t.page (.cc k.dst)).isr 11 = true)

/-- R518, R520, R886 to R888: the first heartbeat of a new image completes the swap and takes its slot; without one Movement restarts from
the old slot; a disagreement of the lockstep pair restarts Movement, or halts it at the third within 1 s. -/
def Obligations.MovementChangesItsImage : Prop :=
  ∀ (s : State),
    (∀ f b, s.mvc.trial = some (f, b) → s.bclk ≤ b + s.bin.us 10000 → s.mvc.halted = false → Gives .fwSwapped s fun t =>
      t.mvc.running = true ∧ t.mvc.slot = !s.mvc.slot ∧ t.mvc.fallback = false ∧ t.mvc.swaps = wrapAdd 8 s.mvc.swaps 1 ∧
      t.mvc.heartbeat = wrapAdd 32 s.mvc.heartbeat 1 ∧ t.mvc.beatAt = s.bclk ∧ t.mvc.trial = none ∧ t.mvc.swapMb = none ∧
      ∀ m, s.mvc.swapMb = some m → Ended s t m 0 0 [(0, f), (1, fld (if s.mvc.slot = true then s.mvc.verA else s.mvc.verB) 0 28)]) ∧
    (∀ f b, s.mvc.trial = some (f, b) → s.canReach (max s.bclk (b + s.bin.us 10000)) = true → Gives .fwHeartbeatTimeout s fun t =>
      t.bclk = max s.bclk (b + s.bin.us 10000) ∧ t.mvc.running = !s.mvc.halted ∧ t.mvc.slot = s.mvc.slot ∧ t.mvc.fallback = true ∧
      t.mvc.restarts = wrapAdd 8 s.mvc.restarts 1 ∧ t.mvc.beatAt = t.bclk ∧ t.mvc.trial = none ∧ t.mvc.swapMb = none ∧
      ∀ m, s.mvc.swapMb = some m → Ended s t m 0x0C 0 [(1, 9)]) ∧
    ∀ crc, s.phase ≠ 0 → s.mvc.halted = false →
      let near := s.mvc.recent.filter fun t => decide (s.bclk ≤ t + s.bin.us 1000000)
      Gives (.lockstepDisagreement crc) s fun t => t.mvc.faults = satAdd 65535 s.mvc.faults 1 ∧ t.mvc.recent = near ++ [s.bclk] ∧
        if near.length < 2 then t.mvc.running = true ∧ t.mvc.halted = false ∧ t.mvc.restarts = wrapAdd 8 s.mvc.restarts 1 ∧ t.mvc.intentOk = crc
        else t.mvc.running = false ∧ t.mvc.halted = true ∧ t.mvc.restarts = s.mvc.restarts

/-- R862, R864 to R866, R869, R873: an event of the last millisecond starts the takeover of its channel, staged for the next tick; the
copy unit issues its next read, or in poison mode its next poison write, at the copy's rate; after 10 ms without a return it enters poison
mode; the POWER of a takeover whose source has been fenced is staged, and at the tick the source loses its supplies and the takeover ends.
-/
def Obligations.TakeoverRuns : Prop :=
  ∀ (s : State),
    (∀ (c : Fin 17) (e d : Nat), (s.chan c).evtAt = some e → s.bclk ≤ e + s.bin.us 1000 → s.chanOfRole 16 = some d → s.tkRefuse c = 0 →
      s.mvc.running = true → s.map.kind = 0 → s.anyExpert (tkPages c d) = false → s.pagesBusy (tkPages c d) = false →
      Gives (.takeoverStart c) s fun t => (t.chan c).evtAt = none ∧ (t.chan c).tko = (s.chan c).tko ∧
        t.task = { kind := 1, src := c, dst := d, began := s.bclk, at_ := s.soonFrame }) ∧
    (let n := s.copy.next
     let b := max s.bclk (s.copyTime n)
     s.copy.on = true → n < s.chanLines → s.therm.rate ≠ 0 → s.canReach b = true →
      (s.copy.poison = false → s.copy.out.length + (s.mvc.cq.filter fun w => w.req.use == 4 || w.req.use == 5).length + 16 ≤ 64 →
        Gives .copyLine s fun t => t.bclk = b ∧ t.copy.next = n + 1 ∧ t.copy.out = s.copy.out ++ [n] ∧ t.copy.poisoned = s.copy.poisoned ∧
          ∃ w ∈ t.mvc.cq, w.req.src = 19 ∧ w.req.use = 3 ∧ w.req.tag = n ∧ w.req.write = false ∧ w.raised = b) ∧
      (s.copy.poison = true → Gives .copyLine s fun t => t.bclk = b ∧ t.copy.next = n + 1 ∧ t.copy.out = s.copy.out ∧
        t.copy.poisoned = s.copy.poisoned + 1 ∧ ∃ w ∈ t.mvc.cq, w.req.src = 19 ∧ w.req.poison = true ∧ w.req.write = true ∧ w.raised = b)) ∧
    (let b := max s.bclk (s.copy.lastRead + s.bin.us 10000)
     s.copy.on = true → s.copy.poison = false → s.copy.out ≠ [] → s.canReach b = true → Gives .poisonMode s fun t => t.bclk = b ∧
      t.copy = { s.copy with poison := true, out := [], poisoned := s.copy.poisoned + s.copy.out.length } ∧
      ∀ w ∈ t.mvc.cq, w.req.use ≠ 3) ∧
    (let k := s.task
     k.kind = 1 → s.mvc.running = true →
      (k.phase = 5 → exec .takeoverPower s = .next { s with task := { k with phase := 6, at_ := s.soonFrame } }) ∧
      (k.phase = 6 → k.at_ ≤ s.esc.frame →
        let t := s.moveTick
        t.task = {} ∧ (t.chan k.src).powered = false ∧ (t.chan k.src).svcReady = true ∧ (t.chan k.src).resetN = true ∧
        (t.chan k.src).tko = 6 ∧ flag (t.page (.cc k.src)).isr 10 = true ∧
        ∀ m, k.mb = some m → Ended s t m 0 0 [(0, k.swFrame), (1, min s.copy.poisoned (2 ^ 32 - 1)), (2, k.copyMs)]))

/-! ### The fabric ports (chapter 03) -/

/-- R164 to R167, R175, R184, R189, R196: a header flit that reaches a clear port is taken with one credit and its item enters the FIFO,
whatever it says; a header that ends a tail discard counts a protocol error first; a register request is performed on its page and
answered. At G0 an item whose tag is in use is discarded, a malformed one is answered so, and of any other the tag is recorded for as many
answers as it has lines, and its lines enter the pipeline. What falls due at the end of a BCLK is done as the next BCLK comes. -/
def Obligations.PortAcceptsHeaders : Prop :=
  (∀ (s : State) (g : Fin 16) (h : ReqHdr), s.flitOk g (cutHdr h).seq → s.portClear g →
    (Gives (.lineRead g h) s fun t => HeaderTaken s t g (cutHdr h) ∧ (t.gw g).protoCnt = (s.gw g).protoCnt) ∧
    (Gives (.multiRead g h) s fun t => HeaderTaken s t g (cutHdr { h with opcode := 2 }) ∧ (t.gw g).protoCnt = (s.gw g).protoCnt) ∧
    (Gives (.lineWrite g h) s fun t => HeaderTaken s t g (cutHdr { h with opcode := 3 }) ∧ (t.gw g).protoCnt = (s.gw g).protoCnt) ∧
    (let y := cutHdr { h with opcode := 4 }
     let u := (s.flitIn g y.seq fun s => s.headerIn g y).gwAhead fun s => (s.firstSvc g).map fun _ => s.bclk
     ∀ p z v, u.pkts = [p] → p.body = .svcReq g z → u.svcOne g = some v → Gives (.svcAccess g h) s fun t => t = v ∧
       ∃ q ∈ t.pkts, ∃ r, q.body = .memResp r ∧ r.rkind = 3 ∧ r.req.src = g ∧ r.req.tag = z.tag ∧ r.req.use = 9)) ∧
  (∀ (s : State) (g : Fin 16) (h : ReqHdr), s.flitOk g (cutHdr h).seq → (s.gw g).tailDisc = true → 0 < (s.gw g).reqHdr →
    Gives (.tailDiscardHeader g h) s fun t => HeaderTaken s t g (cutHdr h) ∧
      (t.gw g).protoCnt = satAdd 255 (s.gw g).protoCnt 1 ∧ (t.gw g).tailDisc = false ∧ (t.gw g).discAt = some s.bclk) ∧
  (∀ (s : State) (g : Fin 16) (i : Item) (rest : List Item), (s.gw g).fifo = i :: rest →
    let h := i.hdr
    let u := s.gwDo g .g0
    (u.gw g).fifo = rest ∧ (u.gw g).reqHdr = (s.gw g).reqHdr + 1 ∧
    ((s.gw g).inUse h.tag = true → (u.gw g).tags = (s.gw g).tags ∧ (u.gw g).pipe = (s.gw g).pipe ∧ (u.gw g).eg = (s.gw g).eg ∧
      (u.gw g).protoCnt = satAdd 255 (s.gw g).protoCnt 1 ∧ flag (u.page (.gw g)).isr 1 = true) ∧
    ((s.gw g).inUse h.tag = false → hdrMalformed h = true → (u.gw g).malfCnt = satAdd 65535 (s.gw g).malfCnt 1 ∧
      (u.gw g).pipe = (s.gw g).pipe ∧ ∃ e ∈ (u.gw g).eg, e.at_ = s.bclk + 5 ∧ e.resp.status = 4 ∧ e.resp.req.tag = h.tag) ∧
    ((s.gw g).inUse h.tag = false → hdrMalformed h = false →
      (u.gw g).tag h.tag = { left := hdrAnswers h, itag := h.itag % 4096, wr := h.opcode == 3, at_ := i.at_ } ∧
      (∀ k, k ≠ h.tag → (u.gw g).tag k = (s.gw g).tag k) ∧ (u.gw g).g0Free = s.bclk + hdrAnswers h ∧
      ∃ ls, (u.gw g).pipe = (s.gw g).pipe ++ ls ∧ ls.length = hdrAnswers h ∧ ∀ n l, ls[n]? = some l →
        l.hdr = h ∧ l.st = 0 ∧ l.g0 = s.bclk + n ∧ l.req.pa = h.addr + 64 * n ∧ l.req.line = n ∧ l.req.tag = h.tag)) ∧
  ∀ (s : State) (g : Nat) (e : GwWork), s.gwFirst = some (atEnd s.bclk, g, e) →
    ∃ n, s.goto (s.bclk + 1) = (State.gwRun (s.bclk + 1) n (s.gwDo g e)).advance (s.bclk + 1)

/-- R175 to R178, R216, R348, R815, R818: a line of the pipeline takes each stage in its BCLK. At G1 its instance is found and may reach
its address, or it is refused ACCESS; at G2 it is decoded, or refused UNMAPPED or OFFLINE, before READY always UNMAPPED (R501; the status is the
model's choice, log entry 59); at G4, where no hold, earlier request or queue of its gateway concerns it, a line whose owner holds a share
on its channel is injected to the channel in class G; without a share, or behind a C request of its line that is granted and not yet
sent, it joins the gateway's C queue. -/
def Obligations.LineReadIsAdmitted : Prop :=
  ∀ (s : State) (g : Fin 16) (i : Nat) (l : PLine), (s.gw g).pipe[i]? = some l →
    let u := s.gwDo g (.line i)
    let Refused := fun (status t : Nat) => (u.gw g).pipe = (s.gw g).pipe.eraseIdx i ∧
      ∃ e ∈ (u.gw g).eg, e.at_ = t ∧ e.resp.status = status ∧ e.resp.req.tag = l.req.tag ∧ e.resp.req.line = l.req.line
    (l.st = 0 →
      (s.itagOf g l.hdr = none → Refused 8 (s.bclk - 1 + 5) ∧ flag (u.page (.gwAdm g)).isr 0 = true) ∧
      (∀ k, s.itagOf g l.hdr = some k → l.hdr.opcode ≠ 4 → s.lineMay k l.req.pa = true →
        (u.gw g).pipe = (s.gw g).pipe.set i { l with req := { l.req with itag := k, gen := s.genOf k }, st := 1 } ∧
        ((u.gw g).tag l.hdr.tag).itag = k ∧ ((u.gw g).tag l.hdr.tag).gen = s.genOf k) ∧
      (∀ k, s.itagOf g l.hdr = some k → l.hdr.opcode ≠ 4 → s.lineMay k l.req.pa = false →
        Refused 8 (s.bclk - 1 + 5) ∧ flag (u.page (.gwAdm g)).isr 0 = true)) ∧
    (l.st = 1 →
      (9 ≤ s.phase → ∀ x, s.dest l.req.pa = .at_ x →
        (u.gw g).pipe = (s.gw g).pipe.set i { l with req := { l.req with loc := x }, g0 := s.bclk - 2, st := 3 }) ∧
      ((s.phase < 9 ∨ s.dest l.req.pa = .unmapped) → Refused 2 (s.bclk - 2 + 5) ∧ flag (u.page (.gwAdm g)).isr 1 = true) ∧
      (9 ≤ s.phase → s.dest l.req.pa = .closed → Refused 3 (s.bclk - 2 + 5))) ∧
    (l.st = 3 → (s.gw g).holds = [] → (s.gw g).recent = [] → (s.gw g).cq = [] →
      let r := { l.req with created := s.bclk }
      let share := Tbl.get (fun _ => 0) (s.chan r.loc.ch).share r.itag
      (0 < share → flag (s.reg (.gwAdm g) 0x040) 0 = false → s.waitsLine g r.pa = false → (u.gw g).gOut = (s.gw g).gOut + 1 ∧
        (u.gw g).pipe = (s.gw g).pipe.eraseIdx i ∧ (u.gw g).cq = [] ∧
        ∃ p ∈ u.pkts, p.src = nodeGw g ∧ p.dst = nodeCh r.loc.ch ∧ p.body = .memReq { r with g := true }) ∧
      ((share = 0 ∨ flag (s.reg (.gwAdm g) 0x040) 0 = true ∨ s.waitsLine g r.pa = true) → (u.gw g).gOut = (s.gw g).gOut ∧ u.pkts = s.pkts ∧
        (u.gw g).pipe = (s.gw g).pipe.eraseIdx i ∧ (u.gw g).cq = [{ req := { r with g := false }, raised := s.bclk + 1 }]))

/-- R149, R153, R155, R163, R166, R168, R185, R186, R189, R960: a data flit joins the write that is due, in the FIFO or in the pipeline;
in tail discard it is eaten; after a header of another opcode whose LAST was 0 it is discarded; where none is due it is stray and counts a
protocol error. A header where the data of a write is due ends that write MALFORMED and is taken itself. -/
def Obligations.PortTakesDataFlits : Prop :=
  ∀ (s : State) (g : Fin 16),
    (∀ (seq : Nat) (d : Line), s.flitOk g seq → 0 < (s.gw g).reqData →
      (∀ is i, s.writeDue g is i → Gives (.lineWriteData g seq d) s fun t => (t.gw g).due = 0 ∧ (t.gw g).reqData = (s.gw g).reqData - 1 ∧
        (t.gw g).fifo = is ++ [{ i with data := some d }] ∧ (t.gw g).protoCnt = (s.gw g).protoCnt) ∧
      ((s.gw g).partLast = false → (s.gw g).due = 1 → (s.gw g).tailDisc = false → Gives (.lineWriteData g seq d) s fun t =>
        (t.gw g).due = 0 ∧ (t.gw g).reqData = (s.gw g).reqData ∧ (t.gw g).crData = (s.gw g).crData + 1 ∧ (t.gw g).fifo = (s.gw g).fifo ∧
        (t.gw g).pipe = (s.gw g).pipe.map fun l =>
          if l.wait then { l with wait := false, g0 := max l.g0 (s.bclk - 4), req := { l.req with data := d } } else l) ∧
      ((s.gw g).tailDisc = true → Gives (.tailDiscardEat g seq d) s fun t => (t.gw g).tailDisc = false ∧ (t.gw g).discAt = some s.bclk ∧
        (t.gw g).crData = (s.gw g).crData + 1 ∧ (t.gw g).fifo = (s.gw g).fifo ∧ (t.gw g).tags = (s.gw g).tags ∧
        (t.gw g).reqData = (s.gw g).reqData ∧ (t.gw g).protoCnt = (s.gw g).protoCnt) ∧
      ((s.gw g).tailDisc = false → (s.gw g).due = 0 → Gives (.strayDataFlit g seq d) s fun t =>
        (t.gw g).protoCnt = satAdd 255 (s.gw g).protoCnt 1 ∧ flag (t.page (.gw g)).isr 1 = true ∧ (t.gw g).crData = (s.gw g).crData + 1 ∧
        (t.gw g).tags = (s.gw g).tags ∧ (t.gw g).reqData = (s.gw g).reqData ∧ (t.gw g).fifo = (s.gw g).fifo ∧ t.pkts = s.pkts) ∧
      ((s.gw g).tailDisc = false → (s.gw g).due = 2 → Gives (.lineWriteData g seq d) s fun t => (t.gw g).due = 0 ∧
        (t.gw g).crData = (s.gw g).crData + 1 ∧ (t.gw g).reqData = (s.gw g).reqData ∧ (t.gw g).pipe = (s.gw g).pipe ∧
        (t.gw g).protoCnt = (s.gw g).protoCnt)) ∧
    ∀ h : ReqHdr, let y := cutHdr h
      s.flitOk g y.seq → 0 < (s.gw g).reqHdr → (s.gw g).tailDisc = false →
      let new : Item := { hdr := y, at_ := s.bclk, thr := s.ctThresh g }
      (∀ is i, s.writeDue g is i → Gives (.missingWriteData g h) s fun t => (t.gw g).fifo = is ++ [new] ∧
        (t.gw g).reqHdr = (s.gw g).reqHdr ∧ (t.gw g).protoCnt = satAdd 255 (s.gw g).protoCnt 1 ∧
        (t.gw g).malfCnt = satAdd 65535 (s.gw g).malfCnt 1 ∧
        ∃ e ∈ (t.gw g).eg, e.at_ = s.bclk + 1 ∧ e.resp.status = 4 ∧ e.resp.req.tag = i.hdr.tag) ∧
      (∀ l, (s.gw g).partLast = false → (s.gw g).due = 1 → (s.gw g).pipe.find? (·.wait) = some l →
        Gives (.missingWriteData g h) s fun t => (t.gw g).fifo = (s.gw g).fifo ++ [new] ∧ (t.gw g).reqHdr = (s.gw g).reqHdr - 1 ∧
          (t.gw g).protoCnt = satAdd 255 (s.gw g).protoCnt 1 ∧ (t.gw g).malfCnt = satAdd 65535 (s.gw g).malfCnt 1 ∧
          (t.gw g).pipe = ((s.gw g).pipe.filter fun x => !x.wait) ∧
          ∃ e ∈ (t.gw g).eg, e.at_ = s.bclk + 1 ∧ e.resp.status = 4 ∧ e.resp.req.tag = l.req.tag)

/-- R93, R145, R149 to R151, R154, R157 to R160: what the link's flits and timers do to the replay buffer, the credits and the numbers. -/
def Obligations.LinkKeepsFlits : Prop :=
  ∀ (s : State) (g : Fin 16),
    (((s.gw g).link = .init ∨ (s.gw g).link = .up) → Gives (.phaseErr g) s fun t => (t.gw g).phaseErr = true ∧ (t.gw g).link = .down ∧
      (t.gw g).fifo = [] ∧ (t.gw g).cq = [] ∧ (t.gw g).pipe = []) ∧
    ((s.gw g).link ≠ .init → (s.gw g).link ≠ .up → Gives (.phaseErr g) s fun t => t.gw g = { s.gw g with phaseErr := true }) ∧
    (s.linkUp g = true →
      ((s.gw g).nakMode = false → Gives (.linkCrcError g) s fun t =>
        t.gw g = { s.gw g with nakMode := true, nakAt := some (s.bclk + 1), rplyIn := satAdd 255 (s.gw g).rplyIn 1 }) ∧
      (∀ b, (s.gw g).stallSince = some b →
        let e := b + s.bin.us (fld (s.reg (.gw g) 0x054) 0 10)
        s.canReach e = true → Gives (.replayTimeout g) s fun t => t.bclk = max s.bclk e ∧ (t.gw g).link = .down ∧ (t.gw g).eg = [] ∧
          (t.gw g).replay = [] ∧ (t.gw g).fifo = [] ∧ (t.gw g).cq = [] ∧ (t.gw g).pipe = [] ∧ flag (t.page (.gw g)).isr 0 = true) ∧
      (∀ b, (s.gw g).unacked = some b → s.canReach (b + 64) = true →
        let u := s.goto (b + 64)
        (u.gw g).unacked = some b → u.egIdle g u.bclk = true → Gives (.idleAck g) s fun t =>
          t.bclk = max s.bclk (b + 64) ∧ t.gw g = (u.gw g).sendIdle ((u.gw g).linkFree u.bclk) ∧ (t.gw g).unacked = none) ∧
      ∀ hdr data,
        let w := { s.gw g with rspHdr := satAdd 255 (s.gw g).rspHdr (hdr % 8), rspData := satAdd 255 (s.gw g).rspData (data % 8) }
        Gives (.meshCreditReturn g hdr data) s fun t =>
          t.gw g = { w with crStall := w.crStall && match s.nextEgress g with | some x => w.lacks x.1 | none => false }) ∧
    (s.linkHears g = true →
      ∀ ack a f b, (s.gw g).replay = a ++ f :: b → ack < 4096 → f.seq = ack → (∀ x ∈ a, x.seq ≠ ack) →
        (Gives (.ackReceived g ack) s fun t => (t.gw g).replay = b ∧ (t.gw g).stallSince = none ∧ (t.gw g).rplyOut = (s.gw g).rplyOut ∧
          (t.gw g).resend = min (s.gw g).resend b.length) ∧
        (Gives (.nakReceived g ack) s fun t => (t.gw g).replay = b ∧ (t.gw g).resend = b.length ∧
          (t.gw g).rplyOut = satAdd 255 (s.gw g).rplyOut 1)) ∧
    ((s.linkUp g = true ∨ ((s.gw g).link = .init ∧ s.gwEn g = true)) →
      ∀ f b, (s.gw g).replay = f :: b → (s.gw g).resend = 0 → s.canReach (f.sent + s.bin.us 2) = true → Gives (.rewindTimer g) s fun t =>
        let u := s.goto (f.sent + s.bin.us 2)
        t.bclk = max s.bclk (f.sent + s.bin.us 2) ∧ (t.gw g).replay = (u.gw g).replay ∧ (t.gw g).resend = (u.gw g).replay.length ∧
        (t.gw g).rplyOut = satAdd 255 (u.gw g).rplyOut 1) ∧
    (let w := (s.gw g).sendAgain s.bclk
     ∀ f, (s.gw g).replay[(s.gw g).replay.length - (s.gw g).resend]? = some f →
       s.gwDo g .again = s.updGw g (fun w => w.sendAgain s.bclk) ∧ w.resend = (s.gw g).resend - 1 ∧
       w.replay.map RpFlit.seq = (s.gw g).replay.map RpFlit.seq ∧ ∃ x, w.tx = x :: (s.gw g).tx ∧ x.seq = f.seq ∧ x.body = f.body)

/-- R132, R190, R194 to R197, R213: ALIVE falls: the port drops what it has not admitted and keeps its tags; ALIVE rises: the port starts
anew, a port with PHASE_ERR stays down (log entry 59); the gateway's INIT is sent with no tag in use; both INITs passed: the link is up in
the BCLK after the later. -/
def Obligations.PortComesAndGoes : Prop :=
  ∀ (s : State) (g : Fin 16),
    ((s.gw g).alive = true → Gives (.aliveFall g) s fun t => (t.gw g).alive = false ∧ (t.gw g).link = .aliveLow ∧
      (t.gw g).falls = satAdd 65535 (s.gw g).falls 1 ∧ (t.gw g).fifo = [] ∧ (t.gw g).cq = [] ∧ (t.gw g).aside = [] ∧ (t.gw g).pipe = [] ∧
      (t.gw g).replay = [] ∧ flag (t.page (.gw g)).isr 2 = true ∧ flag (t.page (.gw g)).isr 3 = true) ∧
    ((s.gw g).alive = false → Gives (.aliveRise g) s fun t => (t.gw g).alive = true ∧ (t.gw g).reqHdr = 48 ∧ (t.gw g).reqData = 32 ∧
      (t.gw g).expSeq = 0 ∧ (t.gw g).txSeq = 0 ∧ (t.gw g).downTags = [] ∧ (t.gw g).link = (if (s.gw g).phaseErr = true then .down else .init) ∧
      flag (t.page (.gw g)).isr 3 = true) ∧
    ((s.gw g).link = .init → s.gwEn g = true →
      ((s.gw g).initRecv = none → ∀ hdr data, Gives (.meshInit g hdr data) s fun t => t.gw g =
        { s.gw g with initRecv := some s.bclk, rspHdr := min 255 hdr, rspData := min 255 data, expSeq := 1, unacked := some s.bclk }) ∧
      ((s.gw g).initSent = none →
        ((s.gw g).tags = [] → s.linkDue g = some (atEnd s.bclk)) ∧
        let w := (s.gwDo g .link).gw g
        w.initSent = some s.bclk ∧ w.txSeq = ((s.gw g).txSeq + 1) % 4096 ∧ (∃ x, w.tx = x :: (s.gw g).tx ∧ x.fkind = 3 ∧ x.body = initBody) ∧
        ∃ f, w.replay = (s.gw g).replay ++ [f] ∧ f.fkind = 3 ∧ f.seq = (s.gw g).txSeq) ∧
      (∀ a b, (s.gw g).initSent = some a → (s.gw g).initRecv = some b → s.linkDue g = some (atStart (max a b + 1)) ∧
        ((s.gwDo g .link).gw g).link = .up ∧ flag ((s.gwDo g .link).page (.gw g)).isr 4 = true)) ∧
    ∀ m, s.linkDue g = some m → s.canReach (max ((m + 1) / 2) (s.bclk + 1)) = true →
      Gives (.linkInit g) s fun t => t = s.goto (max ((m + 1) / 2) (s.bclk + 1)) ∧ t.bclk = max ((m + 1) / 2) (s.bclk + 1)

/-- R156 to R158, R160, R169 to R174, R179, R183, R191, R192, R462, R835: the response that comes first leaves the port against a credit
and room in the replay buffer, and waits where it lacks either; one of an old generation is discarded; where the link is not up it is
dropped; a bounce is raised again in class C; a set-aside request that was bounced joins the queue. -/
def Obligations.EgressSendsResponses : Prop :=
  ∀ (s : State) (g : Fin 16),
    (let u := (s.egressAhead g).svcsFor g
     ∀ r b p, u.nextEgress g = some (r, b, p) →
      ((u.gw g).resend ≠ 0 → exec (.responseEgress g) s = .next u) ∧
      let e := max b (u.gw g).egFree
      let v := u.goto (e + 2)
      let fresh := p = none ∨ v.staleAt r e = false
      let need := if r.rkind = 1 then 2 else 1
      u.canReach (e + 2) = true → (u.gw g).resend = 0 →
      (fresh → v.linkUp g = true → (v.gw g).lacks r = false → (v.gw g).replay.length + need ≤ 256 →
        Gives (.responseEgress g) s fun t => t.bclk = max u.bclk (e + 2) ∧ (t.gw g).out = r :: (v.gw g).out ∧
          (t.gw g).rspHdr + 1 = (v.gw g).rspHdr ∧ (t.gw g).rspData + b2n (r.rkind == 1) = (v.gw g).rspData ∧
          (t.gw g).replay.length = (v.gw g).replay.length + need ∧ (t.gw g).tags = ((v.gw g).answered r).tags) ∧
      (fresh → v.linkUp g = true → (v.gw g).lacks r = true → Gives (.responseEgress g) s fun t =>
        t = v.updGw g fun w => { w with crStall := true }) ∧
      (fresh → v.linkUp g = true → (v.gw g).lacks r = false → 256 < (v.gw g).replay.length + need →
        Gives (.responseEgress g) s fun t => t = v.updGw g fun w => { w with stallSince := some (w.stallSince.getD v.bclk) }) ∧
      (fresh → v.linkUp g = false → Gives (.responseEgress g) s fun t => t.bclk = max u.bclk (e + 2) ∧ (t.gw g).out = (v.gw g).out ∧
        (t.gw g).dropCnt = wrapAdd 32 (v.gw g).dropCnt 1 ∧ (t.gw g).tags = ((v.gw g).answered r).tags) ∧
      (p.isSome = true → v.staleAt r e = true → Gives (.responseEgress g) s fun t =>
        t.bclk = max u.bclk (e + 2) ∧ (t.gw g).crStall = false ∧ (t.gw g).out = (v.gw g).out ∧ (t.gw g).staleCnt = wrapAdd 32 (v.gw g).staleCnt 1 ∧
        (t.gw g).tags = ((v.gw g).answered r).tags)) ∧
    (∀ a p b r n, s.pkts = a ++ p :: b → (∀ q ∈ a ++ b, q.bounceFor g = none) → p.bounceFor g = some (r, n) → s.canReach (p.arr + 1) = true →
      let u := s.goto (p.arr + 1)
      ((u.linkUp g = false ∨ ((u.gw g).tag r.tag).old = true ∨ u.genOf r.itag ≠ r.gen) → Gives (.retryCBounce g) s fun t =>
        t.bclk = max s.bclk (p.arr + 1) ∧ (t.gw g).cq = (u.gw g).cq ∧ (t.gw g).tags = ((u.gw g).release r.tag).tags) ∧
      (u.linkUp g = true → ((u.gw g).tag r.tag).old = false → u.genOf r.itag = r.gen → Gives (.retryCBounce g) s fun t =>
        t.bclk = max s.bclk (p.arr + 1) ∧ t.pkts = eraseFirst (fun q => q == p) u.pkts ∧ (t.gw g).gOut = (u.gw g).gOut - 1 ∧
        (t.gw g).cq = (u.gw g).cq ++ [{ req := { r with g := false }, raised := p.arr + 2 }] ∧
        (t.gw g).rcToken = (if n = 1 then wrapAdd 16 (u.gw g).rcToken 1 else (u.gw g).rcToken))) ∧
    (let u := s.gwAhead fun s => (s.gw g).firstAside.map (·.until_)
     ∀ a, (u.gw g).firstAside = some a → u.canReach a.until_ = true → (∀ p ∈ u.pkts, p.bounceFor g = none) →
      let v := u.goto a.until_
      let x := ((v.gw g).firstAside).getD a
      (v.gw g).g4q = [] → x.bounced = true → Gives (.setAsideRelease g) s fun t => t.bclk = max u.bclk a.until_ ∧
        (t.gw g).aside = eraseFirst (fun y => y == x) (v.gw g).aside ∧
        (t.gw g).cq = (v.gw g).cq ++ [{ req := { x.req with g := false }, raised := v.bclk + 1 }])

/-! ### The DRAM, its modules, and the subchannels (chapters 05 to 09) -/

/-- R40, R280, R287, R290, R296, R297, R399, R656, R952, R956: mode-register reads of Movement's and the sideband's transactions, polls and
in-band interrupts leave a reading staged for the next tick whose latch point lies ahead; a reading, and a poll that failed, takes effect at its
tick; a time-out abandons a transaction; PRSNT_N changes its level, and as it falls the channel notes whether the supplies are stable. -/
def Obligations.ModulesAreRead : Prop :=
  (∀ (s : State) (c : Fin 17),
    let ch := s.chan c
    let D := s.esc.frame + 1 + b2n s.pastLatch
    (∀ level, Gives (.prsntChange c level) s fun t => (∀ k, k ≠ c.val → t.chan k = s.chan k) ∧
      (level = .high → t.chan c = { ch with prsnt := false }) ∧
      ∀ ok, level = .low ok → t.chan c = { ch with prsnt := true, supplies := if ch.prsnt = true then ch.supplies else ok }) ∧
    (∀ (sc : Fin 2) asks p, (s.sub c sc).mrsOf 0 = some p → Gives (.mr4Read c sc asks) s fun t =>
      (t.chan c).staged = ch.staged ++ [(D, .mr4 p (max 1 (min 3 asks)))] ∧
      (t.sub c sc).mrsRead = eraseFirst (fun x => x.1 == 0) (s.sub c sc).mrsRead) ∧
    (∀ (sc : Fin 2) count dev bg ba row p, (s.sub c sc).mrsOf 1 = some p → Gives (.ecsRead c sc count dev bg ba row) s fun t =>
      (t.chan c).staged = ch.staged ++ [(D, .ecs p count dev bg ba row)] ∧
      (t.sub c sc).mrsRead = eraseFirst (fun x => x.1 == 1) (s.sub c sc).mrsRead) ∧
    (∀ (x : SbTxn) (r : SbResult), ch.sbTxn = some x → ch.sbQueue = [] → s.bclk ≤ x.start + s.bin.us 100 →
      (x.kind = 2 → Gives (.sidebandTransactionDone c r) s fun t => (t.chan c).sbTxn = none ∧ (t.chan c).sbBusy = false ∧
        (t.chan c).sbDone = true ∧ (t.chan c).sbNack = decide (r = .nack) ∧ (t.chan c).sbPec = decide (r = .pecErr) ∧
        (t.chan c).staged = ch.staged ∧ ∀ v, r = .data v → flag x.cmd 17 = false → t.reg (.cc c) 0x074 = i3cBytes x.cmd v) ∧
      (x.kind ≠ 2 → ∀ v, r = .data v → Gives (.sidebandTransactionDone c r) s fun t =>
        (t.chan c).sbTxn = none ∧ (t.chan c).staged = ch.staged ++ [(D, .dev x.hid x.dtype v)]) ∧
      (x.kind ≠ 2 → (r = .nack ∨ r = .pecErr) → Gives (.sidebandTransactionDone c r) s fun t => (t.chan c).sbTxn = none ∧
        (t.chan c).pollErr = ch.pollErr ∧
        (t.chan c).staged = ch.staged ++ if x.kind = 0 then [(D, .noPoll x.hid x.dtype 0)] else [])) ∧
    (∀ (phy : BitVec 8) d, ch.spd = some d → ch.prsnt = true → s.esc.running = true → ch.pollAt ≤ s.esc.frame → s.wasLate 2 c = false →
      ch.sbTxn = none → ch.sbQueue = [] →
      Gives (.sidebandPoll c phy) s fun t => (t.chan c).pollAt = s.esc.frame + 4096 ∧
        (t.chan c).staged = ch.staged ++ [(D, .phy phy.toNat)] ∧
        (t.chan c).sbTxn = some { kind := 0, hid := 0, dtype := dtTs 0, start := s.bclk } ∧
        (t.chan c).sbQueue.length = if d.dpc2 = true then 5 else 2) ∧
    (∀ hid dtype, 4 ≤ s.phase → ch.sbI2c = false → hid < 2 → (dtype = dtPmic ∨ dtype = dtTs 0 ∨ dtype = dtTs 1) →
      s.esc.running = true → s.wasLate 2 c = false → ch.sbTxn = none → ch.sbQueue = [] →
      Gives (.inBandInterrupt c hid dtype) s fun t => (t.chan c).ibiCnt = wrapAdd 8 ch.ibiCnt 1 ∧ (t.chan c).sbQueue = [] ∧
        (t.chan c).sbTxn = some { kind := 1, hid := hid, dtype := dtype, start := s.bclk }) ∧
    ∀ x : SbTxn, ch.sbTxn = some x → ch.sbQueue = [] →
      let e := max s.bclk (x.start + s.bin.us 100)
      s.canReach e = true → Gives (.sidebandTimeout c) s fun t => t.bclk = e ∧ (t.chan c).sbTxn = none ∧ (t.chan c).sbTmo = true ∧
        (t.chan c).sbBusy = (ch.sbBusy && x.kind != 2) ∧ (t.chan c).pollErr = ch.pollErr ∧
        let n := Tbl.get (fun _ => 0) ch.sbAbandoned (devKey x.hid x.dtype) + 1
        if x.kind = 0 then Tbl.get (fun _ => 0) (t.chan c).sbAbandoned (devKey x.hid x.dtype) = n % 3 ∧
          (t.chan c).staged = ch.staged ++ [((s.goto e).soonFrame, .noPoll x.hid x.dtype n)]
        else (t.chan c).sbAbandoned = ch.sbAbandoned ∧ (t.chan c).staged = ch.staged) ∧
  ∀ (s : State) (c : Nat),
    let old := s.chan c
    ((s.sampleTick c).chan c).staged = old.staged.filter (fun x => decide (s.esc.frame < x.1)) ∧
    ∀ r : Reading,
      let t := s.takeReading c r
      (∀ p v, r = .mr4 p v → Tbl.get (fun _ => 0) (t.chan c).mr4 p = v ∧ (t.chan c).tooHot = (old.tooHot || v == 3) ∧
        (v = 3 → (t.chan c).events.testBit 5 = true)) ∧
      (∀ p count dev bg ba row, r = .ecs p count dev bg ba row →
        let was := Tbl.get (fun _ => 0) old.ecs p
        Tbl.get (fun _ => 0) (t.chan c).ecs p = count ∧
        (count ≤ was → (t.chan c).elog = old.elog ∧ t.nextFree = s.nextFree) ∧
        (was < count → (s.page (.elog c)).en = true → (s.page (.elog2 c)).en = true → ∃ e, (t.chan c).elog.stage = old.elog.stage ++ [e] ∧
          fld e.w0 1 5 = 8 ∧ fld e.w2 20 8 = min 255 (count - was) ∧ flag (t.page (.elog c)).isr 5 = true)) ∧
      (∀ hid dtype w, r = .dev hid dtype w →
        (dtype ≠ dtPmic → Tbl.get (fun _ => 0) (t.chan c).tsRaw (2 * hid + b2n (dtype == dtTs 1)) = fld w 0 8) ∧
        (dtype = dtPmic → (t.chan c).tsRaw = old.tsRaw ∧ (w ≠ 0 → (t.chan c).events.testBit 2 = true))) ∧
      (∀ hid dtype n, r = .noPoll hid dtype n → (t.chan c).pollErr = satAdd 255 old.pollErr 1 ∧ (t.chan c).tsRaw = old.tsRaw ∧
        (n = 3 → (t.chan c).events.testBit 4 = true)) ∧
      ∀ v, r = .phy v → (t.chan c).tsPhy = v

/-- R276 to R278, R362, R372, R375, R377: an alert opens its window; a write CRC alert sends a write of the last 32 slots into the retry
queue, a back-off asks for its RFMs; the buffer line of a settled write is released 32 slots after its own, once nothing is bound to it.
-/
def Obligations.AlertsRetryWrites : Prop :=
  ∀ (s : State) (c : Fin 17) (sc : Fin 2),
    (∀ k, s.esc.running = true → Gives (.alertN c sc k) s fun t => (∃ a, (t.sub c sc).alert = some a ∧ a.kind = k) ∧
      (∀ rk n fr, k = .backOff rk n fr → (t.sub c sc).mits = (s.sub c sc).mits ++ List.replicate n { rk := rk, deadline := s.esc.frame + fr }) ∧
      ∀ w p, k = .writeCrc → (s.sub c sc).alert = none → (s.sub c sc).wb = [w] → s.esc.tickBclk + 32 * s.k ≤ s.bclk → w.slot = some p →
        w.retry = false → w.final = false → w.closed = false → Pos.le (s.posAt (s.bclk - 32 * s.k)) p = true →
        Pos.lt p (s.posAt s.bclk) = true →
        ∃ x, (t.sub c sc).wb = [x] ∧ x.sn = w.sn ∧ x.req = w.req ∧ x.retry = true ∧ x.capar = false ∧ x.final = decide (4 ≤ w.attempts)) ∧
    ∀ w p, (s.sub c sc).wb = [w] → w.slot = some p → w.retry = false → w.closed = false → s.canReach (s.closeAt w) = true →
      Gives (.alertWindowClose c sc) s fun t => t.bclk = max s.bclk (s.closeAt w) ∧
        (t.sub c sc).wb = if w.bound = [] ∧ w.mir = false then [] else [{ w with closed := true }]

/-- R347, R348, R369, R373, R384, R409, R410, R417 to R419, R454, R459: the request that reaches a channel first is stamped and takes a
record, or is bounced, or is answered OFFLINE; a Crown access takes its place behind the requests whose stamping began before it; the
oldest read leaves the decoder; an emergency issues its command; a channel that has left self-refresh is awake. -/
def Obligations.SubchannelsServe : Prop :=
  ∀ (s : State) (c : Fin 17),
    (let s0 := s.gwAhead fun s => (s.firstReq c).map fun x => x.1.arr
     ∀ p r, s0.firstReq c = some (p, r) → (s0.chan c).fenced = false → (r.due = none ∨ (s0.sub c r.loc.sc).ram.length < 192) →
      let b := max (p.arr + b2n r.write + 1) (s0.chan c).enqFree
      let v := s0.goto (b + 2)
      let u := State.updChan { v with pkts := eraseFirst (fun q => q == p) v.pkts } c fun ch =>
        { ch with enqFree := b + 1, arb := { ch.arb with granted := if r.g then ch.arb.granted else ch.arb.granted - 1 } }
      s0.canReach (b + 2) = true →
      (u.offOrParked c = false → (u.chan c).calRun = false → r.use ≠ 2 →
        (∀ g q, u.place c r.loc.sc r (b + 2) = .at_ g q → Gives (.channelEnqueue c) s fun t => t.bclk = max s0.bclk (b + 2) ∧
          t.nextSn = u.nextSn + 1 ∧ (∃ x, (t.sub c r.loc.sc).ram = (u.sub c r.loc.sc).ram ++ [x] ∧ x.sn = u.nextSn ∧ x.req = r ∧ x.stamp = q ∧ x.g = g) ∧
          (r.write = true → (t.sub c r.loc.sc).wb.length = (u.sub c r.loc.sc).wb.length + 1 ∧
            (r.src < 18 → ∃ k ∈ t.pkts, k.src = nodeCh c ∧ k.dst = nodeOfSrc r.src ∧
              k.body = .memResp { req := r, status := 0, rkind := 2, stamp := q.stamp, thr := r.thr }))) ∧
        (∀ n, u.place c r.loc.sc r (b + 2) = .bounce n → Gives (.channelEnqueue c) s fun t => t.bclk = max s0.bclk (b + 2) ∧
          t.nextSn = u.nextSn ∧ (t.sub c r.loc.sc).ram = (u.sub c r.loc.sc).ram ∧
          ∃ k ∈ t.pkts, k.src = nodeCh c ∧ k.dst = nodeOfSrc r.src ∧ k.body = .bounce r n)) ∧
      ((u.offOrParked c = true ∨ (u.chan c).calRun = true) → r.src < 18 → Gives (.channelEnqueue c) s fun t =>
        t.bclk = max s0.bclk (b + 2) ∧ t.nextSn = u.nextSn ∧ t.subs = u.subs ∧
        ∃ k ∈ t.pkts, k.src = nodeCh c ∧ k.dst = nodeOfSrc r.src ∧ k.body = .memResp { req := r, status := 3, rkind := 4, thr := r.thr })) ∧
    (∀ r e, s.crn.egnt = some (r, e) → r.loc.ch = c →
      let b := max e (s.chan c).enqFree
      let u := (s.enqueueBefore c b s.pkts.length).goto b
      s.canReach (b + 2) = true →
      (u.offOrParked c = false → (u.chan c).fenced = false → (u.chan c).calRun = false → Gives .crownAccessEnqueue s fun t =>
        t.bclk = u.bclk ∧ t.crn.egnt = none ∧ t.nextSn = u.nextSn + 1 ∧
        ∃ a, (t.sub c r.loc.sc).crown = some a ∧ a.req = r ∧ a.sn = u.nextSn ∧ a.at_ = b) ∧
      ((u.offOrParked c = true ∨ (u.chan c).fenced = true ∨ (u.chan c).calRun = true) → Gives .crownAccessEnqueue s fun t =>
        t.bclk = u.bclk ∧ t.crn.egnt = none ∧ t.nextSn = u.nextSn ∧ ∃ k ∈ t.pkts, k.src = nodeCh c ∧ k.dst = nodeSvc ∧
          k.body = .memResp { req := r, status := 3, rkind := 4 })) ∧
    (∀ (sc : Fin 2) (err : RawLine) v rest, (s.sub c sc).served = v :: rest →
      let b := s.slotBclk v.slot + s.k + 7
      let u := s.goto b
      s.canReach b = true → v.req.src < 18 → v.req.use ≠ 3 → Gives (.readDecode c sc err) s fun t => t.bclk = max s.bclk b ∧
        (t.sub c sc).served = rest ∧ ∃ k ∈ t.pkts, k.src = nodeCh c ∧ k.dst = nodeOfSrc v.req.src ∧
          k.body = .memResp (v.answer (decodeLine ((u.chan c).elog.markOf (u.rankPos sc v.req.loc.rk)) (v.raw ^^^ err)))) ∧
    (∀ (sc : Fin 2) e, s.emergNext c sc = some e →
      let k := s.emergTck c sc e
      let b := max s.bclk (s.bclkOfTck k)
      s.canReach b = true →
      (e.mit = none → Gives (.emergencyCommand c sc) s fun t => t.bclk = b ∧
        (t.sub c sc).debtAt (e.rk, e.ba) = (s.sub c sc).debtAt (e.rk, e.ba) - 1 ∧
        ∃ x, (t.sub c sc).refs = (s.sub c sc).refs ++ [x] ∧ x.rk = e.rk ∧ x.ba = e.ba ∧ x.tck = k ∧ x.emerg = true) ∧
      (∀ m, e.mit = some m → Gives (.emergencyCommand c sc) s fun t => t.bclk = b ∧
        (t.sub c sc).emergs = eraseFirst (fun y => y == e) (s.sub c sc).emergs ∧ (t.sub c sc).mits = eraseFirst (fun y => y == m) (s.sub c sc).mits ∧
        ∃ x, (t.sub c sc).refs = (s.sub c sc).refs ++ [x] ∧ x.rk = m.rk ∧ x.ba = m.ba ∧ x.tck = k ∧ x.emerg = true)) ∧
    (let b := max s.bclk (s.chan c).readyAt
     (s.chan c).sr = .waking → s.canReach b = true → Gives (.selfRefreshExitDone c) s fun t => t.bclk = b ∧ (t.chan c).sr = .awake ∧
      (t.chan c).rate2x = true ∧ (t.chan c).wakes = wrapAdd 8 (s.chan c).wakes 1 ∧ (∀ sc, sc < 2 → (t.sub c sc).debt = []) ∧
      flag (t.page (.cc c)).isr 2 = true)

/-- R437 to R444, R448, R449, R453, R455: a round whose R0 finds an eligible requester grants its winner's train: as many of its requests as
R440 gives leave its queue and are sent, the pointer moves past it, and every other eligible requester loses and backs off but in hold
mode; a backoff ends; a requester whose age passes T3 is eligible again; the Crown port's EMERG ends the train in transfer and is granted.
-/
def Obligations.ArbitersGrant : Prop :=
  ∀ (s : State) (c : Fin 17),
    (let s0 := s.gwAhead fun s => s.nextR0 c
     ∀ b, s0.nextR0 c = some b → s0.trt.hold = false → s0.canReach (b + 1) = true → s0.grantRoom c ≠ 0 → s0.emergSoon c b = false →
      let u := s0.goto (b + 1)
      let hold := u.holdAt c b
      let el := requesters.filter fun j => u.eligibleAt c j b
      ∀ i, winnerOf (u.chan c).arb.ptr (if hold then fun _ => 0 else fun j => u.urgAt c j b) el = some i →
      let w := (u.cwaits c i).filter fun x => decide (x.raised + 1 ≤ b)
      let n := min (min w.length 8) (min (fld (u.reg (.cc c) 0x060) 1 4) (u.grantRoom c))
      n ≠ 0 → Gives (.arbiterRound c) s fun t => t.bclk = max s0.bclk (b + 1) ∧ (t.chan c).arb.lastWin = i ∧
        (t.chan c).arb.ptr = (i + 1) % 20 ∧ (t.chan c).arb.grantAt = b + 2 ∧ (t.chan c).arb.granted = (u.chan c).arb.granted + n ∧
        ((t.chan c).arb.req i).losses = 0 ∧ (t.cwaits c i).length + n = (u.cwaits c i).length ∧
        (∀ x ∈ w.take n, ∃ p ∈ t.pkts, p.body = .memReq x.req ∧ p.train = some (b + 2)) ∧
        ∀ j ∈ el, j ≠ i → hold = false →
          let k := satAdd 15 ((u.chan c).arb.req j).losses 1
          let bo := backoffRounds (fld (u.reg (.cc c) 0x060) 5 4) (fld (u.reg (.cc c) 0x060) 9 4) k (u.urgAt c j b)
          ((t.chan c).arb.req j).losses = k ∧ ((t.chan c).arb.req j).until_ = if bo = 0 then 0 else b + 2 + 2 * bo) ∧
    (∀ i : Fin 20,
      let e := ((s.chan c).arb.req i).until_
      e ≠ 0 → s.canReach e = true → Gives (.backoffEnd c i) s fun t => t.bclk = max s.bclk e ∧ ((t.chan c).arb.req i).until_ = 0 ∧
        ∀ j, j ≠ i.val → (t.chan c).arb.req j = (s.chan c).arb.req j) ∧
    (∀ i : Fin 20,
      let s0 := s.gwAhead fun s => if s.cwaits c i = [] then none else some s.bclk
      ∀ w, (s0.cwaits c i).find? (fun y => y.req.created == oldest (s0.cwaits c i) && !y.urg3) = some w →
      let e := max (oldest (s0.cwaits c i) + 9 * s0.latTgt c i / 10 + 1) (w.raised + 1)
      s0.alive c i = true → s0.canReach e = true → Gives (.urgency3 c i) s fun t => t.bclk = max s0.bclk e ∧
        ((t.chan c).arb.req i).until_ = 0 ∧ flag (t.page (.cc c)).isr 4 = true) ∧
    ∀ r e, s.crn.emerg = some (r, e) → s.canReach (e + 1) = true → Gives .crownEmerg s fun t => t.bclk = max s.bclk (e + 1) ∧
      t.crn.emerg = none ∧ (t.chan r.loc.ch).arb.lastWin = 20 ∧ ∃ k, t.crn.egnt = some (r, k) ∧ t.bclk < k

/-! ### The Crown port and the samplers (chapters 20, 21) -/

/-- R890, R902, R919: the answer to an injection ends it; the test port is claimed and released; the service processor's link comes and
goes; an armed sampler that has met no event by the end of its window is no longer armed. -/
def Obligations.CrownPortAndSamplers : Prop :=
  ∀ (s : State),
    (∀ on, exec (.crownTestPortClaim on) s = .next { s with crn := { s.crn with tap := on } }) ∧
    (∀ up, exec (.serviceProcessorLink up) s = .next { s with crn := { s.crn with spUp := up } }) ∧
    (∀ p r, s.injResp = some (p, r) → s.canReach p.arr = true → Gives .injDone s fun t => t.bclk = max s.bclk p.arr ∧
      t.crn = { s.crn with busy := false, done := true, late := r.late, corr := r.corr, status := r.status } ∧
      t.pkts = eraseFirst (fun q => q == p) (s.goto p.arr).pkts ∧ flag (t.page .crn).isr 0 = true ∧
      (r.rkind = 1 → ∀ i, i < 16 → t.reg .crn (0x100 + 4 * i) = BitVec.ofNat 32 (lineNat r.data (4 * i) 4))) ∧
    ∀ (b : Fin 72) a, (s.cnt b).armed = some a →
      let e := max s.bclk (a.at_ + 16 * s.k + 1)
      s.canReach e = true → Gives (.sampleWindowEnd b) s fun t => t.bclk = e ∧ (t.cnt b).armed = none

/-! ### Start-up, resets, Caliper, the Jewel and Balance (chapters 11 to 13) -/

/-- R497 to R500, R502, R506, R511, R513, R520, R525: the phases of start-up, in order: each begins when the one before it is complete,
from phase 2 on while Movement is not halted; phase 15 is entered where no image passes, no module is accepted or BCLK does not lock. -/
def Obligations.StartUpGoesPhaseByPhase : Prop :=
  ∀ (s : State),
    (s.phase = 0 → exec .blockResetRelease s = .next { s with phase := 1 }) ∧
    (s.phase = 4 → s.locked = false →
      (Gives .bclkLock s fun t => t.locked = true ∧ t.bclk = 0 ∧ t.esc.running = true ∧ t.esc.fs = s.bin.slots ∧ t.esc.frame = s.esc.frame ∧
        (t.page .esc).en = true ∧ t.phase = 4) ∧
      exec .bclkLockTimeout s = .next { s with phase := 15 }) ∧
    ∀ x : PhaseIn,
      (2 ≤ s.phase → s.mvc.running = false → exec (.startPhaseComplete x) s = .next s) ∧
      (s.phase = 1 → flag x.verA 31 = false → flag x.verB 31 = false → Gives (.startPhaseComplete x) s fun t => t.phase = 15) ∧
      (s.phase = 1 → (flag x.verA 31 = true ∨ flag x.verB 31 = true) → Gives (.startPhaseComplete x) s fun t => t.phase = 2 ∧
        t.mvc.running = true ∧ t.plat = x.plat ∧ flag (if t.mvc.slot = true then x.verB else x.verA) 31 = true) ∧
      (s.mvc.running = true →
        (s.phase = 2 → Gives (.startPhaseComplete x) s fun t => t.phase = 3) ∧
        (s.phase = 3 → Gives (.startPhaseComplete x) s fun t =>
          (t.phase = 4 ∨ (t.phase = 15 ∧ ∀ c, c < 17 → (t.chan c).accepted = false)) ∧ ∀ b, s.plat.bin = some b → t.bin = b) ∧
        (s.phase = 4 → s.locked = true → exec (.startPhaseComplete x) s = .next { s with phase := 5 }) ∧
        (s.phase = 5 → Gives (.startPhaseComplete x) s fun t => t.phase = 6 ∧ ∀ c, c < 17 → (s.chan c).retained = false →
          ((s.chan c).accepted = true → (t.chan c).powered = true ∧ (t.chan c).svcReady = false ∧ (t.chan c).resetN = s.calrefFault c) ∧
          ((s.chan c).inService = true → (t.chan c).calState = 1)) ∧
        (s.phase = 6 → (∀ c, c < 17 → s.calBusy c = false) → Gives (.startPhaseComplete x) s fun t => t.phase = 7 ∧ (t.insOf 0).st = 1 ∧
          (t.insOf 0).shares = (List.range 17).map fun r => s.plat.shares.getD r 0) ∧
        (s.phase = 7 → s.commitsDone = true → Gives (.startPhaseComplete x) s fun t =>
          if flag s.startCfg 1 = true then t.phase = 8 ∧ t.filling = s.trained.filter (fun c => !(s.chan c).retained)
          else t.phase = 9 ∧ t.fillSkipped = true) ∧
        (s.phase = 8 → s.filling = [] → (∀ c ∈ s.trained, s.tablesDone c = true) →
          exec (.startPhaseComplete x) s = .next { s with phase := 9 }))

/-- R423, R424, R514, R515, R612: a warm reset takes the block back to phase 0 and keeps what the warm domain keeps: the Jewel, the
generations, the logs, and the contents of a channel parked with RETAIN; a loss of supply keeps the Jewel and the boot store, and leaves
the copy being written as the failure says. -/
def Obligations.ResetsKeepTheirDomain : Prop :=
  ∀ (s : State),
    (Gives .warmReset s fun t => t.phase = 0 ∧ t.locked = false ∧ t.esc.running = false ∧ t.esc.frame = 0 ∧ t.warm = true ∧ t.pkts = [] ∧
      t.gens = s.gens ∧ t.blk.badAccCnt = s.blk.badAccCnt ∧ t.jwl = { copies := s.jwl.copies } ∧ t.mvc.slot = s.mvc.slot ∧ t.mvc.running = false ∧
      ∀ c, c < 17 → (t.chan c).elog = (s.chan c).elog ∧ (t.chan c).role = 31 ∧
        if (s.chan c).sr = .parked ∧ flag (s.reg (.cc c) 0x050) 16 = true then
          (t.chan c).sr = .parked ∧ (t.chan c).retained = true ∧ (t.chan c).memGen = (s.chan c).memGen ∧ (t.chan c).filled = (s.chan c).filled
        else (t.chan c).sr = .awake ∧ (t.chan c).retained = false ∧ (t.chan c).memGen = (s.chan c).memGen + 1 ∧ (t.chan c).filled = false) ∧
    ∀ code, Gives (.powerFailure code) s fun t => t.phase = 0 ∧ t.locked = false ∧ t.esc.frame = 0 ∧ t.warm = false ∧ t.mem = [] ∧ t.gens = [] ∧
      t.mvc.slot = s.mvc.slot ∧ t.mvc.verA = s.mvc.verA ∧ t.mvc.verB = s.mvc.verB ∧
      (s.jwlNext = none → t.jwl = { copies := s.jwl.copies }) ∧
      ∀ c, s.jwlNext = some c → 1 ≤ code → code < 6 → t.jwlCopy c (s.jwlDest c).1 = { s.jwlCopy c (s.jwlDest c).1 with st := code }

/-- R504, R509, R511, R512, R524, R528, R878, R950: the sanity reads of a fast restore end it or send the channel to full training; a fill
that ends leaves the channel's lines zero; a capture of the thermal headroom, and its age of 1 ms. -/
def Obligations.RestoreFillAndHeadroom : Prop :=
  ∀ (s : State) (c : Fin 17),
    ((s.chan c).calState = 2 → (s.cal c).kind = 2 → (s.chan c).sr = .awake →
      (Gives (.fastRestoreDone c true) s fun t => (t.chan c).calState = 3 ∧ (t.chan c).calRun = false ∧ (t.cal c).restored = true ∧
        (t.cal c).kind = 0 ∧ (t.chan c).filled = (s.chan c).filled ∧ (t.chan c).memGen = (s.chan c).memGen ∧ flag (t.page (.cal c)).isr 0 = true) ∧
      Gives (.fastRestoreDone c false) s fun t => (t.chan c).calState = 1 ∧ (t.cal c).kind = 1 ∧
        (t.cal c).restoreFails = wrapAdd 8 (s.cal c).restoreFails 1 ∧ flag (t.page (.cal c)).isr 1 = true) ∧
    (s.phase = 8 → s.mvc.running = true → s.filling.contains c.val = true → s.tablesDone c = true → Gives (.zeroFillDone c) s fun t => (t.chan c).filled = true ∧
      (t.chan c).memGen = (s.chan c).memGen + 1 ∧ t.filling = s.filling.filter (· != c.val) ∧ (∀ l, l.ch = c.val → chanOfKey (locKey l) = c.val → t.readLine l = 0)) ∧
    (s.phase ≠ 8 → s.mvc.running = true → s.task.kind = 2 → s.task.dst = c.val → s.tablesDone c = true → (s.chan c).rjn = 4 →
      s.pagesBusy [.cc c] = false → Gives (.zeroFillDone c) s fun t => (t.chan c).filled = true ∧
        (t.chan c).memGen = (s.chan c).memGen + 1 ∧ (t.chan c).rjn = 4 ∧ t.task.kind = 2 ∧ t.task.rjn = some (5, s.soonFrame)) ∧
    (s.locked = true → ∀ h j : BitVec 8, Gives (.thermUpd h j) s fun t => t.therm.headroom = h.toNat ∧ t.therm.tj = j.toNat ∧
      t.therm.stale = false ∧ t.therm.capBclk = some s.bclk ∧ t.therm.rate = s.therm.rate) ∧
    ∀ b, s.therm.capBclk = some b → s.therm.stale = false →
      let e := max s.bclk (b + s.bin.us 1000)
      s.canReach e = true → Gives .headroomStale s fun t => t.bclk = e ∧ t.therm = { s.therm with stale := true }

/-- R532, R535, R536, R538 to R540, R542, R545, R553 to R555, R603, R609: a full run starts on its channel, or ends with reason MODULE where a
module is no longer accepted; it refreshes every rank between sweep points; a step that makes no progress, or meets a CA parity alert, is
repeated or fails; the steps in their order end at the first failure, or pass; a record is written to the copy not in force; what a
compatibility stop found is taken at a tick. -/
def Obligations.CaliperRuns : Prop :=
  ∀ (s : State) (c : Fin 17),
    (∀ spd, s.calMay c = true → (s.cal c).kind = 1 →
      let refused := (judge (some s.bin) s.refSpd (s.calRead c spd)).refuse
      (((s.cal c).owner = 0 ∨ refused = 0) → Gives (.caliperRunStart c spd) s fun t =>
        (t.chan c).calState = 2 ∧ (t.chan c).calRun = true ∧ (t.chan c).resetN = false ∧ (t.cal c).place = true ∧ (t.cal c).step = 1 ∧
        (t.cal c).res = [] ∧ ((s.cal c).fell = false → (t.cal c).start = s.bclk ∧ (t.cal c).runs = satAdd 65535 (s.cal c).runs 1) ∧
        ((s.cal c).fell = true → (t.cal c).start = (s.cal c).start ∧ (t.cal c).runs = (s.cal c).runs) ∧
        ∀ sc, sc < 2 → (t.sub c sc).legal = false) ∧
      ((s.cal c).owner ≠ 0 → refused ≠ 0 → Gives (.caliperRunStart c spd) s fun t =>
        (t.chan c).calState = 0 ∧ (t.chan c).calRun = false ∧ (t.chan c).resetN = true ∧ (t.cal c).failed = true ∧
        fld (BitVec.ofNat 32 (t.cal c).failWord) 12 4 = 7)) ∧
    ((s.chan c).calState = 2 → (s.cal c).kind = 1 →
      let retry := s.regFld (.cal c) 0x040 14 2
      (∀ step rk progress,
        let e := (s.cal c).refAt + (s.bin.mhz * 195 + 99) / 100
        3 ≤ step → step ≤ 11 → (s.cal c).step ≤ step → s.canReach e = true → Gives (.caliperRefab c step rk progress) s fun t =>
          t.bclk = max s.bclk e ∧ (t.cal c).refabs = (s.cal c).refabs + 1 ∧ (t.cal c).refAt = t.bclk ∧ (t.cal c).step = step ∧
          (t.cal c).stepRk = rk ∧ (t.cal c).progress = min 255 progress) ∧
      (∀ again,
        let e := (s.cal c).progAt + s.bin.us 1000
        s.canReach e = true →
        (again = true → (s.cal c).tries < retry → Gives (.calStepTimeout c again) s fun t =>
          t.bclk = max s.bclk e ∧ (t.cal c).tries = (s.cal c).tries + 1 ∧ (t.cal c).progAt = t.bclk ∧ (t.chan c).calState = 2) ∧
        ((again = false ∨ retry ≤ (s.cal c).tries) → Gives (.calStepTimeout c again) s fun t =>
          t.bclk = max s.bclk e ∧ (t.chan c).calState = 0 ∧ (t.chan c).resetN = true ∧ (t.cal c).failed = true ∧
          fld (BitVec.ofNat 32 (t.cal c).failWord) 12 4 = 6 ∧ (t.chan c).filled = false)) ∧
      (∀ sc : Fin 2, 6 ≤ (s.cal c).step → (s.cal c).step ≤ 11 →
        ((s.cal c).tries < retry → Gives (.alertN c sc .caParity) s fun t => (t.chan c).calState = 2 ∧
          (t.cal c).tries = (s.cal c).tries + 1 ∧ (t.cal c).progAt = s.bclk) ∧
        (retry ≤ (s.cal c).tries → Gives (.alertN c sc .caParity) s fun t => (t.chan c).calState = 0 ∧ (t.chan c).resetN = true ∧
          (t.cal c).failed = true ∧ fld (BitVec.ofNat 32 (t.cal c).failWord) 12 4 = 5)) ∧
      ∀ ws,
        let k := s.calCfg c
        let out := calRun k ws k.plan []
        (out.2 = none → Gives (.caliperRunEnd c ws) s fun t => (t.chan c).calState = 3 ∧ (t.chan c).calRun = false ∧ (t.cal c).kind = 0 ∧
          (t.cal c).restored = false ∧ (t.cal c).res = out.1 ∧ (t.chan c).filled = false ∧ flag (t.page (.cal c)).isr 0 = true) ∧
        ∀ st sc rk l why, out.2 = some (st, sc, rk, l, why) → Gives (.caliperRunEnd c ws) s fun t => (t.chan c).calState = 0 ∧
          (t.chan c).resetN = true ∧ (t.cal c).failed = true ∧ (t.chan c).filled = false ∧
          (t.cal c).failWord = packNat [(0, 4, st), (4, 1, sc), (5, 3, rk), (8, 4, l), (12, 4, why)] ∧
          flag (t.page (.cal c)).isr 1 = true) ∧
    (∀ bad1 bad2 k p, s.jwlNext = some k → s.jwlPend k = some p → s.mvc.running = true → Gives (.jewelRecordWrite bad1 bad2) s fun t =>
      let d := s.jwlDest k
      (t.jwlCopy k d.1).seq = d.2 ∧ (t.jwlCopy k d.1).kind = p.kind ∧ (t.jwlCopy k d.1).vals = p.vals ∧ (t.jwlCopy k d.1).mods = p.mods ∧
      (t.jwlCopy k d.1).st = (if bad1 = 0 then 0 else bad2) ∧ t.jwlPend k = none ∧ t.jwl.wrCnt = s.jwl.wrCnt + (if bad1 = 0 then 1 else 2) ∧
      t.jwl.lastCh = k ∧ t.jwl.wrFail = decide (bad1 ≠ 0 ∧ bad2 ≠ 0)) ∧
    (∀ (sc : Fin 2) (grid osc : List Nat) st, (s.sub c sc).stop = some st →
      let e := max s.bclk st.ends
      s.canReach e = true → Gives (.compatStopEnd c sc grid osc) s fun t => t.bclk = e ∧ (t.sub c sc).stop = none ∧
        (t.chan c).staged = (s.chan c).staged ++ [((s.goto e).soonFrame, .stop (s.rankPos sc st.rk) grid osc)]) ∧
    ∀ p grid osc, let t := s.takeReading c (.stop p grid osc)
      (t.chan c).bal.stops = (s.chan c).bal.stops + 1 ∧ flag (t.page (.bal c)).isr 2 = true

/-! ### The scrubber, Burl's holds and the torus (chapters 14 to 16) -/

/-- R648, R649, R687, R689: an interval of the scrubber earns a credit, and with no line in flight the next line of its pass is read; a
hold joins the entries of the gateway or engine that it names; the oldest request of an entry whose admission frame has come goes on, in
class C where its owner holds no share. -/
def Obligations.ScrubberAndHolds : Prop :=
  ∀ (s : State),
    (∀ c : Fin 17,
      let x := (s.chan c).scrub
      let b := max s.bclk (x.last + x.interval)
      s.scrubHeld c = false → x.interval ≠ 0 → s.canReach b = true →
      (x.fly ≠ none → Gives (.scrubCredit c) s fun t => t.bclk = b ∧
        (t.chan c).scrub = { x with credits := min 16 (x.credits + 1), last := x.last + x.interval, awake := x.awake + x.interval }) ∧
      (x.fly = none → x.pos < s.chanLines → Gives (.scrubCredit c) s fun t => t.bclk = b ∧
        (t.chan c).scrub.credits = min 16 (x.credits + 1) - 1 ∧ (t.chan c).scrub.fly = some (s.lineLoc c x.pos) ∧
        (t.chan c).scrub.pos = x.pos + 1 ∧ (t.chan c).scrub.last = x.last + x.interval ∧
        ∃ w, (t.chan c).scrub.q = x.q ++ [w] ∧ w.req.src = 18 ∧ w.req.loc = s.lineLoc c x.pos ∧ w.req.write = false ∧ w.raised = b)) ∧
    (∀ (u : Fin 18) a p b h, s.pkts = a ++ p :: b → (∀ q ∈ a ++ b, q.holdFor u = none) → p.holdFor u = some h →
      s.canReach (max s.bclk (p.arr + 1)) = true →
      let v := s.goto (max s.bclk (p.arr + 1))
      let old := if u.val < 16 then (v.gw u).holds else (v.le (u - 16)).holds
      (∀ x ∈ old, x.same h = false) → old.length < 32 → Gives (.holdReceive u) s fun t => t.bclk = max s.bclk (p.arr + 1) ∧
        t.pkts = eraseFirst (fun q => q == p) v.pkts ∧
        (if u.val < 16 then (t.gw u).holds else (t.le (u - 16)).holds) = old ++ [h] ∧
        (u.val < 16 → flag (t.page (.gwAdm u)).isr 2 = true)) ∧
    (∀ (u : Fin 18) h r, h.held = [r] →
      (let s0 := s.gwAhead fun s => s.heldDue u
       u.val < 16 → h.next ≤ s0.esc.frame → (s0.gw u).holds = [h] → (s0.gw u).recent = [] → (s0.gw u).cq = [] → (s0.gw u).g4q = [] →
        Tbl.get (fun _ => 0) (s0.chan r.loc.ch).share r.itag = 0 → Gives (.heldRequestRelease u) s fun t =>
          (t.gw u).holds = [{ h with held := [], next := s0.esc.frame + h.gap }] ∧
          (t.gw u).cq = [{ req := { r with g := false }, raised := s0.bclk + 1 }]) ∧
      (16 ≤ u.val → h.next ≤ s.esc.frame → (s.le (u - 16)).holds = [h] → Gives (.heldRequestRelease u) s fun t =>
        (t.le (u - 16)).holds = [{ h with held := [], next := s.esc.frame + h.gap }] ∧
        (t.le (u - 16)).cq = insertWait { req := r, raised := s.bclk } (s.le (u - 16)).cq))

/-- R719, R738 to R740, R742, R747, R798: a flit with a bad CRC is retried, and the link is declared failed at both ends once its retries
are over or its credit times out; Movement commits the failure's detour set with the loss bit; units send CLEAR and all are answered; a
fenced channel answers OFFLINE and a powered-down engine discards. -/
def Obligations.TorusMeetsLoss : Prop :=
  ∀ (s : State),
    (∀ (n : Fin 36) (p : Fin 4), (s.rtr n).linkFail.testBit p = false →
      let Down := fun (t : State) => (t.rtr n).linkFail.testBit p = true ∧ (t.rtr (neighbour n p)).linkFail.testBit (backPort p) = true ∧
        flag (t.page (.trt n)).isr 0 = true
      (Gives (.creditTimeout n p) s Down) ∧
      ∀ again,
        let k := if again then Tbl.get (fun _ => 0) (s.rtr n).fails p + 1 else 0
        (k < s.regFld (.trt n) 0x040 0 4 → Gives (.torusFlitCrcError n p again) s fun t => (t.rtr n).linkFail = (s.rtr n).linkFail ∧
          (t.rtr n).retries = satAdd 127 (s.rtr n).retries 1 ∧ Tbl.get (fun _ => 0) (t.rtr n).fails p = k ∧ flag (t.page (.trt n)).isr 5 = true ∧
          t.pkts = s.pkts) ∧
        (s.regFld (.trt n) 0x040 0 4 ≤ k → Gives (.torusFlitCrcError n p again) s Down)) ∧
    (∀ set, s.detourSet = some set → s.mvc.running = true → s.trt.double = false → s.trt.clearPend = false →
      s.pagesOpen ((List.range 36).map .trt) →
      let k := s.ctlRouter
      s.routerDead k = false → Gives .lossSwitchGo s fun t => Checking s t (.trt k) 0 ∧ flag (t.shd (.trt k) 0x040) 13 = true ∧
        ∀ r i, r < 36 → s.routerDead r = false → 1 ≤ i → i < 38 →
          t.shd (.trt r) (s.routeOff i) = routeSetWord set r i &&& regMask (.trt r) (s.routeOff i)) ∧
    (s.trt.clearPend = true → s.trt.clearAll = none →
      (∀ n : Fin 36, n.val ∈ s.clearUnits → n.val ∉ s.trt.clears → s.holdsMarked n = false →
        exec (.clear n) s = .next { s with trt := { s.trt with clears := s.trt.clears ++ [n.val] } }) ∧
      ((∀ n ∈ s.clearUnits, n ∈ s.trt.clears) → Gives .clearAll s fun t => ∃ f, t = { s with trt := { s.trt with clearAll := some f } } ∧
        (f = s.esc.frame ∨ f = s.esc.frame + 1))) ∧
    ∀ (u : Fin 19) a p b, s.pkts = a ++ p :: b → p.waiting = false → s.canReach p.arr = true →
      (∀ r, u.val < 17 → p.dst = nodeCh u → (∀ q ∈ a ++ b, q.dst ≠ nodeCh u) → p.body = .memReq r → (s.chan u).fenced = true →
        Gives (.fencedSink u) s fun t => t.bclk = max s.bclk p.arr ∧ ∃ q ∈ t.pkts, q.src = nodeCh u ∧ q.dst = nodeOfSrc r.src ∧
          q.body = .memResp { req := r, status := 3, rkind := 4 }) ∧
      (17 ≤ u.val → p.dst = nodeLe (u - 17) → (∀ q ∈ a ++ b, q.dst ≠ nodeLe (u - 17)) → p.body.cls ≤ 1 → (s.le (u - 17)).st = 3 →
        Gives (.fencedSink u) s fun t => t.bclk = max s.bclk p.arr ∧ t.pkts = eraseFirst (fun q => q == p) (s.goto p.arr).pkts ∧
          (t.le (u - 17)).disc = satAdd 255 (s.le (u - 17)).disc 1 ∧ flag (t.page (.lth (u - 17))).isr 4 = true)

/-! ### Lathe (chapter 17) -/

/-- R769 to R771, R775 to R786, R797 to R799: a doorbell moves the tail of its ring, or restarts a halted one, or is rejected; an engine
fetches and starts descriptors, takes the answers to its lines, issues again what was offline, forms completions, hands over its rings and
takes them back. -/
def Obligations.LatheRuns : Prop :=
  ∀ (s : State) (e : Fin 2),
    (∀ (b : Bell) (rs : Bool), s.firstBell (fun x => (if rs then x.restart else !x.restart) && s.srvOf x.ring == e.val) = some b → s.canReach b.arr = true →
      let c := if rs then Instr.doorbellRestart e else Instr.doorbellArrival e
      let x := (s.ring b.ring).ctx
      ((x.st = 0 ∨ x.itag ≠ b.page) → Gives c s fun t => t.bclk = max s.bclk b.arr ∧ t.bells = eraseFirst (fun y => y == b) s.bells ∧
        (t.le e).dbRej = satAdd 255 (s.le e).dbRej 1 ∧ t.rings = s.rings ∧ flag (t.page (.lth e)).isr 3 = true) ∧
      (x.st ≠ 0 → x.itag = b.page → sub21 x.tail x.head ≤ sub21 b.tail x.head → sub21 b.tail x.head ≤ 2 ^ x.log2 →
        Gives c s fun t => t.bclk = max s.bclk b.arr ∧ t.bells = eraseFirst (fun y => y == b) s.bells ∧ (t.ring b.ring).ctx.tail = b.tail ∧
          (t.ring b.ring).ctx.head = x.head ∧ (t.le e).dbRej = (s.le e).dbRej ∧
          (x.itag = 0 → (s.page (.lth e)).en = true → rs = true → x.st = 3 → (t.ring b.ring).ctx.err = 0 ∧
            (t.ring b.ring).ctx.st = if b.tail = x.head then 1 else 2))) ∧
    (let b := max s.bclk (s.le e).free
     (s.le e).st = 0 → (s.page (.lth e)).en = true → s.map.hold = false → s.canReach b = true → s.readyWrite e = none →
      (s.le e).ops.length < 1024 → (s.le e).bufs ≤ 1024 → ∀ r, s.turnOf e = some r →
      (∀ n d rest, s.ringWork r = some .startJob → (s.ring r).pre = (n, d) :: rest → Gives (.latheLineIssue e) s fun t => t.bclk = b ∧
        (t.le e).turn = r ∧ (t.ring r).pre = rest ∧ ∃ j, (t.ring r).jobs = (s.ring r).jobs ++ [j] ∧ j.top = d ∧ j.sn = (s.ring r).nextJob) ∧
      (∀ id l, s.ringWork r = some .fetch → (s.le e).freeId = some id →
        let pa := (s.ring r).ctx.descAddr (s.ring r).fetchIdx / 64 * 64
        s.lDecode (s.ring r).ctx.itag pa = .go l → Gives (.latheLineIssue e) s fun t => t.bclk = b ∧ (t.le e).turn = r ∧
          ∃ o ∈ (t.le e).ops, o.id = id ∧ o.kind = .fetch ∧ o.ring = r ∧ o.pa = pa)) ∧
    (∀ k r o, s.firstLeResp e LOp.fetches = some (k, r, o) → s.canReach k.arr = true → o.gen = s.genOf o.itag → r.status = 0 → o.kind = .fetch →
      let n := (s.ring o.ring).fetchIdx
      let two : Prop := n % 2 = 0 ∧ (n + 1) % 2 ^ 21 ≠ (s.ring o.ring).ctx.tail
      let d := fun i => descOfLine r.data i
      Gives (.descriptorFetchReturn e) s fun t => t.bclk = max s.bclk k.arr ∧ t.pkts = eraseFirst (fun q => q == k) (s.goto k.arr).pkts ∧
        (∀ x ∈ (t.le e).ops, x.id ≠ o.id) ∧
        (two → (t.ring o.ring).pre = (s.ring o.ring).pre ++ [(s.descCode (d 0), d 0), (s.descCode (d 32), d 32)] ∧
          (t.ring o.ring).fetchIdx = (n + 2) % 2 ^ 21) ∧
        (¬two → (t.ring o.ring).pre = (s.ring o.ring).pre ++ [(s.descCode (d (32 * (n % 2))), d (32 * (n % 2)))] ∧
          (t.ring o.ring).fetchIdx = (n + 1) % 2 ^ 21)) ∧
    (∀ k r o, s.firstLeResp e (fun x => !x.fetches) = some (k, r, o) → s.canReach k.arr = true → o.gen = s.genOf o.itag → r.status = 0 →
      (o.kind = .write → Gives (.latheLineResponse e) s fun t => t.bclk = max s.bclk k.arr ∧ t.pkts = eraseFirst (fun q => q == k) (s.goto k.arr).pkts ∧
        (∀ x ∈ (t.le e).ops, x.id ≠ o.id) ∧
        Tbl.get (fun _ => 0) (t.insOf o.itag).fold 6 = Tbl.get (fun _ => 0) (s.insOf o.itag).fold 6 + 64) ∧
      (∀ l, o.kind = .read → s.map.hold = false → s.lDecode o.itag o.dst = .go l → Gives (.latheLineResponse e) s fun t => t.bclk = max s.bclk k.arr ∧
        ∃ x ∈ (t.le e).ops, x.id = o.id ∧ x.kind = .write ∧ x.pa = o.dst ∧ x.data = swapLine o.swap r.data ∧ x.poison = false)) ∧
    (∀ o b l, (s.le e).ops = [o] → o.st = .retry b → s.map.hold = false → s.canReach b = true → (s.le e).holds = [] →
      max s.bclk b < (s.firstOffline o).getD b + s.latheTmo → s.lDecode o.itag o.pa = .go l → Gives (.offlineReissue e) s fun t =>
        t.bclk = max s.bclk b ∧ (t.le e).ops = [{ o with st := .queued }] ∧
        ∃ w, (t.le e).cq = insertWait w (s.le e).cq ∧ w.req.pa = o.pa ∧ w.req.loc = l ∧ w.raised = t.bclk + 6) ∧
    (∀ (r : BitVec 18) j rest id l, (s.ring r.toNat).jobs = j :: rest → s.srvOf r.toNat = e → s.mayForm r.toNat = true →
      (s.page (.lth e)).en = true → s.map.hold = false → (s.le e).ops.length < 1024 →
      let c := (s.ring r.toNat).ctx
      c.gen = s.genOf c.itag → (s.le e).freeId = some id → (s.le e).holds = [] → j.halt = false →
      let pa := (c.cmplBase + 16 * (j.idx % 2 ^ c.log2)) / 64 * 64
      s.lDecode c.itag pa = .go l → Gives (.completionForm r) s fun t => (t.ring r.toNat).jobs = rest ∧
        (t.ring r.toNat).ctx.head = (j.idx + 1) % 2 ^ 21 ∧ (∃ x ∈ (t.ring r.toNat).recs, x = (j.idx, s.record r.toNat j)) ∧
        ∃ o ∈ (t.le e).ops, o.id = id ∧ o.kind = .cmpl ∧ o.pa = pa) ∧
    ((s.le e).st = 1 → (s.le e).ops = [] →
      (∀ x ∈ s.rings, s.srvOf x.1 = e.val → x.2.ctx.st ≠ 0 → s.mayForm x.1 = false) → Gives (.handoverDone e) s fun t =>
        (t.le e).st = (if flag (s.reg (.lth e) 0x040) 8 = true then 3 else 2) ∧ (t.le e).cached = [] ∧ flag (t.page (.lth e)).isr 1 = true) ∧
    (2 ≤ (s.le e).st → flag (s.reg (.lth e) 0x040) 0 = true → (∀ o ∈ (s.le (1 - e.val)).ops, o.ring % 2 ≠ e.val) → Gives (.enginePowerUp e) s fun t =>
      (t.le e).st = 0 ∧ flag (t.page (.lth e)).isr 1 = true)
end

