-- ==== Sys2Proof/Laws/Table.lean ====
section
/-! SUPPORT. The laws of the sparse tables: what a read gives after a write, and that every operation keeps the canonical form. -/
namespace Sys2Proof.Machine.Tbl
variable {α : Type} (d : Nat → α)

theorem get_put_self (t : Tbl α) (n : Nat) (v : α) : get d (put t n v) n = v := by
  induction t with
  | nil => simp [put, get]
  | cons e t ih =>
    obtain ⟨k, w⟩ := e
    unfold put
    split
    · simp [get]
    · split
      · simp [get]
      · rename_i hne; simp [get, hne, ih]

theorem get_put_ne (t : Tbl α) {n m : Nat} (v : α) (h : m ≠ n) : get d (put t n v) m = get d t m := by
  induction t with
  | nil => simp [put, get, h]
  | cons e t ih =>
    obtain ⟨k, w⟩ := e
    unfold put
    split
    · simp [get, h]
    · split
      · rename_i hk; subst hk; simp [get, h]
      · simp [get, ih]

theorem get_filter_self (t : Tbl α) (n : Nat) : get d (t.filter fun e => e.1 != n) n = d n := by
  induction t with
  | nil => rfl
  | cons e t ih =>
    by_cases h : e.1 = n
    · simp [h, ih]
    · simp [h, get, ih, Ne.symm h]

theorem get_filter_ne (t : Tbl α) {n m : Nat} (h : m ≠ n) : get d (t.filter fun e => e.1 != n) m = get d t m := by
  induction t with
  | nil => rfl
  | cons e t ih =>
    by_cases hk : e.1 = n
    · simp [hk, ih, get, h]
    · simp [hk, get, ih]

/-- A key reads as what was written last. -/
@[simp] theorem get_set_self [DecidableEq α] (t : Tbl α) (n : Nat) (v : α) : get d (set d t n v) n = v := by
  unfold set
  split
  · rename_i h; rw [get_filter_self, h]
  · exact get_put_self d t n v

/-- A write leaves every other key alone. -/
theorem get_set_ne [DecidableEq α] (t : Tbl α) {n m : Nat} (v : α) (h : m ≠ n) : get d (set d t n v) m = get d t m := by
  unfold set
  split
  · exact get_filter_ne d t h
  · exact get_put_ne d t v h

/-- Both cases at once. -/
theorem get_set [DecidableEq α] (t : Tbl α) (n m : Nat) (v : α) : get d (set d t n v) m = if m = n then v else get d t m := by
  split
  · rename_i h; subst h; exact get_set_self d t m v
  · rename_i h; exact get_set_ne d t v h

@[simp] theorem get_upd_self [DecidableEq α] (t : Tbl α) (n : Nat) (f : α → α) : get d (upd d t n f) n = f (get d t n) := get_set_self d t n _

theorem get_upd_ne [DecidableEq α] (t : Tbl α) {n m : Nat} (f : α → α) (h : m ≠ n) : get d (upd d t n f) m = get d t m := get_set_ne d t _ h

theorem get_upd [DecidableEq α] (t : Tbl α) (n m : Nat) (f : α → α) :
    get d (upd d t n f) m = if m = n then f (get d t n) else get d t m := get_set d t n m _

@[simp] theorem get_nil (n : Nat) : get d ([] : Tbl α) n = d n := rfl

theorem above_put {t : Tbl α} {k n : Nat} (v : α) (ht : above k t = true) (hn : k < n) : above k (put t n v) = true := by
  cases t with
  | nil => simpa [put, above] using hn
  | cons e t =>
    obtain ⟨j, w⟩ := e
    unfold put
    split
    · simpa [above] using hn
    · split <;> simpa [above] using by first | exact hn | exact of_decide_eq_true ht

theorem wf_put [DecidableEq α] {t : Tbl α} {n : Nat} {v : α} (ht : wf d t = true) (hv : v ≠ d n) : wf d (put t n v) = true := by
  induction t with
  | nil => simp [put, wf, above, hv]
  | cons e t ih =>
    obtain ⟨k, w⟩ := e
    simp only [wf, Bool.and_eq_true, decide_eq_true_eq] at ht
    unfold put
    split
    · rename_i h
      simp only [wf, Bool.and_eq_true, decide_eq_true_eq]
      exact ⟨⟨hv, by simpa [above] using h⟩, ht⟩
    · split
      · rename_i h; subst h; simp [wf, ht.1.2, ht.2, hv]
      · simp only [wf, Bool.and_eq_true, decide_eq_true_eq]
        exact ⟨⟨ht.1.1, above_put v ht.1.2 (by omega)⟩, ih ht.2⟩

theorem above_mono {t : Tbl α} {j k : Nat} (h : above k t = true) (hj : j < k) : above j t = true := by
  cases t with
  | nil => rfl
  | cons e t => simp only [above, decide_eq_true_eq] at *; omega

theorem wf_filter [DecidableEq α] {t : Tbl α} (p : Nat × α → Bool) (ht : wf d t = true) :
    wf d (t.filter p) = true ∧ ∀ k, above k t = true → above k (t.filter p) = true := by
  induction t with
  | nil => exact ⟨rfl, fun _ h => h⟩
  | cons e t ih =>
    obtain ⟨j, w⟩ := e
    simp only [wf, Bool.and_eq_true, decide_eq_true_eq] at ht
    have ih := ih ht.2
    by_cases hp : p (j, w) = true
    · simp only [List.filter_cons, hp, if_true, wf, Bool.and_eq_true, decide_eq_true_eq]
      exact ⟨⟨⟨ht.1.1, ih.2 j ht.1.2⟩, ih.1⟩, fun _ h => h⟩
    · simp only [List.filter_cons, hp]
      refine ⟨ih.1, fun k hk => ih.2 k (above_mono ht.1.2 ?_)⟩
      simpa [above] using hk

/-- Writing a key keeps the canonical form. -/
theorem wf_set [DecidableEq α] {t : Tbl α} (n : Nat) (v : α) (ht : wf d t = true) : wf d (set d t n v) = true := by
  unfold set
  split
  · exact (wf_filter d _ ht).1
  · rename_i h; exact wf_put d ht h

/-- Changing a key keeps the canonical form. -/
theorem wf_upd [DecidableEq α] {t : Tbl α} (n : Nat) (f : α → α) (ht : wf d t = true) : wf d (upd d t n f) = true := wf_set d n _ ht

/-- Dropping entries keeps the canonical form. -/
theorem wf_drop [DecidableEq α] {t : Tbl α} (p : Nat → Bool) (ht : wf d t = true) : wf d (drop p t) = true := (wf_filter d _ ht).1

/-- An entry after a write is the one written, or an entry that was there. -/
theorem mem_set [DecidableEq α] {t : Tbl α} {n : Nat} {v : α} {e : Nat × α} (h : e ∈ set d t n v) : (e = (n, v) ∧ v ≠ d n) ∨ e ∈ t := by
  have hp : ∀ t : Tbl α, e ∈ put t n v → e = (n, v) ∨ e ∈ t := by
    intro t
    induction t with
    | nil => intro h; simpa [put] using h
    | cons x t ih =>
      obtain ⟨k, w⟩ := x
      unfold put
      split
      · intro h; simpa using h
      · split
        · intro h; simp only [List.mem_cons] at *; tauto
        · intro h; simp only [List.mem_cons] at *; tauto
  unfold set at h
  split at h
  · exact .inr (List.mem_filter.mp h).1
  · rename_i hv; rcases hp t h with h | h
    · exact .inl ⟨h, hv⟩
    · exact .inr h

end Sys2Proof.Machine.Tbl
end

