-- ==== Sys2Proof/Laws/Kept.lean ====
section
/-! SUPPORT. What an operation may change, said once for each: the parts of the state outside a set are as before, the queue is as
before, and the stored lines stay in canonical form. A set of parts is the number whose bits `Part.bit` gives. -/
namespace Sys2Proof.Machine

/-- The bit of a part. -/
def Part.bit : Part → Nat
  | .bclk => 1
  | .locked => 2
  | .bin => 3
  | .esc => 4
  | .pages => 5
  | .blk => 6
  | .map => 7
  | .gws => 8
  | .subs => 9
  | .chans => 10
  | .mem => 11
  | .pkts => 12
  | .nodeFree => 13
  | .nextSn => 14
  | .nextFree => 15
  | .trt => 16
  | .cnts => 17
  | .gens => 18
  | .crnPreempt => 19
  | .ins => 20
  | .insStage => 21
  | .cals => 22
  | .calrefs => 23
  | .jwl => 24
  | .rings => 25
  | .les => 26
  | .bells => 27
  | .pool => 28
  | .mvc => 29
  | .copy => 30
  | .task => 31
  | .therm => 32
  | .crn => 33
  | .rtrs => 34
  | .phase => 35
  | .warm => 36
  | .chRstDenied => 37
  | .fillSkipped => 38
  | .plat => 39
  | .filling => 40
  | .refSpd => 41
  | .tst => 42
  | .frame => 43

/-- Every part of `a` is one of `l`. -/
def Within (a l : Nat) : Prop := a.land l = a

theorem Within.of {a b l : Nat} (hl : Within a l) (h : b.land a = b) : Within b l := by
  show Nat.land b l = b
  have h1 : b &&& a = b := h
  have h2 : a &&& l = a := hl
  show b &&& l = b
  rw [← h1, Nat.and_assoc, h2]

theorem Within.bit {a l : Nat} (hl : Within a l) {i : Nat} (h : a.testBit i = true) : l.testBit i = true := by
  have h2 : a &&& l = a := hl
  rw [← h2, Nat.testBit_and] at h
  exact (Bool.and_eq_true _ _ ▸ h).2

theorem Within.no {a l : Nat} {C : Prop} (hl : Within a l) {i : Nat} (hp : l.testBit i = false) (h : a.testBit i = true) : C :=
  absurd (hl.bit h) (by rw [hp]; exact Bool.false_ne_true)

/-- `s` is `r` but for the parts of `l`; the queue is the same, and lines in canonical form have stayed so. -/
structure Kept (l : Nat) (r s : State) : Prop where
  queue : s.pending = r.pending
  part : ∀ p : Part, l.testBit p.bit = false → p.same r s
  mem : r.memWf = true → s.memWf = true

theorem Part.same_refl (p : Part) (s : State) : p.same s s := by cases p <;> rfl

theorem Part.same_trans {p : Part} {r s t : State} (h1 : p.same r s) (h2 : p.same s t) : p.same r t := by
  cases p <;> exact Eq.trans h2 h1

theorem Part.same_symm {p : Part} {s t : State} (h : p.same s t) : p.same t s := by
  cases p <;> exact Eq.symm h

theorem Part.all {f : Part → Prop} (h : ∀ p, f p) : ∀ p, f p := h

theorem Kept.refl (l : Nat) (s : State) : Kept l s s := ⟨rfl, fun p _ => p.same_refl s, id⟩

variable {l : Nat} {r s : State}

/-- A change of fields of `l` other than the queue, the lines and the channels. -/
theorem Kept.upd_iff {xbclk : Nat} {xlocked : Bool} {xbin : Bin} {xesc : Esc} {xpages : Tbl Page} {xblk : Blk} {xmap : MapSt} {xgws : Tbl Gw} {xsubs : Tbl Sub} {xpkts : List Pkt} {xnodeFree : Tbl Nat} {xnextSn : Nat} {xnextFree : Nat} {xtrt : Trt} {xcnts : Tbl Cnt} {xgens : Tbl Nat} {xgenAt : Tbl Nat} {xcrnPreempt : Nat} {xins : Tbl Ins} {xinsStage : Option InsStage} {xcals : Tbl Cal} {xcalrefs : Tbl Calref} {xjwl : Jwl} {xrings : Tbl Ring} {xles : Tbl Le} {xbells : List Bell} {xpool : Pool} {xmvc : Mvc} {xcopy : Copy} {xtask : Task} {xtherm : Therm} {xcrn : Crn} {xrtrs : Tbl Rtr} {xphase : Nat} {xwarm : Bool} {xchRstDenied : Bool} {xfillSkipped : Bool} {xplat : PlatCfg} {xstartCfg : Word} {xfilling : List Nat} {xrefSpd : Option Spd} {xtst : Tst}
    (hp : ∀ p : Part, l.testBit p.bit = false → p.same s (State.mk s.pending xbclk xlocked xbin xesc xpages xblk xmap xgws xsubs s.chans s.mem xpkts xnodeFree xnextSn xnextFree xtrt xcnts xgens xgenAt xcrnPreempt xins xinsStage xcals xcalrefs xjwl xrings xles xbells xpool xmvc xcopy xtask xtherm xcrn xrtrs xphase xwarm xchRstDenied xfillSkipped xplat xstartCfg xfilling xrefSpd xtst)) :
    Kept l r (State.mk s.pending xbclk xlocked xbin xesc xpages xblk xmap xgws xsubs s.chans s.mem xpkts xnodeFree xnextSn xnextFree xtrt xcnts xgens xgenAt xcrnPreempt xins xinsStage xcals xcalrefs xjwl xrings xles xbells xpool xmvc xcopy xtask xtherm xcrn xrtrs xphase xwarm xchRstDenied xfillSkipped xplat xstartCfg xfilling xrefSpd xtst) ↔ Kept l r s :=
  ⟨fun h => ⟨h.queue, fun p hl => Part.same_trans (h.part p hl) (Part.same_symm (hp p hl)), h.mem⟩,
    fun h => ⟨h.queue, fun p hl => Part.same_trans (h.part p hl) (hp p hl), h.mem⟩⟩

theorem Kept.foldl {α : Type} {f : State → α → State} (hf : ∀ s a, Kept l r s → Kept l r (f s a)) (h : Kept l r s) (as : List α) :
    Kept l r (as.foldl f s) := by
  induction as generalizing s with
  | nil => exact h
  | cons a t ih => exact ih (hf s a h)

theorem Kept.getD {o : Option State} {d : State} (h : Kept l r d) (ho : ∀ x, o = some x → Kept l r x) : Kept l r (o.getD d) := by
  cases o with
  | none => exact h
  | some x => exact ho x rfl

theorem State.chan_updChan (s : State) (c i : Nat) (f : Chan → Chan) :
    (s.updChan c f).chan i = if i = c then f (s.chan c) else s.chan i := Tbl.get_upd _ _ _ _ _

theorem State.updChan_kept (hl : Within 0x400 l) {f : Chan → Chan} (hf : ∀ x, (f x).filled = true → x.filled = true) (h : Kept l r s)
    (c : Nat) : Kept l r (s.updChan c f) := by
  refine ⟨h.queue, fun p hp => Part.same_trans (h.part p hp) ?_, fun hr => ?_⟩
  · cases p <;> first | rfl | exact absurd (hl.bit (i := 10) (by decide)) (by rw [show l.testBit 10 = false from hp]; decide)
  have hm := h.mem hr
  simp only [State.memWf, Bool.and_eq_true, List.all_eq_true] at hm ⊢
  refine ⟨hm.1, fun e he => ?_⟩
  have := hm.2 e he
  simp only [Bool.not_eq_true', Bool.and_eq_false_iff] at this ⊢
  refine this.imp_left fun hn => ?_
  rw [State.chan_updChan]
  split
  · rename_i hc
    rw [hc] at hn
    by_contra hx
    rw [hf _ (by simpa using hx)] at hn
    exact absurd hn (by decide)
  · exact hn

theorem State.writeLine_kept (hl : Within 0x800 l) (h : Kept l r s) (k : Loc) (w : RawLine) : Kept l r (s.writeLine k w) := by
  refine ⟨h.queue, fun p hp => Part.same_trans (h.part p hp) ?_, fun hr => ?_⟩
  · cases p <;> first | rfl | exact absurd (hl.bit (i := 11) (by decide)) (by rw [show l.testBit 11 = false from hp]; decide)
  have hm := h.mem hr
  simp only [State.memWf, Bool.and_eq_true, List.all_eq_true] at hm ⊢
  refine ⟨Tbl.wf_set _ _ _ hm.1, fun e he => ?_⟩
  rcases Tbl.mem_set (fun _ => none) (show e ∈ Tbl.set _ _ _ _ from he) with ⟨rfl, hv⟩ | he
  · show (!((s.chan _).filled && _)) = true
    by_cases hc : (s.chan (chanOfKey (locKey k))).filled = true ∧ w = 0
    · simp [hc] at hv
    · by_cases hf : (s.chan (chanOfKey (locKey k))).filled = true
      · simp [hf]
      · simp [hf]
  · exact hm.2 e he

theorem State.loseLines_kept (hl : Within 0xC00 l) (h : Kept l r s) (c : Nat) (fill : Bool) : Kept l r (s.loseLines c fill) := by
  refine ⟨h.queue, fun p hp => Part.same_trans (h.part p hp) ?_, fun hr => ?_⟩
  · cases p <;> first
      | rfl
      | exact absurd (hl.bit (i := 10) (by decide)) (by rw [show l.testBit 10 = false from hp]; decide)
      | exact absurd (hl.bit (i := 11) (by decide)) (by rw [show l.testBit 11 = false from hp]; decide)
  have hm := h.mem hr
  simp only [State.memWf, Bool.and_eq_true, List.all_eq_true] at hm ⊢
  refine ⟨Tbl.wf_drop (fun _ => none) (fun key => chanOfKey key == c) hm.1, fun e he => ?_⟩
  obtain ⟨hin, hne⟩ := List.mem_filter.mp he
  have := hm.2 e hin
  simp only [Bool.not_eq_true', Bool.and_eq_false_iff] at this ⊢
  refine this.imp_left fun hn => ?_
  unfold State.loseLines
  rw [State.chan_updChan]
  split
  · rename_i hc; simp [hc] at hne
  · exact hn

/-- What a frame of masks says of named parts. -/
theorem Kept.onlyIn {ps : List Part} (h : Kept l r s) (hp : ∀ p : Part, l.testBit p.bit = true → p ∈ ps) : OnlyIn ps r s := by
  refine ⟨h.queue, fun p hn => h.part p ?_⟩
  by_contra hx
  exact hn (hp p (by simpa using hx))

end Sys2Proof.Machine
end

