-- ==== Sys2Proof/Laws/KeptOps.lean ====
section
/-! SUPPORT. What each operation of Machine/Ops.lean leaves alone: one lemma for each. -/
set_option maxRecDepth 4000
namespace Sys2Proof.Machine
variable {l : Nat} {r s : State}

theorem State.updPage_kept (hl : Within 0x20 l) (h : Kept l r s) (p : PageId) (f : Page → Page) : Kept l r (State.updPage s p f) := by
  exact (Kept.upd_iff (fun p hp => by cases p <;> first | exact hl.no hp (by decide) | exact Eq.refl _)).mpr h

theorem State.raise_kept (hl : Within 0x20 l) (h : Kept l r s) (p : PageId) (bit : Nat) : Kept l r (State.raise s p bit) := by
  exact State.updPage_kept hl h ..

theorem State.raiseIf_kept (hl : Within 0x20 l) (h : Kept l r s) (b : Bool) (p : PageId) (bit : Nat) : Kept l r (State.raiseIf s b p bit) := by
  unfold State.raiseIf
  repeat' first
    | with_reducible assumption
    | with_reducible refine State.raise_kept (hl.of (by decide)) ?_ ..
    | split

theorem State.setErrAt_kept (hl : Within 0x20 l) (h : Kept l r s) (p : PageId) (off : Nat) (rule : Nat) (t : Nat) : Kept l r (State.setErrAt s p off rule t) := by
  unfold State.setErrAt
  repeat' first
    | with_reducible assumption
    | exact fun _ hx => hx
    | (intro x; refine (?_ : Kept l r x → _) ?_ <;> [(intro _; clear_value x); subst x])
    | (intro x; clear_value x)
    | lift_lets -underBinder
    | simp -zeta (disch := (refine Part.all ?_; intro p hp; cases p <;> first | exact hl.no hp (by decide) | exact Eq.refl _)) only [Kept.upd_iff]
    | with_reducible refine State.updPage_kept (hl.of (by decide)) ?_ ..

theorem State.setErr_kept (hl : Within 0x20 l) (h : Kept l r s) (p : PageId) (off : Nat) (rule : Nat) : Kept l r (State.setErr s p off rule) := by
  exact State.updPage_kept hl h ..

theorem State.updSub_kept (hl : Within 0x200 l) (h : Kept l r s) (c : Nat) (sc : Nat) (f : Sub → Sub) : Kept l r (State.updSub s c sc f) := by
  exact (Kept.upd_iff (fun p hp => by cases p <;> first | exact hl.no hp (by decide) | exact Eq.refl _)).mpr h

theorem State.setShd_kept (hl : Within 0x20 l) (h : Kept l r s) (p : PageId) (off : Nat) (v : Word) : Kept l r (State.setShd s p off v) := by
  exact State.updPage_kept hl h ..

theorem State.setReg_kept (hl : Within 0x20 l) (h : Kept l r s) (p : PageId) (off : Nat) (v : Word) : Kept l r (State.setReg s p off v) := by
  exact State.updPage_kept hl h ..

theorem State.setBoth_kept (hl : Within 0x20 l) (h : Kept l r s) (p : PageId) (off : Nat) (v : Word) : Kept l r (State.setBoth s p off v) := by
  exact State.setShd_kept (hl.of (by decide)) (State.setReg_kept (hl.of (by decide)) h ..) ..

theorem State.updGw_kept (hl : Within 0x100 l) (h : Kept l r s) (g : Nat) (f : Gw → Gw) : Kept l r (State.updGw s g f) := by
  exact (Kept.upd_iff (fun p hp => by cases p <;> first | exact hl.no hp (by decide) | exact Eq.refl _)).mpr h

theorem State.putPkt_kept (hl : Within 0x1400 l) (h : Kept l r s) (body : Body) (src : Nat) (dst : Nat) (t : Nat) (train : (Option Nat)) : Kept l r (State.putPkt s body src dst t train) := by
  unfold State.putPkt
  repeat' first
    | with_reducible assumption
    | exact fun _ hx => hx
    | lift_lets -underBinder
    | simp -zeta (disch := (refine Part.all ?_; intro p hp; cases p <;> first | exact hl.no hp (by decide) | exact Eq.refl _)) only [Kept.upd_iff]
    | with_reducible refine State.updChan_kept (hl.of (by decide)) ?_ ?_ _
    | with_reducible refine Kept.foldl (fun s a hs => ?_) ?_ _

theorem State.updRtr_kept (hl : Within 0x400000000 l) (h : Kept l r s) (n : Nat) (f : Rtr → Rtr) : Kept l r (State.updRtr s n f) := by
  unfold State.updRtr
  repeat' first
    | with_reducible assumption
    | simp -zeta (disch := (refine Part.all ?_; intro p hp; cases p <;> first | exact hl.no hp (by decide) | exact Eq.refl _)) only [Kept.upd_iff]

theorem State.setFldBoth_kept (hl : Within 0x20 l) (h : Kept l r s) (p : PageId) (off : Nat) (lo : Nat) (w : Nat) (v : Nat) : Kept l r (State.setFldBoth s p off lo w v) := by
  unfold State.setFldBoth
  repeat' first
    | with_reducible assumption
    | simp -zeta (disch := (refine Part.all ?_; intro p hp; cases p <;> first | exact hl.no hp (by decide) | exact Eq.refl _)) only [Kept.upd_iff]
    | with_reducible refine State.setReg_kept (hl.of (by decide)) ?_ ..
    | with_reducible refine State.setShd_kept (hl.of (by decide)) ?_ ..

theorem State.overrun_kept (hl : Within 0x10 l) (h : Kept l r s) (kind : Nat) (unit : Nat) : Kept l r (State.overrun s kind unit) := by
  unfold State.overrun
  repeat' first
    | with_reducible assumption
    | simp -zeta (disch := (refine Part.all ?_; intro p hp; cases p <;> first | exact hl.no hp (by decide) | exact Eq.refl _)) only [Kept.upd_iff]
    | split

end Sys2Proof.Machine
end

