-- ==== Sys2Proof/Laws/KeptCounters.lean ====
section
/-! SUPPORT. What each operation of Machine/Counters.lean leaves alone: one lemma for each. -/
set_option maxRecDepth 4000
namespace Sys2Proof.Machine
variable {l : Nat} {r s : State}

theorem State.updCnt_kept (hl : Within 0x20000 l) (h : Kept l r s) (b : Nat) (f : Cnt → Cnt) : Kept l r (State.updCnt s b f) := by
  exact (Kept.upd_iff (fun p hp => by cases p <;> first | exact hl.no hp (by decide) | exact Eq.refl _)).mpr h

theorem State.bump_kept (hl : Within 0x20020 l) (h : Kept l r s) (b : Nat) (a1 : Nat) (a2 : Nat) (a3 : Nat) : Kept l r (State.bump s b a1 a2 a3) := by
  induction a1 generalizing s a2 a3 with
  | zero => exact h
  | succ n ih =>
    unfold State.bump
    repeat' first
      | with_reducible apply ih
      | (intro x; refine (?_ : Kept l r x → _) ?_ <;> [(intro _; clear_value x); subst x])
      | lift_lets -underBinder
      | with_reducible assumption
      | (intro x; clear_value x)
      | with_reducible refine State.updCnt_kept (hl.of (by decide)) ?_ ..
      | with_reducible refine State.raise_kept (hl.of (by decide)) ?_ ..
      | split

theorem State.writeSample_kept (hl : Within 0x20020 l) (h : Kept l r s) (b : Nat) (ws : List (Nat × Word)) : Kept l r (State.writeSample s b ws) := by
  exact State.raise_kept (hl.of (by decide)) (State.updCnt_kept (hl.of (by decide)) h ..) ..

theorem State.ev_kept (hl : Within 0x20020 l) (h : Kept l r s) (e : Ev) : Kept l r (State.ev s e) := by
  unfold State.ev
  repeat' first
    | with_reducible assumption
    | (intro x; refine (?_ : Kept l r x → _) ?_ <;> [(intro _; clear_value x); subst x])
    | lift_lets -underBinder
    | with_reducible refine State.bump_kept (hl.of (by decide)) ?_ ..
    | with_reducible refine State.writeSample_kept (hl.of (by decide)) ?_ ..
    | with_reducible refine Kept.foldl (fun s a hs => ?_) ?_ _
    | split

theorem State.cntClear_kept (hl : Within 0x20000 l) (h : Kept l r s) (b : Nat) : Kept l r (State.cntClear s b) := by
  exact State.updCnt_kept hl h ..

theorem State.quadClear_kept (hl : Within 0x20200 l) (h : Kept l r s) (c : Nat) : Kept l r (State.quadClear s c) := by
  unfold State.quadClear
  repeat' first
    | with_reducible assumption
    | with_reducible refine State.updCnt_kept (hl.of (by decide)) ?_ ..
    | with_reducible refine State.updSub_kept (hl.of (by decide)) ?_ ..
    | with_reducible refine Kept.foldl (fun s a hs => ?_) ?_ _

theorem State.routeEvents_kept (hl : Within 0x20020 l) (h : Kept l r s) (body : Body) (a1 : List (Nat × Nat × Bool)) : Kept l r (State.routeEvents s body a1) := by
  unfold State.routeEvents
  repeat' first
    | with_reducible assumption
    | with_reducible refine State.ev_kept (hl.of (by decide)) ?_ ..
    | with_reducible refine Kept.foldl (fun s a hs => ?_) ?_ _
    | split

theorem State.inject_kept (hl : Within 0x21420 l) (h : Kept l r s) (body : Body) (src : Nat) (dst : Nat) (t : Nat) (train : (Option Nat)) : Kept l r (State.inject s body src dst t train) := by
  unfold State.inject
  repeat' first
    | with_reducible assumption
    | with_reducible refine State.putPkt_kept (hl.of (by decide)) ?_ ..
    | with_reducible refine State.routeEvents_kept (hl.of (by decide)) ?_ ..
    | split

theorem State.discard_kept (hl : Within 0x20220 l) (h : Kept l r s) (c : Nat) (sc : Nat) (p : Option Pos) : Kept l r (State.discard s c sc p) := by
  unfold State.discard
  repeat' first
    | with_reducible assumption
    | with_reducible refine State.updSub_kept (hl.of (by decide)) ?_ ..
    | with_reducible refine State.raiseIf_kept (hl.of (by decide)) ?_ ..
    | with_reducible refine State.ev_kept (hl.of (by decide)) ?_ ..

theorem State.quad_kept (hl : Within 0x20220 l) (h : Kept l r s) (c : Nat) (sc : Nat) (o : SlotOut) (p : Option Pos) (a1 : Option Req) : Kept l r (State.quad s c sc o p a1) := by
  unfold State.quad
  repeat' first
    | with_reducible assumption
    | (intro x; refine (?_ : Kept l r x → _) ?_ <;> [(intro _; clear_value x); subst x])
    | (intro x; clear_value x)
    | lift_lets -underBinder
    | with_reducible refine State.updSub_kept (hl.of (by decide)) ?_ ..
    | with_reducible refine State.raiseIf_kept (hl.of (by decide)) ?_ ..
    | with_reducible refine State.ev_kept (hl.of (by decide)) ?_ ..

end Sys2Proof.Machine
end

