-- ==== Sys2Proof/Laws/KeptEcc.lean ====
section
/-! SUPPORT. What each operation of Machine/Ecc.lean leaves alone: one lemma for each. -/
set_option maxRecDepth 4000
namespace Sys2Proof.Machine
variable {l : Nat} {r s : State}

theorem State.insElog_kept (hl : Within 0x100020 l) (h : Kept l r s) (c : Nat) (idx : Nat) (e : LogEnt) : Kept l r (State.insElog s c idx e) := by
  unfold State.insElog
  repeat' first
    | with_reducible assumption
    | (intro x; refine (?_ : Kept l r x → _) ?_ <;> [(intro _; clear_value x); subst x])
    | (intro x; clear_value x)
    | lift_lets -underBinder
    | simp -zeta (disch := (refine Part.all ?_; intro p hp; cases p <;> first | exact hl.no hp (by decide) | exact Eq.refl _)) only [Kept.upd_iff]
    | with_reducible refine State.raise_kept (hl.of (by decide)) ?_ ..
    | split

theorem State.updElog_kept (hl : Within 0x400 l) (h : Kept l r s) (c : Nat) (f : Elog → Elog) : Kept l r (State.updElog s c f) := by
  unfold State.updElog
  refine State.updChan_kept (hl.of (by decide)) ?_ h _
  exact fun _ hx => hx

theorem State.logDrain_kept (hl : Within 0x100420 l) (h : Kept l r s) (c : Nat) (a1 : Nat) : Kept l r (State.logDrain s c a1) := by
  induction a1 generalizing s with
  | zero => exact h
  | succ n ih =>
    unfold State.logDrain
    extract_lets g
    split
    · exact h
    · exact ih (State.insElog_kept (hl.of (by decide)) (State.raiseIf_kept (hl.of (by decide)) (State.updElog_kept (hl.of (by decide)) h ..) ..) ..)

theorem State.logsDrain_kept (hl : Within 0x100420 l) (h : Kept l r s) (n : Nat) : Kept l r (State.logsDrain s n) := by
  unfold State.logsDrain
  repeat' first
    | with_reducible assumption
    | with_reducible refine State.logDrain_kept (hl.of (by decide)) ?_ ..
    | with_reducible refine Kept.foldl (fun s a hs => ?_) ?_ _
    | split

theorem State.log_kept (hl : Within 0x420 l) (h : Kept l r s) (c : Nat) (cls : Nat) (e : LogEnt) : Kept l r (State.log s c cls e) := by
  unfold State.log
  repeat' first
    | with_reducible assumption
    | (intro x; refine (?_ : Kept l r x → _) ?_ <;> [(intro _; clear_value x); subst x])
    | (intro x; clear_value x)
    | lift_lets -underBinder
    | simp -zeta (disch := (refine Part.all ?_; intro p hp; cases p <;> first | exact hl.no hp (by decide) | exact Eq.refl _)) only [Kept.upd_iff]
    | with_reducible refine State.updElog_kept (hl.of (by decide)) ?_ ..
    | with_reducible refine State.raise_kept (hl.of (by decide)) ?_ ..
    | split

theorem State.chanEvent_kept (hl : Within 0x80000420 l) (h : Kept l r s) (c : Nat) (n : Nat) : Kept l r (State.chanEvent s c n) := by
  unfold State.chanEvent
  repeat' first
    | with_reducible assumption
    | exact fun _ hx => hx
    | simp -zeta (disch := (refine Part.all ?_; intro p hp; cases p <;> first | exact hl.no hp (by decide) | exact Eq.refl _)) only [Kept.upd_iff]
    | with_reducible refine State.updChan_kept (hl.of (by decide)) ?_ ?_ _
    | with_reducible refine State.raise_kept (hl.of (by decide)) ?_ ..

theorem State.countCorr_kept (hl : Within 0x80000420 l) (h : Kept l r s) (c : Nat) (a1 : Loc) (d : Nat) (frame : Nat) (src : Nat) (itag : Nat) (gen : Nat) : Kept l r (State.countCorr s c a1 d frame src itag gen) := by
  unfold State.countCorr
  repeat' first
    | with_reducible assumption
    | (intro x; refine (?_ : Kept l r x → _) ?_ <;> [(intro _; clear_value x); subst x])
    | (intro x; clear_value x)
    | lift_lets -underBinder
    | with_reducible refine State.updElog_kept (hl.of (by decide)) ?_ ..
    | with_reducible refine State.log_kept (hl.of (by decide)) ?_ ..
    | with_reducible refine State.chanEvent_kept (hl.of (by decide)) ?_ ..
    | split

theorem State.noteDecode_kept (hl : Within 0x80020420 l) (h : Kept l r s) (c : Nat) (a1 : Loc) (d : Decode) (a2 : Req) (frame : Nat) (status : Nat) : Kept l r (State.noteDecode s c a1 d a2 frame status) := by
  unfold State.noteDecode
  repeat' first
    | with_reducible assumption
    | (intro x; refine (?_ : Kept l r x → _) ?_ <;> [(intro _; clear_value x); subst x])
    | (intro x; clear_value x)
    | lift_lets -underBinder
    | with_reducible refine State.ev_kept (hl.of (by decide)) ?_ ..
    | with_reducible refine State.log_kept (hl.of (by decide)) ?_ ..
    | with_reducible refine State.updElog_kept (hl.of (by decide)) ?_ ..
    | with_reducible refine State.countCorr_kept (hl.of (by decide)) ?_ ..
    | split

end Sys2Proof.Machine
end

