-- ==== Sys2Proof/Laws/KeptBalance.lean ====
section
/-! SUPPORT. What each operation of Machine/Balance.lean leaves alone: one lemma for each. -/
set_option maxRecDepth 4000
namespace Sys2Proof.Machine
variable {l : Nat} {r s : State}

theorem State.updBal_kept (hl : Within 0x400 l) (h : Kept l r s) (c : Nat) (f : Bal → Bal) : Kept l r (State.updBal s c f) := by
  unfold State.updBal
  refine State.updChan_kept (hl.of (by decide)) ?_ h _
  exact fun _ hx => hx

theorem State.acceptLane_kept (hl : Within 0x400 l) (h : Kept l r s) (c : Nat) (p : Nat) (i : Nat) : Kept l r (State.acceptLane s c p i) := by
  exact State.updBal_kept hl h ..

theorem State.rejectCount_kept (hl : Within 0x20420 l) (h : Kept l r s) (c : Nat) (reason : Nat) : Kept l r (State.rejectCount s c reason) := by
  exact State.ev_kept (hl.of (by decide)) (State.updBal_kept (hl.of (by decide)) h ..) ..

theorem State.stage_kept (hl : Within 0x400 l) (h : Kept l r s) (c : Nat) (q : Reading) : Kept l r (State.stage s c q) := by
  unfold State.stage
  repeat' first
    | with_reducible assumption
    | exact fun _ hx => hx
    | simp -zeta (disch := (refine Part.all ?_; intro p hp; cases p <;> first | exact hl.no hp (by decide) | exact Eq.refl _)) only [Kept.upd_iff]
    | with_reducible refine State.updChan_kept (hl.of (by decide)) ?_ ?_ _

theorem State.balInterrupt_kept (hl : Within 0x20420 l) (h : Kept l r s) (c : Nat) (p : Nat) : Kept l r (State.balInterrupt s c p) := by
  unfold State.balInterrupt
  repeat' first
    | with_reducible assumption
    | (intro x; refine (?_ : Kept l r x → _) ?_ <;> [(intro _; clear_value x); subst x])
    | simp -zeta (disch := (refine Part.all ?_; intro p hp; cases p <;> first | exact hl.no hp (by decide) | exact Eq.refl _)) only [Kept.upd_iff]
    | (intro x; clear_value x)
    | lift_lets -underBinder
    | with_reducible refine State.rejectCount_kept (hl.of (by decide)) ?_ ..
    | with_reducible refine State.updBal_kept (hl.of (by decide)) ?_ ..
    | with_reducible refine State.stage_kept (hl.of (by decide)) ?_ ..
    | split

theorem State.oscRead_kept (hl : Within 0x400 l) (h : Kept l r s) (c : Nat) (p : Nat) (z : Sense) : Kept l r (State.oscRead s c p z) := by
  unfold State.oscRead
  repeat' first
    | with_reducible assumption
    | with_reducible refine State.updBal_kept (hl.of (by decide)) ?_ ..

theorem State.balMrs_kept (hl : Within 0x400 l) (h : Kept l r s) (c : Nat) (sc : Nat) (rk : Nat) (t : Nat) (z : Sense) {w2 : State} (ht : State.balMrs s c sc rk t z = some w2) : Kept l r w2 := by
  unfold State.balMrs at ht
  revert ht
  repeat' first
    | with_reducible assumption
    | (intro ht; cases ht; done)
    | (intro ht; injection ht with ht; subst ht)
    | (intro x; clear_value x)
    | lift_lets -underBinder
    | with_reducible refine State.updBal_kept (hl.of (by decide)) ?_ ..
    | with_reducible refine State.oscRead_kept (hl.of (by decide)) ?_ ..
    | split

theorem State.balStart_kept (hl : Within 0x430 l) (h : Kept l r s) (c : Nat) : Kept l r (State.balStart s c) := by
  unfold State.balStart
  repeat' first
    | with_reducible assumption
    | simp -zeta (disch := (refine Part.all ?_; intro p hp; cases p <;> first | exact hl.no hp (by decide) | exact Eq.refl _)) only [Kept.upd_iff]
    | (intro x; refine (?_ : Kept l r x → _) ?_ <;> [(intro _; clear_value x); subst x])
    | (intro x; clear_value x)
    | lift_lets -underBinder
    | with_reducible refine State.updBal_kept (hl.of (by decide)) ?_ ..
    | with_reducible refine State.setBoth_kept (hl.of (by decide)) ?_ ..
    | with_reducible refine State.overrun_kept (hl.of (by decide)) ?_ ..
    | with_reducible refine State.setFldBoth_kept (hl.of (by decide)) ?_ ..
    | split
    | with_reducible refine Kept.foldl (fun s a hs => ?_) ?_ _

theorem State.measureCalref_kept (hl : Within 0x800000 l) (h : Kept l r s) (n : Nat) (meas : Nat) (start : Bool) : Kept l r (State.measureCalref s n meas start) := by
  exact (Kept.upd_iff (fun p hp => by cases p <;> first | exact hl.no hp (by decide) | exact Eq.refl _)).mpr h

theorem State.reject_kept (hl : Within 0x80020420 l) (h : Kept l r s) (c : Nat) (p : Nat) (i : Nat) (reason : Nat) : Kept l r (State.reject s c p i reason) := by
  unfold State.reject
  repeat' first
    | with_reducible assumption
    | simp -zeta (disch := (refine Part.all ?_; intro p hp; cases p <;> first | exact hl.no hp (by decide) | exact Eq.refl _)) only [Kept.upd_iff]
    | (intro x; refine (?_ : Kept l r x → _) ?_ <;> [(intro _; clear_value x); subst x])
    | (intro x; clear_value x)
    | lift_lets -underBinder
    | intro x
    | with_reducible refine State.rejectCount_kept (hl.of (by decide)) ?_ ..
    | with_reducible refine State.updBal_kept (hl.of (by decide)) ?_ ..
    | with_reducible refine State.raise_kept (hl.of (by decide)) ?_ ..
    | with_reducible refine State.chanEvent_kept (hl.of (by decide)) ?_ ..
    | split

theorem State.stageTarget_kept (hl : Within 0x80020420 l) (h : Kept l r s) (c : Nat) (kind : Nat) (p : Nat) (i : Nat) (v : Int) : Kept l r (State.stageTarget s c kind p i v) := by
  unfold State.stageTarget
  repeat' first
    | with_reducible assumption
    | (intro x; clear_value x)
    | lift_lets -underBinder
    | with_reducible refine State.acceptLane_kept (hl.of (by decide)) ?_ ..
    | with_reducible refine State.updBal_kept (hl.of (by decide)) ?_ ..
    | with_reducible refine State.reject_kept (hl.of (by decide)) ?_ ..
    | split

theorem State.impedance_kept (hl : Within 0x80820420 l) (h : Kept l r s) (c : Nat) (m : CalMeas) : Kept l r (State.impedance s c m) := by
  unfold State.impedance
  repeat' first
    | with_reducible assumption
    | (intro x; refine (?_ : Kept l r x → _) ?_ <;> [(intro _; clear_value x); subst x])
    | (intro x; clear_value x)
    | lift_lets -underBinder
    | with_reducible refine State.measureCalref_kept (hl.of (by decide)) ?_ ..
    | with_reducible refine State.rejectCount_kept (hl.of (by decide)) ?_ ..
    | with_reducible refine State.updBal_kept (hl.of (by decide)) ?_ ..
    | with_reducible refine State.raise_kept (hl.of (by decide)) ?_ ..
    | with_reducible refine State.stageTarget_kept (hl.of (by decide)) ?_ ..
    | with_reducible refine Kept.foldl (fun s a hs => ?_) ?_ _
    | split

theorem State.updateGroup_kept (hl : Within 0x80020420 l) (h : Kept l r s) (c : Nat) (p : Nat) : Kept l r (State.updateGroup s c p) := by
  unfold State.updateGroup
  extract_lets minN pr f a
  refine State.updBal_kept (hl.of (by decide)) (Kept.foldl (fun s i hs => ?_) h _) ..
  clear h
  extract_lets b lc rd gt vr n gn s1 s2 s3 s4 s5 rk cnt c0 w
  have h1 : Kept l r s1 := State.updBal_kept (hl.of (by decide)) hs ..
  have h2 : Kept l r s2 := by
    show Kept l r (ite _ _ _)
    split
    · exact State.stageTarget_kept (hl.of (by decide)) h1 ..
    · exact State.rejectCount_kept (hl.of (by decide)) h1 ..
  have h3 : Kept l r s3 := by
    show Kept l r (ite _ _ _)
    split
    · exact State.stageTarget_kept (hl.of (by decide)) h2 ..
    · exact h2
  have h4 : Kept l r s4 := by
    show Kept l r (ite _ _ _)
    repeat' split
    all_goals first
      | exact h3
      | exact State.reject_kept (hl.of (by decide)) h3 ..
      | exact State.stageTarget_kept (hl.of (by decide)) h3 ..
      | exact State.acceptLane_kept (hl.of (by decide)) h3 ..
  have h5 : Kept l r s5 := by
    show Kept l r (ite _ _ _)
    repeat' split
    all_goals first
      | exact h3
      | exact h4
      | exact State.reject_kept (hl.of (by decide)) h4 ..
      | exact State.stageTarget_kept (hl.of (by decide)) h4 ..
  split
  · exact State.reject_kept (hl.of (by decide)) h5 ..
  · exact State.stageTarget_kept (hl.of (by decide)) h5 ..

theorem State.balStep_kept (hl : Within 0x80820420 l) (h : Kept l r s) (c : Nat) (m : CalMeas) : Kept l r (State.balStep s c m) := by
  unfold State.balStep
  repeat' first
    | with_reducible assumption
    | (intro x; clear_value x)
    | lift_lets -underBinder
    | with_reducible refine State.updBal_kept (hl.of (by decide)) ?_ ..
    | with_reducible refine State.impedance_kept (hl.of (by decide)) ?_ ..
    | with_reducible refine State.updateGroup_kept (hl.of (by decide)) ?_ ..
    | with_reducible refine State.raise_kept (hl.of (by decide)) ?_ ..
    | split

theorem State.probeBurst_kept (hl : Within 0x80020420 l) (h : Kept l r s) (c : Nat) (p : Nat) (z : Sense) : Kept l r (State.probeBurst s c p z) := by
  unfold State.probeBurst
  repeat' first
    | with_reducible assumption
    | (intro x; refine (?_ : Kept l r x → _) ?_ <;> [(intro _; clear_value x); subst x])
    | (intro x; clear_value x)
    | simp -zeta (disch := (refine Part.all ?_; intro p hp; cases p <;> first | exact hl.no hp (by decide) | exact Eq.refl _)) only [Kept.upd_iff]
    | lift_lets -underBinder
    | with_reducible refine State.updBal_kept (hl.of (by decide)) ?_ ..
    | with_reducible refine State.reject_kept (hl.of (by decide)) ?_ ..
    | with_reducible refine State.stage_kept (hl.of (by decide)) ?_ ..
    | with_reducible refine Kept.foldl (fun s a hs => ?_) ?_ _
    | split

theorem State.lend_kept (hl : Within 0x80020420 l) (h : Kept l r s) (c : Nat) (sc : Nat) (rk : Nat) (t : Nat) (z : Sense) {w2 : State} (ht : State.lend s c sc rk t z = some w2) : Kept l r w2 := by
  unfold State.lend at ht
  revert ht
  repeat' first
    | with_reducible assumption
    | (intro ht; cases ht; done)
    | (intro ht; injection ht with ht; subst ht)
    | (intro x; clear_value x)
    | lift_lets -underBinder
    | with_reducible refine State.oscRead_kept (hl.of (by decide)) ?_ ..
    | with_reducible refine State.probeBurst_kept (hl.of (by decide)) ?_ ..
    | split

theorem State.track_kept (hl : Within 0x400 l) (h : Kept l r s) (c : Nat) (p : Nat) (z : Sense) : Kept l r (State.track s c p z) := by
  unfold State.track
  repeat' first
    | with_reducible assumption
    | with_reducible refine State.updBal_kept (hl.of (by decide)) ?_ ..
    | split

theorem State.stopLatch_kept (hl : Within 0x600 l) (h : Kept l r s) (c : Nat) (holdSoon : Bool) : Kept l r (State.stopLatch s c holdSoon) := by
  unfold State.stopLatch
  repeat' first
    | with_reducible assumption
    | (intro x; refine (?_ : Kept l r x → _) ?_ <;> [(intro _; clear_value x); subst x])
    | (intro x; clear_value x)
    | lift_lets -underBinder
    | with_reducible refine State.updBal_kept (hl.of (by decide)) ?_ ..
    | with_reducible refine State.updSub_kept (hl.of (by decide)) ?_ ..
    | split

theorem State.stopResults_kept (hl : Within 0x80020420 l) (h : Kept l r s) (c : Nat) (p : Nat) (grid : List Nat) (osc : List Nat) : Kept l r (State.stopResults s c p grid osc) := by
  unfold State.stopResults
  repeat' first
    | with_reducible assumption
    | (intro x; refine (?_ : Kept l r x → _) ?_ <;> [(intro _; clear_value x); subst x])
    | (intro x; clear_value x)
    | lift_lets -underBinder
    | with_reducible refine State.oscRead_kept (hl.of (by decide)) ?_ ..
    | with_reducible refine State.reject_kept (hl.of (by decide)) ?_ ..
    | with_reducible refine State.stageTarget_kept (hl.of (by decide)) ?_ ..
    | with_reducible refine Kept.foldl (fun s a hs => ?_) ?_ _
    | split

theorem State.mrsBack_kept (hl : Within 0x200 l) (h : Kept l r s) (c : Nat) : Kept l r (State.mrsBack s c) := by
  unfold State.mrsBack
  repeat' first
    | with_reducible assumption
    | exact fun _ hx => hx
    | (intro x; refine (?_ : Kept l r x → _) ?_ <;> [(intro _; clear_value x); subst x])
    | (intro x; clear_value x)
    | lift_lets -underBinder
    | simp -zeta (disch := (refine Part.all ?_; intro p hp; cases p <;> first | exact hl.no hp (by decide) | exact Eq.refl _)) only [Kept.upd_iff]
    | with_reducible refine State.updSub_kept (hl.of (by decide)) ?_ ..
    | with_reducible refine Kept.foldl (fun s a hs => ?_) ?_ _

end Sys2Proof.Machine
end

