-- ==== Sys2Proof/Laws/KeptPipeline.lean ====
section
/-! SUPPORT. What each operation of Machine/Pipeline.lean leaves alone: one lemma for each. -/
set_option maxRecDepth 4000
namespace Sys2Proof.Machine
variable {l : Nat} {r s : State}

theorem State.updIns_kept (hl : Within 0x100000 l) (h : Kept l r s) (i : Nat) (f : Ins → Ins) : Kept l r (State.updIns s i f) := by
  exact (Kept.upd_iff (fun p hp => by cases p <;> first | exact hl.no hp (by decide) | exact Eq.refl _)).mpr h

theorem State.tally_kept (hl : Within 0x100000 l) (h : Kept l r s) (i : Nat) (n : Nat) (k : Nat) : Kept l r (State.tally s i n k) := by
  unfold State.tally
  repeat' first
    | with_reducible assumption
    | exact fun _ hx => hx
    | (intro x; refine (?_ : Kept l r x → _) ?_ <;> [(intro _; clear_value x); subst x])
    | (intro x; clear_value x)
    | lift_lets -underBinder
    | simp -zeta (disch := (refine Part.all ?_; intro p hp; cases p <;> first | exact hl.no hp (by decide) | exact Eq.refl _)) only [Kept.upd_iff]
    | with_reducible refine State.updIns_kept (hl.of (by decide)) ?_ ..

theorem State.protoErr_kept (hl : Within 0x120 l) (h : Kept l r s) (g : Nat) : Kept l r (State.protoErr s g) := by
  unfold State.protoErr
  repeat' first
    | with_reducible assumption
    | exact fun _ hx => hx
    | (intro x; refine (?_ : Kept l r x → _) ?_ <;> [(intro _; clear_value x); subst x])
    | (intro x; clear_value x)
    | lift_lets -underBinder
    | simp -zeta (disch := (refine Part.all ?_; intro p hp; cases p <;> first | exact hl.no hp (by decide) | exact Eq.refl _)) only [Kept.upd_iff]
    | with_reducible refine State.updGw_kept (hl.of (by decide)) ?_ ..
    | with_reducible refine State.raise_kept (hl.of (by decide)) ?_ ..

theorem State.ownResp_kept (hl : Within 0x20120 l) (h : Kept l r s) (g : Nat) (q : Resp) (t : Nat) : Kept l r (State.ownResp s g q t) := by
  unfold State.ownResp
  repeat' first
    | with_reducible assumption
    | exact fun _ hx => hx
    | (intro x; refine (?_ : Kept l r x → _) ?_ <;> [(intro _; clear_value x); subst x])
    | (intro x; clear_value x)
    | lift_lets -underBinder
    | simp -zeta (disch := (refine Part.all ?_; intro p hp; cases p <;> first | exact hl.no hp (by decide) | exact Eq.refl _)) only [Kept.upd_iff]
    | with_reducible refine State.ev_kept (hl.of (by decide)) ?_ ..
    | with_reducible refine State.updGw_kept (hl.of (by decide)) ?_ ..

theorem State.refuse_kept (hl : Within 0x20120 l) (h : Kept l r s) (g : Nat) (q : Req) (status : Nat) (t : Nat) : Kept l r (State.refuse s g q status t) := by
  unfold State.refuse
  repeat' first
    | with_reducible assumption
    | exact fun _ hx => hx
    | (intro x; refine (?_ : Kept l r x → _) ?_ <;> [(intro _; clear_value x); subst x])
    | (intro x; clear_value x)
    | lift_lets -underBinder
    | simp -zeta (disch := (refine Part.all ?_; intro p hp; cases p <;> first | exact hl.no hp (by decide) | exact Eq.refl _)) only [Kept.upd_iff]
    | with_reducible refine State.ownResp_kept (hl.of (by decide)) ?_ ..
    | split

theorem State.badAccess_kept (hl : Within 0x20060 l) (h : Kept l r s) (src : Src) (addr : Nat) (wr : Bool) (acc : Bool) : Kept l r (State.badAccess s src addr wr acc) := by
  unfold State.badAccess
  repeat' first
    | with_reducible assumption
    | exact fun _ hx => hx
    | (intro x; refine (?_ : Kept l r x → _) ?_ <;> [(intro _; clear_value x); subst x])
    | (intro x; clear_value x)
    | lift_lets -underBinder
    | simp -zeta (disch := (refine Part.all ?_; intro p hp; cases p <;> first | exact hl.no hp (by decide) | exact Eq.refl _)) only [Kept.upd_iff]
    | with_reducible refine State.raise_kept (hl.of (by decide)) ?_ ..
    | with_reducible refine State.ev_kept (hl.of (by decide)) ?_ ..
    | split

theorem State.raiseC_kept (hl : Within 0x20120 l) (h : Kept l r s) (g : Nat) (q : Req) (t : Nat) : Kept l r (State.raiseC s g q t) := by
  unfold State.raiseC
  repeat' first
    | with_reducible assumption
    | exact fun _ hx => hx
    | (intro x; refine (?_ : Kept l r x → _) ?_ <;> [(intro _; clear_value x); subst x])
    | (intro x; clear_value x)
    | lift_lets -underBinder
    | simp -zeta (disch := (refine Part.all ?_; intro p hp; cases p <;> first | exact hl.no hp (by decide) | exact Eq.refl _)) only [Kept.upd_iff]
    | with_reducible refine State.ev_kept (hl.of (by decide)) ?_ ..
    | with_reducible refine State.updGw_kept (hl.of (by decide)) ?_ ..

theorem State.classLine_kept (hl : Within 0x21520 l) (h : Kept l r s) (g : Nat) (q : Req) (t : Nat) : Kept l r (State.classLine s g q t) := by
  unfold State.classLine
  repeat' first
    | with_reducible assumption
    | exact fun _ hx => hx
    | (intro x; refine (?_ : Kept l r x → _) ?_ <;> [(intro _; clear_value x); subst x])
    | (intro x; clear_value x)
    | lift_lets -underBinder
    | simp -zeta (disch := (refine Part.all ?_; intro p hp; cases p <;> first | exact hl.no hp (by decide) | exact Eq.refl _)) only [Kept.upd_iff]
    | with_reducible refine State.ev_kept (hl.of (by decide)) ?_ ..
    | with_reducible refine State.inject_kept (hl.of (by decide)) ?_ ..
    | with_reducible refine State.updGw_kept (hl.of (by decide)) ?_ ..
    | with_reducible refine State.raiseC_kept (hl.of (by decide)) ?_ ..
    | split

theorem State.asideOrClass_kept (hl : Within 0x21520 l) (h : Kept l r s) (g : Nat) (a1 : Req) (t : Nat) {w2 : State} (ht : State.asideOrClass s g a1 t = some w2) : Kept l r w2 := by
  unfold State.asideOrClass at ht
  revert ht
  repeat' first
    | with_reducible assumption
    | (intro ht; cases ht; done)
    | (intro ht; injection ht with ht; subst ht)
    | (intro x; clear_value x)
    | lift_lets -underBinder
    | extract_lets x
    | with_reducible refine State.ev_kept (hl.of (by decide)) ?_ ..
    | with_reducible refine State.updGw_kept (hl.of (by decide)) ?_ ..
    | with_reducible refine State.classLine_kept (hl.of (by decide)) ?_ ..
    | split

theorem State.holdLine_kept (hl : Within 0x20120 l) (h : Kept l r s) (g : Nat) (a1 : HoldEnt) (a2 : Req) {w2 : State} (ht : State.holdLine s g a1 a2 = some w2) : Kept l r w2 := by
  unfold State.holdLine at ht
  revert ht
  repeat' first
    | with_reducible assumption
    | (intro ht; cases ht; done)
    | (intro ht; injection ht with ht; subst ht)
    | (intro x; refine (?_ : Kept l r x → _) ?_ <;> [(intro _; clear_value x); subst x])
    | (intro x; clear_value x)
    | lift_lets -underBinder
    | extract_lets x
    | with_reducible refine State.ev_kept (hl.of (by decide)) ?_ ..
    | with_reducible refine State.updGw_kept (hl.of (by decide)) ?_ ..
    | with_reducible refine State.raiseIf_kept (hl.of (by decide)) ?_ ..
    | split

theorem State.g4_kept (hl : Within 0x21520 l) (h : Kept l r s) (g : Nat) (a1 : Req) (t : Nat) {w2 : State} (ht : State.g4 s g a1 t = some w2) : Kept l r w2 := by
  unfold State.g4 at ht
  revert ht
  repeat' first
    | with_reducible assumption
    | (intro ht; cases ht; done)
    | (intro ht; with_reducible refine State.asideOrClass_kept (hl.of (by decide)) ?_ (ht := ht) ..)
    | (intro ht; with_reducible refine State.holdLine_kept (hl.of (by decide)) ?_ (ht := ht) ..)
    | (intro x; refine (?_ : Kept l r x → _) ?_ <;> [(intro _; clear_value x); subst x])
    | (intro x; clear_value x)
    | lift_lets -underBinder
    | extract_lets x
    | with_reducible refine State.updGw_kept (hl.of (by decide)) ?_ ..
    | split

theorem State.g4Retry_kept (hl : Within 0x21520 l) (h : Kept l r s) (g : Nat) (a1 : List Req) : Kept l r (State.g4Retry s g a1) := by
  induction a1 generalizing s with
  | nil => exact State.updGw_kept (hl.of (by decide)) h ..
  | cons q qs ih =>
    unfold State.g4Retry
    split
    · rename_i s2 hs2
      exact ih (State.g4_kept (hl.of (by decide)) h (ht := hs2) ..)
    · exact State.updGw_kept (hl.of (by decide)) h ..

theorem State.g0_kept (hl : Within 0x20120 l) (h : Kept l r s) (g : Nat) : Kept l r (State.g0 s g) := by
  unfold State.g0
  repeat' first
    | with_reducible assumption
    | exact fun _ hx => hx
    | (intro x; refine (?_ : Kept l r x → _) ?_ <;> [(intro _; clear_value x); subst x])
    | (intro x; clear_value x)
    | lift_lets -underBinder
    | simp -zeta (disch := (refine Part.all ?_; intro p hp; cases p <;> first | exact hl.no hp (by decide) | exact Eq.refl _)) only [Kept.upd_iff]
    | with_reducible refine State.updGw_kept (hl.of (by decide)) ?_ ..
    | with_reducible refine State.ev_kept (hl.of (by decide)) ?_ ..
    | with_reducible refine State.protoErr_kept (hl.of (by decide)) ?_ ..
    | with_reducible refine State.ownResp_kept (hl.of (by decide)) ?_ ..
    | split

theorem State.svcG1_kept (hl : Within 0x21560 l) (h : Kept l r s) (g : Nat) (h : ReqHdr) (q : Req) (t0 : Nat) : Kept l r (State.svcG1 s g h q t0) := by
  unfold State.svcG1
  repeat' first
    | with_reducible assumption
    | exact fun _ hx => hx
    | (intro x; refine (?_ : Kept l r x → _) ?_ <;> [(intro _; clear_value x); subst x])
    | (intro x; clear_value x)
    | lift_lets -underBinder
    | simp -zeta (disch := (refine Part.all ?_; intro p hp; cases p <;> first | exact hl.no hp (by decide) | exact Eq.refl _)) only [Kept.upd_iff]
    | with_reducible refine State.refuse_kept (hl.of (by decide)) ?_ ..
    | with_reducible refine State.raise_kept (hl.of (by decide)) ?_ ..
    | with_reducible refine State.badAccess_kept (hl.of (by decide)) ?_ ..
    | with_reducible refine State.inject_kept (hl.of (by decide)) ?_ ..
    | split

theorem State.pipeOut_kept (hl : Within 0x100 l) (h : Kept l r s) (g : Nat) (i : Nat) : Kept l r (State.pipeOut s g i) := by
  unfold State.pipeOut
  repeat' first
    | with_reducible assumption
    | exact fun _ hx => hx
    | simp -zeta (disch := (refine Part.all ?_; intro p hp; cases p <;> first | exact hl.no hp (by decide) | exact Eq.refl _)) only [Kept.upd_iff]
    | with_reducible refine State.updGw_kept (hl.of (by decide)) ?_ ..

theorem State.pipeSet_kept (hl : Within 0x100 l) (h : Kept l r s) (g : Nat) (i : Nat) (q : PLine) : Kept l r (State.pipeSet s g i q) := by
  unfold State.pipeSet
  repeat' first
    | with_reducible assumption
    | exact fun _ hx => hx
    | simp -zeta (disch := (refine Part.all ?_; intro p hp; cases p <;> first | exact hl.no hp (by decide) | exact Eq.refl _)) only [Kept.upd_iff]
    | with_reducible refine State.updGw_kept (hl.of (by decide)) ?_ ..

theorem State.g1_kept (hl : Within 0x21560 l) (h : Kept l r s) (g : Nat) (i : Nat) (q : PLine) : Kept l r (State.g1 s g i q) := by
  unfold State.g1
  repeat' first
    | with_reducible assumption
    | exact fun _ hx => hx
    | (intro x; refine (?_ : Kept l r x → _) ?_ <;> [(intro _; clear_value x); subst x])
    | (intro x; clear_value x)
    | lift_lets -underBinder
    | simp -zeta (disch := (refine Part.all ?_; intro p hp; cases p <;> first | exact hl.no hp (by decide) | exact Eq.refl _)) only [Kept.upd_iff]
    | with_reducible refine State.pipeOut_kept (hl.of (by decide)) ?_ ..
    | with_reducible refine State.refuse_kept (hl.of (by decide)) ?_ ..
    | with_reducible refine State.raise_kept (hl.of (by decide)) ?_ ..
    | with_reducible refine State.updGw_kept (hl.of (by decide)) ?_ ..
    | with_reducible refine State.svcG1_kept (hl.of (by decide)) ?_ ..
    | with_reducible refine State.pipeSet_kept (hl.of (by decide)) ?_ ..
    | split

theorem State.g2_kept (hl : Within 0x20120 l) (h : Kept l r s) (g : Nat) (i : Nat) (q : PLine) : Kept l r (State.g2 s g i q) := by
  unfold State.g2
  repeat' first
    | with_reducible assumption
    | exact fun _ hx => hx
    | (intro x; refine (?_ : Kept l r x → _) ?_ <;> [(intro _; clear_value x); subst x])
    | (intro x; clear_value x)
    | lift_lets -underBinder
    | simp -zeta (disch := (refine Part.all ?_; intro p hp; cases p <;> first | exact hl.no hp (by decide) | exact Eq.refl _)) only [Kept.upd_iff]
    | with_reducible refine State.updGw_kept (hl.of (by decide)) ?_ ..
    | with_reducible refine State.pipeOut_kept (hl.of (by decide)) ?_ ..
    | with_reducible refine State.refuse_kept (hl.of (by decide)) ?_ ..
    | with_reducible refine State.raise_kept (hl.of (by decide)) ?_ ..
    | with_reducible refine State.pipeSet_kept (hl.of (by decide)) ?_ ..
    | split

theorem State.g4Out_kept (hl : Within 0x21520 l) (h : Kept l r s) (g i : Nat) (a1 : PLine) : Kept l r (State.g4Out s g i a1) := by
  unfold State.g4Out
  repeat' first
    | with_reducible assumption
    | simp -zeta (disch := (refine Part.all ?_; intro p hp; cases p <;> first | exact hl.no hp (by decide) | exact Eq.refl _)) only [Kept.upd_iff]
    | (intro x; refine (?_ : Kept l r x → _) ?_ <;> [(intro _; clear_value x); subst x])
    | (intro x; clear_value x)
    | lift_lets -underBinder
    | with_reducible refine State.pipeOut_kept (hl.of (by decide)) ?_ ..
    | with_reducible refine State.updGw_kept (hl.of (by decide)) ?_ ..
    | with_reducible refine State.g4_kept (hl.of (by decide)) ?_ (ht := by assumption) ..
    | refine Kept.getD ?_ (fun _ _ => ?_)

theorem State.stageOf_kept (hl : Within 0x21560 l) (h : Kept l r s) (g : Nat) (i : Nat) (q : PLine) : Kept l r (State.stageOf s g i q) := by
  unfold State.stageOf
  repeat' first
    | with_reducible assumption
    | simp -zeta (disch := (refine Part.all ?_; intro p hp; cases p <;> first | exact hl.no hp (by decide) | exact Eq.refl _)) only [Kept.upd_iff]
    | with_reducible refine State.g1_kept (hl.of (by decide)) ?_ ..
    | with_reducible refine State.g2_kept (hl.of (by decide)) ?_ ..
    | with_reducible refine State.g4Out_kept (hl.of (by decide)) ?_ ..
    | split

theorem State.dropResp_kept (hl : Within 0x20120 l) (h : Kept l r s) (g : Nat) (q : Resp) : Kept l r (State.dropResp s g q) := by
  unfold State.dropResp
  repeat' first
    | with_reducible assumption
    | exact fun _ hx => hx
    | (intro x; refine (?_ : Kept l r x → _) ?_ <;> [(intro _; clear_value x); subst x])
    | (intro x; clear_value x)
    | lift_lets -underBinder
    | simp -zeta (disch := (refine Part.all ?_; intro p hp; cases p <;> first | exact hl.no hp (by decide) | exact Eq.refl _)) only [Kept.upd_iff]
    | with_reducible refine State.ev_kept (hl.of (by decide)) ?_ ..
    | with_reducible refine State.updGw_kept (hl.of (by decide)) ?_ ..
    | split

theorem State.flushItems_kept (hl : Within 0x20120 l) (h : Kept l r s) (g : Nat) (dropped : Bool) : Kept l r (State.flushItems s g dropped) := by
  unfold State.flushItems
  repeat' first
    | with_reducible assumption
    | exact fun _ hx => hx
    | (intro x; (have _ht : State → Item × Nat → State := x); clear _ht)
    | (intro x; refine (?_ : Kept l r x → _) ?_ <;> [(intro _; clear_value x); subst x])
    | (intro x; (have _ht : State → Item × Nat → State := x); clear _ht)
    | (intro x; clear_value x)
    | lift_lets -underBinder
    | simp -zeta (disch := (refine Part.all ?_; intro p hp; cases p <;> first | exact hl.no hp (by decide) | exact Eq.refl _)) only [Kept.upd_iff]
    | with_reducible refine State.updGw_kept (hl.of (by decide)) ?_ ..
    | with_reducible refine State.ev_kept (hl.of (by decide)) ?_ ..
    | with_reducible refine State.dropResp_kept (hl.of (by decide)) ?_ ..
    | with_reducible refine State.ownResp_kept (hl.of (by decide)) ?_ ..
    | with_reducible refine State.raise_kept (hl.of (by decide)) ?_ ..
    | with_reducible refine Kept.foldl (fun s a hs => ?_) ?_ _
    | split
    | simp -zeta only [x]

theorem State.flushNow_kept (hl : Within 0x20120 l) (h : Kept l r s) (g : Nat) : Kept l r (State.flushNow s g) := by
  unfold State.flushNow
  repeat' first
    | with_reducible assumption
    | exact fun _ hx => hx
    | simp -zeta (disch := (refine Part.all ?_; intro p hp; cases p <;> first | exact hl.no hp (by decide) | exact Eq.refl _)) only [Kept.upd_iff]
    | with_reducible refine State.flushItems_kept (hl.of (by decide)) ?_ ..
    | with_reducible refine State.updGw_kept (hl.of (by decide)) ?_ ..

theorem State.msgsDue_kept (hl : Within 0x40 l) (h : Kept l r s) : Kept l r (State.msgsDue s) := by
  unfold State.msgsDue
  repeat' first
    | with_reducible assumption
    | exact fun _ hx => hx
    | (intro x; refine (?_ : Kept l r x → _) ?_ <;> [(intro _; clear_value x); subst x])
    | (intro x; clear_value x)
    | lift_lets -underBinder
    | simp -zeta (disch := (refine Part.all ?_; intro p hp; cases p <;> first | exact hl.no hp (by decide) | exact Eq.refl _)) only [Kept.upd_iff]

theorem State.sendMsg_kept (hl : Within 0x20060 l) (h : Kept l r s) (m : IntMsg) (f : Nat) : Kept l r (State.sendMsg s m f) := by
  unfold State.sendMsg
  repeat' first
    | with_reducible assumption
    | exact fun _ hx => hx
    | (intro x; refine (?_ : Kept l r x → _) ?_ <;> [(intro _; clear_value x); subst x])
    | (intro x; clear_value x)
    | lift_lets -underBinder
    | simp -zeta (disch := (refine Part.all ?_; intro p hp; cases p <;> first | exact hl.no hp (by decide) | exact Eq.refl _)) only [Kept.upd_iff]
    | with_reducible refine State.ev_kept (hl.of (by decide)) ?_ ..
    | with_reducible refine State.routeEvents_kept (hl.of (by decide)) ?_ ..
    | split

theorem State.resendMsgs_kept (hl : Within 0x20060 l) (h : Kept l r s) : Kept l r (State.resendMsgs s) := by
  unfold State.resendMsgs
  repeat' first
    | with_reducible assumption
    | exact fun _ hx => hx
    | (intro x; refine (?_ : Kept l r x → _) ?_ <;> [(intro _; clear_value x); subst x])
    | (intro x; clear_value x)
    | lift_lets -underBinder
    | simp -zeta (disch := (refine Part.all ?_; intro p hp; cases p <;> first | exact hl.no hp (by decide) | exact Eq.refl _)) only [Kept.upd_iff]
    | with_reducible refine State.sendMsg_kept (hl.of (by decide)) ?_ ..
    | with_reducible refine Kept.foldl (fun s a hs => ?_) ?_ _

theorem State.setLink_kept (hl : Within 0x140 l) (h : Kept l r s) (g : Nat) (q : GwLink) : Kept l r (State.setLink s g q) := by
  unfold State.setLink
  repeat' first
    | with_reducible assumption
    | exact fun _ hx => hx
    | (intro x; refine (?_ : Kept l r x → _) ?_ <;> [(intro _; clear_value x); subst x])
    | (intro x; clear_value x)
    | lift_lets -underBinder
    | simp -zeta (disch := (refine Part.all ?_; intro p hp; cases p <;> first | exact hl.no hp (by decide) | exact Eq.refl _)) only [Kept.upd_iff]
    | with_reducible refine State.msgsDue_kept (hl.of (by decide)) ?_ ..
    | with_reducible refine State.updGw_kept (hl.of (by decide)) ?_ ..

theorem State.sendInit_kept (hl : Within 0x100 l) (h : Kept l r s) (g : Nat) : Kept l r (State.sendInit s g) := by
  unfold State.sendInit
  repeat' first
    | with_reducible assumption
    | exact fun _ hx => hx
    | simp -zeta (disch := (refine Part.all ?_; intro p hp; cases p <;> first | exact hl.no hp (by decide) | exact Eq.refl _)) only [Kept.upd_iff]
    | with_reducible refine State.updGw_kept (hl.of (by decide)) ?_ ..

theorem State.linkGoesUp_kept (hl : Within 0x20160 l) (h : Kept l r s) (g : Nat) : Kept l r (State.linkGoesUp s g) := by
  unfold State.linkGoesUp
  repeat' first
    | with_reducible assumption
    | simp -zeta (disch := (refine Part.all ?_; intro p hp; cases p <;> first | exact hl.no hp (by decide) | exact Eq.refl _)) only [Kept.upd_iff]
    | with_reducible refine State.setLink_kept (hl.of (by decide)) ?_ ..
    | with_reducible refine State.raise_kept (hl.of (by decide)) ?_ ..
    | with_reducible refine State.resendMsgs_kept (hl.of (by decide)) ?_ ..

theorem State.linkStep_kept (hl : Within 0x20160 l) (h : Kept l r s) (g : Nat) : Kept l r (State.linkStep s g) := by
  unfold State.linkStep
  repeat' first
    | with_reducible assumption
    | simp -zeta (disch := (refine Part.all ?_; intro p hp; cases p <;> first | exact hl.no hp (by decide) | exact Eq.refl _)) only [Kept.upd_iff]
    | with_reducible refine State.sendInit_kept (hl.of (by decide)) ?_ ..
    | with_reducible refine State.linkGoesUp_kept (hl.of (by decide)) ?_ ..
    | split

theorem State.gwDo_kept (hl : Within 0x21560 l) (h : Kept l r s) (g : Nat) (a1 : GwWork) : Kept l r (State.gwDo s g a1) := by
  unfold State.gwDo
  repeat' first
    | with_reducible assumption
    | simp -zeta (disch := (refine Part.all ?_; intro p hp; cases p <;> first | exact hl.no hp (by decide) | exact Eq.refl _)) only [Kept.upd_iff]
    | with_reducible refine State.linkStep_kept (hl.of (by decide)) ?_ ..
    | with_reducible refine State.stageOf_kept (hl.of (by decide)) ?_ ..
    | with_reducible refine State.g0_kept (hl.of (by decide)) ?_ ..
    | with_reducible refine State.flushNow_kept (hl.of (by decide)) ?_ ..
    | with_reducible refine State.updGw_kept (hl.of (by decide)) ?_ ..
    | split

end Sys2Proof.Machine
end

