-- ==== Sys2Proof/Laws/KeptClock.lean ====
section
/-! SUPPORT. What each operation of Machine/Clock.lean leaves alone: one lemma for each. -/
set_option maxRecDepth 4000
namespace Sys2Proof.Machine
variable {l : Nat} {r s : State}

theorem State.accrue_kept (hl : Within 0x20020 l) (h : Kept l r s) (n : Nat) : Kept l r (State.accrue s n) := by
  unfold State.accrue
  repeat' first
    | with_reducible assumption
    | (intro x; clear_value x)
    | lift_lets -underBinder
    | with_reducible refine State.bump_kept (hl.of (by decide)) ?_ ..
    | with_reducible refine Kept.foldl (fun s a hs => ?_) ?_ _
    | split

theorem State.advance_kept (hl : Within 0x120422 l) (h : Kept l r s) (t : Nat) : Kept l r (State.advance s t) := by
  unfold State.advance
  split
  · assumption
  · exact (Kept.upd_iff (fun p hp => by cases p <;> first | exact hl.no hp (by decide) | exact Eq.refl _)).mpr
      (State.logsDrain_kept (hl.of (by decide)) (State.accrue_kept (hl.of (by decide)) h ..) ..)

theorem State.gwRun_kept (hl : Within 0x121562 l) (h : Kept l r s) (t n : Nat) : Kept l r (State.gwRun t n s) := by
  induction n generalizing s with
  | zero => exact h
  | succ n ih =>
    unfold State.gwRun
    split
    · split
      · exact h
      · exact ih (State.gwDo_kept (hl.of (by decide)) (State.advance_kept (hl.of (by decide)) h ..) ..)
    · exact h

theorem State.goto_kept (hl : Within 0x121562 l) (h : Kept l r s) (t : Nat) : Kept l r (State.goto s t) := by
  unfold State.goto
  repeat' first
    | with_reducible assumption
    | with_reducible refine State.gwRun_kept (hl.of (by decide)) ?_ ..
    | with_reducible refine State.advance_kept (hl.of (by decide)) ?_ ..
    | split

theorem State.gwAheadOf_kept (hl : Within 0x121562 l) (h : Kept l r s) (cand : State → Option Nat) (n : Nat) : Kept l r (State.gwAheadOf cand n s) := by
  induction n generalizing s with
  | zero => exact h
  | succ n ih =>
    unfold State.gwAheadOf
    split
    · exact h
    · lift_lets -underBinder
      intro x y
      split
      · exact h
      · exact ih (State.goto_kept (hl.of (by decide)) h ..)

theorem State.gwAhead_kept (hl : Within 0x121562 l) (h : Kept l r s) (cand : State → Option Nat) : Kept l r (State.gwAhead s cand) := by
  unfold State.gwAhead
  exact State.gwAheadOf_kept (hl.of (by decide)) h ..

end Sys2Proof.Machine
end

