-- ==== Sys2Proof/Laws/KeptBurl.lean ====
section
/-! SUPPORT. What each operation of Machine/Burl.lean leaves alone: one lemma for each. -/
set_option maxRecDepth 4000
namespace Sys2Proof.Machine
variable {l : Nat} {r s : State}

theorem State.takeSample_kept (hl : Within 0x200 l) (h : Kept l r s) (c : Nat) (sc : Nat) (a1 : Loc) (frame : Nat) : Kept l r (State.takeSample s c sc a1 frame) := by
  unfold State.takeSample
  repeat' first
    | with_reducible assumption
    | (intro x; clear_value x)
    | lift_lets -underBinder
    | with_reducible refine State.updSub_kept (hl.of (by decide)) ?_ ..
    | split

theorem State.sendHold_kept (hl : Within 0x21420 l) (h : Kept l r s) (c : Nat) (a1 : Loc) (q : Option (Nat × Nat)) (endFrame : Nat) : Kept l r (State.sendHold s c a1 q endFrame) := by
  unfold State.sendHold
  repeat' first
    | with_reducible assumption
    | exact fun _ hx => hx
    | with_reducible refine State.updChan_kept (hl.of (by decide)) ?_ ?_ _
    | with_reducible refine State.inject_kept (hl.of (by decide)) ?_ ..
    | split

theorem State.trigger_kept (hl : Within 0x21620 l) (h : Kept l r s) (c : Nat) (sc : Nat) (a1 : Hammer) (frame : Nat) : Kept l r (State.trigger s c sc a1 frame) := by
  unfold State.trigger
  repeat' first
    | with_reducible assumption
    | exact fun _ hx => hx
    | with_reducible refine State.updSub_kept (hl.of (by decide)) ?_ ..
    | with_reducible refine State.sendHold_kept (hl.of (by decide)) ?_ ..
    | with_reducible refine State.updChan_kept (hl.of (by decide)) ?_ ?_ _
    | with_reducible refine State.ev_kept (hl.of (by decide)) ?_ ..
    | with_reducible refine State.raise_kept (hl.of (by decide)) ?_ ..
    | split

theorem State.fallbackAct_kept (hl : Within 0x200 l) (h : Kept l r s) (c : Nat) (sc : Nat) (a1 : Loc) (frame : Nat) : Kept l r (State.fallbackAct s c sc a1 frame) := by
  unfold State.fallbackAct
  repeat' first
    | with_reducible assumption
    | (intro x; refine (?_ : Kept l r x → _) ?_ <;> [(intro _; clear_value x); subst x])
    | (intro x; clear_value x)
    | lift_lets -underBinder
    | with_reducible refine State.updSub_kept (hl.of (by decide)) ?_ ..
    | split

theorem State.actCount_kept (hl : Within 0x21620 l) (h : Kept l r s) (c : Nat) (sc : Nat) (a : Act) : Kept l r (State.actCount s c sc a) := by
  unfold State.actCount
  repeat' first
    | with_reducible assumption
    | (intro x; refine (?_ : Kept l r x → _) ?_ <;> [(intro _; clear_value x); subst x])
    | (intro x; clear_value x)
    | lift_lets -underBinder
    | with_reducible refine State.takeSample_kept (hl.of (by decide)) ?_ ..
    | with_reducible refine State.updSub_kept (hl.of (by decide)) ?_ ..
    | with_reducible refine State.raiseIf_kept (hl.of (by decide)) ?_ ..
    | with_reducible refine State.trigger_kept (hl.of (by decide)) ?_ ..
    | with_reducible refine State.fallbackAct_kept (hl.of (by decide)) ?_ ..
    | split

theorem State.raaRefresh_kept (hl : Within 0x200 l) (h : Kept l r s) (c : Nat) (sc : Nat) (rk : Nat) (ba : Option Nat) : Kept l r (State.raaRefresh s c sc rk ba) := by
  unfold State.raaRefresh
  repeat' first
    | with_reducible assumption
    | (intro x; clear_value x)
    | lift_lets -underBinder
    | with_reducible refine State.updSub_kept (hl.of (by decide)) ?_ ..

theorem State.drainActs_kept (hl : Within 0x21620 l) (h : Kept l r s) (c : Nat) (sc : Nat) (t : Nat) : Kept l r (State.drainActs s c sc t) := by
  unfold State.drainActs
  repeat' first
    | with_reducible assumption
    | (intro x; refine (?_ : Kept l r x → _) ?_ <;> [(intro _; clear_value x); subst x])
    | (intro x; clear_value x)
    | lift_lets -underBinder
    | with_reducible refine State.updSub_kept (hl.of (by decide)) ?_ ..
    | with_reducible refine State.actCount_kept (hl.of (by decide)) ?_ ..
    | with_reducible refine Kept.foldl (fun s a hs => ?_) ?_ _

theorem State.rollover_kept (hl : Within 0x200 l) (h : Kept l r s) (c : Nat) (sc : Nat) (frame : Nat) : Kept l r (State.rollover s c sc frame) := by
  unfold State.rollover
  repeat' first
    | with_reducible assumption
    | (intro x; clear_value x)
    | lift_lets -underBinder
    | with_reducible refine State.updSub_kept (hl.of (by decide)) ?_ ..

end Sys2Proof.Machine
end

