-- ==== Sys2Proof/Laws/KeptMapDecode.lean ====
section
/-! SUPPORT. What each operation of Machine/MapDecode.lean leaves alone: one lemma for each. -/
set_option maxRecDepth 4000
namespace Sys2Proof.Machine
variable {l : Nat} {r s : State}

theorem State.copyWrite_kept (hl : Within 0x20000000 l) (h : Kept l r s) (a1 : Loc) (data : Line) (poison : Bool) (use : Nat) (sn : Nat) (t : Nat) : Kept l r (State.copyWrite s a1 data poison use sn t) := by
  exact (Kept.upd_iff (fun p hp => by cases p <;> first | exact hl.no hp (by decide) | exact Eq.refl _)).mpr h

theorem State.mirror_kept (hl : Within 0x20000000 l) (h : Kept l r s) (on : Bool) (a1 : Loc) (data : Line) (poison : Bool) (sn : Nat) (t : Nat) : Kept l r (State.mirror s on a1 data poison sn t) := by
  unfold State.mirror
  repeat' first
    | with_reducible assumption
    | with_reducible refine State.copyWrite_kept (hl.of (by decide)) ?_ ..
    | split

end Sys2Proof.Machine
end

