-- ==== Sys2Proof/Laws/KeptRefresh.lean ====
section
/-! SUPPORT. What each operation of Machine/Refresh.lean leaves alone: one lemma for each. -/
set_option maxRecDepth 4000
namespace Sys2Proof.Machine
variable {l : Nat} {r s : State}

theorem State.armEmerg_kept (hl : Within 0x620 l) (h : Kept l r s) (c : Nat) (sc : Nat) (e : Emerg) : Kept l r (State.armEmerg s c sc e) := by
  unfold State.armEmerg
  repeat' first
    | with_reducible assumption
    | exact fun _ hx => hx
    | (intro x; refine (?_ : Kept l r x → _) ?_ <;> [(intro _; clear_value x); subst x])
    | lift_lets -underBinder
    | with_reducible refine State.updSub_kept (hl.of (by decide)) ?_ ..
    | with_reducible refine State.updChan_kept (hl.of (by decide)) ?_ ?_ _
    | with_reducible refine State.raise_kept (hl.of (by decide)) ?_ ..

theorem State.debtTick_kept (hl : Within 0x220 l) (h : Kept l r s) (c : Nat) (sc : Nat) : Kept l r (State.debtTick s c sc) := by
  unfold State.debtTick
  repeat' first
    | with_reducible assumption
    | (intro x; refine (?_ : Kept l r x → _) ?_ <;> [(intro _; clear_value x); subst x])
    | simp -zeta (disch := (refine Part.all ?_; intro p hp; cases p <;> first | exact hl.no hp (by decide) | exact Eq.refl _)) only [Kept.upd_iff]
    | (intro x; clear_value x)
    | lift_lets -underBinder
    | with_reducible refine State.raiseIf_kept (hl.of (by decide)) ?_ ..
    | with_reducible refine State.updSub_kept (hl.of (by decide)) ?_ ..
    | with_reducible refine Kept.foldl (fun s a hs => ?_) ?_ _
    | split

theorem State.issueMit_kept (hl : Within 0x20620 l) (h : Kept l r s) (c : Nat) (sc : Nat) (m : Mitig) (t : Nat) (emerg : Bool) : Kept l r (State.issueMit s c sc m t emerg) := by
  unfold State.issueMit
  repeat' first
    | with_reducible assumption
    | exact fun _ hx => hx
    | (intro x; refine (?_ : Kept l r x → _) ?_ <;> [(intro _; clear_value x); subst x])
    | (intro x; clear_value x)
    | lift_lets -underBinder
    | with_reducible refine State.updSub_kept (hl.of (by decide)) ?_ ..
    | with_reducible refine State.updChan_kept (hl.of (by decide)) ?_ ?_ _
    | with_reducible refine State.raise_kept (hl.of (by decide)) ?_ ..
    | with_reducible refine State.ev_kept (hl.of (by decide)) ?_ ..
    | with_reducible refine State.raaRefresh_kept (hl.of (by decide)) ?_ ..
    | split

theorem State.issueRef_kept (hl : Within 0x20220 l) (h : Kept l r s) (c : Nat) (sc : Nat) (g : Target) (t : Nat) (len : Nat) (emerg : Bool) : Kept l r (State.issueRef s c sc g t len emerg) := by
  unfold State.issueRef
  repeat' first
    | with_reducible assumption
    | (intro x; refine (?_ : Kept l r x → _) ?_ <;> [(intro _; clear_value x); subst x])
    | (intro x; clear_value x)
    | simp -zeta (disch := (refine Part.all ?_; intro p hp; cases p <;> first | exact hl.no hp (by decide) | exact Eq.refl _)) only [Kept.upd_iff]
    | lift_lets -underBinder
    | with_reducible refine State.updSub_kept (hl.of (by decide)) ?_ ..
    | with_reducible refine State.ev_kept (hl.of (by decide)) ?_ ..
    | with_reducible refine State.raaRefresh_kept (hl.of (by decide)) ?_ ..

theorem State.decideWin_kept (hl : Within 0x20620 l) (h : Kept l r s) (c : Nat) (sc : Nat) (w : Pos × Target × Bool) : Kept l r (State.decideWin s c sc w) := by
  unfold State.decideWin
  repeat' first
    | with_reducible assumption
    | (intro x; refine (?_ : Kept l r x → _) ?_ <;> [(intro _; clear_value x); subst x])
    | simp -zeta (disch := (refine Part.all ?_; intro p hp; cases p <;> first | exact hl.no hp (by decide) | exact Eq.refl _)) only [Kept.upd_iff]
    | (intro x; (have _ht : State → _ := x); clear _ht)
    | (intro x; clear_value x)
    | lift_lets -underBinder
    | with_reducible refine State.updSub_kept (hl.of (by decide)) ?_ ..
    | with_reducible refine State.issueMit_kept (hl.of (by decide)) ?_ ..
    | with_reducible refine State.issueRef_kept (hl.of (by decide)) ?_ ..
    | split

theorem State.decideWins_kept (hl : Within 0x20620 l) (h : Kept l r s) (c : Nat) (sc : Nat) (p : Pos) : Kept l r (State.decideWins s c sc p) := by
  unfold State.decideWins
  repeat' first
    | with_reducible assumption
    | (intro x; clear_value x)
    | lift_lets -underBinder
    | with_reducible refine State.decideWin_kept (hl.of (by decide)) ?_ ..
    | with_reducible refine Kept.foldl (fun s a hs => ?_) ?_ _
    | split

theorem State.emergEnd_kept (hl : Within 0x200 l) (h : Kept l r s) (c : Nat) (sc : Nat) : Kept l r (State.emergEnd s c sc) := by
  unfold State.emergEnd
  repeat' first
    | with_reducible assumption
    | with_reducible refine State.updSub_kept (hl.of (by decide)) ?_ ..

theorem State.emergLatch_kept (hl : Within 0x620 l) (h : Kept l r s) (c : Nat) (sc : Nat) : Kept l r (State.emergLatch s c sc) := by
  unfold State.emergLatch
  repeat' first
    | with_reducible assumption
    | (intro x; refine (?_ : Kept l r x → _) ?_ <;> [(intro _; clear_value x); subst x])
    | (intro x; clear_value x)
    | simp -zeta (disch := (refine Part.all ?_; intro p hp; cases p <;> first | exact hl.no hp (by decide) | exact Eq.refl _)) only [Kept.upd_iff]
    | lift_lets -underBinder
    | intro x
    | with_reducible refine State.armEmerg_kept (hl.of (by decide)) ?_ ..
    | with_reducible refine Kept.foldl (fun s a hs => ?_) ?_ _
    | split

theorem State.emergPre_kept (hl : Within 0x20220 l) (h : Kept l r s) (c : Nat) (sc : Nat) (g : Target) : Kept l r (State.emergPre s c sc g) := by
  unfold State.emergPre
  repeat' first
    | with_reducible assumption
    | (intro x; refine (?_ : Kept l r x → _) ?_ <;> [(intro _; clear_value x); subst x])
    | (intro x; clear_value x)
    | lift_lets -underBinder
    | with_reducible refine State.updSub_kept (hl.of (by decide)) ?_ ..
    | with_reducible refine State.ev_kept (hl.of (by decide)) ?_ ..
    | with_reducible refine Kept.foldl (fun s a hs => ?_) ?_ _
    | split

theorem State.emergTick_kept (hl : Within 0x20220 l) (h : Kept l r s) (c : Nat) (sc : Nat) : Kept l r (State.emergTick s c sc) := by
  unfold State.emergTick
  repeat' first
    | with_reducible assumption
    | (intro x; refine (?_ : Kept l r x → _) ?_ <;> [(intro _; clear_value x); subst x])
    | (intro x; clear_value x)
    | lift_lets -underBinder
    | with_reducible refine State.updSub_kept (hl.of (by decide)) ?_ ..
    | with_reducible refine State.emergPre_kept (hl.of (by decide)) ?_ ..
    | with_reducible refine Kept.foldl (fun s a hs => ?_) ?_ _

theorem State.rateTick_kept (hl : Within 0x620 l) (h : Kept l r s) (c : Nat) : Kept l r (State.rateTick s c) := by
  unfold State.rateTick
  repeat' first
    | with_reducible assumption
    | simp -zeta (disch := (refine Part.all ?_; intro p hp; cases p <;> first | exact hl.no hp (by decide) | exact Eq.refl _)) only [Kept.upd_iff]
    | exact fun _ hx => hx
    | (intro x; refine (?_ : Kept l r x → _) ?_ <;> [(intro _; clear_value x); subst x])
    | (intro x; clear_value x)
    | lift_lets -underBinder
    | with_reducible refine State.updChan_kept (hl.of (by decide)) ?_ ?_ _
    | with_reducible refine State.updSub_kept (hl.of (by decide)) ?_ ..
    | with_reducible refine State.raise_kept (hl.of (by decide)) ?_ ..
    | with_reducible refine State.raiseIf_kept (hl.of (by decide)) ?_ ..
    | with_reducible refine Kept.foldl (fun s a hs => ?_) ?_ _
    | split

end Sys2Proof.Machine
end

