-- ==== Sys2Proof/Laws/KeptDecide.lean ====
section
/-! SUPPORT. What each operation of Machine/Decide.lean leaves alone: one lemma for each. -/
set_option maxRecDepth 4000
namespace Sys2Proof.Machine
variable {l : Nat} {r s : State}

theorem State.advanceClaim_kept (hl : Within 0x200 l) (h : Kept l r s) (c : Nat) (sc : Nat) (a1 : Rec) : Kept l r (State.advanceClaim s c sc a1) := by
  unfold State.advanceClaim
  repeat' first
    | with_reducible assumption
    | (intro x; clear_value x)
    | lift_lets -underBinder
    | with_reducible refine State.updSub_kept (hl.of (by decide)) ?_ ..
    | split

theorem State.burst_kept (hl : Within 0x20000a00 l) (h : Kept l r s) (c : Nat) (sc : Nat) (p : Pos) (w : WLine) (cmds : List Nat) : Kept l r (State.burst s c sc p w cmds) := by
  unfold State.burst
  repeat' first
    | with_reducible assumption
    | simp -zeta (disch := (refine Part.all ?_; intro p hp; cases p <;> first | exact hl.no hp (by decide) | exact Eq.refl _)) only [Kept.upd_iff]
    | (intro x; refine (?_ : Kept l r x → _) ?_ <;> [(intro _; clear_value x); subst x])
    | (intro x; clear_value x)
    | lift_lets -underBinder
    | with_reducible refine State.writeLine_kept (hl.of (by decide)) ?_ ..
    | with_reducible refine State.mirror_kept (hl.of (by decide)) ?_ ..
    | with_reducible refine State.updSub_kept (hl.of (by decide)) ?_ ..

theorem State.closeRow_kept (hl : Within 0x20220 l) (h : Kept l r s) (c : Nat) (sc : Nat) (bank : Nat) (act : Nat) : Kept l r (State.closeRow s c sc bank act) := by
  unfold State.closeRow
  repeat' first
    | with_reducible assumption
    | simp -zeta (disch := (refine Part.all ?_; intro p hp; cases p <;> first | exact hl.no hp (by decide) | exact Eq.refl _)) only [Kept.upd_iff]
    | (intro x; refine (?_ : Kept l r x → _) ?_ <;> [(intro _; clear_value x); subst x])
    | (intro x; clear_value x)
    | lift_lets -underBinder
    | with_reducible refine State.updSub_kept (hl.of (by decide)) ?_ ..
    | with_reducible refine State.ev_kept (hl.of (by decide)) ?_ ..
    | split

theorem State.commands_kept (hl : Within 0x20220 l) (h : Kept l r s) (c : Nat) (sc : Nat) (p : Pos) (col : Bool) (a1 : Req) : Kept l r (State.commands s c sc p col a1) := by
  unfold State.commands
  repeat' first
    | with_reducible assumption
    | simp -zeta (disch := (refine Part.all ?_; intro p hp; cases p <;> first | exact hl.no hp (by decide) | exact Eq.refl _)) only [Kept.upd_iff]
    | (intro x; refine (?_ : Kept l r x → _) ?_ <;> [(intro _; clear_value x); subst x])
    | (intro x; clear_value x)
    | lift_lets -underBinder
    | with_reducible refine State.closeRow_kept (hl.of (by decide)) ?_ ..
    | with_reducible refine State.updSub_kept (hl.of (by decide)) ?_ ..
    | with_reducible refine State.ev_kept (hl.of (by decide)) ?_ ..
    | split

theorem State.countExc_kept (hl : Within 0x20220 l) (h : Kept l r s) (c : Nat) (sc : Nat) (sn : Nat) (n : Nat) (p : Pos) : Kept l r (State.countExc s c sc sn n p) := by
  unfold State.countExc
  repeat' first
    | with_reducible assumption
    | simp -zeta (disch := (refine Part.all ?_; intro p hp; cases p <;> first | exact hl.no hp (by decide) | exact Eq.refl _)) only [Kept.upd_iff]
    | (intro x; refine (?_ : Kept l r x → _) ?_ <;> [(intro _; clear_value x); subst x])
    | (intro x; clear_value x)
    | lift_lets -underBinder
    | with_reducible refine State.updSub_kept (hl.of (by decide)) ?_ ..
    | with_reducible refine State.ev_kept (hl.of (by decide)) ?_ ..
    | split

theorem State.countRetry_kept (hl : Within 0x20220 l) (h : Kept l r s) (c : Nat) (sc : Nat) (p : Pos) (w : WLine) : Kept l r (State.countRetry s c sc p w) := by
  unfold State.countRetry
  repeat' first
    | with_reducible assumption
    | (intro x; refine (?_ : Kept l r x → _) ?_ <;> [(intro _; clear_value x); subst x])
    | lift_lets -underBinder
    | with_reducible refine State.updSub_kept (hl.of (by decide)) ?_ ..
    | with_reducible refine State.ev_kept (hl.of (by decide)) ?_ ..
    | split

theorem State.flexDecide_kept (hl : Within 0x200 l) (h : Kept l r s) (c : Nat) (sc : Nat) (p : Pos) : Kept l r (State.flexDecide s c sc p) := by
  unfold State.flexDecide
  repeat' first
    | with_reducible assumption
    | (intro x; refine (?_ : Kept l r x → _) ?_ <;> [(intro _; clear_value x); subst x])
    | simp -zeta (disch := (refine Part.all ?_; intro p hp; cases p <;> first | exact hl.no hp (by decide) | exact Eq.refl _)) only [Kept.upd_iff]
    | (intro x; clear_value x)
    | lift_lets -underBinder
    | with_reducible refine State.updSub_kept (hl.of (by decide)) ?_ ..
    | split

theorem State.countHeld_kept (hl : Within 0x20220 l) (h : Kept l r s) (c : Nat) (sc : Nat) (p : Pos) (a1 : Rec) : Kept l r (State.countHeld s c sc p a1) := by
  unfold State.countHeld
  repeat' first
    | with_reducible assumption
    | exact fun _ hx => hx
    | (intro x; refine (?_ : Kept l r x → _) ?_ <;> [(intro _; clear_value x); subst x])
    | (intro x; clear_value x)
    | lift_lets -underBinder
    | simp -zeta (disch := (refine Part.all ?_; intro p hp; cases p <;> first | exact hl.no hp (by decide) | exact Eq.refl _)) only [Kept.upd_iff]
    | with_reducible refine State.countExc_kept (hl.of (by decide)) ?_ ..
    | split

theorem State.heldG_kept (hl : Within 0x20220 l) (h : Kept l r s) (c : Nat) (sc : Nat) (p : Pos) (e : Entry) (a1 : How) : Kept l r (State.heldG s c sc p e a1) := by
  unfold State.heldG
  repeat' first
    | with_reducible assumption
    | exact fun _ hx => hx
    | (intro x; refine (?_ : Kept l r x → _) ?_ <;> [(intro _; clear_value x); subst x])
    | (intro x; clear_value x)
    | lift_lets -underBinder
    | simp -zeta (disch := (refine Part.all ?_; intro p hp; cases p <;> first | exact hl.no hp (by decide) | exact Eq.refl _)) only [Kept.upd_iff]
    | with_reducible refine State.countHeld_kept (hl.of (by decide)) ?_ ..
    | split

theorem State.displace_kept (hl : Within 0x20220 l) (h : Kept l r s) (c : Nat) (sc : Nat) (p : Pos) (e : Entry) (n : Nat) : Kept l r (State.displace s c sc p e n) := by
  unfold State.displace
  repeat' first
    | with_reducible assumption
    | (intro x; refine (?_ : Kept l r x → _) ?_ <;> [(intro _; clear_value x); subst x])
    | (intro x; clear_value x)
    | simp -zeta (disch := (refine Part.all ?_; intro p hp; cases p <;> first | exact hl.no hp (by decide) | exact Eq.refl _)) only [Kept.upd_iff]
    | lift_lets -underBinder
    | with_reducible refine State.countExc_kept (hl.of (by decide)) ?_ ..
    | with_reducible refine State.advanceClaim_kept (hl.of (by decide)) ?_ ..
    | with_reducible refine State.heldG_kept (hl.of (by decide)) ?_ ..
    | with_reducible refine State.countHeld_kept (hl.of (by decide)) ?_ ..
    | split

theorem State.mrExec_kept (hl : Within 0x400 l) (h : Kept l r s) (c : Nat) (sc : Nat) (rk : Nat) (z : Sense) : Kept l r (State.mrExec s c sc rk z) := by
  unfold State.mrExec
  repeat' first
    | with_reducible assumption
    | exact fun _ hx => hx
    | (intro x; refine (?_ : Kept l r x → _) ?_ <;> [(intro _; clear_value x); subst x])
    | simp -zeta (disch := (refine Part.all ?_; intro p hp; cases p <;> first | exact hl.no hp (by decide) | exact Eq.refl _)) only [Kept.upd_iff]
    | (refine fun _ hx => ?_; revert hx; (repeat' split) <;> exact id)
    | (intro x; clear_value x)
    | lift_lets -underBinder
    | with_reducible refine State.updChan_kept (hl.of (by decide)) ?_ ?_ _
    | split

theorem State.serveRetry_kept (hl : Within 0x20020a20 l) (h : Kept l r s) (c : Nat) (sc : Nat) (p : Pos) (w : WLine) : Kept l r (State.serveRetry s c sc p w) := by
  unfold State.serveRetry
  repeat' first
    | with_reducible assumption
    | simp -zeta (disch := (refine Part.all ?_; intro p hp; cases p <;> first | exact hl.no hp (by decide) | exact Eq.refl _)) only [Kept.upd_iff]
    | (intro x; refine (?_ : Kept l r x → _) ?_ <;> [(intro _; clear_value x); subst x])
    | (intro x; clear_value x)
    | lift_lets -underBinder
    | with_reducible refine State.burst_kept (hl.of (by decide)) ?_ ..
    | with_reducible refine State.commands_kept (hl.of (by decide)) ?_ ..
    | with_reducible refine State.updSub_kept (hl.of (by decide)) ?_ ..
    | with_reducible refine State.ev_kept (hl.of (by decide)) ?_ ..
    | with_reducible refine State.countRetry_kept (hl.of (by decide)) ?_ ..
    | with_reducible refine State.quad_kept (hl.of (by decide)) ?_ ..
    | split

theorem State.serveCrown_kept (hl : Within 0x200a0a20 l) (h : Kept l r s) (c : Nat) (sc : Nat) (p : Pos) (a : CrnAcc) : Kept l r (State.serveCrown s c sc p a) := by
  unfold State.serveCrown
  repeat' first
    | with_reducible assumption
    | (intro x; refine (?_ : Kept l r x → _) ?_ <;> [(intro _; clear_value x); subst x])
    | (intro x; clear_value x)
    | lift_lets -underBinder
    | simp -zeta (disch := (refine Part.all ?_; intro p hp; cases p <;> first | exact hl.no hp (by decide) | exact Eq.refl _)) only [Kept.upd_iff]
    | with_reducible refine State.updSub_kept (hl.of (by decide)) ?_ ..
    | with_reducible refine State.commands_kept (hl.of (by decide)) ?_ ..
    | with_reducible refine State.writeLine_kept (hl.of (by decide)) ?_ ..
    | with_reducible refine State.mirror_kept (hl.of (by decide)) ?_ ..
    | with_reducible refine State.quad_kept (hl.of (by decide)) ?_ ..
    | split

theorem State.serve_kept (hl : Within 0x20020e20 l) (h : Kept l r s) (c : Nat) (sc : Nat) (p : Pos) (a1 : Rec) (a2 : How) (z : Sense) : Kept l r (State.serve s c sc p a1 a2 z) := by
  unfold State.serve
  repeat' first
    | with_reducible assumption
    | simp -zeta (disch := (refine Part.all ?_; intro p hp; cases p <;> first | exact hl.no hp (by decide) | exact Eq.refl _)) only [Kept.upd_iff]
    | (intro x; refine (?_ : Kept l r x → _) ?_ <;> [(intro _; clear_value x); subst x])
    | (intro x; clear_value x)
    | lift_lets -underBinder
    | with_reducible refine State.countExc_kept (hl.of (by decide)) ?_ ..
    | with_reducible refine State.updSub_kept (hl.of (by decide)) ?_ ..
    | with_reducible refine State.ev_kept (hl.of (by decide)) ?_ ..
    | with_reducible refine State.quad_kept (hl.of (by decide)) ?_ ..
    | with_reducible refine State.burst_kept (hl.of (by decide)) ?_ ..
    | with_reducible refine State.commands_kept (hl.of (by decide)) ?_ ..
    | with_reducible refine State.track_kept (hl.of (by decide)) ?_ ..
    | with_reducible refine State.raise_kept (hl.of (by decide)) ?_ ..
    | with_reducible refine State.discard_kept (hl.of (by decide)) ?_ ..
    | split

theorem State.heldHead_kept (hl : Within 0x20220 l) (h : Kept l r s) (c : Nat) (sc : Nat) (p : Pos) (a1 : Rec) : Kept l r (State.heldHead s c sc p a1) := by
  unfold State.heldHead
  repeat' first
    | with_reducible assumption
    | (intro x; refine (?_ : Kept l r x → _) ?_ <;> [(intro _; clear_value x); subst x])
    | lift_lets -underBinder
    | with_reducible refine State.ev_kept (hl.of (by decide)) ?_ ..
    | with_reducible refine State.countExc_kept (hl.of (by decide)) ?_ ..
    | with_reducible refine State.countHeld_kept (hl.of (by decide)) ?_ ..
    | split

theorem State.noteCa_kept (hl : Within 0x200 l) (h : Kept l r s) (c : Nat) (sc : Nat) (p : Pos) (n : Nat) : Kept l r (State.noteCa s c sc p n) := by
  unfold State.noteCa
  repeat' first
    | with_reducible assumption
    | exact fun _ hx => hx
    | (intro x; refine (?_ : Kept l r x → _) ?_ <;> [(intro _; clear_value x); subst x])
    | (intro x; clear_value x)
    | lift_lets -underBinder
    | simp -zeta (disch := (refine Part.all ?_; intro p hp; cases p <;> first | exact hl.no hp (by decide) | exact Eq.refl _)) only [Kept.upd_iff]
    | with_reducible refine State.updSub_kept (hl.of (by decide)) ?_ ..

theorem State.noteBurst_kept (hl : Within 0x200 l) (h : Kept l r s) (c : Nat) (sc : Nat) (p : Pos) (rk : Nat) (write : Bool) : Kept l r (State.noteBurst s c sc p rk write) := by
  unfold State.noteBurst
  repeat' first
    | with_reducible assumption
    | exact fun _ hx => hx
    | simp -zeta (disch := (refine Part.all ?_; intro p hp; cases p <;> first | exact hl.no hp (by decide) | exact Eq.refl _)) only [Kept.upd_iff]
    | with_reducible refine State.updSub_kept (hl.of (by decide)) ?_ ..
    | with_reducible refine State.noteCa_kept (hl.of (by decide)) ?_ ..

theorem State.mrsEntry_kept (hl : Within 0x600 l) (h : Kept l r s) (c sc : Nat) (slot : Pos) (rk : Nat) (z : Sense) : Kept l r (State.mrsEntry s c sc slot rk z) := by
  unfold State.mrsEntry
  repeat' first
    | with_reducible assumption
    | simp -zeta (disch := (refine Part.all ?_; intro p hp; cases p <;> first | exact hl.no hp (by decide) | exact Eq.refl _)) only [Kept.upd_iff]
    | (intro x; refine (?_ : Kept l r x → _) ?_ <;> [(intro _; clear_value x); subst x])
    | (intro x; clear_value x)
    | lift_lets -underBinder
    | with_reducible refine State.noteBurst_kept (hl.of (by decide)) ?_ ..
    | with_reducible refine State.updSub_kept (hl.of (by decide)) ?_ ..
    | with_reducible refine State.balMrs_kept (hl.of (by decide)) ?_ (ht := by assumption) ..
    | with_reducible refine State.mrExec_kept (hl.of (by decide)) ?_ ..
    | with_reducible refine State.noteCa_kept (hl.of (by decide)) ?_ ..
    | split

theorem State.lendSlot_kept (hl : Within 0x80020620 l) (h : Kept l r s) (c sc : Nat) (p : Pos) (rk : Nat) (z : Sense) : Kept l r (State.lendSlot s c sc p rk z) := by
  unfold State.lendSlot
  repeat' first
    | with_reducible assumption
    | with_reducible refine State.noteBurst_kept (hl.of (by decide)) ?_ ..
    | with_reducible refine State.lend_kept (hl.of (by decide)) ?_ (ht := by assumption) ..
    | split

theorem State.idleEntry_kept (hl : Within 0x80020620 l) (h : Kept l r s) (c : Nat) (sc : Nat) (p : Pos) (e : Entry) (z : Sense) : Kept l r (State.idleEntry s c sc p e z) := by
  unfold State.idleEntry
  repeat' first
    | with_reducible assumption
    | (intro x; refine (?_ : Kept l r x → _) ?_ <;> [(intro _; clear_value x); subst x])
    | (intro x; clear_value x)
    | lift_lets -underBinder
    | with_reducible refine State.lendSlot_kept (hl.of (by decide)) ?_ ..
    | with_reducible refine State.quad_kept (hl.of (by decide)) ?_ ..
    | split

theorem State.serveEntry_kept (hl : Within 0xa00a0e20 l) (h : Kept l r s) (c : Nat) (sc : Nat) (p : Pos) (e : Entry) (z : Sense) : Kept l r (State.serveEntry s c sc p e z) := by
  unfold State.serveEntry
  repeat' first
    | with_reducible assumption
    | simp -zeta (disch := (refine Part.all ?_; intro p hp; cases p <;> first | exact hl.no hp (by decide) | exact Eq.refl _)) only [Kept.upd_iff]
    | (intro x; refine (?_ : Kept l r x → _) ?_ <;> [(intro _; clear_value x); subst x])
    | (intro x; clear_value x)
    | lift_lets -underBinder
    | with_reducible refine State.serveRetry_kept (hl.of (by decide)) ?_ ..
    | with_reducible refine State.displace_kept (hl.of (by decide)) ?_ ..
    | with_reducible refine State.serveCrown_kept (hl.of (by decide)) ?_ ..
    | with_reducible refine State.serve_kept (hl.of (by decide)) ?_ ..
    | with_reducible refine State.heldHead_kept (hl.of (by decide)) ?_ ..
    | with_reducible refine State.ev_kept (hl.of (by decide)) ?_ ..
    | with_reducible refine State.idleEntry_kept (hl.of (by decide)) ?_ ..
    | with_reducible refine State.quad_kept (hl.of (by decide)) ?_ ..
    | with_reducible refine State.heldG_kept (hl.of (by decide)) ?_ ..
    | split

theorem State.delay_kept (hl : Within 0x200 l) (h : Kept l r s) (c : Nat) (sc : Nat) (p : Pos) (e : Entry) (n : Nat) : Kept l r (State.delay s c sc p e n) := by
  unfold State.delay
  repeat' first
    | with_reducible assumption
    | exact fun _ hx => hx
    | (intro x; refine (?_ : Kept l r x → _) ?_ <;> [(intro _; clear_value x); subst x])
    | (intro x; clear_value x)
    | lift_lets -underBinder
    | simp -zeta (disch := (refine Part.all ?_; intro p hp; cases p <;> first | exact hl.no hp (by decide) | exact Eq.refl _)) only [Kept.upd_iff]
    | with_reducible refine State.updSub_kept (hl.of (by decide)) ?_ ..
    | split

theorem State.decideAt_kept (hl : Within 0xa00a0e20 l) (h : Kept l r s) (c : Nat) (sc : Nat) (p : Pos) (z : Sense) : Kept l r (State.decideAt s c sc p z) := by
  have hp : ∀ s, Kept l r s → Kept l r (s.quad c sc .planIdle (some p) none) := fun _ hs => State.quad_kept (hl.of (by decide)) hs ..
  unfold State.decideAt
  extract_lets a b e plan s1
  have hb : Kept l r b := State.decideWins_kept (hl.of (by decide)) (State.flexDecide_kept (hl.of (by decide)) h ..) ..
  have hs1 : Kept l r s1 := by
    show Kept l r (ite _ _ _)
    split
    · exact hb
    · exact State.closeRow_kept (hl.of (by decide)) hb ..
  clear_value s1 e b
  repeat' first
    | with_reducible exact hb
    | with_reducible refine State.quad_kept (hl.of (by decide)) ?_ ..
    | with_reducible exact State.serveEntry_kept (hl.of (by decide)) hs1 ..
    | with_reducible refine hp _ ?_
    | (simp -zeta only [plan]; done)
    | (show Kept l r (State.quad _ c sc _ _ _); with_reducible refine hp _ ?_)
    | with_reducible refine State.serveEntry_kept (hl.of (by decide)) ?_ ..
    | with_reducible refine State.displace_kept (hl.of (by decide)) ?_ ..
    | with_reducible refine State.mrsEntry_kept (hl.of (by decide)) ?_ ..
    | with_reducible refine State.closeRow_kept (hl.of (by decide)) ?_ ..
    | with_reducible refine State.lendSlot_kept (hl.of (by decide)) ?_ ..
    | (intro x; refine (?_ : Kept l r x → _) ?_ <;> [(intro _; clear_value x); subst x])
    | with_reducible assumption
    | (intro x; clear_value x)
    | lift_lets -underBinder
    | simp -zeta (disch := (refine Part.all ?_; intro p hp; cases p <;> first | exact hl.no hp (by decide) | exact Eq.refl _)) only [Kept.upd_iff]
    | with_reducible refine State.noteBurst_kept (hl.of (by decide)) ?_ ..
    | with_reducible refine State.delay_kept (hl.of (by decide)) ?_ ..
    | split

theorem State.mrOffline_kept (hl : Within 0x400 l) (h : Kept l r s) (c : Nat) (sc : Nat) (p : Pos) (z : Sense) : Kept l r (State.mrOffline s c sc p z) := by
  unfold State.mrOffline
  repeat' first
    | with_reducible assumption
    | exact fun _ hx => hx
    | (intro x; refine (?_ : Kept l r x → _) ?_ <;> [(intro _; clear_value x); subst x])
    | simp -zeta (disch := (refine Part.all ?_; intro p hp; cases p <;> first | exact hl.no hp (by decide) | exact Eq.refl _)) only [Kept.upd_iff]
    | (intro x; clear_value x)
    | lift_lets -underBinder
    | with_reducible refine State.mrExec_kept (hl.of (by decide)) ?_ ..
    | with_reducible refine State.updChan_kept (hl.of (by decide)) ?_ ?_ _
    | split

theorem State.prune_kept (hl : Within 0x200 l) (h : Kept l r s) (c : Nat) (sc : Nat) (p : Pos) : Kept l r (State.prune s c sc p) := by
  unfold State.prune
  repeat' first
    | with_reducible assumption
    | (intro x; refine (?_ : Kept l r x → _) ?_ <;> [(intro _; clear_value x); subst x])
    | simp -zeta (disch := (refine Part.all ?_; intro p hp; cases p <;> first | exact hl.no hp (by decide) | exact Eq.refl _)) only [Kept.upd_iff]
    | (intro x; clear_value x)
    | lift_lets -underBinder
    | with_reducible refine State.updSub_kept (hl.of (by decide)) ?_ ..

theorem State.preDue_kept (hl : Within 0x20220 l) (h : Kept l r s) (c : Nat) (sc : Nat) (p : Pos) : Kept l r (State.preDue s c sc p) := by
  unfold State.preDue
  repeat' first
    | with_reducible assumption
    | exact fun _ hx => hx
    | (intro x; refine (?_ : Kept l r x → _) ?_ <;> [(intro _; clear_value x); subst x])
    | (intro x; clear_value x)
    | lift_lets -underBinder
    | simp -zeta (disch := (refine Part.all ?_; intro p hp; cases p <;> first | exact hl.no hp (by decide) | exact Eq.refl _)) only [Kept.upd_iff]
    | with_reducible refine State.closeRow_kept (hl.of (by decide)) ?_ ..
    | with_reducible refine Kept.foldl (fun s a hs => ?_) ?_ _
    | split

theorem State.decisionPoint_kept (hl : Within 0xa01a1f62 l) (h : Kept l r s) (c : Nat) (sc : Nat) (z : Sense) : Kept l r (State.decisionPoint s c sc z) := by
  unfold State.decisionPoint
  repeat' first
    | with_reducible assumption
    | simp -zeta (disch := (refine Part.all ?_; intro p hp; cases p <;> first | exact hl.no hp (by decide) | exact Eq.refl _)) only [Kept.upd_iff]
    | (intro x; refine (?_ : Kept l r x → _) ?_ <;> [(intro _; clear_value x); subst x])
    | (intro x; clear_value x)
    | lift_lets -underBinder
    | with_reducible refine State.goto_kept (hl.of (by decide)) ?_ ..
    | with_reducible refine State.drainActs_kept (hl.of (by decide)) ?_ ..
    | with_reducible refine State.updSub_kept (hl.of (by decide)) ?_ ..
    | with_reducible refine State.quad_kept (hl.of (by decide)) ?_ ..
    | with_reducible refine State.mrOffline_kept (hl.of (by decide)) ?_ ..
    | with_reducible refine State.prune_kept (hl.of (by decide)) ?_ ..
    | with_reducible refine State.decideAt_kept (hl.of (by decide)) ?_ ..
    | with_reducible refine State.preDue_kept (hl.of (by decide)) ?_ ..
    | split

theorem State.updLe_kept (hl : Within 0x4000000 l) (h : Kept l r s) (e : Nat) (f : Le → Le) : Kept l r (State.updLe s e f) := by
  exact (Kept.upd_iff (fun p hp => by cases p <;> first | exact hl.no hp (by decide) | exact Eq.refl _)).mpr h

end Sys2Proof.Machine
end

