-- ==== Sys2Proof/Laws/KeptEnqueue.lean ====
section
/-! SUPPORT. What each operation of Machine/Enqueue.lean leaves alone: one lemma for each. -/
set_option maxRecDepth 4000
namespace Sys2Proof.Machine
variable {l : Nat} {r s : State}

theorem State.wake_kept (hl : Within 0x400 l) (h : Kept l r s) (c : Nat) (tw : Nat) : Kept l r (State.wake s c tw) := by
  unfold State.wake
  repeat' first
    | with_reducible assumption
    | exact fun _ hx => hx
    | with_reducible refine State.updChan_kept (hl.of (by decide)) ?_ ?_ _
    | split

theorem State.updScrub_kept (hl : Within 0x400 l) (h : Kept l r s) (c : Nat) (f : Scrub → Scrub) : Kept l r (State.updScrub s c f) := by
  unfold State.updScrub
  repeat' first
    | with_reducible assumption
    | exact fun _ hx => hx
    | with_reducible refine State.updChan_kept (hl.of (by decide)) ?_ ?_ _

theorem State.respond_kept (hl : Within 0x21420 l) (h : Kept l r s) (c : Nat) (t : Nat) (a1 : Resp) : Kept l r (State.respond s c t a1) := by
  unfold State.respond
  repeat' first
    | with_reducible assumption
    | with_reducible refine State.inject_kept (hl.of (by decide)) ?_ ..
    | split

theorem State.answerOffline_kept (hl : Within 0x21420 l) (h : Kept l r s) (c : Nat) (tend : Nat) (a1 : Req) : Kept l r (State.answerOffline s c tend a1) := by
  unfold State.answerOffline
  repeat' first
    | with_reducible assumption
    | with_reducible refine State.updScrub_kept (hl.of (by decide)) ?_ ..
    | with_reducible refine State.respond_kept (hl.of (by decide)) ?_ ..
    | split

theorem State.scrubRaise_kept (hl : Within 0x400 l) (h : Kept l r s) (c : Nat) : Kept l r (State.scrubRaise s c) := by
  unfold State.scrubRaise
  repeat' first
    | with_reducible assumption
    | (intro x; clear_value x)
    | lift_lets -underBinder
    | with_reducible refine State.updScrub_kept (hl.of (by decide)) ?_ ..
    | split

theorem State.scrubNote_kept (hl : Within 0x20420 l) (h : Kept l r s) (c : Nat) (a1 : Req) : Kept l r (State.scrubNote s c a1) := by
  unfold State.scrubNote
  repeat' first
    | with_reducible assumption
    | exact fun _ hx => hx
    | (intro x; (have _ht : State → _ := x); clear _ht)
    | (intro x; clear_value x)
    | lift_lets -underBinder
    | with_reducible refine State.updChan_kept (hl.of (by decide)) ?_ ?_ _
    | with_reducible refine State.ev_kept (hl.of (by decide)) ?_ ..
    | with_reducible refine State.scrubRaise_kept (hl.of (by decide)) ?_ ..
    | split

theorem State.enter_kept (hl : Within 0x25620 l) (h : Kept l r s) (c : Nat) (sc : Nat) (a1 : Req) (g : Bool) (p : Pos) (tend : Nat) : Kept l r (State.enter s c sc a1 g p tend) := by
  unfold State.enter
  repeat' first
    | with_reducible assumption
    | (intro x; refine (?_ : Kept l r x → _) ?_ <;> [(intro _; clear_value x); subst x])
    | (intro x; clear_value x)
    | lift_lets -underBinder
    | simp -zeta (disch := (refine Part.all ?_; intro p hp; cases p <;> first | exact hl.no hp (by decide) | exact Eq.refl _)) only [Kept.upd_iff]
    | with_reducible refine State.updSub_kept (hl.of (by decide)) ?_ ..
    | with_reducible refine State.raiseIf_kept (hl.of (by decide)) ?_ ..
    | with_reducible refine State.scrubNote_kept (hl.of (by decide)) ?_ ..
    | with_reducible refine State.ev_kept (hl.of (by decide)) ?_ ..
    | with_reducible refine State.respond_kept (hl.of (by decide)) ?_ ..
    | split

theorem State.enqueue_kept (hl : Within 0x25620 l) (h : Kept l r s) (c : Nat) (a1 : Req) (tend : Nat) : Kept l r (State.enqueue s c a1 tend) := by
  unfold State.enqueue
  repeat' first
    | with_reducible assumption
    | simp -zeta (disch := (refine Part.all ?_; intro p hp; cases p <;> first | exact hl.no hp (by decide) | exact Eq.refl _)) only [Kept.upd_iff]
    | exact fun _ hx => hx
    | (intro x; refine (?_ : Kept l r x → _) ?_ <;> [(intro _; clear_value x); subst x])
    | (intro x; clear_value x)
    | lift_lets -underBinder
    | with_reducible refine State.scrubRaise_kept (hl.of (by decide)) ?_ ..
    | with_reducible refine State.updScrub_kept (hl.of (by decide)) ?_ ..
    | with_reducible refine State.ev_kept (hl.of (by decide)) ?_ ..
    | with_reducible refine State.answerOffline_kept (hl.of (by decide)) ?_ ..
    | with_reducible refine State.raiseIf_kept (hl.of (by decide)) ?_ ..
    | with_reducible refine State.inject_kept (hl.of (by decide)) ?_ ..
    | with_reducible refine State.updChan_kept (hl.of (by decide)) ?_ ?_ _
    | with_reducible refine State.enter_kept (hl.of (by decide)) ?_ ..
    | with_reducible refine State.wake_kept (hl.of (by decide)) ?_ ..
    | split

end Sys2Proof.Machine
end

