-- ==== Sys2Proof/Laws/KeptGateway.lean ====
section
/-! SUPPORT. What each operation of Machine/Gateway.lean leaves alone: one lemma for each. -/
set_option maxRecDepth 4000
namespace Sys2Proof.Machine
variable {l : Nat} {r s : State}

theorem State.gwFlush_kept (hl : Within 0x21120 l) (h : Kept l r s) (g : Nat) : Kept l r (State.gwFlush s g) := by
  unfold State.gwFlush
  repeat' first
    | with_reducible assumption
    | simp -zeta (disch := (refine Part.all ?_; intro p hp; cases p <;> first | exact hl.no hp (by decide) | exact Eq.refl _)) only [Kept.upd_iff]
    | with_reducible refine State.raise_kept (hl.of (by decide)) ?_ ..
    | with_reducible refine State.updGw_kept (hl.of (by decide)) ?_ ..
    | with_reducible refine State.flushItems_kept (hl.of (by decide)) ?_ ..
    | split

theorem State.ackReceived_kept (hl : Within 0x100 l) (h : Kept l r s) (g : Nat) (ack : Nat) : Kept l r (State.ackReceived s g ack) := by
  unfold State.ackReceived
  repeat' first
    | with_reducible assumption
    | (intro x; refine (?_ : Kept l r x → _) ?_ <;> [(intro _; clear_value x); subst x])
    | simp -zeta (disch := (refine Part.all ?_; intro p hp; cases p <;> first | exact hl.no hp (by decide) | exact Eq.refl _)) only [Kept.upd_iff]
    | (intro x; clear_value x)
    | lift_lets -underBinder
    | with_reducible refine State.updGw_kept (hl.of (by decide)) ?_ ..
    | split

theorem State.cutTrains_kept (hl : Within 0x1400 l) (h : Kept l r s) (sel : Req → Bool) : Kept l r (State.cutTrains s sel).1 := by
  unfold State.cutTrains
  repeat' first
    | with_reducible assumption
    | exact fun _ hx => hx
    | simp -zeta (disch := (refine Part.all ?_; intro p hp; cases p <;> first | exact hl.no hp (by decide) | exact Eq.refl _)) only [Kept.upd_iff]
    | with_reducible refine State.updChan_kept (hl.of (by decide)) ?_ ?_ _
    | with_reducible refine Kept.foldl (fun s a hs => ?_) ?_ _

theorem State.forgetLosses_kept (hl : Within 0x400 l) (h : Kept l r s) (i : Nat) (on : Nat → Bool) : Kept l r (State.forgetLosses s i on) := by
  unfold State.forgetLosses
  repeat' first
    | with_reducible assumption
    | exact fun _ hx => hx
    | (intro x; refine (?_ : Kept l r x → _) ?_ <;> [(intro _; clear_value x); subst x])
    | (intro x; clear_value x)
    | lift_lets -underBinder
    | simp -zeta (disch := (refine Part.all ?_; intro p hp; cases p <;> first | exact hl.no hp (by decide) | exact Eq.refl _)) only [Kept.upd_iff]
    | with_reducible refine State.updChan_kept (hl.of (by decide)) ?_ ?_ _
    | with_reducible refine Kept.foldl (fun s a hs => ?_) ?_ _

theorem State.portGone_kept (hl : Within 0x21520 l) (h : Kept l r s) (g : Nat) : Kept l r (State.portGone s g) := by
  unfold State.portGone
  repeat' first
    | with_reducible assumption
    | exact fun _ hx => hx
    | (intro x; refine (?_ : Kept l r x → _) ?_ <;> [(intro _; clear_value x); subst x])
    | (intro x; refine (?_ : Kept l r x.1 → _) ?_ <;> [(intro _; clear_value x); subst x])
    | (intro x; clear_value x)
    | lift_lets -underBinder
    | simp -zeta (disch := (refine Part.all ?_; intro p hp; cases p <;> first | exact hl.no hp (by decide) | exact Eq.refl _)) only [Kept.upd_iff]
    | with_reducible refine State.flushItems_kept (hl.of (by decide)) ?_ ..
    | with_reducible refine State.cutTrains_kept (hl.of (by decide)) ?_ ..
    | with_reducible refine State.updGw_kept (hl.of (by decide)) ?_ ..
    | with_reducible refine State.updChan_kept (hl.of (by decide)) ?_ ?_ _
    | with_reducible refine State.forgetLosses_kept (hl.of (by decide)) ?_ ..
    | with_reducible refine Kept.foldl (fun s a hs => ?_) ?_ _
    | split

theorem State.aliveFall_kept (hl : Within 0x21560 l) (h : Kept l r s) (g : Nat) : Kept l r (State.aliveFall s g) := by
  unfold State.aliveFall
  repeat' first
    | with_reducible assumption
    | with_reducible refine State.portGone_kept (hl.of (by decide)) ?_ ..
    | with_reducible refine State.setLink_kept (hl.of (by decide)) ?_ ..
    | with_reducible refine State.updGw_kept (hl.of (by decide)) ?_ ..
    | with_reducible refine State.raise_kept (hl.of (by decide)) ?_ ..
    | split

theorem State.aliveRise_kept (hl : Within 0x120 l) (h : Kept l r s) (g : Nat) : Kept l r (State.aliveRise s g) := by
  unfold State.aliveRise
  repeat' first
    | with_reducible assumption
    | (intro x; refine (?_ : Kept l r x → _) ?_ <;> [(intro _; clear_value x); subst x])
    | (intro x; clear_value x)
    | lift_lets -underBinder
    | simp -zeta (disch := (refine Part.all ?_; intro p hp; cases p <;> first | exact hl.no hp (by decide) | exact Eq.refl _)) only [Kept.upd_iff]
    | with_reducible refine State.updGw_kept (hl.of (by decide)) ?_ ..
    | with_reducible refine State.raise_kept (hl.of (by decide)) ?_ ..
    | split

theorem State.bounceArrives_kept (hl : Within 0x121562 l) (h : Kept l r s) (g : Nat) : Kept l r (State.bounceArrives s g) := by
  unfold State.bounceArrives
  repeat' first
    | with_reducible assumption
    | (intro x; refine (?_ : Kept l r x → _) ?_ <;> [intro _; subst x])
    | (intro x; clear_value x)
    | lift_lets -underBinder
    | intro x
    | simp -zeta (disch := (refine Part.all ?_; intro p hp; cases p <;> first | exact hl.no hp (by decide) | exact Eq.refl _)) only [Kept.upd_iff]
    | with_reducible refine State.goto_kept (hl.of (by decide)) ?_ ..
    | with_reducible refine State.ev_kept (hl.of (by decide)) ?_ ..
    | with_reducible refine State.updGw_kept (hl.of (by decide)) ?_ ..
    | with_reducible refine State.raiseC_kept (hl.of (by decide)) ?_ ..
    | split
    | with_reducible refine Kept.foldl (fun s a hs => ?_) ?_ _

theorem State.bouncesTo_kept (hl : Within 0x121562 l) (h : Kept l r s) (g : Nat) (t : Nat) : Kept l r (State.bouncesTo s g t) := by
  unfold State.bouncesTo
  repeat' first
    | with_reducible assumption
    | with_reducible refine State.bounceArrives_kept (hl.of (by decide)) ?_ ..
    | with_reducible refine Kept.foldl (fun s a hs => ?_) ?_ _

theorem State.asideRelease_kept (hl : Within 0x121562 l) (h : Kept l r s) (g : Nat) : Kept l r (State.asideRelease s g) := by
  unfold State.asideRelease
  repeat' first
    | with_reducible assumption
    | simp -zeta (disch := (refine Part.all ?_; intro p hp; cases p <;> first | exact hl.no hp (by decide) | exact Eq.refl _)) only [Kept.upd_iff]
    | (intro x; refine (?_ : Kept l r x → _) ?_ <;> [(intro _; clear_value x); subst x])
    | (intro x; clear_value x)
    | lift_lets -underBinder
    | with_reducible refine State.goto_kept (hl.of (by decide)) ?_ ..
    | with_reducible refine State.bouncesTo_kept (hl.of (by decide)) ?_ ..
    | with_reducible refine State.updGw_kept (hl.of (by decide)) ?_ ..
    | with_reducible refine State.raiseC_kept (hl.of (by decide)) ?_ ..
    | with_reducible refine State.classLine_kept (hl.of (by decide)) ?_ ..
    | with_reducible refine State.g4Retry_kept (hl.of (by decide)) ?_ ..
    | split

theorem State.portDown_kept (hl : Within 0x21560 l) (h : Kept l r s) (g : Nat) : Kept l r (State.portDown s g) := by
  unfold State.portDown
  repeat' first
    | with_reducible assumption
    | lift_lets -underBinder
    | with_reducible refine State.raise_kept (hl.of (by decide)) ?_ ..
    | with_reducible refine State.portGone_kept (hl.of (by decide)) ?_ ..
    | with_reducible refine State.setLink_kept (hl.of (by decide)) ?_ ..

theorem State.linkCrc_kept (hl : Within 0x20120 l) (h : Kept l r s) (g : Nat) : Kept l r (State.linkCrc s g) := by
  unfold State.linkCrc
  repeat' first
    | with_reducible assumption
    | simp -zeta (disch := (refine Part.all ?_; intro p hp; cases p <;> first | exact hl.no hp (by decide) | exact Eq.refl _)) only [Kept.upd_iff]
    | (intro x; refine (?_ : Kept l r x → _) ?_ <;> [(intro _; clear_value x); subst x])
    | (intro x; clear_value x)
    | lift_lets -underBinder
    | with_reducible refine State.ev_kept (hl.of (by decide)) ?_ ..
    | with_reducible refine State.updGw_kept (hl.of (by decide)) ?_ ..
    | split

theorem State.flitIn_kept (hl : Within 0x20120 l) (f : State → State) (hf : ∀ s, Kept l r s → Kept l r (f s)) (h : Kept l r s) (g : Nat) (seq : Nat) : Kept l r (State.flitIn s g seq f) := by
  unfold State.flitIn
  repeat' first
    | with_reducible assumption
    | simp -zeta (disch := (refine Part.all ?_; intro p hp; cases p <;> first | exact hl.no hp (by decide) | exact Eq.refl _)) only [Kept.upd_iff]
    | with_reducible refine hf _ ?_
    | (intro x; clear_value x)
    | lift_lets -underBinder
    | with_reducible refine State.updGw_kept (hl.of (by decide)) ?_ ..
    | with_reducible refine State.linkCrc_kept (hl.of (by decide)) ?_ ..
    | split

theorem State.dataIn_kept (hl : Within 0x21560 l) (h : Kept l r s) (g : Nat) (d : Line) : Kept l r (State.dataIn s g d) := by
  unfold State.dataIn
  repeat' first
    | with_reducible assumption
    | (intro x; refine (?_ : Kept l r x → _) ?_ <;> [(intro _; clear_value x); subst x])
    | simp -zeta (disch := (refine Part.all ?_; intro p hp; cases p <;> first | exact hl.no hp (by decide) | exact Eq.refl _)) only [Kept.upd_iff]
    | (intro x; clear_value x)
    | lift_lets -underBinder
    | with_reducible refine State.updGw_kept (hl.of (by decide)) ?_ ..
    | with_reducible refine State.protoErr_kept (hl.of (by decide)) ?_ ..
    | with_reducible refine State.portDown_kept (hl.of (by decide)) ?_ ..
    | split

theorem State.dropWrite_kept (hl : Within 0x20120 l) (h : Kept l r s) (g : Nat) : Kept l r (State.dropWrite s g) := by
  unfold State.dropWrite
  repeat' first
    | with_reducible assumption
    | simp -zeta (disch := (refine Part.all ?_; intro p hp; cases p <;> first | exact hl.no hp (by decide) | exact Eq.refl _)) only [Kept.upd_iff]
    | (intro x; refine (?_ : Kept l r x → _) ?_ <;> [(intro _; clear_value x); subst x])
    | (intro x; clear_value x)
    | lift_lets -underBinder
    | with_reducible refine State.updGw_kept (hl.of (by decide)) ?_ ..
    | with_reducible refine State.refuse_kept (hl.of (by decide)) ?_ ..
    | with_reducible refine State.ownResp_kept (hl.of (by decide)) ?_ ..
    | split

theorem State.newItem_kept (hl : Within 0x21560 l) (h : Kept l r s) (g : Nat) (a1 : ReqHdr) : Kept l r (State.newItem s g a1) := by
  unfold State.newItem
  repeat' first
    | with_reducible assumption
    | simp -zeta (disch := (refine Part.all ?_; intro p hp; cases p <;> first | exact hl.no hp (by decide) | exact Eq.refl _)) only [Kept.upd_iff]
    | (intro x; refine (?_ : Kept l r x → _) ?_ <;> [(intro _; clear_value x); subst x])
    | lift_lets -underBinder
    | with_reducible refine State.portDown_kept (hl.of (by decide)) ?_ ..
    | with_reducible refine State.protoErr_kept (hl.of (by decide)) ?_ ..
    | with_reducible refine State.updGw_kept (hl.of (by decide)) ?_ ..
    | split

theorem State.headerIn_kept (hl : Within 0x21560 l) (h : Kept l r s) (g : Nat) (a1 : ReqHdr) : Kept l r (State.headerIn s g a1) := by
  unfold State.headerIn
  repeat' first
    | with_reducible assumption
    | (intro x; refine (?_ : Kept l r x → _) ?_ <;> [(intro _; clear_value x); subst x])
    | simp -zeta (disch := (refine Part.all ?_; intro p hp; cases p <;> first | exact hl.no hp (by decide) | exact Eq.refl _)) only [Kept.upd_iff]
    | (intro x; clear_value x)
    | lift_lets -underBinder
    | with_reducible refine State.newItem_kept (hl.of (by decide)) ?_ ..
    | with_reducible refine State.updGw_kept (hl.of (by decide)) ?_ ..
    | with_reducible refine State.protoErr_kept (hl.of (by decide)) ?_ ..
    | with_reducible refine State.dropWrite_kept (hl.of (by decide)) ?_ ..
    | with_reducible refine State.portDown_kept (hl.of (by decide)) ?_ ..
    | split

theorem State.heldRelease_kept (hl : Within 0x21560 l) (h : Kept l r s) (g : Nat) : Kept l r (State.heldRelease s g) := by
  unfold State.heldRelease
  repeat' first
    | with_reducible assumption
    | simp -zeta (disch := (refine Part.all ?_; intro p hp; cases p <;> first | exact hl.no hp (by decide) | exact Eq.refl _)) only [Kept.upd_iff]
    | (intro x; refine (?_ : Kept l r x → _) ?_ <;> [(intro _; clear_value x); subst x])
    | (intro x; (have _ht : State → _ := x); clear _ht)
    | (intro x; clear_value x)
    | lift_lets -underBinder
    | with_reducible refine State.updGw_kept (hl.of (by decide)) ?_ ..
    | with_reducible refine State.asideOrClass_kept (hl.of (by decide)) ?_ (ht := by assumption) ..
    | with_reducible refine State.g4Retry_kept (hl.of (by decide)) ?_ ..
    | refine Kept.getD ?_ (fun _ _ => ?_)
    | with_reducible refine Kept.foldl (fun s a hs => ?_) ?_ _
    | split

theorem State.idleAck_kept (hl : Within 0x121562 l) (h : Kept l r s) (g : Nat) : Kept l r (State.idleAck s g) := by
  unfold State.idleAck
  repeat' first
    | with_reducible assumption
    | (intro x; refine (?_ : Kept l r x → _) ?_ <;> [(intro _; clear_value x); subst x])
    | simp -zeta (disch := (refine Part.all ?_; intro p hp; cases p <;> first | exact hl.no hp (by decide) | exact Eq.refl _)) only [Kept.upd_iff]
    | (intro x; clear_value x)
    | lift_lets -underBinder
    | with_reducible refine State.updGw_kept (hl.of (by decide)) ?_ ..
    | with_reducible refine State.goto_kept (hl.of (by decide)) ?_ ..
    | split

theorem State.linkInit_kept (hl : Within 0x121562 l) (h : Kept l r s) (g : Nat) : Kept l r (State.linkInit s g) := by
  unfold State.linkInit
  repeat' first
    | with_reducible assumption
    | (intro x; refine (?_ : Kept l r x → _) ?_ <;> [(intro _; clear_value x); subst x])
    | simp -zeta (disch := (refine Part.all ?_; intro p hp; cases p <;> first | exact hl.no hp (by decide) | exact Eq.refl _)) only [Kept.upd_iff]
    | (intro x; clear_value x)
    | lift_lets -underBinder
    | with_reducible refine State.updGw_kept (hl.of (by decide)) ?_ ..
    | with_reducible refine State.raise_kept (hl.of (by decide)) ?_ ..
    | with_reducible refine State.setLink_kept (hl.of (by decide)) ?_ ..
    | with_reducible refine State.goto_kept (hl.of (by decide)) ?_ ..
    | split

theorem State.meshCredit_kept (hl : Within 0x100 l) (h : Kept l r s) (g : Nat) (hdr : Nat) (data : Nat) : Kept l r (State.meshCredit s g hdr data) := by
  unfold State.meshCredit
  repeat' first
    | with_reducible assumption
    | (intro x; refine (?_ : Kept l r x → _) ?_ <;> [(intro _; clear_value x); subst x])
    | (intro x; clear_value x)
    | lift_lets -underBinder
    | simp -zeta (disch := (refine Part.all ?_; intro p hp; cases p <;> first | exact hl.no hp (by decide) | exact Eq.refl _)) only [Kept.upd_iff]
    | with_reducible refine State.updGw_kept (hl.of (by decide)) ?_ ..
    | split

theorem State.meshInit_kept (hl : Within 0x100 l) (h : Kept l r s) (g : Nat) (hdr : Nat) (data : Nat) : Kept l r (State.meshInit s g hdr data) := by
  unfold State.meshInit
  repeat' first
    | with_reducible assumption
    | (intro x; refine (?_ : Kept l r x → _) ?_ <;> [(intro _; clear_value x); subst x])
    | (intro x; clear_value x)
    | lift_lets -underBinder
    | simp -zeta (disch := (refine Part.all ?_; intro p hp; cases p <;> first | exact hl.no hp (by decide) | exact Eq.refl _)) only [Kept.upd_iff]
    | with_reducible refine State.updGw_kept (hl.of (by decide)) ?_ ..
    | split

theorem State.rewind_kept (hl : Within 0x20120 l) (h : Kept l r s) (g : Nat) : Kept l r (State.rewind s g) := by
  unfold State.rewind
  repeat' first
    | with_reducible assumption
    | simp -zeta (disch := (refine Part.all ?_; intro p hp; cases p <;> first | exact hl.no hp (by decide) | exact Eq.refl _)) only [Kept.upd_iff]
    | (intro x; refine (?_ : Kept l r x → _) ?_ <;> [(intro _; clear_value x); subst x])
    | (intro x; clear_value x)
    | lift_lets -underBinder
    | with_reducible refine State.ev_kept (hl.of (by decide)) ?_ ..
    | with_reducible refine State.updGw_kept (hl.of (by decide)) ?_ ..

theorem State.nakReceived_kept (hl : Within 0x20120 l) (h : Kept l r s) (g : Nat) (ack : Nat) : Kept l r (State.nakReceived s g ack) := by
  unfold State.nakReceived
  repeat' first
    | with_reducible assumption
    | lift_lets -underBinder
    | with_reducible refine State.rewind_kept (hl.of (by decide)) ?_ ..
    | with_reducible refine State.ackReceived_kept (hl.of (by decide)) ?_ ..
    | split

theorem State.phaseErr_kept (hl : Within 0x21560 l) (h : Kept l r s) (g : Nat) : Kept l r (State.phaseErr s g) := by
  unfold State.phaseErr
  repeat' first
    | with_reducible assumption
    | (intro x; refine (?_ : Kept l r x → _) ?_ <;> [(intro _; clear_value x); subst x])
    | (intro x; clear_value x)
    | lift_lets -underBinder
    | simp -zeta (disch := (refine Part.all ?_; intro p hp; cases p <;> first | exact hl.no hp (by decide) | exact Eq.refl _)) only [Kept.upd_iff]
    | with_reducible refine State.updGw_kept (hl.of (by decide)) ?_ ..
    | with_reducible refine State.setLink_kept (hl.of (by decide)) ?_ ..
    | with_reducible refine State.portGone_kept (hl.of (by decide)) ?_ ..
    | split

theorem State.replayTimeout_kept (hl : Within 0x121562 l) (h : Kept l r s) (g : Nat) : Kept l r (State.replayTimeout s g) := by
  unfold State.replayTimeout
  repeat' first
    | with_reducible assumption
    | simp -zeta (disch := (refine Part.all ?_; intro p hp; cases p <;> first | exact hl.no hp (by decide) | exact Eq.refl _)) only [Kept.upd_iff]
    | (intro x; refine (?_ : Kept l r x → _) ?_ <;> [(intro _; clear_value x); subst x])
    | (intro x; clear_value x)
    | lift_lets -underBinder
    | with_reducible refine State.goto_kept (hl.of (by decide)) ?_ ..
    | with_reducible refine State.dropResp_kept (hl.of (by decide)) ?_ ..
    | with_reducible refine State.portDown_kept (hl.of (by decide)) ?_ ..
    | with_reducible refine State.updGw_kept (hl.of (by decide)) ?_ ..
    | with_reducible refine Kept.foldl (fun s a hs => ?_) ?_ _
    | split

theorem State.respTally_kept (hl : Within 0x100000 l) (h : Kept l r s) (a1 : Resp) : Kept l r (State.respTally s a1) := by
  unfold State.respTally
  repeat' first
    | with_reducible assumption
    | (intro x; refine (?_ : Kept l r x → _) ?_ <;> [(intro _; clear_value x); subst x])
    | (intro x; clear_value x)
    | lift_lets -underBinder
    | with_reducible refine State.tally_kept (hl.of (by decide)) ?_ ..
    | split

theorem State.takeEgress_kept (hl : Within 0x1100 l) (h : Kept l r s) (g : Nat) (a1 : Resp) (p : Option Pkt) : Kept l r (State.takeEgress s g a1 p) := by
  unfold State.takeEgress
  repeat' first
    | with_reducible assumption
    | simp -zeta (disch := (refine Part.all ?_; intro p hp; cases p <;> first | exact hl.no hp (by decide) | exact Eq.refl _)) only [Kept.upd_iff]
    | with_reducible refine State.updGw_kept (hl.of (by decide)) ?_ ..
    | split

theorem State.sendResp_kept (hl : Within 0x120120 l) (h : Kept l r s) (g : Nat) (a1 : Resp) : Kept l r (State.sendResp s g a1) := by
  unfold State.sendResp
  repeat' first
    | with_reducible assumption
    | simp -zeta (disch := (refine Part.all ?_; intro p hp; cases p <;> first | exact hl.no hp (by decide) | exact Eq.refl _)) only [Kept.upd_iff]
    | (intro x; refine (?_ : Kept l r x → _) ?_ <;> [(intro _; clear_value x); subst x])
    | (intro x; clear_value x)
    | lift_lets -underBinder
    | with_reducible refine State.ev_kept (hl.of (by decide)) ?_ ..
    | with_reducible refine State.respTally_kept (hl.of (by decide)) ?_ ..
    | with_reducible refine State.updGw_kept (hl.of (by decide)) ?_ ..
    | split

theorem State.responseEgress_kept (hl : Within 0x121562 l) (h : Kept l r s) (g : Nat) : Kept l r (State.responseEgress s g) := by
  unfold State.responseEgress
  split
  · exact h
  · rename_i q t0 p hn
    extract_lets t u gDone a b need
    split
    · exact h
    · have hu : Kept l r u := State.goto_kept (hl.of (by decide)) h ..
      have hg : ∀ s, Kept l r s → Kept l r (gDone s) := by
        intro s hs
        show Kept l r (ite _ _ _)
        split
        · exact State.updGw_kept (hl.of (by decide)) hs ..
        · exact hs
      repeat' split
      all_goals first
        | exact State.updGw_kept (hl.of (by decide)) (State.ev_kept (hl.of (by decide)) (hg _ (State.takeEgress_kept (hl.of (by decide)) hu ..)) ..) ..
        | exact hg _ (State.dropResp_kept (hl.of (by decide)) (State.takeEgress_kept (hl.of (by decide)) hu ..) ..)
        | exact State.updGw_kept (hl.of (by decide)) hu ..
        | exact State.sendResp_kept (hl.of (by decide)) (hg _ (State.takeEgress_kept (hl.of (by decide)) hu ..)) ..

theorem State.rewindTimer_kept (hl : Within 0x121562 l) (h : Kept l r s) (g : Nat) : Kept l r (State.rewindTimer s g) := by
  unfold State.rewindTimer
  repeat' first
    | with_reducible assumption
    | (intro x; refine (?_ : Kept l r x → _) ?_ <;> [(intro _; clear_value x); subst x])
    | simp -zeta (disch := (refine Part.all ?_; intro p hp; cases p <;> first | exact hl.no hp (by decide) | exact Eq.refl _)) only [Kept.upd_iff]
    | (intro x; clear_value x)
    | lift_lets -underBinder
    | with_reducible refine State.rewind_kept (hl.of (by decide)) ?_ ..
    | with_reducible refine State.goto_kept (hl.of (by decide)) ?_ ..
    | split

theorem State.egressAhead_kept (hl : Within 0x121562 l) (h : Kept l r s) (g : Nat) : Kept l r (State.egressAhead s g) := by
  unfold State.egressAhead
  repeat' first
    | with_reducible assumption
    | exact fun _ hx => hx
    | simp -zeta (disch := (refine Part.all ?_; intro p hp; cases p <;> first | exact hl.no hp (by decide) | exact Eq.refl _)) only [Kept.upd_iff]
    | with_reducible refine State.gwAhead_kept (hl.of (by decide)) ?_ ..
    | split

end Sys2Proof.Machine
end

