-- ==== Sys2Proof/Laws/KeptArbiter.lean ====
section
/-! SUPPORT. What each operation of Machine/Arbiter.lean leaves alone: one lemma for each. -/
set_option maxRecDepth 4000
namespace Sys2Proof.Machine
variable {l : Nat} {r s : State}

theorem State.admitC_kept (hl : Within 0x4021420 l) (h : Kept l r s) (c : Nat) (i : Nat) (g : Nat) (b1 : Req) (t : Nat) : Kept l r (State.admitC s c i g b1 t) := by
  unfold State.admitC
  repeat' first
    | with_reducible assumption
    | (intro x; refine (?_ : Kept l r x → _) ?_ <;> [(intro _; clear_value x); subst x])
    | (intro x; clear_value x)
    | lift_lets -underBinder
    | simp -zeta (disch := (refine Part.all ?_; intro p hp; cases p <;> first | exact hl.no hp (by decide) | exact Eq.refl _)) only [Kept.upd_iff]
    | with_reducible refine State.ev_kept (hl.of (by decide)) ?_ ..
    | with_reducible refine State.updLe_kept (hl.of (by decide)) ?_ ..
    | with_reducible refine State.inject_kept (hl.of (by decide)) ?_ ..
    | split

theorem State.updArb_kept (hl : Within 0x400 l) (h : Kept l r s) (c : Nat) (f : Arb → Arb) : Kept l r (State.updArb s c f) := by
  unfold State.updArb
  refine State.updChan_kept (hl.of (by decide)) ?_ h _
  exact fun _ hx => hx

theorem State.updArbReq_kept (hl : Within 0x400 l) (h : Kept l r s) (c : Nat) (i : Nat) (f : ArbReq → ArbReq) : Kept l r (State.updArbReq s c i f) := by
  exact State.updArb_kept hl h ..

theorem State.lose_kept (hl : Within 0x20420 l) (h : Kept l r s) (c : Nat) (i : Nat) (t : Nat) (urg : Nat) : Kept l r (State.lose s c i t urg) := by
  exact State.updArbReq_kept (hl.of (by decide)) (State.ev_kept (hl.of (by decide)) h ..) ..

theorem State.updWaits_kept (hl : Within 0x24000500 l) (h : Kept l r s) (c : Nat) (i : Nat) (f : List CWait → List CWait) : Kept l r (State.updWaits s c i f) := by
  unfold State.updWaits
  repeat' first
    | with_reducible assumption
    | (intro x; clear_value x)
    | lift_lets -underBinder
    | simp -zeta (disch := (refine Part.all ?_; intro p hp; cases p <;> first | exact hl.no hp (by decide) | exact Eq.refl _)) only [Kept.upd_iff]
    | with_reducible refine State.updGw_kept (hl.of (by decide)) ?_ ..
    | with_reducible refine State.updLe_kept (hl.of (by decide)) ?_ ..
    | with_reducible refine State.updScrub_kept (hl.of (by decide)) ?_ ..
    | split

theorem State.sendTrain_kept (hl : Within 0x4021420 l) (h : Kept l r s) (c : Nat) (i : Nat) (g : Nat) (b1 : List CWait) (b2 : Nat) : Kept l r (State.sendTrain s c i g b1 b2) := by
  induction b1 generalizing s b2 with
  | nil => exact h
  | cons w l ih => exact ih (State.admitC_kept (hl.of (by decide)) h ..) ..

theorem State.mirrorBufs_kept (hl : Within 0x200 l) (h : Kept l r s) : Kept l r (State.mirrorBufs s) := by
  unfold State.mirrorBufs
  repeat' first
    | with_reducible assumption
    | with_reducible refine State.updSub_kept (hl.of (by decide)) ?_ ..
    | with_reducible refine Kept.foldl (fun s a hs => ?_) ?_ _
    | split

theorem State.requeue_kept (hl : Within 0x24000500 l) (h : Kept l r s) (rs : List Req) : Kept l r (State.requeue s rs) := by
  unfold State.requeue
  repeat' first
    | with_reducible assumption
    | (intro x; refine (?_ : Kept l r x → _) ?_ <;> [(intro _; clear_value x); subst x])
    | (intro x; (have _ht : State → _ := x); clear _ht)
    | (intro x; clear_value x)
    | simp -zeta (disch := (refine Part.all ?_; intro p hp; cases p <;> first | exact hl.no hp (by decide) | exact Eq.refl _)) only [Kept.upd_iff]
    | lift_lets -underBinder
    | with_reducible refine State.updWaits_kept (hl.of (by decide)) ?_ ..
    | with_reducible refine State.updLe_kept (hl.of (by decide)) ?_ ..
    | with_reducible refine Kept.foldl (fun s a hs => ?_) ?_ _
    | split
    | simp -zeta only [x]

theorem State.arbiterRound_kept (hl : Within 0x24121762 l) (h : Kept l r s) (c : Nat) : Kept l r (State.arbiterRound s c) := by
  unfold State.arbiterRound
  repeat' first
    | with_reducible assumption
    | simp -zeta (disch := (refine Part.all ?_; intro p hp; cases p <;> first | exact hl.no hp (by decide) | exact Eq.refl _)) only [Kept.upd_iff]
    | (intro x; refine (?_ : Kept l r x → _) ?_ <;> [(intro _; clear_value x); subst x])
    | (intro x; clear_value x)
    | lift_lets -underBinder
    | with_reducible refine State.goto_kept (hl.of (by decide)) ?_ ..
    | with_reducible refine State.updArbReq_kept (hl.of (by decide)) ?_ ..
    | with_reducible refine State.lose_kept (hl.of (by decide)) ?_ ..
    | with_reducible refine State.ev_kept (hl.of (by decide)) ?_ ..
    | with_reducible refine State.updWaits_kept (hl.of (by decide)) ?_ ..
    | with_reducible refine State.updArb_kept (hl.of (by decide)) ?_ ..
    | with_reducible refine State.sendTrain_kept (hl.of (by decide)) ?_ ..
    | with_reducible refine State.mirrorBufs_kept (hl.of (by decide)) ?_ ..
    | with_reducible refine State.gwAhead_kept (hl.of (by decide)) ?_ ..
    | with_reducible refine Kept.foldl (fun s a hs => ?_) ?_ _
    | split

theorem State.backoffEnd_kept (hl : Within 0x121562 l) (h : Kept l r s) (c : Nat) (i : Nat) : Kept l r (State.backoffEnd s c i) := by
  unfold State.backoffEnd
  repeat' first
    | with_reducible assumption
    | (intro x; clear_value x)
    | lift_lets -underBinder
    | with_reducible refine State.updArbReq_kept (hl.of (by decide)) ?_ ..
    | with_reducible refine State.goto_kept (hl.of (by decide)) ?_ ..
    | split

theorem State.channelEnqueue_kept (hl : Within 0x125762 l) (h : Kept l r s) (c : Nat) : Kept l r (State.channelEnqueue s c) := by
  unfold State.channelEnqueue
  repeat' first
    | with_reducible assumption
    | exact fun _ hx => hx
    | (intro x; refine (?_ : Kept l r x → _) ?_ <;> [intro _; subst x])
    | (intro x; clear_value x)
    | lift_lets -underBinder
    | intro x
    | simp -zeta (disch := (refine Part.all ?_; intro p hp; cases p <;> first | exact hl.no hp (by decide) | exact Eq.refl _)) only [Kept.upd_iff]
    | with_reducible refine State.goto_kept (hl.of (by decide)) ?_ ..
    | with_reducible refine State.updChan_kept (hl.of (by decide)) ?_ ?_ _
    | with_reducible refine State.answerOffline_kept (hl.of (by decide)) ?_ ..
    | with_reducible refine State.enqueue_kept (hl.of (by decide)) ?_ ..
    | with_reducible refine State.updSub_kept (hl.of (by decide)) ?_ ..
    | with_reducible refine State.gwAhead_kept (hl.of (by decide)) ?_ ..
    | split

theorem State.crownAnswer_kept (hl : Within 0x21420 l) (h : Kept l r s) (a1 : Req) (status : Nat) (t : Nat) : Kept l r (State.crownAnswer s a1 status t) := by
  exact State.inject_kept hl h ..

theorem State.crownEmerg_kept (hl : Within 0x224121562 l) (h : Kept l r s) : Kept l r (State.crownEmerg s) := by
  unfold State.crownEmerg
  repeat' first
    | with_reducible assumption
    | (intro x; refine (?_ : Kept l r x → _) ?_ <;> [(intro _; clear_value x); subst x])
    | (intro x; refine (?_ : Kept l r x.1 → _) ?_ <;> [(intro _; clear_value x); subst x])
    | (intro x; clear_value x)
    | lift_lets -underBinder
    | simp -zeta (disch := (refine Part.all ?_; intro p hp; cases p <;> first | exact hl.no hp (by decide) | exact Eq.refl _)) only [Kept.upd_iff]
    | with_reducible refine State.goto_kept (hl.of (by decide)) ?_ ..
    | with_reducible refine State.cutTrains_kept (hl.of (by decide)) ?_ ..
    | with_reducible refine State.updWaits_kept (hl.of (by decide)) ?_ ..
    | with_reducible refine State.updLe_kept (hl.of (by decide)) ?_ ..
    | with_reducible refine State.updArb_kept (hl.of (by decide)) ?_ ..
    | with_reducible refine State.raise_kept (hl.of (by decide)) ?_ ..
    | with_reducible refine State.ev_kept (hl.of (by decide)) ?_ ..
    | with_reducible refine State.requeue_kept (hl.of (by decide)) ?_ ..
    | split

theorem State.enqueueBefore_kept (hl : Within 0x125762 l) (h : Kept l r s) (c t n : Nat) : Kept l r (State.enqueueBefore s c t n) := by
  induction n generalizing s with
  | zero => exact h
  | succ n ih =>
    unfold State.enqueueBefore
    split
    · exact h
    · split
      · exact ih (State.channelEnqueue_kept (hl.of (by decide)) h ..)
      · exact h

theorem State.crownEnqueue_kept (hl : Within 0x200125762 l) (h : Kept l r s) : Kept l r (State.crownEnqueue s) := by
  unfold State.crownEnqueue
  split
  · exact h
  · rename_i q e he
    extract_lets c t a src b d f g sn i
    have hd : Kept l r d := by
      refine State.updChan_kept (hl.of (by decide)) ?_ ?_ _
      · exact fun _ hx => hx
      · exact (Kept.upd_iff (fun p hp => by cases p <;> first | exact hl.no hp (by decide) | exact Eq.refl _)).mpr
          (State.goto_kept (hl.of (by decide)) (State.enqueueBefore_kept (hl.of (by decide)) h ..) ..)
    repeat' split
    all_goals first
      | exact h
      | exact State.crownAnswer_kept (hl.of (by decide)) hd ..
      | exact State.updSub_kept (hl.of (by decide)) ((Kept.upd_iff (fun p hp => by cases p <;> first | exact hl.no hp (by decide) | exact Eq.refl _)).mpr (State.wake_kept (hl.of (by decide)) hd ..)) ..

theorem State.fenced_kept (hl : Within 0x121562 l) (h : Kept l r s) (c : Nat) (p : Pkt) : Kept l r (State.fenced s c p) := by
  unfold State.fenced
  repeat' first
    | with_reducible assumption
    | exact fun _ hx => hx
    | (intro x; refine (?_ : Kept l r x → _) ?_ <;> [(intro _; clear_value x); subst x])
    | lift_lets -underBinder
    | with_reducible refine State.goto_kept (hl.of (by decide)) ?_ ..
    | with_reducible refine State.inject_kept (hl.of (by decide)) ?_ ..
    | with_reducible refine State.updChan_kept (hl.of (by decide)) ?_ ?_ _
    | split

theorem State.fencedSink_kept (hl : Within 0x121562 l) (h : Kept l r s) (c : Nat) : Kept l r (State.fencedSink s c) := by
  unfold State.fencedSink
  repeat' first
    | with_reducible assumption
    | (intro x; refine (?_ : Kept l r x → _) ?_ <;> [(intro _; clear_value x); subst x])
    | (intro x; clear_value x)
    | lift_lets -underBinder
    | simp -zeta (disch := (refine Part.all ?_; intro p hp; cases p <;> first | exact hl.no hp (by decide) | exact Eq.refl _)) only [Kept.upd_iff]
    | with_reducible refine State.fenced_kept (hl.of (by decide)) ?_ ..
    | with_reducible refine State.updArb_kept (hl.of (by decide)) ?_ ..
    | split

theorem State.urgency3_kept (hl : Within 0x24121562 l) (h : Kept l r s) (c : Nat) (i : Nat) : Kept l r (State.urgency3 s c i) := by
  unfold State.urgency3
  repeat' first
    | with_reducible assumption
    | simp -zeta (disch := (refine Part.all ?_; intro p hp; cases p <;> first | exact hl.no hp (by decide) | exact Eq.refl _)) only [Kept.upd_iff]
    | (intro x; refine (?_ : Kept l r x → _) ?_ <;> [(intro _; clear_value x); subst x])
    | (intro x; clear_value x)
    | lift_lets -underBinder
    | with_reducible refine State.goto_kept (hl.of (by decide)) ?_ ..
    | with_reducible refine State.updWaits_kept (hl.of (by decide)) ?_ ..
    | with_reducible refine State.updArbReq_kept (hl.of (by decide)) ?_ ..
    | with_reducible refine State.raise_kept (hl.of (by decide)) ?_ ..
    | with_reducible refine State.ev_kept (hl.of (by decide)) ?_ ..
    | with_reducible refine State.gwAhead_kept (hl.of (by decide)) ?_ ..
    | split

theorem State.aliveLost_kept (hl : Within 0x24001500 l) (h : Kept l r s) (i : Nat) (on : Nat → Bool) : Kept l r (State.aliveLost s i on) := by
  unfold State.aliveLost
  exact State.forgetLosses_kept (hl.of (by decide)) (State.requeue_kept (hl.of (by decide)) (State.cutTrains_kept (hl.of (by decide)) h ..) ..) ..

end Sys2Proof.Machine
end

