-- ==== Sys2Proof/Laws/KeptJewel.lean ====
section
/-! SUPPORT. What each operation of Machine/Jewel.lean leaves alone: one lemma for each. -/
set_option maxRecDepth 4000
namespace Sys2Proof.Machine
variable {l : Nat} {r s : State}

theorem State.updCal_kept (hl : Within 0x400000 l) (h : Kept l r s) (c : Nat) (f : Cal → Cal) : Kept l r (State.updCal s c f) := by
  exact (Kept.upd_iff (fun p hp => by cases p <;> first | exact hl.no hp (by decide) | exact Eq.refl _)).mpr h

theorem State.jwlQueue_kept (hl : Within 0x1000000 l) (h : Kept l r s) (c : Nat) (p : JwlPend) : Kept l r (State.jwlQueue s c p) := by
  unfold State.jwlQueue
  repeat' first
    | with_reducible assumption
    | simp -zeta (disch := (refine Part.all ?_; intro p hp; cases p <;> first | exact hl.no hp (by decide) | exact Eq.refl _)) only [Kept.upd_iff]
    | split

theorem State.jwlUpdate_kept (hl : Within 0x1000000 l) (h : Kept l r s) (c : Nat) : Kept l r (State.jwlUpdate s c) := by
  unfold State.jwlUpdate
  repeat' first
    | with_reducible assumption
    | (intro x; refine (?_ : Kept l r x → _) ?_ <;> [(intro _; clear_value x); subst x])
    | simp -zeta (disch := (refine Part.all ?_; intro p hp; cases p <;> first | exact hl.no hp (by decide) | exact Eq.refl _)) only [Kept.upd_iff]
    | (intro x; clear_value x)
    | lift_lets -underBinder
    | with_reducible refine State.jwlQueue_kept (hl.of (by decide)) ?_ ..
    | split

theorem State.setCopy_kept (hl : Within 0x1000000 l) (h : Kept l r s) (c : Nat) (a1 : Nat) (v : JwlCopy) : Kept l r (State.setCopy s c a1 v) := by
  unfold State.setCopy
  repeat' first
    | with_reducible assumption
    | (intro x; clear_value x)
    | lift_lets -underBinder
    | simp -zeta (disch := (refine Part.all ?_; intro p hp; cases p <;> first | exact hl.no hp (by decide) | exact Eq.refl _)) only [Kept.upd_iff]

theorem State.jewelWrite_kept (hl : Within 0x1420020 l) (h : Kept l r s) (bad1 : Nat) (bad2 : Nat) : Kept l r (State.jewelWrite s bad1 bad2) := by
  unfold State.jewelWrite
  repeat' first
    | with_reducible assumption
    | (intro x; refine (?_ : Kept l r x → _) ?_ <;> [(intro _; clear_value x); subst x])
    | (intro x; clear_value x)
    | lift_lets -underBinder
    | simp -zeta (disch := (refine Part.all ?_; intro p hp; cases p <;> first | exact hl.no hp (by decide) | exact Eq.refl _)) only [Kept.upd_iff]
    | with_reducible refine State.setCopy_kept (hl.of (by decide)) ?_ ..
    | with_reducible refine State.ev_kept (hl.of (by decide)) ?_ ..
    | with_reducible refine State.raise_kept (hl.of (by decide)) ?_ ..
    | with_reducible refine State.updCal_kept (hl.of (by decide)) ?_ ..
    | split

end Sys2Proof.Machine
end

