-- ==== Sys2Proof/Laws/KeptCaliper.lean ====
section
/-! SUPPORT. What each operation of Machine/Caliper.lean leaves alone: one lemma for each. -/
set_option maxRecDepth 4000
namespace Sys2Proof.Machine
variable {l : Nat} {r s : State}

theorem State.turnTables_kept (hl : Within 0x220 l) (h : Kept l r s) (c : Nat) : Kept l r (State.turnTables s c) := by
  unfold State.turnTables
  repeat' first
    | with_reducible assumption
    | (intro x; refine (?_ : Kept l r x → _) ?_ <;> [(intro _; clear_value x); subst x])
    | (intro x; clear_value x)
    | lift_lets -underBinder
    | simp -zeta (disch := (refine Part.all ?_; intro p hp; cases p <;> first | exact hl.no hp (by decide) | exact Eq.refl _)) only [Kept.upd_iff]
    | with_reducible refine State.updPage_kept (hl.of (by decide)) ?_ ..
    | with_reducible refine State.setBoth_kept (hl.of (by decide)) ?_ ..
    | with_reducible refine State.updSub_kept (hl.of (by decide)) ?_ ..
    | with_reducible refine Kept.foldl (fun s a hs => ?_) ?_ _

theorem State.calRequest_kept (hl : Within 0x400400 l) (h : Kept l r s) (c : Nat) (kind : Nat) (owner : Nat) (noJwl : Bool) : Kept l r (State.calRequest s c kind owner noJwl) := by
  unfold State.calRequest
  repeat' first
    | with_reducible assumption
    | (intro x; refine (?_ : Kept l r x → _) ?_ <;> [(intro _; clear_value x); subst x])
    | (intro x; clear_value x)
    | lift_lets -underBinder
    | simp -zeta (disch := (refine Part.all ?_; intro p hp; cases p <;> first | exact hl.no hp (by decide) | exact Eq.refl _)) only [Kept.upd_iff]
    | exact fun _ hx => hx
    | with_reducible refine State.updChan_kept (hl.of (by decide)) ?_ ?_ _
    | with_reducible refine State.updCal_kept (hl.of (by decide)) ?_ ..
    | split

theorem State.clearReq_kept (hl : Within 0x20 l) (h : Kept l r s) (c : Nat) : Kept l r (State.clearReq s c) := by
  unfold State.clearReq
  repeat' first
    | with_reducible assumption
    | simp -zeta (disch := (refine Part.all ?_; intro p hp; cases p <;> first | exact hl.no hp (by decide) | exact Eq.refl _)) only [Kept.upd_iff]
    | lift_lets -underBinder
    | with_reducible refine State.setShd_kept (hl.of (by decide)) ?_ ..
    | with_reducible refine State.setReg_kept (hl.of (by decide)) ?_ ..
    | with_reducible refine State.setFldBoth_kept (hl.of (by decide)) ?_ ..
    | with_reducible refine State.updPage_kept (hl.of (by decide)) ?_ ..

theorem State.calEnd_kept (hl : Within 0x400620 l) (h : Kept l r s) (c : Nat) : Kept l r (State.calEnd s c) := by
  unfold State.calEnd
  repeat' first
    | with_reducible assumption
    | exact fun _ hx => hx
    | (intro x; refine (?_ : Kept l r x → _) ?_ <;> [(intro _; clear_value x); subst x])
    | (intro x; clear_value x)
    | lift_lets -underBinder
    | with_reducible refine State.updCal_kept (hl.of (by decide)) ?_ ..
    | with_reducible refine State.updSub_kept (hl.of (by decide)) ?_ ..
    | with_reducible refine State.clearReq_kept (hl.of (by decide)) ?_ ..
    | with_reducible refine State.updChan_kept (hl.of (by decide)) ?_ ?_ _
    | with_reducible refine Kept.foldl (fun s a hs => ?_) ?_ _

theorem State.calFail_kept (hl : Within 0x400e20 l) (h : Kept l r s) (c : Nat) (step : Nat) (sc : Nat) (rk : Nat) (lane : Nat) (reason : Nat) : Kept l r (State.calFail s c step sc rk lane reason) := by
  unfold State.calFail
  repeat' first
    | with_reducible assumption
    | exact fun _ hx => hx
    | (intro x; refine (?_ : Kept l r x → _) ?_ <;> [(intro _; clear_value x); subst x])
    | lift_lets -underBinder
    | with_reducible refine State.calEnd_kept (hl.of (by decide)) ?_ ..
    | with_reducible refine State.updCal_kept (hl.of (by decide)) ?_ ..
    | with_reducible refine State.loseLines_kept (hl.of (by decide)) ?_ ..
    | with_reducible refine State.updChan_kept (hl.of (by decide)) ?_ ?_ _
    | with_reducible refine State.raise_kept (hl.of (by decide)) ?_ ..

theorem State.calPass_kept (hl : Within 0x1400620 l) (h : Kept l r s) (c : Nat) (restored : Bool) : Kept l r (State.calPass s c restored) := by
  unfold State.calPass
  extract_lets k t u v w
  have hu : Kept l r u := by
    refine State.raise_kept (hl.of (by decide)) (State.updChan_kept (hl.of (by decide)) (fun x hx => ?_) (State.updCal_kept (hl.of (by decide)) (State.calEnd_kept (hl.of (by decide)) h ..) ..) _) ..
    revert hx
    simp only
    split
    · exact id
    · exact fun hx => absurd hx (by decide)
  have hv : Kept l r v := State.updBal_kept (hl.of (by decide)) hu ..
  split
  · exact hv
  · have ht : Kept l r w := State.jwlQueue_kept (hl.of (by decide)) hv ..
    split
    · exact State.updCal_kept (hl.of (by decide)) ht ..
    · exact ht

theorem State.calStepTimeout_kept (hl : Within 0x521f62 l) (h : Kept l r s) (c : Nat) (again : Bool) : Kept l r (State.calStepTimeout s c again) := by
  unfold State.calStepTimeout
  repeat' first
    | with_reducible assumption
    | (intro x; refine (?_ : Kept l r x → _) ?_ <;> [(intro _; clear_value x); subst x])
    | (intro x; clear_value x)
    | lift_lets -underBinder
    | with_reducible refine State.goto_kept (hl.of (by decide)) ?_ ..
    | with_reducible refine State.updCal_kept (hl.of (by decide)) ?_ ..
    | with_reducible refine State.calFail_kept (hl.of (by decide)) ?_ ..
    | split

theorem State.putMods_kept (hl : Within 0x8400 l) (h : Kept l r s) (c : Nat) : Kept l r (State.putMods s c) := by
  unfold State.putMods
  repeat' first
    | with_reducible assumption
    | exact fun _ hx => hx
    | (intro x; refine (?_ : Kept l r x → _) ?_ <;> [(intro _; clear_value x); subst x])
    | (intro x; clear_value x)
    | lift_lets -underBinder
    | simp -zeta (disch := (refine Part.all ?_; intro p hp; cases p <;> first | exact hl.no hp (by decide) | exact Eq.refl _)) only [Kept.upd_iff]
    | with_reducible refine State.updChan_kept (hl.of (by decide)) ?_ ?_ _
    | split

theorem State.caliperEnd_kept (hl : Within 0x1408e20 l) (h : Kept l r s) (c : Nat) (ws : List Sweep) : Kept l r (State.caliperEnd s c ws) := by
  unfold State.caliperEnd
  repeat' first
    | with_reducible assumption
    | simp -zeta (disch := (refine Part.all ?_; intro p hp; cases p <;> first | exact hl.no hp (by decide) | exact Eq.refl _)) only [Kept.upd_iff]
    | (intro x; refine (?_ : Kept l r x → _) ?_ <;> [(intro _; clear_value x); subst x])
    | (intro x; clear_value x)
    | lift_lets -underBinder
    | with_reducible refine State.loseLines_kept (hl.of (by decide)) ?_ ..
    | with_reducible refine State.updCal_kept (hl.of (by decide)) ?_ ..
    | with_reducible refine State.calSweeps_kept (hl.of (by decide)) ?_ ..
    | with_reducible refine State.updBal_kept (hl.of (by decide)) ?_ ..
    | with_reducible refine State.calFail_kept (hl.of (by decide)) ?_ ..
    | with_reducible refine State.putMods_kept (hl.of (by decide)) ?_ ..
    | with_reducible refine State.calPass_kept (hl.of (by decide)) ?_ ..
    | split
    | with_reducible refine Kept.foldl (fun s a hs => ?_) ?_ _

theorem State.caliperRefab_kept (hl : Within 0x521562 l) (h : Kept l r s) (c : Nat) (step : Nat) (rk : Nat) (progress : Nat) : Kept l r (State.caliperRefab s c step rk progress) := by
  unfold State.caliperRefab
  repeat' first
    | with_reducible assumption
    | (intro x; refine (?_ : Kept l r x → _) ?_ <;> [(intro _; clear_value x); subst x])
    | (intro x; clear_value x)
    | lift_lets -underBinder
    | with_reducible refine State.goto_kept (hl.of (by decide)) ?_ ..
    | with_reducible refine State.updCal_kept (hl.of (by decide)) ?_ ..
    | split

theorem State.goFull_kept (hl : Within 0x400400 l) (h : Kept l r s) (c : Nat) : Kept l r (State.goFull s c) := by
  unfold State.goFull
  repeat' first
    | with_reducible assumption
    | exact fun _ hx => hx
    | (intro x; refine (?_ : Kept l r x → _) ?_ <;> [(intro _; clear_value x); subst x])
    | (intro x; clear_value x)
    | lift_lets -underBinder
    | simp -zeta (disch := (refine Part.all ?_; intro p hp; cases p <;> first | exact hl.no hp (by decide) | exact Eq.refl _)) only [Kept.upd_iff]
    | with_reducible refine State.updCal_kept (hl.of (by decide)) ?_ ..
    | with_reducible refine State.updChan_kept (hl.of (by decide)) ?_ ?_ _

theorem State.restoreFail_kept (hl : Within 0x400420 l) (h : Kept l r s) (c : Nat) (reason : Nat) : Kept l r (State.restoreFail s c reason) := by
  unfold State.restoreFail
  repeat' first
    | with_reducible assumption
    | (intro x; refine (?_ : Kept l r x → _) ?_ <;> [(intro _; clear_value x); subst x])
    | (intro x; clear_value x)
    | simp -zeta (disch := (refine Part.all ?_; intro p hp; cases p <;> first | exact hl.no hp (by decide) | exact Eq.refl _)) only [Kept.upd_iff]
    | exact fun _ hx => hx
    | lift_lets -underBinder
    | with_reducible refine State.updCal_kept (hl.of (by decide)) ?_ ..
    | with_reducible refine State.raise_kept (hl.of (by decide)) ?_ ..
    | with_reducible refine State.updChan_kept (hl.of (by decide)) ?_ ?_ _
    | with_reducible refine State.goFull_kept (hl.of (by decide)) ?_ ..

theorem State.caliperStart_kept (hl : Within 0x400e20 l) (h : Kept l r s) (c : Nat) (spd : Spd) : Kept l r (State.caliperStart s c spd) := by
  unfold State.caliperStart
  repeat' first
    | with_reducible assumption
    | simp -zeta (disch := (refine Part.all ?_; intro p hp; cases p <;> first | exact hl.no hp (by decide) | exact Eq.refl _)) only [Kept.upd_iff]
    | exact fun _ hx => hx
    | (intro x; refine (?_ : Kept l r x → _) ?_ <;> [(intro _; clear_value x); subst x])
    | (intro x; clear_value x)
    | lift_lets -underBinder
    | with_reducible refine State.updCal_kept (hl.of (by decide)) ?_ ..
    | with_reducible refine State.turnTables_kept (hl.of (by decide)) ?_ ..
    | with_reducible refine State.updChan_kept (hl.of (by decide)) ?_ ?_ _
    | with_reducible refine State.calFail_kept (hl.of (by decide)) ?_ ..
    | with_reducible refine State.updBal_kept (hl.of (by decide)) ?_ ..
    | with_reducible refine State.restoreFail_kept (hl.of (by decide)) ?_ ..
    | with_reducible refine State.goFull_kept (hl.of (by decide)) ?_ ..
    | split
    | with_reducible refine Kept.foldl (fun s a hs => ?_) ?_ _

theorem State.sanityLines_kept (hl : Within 0x8800 l) (h : Kept l r s) (c : Nat) : Kept l r (State.sanityLines s c) := by
  unfold State.sanityLines
  repeat' first
    | with_reducible assumption
    | exact fun _ hx => hx
    | (intro x; refine (?_ : Kept l r x → _) ?_ <;> [(intro _; clear_value x); subst x])
    | (intro x; clear_value x)
    | lift_lets -underBinder
    | simp -zeta (disch := (refine Part.all ?_; intro p hp; cases p <;> first | exact hl.no hp (by decide) | exact Eq.refl _)) only [Kept.upd_iff]
    | with_reducible refine State.writeLine_kept (hl.of (by decide)) ?_ ..
    | with_reducible refine Kept.foldl (fun s a hs => ?_) ?_ _

theorem State.fastRestoreDone_kept (hl : Within 0x1408e20 l) (h : Kept l r s) (c : Nat) (pass : Bool) : Kept l r (State.fastRestoreDone s c pass) := by
  unfold State.fastRestoreDone
  repeat' first
    | with_reducible assumption
    | (intro x; refine (?_ : Kept l r x → _) ?_ <;> [(intro _; clear_value x); subst x])
    | (intro x; clear_value x)
    | lift_lets -underBinder
    | with_reducible refine State.calPass_kept (hl.of (by decide)) ?_ ..
    | with_reducible refine State.restoreFail_kept (hl.of (by decide)) ?_ ..
    | with_reducible refine State.sanityLines_kept (hl.of (by decide)) ?_ ..
    | split

theorem State.calParity_kept (hl : Within 0x400e20 l) (h : Kept l r s) (c : Nat) (sc : Nat) (a : AlertKind) : Kept l r (State.calParity s c sc a) := by
  unfold State.calParity
  repeat' first
    | with_reducible assumption
    | exact fun _ hx => hx
    | (intro x; refine (?_ : Kept l r x → _) ?_ <;> [(intro _; clear_value x); subst x])
    | (intro x; clear_value x)
    | lift_lets -underBinder
    | simp -zeta (disch := (refine Part.all ?_; intro p hp; cases p <;> first | exact hl.no hp (by decide) | exact Eq.refl _)) only [Kept.upd_iff]
    | with_reducible refine State.updCal_kept (hl.of (by decide)) ?_ ..
    | with_reducible refine State.calFail_kept (hl.of (by decide)) ?_ ..
    | split

end Sys2Proof.Machine
end

