-- ==== Sys2Proof/Laws/KeptLathe.lean ====
section
/-! SUPPORT. What each operation of Machine/Lathe.lean leaves alone: one lemma for each. -/
set_option maxRecDepth 4000
namespace Sys2Proof.Machine
variable {l : Nat} {r s : State}

theorem State.updRing_kept (hl : Within 0x2000000 l) (h : Kept l r s) (a1 : Nat) (f : Ring → Ring) : Kept l r (State.updRing s a1 f) := by
  exact (Kept.upd_iff (fun p hp => by cases p <;> first | exact hl.no hp (by decide) | exact Eq.refl _)).mpr h

theorem State.putLine_kept (hl : Within 0x20000a00 l) (h : Kept l r s) (pa : Nat) (d : Line) : Kept l r (State.putLine s pa d) := by
  unfold State.putLine
  repeat' first
    | with_reducible assumption
    | with_reducible refine State.updSub_kept (hl.of (by decide)) ?_ ..
    | with_reducible refine State.writeLine_kept (hl.of (by decide)) ?_ ..
    | with_reducible refine State.mirror_kept (hl.of (by decide)) ?_ ..
    | split

theorem State.lookup_kept (hl : Within 0x24020a20 l) (h : Kept l r s) (e : Nat) (a1 : Nat) : Kept l r (State.lookup s e a1) := by
  unfold State.lookup
  repeat' first
    | with_reducible assumption
    | with_reducible refine State.ev_kept (hl.of (by decide)) ?_ ..
    | with_reducible refine State.updLe_kept (hl.of (by decide)) ?_ ..
    | with_reducible refine State.putLine_kept (hl.of (by decide)) ?_ ..
    | split

theorem State.poolDone_kept (hl : Within 0x10000020 l) (h : Kept l r s) (n : Nat) : Kept l r (State.poolDone s n) := by
  unfold State.poolDone
  repeat' first
    | with_reducible assumption
    | simp -zeta (disch := (refine Part.all ?_; intro p hp; cases p <;> first | exact hl.no hp (by decide) | exact Eq.refl _)) only [Kept.upd_iff]
    | with_reducible refine State.raise_kept (hl.of (by decide)) ?_ ..

theorem State.updCtx_kept (hl : Within 0x2000000 l) (h : Kept l r s) (a1 : Nat) (f : Ctx → Ctx) : Kept l r (State.updCtx s a1 f) := by
  exact State.updRing_kept hl h ..

theorem State.uncache_kept (hl : Within 0x4000000 l) (h : Kept l r s) (a1 : Nat) : Kept l r (State.uncache s a1) := by
  exact State.updLe_kept (hl.of (by decide)) (State.updLe_kept (hl.of (by decide)) h ..) ..

theorem State.writeBack_kept (hl : Within 0x20000a00 l) (h : Kept l r s) (a1 : Nat) : Kept l r (State.writeBack s a1) := by
  exact State.putLine_kept hl h ..

theorem State.dropRing_kept (hl : Within 0x26000a00 l) (h : Kept l r s) (a1 : Nat) : Kept l r (State.dropRing s a1) := by
  unfold State.dropRing
  repeat' first
    | with_reducible assumption
    | with_reducible refine State.updCtx_kept (hl.of (by decide)) ?_ ..
    | with_reducible refine State.updRing_kept (hl.of (by decide)) ?_ ..
    | with_reducible refine State.uncache_kept (hl.of (by decide)) ?_ ..
    | with_reducible refine State.writeBack_kept (hl.of (by decide)) ?_ ..

theorem State.detach_kept (hl : Within 0x26000a00 l) (h : Kept l r s) (a1 : Nat) : Kept l r (State.detach s a1).1 := by
  unfold State.detach
  repeat' first
    | with_reducible assumption
    | (intro x; clear_value x)
    | lift_lets -underBinder
    | with_reducible refine State.dropRing_kept (hl.of (by decide)) ?_ ..
    | split

theorem State.flushRing_kept (hl : Within 0x20000a00 l) (h : Kept l r s) (a1 : Nat) : Kept l r (State.flushRing s a1) := by
  unfold State.flushRing
  repeat' first
    | with_reducible assumption
    | with_reducible refine State.writeBack_kept (hl.of (by decide)) ?_ ..
    | split

theorem State.attach?_kept (hl : Within 0x26028a20 l) (h : Kept l r s) (n : Nat) {w : State × Nat} (hw : s.attach? n = some w) : Kept l r w.1 := by
  unfold State.attach? at hw
  split at hw
  · cases hw
  · injection hw with hw; subst hw; exact (Kept.upd_iff (fun p hp => by cases p <;> first | exact hl.no hp (by decide) | exact Eq.refl _)).mpr h
  · extract_lets m c c' t at hw
    split at hw
    · injection hw with hw; subst hw; exact h
    · injection hw with hw; subst hw
      exact State.lookup_kept (hl.of (by decide)) (State.updRing_kept (hl.of (by decide)) h ..) ..

theorem State.ringCmd_kept (hl : Within 0x36028a20 l) (h : Kept l r s) (a1 : Nat) (cmd : Nat) : Kept l r (State.ringCmd s a1 cmd) := by
  unfold State.ringCmd
  split
  · exact h
  split
  · split
    · rename_i t n ht
      exact State.poolDone_kept (hl.of (by decide)) (State.attach?_kept (hl.of (by decide)) h _ ht) ..
    · exact (Kept.upd_iff (fun p hp => by cases p <;> first | exact hl.no hp (by decide) | exact Eq.refl _)).mpr h
  split
  · exact State.poolDone_kept (hl.of (by decide)) (State.detach_kept (hl.of (by decide)) h ..) ..
  split
  · exact State.poolDone_kept (hl.of (by decide)) (State.flushRing_kept (hl.of (by decide)) h ..) ..
  · exact h

theorem State.ringBell_kept (hl : Within 0x8000000 l) (h : Kept l r s) (i : Nat) (lo : Nat) (hi : Nat) (t : Nat) : Kept l r (State.ringBell s i lo hi t) := by
  exact (Kept.upd_iff (fun p hp => by cases p <;> first | exact hl.no hp (by decide) | exact Eq.refl _)).mpr h

theorem State.updJob_kept (hl : Within 0x2000000 l) (h : Kept l r s) (a1 : Nat) (n : Nat) (f : Job → Job) : Kept l r (State.updJob s a1 n f) := by
  exact State.updRing_kept hl h ..

theorem State.advanceJob_kept (hl : Within 0x2000000 l) (h : Kept l r s) (a1 : Nat) : Kept l r (State.advanceJob s a1) := by
  unfold State.advanceJob
  repeat' first
    | with_reducible assumption
    | (intro x; refine (?_ : Kept l r x → _) ?_ <;> [(intro _; clear_value x); subst x])
    | (intro x; clear_value x)
    | lift_lets -underBinder
    | with_reducible refine State.updJob_kept (hl.of (by decide)) ?_ ..
    | with_reducible refine State.updRing_kept (hl.of (by decide)) ?_ ..
    | split

theorem State.freeOp_kept (hl : Within 0x4000000 l) (h : Kept l r s) (e : Nat) (id : Nat) : Kept l r (State.freeOp s e id) := by
  exact State.updLe_kept hl h ..

theorem State.haltRing_kept (hl : Within 0x6020020 l) (h : Kept l r s) (a1 : Nat) (st : Nat) (idx : Nat) : Kept l r (State.haltRing s a1 st idx) := by
  unfold State.haltRing
  repeat' first
    | with_reducible assumption
    | with_reducible refine State.updRing_kept (hl.of (by decide)) ?_ ..
    | with_reducible refine State.updLe_kept (hl.of (by decide)) ?_ ..
    | with_reducible refine State.raise_kept (hl.of (by decide)) ?_ ..
    | with_reducible refine State.ev_kept (hl.of (by decide)) ?_ ..

theorem State.lateFailure_kept (hl : Within 0x6020020 l) (h : Kept l r s) (a1 : Nat) (st : Nat) (idx : Nat) : Kept l r (State.lateFailure s a1 st idx) := by
  unfold State.lateFailure
  repeat' first
    | with_reducible assumption
    | (intro x; refine (?_ : Kept l r x → _) ?_ <;> [(intro _; clear_value x); subst x])
    | (intro x; clear_value x)
    | lift_lets -underBinder
    | with_reducible refine State.updLe_kept (hl.of (by decide)) ?_ ..
    | with_reducible refine State.raise_kept (hl.of (by decide)) ?_ ..
    | with_reducible refine State.updJob_kept (hl.of (by decide)) ?_ ..
    | with_reducible refine State.haltRing_kept (hl.of (by decide)) ?_ ..
    | split

theorem State.opFails_kept (hl : Within 0x6120020 l) (h : Kept l r s) (e : Nat) (o : LOp) (st : Nat) : Kept l r (State.opFails s e o st) := by
  unfold State.opFails
  repeat' first
    | with_reducible assumption
    | (intro x; refine (?_ : Kept l r x → _) ?_ <;> [(intro _; clear_value x); subst x])
    | (intro x; clear_value x)
    | lift_lets -underBinder
    | with_reducible refine State.freeOp_kept (hl.of (by decide)) ?_ ..
    | with_reducible refine State.tally_kept (hl.of (by decide)) ?_ ..
    | with_reducible refine State.updRing_kept (hl.of (by decide)) ?_ ..
    | with_reducible refine State.haltRing_kept (hl.of (by decide)) ?_ ..
    | with_reducible refine State.updJob_kept (hl.of (by decide)) ?_ ..
    | with_reducible refine State.lateFailure_kept (hl.of (by decide)) ?_ ..
    | split

theorem State.updOp_kept (hl : Within 0x4000000 l) (h : Kept l r s) (e : Nat) (id : Nat) (f : LOp → LOp) : Kept l r (State.updOp s e id f) := by
  exact State.updLe_kept hl h ..

theorem State.opOffline_kept (hl : Within 0x6120020 l) (h : Kept l r s) (e : Nat) (o : LOp) : Kept l r (State.opOffline s e o) := by
  unfold State.opOffline
  repeat' first
    | with_reducible assumption
    | (intro x; refine (?_ : Kept l r x → _) ?_ <;> [(intro _; clear_value x); subst x])
    | (intro x; clear_value x)
    | lift_lets -underBinder
    | with_reducible refine State.updJob_kept (hl.of (by decide)) ?_ ..
    | with_reducible refine State.opFails_kept (hl.of (by decide)) ?_ ..
    | with_reducible refine State.updOp_kept (hl.of (by decide)) ?_ ..
    | split

theorem State.bellAt_kept (hl : Within 0x26020a20 l) (h : Kept l r s) (b : Bell) : Kept l r (State.bellAt s b) := by
  unfold State.bellAt
  repeat' first
    | with_reducible assumption
    | (intro x; refine (?_ : Kept l r x → _) ?_ <;> [(intro _; clear_value x); subst x])
    | (intro x; clear_value x)
    | lift_lets -underBinder
    | with_reducible refine State.updLe_kept (hl.of (by decide)) ?_ ..
    | with_reducible refine State.raise_kept (hl.of (by decide)) ?_ ..
    | with_reducible refine State.ev_kept (hl.of (by decide)) ?_ ..
    | with_reducible refine State.lookup_kept (hl.of (by decide)) ?_ ..
    | with_reducible refine State.updCtx_kept (hl.of (by decide)) ?_ ..
    | split

theorem State.bellArrives_kept (hl : Within 0x2e121f62 l) (h : Kept l r s) (p : Bell → Bool) : Kept l r (State.bellArrives s p) := by
  unfold State.bellArrives
  repeat' first
    | with_reducible assumption
    | simp -zeta (disch := (refine Part.all ?_; intro p hp; cases p <;> first | exact hl.no hp (by decide) | exact Eq.refl _)) only [Kept.upd_iff]
    | with_reducible refine State.goto_kept (hl.of (by decide)) ?_ ..
    | with_reducible refine State.bellAt_kept (hl.of (by decide)) ?_ ..
    | split

theorem State.checkLine_kept (hl : Within 0x6100000 l) (h : Kept l r s) (e : Nat) (a : LOp) (b : LOp) : Kept l r (State.checkLine s e a b) := by
  unfold State.checkLine
  repeat' first
    | with_reducible assumption
    | (intro x; refine (?_ : Kept l r x → _) ?_ <;> [(intro _; clear_value x); subst x])
    | (intro x; clear_value x)
    | lift_lets -underBinder
    | with_reducible refine State.freeOp_kept (hl.of (by decide)) ?_ ..
    | with_reducible refine State.tally_kept (hl.of (by decide)) ?_ ..
    | with_reducible refine State.updJob_kept (hl.of (by decide)) ?_ ..
    | split

theorem State.checkRead_kept (hl : Within 0x6100000 l) (h : Kept l r s) (e : Nat) (a1 : Resp) (o : LOp) : Kept l r (State.checkRead s e a1 o) := by
  unfold State.checkRead
  repeat' first
    | with_reducible assumption
    | (intro x; refine (?_ : Kept l r x → _) ?_ <;> [(intro _; clear_value x); subst x])
    | (intro x; clear_value x)
    | lift_lets -underBinder
    | with_reducible refine State.updOp_kept (hl.of (by decide)) ?_ ..
    | with_reducible refine State.checkLine_kept (hl.of (by decide)) ?_ ..
    | with_reducible refine State.freeOp_kept (hl.of (by decide)) ?_ ..
    | split

theorem State.raiseOp_kept (hl : Within 0x6120020 l) (h : Kept l r s) (e : Nat) (o : LOp) (a1 : Loc) (t : Nat) : Kept l r (State.raiseOp s e o a1 t) := by
  unfold State.raiseOp
  repeat' first
    | with_reducible assumption
    | simp -zeta (disch := (refine Part.all ?_; intro p hp; cases p <;> first | exact hl.no hp (by decide) | exact Eq.refl _)) only [Kept.upd_iff]
    | (intro x; refine (?_ : Kept l r x → _) ?_ <;> [(intro _; clear_value x); subst x])
    | (intro x; (have _ht : State → _ := x); clear _ht)
    | (intro x; clear_value x)
    | lift_lets -underBinder
    | with_reducible refine State.ev_kept (hl.of (by decide)) ?_ ..
    | with_reducible refine State.updLe_kept (hl.of (by decide)) ?_ ..
    | with_reducible refine State.updOp_kept (hl.of (by decide)) ?_ ..
    | with_reducible refine State.tally_kept (hl.of (by decide)) ?_ ..
    | with_reducible refine State.updJob_kept (hl.of (by decide)) ?_ ..
    | split

theorem State.startOp_kept (hl : Within 0x6120020 l) (h : Kept l r s) (e : Nat) (o : LOp) (t : Nat) : Kept l r (State.startOp s e o t) := by
  unfold State.startOp
  repeat' first
    | with_reducible assumption
    | with_reducible refine State.opFails_kept (hl.of (by decide)) ?_ ..
    | with_reducible refine State.opOffline_kept (hl.of (by decide)) ?_ ..
    | with_reducible refine State.raiseOp_kept (hl.of (by decide)) ?_ ..
    | split

theorem State.newOp_kept (hl : Within 0x6120020 l) (h : Kept l r s) (e : Nat) (o : LOp) : Kept l r (State.newOp s e o) := by
  unfold State.newOp
  repeat' first
    | with_reducible assumption
    | (intro x; clear_value x)
    | lift_lets -underBinder
    | with_reducible refine State.startOp_kept (hl.of (by decide)) ?_ ..
    | with_reducible refine State.updLe_kept (hl.of (by decide)) ?_ ..
    | split

theorem State.completionForm_kept (hl : Within 0x6120020 l) (h : Kept l r s) (a1 : Nat) : Kept l r (State.completionForm s a1) := by
  unfold State.completionForm
  repeat' first
    | with_reducible assumption
    | simp -zeta (disch := (refine Part.all ?_; intro p hp; cases p <;> first | exact hl.no hp (by decide) | exact Eq.refl _)) only [Kept.upd_iff]
    | (intro x; refine (?_ : Kept l r x → _) ?_ <;> [(intro _; clear_value x); subst x])
    | (intro x; clear_value x)
    | lift_lets -underBinder
    | with_reducible refine State.updRing_kept (hl.of (by decide)) ?_ ..
    | with_reducible refine State.ev_kept (hl.of (by decide)) ?_ ..
    | with_reducible refine State.tally_kept (hl.of (by decide)) ?_ ..
    | with_reducible refine State.newOp_kept (hl.of (by decide)) ?_ ..
    | with_reducible refine State.haltRing_kept (hl.of (by decide)) ?_ ..
    | split

theorem State.copyRead_kept (hl : Within 0x6120020 l) (h : Kept l r s) (e : Nat) (a1 : Resp) (o : LOp) : Kept l r (State.copyRead s e a1 o) := by
  unfold State.copyRead
  repeat' first
    | with_reducible assumption
    | simp -zeta (disch := (refine Part.all ?_; intro p hp; cases p <;> first | exact hl.no hp (by decide) | exact Eq.refl _)) only [Kept.upd_iff]
    | (intro x; refine (?_ : Kept l r x → _) ?_ <;> [(intro _; clear_value x); subst x])
    | (intro x; clear_value x)
    | lift_lets -underBinder
    | with_reducible refine State.updJob_kept (hl.of (by decide)) ?_ ..
    | with_reducible refine State.tally_kept (hl.of (by decide)) ?_ ..
    | with_reducible refine State.updOp_kept (hl.of (by decide)) ?_ ..
    | with_reducible refine State.startOp_kept (hl.of (by decide)) ?_ ..
    | split

theorem State.startJob_kept (hl : Within 0x2000000 l) (h : Kept l r s) (a1 : Nat) : Kept l r (State.startJob s a1) := by
  unfold State.startJob
  repeat' first
    | with_reducible assumption
    | (intro x; clear_value x)
    | lift_lets -underBinder
    | intro x
    | with_reducible refine State.updRing_kept (hl.of (by decide)) ?_ ..
    | split

theorem State.startChain_kept (hl : Within 0x2000000 l) (h : Kept l r s) (a1 : Nat) : Kept l r (State.startChain s a1) := by
  unfold State.startChain
  repeat' first
    | with_reducible assumption
    | (intro x; refine (?_ : Kept l r x → _) ?_ <;> [(intro _; clear_value x); subst x])
    | (intro x; clear_value x)
    | lift_lets -underBinder
    | with_reducible refine State.updRing_kept (hl.of (by decide)) ?_ ..
    | with_reducible refine State.updJob_kept (hl.of (by decide)) ?_ ..
    | split

theorem State.issueLine_kept (hl : Within 0x6120020 l) (h : Kept l r s) (e : Nat) (a1 : Nat) : Kept l r (State.issueLine s e a1) := by
  unfold State.issueLine
  repeat' first
    | with_reducible assumption
    | (intro x; refine (?_ : Kept l r x → _) ?_ <;> [(intro _; clear_value x); subst x])
    | (intro x; clear_value x)
    | lift_lets -underBinder
    | with_reducible refine State.updJob_kept (hl.of (by decide)) ?_ ..
    | with_reducible refine State.newOp_kept (hl.of (by decide)) ?_ ..
    | split

theorem State.doWork_kept (hl : Within 0x6120020 l) (h : Kept l r s) (e : Nat) (a1 : Nat) (w : Work) : Kept l r (State.doWork s e a1 w) := by
  unfold State.doWork
  repeat' first
    | with_reducible assumption
    | (intro x; clear_value x)
    | lift_lets -underBinder
    | with_reducible refine State.newOp_kept (hl.of (by decide)) ?_ ..
    | with_reducible refine State.updRing_kept (hl.of (by decide)) ?_ ..
    | with_reducible refine State.startJob_kept (hl.of (by decide)) ?_ ..
    | with_reducible refine State.startChain_kept (hl.of (by decide)) ?_ ..
    | with_reducible refine State.advanceJob_kept (hl.of (by decide)) ?_ ..
    | with_reducible refine State.issueLine_kept (hl.of (by decide)) ?_ ..
    | split

theorem State.quiesceRing_kept (hl : Within 0x2000000 l) (h : Kept l r s) (a1 : Nat) : Kept l r (State.quiesceRing s a1) := by
  unfold State.quiesceRing
  repeat' first
    | with_reducible assumption
    | with_reducible refine State.updRing_kept (hl.of (by decide)) ?_ ..

theorem State.enginePowerUp_kept (hl : Within 0x26000a20 l) (h : Kept l r s) (e : Nat) : Kept l r (State.enginePowerUp s e) := by
  unfold State.enginePowerUp
  repeat' first
    | with_reducible assumption
    | (intro x; refine (?_ : Kept l r x → _) ?_ <;> [(intro _; clear_value x); subst x])
    | (intro x; clear_value x)
    | lift_lets -underBinder
    | with_reducible refine State.uncache_kept (hl.of (by decide)) ?_ ..
    | with_reducible refine State.writeBack_kept (hl.of (by decide)) ?_ ..
    | with_reducible refine State.quiesceRing_kept (hl.of (by decide)) ?_ ..
    | with_reducible refine State.raise_kept (hl.of (by decide)) ?_ ..
    | with_reducible refine State.updLe_kept (hl.of (by decide)) ?_ ..
    | with_reducible refine Kept.foldl (fun s a hs => ?_) ?_ _
    | split

theorem State.engineSink_kept (hl : Within 0x4121562 l) (h : Kept l r s) (e : Nat) : Kept l r (State.engineSink s e) := by
  unfold State.engineSink
  repeat' first
    | with_reducible assumption
    | (intro x; refine (?_ : Kept l r x → _) ?_ <;> [(intro _; clear_value x); subst x])
    | (intro x; clear_value x)
    | lift_lets -underBinder
    | simp -zeta (disch := (refine Part.all ?_; intro p hp; cases p <;> first | exact hl.no hp (by decide) | exact Eq.refl _)) only [Kept.upd_iff]
    | with_reducible refine State.goto_kept (hl.of (by decide)) ?_ ..
    | with_reducible refine State.raise_kept (hl.of (by decide)) ?_ ..
    | with_reducible refine State.updLe_kept (hl.of (by decide)) ?_ ..
    | split

theorem State.fetched_kept (hl : Within 0x2000000 l) (h : Kept l r s) (o : LOp) (a1 : Line) : Kept l r (State.fetched s o a1) := by
  unfold State.fetched
  repeat' first
    | with_reducible assumption
    | (intro x; clear_value x)
    | lift_lets -underBinder
    | intro x
    | with_reducible refine State.updRing_kept (hl.of (by decide)) ?_ ..
    | split

theorem State.fetchReturn_kept (hl : Within 0x6121562 l) (h : Kept l r s) (e : Nat) : Kept l r (State.fetchReturn s e) := by
  unfold State.fetchReturn
  repeat' first
    | with_reducible assumption
    | (intro x; refine (?_ : Kept l r x → _) ?_ <;> [(intro _; clear_value x); subst x])
    | lift_lets -underBinder
    | simp -zeta (disch := (refine Part.all ?_; intro p hp; cases p <;> first | exact hl.no hp (by decide) | exact Eq.refl _)) only [Kept.upd_iff]
    | with_reducible refine State.goto_kept (hl.of (by decide)) ?_ ..
    | with_reducible refine State.freeOp_kept (hl.of (by decide)) ?_ ..
    | with_reducible refine State.ev_kept (hl.of (by decide)) ?_ ..
    | with_reducible refine State.opOffline_kept (hl.of (by decide)) ?_ ..
    | with_reducible refine State.fetched_kept (hl.of (by decide)) ?_ ..
    | with_reducible refine State.opFails_kept (hl.of (by decide)) ?_ ..
    | split

theorem State.handoverDone_kept (hl : Within 0x26001f20 l) (h : Kept l r s) (e : Nat) : Kept l r (State.handoverDone s e) := by
  unfold State.handoverDone
  repeat' first
    | with_reducible assumption
    | simp -zeta (disch := (refine Part.all ?_; intro p hp; cases p <;> first | exact hl.no hp (by decide) | exact Eq.refl _)) only [Kept.upd_iff]
    | (intro x; refine (?_ : Kept l r x → _) ?_ <;> [(intro _; clear_value x); subst x])
    | (intro x; clear_value x)
    | lift_lets -underBinder
    | with_reducible refine State.writeBack_kept (hl.of (by decide)) ?_ ..
    | with_reducible refine State.quiesceRing_kept (hl.of (by decide)) ?_ ..
    | with_reducible refine State.raise_kept (hl.of (by decide)) ?_ ..
    | with_reducible refine State.updLe_kept (hl.of (by decide)) ?_ ..
    | with_reducible refine State.aliveLost_kept (hl.of (by decide)) ?_ ..
    | with_reducible refine Kept.foldl (fun s a hs => ?_) ?_ _
    | split

theorem State.leFlags_kept (hl : Within 0x2100000 l) (h : Kept l r s) (a1 : Resp) (o : LOp) : Kept l r (State.leFlags s a1 o) := by
  unfold State.leFlags
  repeat' first
    | with_reducible assumption
    | (intro x; refine (?_ : Kept l r x → _) ?_ <;> [(intro _; clear_value x); subst x])
    | lift_lets -underBinder
    | with_reducible refine State.tally_kept (hl.of (by decide)) ?_ ..
    | with_reducible refine State.updJob_kept (hl.of (by decide)) ?_ ..
    | split

theorem State.leHeldRelease_kept (hl : Within 0x4000000 l) (h : Kept l r s) (e : Nat) : Kept l r (State.leHeldRelease s e) := by
  unfold State.leHeldRelease
  repeat' first
    | with_reducible assumption
    | (intro x; refine (?_ : Kept l r x → _) ?_ <;> [(intro _; clear_value x); subst x])
    | simp -zeta (disch := (refine Part.all ?_; intro p hp; cases p <;> first | exact hl.no hp (by decide) | exact Eq.refl _)) only [Kept.upd_iff]
    | (intro x; clear_value x)
    | lift_lets -underBinder
    | with_reducible refine State.updLe_kept (hl.of (by decide)) ?_ ..
    | split
    | with_reducible refine Kept.foldl (fun s a hs => ?_) ?_ _

theorem State.lineIssue_kept (hl : Within 0x26121f62 l) (h : Kept l r s) (e : Nat) : Kept l r (State.lineIssue s e) := by
  unfold State.lineIssue
  repeat' first
    | with_reducible assumption
    | simp -zeta (disch := (refine Part.all ?_; intro p hp; cases p <;> first | exact hl.no hp (by decide) | exact Eq.refl _)) only [Kept.upd_iff]
    | (intro x; refine (?_ : Kept l r x → _) ?_ <;> [(intro _; clear_value x); subst x])
    | (intro x; clear_value x)
    | lift_lets -underBinder
    | with_reducible refine State.startOp_kept (hl.of (by decide)) ?_ ..
    | with_reducible refine State.goto_kept (hl.of (by decide)) ?_ ..
    | with_reducible refine State.ev_kept (hl.of (by decide)) ?_ ..
    | with_reducible refine State.doWork_kept (hl.of (by decide)) ?_ ..
    | with_reducible refine State.lookup_kept (hl.of (by decide)) ?_ ..
    | with_reducible refine State.updLe_kept (hl.of (by decide)) ?_ ..
    | split

theorem State.opResp_kept (hl : Within 0x6120020 l) (h : Kept l r s) (e : Nat) (a1 : Resp) (o : LOp) : Kept l r (State.opResp s e a1 o) := by
  unfold State.opResp
  repeat' first
    | with_reducible assumption
    | (intro x; refine (?_ : Kept l r x → _) ?_ <;> [(intro _; clear_value x); subst x])
    | lift_lets -underBinder
    | with_reducible refine State.freeOp_kept (hl.of (by decide)) ?_ ..
    | with_reducible refine State.ev_kept (hl.of (by decide)) ?_ ..
    | with_reducible refine State.leFlags_kept (hl.of (by decide)) ?_ ..
    | with_reducible refine State.opOffline_kept (hl.of (by decide)) ?_ ..
    | with_reducible refine State.copyRead_kept (hl.of (by decide)) ?_ ..
    | with_reducible refine State.opFails_kept (hl.of (by decide)) ?_ ..
    | with_reducible refine State.tally_kept (hl.of (by decide)) ?_ ..
    | with_reducible refine State.raise_kept (hl.of (by decide)) ?_ ..
    | with_reducible refine State.checkRead_kept (hl.of (by decide)) ?_ ..
    | split

theorem State.lineResponse_kept (hl : Within 0x6121562 l) (h : Kept l r s) (e : Nat) : Kept l r (State.lineResponse s e) := by
  unfold State.lineResponse
  repeat' first
    | with_reducible assumption
    | (intro x; refine (?_ : Kept l r x → _) ?_ <;> [(intro _; clear_value x); subst x])
    | (intro x; clear_value x)
    | lift_lets -underBinder
    | simp -zeta (disch := (refine Part.all ?_; intro p hp; cases p <;> first | exact hl.no hp (by decide) | exact Eq.refl _)) only [Kept.upd_iff]
    | with_reducible refine State.goto_kept (hl.of (by decide)) ?_ ..
    | with_reducible refine State.opResp_kept (hl.of (by decide)) ?_ ..
    | split

theorem State.offlineReissue_kept (hl : Within 0x6121562 l) (h : Kept l r s) (e : Nat) : Kept l r (State.offlineReissue s e) := by
  unfold State.offlineReissue
  repeat' first
    | with_reducible assumption
    | simp -zeta (disch := (refine Part.all ?_; intro p hp; cases p <;> first | exact hl.no hp (by decide) | exact Eq.refl _)) only [Kept.upd_iff]
    | (intro x; refine (?_ : Kept l r x → _) ?_ <;> [(intro _; clear_value x); subst x])
    | (intro x; clear_value x)
    | lift_lets -underBinder
    | with_reducible refine State.goto_kept (hl.of (by decide)) ?_ ..
    | with_reducible refine State.opFails_kept (hl.of (by decide)) ?_ ..
    | with_reducible refine State.startOp_kept (hl.of (by decide)) ?_ ..
    | with_reducible refine State.ev_kept (hl.of (by decide)) ?_ ..
    | split
    | with_reducible refine Kept.foldl (fun s a hs => ?_) ?_ _

theorem State.poolRetry_kept (hl : Within 0x36028a20 l) (h : Kept l r s) : Kept l r (State.poolRetry s) := by
  unfold State.poolRetry
  split
  · exact h
  · split
    · rename_i t n ht
      exact State.poolDone_kept (hl.of (by decide)) (State.attach?_kept (hl.of (by decide)) h _ ht) ..
    · exact h

end Sys2Proof.Machine
end

