-- ==== Sys2Proof/Laws/KeptTorus.lean ====
section
/-! SUPPORT. What each operation of Machine/Torus.lean leaves alone: one lemma for each. -/
set_option maxRecDepth 4000
namespace Sys2Proof.Machine
variable {l : Nat} {r s : State}

theorem State.answerLost_kept (hl : Within 0x6120120 l) (h : Kept l r s) (a1 : Req) : Kept l r (State.answerLost s a1) := by
  unfold State.answerLost
  repeat' first
    | with_reducible assumption
    | (intro x; refine (?_ : Kept l r x → _) ?_ <;> [(intro _; clear_value x); subst x])
    | lift_lets -underBinder
    | with_reducible refine State.updGw_kept (hl.of (by decide)) ?_ ..
    | with_reducible refine State.refuse_kept (hl.of (by decide)) ?_ ..
    | with_reducible refine State.opOffline_kept (hl.of (by decide)) ?_ ..
    | split

theorem State.clearAnswer_kept (hl : Within 0x6130120 l) (h : Kept l r s) : Kept l r (State.clearAnswer s) := by
  unfold State.clearAnswer
  repeat' first
    | with_reducible assumption
    | simp -zeta (disch := (refine Part.all ?_; intro p hp; cases p <;> first | exact hl.no hp (by decide) | exact Eq.refl _)) only [Kept.upd_iff]
    | with_reducible refine State.raise_kept (hl.of (by decide)) ?_ ..
    | with_reducible refine State.answerLost_kept (hl.of (by decide)) ?_ ..
    | with_reducible refine Kept.foldl (fun s a hs => ?_) ?_ _
    | split

theorem State.clearAllGo_kept (hl : Within 0x10000 l) (h : Kept l r s) : Kept l r (State.clearAllGo s) := by
  unfold State.clearAllGo
  repeat' first
    | with_reducible assumption
    | (intro x; clear_value x)
    | lift_lets -underBinder
    | simp -zeta (disch := (refine Part.all ?_; intro p hp; cases p <;> first | exact hl.no hp (by decide) | exact Eq.refl _)) only [Kept.upd_iff]
    | split

theorem State.ungrant_kept (hl : Within 0x400 l) (h : Kept l r s) (b : Body) : Kept l r (State.ungrant s b) := by
  unfold State.ungrant
  repeat' first
    | with_reducible assumption
    | with_reducible refine State.updArb_kept (hl.of (by decide)) ?_ ..
    | split

theorem State.losePkt_kept (hl : Within 0x10400 l) (h : Kept l r s) (p : Pkt) (answered : Bool) : Kept l r (State.losePkt s p answered) := by
  unfold State.losePkt
  repeat' first
    | with_reducible assumption
    | (intro x; refine (?_ : Kept l r x → _) ?_ <;> [(intro _; clear_value x); subst x])
    | (intro x; clear_value x)
    | lift_lets -underBinder
    | simp -zeta (disch := (refine Part.all ?_; intro p hp; cases p <;> first | exact hl.no hp (by decide) | exact Eq.refl _)) only [Kept.upd_iff]
    | with_reducible refine State.ungrant_kept (hl.of (by decide)) ?_ ..
    | split

theorem State.discardAt_kept (hl : Within 0x400030420 l) (h : Kept l r s) (n : Nat) (p : Pkt) (answered : Bool) : Kept l r (State.discardAt s n p answered) := by
  unfold State.discardAt
  repeat' first
    | with_reducible assumption
    | (intro x; refine (?_ : Kept l r x → _) ?_ <;> [(intro _; clear_value x); subst x])
    | lift_lets -underBinder
    | with_reducible refine State.updRtr_kept (hl.of (by decide)) ?_ ..
    | with_reducible refine State.ev_kept (hl.of (by decide)) ?_ ..
    | with_reducible refine State.losePkt_kept (hl.of (by decide)) ?_ ..

theorem State.failLink_kept (hl : Within 0x400031420 l) (h : Kept l r s) (n : Nat) (p : Nat) : Kept l r (State.failLink s n p) := by
  unfold State.failLink
  repeat' first
    | with_reducible assumption
    | (intro x; refine (?_ : Kept l r x → _) ?_ <;> [(intro _; clear_value x); subst x])
    | (intro x; (have _ht : State → _ := x); clear _ht)
    | (intro x; clear_value x)
    | lift_lets -underBinder
    | simp -zeta (disch := (refine Part.all ?_; intro p hp; cases p <;> first | exact hl.no hp (by decide) | exact Eq.refl _)) only [Kept.upd_iff]
    | with_reducible refine State.raise_kept (hl.of (by decide)) ?_ ..
    | with_reducible refine State.updRtr_kept (hl.of (by decide)) ?_ ..
    | with_reducible refine State.losePkt_kept (hl.of (by decide)) ?_ ..
    | with_reducible refine State.discardAt_kept (hl.of (by decide)) ?_ ..
    | with_reducible refine Kept.foldl (fun s a hs => ?_) ?_ _
    | split

theorem State.creditTimeout_kept (hl : Within 0x400031420 l) (h : Kept l r s) (n : Nat) (p : Nat) : Kept l r (State.creditTimeout s n p) := by
  unfold State.creditTimeout
  repeat' first
    | with_reducible assumption
    | with_reducible refine State.failLink_kept (hl.of (by decide)) ?_ ..
    | split

theorem State.fenceTick_kept (hl : Within 0x420 l) (h : Kept l r s) (c : Nat) : Kept l r (State.fenceTick s c) := by
  unfold State.fenceTick
  repeat' first
    | with_reducible assumption
    | exact fun _ hx => hx
    | lift_lets -underBinder
    | with_reducible refine State.raise_kept (hl.of (by decide)) ?_ ..
    | with_reducible refine State.updChan_kept (hl.of (by decide)) ?_ ?_ _
    | split

theorem State.routeApply_kept (hl : Within 0x20 l) (h : Kept l r s) : Kept l r (State.routeApply s) := by
  unfold State.routeApply
  repeat' first
    | with_reducible assumption
    | (intro x; refine (?_ : Kept l r x → _) ?_ <;> [(intro _; clear_value x); subst x])
    | (intro x; clear_value x)
    | lift_lets -underBinder
    | with_reducible refine State.setReg_kept (hl.of (by decide)) ?_ ..
    | with_reducible refine State.setShd_kept (hl.of (by decide)) ?_ ..
    | with_reducible refine Kept.foldl (fun s a hs => ?_) ?_ _
    | split

theorem State.markHeld_kept (hl : Within 0x1200 l) (h : Kept l r s) : Kept l r (State.markHeld s) := by
  unfold State.markHeld
  repeat' first
    | with_reducible assumption
    | (intro x; clear_value x)
    | lift_lets -underBinder
    | simp -zeta (disch := (refine Part.all ?_; intro p hp; cases p <;> first | exact hl.no hp (by decide) | exact Eq.refl _)) only [Kept.upd_iff]

theorem State.releaseHeld_kept (hl : Within 0x8021460 l) (h : Kept l r s) : Kept l r (State.releaseHeld s) := by
  unfold State.releaseHeld
  repeat' first
    | with_reducible assumption
    | (intro x; refine (?_ : Kept l r x → _) ?_ <;> [(intro _; clear_value x); subst x])
    | (intro x; clear_value x)
    | lift_lets -underBinder
    | simp -zeta (disch := (refine Part.all ?_; intro p hp; cases p <;> first | exact hl.no hp (by decide) | exact Eq.refl _)) only [Kept.upd_iff]
    | with_reducible refine State.inject_kept (hl.of (by decide)) ?_ ..
    | with_reducible refine State.resendMsgs_kept (hl.of (by decide)) ?_ ..
    | with_reducible refine Kept.foldl (fun s a hs => ?_) ?_ _

theorem State.slip_kept (hl : Within 0x20030 l) (h : Kept l r s) : Kept l r (State.slip s) := by
  unfold State.slip
  repeat' first
    | with_reducible assumption
    | (intro x; (have _ht : Esc := x); clear _ht)
    | lift_lets -underBinder
    | simp -zeta (disch := (refine Part.all ?_; intro p hp; cases p <;> first | exact hl.no hp (by decide) | exact Eq.refl _)) only [Kept.upd_iff]
    | with_reducible refine State.ev_kept (hl.of (by decide)) ?_ ..
    | with_reducible refine State.raise_kept (hl.of (by decide)) ?_ ..

theorem State.routeSwitch_kept (hl : Within 0x8031670 l) (h : Kept l r s) : Kept l r (State.routeSwitch s) := by
  unfold State.routeSwitch
  repeat' first
    | with_reducible assumption
    | (intro x; refine (?_ : Kept l r x → _) ?_ <;> [(intro _; clear_value x); subst x])
    | (intro x; clear_value x)
    | lift_lets -underBinder
    | simp -zeta (disch := (refine Part.all ?_; intro p hp; cases p <;> first | exact hl.no hp (by decide) | exact Eq.refl _)) only [Kept.upd_iff]
    | with_reducible refine State.routeApply_kept (hl.of (by decide)) ?_ ..
    | with_reducible refine State.setBoth_kept (hl.of (by decide)) ?_ ..
    | with_reducible refine State.updPage_kept (hl.of (by decide)) ?_ ..
    | with_reducible refine State.raiseIf_kept (hl.of (by decide)) ?_ ..
    | with_reducible refine State.raise_kept (hl.of (by decide)) ?_ ..
    | with_reducible refine State.ev_kept (hl.of (by decide)) ?_ ..
    | with_reducible refine State.markHeld_kept (hl.of (by decide)) ?_ ..
    | with_reducible refine State.releaseHeld_kept (hl.of (by decide)) ?_ ..
    | with_reducible refine State.slip_kept (hl.of (by decide)) ?_ ..
    | with_reducible refine State.setFldBoth_kept (hl.of (by decide)) ?_ ..
    | split

theorem State.openRouteHold_kept (hl : Within 0x424031522 l) (h : Kept l r s) : Kept l r (State.openRouteHold s) := by
  unfold State.openRouteHold
  repeat' first
    | with_reducible assumption
    | (intro x; refine (?_ : Kept l r x → _) ?_ <;> [(intro _; clear_value x); subst x])
    | (intro x; refine (?_ : Kept l r x.1 → _) ?_ <;> [(intro _; clear_value x); subst x])
    | (intro x; clear_value x)
    | lift_lets -underBinder
    | simp -zeta (disch := (refine Part.all ?_; intro p hp; cases p <;> first | exact hl.no hp (by decide) | exact Eq.refl _)) only [Kept.upd_iff]
    | with_reducible refine State.cutTrains_kept (hl.of (by decide)) ?_ ..
    | with_reducible refine State.requeue_kept (hl.of (by decide)) ?_ ..
    | with_reducible refine State.discardAt_kept (hl.of (by decide)) ?_ ..
    | with_reducible refine Kept.foldl (fun s a hs => ?_) ?_ _
    | split

theorem State.fenceLatches_kept (hl : Within 0x400 l) (h : Kept l r s) : Kept l r (State.fenceLatches s) := by
  unfold State.fenceLatches
  repeat' first
    | with_reducible assumption
    | exact fun _ hx => hx
    | (intro x; clear_value x)
    | lift_lets -underBinder
    | with_reducible refine State.updChan_kept (hl.of (by decide)) ?_ ?_ _
    | with_reducible refine Kept.foldl (fun s a hs => ?_) ?_ _
    | split

theorem State.flitCrc_kept (hl : Within 0x400031420 l) (h : Kept l r s) (n : Nat) (p : Nat) (again : Bool) : Kept l r (State.flitCrc s n p again) := by
  unfold State.flitCrc
  repeat' first
    | with_reducible assumption
    | (intro x; refine (?_ : Kept l r x → _) ?_ <;> [(intro _; clear_value x); subst x])
    | (intro x; clear_value x)
    | lift_lets -underBinder
    | with_reducible refine State.updRtr_kept (hl.of (by decide)) ?_ ..
    | with_reducible refine State.ev_kept (hl.of (by decide)) ?_ ..
    | with_reducible refine State.raise_kept (hl.of (by decide)) ?_ ..
    | with_reducible refine State.failLink_kept (hl.of (by decide)) ?_ ..
    | split

theorem State.sendClear_kept (hl : Within 0x10000 l) (h : Kept l r s) (n : Nat) : Kept l r (State.sendClear s n) := by
  unfold State.sendClear
  repeat' first
    | with_reducible assumption
    | (intro x; clear_value x)
    | lift_lets -underBinder
    | simp -zeta (disch := (refine Part.all ?_; intro p hp; cases p <;> first | exact hl.no hp (by decide) | exact Eq.refl _)) only [Kept.upd_iff]
    | split

end Sys2Proof.Machine
end

