-- ==== Sys2Proof/Laws/KeptCommit.lean ====
section
/-! SUPPORT. What each operation of Machine/Commit.lean leaves alone: one lemma for each. -/
set_option maxRecDepth 4000
namespace Sys2Proof.Machine
variable {l : Nat} {r s : State}

theorem State.intentBack_kept (hl : Within 0x20 l) (h : Kept l r s) (p : PageId) : Kept l r (State.intentBack s p) := by
  unfold State.intentBack
  repeat' first
    | with_reducible assumption
    | with_reducible refine State.updPage_kept (hl.of (by decide)) ?_ ..
    | with_reducible refine Kept.foldl (fun s a hs => ?_) ?_ _
    | split

theorem State.uncarry_kept (hl : Within 0x20 l) (h : Kept l r s) : Kept l r (State.uncarry s) := by
  unfold State.uncarry
  repeat' first
    | with_reducible assumption
    | with_reducible refine State.updPage_kept (hl.of (by decide)) ?_ ..
    | with_reducible refine Kept.foldl (fun s a hs => ?_) ?_ _

theorem State.commitRefuseAt_kept (hl : Within 0x60 l) (h : Kept l r s) (p : PageId) (off : Nat) (rule : Nat) (t : Nat) : Kept l r (State.commitRefuseAt s p off rule t) := by
  unfold State.commitRefuseAt
  repeat' first
    | with_reducible assumption
    | exact fun _ hx => hx
    | (intro x; refine (?_ : Kept l r x → _) ?_ <;> [(intro _; clear_value x); subst x])
    | (intro x; clear_value x)
    | lift_lets -underBinder
    | simp -zeta (disch := (refine Part.all ?_; intro p hp; cases p <;> first | exact hl.no hp (by decide) | exact Eq.refl _)) only [Kept.upd_iff]
    | with_reducible refine State.setErrAt_kept (hl.of (by decide)) ?_ ..
    | with_reducible refine State.updPage_kept (hl.of (by decide)) ?_ ..
    | with_reducible refine State.intentBack_kept (hl.of (by decide)) ?_ ..
    | with_reducible refine State.raise_kept (hl.of (by decide)) ?_ ..
    | with_reducible refine State.uncarry_kept (hl.of (by decide)) ?_ ..
    | split

theorem State.commitRefuse_kept (hl : Within 0x60 l) (h : Kept l r s) (p : PageId) (off : Nat) (rule : Nat) : Kept l r (State.commitRefuse s p off rule) := by
  unfold State.commitRefuse
  repeat' first
    | with_reducible assumption
    | (intro x; refine (?_ : Kept l r x → _) ?_ <;> [(intro _; clear_value x); subst x])
    | (intro x; clear_value x)
    | lift_lets -underBinder
    | simp -zeta (disch := (refine Part.all ?_; intro p hp; cases p <;> first | exact hl.no hp (by decide) | exact Eq.refl _)) only [Kept.upd_iff]
    | with_reducible refine State.intentBack_kept (hl.of (by decide)) ?_ ..
    | with_reducible refine State.updPage_kept (hl.of (by decide)) ?_ ..
    | with_reducible refine State.setErr_kept (hl.of (by decide)) ?_ ..
    | with_reducible refine State.raise_kept (hl.of (by decide)) ?_ ..
    | with_reducible refine State.uncarry_kept (hl.of (by decide)) ?_ ..
    | with_reducible refine State.commitRefuseAt_kept (hl.of (by decide)) ?_ ..
    | split

theorem State.recordVal_kept (hl : Within 0x220 l) (h : Kept l r s) (c : Nat) (sc : Nat) (a1 : Option ValFail) : Kept l r (State.recordVal s c sc a1) := by
  exact State.raise_kept (hl.of (by decide)) (State.updSub_kept (hl.of (by decide)) h ..) ..

theorem State.commitArm_kept (hl : Within 0x20 l) (h : Kept l r s) (p : PageId) (eff : Nat) : Kept l r (State.commitArm s p eff) := by
  exact State.updPage_kept hl h ..

theorem State.checkSlt_kept (hl : Within 0x260 l) (h : Kept l r s) (c : Nat) (sc : Nat) (eff : Nat) (t : Nat) : Kept l r (State.checkSlt s c sc eff t) := by
  unfold State.checkSlt
  repeat' first
    | with_reducible assumption
    | simp -zeta (disch := (refine Part.all ?_; intro p hp; cases p <;> first | exact hl.no hp (by decide) | exact Eq.refl _)) only [Kept.upd_iff]
    | (intro x; refine (?_ : Kept l r x → _) ?_ <;> [(intro _; clear_value x); subst x])
    | (intro x; clear_value x)
    | lift_lets -underBinder
    | with_reducible refine State.recordVal_kept (hl.of (by decide)) ?_ ..
    | with_reducible refine State.commitRefuse_kept (hl.of (by decide)) ?_ ..
    | with_reducible refine State.commitArm_kept (hl.of (by decide)) ?_ ..
    | with_reducible refine State.commitRefuseAt_kept (hl.of (by decide)) ?_ ..
    | split

theorem State.checkEsc_kept (hl : Within 0x260 l) (h : Kept l r s) (eff : Nat) (t : Nat) : Kept l r (State.checkEsc s eff t) := by
  unfold State.checkEsc
  repeat' first
    | with_reducible assumption
    | simp -zeta (disch := (refine Part.all ?_; intro p hp; cases p <;> first | exact hl.no hp (by decide) | exact Eq.refl _)) only [Kept.upd_iff]
    | (intro x; refine (?_ : Kept l r x → _) ?_ <;> [(intro _; clear_value x); subst x])
    | (intro x; clear_value x)
    | lift_lets -underBinder
    | with_reducible refine State.commitArm_kept (hl.of (by decide)) ?_ ..
    | with_reducible refine State.recordVal_kept (hl.of (by decide)) ?_ ..
    | with_reducible refine State.commitRefuse_kept (hl.of (by decide)) ?_ ..
    | with_reducible refine State.commitRefuseAt_kept (hl.of (by decide)) ?_ ..
    | with_reducible refine Kept.foldl (fun s a hs => ?_) ?_ _
    | split

theorem State.checkMap_kept (hl : Within 0xe0 l) (h : Kept l r s) (eff : Nat) (t : Nat) : Kept l r (State.checkMap s eff t) := by
  unfold State.checkMap
  repeat' first
    | with_reducible assumption
    | (intro x; refine (?_ : Kept l r x → _) ?_ <;> [(intro _; clear_value x); subst x])
    | (intro x; clear_value x)
    | lift_lets -underBinder
    | simp -zeta (disch := (refine Part.all ?_; intro p hp; cases p <;> first | exact hl.no hp (by decide) | exact Eq.refl _)) only [Kept.upd_iff]
    | with_reducible refine State.commitRefuse_kept (hl.of (by decide)) ?_ ..
    | with_reducible refine State.commitArm_kept (hl.of (by decide)) ?_ ..
    | with_reducible refine State.commitRefuseAt_kept (hl.of (by decide)) ?_ ..
    | split

theorem State.checkTrt_kept (hl : Within 0x10060 l) (h : Kept l r s) (n : Nat) (eff : Nat) (t : Nat) : Kept l r (State.checkTrt s n eff t) := by
  unfold State.checkTrt
  repeat' first
    | with_reducible assumption
    | (intro x; refine (?_ : Kept l r x → _) ?_ <;> [(intro _; clear_value x); subst x])
    | (intro x; clear_value x)
    | lift_lets -underBinder
    | simp -zeta (disch := (refine Part.all ?_; intro p hp; cases p <;> first | exact hl.no hp (by decide) | exact Eq.refl _)) only [Kept.upd_iff]
    | with_reducible refine State.commitRefuse_kept (hl.of (by decide)) ?_ ..
    | with_reducible refine State.commitArm_kept (hl.of (by decide)) ?_ ..
    | with_reducible refine State.commitRefuseAt_kept (hl.of (by decide)) ?_ ..
    | split

theorem State.commitCheckAt_kept (hl : Within 0x102e0 l) (h : Kept l r s) (p : PageId) (t : Nat) : Kept l r (State.commitCheckAt s p t) := by
  unfold State.commitCheckAt
  repeat' first
    | with_reducible assumption
    | simp -zeta (disch := (refine Part.all ?_; intro p hp; cases p <;> first | exact hl.no hp (by decide) | exact Eq.refl _)) only [Kept.upd_iff]
    | (intro x; refine (?_ : Kept l r x → _) ?_ <;> [(intro _; clear_value x); subst x])
    | (intro x; clear_value x)
    | lift_lets -underBinder
    | with_reducible refine State.commitRefuse_kept (hl.of (by decide)) ?_ ..
    | with_reducible refine State.updPage_kept (hl.of (by decide)) ?_ ..
    | with_reducible refine State.checkSlt_kept (hl.of (by decide)) ?_ ..
    | with_reducible refine State.checkEsc_kept (hl.of (by decide)) ?_ ..
    | with_reducible refine State.checkMap_kept (hl.of (by decide)) ?_ ..
    | with_reducible refine State.checkTrt_kept (hl.of (by decide)) ?_ ..
    | with_reducible refine State.commitArm_kept (hl.of (by decide)) ?_ ..
    | with_reducible refine State.commitRefuseAt_kept (hl.of (by decide)) ?_ ..
    | split

theorem State.settle_kept (hl : Within 0x102e0 l) (h : Kept l r s) : Kept l r (State.settle s) := by
  unfold State.settle
  repeat' first
    | with_reducible assumption
    | (intro x; refine (?_ : Kept l r x → _) ?_ <;> [(intro _; clear_value x); subst x])
    | simp -zeta (disch := (refine Part.all ?_; intro p hp; cases p <;> first | exact hl.no hp (by decide) | exact Eq.refl _)) only [Kept.upd_iff]
    | (intro x; clear_value x)
    | lift_lets -underBinder
    | with_reducible refine State.commitCheckAt_kept (hl.of (by decide)) ?_ ..
    | with_reducible refine Kept.foldl (fun s a hs => ?_) ?_ _
    | split

theorem State.standoff_kept (hl : Within 0x20000000 l) (h : Kept l r s) : Kept l r (State.standoff s) := by
  exact (Kept.upd_iff (fun p hp => by cases p <;> first | exact hl.no hp (by decide) | exact Eq.refl _)).mpr h

theorem State.commitGo_kept (hl : Within 0x260 l) (h : Kept l r s) (p : PageId) (mvc : Bool) : Kept l r (State.commitGo s p mvc) := by
  unfold State.commitGo
  repeat' first
    | with_reducible assumption
    | simp -zeta (disch := (refine Part.all ?_; intro p hp; cases p <;> first | exact hl.no hp (by decide) | exact Eq.refl _)) only [Kept.upd_iff]
    | (intro x; refine (?_ : Kept l r x → _) ?_ <;> [(intro _; clear_value x); subst x])
    | (intro x; clear_value x)
    | lift_lets -underBinder
    | with_reducible refine State.setErr_kept (hl.of (by decide)) ?_ ..
    | with_reducible refine State.commitRefuse_kept (hl.of (by decide)) ?_ ..
    | with_reducible refine State.updPage_kept (hl.of (by decide)) ?_ ..
    | with_reducible refine State.updSub_kept (hl.of (by decide)) ?_ ..
    | with_reducible refine Kept.foldl (fun s a hs => ?_) ?_ _
    | split

theorem State.mvcCommit_kept (hl : Within 0x20000260 l) (h : Kept l r s) (p : PageId) (target : Word) : Kept l r (State.mvcCommit s p target) := by
  unfold State.mvcCommit
  repeat' first
    | with_reducible assumption
    | with_reducible refine State.standoff_kept (hl.of (by decide)) ?_ ..
    | with_reducible refine State.commitGo_kept (hl.of (by decide)) ?_ ..
    | with_reducible refine State.updPage_kept (hl.of (by decide)) ?_ ..
    | split

theorem State.disarm_kept (hl : Within 0x102a0 l) (h : Kept l r s) (p : PageId) : Kept l r (State.disarm s p) := by
  unfold State.disarm
  repeat' first
    | with_reducible assumption
    | (intro x; refine (?_ : Kept l r x → _) ?_ <;> [(intro _; clear_value x); subst x])
    | (intro x; clear_value x)
    | lift_lets -underBinder
    | simp -zeta (disch := (refine Part.all ?_; intro p hp; cases p <;> first | exact hl.no hp (by decide) | exact Eq.refl _)) only [Kept.upd_iff]
    | with_reducible refine State.intentBack_kept (hl.of (by decide)) ?_ ..
    | with_reducible refine State.updPage_kept (hl.of (by decide)) ?_ ..
    | with_reducible refine State.uncarry_kept (hl.of (by decide)) ?_ ..
    | with_reducible refine State.updSub_kept (hl.of (by decide)) ?_ ..
    | split

theorem State.commitCancel_kept (hl : Within 0x102a0 l) (h : Kept l r s) (p : PageId) : Kept l r (State.commitCancel s p) := by
  unfold State.commitCancel
  repeat' first
    | with_reducible assumption
    | with_reducible refine State.setErr_kept (hl.of (by decide)) ?_ ..
    | with_reducible refine State.disarm_kept (hl.of (by decide)) ?_ ..
    | split

theorem State.commitDiscard_kept (hl : Within 0x20 l) (h : Kept l r s) (p : PageId) : Kept l r (State.commitDiscard s p) := by
  unfold State.commitDiscard
  repeat' first
    | with_reducible assumption
    | with_reducible refine State.setErr_kept (hl.of (by decide)) ?_ ..
    | with_reducible refine State.setShd_kept (hl.of (by decide)) ?_ ..
    | with_reducible refine Kept.foldl (fun s a hs => ?_) ?_ _
    | split

theorem State.writeCommit_kept (hl : Within 0x102e0 l) (h : Kept l r s) (p : PageId) (v : Word) (mvc : Bool) : Kept l r (State.writeCommit s p v mvc) := by
  unfold State.writeCommit
  repeat' first
    | with_reducible assumption
    | (intro x; clear_value x)
    | lift_lets -underBinder
    | with_reducible refine State.commitGo_kept (hl.of (by decide)) ?_ ..
    | with_reducible refine State.commitCancel_kept (hl.of (by decide)) ?_ ..
    | with_reducible refine State.commitDiscard_kept (hl.of (by decide)) ?_ ..
    | with_reducible refine State.setErr_kept (hl.of (by decide)) ?_ ..
    | split

theorem State.mvcShadow_kept (hl : Within 0x20000020 l) (h : Kept l r s) (p : PageId) (off : Nat) (v : Word) (keep : Bool) : Kept l r (State.mvcShadow s p off v keep) := by
  unfold State.mvcShadow
  repeat' first
    | with_reducible assumption
    | with_reducible refine State.standoff_kept (hl.of (by decide)) ?_ ..
    | with_reducible refine State.updPage_kept (hl.of (by decide)) ?_ ..
    | with_reducible refine State.setShd_kept (hl.of (by decide)) ?_ ..
    | split

theorem State.mvcWrite_kept (hl : Within 0x20000020 l) (h : Kept l r s) (p : PageId) (off : Nat) (v : Word) : Kept l r (State.mvcWrite s p off v) := by
  exact State.mvcShadow_kept hl h ..

theorem State.mvcTable_kept (hl : Within 0x20000260 l) (h : Kept l r s) (c : Nat) (sc : Nat) (target : Word) (fill : Bool) : Kept l r (State.mvcTable s c sc target fill) := by
  unfold State.mvcTable
  repeat' first
    | with_reducible assumption
    | (intro x; refine (?_ : Kept l r x → _) ?_ <;> [(intro _; clear_value x); subst x])
    | simp -zeta (disch := (refine Part.all ?_; intro p hp; cases p <;> first | exact hl.no hp (by decide) | exact Eq.refl _)) only [Kept.upd_iff]
    | (intro x; clear_value x)
    | lift_lets -underBinder
    | with_reducible refine State.updPage_kept (hl.of (by decide)) ?_ ..
    | with_reducible refine State.mvcCommit_kept (hl.of (by decide)) ?_ ..
    | split

theorem State.applyCc_kept (hl : Within 0x24001500 l) (h : Kept l r s) (c : Nat) (old : Nat → Word) : Kept l r (State.applyCc s c old) := by
  unfold State.applyCc
  repeat' first
    | with_reducible assumption
    | simp -zeta (disch := (refine Part.all ?_; intro p hp; cases p <;> first | exact hl.no hp (by decide) | exact Eq.refl _)) only [Kept.upd_iff]
    | exact fun _ hx => hx
    | (intro x; refine (?_ : Kept l r x → _) ?_ <;> [(intro _; clear_value x); subst x])
    | (intro x; clear_value x)
    | lift_lets -underBinder
    | with_reducible refine State.updChan_kept (hl.of (by decide)) ?_ ?_ _
    | with_reducible refine State.updArb_kept (hl.of (by decide)) ?_ ..
    | with_reducible refine State.wake_kept (hl.of (by decide)) ?_ ..
    | with_reducible refine State.aliveLost_kept (hl.of (by decide)) ?_ ..
    | split

theorem State.applyCopy_kept (hl : Within 0x40000000 l) (h : Kept l r s) (c : Nat) (old : Word) : Kept l r (State.applyCopy s c old) := by
  unfold State.applyCopy
  repeat' first
    | with_reducible assumption
    | (intro x; clear_value x)
    | lift_lets -underBinder
    | simp -zeta (disch := (refine Part.all ?_; intro p hp; cases p <;> first | exact hl.no hp (by decide) | exact Eq.refl _)) only [Kept.upd_iff]
    | split

theorem State.applyElog_kept (hl : Within 0x420 l) (h : Kept l r s) (c : Nat) : Kept l r (State.applyElog s c) := by
  unfold State.applyElog
  repeat' first
    | with_reducible assumption
    | (intro x; refine (?_ : Kept l r x → _) ?_ <;> [(intro _; clear_value x); subst x])
    | (intro x; clear_value x)
    | lift_lets -underBinder
    | simp -zeta (disch := (refine Part.all ?_; intro p hp; cases p <;> first | exact hl.no hp (by decide) | exact Eq.refl _)) only [Kept.upd_iff]
    | exact fun _ hx => hx
    | with_reducible refine State.updChan_kept (hl.of (by decide)) ?_ ?_ _
    | with_reducible refine State.setShd_kept (hl.of (by decide)) ?_ ..
    | with_reducible refine State.setReg_kept (hl.of (by decide)) ?_ ..
    | with_reducible refine State.setFldBoth_kept (hl.of (by decide)) ?_ ..
    | split

theorem State.applyHook_kept (hl : Within 0x64401520 l) (h : Kept l r s) (p : PageId) (old : Nat → Word) : Kept l r (State.applyHook s p old) := by
  unfold State.applyHook
  repeat' first
    | with_reducible assumption
    | (intro x; refine (?_ : Kept l r x → _) ?_ <;> [(intro _; clear_value x); subst x])
    | simp -zeta (disch := (refine Part.all ?_; intro p hp; cases p <;> first | exact hl.no hp (by decide) | exact Eq.refl _)) only [Kept.upd_iff]
    | exact fun _ hx => hx
    | (intro x; clear_value x)
    | lift_lets -underBinder
    | with_reducible refine State.applyCopy_kept (hl.of (by decide)) ?_ ..
    | with_reducible refine State.applyCc_kept (hl.of (by decide)) ?_ ..
    | with_reducible refine State.calRequest_kept (hl.of (by decide)) ?_ ..
    | with_reducible refine State.applyElog_kept (hl.of (by decide)) ?_ ..
    | with_reducible refine State.updChan_kept (hl.of (by decide)) ?_ ?_ _
    | with_reducible refine State.updLe_kept (hl.of (by decide)) ?_ ..
    | split

theorem State.applyShadow_kept (hl : Within 0x20030 l) (h : Kept l r s) (p : PageId) : Kept l r (State.applyShadow s p) := by
  unfold State.applyShadow
  repeat' first
    | with_reducible assumption
    | (intro x; refine (?_ : Kept l r x → _) ?_ <;> [(intro _; clear_value x); subst x])
    | (intro x; (have _ht : Esc := x); clear _ht)
    | (intro x; clear_value x)
    | lift_lets -underBinder
    | simp -zeta (disch := (refine Part.all ?_; intro p hp; cases p <;> first | exact hl.no hp (by decide) | exact Eq.refl _)) only [Kept.upd_iff]
    | with_reducible refine State.setReg_kept (hl.of (by decide)) ?_ ..
    | with_reducible refine State.updPage_kept (hl.of (by decide)) ?_ ..
    | with_reducible refine State.raise_kept (hl.of (by decide)) ?_ ..
    | with_reducible refine State.ev_kept (hl.of (by decide)) ?_ ..
    | with_reducible refine State.slip_kept (hl.of (by decide)) ?_ ..
    | with_reducible refine Kept.foldl (fun s a hs => ?_) ?_ _
    | split

theorem State.applyOthers_kept (hl : Within 0x64421530 l) (h : Kept l r s) : Kept l r (State.applyOthers s) := by
  unfold State.applyOthers
  repeat' first
    | with_reducible assumption
    | with_reducible refine State.applyHook_kept (hl.of (by decide)) ?_ ..
    | with_reducible refine State.applyShadow_kept (hl.of (by decide)) ?_ ..
    | with_reducible refine Kept.foldl (fun s a hs => ?_) ?_ _

theorem State.applyTable_kept (hl : Within 0x220 l) (h : Kept l r s) (c : Nat) (sc : Nat) (was : Table) : Kept l r (State.applyTable s c sc was) := by
  unfold State.applyTable
  repeat' first
    | with_reducible assumption
    | simp -zeta (disch := (refine Part.all ?_; intro p hp; cases p <;> first | exact hl.no hp (by decide) | exact Eq.refl _)) only [Kept.upd_iff]
    | (intro x; refine (?_ : Kept l r x → _) ?_ <;> [(intro _; clear_value x); subst x])
    | (intro x; clear_value x)
    | lift_lets -underBinder
    | with_reducible refine State.setReg_kept (hl.of (by decide)) ?_ ..
    | with_reducible refine State.updPage_kept (hl.of (by decide)) ?_ ..
    | with_reducible refine State.raise_kept (hl.of (by decide)) ?_ ..
    | with_reducible refine State.updSub_kept (hl.of (by decide)) ?_ ..
    | with_reducible refine Kept.foldl (fun s a hs => ?_) ?_ _
    | split

theorem State.applyTables_kept (hl : Within 0x20230 l) (h : Kept l r s) : Kept l r (State.applyTables s) := by
  unfold State.applyTables
  repeat' first
    | with_reducible assumption
    | (intro x; refine (?_ : Kept l r x → _) ?_ <;> [(intro _; clear_value x); subst x])
    | (intro x; (have _ht : State → _ := x); clear _ht)
    | (intro x; (have _ht : Esc := x); clear _ht)
    | (intro x; clear_value x)
    | lift_lets -underBinder
    | simp -zeta (disch := (refine Part.all ?_; intro p hp; cases p <;> first | exact hl.no hp (by decide) | exact Eq.refl _)) only [Kept.upd_iff]
    | with_reducible refine State.applyShadow_kept (hl.of (by decide)) ?_ ..
    | with_reducible refine State.applyTable_kept (hl.of (by decide)) ?_ ..
    | with_reducible refine State.raise_kept (hl.of (by decide)) ?_ ..
    | with_reducible refine State.turnTables_kept (hl.of (by decide)) ?_ ..
    | with_reducible refine Kept.foldl (fun s a hs => ?_) ?_ _
    | split

theorem State.commitCheck_kept (hl : Within 0x102e0 l) (h : Kept l r s) (p : PageId) : Kept l r (State.commitCheck s p) := by
  exact State.commitCheckAt_kept hl h ..

theorem State.forceChecks_kept (hl : Within 0x102e0 l) (h : Kept l r s) (f : Nat) : Kept l r (State.forceChecks s f) := by
  unfold State.forceChecks
  repeat' first
    | with_reducible assumption
    | (intro x; clear_value x)
    | lift_lets -underBinder
    | with_reducible refine State.commitCheckAt_kept (hl.of (by decide)) ?_ ..
    | with_reducible refine Kept.foldl (fun s a hs => ?_) ?_ _
    | split

theorem State.keepFld_kept (hl : Within 0x20 l) (h : Kept l r s) (p : PageId) (off : Nat) (lo : Nat) (w : Nat) (v : Nat) : Kept l r (State.keepFld s p off lo w v) := by
  unfold State.keepFld
  repeat' first
    | with_reducible assumption
    | exact fun _ hx => hx
    | (intro x; refine (?_ : Kept l r x → _) ?_ <;> [(intro _; clear_value x); subst x])
    | (intro x; clear_value x)
    | lift_lets -underBinder
    | simp -zeta (disch := (refine Part.all ?_; intro p hp; cases p <;> first | exact hl.no hp (by decide) | exact Eq.refl _)) only [Kept.upd_iff]
    | with_reducible refine State.updPage_kept (hl.of (by decide)) ?_ ..

end Sys2Proof.Machine
end

