-- ==== Sys2Proof/Laws/KeptMailbox.lean ====
section
/-! SUPPORT. What each operation of Machine/Mailbox.lean leaves alone: one lemma for each. -/
set_option maxRecDepth 4000
namespace Sys2Proof.Machine
variable {l : Nat} {r s : State}

theorem State.updMbx_kept (hl : Within 0x40 l) (h : Kept l r s) (m : Nat) (f : Mbx → Mbx) : Kept l r (State.updMbx s m f) := by
  unfold State.updMbx
  repeat' first
    | with_reducible assumption
    | simp -zeta (disch := (refine Part.all ?_; intro p hp; cases p <;> first | exact hl.no hp (by decide) | exact Eq.refl _)) only [Kept.upd_iff]
    | split

theorem State.mbDone_kept (hl : Within 0x20060 l) (h : Kept l r s) (m : Nat) (status : Nat) (detail : Nat) (res : List (Nat × Nat)) : Kept l r (State.mbDone s m status detail res) := by
  unfold State.mbDone
  repeat' first
    | with_reducible assumption
    | with_reducible refine State.updMbx_kept (hl.of (by decide)) ?_ ..
    | with_reducible refine State.ev_kept (hl.of (by decide)) ?_ ..
    | with_reducible refine State.raise_kept (hl.of (by decide)) ?_ ..

theorem State.mvcSet_kept (hl : Within 0x20000260 l) (h : Kept l r s) (ws : List (PageId × Nat × Word)) (target : Word) : Kept l r (State.mvcSet s ws target) := by
  unfold State.mvcSet
  repeat' first
    | with_reducible assumption
    | with_reducible refine State.mvcWrite_kept (hl.of (by decide)) ?_ ..
    | with_reducible refine State.mvcCommit_kept (hl.of (by decide)) ?_ ..
    | with_reducible refine Kept.foldl (fun s a hs => ?_) ?_ _

theorem State.mbReason_kept (hl : Within 0x20060 l) (h : Kept l r s) (m : Nat) (reason : Nat) : Kept l r (State.mbReason s m reason) := by
  exact State.mbDone_kept hl h ..

theorem State.mbPages_kept (hl : Within 0x40 l) (h : Kept l r s) (m : Nat) : Kept l r (State.mbPages s m) := by
  unfold State.mbPages
  repeat' first
    | with_reducible assumption
    | (intro x; clear_value x)
    | lift_lets -underBinder
    | with_reducible refine State.updMbx_kept (hl.of (by decide)) ?_ ..
    | with_reducible refine Kept.foldl (fun s a hs => ?_) ?_ _
    | split

theorem State.mbRun_kept (hl : Within 0x40 l) (h : Kept l r s) (m : Nat) (await : List Nat) (chans : List Nat) : Kept l r (State.mbRun s m await chans) := by
  unfold State.mbRun
  repeat' first
    | with_reducible assumption
    | with_reducible refine State.updMbx_kept (hl.of (by decide)) ?_ ..

theorem State.mbCommit_kept (hl : Within 0x20020260 l) (h : Kept l r s) (m : Nat) (pages : List PageId) (ws : List (PageId × Nat × Word)) (target : Word) : Kept l r (State.mbCommit s m pages ws target) := by
  unfold State.mbCommit
  repeat' first
    | with_reducible assumption
    | lift_lets -underBinder
    | with_reducible refine State.mbDone_kept (hl.of (by decide)) ?_ ..
    | with_reducible refine State.mbRun_kept (hl.of (by decide)) ?_ ..
    | with_reducible refine State.mvcSet_kept (hl.of (by decide)) ?_ ..
    | split

theorem State.writeBytes_kept (hl : Within 0x20000a00 l) (n : Nat) (h : Kept l r s) (pa : Nat) (bs : List Nat) {t : State} (ht : s.writeBytes n pa bs = .inr t) : Kept l r t := by
  induction n generalizing s pa bs with
  | zero => unfold State.writeBytes at ht; cases ht; exact h
  | succ n ih =>
    unfold State.writeBytes at ht
    dsimp only at ht
    (repeat' split at ht) <;> first
      | (cases ht; done)
      | (cases ht; exact h)
      | exact ih (State.putLine_kept (hl.of (by decide)) h ..) _ _ ht

end Sys2Proof.Machine
end

