-- ==== Sys2Proof/Laws/KeptShares.lean ====
section
/-! SUPPORT. What each operation of Machine/Shares.lean leaves alone: one lemma for each. -/
set_option maxRecDepth 4000
namespace Sys2Proof.Machine
variable {l : Nat} {r s : State}

theorem State.armShare_kept (hl : Within 0x400 l) (h : Kept l r s) (c : Nat) (i : Nat) (new : Nat) (f : Nat) (ref : Nat) : Kept l r (State.armShare s c i new f ref) := by
  unfold State.armShare
  repeat' first
    | with_reducible assumption
    | simp -zeta (disch := (refine Part.all ?_; intro p hp; cases p <;> first | exact hl.no hp (by decide) | exact Eq.refl _)) only [Kept.upd_iff]
    | exact fun _ hx => hx
    | with_reducible refine State.updChan_kept (hl.of (by decide)) ?_ ?_ _

theorem State.setRole_kept (hl : Within 0x480 l) (h : Kept l r s) (c : Nat) (a1 : Nat) : Kept l r (State.setRole s c a1) := by
  unfold State.setRole
  repeat' first
    | with_reducible assumption
    | exact fun _ hx => hx
    | (intro x; refine (?_ : Kept l r x → _) ?_ <;> [(intro _; clear_value x); subst x])
    | (intro x; clear_value x)
    | lift_lets -underBinder
    | simp -zeta (disch := (refine Part.all ?_; intro p hp; cases p <;> first | exact hl.no hp (by decide) | exact Eq.refl _)) only [Kept.upd_iff]
    | with_reducible refine State.updChan_kept (hl.of (by decide)) ?_ ?_ _
    | split

theorem State.giveRole_kept (hl : Within 0x24001580 l) (h : Kept l r s) (c : Nat) (a1 : Nat) : Kept l r (State.giveRole s c a1) := by
  unfold State.giveRole
  repeat' first
    | with_reducible assumption
    | (intro x; refine (?_ : Kept l r x → _) ?_ <;> [(intro _; clear_value x); subst x])
    | (intro x; clear_value x)
    | lift_lets -underBinder
    | simp -zeta (disch := (refine Part.all ?_; intro p hp; cases p <;> first | exact hl.no hp (by decide) | exact Eq.refl _)) only [Kept.upd_iff]
    | exact fun _ hx => hx
    | with_reducible refine State.updChan_kept (hl.of (by decide)) ?_ ?_ _
    | with_reducible refine State.setRole_kept (hl.of (by decide)) ?_ ..
    | with_reducible refine State.aliveLost_kept (hl.of (by decide)) ?_ ..
    | split

theorem State.assignRoles_kept (hl : Within 0x24001580 l) (h : Kept l r s) (nom : Nat) (ok : Nat → Bool) : Kept l r (State.assignRoles s nom ok) := by
  unfold State.assignRoles
  repeat' first
    | with_reducible assumption
    | (intro x; refine (?_ : Kept l r x → _) ?_ <;> [(intro _; clear_value x); subst x])
    | (intro x; clear_value x)
    | lift_lets -underBinder
    | simp -zeta (disch := (refine Part.all ?_; intro p hp; cases p <;> first | exact hl.no hp (by decide) | exact Eq.refl _)) only [Kept.upd_iff]
    | with_reducible refine State.giveRole_kept (hl.of (by decide)) ?_ ..
    | with_reducible refine Kept.foldl (fun s a hs => ?_) ?_ _
    | split

theorem State.shareTick_kept (hl : Within 0x20430 l) (h : Kept l r s) (c : Nat) : Kept l r (State.shareTick s c) := by
  unfold State.shareTick
  repeat' first
    | with_reducible assumption
    | simp -zeta (disch := (refine Part.all ?_; intro p hp; cases p <;> first | exact hl.no hp (by decide) | exact Eq.refl _)) only [Kept.upd_iff]
    | exact fun _ hx => hx
    | (intro x; refine (?_ : Kept l r x → _) ?_ <;> [(intro _; clear_value x); subst x])
    | (intro x; clear_value x)
    | lift_lets -underBinder
    | with_reducible refine State.updChan_kept (hl.of (by decide)) ?_ ?_ _
    | with_reducible refine State.slip_kept (hl.of (by decide)) ?_ ..
    | with_reducible refine Kept.foldl (fun s a hs => ?_) ?_ _
    | split

theorem State.tokenTick_kept (hl : Within 0x400 l) (h : Kept l r s) (c : Nat) : Kept l r (State.tokenTick s c) := by
  unfold State.tokenTick
  repeat' first
    | with_reducible assumption
    | simp -zeta (disch := (refine Part.all ?_; intro p hp; cases p <;> first | exact hl.no hp (by decide) | exact Eq.refl _)) only [Kept.upd_iff]
    | exact fun _ hx => hx
    | with_reducible refine State.updChan_kept (hl.of (by decide)) ?_ ?_ _
    | with_reducible refine Kept.foldl (fun s a hs => ?_) ?_ _
    | split

theorem State.shareLatch_kept (hl : Within 0x400 l) (h : Kept l r s) (c : Nat) : Kept l r (State.shareLatch s c) := by
  unfold State.shareLatch
  repeat' first
    | with_reducible assumption
    | exact fun _ hx => hx
    | (intro x; clear_value x)
    | lift_lets -underBinder
    | with_reducible refine State.updChan_kept (hl.of (by decide)) ?_ ?_ _
    | split

end Sys2Proof.Machine
end

