-- ==== Sys2Proof/Laws/KeptMapEpoch.lean ====
section
/-! SUPPORT. What each operation of Machine/MapEpoch.lean leaves alone: one lemma for each. -/
set_option maxRecDepth 4000
namespace Sys2Proof.Machine
variable {l : Nat} {r s : State}

theorem State.armMap_kept (hl : Within 0x80 l) (h : Kept l r s) (kind : Nat) (e : Nat) : Kept l r (State.armMap s kind e) := by
  exact (Kept.upd_iff (fun p hp => by cases p <;> first | exact hl.no hp (by decide) | exact Eq.refl _)).mpr h

theorem State.mapApply_kept (hl : Within 0x20 l) (h : Kept l r s) : Kept l r (State.mapApply s) := by
  unfold State.mapApply
  repeat' first
    | with_reducible assumption
    | lift_lets -underBinder
    | with_reducible refine State.setReg_kept (hl.of (by decide)) ?_ ..
    | with_reducible refine Kept.foldl (fun s a hs => ?_) ?_ _

theorem State.tkRoles_kept (hl : Within 0x640015a0 l) (h : Kept l r s) : Kept l r (State.tkRoles s) := by
  unfold State.tkRoles
  repeat' first
    | with_reducible assumption
    | exact fun _ hx => hx
    | (intro x; refine (?_ : Kept l r x → _) ?_ <;> [(intro _; clear_value x); subst x])
    | (intro x; clear_value x)
    | lift_lets -underBinder
    | simp -zeta (disch := (refine Part.all ?_; intro p hp; cases p <;> first | exact hl.no hp (by decide) | exact Eq.refl _)) only [Kept.upd_iff]
    | with_reducible refine State.setRole_kept (hl.of (by decide)) ?_ ..
    | with_reducible refine State.updChan_kept (hl.of (by decide)) ?_ ?_ _
    | with_reducible refine State.giveRole_kept (hl.of (by decide)) ?_ ..
    | with_reducible refine State.setShd_kept (hl.of (by decide)) ?_ ..
    | with_reducible refine State.setReg_kept (hl.of (by decide)) ?_ ..
    | with_reducible refine State.setFldBoth_kept (hl.of (by decide)) ?_ ..
    | split

theorem State.mapSwitch_kept (hl : Within 0xe40215b0 l) (h : Kept l r s) : Kept l r (State.mapSwitch s) := by
  unfold State.mapSwitch
  repeat' first
    | with_reducible assumption
    | (intro x; refine (?_ : Kept l r x → _) ?_ <;> [(intro _; clear_value x); subst x])
    | (intro x; clear_value x)
    | lift_lets -underBinder
    | simp -zeta (disch := (refine Part.all ?_; intro p hp; cases p <;> first | exact hl.no hp (by decide) | exact Eq.refl _)) only [Kept.upd_iff]
    | with_reducible refine State.mapApply_kept (hl.of (by decide)) ?_ ..
    | with_reducible refine State.updPage_kept (hl.of (by decide)) ?_ ..
    | with_reducible refine State.assignRoles_kept (hl.of (by decide)) ?_ ..
    | with_reducible refine State.raise_kept (hl.of (by decide)) ?_ ..
    | with_reducible refine State.tkRoles_kept (hl.of (by decide)) ?_ ..
    | with_reducible refine State.ev_kept (hl.of (by decide)) ?_ ..
    | with_reducible refine State.slip_kept (hl.of (by decide)) ?_ ..
    | split

theorem State.mapOpen_kept (hl : Within 0x80 l) (h : Kept l r s) : Kept l r (State.mapOpen s) := by
  unfold State.mapOpen
  repeat' first
    | with_reducible assumption
    | (intro x; clear_value x)
    | lift_lets -underBinder
    | simp -zeta (disch := (refine Part.all ?_; intro p hp; cases p <;> first | exact hl.no hp (by decide) | exact Eq.refl _)) only [Kept.upd_iff]
    | split

theorem State.moveReads_kept (hl : Within 0x21620 l) (h : Kept l r s) : Kept l r (State.moveReads s) := by
  unfold State.moveReads
  repeat' first
    | with_reducible assumption
    | simp -zeta (disch := (refine Part.all ?_; intro p hp; cases p <;> first | exact hl.no hp (by decide) | exact Eq.refl _)) only [Kept.upd_iff]
    | (intro x; refine (?_ : Kept l r x → _) ?_ <;> [(intro _; clear_value x); subst x])
    | (intro x; (have _ht : State → _ := x); clear _ht)
    | (intro x; clear_value x)
    | lift_lets -underBinder
    | with_reducible refine State.inject_kept (hl.of (by decide)) ?_ ..
    | with_reducible refine State.updSub_kept (hl.of (by decide)) ?_ ..
    | with_reducible refine Kept.foldl (fun s a hs => ?_) ?_ _

theorem State.tkLatch_kept (hl : Within 0x21620 l) (h : Kept l r s) : Kept l r (State.tkLatch s) := by
  unfold State.tkLatch
  repeat' first
    | with_reducible assumption
    | exact fun _ hx => hx
    | lift_lets -underBinder
    | with_reducible refine State.moveReads_kept (hl.of (by decide)) ?_ ..
    | with_reducible refine State.updChan_kept (hl.of (by decide)) ?_ ?_ _
    | split

end Sys2Proof.Machine
end

