-- ==== Sys2Proof/Laws/KeptLiveService.lean ====
section
/-! SUPPORT. What each operation of Machine/LiveService.lean leaves alone: one lemma for each. -/
set_option maxRecDepth 4000
namespace Sys2Proof.Machine
variable {l : Nat} {r s : State}

theorem State.abandon_kept (hl : Within 0x20030 l) (h : Kept l r s) (kind : Nat) (unit : Nat) : Kept l r (State.abandon s kind unit) := by
  unfold State.abandon
  repeat' first
    | with_reducible assumption
    | (intro x; (have _ht : Esc := x); clear _ht)
    | (intro x; refine (?_ : Kept l r x → _) ?_ <;> [(intro _; clear_value x); subst x])
    | (intro x; clear_value x)
    | lift_lets -underBinder
    | simp -zeta (disch := (refine Part.all ?_; intro p hp; cases p <;> first | exact hl.no hp (by decide) | exact Eq.refl _)) only [Kept.upd_iff]
    | with_reducible refine State.raiseIf_kept (hl.of (by decide)) ?_ ..
    | with_reducible refine State.ev_kept (hl.of (by decide)) ?_ ..
    | split

theorem State.reapply_kept (hl : Within 0x20000260 l) (h : Kept l r s) (p : PageId) : Kept l r (State.reapply s p) := by
  unfold State.reapply
  repeat' first
    | with_reducible assumption
    | with_reducible refine State.mvcCommit_kept (hl.of (by decide)) ?_ ..
    | with_reducible refine State.setShd_kept (hl.of (by decide)) ?_ ..
    | with_reducible refine Kept.foldl (fun s a hs => ?_) ?_ _
    | split

theorem State.adopt_kept (hl : Within 0x20 l) (h : Kept l r s) (p : PageId) : Kept l r (State.adopt s p) := by
  exact State.updPage_kept hl h ..

theorem State.intentLost_kept (hl : Within 0x20000020 l) (h : Kept l r s) : Kept l r (State.intentLost s) := by
  unfold State.intentLost
  repeat' first
    | with_reducible assumption
    | simp -zeta (disch := (refine Part.all ?_; intro p hp; cases p <;> first | exact hl.no hp (by decide) | exact Eq.refl _)) only [Kept.upd_iff]
    | with_reducible refine State.adopt_kept (hl.of (by decide)) ?_ ..
    | with_reducible refine Kept.foldl (fun s a hs => ?_) ?_ _

theorem State.beatFold_kept (hl : Within 0x20000000 l) (h : Kept l r s) : Kept l r (State.beatFold s) := by
  unfold State.beatFold
  repeat' first
    | with_reducible assumption
    | simp -zeta (disch := (refine Part.all ?_; intro p hp; cases p <;> first | exact hl.no hp (by decide) | exact Eq.refl _)) only [Kept.upd_iff]

theorem State.dropMail_kept (hl : Within 0x40090300000 l) (h : Kept l r s) : Kept l r (State.dropMail s) := by
  unfold State.dropMail
  repeat' first
    | with_reducible assumption
    | exact fun _ hx => hx
    | (intro x; refine (?_ : Kept l r x → _) ?_ <;> [(intro _; clear_value x); subst x])
    | (intro x; clear_value x)
    | lift_lets -underBinder
    | simp -zeta (disch := (refine Part.all ?_; intro p hp; cases p <;> first | exact hl.no hp (by decide) | exact Eq.refl _)) only [Kept.upd_iff]
    | with_reducible refine State.updIns_kept (hl.of (by decide)) ?_ ..
    | with_reducible refine Kept.foldl (fun s a hs => ?_) ?_ _

theorem State.mvcRestart_kept (hl : Within 0x400b0320070 l) (h : Kept l r s) (crc : Bool) : Kept l r (State.mvcRestart s crc) := by
  unfold State.mvcRestart
  repeat' first
    | with_reducible assumption
    | (intro x; refine (?_ : Kept l r x → _) ?_ <;> [(intro _; clear_value x); subst x])
    | (intro x; clear_value x)
    | lift_lets -underBinder
    | simp -zeta (disch := (refine Part.all ?_; intro p hp; cases p <;> first | exact hl.no hp (by decide) | exact Eq.refl _)) only [Kept.upd_iff]
    | with_reducible refine State.abandon_kept (hl.of (by decide)) ?_ ..
    | with_reducible refine State.mbDone_kept (hl.of (by decide)) ?_ ..
    | with_reducible refine State.updIns_kept (hl.of (by decide)) ?_ ..
    | with_reducible refine State.intentLost_kept (hl.of (by decide)) ?_ ..
    | with_reducible refine State.overrun_kept (hl.of (by decide)) ?_ ..
    | with_reducible refine State.beatFold_kept (hl.of (by decide)) ?_ ..
    | with_reducible refine State.updMbx_kept (hl.of (by decide)) ?_ ..
    | with_reducible refine State.dropMail_kept (hl.of (by decide)) ?_ ..
    | with_reducible refine Kept.foldl (fun s a hs => ?_) ?_ _
    | split

theorem State.mvcRestartCmd_kept (hl : Within 0x400b0320070 l) (h : Kept l r s) (crc : Bool) : Kept l r (State.mvcRestartCmd s crc) := by
  unfold State.mvcRestartCmd
  repeat' first
    | with_reducible assumption
    | lift_lets -underBinder
    | simp -zeta (disch := (refine Part.all ?_; intro p hp; cases p <;> first | exact hl.no hp (by decide) | exact Eq.refl _)) only [Kept.upd_iff]
    | with_reducible refine State.mvcRestart_kept (hl.of (by decide)) ?_ ..
    | split

theorem State.loadTable_kept (hl : Within 0x20000020 l) (h : Kept l r s) (c : Nat) (sc : Nat) (img : Image) (keep : Bool) : Kept l r (State.loadTable s c sc img keep) := by
  unfold State.loadTable
  repeat' first
    | with_reducible assumption
    | with_reducible refine State.mvcShadow_kept (hl.of (by decide)) ?_ ..
    | with_reducible refine Kept.foldl (fun s a hs => ?_) ?_ _

theorem State.bootTables_kept (hl : Within 0x20000260 l) (h : Kept l r s) (c : Nat) (set : Nat) (keep : Bool) : Kept l r (State.bootTables s c set keep) := by
  unfold State.bootTables
  repeat' first
    | with_reducible assumption
    | (intro x; refine (?_ : Kept l r x → _) ?_ <;> [(intro _; clear_value x); subst x])
    | (intro x; clear_value x)
    | lift_lets -underBinder
    | with_reducible refine State.mvcTable_kept (hl.of (by decide)) ?_ ..
    | with_reducible refine State.loadTable_kept (hl.of (by decide)) ?_ ..
    | with_reducible refine Kept.foldl (fun s a hs => ?_) ?_ _
    | split

theorem State.moveStart_kept (hl : Within 0xa00006e0 l) (h : Kept l r s) (kind : Nat) (src : Nat) (dst : Nat) (force : Bool) (mb : Option Nat) (left : List Nat) (began : Nat) : Kept l r (State.moveStart s kind src dst force mb left began) := by
  unfold State.moveStart
  repeat' first
    | with_reducible assumption
    | exact fun _ hx => hx
    | lift_lets -underBinder
    | simp -zeta (disch := (refine Part.all ?_; intro p hp; cases p <;> first | exact hl.no hp (by decide) | exact Eq.refl _)) only [Kept.upd_iff]
    | with_reducible refine State.mvcSet_kept (hl.of (by decide)) ?_ ..
    | with_reducible refine State.wake_kept (hl.of (by decide)) ?_ ..
    | with_reducible refine State.armMap_kept (hl.of (by decide)) ?_ ..
    | with_reducible refine State.bootTables_kept (hl.of (by decide)) ?_ ..
    | with_reducible refine State.updChan_kept (hl.of (by decide)) ?_ ?_ _
    | split

theorem State.moveOpen_kept (hl : Within 0xa00006e0 l) (h : Kept l r s) : Kept l r (State.moveOpen s) := by
  unfold State.moveOpen
  repeat' first
    | with_reducible assumption
    | exact fun _ hx => hx
    | (intro x; refine (?_ : Kept l r x → _) ?_ <;> [(intro _; clear_value x); subst x])
    | (intro x; clear_value x)
    | lift_lets -underBinder
    | simp -zeta (disch := (refine Part.all ?_; intro p hp; cases p <;> first | exact hl.no hp (by decide) | exact Eq.refl _)) only [Kept.upd_iff]
    | with_reducible refine State.mvcSet_kept (hl.of (by decide)) ?_ ..
    | with_reducible refine State.wake_kept (hl.of (by decide)) ?_ ..
    | with_reducible refine State.armMap_kept (hl.of (by decide)) ?_ ..
    | with_reducible refine State.bootTables_kept (hl.of (by decide)) ?_ ..
    | with_reducible refine State.updChan_kept (hl.of (by decide)) ?_ ?_ _
    | split

theorem State.afterSwitch_kept (hl : Within 0xa00006e0 l) (h : Kept l r s) : Kept l r (State.afterSwitch s) := by
  unfold State.afterSwitch
  repeat' first
    | with_reducible assumption
    | exact fun _ hx => hx
    | (intro x; refine (?_ : Kept l r x → _) ?_ <;> [(intro _; clear_value x); subst x])
    | (intro x; clear_value x)
    | lift_lets -underBinder
    | simp -zeta (disch := (refine Part.all ?_; intro p hp; cases p <;> first | exact hl.no hp (by decide) | exact Eq.refl _)) only [Kept.upd_iff]
    | with_reducible refine State.mvcSet_kept (hl.of (by decide)) ?_ ..
    | with_reducible refine State.updChan_kept (hl.of (by decide)) ?_ ?_ _
    | with_reducible refine State.moveStart_kept (hl.of (by decide)) ?_ ..
    | with_reducible refine State.moveOpen_kept (hl.of (by decide)) ?_ ..
    | split

theorem State.supplyOff_kept (hl : Within 0x400 l) (h : Kept l r s) (c : Nat) : Kept l r (State.supplyOff s c) := by
  unfold State.supplyOff
  refine State.updChan_kept (hl.of (by decide)) ?_ h _
  exact fun _ hx => hx

theorem State.stageSupply_kept (hl : Within 0x400 l) (h : Kept l r s) (c : Nat) (on : Bool) : Kept l r (State.stageSupply s c on) := by
  unfold State.stageSupply
  repeat' first
    | with_reducible assumption
    | exact fun _ hx => hx
    | simp -zeta (disch := (refine Part.all ?_; intro p hp; cases p <;> first | exact hl.no hp (by decide) | exact Eq.refl _)) only [Kept.upd_iff]
    | with_reducible refine State.updChan_kept (hl.of (by decide)) ?_ ?_ _

theorem State.rejoinFail_kept (hl : Within 0x80020460 l) (h : Kept l r s) (reason : Nat) : Kept l r (State.rejoinFail s reason) := by
  unfold State.rejoinFail
  repeat' first
    | with_reducible assumption
    | exact fun _ hx => hx
    | (intro x; refine (?_ : Kept l r x → _) ?_ <;> [(intro _; clear_value x); subst x])
    | (intro x; clear_value x)
    | lift_lets -underBinder
    | simp -zeta (disch := (refine Part.all ?_; intro p hp; cases p <;> first | exact hl.no hp (by decide) | exact Eq.refl _)) only [Kept.upd_iff]
    | with_reducible refine State.supplyOff_kept (hl.of (by decide)) ?_ ..
    | with_reducible refine State.mbReason_kept (hl.of (by decide)) ?_ ..
    | with_reducible refine State.stageSupply_kept (hl.of (by decide)) ?_ ..
    | with_reducible refine State.updChan_kept (hl.of (by decide)) ?_ ?_ _
    | split

theorem State.rejoinCal_kept (hl : Within 0xa0020660 l) (h : Kept l r s) : Kept l r (State.rejoinCal s) := by
  unfold State.rejoinCal
  repeat' first
    | with_reducible assumption
    | (intro x; refine (?_ : Kept l r x → _) ?_ <;> [(intro _; clear_value x); subst x])
    | simp -zeta (disch := (refine Part.all ?_; intro p hp; cases p <;> first | exact hl.no hp (by decide) | exact Eq.refl _)) only [Kept.upd_iff]
    | exact fun _ hx => hx
    | (intro x; clear_value x)
    | lift_lets -underBinder
    | with_reducible refine State.updChan_kept (hl.of (by decide)) ?_ ?_ _
    | with_reducible refine State.bootTables_kept (hl.of (by decide)) ?_ ..
    | with_reducible refine State.rejoinFail_kept (hl.of (by decide)) ?_ ..
    | split

theorem State.testEnd_kept (hl : Within 0x40000420c60 l) (h : Kept l r s) (status : Nat) (res : List (Nat × Nat)) : Kept l r (State.testEnd s status res) := by
  unfold State.testEnd
  repeat' first
    | with_reducible assumption
    | exact fun _ hx => hx
    | (intro x; refine (?_ : Kept l r x → _) ?_ <;> [(intro _; clear_value x); subst x])
    | (intro x; clear_value x)
    | lift_lets -underBinder
    | simp -zeta (disch := (refine Part.all ?_; intro p hp; cases p <;> first | exact hl.no hp (by decide) | exact Eq.refl _)) only [Kept.upd_iff]
    | with_reducible refine State.supplyOff_kept (hl.of (by decide)) ?_ ..
    | with_reducible refine State.loseLines_kept (hl.of (by decide)) ?_ ..
    | with_reducible refine State.updCal_kept (hl.of (by decide)) ?_ ..
    | with_reducible refine State.raise_kept (hl.of (by decide)) ?_ ..
    | with_reducible refine State.mbDone_kept (hl.of (by decide)) ?_ ..
    | with_reducible refine State.stageSupply_kept (hl.of (by decide)) ?_ ..
    | with_reducible refine State.updChan_kept (hl.of (by decide)) ?_ ?_ _
    | split

theorem State.enable_kept (hl : Within 0x20000030 l) (h : Kept l r s) (p : PageId) : Kept l r (State.enable s p) := by
  unfold State.enable
  repeat' first
    | with_reducible assumption
    | with_reducible refine State.standoff_kept (hl.of (by decide)) ?_ ..
    | with_reducible refine State.overrun_kept (hl.of (by decide)) ?_ ..
    | with_reducible refine State.updPage_kept (hl.of (by decide)) ?_ ..
    | split

theorem State.supplyOn_kept (hl : Within 0x20000430 l) (h : Kept l r s) (c : Nat) : Kept l r (State.supplyOn s c) := by
  unfold State.supplyOn
  repeat' first
    | with_reducible assumption
    | exact fun _ hx => hx
    | (intro x; refine (?_ : Kept l r x → _) ?_ <;> [(intro _; clear_value x); subst x])
    | lift_lets -underBinder
    | with_reducible refine State.updChan_kept (hl.of (by decide)) ?_ ?_ _
    | with_reducible refine State.enable_kept (hl.of (by decide)) ?_ ..
    | with_reducible refine Kept.foldl (fun s a hs => ?_) ?_ _

theorem State.testPlace_kept (hl : Within 0x20400670 l) (h : Kept l r s) : Kept l r (State.testPlace s) := by
  unfold State.testPlace
  repeat' first
    | with_reducible assumption
    | simp -zeta (disch := (refine Part.all ?_; intro p hp; cases p <;> first | exact hl.no hp (by decide) | exact Eq.refl _)) only [Kept.upd_iff]
    | exact fun _ hx => hx
    | (intro x; refine (?_ : Kept l r x → _) ?_ <;> [(intro _; clear_value x); subst x])
    | (intro x; clear_value x)
    | lift_lets -underBinder
    | with_reducible refine State.updCal_kept (hl.of (by decide)) ?_ ..
    | with_reducible refine State.updChan_kept (hl.of (by decide)) ?_ ?_ _
    | with_reducible refine State.supplyOn_kept (hl.of (by decide)) ?_ ..
    | with_reducible refine State.calRequest_kept (hl.of (by decide)) ?_ ..
    | with_reducible refine State.bootTables_kept (hl.of (by decide)) ?_ ..
    | split

theorem State.chanTest_kept (hl : Within 0x40020420e70 l) (h : Kept l r s) (kind : Nat) (errs : Nat) (ranks : Nat) (w0 : Word) (w1 : Word) : Kept l r (State.chanTest s kind errs ranks w0 w1) := by
  unfold State.chanTest
  repeat' first
    | with_reducible assumption
    | (intro x; refine (?_ : Kept l r x → _) ?_ <;> [(intro _; clear_value x); subst x])
    | (intro x; clear_value x)
    | lift_lets -underBinder
    | simp -zeta (disch := (refine Part.all ?_; intro p hp; cases p <;> first | exact hl.no hp (by decide) | exact Eq.refl _)) only [Kept.upd_iff]
    | with_reducible refine State.testEnd_kept (hl.of (by decide)) ?_ ..
    | with_reducible refine State.mbDone_kept (hl.of (by decide)) ?_ ..
    | with_reducible refine State.updCal_kept (hl.of (by decide)) ?_ ..
    | with_reducible refine State.mbRun_kept (hl.of (by decide)) ?_ ..
    | with_reducible refine State.testPlace_kept (hl.of (by decide)) ?_ ..
    | with_reducible refine State.loseLines_kept (hl.of (by decide)) ?_ ..
    | split

theorem State.copyCfg_kept (hl : Within 0x60000030 l) (h : Kept l r s) (c : Nat) (v : Word) (go : State → State) (hgo : ∀ s, Kept l r s → Kept l r (go s)) : Kept l r (State.copyCfg s c v go) := by
  unfold State.copyCfg
  repeat' first
    | with_reducible assumption
    | (refine hgo _ ?_)
    | (intro x; clear_value x)
    | lift_lets -underBinder
    | with_reducible refine State.applyCopy_kept (hl.of (by decide)) ?_ ..
    | with_reducible refine State.setBoth_kept (hl.of (by decide)) ?_ ..
    | with_reducible refine State.standoff_kept (hl.of (by decide)) ?_ ..
    | with_reducible refine State.overrun_kept (hl.of (by decide)) ?_ ..
    | split

theorem State.copyLine_kept (hl : Within 0x60121562 l) (h : Kept l r s) : Kept l r (State.copyLine s) := by
  unfold State.copyLine
  repeat' first
    | with_reducible assumption
    | (intro x; refine (?_ : Kept l r x → _) ?_ <;> [(intro _; clear_value x); subst x])
    | (intro x; clear_value x)
    | lift_lets -underBinder
    | simp -zeta (disch := (refine Part.all ?_; intro p hp; cases p <;> first | exact hl.no hp (by decide) | exact Eq.refl _)) only [Kept.upd_iff]
    | with_reducible refine State.goto_kept (hl.of (by decide)) ?_ ..
    | with_reducible refine State.copyWrite_kept (hl.of (by decide)) ?_ ..
    | split

theorem State.copyStart_kept (hl : Within 0xe0000430 l) (h : Kept l r s) : Kept l r (State.copyStart s) := by
  unfold State.copyStart
  refine State.copyCfg_kept (hl.of (by decide)) h _ _ _ fun s hs => ?_
  exact (Kept.upd_iff (fun p hp => by cases p <;> first | exact hl.no hp (by decide) | exact Eq.refl _)).mpr
    (by refine State.updChan_kept (hl.of (by decide)) ?_ hs _; exact fun _ hx => hx)

theorem State.crcFree_kept (hl : Within 0x8000 l) (h : Kept l r s) : Kept l r (State.crcFree s).2 :=
  (Kept.upd_iff (fun p hp => by cases p <;> first | exact hl.no hp (by decide) | exact Eq.refl _)).mpr h

theorem State.fwTick_kept (hl : Within 0x400b0328070 l) (h : Kept l r s) : Kept l r (State.fwTick s) := by
  unfold State.fwTick
  repeat' first
    | with_reducible assumption
    | (intro x; refine (?_ : Kept l r x → _) ?_ <;> [(intro _; clear_value x); subst x])
    | (intro x; refine (?_ : Kept l r x.2 → _) ?_ <;> [(intro _; clear_value x); subst x])
    | (intro x; clear_value x)
    | lift_lets -underBinder
    | simp -zeta (disch := (refine Part.all ?_; intro p hp; cases p <;> first | exact hl.no hp (by decide) | exact Eq.refl _)) only [Kept.upd_iff]
    | with_reducible refine State.mvcRestart_kept (hl.of (by decide)) ?_ ..
    | with_reducible refine State.beatFold_kept (hl.of (by decide)) ?_ ..
    | with_reducible refine State.crcFree_kept (hl.of (by decide)) ?_ ..
    | split

theorem State.rejoinOpen_kept (hl : Within 0xa0000430 l) (h : Kept l r s) : Kept l r (State.rejoinOpen s) := by
  unfold State.rejoinOpen
  repeat' first
    | with_reducible assumption
    | exact fun _ hx => hx
    | (intro x; refine (?_ : Kept l r x → _) ?_ <;> [(intro _; clear_value x); subst x])
    | (intro x; clear_value x)
    | lift_lets -underBinder
    | simp -zeta (disch := (refine Part.all ?_; intro p hp; cases p <;> first | exact hl.no hp (by decide) | exact Eq.refl _)) only [Kept.upd_iff]
    | with_reducible refine State.supplyOn_kept (hl.of (by decide)) ?_ ..
    | with_reducible refine State.updChan_kept (hl.of (by decide)) ?_ ?_ _

theorem State.rejoinNoPower_kept (hl : Within 0x80028460 l) (h : Kept l r s) : Kept l r (State.rejoinNoPower s) := by
  unfold State.rejoinNoPower
  repeat' first
    | with_reducible assumption
    | simp -zeta (disch := (refine Part.all ?_; intro p hp; cases p <;> first | exact hl.no hp (by decide) | exact Eq.refl _)) only [Kept.upd_iff]
    | with_reducible refine State.rejoinFail_kept (hl.of (by decide)) ?_ ..

theorem State.rejoinMoved_kept (hl : Within 0x80000400 l) (h : Kept l r s) : Kept l r (State.rejoinMoved s) := by
  unfold State.rejoinMoved
  repeat' first
    | with_reducible assumption
    | exact fun _ hx => hx
    | (intro x; refine (?_ : Kept l r x → _) ?_ <;> [(intro _; clear_value x); subst x])
    | (intro x; clear_value x)
    | lift_lets -underBinder
    | simp -zeta (disch := (refine Part.all ?_; intro p hp; cases p <;> first | exact hl.no hp (by decide) | exact Eq.refl _)) only [Kept.upd_iff]
    | with_reducible refine State.updChan_kept (hl.of (by decide)) ?_ ?_ _
    | split

theorem State.rejoinTick_kept (hl : Within 0xa44295f0 l) (h : Kept l r s) : Kept l r (State.rejoinTick s) := by
  unfold State.rejoinTick
  repeat' first
    | with_reducible assumption
    | exact fun _ hx => hx
    | (intro x; refine (?_ : Kept l r x → _) ?_ <;> [(intro _; clear_value x); subst x])
    | (intro x; clear_value x)
    | lift_lets -underBinder
    | simp -zeta (disch := (refine Part.all ?_; intro p hp; cases p <;> first | exact hl.no hp (by decide) | exact Eq.refl _)) only [Kept.upd_iff]
    | with_reducible refine State.calRequest_kept (hl.of (by decide)) ?_ ..
    | with_reducible refine State.updChan_kept (hl.of (by decide)) ?_ ?_ _
    | with_reducible refine State.giveRole_kept (hl.of (by decide)) ?_ ..
    | with_reducible refine State.raise_kept (hl.of (by decide)) ?_ ..
    | with_reducible refine State.mbDone_kept (hl.of (by decide)) ?_ ..
    | with_reducible refine State.rejoinOpen_kept (hl.of (by decide)) ?_ ..
    | with_reducible refine State.rejoinNoPower_kept (hl.of (by decide)) ?_ ..
    | with_reducible refine State.rejoinMoved_kept (hl.of (by decide)) ?_ ..
    | split

theorem State.moveFail_kept (hl : Within 0xe40215f0 l) (h : Kept l r s) : Kept l r (State.moveFail s) := by
  unfold State.moveFail
  refine State.copyCfg_kept (hl.of (by decide)) h _ _ _ fun s hs => ?_
  repeat' first
    | with_reducible assumption
    | exact fun _ hx => hx
    | (intro x; refine (?_ : Kept l r x → _) ?_ <;> [(intro _; clear_value x); subst x])
    | (intro x; clear_value x)
    | lift_lets -underBinder
    | simp -zeta (disch := (refine Part.all ?_; intro p hp; cases p <;> first | exact hl.no hp (by decide) | exact Eq.refl _)) only [Kept.upd_iff]
    | with_reducible refine State.giveRole_kept (hl.of (by decide)) ?_ ..
    | with_reducible refine State.updChan_kept (hl.of (by decide)) ?_ ?_ _
    | with_reducible refine State.mbDone_kept (hl.of (by decide)) ?_ ..
    | split

theorem State.switchStart_kept (hl : Within 0xa00006e0 l) (h : Kept l r s) : Kept l r (State.switchStart s) := by
  unfold State.switchStart
  repeat' first
    | with_reducible assumption
    | exact fun _ hx => hx
    | (intro x; refine (?_ : Kept l r x → _) ?_ <;> [(intro _; clear_value x); subst x])
    | (intro x; clear_value x)
    | lift_lets -underBinder
    | simp -zeta (disch := (refine Part.all ?_; intro p hp; cases p <;> first | exact hl.no hp (by decide) | exact Eq.refl _)) only [Kept.upd_iff]
    | with_reducible refine State.mvcWrite_kept (hl.of (by decide)) ?_ ..
    | with_reducible refine State.mvcTable_kept (hl.of (by decide)) ?_ ..
    | with_reducible refine State.mvcSet_kept (hl.of (by decide)) ?_ ..
    | with_reducible refine State.armMap_kept (hl.of (by decide)) ?_ ..
    | with_reducible refine State.updChan_kept (hl.of (by decide)) ?_ ?_ _
    | with_reducible refine Kept.foldl (fun s a hs => ?_) ?_ _

theorem State.rehashEnd_kept (hl : Within 0xa0000660 l) (h : Kept l r s) : Kept l r (State.rehashEnd s) := by
  unfold State.rehashEnd
  repeat' first
    | with_reducible assumption
    | exact fun _ hx => hx
    | (intro x; refine (?_ : Kept l r x → _) ?_ <;> [(intro _; clear_value x); subst x])
    | (intro x; clear_value x)
    | lift_lets -underBinder
    | simp -zeta (disch := (refine Part.all ?_; intro p hp; cases p <;> first | exact hl.no hp (by decide) | exact Eq.refl _)) only [Kept.upd_iff]
    | with_reducible refine State.mapApply_kept (hl.of (by decide)) ?_ ..
    | with_reducible refine State.updChan_kept (hl.of (by decide)) ?_ ?_ _
    | with_reducible refine State.bootTables_kept (hl.of (by decide)) ?_ ..
    | with_reducible refine Kept.foldl (fun s a hs => ?_) ?_ _

theorem State.moveDone_kept (hl : Within 0xa0020660 l) (h : Kept l r s) : Kept l r (State.moveDone s) := by
  unfold State.moveDone
  repeat' first
    | with_reducible assumption
    | exact fun _ hx => hx
    | (intro x; refine (?_ : Kept l r x → _) ?_ <;> [(intro _; clear_value x); subst x])
    | (intro x; clear_value x)
    | lift_lets -underBinder
    | simp -zeta (disch := (refine Part.all ?_; intro p hp; cases p <;> first | exact hl.no hp (by decide) | exact Eq.refl _)) only [Kept.upd_iff]
    | with_reducible refine State.supplyOff_kept (hl.of (by decide)) ?_ ..
    | with_reducible refine State.updChan_kept (hl.of (by decide)) ?_ ?_ _
    | with_reducible refine State.raise_kept (hl.of (by decide)) ?_ ..
    | with_reducible refine State.reapply_kept (hl.of (by decide)) ?_ ..
    | with_reducible refine State.mbDone_kept (hl.of (by decide)) ?_ ..
    | with_reducible refine Kept.foldl (fun s a hs => ?_) ?_ _
    | split

theorem State.moveTick_kept (hl : Within 0xe40217f0 l) (h : Kept l r s) : Kept l r (State.moveTick s) := by
  unfold State.moveTick
  extract_lets k src u
  have hu : Kept l r u := (Kept.upd_iff (fun p hp => by cases p <;> first | exact hl.no hp (by decide) | exact Eq.refl _)).mpr h
  repeat' split
  all_goals first
    | with_reducible exact h
    | with_reducible exact hu
    | with_reducible exact State.moveFail_kept (hl.of (by decide)) h
    | with_reducible exact State.copyStart_kept (hl.of (by decide)) h
    | with_reducible exact State.switchStart_kept (hl.of (by decide)) hu
    | with_reducible exact State.afterSwitch_kept (hl.of (by decide)) h
    | with_reducible exact State.rehashEnd_kept (hl.of (by decide)) h
    | with_reducible exact State.moveOpen_kept (hl.of (by decide)) h
    | with_reducible exact State.moveDone_kept (hl.of (by decide)) h
    | (refine (Kept.upd_iff (fun p hp => by cases p <;> first | exact hl.no hp (by decide) | exact Eq.refl _)).mpr (State.updChan_kept (hl.of (by decide)) ?_ h _); exact fun _ hx => hx)

theorem State.rateApply_kept (hl : Within 0x140000000 l) (h : Kept l r s) : Kept l r (State.rateApply s) := by
  unfold State.rateApply
  repeat' first
    | with_reducible assumption
    | (intro x; refine (?_ : Kept l r x → _) ?_ <;> [(intro _; clear_value x); subst x])
    | (intro x; clear_value x)
    | lift_lets -underBinder
    | simp -zeta (disch := (refine Part.all ?_; intro p hp; cases p <;> first | exact hl.no hp (by decide) | exact Eq.refl _)) only [Kept.upd_iff]
    | split

theorem State.fillDone_kept (hl : Within 0xa0020e70 l) (h : Kept l r s) (c : Nat) : Kept l r (State.fillDone s c) := by
  unfold State.fillDone
  repeat' first
    | with_reducible assumption
    | exact fun _ hx => hx
    | (intro x; refine (?_ : Kept l r x → _) ?_ <;> [(intro _; clear_value x); subst x])
    | (intro x; clear_value x)
    | lift_lets -underBinder
    | simp -zeta (disch := (refine Part.all ?_; intro p hp; cases p <;> first | exact hl.no hp (by decide) | exact Eq.refl _)) only [Kept.upd_iff]
    | with_reducible refine State.bootTables_kept (hl.of (by decide)) ?_ ..
    | with_reducible refine State.loseLines_kept (hl.of (by decide)) ?_ ..
    | with_reducible refine State.mvcWrite_kept (hl.of (by decide)) ?_ ..
    | with_reducible refine State.setShd_kept (hl.of (by decide)) ?_ ..
    | with_reducible refine State.mvcCommit_kept (hl.of (by decide)) ?_ ..
    | with_reducible refine State.reapply_kept (hl.of (by decide)) ?_ ..
    | with_reducible refine State.enable_kept (hl.of (by decide)) ?_ ..
    | with_reducible refine State.updChan_kept (hl.of (by decide)) ?_ ?_ _
    | with_reducible refine State.mbDone_kept (hl.of (by decide)) ?_ ..
    | with_reducible refine State.mvcShadow_kept (hl.of (by decide)) ?_ ..
    | with_reducible refine Kept.foldl (fun s a hs => ?_) ?_ _
    | split

theorem State.fwSwap_kept (hl : Within 0x20020060 l) (h : Kept l r s) (wrote : Bool) : Kept l r (State.fwSwap s wrote) := by
  unfold State.fwSwap
  repeat' first
    | with_reducible assumption
    | (intro x; refine (?_ : Kept l r x → _) ?_ <;> [(intro _; clear_value x); subst x])
    | (intro x; clear_value x)
    | lift_lets -underBinder
    | simp -zeta (disch := (refine Part.all ?_; intro p hp; cases p <;> first | exact hl.no hp (by decide) | exact Eq.refl _)) only [Kept.upd_iff]
    | with_reducible refine State.mbDone_kept (hl.of (by decide)) ?_ ..
    | with_reducible refine State.mbReason_kept (hl.of (by decide)) ?_ ..
    | with_reducible refine State.mbRun_kept (hl.of (by decide)) ?_ ..
    | split

theorem State.reapplyAll_kept (hl : Within 0x20000260 l) (h : Kept l r s) : Kept l r (State.reapplyAll s) := by
  unfold State.reapplyAll
  repeat' first
    | with_reducible assumption
    | exact fun _ hx => hx
    | (intro x; refine (?_ : Kept l r x → _) ?_ <;> [(intro _; clear_value x); subst x])
    | (intro x; clear_value x)
    | lift_lets -underBinder
    | simp -zeta (disch := (refine Part.all ?_; intro p hp; cases p <;> first | exact hl.no hp (by decide) | exact Eq.refl _)) only [Kept.upd_iff]
    | with_reducible refine State.reapply_kept (hl.of (by decide)) ?_ ..
    | with_reducible refine State.setShd_kept (hl.of (by decide)) ?_ ..
    | with_reducible refine State.mvcCommit_kept (hl.of (by decide)) ?_ ..
    | with_reducible refine Kept.foldl (fun s a hs => ?_) ?_ _
    | split

theorem State.fwSwapped_kept (hl : Within 0x20020260 l) (h : Kept l r s) : Kept l r (State.fwSwapped s) := by
  unfold State.fwSwapped
  repeat' first
    | with_reducible assumption
    | (intro x; refine (?_ : Kept l r x → _) ?_ <;> [(intro _; clear_value x); subst x])
    | (intro x; clear_value x)
    | lift_lets -underBinder
    | simp -zeta (disch := (refine Part.all ?_; intro p hp; cases p <;> first | exact hl.no hp (by decide) | exact Eq.refl _)) only [Kept.upd_iff]
    | with_reducible refine State.raise_kept (hl.of (by decide)) ?_ ..
    | with_reducible refine State.mbDone_kept (hl.of (by decide)) ?_ ..
    | with_reducible refine State.reapplyAll_kept (hl.of (by decide)) ?_ ..
    | split

theorem State.fwTimeout_kept (hl : Within 0x20129562 l) (h : Kept l r s) : Kept l r (State.fwTimeout s) := by
  unfold State.fwTimeout
  repeat' first
    | with_reducible assumption
    | (intro x; refine (?_ : Kept l r x → _) ?_ <;> [(intro _; clear_value x); subst x])
    | (intro x; refine (?_ : Kept l r x.2 → _) ?_ <;> [(intro _; clear_value x); subst x])
    | (intro x; clear_value x)
    | lift_lets -underBinder
    | simp -zeta (disch := (refine Part.all ?_; intro p hp; cases p <;> first | exact hl.no hp (by decide) | exact Eq.refl _)) only [Kept.upd_iff]
    | with_reducible refine State.goto_kept (hl.of (by decide)) ?_ ..
    | with_reducible refine State.raise_kept (hl.of (by decide)) ?_ ..
    | with_reducible refine State.mbReason_kept (hl.of (by decide)) ?_ ..
    | with_reducible refine State.intentLost_kept (hl.of (by decide)) ?_ ..
    | with_reducible refine State.crcFree_kept (hl.of (by decide)) ?_ ..
    | split

theorem State.mvcHalt_kept (hl : Within 0x400b4321570 l) (h : Kept l r s) : Kept l r (State.mvcHalt s) := by
  unfold State.mvcHalt
  repeat' first
    | with_reducible assumption
    | (intro x; refine (?_ : Kept l r x → _) ?_ <;> [(intro _; clear_value x); subst x])
    | (intro x; clear_value x)
    | lift_lets -underBinder
    | simp -zeta (disch := (refine Part.all ?_; intro p hp; cases p <;> first | exact hl.no hp (by decide) | exact Eq.refl _)) only [Kept.upd_iff]
    | with_reducible refine State.mbDone_kept (hl.of (by decide)) ?_ ..
    | with_reducible refine State.updIns_kept (hl.of (by decide)) ?_ ..
    | with_reducible refine State.beatFold_kept (hl.of (by decide)) ?_ ..
    | with_reducible refine State.overrun_kept (hl.of (by decide)) ?_ ..
    | with_reducible refine State.dropMail_kept (hl.of (by decide)) ?_ ..
    | with_reducible refine State.aliveLost_kept (hl.of (by decide)) ?_ ..
    | with_reducible refine Kept.foldl (fun s a hs => ?_) ?_ _
    | split

theorem State.lockstep_kept (hl : Within 0x400b4321570 l) (h : Kept l r s) (crc : Bool) : Kept l r (State.lockstep s crc) := by
  unfold State.lockstep
  repeat' first
    | with_reducible assumption
    | (intro x; refine (?_ : Kept l r x → _) ?_ <;> [(intro _; clear_value x); subst x])
    | (intro x; clear_value x)
    | lift_lets -underBinder
    | simp -zeta (disch := (refine Part.all ?_; intro p hp; cases p <;> first | exact hl.no hp (by decide) | exact Eq.refl _)) only [Kept.upd_iff]
    | with_reducible refine State.raise_kept (hl.of (by decide)) ?_ ..
    | with_reducible refine State.mvcHalt_kept (hl.of (by decide)) ?_ ..
    | with_reducible refine State.mvcRestart_kept (hl.of (by decide)) ?_ ..
    | split

theorem State.rejoinStart_kept (hl : Within 0x80000000 l) (h : Kept l r s) (c m : Nat) : Kept l r (State.rejoinStart s c m) :=
  (Kept.upd_iff (fun p hp => by cases p <;> first | exact hl.no hp (by decide) | exact Eq.refl _)).mpr h

theorem State.poisonMode_kept (hl : Within 0x60121562 l) (h : Kept l r s) : Kept l r (State.poisonMode s) := by
  unfold State.poisonMode
  repeat' first
    | with_reducible assumption
    | (intro x; refine (?_ : Kept l r x → _) ?_ <;> [(intro _; clear_value x); subst x])
    | (intro x; clear_value x)
    | lift_lets -underBinder
    | simp -zeta (disch := (refine Part.all ?_; intro p hp; cases p <;> first | exact hl.no hp (by decide) | exact Eq.refl _)) only [Kept.upd_iff]
    | with_reducible refine State.goto_kept (hl.of (by decide)) ?_ ..
    | with_reducible refine State.copyWrite_kept (hl.of (by decide)) ?_ ..
    | with_reducible refine Kept.foldl (fun s a hs => ?_) ?_ _
    | split

theorem State.takeoverPower_kept (hl : Within 0x80020460 l) (h : Kept l r s) : Kept l r (State.takeoverPower s) := by
  unfold State.takeoverPower
  repeat' first
    | with_reducible assumption
    | exact fun _ hx => hx
    | (intro x; refine (?_ : Kept l r x → _) ?_ <;> [(intro _; clear_value x); subst x])
    | (intro x; clear_value x)
    | lift_lets -underBinder
    | simp -zeta (disch := (refine Part.all ?_; intro p hp; cases p <;> first | exact hl.no hp (by decide) | exact Eq.refl _)) only [Kept.upd_iff]
    | with_reducible refine State.updChan_kept (hl.of (by decide)) ?_ ?_ _
    | with_reducible refine State.supplyOff_kept (hl.of (by decide)) ?_ ..
    | with_reducible refine State.raise_kept (hl.of (by decide)) ?_ ..
    | with_reducible refine State.mbDone_kept (hl.of (by decide)) ?_ ..
    | split

theorem State.takeoverStart_kept (hl : Within 0xa00006e0 l) (h : Kept l r s) (c : Nat) : Kept l r (State.takeoverStart s c) := by
  unfold State.takeoverStart
  repeat' first
    | with_reducible assumption
    | exact fun _ hx => hx
    | lift_lets -underBinder
    | with_reducible refine State.moveStart_kept (hl.of (by decide)) ?_ ..
    | with_reducible refine State.updChan_kept (hl.of (by decide)) ?_ ?_ _
    | split

theorem State.supplyTick_kept (hl : Within 0x20000430 l) (h : Kept l r s) (c : Nat) : Kept l r (State.supplyTick s c) := by
  unfold State.supplyTick
  repeat' first
    | with_reducible assumption
    | exact fun _ hx => hx
    | (intro x; refine (?_ : Kept l r x → _) ?_ <;> [(intro _; clear_value x); subst x])
    | (intro x; clear_value x)
    | lift_lets -underBinder
    | simp -zeta (disch := (refine Part.all ?_; intro p hp; cases p <;> first | exact hl.no hp (by decide) | exact Eq.refl _)) only [Kept.upd_iff]
    | with_reducible refine State.updChan_kept (hl.of (by decide)) ?_ ?_ _
    | with_reducible refine State.supplyOn_kept (hl.of (by decide)) ?_ ..
    | with_reducible refine State.supplyOff_kept (hl.of (by decide)) ?_ ..
    | split

theorem State.calLatch_kept (hl : Within 0x400 l) (h : Kept l r s) (c : Nat) : Kept l r (State.calLatch s c) := by
  unfold State.calLatch
  repeat' first
    | with_reducible assumption
    | exact fun _ hx => hx
    | (intro x; refine (?_ : Kept l r x → _) ?_ <;> [(intro _; clear_value x); subst x])
    | (intro x; clear_value x)
    | lift_lets -underBinder
    | simp -zeta (disch := (refine Part.all ?_; intro p hp; cases p <;> first | exact hl.no hp (by decide) | exact Eq.refl _)) only [Kept.upd_iff]
    | with_reducible refine State.updChan_kept (hl.of (by decide)) ?_ ?_ _

theorem State.testTick_kept (hl : Within 0x40020420e60 l) (h : Kept l r s) : Kept l r (State.testTick s) := by
  unfold State.testTick
  repeat' first
    | with_reducible assumption
    | exact fun _ hx => hx
    | (intro x; refine (?_ : Kept l r x → _) ?_ <;> [(intro _; clear_value x); subst x])
    | (intro x; clear_value x)
    | lift_lets -underBinder
    | simp -zeta (disch := (refine Part.all ?_; intro p hp; cases p <;> first | exact hl.no hp (by decide) | exact Eq.refl _)) only [Kept.upd_iff]
    | with_reducible refine State.testEnd_kept (hl.of (by decide)) ?_ ..
    | with_reducible refine State.bootTables_kept (hl.of (by decide)) ?_ ..
    | split

end Sys2Proof.Machine
end

