-- ==== Sys2Proof/Laws/KeptMbCmds.lean ====
section
/-! SUPPORT. What each operation of Machine/MbCmds.lean leaves alone: one lemma for each. -/
set_option maxRecDepth 4000
namespace Sys2Proof.Machine
variable {l : Nat} {r s : State}

theorem State.tableSetDone_kept (hl : Within 0x20060 l) (h : Kept l r s) (m : Nat) : Kept l r (State.tableSetDone s m) := by
  unfold State.tableSetDone
  repeat' first
    | with_reducible assumption
    | (intro x; refine (?_ : Kept l r x → _) ?_ <;> [(intro _; clear_value x); subst x])
    | simp -zeta (disch := (refine Part.all ?_; intro p hp; cases p <;> first | exact hl.no hp (by decide) | exact Eq.refl _)) only [Kept.upd_iff]
    | (intro x; clear_value x)
    | lift_lets -underBinder
    | with_reducible refine State.mbDone_kept (hl.of (by decide)) ?_ ..
    | split
    | with_reducible refine Kept.foldl (fun s a hs => ?_) ?_ _

theorem State.mbFinish_kept (hl : Within 0x200e0 l) (h : Kept l r s) (m : Nat) : Kept l r (State.mbFinish s m) := by
  unfold State.mbFinish
  repeat' first
    | with_reducible assumption
    | (intro x; refine (?_ : Kept l r x → _) ?_ <;> [(intro _; clear_value x); subst x])
    | (intro x; clear_value x)
    | lift_lets -underBinder
    | simp -zeta (disch := (refine Part.all ?_; intro p hp; cases p <;> first | exact hl.no hp (by decide) | exact Eq.refl _)) only [Kept.upd_iff]
    | with_reducible refine State.mbDone_kept (hl.of (by decide)) ?_ ..
    | with_reducible refine State.tableSetDone_kept (hl.of (by decide)) ?_ ..
    | split

theorem State.mbPoll1_kept (hl : Within 0x200e0 l) (h : Kept l r s) (m : Nat) : Kept l r (State.mbPoll1 s m) := by
  unfold State.mbPoll1
  repeat' first
    | with_reducible assumption
    | (intro x; refine (?_ : Kept l r x → _) ?_ <;> [(intro _; clear_value x); subst x])
    | lift_lets -underBinder
    | with_reducible refine State.mbPages_kept (hl.of (by decide)) ?_ ..
    | with_reducible refine State.mbFinish_kept (hl.of (by decide)) ?_ ..
    | split

theorem State.mbPoll_kept (hl : Within 0x200e0 l) (h : Kept l r s) : Kept l r (State.mbPoll s) := by
  exact State.mbPoll1_kept (hl.of (by decide)) (State.mbPoll1_kept (hl.of (by decide)) h ..) ..

theorem State.routeGo_kept (hl : Within 0x20000260 l) (h : Kept l r s) (img : Nat → Nat → Word) (loss : Bool) : Kept l r (State.routeGo s img loss) := by
  unfold State.routeGo
  repeat' first
    | with_reducible assumption
    | (intro x; refine (?_ : Kept l r x → _) ?_ <;> [(intro _; clear_value x); subst x])
    | (intro x; clear_value x)
    | lift_lets -underBinder
    | with_reducible refine State.mvcWrite_kept (hl.of (by decide)) ?_ ..
    | with_reducible refine State.mvcCommit_kept (hl.of (by decide)) ?_ ..
    | with_reducible refine Kept.foldl (fun s a hs => ?_) ?_ _

theorem State.mbTake_kept (hl : Within 0x0 l) (h : Kept l r s) (code : Nat) {f : Nat → Mbx → State} (hf : ∀ m x, Kept l r (f m x)) : Kept l r (State.mbTake s code f) := by
  unfold State.mbTake
  split
  · exact hf ..
  · exact h

theorem State.mbField_kept (hl : Within 0x20060 l) (h : Kept l r s) (m : Nat) (n : Nat) : Kept l r (State.mbField s m n) := by
  unfold State.mbField
  repeat' first
    | with_reducible assumption
    | with_reducible refine State.mbDone_kept (hl.of (by decide)) ?_ ..

theorem State.mbChans_kept (hl : Within 0x20020260 l) (h : Kept l r s) (m : Nat) (a1 : Mbx) (target : Word) (ws : Nat → List (PageId × Nat × Word)) : Kept l r (State.mbChans s m a1 target ws) := by
  unfold State.mbChans
  repeat' first
    | with_reducible assumption
    | (intro x; clear_value x)
    | lift_lets -underBinder
    | with_reducible refine State.mbField_kept (hl.of (by decide)) ?_ ..
    | with_reducible refine State.mbCommit_kept (hl.of (by decide)) ?_ ..
    | split

theorem State.mbArbSet_kept (hl : Within 0x20020260 l) (h : Kept l r s) : Kept l r (State.mbArbSet s) := by
  unfold State.mbArbSet
  repeat' first
    | with_reducible assumption
    | (intro x; clear_value x)
    | lift_lets -underBinder
    | with_reducible refine State.mbTake_kept (hl.of (by decide)) ?_ _ (fun m x => ?_)
    | with_reducible refine State.mbField_kept (hl.of (by decide)) ?_ ..
    | with_reducible refine State.mbChans_kept (hl.of (by decide)) ?_ ..
    | split

theorem State.mbBurlSet_kept (hl : Within 0x20020260 l) (h : Kept l r s) : Kept l r (State.mbBurlSet s) := by
  unfold State.mbBurlSet
  repeat' first
    | with_reducible assumption
    | lift_lets -underBinder
    | with_reducible refine State.mbTake_kept (hl.of (by decide)) ?_ _ (fun m x => ?_)
    | with_reducible refine State.mbChans_kept (hl.of (by decide)) ?_ ..

theorem State.mbCalSet_kept (hl : Within 0x20020260 l) (h : Kept l r s) : Kept l r (State.mbCalSet s) := by
  unfold State.mbCalSet
  repeat' first
    | with_reducible assumption
    | lift_lets -underBinder
    | with_reducible refine State.mbTake_kept (hl.of (by decide)) ?_ _ (fun m x => ?_)
    | with_reducible refine State.mbChans_kept (hl.of (by decide)) ?_ ..

theorem State.mbFrameSet_kept (hl : Within 0x20020260 l) (h : Kept l r s) : Kept l r (State.mbFrameSet s) := by
  unfold State.mbFrameSet
  repeat' first
    | with_reducible assumption
    | (intro x; refine (?_ : Kept l r x → _) ?_ <;> [(intro _; clear_value x); subst x])
    | (intro x; clear_value x)
    | lift_lets -underBinder
    | with_reducible refine State.mbTake_kept (hl.of (by decide)) ?_ _ (fun m x => ?_)
    | with_reducible refine State.mbField_kept (hl.of (by decide)) ?_ ..
    | with_reducible refine State.mbDone_kept (hl.of (by decide)) ?_ ..
    | with_reducible refine State.loadTable_kept (hl.of (by decide)) ?_ ..
    | with_reducible refine State.mvcWrite_kept (hl.of (by decide)) ?_ ..
    | with_reducible refine State.mbRun_kept (hl.of (by decide)) ?_ ..
    | with_reducible refine State.mvcCommit_kept (hl.of (by decide)) ?_ ..
    | with_reducible refine Kept.foldl (fun s a hs => ?_) ?_ _
    | split

theorem State.mbFrameStatus_kept (hl : Within 0x20020a60 l) (h : Kept l r s) : Kept l r (State.mbFrameStatus s) := by
  unfold State.mbFrameStatus
  repeat' first
    | with_reducible assumption
    | (intro x; refine (?_ : Kept l r x → _) ?_ <;> [(intro _; clear_value x); subst x])
    | simp -zeta (disch := (refine Part.all ?_; intro p hp; cases p <;> first | exact hl.no hp (by decide) | exact Eq.refl _)) only [Kept.upd_iff]
    | (intro x; clear_value x)
    | lift_lets -underBinder
    | with_reducible refine State.mbTake_kept (hl.of (by decide)) ?_ _ (fun m x => ?_)
    | with_reducible refine State.mbDone_kept (hl.of (by decide)) ?_ ..
    | exact State.writeBytes_kept (hl.of (by decide)) _ h _ _ (by assumption)
    | split

theorem State.mbHeatSet_kept (hl : Within 0x20020260 l) (h : Kept l r s) : Kept l r (State.mbHeatSet s) := by
  unfold State.mbHeatSet
  repeat' first
    | with_reducible assumption
    | lift_lets -underBinder
    | with_reducible refine State.mbTake_kept (hl.of (by decide)) ?_ _ (fun m x => ?_)
    | with_reducible refine State.mbChans_kept (hl.of (by decide)) ?_ ..

theorem State.mbIntentGet_kept (hl : Within 0x20060 l) (h : Kept l r s) : Kept l r (State.mbIntentGet s) := by
  unfold State.mbIntentGet
  repeat' first
    | with_reducible assumption
    | (intro x; refine (?_ : Kept l r x → _) ?_ <;> [(intro _; clear_value x); subst x])
    | simp -zeta (disch := (refine Part.all ?_; intro p hp; cases p <;> first | exact hl.no hp (by decide) | exact Eq.refl _)) only [Kept.upd_iff]
    | (intro x; clear_value x)
    | lift_lets -underBinder
    | with_reducible refine State.mbTake_kept (hl.of (by decide)) ?_ _ (fun m x => ?_)
    | with_reducible refine State.mbField_kept (hl.of (by decide)) ?_ ..
    | with_reducible refine State.mbDone_kept (hl.of (by decide)) ?_ ..
    | split

theorem State.mbLathe_kept (hl : Within 0x0 l) (h : Kept l r s) (n : Nat) {go : Nat → Mbx → State} (hgo : ∀ m x, Kept l r (go m x)) : Kept l r (State.mbLathe s n go) := by
  refine State.mbTake_kept (hl.of (by decide)) h _ (fun m x => ?_)
  split
  · exact hgo ..
  · exact h

theorem State.stageRing_kept (hl : Within 0x10000040 l) (h : Kept l r s) (m : Nat) (n : Nat) (cmd : Nat) : Kept l r (State.stageRing s m n cmd) := by
  unfold State.stageRing
  repeat' first
    | with_reducible assumption
    | exact fun _ hx => hx
    | (intro x; refine (?_ : Kept l r x → _) ?_ <;> [(intro _; clear_value x); subst x])
    | (intro x; clear_value x)
    | lift_lets -underBinder
    | simp -zeta (disch := (refine Part.all ?_; intro p hp; cases p <;> first | exact hl.no hp (by decide) | exact Eq.refl _)) only [Kept.upd_iff]
    | with_reducible refine State.mbRun_kept (hl.of (by decide)) ?_ ..

theorem State.mbLthAttach_kept (hl : Within 0x36028ae0 l) (h : Kept l r s) : Kept l r (State.mbLthAttach s) := by
  unfold State.mbLthAttach
  repeat' first
    | with_reducible assumption
    | simp -zeta (disch := (refine Part.all ?_; intro p hp; cases p <;> first | exact hl.no hp (by decide) | exact Eq.refl _)) only [Kept.upd_iff]
    | (intro x; refine (?_ : Kept l r x → _) ?_ <;> [(intro _; clear_value x); subst x])
    | (intro x; clear_value x)
    | lift_lets -underBinder
    | exact State.writeBytes_kept (hl.of (by decide)) _ h _ _ (by assumption)
    | with_reducible refine State.mbLathe_kept (hl.of (by decide)) ?_ _ (fun m x => ?_)
    | with_reducible refine State.mbField_kept (hl.of (by decide)) ?_ ..
    | with_reducible refine State.mbDone_kept (hl.of (by decide)) ?_ ..
    | with_reducible refine State.mbPoll1_kept (hl.of (by decide)) ?_ ..
    | with_reducible refine State.ringCmd_kept (hl.of (by decide)) ?_ ..
    | with_reducible refine State.mbRun_kept (hl.of (by decide)) ?_ ..
    | with_reducible refine State.stageRing_kept (hl.of (by decide)) ?_ ..
    | split

theorem State.mbLthDetach_kept (hl : Within 0x36028a60 l) (h : Kept l r s) : Kept l r (State.mbLthDetach s) := by
  unfold State.mbLthDetach
  repeat' first
    | with_reducible assumption
    | (intro x; refine (?_ : Kept l r x → _) ?_ <;> [(intro _; clear_value x); subst x])
    | (intro x; clear_value x)
    | lift_lets -underBinder
    | with_reducible refine State.mbLathe_kept (hl.of (by decide)) ?_ _ (fun m x => ?_)
    | with_reducible refine State.mbField_kept (hl.of (by decide)) ?_ ..
    | with_reducible refine State.mbDone_kept (hl.of (by decide)) ?_ ..
    | with_reducible refine State.ringCmd_kept (hl.of (by decide)) ?_ ..
    | with_reducible refine State.stageRing_kept (hl.of (by decide)) ?_ ..
    | split

theorem State.mbLthEngine_kept (hl : Within 0x20020260 l) (h : Kept l r s) : Kept l r (State.mbLthEngine s) := by
  unfold State.mbLthEngine
  repeat' first
    | with_reducible assumption
    | (intro x; clear_value x)
    | lift_lets -underBinder
    | with_reducible refine State.mbLathe_kept (hl.of (by decide)) ?_ _ (fun m x => ?_)
    | with_reducible refine State.mbField_kept (hl.of (by decide)) ?_ ..
    | with_reducible refine State.mbCommit_kept (hl.of (by decide)) ?_ ..
    | split

theorem State.mbLthPool_kept (hl : Within 0x20020260 l) (h : Kept l r s) : Kept l r (State.mbLthPool s) := by
  unfold State.mbLthPool
  repeat' first
    | with_reducible assumption
    | lift_lets -underBinder
    | with_reducible refine State.mbLathe_kept (hl.of (by decide)) ?_ _ (fun m x => ?_)
    | with_reducible refine State.mbCommit_kept (hl.of (by decide)) ?_ ..

theorem State.rehashStart_kept (hl : Within 0xa00206e0 l) (h : Kept l r s) (m : Nat) (diff : List Nat) : Kept l r (State.rehashStart s m diff) := by
  unfold State.rehashStart
  repeat' first
    | with_reducible assumption
    | (intro x; refine (?_ : Kept l r x → _) ?_ <;> [(intro _; clear_value x); subst x])
    | (intro x; clear_value x)
    | lift_lets -underBinder
    | simp -zeta (disch := (refine Part.all ?_; intro p hp; cases p <;> first | exact hl.no hp (by decide) | exact Eq.refl _)) only [Kept.upd_iff]
    | with_reducible refine State.commitRefuse_kept (hl.of (by decide)) ?_ ..
    | with_reducible refine State.mbDone_kept (hl.of (by decide)) ?_ ..
    | with_reducible refine State.moveStart_kept (hl.of (by decide)) ?_ ..
    | with_reducible refine State.mbRun_kept (hl.of (by decide)) ?_ ..
    | with_reducible refine State.mbField_kept (hl.of (by decide)) ?_ ..
    | split

theorem State.mbMapSet_kept (hl : Within 0xa00206e0 l) (h : Kept l r s) : Kept l r (State.mbMapSet s) := by
  unfold State.mbMapSet
  repeat' first
    | with_reducible assumption
    | (intro x; refine (?_ : Kept l r x → _) ?_ <;> [(intro _; clear_value x); subst x])
    | simp -zeta (disch := (refine Part.all ?_; intro p hp; cases p <;> first | exact hl.no hp (by decide) | exact Eq.refl _)) only [Kept.upd_iff]
    | (intro x; (have _ht : State → _ := x); clear _ht)
    | (intro x; clear_value x)
    | lift_lets -underBinder
    | with_reducible refine State.mbTake_kept (hl.of (by decide)) ?_ _ (fun m x => ?_)
    | with_reducible refine State.mbDone_kept (hl.of (by decide)) ?_ ..
    | with_reducible refine State.mbField_kept (hl.of (by decide)) ?_ ..
    | with_reducible refine State.mvcWrite_kept (hl.of (by decide)) ?_ ..
    | with_reducible refine State.rehashStart_kept (hl.of (by decide)) ?_ ..
    | with_reducible refine State.mbRun_kept (hl.of (by decide)) ?_ ..
    | with_reducible refine State.mvcCommit_kept (hl.of (by decide)) ?_ ..
    | with_reducible refine Kept.foldl (fun s a hs => ?_) ?_ _
    | split

theorem State.mbPark_kept (hl : Within 0x200202e0 l) (h : Kept l r s) : Kept l r (State.mbPark s) := by
  unfold State.mbPark
  repeat' first
    | with_reducible assumption
    | (intro x; refine (?_ : Kept l r x → _) ?_ <;> [(intro _; clear_value x); subst x])
    | (intro x; clear_value x)
    | lift_lets -underBinder
    | with_reducible refine State.mbTake_kept (hl.of (by decide)) ?_ _ (fun m x => ?_)
    | with_reducible refine State.mbField_kept (hl.of (by decide)) ?_ ..
    | with_reducible refine State.mbDone_kept (hl.of (by decide)) ?_ ..
    | with_reducible refine State.mvcSet_kept (hl.of (by decide)) ?_ ..
    | with_reducible refine State.updMbx_kept (hl.of (by decide)) ?_ ..
    | with_reducible refine State.mbRun_kept (hl.of (by decide)) ?_ ..
    | with_reducible refine State.mbPoll1_kept (hl.of (by decide)) ?_ ..
    | split

theorem State.mbRefreshSet_kept (hl : Within 0x20020260 l) (h : Kept l r s) : Kept l r (State.mbRefreshSet s) := by
  unfold State.mbRefreshSet
  repeat' first
    | with_reducible assumption
    | lift_lets -underBinder
    | with_reducible refine State.mbTake_kept (hl.of (by decide)) ?_ _ (fun m x => ?_)
    | with_reducible refine State.mbChans_kept (hl.of (by decide)) ?_ ..

theorem State.mbRejoin_kept (hl : Within 0xa0020470 l) (h : Kept l r s) : Kept l r (State.mbRejoin s) := by
  unfold State.mbRejoin
  repeat' first
    | with_reducible assumption
    | (intro x; refine (?_ : Kept l r x → _) ?_ <;> [(intro _; clear_value x); subst x])
    | (intro x; clear_value x)
    | lift_lets -underBinder
    | with_reducible refine State.mbTake_kept (hl.of (by decide)) ?_ _ (fun m x => ?_)
    | with_reducible refine State.mbReason_kept (hl.of (by decide)) ?_ ..
    | with_reducible refine State.mbDone_kept (hl.of (by decide)) ?_ ..
    | with_reducible refine State.rejoinStart_kept (hl.of (by decide)) ?_ ..
    | with_reducible refine State.mbRun_kept (hl.of (by decide)) ?_ ..
    | split

theorem State.mbReserveSet_kept (hl : Within 0x200202e0 l) (h : Kept l r s) : Kept l r (State.mbReserveSet s) := by
  unfold State.mbReserveSet
  repeat' first
    | with_reducible assumption
    | (intro x; refine (?_ : Kept l r x → _) ?_ <;> [(intro _; clear_value x); subst x])
    | (intro x; clear_value x)
    | lift_lets -underBinder
    | simp -zeta (disch := (refine Part.all ?_; intro p hp; cases p <;> first | exact hl.no hp (by decide) | exact Eq.refl _)) only [Kept.upd_iff]
    | with_reducible refine State.mbTake_kept (hl.of (by decide)) ?_ _ (fun m x => ?_)
    | with_reducible refine State.mbField_kept (hl.of (by decide)) ?_ ..
    | with_reducible refine State.mbDone_kept (hl.of (by decide)) ?_ ..
    | with_reducible refine State.mbRun_kept (hl.of (by decide)) ?_ ..
    | with_reducible refine State.mvcSet_kept (hl.of (by decide)) ?_ ..
    | split

theorem State.mbRouteSet_kept (hl : Within 0x20020260 l) (h : Kept l r s) : Kept l r (State.mbRouteSet s) := by
  unfold State.mbRouteSet
  repeat' first
    | with_reducible assumption
    | (intro x; clear_value x)
    | lift_lets -underBinder
    | with_reducible refine State.mbTake_kept (hl.of (by decide)) ?_ _ (fun m x => ?_)
    | with_reducible refine State.mbDone_kept (hl.of (by decide)) ?_ ..
    | with_reducible refine State.mbField_kept (hl.of (by decide)) ?_ ..
    | with_reducible refine State.mbRun_kept (hl.of (by decide)) ?_ ..
    | with_reducible refine State.routeGo_kept (hl.of (by decide)) ?_ ..
    | split

theorem State.mbScrubSet_kept (hl : Within 0x20020260 l) (h : Kept l r s) : Kept l r (State.mbScrubSet s) := by
  unfold State.mbScrubSet
  repeat' first
    | with_reducible assumption
    | lift_lets -underBinder
    | with_reducible refine State.mbTake_kept (hl.of (by decide)) ?_ _ (fun m x => ?_)
    | with_reducible refine State.mbChans_kept (hl.of (by decide)) ?_ ..

theorem State.tableGo_kept (hl : Within 0x20020260 l) (h : Kept l r s) (m : Nat) (subs : List (Nat × Nat)) (img : Nat → Image) (target : Word) : Kept l r (State.tableGo s m subs img target) := by
  unfold State.tableGo
  repeat' first
    | with_reducible assumption
    | (intro x; refine (?_ : Kept l r x → _) ?_ <;> [(intro _; clear_value x); subst x])
    | (intro x; clear_value x)
    | lift_lets -underBinder
    | with_reducible refine State.mbDone_kept (hl.of (by decide)) ?_ ..
    | with_reducible refine State.mvcCommit_kept (hl.of (by decide)) ?_ ..
    | with_reducible refine State.loadTable_kept (hl.of (by decide)) ?_ ..
    | with_reducible refine State.mbRun_kept (hl.of (by decide)) ?_ ..
    | with_reducible refine Kept.foldl (fun s a hs => ?_) ?_ _
    | split

theorem State.mbTableSet_kept (hl : Within 0x20020260 l) (h : Kept l r s) : Kept l r (State.mbTableSet s) := by
  unfold State.mbTableSet
  repeat' first
    | with_reducible assumption
    | (intro x; refine (?_ : Kept l r x → _) ?_ <;> [(intro _; clear_value x); subst x])
    | simp -zeta (disch := (refine Part.all ?_; intro p hp; cases p <;> first | exact hl.no hp (by decide) | exact Eq.refl _)) only [Kept.upd_iff]
    | (intro x; clear_value x)
    | lift_lets -underBinder
    | with_reducible refine State.mbTake_kept (hl.of (by decide)) ?_ _ (fun m x => ?_)
    | with_reducible refine State.mbDone_kept (hl.of (by decide)) ?_ ..
    | with_reducible refine State.mbField_kept (hl.of (by decide)) ?_ ..
    | with_reducible refine State.tableGo_kept (hl.of (by decide)) ?_ ..
    | split

theorem State.mbTakeover_kept (hl : Within 0xa00206e0 l) (h : Kept l r s) : Kept l r (State.mbTakeover s) := by
  unfold State.mbTakeover
  repeat' first
    | with_reducible assumption
    | (intro x; clear_value x)
    | lift_lets -underBinder
    | with_reducible refine State.mbTake_kept (hl.of (by decide)) ?_ _ (fun m x => ?_)
    | with_reducible refine State.mbField_kept (hl.of (by decide)) ?_ ..
    | with_reducible refine State.mbReason_kept (hl.of (by decide)) ?_ ..
    | with_reducible refine State.mbDone_kept (hl.of (by decide)) ?_ ..
    | with_reducible refine State.moveStart_kept (hl.of (by decide)) ?_ ..
    | with_reducible refine State.mbRun_kept (hl.of (by decide)) ?_ ..
    | split

theorem State.mbTrain_kept (hl : Within 0x204204f0 l) (h : Kept l r s) : Kept l r (State.mbTrain s) := by
  unfold State.mbTrain
  repeat' first
    | with_reducible assumption
    | simp -zeta (disch := (refine Part.all ?_; intro p hp; cases p <;> first | exact hl.no hp (by decide) | exact Eq.refl _)) only [Kept.upd_iff]
    | (intro x; refine (?_ : Kept l r x → _) ?_ <;> [(intro _; clear_value x); subst x])
    | (intro x; clear_value x)
    | lift_lets -underBinder
    | with_reducible refine State.mbTake_kept (hl.of (by decide)) ?_ _ (fun m x => ?_)
    | with_reducible refine State.mbField_kept (hl.of (by decide)) ?_ ..
    | with_reducible refine State.mbDone_kept (hl.of (by decide)) ?_ ..
    | with_reducible refine State.supplyOn_kept (hl.of (by decide)) ?_ ..
    | with_reducible refine State.calRequest_kept (hl.of (by decide)) ?_ ..
    | with_reducible refine State.updMbx_kept (hl.of (by decide)) ?_ ..
    | with_reducible refine State.mbRun_kept (hl.of (by decide)) ?_ ..
    | with_reducible refine State.mbPoll1_kept (hl.of (by decide)) ?_ ..
    | with_reducible refine State.stageSupply_kept (hl.of (by decide)) ?_ ..
    | with_reducible refine State.enable_kept (hl.of (by decide)) ?_ ..
    | with_reducible refine Kept.foldl (fun s a hs => ?_) ?_ _
    | split

theorem State.mbUnknown_kept (hl : Within 0x20060 l) (h : Kept l r s) : Kept l r (State.mbUnknown s) := by
  unfold State.mbUnknown
  repeat' first
    | with_reducible assumption
    | with_reducible refine State.mbDone_kept (hl.of (by decide)) ?_ ..
    | split

theorem State.ringTick_kept (hl : Within 0x36028a60 l) (h : Kept l r s) : Kept l r (State.ringTick s) := by
  unfold State.ringTick
  repeat' first
    | with_reducible assumption
    | exact fun _ hx => hx
    | (intro x; refine (?_ : Kept l r x → _) ?_ <;> [(intro _; clear_value x); subst x])
    | (intro x; clear_value x)
    | lift_lets -underBinder
    | simp -zeta (disch := (refine Part.all ?_; intro p hp; cases p <;> first | exact hl.no hp (by decide) | exact Eq.refl _)) only [Kept.upd_iff]
    | with_reducible refine State.standoff_kept (hl.of (by decide)) ?_ ..
    | with_reducible refine State.mbDone_kept (hl.of (by decide)) ?_ ..
    | with_reducible refine State.ringCmd_kept (hl.of (by decide)) ?_ ..
    | split

end Sys2Proof.Machine
end

