-- ==== Sys2Proof/Laws/KeptCrown.lean ====
section
/-! SUPPORT. What each operation of Machine/Crown.lean leaves alone: one lemma for each. -/
set_option maxRecDepth 4000
namespace Sys2Proof.Machine
variable {l : Nat} {r s : State}

theorem State.injEnd_kept (hl : Within 0x200020020 l) (h : Kept l r s) (status : Nat) (late : Bool) (corr : Bool) : Kept l r (State.injEnd s status late corr) := by
  unfold State.injEnd
  repeat' first
    | with_reducible assumption
    | simp -zeta (disch := (refine Part.all ?_; intro p hp; cases p <;> first | exact hl.no hp (by decide) | exact Eq.refl _)) only [Kept.upd_iff]
    | with_reducible refine State.ev_kept (hl.of (by decide)) ?_ ..
    | with_reducible refine State.raise_kept (hl.of (by decide)) ?_ ..

theorem State.injGo_kept (hl : Within 0x200020020 l) (h : Kept l r s) (v : Word) : Kept l r (State.injGo s v) := by
  unfold State.injGo
  repeat' first
    | with_reducible assumption
    | (intro x; refine (?_ : Kept l r x → _) ?_ <;> [(intro _; clear_value x); subst x])
    | (intro x; (have _ht : Loc → Nat → State := x); clear _ht)
    | (intro x; clear_value x)
    | lift_lets -underBinder
    | simp -zeta (disch := (refine Part.all ?_; intro p hp; cases p <;> first | exact hl.no hp (by decide) | exact Eq.refl _)) only [Kept.upd_iff]
    | with_reducible refine State.injEnd_kept (hl.of (by decide)) ?_ ..
    | split
    | simp -zeta only [x]

theorem State.injDone_kept (hl : Within 0x200121562 l) (h : Kept l r s) : Kept l r (State.injDone s) := by
  unfold State.injDone
  repeat' first
    | with_reducible assumption
    | (intro x; refine (?_ : Kept l r x → _) ?_ <;> [(intro _; clear_value x); subst x])
    | lift_lets -underBinder
    | simp -zeta (disch := (refine Part.all ?_; intro p hp; cases p <;> first | exact hl.no hp (by decide) | exact Eq.refl _)) only [Kept.upd_iff]
    | with_reducible refine State.goto_kept (hl.of (by decide)) ?_ ..
    | with_reducible refine State.setReg_kept (hl.of (by decide)) ?_ ..
    | with_reducible refine State.injEnd_kept (hl.of (by decide)) ?_ ..
    | with_reducible refine Kept.foldl (fun s a hs => ?_) ?_ _
    | split

theorem State.lossSwitchGo_kept (hl : Within 0x20000260 l) (h : Kept l r s) : Kept l r (State.lossSwitchGo s) := by
  unfold State.lossSwitchGo
  repeat' first
    | with_reducible assumption
    | (intro x; clear_value x)
    | lift_lets -underBinder
    | with_reducible refine State.routeGo_kept (hl.of (by decide)) ?_ ..
    | split

theorem State.spLink_kept (hl : Within 0x200000000 l) (h : Kept l r s) (up : Bool) : Kept l r (State.spLink s up) := by
  unfold State.spLink
  repeat' first
    | with_reducible assumption
    | (intro x; clear_value x)
    | lift_lets -underBinder
    | simp -zeta (disch := (refine Part.all ?_; intro p hp; cases p <;> first | exact hl.no hp (by decide) | exact Eq.refl _)) only [Kept.upd_iff]

theorem State.testPort_kept (hl : Within 0x200000000 l) (h : Kept l r s) (on : Bool) : Kept l r (State.testPort s on) := by
  unfold State.testPort
  repeat' first
    | with_reducible assumption
    | (intro x; clear_value x)
    | lift_lets -underBinder
    | simp -zeta (disch := (refine Part.all ?_; intro p hp; cases p <;> first | exact hl.no hp (by decide) | exact Eq.refl _)) only [Kept.upd_iff]

end Sys2Proof.Machine
end

