-- ==== Sys2Proof/Laws/KeptInstances.lean ====
section
/-! SUPPORT. What each operation of Machine/Instances.lean leaves alone: one lemma for each. -/
set_option maxRecDepth 4000
namespace Sys2Proof.Machine
variable {l : Nat} {r s : State}

theorem State.formInt_kept (hl : Within 0x20060 l) (h : Kept l r s) (f : Nat) : Kept l r (State.formInt s f) := by
  unfold State.formInt
  repeat' first
    | with_reducible assumption
    | simp -zeta (disch := (refine Part.all ?_; intro p hp; cases p <;> first | exact hl.no hp (by decide) | exact Eq.refl _)) only [Kept.upd_iff]
    | with_reducible refine State.sendMsg_kept (hl.of (by decide)) ?_ ..

theorem State.intMessage_kept (hl : Within 0x121562 l) (h : Kept l r s) : Kept l r (State.intMessage s) := by
  unfold State.intMessage
  repeat' first
    | with_reducible assumption
    | (intro x; refine (?_ : Kept l r x → _) ?_ <;> [(intro _; clear_value x); subst x])
    | lift_lets -underBinder
    | with_reducible refine State.resendMsgs_kept (hl.of (by decide)) ?_ ..
    | with_reducible refine State.msgsDue_kept (hl.of (by decide)) ?_ ..
    | with_reducible refine State.formInt_kept (hl.of (by decide)) ?_ ..
    | with_reducible refine State.goto_kept (hl.of (by decide)) ?_ ..
    | split

theorem State.intAtOnce_kept (hl : Within 0x20060 l) (h : Kept l r s) : Kept l r (State.intAtOnce s) := by
  unfold State.intAtOnce
  repeat' first
    | with_reducible assumption
    | (intro x; refine (?_ : Kept l r x → _) ?_ <;> [(intro _; clear_value x); subst x])
    | lift_lets -underBinder
    | with_reducible refine State.resendMsgs_kept (hl.of (by decide)) ?_ ..
    | with_reducible refine State.msgsDue_kept (hl.of (by decide)) ?_ ..
    | with_reducible refine State.formInt_kept (hl.of (by decide)) ?_ ..
    | split

theorem State.insIrqWrite_kept (hl : Within 0x100000 l) (f : State → State) (hf : ∀ s, Kept l r s → Kept l r (f s)) (h : Kept l r s) (i : Nat) : Kept l r (State.insIrqWrite s i f) := by
  unfold State.insIrqWrite
  repeat' first
    | with_reducible assumption
    | with_reducible refine hf _ ?_
    | with_reducible refine State.updIns_kept (hl.of (by decide)) ?_ ..

theorem State.insMessage_kept (hl : Within 0x120060 l) (h : Kept l r s) (i : Nat) : Kept l r (State.insMessage s i) := by
  unfold State.insMessage
  repeat' first
    | with_reducible assumption
    | (intro x; refine (?_ : Kept l r x → _) ?_ <;> [(intro _; clear_value x); subst x])
    | (intro x; clear_value x)
    | lift_lets -underBinder
    | with_reducible refine State.resendMsgs_kept (hl.of (by decide)) ?_ ..
    | with_reducible refine State.msgsDue_kept (hl.of (by decide)) ?_ ..
    | with_reducible refine State.updIns_kept (hl.of (by decide)) ?_ ..
    | with_reducible refine State.sendMsg_kept (hl.of (by decide)) ?_ ..
    | split

theorem State.insRefuse_kept (hl : Within 0x20060 l) (h : Kept l r s) (m : Nat) (f : Nat × Nat × Option Nat) : Kept l r (State.insRefuse s m f) := by
  unfold State.insRefuse
  repeat' first
    | with_reducible assumption
    | with_reducible refine State.mbDone_kept (hl.of (by decide)) ?_ ..

theorem State.insState_kept (hl : Within 0x20060 l) (h : Kept l r s) (m : Nat) : Kept l r (State.insState s m) := by
  unfold State.insState
  repeat' first
    | with_reducible assumption
    | with_reducible refine State.insRefuse_kept (hl.of (by decide)) ?_ ..

theorem State.insNext_kept (hl : Within 0x100040 l) (h : Kept l r s) (m : Nat) (i : Nat) (kind : Nat) : Kept l r (State.insNext s m i kind) := by
  unfold State.insNext
  repeat' first
    | with_reducible assumption
    | lift_lets -underBinder
    | with_reducible refine State.updIns_kept (hl.of (by decide)) ?_ ..
    | with_reducible refine State.mbRun_kept (hl.of (by decide)) ?_ ..

theorem State.mbIns_kept (hl : Within 0x20060 l) (h : Kept l r s) (code : Nat) (zero : Bool) {go : Nat → Mbx → Nat → State} (hgo : ∀ m x i, Kept l r (go m x i)) : Kept l r (State.mbIns s code zero go) := by
  refine State.mbTake_kept (hl.of (by decide)) h _ (fun m x => ?_)
  extract_lets i
  split
  · exact State.mbField_kept (hl.of (by decide)) h ..
  · exact hgo ..

theorem State.mbInsCreate_kept (hl : Within 0x220060 l) (h : Kept l r s) : Kept l r (State.mbInsCreate s) := by
  unfold State.mbInsCreate
  repeat' first
    | with_reducible assumption
    | (intro x; refine (?_ : Kept l r x → _) ?_ <;> [(intro _; clear_value x); subst x])
    | (intro x; clear_value x)
    | lift_lets -underBinder
    | simp -zeta (disch := (refine Part.all ?_; intro p hp; cases p <;> first | exact hl.no hp (by decide) | exact Eq.refl _)) only [Kept.upd_iff]
    | with_reducible refine State.mbIns_kept (hl.of (by decide)) ?_ _ _ (fun m x i => ?_)
    | with_reducible refine State.mbDone_kept (hl.of (by decide)) ?_ ..
    | with_reducible refine State.mbField_kept (hl.of (by decide)) ?_ ..
    | with_reducible refine State.insRefuse_kept (hl.of (by decide)) ?_ ..
    | with_reducible refine State.mbRun_kept (hl.of (by decide)) ?_ ..
    | split

theorem State.mbInsDestroy_kept (hl : Within 0x120060 l) (h : Kept l r s) : Kept l r (State.mbInsDestroy s) := by
  unfold State.mbInsDestroy
  repeat' first
    | with_reducible assumption
    | (intro x; clear_value x)
    | lift_lets -underBinder
    | with_reducible refine State.mbIns_kept (hl.of (by decide)) ?_ _ _ (fun m x i => ?_)
    | with_reducible refine State.insNext_kept (hl.of (by decide)) ?_ ..
    | with_reducible refine State.insState_kept (hl.of (by decide)) ?_ ..
    | split

theorem State.mbInsReset_kept (hl : Within 0x120060 l) (h : Kept l r s) : Kept l r (State.mbInsReset s) := by
  unfold State.mbInsReset
  repeat' first
    | with_reducible assumption
    | (intro x; clear_value x)
    | lift_lets -underBinder
    | with_reducible refine State.mbIns_kept (hl.of (by decide)) ?_ _ _ (fun m x i => ?_)
    | with_reducible refine State.insNext_kept (hl.of (by decide)) ?_ ..
    | with_reducible refine State.insState_kept (hl.of (by decide)) ?_ ..
    | split

theorem State.mbShareSet_kept (hl : Within 0x120460 l) (h : Kept l r s) : Kept l r (State.mbShareSet s) := by
  unfold State.mbShareSet
  repeat' first
    | with_reducible assumption
    | (intro x; refine (?_ : Kept l r x → _) ?_ <;> [(intro _; clear_value x); subst x])
    | (intro x; clear_value x)
    | lift_lets -underBinder
    | with_reducible refine State.mbIns_kept (hl.of (by decide)) ?_ _ _ (fun m x i => ?_)
    | with_reducible refine State.mbDone_kept (hl.of (by decide)) ?_ ..
    | with_reducible refine State.mbField_kept (hl.of (by decide)) ?_ ..
    | with_reducible refine State.insState_kept (hl.of (by decide)) ?_ ..
    | with_reducible refine State.insRefuse_kept (hl.of (by decide)) ?_ ..
    | with_reducible refine State.armShare_kept (hl.of (by decide)) ?_ ..
    | with_reducible refine State.updIns_kept (hl.of (by decide)) ?_ ..
    | with_reducible refine State.mbRun_kept (hl.of (by decide)) ?_ ..
    | with_reducible refine Kept.foldl (fun s a hs => ?_) ?_ _
    | split

theorem State.mbFreeze_kept (hl : Within 0x120060 l) (h : Kept l r s) : Kept l r (State.mbFreeze s) := by
  unfold State.mbFreeze
  repeat' first
    | with_reducible assumption
    | (intro x; clear_value x)
    | lift_lets -underBinder
    | with_reducible refine State.mbIns_kept (hl.of (by decide)) ?_ _ _ (fun m x i => ?_)
    | with_reducible refine State.insNext_kept (hl.of (by decide)) ?_ ..
    | with_reducible refine State.insState_kept (hl.of (by decide)) ?_ ..
    | split

theorem State.mbThaw_kept (hl : Within 0x120060 l) (h : Kept l r s) : Kept l r (State.mbThaw s) := by
  unfold State.mbThaw
  repeat' first
    | with_reducible assumption
    | (intro x; clear_value x)
    | lift_lets -underBinder
    | with_reducible refine State.mbIns_kept (hl.of (by decide)) ?_ _ _ (fun m x i => ?_)
    | with_reducible refine State.insNext_kept (hl.of (by decide)) ?_ ..
    | with_reducible refine State.insState_kept (hl.of (by decide)) ?_ ..
    | split

theorem State.mbSave_kept (hl : Within 0x20020a60 l) (h : Kept l r s) : Kept l r (State.mbSave s) := by
  unfold State.mbSave
  repeat' first
    | with_reducible assumption
    | (intro x; clear_value x)
    | lift_lets -underBinder
    | exact State.writeBytes_kept (hl.of (by decide)) _ h _ _ (by assumption)
    | with_reducible refine State.mbIns_kept (hl.of (by decide)) ?_ _ _ (fun m x i => ?_)
    | with_reducible refine State.mbDone_kept (hl.of (by decide)) ?_ ..
    | with_reducible refine State.insState_kept (hl.of (by decide)) ?_ ..
    | split

theorem State.mbRestore_kept (hl : Within 0x220060 l) (h : Kept l r s) : Kept l r (State.mbRestore s) := by
  unfold State.mbRestore
  repeat' first
    | with_reducible assumption
    | (intro x; refine (?_ : Kept l r x → _) ?_ <;> [(intro _; clear_value x); subst x])
    | (intro x; clear_value x)
    | lift_lets -underBinder
    | simp -zeta (disch := (refine Part.all ?_; intro p hp; cases p <;> first | exact hl.no hp (by decide) | exact Eq.refl _)) only [Kept.upd_iff]
    | with_reducible refine State.mbIns_kept (hl.of (by decide)) ?_ _ _ (fun m x i => ?_)
    | with_reducible refine State.mbDone_kept (hl.of (by decide)) ?_ ..
    | with_reducible refine State.mbField_kept (hl.of (by decide)) ?_ ..
    | with_reducible refine State.insRefuse_kept (hl.of (by decide)) ?_ ..
    | with_reducible refine State.mbRun_kept (hl.of (by decide)) ?_ ..
    | split

theorem State.mbCntUserSet_kept (hl : Within 0x120060 l) (h : Kept l r s) : Kept l r (State.mbCntUserSet s) := by
  unfold State.mbCntUserSet
  repeat' first
    | with_reducible assumption
    | (intro x; clear_value x)
    | lift_lets -underBinder
    | with_reducible refine State.mbIns_kept (hl.of (by decide)) ?_ _ _ (fun m x i => ?_)
    | with_reducible refine State.insState_kept (hl.of (by decide)) ?_ ..
    | with_reducible refine State.updIns_kept (hl.of (by decide)) ?_ ..
    | with_reducible refine State.insNext_kept (hl.of (by decide)) ?_ ..
    | split

theorem State.insTell_kept (hl : Within 0x120060 l) (h : Kept l r s) (i : Nat) (res : List (Nat × Nat)) : Kept l r (State.insTell s i res) := by
  unfold State.insTell
  repeat' first
    | with_reducible assumption
    | lift_lets -underBinder
    | with_reducible refine State.updIns_kept (hl.of (by decide)) ?_ ..
    | with_reducible refine State.mbDone_kept (hl.of (by decide)) ?_ ..
    | split

theorem State.dropOld_kept (hl : Within 0x100 l) (h : Kept l r s) (i : Nat) : Kept l r (State.dropOld s i) := by
  unfold State.dropOld
  repeat' first
    | with_reducible assumption
    | (intro x; refine (?_ : Kept l r x → _) ?_ <;> [(intro _; clear_value x); subst x])
    | simp -zeta (disch := (refine Part.all ?_; intro p hp; cases p <;> first | exact hl.no hp (by decide) | exact Eq.refl _)) only [Kept.upd_iff]
    | (intro x; clear_value x)
    | lift_lets -underBinder
    | with_reducible refine State.updGw_kept (hl.of (by decide)) ?_ ..
    | with_reducible refine Kept.foldl (fun s a hs => ?_) ?_ _
    | split

theorem State.dropOldOps_kept (hl : Within 0x4000000 l) (h : Kept l r s) (i : Nat) : Kept l r (State.dropOldOps s i) := by
  unfold State.dropOldOps
  repeat' first
    | with_reducible assumption
    | lift_lets -underBinder
    | with_reducible refine State.updLe_kept (hl.of (by decide)) ?_ ..
    | with_reducible refine Kept.foldl (fun s a hs => ?_) ?_ _

theorem State.setGen_kept (hl : Within 0x40000 l) (h : Kept l r s) (i : Nat) (gen : Nat) : Kept l r (State.setGen s i gen) := by
  unfold State.setGen
  repeat' first
    | with_reducible assumption
    | exact fun _ hx => hx
    | (intro x; refine (?_ : Kept l r x → _) ?_ <;> [(intro _; clear_value x); subst x])
    | (intro x; clear_value x)
    | lift_lets -underBinder
    | simp -zeta (disch := (refine Part.all ?_; intro p hp; cases p <;> first | exact hl.no hp (by decide) | exact Eq.refl _)) only [Kept.upd_iff]

theorem State.bumpGen_kept (hl : Within 0x4140100 l) (h : Kept l r s) (i : Nat) : Kept l r (State.bumpGen s i) := by
  unfold State.bumpGen
  repeat' first
    | with_reducible assumption
    | (intro x; refine (?_ : Kept l r x → _) ?_ <;> [(intro _; clear_value x); subst x])
    | (intro x; clear_value x)
    | lift_lets -underBinder
    | simp -zeta (disch := (refine Part.all ?_; intro p hp; cases p <;> first | exact hl.no hp (by decide) | exact Eq.refl _)) only [Kept.upd_iff]
    | with_reducible refine State.dropOldOps_kept (hl.of (by decide)) ?_ ..
    | with_reducible refine State.dropOld_kept (hl.of (by decide)) ?_ ..
    | with_reducible refine State.updIns_kept (hl.of (by decide)) ?_ ..
    | with_reducible refine State.setGen_kept (hl.of (by decide)) ?_ ..

theorem State.resetRing_kept (hl : Within 0x2000000 l) (h : Kept l r s) (a1 : Nat) (gen : Nat) : Kept l r (State.resetRing s a1 gen) := by
  unfold State.resetRing
  repeat' first
    | with_reducible assumption
    | with_reducible refine State.updRing_kept (hl.of (by decide)) ?_ ..

theorem State.insResetTick_kept (hl : Within 0x6140100 l) (h : Kept l r s) (i : Nat) : Kept l r (State.insResetTick s i) := by
  unfold State.insResetTick
  repeat' first
    | with_reducible assumption
    | (intro x; refine (?_ : Kept l r x → _) ?_ <;> [(intro _; clear_value x); subst x])
    | lift_lets -underBinder
    | with_reducible refine State.bumpGen_kept (hl.of (by decide)) ?_ ..
    | with_reducible refine State.updIns_kept (hl.of (by decide)) ?_ ..
    | with_reducible refine State.resetRing_kept (hl.of (by decide)) ?_ ..
    | with_reducible refine Kept.foldl (fun s a hs => ?_) ?_ _

theorem State.insDestroyTick_kept (hl : Within 0x26140f00 l) (h : Kept l r s) (i : Nat) : Kept l r (State.insDestroyTick s i) := by
  unfold State.insDestroyTick
  repeat' first
    | with_reducible assumption
    | (intro x; refine (?_ : Kept l r x → _) ?_ <;> [(intro _; clear_value x); subst x])
    | lift_lets -underBinder
    | with_reducible refine State.bumpGen_kept (hl.of (by decide)) ?_ ..
    | with_reducible refine State.dropRing_kept (hl.of (by decide)) ?_ ..
    | with_reducible refine State.updIns_kept (hl.of (by decide)) ?_ ..
    | with_reducible refine State.armShare_kept (hl.of (by decide)) ?_ ..
    | with_reducible refine Kept.foldl (fun s a hs => ?_) ?_ _
    | split

theorem State.insThawTick_kept (hl : Within 0x2100000 l) (h : Kept l r s) (i : Nat) : Kept l r (State.insThawTick s i) := by
  unfold State.insThawTick
  repeat' first
    | with_reducible assumption
    | (intro x; refine (?_ : Kept l r x → _) ?_ <;> [(intro _; clear_value x); subst x])
    | lift_lets -underBinder
    | with_reducible refine State.updIns_kept (hl.of (by decide)) ?_ ..
    | with_reducible refine State.updCtx_kept (hl.of (by decide)) ?_ ..
    | with_reducible refine Kept.foldl (fun s a hs => ?_) ?_ _
    | split

theorem State.insStageTick_kept (hl : Within 0x22360e60 l) (h : Kept l r s) : Kept l r (State.insStageTick s) := by
  unfold State.insStageTick
  repeat' first
    | with_reducible assumption
    | exact fun _ hx => hx
    | (intro x; refine (?_ : Kept l r x → _) ?_ <;> [(intro _; clear_value x); subst x])
    | (intro x; clear_value x)
    | lift_lets -underBinder
    | simp -zeta (disch := (refine Part.all ?_; intro p hp; cases p <;> first | exact hl.no hp (by decide) | exact Eq.refl _)) only [Kept.upd_iff]
    | with_reducible refine State.setBoth_kept (hl.of (by decide)) ?_ ..
    | with_reducible refine State.updIns_kept (hl.of (by decide)) ?_ ..
    | with_reducible refine State.updPage_kept (hl.of (by decide)) ?_ ..
    | with_reducible refine State.updChan_kept (hl.of (by decide)) ?_ ?_ _
    | with_reducible refine State.updRing_kept (hl.of (by decide)) ?_ ..
    | with_reducible refine State.writeBack_kept (hl.of (by decide)) ?_ ..
    | with_reducible refine State.insTell_kept (hl.of (by decide)) ?_ ..
    | with_reducible refine State.setGen_kept (hl.of (by decide)) ?_ ..
    | with_reducible refine State.keepFld_kept (hl.of (by decide)) ?_ ..
    | with_reducible refine Kept.foldl (fun s a hs => ?_) ?_ _
    | split

theorem State.insTick1_kept (hl : Within 0x26160f70 l) (h : Kept l r s) (i : Nat) : Kept l r (State.insTick1 s i) := by
  unfold State.insTick1
  repeat' first
    | with_reducible assumption
    | simp -zeta (disch := (refine Part.all ?_; intro p hp; cases p <;> first | exact hl.no hp (by decide) | exact Eq.refl _)) only [Kept.upd_iff]
    | (intro x; refine (?_ : Kept l r x → _) ?_ <;> [(intro _; clear_value x); subst x])
    | (intro x; clear_value x)
    | lift_lets -underBinder
    | with_reducible refine State.insTell_kept (hl.of (by decide)) ?_ ..
    | with_reducible refine State.updIns_kept (hl.of (by decide)) ?_ ..
    | with_reducible refine State.insResetTick_kept (hl.of (by decide)) ?_ ..
    | with_reducible refine State.insThawTick_kept (hl.of (by decide)) ?_ ..
    | with_reducible refine State.insDestroyTick_kept (hl.of (by decide)) ?_ ..
    | with_reducible refine State.overrun_kept (hl.of (by decide)) ?_ ..
    | with_reducible refine State.setFldBoth_kept (hl.of (by decide)) ?_ ..
    | with_reducible refine State.keepFld_kept (hl.of (by decide)) ?_ ..
    | split

theorem State.insFreeTick_kept (hl : Within 0x120060 l) (h : Kept l r s) (i : Nat) : Kept l r (State.insFreeTick s i) := by
  unfold State.insFreeTick
  repeat' first
    | with_reducible assumption
    | (intro x; refine (?_ : Kept l r x → _) ?_ <;> [(intro _; clear_value x); subst x])
    | (intro x; clear_value x)
    | lift_lets -underBinder
    | with_reducible refine State.insTell_kept (hl.of (by decide)) ?_ ..
    | with_reducible refine State.updPage_kept (hl.of (by decide)) ?_ ..
    | with_reducible refine State.updIns_kept (hl.of (by decide)) ?_ ..
    | split

theorem State.insDue_kept (hl : Within 0x26360f70 l) (h : Kept l r s) : Kept l r (State.insDue s) := by
  unfold State.insDue
  repeat' first
    | with_reducible assumption
    | exact fun _ hx => hx
    | (intro x; refine (?_ : Kept l r x → _) ?_ <;> [(intro _; clear_value x); subst x])
    | (intro x; clear_value x)
    | lift_lets -underBinder
    | simp -zeta (disch := (refine Part.all ?_; intro p hp; cases p <;> first | exact hl.no hp (by decide) | exact Eq.refl _)) only [Kept.upd_iff]
    | with_reducible refine State.insStageTick_kept (hl.of (by decide)) ?_ ..
    | with_reducible refine State.insTick1_kept (hl.of (by decide)) ?_ ..
    | with_reducible refine Kept.foldl (fun s a hs => ?_) ?_ _
    | split

theorem State.insTick_kept (hl : Within 0x26360f70 l) (h : Kept l r s) : Kept l r (State.insTick s) := by
  unfold State.insTick
  repeat' first
    | with_reducible assumption
    | (intro x; refine (?_ : Kept l r x → _) ?_ <;> [(intro _; clear_value x); subst x])
    | (intro x; clear_value x)
    | lift_lets -underBinder
    | with_reducible refine State.insFreeTick_kept (hl.of (by decide)) ?_ ..
    | with_reducible refine State.insDue_kept (hl.of (by decide)) ?_ ..
    | with_reducible refine Kept.foldl (fun s a hs => ?_) ?_ _
    | split

theorem State.foldTick_kept (hl : Within 0x100000 l) (h : Kept l r s) : Kept l r (State.foldTick s) := by
  unfold State.foldTick
  repeat' first
    | with_reducible assumption
    | lift_lets -underBinder
    | with_reducible refine State.updIns_kept (hl.of (by decide)) ?_ ..
    | with_reducible refine Kept.foldl (fun s a hs => ?_) ?_ _

theorem State.resetDone_kept (hl : Within 0x120060 l) (h : Kept l r s) (i : Nat) : Kept l r (State.resetDone s i) := by
  unfold State.resetDone
  repeat' first
    | with_reducible assumption
    | (intro x; refine (?_ : Kept l r x → _) ?_ <;> [(intro _; clear_value x); subst x])
    | (intro x; clear_value x)
    | lift_lets -underBinder
    | with_reducible refine State.raise_kept (hl.of (by decide)) ?_ ..
    | with_reducible refine State.updIns_kept (hl.of (by decide)) ?_ ..
    | with_reducible refine State.insTell_kept (hl.of (by decide)) ?_ ..
    | split

theorem State.quiesced_kept (hl : Within 0x22120a60 l) (h : Kept l r s) (i : Nat) : Kept l r (State.quiesced s i) := by
  unfold State.quiesced
  repeat' first
    | with_reducible assumption
    | (intro x; refine (?_ : Kept l r x → _) ?_ <;> [(intro _; clear_value x); subst x])
    | (intro x; clear_value x)
    | lift_lets -underBinder
    | with_reducible refine State.writeBack_kept (hl.of (by decide)) ?_ ..
    | with_reducible refine State.updCtx_kept (hl.of (by decide)) ?_ ..
    | with_reducible refine State.quiesceRing_kept (hl.of (by decide)) ?_ ..
    | with_reducible refine State.raise_kept (hl.of (by decide)) ?_ ..
    | with_reducible refine State.updIns_kept (hl.of (by decide)) ?_ ..
    | with_reducible refine State.insTell_kept (hl.of (by decide)) ?_ ..
    | with_reducible refine Kept.foldl (fun s a hs => ?_) ?_ _
    | split

end Sys2Proof.Machine
end

