-- ==== Sys2Proof/Laws/KeptSideband.lean ====
section
/-! SUPPORT. What each operation of Machine/Sideband.lean leaves alone: one lemma for each. -/
set_option maxRecDepth 4000
namespace Sys2Proof.Machine
variable {l : Nat} {r s : State}

theorem State.sbStart_kept (hl : Within 0x400 l) (h : Kept l r s) (c : Nat) (a1 : Nat) : Kept l r (State.sbStart s c a1) := by
  induction a1 generalizing s with
  | zero => exact h
  | succ n ih =>
    unfold State.sbStart
    repeat' first
      | lift_lets -underBinder
      | with_reducible assumption
      | exact fun _ hx => hx
      | with_reducible apply ih
      | (intro x; refine (?_ : Kept l r x → _) ?_ <;> [(intro _; clear_value x); subst x])
      | (intro x; clear_value x)
      | with_reducible refine State.updChan_kept (hl.of (by decide)) ?_ ?_ _
      | split

theorem State.sbGo_kept (hl : Within 0x400 l) (h : Kept l r s) (c : Nat) : Kept l r (State.sbGo s c) := by
  exact State.sbStart_kept hl h ..

theorem State.i3cGo_kept (hl : Within 0x420 l) (h : Kept l r s) (c : Nat) (v : Word) : Kept l r (State.i3cGo s c v) := by
  unfold State.i3cGo
  repeat' first
    | with_reducible assumption
    | exact fun _ hx => hx
    | (intro x; refine (?_ : Kept l r x → _) ?_ <;> [(intro _; clear_value x); subst x])
    | (intro x; clear_value x)
    | lift_lets -underBinder
    | with_reducible refine State.setReg_kept (hl.of (by decide)) ?_ ..
    | with_reducible refine State.sbGo_kept (hl.of (by decide)) ?_ ..
    | with_reducible refine State.updChan_kept (hl.of (by decide)) ?_ ?_ _
    | split

theorem State.mrGo_kept (hl : Within 0x420 l) (h : Kept l r s) (c : Nat) (v : Word) : Kept l r (State.mrGo s c v) := by
  unfold State.mrGo
  repeat' first
    | with_reducible assumption
    | simp -zeta (disch := (refine Part.all ?_; intro p hp; cases p <;> first | exact hl.no hp (by decide) | exact Eq.refl _)) only [Kept.upd_iff]
    | exact fun _ hx => hx
    | (intro x; refine (?_ : Kept l r x → _) ?_ <;> [(intro _; clear_value x); subst x])
    | (intro x; clear_value x)
    | lift_lets -underBinder
    | with_reducible refine State.setReg_kept (hl.of (by decide)) ?_ ..
    | with_reducible refine State.updChan_kept (hl.of (by decide)) ?_ ?_ _
    | split

theorem State.ecsRead_kept (hl : Within 0x8620 l) (h : Kept l r s) (c : Nat) (sc : Nat) (count : Nat) (dev : Nat) (bg : Nat) (ba : Nat) (row : Nat) : Kept l r (State.ecsRead s c sc count dev bg ba row) := by
  unfold State.ecsRead
  repeat' first
    | with_reducible assumption
    | exact fun _ hx => hx
    | (intro x; refine (?_ : Kept l r x → _) ?_ <;> [(intro _; clear_value x); subst x])
    | (intro x; clear_value x)
    | lift_lets -underBinder
    | simp -zeta (disch := (refine Part.all ?_; intro p hp; cases p <;> first | exact hl.no hp (by decide) | exact Eq.refl _)) only [Kept.upd_iff]
    | with_reducible refine State.updSub_kept (hl.of (by decide)) ?_ ..
    | with_reducible refine State.updChan_kept (hl.of (by decide)) ?_ ?_ _
    | with_reducible refine State.log_kept (hl.of (by decide)) ?_ ..
    | with_reducible refine State.stage_kept (hl.of (by decide)) ?_ ..
    | split

theorem State.mrDue_kept (hl : Within 0x200 l) (h : Kept l r s) (c : Nat) : Kept l r (State.mrDue s c) := by
  unfold State.mrDue
  repeat' first
    | with_reducible assumption
    | (intro x; refine (?_ : Kept l r x → _) ?_ <;> [(intro _; clear_value x); subst x])
    | (intro x; clear_value x)
    | lift_lets -underBinder
    | with_reducible refine State.updSub_kept (hl.of (by decide)) ?_ ..
    | with_reducible refine Kept.foldl (fun s a hs => ?_) ?_ _
    | split

theorem State.rateEval_kept (hl : Within 0x100000000 l) (h : Kept l r s) : Kept l r (State.rateEval s) := by
  unfold State.rateEval
  repeat' first
    | with_reducible assumption
    | (intro x; clear_value x)
    | lift_lets -underBinder
    | simp -zeta (disch := (refine Part.all ?_; intro p hp; cases p <;> first | exact hl.no hp (by decide) | exact Eq.refl _)) only [Kept.upd_iff]
    | split

theorem State.headroomStale_kept (hl : Within 0x100121562 l) (h : Kept l r s) : Kept l r (State.headroomStale s) := by
  unfold State.headroomStale
  repeat' first
    | with_reducible assumption
    | (intro x; refine (?_ : Kept l r x → _) ?_ <;> [(intro _; clear_value x); subst x])
    | (intro x; clear_value x)
    | lift_lets -underBinder
    | simp -zeta (disch := (refine Part.all ?_; intro p hp; cases p <;> first | exact hl.no hp (by decide) | exact Eq.refl _)) only [Kept.upd_iff]
    | with_reducible refine State.goto_kept (hl.of (by decide)) ?_ ..
    | split

theorem State.mr4Read_kept (hl : Within 0x80000620 l) (h : Kept l r s) (c : Nat) (sc : Nat) (asks : Nat) : Kept l r (State.mr4Read s c sc asks) := by
  unfold State.mr4Read
  repeat' first
    | with_reducible assumption
    | simp -zeta (disch := (refine Part.all ?_; intro p hp; cases p <;> first | exact hl.no hp (by decide) | exact Eq.refl _)) only [Kept.upd_iff]
    | exact fun _ hx => hx
    | (intro x; refine (?_ : Kept l r x → _) ?_ <;> [(intro _; clear_value x); subst x])
    | (intro x; clear_value x)
    | lift_lets -underBinder
    | with_reducible refine State.updSub_kept (hl.of (by decide)) ?_ ..
    | with_reducible refine State.updChan_kept (hl.of (by decide)) ?_ ?_ _
    | with_reducible refine State.chanEvent_kept (hl.of (by decide)) ?_ ..
    | with_reducible refine State.stage_kept (hl.of (by decide)) ?_ ..
    | split

theorem State.pollFails_kept (hl : Within 0x400 l) (h : Kept l r s) (c : Nat) (t : SbTxn) (run : Nat) : Kept l r (State.pollFails s c t run) := by
  unfold State.pollFails
  repeat' first
    | with_reducible assumption
    | exact fun _ hx => hx
    | with_reducible refine State.updChan_kept (hl.of (by decide)) ?_ ?_ _
    | with_reducible refine State.stage_kept (hl.of (by decide)) ?_ ..
    | split

theorem State.prsntChange_kept (hl : Within 0x400 l) (h : Kept l r s) (c : Nat) (level : Presence) : Kept l r (State.prsntChange s c level) := by
  unfold State.prsntChange
  repeat' first
    | with_reducible assumption
    | exact fun _ hx => hx
    | with_reducible refine State.updChan_kept (hl.of (by decide)) ?_ ?_ _
    | split

theorem State.sbIbi_kept (hl : Within 0x400 l) (h : Kept l r s) (c : Nat) (hid : Nat) (dtype : Nat) : Kept l r (State.sbIbi s c hid dtype) := by
  unfold State.sbIbi
  repeat' first
    | with_reducible assumption
    | simp -zeta (disch := (refine Part.all ?_; intro p hp; cases p <;> first | exact hl.no hp (by decide) | exact Eq.refl _)) only [Kept.upd_iff]
    | exact fun _ hx => hx
    | lift_lets -underBinder
    | with_reducible refine State.sbGo_kept (hl.of (by decide)) ?_ ..
    | with_reducible refine State.updChan_kept (hl.of (by decide)) ?_ ?_ _
    | split

theorem State.sbPoll_kept (hl : Within 0x400 l) (h : Kept l r s) (c : Nat) (phy : Nat) : Kept l r (State.sbPoll s c phy) := by
  unfold State.sbPoll
  repeat' first
    | with_reducible assumption
    | (intro x; refine (?_ : Kept l r x → _) ?_ <;> [(intro _; clear_value x); subst x])
    | simp -zeta (disch := (refine Part.all ?_; intro p hp; cases p <;> first | exact hl.no hp (by decide) | exact Eq.refl _)) only [Kept.upd_iff]
    | exact fun _ hx => hx
    | (intro x; clear_value x)
    | lift_lets -underBinder
    | with_reducible refine State.sbGo_kept (hl.of (by decide)) ?_ ..
    | with_reducible refine State.updChan_kept (hl.of (by decide)) ?_ ?_ _
    | with_reducible refine State.stage_kept (hl.of (by decide)) ?_ ..
    | split

theorem State.sbTimeout_kept (hl : Within 0x80121562 l) (h : Kept l r s) (c : Nat) : Kept l r (State.sbTimeout s c) := by
  unfold State.sbTimeout
  repeat' first
    | with_reducible assumption
    | simp -zeta (disch := (refine Part.all ?_; intro p hp; cases p <;> first | exact hl.no hp (by decide) | exact Eq.refl _)) only [Kept.upd_iff]
    | exact fun _ hx => hx
    | (intro x; refine (?_ : Kept l r x → _) ?_ <;> [(intro _; clear_value x); subst x])
    | (intro x; clear_value x)
    | lift_lets -underBinder
    | with_reducible refine State.goto_kept (hl.of (by decide)) ?_ ..
    | with_reducible refine State.updChan_kept (hl.of (by decide)) ?_ ?_ _
    | with_reducible refine State.pollFails_kept (hl.of (by decide)) ?_ ..
    | with_reducible refine State.chanEvent_kept (hl.of (by decide)) ?_ ..
    | with_reducible refine State.sbGo_kept (hl.of (by decide)) ?_ ..
    | split

theorem State.pollEnded_kept (hl : Within 0x400 l) (h : Kept l r s) (c : Nat) (t : SbTxn) : Kept l r (State.pollEnded s c t) := by
  unfold State.pollEnded
  repeat' first
    | with_reducible assumption
    | exact fun _ hx => hx
    | (intro x; refine (?_ : Kept l r x → _) ?_ <;> [(intro _; clear_value x); subst x])
    | (intro x; clear_value x)
    | lift_lets -underBinder
    | simp -zeta (disch := (refine Part.all ?_; intro p hp; cases p <;> first | exact hl.no hp (by decide) | exact Eq.refl _)) only [Kept.upd_iff]
    | with_reducible refine State.updChan_kept (hl.of (by decide)) ?_ ?_ _
    | split

theorem State.sbTxnDone_kept (hl : Within 0x80000420 l) (h : Kept l r s) (c : Nat) (a1 : SbResult) : Kept l r (State.sbTxnDone s c a1) := by
  unfold State.sbTxnDone
  repeat' first
    | with_reducible assumption
    | (intro x; refine (?_ : Kept l r x → _) ?_ <;> [(intro _; clear_value x); subst x])
    | (intro x; clear_value x)
    | simp -zeta (disch := (refine Part.all ?_; intro p hp; cases p <;> first | exact hl.no hp (by decide) | exact Eq.refl _)) only [Kept.upd_iff]
    | exact fun _ hx => hx
    | lift_lets -underBinder
    | with_reducible refine State.updChan_kept (hl.of (by decide)) ?_ ?_ _
    | with_reducible refine State.setReg_kept (hl.of (by decide)) ?_ ..
    | with_reducible refine State.sbReading_kept (hl.of (by decide)) ?_ ..
    | with_reducible refine State.pollFails_kept (hl.of (by decide)) ?_ ..
    | with_reducible refine State.sbGo_kept (hl.of (by decide)) ?_ ..
    | with_reducible refine State.pollEnded_kept (hl.of (by decide)) ?_ ..
    | with_reducible refine State.stage_kept (hl.of (by decide)) ?_ ..
    | split

theorem State.thermUpd_kept (hl : Within 0x100000000 l) (h : Kept l r s) (headroom : Nat) (tj : Nat) : Kept l r (State.thermUpd s headroom tj) := by
  unfold State.thermUpd
  repeat' first
    | with_reducible assumption
    | (intro x; clear_value x)
    | lift_lets -underBinder
    | simp -zeta (disch := (refine Part.all ?_; intro p hp; cases p <;> first | exact hl.no hp (by decide) | exact Eq.refl _)) only [Kept.upd_iff]
    | split

theorem State.ecsTake_kept (hl : Within 0x8420 l) (h : Kept l r s) (c : Nat) (p : Nat) (count : Nat) (dev : Nat) (bg : Nat) (ba : Nat) (row : Nat) : Kept l r (State.ecsTake s c p count dev bg ba row) := by
  unfold State.ecsTake
  repeat' first
    | with_reducible assumption
    | exact fun _ hx => hx
    | (intro x; refine (?_ : Kept l r x → _) ?_ <;> [(intro _; clear_value x); subst x])
    | (intro x; clear_value x)
    | lift_lets -underBinder
    | simp -zeta (disch := (refine Part.all ?_; intro p hp; cases p <;> first | exact hl.no hp (by decide) | exact Eq.refl _)) only [Kept.upd_iff]
    | with_reducible refine State.updChan_kept (hl.of (by decide)) ?_ ?_ _
    | with_reducible refine State.log_kept (hl.of (by decide)) ?_ ..
    | split

/-- A reading leaves the fill flag as it was. -/
theorem Chan.take_filled (ch : Chan) (q : Reading) : (ch.take q).filled = ch.filled := by
  unfold Chan.take
  repeat' split
  all_goals rfl

theorem State.takeReading_kept (hl : Within 0x80028420 l) (h : Kept l r s) (c : Nat) (q : Reading) : Kept l r (State.takeReading s c q) := by
  unfold State.takeReading
  repeat' first
    | with_reducible assumption
    | exact fun _ hx => hx
    | exact fun x hx => (Chan.take_filled x _).symm.trans hx
    | (intro x; refine (?_ : Kept l r x → _) ?_ <;> [(intro _; clear_value x); subst x])
    | (intro x; clear_value x)
    | lift_lets -underBinder
    | simp -zeta (disch := (refine Part.all ?_; intro p hp; cases p <;> first | exact hl.no hp (by decide) | exact Eq.refl _)) only [Kept.upd_iff]
    | with_reducible refine State.updChan_kept (hl.of (by decide)) ?_ ?_ _
    | with_reducible refine State.chanEvent_kept (hl.of (by decide)) ?_ ..
    | with_reducible refine State.ecsTake_kept (hl.of (by decide)) ?_ ..
    | with_reducible refine State.reject_kept (hl.of (by decide)) ?_ ..
    | with_reducible refine State.rejectCount_kept (hl.of (by decide)) ?_ ..
    | with_reducible refine State.stopResults_kept (hl.of (by decide)) ?_ ..
    | with_reducible refine State.updBal_kept (hl.of (by decide)) ?_ ..
    | with_reducible refine State.raise_kept (hl.of (by decide)) ?_ ..
    | split
    | with_reducible refine Kept.foldl (fun s a hs => ?_) ?_ _

theorem State.sampleTick_kept (hl : Within 0x80028420 l) (h : Kept l r s) (c : Nat) : Kept l r (State.sampleTick s c) := by
  unfold State.sampleTick
  repeat' first
    | with_reducible assumption
    | exact fun _ hx => hx
    | (intro x; refine (?_ : Kept l r x → _) ?_ <;> [(intro _; clear_value x); subst x])
    | (intro x; clear_value x)
    | lift_lets -underBinder
    | simp -zeta (disch := (refine Part.all ?_; intro p hp; cases p <;> first | exact hl.no hp (by decide) | exact Eq.refl _)) only [Kept.upd_iff]
    | with_reducible refine State.updChan_kept (hl.of (by decide)) ?_ ?_ _
    | with_reducible refine State.takeReading_kept (hl.of (by decide)) ?_ ..
    | with_reducible refine Kept.foldl (fun s a hs => ?_) ?_ _

theorem State.sampleDrop_kept (hl : Within 0x600 l) (h : Kept l r s) (c : Nat) : Kept l r (State.sampleDrop s c) := by
  unfold State.sampleDrop
  repeat' first
    | with_reducible assumption
    | exact fun _ hx => hx
    | (intro x; refine (?_ : Kept l r x → _) ?_ <;> [(intro _; clear_value x); subst x])
    | (intro x; clear_value x)
    | lift_lets -underBinder
    | simp -zeta (disch := (refine Part.all ?_; intro p hp; cases p <;> first | exact hl.no hp (by decide) | exact Eq.refl _)) only [Kept.upd_iff]
    | with_reducible refine State.updSub_kept (hl.of (by decide)) ?_ ..
    | with_reducible refine State.updChan_kept (hl.of (by decide)) ?_ ?_ _
    | with_reducible refine State.mrsBack_kept (hl.of (by decide)) ?_ ..
    | with_reducible refine Kept.foldl (fun s a hs => ?_) ?_ _
    | split

end Sys2Proof.Machine
end

