-- ==== Sys2Proof/Laws/KeptStartup.lean ====
section
/-! SUPPORT. What each operation of Machine/Startup.lean leaves alone: one lemma for each. -/
set_option maxRecDepth 4000
namespace Sys2Proof.Machine
variable {l : Nat} {r s : State}

theorem State.chReset_kept (hl : Within 0x20400e60 l) (h : Kept l r s) (c : Nat) : Kept l r (State.chReset s c) := by
  unfold State.chReset
  extract_lets ps a b d e f
  have ha : Kept l r a := Kept.foldl (fun _ _ hs => State.updPage_kept (hl.of (by decide)) hs ..) h _
  have hb : Kept l r b := by
    refine State.updChan_kept (hl.of (by decide)) ?_ ha _
    intro x hx
    cases hx
  have hd : Kept l r d := State.updCal_kept (hl.of (by decide)) (State.loseLines_kept (hl.of (by decide)) hb ..) ..
  have he : Kept l r e := Kept.foldl (fun _ _ hs => State.updSub_kept (hl.of (by decide)) hs ..) hd _
  have hf : Kept l r f := State.turnTables_kept (hl.of (by decide)) he ..
  split
  · exact hf
  · exact Kept.foldl (fun _ _ hs => State.reapply_kept (hl.of (by decide)) hs ..) hf _

theorem State.chRst_kept (hl : Within 0x2020400e60 l) (h : Kept l r s) (mask : Nat) : Kept l r (State.chRst s mask) := by
  unfold State.chRst
  repeat' first
    | with_reducible assumption
    | (intro x; refine (?_ : Kept l r x → _) ?_ <;> [(intro _; clear_value x); subst x])
    | (intro x; clear_value x)
    | lift_lets -underBinder
    | simp -zeta (disch := (refine Part.all ?_; intro p hp; cases p <;> first | exact hl.no hp (by decide) | exact Eq.refl _)) only [Kept.upd_iff]
    | with_reducible refine State.chReset_kept (hl.of (by decide)) ?_ ..
    | with_reducible refine Kept.foldl (fun s a hs => ?_) ?_ _
    | split

theorem State.cntClrAll_kept (hl : Within 0x20200 l) (h : Kept l r s) : Kept l r (State.cntClrAll s) := by
  unfold State.cntClrAll
  repeat' first
    | with_reducible assumption
    | with_reducible refine State.updCnt_kept (hl.of (by decide)) ?_ ..
    | with_reducible refine State.cntClear_kept (hl.of (by decide)) ?_ ..
    | with_reducible refine State.quadClear_kept (hl.of (by decide)) ?_ ..
    | with_reducible refine Kept.foldl (fun s a hs => ?_) ?_ _
    | split

theorem State.setStart_kept (hl : Within 0x20 l) (h : Kept l r s) (p : PageId) (off : Nat) (v : Word) : Kept l r (State.setStart s p off v) := by
  unfold State.setStart
  repeat' first
    | with_reducible assumption
    | (intro x; clear_value x)
    | lift_lets -underBinder
    | with_reducible refine State.setReg_kept (hl.of (by decide)) ?_ ..
    | with_reducible refine State.updPage_kept (hl.of (by decide)) ?_ ..
    | with_reducible refine State.setBoth_kept (hl.of (by decide)) ?_ ..
    | split

theorem State.bclkLock_kept (hl : Within 0x8020000236 l) (h : Kept l r s) : Kept l r (State.bclkLock s) := by
  unfold State.bclkLock
  repeat' first
    | with_reducible assumption
    | (intro x; refine (?_ : Kept l r x → _) ?_ <;> [(intro _; clear_value x); subst x])
    | (intro x; (have _ht : Esc := x); clear _ht)
    | (intro x; clear_value x)
    | lift_lets -underBinder
    | simp -zeta (disch := (refine Part.all ?_; intro p hp; cases p <;> first | exact hl.no hp (by decide) | exact Eq.refl _)) only [Kept.upd_iff]
    | with_reducible refine State.setStart_kept (hl.of (by decide)) ?_ ..
    | with_reducible refine State.updPage_kept (hl.of (by decide)) ?_ ..
    | with_reducible refine State.turnTables_kept (hl.of (by decide)) ?_ ..
    | with_reducible refine State.enable_kept (hl.of (by decide)) ?_ ..
    | with_reducible refine Kept.foldl (fun s a hs => ?_) ?_ _
    | split

theorem State.bclkLockTimeout_kept (hl : Within 0x800000000 l) (h : Kept l r s) : Kept l r (State.bclkLockTimeout s) := by
  unfold State.bclkLockTimeout
  repeat' first
    | with_reducible assumption
    | simp -zeta (disch := (refine Part.all ?_; intro p hp; cases p <;> first | exact hl.no hp (by decide) | exact Eq.refl _)) only [Kept.upd_iff]
    | split

theorem State.bootPhase_kept (hl : Within 0x8820000080 l) (h : Kept l r s) (a1 : PhaseIn) : Kept l r (State.bootPhase s a1) := by
  unfold State.bootPhase
  repeat' first
    | with_reducible assumption
    | (intro x; refine (?_ : Kept l r x → _) ?_ <;> [(intro _; clear_value x); subst x])
    | (intro x; clear_value x)
    | lift_lets -underBinder
    | simp -zeta (disch := (refine Part.all ?_; intro p hp; cases p <;> first | exact hl.no hp (by decide) | exact Eq.refl _)) only [Kept.upd_iff]
    | split

theorem State.calrefPhase_kept (hl : Within 0x800800400 l) (h : Kept l r s) (a1 : PhaseIn) : Kept l r (State.calrefPhase s a1) := by
  unfold State.calrefPhase
  repeat' first
    | with_reducible assumption
    | (intro x; refine (?_ : Kept l r x → _) ?_ <;> [(intro _; clear_value x); subst x])
    | lift_lets -underBinder
    | simp -zeta (disch := (refine Part.all ?_; intro p hp; cases p <;> first | exact hl.no hp (by decide) | exact Eq.refl _)) only [Kept.upd_iff]
    | with_reducible refine State.measureCalref_kept (hl.of (by decide)) ?_ ..
    | with_reducible refine State.updBal_kept (hl.of (by decide)) ?_ ..
    | with_reducible refine Kept.foldl (fun s a hs => ?_) ?_ _
    | split

theorem State.commitPhase_kept (hl : Within 0x820100670 l) (h : Kept l r s) : Kept l r (State.commitPhase s) := by
  unfold State.commitPhase
  repeat' first
    | with_reducible assumption
    | (intro x; refine (?_ : Kept l r x → _) ?_ <;> [(intro _; clear_value x); subst x])
    | (intro x; clear_value x)
    | lift_lets -underBinder
    | simp -zeta (disch := (refine Part.all ?_; intro p hp; cases p <;> first | exact hl.no hp (by decide) | exact Eq.refl _)) only [Kept.upd_iff]
    | with_reducible refine State.bootTables_kept (hl.of (by decide)) ?_ ..
    | with_reducible refine State.setStart_kept (hl.of (by decide)) ?_ ..
    | with_reducible refine State.mvcSet_kept (hl.of (by decide)) ?_ ..
    | with_reducible refine State.enable_kept (hl.of (by decide)) ?_ ..
    | with_reducible refine State.updIns_kept (hl.of (by decide)) ?_ ..
    | with_reducible refine State.armShare_kept (hl.of (by decide)) ?_ ..
    | with_reducible refine Kept.foldl (fun s a hs => ?_) ?_ _
    | split

theorem State.dimmPhase_kept (hl : Within 0x820000430 l) (h : Kept l r s) : Kept l r (State.dimmPhase s) := by
  unfold State.dimmPhase
  repeat' first
    | with_reducible assumption
    | (intro x; refine (?_ : Kept l r x → _) ?_ <;> [(intro _; clear_value x); subst x])
    | (intro x; clear_value x)
    | exact fun _ hx => hx
    | lift_lets -underBinder
    | simp -zeta (disch := (refine Part.all ?_; intro p hp; cases p <;> first | exact hl.no hp (by decide) | exact Eq.refl _)) only [Kept.upd_iff]
    | with_reducible refine State.updChan_kept (hl.of (by decide)) ?_ ?_ _
    | with_reducible refine State.enable_kept (hl.of (by decide)) ?_ ..
    | with_reducible refine Kept.foldl (fun s a hs => ?_) ?_ _
    | split

theorem State.fillPhase_kept (hl : Within 0x14820000260 l) (h : Kept l r s) : Kept l r (State.fillPhase s) := by
  unfold State.fillPhase
  repeat' first
    | with_reducible assumption
    | (intro x; refine (?_ : Kept l r x → _) ?_ <;> [(intro _; clear_value x); subst x])
    | (intro x; clear_value x)
    | lift_lets -underBinder
    | simp -zeta (disch := (refine Part.all ?_; intro p hp; cases p <;> first | exact hl.no hp (by decide) | exact Eq.refl _)) only [Kept.upd_iff]
    | with_reducible refine State.bootTables_kept (hl.of (by decide)) ?_ ..
    | with_reducible refine Kept.foldl (fun s a hs => ?_) ?_ _
    | split

theorem State.sidebandPhase_kept (hl : Within 0x20824001588 l) (h : Kept l r s) (a1 : PhaseIn) : Kept l r (State.sidebandPhase s a1) := by
  unfold State.sidebandPhase
  repeat' first
    | with_reducible assumption
    | exact fun _ hx => hx
    | (intro x; refine (?_ : Kept l r x → _) ?_ <;> [(intro _; clear_value x); subst x])
    | (intro x; clear_value x)
    | lift_lets -underBinder
    | simp -zeta (disch := (refine Part.all ?_; intro p hp; cases p <;> first | exact hl.no hp (by decide) | exact Eq.refl _)) only [Kept.upd_iff]
    | with_reducible refine State.updChan_kept (hl.of (by decide)) ?_ ?_ _
    | with_reducible refine State.assignRoles_kept (hl.of (by decide)) ?_ ..
    | with_reducible refine Kept.foldl (fun s a hs => ?_) ?_ _
    | split

theorem State.trainBegin_kept (hl : Within 0x400420 l) (h : Kept l r s) (c : Nat) : Kept l r (State.trainBegin s c) := by
  unfold State.trainBegin
  repeat' first
    | with_reducible assumption
    | exact fun _ hx => hx
    | (intro x; refine (?_ : Kept l r x → _) ?_ <;> [(intro _; clear_value x); subst x])
    | lift_lets -underBinder
    | with_reducible refine State.calRequest_kept (hl.of (by decide)) ?_ ..
    | with_reducible refine State.updChan_kept (hl.of (by decide)) ?_ ?_ _
    | with_reducible refine State.restoreFail_kept (hl.of (by decide)) ?_ ..
    | split

theorem State.trainPhase_kept (hl : Within 0x24001580 l) (h : Kept l r s) : Kept l r (State.trainPhase s) := by
  unfold State.trainPhase
  repeat' first
    | with_reducible assumption
    | (intro x; clear_value x)
    | lift_lets -underBinder
    | with_reducible refine State.assignRoles_kept (hl.of (by decide)) ?_ ..
    | with_reducible refine State.supplyOff_kept (hl.of (by decide)) ?_ ..
    | with_reducible refine Kept.foldl (fun s a hs => ?_) ?_ _
    | split

theorem State.phaseComplete_kept (hl : Within 0x3c824d017f8 l) (h : Kept l r s) (a1 : PhaseIn) : Kept l r (State.phaseComplete s a1) := by
  unfold State.phaseComplete
  repeat' first
    | with_reducible assumption
    | (intro x; refine (?_ : Kept l r x → _) ?_ <;> [(intro _; clear_value x); subst x])
    | (intro x; clear_value x)
    | lift_lets -underBinder
    | simp -zeta (disch := (refine Part.all ?_; intro p hp; cases p <;> first | exact hl.no hp (by decide) | exact Eq.refl _)) only [Kept.upd_iff]
    | with_reducible refine State.bootPhase_kept (hl.of (by decide)) ?_ ..
    | with_reducible refine State.calrefPhase_kept (hl.of (by decide)) ?_ ..
    | with_reducible refine State.sidebandPhase_kept (hl.of (by decide)) ?_ ..
    | with_reducible refine State.dimmPhase_kept (hl.of (by decide)) ?_ ..
    | with_reducible refine State.trainBegin_kept (hl.of (by decide)) ?_ ..
    | with_reducible refine State.commitPhase_kept (hl.of (by decide)) ?_ ..
    | with_reducible refine State.trainPhase_kept (hl.of (by decide)) ?_ ..
    | with_reducible refine State.fillPhase_kept (hl.of (by decide)) ?_ ..
    | with_reducible refine Kept.foldl (fun s a hs => ?_) ?_ _
    | split

theorem State.powerFailure_kept (hl : Within 0xffffffffffe l) (h : Kept l r s) (code : Nat) : Kept l r (State.powerFailure s code) := by
  unfold State.powerFailure
  extract_lets a m
  refine ⟨?_, fun p hp => by cases p <;> exact hl.no hp (by decide), fun _ => rfl⟩
  have ha : Kept (0xffffffffffe) r a := by
    have h : Kept (0xffffffffffe) r s := ⟨h.1, fun p hp => (by cases p <;> exact absurd hp (by decide)), h.3⟩
    show Kept _ r (match s.jwlNext with | some c => _ | none => _)
    split
    · split
      · exact h
      · exact State.setCopy_kept (show Within _ _ from (by decide : Nat.land _ _ = _)) h ..
    · exact h
  exact ha.1

theorem State.resetRelease_kept (hl : Within 0x800000000 l) (h : Kept l r s) : Kept l r (State.resetRelease s) := by
  unfold State.resetRelease
  repeat' first
    | with_reducible assumption
    | simp -zeta (disch := (refine Part.all ?_; intro p hp; cases p <;> first | exact hl.no hp (by decide) | exact Eq.refl _)) only [Kept.upd_iff]
    | split

theorem State.runStart_kept (hl : Within 0x20400e60 l) (h : Kept l r s) (c : Nat) (spd : Spd) : Kept l r (State.runStart s c spd) := by
  unfold State.runStart
  repeat' first
    | with_reducible assumption
    | (intro x; refine (?_ : Kept l r x → _) ?_ <;> [(intro _; clear_value x); subst x])
    | lift_lets -underBinder
    | with_reducible refine State.caliperStart_kept (hl.of (by decide)) ?_ ..
    | with_reducible refine State.mvcSet_kept (hl.of (by decide)) ?_ ..
    | split

/-- What the fold of a warm reset keeps: the old lines, and no channel filled that was not. -/
def WarmKept (s r : State) : Prop :=
  r.pending = s.pending ∧ (s.memWf = true → Tbl.wf (fun _ => none) r.mem = true) ∧ (∀ e ∈ r.mem, e ∈ s.mem) ∧
    ∀ c, (r.chan c).filled = true → (s.chan c).filled = true

theorem WarmKept.mem {s r : State} (w : WarmKept s r) (hm : s.memWf = true) : r.memWf = true := by
  have hp := w.2.1 hm
  simp only [State.memWf, Bool.and_eq_true, List.all_eq_true] at hm ⊢
  refine ⟨hp, fun e he => ?_⟩
  have := hm.2 e (w.2.2.1 e he)
  simp only [Bool.not_eq_true', Bool.and_eq_false_iff] at this ⊢
  refine this.imp_left fun hn => ?_
  by_contra hx
  rw [w.2.2.2 _ (by simpa using hx)] at hn
  cases hn

theorem WarmKept.upd {s r : State} (w : WarmKept s r) (c : Nat) : WarmKept s (r.updChan c fun _ => s.keptChan c) := by
  refine ⟨w.1, w.2.1, w.2.2.1, fun i hi => ?_⟩
  rw [State.chan_updChan] at hi
  split at hi
  · rename_i hc; rw [hc]; exact hi
  · exact w.2.2.2 i hi

theorem WarmKept.lose {s r : State} (w : WarmKept s r) (c : Nat) : WarmKept s (r.loseLines c false) := by
  refine ⟨w.1, fun p => Tbl.wf_drop (fun _ => none) (fun key => chanOfKey key == c) (w.2.1 p), fun e he => w.2.2.1 e (List.mem_filter.mp he).1, fun i hi => ?_⟩
  unfold State.loseLines at hi
  rw [State.chan_updChan] at hi
  split at hi
  · cases hi
  · exact w.2.2.2 i hi

theorem WarmKept.setReg {s r : State} (w : WarmKept s r) (p : PageId) (off : Nat) (v : Word) :
    WarmKept s (r.setReg p off v) := w

theorem WarmKept.setBoth {s r : State} (w : WarmKept s r) (p : PageId) (off : Nat) (v : Word) :
    WarmKept s (r.setBoth p off v) := w

theorem WarmKept.updPage {s r : State} (w : WarmKept s r) (p : PageId) (f : Page → Page) :
    WarmKept s (r.updPage p f) := w

theorem WarmKept.fold {s : State} (l : List Nat) (r : State) (w : WarmKept s r) :
    WarmKept s (l.foldl (fun r c =>
      let r := r.updChan c fun _ => s.keptChan c
      let r := if (r.chan c).retained then r else r.loseLines c false
      r.setBoth (.cc c) 0x050 (s.reg (.cc c) 0x050 &&& 0x30000)) r) := by
  induction l generalizing r with
  | nil => exact w
  | cons c l ih =>
    refine ih _ ?_
    have h1 := w.upd c
    have h2 : WarmKept s (if ((r.updChan c fun _ => s.keptChan c).chan c).retained then r.updChan c fun _ => s.keptChan c
        else (r.updChan c fun _ => s.keptChan c).loseLines c false) := by
      split
      · exact h1
      · exact h1.lose c
    exact h2.setBoth ..

theorem WarmKept.setStart {s r : State} (w : WarmKept s r) (p : PageId) (off : Nat) (v : Word) :
    WarmKept s (r.setStart p off v) := by
  unfold State.setStart
  split
  · exact w
  · lift_lets -underBinder
    intro v
    split
    · exact w
    · split
      · exact w.setReg ..
      · exact (w.setBoth ..).updPage ..

theorem State.warmReset_kept (hl : Within 0xffffffffffe l) (h : Kept l r s) : Kept l r (State.warmReset s) := by
  unfold State.warmReset
  lift_lets -underBinder
  intro m src x
  have hx : WarmKept s x := by
    refine ⟨rfl, fun p => ?_, fun e he => he, fun c hc => ?_⟩
    · simp only [State.memWf, Bool.and_eq_true] at p
      exact p.1
    · cases hc
  clear_value x
  intro y
  have hy : WarmKept s y := (hx.setStart ..).setStart ..
  clear_value y
  have hz := WarmKept.fold (List.range 17) _ hy
  refine ⟨hz.1.trans h.1, fun p hp => ?_, fun hr => hz.mem (h.3 hr)⟩
  cases p <;> exact hl.no hp (by decide)

theorem State.zeroFillDone_kept (hl : Within 0x100a0020e70 l) (h : Kept l r s) (c : Nat) : Kept l r (State.zeroFillDone s c) := by
  unfold State.zeroFillDone
  repeat' first
    | with_reducible assumption
    | (intro x; refine (?_ : Kept l r x → _) ?_ <;> [(intro _; clear_value x); subst x])
    | lift_lets -underBinder
    | simp -zeta (disch := (refine Part.all ?_; intro p hp; cases p <;> first | exact hl.no hp (by decide) | exact Eq.refl _)) only [Kept.upd_iff]
    | with_reducible refine State.bootTables_kept (hl.of (by decide)) ?_ ..
    | with_reducible refine State.loseLines_kept (hl.of (by decide)) ?_ ..
    | with_reducible refine State.fillDone_kept (hl.of (by decide)) ?_ ..
    | split

end Sys2Proof.Machine
end

