-- ==== Sys2Proof/Laws/KeptAccess.lean ====
section
/-! SUPPORT. What each operation of Machine/Access.lean leaves alone: one lemma for each. -/
set_option maxRecDepth 4000
namespace Sys2Proof.Machine
variable {l : Nat} {r s : State}

theorem State.writeStored_kept (hl : Within 0x20 l) (h : Kept l r s) (p : PageId) (off : Nat) (v : Word) : Kept l r (State.writeStored s p off v) := by
  unfold State.writeStored
  repeat' first
    | with_reducible assumption
    | (intro x; refine (?_ : Kept l r x → _) ?_ <;> [(intro _; clear_value x); subst x])
    | (intro x; clear_value x)
    | lift_lets -underBinder
    | with_reducible refine State.updPage_kept (hl.of (by decide)) ?_ ..
    | with_reducible refine State.setErr_kept (hl.of (by decide)) ?_ ..
    | with_reducible refine State.setShd_kept (hl.of (by decide)) ?_ ..
    | with_reducible refine State.setReg_kept (hl.of (by decide)) ?_ ..
    | split

theorem State.mbGo_kept (hl : Within 0x20060 l) (h : Kept l r s) (m : Nat) : Kept l r (State.mbGo s m) := by
  unfold State.mbGo
  repeat' first
    | with_reducible assumption
    | (intro x; refine (?_ : Kept l r x → _) ?_ <;> [(intro _; clear_value x); subst x])
    | lift_lets -underBinder
    | with_reducible refine State.updMbx_kept (hl.of (by decide)) ?_ ..
    | with_reducible refine State.mbDone_kept (hl.of (by decide)) ?_ ..
    | split

theorem State.writeMb_kept (hl : Within 0x20060 l) (h : Kept l r s) (m : Nat) (o : Nat) (v : Word) : Kept l r (State.writeMb s m o v).1 := by
  unfold State.writeMb
  repeat' first
    | with_reducible assumption
    | (intro x; clear_value x)
    | lift_lets -underBinder
    | with_reducible refine State.updMbx_kept (hl.of (by decide)) ?_ ..
    | with_reducible refine State.mbGo_kept (hl.of (by decide)) ?_ ..
    | split

theorem State.blkReset_kept (hl : Within 0x420b0720e70 l) (h : Kept l r s) (v : Word) (crc : Bool) : Kept l r (State.blkReset s v crc) := by
  unfold State.blkReset
  repeat' first
    | with_reducible assumption
    | with_reducible refine State.chRst_kept (hl.of (by decide)) ?_ ..
    | with_reducible refine State.mvcRestartCmd_kept (hl.of (by decide)) ?_ ..
    | with_reducible refine State.cntClrAll_kept (hl.of (by decide)) ?_ ..
    | split

theorem State.intCfg_kept (hl : Within 0x40 l) (h : Kept l r s) (v : Word) : Kept l r (State.intCfg s v) := by
  exact (Kept.upd_iff (fun p hp => by cases p <;> first | exact hl.no hp (by decide) | exact Eq.refl _)).mpr h

theorem State.intEoi_kept (hl : Within 0x20060 l) (h : Kept l r s) (v : Word) : Kept l r (State.intEoi s v) := by
  unfold State.intEoi
  repeat' first
    | with_reducible assumption
    | simp -zeta (disch := (refine Part.all ?_; intro p hp; cases p <;> first | exact hl.no hp (by decide) | exact Eq.refl _)) only [Kept.upd_iff]
    | with_reducible refine State.intAtOnce_kept (hl.of (by decide)) ?_ ..
    | split

theorem State.writeBlk_kept (hl : Within 0x420b0720e70 l) (h : Kept l r s) (off : Nat) (v : Word) : Kept l r (State.writeBlk s off v).1 := by
  unfold State.writeBlk
  repeat' first
    | with_reducible assumption
    | simp -zeta (disch := (refine Part.all ?_; intro p hp; cases p <;> first | exact hl.no hp (by decide) | exact Eq.refl _)) only [Kept.upd_iff]
    | with_reducible refine State.writeMb_kept (hl.of (by decide)) ?_ ..
    | with_reducible refine State.blkReset_kept (hl.of (by decide)) ?_ ..
    | with_reducible refine State.intCfg_kept (hl.of (by decide)) ?_ ..
    | with_reducible refine State.intEoi_kept (hl.of (by decide)) ?_ ..
    | split

theorem State.mapXlate_kept (hl : Within 0x80 l) (h : Kept l r s) (hi : Word) : Kept l r (State.mapXlate s hi) := by
  exact (Kept.upd_iff (fun p hp => by cases p <;> first | exact hl.no hp (by decide) | exact Eq.refl _)).mpr h

theorem State.ovrClr_kept (hl : Within 0x10 l) (h : Kept l r s) (v : Word) : Kept l r (State.ovrClr s v) := by
  exact (Kept.upd_iff (fun p hp => by cases p <;> first | exact hl.no hp (by decide) | exact Eq.refl _)).mpr h

theorem State.brlIdx_kept (hl : Within 0x420 l) (h : Kept l r s) (c : Nat) (v : Word) : Kept l r (State.brlIdx s c v) := by
  unfold State.brlIdx
  repeat' first
    | with_reducible assumption
    | exact fun _ hx => hx
    | with_reducible refine State.setReg_kept (hl.of (by decide)) ?_ ..
    | with_reducible refine State.updChan_kept (hl.of (by decide)) ?_ ?_ _

theorem State.snap_kept (hl : Within 0x20000 l) (h : Kept l r s) (b : Nat) : Kept l r (State.snap s b) := by
  exact State.updCnt_kept hl h ..

theorem State.cntSnap_kept (hl : Within 0x20000 l) (h : Kept l r s) (b : Nat) (v : Word) : Kept l r (State.cntSnap s b v) := by
  unfold State.cntSnap
  repeat' first
    | with_reducible assumption
    | with_reducible refine State.snap_kept (hl.of (by decide)) ?_ ..
    | with_reducible refine State.updCnt_kept (hl.of (by decide)) ?_ ..
    | with_reducible refine State.cntClear_kept (hl.of (by decide)) ?_ ..
    | split

theorem State.cntVal_kept (hl : Within 0x20000 l) (h : Kept l r s) (b : Nat) (n : Nat) (hi : Bool) (v : Word) : Kept l r (State.cntVal s b n hi v) := by
  exact State.updCnt_kept hl h ..

theorem State.ringSel_kept (hl : Within 0x36028a20 l) (h : Kept l r s) (v : Word) : Kept l r (State.ringSel s v) := by
  unfold State.ringSel
  repeat' first
    | with_reducible assumption
    | (intro x; refine (?_ : Kept l r x → _) ?_ <;> [(intro _; clear_value x); subst x])
    | (intro x; clear_value x)
    | lift_lets -underBinder
    | simp -zeta (disch := (refine Part.all ?_; intro p hp; cases p <;> first | exact hl.no hp (by decide) | exact Eq.refl _)) only [Kept.upd_iff]
    | with_reducible refine State.setReg_kept (hl.of (by decide)) ?_ ..
    | with_reducible refine State.ringCmd_kept (hl.of (by decide)) ?_ ..
    | split

theorem State.writeFn_kept (hl : Within 0x422be729ff0 l) (h : Kept l r s) (p : PageId) (off : Nat) (v : Word) : Kept l r (State.writeFn s p off v).1 := by
  unfold State.writeFn
  repeat' first
    | with_reducible assumption
    | simp -zeta (disch := (refine Part.all ?_; intro p hp; cases p <;> first | exact hl.no hp (by decide) | exact Eq.refl _)) only [Kept.upd_iff]
    | with_reducible refine State.writeStored_kept (hl.of (by decide)) ?_ ..
    | with_reducible refine State.writeBlk_kept (hl.of (by decide)) ?_ ..
    | with_reducible refine State.mapXlate_kept (hl.of (by decide)) ?_ ..
    | with_reducible refine State.ovrClr_kept (hl.of (by decide)) ?_ ..
    | with_reducible refine State.injGo_kept (hl.of (by decide)) ?_ ..
    | with_reducible refine State.gwFlush_kept (hl.of (by decide)) ?_ ..
    | with_reducible refine State.i3cGo_kept (hl.of (by decide)) ?_ ..
    | with_reducible refine State.mrGo_kept (hl.of (by decide)) ?_ ..
    | with_reducible refine State.brlIdx_kept (hl.of (by decide)) ?_ ..
    | with_reducible refine State.cntSnap_kept (hl.of (by decide)) ?_ ..
    | with_reducible refine State.cntVal_kept (hl.of (by decide)) ?_ ..
    | with_reducible refine State.ringSel_kept (hl.of (by decide)) ?_ ..
    | with_reducible refine State.setReg_kept (hl.of (by decide)) ?_ ..
    | with_reducible refine State.ringBell_kept (hl.of (by decide)) ?_ ..
    | split

theorem State.escStart_kept (hl : Within 0x30 l) (h : Kept l r s) : Kept l r (State.escStart s) := by
  unfold State.escStart
  extract_lets t
  have ht : Kept l r t := State.updPage_kept (hl.of (by decide)) h ..
  split <;> exact (Kept.upd_iff (s := t) (fun p hp => by cases p <;> first | exact hl.no hp (by decide) | exact Eq.refl _)).mpr ht

theorem State.writeEn_kept (hl : Within 0x30 l) (h : Kept l r s) (src : Src) (p : PageId) (en : Bool) : Kept l r (State.writeEn s src p en) := by
  unfold State.writeEn
  extract_lets pg put
  have hput : ∀ {x n}, Kept l r x → Kept l r (put x n) := fun hx => State.updPage_kept (hl.of (by decide)) hx ..
  have hov : Kept l r (s.overrun 6 (p.chan.getD 255)) := State.overrun_kept (hl.of (by decide)) h ..
  split
  · exact h
  split
  · split
    · exact State.escStart_kept (hl.of (by decide)) h
    · refine (Kept.upd_iff (s := s.updPage .esc _) (fun p hp => ?_)).mpr (State.updPage_kept (hl.of (by decide)) h ..)
      cases p <;> first | exact hl.no hp (by decide) | exact Eq.refl _
  split
  · split
    · exact hov
    · exact hput h
  · refine hput ?_
    split <;> assumption
  · exact hput h

theorem State.writeCtl_kept (hl : Within 0x30 l) (h : Kept l r s) (src : Src) (p : PageId) (v : Word) : Kept l r (State.writeCtl s src p v) := by
  unfold State.writeCtl
  repeat' first
    | with_reducible assumption
    | (intro x; refine (?_ : Kept l r x → _) ?_ <;> [(intro _; clear_value x); subst x])
    | simp -zeta (disch := (refine Part.all ?_; intro p hp; cases p <;> first | exact hl.no hp (by decide) | exact Eq.refl _)) only [Kept.upd_iff]
    | (intro x; clear_value x)
    | lift_lets -underBinder
    | with_reducible refine State.setErr_kept (hl.of (by decide)) ?_ ..
    | with_reducible refine State.writeEn_kept (hl.of (by decide)) ?_ ..
    | with_reducible refine State.updPage_kept (hl.of (by decide)) ?_ ..
    | split

theorem State.writeIrq_kept (hl : Within 0x20 l) (h : Kept l r s) (p : PageId) (off : Nat) (v : Word) : Kept l r (State.writeIrq s p off v) := by
  exact State.updPage_kept hl h ..

theorem State.writeReg_kept (hl : Within 0x422be739ff0 l) (h : Kept l r s) (src : Src) (p : PageId) (off : Nat) (v : Word) : Kept l r (State.writeReg s src p off v).1 := by
  unfold State.writeReg
  repeat' first
    | with_reducible assumption
    | with_reducible refine State.writeFn_kept (hl.of (by decide)) ?_ ..
    | with_reducible refine State.writeCtl_kept (hl.of (by decide)) ?_ ..
    | with_reducible refine State.insIrqWrite_kept (hl.of (by decide)) _ (fun s hs => ?_) ?_ ..
    | with_reducible refine State.writeIrq_kept (hl.of (by decide)) ?_ ..
    | with_reducible refine State.writeCommit_kept (hl.of (by decide)) ?_ ..
    | with_reducible refine State.updPage_kept (hl.of (by decide)) ?_ ..
    | split

theorem State.readCounter_kept (hl : Within 0x20000 l) (h : Kept l r s) (b : Nat) (off : Nat) : Kept l r (State.readCounter s b off).1 := by
  unfold State.readCounter
  repeat' first
    | with_reducible assumption
    | (intro x; clear_value x)
    | lift_lets -underBinder
    | with_reducible refine State.updCnt_kept (hl.of (by decide)) ?_ ..
    | split

theorem State.readHalf_kept (hl : Within 0x20 l) (h : Kept l r s) (p : PageId) (off : Nat) (v : Word) : Kept l r (State.readHalf s p off v).1 := by
  unfold State.readHalf
  repeat' first
    | with_reducible assumption
    | with_reducible refine State.updPage_kept (hl.of (by decide)) ?_ ..
    | split

theorem State.readReg_kept (hl : Within 0x20460 l) (h : Kept l r s) (p : PageId) (off : Nat) : Kept l r (State.readReg s p off).1 := by
  unfold State.readReg
  repeat' first
    | with_reducible assumption
    | lift_lets -underBinder
    | simp -zeta (disch := (refine Part.all ?_; intro p hp; cases p <;> first | exact hl.no hp (by decide) | exact Eq.refl _)) only [Kept.upd_iff]
    | with_reducible refine State.updPage_kept (hl.of (by decide)) ?_ ..
    | with_reducible refine State.readCounter_kept (hl.of (by decide)) ?_ ..
    | with_reducible refine State.readHalf_kept (hl.of (by decide)) ?_ ..
    | with_reducible refine State.updBal_kept (hl.of (by decide)) ?_ ..
    | split

theorem State.readWide_kept (hl : Within 0x20460 l) (h : Kept l r s) (p : PageId) (off : Nat) : Kept l r (State.readWide s p off).1 := by
  unfold State.readWide
  repeat' first
    | with_reducible assumption
    | with_reducible refine State.readReg_kept (hl.of (by decide)) ?_ ..
    | split

theorem State.access_kept (hl : Within 0x422be739ff0 l) (h : Kept l r s) (src : Src) (addr : Nat) (wide : Bool) (wr : Bool) (data : Nat) : Kept l r (State.access s src addr wide wr data).1 := by
  unfold State.access
  repeat' first
    | with_reducible assumption
    | (intro x; refine (?_ : Kept l r x → _) ?_ <;> [(intro _; clear_value x); subst x])
    | (intro x; refine (?_ : Kept l r x.1 → _) ?_ <;> [(intro _; clear_value x); subst x])
    | (intro x; clear_value x)
    | lift_lets -underBinder
    | with_reducible refine State.settle_kept (hl.of (by decide)) ?_ ..
    | with_reducible refine State.badAccess_kept (hl.of (by decide)) ?_ ..
    | with_reducible refine State.writeReg_kept (hl.of (by decide)) ?_ ..
    | with_reducible refine State.ev_kept (hl.of (by decide)) ?_ ..
    | with_reducible refine State.standoff_kept (hl.of (by decide)) ?_ ..
    | with_reducible refine State.readWide_kept (hl.of (by decide)) ?_ ..
    | with_reducible refine State.readReg_kept (hl.of (by decide)) ?_ ..
    | split

theorem State.nodeUsed_kept (hl : Within 0x2000 l) (h : Kept l r s) (n : Nat) (t : Nat) : Kept l r (State.nodeUsed s n t) := by
  exact (Kept.upd_iff (fun p hp => by cases p <;> first | exact hl.no hp (by decide) | exact Eq.refl _)).mpr h

theorem State.svcFlits_kept (hl : Within 0x20020 l) (h : Kept l r s) (g : Nat) (a1 : ReqHdr) : Kept l r (State.svcFlits s g a1) := by
  unfold State.svcFlits
  repeat' first
    | with_reducible assumption
    | with_reducible refine State.routeEvents_kept (hl.of (by decide)) ?_ ..
    | split

theorem State.svcOne_kept (hl : Within 0x422be73bff2 l) (h : Kept l r s) (g : Nat) {w2 : State} (ht : State.svcOne s g = some w2) : Kept l r w2 := by
  unfold State.svcOne at ht
  revert ht
  repeat' first
    | with_reducible assumption
    | (intro ht; cases ht; done)
    | (intro ht; injection ht with ht; subst ht)
    | (intro x; refine (?_ : Kept l r x → _) ?_ <;> [(intro _; clear_value x); subst x])
    | (intro x; refine (?_ : Kept l r x.1 → _) ?_ <;> [(intro _; clear_value x); subst x])
    | (intro x; clear_value x)
    | lift_lets -underBinder
    | simp -zeta (disch := (refine Part.all ?_; intro p hp; cases p <;> first | exact hl.no hp (by decide) | exact Eq.refl _)) only [Kept.upd_iff]
    | with_reducible refine State.nodeUsed_kept (hl.of (by decide)) ?_ ..
    | with_reducible refine State.goto_kept (hl.of (by decide)) ?_ ..
    | with_reducible refine State.svcFlits_kept (hl.of (by decide)) ?_ ..
    | with_reducible refine State.access_kept (hl.of (by decide)) ?_ ..
    | with_reducible refine State.inject_kept (hl.of (by decide)) ?_ ..
    | split

theorem State.svcsWhile_kept (hl : Within 0x422be73bff2 l) (h : Kept l r s) (ok : State → Nat → Bool) (a1 : Nat) : Kept l r (State.svcsWhile ok a1 s) := by
  induction a1 generalizing s with
  | zero => exact h
  | succ n ih =>
    unfold State.svcsWhile
    repeat' split
    · exact h
    · rename_i s2 hs2
      exact ih (State.svcOne_kept (hl.of (by decide)) h (ht := hs2) ..)
    · exact h
    · exact h

theorem State.runSvcsTo_kept (hl : Within 0x422be73bff2 l) (h : Kept l r s) (u : Nat) : Kept l r (State.runSvcsTo s u) := by
  exact State.svcsWhile_kept hl h ..

theorem State.accessNow_kept (hl : Within 0x422be739ff0 l) (h : Kept l r s) (src : Src) (addr : Nat) (wide : Bool) (wr : Bool) (data : Nat) : Kept l r (State.accessNow s src addr wide wr data) := by
  unfold State.accessNow
  repeat' first
    | with_reducible assumption
    | (intro x; refine (?_ : Kept l r x → _) ?_ <;> [(intro _; clear_value x); subst x])
    | lift_lets -underBinder
    | simp -zeta (disch := (refine Part.all ?_; intro p hp; cases p <;> first | exact hl.no hp (by decide) | exact Eq.refl _)) only [Kept.upd_iff]
    | with_reducible refine State.badAccess_kept (hl.of (by decide)) ?_ ..
    | with_reducible refine State.access_kept (hl.of (by decide)) ?_ ..
    | split

theorem State.accessHere_kept (hl : Within 0x422be73bff2 l) (h : Kept l r s) (src : Src) (addr : Nat) (wide : Bool) (wr : Bool) (data : Nat) : Kept l r (State.accessHere s src addr wide wr data) := by
  unfold State.accessHere
  repeat' first
    | with_reducible assumption
    | with_reducible refine State.runSvcsTo_kept (hl.of (by decide)) ?_ ..
    | with_reducible refine State.nodeUsed_kept (hl.of (by decide)) ?_ ..
    | with_reducible refine State.accessNow_kept (hl.of (by decide)) ?_ ..
    | split

theorem State.escStop_kept (hl : Within 0x30 l) (h : Kept l r s) : Kept l r (State.escStop s) := by
  unfold State.escStop
  split
  · exact State.setErr_kept (hl.of (by decide)) h ..
  · refine (Kept.upd_iff (s := s.updPage .esc _) (fun p hp => ?_)).mpr (State.updPage_kept (hl.of (by decide)) h ..)
    cases p <;> first | exact hl.no hp (by decide) | exact Eq.refl _

theorem State.runSvcs_kept (hl : Within 0x422be73bff2 l) (h : Kept l r s) : Kept l r (State.runSvcs s) := by
  unfold State.runSvcs
  repeat' first
    | with_reducible assumption
    | with_reducible refine State.svcsWhile_kept (hl.of (by decide)) ?_ ..

theorem State.svcAccess_kept (hl : Within 0x422be73bff2 l) (h : Kept l r s) (g : Nat) (a1 : ReqHdr) : Kept l r (State.svcAccess s g a1) := by
  unfold State.svcAccess
  repeat' first
    | with_reducible assumption
    | lift_lets -underBinder
    | with_reducible refine State.runSvcs_kept (hl.of (by decide)) ?_ ..
    | with_reducible refine State.flitIn_kept (hl.of (by decide)) _ (fun s hs => ?_) ?_ ..
    | with_reducible refine State.headerIn_kept (hl.of (by decide)) ?_ ..
    | with_reducible refine State.gwAhead_kept (hl.of (by decide)) ?_ ..

theorem State.svcsFor_kept (hl : Within 0x422be73bff2 l) (h : Kept l r s) (g : Nat) : Kept l r (State.svcsFor s g) := by
  unfold State.svcsFor
  repeat' first
    | with_reducible assumption
    | with_reducible refine State.svcsWhile_kept (hl.of (by decide)) ?_ ..

end Sys2Proof.Machine
end

