-- ==== Sys2Proof/Laws/KeptHolds.lean ====
section
/-! SUPPORT. What each operation of Machine/Holds.lean leaves alone: one lemma for each. -/
set_option maxRecDepth 4000
namespace Sys2Proof.Machine
variable {l : Nat} {r s : State}

theorem State.holdsTick_kept (hl : Within 0x4021560 l) (h : Kept l r s) : Kept l r (State.holdsTick s) := by
  unfold State.holdsTick
  extract_lets ov a
  have ha : Kept l r a := by
    refine Kept.foldl (fun s g hs => ?_) h _
    extract_lets go b put d
    have hb : Kept l r b := State.updGw_kept (hl.of (by decide)) hs ..
    have hd : Kept l r d := by
      refine Kept.foldl (fun t r ht => ?_) hb _
      exact Kept.getD (State.updGw_kept (hl.of (by decide)) ht ..) (fun x hx => State.asideOrClass_kept (hl.of (by decide)) ht (ht := hx) ..)
    split
    · exact hs
    · exact State.g4Retry_kept (hl.of (by decide)) hd ..
  exact Kept.foldl (fun _ _ hs => State.updLe_kept (hl.of (by decide)) hs ..) ha _

theorem State.holdReceive_kept (hl : Within 0x4121562 l) (h : Kept l r s) (u : Nat) : Kept l r (State.holdReceive s u) := by
  unfold State.holdReceive
  repeat' first
    | with_reducible assumption
    | (intro x; refine (?_ : Kept l r x → _) ?_ <;> [(intro _; clear_value x); subst x])
    | (intro x; clear_value x)
    | lift_lets -underBinder
    | simp -zeta (disch := (refine Part.all ?_; intro p hp; cases p <;> first | exact hl.no hp (by decide) | exact Eq.refl _)) only [Kept.upd_iff]
    | with_reducible refine State.goto_kept (hl.of (by decide)) ?_ ..
    | with_reducible refine State.updGw_kept (hl.of (by decide)) ?_ ..
    | with_reducible refine State.raiseIf_kept (hl.of (by decide)) ?_ ..
    | with_reducible refine State.updLe_kept (hl.of (by decide)) ?_ ..
    | split

end Sys2Proof.Machine
end

