-- ==== Sys2Proof/Laws/KeptSleep.lean ====
section
/-! SUPPORT. What each operation of Machine/Sleep.lean leaves alone: one lemma for each. -/
set_option maxRecDepth 4000
namespace Sys2Proof.Machine
variable {l : Nat} {r s : State}

theorem State.emergencyCommand_kept (hl : Within 0x121762 l) (h : Kept l r s) (c : Nat) (sc : Nat) : Kept l r (State.emergencyCommand s c sc) := by
  unfold State.emergencyCommand
  repeat' first
    | with_reducible assumption
    | simp -zeta (disch := (refine Part.all ?_; intro p hp; cases p <;> first | exact hl.no hp (by decide) | exact Eq.refl _)) only [Kept.upd_iff]
    | (intro x; refine (?_ : Kept l r x → _) ?_ <;> [(intro _; clear_value x); subst x])
    | (intro x; clear_value x)
    | lift_lets -underBinder
    | with_reducible refine State.goto_kept (hl.of (by decide)) ?_ ..
    | with_reducible refine State.updSub_kept (hl.of (by decide)) ?_ ..
    | with_reducible refine State.issueMit_kept (hl.of (by decide)) ?_ ..
    | with_reducible refine State.issueRef_kept (hl.of (by decide)) ?_ ..
    | with_reducible refine State.balInterrupt_kept (hl.of (by decide)) ?_ ..
    | split

theorem State.heatPublish_kept (hl : Within 0x100420 l) (h : Kept l r s) : Kept l r (State.heatPublish s) := by
  unfold State.heatPublish
  repeat' first
    | with_reducible assumption
    | (refine fun _ hx => ?_; revert hx; (repeat' split) <;> exact id)
    | (intro x; refine (?_ : Kept l r x → _) ?_ <;> [(intro _; clear_value x); subst x])
    | (intro x; clear_value x)
    | lift_lets -underBinder
    | with_reducible refine State.updChan_kept (hl.of (by decide)) ?_ ?_ _
    | with_reducible refine State.raise_kept (hl.of (by decide)) ?_ ..
    | with_reducible refine State.updIns_kept (hl.of (by decide)) ?_ ..
    | with_reducible refine Kept.foldl (fun s a hs => ?_) ?_ _
    | split

theorem State.windowTick_kept (hl : Within 0x200 l) (h : Kept l r s) (c : Nat) (sc : Nat) : Kept l r (State.windowTick s c sc) := by
  unfold State.windowTick
  repeat' first
    | with_reducible assumption
    | with_reducible refine State.rollover_kept (hl.of (by decide)) ?_ ..
    | with_reducible refine State.updSub_kept (hl.of (by decide)) ?_ ..
    | split

theorem State.heatCapture_kept (hl : Within 0x620 l) (h : Kept l r s) (c : Nat) : Kept l r (State.heatCapture s c) := by
  unfold State.heatCapture
  repeat' first
    | with_reducible assumption
    | exact fun _ hx => hx
    | (intro x; refine (?_ : Kept l r x → _) ?_ <;> [(intro _; clear_value x); subst x])
    | (intro x; clear_value x)
    | lift_lets -underBinder
    | with_reducible refine State.updSub_kept (hl.of (by decide)) ?_ ..
    | with_reducible refine State.raiseIf_kept (hl.of (by decide)) ?_ ..
    | with_reducible refine State.updChan_kept (hl.of (by decide)) ?_ ?_ _
    | with_reducible refine Kept.foldl (fun s a hs => ?_) ?_ _
    | split

theorem State.scrubTick_kept (hl : Within 0x400 l) (h : Kept l r s) (c : Nat) : Kept l r (State.scrubTick s c) := by
  unfold State.scrubTick
  repeat' first
    | with_reducible assumption
    | (intro x; clear_value x)
    | lift_lets -underBinder
    | with_reducible refine State.updScrub_kept (hl.of (by decide)) ?_ ..
    | split

theorem State.sreRank_kept (hl : Within 0x20220 l) (h : Kept l r s) (c : Nat) (sc : Nat) (rk : Nat) : Kept l r (State.sreRank s c sc rk) := by
  unfold State.sreRank
  repeat' first
    | with_reducible assumption
    | exact fun _ hx => hx
    | (intro x; refine (?_ : Kept l r x → _) ?_ <;> [(intro _; clear_value x); subst x])
    | (intro x; clear_value x)
    | lift_lets -underBinder
    | simp -zeta (disch := (refine Part.all ?_; intro p hp; cases p <;> first | exact hl.no hp (by decide) | exact Eq.refl _)) only [Kept.upd_iff]
    | with_reducible refine State.emergPre_kept (hl.of (by decide)) ?_ ..
    | with_reducible refine State.updSub_kept (hl.of (by decide)) ?_ ..

theorem State.parkRecord_kept (hl : Within 0x1000000 l) (h : Kept l r s) (c : Nat) : Kept l r (State.parkRecord s c) := by
  unfold State.parkRecord
  repeat' first
    | with_reducible assumption
    | exact fun _ hx => hx
    | (intro x; refine (?_ : Kept l r x → _) ?_ <;> [(intro _; clear_value x); subst x])
    | (intro x; clear_value x)
    | lift_lets -underBinder
    | simp -zeta (disch := (refine Part.all ?_; intro p hp; cases p <;> first | exact hl.no hp (by decide) | exact Eq.refl _)) only [Kept.upd_iff]
    | with_reducible refine State.jwlQueue_kept (hl.of (by decide)) ?_ ..
    | split

theorem State.srEnter_kept (hl : Within 0x1020620 l) (h : Kept l r s) (c : Nat) (park : Bool) : Kept l r (State.srEnter s c park) := by
  unfold State.srEnter
  repeat' first
    | with_reducible assumption
    | (intro x; refine (?_ : Kept l r x → _) ?_ <;> [(intro _; clear_value x); subst x])
    | (intro x; clear_value x)
    | simp -zeta (disch := (refine Part.all ?_; intro p hp; cases p <;> first | exact hl.no hp (by decide) | exact Eq.refl _)) only [Kept.upd_iff]
    | exact fun _ hx => hx
    | lift_lets -underBinder
    | with_reducible refine State.balInterrupt_kept (hl.of (by decide)) ?_ ..
    | with_reducible refine State.updChan_kept (hl.of (by decide)) ?_ ?_ _
    | with_reducible refine State.updSub_kept (hl.of (by decide)) ?_ ..
    | with_reducible refine State.raise_kept (hl.of (by decide)) ?_ ..
    | with_reducible refine State.jwlQueue_kept (hl.of (by decide)) ?_ ..
    | with_reducible refine State.sreRank_kept (hl.of (by decide)) ?_ ..
    | with_reducible refine State.mrsBack_kept (hl.of (by decide)) ?_ ..
    | with_reducible refine State.parkRecord_kept (hl.of (by decide)) ?_ ..
    | with_reducible refine Kept.foldl (fun s a hs => ?_) ?_ _
    | split

theorem State.srTick_kept (hl : Within 0x1020620 l) (h : Kept l r s) (c : Nat) : Kept l r (State.srTick s c) := by
  unfold State.srTick
  repeat' first
    | with_reducible assumption
    | (intro x; refine (?_ : Kept l r x → _) ?_ <;> [(intro _; clear_value x); subst x])
    | simp -zeta (disch := (refine Part.all ?_; intro p hp; cases p <;> first | exact hl.no hp (by decide) | exact Eq.refl _)) only [Kept.upd_iff]
    | exact fun _ hx => hx
    | (intro x; clear_value x)
    | lift_lets -underBinder
    | with_reducible refine State.updChan_kept (hl.of (by decide)) ?_ ?_ _
    | with_reducible refine State.srEnter_kept (hl.of (by decide)) ?_ ..
    | with_reducible refine State.parkRecord_kept (hl.of (by decide)) ?_ ..
    | split

theorem State.idleLatch_kept (hl : Within 0x400 l) (h : Kept l r s) (c : Nat) : Kept l r (State.idleLatch s c) := by
  unfold State.idleLatch
  repeat' first
    | with_reducible assumption
    | exact fun _ hx => hx
    | (intro x; clear_value x)
    | lift_lets -underBinder
    | with_reducible refine State.updChan_kept (hl.of (by decide)) ?_ ?_ _

theorem State.scrubCredit_kept (hl : Within 0x121562 l) (h : Kept l r s) (c : Nat) : Kept l r (State.scrubCredit s c) := by
  unfold State.scrubCredit
  repeat' first
    | with_reducible assumption
    | (intro x; refine (?_ : Kept l r x → _) ?_ <;> [(intro _; clear_value x); subst x])
    | (intro x; clear_value x)
    | lift_lets -underBinder
    | with_reducible refine State.goto_kept (hl.of (by decide)) ?_ ..
    | with_reducible refine State.scrubRaise_kept (hl.of (by decide)) ?_ ..
    | with_reducible refine State.updScrub_kept (hl.of (by decide)) ?_ ..
    | split

theorem State.srExit_kept (hl : Within 0x121762 l) (h : Kept l r s) (c : Nat) : Kept l r (State.srExit s c) := by
  unfold State.srExit
  repeat' first
    | with_reducible assumption
    | simp -zeta (disch := (refine Part.all ?_; intro p hp; cases p <;> first | exact hl.no hp (by decide) | exact Eq.refl _)) only [Kept.upd_iff]
    | exact fun _ hx => hx
    | (intro x; refine (?_ : Kept l r x → _) ?_ <;> [(intro _; clear_value x); subst x])
    | (intro x; clear_value x)
    | lift_lets -underBinder
    | with_reducible refine State.goto_kept (hl.of (by decide)) ?_ ..
    | with_reducible refine State.updChan_kept (hl.of (by decide)) ?_ ?_ _
    | with_reducible refine State.updBal_kept (hl.of (by decide)) ?_ ..
    | with_reducible refine State.updSub_kept (hl.of (by decide)) ?_ ..
    | with_reducible refine State.scrubRaise_kept (hl.of (by decide)) ?_ ..
    | with_reducible refine State.raise_kept (hl.of (by decide)) ?_ ..
    | with_reducible refine Kept.foldl (fun s a hs => ?_) ?_ _
    | split

theorem State.stopEnd_kept (hl : Within 0x80121762 l) (h : Kept l r s) (c : Nat) (sc : Nat) (grid : List Nat) (osc : List Nat) : Kept l r (State.stopEnd s c sc grid osc) := by
  unfold State.stopEnd
  repeat' first
    | with_reducible assumption
    | simp -zeta (disch := (refine Part.all ?_; intro p hp; cases p <;> first | exact hl.no hp (by decide) | exact Eq.refl _)) only [Kept.upd_iff]
    | (intro x; refine (?_ : Kept l r x → _) ?_ <;> [(intro _; clear_value x); subst x])
    | (intro x; clear_value x)
    | lift_lets -underBinder
    | with_reducible refine State.goto_kept (hl.of (by decide)) ?_ ..
    | with_reducible refine State.stopResults_kept (hl.of (by decide)) ?_ ..
    | with_reducible refine State.updBal_kept (hl.of (by decide)) ?_ ..
    | with_reducible refine State.updSub_kept (hl.of (by decide)) ?_ ..
    | with_reducible refine State.raise_kept (hl.of (by decide)) ?_ ..
    | with_reducible refine State.stage_kept (hl.of (by decide)) ?_ ..
    | split

end Sys2Proof.Machine
end

