-- ==== Sys2Proof/Laws/KeptFrame.lean ====
section
/-! SUPPORT. What each operation of Machine/Frame.lean leaves alone: one lemma for each. -/
set_option maxRecDepth 4000
namespace Sys2Proof.Machine
variable {l : Nat} {r s : State}

theorem State.eachCh_kept (hl : Within 0x0 l) (f : State → Nat → State) (hf : ∀ s i, Kept l r s → Kept l r (f s i)) (h : Kept l r s) : Kept l r (State.eachCh s f) := by
  unfold State.eachCh
  repeat' first
    | with_reducible assumption
    | with_reducible refine hf _ _ ?_
    | with_reducible refine Kept.foldl (fun s a hs => ?_) ?_ _

theorem State.eachSub_kept (hl : Within 0x0 l) (f : State → Nat → Nat → State) (hf : ∀ s i j, Kept l r s → Kept l r (f s i j)) (h : Kept l r s) : Kept l r (State.eachSub s f) := by
  unfold State.eachSub
  repeat' first
    | with_reducible assumption
    | with_reducible refine hf _ _ _ ?_
    | with_reducible refine Kept.foldl (fun s a hs => ?_) ?_ _

theorem State.lateWork_kept (hl : Within 0x20620 l) (h : Kept l r s) (kind : Nat) (unit : Nat) : Kept l r (State.lateWork s kind unit) := by
  unfold State.lateWork
  repeat' first
    | with_reducible assumption
    | simp -zeta (disch := (refine Part.all ?_; intro p hp; cases p <;> first | exact hl.no hp (by decide) | exact Eq.refl _)) only [Kept.upd_iff]
    | exact fun _ hx => hx
    | (intro x; refine (?_ : Kept l r x → _) ?_ <;> [(intro _; clear_value x); subst x])
    | (intro x; clear_value x)
    | lift_lets -underBinder
    | with_reducible refine State.updSub_kept (hl.of (by decide)) ?_ ..
    | with_reducible refine State.updChan_kept (hl.of (by decide)) ?_ ?_ _
    | with_reducible refine State.raise_kept (hl.of (by decide)) ?_ ..
    | with_reducible refine State.updCnt_kept (hl.of (by decide)) ?_ ..
    | with_reducible refine State.sampleDrop_kept (hl.of (by decide)) ?_ ..
    | with_reducible refine Kept.foldl (fun s a hs => ?_) ?_ _
    | split

theorem State.latchWork_kept (hl : Within 0x20630 l) (h : Kept l r s) (late : List (Nat × Nat)) : Kept l r (State.latchWork s late) := by
  unfold State.latchWork
  repeat' first
    | with_reducible assumption
    | (intro x; refine (?_ : Kept l r x → _) ?_ <;> [(intro _; clear_value x); subst x])
    | (intro x; (have _ht : Esc := x); clear _ht)
    | (intro x; clear_value x)
    | lift_lets -underBinder
    | simp -zeta (disch := (refine Part.all ?_; intro p hp; cases p <;> first | exact hl.no hp (by decide) | exact Eq.refl _)) only [Kept.upd_iff]
    | with_reducible refine State.lateWork_kept (hl.of (by decide)) ?_ ..
    | with_reducible refine Kept.foldl (fun s a hs => ?_) ?_ _

theorem State.latchChecks_kept (hl : Within 0x102e0 l) (h : Kept l r s) : Kept l r (State.latchChecks s) := by
  unfold State.latchChecks
  repeat' first
    | with_reducible assumption
    | lift_lets -underBinder
    | with_reducible refine State.commitCheckAt_kept (hl.of (by decide)) ?_ ..
    | with_reducible refine State.settle_kept (hl.of (by decide)) ?_ ..
    | with_reducible refine Kept.foldl (fun s a hs => ?_) ?_ _
    | split

theorem State.latchChan_kept (hl : Within 0x620 l) (h : Kept l r s) (c : Nat) : Kept l r (State.latchChan s c) := by
  unfold State.latchChan
  repeat' first
    | with_reducible assumption
    | simp -zeta (disch := (refine Part.all ?_; intro p hp; cases p <;> first | exact hl.no hp (by decide) | exact Eq.refl _)) only [Kept.upd_iff]
    | exact fun _ hx => hx
    | (intro x; refine (?_ : Kept l r x → _) ?_ <;> [(intro _; clear_value x); subst x])
    | (intro x; clear_value x)
    | lift_lets -underBinder
    | with_reducible refine State.shareLatch_kept (hl.of (by decide)) ?_ ..
    | with_reducible refine State.idleLatch_kept (hl.of (by decide)) ?_ ..
    | with_reducible refine State.emergLatch_kept (hl.of (by decide)) ?_ ..
    | with_reducible refine State.emergEnd_kept (hl.of (by decide)) ?_ ..
    | with_reducible refine State.updChan_kept (hl.of (by decide)) ?_ ?_ _
    | with_reducible refine State.stopLatch_kept (hl.of (by decide)) ?_ ..
    | with_reducible refine State.updBal_kept (hl.of (by decide)) ?_ ..
    | with_reducible refine State.calLatch_kept (hl.of (by decide)) ?_ ..
    | with_reducible refine Kept.foldl (fun s a hs => ?_) ?_ _
    | split

theorem State.latch_kept (hl : Within 0x316f0 l) (h : Kept l r s) (late : List (Nat × Nat)) : Kept l r (State.latch s late) := by
  unfold State.latch
  repeat' first
    | with_reducible assumption
    | (intro x; refine (?_ : Kept l r x → _) ?_ <;> [(intro _; clear_value x); subst x])
    | (intro x; (have _ht : Esc := x); clear _ht)
    | lift_lets -underBinder
    | simp -zeta (disch := (refine Part.all ?_; intro p hp; cases p <;> first | exact hl.no hp (by decide) | exact Eq.refl _)) only [Kept.upd_iff]
    | with_reducible refine State.latchWork_kept (hl.of (by decide)) ?_ ..
    | with_reducible refine State.tkLatch_kept (hl.of (by decide)) ?_ ..
    | with_reducible refine State.fenceLatches_kept (hl.of (by decide)) ?_ ..
    | with_reducible refine State.eachCh_kept (hl.of (by decide)) _ (fun s i hs => ?_) ?_ ..
    | with_reducible refine State.latchChecks_kept (hl.of (by decide)) ?_ ..
    | with_reducible refine State.latchChan_kept (hl.of (by decide)) ?_ ..

theorem State.latchPoint_kept (hl : Within 0x1317f2 l) (h : Kept l r s) (late : List (Nat × Nat)) : Kept l r (State.latchPoint s late) := by
  unfold State.latchPoint
  repeat' first
    | with_reducible assumption
    | (intro x; clear_value x)
    | lift_lets -underBinder
    | with_reducible refine State.latch_kept (hl.of (by decide)) ?_ ..
    | with_reducible refine State.goto_kept (hl.of (by decide)) ?_ ..
    | split

theorem State.tickOpen_kept (hl : Within 0x800000102f0 l) (h : Kept l r s) : Kept l r (State.tickOpen s) := by
  unfold State.tickOpen
  repeat' first
    | with_reducible assumption
    | (intro x; refine (?_ : Kept l r x → _) ?_ <;> [(intro _; clear_value x); subst x])
    | (intro x; clear_value x)
    | lift_lets -underBinder
    | simp -zeta (disch := (refine Part.all ?_; intro p hp; cases p <;> first | exact hl.no hp (by decide) | exact Eq.refl _)) only [Kept.upd_iff]
    | with_reducible refine State.forceChecks_kept (hl.of (by decide)) ?_ ..

theorem State.routeStep_kept (hl : Within 0x42c031772 l) (h : Kept l r s) : Kept l r (State.routeStep s) := by
  unfold State.routeStep
  repeat' first
    | with_reducible assumption
    | (intro x; clear_value x)
    | lift_lets -underBinder
    | simp -zeta (disch := (refine Part.all ?_; intro p hp; cases p <;> first | exact hl.no hp (by decide) | exact Eq.refl _)) only [Kept.upd_iff]
    | with_reducible refine State.routeSwitch_kept (hl.of (by decide)) ?_ ..
    | with_reducible refine State.openRouteHold_kept (hl.of (by decide)) ?_ ..
    | split

theorem State.enHook_kept (hl : Within 0x24021f20 l) (h : Kept l r s) (p : PageId) (en : Bool) : Kept l r (State.enHook s p en) := by
  unfold State.enHook
  repeat' first
    | with_reducible assumption
    | simp -zeta (disch := (refine Part.all ?_; intro p hp; cases p <;> first | exact hl.no hp (by decide) | exact Eq.refl _)) only [Kept.upd_iff]
    | exact fun _ hx => hx
    | lift_lets -underBinder
    | with_reducible refine State.updChan_kept (hl.of (by decide)) ?_ ?_ _
    | with_reducible refine State.portGone_kept (hl.of (by decide)) ?_ ..
    | with_reducible refine State.raiseIf_kept (hl.of (by decide)) ?_ ..
    | with_reducible refine State.flushRing_kept (hl.of (by decide)) ?_ ..
    | with_reducible refine State.aliveLost_kept (hl.of (by decide)) ?_ ..
    | with_reducible refine Kept.foldl (fun s a hs => ?_) ?_ _
    | split

theorem State.enTick_kept (hl : Within 0x24021f20 l) (h : Kept l r s) : Kept l r (State.enTick s) := by
  unfold State.enTick
  repeat' first
    | with_reducible assumption
    | (intro x; refine (?_ : Kept l r x → _) ?_ <;> [(intro _; clear_value x); subst x])
    | simp -zeta (disch := (refine Part.all ?_; intro p hp; cases p <;> first | exact hl.no hp (by decide) | exact Eq.refl _)) only [Kept.upd_iff]
    | (intro x; clear_value x)
    | lift_lets -underBinder
    | with_reducible refine State.updPage_kept (hl.of (by decide)) ?_ ..
    | with_reducible refine State.enHook_kept (hl.of (by decide)) ?_ ..
    | with_reducible refine Kept.foldl (fun s a hs => ?_) ?_ _
    | split

theorem State.chanSlew_kept (hl : Within 0x80820420 l) (h : Kept l r s) (ms : List CalMeas) (c : Nat) : Kept l r (State.chanSlew s ms c) := by
  unfold State.chanSlew
  repeat' first
    | with_reducible assumption
    | exact fun _ hx => hx
    | (intro x; refine (?_ : Kept l r x → _) ?_ <;> [(intro _; clear_value x); subst x])
    | (intro x; clear_value x)
    | lift_lets -underBinder
    | simp -zeta (disch := (refine Part.all ?_; intro p hp; cases p <;> first | exact hl.no hp (by decide) | exact Eq.refl _)) only [Kept.upd_iff]
    | with_reducible refine State.updBal_kept (hl.of (by decide)) ?_ ..
    | with_reducible refine State.balStep_kept (hl.of (by decide)) ?_ ..
    | split

theorem State.balOpen_kept (hl : Within 0x430 l) (h : Kept l r s) (ran : Bool) (c : Nat) : Kept l r (State.balOpen s ran c) := by
  unfold State.balOpen
  repeat' first
    | with_reducible assumption
    | exact fun _ hx => hx
    | (intro x; refine (?_ : Kept l r x → _) ?_ <;> [(intro _; clear_value x); subst x])
    | (intro x; clear_value x)
    | lift_lets -underBinder
    | simp -zeta (disch := (refine Part.all ?_; intro p hp; cases p <;> first | exact hl.no hp (by decide) | exact Eq.refl _)) only [Kept.upd_iff]
    | with_reducible refine State.balStart_kept (hl.of (by decide)) ?_ ..
    | split

theorem State.windowOpen_kept (hl : Within 0x200 l) (h : Kept l r s) (c : Nat) (sc : Nat) : Kept l r (State.windowOpen s c sc) := by
  unfold State.windowOpen
  repeat' first
    | with_reducible assumption
    | exact fun _ hx => hx
    | (intro x; refine (?_ : Kept l r x → _) ?_ <;> [(intro _; clear_value x); subst x])
    | (intro x; clear_value x)
    | lift_lets -underBinder
    | simp -zeta (disch := (refine Part.all ?_; intro p hp; cases p <;> first | exact hl.no hp (by decide) | exact Eq.refl _)) only [Kept.upd_iff]
    | with_reducible refine State.windowTick_kept (hl.of (by decide)) ?_ ..
    | split

theorem State.chanWindow_kept (hl : Within 0x20220 l) (h : Kept l r s) (c : Nat) (sc : Nat) : Kept l r (State.chanWindow s c sc) := by
  unfold State.chanWindow
  repeat' first
    | with_reducible assumption
    | exact fun _ hx => hx
    | (intro x; refine (?_ : Kept l r x → _) ?_ <;> [(intro _; clear_value x); subst x])
    | (intro x; clear_value x)
    | lift_lets -underBinder
    | simp -zeta (disch := (refine Part.all ?_; intro p hp; cases p <;> first | exact hl.no hp (by decide) | exact Eq.refl _)) only [Kept.upd_iff]
    | with_reducible refine State.windowOpen_kept (hl.of (by decide)) ?_ ..
    | with_reducible refine State.updSub_kept (hl.of (by decide)) ?_ ..
    | with_reducible refine State.emergPre_kept (hl.of (by decide)) ?_ ..
    | split

theorem State.chanWindows_kept (hl : Within 0x80820630 l) (h : Kept l r s) (ms : List CalMeas) (c : Nat) (n : Nat) : Kept l r (State.chanWindows s ms c n) := by
  unfold State.chanWindows
  repeat' first
    | with_reducible assumption
    | exact fun _ hx => hx
    | (intro x; refine (?_ : Kept l r x → _) ?_ <;> [(intro _; clear_value x); subst x])
    | (intro x; clear_value x)
    | lift_lets -underBinder
    | simp -zeta (disch := (refine Part.all ?_; intro p hp; cases p <;> first | exact hl.no hp (by decide) | exact Eq.refl _)) only [Kept.upd_iff]
    | with_reducible refine State.chanWindow_kept (hl.of (by decide)) ?_ ..
    | with_reducible refine State.chanSlew_kept (hl.of (by decide)) ?_ ..
    | with_reducible refine State.balOpen_kept (hl.of (by decide)) ?_ ..
    | with_reducible refine Kept.foldl (fun s a hs => ?_) ?_ _

theorem State.chanToFence_kept (hl : Within 0x80828630 l) (h : Kept l r s) (ms : List CalMeas) (c : Nat) : Kept l r (State.chanToFence s ms c) := by
  unfold State.chanToFence
  repeat' first
    | with_reducible assumption
    | exact fun _ hx => hx
    | (intro x; refine (?_ : Kept l r x → _) ?_ <;> [(intro _; clear_value x); subst x])
    | (intro x; clear_value x)
    | lift_lets -underBinder
    | simp -zeta (disch := (refine Part.all ?_; intro p hp; cases p <;> first | exact hl.no hp (by decide) | exact Eq.refl _)) only [Kept.upd_iff]
    | with_reducible refine State.chanWindows_kept (hl.of (by decide)) ?_ ..
    | with_reducible refine State.heatCapture_kept (hl.of (by decide)) ?_ ..
    | with_reducible refine State.updElog_kept (hl.of (by decide)) ?_ ..
    | with_reducible refine State.sampleTick_kept (hl.of (by decide)) ?_ ..

theorem State.serviceChan_kept (hl : Within 0x81828630 l) (h : Kept l r s) (ms : List CalMeas) (c : Nat) : Kept l r (State.serviceChan ms s c) := by
  unfold State.serviceChan
  repeat' first
    | with_reducible assumption
    | simp -zeta (disch := (refine Part.all ?_; intro p hp; cases p <;> first | exact hl.no hp (by decide) | exact Eq.refl _)) only [Kept.upd_iff]
    | (intro x; refine (?_ : Kept l r x → _) ?_ <;> [(intro _; clear_value x); subst x])
    | (intro x; clear_value x)
    | lift_lets -underBinder
    | with_reducible refine State.mrDue_kept (hl.of (by decide)) ?_ ..
    | with_reducible refine State.scrubTick_kept (hl.of (by decide)) ?_ ..
    | with_reducible refine State.srTick_kept (hl.of (by decide)) ?_ ..
    | with_reducible refine State.fenceTick_kept (hl.of (by decide)) ?_ ..
    | with_reducible refine State.chanToFence_kept (hl.of (by decide)) ?_ ..
    | with_reducible refine Kept.foldl (fun s a hs => ?_) ?_ _
    | split

theorem State.snapTick_kept (hl : Within 0x20000 l) (h : Kept l r s) (b : Nat) : Kept l r (State.snapTick s b) := by
  unfold State.snapTick
  repeat' first
    | with_reducible assumption
    | exact fun _ hx => hx
    | simp -zeta (disch := (refine Part.all ?_; intro p hp; cases p <;> first | exact hl.no hp (by decide) | exact Eq.refl _)) only [Kept.upd_iff]
    | with_reducible refine State.updCnt_kept (hl.of (by decide)) ?_ ..
    | split

theorem State.mvcMoves_kept (hl : Within 0x400e4429ff0 l) (h : Kept l r s) : Kept l r (State.mvcMoves s) := by
  unfold State.mvcMoves
  repeat' first
    | with_reducible assumption
    | exact fun _ hx => hx
    | (intro x; refine (?_ : Kept l r x → _) ?_ <;> [(intro _; clear_value x); subst x])
    | (intro x; clear_value x)
    | lift_lets -underBinder
    | simp -zeta (disch := (refine Part.all ?_; intro p hp; cases p <;> first | exact hl.no hp (by decide) | exact Eq.refl _)) only [Kept.upd_iff]
    | with_reducible refine State.moveTick_kept (hl.of (by decide)) ?_ ..
    | with_reducible refine State.rejoinCal_kept (hl.of (by decide)) ?_ ..
    | with_reducible refine State.rejoinTick_kept (hl.of (by decide)) ?_ ..
    | with_reducible refine State.testTick_kept (hl.of (by decide)) ?_ ..
    | with_reducible refine State.testPlace_kept (hl.of (by decide)) ?_ ..
    | with_reducible refine State.eachCh_kept (hl.of (by decide)) _ (fun s i hs => ?_) ?_ ..
    | with_reducible refine State.supplyTick_kept (hl.of (by decide)) ?_ ..
    | split

theorem State.mvcTick_kept (hl : Within 0x400f6729ff0 l) (h : Kept l r s) : Kept l r (State.mvcTick s) := by
  unfold State.mvcTick
  repeat' first
    | with_reducible assumption
    | exact fun _ hx => hx
    | (intro x; refine (?_ : Kept l r x → _) ?_ <;> [(intro _; clear_value x); subst x])
    | (intro x; clear_value x)
    | lift_lets -underBinder
    | simp -zeta (disch := (refine Part.all ?_; intro p hp; cases p <;> first | exact hl.no hp (by decide) | exact Eq.refl _)) only [Kept.upd_iff]
    | with_reducible refine State.fwTick_kept (hl.of (by decide)) ?_ ..
    | with_reducible refine State.ringTick_kept (hl.of (by decide)) ?_ ..
    | with_reducible refine State.mvcMoves_kept (hl.of (by decide)) ?_ ..
    | split

theorem State.serviceToMvc_kept (hl : Within 0x81928630 l) (h : Kept l r s) (ms : List CalMeas) : Kept l r (State.serviceToMvc s ms) := by
  unfold State.serviceToMvc
  repeat' first
    | with_reducible assumption
    | exact fun _ hx => hx
    | (intro x; refine (?_ : Kept l r x → _) ?_ <;> [(intro _; clear_value x); subst x])
    | (intro x; clear_value x)
    | lift_lets -underBinder
    | simp -zeta (disch := (refine Part.all ?_; intro p hp; cases p <;> first | exact hl.no hp (by decide) | exact Eq.refl _)) only [Kept.upd_iff]
    | with_reducible refine State.snapTick_kept (hl.of (by decide)) ?_ ..
    | with_reducible refine State.eachCh_kept (hl.of (by decide)) _ (fun s i hs => ?_) ?_ ..
    | with_reducible refine State.serviceChan_kept (hl.of (by decide)) ?_ ..
    | with_reducible refine State.heatPublish_kept (hl.of (by decide)) ?_ ..
    | with_reducible refine State.foldTick_kept (hl.of (by decide)) ?_ ..
    | with_reducible refine Kept.foldl (fun s a hs => ?_) ?_ _
    | split

theorem State.serviceTick_kept (hl : Within 0x401f7f29ff0 l) (h : Kept l r s) (ms : List CalMeas) : Kept l r (State.serviceTick s ms) := by
  unfold State.serviceTick
  repeat' first
    | with_reducible assumption
    | (intro x; refine (?_ : Kept l r x → _) ?_ <;> [(intro _; clear_value x); subst x])
    | (intro x; clear_value x)
    | lift_lets -underBinder
    | with_reducible refine State.holdsTick_kept (hl.of (by decide)) ?_ ..
    | with_reducible refine State.rateEval_kept (hl.of (by decide)) ?_ ..
    | with_reducible refine State.rateApply_kept (hl.of (by decide)) ?_ ..
    | with_reducible refine State.mvcTick_kept (hl.of (by decide)) ?_ ..
    | with_reducible refine State.serviceToMvc_kept (hl.of (by decide)) ?_ ..
    | split
    | with_reducible refine Kept.foldl (fun s a hs => ?_) ?_ _

theorem State.refreshTick_kept (hl : Within 0x20220 l) (h : Kept l r s) (c : Nat) (sc : Nat) : Kept l r (State.refreshTick s c sc) := by
  unfold State.refreshTick
  repeat' first
    | with_reducible assumption
    | lift_lets -underBinder
    | with_reducible refine State.emergTick_kept (hl.of (by decide)) ?_ ..
    | with_reducible refine State.debtTick_kept (hl.of (by decide)) ?_ ..
    | split

theorem State.ovrTick_kept (hl : Within 0x20030 l) (h : Kept l r s) : Kept l r (State.ovrTick s) := by
  unfold State.ovrTick
  repeat' first
    | with_reducible assumption
    | exact fun _ hx => hx
    | (intro x; refine (?_ : Kept l r x → _) ?_ <;> [(intro _; clear_value x); subst x])
    | (intro x; (have _ht : Esc := x); clear _ht)
    | (intro x; clear_value x)
    | lift_lets -underBinder
    | simp -zeta (disch := (refine Part.all ?_; intro p hp; cases p <;> first | exact hl.no hp (by decide) | exact Eq.refl _)) only [Kept.upd_iff]
    | with_reducible refine State.abandon_kept (hl.of (by decide)) ?_ ..
    | with_reducible refine State.raiseIf_kept (hl.of (by decide)) ?_ ..
    | with_reducible refine Kept.foldl (fun s a hs => ?_) ?_ _

theorem State.eventTick_kept (hl : Within 0x20030 l) (h : Kept l r s) : Kept l r (State.eventTick s) := by
  unfold State.eventTick
  repeat' first
    | with_reducible assumption
    | (intro x; refine (?_ : Kept l r x → _) ?_ <;> [(intro _; clear_value x); subst x])
    | (intro x; (have _ht : Esc := x); clear _ht)
    | (intro x; clear_value x)
    | lift_lets -underBinder
    | simp -zeta (disch := (refine Part.all ?_; intro p hp; cases p <;> first | exact hl.no hp (by decide) | exact Eq.refl _)) only [Kept.upd_iff]
    | with_reducible refine State.raiseIf_kept (hl.of (by decide)) ?_ ..
    | with_reducible refine State.ev_kept (hl.of (by decide)) ?_ ..
    | with_reducible refine State.ovrTick_kept (hl.of (by decide)) ?_ ..

theorem State.cntTick_kept (hl : Within 0x20200 l) (h : Kept l r s) (b : Nat) : Kept l r (State.cntTick s b) := by
  unfold State.cntTick
  extract_lets a n k
  have ha : Kept l r a := by
    show Kept l r (ite _ _ _)
    split
    · exact State.quadClear_kept (hl.of (by decide)) h ..
    · exact h
  split
  · exact State.updCnt_kept (hl.of (by decide)) ha ..
  · exact ha

theorem State.afterChans_kept (hl : Within 0x1000400 l) (h : Kept l r s) : Kept l r (State.afterChans s) := by
  unfold State.afterChans
  repeat' first
    | with_reducible assumption
    | exact fun _ hx => hx
    | (intro x; refine (?_ : Kept l r x → _) ?_ <;> [(intro _; clear_value x); subst x])
    | (intro x; clear_value x)
    | lift_lets -underBinder
    | simp -zeta (disch := (refine Part.all ?_; intro p hp; cases p <;> first | exact hl.no hp (by decide) | exact Eq.refl _)) only [Kept.upd_iff]
    | with_reducible refine State.eachCh_kept (hl.of (by decide)) _ (fun s i hs => ?_) ?_ ..
    | with_reducible refine State.sbGo_kept (hl.of (by decide)) ?_ ..
    | with_reducible refine State.jwlUpdate_kept (hl.of (by decide)) ?_ ..

theorem State.afterTick_kept (hl : Within 0x400a7530fe0 l) (h : Kept l r s) : Kept l r (State.afterTick s) := by
  unfold State.afterTick
  repeat' first
    | with_reducible assumption
    | (intro x; refine (?_ : Kept l r x → _) ?_ <;> [(intro _; clear_value x); subst x])
    | (intro x; clear_value x)
    | lift_lets -underBinder
    | with_reducible refine State.msgsDue_kept (hl.of (by decide)) ?_ ..
    | with_reducible refine State.mbPoll_kept (hl.of (by decide)) ?_ ..
    | with_reducible refine State.clearAnswer_kept (hl.of (by decide)) ?_ ..
    | with_reducible refine State.afterChans_kept (hl.of (by decide)) ?_ ..

theorem State.escEnd_kept (hl : Within 0x80316f0 l) (h : Kept l r s) : Kept l r (State.escEnd s) := by
  unfold State.escEnd
  extract_lets ps t1 t2 t3
  have h1 : Kept l r t1 := Kept.foldl (fun s a hs => State.disarm_kept (hl.of (by decide)) hs a) h _
  have h1' : Kept l r t1.releaseHeld := State.releaseHeld_kept (hl.of (by decide)) h1
  have h2 : Kept l r t2 := iteInduction (fun _ => h1') (fun _ => h1)
  clear_value t2
  have h3 : Kept l r t3 := State.eachCh_kept (hl.of (by decide)) _ (fun s i hs => State.sampleDrop_kept (hl.of (by decide)) hs i) h2 ..
  clear_value t3
  refine (Kept.upd_iff (s := State.updPage _ .esc _) (fun p hp => ?_)).mpr (State.updPage_kept (hl.of (by decide)) h3 ..)
  cases p <;> first | exact hl.no hp (by decide) | exact Eq.refl _

theorem State.tickToIns_kept (hl : Within 0x804ec0317f2 l) (h : Kept l r s) : Kept l r (State.tickToIns s) := by
  unfold State.tickToIns
  repeat' first
    | with_reducible assumption
    | exact fun _ hx => hx
    | (intro x; refine (?_ : Kept l r x → _) ?_ <;> [(intro _; clear_value x); subst x])
    | (intro x; clear_value x)
    | lift_lets -underBinder
    | simp -zeta (disch := (refine Part.all ?_; intro p hp; cases p <;> first | exact hl.no hp (by decide) | exact Eq.refl _)) only [Kept.upd_iff]
    | with_reducible refine State.tickOpen_kept (hl.of (by decide)) ?_ ..
    | with_reducible refine State.mapOpen_kept (hl.of (by decide)) ?_ ..
    | with_reducible refine State.mapSwitch_kept (hl.of (by decide)) ?_ ..
    | with_reducible refine State.routeStep_kept (hl.of (by decide)) ?_ ..
    | with_reducible refine State.applyTables_kept (hl.of (by decide)) ?_ ..
    | with_reducible refine State.eachCh_kept (hl.of (by decide)) _ (fun s i hs => ?_) ?_ ..
    | with_reducible refine State.rateTick_kept (hl.of (by decide)) ?_ ..
    | with_reducible refine State.shareTick_kept (hl.of (by decide)) ?_ ..

theorem State.tickApply_kept (hl : Within 0x804ee771ff2 l) (h : Kept l r s) : Kept l r (State.tickApply s) := by
  unfold State.tickApply
  repeat' first
    | with_reducible assumption
    | (intro x; refine (?_ : Kept l r x → _) ?_ <;> [(intro _; clear_value x); subst x])
    | (intro x; clear_value x)
    | lift_lets -underBinder
    | with_reducible refine State.enTick_kept (hl.of (by decide)) ?_ ..
    | with_reducible refine State.applyOthers_kept (hl.of (by decide)) ?_ ..
    | with_reducible refine State.insTick_kept (hl.of (by decide)) ?_ ..
    | with_reducible refine State.tickToIns_kept (hl.of (by decide)) ?_ ..
    | split

theorem State.tickSteps_kept (hl : Within 0xc05fff79ff2 l) (h : Kept l r s) (ms : List CalMeas) : Kept l r (State.tickSteps s ms) := by
  unfold State.tickSteps
  repeat' first
    | with_reducible assumption
    | exact fun _ hx => hx
    | (intro x; refine (?_ : Kept l r x → _) ?_ <;> [(intro _; clear_value x); subst x])
    | (intro x; clear_value x)
    | lift_lets -underBinder
    | simp -zeta (disch := (refine Part.all ?_; intro p hp; cases p <;> first | exact hl.no hp (by decide) | exact Eq.refl _)) only [Kept.upd_iff]
    | with_reducible refine State.tickApply_kept (hl.of (by decide)) ?_ ..
    | with_reducible refine State.serviceTick_kept (hl.of (by decide)) ?_ ..
    | with_reducible refine State.eachCh_kept (hl.of (by decide)) _ (fun s i hs => ?_) ?_ ..
    | with_reducible refine State.tokenTick_kept (hl.of (by decide)) ?_ ..
    | with_reducible refine State.eachSub_kept (hl.of (by decide)) _ (fun s i j hs => ?_) ?_ ..
    | with_reducible refine State.refreshTick_kept (hl.of (by decide)) ?_ ..
    | with_reducible refine State.eventTick_kept (hl.of (by decide)) ?_ ..
    | with_reducible refine State.cntTick_kept (hl.of (by decide)) ?_ ..
    | with_reducible refine Kept.foldl (fun s a hs => ?_) ?_ _

theorem State.tick_kept (hl : Within 0xc05fff79ff2 l) (h : Kept l r s) (ms : List CalMeas) : Kept l r (State.tick s ms) := by
  unfold State.tick
  repeat' first
    | with_reducible assumption
    | (intro x; refine (?_ : Kept l r x → _) ?_ <;> [(intro _; clear_value x); subst x])
    | (intro x; clear_value x)
    | lift_lets -underBinder
    | with_reducible refine State.afterTick_kept (hl.of (by decide)) ?_ ..
    | with_reducible refine State.escEnd_kept (hl.of (by decide)) ?_ ..
    | with_reducible refine State.tickSteps_kept (hl.of (by decide)) ?_ ..
    | with_reducible refine Kept.foldl (fun s a hs => ?_) ?_ _
    | split

theorem State.toTick_kept (hl : Within 0x422be73bff2 l) (h : Kept l r s) : Kept l r (State.toTick s) := by
  unfold State.toTick
  repeat' first
    | with_reducible assumption
    | (intro x; refine (?_ : Kept l r x → _) ?_ <;> [(intro _; clear_value x); subst x])
    | lift_lets -underBinder
    | with_reducible refine State.runSvcs_kept (hl.of (by decide)) ?_ ..
    | with_reducible refine State.latchPoint_kept (hl.of (by decide)) ?_ ..
    | with_reducible refine State.goto_kept (hl.of (by decide)) ?_ ..
    | split

theorem State.escapementTick_kept (hl : Within 0xc27fff7bff2 l) (h : Kept l r s) (ms : List CalMeas) : Kept l r (State.escapementTick s ms) := by
  unfold State.escapementTick
  repeat' first
    | with_reducible assumption
    | lift_lets -underBinder
    | with_reducible refine State.tick_kept (hl.of (by decide)) ?_ ..
    | with_reducible refine State.toTick_kept (hl.of (by decide)) ?_ ..
    | split

theorem State.tickWhen_kept (hl : Within 0xc27fff7bff2 l) (h : Kept l r s) (ms : List CalMeas) (due : Bool) : Kept l r (State.tickWhen s ms due) := by
  unfold State.tickWhen
  repeat' first
    | with_reducible assumption
    | exact fun _ hx => hx
    | (intro x; refine (?_ : Kept l r x → _) ?_ <;> [(intro _; clear_value x); subst x])
    | (intro x; clear_value x)
    | lift_lets -underBinder
    | simp -zeta (disch := (refine Part.all ?_; intro p hp; cases p <;> first | exact hl.no hp (by decide) | exact Eq.refl _)) only [Kept.upd_iff]
    | with_reducible refine State.escapementTick_kept (hl.of (by decide)) ?_ ..
    | split

end Sys2Proof.Machine
end

