-- ==== Sys2Proof/Laws/KeptCommand.lean ====
section
/-! SUPPORT. What each operation of Machine/Command.lean leaves alone: one lemma for each. -/
set_option maxRecDepth 4000
namespace Sys2Proof.Machine
variable {l : Nat} {r s : State}

theorem State.adoptPage_kept (hl : Within 0x20 l) (h : Kept l r s) (page : Nat) : Kept l r (State.adoptPage s page) := by
  unfold State.adoptPage
  repeat' first
    | with_reducible assumption
    | with_reducible refine State.adopt_kept (hl.of (by decide)) ?_ ..
    | split

theorem State.idleBclk_kept (hl : Within 0x422be73bff2 l) (h : Kept l r s) : Kept l r (State.idleBclk s) := by
  unfold State.idleBclk
  repeat' first
    | with_reducible assumption
    | lift_lets -underBinder
    | with_reducible refine State.mbPoll_kept (hl.of (by decide)) ?_ ..
    | with_reducible refine State.goto_kept (hl.of (by decide)) ?_ ..
    | with_reducible refine State.runSvcsTo_kept (hl.of (by decide)) ?_ ..
    | split

theorem State.insCommand_kept (hl : Within 0xc27fff7bff2 l) (f : State → State) (hf : ∀ s, Kept l r s → Kept l r (f s)) (h : Kept l r s) (kind : Nat) (code : Nat) : Kept l r (State.insCommand s kind f code) := by
  unfold State.insCommand
  repeat' first
    | with_reducible assumption
    | with_reducible refine hf _ ?_
    | with_reducible refine State.tickWhen_kept (hl.of (by decide)) ?_ ..
    | split

theorem State.regAccess_kept (hl : Within 0x422be73bff2 l) (h : Kept l r s) (src : Src) (addr : Nat) (wide : Bool) (wr : Bool) (data : Nat) : Kept l r (State.regAccess s src addr wide wr data) := by
  unfold State.regAccess
  repeat' first
    | with_reducible assumption
    | with_reducible refine State.accessHere_kept (hl.of (by decide)) ?_ ..

theorem State.pageWrite_kept (hl : Within 0x422be73bff2 l) (h : Kept l r s) (src : Src) (page : Nat) (off : Nat) (v : Nat) : Kept l r (State.pageWrite s src page off v) := by
  unfold State.pageWrite
  repeat' first
    | with_reducible assumption
    | with_reducible refine State.regAccess_kept (hl.of (by decide)) ?_ ..

theorem State.sampleEnd_kept (hl : Within 0x121562 l) (h : Kept l r s) (b : Nat) : Kept l r (State.sampleEnd s b) := by
  unfold State.sampleEnd
  repeat' first
    | with_reducible assumption
    | (intro x; refine (?_ : Kept l r x → _) ?_ <;> [(intro _; clear_value x); subst x])
    | (intro x; clear_value x)
    | lift_lets -underBinder
    | with_reducible refine State.goto_kept (hl.of (by decide)) ?_ ..
    | with_reducible refine State.writeSample_kept (hl.of (by decide)) ?_ ..
    | split

end Sys2Proof.Machine
end

