-- ==== Sys2Proof/Laws/KeptCmdLathe.lean ====
section
/-! SUPPORT. What each operation of Machine/CmdLathe.lean leaves alone: one lemma for each. -/
set_option maxRecDepth 4000
namespace Sys2Proof.Machine
variable {l : Nat} {r s : State}

theorem State.ringCommand_kept (hl : Within 0x422be73bff2 l) (h : Kept l r s) (src : Src) (a1 : BitVec 18) (cmd : Nat) : Kept l r (State.ringCommand s src a1 cmd) := by
  unfold State.ringCommand
  repeat' first
    | with_reducible assumption
    | with_reducible refine State.pageWrite_kept (hl.of (by decide)) ?_ ..

end Sys2Proof.Machine
end

