-- ==== Sys2Proof/Laws/KeptCmdPorts.lean ====
section
/-! SUPPORT. What each operation of Machine/CmdPorts.lean leaves alone: one lemma for each. -/
set_option maxRecDepth 4000
namespace Sys2Proof.Machine
variable {l : Nat} {r s : State}

theorem State.dataFlit_kept (hl : Within 0x21560 l) (h : Kept l r s) (g : Fin 16) (seq : Nat) (d : Line) : Kept l r (State.dataFlit s g seq d) := by
  unfold State.dataFlit
  repeat' first
    | with_reducible assumption
    | lift_lets -underBinder
    | with_reducible refine State.flitIn_kept (hl.of (by decide)) _ (fun s hs => ?_) ?_ ..
    | with_reducible refine State.dataIn_kept (hl.of (by decide)) ?_ ..

theorem State.hdrFlit_kept (hl : Within 0x21560 l) (h : Kept l r s) (g : Fin 16) (a1 : ReqHdr) : Kept l r (State.hdrFlit s g a1) := by
  unfold State.hdrFlit
  repeat' first
    | with_reducible assumption
    | lift_lets -underBinder
    | with_reducible refine State.flitIn_kept (hl.of (by decide)) _ (fun s hs => ?_) ?_ ..
    | with_reducible refine State.headerIn_kept (hl.of (by decide)) ?_ ..

theorem State.gwReapply_kept (hl : Within 0x20000260 l) (h : Kept l r s) (g : Nat) : Kept l r (State.gwReapply s g) := by
  unfold State.gwReapply
  repeat' first
    | with_reducible assumption
    | simp -zeta (disch := (refine Part.all ?_; intro p hp; cases p <;> first | exact hl.no hp (by decide) | exact Eq.refl _)) only [Kept.upd_iff]
    | with_reducible refine State.reapply_kept (hl.of (by decide)) ?_ ..
    | split

end Sys2Proof.Machine
end

