-- ==== Sys2Proof/Laws/KeptReadPath.lean ====
section
/-! SUPPORT. What each operation of Machine/ReadPath.lean leaves alone: one lemma for each. -/
set_option maxRecDepth 4000
namespace Sys2Proof.Machine
variable {l : Nat} {r s : State}

theorem State.nameWrite_kept (hl : Within 0x20620 l) (h : Kept l r s) (c : Nat) (sc : Nat) (w : WLine) (ca : Bool) : Kept l r (State.nameWrite s c sc w ca) := by
  unfold State.nameWrite
  repeat' first
    | with_reducible assumption
    | simp -zeta (disch := (refine Part.all ?_; intro p hp; cases p <;> first | exact hl.no hp (by decide) | exact Eq.refl _)) only [Kept.upd_iff]
    | (intro x; refine (?_ : Kept l r x → _) ?_ <;> [(intro _; clear_value x); subst x])
    | (intro x; clear_value x)
    | lift_lets -underBinder
    | with_reducible refine State.updSub_kept (hl.of (by decide)) ?_ ..
    | with_reducible refine State.discard_kept (hl.of (by decide)) ?_ ..
    | with_reducible refine State.log_kept (hl.of (by decide)) ?_ ..
    | with_reducible refine State.raise_kept (hl.of (by decide)) ?_ ..
    | split

theorem State.nameRead_kept (hl : Within 0x620 l) (h : Kept l r s) (c : Nat) (sc : Nat) (v : Served) : Kept l r (State.nameRead s c sc v) := by
  unfold State.nameRead
  repeat' first
    | with_reducible assumption
    | with_reducible refine State.updSub_kept (hl.of (by decide)) ?_ ..
    | with_reducible refine State.log_kept (hl.of (by decide)) ?_ ..

theorem State.caParityCount_kept (hl : Within 0x80000620 l) (h : Kept l r s) (c : Nat) (sc : Nat) : Kept l r (State.caParityCount s c sc) := by
  unfold State.caParityCount
  repeat' first
    | with_reducible assumption
    | (intro x; clear_value x)
    | lift_lets -underBinder
    | with_reducible refine State.chanEvent_kept (hl.of (by decide)) ?_ ..
    | with_reducible refine State.updSub_kept (hl.of (by decide)) ?_ ..
    | split

theorem State.alertN_kept (hl : Within 0x80020620 l) (h : Kept l r s) (c : Nat) (sc : Nat) (k : AlertKind) : Kept l r (State.alertN s c sc k) := by
  unfold State.alertN
  repeat' first
    | with_reducible assumption
    | (intro x; refine (?_ : Kept l r x → _) ?_ <;> [(intro _; clear_value x); subst x])
    | (intro x; clear_value x)
    | lift_lets -underBinder
    | simp -zeta (disch := (refine Part.all ?_; intro p hp; cases p <;> first | exact hl.no hp (by decide) | exact Eq.refl _)) only [Kept.upd_iff]
    | with_reducible refine State.ev_kept (hl.of (by decide)) ?_ ..
    | with_reducible refine State.updSub_kept (hl.of (by decide)) ?_ ..
    | with_reducible refine State.balInterrupt_kept (hl.of (by decide)) ?_ ..
    | with_reducible refine State.nameWrite_kept (hl.of (by decide)) ?_ ..
    | with_reducible refine State.nameRead_kept (hl.of (by decide)) ?_ ..
    | with_reducible refine State.caParityCount_kept (hl.of (by decide)) ?_ ..
    | with_reducible refine Kept.foldl (fun s a hs => ?_) ?_ _
    | split

theorem State.alertWindowClose_kept (hl : Within 0x121762 l) (h : Kept l r s) (c : Nat) (sc : Nat) : Kept l r (State.alertWindowClose s c sc) := by
  unfold State.alertWindowClose
  repeat' first
    | with_reducible assumption
    | (intro x; refine (?_ : Kept l r x → _) ?_ <;> [(intro _; clear_value x); subst x])
    | (intro x; clear_value x)
    | lift_lets -underBinder
    | with_reducible refine State.goto_kept (hl.of (by decide)) ?_ ..
    | with_reducible refine State.updSub_kept (hl.of (by decide)) ?_ ..
    | split

theorem State.copyBack_kept (hl : Within 0x60000000 l) (h : Kept l r s) (a1 : Loc) (a : Resp) (t : Nat) : Kept l r (State.copyBack s a1 a t) := by
  unfold State.copyBack
  repeat' first
    | with_reducible assumption
    | (intro x; refine (?_ : Kept l r x → _) ?_ <;> [(intro _; clear_value x); subst x])
    | (intro x; clear_value x)
    | lift_lets -underBinder
    | simp -zeta (disch := (refine Part.all ?_; intro p hp; cases p <;> first | exact hl.no hp (by decide) | exact Eq.refl _)) only [Kept.upd_iff]
    | with_reducible refine State.copyWrite_kept (hl.of (by decide)) ?_ ..
    | split

theorem State.scrubPass_kept (hl : Within 0x420 l) (h : Kept l r s) (c : Nat) : Kept l r (State.scrubPass s c) := by
  unfold State.scrubPass
  repeat' first
    | with_reducible assumption
    | (intro x; refine (?_ : Kept l r x → _) ?_ <;> [(intro _; clear_value x); subst x])
    | (intro x; clear_value x)
    | lift_lets -underBinder
    | with_reducible refine State.updScrub_kept (hl.of (by decide)) ?_ ..
    | with_reducible refine State.updElog_kept (hl.of (by decide)) ?_ ..
    | with_reducible refine State.raiseIf_kept (hl.of (by decide)) ?_ ..
    | with_reducible refine State.raise_kept (hl.of (by decide)) ?_ ..
    | split

theorem State.scrubActs_kept (hl : Within 0x20420 l) (h : Kept l r s) (c : Nat) (a1 : Loc) (d : Decode) (mark : Option Nat) : Kept l r (State.scrubActs s c a1 d mark) := by
  unfold State.scrubActs
  repeat' first
    | with_reducible assumption
    | (intro x; refine (?_ : Kept l r x → _) ?_ <;> [(intro _; clear_value x); subst x])
    | (intro x; (have _ht : State → _ := x); clear _ht)
    | (intro x; clear_value x)
    | simp -zeta (disch := (refine Part.all ?_; intro p hp; cases p <;> first | exact hl.no hp (by decide) | exact Eq.refl _)) only [Kept.upd_iff]
    | lift_lets -underBinder
    | with_reducible refine State.updScrub_kept (hl.of (by decide)) ?_ ..
    | with_reducible refine State.ev_kept (hl.of (by decide)) ?_ ..
    | split

theorem State.readDecode_kept (hl : Within 0xe0121762 l) (h : Kept l r s) (c : Nat) (sc : Nat) (err : RawLine) : Kept l r (State.readDecode s c sc err) := by
  unfold State.readDecode
  repeat' first
    | with_reducible assumption
    | (intro x; refine (?_ : Kept l r x → _) ?_ <;> [(intro _; clear_value x); subst x])
    | (intro x; clear_value x)
    | lift_lets -underBinder
    | with_reducible refine State.goto_kept (hl.of (by decide)) ?_ ..
    | with_reducible refine State.updSub_kept (hl.of (by decide)) ?_ ..
    | with_reducible refine State.noteDecode_kept (hl.of (by decide)) ?_ ..
    | with_reducible refine State.raiseIf_kept (hl.of (by decide)) ?_ ..
    | with_reducible refine State.scrubRaise_kept (hl.of (by decide)) ?_ ..
    | with_reducible refine State.scrubPass_kept (hl.of (by decide)) ?_ ..
    | with_reducible refine State.updScrub_kept (hl.of (by decide)) ?_ ..
    | with_reducible refine State.scrubActs_kept (hl.of (by decide)) ?_ ..
    | with_reducible refine State.copyBack_kept (hl.of (by decide)) ?_ ..
    | with_reducible refine State.respond_kept (hl.of (by decide)) ?_ ..
    | split

end Sys2Proof.Machine
end

