-- ==== Sys2Proof/Laws/Exec.lean ====
section
/-! SUPPORT. What each command may change: it answers a next state that is the old one but for the parts of its mask (the bits are those
of `Part.bit`), with the queue as before and the lines still in canonical form. -/
namespace Sys2Proof.Machine
variable {s : State}

theorem Within.self (a : Nat) : Within a a := Nat.and_self a

theorem Kept.part_or {l : Nat} {r a b : State} {c : Prop} [Decidable c] (ha : Kept l r a) (hb : Kept l r b) : Kept l r (if c then a else b) := by
  split
  · exact ha
  · exact hb

theorem execEscapementTick_kept (ms : List CalMeas) : ∃ t, execEscapementTick ms s = .next t ∧ Kept 0xc27fff7bff2 s t :=
  ⟨_, rfl, State.escapementTick_kept (Within.self _) (Kept.refl _ s) ..⟩

theorem execLatchPoint_kept (late : List (Nat × Nat)) : ∃ t, execLatchPoint late s = .next t ∧ Kept 0x1317f2 s t :=
  ⟨_, rfl, State.latchPoint_kept (Within.self _) (Kept.refl _ s) ..⟩

theorem execDecisionPoint_kept (c : Fin 17) (sc : Fin 2) (z : Sense) : ∃ t, execDecisionPoint c sc z s = .next t ∧ Kept 0xa01a1f62 s t :=
  ⟨_, rfl, State.decisionPoint_kept (Within.self _) (Kept.refl _ s) ..⟩

theorem execSvcAccess_kept (g : Fin 16) (h : ReqHdr) : ∃ t, execSvcAccess g h s = .next t ∧ Kept 0x422be73bff2 s t :=
  ⟨_, rfl, State.svcAccess_kept (Within.self _) (Kept.refl _ s) ..⟩

theorem execCrownPageAccess_kept (tap : Bool) (addr : Nat) (wide : Bool) (wr : Bool) (data : BitVec 64) : ∃ t, execCrownPageAccess tap addr wide wr data s = .next t ∧ Kept 0x422be73bff2 s t :=
  ⟨_, rfl, State.regAccess_kept (Within.self _) (Kept.refl _ s) ..⟩

theorem execRegisterWrite_kept (src : Src) (addr : Nat) (wide : Bool) (data : BitVec 64) : ∃ t, execRegisterWrite src addr wide data s = .next t ∧ Kept 0x422be73bff2 s t :=
  ⟨_, rfl, State.regAccess_kept (Within.self _) (Kept.refl _ s) ..⟩

theorem execRcRead_kept (src : Src) (addr : Nat) : ∃ t, execRcRead src addr s = .next t ∧ Kept 0x422be73bff2 s t :=
  ⟨_, rfl, State.regAccess_kept (Within.self _) (Kept.refl _ s) ..⟩

theorem execLoReadLatch_kept (src : Src) (addr : Nat) : ∃ t, execLoReadLatch src addr s = .next t ∧ Kept 0x422be73bff2 s t :=
  ⟨_, rfl, State.regAccess_kept (Within.self _) (Kept.refl _ s) ..⟩

theorem execPgCtlWrite_kept (src : Src) (page : Nat) (v : Word) : ∃ t, execPgCtlWrite src page v s = .next t ∧ Kept 0x422be73bff2 s t :=
  ⟨_, rfl, State.pageWrite_kept (Within.self _) (Kept.refl _ s) ..⟩

theorem execEscEnClear_kept (src : Src) : ∃ t, execEscEnClear src s = .next t ∧ Kept 0x422be73bff2 s t :=
  ⟨_, rfl, State.pageWrite_kept (Within.self _) (Kept.refl _ s) ..⟩

theorem execEscEnSet_kept (src : Src) : ∃ t, execEscEnSet src s = .next t ∧ Kept 0x422be73bff2 s t :=
  ⟨_, rfl, State.pageWrite_kept (Within.self _) (Kept.refl _ s) ..⟩

theorem execIntentAdoption_kept (page : Nat) : ∃ t, execIntentAdoption page s = .next t ∧ Kept 0x20 s t :=
  ⟨_, rfl, State.adoptPage_kept (Within.self _) (Kept.refl _ s) ..⟩

theorem execPgIsetWrite_kept (src : Src) (page : Nat) (v : Word) : ∃ t, execPgIsetWrite src page v s = .next t ∧ Kept 0x422be73bff2 s t :=
  ⟨_, rfl, State.pageWrite_kept (Within.self _) (Kept.refl _ s) ..⟩

theorem execCommitGo_kept (src : Src) (page : Nat) : ∃ t, execCommitGo src page s = .next t ∧ Kept 0x422be73bff2 s t :=
  ⟨_, rfl, State.pageWrite_kept (Within.self _) (Kept.refl _ s) ..⟩

theorem execCommitCancel_kept (src : Src) (page : Nat) : ∃ t, execCommitCancel src page s = .next t ∧ Kept 0x422be73bff2 s t :=
  ⟨_, rfl, State.pageWrite_kept (Within.self _) (Kept.refl _ s) ..⟩

theorem execCommitDiscard_kept (src : Src) (page : Nat) : ∃ t, execCommitDiscard src page s = .next t ∧ Kept 0x422be73bff2 s t :=
  ⟨_, rfl, State.pageWrite_kept (Within.self _) (Kept.refl _ s) ..⟩

theorem execCommitCheck_kept (page : Nat) : ∃ t, execCommitCheck page s = .next t ∧ Kept 0x102e0 s t :=
  ⟨_, rfl, by
    cases h : pageOf page with
    | none => exact Kept.refl _ s
    | some p => exact State.commitCheck_kept (Within.self _) (Kept.refl _ s) p⟩

theorem execInterruptMessage_kept : ∃ t, execInterruptMessage  s = .next t ∧ Kept 0x121562 s t :=
  ⟨_, rfl, State.intMessage_kept (Within.self _) (Kept.refl _ s) ..⟩

theorem execBlkIntEoi_kept (src : Src) : ∃ t, execBlkIntEoi src s = .next t ∧ Kept 0x422be73bff2 s t :=
  ⟨_, rfl, State.pageWrite_kept (Within.self _) (Kept.refl _ s) ..⟩

theorem execBlkIntCfgWrite_kept (src : Src) (v : Word) : ∃ t, execBlkIntCfgWrite src v s = .next t ∧ Kept 0x422be73bff2 s t :=
  ⟨_, rfl, State.pageWrite_kept (Within.self _) (Kept.refl _ s) ..⟩

theorem execMbGo_kept (src : Src) (m : Fin 2) : ∃ t, execMbGo src m s = .next t ∧ Kept 0x422be73bff2 s t :=
  ⟨_, rfl, State.pageWrite_kept (Within.self _) (Kept.refl _ s) ..⟩

theorem execUnknownCommand_kept : ∃ t, execUnknownCommand  s = .next t ∧ Kept 0x20060 s t :=
  ⟨_, rfl, State.mbUnknown_kept (Within.self _) (Kept.refl _ s) ..⟩

theorem execFrameSet_kept : ∃ t, execFrameSet  s = .next t ∧ Kept 0x20020260 s t :=
  ⟨_, rfl, State.mbFrameSet_kept (Within.self _) (Kept.refl _ s) ..⟩

theorem execFrameStatus_kept : ∃ t, execFrameStatus  s = .next t ∧ Kept 0x20020a60 s t :=
  ⟨_, rfl, State.mbFrameStatus_kept (Within.self _) (Kept.refl _ s) ..⟩

theorem execMapSet_kept : ∃ t, execMapSet  s = .next t ∧ Kept 0xa00206e0 s t :=
  ⟨_, rfl, State.mbMapSet_kept (Within.self _) (Kept.refl _ s) ..⟩

theorem execReserveSet_kept : ∃ t, execReserveSet  s = .next t ∧ Kept 0x200202e0 s t :=
  ⟨_, rfl, State.mbReserveSet_kept (Within.self _) (Kept.refl _ s) ..⟩

theorem execTableSet_kept : ∃ t, execTableSet  s = .next t ∧ Kept 0x20020260 s t :=
  ⟨_, rfl, State.mbTableSet_kept (Within.self _) (Kept.refl _ s) ..⟩

theorem execRefreshSet_kept : ∃ t, execRefreshSet  s = .next t ∧ Kept 0x20020260 s t :=
  ⟨_, rfl, State.mbRefreshSet_kept (Within.self _) (Kept.refl _ s) ..⟩

theorem execPark_kept : ∃ t, execPark  s = .next t ∧ Kept 0x200202e0 s t :=
  ⟨_, rfl, State.mbPark_kept (Within.self _) (Kept.refl _ s) ..⟩

theorem execArbSet_kept : ∃ t, execArbSet  s = .next t ∧ Kept 0x20020260 s t :=
  ⟨_, rfl, State.mbArbSet_kept (Within.self _) (Kept.refl _ s) ..⟩

theorem execTrain_kept : ∃ t, execTrain  s = .next t ∧ Kept 0x204204f0 s t :=
  ⟨_, rfl, State.mbTrain_kept (Within.self _) (Kept.refl _ s) ..⟩

theorem execCalSet_kept : ∃ t, execCalSet  s = .next t ∧ Kept 0x20020260 s t :=
  ⟨_, rfl, State.mbCalSet_kept (Within.self _) (Kept.refl _ s) ..⟩

theorem execScrubSet_kept : ∃ t, execScrubSet  s = .next t ∧ Kept 0x20020260 s t :=
  ⟨_, rfl, State.mbScrubSet_kept (Within.self _) (Kept.refl _ s) ..⟩

theorem execBurlSet_kept : ∃ t, execBurlSet  s = .next t ∧ Kept 0x20020260 s t :=
  ⟨_, rfl, State.mbBurlSet_kept (Within.self _) (Kept.refl _ s) ..⟩

theorem execHeatSet_kept : ∃ t, execHeatSet  s = .next t ∧ Kept 0x20020260 s t :=
  ⟨_, rfl, State.mbHeatSet_kept (Within.self _) (Kept.refl _ s) ..⟩

theorem execRouteSet_kept : ∃ t, execRouteSet  s = .next t ∧ Kept 0x20020260 s t :=
  ⟨_, rfl, State.mbRouteSet_kept (Within.self _) (Kept.refl _ s) ..⟩

theorem execLatheSetPool_kept : ∃ t, execLatheSetPool  s = .next t ∧ Kept 0x20020260 s t :=
  ⟨_, rfl, State.mbLthPool_kept (Within.self _) (Kept.refl _ s) ..⟩

theorem execLatheSetAttach_kept : ∃ t, execLatheSetAttach  s = .next t ∧ Kept 0x36028ae0 s t :=
  ⟨_, rfl, State.mbLthAttach_kept (Within.self _) (Kept.refl _ s) ..⟩

theorem execLatheSetDetach_kept : ∃ t, execLatheSetDetach  s = .next t ∧ Kept 0x36028a60 s t :=
  ⟨_, rfl, State.mbLthDetach_kept (Within.self _) (Kept.refl _ s) ..⟩

theorem execLatheSetEngine_kept : ∃ t, execLatheSetEngine  s = .next t ∧ Kept 0x20020260 s t :=
  ⟨_, rfl, State.mbLthEngine_kept (Within.self _) (Kept.refl _ s) ..⟩

theorem execInsCreate_kept : ∃ t, execInsCreate  s = .next t ∧ Kept 0x220060 s t :=
  ⟨_, rfl, State.mbInsCreate_kept (Within.self _) (Kept.refl _ s) ..⟩

theorem execInsDestroy_kept : ∃ t, execInsDestroy  s = .next t ∧ Kept 0x120060 s t :=
  ⟨_, rfl, State.mbInsDestroy_kept (Within.self _) (Kept.refl _ s) ..⟩

theorem execInsReset_kept : ∃ t, execInsReset  s = .next t ∧ Kept 0xc27fff7bff2 s t :=
  ⟨_, rfl, State.insCommand_kept (Within.self _) _ (fun _ h => State.mbInsReset_kept ((Within.self _).of (by decide)) h) (Kept.refl _ s) ..⟩

theorem execShareSet_kept : ∃ t, execShareSet  s = .next t ∧ Kept 0x120460 s t :=
  ⟨_, rfl, State.mbShareSet_kept (Within.self _) (Kept.refl _ s) ..⟩

theorem execFreeze_kept : ∃ t, execFreeze  s = .next t ∧ Kept 0xc27fff7bff2 s t :=
  ⟨_, rfl, State.insCommand_kept (Within.self _) _ (fun _ h => State.mbFreeze_kept ((Within.self _).of (by decide)) h) (Kept.refl _ s) ..⟩

theorem execThaw_kept : ∃ t, execThaw  s = .next t ∧ Kept 0x120060 s t :=
  ⟨_, rfl, State.mbThaw_kept (Within.self _) (Kept.refl _ s) ..⟩

theorem execSave_kept : ∃ t, execSave  s = .next t ∧ Kept 0x20020a60 s t :=
  ⟨_, rfl, State.mbSave_kept (Within.self _) (Kept.refl _ s) ..⟩

theorem execRestore_kept : ∃ t, execRestore  s = .next t ∧ Kept 0x220060 s t :=
  ⟨_, rfl, State.mbRestore_kept (Within.self _) (Kept.refl _ s) ..⟩

theorem execCntUserSet_kept : ∃ t, execCntUserSet  s = .next t ∧ Kept 0x120060 s t :=
  ⟨_, rfl, State.mbCntUserSet_kept (Within.self _) (Kept.refl _ s) ..⟩

theorem execTakeover_kept : ∃ t, execTakeover  s = .next t ∧ Kept 0xa00206e0 s t :=
  ⟨_, rfl, State.mbTakeover_kept (Within.self _) (Kept.refl _ s) ..⟩

theorem execRejoin_kept : ∃ t, execRejoin s = .next t ∧ Kept 0xa0020470 s t :=
  ⟨_, rfl, State.mbRejoin_kept (Within.self _) (Kept.refl _ s) ..⟩

theorem execFwSwap_kept (wrote : Bool) : ∃ t, execFwSwap wrote s = .next t ∧ Kept 0x20020060 s t :=
  ⟨_, rfl, State.fwSwap_kept (Within.self _) (Kept.refl _ s) ..⟩

theorem execChanTestLine_kept (errs : Nat) (ranks : BitVec 8) (w0 : Word) (w1 : Word) : ∃ t, execChanTestLine errs ranks w0 w1 s = .next t ∧ Kept 0x40020420e70 s t :=
  ⟨_, rfl, State.chanTest_kept (Within.self _) (Kept.refl _ s) ..⟩

theorem execChanTestLoopback_kept (errs : Nat) (ranks : BitVec 8) (w0 : Word) (w1 : Word) : ∃ t, execChanTestLoopback errs ranks w0 w1 s = .next t ∧ Kept 0x40020420e70 s t :=
  ⟨_, rfl, State.chanTest_kept (Within.self _) (Kept.refl _ s) ..⟩

theorem execIntentGet_kept : ∃ t, execIntentGet  s = .next t ∧ Kept 0x20060 s t :=
  ⟨_, rfl, State.mbIntentGet_kept (Within.self _) (Kept.refl _ s) ..⟩

theorem execLineRead_kept (g : Fin 16) (h : ReqHdr) : ∃ t, execLineRead g h s = .next t ∧ Kept 0x21560 s t :=
  ⟨_, rfl, State.hdrFlit_kept (Within.self _) (Kept.refl _ s) ..⟩

theorem execMultiRead_kept (g : Fin 16) (h : ReqHdr) : ∃ t, execMultiRead g h s = .next t ∧ Kept 0x21560 s t :=
  ⟨_, rfl, State.hdrFlit_kept (Within.self _) (Kept.refl _ s) ..⟩

theorem execLineWrite_kept (g : Fin 16) (h : ReqHdr) : ∃ t, execLineWrite g h s = .next t ∧ Kept 0x21560 s t :=
  ⟨_, rfl, State.hdrFlit_kept (Within.self _) (Kept.refl _ s) ..⟩

theorem execLineWriteData_kept (g : Fin 16) (seq : Nat) (d : Line) : ∃ t, execLineWriteData g seq d s = .next t ∧ Kept 0x21560 s t :=
  ⟨_, rfl, State.dataFlit_kept (Within.self _) (Kept.refl _ s) ..⟩

theorem execStrayDataFlit_kept (g : Fin 16) (seq : Nat) (d : Line) : ∃ t, execStrayDataFlit g seq d s = .next t ∧ Kept 0x21560 s t :=
  ⟨_, rfl, State.dataFlit_kept (Within.self _) (Kept.refl _ s) ..⟩

theorem execMissingWriteData_kept (g : Fin 16) (h : ReqHdr) : ∃ t, execMissingWriteData g h s = .next t ∧ Kept 0x21560 s t :=
  ⟨_, rfl, State.hdrFlit_kept (Within.self _) (Kept.refl _ s) ..⟩

theorem execLinkCrcError_kept (g : Fin 16) : ∃ t, execLinkCrcError g s = .next t ∧ Kept 0x20120 s t :=
  ⟨_, rfl, State.linkCrc_kept (Within.self _) (Kept.refl _ s) ..⟩

theorem execAckReceived_kept (g : Fin 16) (ack : Nat) : ∃ t, execAckReceived g ack s = .next t ∧ Kept 0x100 s t :=
  ⟨_, rfl, State.ackReceived_kept (Within.self _) (Kept.refl _ s) ..⟩

theorem execNakReceived_kept (g : Fin 16) (ack : Nat) : ∃ t, execNakReceived g ack s = .next t ∧ Kept 0x20120 s t :=
  ⟨_, rfl, State.nakReceived_kept (Within.self _) (Kept.refl _ s) ..⟩

theorem execRewindTimer_kept (g : Fin 16) : ∃ t, execRewindTimer g s = .next t ∧ Kept 0x121562 s t :=
  ⟨_, rfl, State.rewindTimer_kept (Within.self _) (Kept.refl _ s) ..⟩

theorem execReplayTimeout_kept (g : Fin 16) : ∃ t, execReplayTimeout g s = .next t ∧ Kept 0x121562 s t :=
  ⟨_, rfl, State.replayTimeout_kept (Within.self _) (Kept.refl _ s) ..⟩

theorem execIdleAck_kept (g : Fin 16) : ∃ t, execIdleAck g s = .next t ∧ Kept 0x121562 s t :=
  ⟨_, rfl, State.idleAck_kept (Within.self _) (Kept.refl _ s) ..⟩

theorem execPhaseErr_kept (g : Fin 16) : ∃ t, execPhaseErr g s = .next t ∧ Kept 0x21560 s t :=
  ⟨_, rfl, State.phaseErr_kept (Within.self _) (Kept.refl _ s) ..⟩

theorem execAliveFall_kept (g : Fin 16) : ∃ t, execAliveFall g s = .next t ∧ Kept 0x21560 s t :=
  ⟨_, rfl, State.aliveFall_kept (Within.self _) (Kept.refl _ s) ..⟩

theorem execAliveRise_kept (g : Fin 16) : ∃ t, execAliveRise g s = .next t ∧ Kept 0x20000360 s t :=
  ⟨_, rfl, State.gwReapply_kept ((Within.self _).of (by decide)) (State.aliveRise_kept ((Within.self _).of (by decide)) (Kept.refl _ s) ..) ..⟩

theorem execLinkInit_kept (g : Fin 16) : ∃ t, execLinkInit g s = .next t ∧ Kept 0x121562 s t :=
  ⟨_, rfl, State.linkInit_kept (Within.self _) (Kept.refl _ s) ..⟩

theorem execMeshInit_kept (g : Fin 16) (hdr : Nat) (data : Nat) : ∃ t, execMeshInit g hdr data s = .next t ∧ Kept 0x100 s t :=
  ⟨_, rfl, State.meshInit_kept (Within.self _) (Kept.refl _ s) ..⟩

theorem execGwFlush_kept (src : Src) (g : Fin 16) : ∃ t, execGwFlush src g s = .next t ∧ Kept 0x422be73bff2 s t :=
  ⟨_, rfl, State.pageWrite_kept (Within.self _) (Kept.refl _ s) ..⟩

theorem execTailDiscardEat_kept (g : Fin 16) (seq : Nat) (d : Line) : ∃ t, execTailDiscardEat g seq d s = .next t ∧ Kept 0x21560 s t :=
  ⟨_, rfl, State.dataFlit_kept (Within.self _) (Kept.refl _ s) ..⟩

theorem execTailDiscardHeader_kept (g : Fin 16) (h : ReqHdr) : ∃ t, execTailDiscardHeader g h s = .next t ∧ Kept 0x21560 s t :=
  ⟨_, rfl, State.hdrFlit_kept (Within.self _) (Kept.refl _ s) ..⟩

theorem execResponseEgress_kept (g : Fin 16) : ∃ t, execResponseEgress g s = .next t ∧ Kept 0x422be73bff2 s t :=
  ⟨_, rfl, State.responseEgress_kept ((Within.self _).of (by decide)) (State.svcsFor_kept ((Within.self _).of (by decide))
    (State.egressAhead_kept ((Within.self _).of (by decide)) (Kept.refl _ s) ..) ..) ..⟩

theorem execRetryCBounce_kept (g : Fin 16) : ∃ t, execRetryCBounce g s = .next t ∧ Kept 0x121562 s t :=
  ⟨_, rfl, State.bounceArrives_kept (Within.self _) (Kept.refl _ s) ..⟩

theorem execSetAsideRelease_kept (g : Fin 16) : ∃ t, execSetAsideRelease g s = .next t ∧ Kept 0x121562 s t :=
  ⟨_, rfl, State.asideRelease_kept (Within.self _) (State.gwAhead_kept (Within.self _) (Kept.refl _ s) ..) ..⟩

theorem execAddrMapEpochSwitch_kept (ms : List CalMeas) : ∃ t, execAddrMapEpochSwitch ms s = .next t ∧ Kept 0xc27fff7bff2 s t :=
  ⟨_, rfl, State.tickWhen_kept (Within.self _) (Kept.refl _ s) ..⟩

theorem execMapXlate_kept (src : Src) (pa : BitVec 52) : ∃ t, execMapXlate src pa s = .next t ∧ Kept 0x422be73bff2 s t :=
  ⟨_, rfl, State.regAccess_kept (Within.self _) (Kept.refl _ s) ..⟩

theorem execAlertN_kept (c : Fin 17) (sc : Fin 2) (k : AlertKind) : ∃ t, execAlertN c sc k s = .next t ∧ Kept 0x80420e20 s t :=
  ⟨_, rfl, State.calParity_kept ((Within.self _).of (by decide)) (State.alertN_kept ((Within.self _).of (by decide)) (Kept.refl _ s) ..) ..⟩

theorem execAlertWindowClose_kept (c : Fin 17) (sc : Fin 2) : ∃ t, execAlertWindowClose c sc s = .next t ∧ Kept 0x121762 s t :=
  ⟨_, rfl, State.alertWindowClose_kept (Within.self _) (Kept.refl _ s) ..⟩

theorem execMr4Read_kept (c : Fin 17) (sc : Fin 2) (asks : Nat) : ∃ t, execMr4Read c sc asks s = .next t ∧ Kept 0x80000620 s t :=
  ⟨_, rfl, State.mr4Read_kept (Within.self _) (Kept.refl _ s) ..⟩

theorem execEcsRead_kept (c : Fin 17) (sc : Fin 2) (count : Nat) (dev : Nat) (bg : Nat) (ba : Nat) (row : Nat) : ∃ t, execEcsRead c sc count dev bg ba row s = .next t ∧ Kept 0x8620 s t :=
  ⟨_, rfl, State.ecsRead_kept (Within.self _) (Kept.refl _ s) ..⟩

theorem execMrCmdGo_kept (src : Src) (c : Fin 17) (v : Word) : ∃ t, execMrCmdGo src c v s = .next t ∧ Kept 0x422be73bff2 s t :=
  ⟨_, rfl, State.pageWrite_kept (Within.self _) (Kept.refl _ s) ..⟩

theorem execI3cCmdGo_kept (src : Src) (c : Fin 17) (v : Word) : ∃ t, execI3cCmdGo src c v s = .next t ∧ Kept 0x422be73bff2 s t :=
  ⟨_, rfl, State.pageWrite_kept (Within.self _) (Kept.refl _ s) ..⟩

theorem execSidebandTransactionDone_kept (c : Fin 17) (r : SbResult) : ∃ t, execSidebandTransactionDone c r s = .next t ∧ Kept 0x80000420 s t :=
  ⟨_, rfl, State.sbTxnDone_kept (Within.self _) (Kept.refl _ s) ..⟩

theorem execSidebandPoll_kept (c : Fin 17) (phy : BitVec 8) : ∃ t, execSidebandPoll c phy s = .next t ∧ Kept 0x400 s t :=
  ⟨_, rfl, State.sbPoll_kept (Within.self _) (Kept.refl _ s) ..⟩

theorem execInBandInterrupt_kept (c : Fin 17) (hid : Nat) (dtype : Nat) : ∃ t, execInBandInterrupt c hid dtype s = .next t ∧ Kept 0x400 s t :=
  ⟨_, rfl, State.sbIbi_kept (Within.self _) (Kept.refl _ s) ..⟩

theorem execSidebandTimeout_kept (c : Fin 17) : ∃ t, execSidebandTimeout c s = .next t ∧ Kept 0x80121562 s t :=
  ⟨_, rfl, State.sbTimeout_kept (Within.self _) (Kept.refl _ s) ..⟩

theorem execPrsntChange_kept (c : Fin 17) (level : Presence) : ∃ t, execPrsntChange c level s = .next t ∧ Kept 0x400 s t :=
  ⟨_, rfl, State.prsntChange_kept (Within.self _) (Kept.refl _ s) ..⟩

theorem execChannelEnqueue_kept (c : Fin 17) : ∃ t, execChannelEnqueue c s = .next t ∧ Kept 0x125762 s t :=
  ⟨_, rfl, State.channelEnqueue_kept (Within.self _) (Kept.refl _ s) ..⟩

theorem execCrownAccessEnqueue_kept : ∃ t, execCrownAccessEnqueue  s = .next t ∧ Kept 0x200125762 s t :=
  ⟨_, rfl, State.crownEnqueue_kept (Within.self _) (Kept.refl _ s) ..⟩

theorem execReadDecode_kept (c : Fin 17) (sc : Fin 2) (err : RawLine) : ∃ t, execReadDecode c sc err s = .next t ∧ Kept 0xe0121762 s t :=
  ⟨_, rfl, State.readDecode_kept (Within.self _) (Kept.refl _ s) ..⟩

theorem execEmergencyCommand_kept (c : Fin 17) (sc : Fin 2) : ∃ t, execEmergencyCommand c sc s = .next t ∧ Kept 0x121762 s t :=
  ⟨_, rfl, State.emergencyCommand_kept (Within.self _) (Kept.refl _ s) ..⟩

theorem execSelfRefreshEntry_kept (c : Fin 17) (ms : List CalMeas) : ∃ t, execSelfRefreshEntry c ms s = .next t ∧ Kept 0xc27fff7bff2 s t :=
  ⟨_, rfl, State.tickWhen_kept (Within.self _) (Kept.refl _ s) ..⟩

theorem execSelfRefreshExitDone_kept (c : Fin 17) : ∃ t, execSelfRefreshExitDone c s = .next t ∧ Kept 0x121762 s t :=
  ⟨_, rfl, State.srExit_kept (Within.self _) (Kept.refl _ s) ..⟩

theorem execParkEntry_kept (c : Fin 17) (ms : List CalMeas) : ∃ t, execParkEntry c ms s = .next t ∧ Kept 0xc27fff7bff2 s t :=
  ⟨_, rfl, State.tickWhen_kept (Within.self _) (Kept.refl _ s) ..⟩

theorem execArbiterRound_kept (c : Fin 17) : ∃ t, execArbiterRound c s = .next t ∧ Kept 0x24121762 s t :=
  ⟨_, rfl, State.arbiterRound_kept (Within.self _) (Kept.refl _ s) ..⟩

theorem execBackoffEnd_kept (c : Fin 17) (i : Fin 20) : ∃ t, execBackoffEnd c i s = .next t ∧ Kept 0x121562 s t :=
  ⟨_, rfl, State.backoffEnd_kept (Within.self _) (Kept.refl _ s) ..⟩

theorem execUrgency3_kept (c : Fin 17) (i : Fin 20) : ∃ t, execUrgency3 c i s = .next t ∧ Kept 0x24121562 s t :=
  ⟨_, rfl, State.urgency3_kept (Within.self _) (Kept.refl _ s) ..⟩

theorem execCrownEmerg_kept : ∃ t, execCrownEmerg  s = .next t ∧ Kept 0x224121562 s t :=
  ⟨_, rfl, State.crownEmerg_kept (Within.self _) (Kept.refl _ s) ..⟩

theorem execBlockResetRelease_kept : ∃ t, execBlockResetRelease  s = .next t ∧ Kept 0x800000000 s t :=
  ⟨_, rfl, State.resetRelease_kept (Within.self _) (Kept.refl _ s) ..⟩

theorem execStartPhaseComplete_kept (x : PhaseIn) : ∃ t, execStartPhaseComplete x s = .next t ∧ Kept 0x3c824d017f8 s t :=
  ⟨_, rfl, State.phaseComplete_kept (Within.self _) (Kept.refl _ s) ..⟩

theorem execBclkLock_kept : ∃ t, execBclkLock  s = .next t ∧ Kept 0x8020000236 s t :=
  ⟨_, rfl, State.bclkLock_kept (Within.self _) (Kept.refl _ s) ..⟩

theorem execBclkLockTimeout_kept : ∃ t, execBclkLockTimeout  s = .next t ∧ Kept 0x800000000 s t :=
  ⟨_, rfl, State.bclkLockTimeout_kept (Within.self _) (Kept.refl _ s) ..⟩

theorem execWarmReset_kept : ∃ t, execWarmReset  s = .next t ∧ Kept 0xffffffffffe s t :=
  ⟨_, rfl, State.warmReset_kept (Within.self _) (Kept.refl _ s) ..⟩

theorem execFastRestoreDone_kept (c : Fin 17) (pass : Bool) : ∃ t, execFastRestoreDone c pass s = .next t ∧ Kept 0x1408e20 s t :=
  ⟨_, rfl, State.fastRestoreDone_kept (Within.self _) (Kept.refl _ s) ..⟩

theorem execZeroFillDone_kept (c : Fin 17) : ∃ t, execZeroFillDone c s = .next t ∧ Kept 0x100a0020e70 s t :=
  ⟨_, rfl, Kept.part_or (State.zeroFillDone_kept ((Within.self _).of (by decide)) (Kept.refl _ s) ..) (State.fillDone_kept ((Within.self _).of (by decide)) (Kept.refl _ s) ..)⟩

theorem execChRst_kept (src : Src) (mask : BitVec 17) : ∃ t, execChRst src mask s = .next t ∧ Kept 0x422be73bff2 s t :=
  ⟨_, rfl, State.pageWrite_kept (Within.self _) (Kept.refl _ s) ..⟩

theorem execMvcRestart_kept (src : Src) (crc : Bool) : ∃ t, execMvcRestart src crc s = .next t ∧ Kept 0x422be73bff2 s t :=
  ⟨_, rfl, Kept.part_or (State.pageWrite_kept ((Within.self _).of (by decide)) (Kept.refl _ s) ..) (State.intentLost_kept ((Within.self _).of (by decide)) (State.pageWrite_kept ((Within.self _).of (by decide)) (Kept.refl _ s) ..) ..)⟩

theorem execCntClr_kept (src : Src) : ∃ t, execCntClr src s = .next t ∧ Kept 0x422be73bff2 s t :=
  ⟨_, rfl, State.pageWrite_kept (Within.self _) (Kept.refl _ s) ..⟩

theorem execLockstepDisagreement_kept (crc : Bool) : ∃ t, execLockstepDisagreement crc s = .next t ∧ Kept 0x400b4321570 s t :=
  ⟨_, rfl, State.lockstep_kept (Within.self _) (Kept.refl _ s) ..⟩

theorem execThermUpd_kept (headroom : BitVec 8) (tj : BitVec 8) : ∃ t, execThermUpd headroom tj s = .next t ∧ Kept 0x100000000 s t :=
  ⟨_, rfl, State.thermUpd_kept (Within.self _) (Kept.refl _ s) ..⟩

theorem execHeadroomStale_kept : ∃ t, execHeadroomStale  s = .next t ∧ Kept 0x100121562 s t :=
  ⟨_, rfl, State.headroomStale_kept (Within.self _) (Kept.refl _ s) ..⟩

theorem execRebuildRateEval_kept (ms : List CalMeas) : ∃ t, execRebuildRateEval ms s = .next t ∧ Kept 0xc27fff7bff2 s t :=
  ⟨_, rfl, State.tickWhen_kept (Within.self _) (Kept.refl _ s) ..⟩

theorem execCaliperRunStart_kept (c : Fin 17) (spd : Spd) : ∃ t, execCaliperRunStart c spd s = .next t ∧ Kept 0x20400e60 s t :=
  ⟨_, rfl, State.runStart_kept (Within.self _) (Kept.refl _ s) ..⟩

theorem execCaliperRefab_kept (c : Fin 17) (step : Nat) (rk : Nat) (progress : Nat) : ∃ t, execCaliperRefab c step rk progress s = .next t ∧ Kept 0x521562 s t :=
  ⟨_, rfl, State.caliperRefab_kept (Within.self _) (Kept.refl _ s) ..⟩

theorem execCalStepTimeout_kept (c : Fin 17) (again : Bool) : ∃ t, execCalStepTimeout c again s = .next t ∧ Kept 0x521f62 s t :=
  ⟨_, rfl, State.calStepTimeout_kept (Within.self _) (Kept.refl _ s) ..⟩

theorem execCaliperRunEnd_kept (c : Fin 17) (ws : List Sweep) : ∃ t, execCaliperRunEnd c ws s = .next t ∧ Kept 0x1408e20 s t :=
  ⟨_, rfl, State.caliperEnd_kept (Within.self _) (Kept.refl _ s) ..⟩

theorem execJewelRecordWrite_kept (bad1 : Nat) (bad2 : Nat) : ∃ t, execJewelRecordWrite bad1 bad2 s = .next t ∧ Kept 0x1420020 s t :=
  ⟨_, rfl, State.jewelWrite_kept (Within.self _) (Kept.refl _ s) ..⟩

theorem execBalanceRunStart_kept (c : Fin 17) (ms : List CalMeas) : ∃ t, execBalanceRunStart c ms s = .next t ∧ Kept 0xc27fff7bff2 s t :=
  ⟨_, rfl, State.tickWhen_kept (Within.self _) (Kept.refl _ s) ..⟩

theorem execCompatStopEnd_kept (c : Fin 17) (sc : Fin 2) (grid : List Nat) (osc : List Nat) : ∃ t, execCompatStopEnd c sc grid osc s = .next t ∧ Kept 0x80121762 s t :=
  ⟨_, rfl, State.stopEnd_kept (Within.self _) (Kept.refl _ s) ..⟩

theorem execScrubCredit_kept (c : Fin 17) : ∃ t, execScrubCredit c s = .next t ∧ Kept 0x121562 s t :=
  ⟨_, rfl, State.scrubCredit_kept (Within.self _) (Kept.refl _ s) ..⟩

theorem execHoldReceive_kept (u : Fin 18) : ∃ t, execHoldReceive u s = .next t ∧ Kept 0x4121562 s t :=
  ⟨_, rfl, State.holdReceive_kept (Within.self _) (Kept.refl _ s) ..⟩

theorem execHeldRequestRelease_kept (u : Fin 18) : ∃ t, execHeldRequestRelease u s = .next t ∧ Kept 0x4121562 s t :=
  ⟨_, rfl, Kept.part_or (State.heldRelease_kept ((Within.self _).of (by decide))
    (State.gwAhead_kept ((Within.self _).of (by decide)) (Kept.refl _ s) ..) ..) (State.leHeldRelease_kept ((Within.self _).of (by decide)) (Kept.refl _ s) ..)⟩

theorem execBurlWindowRollover_kept (c : Fin 17) (sc : Fin 2) (ms : List CalMeas) : ∃ t, execBurlWindowRollover c sc ms s = .next t ∧ Kept 0xc27fff7bff2 s t :=
  ⟨_, rfl, State.tickWhen_kept (Within.self _) (Kept.refl _ s) ..⟩

theorem execHeatIntervalEnd_kept (c : Fin 17) (ms : List CalMeas) : ∃ t, execHeatIntervalEnd c ms s = .next t ∧ Kept 0xc27fff7bff2 s t :=
  ⟨_, rfl, State.tickWhen_kept (Within.self _) (Kept.refl _ s) ..⟩

theorem execHeatPublish_kept (ms : List CalMeas) : ∃ t, execHeatPublish ms s = .next t ∧ Kept 0xc27fff7bff2 s t :=
  ⟨_, rfl, State.tickWhen_kept (Within.self _) (Kept.refl _ s) ..⟩

theorem execBrlIdxWrite_kept (src : Src) (c : Fin 17) (v : Word) : ∃ t, execBrlIdxWrite src c v s = .next t ∧ Kept 0x422be73bff2 s t :=
  ⟨_, rfl, State.pageWrite_kept (Within.self _) (Kept.refl _ s) ..⟩

theorem execRouteEpochSwitch_kept (ms : List CalMeas) : ∃ t, execRouteEpochSwitch ms s = .next t ∧ Kept 0xc27fff7bff2 s t :=
  ⟨_, rfl, State.tickWhen_kept (Within.self _) (Kept.refl _ s) ..⟩

theorem execTorusFlitCrcError_kept (n : Fin 36) (p : Fin 4) (again : Bool) : ∃ t, execTorusFlitCrcError n p again s = .next t ∧ Kept 0x400031420 s t :=
  ⟨_, rfl, State.flitCrc_kept (Within.self _) (Kept.refl _ s) ..⟩

theorem execCreditTimeout_kept (n : Fin 36) (p : Fin 4) : ∃ t, execCreditTimeout n p s = .next t ∧ Kept 0x400031420 s t :=
  ⟨_, rfl, State.creditTimeout_kept (Within.self _) (Kept.refl _ s) ..⟩

theorem execLossSwitchGo_kept : ∃ t, execLossSwitchGo  s = .next t ∧ Kept 0x20000260 s t :=
  ⟨_, rfl, State.lossSwitchGo_kept (Within.self _) (Kept.refl _ s) ..⟩

theorem execClear_kept (n : Fin 36) : ∃ t, execClear n s = .next t ∧ Kept 0x10000 s t :=
  ⟨_, rfl, State.sendClear_kept (Within.self _) (Kept.refl _ s) ..⟩

theorem execClearAll_kept : ∃ t, execClearAll  s = .next t ∧ Kept 0x10000 s t :=
  ⟨_, rfl, State.clearAllGo_kept (Within.self _) (Kept.refl _ s) ..⟩

theorem execClearAllAnswer_kept (ms : List CalMeas) : ∃ t, execClearAllAnswer ms s = .next t ∧ Kept 0xc27fff7bff2 s t :=
  ⟨_, rfl, State.tickWhen_kept (Within.self _) (Kept.refl _ s) ..⟩

theorem execFenceEffect_kept (c : Fin 17) (ms : List CalMeas) : ∃ t, execFenceEffect c ms s = .next t ∧ Kept 0xc27fff7bff2 s t :=
  ⟨_, rfl, State.tickWhen_kept (Within.self _) (Kept.refl _ s) ..⟩

theorem execFencedSink_kept (u : Fin 19) : ∃ t, execFencedSink u s = .next t ∧ Kept 0x4121562 s t :=
  ⟨_, rfl, Kept.part_or (State.fencedSink_kept ((Within.self _).of (by decide)) (Kept.refl _ s) ..) (State.engineSink_kept ((Within.self _).of (by decide)) (Kept.refl _ s) ..)⟩

theorem execInsDoorbell_kept (src : Src) (i : Fin 4096) (v : BitVec 64) : ∃ t, execInsDoorbell src i v s = .next t ∧ Kept 0x422be73bff2 s t :=
  ⟨_, rfl, State.regAccess_kept (Within.self _) (Kept.refl _ s) ..⟩

theorem execDoorbellRestart_kept (e : Fin 2) : ∃ t, execDoorbellRestart e s = .next t ∧ Kept 0x2e121f62 s t :=
  ⟨_, rfl, State.bellArrives_kept (Within.self _) (Kept.refl _ s) ..⟩

theorem execDoorbellArrival_kept (e : Fin 2) : ∃ t, execDoorbellArrival e s = .next t ∧ Kept 0x2e121f62 s t :=
  ⟨_, rfl, State.bellArrives_kept (Within.self _) (Kept.refl _ s) ..⟩

theorem execRingAttach_kept (src : Src) (r : BitVec 18) : ∃ t, execRingAttach src r s = .next t ∧ Kept 0x422be73bff2 s t :=
  ⟨_, rfl, Kept.part_or (State.poolRetry_kept ((Within.self _).of (by decide)) (Kept.refl _ s) ..) (State.ringCommand_kept ((Within.self _).of (by decide)) (Kept.refl _ s) ..)⟩

theorem execRingDetach_kept (src : Src) (r : BitVec 18) : ∃ t, execRingDetach src r s = .next t ∧ Kept 0x422be73bff2 s t :=
  ⟨_, rfl, State.ringCommand_kept (Within.self _) (Kept.refl _ s) ..⟩

theorem execRingFlush_kept (src : Src) (r : BitVec 18) : ∃ t, execRingFlush src r s = .next t ∧ Kept 0x422be73bff2 s t :=
  ⟨_, rfl, State.ringCommand_kept (Within.self _) (Kept.refl _ s) ..⟩

theorem execLatheLineIssue_kept (e : Fin 2) : ∃ t, execLatheLineIssue e s = .next t ∧ Kept 0x26121f62 s t :=
  ⟨_, rfl, State.lineIssue_kept (Within.self _) (Kept.refl _ s) ..⟩

theorem execDescriptorFetchReturn_kept (e : Fin 2) : ∃ t, execDescriptorFetchReturn e s = .next t ∧ Kept 0x6121562 s t :=
  ⟨_, rfl, State.fetchReturn_kept (Within.self _) (Kept.refl _ s) ..⟩

theorem execLatheLineResponse_kept (e : Fin 2) : ∃ t, execLatheLineResponse e s = .next t ∧ Kept 0x6121562 s t :=
  ⟨_, rfl, State.lineResponse_kept (Within.self _) (Kept.refl _ s) ..⟩

theorem execOfflineReissue_kept (e : Fin 2) : ∃ t, execOfflineReissue e s = .next t ∧ Kept 0x6121562 s t :=
  ⟨_, rfl, State.offlineReissue_kept (Within.self _) (Kept.refl _ s) ..⟩

theorem execCompletionForm_kept (r : BitVec 18) : ∃ t, execCompletionForm r s = .next t ∧ Kept 0x6120020 s t :=
  ⟨_, rfl, State.completionForm_kept (Within.self _) (Kept.refl _ s) ..⟩

theorem execHandoverDone_kept (e : Fin 2) : ∃ t, execHandoverDone e s = .next t ∧ Kept 0x26001f20 s t :=
  ⟨_, rfl, State.handoverDone_kept (Within.self _) (Kept.refl _ s) ..⟩

theorem execEnginePowerUp_kept (e : Fin 2) : ∃ t, execEnginePowerUp e s = .next t ∧ Kept 0x26000a20 s t :=
  ⟨_, rfl, State.enginePowerUp_kept (Within.self _) (Kept.refl _ s) ..⟩

theorem execResetDone_kept (i : Fin 4096) : ∃ t, execResetDone i s = .next t ∧ Kept 0x120060 s t :=
  ⟨_, rfl, State.resetDone_kept (Within.self _) (Kept.refl _ s) ..⟩

theorem execQuiesced_kept (i : Fin 4096) : ∃ t, execQuiesced i s = .next t ∧ Kept 0x22120a60 s t :=
  ⟨_, rfl, State.quiesced_kept (Within.self _) (Kept.refl _ s) ..⟩

theorem execInstanceFree_kept (i : Fin 4096) (ms : List CalMeas) : ∃ t, execInstanceFree i ms s = .next t ∧ Kept 0xc27fff7bff2 s t :=
  ⟨_, rfl, State.tickWhen_kept (Within.self _) (Kept.refl _ s) ..⟩

theorem execInstanceIntMessage_kept (i : Fin 4096) : ∃ t, execInstanceIntMessage i s = .next t ∧ Kept 0x120060 s t :=
  ⟨_, rfl, State.insMessage_kept (Within.self _) (Kept.refl _ s) ..⟩

theorem execTakeoverStart_kept (c : Fin 17) : ∃ t, execTakeoverStart c s = .next t ∧ Kept 0xa00006e0 s t :=
  ⟨_, rfl, State.takeoverStart_kept (Within.self _) (Kept.refl _ s) ..⟩

theorem execCopyLine_kept : ∃ t, execCopyLine  s = .next t ∧ Kept 0x60121562 s t :=
  ⟨_, rfl, State.copyLine_kept (Within.self _) (Kept.refl _ s) ..⟩

theorem execPoisonMode_kept : ∃ t, execPoisonMode  s = .next t ∧ Kept 0x60121562 s t :=
  ⟨_, rfl, State.poisonMode_kept (Within.self _) (Kept.refl _ s) ..⟩

theorem execTakeoverPower_kept : ∃ t, execTakeoverPower  s = .next t ∧ Kept 0x80020460 s t :=
  ⟨_, rfl, State.takeoverPower_kept (Within.self _) (Kept.refl _ s) ..⟩

theorem execFwRestart_kept (ms : List CalMeas) : ∃ t, execFwRestart ms s = .next t ∧ Kept 0xc27fff7bff2 s t :=
  ⟨_, rfl, State.tickWhen_kept (Within.self _) (Kept.refl _ s) ..⟩

theorem execFwHeartbeatTimeout_kept : ∃ t, execFwHeartbeatTimeout  s = .next t ∧ Kept 0x20129562 s t :=
  ⟨_, rfl, State.fwTimeout_kept (Within.self _) (Kept.refl _ s) ..⟩

theorem execCrnInjGo_kept (tap : Bool) (v : Word) : ∃ t, execCrnInjGo tap v s = .next t ∧ Kept 0x422be73bff2 s t :=
  ⟨_, rfl, State.pageWrite_kept (Within.self _) (Kept.refl _ s) ..⟩

theorem execInjDone_kept : ∃ t, execInjDone  s = .next t ∧ Kept 0x200121562 s t :=
  ⟨_, rfl, State.injDone_kept (Within.self _) (Kept.refl _ s) ..⟩

theorem execSnap_kept (src : Src) (b : Fin 72) : ∃ t, execSnap src b s = .next t ∧ Kept 0x422be73bff2 s t :=
  ⟨_, rfl, State.pageWrite_kept (Within.self _) (Kept.refl _ s) ..⟩

theorem execQuadClr_kept (src : Src) (b : Fin 72) : ∃ t, execQuadClr src b s = .next t ∧ Kept 0x422be73bff2 s t :=
  ⟨_, rfl, State.pageWrite_kept (Within.self _) (Kept.refl _ s) ..⟩

theorem execCntSnapClr_kept (src : Src) (b : Fin 72) : ∃ t, execCntSnapClr src b s = .next t ∧ Kept 0x422be73bff2 s t :=
  ⟨_, rfl, State.pageWrite_kept (Within.self _) (Kept.refl _ s) ..⟩

theorem execCntValWrite_kept (src : Src) (b : Fin 72) (n : Fin 8) (v : BitVec 48) : ∃ t, execCntValWrite src b n v s = .next t ∧ Kept 0x422be73bff2 s t :=
  ⟨_, rfl, State.regAccess_kept (Within.self _) (Kept.refl _ s) ..⟩

theorem execCntCtlWrite_kept (src : Src) (b : Fin 72) (v : Word) : ∃ t, execCntCtlWrite src b v s = .next t ∧ Kept 0x422be73bff2 s t :=
  ⟨_, rfl, State.pageWrite_kept (Within.self _) (Kept.refl _ s) ..⟩

theorem execSampleWindowEnd_kept (b : Fin 72) : ∃ t, execSampleWindowEnd b s = .next t ∧ Kept 0x121562 s t :=
  ⟨_, rfl, State.sampleEnd_kept (Within.self _) (Kept.refl _ s) ..⟩

theorem execMeshCreditReturn_kept (g : Fin 16) (hdr : Nat) (data : Nat) : ∃ t, execMeshCreditReturn g hdr data s = .next t ∧ Kept 0x100 s t :=
  ⟨_, rfl, State.meshCredit_kept (Within.self _) (Kept.refl _ s) ..⟩

theorem execFwSwapped_kept : ∃ t, execFwSwapped  s = .next t ∧ Kept 0x20020260 s t :=
  ⟨_, rfl, State.fwSwapped_kept (Within.self _) (Kept.refl _ s) ..⟩

theorem execPowerFailure_kept (code : Nat) : ∃ t, execPowerFailure code s = .next t ∧ Kept 0xffffffffffe s t :=
  ⟨_, rfl, State.powerFailure_kept (Within.self _) (Kept.refl _ s) ..⟩

theorem execCrownTestPortClaim_kept (on : Bool) : ∃ t, execCrownTestPortClaim on s = .next t ∧ Kept 0x200000000 s t :=
  ⟨_, rfl, State.testPort_kept (Within.self _) (Kept.refl _ s) ..⟩

theorem execServiceProcessorLink_kept (up : Bool) : ∃ t, execServiceProcessorLink up s = .next t ∧ Kept 0x200000000 s t :=
  ⟨_, rfl, State.spLink_kept (Within.self _) (Kept.refl _ s) ..⟩

end Sys2Proof.Machine
end

