-- ==== Sys2Proof/Laws/State.lean ====
section
/-! SUPPORT. The laws of the updates of the state: what each leaves alone, field by field, and what a unit reads as after its own. -/
namespace Sys2Proof.Machine
variable (s : State)

@[simp] theorem State.pending_updPage (p : PageId) (f : Page → Page) : (s.updPage p f).pending = s.pending := rfl
@[simp] theorem State.bclk_updPage (p : PageId) (f : Page → Page) : (s.updPage p f).bclk = s.bclk := rfl
@[simp] theorem State.locked_updPage (p : PageId) (f : Page → Page) : (s.updPage p f).locked = s.locked := rfl
@[simp] theorem State.bin_updPage (p : PageId) (f : Page → Page) : (s.updPage p f).bin = s.bin := rfl
@[simp] theorem State.esc_updPage (p : PageId) (f : Page → Page) : (s.updPage p f).esc = s.esc := rfl
@[simp] theorem State.blk_updPage (p : PageId) (f : Page → Page) : (s.updPage p f).blk = s.blk := rfl
@[simp] theorem State.map_updPage (p : PageId) (f : Page → Page) : (s.updPage p f).map = s.map := rfl
@[simp] theorem State.gws_updPage (p : PageId) (f : Page → Page) : (s.updPage p f).gws = s.gws := rfl
@[simp] theorem State.subs_updPage (p : PageId) (f : Page → Page) : (s.updPage p f).subs = s.subs := rfl
@[simp] theorem State.chans_updPage (p : PageId) (f : Page → Page) : (s.updPage p f).chans = s.chans := rfl
@[simp] theorem State.mem_updPage (p : PageId) (f : Page → Page) : (s.updPage p f).mem = s.mem := rfl
@[simp] theorem State.pkts_updPage (p : PageId) (f : Page → Page) : (s.updPage p f).pkts = s.pkts := rfl
@[simp] theorem State.nodeFree_updPage (p : PageId) (f : Page → Page) : (s.updPage p f).nodeFree = s.nodeFree := rfl
@[simp] theorem State.nextSn_updPage (p : PageId) (f : Page → Page) : (s.updPage p f).nextSn = s.nextSn := rfl
@[simp] theorem State.nextFree_updPage (p : PageId) (f : Page → Page) : (s.updPage p f).nextFree = s.nextFree := rfl
@[simp] theorem State.trt_updPage (p : PageId) (f : Page → Page) : (s.updPage p f).trt = s.trt := rfl
@[simp] theorem State.cnts_updPage (p : PageId) (f : Page → Page) : (s.updPage p f).cnts = s.cnts := rfl
@[simp] theorem State.gens_updPage (p : PageId) (f : Page → Page) : (s.updPage p f).gens = s.gens := rfl
@[simp] theorem State.genAt_updPage (p : PageId) (f : Page → Page) : (s.updPage p f).genAt = s.genAt := rfl
@[simp] theorem State.crnPreempt_updPage (p : PageId) (f : Page → Page) : (s.updPage p f).crnPreempt = s.crnPreempt := rfl
@[simp] theorem State.ins_updPage (p : PageId) (f : Page → Page) : (s.updPage p f).ins = s.ins := rfl
@[simp] theorem State.insStage_updPage (p : PageId) (f : Page → Page) : (s.updPage p f).insStage = s.insStage := rfl
@[simp] theorem State.cals_updPage (p : PageId) (f : Page → Page) : (s.updPage p f).cals = s.cals := rfl
@[simp] theorem State.calrefs_updPage (p : PageId) (f : Page → Page) : (s.updPage p f).calrefs = s.calrefs := rfl
@[simp] theorem State.jwl_updPage (p : PageId) (f : Page → Page) : (s.updPage p f).jwl = s.jwl := rfl
@[simp] theorem State.rings_updPage (p : PageId) (f : Page → Page) : (s.updPage p f).rings = s.rings := rfl
@[simp] theorem State.les_updPage (p : PageId) (f : Page → Page) : (s.updPage p f).les = s.les := rfl
@[simp] theorem State.bells_updPage (p : PageId) (f : Page → Page) : (s.updPage p f).bells = s.bells := rfl
@[simp] theorem State.pool_updPage (p : PageId) (f : Page → Page) : (s.updPage p f).pool = s.pool := rfl
@[simp] theorem State.mvc_updPage (p : PageId) (f : Page → Page) : (s.updPage p f).mvc = s.mvc := rfl
@[simp] theorem State.copy_updPage (p : PageId) (f : Page → Page) : (s.updPage p f).copy = s.copy := rfl
@[simp] theorem State.task_updPage (p : PageId) (f : Page → Page) : (s.updPage p f).task = s.task := rfl
@[simp] theorem State.therm_updPage (p : PageId) (f : Page → Page) : (s.updPage p f).therm = s.therm := rfl
@[simp] theorem State.crn_updPage (p : PageId) (f : Page → Page) : (s.updPage p f).crn = s.crn := rfl
@[simp] theorem State.rtrs_updPage (p : PageId) (f : Page → Page) : (s.updPage p f).rtrs = s.rtrs := rfl
@[simp] theorem State.phase_updPage (p : PageId) (f : Page → Page) : (s.updPage p f).phase = s.phase := rfl
@[simp] theorem State.warm_updPage (p : PageId) (f : Page → Page) : (s.updPage p f).warm = s.warm := rfl
@[simp] theorem State.chRstDenied_updPage (p : PageId) (f : Page → Page) : (s.updPage p f).chRstDenied = s.chRstDenied := rfl
@[simp] theorem State.fillSkipped_updPage (p : PageId) (f : Page → Page) : (s.updPage p f).fillSkipped = s.fillSkipped := rfl
@[simp] theorem State.plat_updPage (p : PageId) (f : Page → Page) : (s.updPage p f).plat = s.plat := rfl
@[simp] theorem State.startCfg_updPage (p : PageId) (f : Page → Page) : (s.updPage p f).startCfg = s.startCfg := rfl
@[simp] theorem State.filling_updPage (p : PageId) (f : Page → Page) : (s.updPage p f).filling = s.filling := rfl
@[simp] theorem State.refSpd_updPage (p : PageId) (f : Page → Page) : (s.updPage p f).refSpd = s.refSpd := rfl
@[simp] theorem State.tst_updPage (p : PageId) (f : Page → Page) : (s.updPage p f).tst = s.tst := rfl

@[simp] theorem State.pending_updGw (g : Nat) (f : Gw → Gw) : (s.updGw g f).pending = s.pending := rfl
@[simp] theorem State.bclk_updGw (g : Nat) (f : Gw → Gw) : (s.updGw g f).bclk = s.bclk := rfl
@[simp] theorem State.locked_updGw (g : Nat) (f : Gw → Gw) : (s.updGw g f).locked = s.locked := rfl
@[simp] theorem State.bin_updGw (g : Nat) (f : Gw → Gw) : (s.updGw g f).bin = s.bin := rfl
@[simp] theorem State.esc_updGw (g : Nat) (f : Gw → Gw) : (s.updGw g f).esc = s.esc := rfl
@[simp] theorem State.pages_updGw (g : Nat) (f : Gw → Gw) : (s.updGw g f).pages = s.pages := rfl
@[simp] theorem State.blk_updGw (g : Nat) (f : Gw → Gw) : (s.updGw g f).blk = s.blk := rfl
@[simp] theorem State.map_updGw (g : Nat) (f : Gw → Gw) : (s.updGw g f).map = s.map := rfl
@[simp] theorem State.subs_updGw (g : Nat) (f : Gw → Gw) : (s.updGw g f).subs = s.subs := rfl
@[simp] theorem State.chans_updGw (g : Nat) (f : Gw → Gw) : (s.updGw g f).chans = s.chans := rfl
@[simp] theorem State.mem_updGw (g : Nat) (f : Gw → Gw) : (s.updGw g f).mem = s.mem := rfl
@[simp] theorem State.pkts_updGw (g : Nat) (f : Gw → Gw) : (s.updGw g f).pkts = s.pkts := rfl
@[simp] theorem State.nodeFree_updGw (g : Nat) (f : Gw → Gw) : (s.updGw g f).nodeFree = s.nodeFree := rfl
@[simp] theorem State.nextSn_updGw (g : Nat) (f : Gw → Gw) : (s.updGw g f).nextSn = s.nextSn := rfl
@[simp] theorem State.nextFree_updGw (g : Nat) (f : Gw → Gw) : (s.updGw g f).nextFree = s.nextFree := rfl
@[simp] theorem State.trt_updGw (g : Nat) (f : Gw → Gw) : (s.updGw g f).trt = s.trt := rfl
@[simp] theorem State.cnts_updGw (g : Nat) (f : Gw → Gw) : (s.updGw g f).cnts = s.cnts := rfl
@[simp] theorem State.gens_updGw (g : Nat) (f : Gw → Gw) : (s.updGw g f).gens = s.gens := rfl
@[simp] theorem State.genAt_updGw (g : Nat) (f : Gw → Gw) : (s.updGw g f).genAt = s.genAt := rfl
@[simp] theorem State.crnPreempt_updGw (g : Nat) (f : Gw → Gw) : (s.updGw g f).crnPreempt = s.crnPreempt := rfl
@[simp] theorem State.ins_updGw (g : Nat) (f : Gw → Gw) : (s.updGw g f).ins = s.ins := rfl
@[simp] theorem State.insStage_updGw (g : Nat) (f : Gw → Gw) : (s.updGw g f).insStage = s.insStage := rfl
@[simp] theorem State.cals_updGw (g : Nat) (f : Gw → Gw) : (s.updGw g f).cals = s.cals := rfl
@[simp] theorem State.calrefs_updGw (g : Nat) (f : Gw → Gw) : (s.updGw g f).calrefs = s.calrefs := rfl
@[simp] theorem State.jwl_updGw (g : Nat) (f : Gw → Gw) : (s.updGw g f).jwl = s.jwl := rfl
@[simp] theorem State.rings_updGw (g : Nat) (f : Gw → Gw) : (s.updGw g f).rings = s.rings := rfl
@[simp] theorem State.les_updGw (g : Nat) (f : Gw → Gw) : (s.updGw g f).les = s.les := rfl
@[simp] theorem State.bells_updGw (g : Nat) (f : Gw → Gw) : (s.updGw g f).bells = s.bells := rfl
@[simp] theorem State.pool_updGw (g : Nat) (f : Gw → Gw) : (s.updGw g f).pool = s.pool := rfl
@[simp] theorem State.mvc_updGw (g : Nat) (f : Gw → Gw) : (s.updGw g f).mvc = s.mvc := rfl
@[simp] theorem State.copy_updGw (g : Nat) (f : Gw → Gw) : (s.updGw g f).copy = s.copy := rfl
@[simp] theorem State.task_updGw (g : Nat) (f : Gw → Gw) : (s.updGw g f).task = s.task := rfl
@[simp] theorem State.therm_updGw (g : Nat) (f : Gw → Gw) : (s.updGw g f).therm = s.therm := rfl
@[simp] theorem State.crn_updGw (g : Nat) (f : Gw → Gw) : (s.updGw g f).crn = s.crn := rfl
@[simp] theorem State.rtrs_updGw (g : Nat) (f : Gw → Gw) : (s.updGw g f).rtrs = s.rtrs := rfl
@[simp] theorem State.phase_updGw (g : Nat) (f : Gw → Gw) : (s.updGw g f).phase = s.phase := rfl
@[simp] theorem State.warm_updGw (g : Nat) (f : Gw → Gw) : (s.updGw g f).warm = s.warm := rfl
@[simp] theorem State.chRstDenied_updGw (g : Nat) (f : Gw → Gw) : (s.updGw g f).chRstDenied = s.chRstDenied := rfl
@[simp] theorem State.fillSkipped_updGw (g : Nat) (f : Gw → Gw) : (s.updGw g f).fillSkipped = s.fillSkipped := rfl
@[simp] theorem State.plat_updGw (g : Nat) (f : Gw → Gw) : (s.updGw g f).plat = s.plat := rfl
@[simp] theorem State.startCfg_updGw (g : Nat) (f : Gw → Gw) : (s.updGw g f).startCfg = s.startCfg := rfl
@[simp] theorem State.filling_updGw (g : Nat) (f : Gw → Gw) : (s.updGw g f).filling = s.filling := rfl
@[simp] theorem State.refSpd_updGw (g : Nat) (f : Gw → Gw) : (s.updGw g f).refSpd = s.refSpd := rfl
@[simp] theorem State.tst_updGw (g : Nat) (f : Gw → Gw) : (s.updGw g f).tst = s.tst := rfl

@[simp] theorem State.pending_updChan (c : Nat) (f : Chan → Chan) : (s.updChan c f).pending = s.pending := rfl
@[simp] theorem State.bclk_updChan (c : Nat) (f : Chan → Chan) : (s.updChan c f).bclk = s.bclk := rfl
@[simp] theorem State.locked_updChan (c : Nat) (f : Chan → Chan) : (s.updChan c f).locked = s.locked := rfl
@[simp] theorem State.bin_updChan (c : Nat) (f : Chan → Chan) : (s.updChan c f).bin = s.bin := rfl
@[simp] theorem State.esc_updChan (c : Nat) (f : Chan → Chan) : (s.updChan c f).esc = s.esc := rfl
@[simp] theorem State.pages_updChan (c : Nat) (f : Chan → Chan) : (s.updChan c f).pages = s.pages := rfl
@[simp] theorem State.blk_updChan (c : Nat) (f : Chan → Chan) : (s.updChan c f).blk = s.blk := rfl
@[simp] theorem State.map_updChan (c : Nat) (f : Chan → Chan) : (s.updChan c f).map = s.map := rfl
@[simp] theorem State.gws_updChan (c : Nat) (f : Chan → Chan) : (s.updChan c f).gws = s.gws := rfl
@[simp] theorem State.subs_updChan (c : Nat) (f : Chan → Chan) : (s.updChan c f).subs = s.subs := rfl
@[simp] theorem State.mem_updChan (c : Nat) (f : Chan → Chan) : (s.updChan c f).mem = s.mem := rfl
@[simp] theorem State.pkts_updChan (c : Nat) (f : Chan → Chan) : (s.updChan c f).pkts = s.pkts := rfl
@[simp] theorem State.nodeFree_updChan (c : Nat) (f : Chan → Chan) : (s.updChan c f).nodeFree = s.nodeFree := rfl
@[simp] theorem State.nextSn_updChan (c : Nat) (f : Chan → Chan) : (s.updChan c f).nextSn = s.nextSn := rfl
@[simp] theorem State.nextFree_updChan (c : Nat) (f : Chan → Chan) : (s.updChan c f).nextFree = s.nextFree := rfl
@[simp] theorem State.trt_updChan (c : Nat) (f : Chan → Chan) : (s.updChan c f).trt = s.trt := rfl
@[simp] theorem State.cnts_updChan (c : Nat) (f : Chan → Chan) : (s.updChan c f).cnts = s.cnts := rfl
@[simp] theorem State.gens_updChan (c : Nat) (f : Chan → Chan) : (s.updChan c f).gens = s.gens := rfl
@[simp] theorem State.genAt_updChan (c : Nat) (f : Chan → Chan) : (s.updChan c f).genAt = s.genAt := rfl
@[simp] theorem State.crnPreempt_updChan (c : Nat) (f : Chan → Chan) : (s.updChan c f).crnPreempt = s.crnPreempt := rfl
@[simp] theorem State.ins_updChan (c : Nat) (f : Chan → Chan) : (s.updChan c f).ins = s.ins := rfl
@[simp] theorem State.insStage_updChan (c : Nat) (f : Chan → Chan) : (s.updChan c f).insStage = s.insStage := rfl
@[simp] theorem State.cals_updChan (c : Nat) (f : Chan → Chan) : (s.updChan c f).cals = s.cals := rfl
@[simp] theorem State.calrefs_updChan (c : Nat) (f : Chan → Chan) : (s.updChan c f).calrefs = s.calrefs := rfl
@[simp] theorem State.jwl_updChan (c : Nat) (f : Chan → Chan) : (s.updChan c f).jwl = s.jwl := rfl
@[simp] theorem State.rings_updChan (c : Nat) (f : Chan → Chan) : (s.updChan c f).rings = s.rings := rfl
@[simp] theorem State.les_updChan (c : Nat) (f : Chan → Chan) : (s.updChan c f).les = s.les := rfl
@[simp] theorem State.bells_updChan (c : Nat) (f : Chan → Chan) : (s.updChan c f).bells = s.bells := rfl
@[simp] theorem State.pool_updChan (c : Nat) (f : Chan → Chan) : (s.updChan c f).pool = s.pool := rfl
@[simp] theorem State.mvc_updChan (c : Nat) (f : Chan → Chan) : (s.updChan c f).mvc = s.mvc := rfl
@[simp] theorem State.copy_updChan (c : Nat) (f : Chan → Chan) : (s.updChan c f).copy = s.copy := rfl
@[simp] theorem State.task_updChan (c : Nat) (f : Chan → Chan) : (s.updChan c f).task = s.task := rfl
@[simp] theorem State.therm_updChan (c : Nat) (f : Chan → Chan) : (s.updChan c f).therm = s.therm := rfl
@[simp] theorem State.crn_updChan (c : Nat) (f : Chan → Chan) : (s.updChan c f).crn = s.crn := rfl
@[simp] theorem State.rtrs_updChan (c : Nat) (f : Chan → Chan) : (s.updChan c f).rtrs = s.rtrs := rfl
@[simp] theorem State.phase_updChan (c : Nat) (f : Chan → Chan) : (s.updChan c f).phase = s.phase := rfl
@[simp] theorem State.warm_updChan (c : Nat) (f : Chan → Chan) : (s.updChan c f).warm = s.warm := rfl
@[simp] theorem State.chRstDenied_updChan (c : Nat) (f : Chan → Chan) : (s.updChan c f).chRstDenied = s.chRstDenied := rfl
@[simp] theorem State.fillSkipped_updChan (c : Nat) (f : Chan → Chan) : (s.updChan c f).fillSkipped = s.fillSkipped := rfl
@[simp] theorem State.plat_updChan (c : Nat) (f : Chan → Chan) : (s.updChan c f).plat = s.plat := rfl
@[simp] theorem State.startCfg_updChan (c : Nat) (f : Chan → Chan) : (s.updChan c f).startCfg = s.startCfg := rfl
@[simp] theorem State.filling_updChan (c : Nat) (f : Chan → Chan) : (s.updChan c f).filling = s.filling := rfl
@[simp] theorem State.refSpd_updChan (c : Nat) (f : Chan → Chan) : (s.updChan c f).refSpd = s.refSpd := rfl
@[simp] theorem State.tst_updChan (c : Nat) (f : Chan → Chan) : (s.updChan c f).tst = s.tst := rfl

@[simp] theorem State.pending_updSub (c sc : Nat) (f : Sub → Sub) : (s.updSub c sc f).pending = s.pending := rfl
@[simp] theorem State.bclk_updSub (c sc : Nat) (f : Sub → Sub) : (s.updSub c sc f).bclk = s.bclk := rfl
@[simp] theorem State.locked_updSub (c sc : Nat) (f : Sub → Sub) : (s.updSub c sc f).locked = s.locked := rfl
@[simp] theorem State.bin_updSub (c sc : Nat) (f : Sub → Sub) : (s.updSub c sc f).bin = s.bin := rfl
@[simp] theorem State.esc_updSub (c sc : Nat) (f : Sub → Sub) : (s.updSub c sc f).esc = s.esc := rfl
@[simp] theorem State.pages_updSub (c sc : Nat) (f : Sub → Sub) : (s.updSub c sc f).pages = s.pages := rfl
@[simp] theorem State.blk_updSub (c sc : Nat) (f : Sub → Sub) : (s.updSub c sc f).blk = s.blk := rfl
@[simp] theorem State.map_updSub (c sc : Nat) (f : Sub → Sub) : (s.updSub c sc f).map = s.map := rfl
@[simp] theorem State.gws_updSub (c sc : Nat) (f : Sub → Sub) : (s.updSub c sc f).gws = s.gws := rfl
@[simp] theorem State.chans_updSub (c sc : Nat) (f : Sub → Sub) : (s.updSub c sc f).chans = s.chans := rfl
@[simp] theorem State.mem_updSub (c sc : Nat) (f : Sub → Sub) : (s.updSub c sc f).mem = s.mem := rfl
@[simp] theorem State.pkts_updSub (c sc : Nat) (f : Sub → Sub) : (s.updSub c sc f).pkts = s.pkts := rfl
@[simp] theorem State.nodeFree_updSub (c sc : Nat) (f : Sub → Sub) : (s.updSub c sc f).nodeFree = s.nodeFree := rfl
@[simp] theorem State.nextSn_updSub (c sc : Nat) (f : Sub → Sub) : (s.updSub c sc f).nextSn = s.nextSn := rfl
@[simp] theorem State.nextFree_updSub (c sc : Nat) (f : Sub → Sub) : (s.updSub c sc f).nextFree = s.nextFree := rfl
@[simp] theorem State.trt_updSub (c sc : Nat) (f : Sub → Sub) : (s.updSub c sc f).trt = s.trt := rfl
@[simp] theorem State.cnts_updSub (c sc : Nat) (f : Sub → Sub) : (s.updSub c sc f).cnts = s.cnts := rfl
@[simp] theorem State.gens_updSub (c sc : Nat) (f : Sub → Sub) : (s.updSub c sc f).gens = s.gens := rfl
@[simp] theorem State.genAt_updSub (c sc : Nat) (f : Sub → Sub) : (s.updSub c sc f).genAt = s.genAt := rfl
@[simp] theorem State.crnPreempt_updSub (c sc : Nat) (f : Sub → Sub) : (s.updSub c sc f).crnPreempt = s.crnPreempt := rfl
@[simp] theorem State.ins_updSub (c sc : Nat) (f : Sub → Sub) : (s.updSub c sc f).ins = s.ins := rfl
@[simp] theorem State.insStage_updSub (c sc : Nat) (f : Sub → Sub) : (s.updSub c sc f).insStage = s.insStage := rfl
@[simp] theorem State.cals_updSub (c sc : Nat) (f : Sub → Sub) : (s.updSub c sc f).cals = s.cals := rfl
@[simp] theorem State.calrefs_updSub (c sc : Nat) (f : Sub → Sub) : (s.updSub c sc f).calrefs = s.calrefs := rfl
@[simp] theorem State.jwl_updSub (c sc : Nat) (f : Sub → Sub) : (s.updSub c sc f).jwl = s.jwl := rfl
@[simp] theorem State.rings_updSub (c sc : Nat) (f : Sub → Sub) : (s.updSub c sc f).rings = s.rings := rfl
@[simp] theorem State.les_updSub (c sc : Nat) (f : Sub → Sub) : (s.updSub c sc f).les = s.les := rfl
@[simp] theorem State.bells_updSub (c sc : Nat) (f : Sub → Sub) : (s.updSub c sc f).bells = s.bells := rfl
@[simp] theorem State.pool_updSub (c sc : Nat) (f : Sub → Sub) : (s.updSub c sc f).pool = s.pool := rfl
@[simp] theorem State.mvc_updSub (c sc : Nat) (f : Sub → Sub) : (s.updSub c sc f).mvc = s.mvc := rfl
@[simp] theorem State.copy_updSub (c sc : Nat) (f : Sub → Sub) : (s.updSub c sc f).copy = s.copy := rfl
@[simp] theorem State.task_updSub (c sc : Nat) (f : Sub → Sub) : (s.updSub c sc f).task = s.task := rfl
@[simp] theorem State.therm_updSub (c sc : Nat) (f : Sub → Sub) : (s.updSub c sc f).therm = s.therm := rfl
@[simp] theorem State.crn_updSub (c sc : Nat) (f : Sub → Sub) : (s.updSub c sc f).crn = s.crn := rfl
@[simp] theorem State.rtrs_updSub (c sc : Nat) (f : Sub → Sub) : (s.updSub c sc f).rtrs = s.rtrs := rfl
@[simp] theorem State.phase_updSub (c sc : Nat) (f : Sub → Sub) : (s.updSub c sc f).phase = s.phase := rfl
@[simp] theorem State.warm_updSub (c sc : Nat) (f : Sub → Sub) : (s.updSub c sc f).warm = s.warm := rfl
@[simp] theorem State.chRstDenied_updSub (c sc : Nat) (f : Sub → Sub) : (s.updSub c sc f).chRstDenied = s.chRstDenied := rfl
@[simp] theorem State.fillSkipped_updSub (c sc : Nat) (f : Sub → Sub) : (s.updSub c sc f).fillSkipped = s.fillSkipped := rfl
@[simp] theorem State.plat_updSub (c sc : Nat) (f : Sub → Sub) : (s.updSub c sc f).plat = s.plat := rfl
@[simp] theorem State.startCfg_updSub (c sc : Nat) (f : Sub → Sub) : (s.updSub c sc f).startCfg = s.startCfg := rfl
@[simp] theorem State.filling_updSub (c sc : Nat) (f : Sub → Sub) : (s.updSub c sc f).filling = s.filling := rfl
@[simp] theorem State.refSpd_updSub (c sc : Nat) (f : Sub → Sub) : (s.updSub c sc f).refSpd = s.refSpd := rfl
@[simp] theorem State.tst_updSub (c sc : Nat) (f : Sub → Sub) : (s.updSub c sc f).tst = s.tst := rfl

@[simp] theorem State.pending_updRtr (n : Nat) (f : Rtr → Rtr) : (s.updRtr n f).pending = s.pending := rfl
@[simp] theorem State.bclk_updRtr (n : Nat) (f : Rtr → Rtr) : (s.updRtr n f).bclk = s.bclk := rfl
@[simp] theorem State.locked_updRtr (n : Nat) (f : Rtr → Rtr) : (s.updRtr n f).locked = s.locked := rfl
@[simp] theorem State.bin_updRtr (n : Nat) (f : Rtr → Rtr) : (s.updRtr n f).bin = s.bin := rfl
@[simp] theorem State.esc_updRtr (n : Nat) (f : Rtr → Rtr) : (s.updRtr n f).esc = s.esc := rfl
@[simp] theorem State.pages_updRtr (n : Nat) (f : Rtr → Rtr) : (s.updRtr n f).pages = s.pages := rfl
@[simp] theorem State.blk_updRtr (n : Nat) (f : Rtr → Rtr) : (s.updRtr n f).blk = s.blk := rfl
@[simp] theorem State.map_updRtr (n : Nat) (f : Rtr → Rtr) : (s.updRtr n f).map = s.map := rfl
@[simp] theorem State.gws_updRtr (n : Nat) (f : Rtr → Rtr) : (s.updRtr n f).gws = s.gws := rfl
@[simp] theorem State.subs_updRtr (n : Nat) (f : Rtr → Rtr) : (s.updRtr n f).subs = s.subs := rfl
@[simp] theorem State.chans_updRtr (n : Nat) (f : Rtr → Rtr) : (s.updRtr n f).chans = s.chans := rfl
@[simp] theorem State.mem_updRtr (n : Nat) (f : Rtr → Rtr) : (s.updRtr n f).mem = s.mem := rfl
@[simp] theorem State.pkts_updRtr (n : Nat) (f : Rtr → Rtr) : (s.updRtr n f).pkts = s.pkts := rfl
@[simp] theorem State.nodeFree_updRtr (n : Nat) (f : Rtr → Rtr) : (s.updRtr n f).nodeFree = s.nodeFree := rfl
@[simp] theorem State.nextSn_updRtr (n : Nat) (f : Rtr → Rtr) : (s.updRtr n f).nextSn = s.nextSn := rfl
@[simp] theorem State.nextFree_updRtr (n : Nat) (f : Rtr → Rtr) : (s.updRtr n f).nextFree = s.nextFree := rfl
@[simp] theorem State.trt_updRtr (n : Nat) (f : Rtr → Rtr) : (s.updRtr n f).trt = s.trt := rfl
@[simp] theorem State.cnts_updRtr (n : Nat) (f : Rtr → Rtr) : (s.updRtr n f).cnts = s.cnts := rfl
@[simp] theorem State.gens_updRtr (n : Nat) (f : Rtr → Rtr) : (s.updRtr n f).gens = s.gens := rfl
@[simp] theorem State.genAt_updRtr (n : Nat) (f : Rtr → Rtr) : (s.updRtr n f).genAt = s.genAt := rfl
@[simp] theorem State.crnPreempt_updRtr (n : Nat) (f : Rtr → Rtr) : (s.updRtr n f).crnPreempt = s.crnPreempt := rfl
@[simp] theorem State.ins_updRtr (n : Nat) (f : Rtr → Rtr) : (s.updRtr n f).ins = s.ins := rfl
@[simp] theorem State.insStage_updRtr (n : Nat) (f : Rtr → Rtr) : (s.updRtr n f).insStage = s.insStage := rfl
@[simp] theorem State.cals_updRtr (n : Nat) (f : Rtr → Rtr) : (s.updRtr n f).cals = s.cals := rfl
@[simp] theorem State.calrefs_updRtr (n : Nat) (f : Rtr → Rtr) : (s.updRtr n f).calrefs = s.calrefs := rfl
@[simp] theorem State.jwl_updRtr (n : Nat) (f : Rtr → Rtr) : (s.updRtr n f).jwl = s.jwl := rfl
@[simp] theorem State.rings_updRtr (n : Nat) (f : Rtr → Rtr) : (s.updRtr n f).rings = s.rings := rfl
@[simp] theorem State.les_updRtr (n : Nat) (f : Rtr → Rtr) : (s.updRtr n f).les = s.les := rfl
@[simp] theorem State.bells_updRtr (n : Nat) (f : Rtr → Rtr) : (s.updRtr n f).bells = s.bells := rfl
@[simp] theorem State.pool_updRtr (n : Nat) (f : Rtr → Rtr) : (s.updRtr n f).pool = s.pool := rfl
@[simp] theorem State.mvc_updRtr (n : Nat) (f : Rtr → Rtr) : (s.updRtr n f).mvc = s.mvc := rfl
@[simp] theorem State.copy_updRtr (n : Nat) (f : Rtr → Rtr) : (s.updRtr n f).copy = s.copy := rfl
@[simp] theorem State.task_updRtr (n : Nat) (f : Rtr → Rtr) : (s.updRtr n f).task = s.task := rfl
@[simp] theorem State.therm_updRtr (n : Nat) (f : Rtr → Rtr) : (s.updRtr n f).therm = s.therm := rfl
@[simp] theorem State.crn_updRtr (n : Nat) (f : Rtr → Rtr) : (s.updRtr n f).crn = s.crn := rfl
@[simp] theorem State.phase_updRtr (n : Nat) (f : Rtr → Rtr) : (s.updRtr n f).phase = s.phase := rfl
@[simp] theorem State.warm_updRtr (n : Nat) (f : Rtr → Rtr) : (s.updRtr n f).warm = s.warm := rfl
@[simp] theorem State.chRstDenied_updRtr (n : Nat) (f : Rtr → Rtr) : (s.updRtr n f).chRstDenied = s.chRstDenied := rfl
@[simp] theorem State.fillSkipped_updRtr (n : Nat) (f : Rtr → Rtr) : (s.updRtr n f).fillSkipped = s.fillSkipped := rfl
@[simp] theorem State.plat_updRtr (n : Nat) (f : Rtr → Rtr) : (s.updRtr n f).plat = s.plat := rfl
@[simp] theorem State.startCfg_updRtr (n : Nat) (f : Rtr → Rtr) : (s.updRtr n f).startCfg = s.startCfg := rfl
@[simp] theorem State.filling_updRtr (n : Nat) (f : Rtr → Rtr) : (s.updRtr n f).filling = s.filling := rfl
@[simp] theorem State.refSpd_updRtr (n : Nat) (f : Rtr → Rtr) : (s.updRtr n f).refSpd = s.refSpd := rfl
@[simp] theorem State.tst_updRtr (n : Nat) (f : Rtr → Rtr) : (s.updRtr n f).tst = s.tst := rfl

@[simp] theorem State.pending_updLe (e : Nat) (f : Le → Le) : (s.updLe e f).pending = s.pending := rfl
@[simp] theorem State.bclk_updLe (e : Nat) (f : Le → Le) : (s.updLe e f).bclk = s.bclk := rfl
@[simp] theorem State.locked_updLe (e : Nat) (f : Le → Le) : (s.updLe e f).locked = s.locked := rfl
@[simp] theorem State.bin_updLe (e : Nat) (f : Le → Le) : (s.updLe e f).bin = s.bin := rfl
@[simp] theorem State.esc_updLe (e : Nat) (f : Le → Le) : (s.updLe e f).esc = s.esc := rfl
@[simp] theorem State.pages_updLe (e : Nat) (f : Le → Le) : (s.updLe e f).pages = s.pages := rfl
@[simp] theorem State.blk_updLe (e : Nat) (f : Le → Le) : (s.updLe e f).blk = s.blk := rfl
@[simp] theorem State.map_updLe (e : Nat) (f : Le → Le) : (s.updLe e f).map = s.map := rfl
@[simp] theorem State.gws_updLe (e : Nat) (f : Le → Le) : (s.updLe e f).gws = s.gws := rfl
@[simp] theorem State.subs_updLe (e : Nat) (f : Le → Le) : (s.updLe e f).subs = s.subs := rfl
@[simp] theorem State.chans_updLe (e : Nat) (f : Le → Le) : (s.updLe e f).chans = s.chans := rfl
@[simp] theorem State.mem_updLe (e : Nat) (f : Le → Le) : (s.updLe e f).mem = s.mem := rfl
@[simp] theorem State.pkts_updLe (e : Nat) (f : Le → Le) : (s.updLe e f).pkts = s.pkts := rfl
@[simp] theorem State.nodeFree_updLe (e : Nat) (f : Le → Le) : (s.updLe e f).nodeFree = s.nodeFree := rfl
@[simp] theorem State.nextSn_updLe (e : Nat) (f : Le → Le) : (s.updLe e f).nextSn = s.nextSn := rfl
@[simp] theorem State.nextFree_updLe (e : Nat) (f : Le → Le) : (s.updLe e f).nextFree = s.nextFree := rfl
@[simp] theorem State.trt_updLe (e : Nat) (f : Le → Le) : (s.updLe e f).trt = s.trt := rfl
@[simp] theorem State.cnts_updLe (e : Nat) (f : Le → Le) : (s.updLe e f).cnts = s.cnts := rfl
@[simp] theorem State.gens_updLe (e : Nat) (f : Le → Le) : (s.updLe e f).gens = s.gens := rfl
@[simp] theorem State.genAt_updLe (e : Nat) (f : Le → Le) : (s.updLe e f).genAt = s.genAt := rfl
@[simp] theorem State.crnPreempt_updLe (e : Nat) (f : Le → Le) : (s.updLe e f).crnPreempt = s.crnPreempt := rfl
@[simp] theorem State.ins_updLe (e : Nat) (f : Le → Le) : (s.updLe e f).ins = s.ins := rfl
@[simp] theorem State.insStage_updLe (e : Nat) (f : Le → Le) : (s.updLe e f).insStage = s.insStage := rfl
@[simp] theorem State.cals_updLe (e : Nat) (f : Le → Le) : (s.updLe e f).cals = s.cals := rfl
@[simp] theorem State.calrefs_updLe (e : Nat) (f : Le → Le) : (s.updLe e f).calrefs = s.calrefs := rfl
@[simp] theorem State.jwl_updLe (e : Nat) (f : Le → Le) : (s.updLe e f).jwl = s.jwl := rfl
@[simp] theorem State.rings_updLe (e : Nat) (f : Le → Le) : (s.updLe e f).rings = s.rings := rfl
@[simp] theorem State.bells_updLe (e : Nat) (f : Le → Le) : (s.updLe e f).bells = s.bells := rfl
@[simp] theorem State.pool_updLe (e : Nat) (f : Le → Le) : (s.updLe e f).pool = s.pool := rfl
@[simp] theorem State.mvc_updLe (e : Nat) (f : Le → Le) : (s.updLe e f).mvc = s.mvc := rfl
@[simp] theorem State.copy_updLe (e : Nat) (f : Le → Le) : (s.updLe e f).copy = s.copy := rfl
@[simp] theorem State.task_updLe (e : Nat) (f : Le → Le) : (s.updLe e f).task = s.task := rfl
@[simp] theorem State.therm_updLe (e : Nat) (f : Le → Le) : (s.updLe e f).therm = s.therm := rfl
@[simp] theorem State.crn_updLe (e : Nat) (f : Le → Le) : (s.updLe e f).crn = s.crn := rfl
@[simp] theorem State.rtrs_updLe (e : Nat) (f : Le → Le) : (s.updLe e f).rtrs = s.rtrs := rfl
@[simp] theorem State.phase_updLe (e : Nat) (f : Le → Le) : (s.updLe e f).phase = s.phase := rfl
@[simp] theorem State.warm_updLe (e : Nat) (f : Le → Le) : (s.updLe e f).warm = s.warm := rfl
@[simp] theorem State.chRstDenied_updLe (e : Nat) (f : Le → Le) : (s.updLe e f).chRstDenied = s.chRstDenied := rfl
@[simp] theorem State.fillSkipped_updLe (e : Nat) (f : Le → Le) : (s.updLe e f).fillSkipped = s.fillSkipped := rfl
@[simp] theorem State.plat_updLe (e : Nat) (f : Le → Le) : (s.updLe e f).plat = s.plat := rfl
@[simp] theorem State.startCfg_updLe (e : Nat) (f : Le → Le) : (s.updLe e f).startCfg = s.startCfg := rfl
@[simp] theorem State.filling_updLe (e : Nat) (f : Le → Le) : (s.updLe e f).filling = s.filling := rfl
@[simp] theorem State.refSpd_updLe (e : Nat) (f : Le → Le) : (s.updLe e f).refSpd = s.refSpd := rfl
@[simp] theorem State.tst_updLe (e : Nat) (f : Le → Le) : (s.updLe e f).tst = s.tst := rfl

@[simp] theorem State.pending_updCnt (b : Nat) (f : Cnt → Cnt) : (s.updCnt b f).pending = s.pending := rfl
@[simp] theorem State.bclk_updCnt (b : Nat) (f : Cnt → Cnt) : (s.updCnt b f).bclk = s.bclk := rfl
@[simp] theorem State.locked_updCnt (b : Nat) (f : Cnt → Cnt) : (s.updCnt b f).locked = s.locked := rfl
@[simp] theorem State.bin_updCnt (b : Nat) (f : Cnt → Cnt) : (s.updCnt b f).bin = s.bin := rfl
@[simp] theorem State.esc_updCnt (b : Nat) (f : Cnt → Cnt) : (s.updCnt b f).esc = s.esc := rfl
@[simp] theorem State.pages_updCnt (b : Nat) (f : Cnt → Cnt) : (s.updCnt b f).pages = s.pages := rfl
@[simp] theorem State.blk_updCnt (b : Nat) (f : Cnt → Cnt) : (s.updCnt b f).blk = s.blk := rfl
@[simp] theorem State.map_updCnt (b : Nat) (f : Cnt → Cnt) : (s.updCnt b f).map = s.map := rfl
@[simp] theorem State.gws_updCnt (b : Nat) (f : Cnt → Cnt) : (s.updCnt b f).gws = s.gws := rfl
@[simp] theorem State.subs_updCnt (b : Nat) (f : Cnt → Cnt) : (s.updCnt b f).subs = s.subs := rfl
@[simp] theorem State.chans_updCnt (b : Nat) (f : Cnt → Cnt) : (s.updCnt b f).chans = s.chans := rfl
@[simp] theorem State.mem_updCnt (b : Nat) (f : Cnt → Cnt) : (s.updCnt b f).mem = s.mem := rfl
@[simp] theorem State.pkts_updCnt (b : Nat) (f : Cnt → Cnt) : (s.updCnt b f).pkts = s.pkts := rfl
@[simp] theorem State.nodeFree_updCnt (b : Nat) (f : Cnt → Cnt) : (s.updCnt b f).nodeFree = s.nodeFree := rfl
@[simp] theorem State.nextSn_updCnt (b : Nat) (f : Cnt → Cnt) : (s.updCnt b f).nextSn = s.nextSn := rfl
@[simp] theorem State.nextFree_updCnt (b : Nat) (f : Cnt → Cnt) : (s.updCnt b f).nextFree = s.nextFree := rfl
@[simp] theorem State.trt_updCnt (b : Nat) (f : Cnt → Cnt) : (s.updCnt b f).trt = s.trt := rfl
@[simp] theorem State.gens_updCnt (b : Nat) (f : Cnt → Cnt) : (s.updCnt b f).gens = s.gens := rfl
@[simp] theorem State.genAt_updCnt (b : Nat) (f : Cnt → Cnt) : (s.updCnt b f).genAt = s.genAt := rfl
@[simp] theorem State.crnPreempt_updCnt (b : Nat) (f : Cnt → Cnt) : (s.updCnt b f).crnPreempt = s.crnPreempt := rfl
@[simp] theorem State.ins_updCnt (b : Nat) (f : Cnt → Cnt) : (s.updCnt b f).ins = s.ins := rfl
@[simp] theorem State.insStage_updCnt (b : Nat) (f : Cnt → Cnt) : (s.updCnt b f).insStage = s.insStage := rfl
@[simp] theorem State.cals_updCnt (b : Nat) (f : Cnt → Cnt) : (s.updCnt b f).cals = s.cals := rfl
@[simp] theorem State.calrefs_updCnt (b : Nat) (f : Cnt → Cnt) : (s.updCnt b f).calrefs = s.calrefs := rfl
@[simp] theorem State.jwl_updCnt (b : Nat) (f : Cnt → Cnt) : (s.updCnt b f).jwl = s.jwl := rfl
@[simp] theorem State.rings_updCnt (b : Nat) (f : Cnt → Cnt) : (s.updCnt b f).rings = s.rings := rfl
@[simp] theorem State.les_updCnt (b : Nat) (f : Cnt → Cnt) : (s.updCnt b f).les = s.les := rfl
@[simp] theorem State.bells_updCnt (b : Nat) (f : Cnt → Cnt) : (s.updCnt b f).bells = s.bells := rfl
@[simp] theorem State.pool_updCnt (b : Nat) (f : Cnt → Cnt) : (s.updCnt b f).pool = s.pool := rfl
@[simp] theorem State.mvc_updCnt (b : Nat) (f : Cnt → Cnt) : (s.updCnt b f).mvc = s.mvc := rfl
@[simp] theorem State.copy_updCnt (b : Nat) (f : Cnt → Cnt) : (s.updCnt b f).copy = s.copy := rfl
@[simp] theorem State.task_updCnt (b : Nat) (f : Cnt → Cnt) : (s.updCnt b f).task = s.task := rfl
@[simp] theorem State.therm_updCnt (b : Nat) (f : Cnt → Cnt) : (s.updCnt b f).therm = s.therm := rfl
@[simp] theorem State.crn_updCnt (b : Nat) (f : Cnt → Cnt) : (s.updCnt b f).crn = s.crn := rfl
@[simp] theorem State.rtrs_updCnt (b : Nat) (f : Cnt → Cnt) : (s.updCnt b f).rtrs = s.rtrs := rfl
@[simp] theorem State.phase_updCnt (b : Nat) (f : Cnt → Cnt) : (s.updCnt b f).phase = s.phase := rfl
@[simp] theorem State.warm_updCnt (b : Nat) (f : Cnt → Cnt) : (s.updCnt b f).warm = s.warm := rfl
@[simp] theorem State.chRstDenied_updCnt (b : Nat) (f : Cnt → Cnt) : (s.updCnt b f).chRstDenied = s.chRstDenied := rfl
@[simp] theorem State.fillSkipped_updCnt (b : Nat) (f : Cnt → Cnt) : (s.updCnt b f).fillSkipped = s.fillSkipped := rfl
@[simp] theorem State.plat_updCnt (b : Nat) (f : Cnt → Cnt) : (s.updCnt b f).plat = s.plat := rfl
@[simp] theorem State.startCfg_updCnt (b : Nat) (f : Cnt → Cnt) : (s.updCnt b f).startCfg = s.startCfg := rfl
@[simp] theorem State.filling_updCnt (b : Nat) (f : Cnt → Cnt) : (s.updCnt b f).filling = s.filling := rfl
@[simp] theorem State.refSpd_updCnt (b : Nat) (f : Cnt → Cnt) : (s.updCnt b f).refSpd = s.refSpd := rfl
@[simp] theorem State.tst_updCnt (b : Nat) (f : Cnt → Cnt) : (s.updCnt b f).tst = s.tst := rfl

@[simp] theorem State.pending_updIns (i : Nat) (f : Ins → Ins) : (s.updIns i f).pending = s.pending := rfl
@[simp] theorem State.bclk_updIns (i : Nat) (f : Ins → Ins) : (s.updIns i f).bclk = s.bclk := rfl
@[simp] theorem State.locked_updIns (i : Nat) (f : Ins → Ins) : (s.updIns i f).locked = s.locked := rfl
@[simp] theorem State.bin_updIns (i : Nat) (f : Ins → Ins) : (s.updIns i f).bin = s.bin := rfl
@[simp] theorem State.esc_updIns (i : Nat) (f : Ins → Ins) : (s.updIns i f).esc = s.esc := rfl
@[simp] theorem State.pages_updIns (i : Nat) (f : Ins → Ins) : (s.updIns i f).pages = s.pages := rfl
@[simp] theorem State.blk_updIns (i : Nat) (f : Ins → Ins) : (s.updIns i f).blk = s.blk := rfl
@[simp] theorem State.map_updIns (i : Nat) (f : Ins → Ins) : (s.updIns i f).map = s.map := rfl
@[simp] theorem State.gws_updIns (i : Nat) (f : Ins → Ins) : (s.updIns i f).gws = s.gws := rfl
@[simp] theorem State.subs_updIns (i : Nat) (f : Ins → Ins) : (s.updIns i f).subs = s.subs := rfl
@[simp] theorem State.chans_updIns (i : Nat) (f : Ins → Ins) : (s.updIns i f).chans = s.chans := rfl
@[simp] theorem State.mem_updIns (i : Nat) (f : Ins → Ins) : (s.updIns i f).mem = s.mem := rfl
@[simp] theorem State.pkts_updIns (i : Nat) (f : Ins → Ins) : (s.updIns i f).pkts = s.pkts := rfl
@[simp] theorem State.nodeFree_updIns (i : Nat) (f : Ins → Ins) : (s.updIns i f).nodeFree = s.nodeFree := rfl
@[simp] theorem State.nextSn_updIns (i : Nat) (f : Ins → Ins) : (s.updIns i f).nextSn = s.nextSn := rfl
@[simp] theorem State.nextFree_updIns (i : Nat) (f : Ins → Ins) : (s.updIns i f).nextFree = s.nextFree := rfl
@[simp] theorem State.trt_updIns (i : Nat) (f : Ins → Ins) : (s.updIns i f).trt = s.trt := rfl
@[simp] theorem State.cnts_updIns (i : Nat) (f : Ins → Ins) : (s.updIns i f).cnts = s.cnts := rfl
@[simp] theorem State.gens_updIns (i : Nat) (f : Ins → Ins) : (s.updIns i f).gens = s.gens := rfl
@[simp] theorem State.genAt_updIns (i : Nat) (f : Ins → Ins) : (s.updIns i f).genAt = s.genAt := rfl
@[simp] theorem State.crnPreempt_updIns (i : Nat) (f : Ins → Ins) : (s.updIns i f).crnPreempt = s.crnPreempt := rfl
@[simp] theorem State.insStage_updIns (i : Nat) (f : Ins → Ins) : (s.updIns i f).insStage = s.insStage := rfl
@[simp] theorem State.cals_updIns (i : Nat) (f : Ins → Ins) : (s.updIns i f).cals = s.cals := rfl
@[simp] theorem State.calrefs_updIns (i : Nat) (f : Ins → Ins) : (s.updIns i f).calrefs = s.calrefs := rfl
@[simp] theorem State.jwl_updIns (i : Nat) (f : Ins → Ins) : (s.updIns i f).jwl = s.jwl := rfl
@[simp] theorem State.rings_updIns (i : Nat) (f : Ins → Ins) : (s.updIns i f).rings = s.rings := rfl
@[simp] theorem State.les_updIns (i : Nat) (f : Ins → Ins) : (s.updIns i f).les = s.les := rfl
@[simp] theorem State.bells_updIns (i : Nat) (f : Ins → Ins) : (s.updIns i f).bells = s.bells := rfl
@[simp] theorem State.pool_updIns (i : Nat) (f : Ins → Ins) : (s.updIns i f).pool = s.pool := rfl
@[simp] theorem State.mvc_updIns (i : Nat) (f : Ins → Ins) : (s.updIns i f).mvc = s.mvc := rfl
@[simp] theorem State.copy_updIns (i : Nat) (f : Ins → Ins) : (s.updIns i f).copy = s.copy := rfl
@[simp] theorem State.task_updIns (i : Nat) (f : Ins → Ins) : (s.updIns i f).task = s.task := rfl
@[simp] theorem State.therm_updIns (i : Nat) (f : Ins → Ins) : (s.updIns i f).therm = s.therm := rfl
@[simp] theorem State.crn_updIns (i : Nat) (f : Ins → Ins) : (s.updIns i f).crn = s.crn := rfl
@[simp] theorem State.rtrs_updIns (i : Nat) (f : Ins → Ins) : (s.updIns i f).rtrs = s.rtrs := rfl
@[simp] theorem State.phase_updIns (i : Nat) (f : Ins → Ins) : (s.updIns i f).phase = s.phase := rfl
@[simp] theorem State.warm_updIns (i : Nat) (f : Ins → Ins) : (s.updIns i f).warm = s.warm := rfl
@[simp] theorem State.chRstDenied_updIns (i : Nat) (f : Ins → Ins) : (s.updIns i f).chRstDenied = s.chRstDenied := rfl
@[simp] theorem State.fillSkipped_updIns (i : Nat) (f : Ins → Ins) : (s.updIns i f).fillSkipped = s.fillSkipped := rfl
@[simp] theorem State.plat_updIns (i : Nat) (f : Ins → Ins) : (s.updIns i f).plat = s.plat := rfl
@[simp] theorem State.startCfg_updIns (i : Nat) (f : Ins → Ins) : (s.updIns i f).startCfg = s.startCfg := rfl
@[simp] theorem State.filling_updIns (i : Nat) (f : Ins → Ins) : (s.updIns i f).filling = s.filling := rfl
@[simp] theorem State.refSpd_updIns (i : Nat) (f : Ins → Ins) : (s.updIns i f).refSpd = s.refSpd := rfl
@[simp] theorem State.tst_updIns (i : Nat) (f : Ins → Ins) : (s.updIns i f).tst = s.tst := rfl

@[simp] theorem State.pending_updCal (c : Nat) (f : Cal → Cal) : (s.updCal c f).pending = s.pending := rfl
@[simp] theorem State.bclk_updCal (c : Nat) (f : Cal → Cal) : (s.updCal c f).bclk = s.bclk := rfl
@[simp] theorem State.locked_updCal (c : Nat) (f : Cal → Cal) : (s.updCal c f).locked = s.locked := rfl
@[simp] theorem State.bin_updCal (c : Nat) (f : Cal → Cal) : (s.updCal c f).bin = s.bin := rfl
@[simp] theorem State.esc_updCal (c : Nat) (f : Cal → Cal) : (s.updCal c f).esc = s.esc := rfl
@[simp] theorem State.pages_updCal (c : Nat) (f : Cal → Cal) : (s.updCal c f).pages = s.pages := rfl
@[simp] theorem State.blk_updCal (c : Nat) (f : Cal → Cal) : (s.updCal c f).blk = s.blk := rfl
@[simp] theorem State.map_updCal (c : Nat) (f : Cal → Cal) : (s.updCal c f).map = s.map := rfl
@[simp] theorem State.gws_updCal (c : Nat) (f : Cal → Cal) : (s.updCal c f).gws = s.gws := rfl
@[simp] theorem State.subs_updCal (c : Nat) (f : Cal → Cal) : (s.updCal c f).subs = s.subs := rfl
@[simp] theorem State.chans_updCal (c : Nat) (f : Cal → Cal) : (s.updCal c f).chans = s.chans := rfl
@[simp] theorem State.mem_updCal (c : Nat) (f : Cal → Cal) : (s.updCal c f).mem = s.mem := rfl
@[simp] theorem State.pkts_updCal (c : Nat) (f : Cal → Cal) : (s.updCal c f).pkts = s.pkts := rfl
@[simp] theorem State.nodeFree_updCal (c : Nat) (f : Cal → Cal) : (s.updCal c f).nodeFree = s.nodeFree := rfl
@[simp] theorem State.nextSn_updCal (c : Nat) (f : Cal → Cal) : (s.updCal c f).nextSn = s.nextSn := rfl
@[simp] theorem State.nextFree_updCal (c : Nat) (f : Cal → Cal) : (s.updCal c f).nextFree = s.nextFree := rfl
@[simp] theorem State.trt_updCal (c : Nat) (f : Cal → Cal) : (s.updCal c f).trt = s.trt := rfl
@[simp] theorem State.cnts_updCal (c : Nat) (f : Cal → Cal) : (s.updCal c f).cnts = s.cnts := rfl
@[simp] theorem State.gens_updCal (c : Nat) (f : Cal → Cal) : (s.updCal c f).gens = s.gens := rfl
@[simp] theorem State.genAt_updCal (c : Nat) (f : Cal → Cal) : (s.updCal c f).genAt = s.genAt := rfl
@[simp] theorem State.crnPreempt_updCal (c : Nat) (f : Cal → Cal) : (s.updCal c f).crnPreempt = s.crnPreempt := rfl
@[simp] theorem State.ins_updCal (c : Nat) (f : Cal → Cal) : (s.updCal c f).ins = s.ins := rfl
@[simp] theorem State.insStage_updCal (c : Nat) (f : Cal → Cal) : (s.updCal c f).insStage = s.insStage := rfl
@[simp] theorem State.calrefs_updCal (c : Nat) (f : Cal → Cal) : (s.updCal c f).calrefs = s.calrefs := rfl
@[simp] theorem State.jwl_updCal (c : Nat) (f : Cal → Cal) : (s.updCal c f).jwl = s.jwl := rfl
@[simp] theorem State.rings_updCal (c : Nat) (f : Cal → Cal) : (s.updCal c f).rings = s.rings := rfl
@[simp] theorem State.les_updCal (c : Nat) (f : Cal → Cal) : (s.updCal c f).les = s.les := rfl
@[simp] theorem State.bells_updCal (c : Nat) (f : Cal → Cal) : (s.updCal c f).bells = s.bells := rfl
@[simp] theorem State.pool_updCal (c : Nat) (f : Cal → Cal) : (s.updCal c f).pool = s.pool := rfl
@[simp] theorem State.mvc_updCal (c : Nat) (f : Cal → Cal) : (s.updCal c f).mvc = s.mvc := rfl
@[simp] theorem State.copy_updCal (c : Nat) (f : Cal → Cal) : (s.updCal c f).copy = s.copy := rfl
@[simp] theorem State.task_updCal (c : Nat) (f : Cal → Cal) : (s.updCal c f).task = s.task := rfl
@[simp] theorem State.therm_updCal (c : Nat) (f : Cal → Cal) : (s.updCal c f).therm = s.therm := rfl
@[simp] theorem State.crn_updCal (c : Nat) (f : Cal → Cal) : (s.updCal c f).crn = s.crn := rfl
@[simp] theorem State.rtrs_updCal (c : Nat) (f : Cal → Cal) : (s.updCal c f).rtrs = s.rtrs := rfl
@[simp] theorem State.phase_updCal (c : Nat) (f : Cal → Cal) : (s.updCal c f).phase = s.phase := rfl
@[simp] theorem State.warm_updCal (c : Nat) (f : Cal → Cal) : (s.updCal c f).warm = s.warm := rfl
@[simp] theorem State.chRstDenied_updCal (c : Nat) (f : Cal → Cal) : (s.updCal c f).chRstDenied = s.chRstDenied := rfl
@[simp] theorem State.fillSkipped_updCal (c : Nat) (f : Cal → Cal) : (s.updCal c f).fillSkipped = s.fillSkipped := rfl
@[simp] theorem State.plat_updCal (c : Nat) (f : Cal → Cal) : (s.updCal c f).plat = s.plat := rfl
@[simp] theorem State.startCfg_updCal (c : Nat) (f : Cal → Cal) : (s.updCal c f).startCfg = s.startCfg := rfl
@[simp] theorem State.filling_updCal (c : Nat) (f : Cal → Cal) : (s.updCal c f).filling = s.filling := rfl
@[simp] theorem State.refSpd_updCal (c : Nat) (f : Cal → Cal) : (s.updCal c f).refSpd = s.refSpd := rfl
@[simp] theorem State.tst_updCal (c : Nat) (f : Cal → Cal) : (s.updCal c f).tst = s.tst := rfl

@[simp] theorem State.pending_updRing (r : Nat) (f : Ring → Ring) : (s.updRing r f).pending = s.pending := rfl
@[simp] theorem State.bclk_updRing (r : Nat) (f : Ring → Ring) : (s.updRing r f).bclk = s.bclk := rfl
@[simp] theorem State.locked_updRing (r : Nat) (f : Ring → Ring) : (s.updRing r f).locked = s.locked := rfl
@[simp] theorem State.bin_updRing (r : Nat) (f : Ring → Ring) : (s.updRing r f).bin = s.bin := rfl
@[simp] theorem State.esc_updRing (r : Nat) (f : Ring → Ring) : (s.updRing r f).esc = s.esc := rfl
@[simp] theorem State.pages_updRing (r : Nat) (f : Ring → Ring) : (s.updRing r f).pages = s.pages := rfl
@[simp] theorem State.blk_updRing (r : Nat) (f : Ring → Ring) : (s.updRing r f).blk = s.blk := rfl
@[simp] theorem State.map_updRing (r : Nat) (f : Ring → Ring) : (s.updRing r f).map = s.map := rfl
@[simp] theorem State.gws_updRing (r : Nat) (f : Ring → Ring) : (s.updRing r f).gws = s.gws := rfl
@[simp] theorem State.subs_updRing (r : Nat) (f : Ring → Ring) : (s.updRing r f).subs = s.subs := rfl
@[simp] theorem State.chans_updRing (r : Nat) (f : Ring → Ring) : (s.updRing r f).chans = s.chans := rfl
@[simp] theorem State.mem_updRing (r : Nat) (f : Ring → Ring) : (s.updRing r f).mem = s.mem := rfl
@[simp] theorem State.pkts_updRing (r : Nat) (f : Ring → Ring) : (s.updRing r f).pkts = s.pkts := rfl
@[simp] theorem State.nodeFree_updRing (r : Nat) (f : Ring → Ring) : (s.updRing r f).nodeFree = s.nodeFree := rfl
@[simp] theorem State.nextSn_updRing (r : Nat) (f : Ring → Ring) : (s.updRing r f).nextSn = s.nextSn := rfl
@[simp] theorem State.nextFree_updRing (r : Nat) (f : Ring → Ring) : (s.updRing r f).nextFree = s.nextFree := rfl
@[simp] theorem State.trt_updRing (r : Nat) (f : Ring → Ring) : (s.updRing r f).trt = s.trt := rfl
@[simp] theorem State.cnts_updRing (r : Nat) (f : Ring → Ring) : (s.updRing r f).cnts = s.cnts := rfl
@[simp] theorem State.gens_updRing (r : Nat) (f : Ring → Ring) : (s.updRing r f).gens = s.gens := rfl
@[simp] theorem State.genAt_updRing (r : Nat) (f : Ring → Ring) : (s.updRing r f).genAt = s.genAt := rfl
@[simp] theorem State.crnPreempt_updRing (r : Nat) (f : Ring → Ring) : (s.updRing r f).crnPreempt = s.crnPreempt := rfl
@[simp] theorem State.ins_updRing (r : Nat) (f : Ring → Ring) : (s.updRing r f).ins = s.ins := rfl
@[simp] theorem State.insStage_updRing (r : Nat) (f : Ring → Ring) : (s.updRing r f).insStage = s.insStage := rfl
@[simp] theorem State.cals_updRing (r : Nat) (f : Ring → Ring) : (s.updRing r f).cals = s.cals := rfl
@[simp] theorem State.calrefs_updRing (r : Nat) (f : Ring → Ring) : (s.updRing r f).calrefs = s.calrefs := rfl
@[simp] theorem State.jwl_updRing (r : Nat) (f : Ring → Ring) : (s.updRing r f).jwl = s.jwl := rfl
@[simp] theorem State.les_updRing (r : Nat) (f : Ring → Ring) : (s.updRing r f).les = s.les := rfl
@[simp] theorem State.bells_updRing (r : Nat) (f : Ring → Ring) : (s.updRing r f).bells = s.bells := rfl
@[simp] theorem State.pool_updRing (r : Nat) (f : Ring → Ring) : (s.updRing r f).pool = s.pool := rfl
@[simp] theorem State.mvc_updRing (r : Nat) (f : Ring → Ring) : (s.updRing r f).mvc = s.mvc := rfl
@[simp] theorem State.copy_updRing (r : Nat) (f : Ring → Ring) : (s.updRing r f).copy = s.copy := rfl
@[simp] theorem State.task_updRing (r : Nat) (f : Ring → Ring) : (s.updRing r f).task = s.task := rfl
@[simp] theorem State.therm_updRing (r : Nat) (f : Ring → Ring) : (s.updRing r f).therm = s.therm := rfl
@[simp] theorem State.crn_updRing (r : Nat) (f : Ring → Ring) : (s.updRing r f).crn = s.crn := rfl
@[simp] theorem State.rtrs_updRing (r : Nat) (f : Ring → Ring) : (s.updRing r f).rtrs = s.rtrs := rfl
@[simp] theorem State.phase_updRing (r : Nat) (f : Ring → Ring) : (s.updRing r f).phase = s.phase := rfl
@[simp] theorem State.warm_updRing (r : Nat) (f : Ring → Ring) : (s.updRing r f).warm = s.warm := rfl
@[simp] theorem State.chRstDenied_updRing (r : Nat) (f : Ring → Ring) : (s.updRing r f).chRstDenied = s.chRstDenied := rfl
@[simp] theorem State.fillSkipped_updRing (r : Nat) (f : Ring → Ring) : (s.updRing r f).fillSkipped = s.fillSkipped := rfl
@[simp] theorem State.plat_updRing (r : Nat) (f : Ring → Ring) : (s.updRing r f).plat = s.plat := rfl
@[simp] theorem State.startCfg_updRing (r : Nat) (f : Ring → Ring) : (s.updRing r f).startCfg = s.startCfg := rfl
@[simp] theorem State.filling_updRing (r : Nat) (f : Ring → Ring) : (s.updRing r f).filling = s.filling := rfl
@[simp] theorem State.refSpd_updRing (r : Nat) (f : Ring → Ring) : (s.updRing r f).refSpd = s.refSpd := rfl
@[simp] theorem State.tst_updRing (r : Nat) (f : Ring → Ring) : (s.updRing r f).tst = s.tst := rfl

/-- A unit reads as it was changed, and every other as before. -/
theorem State.gw_upd (g j : Nat) (f : Gw → Gw) : (s.updGw g f).gw j = if j = g then f (s.gw g) else s.gw j := Tbl.get_upd _ _ _ _ _
@[simp] theorem State.gw_upd_self (g : Nat) (f : Gw → Gw) : (s.updGw g f).gw g = f (s.gw g) := Tbl.get_upd_self _ _ _ _
theorem State.gw_upd_ne {g j : Nat} (h : j ≠ g) (f : Gw → Gw) : (s.updGw g f).gw j = s.gw j := Tbl.get_upd_ne _ _ _ h

/-- A unit reads as it was changed, and every other as before. -/
theorem State.chan_upd (c j : Nat) (f : Chan → Chan) : (s.updChan c f).chan j = if j = c then f (s.chan c) else s.chan j := Tbl.get_upd _ _ _ _ _
@[simp] theorem State.chan_upd_self (c : Nat) (f : Chan → Chan) : (s.updChan c f).chan c = f (s.chan c) := Tbl.get_upd_self _ _ _ _
theorem State.chan_upd_ne {c j : Nat} (h : j ≠ c) (f : Chan → Chan) : (s.updChan c f).chan j = s.chan j := Tbl.get_upd_ne _ _ _ h

/-- A unit reads as it was changed, and every other as before. -/
theorem State.rtr_upd (n j : Nat) (f : Rtr → Rtr) : (s.updRtr n f).rtr j = if j = n then f (s.rtr n) else s.rtr j := Tbl.get_upd _ _ _ _ _
@[simp] theorem State.rtr_upd_self (n : Nat) (f : Rtr → Rtr) : (s.updRtr n f).rtr n = f (s.rtr n) := Tbl.get_upd_self _ _ _ _
theorem State.rtr_upd_ne {n j : Nat} (h : j ≠ n) (f : Rtr → Rtr) : (s.updRtr n f).rtr j = s.rtr j := Tbl.get_upd_ne _ _ _ h

/-- A unit reads as it was changed, and every other as before. -/
theorem State.le_upd (e j : Nat) (f : Le → Le) : (s.updLe e f).le j = if j = e then f (s.le e) else s.le j := Tbl.get_upd _ _ _ _ _
@[simp] theorem State.le_upd_self (e : Nat) (f : Le → Le) : (s.updLe e f).le e = f (s.le e) := Tbl.get_upd_self _ _ _ _
theorem State.le_upd_ne {e j : Nat} (h : j ≠ e) (f : Le → Le) : (s.updLe e f).le j = s.le j := Tbl.get_upd_ne _ _ _ h

/-- A unit reads as it was changed, and every other as before. -/
theorem State.cnt_upd (b j : Nat) (f : Cnt → Cnt) : (s.updCnt b f).cnt j = if j = b then f (s.cnt b) else s.cnt j := Tbl.get_upd _ _ _ _ _
@[simp] theorem State.cnt_upd_self (b : Nat) (f : Cnt → Cnt) : (s.updCnt b f).cnt b = f (s.cnt b) := Tbl.get_upd_self _ _ _ _
theorem State.cnt_upd_ne {b j : Nat} (h : j ≠ b) (f : Cnt → Cnt) : (s.updCnt b f).cnt j = s.cnt j := Tbl.get_upd_ne _ _ _ h

/-- A unit reads as it was changed, and every other as before. -/
theorem State.insOf_upd (i j : Nat) (f : Ins → Ins) : (s.updIns i f).insOf j = if j = i then f (s.insOf i) else s.insOf j := Tbl.get_upd _ _ _ _ _
@[simp] theorem State.insOf_upd_self (i : Nat) (f : Ins → Ins) : (s.updIns i f).insOf i = f (s.insOf i) := Tbl.get_upd_self _ _ _ _
theorem State.insOf_upd_ne {i j : Nat} (h : j ≠ i) (f : Ins → Ins) : (s.updIns i f).insOf j = s.insOf j := Tbl.get_upd_ne _ _ _ h

/-- A unit reads as it was changed, and every other as before. -/
theorem State.cal_upd (c j : Nat) (f : Cal → Cal) : (s.updCal c f).cal j = if j = c then f (s.cal c) else s.cal j := Tbl.get_upd _ _ _ _ _
@[simp] theorem State.cal_upd_self (c : Nat) (f : Cal → Cal) : (s.updCal c f).cal c = f (s.cal c) := Tbl.get_upd_self _ _ _ _
theorem State.cal_upd_ne {c j : Nat} (h : j ≠ c) (f : Cal → Cal) : (s.updCal c f).cal j = s.cal j := Tbl.get_upd_ne _ _ _ h

/-- A unit reads as it was changed, and every other as before. -/
theorem State.ring_upd (r j : Nat) (f : Ring → Ring) : (s.updRing r f).ring j = if j = r then f (s.ring r) else s.ring j := Tbl.get_upd _ _ _ _ _
@[simp] theorem State.ring_upd_self (r : Nat) (f : Ring → Ring) : (s.updRing r f).ring r = f (s.ring r) := Tbl.get_upd_self _ _ _ _
theorem State.ring_upd_ne {r j : Nat} (h : j ≠ r) (f : Ring → Ring) : (s.updRing r f).ring j = s.ring j := Tbl.get_upd_ne _ _ _ h

/-- The pages are numbered apart. -/
theorem State.page_upd_self (p : PageId) (f : Page → Page) : (s.updPage p f).page p = (f (s.page p)).rewire s.bclk :=
  Tbl.get_upd_self pageDflt s.pages p.num fun pg => (f pg).rewire s.bclk
theorem State.page_upd_ne {p q : PageId} (h : q.num ≠ p.num) (f : Page → Page) : (s.updPage p f).page q = s.page q :=
  Tbl.get_upd_ne pageDflt s.pages (fun pg => (f pg).rewire s.bclk) h

@[simp] theorem State.sub_upd_self (c sc : Nat) (f : Sub → Sub) : (s.updSub c sc f).sub c sc = f (s.sub c sc) := Tbl.get_upd_self _ _ _ _
theorem State.sub_upd_ne {c sc c' sc' : Nat} (h : 2 * c' + sc' ≠ 2 * c + sc) (f : Sub → Sub) : (s.updSub c sc f).sub c' sc' = s.sub c' sc' :=
  Tbl.get_upd_ne _ _ _ h

end Sys2Proof.Machine
end

