-- ==== Sys2Proof/Laws/Page.lean ====
section
/-! SUPPORT. What events leave alone in the pages: everything but the interrupts that are pending. -/
namespace Sys2Proof.Machine

/-- Two states' pages agree but for pending interrupts. -/
def SameBody (s t : State) : Prop := ∀ p : PageId, (t.page p).body = (s.page p).body

theorem SameBody.refl (s : State) : SameBody s s := fun _ => rfl

theorem SameBody.trans {s t u : State} (h : SameBody s t) (k : SameBody t u) : SameBody s u := fun p => (k p).trans (h p)

theorem SameBody.of_pages {s t : State} (h : t.pages = s.pages) : SameBody s t := fun p => by unfold State.page; rw [h]

theorem Page.body_rewire (pg : Page) (t : Nat) : (pg.rewire t).body = pg.body := by
  unfold Page.rewire
  split <;> rfl

/-- What a page reads as after a change of one. -/
theorem State.page_upd (s : State) (q p : PageId) (f : Page → Page) :
    (s.updPage q f).page p = if p.num = q.num then (f (s.page q)).rewire s.bclk else s.page p :=
  Tbl.get_upd pageDflt s.pages q.num p.num fun pg => (f pg).rewire s.bclk

theorem State.updPage_body (s : State) (q : PageId) (f : Page → Page) (hf : ∀ pg, (f pg).body = pg.body) : SameBody s (s.updPage q f) := by
  intro p
  rw [State.page_upd]
  split
  · rename_i h
    rw [Page.body_rewire, hf]
    show Page.body (Tbl.get pageDflt s.pages q.num) = Page.body (Tbl.get pageDflt s.pages p.num)
    rw [h]
  · rfl

theorem State.raise_body (s : State) (q : PageId) (b : Nat) : SameBody s (s.raise q b) := State.updPage_body s q _ fun _ => rfl

theorem State.bump_body (s : State) (b fuel n k : Nat) : SameBody s (s.bump b fuel n k) := by
  induction fuel generalizing s n k with
  | zero => exact SameBody.refl s
  | succ fuel ih =>
    unfold State.bump
    have h1 : SameBody s (s.updCnt b fun c => { c with vals := Tbl.set (fun _ => 0) c.vals n ((Tbl.get (fun _ => 0) (s.cnt b).vals n + k) % 2 ^ 48) }) :=
      SameBody.of_pages rfl
    dsimp only
    split
    · exact h1
    · have h2 := h1.trans (State.raise_body _ (.cnt b) n)
      (repeat' split) <;> first
        | exact h2
        | exact h2.trans (ih _ _ _)

theorem State.writeSample_body (s : State) (b : Nat) (ws : List (Nat × Word)) : SameBody s (s.writeSample b ws) :=
  (SameBody.of_pages (t := s.updCnt b _) rfl).trans (State.raise_body _ _ _)

/-- An event changes pages only in their pending interrupts. -/
theorem State.ev_body (s : State) (e : Ev) : SameBody s (s.ev e) := by
  unfold State.ev
  split
  · exact SameBody.refl s
  · suffices h : ∀ (l : List Nat) (u : State), SameBody s u → SameBody s (l.foldl (fun s n =>
        if s.counts e n then
          let s := s.bump e.box 8 n e.n
          match (s.cnt e.box).armed with
          | some a =>
            if s.chainBase e.box a.ctr = n ∧ s.bclk ≤ a.at_ + 16 * s.k ∧ (e.req.isSome ∨ e.box = boxBlk) then
              s.writeSample e.box (s.sampleWords e.box a (some e))
            else s
          | none => s
        else s) u) from h _ s (SameBody.refl s)
    intro l
    induction l with
    | nil => exact fun u h => h
    | cons n l ih =>
      intro u h
      refine ih _ ?_
      dsimp only
      split
      · have hb := h.trans (State.bump_body u e.box 8 n e.n)
        split
        · split
          · exact hb.trans (State.writeSample_body _ _ _)
          · exact hb
        · exact hb
      · exact h

end Sys2Proof.Machine
end

