-- ==== Sys2Proof/Laws/Access.lean ====
section
/-! SUPPORT. What an access that is granted does: it is the write or the read of its register on the block as the access finds it; and what
its answer leaves in the pages. -/
namespace Sys2Proof.Machine

/-- The page can be reached by the source. -/
def reachOk (u : State) (wr : Bool) (addr : Nat) : Src → Bool
  | .fabric _ i v => u.reachesAt i v wr addr
  | _ => true

theorem cutSrc_wf {src : Src} (h : wfSrc src = true) : cutSrc src = src := by
  cases src with
  | fabric p i v =>
    simp only [wfSrc, Bool.and_eq_true, decide_eq_true_eq] at h
    simp [cutSrc, Nat.mod_eq_of_lt h.1, Nat.mod_eq_of_lt h.2]
  | crown t => rfl
  | movement => rfl

/-- An access that holds its port and reaches its page is the access of the block as met. -/
theorem accessHere_met {s : State} {src : Src} {p : PageId} {off n : Nat} {wide wr : Bool} (h4 : off < 4096)
    (h1 : (s.runSvcsTo (s.bclk - 1)).holdsPort src = true) 
    (h2 : reachOk (s.met src p off) wr (p.num * 4096 + off) src = true) :
    s.accessHere src (p.num * 4096 + off) wide wr n =
      let r := (s.met src p off).access src (p.num * 4096 + off) wide wr n
      { r.1 with blk := { r.1.blk with accStatus := r.2.1, accData := r.2.2 } } := by
  have hd : (p.num * 4096 + off) / 4096 = p.num := by omega
  unfold State.accessHere State.accessNow
  cases src with
  | movement => simp only [h1, Bool.not_true, Bool.false_eq_true, if_false]; rfl
  | crown t =>
    have hb : (s.runSvcsTo (s.bclk - 1)).bclk = (s.runSvcsTo (s.bclk - 1)).bclk := rfl
    simp only [h1, if_true, hd]
    have h1' : ∀ n b, ((s.runSvcsTo (s.bclk - 1)).nodeUsed n b).holdsPort (.crown t) = true := fun _ _ => h1
    simp only [h1', Bool.not_true, Bool.false_eq_true, if_false]
    simp only [State.met, hd]
  | fabric g i v =>
    simp only [h1, Bool.not_true, Bool.false_eq_true, if_false]
    have h2' : (s.runSvcsTo (s.bclk - 1)).reachesAt i v wr (p.num * 4096 + off) = true := h2
    simp only [h2', Bool.not_true, Bool.false_eq_true, and_false, if_false]
    rfl

/-- What a granted access satisfies. -/
theorem granted_cases {s : State} {src : Src} {p : PageId} {off : Nat} {wide wr : Bool} (hg : s.granted src p off wide wr = true) :
    ((s.runSvcsTo (s.bclk - 1)).holdsPort src = true) ∧ 
    (reachOk (s.met src p off) wr (p.num * 4096 + off) src = true) ∧
    (p.num * 4096 + off) % (if wide then 8 else 4) = 0 ∧ off < 4096 ∧ pageAt (p.num * 4096 + off) = some p ∧
    ∀ o ∈ (if wide then [off, off + 4] else [off]), (if wr then (s.atPage src p off).mayWrite src p o else mayRead src p o) = true := by
  simp only [State.granted, Bool.and_eq_true, beq_iff_eq, decide_eq_true_eq, List.all_eq_true] at hg
  obtain ⟨⟨⟨⟨⟨h1, h2⟩, h3⟩, h4⟩, h5⟩, h6⟩ := hg
  refine ⟨h1, ?_, h3, h4, h5, h6⟩
  cases src <;> first | rfl | exact h2

/-- A granted 4-byte write by any source. -/
theorem regAccess_write {s : State} {src : Src} {p : PageId} {off n : Nat} (hw : wfSrc src = true)
    (hg : s.granted src p off false true = true) :
    s.regAccess src (p.num * 4096 + off) false true n = s.wrote src p off (BitVec.ofNat 32 n) := by
  obtain ⟨h1, h2, h3, h4, h5, h6⟩ := granted_cases hg
  unfold State.regAccess
  rw [cutSrc_wf hw, accessHere_met h4 h1 h2]
  simp only [Bool.false_eq_true, if_false, if_true, List.mem_singleton, forall_eq] at h3 h6
  have hm : (p.num * 4096 + off) % 4096 = off := by omega
  have h6' : ((s.met src p off).settle).mayWrite src p off = true := h6
  unfold State.wrote State.access State.answered
  simp only [h3, h5, hm, h6', ne_eq, not_true_eq_false, Bool.false_eq_true, if_false, if_true, List.all_cons, List.all_nil, Bool.and_self]

theorem pageWrite_granted {s : State} {src : Src} {p : PageId} {off n : Nat} (hw : wfSrc src = true)
    (hg : s.granted src p off false true = true) :
    s.pageWrite src p.num off n = s.wrote src p off (BitVec.ofNat 32 n) := regAccess_write hw hg

/-- A granted 4-byte read by any source. -/
theorem regAccess_read {s : State} {src : Src} {p : PageId} {off n : Nat} (hw : wfSrc src = true)
    (hg : s.granted src p off false false = true) :
    s.regAccess src (p.num * 4096 + off) false false n = s.hasRead src p off := by
  obtain ⟨h1, h2, h3, h4, h5, h6⟩ := granted_cases hg
  unfold State.regAccess
  rw [cutSrc_wf hw, accessHere_met h4 h1 h2]
  simp only [Bool.false_eq_true, if_false, List.mem_singleton, forall_eq] at h3 h6
  have hm : (p.num * 4096 + off) % 4096 = off := by omega
  unfold State.hasRead State.access State.answered
  simp only [h3, h5, hm, h6, ne_eq, not_true_eq_false, Bool.false_eq_true, if_false, if_true, List.all_cons, List.all_nil, Bool.and_self]

theorem Kept.eqLocked {l : Nat} {s t : State} (h : Kept l s t) (hl : l.testBit 2 = false) : t.locked = s.locked := h.part .locked hl

theorem atPage_locked (s : State) (src : Src) (p : PageId) (off : Nat) : (s.atPage src p off).locked = s.locked := by
  have h1 : (s.runSvcsTo (s.bclk - 1)).locked = s.locked := (State.runSvcsTo_kept (Within.self _) (Kept.refl _ s) (s.bclk - 1)).part .locked (by decide)
  have h2 : (s.met src p off).locked = s.locked := by
    unfold State.met; cases src <;> exact h1
  have h3 := (State.settle_kept (Within.self _) (Kept.refl _ (s.met src p off))).part .locked (by decide)
  exact Eq.trans h3 h2

theorem answered_body (m : State) (st d : Nat) (p : PageId) : ((m.answered st d).page p).body = (m.page p).body := by
  unfold State.answered
  split
  · exact State.ev_body m _ p
  · rfl

theorem answered_kept (m : State) (st d : Nat) : Kept 0x20060 m (m.answered st d) := by
  unfold State.answered
  refine (Kept.upd_iff (fun p hp => by cases p <;> first | exact (Within.self _).no hp (by decide) | exact Eq.refl _)).mpr ?_
  split
  · exact State.ev_kept (show Nat.land 0x20020 0x20060 = 0x20020 by decide) (Kept.refl _ _) _
  · exact Kept.refl _ _

theorem answered_blk (m : State) (st d : Nat) : (m.answered st d).blk = { m.blk with accStatus := st, accData := d } := by
  unfold State.answered
  have : (m.ev { box := boxBlk, code := 0x04 }).blk = m.blk := (State.ev_kept (Within.self _) (Kept.refl _ m) _).part .blk (by decide)
  split <;> simp [this]

/-- A page changed through `f`. -/
theorem updPage_other {m : State} {p q : PageId} {f : Page → Page} (h : q.num ≠ p.num) : (m.updPage p f).page q = m.page q := by
  rw [State.page_upd, if_neg h]

theorem updPage_body_self (m : State) (p : PageId) (f : Page → Page) : ((m.updPage p f).page p).body = (f (m.page p)).body := by
  rw [State.page_upd, if_pos rfl, Page.body_rewire]

theorem Page.body_act {a b : Page} (h : a.body = b.body) : a.act = b.act := by have := congrArg Page.act h; exact this

theorem Page.body_shd {a b : Page} (h : a.body = b.body) : a.shd = b.shd := by have := congrArg Page.shd h; exact this

/-- An answer of OK to an access that leaves the other pages alone. -/
theorem answered_of {m n : State} {p : PageId} {d : Nat} (h : ∀ q : PageId, q.num ≠ p.num → (n.page q).body = (m.page q).body) :
    Answered p d m (n.answered 0 d) := by
  refine ⟨by rw [answered_blk], by rw [answered_blk], fun q hq => ?_⟩
  rw [answered_body]; exact h q hq

theorem answered_upd {m : State} {p : PageId} {f : Page → Page} {d : Nat} : Answered p d m ((m.updPage p f).answered 0 d) :=
  answered_of fun q hq => by rw [updPage_other hq]

end Sys2Proof.Machine
end

