-- ==== Sys2Proof/Tests/Slice0.lean ====
section
/-! SUPPORT. Tests: ill-formed commands are refused, each check by a term of its own, and for each statement with hypotheses (its name
follows `test_meets_`) concrete states and operands that meet them together, one for each clause, at a bound of a range where it has
one. -/
namespace Sys2Proof.Tests
open Sys2Proof.Machine

section
set_option Elab.async false

/-! ### Well-formed commands -/

/-- Every check of a header refuses a header that breaks it alone. -/
theorem test_wf_header : wfHdr {} = true ∧ [{ opcode := 16 }, { tag := 512 }, { hint := 4 }, { nlines := 8 }, { addr := 2 ^ 52 }, { itag := 4096 },
    { pasid := 2 ^ 20 }, { svcData := 2 ^ 64 }, { seq := 4096 }].all (fun h : ReqHdr => !wfHdr h && !wf (.lineRead 0 h) && !wf (.tailDiscardHeader 0 h) &&
      !wf (.missingWriteData 0 h)) = true := by decide +kernel

/-- A source outside the 16 ports or the ITAGs of 12 bits is refused, in every command that has a source. -/
theorem test_wf_source : [Src.fabric 16 0 true, Src.fabric 0 4096 true].all (fun x =>
    [Instr.registerWrite x 0 false 0, .rcRead x 0, .loReadLatch x 0, .pgCtlWrite x 0 0, .escEnClear x, .escEnSet x, .pgIsetWrite x 0 0, .commitGo x 0,
      .commitCancel x 0, .commitDiscard x 0, .blkIntEoi x, .blkIntCfgWrite x 0, .mbGo x 0, .gwFlush x 0, .mapXlate x 0, .mrCmdGo x 0 0, .i3cCmdGo x 0 0,
      .chRst x 0, .mvcRestart x true, .cntClr x, .brlIdxWrite x 0 0, .insDoorbell x 0 0, .ringAttach x 0, .ringDetach x 0, .ringFlush x 0, .snap x 0,
      .quadClr x 0, .cntSnapClr x 0, .cntValWrite x 0 0 0, .cntCtlWrite x 0 0].all fun i => !wf i) = true ∧
  wf (.registerWrite (.fabric 15 4095 true) (2 ^ 25 - 1) true 0) = true := by decide +kernel

/-- An address beyond the block's 32 MiB or a page beyond 8191 is refused. -/
theorem test_wf_address : [Instr.crownPageAccess true (2 ^ 25) false true 0, .registerWrite .movement (2 ^ 25) false 0, .rcRead .movement (2 ^ 25),
    .loReadLatch .movement (2 ^ 25), .pgCtlWrite .movement (2 ^ 13) 0, .intentAdoption (2 ^ 13), .pgIsetWrite .movement (2 ^ 13) 0,
    .commitGo .movement (2 ^ 13), .commitCancel .movement (2 ^ 13), .commitDiscard .movement (2 ^ 13), .commitCheck (2 ^ 13)].all (fun i => !wf i) = true ∧
  wf (.commitGo .movement (2 ^ 13 - 1)) = true := by decide +kernel

/-- A tick takes the measurements of at most 9 pairs. -/
theorem test_wf_measurements : (let ms : List CalMeas := List.replicate 10 {}
    [Instr.escapementTick ms, .addrMapEpochSwitch ms, .selfRefreshEntry 0 ms, .parkEntry 0 ms, .rebuildRateEval ms, .balanceRunStart 0 ms,
      .burlWindowRollover 0 0 ms, .heatIntervalEnd 0 ms, .heatPublish ms, .routeEpochSwitch ms, .clearAllAnswer ms, .fenceEffect 0 ms,
      .instanceFree 0 ms, .fwRestart ms, .startPhaseComplete { meas := ms }].all fun i => !wf i) = true ∧
  wf (.escapementTick (List.replicate 9 {})) = true := by decide +kernel

/-- What the PHY senses, alerts, SPDs and sweeps keep to the widths of their fields. -/
theorem test_wf_senses : [({ early := List.replicate 11 0 } : Sense), { late := List.replicate 11 0 }, { gEarly := List.replicate 11 0 },
    { gLate := List.replicate 11 0 }, { osc := List.replicate 11 0 }, { osc := [2 ^ 16] }, { fail := 2 ^ 10 }, { bad := 2 ^ 10 }, { mr := [256] },
    { mr := List.replicate 11 0 }].all (fun z => !wf (.decisionPoint 0 0 z)) = true ∧ wf (.decisionPoint 16 1 {}) = true ∧
  wf (.alertN 0 0 (.backOff 8 1 1)) = false ∧ wf (.alertN 0 0 (.backOff 7 1 1)) = true ∧
  [({ ranksM1 := 4 } : Spd), { maxBin := 7 }, { refuse := 16 }, { moduleType := 4 }, { second := { moduleType := 4 } }, { second := { ranksM1 := 4 } }].all
    (fun d => !wf (.caliperRunStart 0 d) && !wf (.startPhaseComplete { spds := [some d] })) = true ∧
  [({ sc := 2 } : Sweep), { rk := 8 }, { lane := 16 }, { step := 16 }].all (fun w => !wf (.caliperRunEnd 0 [w])) = true := by decide +kernel

/-- Each of the other bounds refuses the first value beyond it. -/
theorem test_wf_bounds : [Instr.latchPoint [(7, 0)], .latchPoint [(0, 17)], .svcAccess 0 {}, .multiRead 0 {}, .lineWrite 0 {}, .lineRead 0 { opcode := 4 },
    .lineRead 0 { opcode := 2 }, .lineRead 0 { opcode := 3 }, .lineWriteData 0 4096 default, .strayDataFlit 0 4096 default, .ackReceived 0 4096, .nakReceived 0 4096, .meshInit 0 256 0, .meshInit 0 0 256,
    .tailDiscardEat 0 4096 default, .mr4Read 0 0 0, .mr4Read 0 0 4, .ecsRead 0 0 0 10 0 0 0, .ecsRead 0 0 0 0 8 0 0, .ecsRead 0 0 0 0 0 4 0,
    .ecsRead 0 0 0 0 0 0 (2 ^ 18), .ecsRead 0 0 (2 ^ 16) 0 0 0 0, .inBandInterrupt 0 8 0, .inBandInterrupt 0 0 16, .startPhaseComplete { i2c := 2 ^ 17 },
    .startPhaseComplete { spds := List.replicate 18 none }, .chanTestLine (2 ^ 32) default default default, .chanTestLoopback (2 ^ 32) default default default, .caliperRefab 0 16 0 0, .caliperRefab 0 0 8 0, .jewelRecordWrite 8 0,
    .jewelRecordWrite 0 8, .compatStopEnd 0 0 (List.replicate 11 0) [], .compatStopEnd 0 0 [2 ^ 25] [], .compatStopEnd 0 0 [] (List.replicate 11 0),
    .compatStopEnd 0 0 [] [2 ^ 16], .meshCreditReturn 0 8 0, .meshCreditReturn 0 0 8, .powerFailure 8].all (fun i => !wf i) = true ∧
  wf (.latchPoint [(6, 255)]) = true ∧ wf (.mr4Read 0 0 3) = true ∧ wf (.lineRead 0 { opcode := 5 }) = true := by decide +kernel

/-! ### The states of these tests -/

/-- A block in phase 9 with its frames running and Movement at work. -/
def up : State :=
  { State.reset with locked := true, bclk := 1000, phase := 9, bin := .rdimm5600, esc := { running := true, tickBclk := 900 }, mvc := { running := true } }

/-- It, with a mailbox command that has been given and not taken up. -/
def asked (m cmd : Nat) (args : List (Nat × Nat)) : State :=
  let t := args.foldl (fun (t : Tbl Word) a => Tbl.set (fun _ => 0) t a.1 (BitVec.ofNat 32 a.2)) []
  up.updMbx m fun x => { x with go := true, busy := true, cmd := cmd, seq := 7, args := t }
/-- `up` with channel 0 trained and in role 0 and page 0 of the map open, its lines all zeros. -/
def mapped : State :=
  ((up.setReg .map 0x400 (pack [(0, 4, 7), (4, 5, 16)])).setReg .map 0x0C0 0x100001).updChan 0 fun ch =>
    { ch with role := 0, prsnt := true, powered := true, resetN := false, calState := 3, filled := true }

/-- The frame of `mapped` with a mailbox command that has been given. -/
def asks (s : State) (m cmd : Nat) (args : List (Nat × Nat)) : State := { s with blk := (asked m cmd args).blk }
/-- `mapped` with bytes stored from an address on. -/
def storing (s : State) (pa : Nat) (bs : List Nat) : State := match s.writeBytes 80 pa bs with | .inr t => t | .inl _ => s
/-- An image of 64 bytes that passes its checks. -/
def image : List Nat :=
  let h := leBytes 0x4D564649 4 ++ leBytes 1 4 ++ leBytes 3 4 ++ leBytes 64 4
  let z := List.replicate 44 0
  h ++ leBytes (crc32 (h ++ z)) 4 ++ z
/-- Channel 1 holds role 16: the reserve. -/
def withReserve (s : State) : State := s.updChan 1 fun ch => { ch with role := 16, calState := 3, resetN := false, powered := true, prsnt := true }
/-- The same frame, 30 million BCLK later. -/
def later (s : State) : State := { s with bclk := s.bclk + 30000000, esc := { s.esc with tickBclk := s.esc.tickBclk + 30000000 } }
/-- A port whose link is up and whose page is enabled. -/
def linked (s : State) (g : Nat) : State :=
  ((s.updPage (.gw g) fun pg => { pg with en := true, enReq := true }).updPage (.gwAdm g) fun pg => { pg with en := true, enReq := true }).updGw g fun w =>
    { w with alive := true, link := .up, rspHdr := 9, rspData := 9 }
/-- `mapped` with port 15 up. -/
def port : State := linked mapped 15

/-- The context that the ring tests attach. -/
def ctxImage : Ctx := { log2 := 4, cfg := 1, descBase := 2 ^ 24, cmplBase := 2 ^ 25 }
/-- No address is mapped in `up`. -/
theorem up_maps_nothing (pa : Nat) (x : Loc) : up.dest pa ≠ .at_ x := by
  have h : decodePa up.mapAct pa = .unmapped := by
    unfold decodePa
    have e : ∀ n ∈ List.range 8, up.mapAct.en n = false := by decide +kernel
    rw [List.find?_eq_none.mpr (by intro n hn; simp [e n hn])]
    have r : up.mapAct.resEn = false := by decide +kernel
    simp [r]
  unfold State.dest
  rw [h]
  simp

/-! ### The queue, every command, the frame -/

theorem test_meets_StepRunsTheFrontCommand : ({ up with pending := [.lossSwitchGo] } : State).pending = .lossSwitchGo :: [] ∧ up.pending = [] ∧ State.reset.locked = false ∧
    up.canReach (up.bclk + 1) = true := by decide +kernel
theorem test_meets_StepsKeepLinesCanonical : up.MemInv ∧ up.pending = [] := by unfold State.MemInv; decide +kernel
theorem test_meets_StepsKeepLinesCanonical_next : step up = .next up.idleBclk := rfl
theorem test_meets_OnlyTicksAdvanceTheFrame : exec .warmReset up = .next up.warmReset ∧ exec (.escapementTick []) up = .next (up.escapementTick []) := ⟨rfl, rfl⟩
theorem test_meets_CommandsChangeOnlyTheirParts : Part.mem ∉ frameOf (.crownTestPortClaim true) ∧ Part.chans ∉ frameOf (.crownTestPortClaim true) ∧
    exec (.crownTestPortClaim true) up = .next { up with crn := { up.crn with tap := true } } := by
  refine ⟨by decide, by decide, rfl⟩

/-- A subchannel with one buffered write, and a line elsewhere. -/
def held1 : State := up.updSub 0 0 fun b => { b with wb := [{ req := { src := 0, write := true, loc := { ch := 0, row := 1 } } }] }
theorem test_meets_StoresKeepOtherLines_slot : exec (.decisionPoint 0 0 {}) held1 = .next (held1.decisionPoint 0 0 {}) ∧
    (∀ w ∈ (held1.sub 0 0).wb, locKey w.req.loc ≠ locKey {}) ∧ (held1.sub 0 0).crown = none := ⟨rfl, by decide +kernel, by decide +kernel⟩
theorem test_meets_StoresKeepOtherLines_channel : exec (.caliperRunEnd 0 []) up = .next (up.caliperEnd 0 []) ∧ ({ ch := 16 } : Loc).ch ≠ 0 ∧ chanOfKey (locKey { ch := 16 }) ≠ 0 :=
  ⟨rfl, by decide, by decide⟩
theorem test_meets_StoresKeepOtherLines_context : exec (.handoverDone 0) up = .next (up.handoverDone 0) ∧ ∀ r x, up.dest (up.ctxAddr r) ≠ .at_ x :=
  ⟨rfl, fun _ x => up_maps_nothing _ x⟩

theorem test_meets_TickOpensTheNextFrame : up.esc.running = true ∧ State.reset.esc.running = false ∧ exec (.escapementTick []) up = .next (up.escapementTick []) :=
  ⟨by decide, by decide, rfl⟩
theorem test_meets_TickEventsCarryOutTheirTick : up.mbOf 0xA2 = none ∧ up.mbOf 0xA4 = none ∧ up.esc.running = true ∧
  ((({ up with esc := { up.esc with frame := 1023 } } : State).frameNo + 1) % 1024 = 0) ∧ ({ up with esc := { up.esc with frame := 1024 } } : State).frameNo % 1024 = 0 ∧
  (let s : State := { up with map := { up.map with kind := 1, hold := true } };
   let v := s.atMap;
   v.map.kind ≠ 0 ∧ v.map.hold = true ∧ v.map.eff < v.esc.frame ∧ v.mapReady = true) ∧
  (let s : State := { up with trt := { up.trt with hold := true } }; s.atRoute.trt.hold = true ∧ s.atRoute.routeDrained s.atRoute.bclk = true) := by decide +kernel
theorem test_meets_TickEventsCarryOutTheirTick_free : let s := up.updIns 4095 fun x => { x with st := 5, resetDone := true };
   s.toTick.tickToIns.wasLate 6 255 = false ∧ (s.atFree.insOf 4095).st = 5 ∧ (s.atFree.insOf 4095).resetDone = true ∧ s.atFree.ringsOf 4095 = [] ∧
     (s.atFree.insOf 4095).effAt < s.atFree.esc.frame := by decide +kernel
theorem test_meets_TickEventsCarryOutTheirTick_freeShares : let s := up.updIns 4095 fun x => { x with st := 5, resetDone := true };
   ∀ c ∈ List.range 17, (s.atFree.chan c).shareOf 4095 = 0 ∧ (s.atFree.chan c).shareChg = [] := by decide +kernel
theorem test_meets_TickEventsCarryOutTheirTick_instances : ∀ k ∈ [3, 4], let s := up.updIns 4095 fun x => { x with st := 1, next := k };
   s.ins.map (fun e => e.1) = [4095] ∧ (s.insOf 4095).next = k ∧ (s.atInsDone.insOf 4095).next ≠ k := by decide +kernel
theorem test_meets_TickEventsCarryOutTheirTick_channel :
  (let v := (up.updChan 0 fun ch => { ch with fencePend := true, fenceLatch := true }).atFence [] 0;
   (v.chan 0).fenced = false ∧ (v.chan 0).fencePend = true ∧ (v.chan 0).fenceLatch = true) ∧
  (let at_ := fun (sr : SrState) (w : Word) => (up.updChan 0 fun ch => { ch with role := 0, powered := true, calState := 3, resetN := false, idleCnt := 8, sr := sr }).setReg (.cc 0) 0x050 w;
   (let v := (at_ .awake 9).atSleep [] 0;
    (v.chan 0).sr = .awake ∧ v.idle 0 = true ∧ flag (v.reg (.cc 0) 0x050) 17 = false ∧ v.regFld (.cc 0) 0x050 0 16 ≠ 0 ∧
      v.regFld (.cc 0) 0x050 0 16 ≤ (v.chan 0).idleCnt) ∧
   (let v := (at_ .awake 0x20000).atSleep [] 0; flag (v.reg (.cc 0) 0x050) 17 = true ∧ (v.chan 0).sr = .awake ∧ v.idle 0 = true) ∧
   (let v := (at_ .idleSr 0x20000).atSleep [] 0; flag (v.reg (.cc 0) 0x050) 17 = true ∧ (v.chan 0).sr = .idleSr)) ∧
  (let v := ((up.setReg (.brl 0) 0x044 1).atChan [] 0).chanWindows [] 0 2; v.regFld (.brl 0) 0x044 0 16 ≠ 0 ∧ v.frameNo % v.regFld (.brl 0) 0x044 0 16 = 0) ∧
  (let v := (up.updChan 16 fun ch => { ch with brl := { cap := some ([], 1) } }).atPublish []; (v.chan 16).brl.cap = some ([], 1) ∧ 1 ≤ v.esc.frame) := by decide +kernel
theorem test_meets_TickEventsCarryOutTheirTick_balance :
  let s := (mapped.updPage (.bal 0) fun pg => { pg with en := true, enReq := true }).updChan 0 fun ch => { ch with bal := { ch.bal with trig := 1, trigLatched := 1 } };
  let v := s.atBal [] 0;
  ((s.atChan [] 0).chan 0).bal.running = false ∧ (v.chan 0).bal.trigLatched ≠ 0 ∧ v.balMay 0 = true := by decide +kernel
theorem test_meets_TickEventsCarryOutTheirTick_window :
  let s : State := { mapped with esc := { mapped.esc with frame := 100000 } };
  let v := (s.atChan [] 0).chanWindows [] 0 1;
  (v.chan 0).inService = true ∧ v.windowEnds 0 1 v.esc.frame = true := by decide +kernel
/-- A fold whose steps all leave the state as it is. -/
theorem foldl_idle {f : State → Nat → State} {s : State} : ∀ l : List Nat, (∀ a ∈ l, f s a = s) → l.foldl f s = s
  | [], _ => rfl
  | a :: l, h => by rw [List.foldl_cons, h a (by simp), foldl_idle l fun b hb => h b (by simp [hb])]
/-- With no task, no test and no supply to switch, Movement moves nothing. -/
theorem mvcMoves_idle {s : State} (h : s.task = {}) (ht : s.tst = {}) (hs : ∀ c ∈ List.range 17, (s.chan c).supNext = none) : s.mvcMoves = s := by
  have h1 : s.moveTick = s := by unfold State.moveTick; simp [h]
  have h2 : s.rejoinCal = s := by unfold State.rejoinCal; simp [h]
  have h3 : s.rejoinTick = s := by unfold State.rejoinTick State.rejoinMoved; simp [h]
  have h4 : s.testTick = s := by unfold State.testTick; simp [ht]
  have h5 : s.testPlace = s := by unfold State.testPlace; simp [ht]
  have h6 : (List.range 17).foldl (fun s c => if s.mvcLate c then s else s.supplyTick c) s = s :=
    foldl_idle _ fun c hc => by have := hs c hc; simp [State.supplyTick, this]
  unfold State.mvcMoves State.eachCh
  simp [h1, h2, h3, h4, h5, h6]
/-- `up` with a new image of Movement due, and the state as its lists of heat have been published. -/
def swapping : State := { up with mvc := { up.mvc with swapPend := true } }
def swapPubd : State := (swapping.atPublish []).heatPublish
theorem swapping_snaps : (List.range 72).foldl State.snapTick swapPubd = swapPubd :=
  foldl_idle _ fun b hb => by
    have h : ∀ b ∈ List.range 72, (swapPubd.cnt b).capture = none := by decide +kernel
    simp [State.snapTick, h b hb]
theorem swapping_atRestart : swapping.atRestart [] = swapPubd.foldTick := by
  have h : swapPubd.wasLate 5 255 = false := by decide +kernel
  have e : swapping.toTick.tickApply.serviceToMvc [] = swapPubd.foldTick := by
    unfold State.serviceToMvc
    have := swapping_snaps
    unfold swapPubd State.atPublish at *
    simp only [this, h]
    rfl
  unfold State.atRestart
  rw [e]
  exact mvcMoves_idle (by decide +kernel) (by decide +kernel) (by decide +kernel)
theorem test_meets_TickEventsCarryOutTheirTick_restart : let v := swapping.atRestart [];
   v.wasLate 6 255 = false ∧ v.mvc.swapPend = true ∧ v.mvc.halted = false ∧ v.mvc.swapFrame ≤ v.esc.frame := by
  rw [swapping_atRestart]
  decide +kernel
/-- Every part but the routing state and the frame number. -/
def afterApply : Nat := 2 ^ 64 - 1 - 2 ^ 16 - 2 ^ 43
theorem within_afterApply {a : Nat} (h : Nat.land a afterApply = a) : Within a afterApply := h
theorem atAnswer_keeps (s : State) (ms : List CalMeas) : Kept afterApply s.toTick.tickApply (s.atAnswer ms) := by
  unfold State.atAnswer State.tickSteps
  refine State.afterChans_kept (within_afterApply (by decide)) (Kept.foldl (fun s b h => State.cntTick_kept (within_afterApply (by decide)) h b) ?_ _)
  refine State.eventTick_kept (within_afterApply (by decide)) (State.eachSub_kept (within_afterApply (by decide)) _
    (fun s c sc h => State.refreshTick_kept (within_afterApply (by decide)) h c sc) ?_)
  exact State.eachCh_kept (within_afterApply (by decide)) _ (fun s c h => State.tokenTick_kept (within_afterApply (by decide)) h c)
    (State.serviceTick_kept (within_afterApply (by decide)) (Kept.refl _ _) ms)
theorem test_meets_TickEventsCarryOutTheirTick_answer : let s : State := { up with trt := { up.trt with clearAll := some 2 }, esc := { up.esc with frame := 6 } };
   (s.atAnswer []).trt.clearAll = some 2 ∧ 2 + 4 ≤ (s.atAnswer []).esc.frame := by
  intro s
  have h := (atAnswer_keeps s []).part
  have h1 : (s.atAnswer []).trt = s.toTick.tickApply.trt := h .trt (by decide)
  have h2 : (s.atAnswer []).esc.frame = s.toTick.tickApply.esc.frame := h .frame (by decide)
  rw [h1, h2]
  decide +kernel
theorem test_meets_LatchPointComesOncePerFrame : up.esc.latched = false ∧ up.canReach (max up.bclk up.latchBclk) = true ∧ ({ up with esc := { up.esc with latched := true } } : State).esc.latched = true := by decide +kernel

/-! ### Register accesses -/

theorem test_meets_StoredRegistersTakeWrites_shadow : wfSrc .movement = true ∧ up.locked = true ∧ up.granted .movement (.cc 16) 0x050 false true = true ∧ (regRow (.cc 16) 0x050).map (·.acc) = some .rs ∧
   (up.atPage .movement (.cc 16) 0x050).rsLocked (.cc 16) = false := by decide +kernel
theorem test_meets_StoredRegistersTakeWrites_locked : 
   let s := up.updPage (.cc 16) fun pg => { pg with cmt := .checking, commit := { at_ := 1000, arrive := 0 } }
   s.granted .movement (.cc 16) 0x050 false true = true ∧ (s.atPage .movement (.cc 16) 0x050).rsLocked (.cc 16) = true := by decide +kernel
theorem test_meets_StoredRegistersTakeWrites_plain : up.granted (.crown false) (.cal 0) 0x04C false true = true ∧ (regRow (.cal 0) 0x04C).map (·.acc) = some .rw ∧ plainRw (.cal 0) 0x04C = true := by decide +kernel
theorem test_meets_ReadClearAnswersAndClears : up.granted .movement (.gw 15) 0x024 false false = true ∧ up.granted .movement .blk 0x070 false false = true ∧
    up.granted .movement .blk 0x078 false false = true ∧ up.granted .movement (.bal 16) 0x04C false false = true ∧
    ∀ x, some ((999 : Nat), (7 : Word)) = some x → x.1 ≠ 1000 := by
  refine ⟨by decide +kernel, by decide +kernel, by decide +kernel, by decide +kernel, ?_⟩
  intro x h
  cases h
  decide
theorem test_meets_PgCtlWriteTakesLevels : up.granted (.crown false) (.gw 0) 0x008 false true = true ∧ up.granted (.fabric 0 0 true) .esc 0x008 false true = true ∧ 
   (let m := up.atPage (.crown false) (.gw 0) 0x008
   (m.cmtShown (.gw 0) = .idle ∧ (m.page (.gw 0)).pendingCmt = false ∧ m.mvcShown (.gw 0) = false) ∧ 7 ≤ m.phase ∧ m.enHeld (.gw 0) = false) ∧
   (let s : State := { up with phase := 6 };
   s.granted (.crown false) (.gw 0) 0x008 false true = true ∧ (s.atPage (.crown false) (.gw 0) 0x008).phase < 7) := by decide +kernel
theorem test_meets_EscEnableStartsAndStopsFrames_clear : (let s := up.updPage .esc fun pg => { pg with en := true, enReq := true }
   let m := s.atPage (.crown false) .esc 0x008
   (m.cmtShown .esc = .idle ∧ (m.page .esc).pendingCmt = false ∧ m.mvcShown .esc = false) ∧ (m.page .esc).enReq = true ∧ (∀ c, c < 17 → (m.chan c).inService = false) ) := by decide +kernel

/-! ### Control pages -/

/-- `up` with a page changed. -/
def cpage (p : PageId) (f : Page → Page) : State := up.updPage p f
theorem test_meets_AdoptionTakesActiveValues : let s := cpage (.cc 16) fun pg => { pg with mvcActive := true };
  pageOf (PageId.cc 16).num = some (.cc 16) ∧ (s.page (.cc 16)).mvcActive = true ∧ (s.page (.cc 16)).expert = false ∧ s.mvc.running = true := by decide +kernel
theorem test_meets_CommitGoCancelDiscard : (let p : PageId := .cc 0
   up.granted .movement p 0x01C false true = true ∧ p.commitKind ≠ 0 ∧ ((up.atPage .movement p 0x01C).page p).pendingCmt = false) ∧
  (let m := up.atPage .movement (.trt up.ctlRouter) 0x01C
   up.granted .movement (.trt up.ctlRouter) 0x01C false true = true ∧ (PageId.trt up.ctlRouter).commitKind ≠ 0 ∧
   (m.page (.trt up.ctlRouter)).pendingCmt = false ∧ m.esc.running = true ∧ up.ctlRouter = m.ctlRouter) ∧
  (let m := up.atPage .movement .esc 0x01C
   up.granted .movement .esc 0x01C false true = true ∧ (m.page .esc).pendingCmt = false ∧ m.esc.running = true ∧ m.fsNew = none) ∧
  (let s := cpage (.cc 0) fun pg => { pg with cmt := .checking, commit := { at_ := 1000 } };
   s.granted .movement (.cc 0) 0x01C false true = true ∧ (s.atPage .movement (.cc 0) 0x01C).cancelLate (.cc 0) = false) := by decide +kernel
theorem test_meets_CommitCheckArmsOrRefuses_arms : let s := cpage (.cc 16) fun pg => { pg with cmt := .checking };
  (PageId.cc 16).commitKind = 1 ∧ s.fieldFail (.cc 16) = none ∧ s.stateFail (.cc 16) false = none ∧ targetOf 0 0 = none ∧ 
  targetOf (s.page (.cc 16)).commit.arrive 1 = some (some 1) := by decide +kernel
theorem test_meets_CommitCheckArmsOrRefuses_refuses : let s := (cpage (.cc 16) fun pg => { pg with cmt := .checking }).setShd (.cc 16) 0x060 0;
  s.fieldFail (.cc 16) = some (0x060, 2) ∧ (s.page (.cc 16)).cmt = .checking := by decide +kernel
theorem test_meets_InterruptPathSendsOneMessage_writes : up.granted .movement .blk 0x064 false true = true ∧ up.granted .movement .blk 0x068 false true = true ∧ 
   (up.atPage .movement .blk 0x068).blk.msgs = [] := by decide +kernel
theorem test_meets_InterruptPathSendsOneMessage_message : let s := ({ up with blk := { intEn := true, intArmed := true } } : State).updPage .blk fun pg => { pg with isr := 2, imr := 0 };
   s.blk.msgs = [] ∧ s.intNext.isSome = true ∧ s.intNext = some 1005 ∧ s.canReach 1005 = true := by decide +kernel
theorem test_meets_MailboxGoStartsCommand : up.granted .movement .blk 0x104 false true = true ∧ up.granted .movement .blk 0x184 false true = true ∧ ((up.atPage .movement .blk 0x184).mbx 1).busy = false := by decide +kernel
theorem test_meets_DeniedAccessesChangeNothing : pageAt ((PageId.cc 0).num * 4096 + 0x050) = some (.cc 0) ∧ (up.met (.fabric 15 0 true) (.cc 0) 0x050).reachesAt 0 true true ((PageId.cc 0).num * 4096 + 0x050) = true ∧
   (up.atPage (.fabric 15 0 true) (.cc 0) 0x050).mayWrite (.fabric 15 0 true) (.cc 0) 0x050 = false ∧
   (up.met (.fabric 15 4095 true) (.cc 0) 0x050).reachesAt 4095 true true ((PageId.cc 0).num * 4096 + 0x050) = false ∧
   (up.runSvcsTo (up.bclk - 1)).holdsPort (.fabric 15 4095 true) = true ∧
   (let s : State := { up with phase := 15 }; (s.runSvcsTo (s.bclk - 1)).holdsPort (.fabric 15 0 true) = false) := by decide +kernel
theorem test_meets_FlushEmptiesIngress : up.granted .movement (.gw 15) 0x05C false true = true ∧ ((up.atPage .movement (.gw 15) 0x05C).gw 15).discards 1000 = false ∧
   (let s := port.updGw 15 fun w => { w with fifo := [{ hdr := { tag := 383 } }, { hdr := { tag := 5 } }] };
    (s.gw 15).fifo[1]? = some { hdr := { tag := 5 } }) := by decide +kernel
theorem test_meets_IndexedReadsSampleTheirTarget : up.granted .movement .map 0x418 true true = true ∧ up.granted .movement (.brl 16) 0x04C false true = true := by decide +kernel
theorem test_meets_ModuleCommandsStart : up.granted .movement (.cc 16) 0x080 false true = true ∧ ((up.atPage .movement (.cc 16) 0x080).chan 16).mrBusy = false ∧
   up.granted .movement (.cc 16) 0x070 false true = true ∧ (let ch := (up.atPage .movement (.cc 16) 0x070).chan 16
     ch.sbBusy = false ∧ ch.sbTxn = none ∧ ch.sbQueue = [] ∧ dtypeOk dtPmic = true) ∧
   (let s := up.updChan 16 fun ch => { ch with sbTxn := some {} };
     s.granted .movement (.cc 16) 0x070 false true = true ∧ ((s.atPage .movement (.cc 16) 0x070).chan 16).sbTxn.isSome = true) := by decide +kernel
theorem test_meets_InjectionStartsOrIsDenied : up.granted (.crown false) .crn 0x050 false true = true ∧ (up.atPage (.crown false) .crn 0x050).crn.busy = false ∧
   (let s := up.setReg .crn 0x040 0; s.granted (.crown false) .crn 0x050 false true = true ∧ flag ((s.atPage (.crown false) .crn 0x050).reg .crn 0x040) 0 = false) ∧
   (let s := up.setReg .crn 0x040 1;
    s.granted (.crown false) .crn 0x050 false true = true ∧ flag ((s.atPage (.crown false) .crn 0x050).reg .crn 0x040) 0 = true ∧ flag (setBit 4 0) 2 = true ∧
     (injLoc ((s.atPage (.crown false) .crn 0x050).reg .crn 0x048) ((s.atPage (.crown false) .crn 0x050).reg .crn 0x04C)).isSome = true) := by decide +kernel
theorem test_meets_BlkResetBitsReset : up.granted .movement .blk 0x044 false true = true ∧ (2 ^ 16 : Nat).testBit 16 = true ∧ (up.atPage .movement .blk 0x044).chRstDenies 16 = false ∧
   ((mapped.atPage .movement .blk 0x044).chRstDenies 0 = true ∧ mapped.granted .movement .blk 0x044 false true = true) ∧
   (up.atPage .movement .blk 0x044).phase ≠ 0 ∧ (up.atPage .movement .blk 0x044).mvc.restarts = up.mvc.restarts ∧
   (let s := asked 1 0x02 []; s.granted .movement .blk 0x044 false true = true ∧ (s.atPage .movement .blk 0x044).mvc.swapMb = none ∧ ((s.atPage .movement .blk 0x044).mbx 1).busy = true) := by decide +kernel
theorem test_meets_CountBoxCommands : up.granted .movement (.cnt 71) 0x04C false true = true ∧ up.granted .movement (.cnt 16) 0x04C false true = true ∧
   up.granted .movement (.cnt 70) (0x080 + 8 * 7) true true = true ∧ up.granted .movement (.cnt 71) 0x048 false true = true := by decide +kernel
theorem test_meets_RingCommandsAndDoorbells_granted : let s := up.updPage .lthPool fun pg => { pg with en := true };
   s.granted .movement .lthPool 0x050 false true = true ∧ s.pool.busy = false ∧ ((s.atPage .movement .lthPool 0x050).page .lthPool).en = true ∧ (s.atPage .movement .lthPool 0x050).pool.busy = false ∧
   up.granted .movement (.ins 4095) 0x048 true true = true := by decide +kernel

/-! ### Mailbox commands -/

theorem test_meets_MailboxCommandsAnswerAtOnce : (asked 1 0x03 []).mbFront = some 1 ∧ ((asked 1 0x03 []).mbx 1).cmd ∉ mbCodes ∧
  (let counts := (List.range 7).flatMap fun i => bytesOf (BitVec.ofNat 32 (Tbl.get (fun _ => 0) up.esc.ovrCnt i))
   (let s := asks mapped 0 0x02 [(0, 2 ^ 24)];
    s.mbOf 0x02 = some 0 ∧ ((s.writeBytes 2 ((s.mbx 0).addr 0) counts).getRight?).isSome = true) ∧
   (let s := asked 0 0x02 []; s.mbOf 0x02 = some 0 ∧ s.writeBytes 2 ((s.mbx 0).addr 0) counts = .inl 2)) ∧
  (let s := asked 0 0xC0 [(0, (PageId.cc 16).num * 4096)];
   s.mbOf 0xC0 = some 0 ∧ ((s.mbx 0).arg 0).toNat = (PageId.cc 16).num * 4096 ∧ pageOf (PageId.cc 16).num = some (.cc 16) ∧ (s.page (.cc 16)).mvcActive = false ∧
     ((PageId.cc 16).rsOffs.take 8)[7]?.isSome = true) ∧
  (let s := asked 0 0xC0 [(0, (PageId.ins 4095).num * 4096)];
   s.mbOf 0xC0 = some 0 ∧ ((s.mbx 0).arg 0).toNat = (PageId.ins 4095).num * 4096 ∧ pageOf (PageId.ins 4095).num = some (.ins 4095) ∧
     (s.page (.ins 4095)).mvcActive = false) := by decide +kernel
theorem test_meets_RegisterCommandsCommitTheirPages : 
  let pg := fun (s : State) (l : List PageId) => s.esc.running = true ∧ s.anyExpert l = false ∧ s.pagesBusy l = false;
  badMask 0x10001 = false ∧ maskChans 0x10001 = [0, 16] ∧
  (asked 0 0x30 [(0, 0x10001)]).mbOf 0x30 = some 0 ∧ pg (asked 0 0x30 [(0, 0x10001)]) [.cc 0, .cc 16] ∧
  (let s := asked 0 0x40 [(0, 0x10001), (2, 0xFFFFF), (3, 1)];
   s.mbOf 0x40 = some 0 ∧ (s.mbx 0).argF 2 20 12 = 0 ∧ (s.mbx 0).argF 3 0 16 ≠ 0) ∧
  (asked 0 0x51 []).mbOf 0x51 = some 0 ∧ pg up [.bal 0, .bal 16] ∧ (asked 0 0x60 []).mbOf 0x60 = some 0 ∧ pg up [.cc 0, .elog 0, .cc 16, .elog 16] ∧
  (asked 0 0x70 []).mbOf 0x70 = some 0 ∧ (asked 0 0x71 []).mbOf 0x71 = some 0 ∧ pg up [.brl 0, .brl 16] ∧
  (let s := asked 0 0x90 []; s.mbOf 0x90 = some 0 ∧ (s.mbx 0).argF 0 0 2 = 0) ∧ pg up [.lthPool] ∧
  (let s := asked 0 0x90 [(0, 3), (1, 1)]; s.mbOf 0x90 = some 0 ∧ (s.mbx 0).argF 0 0 2 = 3 ∧ ((s.mbx 0).arg 1).toNat = 1) ∧ pg up [.lth 1] := by decide +kernel
theorem test_meets_SetCommandsCommitTheirPages : 
  let pg := fun (s : State) (l : List PageId) => s.esc.running = true ∧ s.anyExpert l = false ∧ s.pagesBusy l = false;
  let bad := fun (n : Nat) => (regRow .esc 0x050).any fun r => fldRule (pack [(0, 9, n)]) r.flds != 0;
  (let s := asks { mapped with bin := .rdimm6400 } 0 0x01 [(0, 98)]; s.mbOf 0x01 = some 0 ∧ s.fsPages = [(0, 0), (0, 1)] ∧ pg s [.esc, .slt 0 0, .slt 0 1] ∧
    bad ((s.mbx 0).argF 0 0 9) = false ∧ bootHas ((s.mbx 0).argF 1 0 8) s.bin ((s.chan 0).spd.getD {}) = true ∧
    bootFits ((s.mbx 0).argF 1 0 8) 0 s.bin ((s.chan 0).spd.getD {}) = true) ∧
  (let s := asks mapped 0 0x01 []; s.mbOf 0x01 = some 0 ∧ bad ((s.mbx 0).argF 0 0 9) = true) ∧
  (let s := asks mapped 0 0x10 [(0, 2 ^ 24), (2, 976)]; s.mbOf 0x10 = some 0 ∧ pg s [.map] ∧ s.map.kind = 0 ∧ s.traffic = false ∧ ((s.mbx 0).arg 2).toNat = 976 ∧
    s.readBytes ((s.mbx 0).addr 0) 976 = .inr (List.replicate 976 0)) ∧
  (let s := asked 0 0x11 [(0, 16)]; s.mbOf 0x11 = some 0 ∧ s.map.kind = 0 ∧ ((s.mbx 0).arg 0).toNat = 16 ∧ s.map.committed = false ∧ 16 = s.map.reserveNom ∧ pg s [.map]) ∧
  (let s : State := { (asked 0 0x11 [(0, 16)]) with map := { up.map with committed := true } };
    s.mbOf 0x11 = some 0 ∧ ((s.mbx 0).arg 0).toNat = 16 ∧ s.map.committed = true ∧ (s.chan 16).role ≠ 16) ∧
  (let s := asked 0 0x11 [(0, 17)]; s.mbOf 0x11 = some 0 ∧ ((s.mbx 0).arg 0).toNat = 17) := by decide +kernel
theorem test_meets_SetCommandsCommitTheirPages_tables : 
  let pg := fun (s : State) (l : List PageId) => s.esc.running = true ∧ s.anyExpert l = false ∧ s.pagesBusy l = false;
  (let s : State := { (asked 0 0x20 [(4, 0x10001), (5, 3)]) with bin := .rdimm6400 };
    s.mbOf 0x20 = some 0 ∧ flag ((s.mbx 0).arg 0) 0 = false ∧ badMask ((s.mbx 0).arg 4) = false ∧ fld ((s.mbx 0).arg 5) 2 30 = 0 ∧
    pg s [.slt 0 0, .slt 0 1, .slt 16 0, .slt 16 1] ∧ maskChans ((s.mbx 0).arg 4).toNat = [0, 16] ∧
    bootHas ((s.mbx 0).argF 0 8 8) s.bin ((s.chan 16).spd.getD {}) = true ∧
    bootFits ((s.mbx 0).argF 0 8 8) ((s.mbx 0).argF 0 16 1) s.bin ((s.chan 16).spd.getD {}) = true) ∧
  (let s := asks mapped 0 0x20 [(0, 1), (1, 2 ^ 24), (3, 520), (4, 0x10000), (5, 2)];
    s.mbOf 0x20 = some 0 ∧ flag ((s.mbx 0).arg 0) 0 = true ∧ badMask ((s.mbx 0).arg 4) = false ∧ fld ((s.mbx 0).arg 5) 2 30 = 0 ∧
    maskChans ((s.mbx 0).arg 4).toNat = [16] ∧ flag ((s.mbx 0).arg 5) 0 = false ∧ flag ((s.mbx 0).arg 5) 1 = true ∧
    ((s.mbx 0).arg 3).toNat = 520 * 1 ∧ s.readBytes ((s.mbx 0).addr 1) 520 = .inr (List.replicate 520 0)) := by decide +kernel
theorem test_meets_SetCommandsCommitTheirPages_park :
  (let s := asks mapped 0 0x31 [(0, 0x10001), (1, 1)]; s.mbOf 0x31 = some 0 ∧ badMask ((s.mbx 0).arg 0) = false ∧ flag ((s.mbx 0).arg 1) 0 = true ∧
    maskChans ((s.mbx 0).arg 0).toNat = [0, 16] ∧ (s.chan 0).inService = true ∧ (s.chan 16).inService = false ∧ s.anyExpert [.cc 0, .cc 16] = false ∧
    s.pagesBusy [.cc 0] = false) ∧
  (let s := asked 0 0x31 [(0, 0x10000), (1, 1)]; s.mbOf 0x31 = some 0 ∧ maskChans ((s.mbx 0).arg 0).toNat = [16] ∧ (s.chan 16).inService = false ∧
    s.anyExpert [.cc 16] = false ∧ s.pagesBusy [] = false) ∧
  (let s := asked 0 0x31 []; s.mbOf 0x31 = some 0 ∧ maskChans ((s.mbx 0).arg 0).toNat = []) := by decide +kernel
theorem test_meets_SetCommandsCommitTheirPages_routes :
  (let s := asked 0 0x80 [(0, 109 * 256)]; s.mbOf 0x80 = some 0 ∧ flag ((s.mbx 0).arg 0) 0 = false ∧ (s.mbx 0).argF 0 8 8 = 109 ∧ flag ((s.mbx 0).arg 4) 0 = false ∧
    s.esc.running = true ∧ s.anyExpert ((List.range 36).map .trt) = false ∧ s.pagesBusy ((List.range 36).map .trt) = false ∧ s.routerDead 35 = false) ∧
  (let s := asks mapped 0 0x80 [(0, 1), (1, 2 ^ 24), (3, 5472), (4, 1)]; s.mbOf 0x80 = some 0 ∧ flag ((s.mbx 0).arg 0) 0 = true ∧ ((s.mbx 0).arg 3).toNat = 5472 ∧
    flag ((s.mbx 0).arg 4) 0 = true ∧ s.trt.clearPend = false ∧ ((s.readBytes ((s.mbx 0).addr 1) 5472).getRight?).isSome = true) := by decide +kernel
/-- Channels 0 and 1 with modules of a known geometry, the second the reserve, and a map whose check passes. -/
def geared : State := [(4, 13), (7, 14), (8, 15), (9, 16), (10, 17), (11, 18)].foldl (fun s x => s.setReg .map (0x100 + 8 * x.1) (BitVec.ofNat 32 (2 ^ x.2)))
  (((withReserve port).updChan 0 fun ch => { ch with spd := some {} }).updChan 1 fun ch => { ch with spd := some {} })
/-- A word of the map of `geared` with masks 4 and 7 exchanged, or with one that fails its check. -/
def rehashWord (bad : Bool) (o : Nat) : Word := if o = 0x120 then (if bad then 1 else 2 ^ 14) else if o = 0x138 then 2 ^ 13 else geared.reg .map o
/-- Its image in memory, and the command that has been given it. -/
def rehashAsked (bad : Bool) : State :=
  storing (asks geared 0 0x10 [(0, 2 ^ 24), (2, 976)]) (2 ^ 24) ((List.range 244).flatMap fun i => bytesOf (rehashWord bad (0x040 + 4 * i)))
/-- What MAP_SET finds in the buffer: the image's words. -/
def rehashImg (s : State) (o : Nat) : Word :=
  match s.readBytes ((s.mbx 0).addr 0) 976 with | .inr b => (wordsOf b).getD ((o - 0x040) / 4) 0 | .inl _ => 0
/-- The image in the shadow of the map page. -/
def rehashPut (s : State) : State := PageId.map.rsOffs.foldl (fun (v : State) o => v.mvcWrite .map o (rehashImg s o)) s
theorem test_meets_SetCommandsCommitTheirPages_rehash : let s := rehashAsked false;
  s.mbOf 0x10 = some 0 ∧ s.map.kind = 0 ∧ ((s.mbx 0).arg 2).toNat = 976 ∧ s.traffic = true ∧ s.mapDiff (rehashImg s) = [0x120, 0x138] ∧
  ((s.mapDiff (rehashImg s)).all fun o => (s.rehashSet o).isSome) = true ∧ s.chanOfRole 16 = some 1 ∧ s.rehashLchs [0x120, 0x138] = [0] ∧
  s.anyExpert (s.rehashPages 1 [0]) = false ∧ s.pagesBusy (s.rehashPages 1 [0]) = false ∧ s.atWork = false ∧
  (rehashPut s).mapFails (rehashPut s).mapShd = none := by decide +kernel
theorem test_meets_SetCommandsCommitTheirPages_rehashFails : let s := rehashAsked true;
  s.mbOf 0x10 = some 0 ∧ s.traffic = true ∧ s.mapDiff (rehashImg s) = [0x120, 0x138] ∧ (rehashPut s).mapFails (rehashPut s).mapShd = some { sel := 4, reason := 9 } := by decide +kernel
theorem test_meets_TrainAsksForRuns : (let s := asked 0 0x50 [(0, 0x10001), (1, 1)]
  s.mbOf 0x50 = some 0 ∧ badMask ((s.mbx 0).arg 0) = false ∧ (s.mbx 0).argF 1 0 2 = 1 ∧ (s.mbx 0).argF 2 1 31 = 0 ∧ s.pagesBusy [.cal 0, .cal 16] = false ∧
  maskChans ((s.mbx 0).arg 0).toNat = [0, 16] ∧ ∀ c ∈ [0, 16], s.trainRefused c = false ∧ s.trainLevel c = false) ∧
  (let s := asks mapped 0 0x50 [(0, 1), (1, 2)]
   s.mbOf 0x50 = some 0 ∧ (s.mbx 0).argF 1 0 2 = 2 ∧ maskChans ((s.mbx 0).arg 0).toNat = [0] ∧ s.trainRefused 0 = true) ∧
  (let s := (asked 0 0x50 [(0, 0x10000), (1, 1)]).updPage (.cal 16) fun pg => { pg with expert := true }
   s.mbOf 0x50 = some 0 ∧ s.trainRefused 16 = false ∧ s.trainLevel 16 = true ∧ s.pagesBusy [] = false) ∧
  ((up.updChan 16 fun ch => { ch with supNext := some (true, 0) }).chan 16).supNext = some (true, 0) ∧ 0 ≤ up.esc.frame := by decide +kernel
theorem test_meets_RingMailboxCommandsEnd_attach : let s := storing (asks mapped 0 0x90 [(0, 1), (1, 3), (2, 2 ^ 24)]) (2 ^ 24) (lineBytes [lineOfCtx ctxImage]);
  s.mbOf 0x90 = some 0 ∧ (s.mbx 0).argF 0 0 2 = 1 ∧ ((s.mbx 0).arg 1).toNat = 3 ∧ s.pool.busy = false ∧ s.pool.next = none ∧ s.anyExpert [.lthPool] = false ∧
  s.pagesBusy [.lthPool] = false ∧ s.readBytes ((s.mbx 0).addr 2) 64 = .inr (lineBytes [lineOfCtx ctxImage]) ∧
  (ctxOfLine (lineWith 0 0 (lineBytes [lineOfCtx ctxImage]))).itag = 0 ∧ (s.ring 3).ctx.st = 0 ∧
  ((s.writeBytes 2 (s.ctxAddr 3) (lineBytes [lineOfCtx ctxImage])).getRight?).isSome = true ∧
  ((s.updCtx 3 fun c => { c with st := 1 }).ring 3).ctx.st ≠ 0 := by decide +kernel
/-- LATHE_SET in a mailbox, its ring command staged for a tick. -/
def staged (cmd : Nat) : State :=
  let s := asks mapped 0 0x90 [(0, cmd), (1, 3)]
  { storing s (s.ctxAddr 3) (lineBytes [lineOfCtx ctxImage]) with pool := { next := some (0, 3, cmd, 0) } }
theorem test_meets_RingMailboxCommandsEnd_tick : let v := staged 1;
  v.pool.next = some (0, 3, 1, 0) ∧ 0 ≤ v.esc.frame ∧ v.pool.busy = false ∧ v.mvc.running = true ∧ (v.page .lthPool).expert = false ∧
  (let u := { v with pool := { v.pool with next := none } };
   u.seeLine (u.ctxAddr 3) = .data (lineOfCtx ctxImage) ∧ u.attachFails 3 (lineOfCtx ctxImage) = 0) ∧
  (((staged 2).updCtx 3 fun c => { c with st := 3 }).ring 3).ctx.st = 3 ∧ ((staged 2).ring 3).ctx.st ≠ 1 ∧ ((staged 2).ring 3).ctx.st ≠ 3 := by decide +kernel
theorem test_meets_RingMailboxCommandsEnd_ends : ∀ n ∈ [0, 1], let v : State := { staged 2 with pool := { result := n } };
  (v.mbx 0).cmd = 0x90 ∧ (v.mbx 0).argF 0 0 2 = 2 ∧ v.pool.next = none ∧ v.pool.busy = false ∧ v.pool.result = n := by decide +kernel
theorem test_meets_RingMailboxCommandsEnd_detach : let s := (asked 0 0x90 [(0, 2), (1, 2 ^ 18 - 1)]).updCtx (2 ^ 18 - 1) fun c => { c with st := 1 };
  s.mbOf 0x90 = some 0 ∧ ((s.mbx 0).arg 1).toNat = 2 ^ 18 - 1 ∧ (s.mbx 0).argF 0 0 2 = 2 ∧ s.anyExpert [.lthPool] = false ∧ s.pagesBusy [.lthPool] = false ∧
  s.pool.busy = false ∧ s.pool.next = none := by decide +kernel
theorem test_meets_InstanceCommandsWaitForTheirTick : let at_ := fun (s : State) (st : Nat) => s.updIns 4095 fun x => { x with st := st };
  (let s := at_ (asked 0 0xA1 [(0, 4095)]) 1; s.mbOf 0xA1 = some 0 ∧ (s.mbx 0).argF 0 0 12 = 4095 ∧ (s.insOf 4095).st = 1 ∧ (s.insOf 4095).next = 0) ∧
  (let s := at_ (asked 0 0xA1 [(0, 4095)]) 2; s.mbOf 0xA1 = some 0 ∧ (s.insOf 4095).st ≠ 1 ∧ (s.insOf 4095).st ≠ 4) ∧
  (let s := at_ (asked 0 0xA2 [(0, 4095)]) 1; s.mbOf 0xA2 = some 0 ∧ s.aliases 4095 = false ∧ (s.insOf 4095).st = 1 ∧ (s.insOf 4095).next = 0) ∧
  (let s := at_ (asked 0 0xA4 [(0, 4095)]) 1; s.mbOf 0xA4 = some 0 ∧ flag ((s.mbx 0).arg 0) 12 = false) ∧
  (let s := at_ (asked 0 0xA4 [(0, 4095 + 4096)]) 4; s.mbOf 0xA4 = some 0 ∧ (s.mbx 0).argF 0 0 12 = 4095 ∧ flag ((s.mbx 0).arg 0) 12 = true ∧ (s.insOf 4095).st = 4) ∧
  (let s := asks mapped 0 0xA0 [(0, 5), (2, 2 ^ 24), (4, 128)]; s.mbOf 0xA0 = some 0 ∧ ((s.mbx 0).arg 4).toNat = 128 ∧ ((s.mbx 0).arg 1).toNat ≤ 262144 ∧
    s.readBytes ((s.mbx 0).addr 2) 128 = .inr (List.replicate 128 0) ∧ s.recordFails 5 0 false false (List.replicate 128 0) = none) ∧
  (asked 0 0xA7 []).mbOf 0xA7 = some 0 ∧ ((asked 0 0xA7 []).mbx 0).argF 0 0 12 = 0 ∧
  (let s := asks mapped 0 0xA3 [(1, 2 ^ 24), (3, 34)]; s.mbOf 0xA3 = some 0 ∧ ((s.mbx 0).arg 3).toNat = 34 ∧ ((s.mbx 0).arg 4).toNat = 0 ∧ s.readBytes ((s.mbx 0).addr 1) 34 = .inr (List.replicate 34 0) ∧
    s.shareBad 0 (sharesOf (List.replicate 34 0)) = none) ∧
  (let s := (mapped.updChan 0 fun ch => { ch with share := [(0, 5)] }); s.chanOfRole 0 = some 0 ∧ (s.chan 0).shareFinal 0 ≠ (sharesOf (List.replicate 34 0)).getD 0 0) := by decide +kernel
theorem test_meets_InstanceCommandsWaitForTheirTick_ticks : let at_ := fun (k : Nat) => up.updIns 4095 fun x => { x with st := 1, next := k, nextAt := 0, mb := some 1 };
  (∀ k ∈ [3, 4, 5, 6, 7, 8], ((at_ k).insOf 4095).next = k ∧ ((at_ k).insOf 4095).nextAt ≤ (at_ k).esc.frame ∧ ((at_ k).insOf 4095).mb = some 1) ∧
  (at_ 7).superseded (.ins 4095) 0x050 2 = false ∧ (∀ c ∈ List.range 17, ((at_ 8).chan c).shareChg = []) ∧
  (let s : State := { mapped with insStage := some { itag := 5, at_ := 0, mb := some 0 } };
   s.insStage = some { itag := 5, at_ := 0, mb := some 0 } ∧ 0 ≤ s.esc.frame ∧ s.chanOfRole 0 = some 0) := by decide +kernel
/-- What SAVE writes for instance 5. -/
def blob : List Nat := up.blobBytes 5
theorem test_meets_InstanceCommandsWaitForTheirTick_restore : let s := storing (asks mapped 0 0xA6 [(0, 5), (1, 2 ^ 24), (3, 256)]) (2 ^ 24) blob;
  s.mbOf 0xA6 = some 0 ∧ ((s.mbx 0).arg 3).toNat = 256 ∧ s.readBytes ((s.mbx 0).addr 1) 256 = .inr blob ∧ blobFails blob 256 = none ∧ blobRings blob = [] ∧
  s.recordFails 5 (leNat blob 0x14 4) ((leNat blob 0x0F 1).testBit 0) ((leNat blob 0x0F 1).testBit 1) ((blob.drop 0x40).take 128) = none := by decide +kernel
theorem test_meets_SaveWritesTheBlob : (let s := (asks mapped 0 0xA5 [(0, 5), (1, 2 ^ 24), (3, 256)]).updIns 5 fun x => { x with st := 4 };
   s.mbOf 0xA5 = some 0 ∧ (s.mbx 0).argF 0 0 12 = 5 ∧ (s.insOf 5).st = 4 ∧ (s.blobBytes 5).length = ((s.mbx 0).arg 3).toNat ∧ ((s.writeBytes 6 (2 ^ 24) (s.blobBytes 5)).getRight?).isSome = true) ∧
  (let s := (asks mapped 0 0xA5 [(0, 5), (1, 2 ^ 24), (3, 255)]).updIns 5 fun x => { x with st := 4 };
   s.mbOf 0xA5 = some 0 ∧ ((s.mbx 0).arg 3).toNat < (s.blobBytes 5).length ∧ ((s.mbx 0).arg 3).toNat ≠ 0) := by decide +kernel
theorem test_meets_InstancesDrain : (let s := up.updIns 4095 fun x => { x with st := 2, resetDone := false };
    (s.insOf 4095).resetDone = false ∧ s.oldWrites 4095 = false ∧ s.trt.clearPend = false ∧ (s.insOf 4095).st = 2 ∧ (s.insOf 4095).mb = none) ∧
  (let s := up.updIns 4095 fun x => { x with st := 2, resetDone := false, mb := some 1 };
    (s.insOf 4095).resetDone = false ∧ s.oldWrites 4095 = false ∧ (s.insOf 4095).st = 2 ∧ (s.insOf 4095).mb = some 1) ∧
  (let s := up.updIns 4095 fun x => { x with st := 5, resetDone := false };
    (s.insOf 4095).resetDone = false ∧ s.oldWrites 4095 = false ∧ s.trt.clearPend = false ∧ (s.insOf 4095).st ≠ 2) ∧
  (let s := (up.updIns 4095 fun x => { x with st := 3, mb := some 0 }).updRing 7 fun g => { g with ctx := { ctxImage with st := 2, itag := 4095 } };
    (s.insOf 4095).st = 3 ∧ (s.gws.any fun e => e.2.tags.any fun t => t.2.itag == 4095 && decide (0 < t.2.left)) = false ∧
      (s.les.any fun e => e.2.ops.any fun o => o.itag == 4095) = false ∧ s.ringsOf 4095 = [7] ∧ s.mayForm 7 = false ∧ (s.insOf 4095).mb = some 0) ∧
  (let s := (up.setReg (.ins 4095) 0x050 4).updPage (.ins 4095) fun pg => { pg with isr := 1, imr := 0 };
    s.blk.msgs = [] ∧ flag (s.reg (.ins 4095) 0x050) 2 = true ∧ (s.insOf 4095).msgDue = none ∧ (s.page (.ins 4095)).asserts = true ∧ (s.insOf 4095).asserted = false) := by decide +kernel
theorem test_meets_LiveServiceCommandsStart : (let s := withReserve (asks mapped 0 0xB0 [(0, 0)]);
    s.mbOf 0xB0 = some 0 ∧ (s.mbx 0).argF 0 5 3 = 0 ∧ (s.mbx 0).argF 0 9 23 = 0 ∧ s.tkRefuse 0 = 0 ∧ s.chanOfRole 16 = some 1 ∧ s.anyExpert (tkPages 0 1) = false ∧ s.pagesBusy (tkPages 0 1) = false ∧ s.map.kind = 0) ∧
  (let s := (asked 0 0xB1 [(0, 16)]).updChan 16 fun ch => { ch with prsnt := true };
    s.mbOf 0xB1 = some 0 ∧ (s.mbx 0).argF 0 0 5 = 16 ∧ s.rjnRefuse 16 = 0 ∧ s.anyExpert (rjnPages 16) = false ∧ s.pagesBusy (rjnPages 16) = false ∧ s.calBusy 16 = false) ∧
  (let s := storing (asks mapped 0 0xB2 [(0, 2 ^ 24), (2, 64)]) (2 ^ 24) image;
    s.mbOf 0xB2 = some 0 ∧ s.atWork = false ∧ ((s.mbx 0).arg 2).toNat = 64 ∧ s.readBytes ((s.mbx 0).addr 0) 20 = .inr (image.take 20) ∧ imageHeader (image.take 20) = some (3, 64) ∧
      s.readBytes ((s.mbx 0).addr 0) 64 = .inr image ∧ crc32 (image.take 16 ++ image.drop 20) = ((wordsOf ((image.take 20).drop 16)).getD 0 0).toNat) ∧
  (let s := (asked 0 0xB3 [(0, 16), (1, 1)]).updChan 16 fun ch => { ch with prsnt := true };
    s.mbOf 0xB3 = some 0 ∧ s.tst.on = false ∧ (s.mbx 0).argF 1 0 8 ≠ 0 ∧ (s.chan 16).inService = false ∧ (s.chan 16).prsnt = true ∧ s.calrefFault 16 = false ∧
      s.anyExpert (chanPages 16) = false ∧ s.pagesBusy (chanPages 16) = false ∧ s.calBusy 16 = false ∧ (s.mbx 0).argF 0 8 2 = 0 ∧
      ((asked 0 0xB3 [(0, 16 + 256)]).mbx 0).argF 0 8 2 = 1) ∧
  (let s := (({ up with tst := { on := true, ch := 16, mb := some 0 } } : State).updChan 16 fun ch => { ch with test := true }).updPage (.slt 16 0) fun pg => { pg with commit := { applied := true } };
   let s := s.updPage (.slt 16 1) fun pg => { pg with commit := { applied := true } };
    s.tst.on = true ∧ s.tst.train = false ∧ (s.chan s.tst.ch).test = true ∧ s.tst.mb = some 0 ∧ s.tst.kind = 0 ∧ s.tablesDone s.tst.ch = true) ∧
  (let s := ({ up with tst := { on := true, ch := 16, kind := 1, mb := some 0 } } : State).updChan 16 fun ch => { ch with test := true };
    s.tst.on = true ∧ s.tst.train = false ∧ (s.chan s.tst.ch).test = true ∧ s.tst.mb = some 0 ∧ s.tst.kind = 1) := by decide +kernel
theorem test_meets_LiveServiceCommandsStart_ticks : (let s : State := { mapped with task := { kind := 1, src := 0, dst := 1 } };
    s.mvc.running = true ∧ s.task.kind = 1 ∧ s.task.fail = false ∧ s.task.phase = 0 ∧ s.task.at_ ≤ s.esc.frame ∧ s.pagesBusy (tkPages 0 1) = false ∧ s.map.kind = 0) ∧
  (let s := fun (rjn phase : Nat) (ok : Bool) => ({ up with task := { kind := 2, dst := 16, phase := phase, mb := some 0 } } : State).updChan 16 fun ch => { ch with rjn := rjn, supplies := ok };
    let w := fun rjn phase ok => (s rjn phase ok).rejoinMoved;
    (w 0 0 true).task.kind = 2 ∧ (w 0 0 true).task.phase = 0 ∧ (w 0 0 true).task.at_ ≤ (s 0 0 true).esc.frame ∧ ((w 1 1 true).chan 16).rjn = 1 ∧
    (w 1 1 true).task.phase ≠ 0 ∧ ((w 1 1 true).chan 16).supplies = true ∧
    ((w 1 1 false).chan 16).rjn = 1 ∧ ((w 1 1 false).chan 16).supplies = false ∧ (w 1 1 false).task.mb = some 0) ∧
  (let v := ({ up with task := { kind := 2, dst := 16, phase := 1, until_ := some 0 } } : State).updChan 16 fun ch => { ch with rjn := 5 };
    v.rejoinMoved.task.kind = 2 ∧ v.rejoinMoved.task.phase ≠ 0 ∧ (v.rejoinMoved.chan 16).rjn ≠ 1 ∧ v.rejoinMoved.task.until_ = some v.esc.frame) ∧
  (let v : State := { up with task := { kind := 2, dst := 16, phase := 1, rjn := some (5, 0) } };
    v.task.kind = 2 ∧ v.task.rjn = some (5, 0) ∧ 0 ≤ v.esc.frame) ∧
  (let v : State := { up with tst := { on := true, ch := 16, mb := some 0, fin := some (0, [(0, 1)], 0) } };
    v.tst.on = true ∧ v.tst.fin = some (0, [(0, 1)], 0) ∧ 0 ≤ v.esc.frame ∧ v.tst.mb = some 0) := by decide +kernel
theorem test_meets_MovementChangesItsImage : (let s : State := { up with mvc := { up.mvc with trial := some (5, 900), swapMb := some 1 } };
    s.mvc.trial = some (5, 900) ∧ s.bclk ≤ 900 + s.bin.us 10000 ∧ s.mvc.swapMb = some 1) ∧
  (let s : State := { up with bclk := 28000900, esc := { up.esc with tickBclk := 28000800 }, mvc := { up.mvc with trial := some (5, 900), swapMb := some 0 } };
    s.canReach (max s.bclk (900 + s.bin.us 10000)) = true ∧ s.mvc.swapMb = some 0) ∧ up.phase ≠ 0 ∧ up.mvc.halted = false ∧
  (let s : State := { up with mvc := { up.mvc with recent := [900, 950] } };
    ¬ (s.mvc.recent.filter fun t => decide (s.bclk ≤ t + s.bin.us 1000000)).length < 2) ∧
  (up.mvc.recent.filter fun t => decide (up.bclk ≤ t + up.bin.us 1000000)).length < 2 := by decide +kernel
theorem test_meets_TakeoverRuns : (let s := withReserve (mapped.updChan 0 fun ch => { ch with evtAt := some 900 });
    (s.chan 0).evtAt = some 900 ∧ s.bclk ≤ 900 + s.bin.us 1000 ∧ s.chanOfRole 16 = some 1 ∧ s.tkRefuse 0 = 0 ∧ s.mvc.running = true ∧ s.map.kind = 0 ∧ s.anyExpert (tkPages 0 1) = false ∧ s.pagesBusy (tkPages 0 1) = false) ∧
  (let s : State := { mapped with copy := { on := true, dst := 1 }, therm := { rate := 1 } };
    s.copy.on = true ∧ s.copy.next < s.chanLines ∧ s.therm.rate ≠ 0 ∧ s.canReach (max s.bclk (s.copyTime s.copy.next)) = true ∧ s.copy.poison = false ∧
      s.copy.out.length + (s.mvc.cq.filter fun w => w.req.use == 4 || w.req.use == 5).length + 16 ≤ 64) ∧
  (let s : State := { mapped with copy := { on := true, dst := 1, poison := true }, therm := { rate := 1 } };
    s.copy.on = true ∧ s.copy.next < s.chanLines ∧ s.therm.rate ≠ 0 ∧ s.canReach (max s.bclk (s.copyTime s.copy.next)) = true ∧ s.copy.poison = true) ∧
  (let s : State := { up with bclk := 28000900, esc := { up.esc with tickBclk := 28000800 }, copy := { on := true, out := [3], lastRead := 900 } };
    s.copy.on = true ∧ s.copy.poison = false ∧ s.copy.out ≠ [] ∧ s.canReach (max s.bclk (s.copy.lastRead + s.bin.us 10000)) = true) ∧
  (let s : State := { up with task := { kind := 1, phase := 5, mb := some 0 } };
    s.task.kind = 1 ∧ s.task.phase = 5 ∧ s.mvc.running = true) ∧
  (let s : State := { up with task := { kind := 1, phase := 6, mb := some 0 } };
    s.task.kind = 1 ∧ s.task.phase = 6 ∧ s.mvc.running = true ∧ s.task.mb = some 0) := by decide +kernel

/-! ### The fabric ports and the modules -/

theorem test_meets_PortAcceptsHeaders : port.flitOk 15 (cutHdr {}).seq ∧ port.portClear 15 ∧
  (let s := port.updGw 15 fun w => { w with tailDisc := true }; s.flitOk 15 (cutHdr {}).seq ∧ (s.gw 15).tailDisc = true ∧ 0 < (s.gw 15).reqHdr) ∧
  (let at_ := fun (h : ReqHdr) (t : Tbl TagRec) => port.updGw 15 fun w => { w with fifo := [{ hdr := h }], tags := t };
   ((at_ { tag := 383 } [(383, { left := 1 })]).gw 15).fifo = { hdr := { tag := 383 } } :: [] ∧
   ((at_ { tag := 383 } [(383, { left := 1 })]).gw 15).inUse 383 = true ∧
   ((at_ { tag := 384 } []).gw 15).inUse 384 = false ∧ hdrMalformed { tag := 384 } = true ∧
   ((at_ { tag := 383, opcode := 2, nlines := 4 } []).gw 15).inUse 383 = false ∧ hdrMalformed { tag := 383, opcode := 2, nlines := 4 } = false) ∧
  (let s := port.updGw 15 fun w => { w with fifo := [{}] }; s.gwFirst = some (atEnd s.bclk, 15, .g0)) := by
  unfold State.flitOk State.portClear
  decide +kernel
theorem test_meets_PortAcceptsHeaders_service : let y := cutHdr { opcode := 4, priv := true };
    let u := (port.flitIn 15 y.seq fun s => s.headerIn 15 y).gwAhead fun s => (s.firstSvc 15).map fun _ => s.bclk
    (u.pkts.map fun p => match p.body with | .svcReq g z => (g, z.opcode) | _ => (99, 0)) = [(15, 4)] ∧ (u.svcOne 15).isSome = true := by decide +kernel
theorem test_meets_LineReadIsAdmitted : let at_ := fun (st : Nat) (h : ReqHdr) => port.updGw 15 fun w => { w with pipe := [{ req := { src := 15, pa := h.addr }, hdr := h, st := st }] };
   ((at_ 0 {}).gw 15).pipe[0]? = some { req := { src := 15 }, hdr := {}, st := 0 } ∧ (at_ 0 {}).itagOf 15 {} = some 0 ∧ (at_ 0 {}).lineMay 0 0 = true ∧
   (at_ 0 { itag := 4095 }).itagOf 15 { itag := 4095 } = some 4095 ∧ (at_ 0 { itag := 4095 }).lineMay 4095 0 = false ∧
   ((at_ 0 {}).setReg (.gw 15) 0x040 8).itagOf 15 { pasidV := true, pasid := 2 ^ 20 - 1 } = none ∧
   9 ≤ (at_ 1 {}).phase ∧ (at_ 1 {}).dest 0 = .at_ {} ∧ (at_ 1 {}).dest (2 ^ 40) = .unmapped ∧ ({ at_ 1 {} with phase := 8 } : State).phase < 9 ∧
   ((at_ 3 {}).gw 15).holds = [] ∧ ((at_ 3 {}).gw 15).recent = [] ∧ ((at_ 3 {}).gw 15).cq = [] ∧ Tbl.get (fun _ => 0) ((at_ 3 {}).chan 0).share 0 = 0 ∧
   (let s := (at_ 3 {}).updChan 0 fun ch => { ch with share := [(0, 5)] };
    0 < Tbl.get (fun _ => 0) (s.chan 0).share 0 ∧ flag (s.reg (.gwAdm 15) 0x040) 0 = false ∧ s.waitsLine 15 0 = false) ∧
   ({ (geared.setReg .map 0x408 1).setReg .map 0x40C 8 with map := { geared.map with resClosed := true } } : State).dest (2 ^ 35) = .closed := by decide +kernel
theorem test_meets_PortTakesDataFlits : (let i : Item := { hdr := { opcode := 3, last := false } };
    let s := port.updGw 15 fun w => { w with fifo := [i], due := 1 };
    s.writeDue 15 [] i ∧ 0 < (s.gw 15).reqData ∧ s.flitOk 15 4096 ∧ s.flitOk 15 (cutHdr { tag := 383 }).seq ∧ 0 < (s.gw 15).reqHdr ∧ (s.gw 15).tailDisc = false) ∧
   (let l : PLine := { req := { src := 15 }, hdr := { opcode := 3, last := false }, st := 3, wait := true };
    let s := port.updGw 15 fun w => { w with pipe := [l], due := 1 };
    (s.gw 15).partLast = false ∧ (s.gw 15).due = 1 ∧ (s.gw 15).tailDisc = false ∧ (s.gw 15).pipe.find? (·.wait) = some l) ∧
   ((port.updGw 15 fun w => { w with tailDisc := true }).gw 15).tailDisc = true ∧ (port.gw 15).due = 0 ∧ (port.gw 15).tailDisc = false ∧
   ((port.updGw 15 fun w => { w with due := 2 }).gw 15).due = 2 := by unfold State.writeDue State.flitOk; decide +kernel
theorem test_meets_LinkKeepsFlits : (port.gw 15).nakMode = false ∧ port.linkUp 15 = true ∧ (up.gw 15).link ≠ .init ∧ (up.gw 15).link ≠ .up ∧
  (let s := (later port).updGw 15 fun w => { w with replay := [{ seq := 4095 }, { seq := 0 }], stallSince := some 990, unacked := some 30001000 };
   (s.gw 15).replay = [{ seq := 4095 }] ++ { seq := 0 } :: [] ∧ (∀ x ∈ ([{ seq := 4095 }] : List RpFlit), x.seq ≠ 0) ∧ s.linkHears 15 = true ∧
     (s.gw 15).resend = 0 ∧ s.canReach (0 + s.bin.us 2) = true ∧ (s.gw 15).stallSince = some 990 ∧ (s.gw 15).unacked = some 30001000 ∧
     s.canReach (30001000 + 64) = true ∧ ((s.goto (30001000 + 64)).gw 15).unacked = some 30001000 ∧
     (s.goto (30001000 + 64)).egIdle 15 (s.goto (30001000 + 64)).bclk = true) ∧
  (let s := (later port).updGw 15 fun w => { w with link := .init, initRecv := some 990, replay := [{ seq := 0, fkind := 3 }] };
   s.linkHears 15 = true ∧ s.linkUp 15 = false ∧ (s.gw 15).link = .init ∧ s.gwEn 15 = true ∧ (s.gw 15).replay = { seq := 0, fkind := 3 } :: [] ∧ (s.gw 15).resend = 0 ∧
     s.canReach (0 + s.bin.us 2) = true) ∧
  (let s := (port.updGw 15 fun w => { w with stallSince := some 990 }).setReg (.gw 15) 0x054 0;
   s.canReach (990 + s.bin.us (fld (s.reg (.gw 15) 0x054) 0 10)) = true) ∧
  (let s := port.updGw 15 fun w => { w with replay := [{ seq := 4095 }, { seq := 0 }], resend := 1 };
   (s.gw 15).replay[(s.gw 15).replay.length - (s.gw 15).resend]? = some { seq := 0 }) := by decide +kernel
theorem test_meets_PortComesAndGoes : (port.gw 15).alive = true ∧ (up.gw 15).alive = false ∧
  (let s := port.updGw 15 fun w => { w with link := .init };
   (s.gw 15).link = .init ∧ (s.gw 15).tags = [] ∧ s.gwEn 15 = true ∧ (s.gw 15).initSent = none ∧ (s.gw 15).initRecv = none ∧
   s.linkDue 15 = some (atEnd 1000) ∧ s.canReach (max ((atEnd 1000 + 1) / 2) (s.bclk + 1)) = true) ∧
  (let s := port.updGw 15 fun w => { w with link := .init, initSent := some 990, initRecv := some 1000 };
   (s.gw 15).initSent = some 990 ∧ (s.gw 15).initRecv = some 1000) := by decide +kernel
/-- Port 15 in a state, with a response on its way to it. -/
def eg (gen : Nat) (f : Gw → Gw) : State :=
  ({ port with pkts := [{ body := .memResp { req := { src := 15, gen := gen }, rkind := 1 }, dst := nodeGw 15, arr := 1000 }] } : State).updGw 15 f
/-- The state in which its egress is asked. -/
def egRun (s : State) : State := (s.egressAhead 15).svcsFor 15
/-- The state two BCLK after its response has entered E0. -/
def egEnd (s : State) : State := (egRun s).goto (max 1001 ((egRun s).gw 15).egFree + 2)
/-- The response that it finds: its kind, the BCLK it enters E0, whether it is from the torus, stale, and lacks a credit. -/
def egFinds (s : State) : Option (Nat × Nat × Bool × Bool × Bool) :=
  ((egRun s).nextEgress 15).map fun x => (x.1.rkind, x.2.1, x.2.2.isSome, (egEnd s).staleAt x.1 1001, ((egEnd s).gw 15).lacks x.1)
theorem test_meets_EgressSendsResponses : let s := eg 0 id;
   egFinds s = some (1, 1001, true, false, false) ∧ (egRun s).canReach (max 1001 ((egRun s).gw 15).egFree + 2) = true ∧ ((egRun s).gw 15).resend = 0 ∧
     (egEnd s).linkUp 15 = true ∧ ((egEnd s).gw 15).replay.length + 2 ≤ 256 := by decide +kernel
theorem test_meets_EgressSendsResponses_waits : (let s := eg 0 fun w => { w with rspData := 0 };
    egFinds s = some (1, 1001, true, false, true) ∧ (egEnd s).linkUp 15 = true) ∧
   (let s := eg 0 fun w => { w with replay := List.replicate 255 {} };
    egFinds s = some (1, 1001, true, false, false) ∧ (egEnd s).linkUp 15 = true ∧ 256 < ((egEnd s).gw 15).replay.length + 2) ∧
   (let s : State := { (eg 0 fun w => { w with replay := List.replicate 40 {}, resend := 40 }) with bclk := 2060 };
    ((egRun s).nextEgress 15).isSome = true ∧ ((egRun s).gw 15).resend ≠ 0) := by decide +kernel
theorem test_meets_EgressSendsResponses_drops : (let s := eg 0 fun w => { w with link := .down };
    (egFinds s).map (fun x => x.2.2.2.1) = some false ∧ (egEnd s).linkUp 15 = false) ∧
   egFinds (eg 1 id) = some (1, 1001, true, true, false) := by decide +kernel
theorem test_meets_EgressSendsResponses_bounce : (let p : Pkt := { body := .bounce { src := 15 } 1, dst := nodeGw 15, arr := 1000 };
   let s := { port with pkts := [p] };
   let u := s.goto (p.arr + 1);
   s.pkts = [] ++ p :: [] ∧ p.bounceFor 15 = some ({ src := 15 }, 1) ∧ s.canReach (p.arr + 1) = true ∧ (u.gw 15).link = .up ∧ ((u.gw 15).tag 0).old = false ∧ u.genOf 0 = 0) ∧
  (let a : Aside := { req := { src := 15 }, until_ := 1010, bounced := true };
   let s := port.updGw 15 fun w => { w with aside := [a] };
   let u := s.gwAhead fun s => (s.gw 15).firstAside.map (·.until_);
   let v := u.goto a.until_;
   (u.gw 15).firstAside = some a ∧ u.canReach a.until_ = true ∧ u.pkts = [] ∧ (v.gw 15).g4q = [] ∧ ((v.gw 15).firstAside.getD a).bounced = true) := by decide +kernel
theorem test_meets_ModulesAreRead : (let s := up.updSub 16 1 fun b => { b with mrsRead := [(0, 3), (1, 2)] };
   (s.sub 16 1).mrsOf 0 = some 3 ∧ (s.sub 16 1).mrsOf 1 = some 2) ∧
  (let s := up.updChan 16 fun ch => { ch with sbTxn := some { kind := 2, start := 1000 } };
   (s.chan 16).sbTxn = some { kind := 2, start := 1000 } ∧ (s.chan 16).sbQueue = [] ∧ s.bclk ≤ 1000 + s.bin.us 100) ∧
  (let s := up.updChan 16 fun ch => { ch with sbTxn := some { kind := 1, start := 1000 } };
   (s.chan 16).sbTxn = some { kind := 1, start := 1000 } ∧ s.bclk ≤ 1000 + s.bin.us 100) ∧
  (let s : State := ({ up with esc := { up.esc with tickBclk := 210800 }, bclk := 210900 } : State).updChan 16 fun ch => { ch with sbTxn := some { kind := 0, dtype := dtTs 1, start := 900 } };
   s.canReach (max s.bclk (900 + s.bin.us 100)) = true) ∧
  (let s := up.updChan 16 fun ch => { ch with spd := some {}, prsnt := true };
   (s.chan 16).spd = some {} ∧ (s.chan 16).prsnt = true ∧ s.esc.running = true ∧ (s.chan 16).pollAt ≤ s.esc.frame ∧ s.wasLate 2 16 = false ∧
   (s.chan 16).sbTxn = none ∧ 4 ≤ s.phase ∧ (s.chan 16).sbI2c = false ∧ (s.chan 16).sbQueue = []) ∧
  (let s := (up.updPage (.elog 16) fun pg => { pg with en := true }).updPage (.elog2 16) fun pg => { pg with en := true };
   (s.page (.elog 16)).en = true ∧ (s.page (.elog2 16)).en = true ∧ Tbl.get (fun _ => 0) (s.chan 16).ecs 7 < 65535 ∧ 0 ≤ Tbl.get (fun _ => 0) (s.chan 16).ecs 7) := by decide +kernel
theorem test_meets_AlertsRetryWrites : (let w : WLine := { slot := some { frame := 0, slot := 18 } };
   let s : State := ({ up with bclk := 2000 } : State).updSub 16 1 fun b => { b with wb := [w] };
   s.esc.running = true ∧ (s.sub 16 1).alert = none ∧ (s.sub 16 1).wb = [w] ∧ s.esc.tickBclk + 32 * s.k ≤ s.bclk ∧ Pos.le (s.posAt (s.bclk - 32 * s.k)) { frame := 0, slot := 180 } = true ∧
     Pos.lt { frame := 0, slot := 180 } (s.posAt s.bclk) = true ∧ s.canReach (s.closeAt w) = true) := by decide +kernel

/-! ### Slot engines -/

/-- `port` with a table of C read entries for bank 0 in force in both subchannels of channel 0. -/
def trained : State :=
  let on := fun (s : State) p => s.updPage p fun pg => { pg with en := true, enReq := true }
  let one := fun (s : State) sc => ((List.range 98).foldl (fun s i => s.setReg (.slt 0 sc) (0x600 + 4 * i) 0x40004000) (s.setReg (.slt 0 sc) 0x040 195)).updSub 0 sc fun b =>
    { b with legal := true }
  on (on (on (on (one (one port 0) 1) (.cc 0)) (.phy 0)) (.slt 0 0)) (.slt 0 1)
/-- A read of the first line of channel 0 by port 15. -/
def readReq : Req := { src := 15, loc := { ch := 0 } }
/-- It, come to the channel. -/
def readPkt : Pkt := { body := .memReq readReq, src := nodeGw 15, dst := nodeCh 0, arr := 1000 }
/-- A state in which a packet is on its way, as CHANNEL_ENQUEUE of channel 0 finds it. -/
def comes (s : State) (p : Pkt) : State := ({ s with pkts := [p] } : State).gwAhead fun s => (s.firstReq 0).map fun x => x.1.arr
/-- The state as it enqueues the request of that packet. -/
def reached (s0 : State) (p : Pkt) (r : Req) : State :=
  let b := max (p.arr + b2n r.write + 1) (s0.chan 0).enqFree
  let v := s0.goto (b + 2)
  State.updChan { v with pkts := eraseFirst (fun q => q == p) v.pkts } 0 fun ch =>
    { ch with enqFree := b + 1, arb := { ch.arb with granted := if r.g then ch.arb.granted else ch.arb.granted - 1 } }
theorem test_meets_DecisionPointDecidesNextSlot_idle : let p := up.nextDec 16 1;
    let d := (up.goto (up.decBclk 16 p)).drainActs 16 1 (up.goto (up.decBclk 16 p)).bclk;
    let u := d.updSub 16 1 fun b => { b with lastDec := some p, crnWr := b.crnWr.filter fun x => decide (d.bclk < x.2) };
    up.esc.running = true ∧ up.canReach (up.decBclk 16 p) = true ∧ u.notRunning 16 1 p = true := by decide +kernel
theorem test_meets_DecisionPointDecidesNextSlot_fills : let s := ((trained.updChan 0 fun ch => { ch with role := 31, rjn := 4 }).updPage (.slt 0 0) fun pg => { pg with commit := { fill := true, applied := true } }).setReg (.slt 0 0) 0x604 0x60004000;
    let s := (List.range 98).foldl (fun s i => s.setReg (.slt 0 0) (0x600 + 4 * i) 0x60004000) s;
    let p := s.nextDec 0 0;
    let d := (s.goto (s.decBclk 0 p)).drainActs 0 0 (s.goto (s.decBclk 0 p)).bclk;
    let u := d.updSub 0 0 fun b => { b with lastDec := some p, crnWr := b.crnWr.filter fun x => decide (d.bclk < x.2) };
    s.canReach (s.decBclk 0 p) = true ∧ u.notRunning 0 0 p = true ∧ ((u.effEntry 0 0 p).isData && (u.effEntry 0 0 p).dir && u.fills 0 0) = true := by decide +kernel
theorem test_meets_DecisionPointDecidesNextSlot_serves : let s := trained.updSub 0 0 fun b => { b with ram := [{ sn := 5, req := readReq, stamp := { frame := 0, slot := 29 } }] };
    let p := s.nextDec 0 0;
    let at_ := s.decBclk 0 p;
    let d := (s.goto at_).drainActs 0 0 (s.goto at_).bclk;
    let u := d.updSub 0 0 fun b => { b with lastDec := some p, crnWr := b.crnWr.filter fun x => decide (d.bclk < x.2) };
    s.canReach at_ = true ∧ u.notRunning 0 0 p = false ∧
      (let v := (u.flexDecide 0 0 p).decideWins 0 0 p
      let e := v.effEntry 0 0 p
      let w := v.closeRow 0 0 e.bank (cmdPos v.bin (v.timing 0) e.dir (v.absSlot p)).act.toNat
      (v.chan 0).drain = false ∧ v.suppressed 0 0 p e = none ∧ e.isData = true ∧ e.isMrs = false ∧ e.isCal = false ∧ e.kind ≠ 3 ∧ e.col = false ∧
      ((v.sub 0 0).winDec.any fun q => q.1 == p && q.2) = false ∧ e.dir = false ∧ (w.sub 0 0).crown = none ∧
      w.found 0 0 p e = .serve { sn := 5, req := readReq, stamp := { frame := 0, slot := 29 } } .cEntry) := by decide +kernel
theorem test_meets_SubchannelsServe_enqueue : (let s := comes trained readPkt;
    s.firstReq 0 = some (readPkt, readReq) ∧ (s.chan 0).fenced = false ∧ readReq.due = none ∧ s.canReach 1003 = true ∧ readReq.use ≠ 2 ∧
      (reached s readPkt readReq).offOrParked 0 = false ∧ ((reached s readPkt readReq).chan 0).calRun = false ∧
      (reached s readPkt readReq).place 0 0 readReq 1003 = .at_ false { frame := 0, slot := 30 }) ∧
  (let r : Req := { readReq with g := true };
    let p : Pkt := { readPkt with body := .memReq r };
    let s := comes trained p;
    s.firstReq 0 = some (p, r) ∧ s.canReach 1003 = true ∧ (reached s p r).offOrParked 0 = false ∧ (reached s p r).place 0 0 r 1003 = .bounce 1) ∧
  (let s := comes up readPkt;
    s.firstReq 0 = some (readPkt, readReq) ∧ (s.chan 0).fenced = false ∧ s.canReach 1003 = true ∧ (reached s readPkt readReq).offOrParked 0 = true) := by decide +kernel
theorem test_meets_SubchannelsServe_write : (let r : Req := { readReq with write := true };
    let p : Pkt := { readPkt with body := .memReq r };
    let s := comes (trained.setReg (.slt 0 0) 0x604 0x60004000) p;
    s.firstReq 0 = some (p, r) ∧ s.canReach 1004 = true ∧ (reached s p r).offOrParked 0 = false ∧ (reached s p r).place 0 0 r 1004 = .at_ false { frame := 1, slot := 3 }) := by decide +kernel
theorem test_meets_SubchannelsServe_rest : (let s : State := { trained with crn := { egnt := some ({ src := 20 }, 1001) } };
    let u := (s.enqueueBefore 0 1001 s.pkts.length).goto 1001;
    s.crn.egnt = some ({ src := 20 }, 1001) ∧ max 1001 (s.chan 0).enqFree = 1001 ∧ s.canReach (1001 + 2) = true ∧ u.offOrParked 0 = false ∧ (u.chan 0).fenced = false ∧
      (u.chan 0).calRun = false) ∧
  (let s : State := { up with crn := { egnt := some ({ src := 20 }, 1001) } };
    s.crn.egnt = some ({ src := 20 }, 1001) ∧ s.canReach (1001 + 2) = true ∧ ((s.enqueueBefore 0 1001 s.pkts.length).goto 1001).offOrParked 0 = true) ∧
  (let s := up.updSub 16 1 fun b => { b with served := [{ req := { src := 15 }, slot := { frame := 0, slot := 29 } }] };
    (s.sub 16 1).served = { req := { src := 15 }, slot := { frame := 0, slot := 29 } } :: [] ∧ s.canReach (s.slotBclk { frame := 0, slot := 29 } + s.k + 7) = true) ∧
  (∀ m ∈ [none, some { rk := 1, ba := some 3 }], let e : Emerg := { rk := 1, ba := some 3, inForce := true, mit := m };
    let s := up.updSub 16 1 fun b => { b with emergs := [e], debt := [(1 * 4 + 3, 2)] };
    s.emergNext 16 1 = some e ∧ s.canReach (max s.bclk (s.bclkOfTck (s.emergTck 16 1 e))) = true) ∧
  (let s := up.updChan 16 fun ch => { ch with sr := .waking, readyAt := 1010 };
    (s.chan 16).sr = .waking ∧ s.canReach (max s.bclk (s.chan 16).readyAt) = true) := by decide +kernel

/-! ### Arbiters, the Crown port, start-up, Caliper, holds, the torus and Lathe -/

/-- It, waiting at the inlet arbiter. -/
def waitReq : CWait := { req := { readReq with created := 990 }, raised := 995 }
/-- The answer to an injection. -/
def answered : Pkt := { body := .memResp { req := { src := 20 }, rkind := 1 }, dst := nodeSvc, arr := 1000 }
/-- Channel 16 in a full Caliper run. -/
def calling : State := (up.updChan 16 fun ch => { ch with calState := 2 }).updCal 16 fun x => { x with kind := 1, step := 3, progAt := 1000, refAt := 1000 }
/-- Channel 16 with a run asked for by an owner. -/
def calWaits (owner : Nat) : State := ((up.updChan 16 fun ch => { ch with calState := 1 }).updCal 16 fun x => { x with kind := 1, owner := owner }).updPage (.cal 16) fun pg => { pg with en := true, enReq := true }
/-- Channel 16 with one rank of ×8 devices in a full run, MIN_EYE_H 0 and no DFE. -/
def sweeping : State := (calling.updChan 16 fun ch => { ch with spd := some { x8 := true } }).setReg (.cal 16) 0x040 0x30060
/-- Sweeps that pass every step of its run. -/
def sweeps : List Sweep := [2, 3, 4, 5, 8, 9, 11].flatMap fun st => [0, 1].flatMap fun sc => (List.range 5).map fun l =>
  let at_ := if st = 9 then 256 * (sweeping.timing 16).cwl - 128 else 60
  let x : Span := { lo := at_, hi := at_ + 24 }
  { step := st, sc := sc, lane := l, window := some (10, 20), bitSpans := [[x]], rows := [(20, x)], final := List.replicate 4 [x] }
theorem test_meets_ArbitersGrant_round : let s := ((linked (trained.updGw 15 fun w => { w with cq := [waitReq] }) 14).updGw 14 fun w =>
      { w with cq := [{ waitReq with req := { readReq with src := 14, created := 990 } }] }).gwAhead fun s => s.nextR0 0;
    let u := s.goto 1000;
    let el := requesters.filter fun j => u.eligibleAt 0 j 999;
    s.nextR0 0 = some 999 ∧ s.trt.hold = false ∧ s.canReach (999 + 1) = true ∧ s.grantRoom 0 ≠ 0 ∧ s.emergSoon 0 999 = false ∧
      u.holdAt 0 999 = false ∧ winnerOf (u.chan 0).arb.ptr (if u.holdAt 0 999 then fun _ => 0 else fun j => u.urgAt 0 j 999) el = some 14 ∧ 15 ∈ el ∧
      min (min ((u.cwaits 0 14).filter fun x => decide (x.raised + 1 ≤ 999)).length 8) (min (fld (u.reg (.cc 0) 0x060) 1 4) (u.grantRoom 0)) ≠ 0 := by decide +kernel
theorem test_meets_ArbitersGrant_backoff : let s := trained.updChan 0 fun ch => { ch with arb := { ch.arb with reqs := [(19, { until_ := 1010 })] } };
    ((s.chan 0).arb.req 19).until_ = 1010 ∧ s.canReach 1010 = true := by decide +kernel
theorem test_meets_ArbitersGrant_urgency : let s := ((later trained).updGw 15 fun g => { g with cq := [waitReq] }).gwAhead fun s => if s.cwaits 0 15 = [] then none else some s.bclk;
    (s.cwaits 0 15).find? (fun y => y.req.created == oldest (s.cwaits 0 15) && !y.urg3) = some waitReq ∧ s.alive 0 15 = true := by decide +kernel
theorem test_meets_ArbitersGrant_urgencyReached : let s := ((later trained).updGw 15 fun g => { g with cq := [waitReq] }).gwAhead fun s => if s.cwaits 0 15 = [] then none else some s.bclk;
      s.canReach (max (oldest (s.cwaits 0 15) + 9 * s.latTgt 0 15 / 10 + 1) (waitReq.raised + 1)) = true := by decide +kernel
theorem test_meets_ArbitersGrant_crown : let s : State := { trained with crn := { emerg := some ({ src := 20 }, 1000) } };
    s.crn.emerg = some ({ src := 20 }, 1000) ∧ s.canReach (1000 + 1) = true := by decide +kernel
theorem test_meets_CrownPortAndSamplers_answer : let s : State := { up with crn := { busy := true }, pkts := [answered] };
    s.injResp = some (answered, { req := { src := 20 }, rkind := 1 }) ∧ s.canReach answered.arr = true := by decide +kernel
theorem test_meets_CrownPortAndSamplers_window : let s := (later up).updCnt 71 fun b => { b with armed := some { at_ := 990 } };
    (s.cnt 71).armed = some { at_ := 990 } ∧ s.canReach (max s.bclk (990 + 16 * s.k + 1)) = true := by decide +kernel
theorem test_meets_StartUpGoesPhaseByPhase : State.reset.phase = 0 ∧ flag (0 : Word) 31 = false ∧ flag (0x80000000 : Word) 31 = true ∧ up.mvc.running = true ∧
  (∀ c ∈ List.range 17, ({ up with phase := 6 } : State).calBusy c = false) ∧
  (let s : State := { up with phase := 2, mvc := {} }; 2 ≤ s.phase ∧ s.mvc.running = false) := by decide +kernel
theorem test_meets_StartUpGoesPhaseByPhase_fill : let s : State := { up with phase := 7, startCfg := 2 }; s.commitsDone = true ∧ flag s.startCfg 1 = true := by decide +kernel
theorem test_meets_StartUpGoesPhaseByPhase_noFill : let s : State := { up with phase := 7, startCfg := 1 }; s.commitsDone = true ∧ flag s.startCfg 1 = false := by decide +kernel
theorem test_meets_StartUpGoesPhaseByPhase_filled : let s : State := { up with phase := 8 }; s.filling = [] ∧ s.trained = [] := by decide +kernel
theorem test_meets_StartUpGoesPhaseByPhase_train : let s := ({ up with phase := 5 } : State).updChan 16 fun ch => { ch with role := 16, spd := some {} }; (s.chan 16).inService = true ∧ (s.chan 16).accepted = true ∧ (s.chan 16).retained = false := by decide +kernel
theorem test_meets_ResetsKeepTheirDomain_parked : let s := (up.updChan 16 fun ch => { ch with sr := .parked }).setReg (.cc 16) 0x050 0x10000;
    (s.chan 16).sr = .parked ∧ flag (s.reg (.cc 16) 0x050) 16 = true ∧ s.jwlNext = none := by decide +kernel
theorem test_meets_ResetsKeepTheirDomain_CaliperRuns_record : let s : State := { up with jwl := { pend := [(16, some {})] } };
    s.jwlNext = some 16 ∧ s.jwlPend 16 = some {} ∧ s.mvc.running = true := by decide +kernel
theorem test_meets_RestoreFillAndHeadroom_restore : let s := (up.updChan 16 fun ch => { ch with calState := 2 }).updCal 16 fun x => { x with kind := 2 };
    (s.chan 16).calState = 2 ∧ (s.cal 16).kind = 2 ∧ (s.chan 16).sr = .awake := by decide +kernel
/-- The tables of a channel have been committed. -/
def tabled (s : State) (c : Nat) : State := (s.updPage (.slt c 0) fun pg => { pg with commit := { applied := true } }).updPage (.slt c 1) fun pg => { pg with commit := { applied := true } }
theorem test_meets_RestoreFillAndHeadroom_fill : let s : State := tabled { up with phase := 8, filling := [16] } 16;
    s.phase = 8 ∧ s.mvc.running = true ∧ s.filling.contains 16 = true ∧ s.tablesDone 16 = true := by decide +kernel
theorem test_meets_RestoreFillAndHeadroom_rejoin : let s := (tabled { up with task := { kind := 2, dst := 16 } } 16).updChan 16 fun ch => { ch with rjn := 4 };
    s.phase ≠ 8 ∧ s.mvc.running = true ∧ s.task.kind = 2 ∧ s.task.dst = 16 ∧ s.tablesDone 16 = true ∧ (s.chan 16).rjn = 4 ∧ s.pagesBusy [.cc 16] = false := by decide +kernel
theorem test_meets_RestoreFillAndHeadroom_headroom : let s : State := { (later up) with therm := { capBclk := some 1000, stale := false } };
    s.locked = true ∧ s.canReach (max s.bclk (1000 + s.bin.us 1000)) = true := by decide +kernel
theorem test_meets_CaliperRuns_start : ∀ f ∈ [false, true], let s := (calWaits 0).updCal 16 fun x => { x with fell := f };
    s.calMay 16 = true ∧ (s.cal 16).kind = 1 ∧ (s.cal 16).owner = 0 ∧ (s.cal 16).fell = f := by decide +kernel
theorem test_meets_CaliperRuns_refused : let s := (calWaits 2).updChan 16 fun ch => { ch with prsnt := true };
    s.calMay 16 = true ∧ (s.cal 16).kind = 1 ∧ (s.cal 16).owner ≠ 0 ∧ (judge (some s.bin) s.refSpd (s.calRead 16 { maxBin := 0, moduleType := 2 })).refuse ≠ 0 := by decide +kernel
theorem test_meets_CaliperRuns_run : let s := later calling;
   (s.chan 16).calState = 2 ∧ (s.cal 16).kind = 1 ∧ (s.cal 16).step ≤ 11 ∧ s.canReach ((s.cal 16).refAt + (s.bin.mhz * 195 + 99) / 100) = true ∧
     s.canReach ((s.cal 16).progAt + s.bin.us 1000) = true ∧ (s.cal 16).tries < s.regFld (.cal 16) 0x040 14 2 ∧
   (let s := calling.updCal 16 fun x => { x with step := 11 };
    (s.chan 16).calState = 2 ∧ (s.cal 16).kind = 1 ∧ 6 ≤ (s.cal 16).step ∧ (s.cal 16).step ≤ 11 ∧ (s.cal 16).tries < s.regFld (.cal 16) 0x040 14 2) := by decide +kernel
theorem test_meets_CaliperRuns_fails : let s := later (calling.updCal 16 fun x => { x with tries := 3, step := 6 });
   (s.chan 16).calState = 2 ∧ (s.cal 16).kind = 1 ∧ s.canReach ((s.cal 16).progAt + s.bin.us 1000) = true ∧ 6 ≤ (s.cal 16).step ∧
     s.regFld (.cal 16) 0x040 14 2 ≤ (s.cal 16).tries := by decide +kernel
theorem test_meets_CaliperRuns_sweeps : let k := sweeping.calCfg 16;
   (sweeping.chan 16).calState = 2 ∧ (sweeping.cal 16).kind = 1 ∧ (calRun k sweeps k.plan []).2 = none ∧ (calRun k [] k.plan []).2 = some (2, 0, 0, 0, 1) := by decide +kernel
theorem test_meets_CaliperRuns_stop : let s := up.updSub 16 1 fun b => { b with stop := some { ends := 1010 } };
    (s.sub 16 1).stop = some { ends := 1010 } ∧ s.canReach (max s.bclk 1010) = true := by decide +kernel
/-- Channel 0's scrubber in a state. -/
def scrubs (x : Scrub) : State := (later trained).updScrub 0 fun _ => x
theorem test_meets_ScrubberAndHolds_raises : let s := scrubs { last := 1000, pos := 3, interval := 40 };
  let x := (s.chan 0).scrub;
  s.scrubHeld 0 = false ∧ x.interval ≠ 0 ∧ s.canReach (max s.bclk (x.last + x.interval)) = true ∧ x.fly = none ∧ x.pos < s.chanLines := by decide +kernel
/-- A hold on its way to a unit. -/
def holdPkt (u : Nat) : Pkt := { body := .hold 5 {} 3 90, dst := nodeOfSrc u, arr := 1000 }
theorem test_meets_ScrubberAndHolds_gateway : let h : HoldEnt := { itag := 5, gap := 3, held := [readReq], next := 0 };
  let s := (trained.updGw 15 fun w => { w with holds := [h] }).gwAhead fun s => s.heldDue 15;
  h.held = [readReq] ∧ h.next ≤ s.esc.frame ∧ (s.gw 15).holds = [h] ∧ (s.gw 15).recent = [] ∧ (s.gw 15).cq = [] ∧ (s.gw 15).g4q = [] ∧
    Tbl.get (fun _ => 0) (s.chan readReq.loc.ch).share readReq.itag = 0 := by decide +kernel
theorem test_meets_ScrubberAndHolds_engine : let h : HoldEnt := { itag := 5, gap := 3, held := [{ readReq with src := 17 }], next := 0 };
  ((up.updLe 1 fun w => { w with holds := [h] }).le (17 - 16)).holds = [h] := by decide +kernel
theorem test_meets_ScrubberAndHolds_credit : let s := scrubs { last := 1000, pos := 3, interval := 40, fly := some {} };
  s.scrubHeld 0 = false ∧ (s.chan 0).scrub.interval ≠ 0 ∧ s.canReach (max s.bclk (1000 + 40)) = true ∧ (s.chan 0).scrub.fly ≠ none := by decide +kernel
theorem test_meets_ScrubberAndHolds_receive : (let s : State := { up with pkts := [holdPkt 17] };
  s.pkts = [] ++ holdPkt 17 :: [] ∧ (holdPkt 17).holdFor 17 = some { itag := 5, gap := 3, endFrame := 90 } ∧ s.canReach (max s.bclk ((holdPkt 17).arr + 1)) = true ∧
    ((s.goto 1001).le (17 - 16)).holds = []) ∧
  (let s : State := { port with pkts := [holdPkt 15] };
   (holdPkt 15).holdFor 15 = some { itag := 5, gap := 3, endFrame := 90 } ∧ s.canReach (max s.bclk ((holdPkt 15).arr + 1)) = true ∧ ((s.goto 1001).gw 15).holds = []) := by decide +kernel
theorem test_meets_TorusMeetsLoss_retry : (up.rtr 35).linkFail.testBit 3 = false ∧ Tbl.get (fun _ => 0) (up.rtr 35).fails 3 + 1 < up.regFld (.trt 35) 0x040 0 4 := by decide +kernel
/-- A router whose link on port 3 has failed seven times in a row. -/
def failing : State := up.updRtr 35 fun r => { r with fails := [(3, 7)] }
theorem test_meets_TorusMeetsLoss_down : (failing.rtr 35).linkFail.testBit 3 = false ∧ failing.regFld (.trt 35) 0x040 0 4 ≤ Tbl.get (fun _ => 0) (failing.rtr 35).fails 3 + 1 := by decide +kernel
/-- The link between routers 3 and 4 has failed. -/
def lost : State := (up.updRtr 3 fun r => { r with linkFail := 1 }).updRtr 4 fun r => { r with linkFail := 2 }
theorem test_meets_TorusMeetsLoss_detour : lost.detourSet = some (38 + linkNo 3 0) ∧ lost.mvc.running = true ∧ lost.trt.double = false ∧ lost.trt.clearPend = false ∧ lost.pagesOpen ((List.range 36).map .trt) ∧
  lost.routerDead lost.ctlRouter = false := by unfold State.pagesOpen; decide +kernel
/-- The requests lost are being answered. -/
def clearing : State := { trained with trt := { trained.trt with clearPend := true } }
theorem test_meets_TorusMeetsLoss_clear : clearing.trt.clearPend = true ∧ clearing.trt.clearAll = none ∧ nodeLe 1 ∈ clearing.clearUnits ∧ nodeLe 1 ∉ clearing.trt.clears ∧ clearing.holdsMarked (nodeLe 1) = false := by decide +kernel
theorem test_meets_TorusMeetsLoss_clearAll : let s : State := { clearing with trt := { clearing.trt with clears := clearing.clearUnits } }; ∀ n ∈ s.clearUnits, n ∈ s.trt.clears := by decide +kernel
theorem test_meets_TorusMeetsLoss_fenced : let s := ({ trained with pkts := [readPkt] } : State).updChan 0 fun ch => { ch with fenced := true };
  s.pkts = [] ++ readPkt :: [] ∧ readPkt.waiting = false ∧ s.canReach readPkt.arr = true ∧ readPkt.dst = nodeCh 0 ∧ readPkt.body = .memReq readReq ∧ (s.chan 0).fenced = true := by decide +kernel
theorem test_meets_TorusMeetsLoss_discards : let p : Pkt := { body := .memReq readReq, dst := nodeLe 1, arr := 1000 };
  let s := ({ up with pkts := [p] } : State).updLe 1 fun w => { w with st := 3 };
  s.pkts = [] ++ p :: [] ∧ p.waiting = false ∧ s.canReach p.arr = true ∧ p.dst = nodeLe (18 - 17) ∧ p.body.cls ≤ 1 ∧ (s.le (18 - 17)).st = 3 := by decide +kernel
/-- The Lathe pages enabled; ring 3, of instance 0, has work. -/
def lathe (g : Ring) : State := ((mapped.updPage (.lth 0) fun pg => { pg with en := true }).updPage (.lth 1) fun pg => { pg with en := true }).updRing 3 fun _ => g
/-- The context of a ring with work. -/
def lctx : Ctx := { st := 2, log2 := 4, cfg := 1, descBase := 2 ^ 24, cmplBase := 2 ^ 25, tail := 5 }
/-- A doorbell of ring 3, by a page, on its way. -/
def bell (page : Nat) (rs : Bool) : Bell := { page := page, ring := 3, tail := 7, restart := rs, arr := 1010 }
theorem test_meets_LatheRuns_bell : let s : State := { lathe { ctx := lctx } with bells := [bell 0 false] };
  s.firstBell (fun x => (if false then x.restart else !x.restart) && s.srvOf x.ring == 1) = some (bell 0 false) ∧ s.canReach 1010 = true ∧ (s.ring 3).ctx.st ≠ 0 ∧
    (s.ring 3).ctx.itag = 0 ∧ sub21 5 0 ≤ sub21 7 0 ∧ sub21 7 0 ≤ 2 ^ lctx.log2 := by decide +kernel
theorem test_meets_LatheRuns_restart : let s : State := { lathe { ctx := { lctx with st := 3 } } with bells := [bell 0 true] };
  s.firstBell (fun x => (if true then x.restart else !x.restart) && s.srvOf x.ring == 1) = some (bell 0 true) ∧ (s.ring 3).ctx.st = 3 ∧ (s.page (.lth 1)).en = true := by decide +kernel
theorem test_meets_LatheRuns_rejected : let s : State := { lathe { ctx := lctx } with bells := [bell 4095 false] };
  s.firstBell (fun x => (if false then x.restart else !x.restart) && s.srvOf x.ring == 1) = some (bell 4095 false) ∧ s.canReach 1010 = true ∧ (s.ring 3).ctx.itag ≠ 4095 := by decide +kernel
theorem test_meets_LatheRuns_starts : let s := lathe { ctx := lctx, pre := [(0, { op := 1 })], fetchIdx := 5 };
  (s.le 1).st = 0 ∧ (s.page (.lth 1)).en = true ∧ s.map.hold = false ∧ s.canReach (max s.bclk (s.le 1).free) = true ∧ s.readyWrite 1 = none ∧ (s.le 1).bufs ≤ 1024 ∧
   s.turnOf 1 = some 3 ∧ s.ringWork 3 = some .startJob := by decide +kernel
theorem test_meets_LatheRuns_fetches : let s := lathe { ctx := lctx };
  (s.le 1).st = 0 ∧ (s.page (.lth 1)).en = true ∧ s.map.hold = false ∧ s.canReach (max s.bclk (s.le 1).free) = true ∧ s.readyWrite 1 = none ∧ (s.le 1).ops.length < 1024 ∧
   s.turnOf 1 = some 3 ∧ s.ringWork 3 = some .fetch ∧ (s.le 1).freeId = some 0 ∧ s.lDecode 0 ((s.ring 3).ctx.descAddr (s.ring 3).fetchIdx / 64 * 64) = .go { ch := 0, row := 32 } := by decide +kernel

/-! ### Lathe, and the rest of the register accesses -/

/-- A fetch of descriptors. -/
def lop : LOp := { id := 9, kind := .fetch, st := .sent, ring := 3, pa := 2 ^ 24 }
/-- The answer to operation 9 of engine 1. -/
def lpkt : Pkt := { body := .memResp { req := { src := 17, tag := 9 }, rkind := 1 }, dst := nodeLe 1, arr := 1010 }
/-- It, come back to its engine. -/
def returned (o : LOp) : State := ({ lathe { ctx := lctx } with pkts := [lpkt] } : State).updLe 1 fun w => { w with ops := [o] }
theorem test_meets_LatheRuns_returnTwo : let s := returned lop;
  s.firstLeResp 1 LOp.fetches = some (lpkt, { req := { src := 17, tag := 9 }, rkind := 1 }, lop) ∧ s.canReach lpkt.arr = true ∧ lop.gen = s.genOf lop.itag ∧ lop.kind = .fetch ∧
    (s.ring 3).fetchIdx % 2 = 0 ∧ ((s.ring 3).fetchIdx + 1) % 2 ^ 21 ≠ (s.ring 3).ctx.tail := by decide +kernel
theorem test_meets_LatheRuns_returnOne : let s := (returned lop).updRing 3 fun g => { g with ctx := { lctx with tail := 1 } };
  s.firstLeResp 1 LOp.fetches = some (lpkt, { req := { src := 17, tag := 9 }, rkind := 1 }, lop) ∧ ((s.ring 3).fetchIdx + 1) % 2 ^ 21 = (s.ring 3).ctx.tail := by decide +kernel
theorem test_meets_LatheRuns_written : let o := { lop with kind := .write };
  let s := returned o;
  s.firstLeResp 1 (fun x => !x.fetches) = some (lpkt, { req := { src := 17, tag := 9 }, rkind := 1 }, o) ∧ s.canReach lpkt.arr = true ∧ o.gen = s.genOf o.itag := by decide +kernel
theorem test_meets_LatheRuns_read : let o := { lop with kind := .read, dst := 2 ^ 25 };
  let s := returned o;
  s.firstLeResp 1 (fun x => !x.fetches) = some (lpkt, { req := { src := 17, tag := 9 }, rkind := 1 }, o) ∧ s.canReach lpkt.arr = true ∧ s.map.hold = false ∧
    s.lDecode o.itag o.dst = .go { ch := 0, row := 64 } := by decide +kernel
theorem test_meets_LatheRuns_again : let o := { lop with kind := .write, st := .retry 1010 };
  let s := returned o;
  (s.le 1).ops = [o] ∧ s.map.hold = false ∧ s.canReach 1010 = true ∧ (s.le 1).holds = [] ∧ max s.bclk 1010 < (s.firstOffline o).getD 1010 + s.latheTmo ∧
    s.lDecode o.itag o.pa = .go { ch := 0, row := 32 } := by decide +kernel
theorem test_meets_LatheRuns_completes : let j : Job := { issued := true, idx := 1 };
  let s := lathe { ctx := lctx, jobs := [j] };
  (s.ring 3).jobs = j :: [] ∧ s.srvOf 3 = 1 ∧ s.mayForm 3 = true ∧ s.map.hold = false ∧ (s.le 1).ops.length < 1024 ∧ (s.ring 3).ctx.gen = s.genOf (s.ring 3).ctx.itag ∧
    (s.le 1).freeId = some 0 ∧ (s.le 1).holds = [] ∧ j.halt = false ∧ s.lDecode 0 ((lctx.cmplBase + 16 * (j.idx % 2 ^ lctx.log2)) / 64 * 64) = .go { ch := 0, row := 64 } := by decide +kernel
theorem test_meets_LatheRuns_handover : let s := (lathe { ctx := { lctx with st := 1 } }).updLe 1 fun w => { w with st := 1 };
  (s.le 1).st = 1 ∧ (s.le 1).ops = [] ∧ ∀ x ∈ s.rings, s.srvOf x.1 = 1 → x.2.ctx.st ≠ 0 → s.mayForm x.1 = false := by decide +kernel
theorem test_meets_LatheRuns_powerUp : let s := (up.updLe 1 fun w => { w with st := 3 }).setReg (.lth 1) 0x040 1;
  2 ≤ (s.le 1).st ∧ flag (s.reg (.lth 1) 0x040) 0 = true ∧ ∀ o ∈ (s.le (1 - 1)).ops, o.ring % 2 ≠ 1 := by decide +kernel
theorem test_meets_IsetSetsPendingBits_LoReadLatchesHi : up.granted .movement (.cc 16) 0x018 false true = true ∧ up.granted .movement .blk 0x050 false false = true ∧ roLo .blk 0x050 = true ∧
  up.granted .movement .esc 0x040 false false = true := by decide +kernel
theorem test_meets_EscEnableStartsAndStopsFrames_set : let s : State := { up with esc := { up.esc with running := false } };
  s.granted (.crown false) .esc 0x008 false true = true ∧ ((s.atPage (.crown false) .esc 0x008).page .esc).enReq = false ∧
   (s.atPage (.crown false) .esc 0x008).esc.running = false ∧ (s.atPage (.crown false) .esc 0x008).cmtShown .esc = .idle ∧
   ((s.atPage (.crown false) .esc 0x008).page .esc).pendingCmt = false ∧ (s.atPage (.crown false) .esc 0x008).mvcShown .esc = false := by decide +kernel
/-- The pool page enabled and a context in memory. -/
def poolOn : State := storing (mapped.updPage .lthPool fun pg => { pg with en := true }) (up.ctxAddr 3) (lineBytes [lineOfCtx ctxImage])
/-- It, as an access finds it, with ring 3 and a command in the ring register. -/
def poolSel (cmd : Nat) : State := (poolOn.atPage .movement .lthPool 0x050).setReg .lthPool 0x050 (BitVec.ofNat 32 (3 + cmd * 2 ^ 18) &&& regMask .lthPool 0x050)
theorem test_meets_RingCommandsAndDoorbells_attach : poolOn.granted .movement .lthPool 0x050 false true = true ∧ poolOn.pool.busy = false ∧ ((poolOn.atPage .movement .lthPool 0x050).page .lthPool).en = true ∧
  (poolSel 1).seeLine ((poolSel 1).ctxAddr 3) = .data (lineOfCtx ctxImage) ∧ (poolSel 1).attachFails 3 (lineOfCtx ctxImage) = 0 := by decide +kernel
theorem test_meets_RingCommandsAndDoorbells_detach : let s := poolOn.updRing 3 fun g => { g with ctx := { ctxImage with st := 1 } };
  let m := s.atPage .movement .lthPool 0x050;
  s.granted .movement .lthPool 0x050 false true = true ∧ (m.ring 3).ctx.st = 1 ∧ m.pool.busy = false ∧ (m.ring (2 ^ 18 - 1)).ctx.st = 0 := by decide +kernel
theorem test_meets_MailboxGoStartsCommand_busy : let s := up.updMbx 1 fun x => { x with busy := true };
  s.granted .movement .blk (0x180 + 0x10 + 4 * 7) false true = true ∧ s.granted .movement .blk 0x184 false true = true ∧
    ((s.atPage .movement .blk 0x184).mbx 1).busy = true := by decide +kernel
theorem test_meets_EscEnableStartsAndStopsFrames_refused : let s := mapped.updPage .esc fun pg => { pg with en := true, enReq := true };
  let m := s.atPage .movement .esc 0x008;
  s.granted .movement .esc 0x008 false true = true ∧ (m.page .esc).enReq = true ∧ (m.chan 0).inService = true := by decide +kernel

end

end Sys2Proof.Tests
end

section
/-! The tick and the frame count (R35, R36): of all that a tick does, its opening alone moves the count, and by exactly 1. -/
namespace Sys2Proof.Machine

/-- Every part of the state but the frame count, as the set of its bits. -/
def allButFrame : Nat := 0x7ffffffffff

theorem Kept.frame_eq {s t : State} (h : Kept allButFrame s t) : t.esc.frame = s.esc.frame := h.part .frame (by decide)

theorem frame_tickOpen (s : State) : s.tickOpen.esc.frame = s.esc.frame + 1 :=
  congrArg (· + 1) (Kept.frame_eq (State.forceChecks_kept ((Within.self allButFrame).of (by decide)) (Kept.refl _ s) _))

theorem tickOpen_kept_tickToIns (s : State) : Kept allButFrame s.tickOpen s.tickToIns := by
  have hl := Within.self allButFrame
  have hmap := State.mapSwitch_kept (hl.of (by decide)) (State.mapOpen_kept (hl.of (by decide)) (Kept.refl _ s.tickOpen))
  have htables := State.applyTables_kept (hl.of (by decide)) (State.routeStep_kept (hl.of (by decide)) hmap)
  have hrates := State.eachCh_kept (hl.of (by decide)) State.rateTick
    (fun _ c h => State.rateTick_kept (hl.of (by decide)) h c) htables
  exact State.eachCh_kept (hl.of (by decide)) State.shareTick (fun _ c h => State.shareTick_kept (hl.of (by decide)) h c) hrates

theorem tickToIns_kept_tickApply (s : State) : Kept allButFrame s.tickToIns s.tickApply := by
  have hl := Within.self allButFrame
  have hins : Kept allButFrame s.tickToIns (if s.tickToIns.wasLate 6 255 then s.tickToIns else s.tickToIns.insTick) :=
    iteInduction (fun _ => Kept.refl _ _) (fun _ => State.insTick_kept (hl.of (by decide)) (Kept.refl _ _))
  exact State.enTick_kept (hl.of (by decide)) (State.applyOthers_kept (hl.of (by decide)) hins)

theorem tickApply_kept_tickSteps (s : State) (ms : List CalMeas) : Kept allButFrame s.tickApply (s.tickSteps ms) := by
  have hl := Within.self allButFrame
  have hservice := State.serviceTick_kept (hl.of (by decide)) (Kept.refl _ s.tickApply) ms
  have htokens := State.eachCh_kept (hl.of (by decide)) State.tokenTick
    (fun _ c h => State.tokenTick_kept (hl.of (by decide)) h c) hservice
  have hrefresh := State.eachSub_kept (hl.of (by decide)) State.refreshTick
    (fun _ c sc h => State.refreshTick_kept (hl.of (by decide)) h c sc) htokens
  have hevents := State.eventTick_kept (hl.of (by decide)) hrefresh
  exact Kept.foldl (f := State.cntTick) (fun _ b h => State.cntTick_kept (hl.of (by decide)) h b) hevents (List.range 72)

theorem tickSteps_kept_tick (s : State) (ms : List CalMeas) : Kept allButFrame (s.tickSteps ms) (s.tick ms) := by
  have hl := Within.self allButFrame
  have hafter := State.afterTick_kept (hl.of (by decide)) (Kept.refl _ (s.tickSteps ms))
  dsimp only [State.tick]
  split
  · exact State.escEnd_kept (hl.of (by decide)) hafter
  · exact hafter

theorem frame_tick (s : State) (ms : List CalMeas) : (s.tick ms).esc.frame = s.esc.frame + 1 :=
  calc (s.tick ms).esc.frame
    _ = (s.tickSteps ms).esc.frame := (tickSteps_kept_tick s ms).frame_eq
    _ = s.tickApply.esc.frame := (tickApply_kept_tickSteps s ms).frame_eq
    _ = s.tickToIns.esc.frame := (tickToIns_kept_tickApply s).frame_eq
    _ = s.tickOpen.esc.frame := (tickOpen_kept_tickToIns s).frame_eq
    _ = s.esc.frame + 1 := frame_tickOpen s

theorem frame_toTick (s : State) : s.toTick.esc.frame = s.esc.frame :=
  Kept.frame_eq (State.toTick_kept ((Within.self allButFrame).of (by decide)) (Kept.refl _ s))

theorem escapementTick_of_running {s : State} (h : s.esc.running = true) (ms : List CalMeas) :
    s.escapementTick ms = s.toTick.tick ms := if_pos h

theorem escapementTick_of_stopped {s : State} (h : s.esc.running = false) (ms : List CalMeas) : s.escapementTick ms = s :=
  if_neg (by simp [h])

theorem frame_escapementTick {s : State} (h : s.esc.running = true) (ms : List CalMeas) :
    (s.escapementTick ms).esc.frame = s.esc.frame + 1 := by
  rw [escapementTick_of_running h, frame_tick, frame_toTick]

/-- R36: the count read is the count of ticks modulo 2^48. -/
theorem frameNo_of_frame_succ {s t : State} (h : t.esc.frame = s.esc.frame + 1) : t.frameNo = (s.frameNo + 1) % 2 ^ 48 := by
  unfold State.frameNo
  rw [h, Nat.mod_add_mod]

theorem exec_escapementTick (s : State) (ms : List CalMeas) : exec (.escapementTick ms) s = .next (s.escapementTick ms) := rfl

/-- The two halves of a 48-bit register pair make up its value. -/
theorem half48_join {n : Nat} (h : n < 2 ^ 48) : (half48 n 0).toNat + 2 ^ 32 * (half48 n 1).toNat = n := by
  simp only [half48, loW, hi16, if_true, one_ne_zero, if_false, BitVec.toNat_ofNat]
  omega

theorem regValue_frameNo {s : State} (hl : s.locked = true) :
    s.regValue .esc 0x040 = half48 s.frameNo 0 ∧ s.regValue .esc 0x044 = half48 s.frameNo 1 := by
  simp [State.regValue, hl, State.value, State.readEsc]

/-- Settles O9: the opening of a tick adds 1 to the count of ticks (R35), every other part of the tick keeps it, and while the frames do not
run the command leaves the state as it is. -/
theorem tickOpensTheNextFrame : Obligations.TickOpensTheNextFrame := by
  unfold Obligations.TickOpensTheNextFrame
  refine ⟨rfl, fun s ms => ⟨fun hl => ?_, fun hrun => ?_, fun hstop => ?_⟩⟩
  · obtain ⟨hlo, hhi⟩ := regValue_frameNo hl
    rw [hlo, hhi]
    exact half48_join (Nat.mod_lt _ (by decide))
  · have hframe := frame_escapementTick hrun ms
    have hkept := State.escapementTick_kept (Within.self _) (Kept.refl _ s) ms
    exact ⟨_, exec_escapementTick s ms, frameNo_of_frame_succ hframe, hframe,
      hkept.part .phase (by decide), hkept.part .locked (by decide), hkept.part .bin (by decide)⟩
  · rw [exec_escapementTick, escapementTick_of_stopped hstop]

end Sys2Proof.Machine
end

section
/-! EN of the ESC page (R28, R29): the write of PG_CTL by its cases, and what it leaves of EN and of the frames. -/
namespace Sys2Proof.Machine

/-- The word that ESC_EN_CLEAR and ESC_EN_SET write carries the EN that they name. -/
theorem flag_escCtl (s : State) (en : Bool) : flag (BitVec.ofNat 32 (s.escCtl en)) 0 = en := by
  have hlt : b2n en < 2 := by cases en <;> decide
  have hval : (BitVec.ofNat 32 (s.escCtl en)).toNat % 2 = b2n en := by
    simp only [State.escCtl, setFld, bits, BitVec.toNat_ofNat, Nat.shiftRight_zero, Nat.shiftLeft_zero, pow_one]
    omega
  rw [flag, Nat.testBit_zero, hval]
  cases en <;> rfl

theorem enHeld_esc_iff (m : State) : m.enHeld .esc = true ↔ ∃ c, c < 17 ∧ (m.chan c).inService = true := by
  simp [State.enHeld, List.any_eq_true, List.mem_range]

/-- The source's write of PG_CTL is judged by EN alone: it is Movement's, or the block is past phase 6 and nothing on the page stands
against a change of its level (R130, R131, R502). -/
def State.ctlOpen (m : State) (src : Src) (p : PageId) : Prop :=
  (src = .movement ∨ 7 ≤ m.phase) ∧
  (src = .movement ∨ (m.cmtShown p = .idle ∧ (m.page p).pendingCmt = false ∧ m.mvcShown p = false))

/-- EN of a page, as it stands and as asked for, and the frames are the same in two states. -/
structure EnKept (p : PageId) (s t : State) : Prop where
  esc : t.esc = s.esc
  en : (t.page p).en = (s.page p).en
  enReq : (t.page p).enReq = (s.page p).enReq

theorem EnKept.refl (p : PageId) (s : State) : EnKept p s s := ⟨rfl, rfl, rfl⟩

theorem EnKept.trans {p : PageId} {s t u : State} (h : EnKept p s t) (k : EnKept p t u) : EnKept p s u :=
  ⟨k.esc.trans h.esc, k.en.trans h.en, k.enReq.trans h.enReq⟩

theorem Page.body_en {a b : Page} (h : a.body = b.body) : a.en = b.en := by have := congrArg Page.en h; exact this

theorem Page.body_enReq {a b : Page} (h : a.body = b.body) : a.enReq = b.enReq := by have := congrArg Page.enReq h; exact this

theorem Page.body_err {a b : Page} (h : a.body = b.body) : a.err = b.err := by have := congrArg Page.err h; exact this

theorem EnKept.updPage {s : State} {p : PageId} {f : Page → Page} (hen : ∀ pg, (f pg).en = pg.en)
    (hreq : ∀ pg, (f pg).enReq = pg.enReq) : EnKept p s (s.updPage p f) :=
  have hb := updPage_body_self s p f
  ⟨rfl, (Page.body_en hb).trans (hen _), (Page.body_enReq hb).trans (hreq _)⟩

theorem EnKept.answered (p : PageId) (m : State) (st d : Nat) : EnKept p m (m.answered st d) :=
  have hb := answered_body m st d p
  ⟨(answered_kept m st d).part .esc (by decide), Page.body_en hb, Page.body_enReq hb⟩

/-- A clear of EN that R28 or R93 forbids is refused, and nothing else happens. -/
theorem writeCtl_of_held {m : State} {src : Src} {p : PageId} {v : Word} (ho : m.ctlOpen src p) (hv : flag v 0 = false)
    (hreq : (m.page p).enReq = true) (hheld : m.enHeld p = true) : m.writeCtl src p v = m.setErr p 0x008 8 := by
  obtain ⟨hphase, hidle⟩ := ho
  cases src with
  | movement => simp [State.writeCtl, hv, hreq, hheld]
  | crown _ | fabric _ _ _ =>
    simp only [reduceCtorEq, false_or] at hphase hidle
    obtain ⟨hcmt, hpend, hmvc⟩ := hidle
    simp [State.writeCtl, hv, hreq, hheld, hphase.not_gt, hcmt, hpend, hmvc]

/-- Any other open write of PG_CTL changes EN, and beside it no more than the page's modes. -/
theorem writeCtl_of_free {m : State} {src : Src} {p : PageId} {v : Word} (ho : m.ctlOpen src p)
    (hfree : ¬(flag v 0 = false ∧ (m.page p).enReq = true ∧ m.enHeld p = true)) :
    EnKept p (m.writeEn src p (flag v 0)) (m.writeCtl src p v) := by
  obtain ⟨hphase, hidle⟩ := ho
  cases src with
  | movement => simp [State.writeCtl, hfree, EnKept.refl]
  | crown _ | fabric _ _ _ =>
    simp only [reduceCtorEq, false_or] at hphase hidle
    obtain ⟨hcmt, hpend, hmvc⟩ := hidle
    simp only [State.writeCtl, Bool.not_false, hphase.not_gt, and_false, ↓reduceIte, Bool.false_eq_true, ne_eq, hcmt,
      not_true_eq_false, hpend, or_self, Bool.and_eq_true, Bool.not_eq_eq_eq_not, Bool.not_true, hmvc, hfree, Bool.not_and]
    exact EnKept.updPage (fun _ => rfl) (fun _ => rfl)

/-- R29: a clear of EN that is taken makes the next tick the last. -/
theorem writeEn_esc_clear {m : State} (src : Src) (hreq : (m.page .esc).enReq = true) :
    m.writeEn src .esc false =
      { m.updPage .esc (fun pg => { pg with enReq := false }) with esc := { m.esc with stopping := true } } := by
  simp [State.writeEn, hreq]

/-- R29: a set of EN while no frames run starts them in this BCLK. -/
theorem writeEn_esc_set {m : State} (src : Src) (hreq : (m.page .esc).enReq = false) (hstop : m.esc.running = false) :
    m.writeEn src .esc true =
      { m.updPage .esc (fun pg => { pg with en := true, enReq := true }) with
        esc := { m.esc with running := true, stopping := false, tickBclk := m.bclk, restart := true, latched := false } } := by
  simp [State.writeEn, State.escStart, hreq, hstop]

/-- A granted write of PG_CTL is answered OK, whatever becomes of EN (R92). -/
theorem pageWrite_pgCtl {s : State} {src : Src} {p : PageId} (hw : wfSrc src = true) (hg : s.granted src p 0x008 false true = true)
    (hl : s.locked = true) (n : Nat) :
    s.pageWrite src p.num 0x008 n = ((s.atPage src p 0x008).writeCtl src p (BitVec.ofNat 32 n)).answered 0 0 := by
  rw [pageWrite_granted hw hg, State.wrote]
  change (((s.atPage src p 0x008).writeReg src p 0x008 _).1.answered ((s.atPage src p 0x008).writeReg src p 0x008 _).2 0) = _
  have hm : (s.atPage src p 0x008).locked = true := (atPage_locked s src p 0x008).trans hl
  simp [State.writeReg, hm]

theorem exec_escEnClear (s : State) (src : Src) :
    exec (.escEnClear src) s = .next (s.pageWrite src PageId.esc.num 0x008 (s.escCtl false)) := rfl

theorem exec_escEnSet (s : State) (src : Src) :
    exec (.escEnSet src) s = .next (s.pageWrite src PageId.esc.num 0x008 (s.escCtl true)) := rfl

/-- Settles O17: a granted write of PG_CTL comes to `writeCtl`, which refuses a clear while a channel is in service (R28) and otherwise
changes EN as `writeEn` does; neither the page's modes nor the answer touches EN or the frames. -/
theorem escEnableStartsAndStopsFrames : Obligations.EscEnableStartsAndStopsFrames := by
  unfold Obligations.EscEnableStartsAndStopsFrames
  intro s src hw hg hl m hphase hidle
  have ho : m.ctlOpen src .esc := ⟨hphase, hidle⟩
  refine ⟨fun hreq hsvc => ⟨_, exec_escEnClear s src, ?_⟩, fun hreq hsvc => ⟨_, exec_escEnClear s src, ?_⟩,
    fun hreq hstop => ⟨_, exec_escEnSet s src, ?_⟩⟩ <;> rw [pageWrite_pgCtl hw hg hl]
  · rw [writeCtl_of_held ho (flag_escCtl s false) hreq ((enHeld_esc_iff m).mpr hsvc)]
    have hb := (answered_body (m.setErr .esc 0x008 8) 0 0 .esc).trans (updPage_body_self m .esc _)
    exact ⟨Page.body_err hb, (EnKept.answered .esc _ 0 0).esc, (Page.body_enReq hb).trans hreq, (Page.body_en hb).trans rfl⟩
  · have hfree : m.enHeld .esc ≠ true := fun hheld => by
      obtain ⟨c, hc, hin⟩ := (enHeld_esc_iff m).mp hheld
      exact absurd (hsvc c hc) (by rw [hin]; decide)
    have hkept := (writeCtl_of_free ho (v := BitVec.ofNat 32 (s.escCtl false)) fun h => hfree h.2.2).trans
      (EnKept.answered .esc _ 0 0)
    rw [flag_escCtl, writeEn_esc_clear src hreq] at hkept
    have hb := updPage_body_self m .esc fun pg => { pg with enReq := false }
    exact ⟨congrArg Blk.accStatus (answered_blk _ 0 0), hkept.esc, hkept.enReq.trans (Page.body_enReq hb),
      hkept.en.trans ((Page.body_en hb).trans rfl)⟩
  · have hkept := (writeCtl_of_free ho (v := BitVec.ofNat 32 (s.escCtl true)) fun h => by simp [flag_escCtl] at h).trans
      (EnKept.answered .esc _ 0 0)
    rw [flag_escCtl, writeEn_esc_set src hreq hstop] at hkept
    have hb := updPage_body_self m .esc fun pg => { pg with en := true, enReq := true }
    exact ⟨congrArg Blk.accStatus (answered_blk _ 0 0), hkept.en.trans (Page.body_en hb), hkept.enReq.trans (Page.body_enReq hb), hkept.esc⟩

end Sys2Proof.Machine
end

section
/-! Mailboxes (R134, R135, R137, R520): a mailbox after each operation on it, the write of a mailbox register by its cases, and the way of a
granted write of the BLK page to its mailbox. -/
namespace Sys2Proof.Machine

/-- A mailbox as its GO leaves it (R135). -/
def Mbx.started (x : Mbx) : Mbx := { x with go := true, busy := true, done := false }

/-- A mailbox as the completion of its command leaves it (R137). -/
def Mbx.ended (x : Mbx) (status detail : Nat) (res : List (Nat × Nat)) : Mbx :=
  { x.put res with
    go := false, busy := false, running := false, done := true, status := status, seqEcho := x.seq,
    detail := detail % 256, await := [], refused := [], chans := [], eff := 0 }

@[simp] theorem mbx_updMbx (s : State) (m : Nat) (f : Mbx → Mbx) : (s.updMbx m f).mbx m = f (s.mbx m) := by
  by_cases h : m = 1 <;> simp [State.updMbx, State.mbx, h]

theorem mbx_of_blk_eq {s t : State} (h : t.blk = s.blk) (m : Nat) : t.mbx m = s.mbx m := by
  simp only [State.mbx, h]

theorem mbx_answered (s : State) (status data m : Nat) : (s.answered status data).mbx m = s.mbx m := by
  simp only [State.mbx, answered_blk]

theorem mbx_mbDone (s : State) (m status detail : Nat) (res : List (Nat × Nat)) :
    (s.mbDone m status detail res).mbx m = (s.mbx m).ended status detail res := by
  have hblk : (s.mbDone m status detail res).blk = (s.updMbx m fun x => x.ended status detail res).blk :=
    (State.ev_kept (Within.self 0x20020) (State.raise_kept ((Within.self 0x20020).of (by decide)) (Kept.refl _ _) .blk m) _).part
      .blk (by decide)
  rw [mbx_of_blk_eq hblk, mbx_updMbx]

theorem mvc_updMbx (s : State) (m : Nat) (f : Mbx → Mbx) : (s.updMbx m f).mvc = s.mvc :=
  (State.updMbx_kept (Within.self _) (Kept.refl _ s) m f).part .mvc (by decide)

theorem mbx_mbGo_of_running {s : State} (h : s.mvc.halted = false) (m : Nat) : (s.mbGo m).mbx m = (s.mbx m).started := by
  unfold State.mbGo
  rw [if_neg (by rw [mvc_updMbx, h]; decide), mbx_updMbx]
  rfl

/-- R520: while Movement is halted, GO is followed at once by the completion OFFLINE. -/
theorem mbx_mbGo_of_halted {s : State} (h : s.mvc.halted = true) (m : Nat) :
    (s.mbGo m).mbx m = (s.mbx m).started.ended 3 0 [] := by
  unfold State.mbGo
  rw [if_pos ((congrArg Mvc.halted (mvc_updMbx s m _)).trans h), mbx_mbDone, mbx_updMbx]
  rfl

/-- The offset in its mailbox of a register that the mailbox's BUSY closes (R135): MB_CMD, MB_GO and MB_ARG0 to MB_ARG7. -/
def mbClosed (o : Nat) : Prop := o = 0x00 ∨ o = 0x04 ∨ ∃ n, n < 8 ∧ o = 0x10 + 4 * n

theorem mbClosed.lt {o : Nat} (h : mbClosed o) : o < 0x30 := by
  obtain rfl | rfl | ⟨n, hn, rfl⟩ := h <;> omega

theorem writeMb_of_busy {s : State} {m o : Nat} (ho : mbClosed o) (hb : (s.mbx m).busy = true) (v : Word) :
    s.writeMb m o v = (s, 8) := by
  have hreg : o = 0x00 ∨ o = 0x04 ∨ (decide (0x10 ≤ o) && decide (o < 0x30)) = true := by
    obtain h | h | ⟨n, hn, rfl⟩ := ho
    · exact .inl h
    · exact .inr (.inl h)
    · exact .inr (.inr (by simp only [Bool.and_eq_true, decide_eq_true_eq]; omega))
  exact (if_pos hreg).trans (if_pos hb)

theorem writeMb_go {s : State} {m : Nat} (hb : (s.mbx m).busy = false) {v : Word} (hv : flag v 0 = true) :
    s.writeMb m 0x04 v = (s.mbGo m, 0) := by
  simp [State.writeMb, hb, hv]

theorem inMb_iff {o m : Nat} : inMb .blk o m = true ↔ 0x100 + 0x80 * m ≤ o ∧ o < 0x150 + 0x80 * m := by
  simp [inMb]

/-- The two mailboxes lie apart, and each takes the writes of its own registers. -/
theorem writeBlk_mb (s : State) (k : Fin 2) {o : Nat} (ho : o < 0x30) (v : Word) :
    s.writeBlk (0x100 + 0x80 * k.val + o) v = s.writeMb k.val o v := by
  match k with
  | 0 =>
    change s.writeBlk (0x100 + o) v = s.writeMb 0 o v
    have h0 : inMb .blk (0x100 + o) 0 = true := inMb_iff.mpr (by omega)
    unfold State.writeBlk
    rw [if_pos h0, Nat.add_sub_cancel_left]
  | 1 =>
    change s.writeBlk (0x180 + o) v = s.writeMb 1 o v
    have h0 : ¬inMb .blk (0x180 + o) 0 = true := by rw [inMb_iff]; omega
    have h1 : inMb .blk (0x180 + o) 1 = true := inMb_iff.mpr (by omega)
    unfold State.writeBlk
    rw [if_neg h0, if_pos h1, Nat.add_sub_cancel_left]

theorem writeReg_mb {s : State} (hl : s.locked = true) (src : Src) (k : Fin 2) {o : Nat} (ho : o < 0x30) (v : Word) :
    s.writeReg src .blk (0x100 + 0x80 * k.val + o) v = s.writeMb k.val o v := by
  have hfn : 0x040 ≤ 0x100 + 0x80 * k.val + o := by omega
  have hstored : ¬(0x100 + 0x80 * k.val + o = 0x040 ∨ 0x100 + 0x80 * k.val + o = 0x048) := by omega
  calc s.writeReg src .blk (0x100 + 0x80 * k.val + o) v
    _ = s.writeFn .blk (0x100 + 0x80 * k.val + o) v := by simp only [State.writeReg, hl, hfn, Bool.not_true, Bool.false_eq_true, if_false, if_true]
    _ = s.writeBlk (0x100 + 0x80 * k.val + o) v := if_neg hstored
    _ = s.writeMb k.val o v := writeBlk_mb s k ho v

/-- A granted write of a mailbox register is answered as the mailbox answers it. -/
theorem pageWrite_mb {s : State} {src : Src} {k : Fin 2} {o : Nat} (ho : o < 0x30) (hw : wfSrc src = true)
    (hg : s.granted src .blk (0x100 + 0x80 * k.val + o) false true = true) (hl : s.locked = true) (n : Nat) :
    s.pageWrite src PageId.blk.num (0x100 + 0x80 * k.val + o) n =
      (let a := (s.atPage src .blk (0x100 + 0x80 * k.val + o)).writeMb k.val o (BitVec.ofNat 32 n)
       a.1.answered a.2 0) := by
  rw [pageWrite_granted hw hg, State.wrote]
  change (let a := (s.atPage src .blk (0x100 + 0x80 * k.val + o)).writeReg src .blk _ _; a.1.answered a.2 0) = _
  rw [writeReg_mb ((atPage_locked s src .blk _).trans hl) src k ho]

theorem exec_registerWrite_page (s : State) (src : Src) (p : PageId) (o : Nat) (data : BitVec 64) :
    exec (.registerWrite src (p.num * 4096 + o) false data) s = .next (s.pageWrite src p.num o data.toNat) := rfl

theorem exec_mbGo (s : State) (src : Src) (k : Fin 2) :
    exec (.mbGo src k) s = .next (s.pageWrite src PageId.blk.num (0x104 + 0x80 * k.val) 1) := rfl

/-- Settles O23: a granted write of a mailbox register comes to `writeMb`, which refuses it while BUSY is set and otherwise, for GO, starts
the command, and ends it at once while Movement is halted (R135, R520). -/
theorem mailboxGoStartsCommand : Obligations.MailboxGoStartsCommand := by
  unfold Obligations.MailboxGoStartsCommand
  constructor
  · intro s src k off data (hc : mbClosed off) o hw hg hl m hbusy
    refine ⟨_, exec_registerWrite_page s src .blk o data, ?_⟩
    rw [pageWrite_mb hc.lt hw hg hl, writeMb_of_busy hc hbusy]
    rfl
  · intro s src k hw hg hl m hbusy
    have ho : 0x104 + 0x80 * k.val = 0x100 + 0x80 * k.val + 0x04 := by omega
    have hpage : s.pageWrite src PageId.blk.num (0x104 + 0x80 * k.val) 1 = (m.mbGo k.val).answered 0 0 := by
      subst m
      rw [ho] at hg hbusy ⊢
      rw [pageWrite_mb (by decide) hw hg hl, writeMb_go hbusy (by decide)]
    have hok : ((m.mbGo k.val).answered 0 0).blk.accStatus = 0 := congrArg Blk.accStatus (answered_blk _ 0 0)
    refine ⟨_, (exec_mbGo s src k).trans (congrArg _ hpage), hok, ?_⟩
    rw [mbx_answered]
    cases hhalt : m.mvc.halted with
    | false =>
      rw [mbx_mbGo_of_running hhalt]
      exact ⟨rfl, rfl, fun _ => ⟨rfl, rfl, rfl⟩, nofun⟩
    | true =>
      rw [mbx_mbGo_of_halted hhalt]
      exact ⟨rfl, rfl, nofun, fun _ => ⟨rfl, rfl, rfl⟩⟩

end Sys2Proof.Machine
end

section
/-! Every command (log entry 3): it answers a next state that keeps the queue, the canonical form of the lines, and every part that `frameOf`
does not name. -/
namespace Sys2Proof.Machine

/-- Every part of the state. -/
def Part.every : List Part :=
  [.bclk, .locked, .bin, .esc, .pages, .blk, .map, .gws, .subs, .chans, .mem, .pkts, .nodeFree, .nextSn, .nextFree, .trt, .cnts, .gens,
   .crnPreempt, .ins, .insStage, .cals, .calrefs, .jwl, .rings, .les, .bells, .pool, .mvc, .copy, .task, .therm, .crn, .rtrs, .phase,
   .warm, .chRstDenied, .fillSkipped, .plat, .filling, .refSpd, .tst, .frame]

theorem Part.mem_every (p : Part) : p ∈ Part.every := by cases p <;> decide

/-- The parts whose bits a mask sets are all among those of a list. -/
def maskIn (l : Nat) (ps : List Part) : Bool := Part.every.all fun p => !l.testBit p.bit || decide (p ∈ ps)

theorem mem_of_maskIn {l : Nat} {ps : List Part} (h : maskIn l ps = true) (p : Part) (hp : l.testBit p.bit = true) : p ∈ ps := by
  have := List.all_eq_true.mp h p (Part.mem_every p)
  simpa [hp] using this

/-- The command answers a next state that keeps all but the parts of its frame. -/
def Framed (c : Instr) (s : State) : Prop := ∃ t l, exec c s = .next t ∧ Kept l s t ∧ maskIn l (frameOf c) = true

theorem Framed.of {c : Instr} {s : State} {l : Nat} (h : ∃ t, exec c s = .next t ∧ Kept l s t) (hl : maskIn l (frameOf c) = true) :
    Framed c s :=
  let ⟨t, he, hk⟩ := h
  ⟨t, l, he, hk, hl⟩

/-- One arm for each row of the opcode table, from what its meaning keeps. -/
theorem exec_framed (c : Instr) (s : State) : Framed c s :=
  match c with
  | .escapementTick ms => .of (execEscapementTick_kept ms) rfl
  | .latchPoint late => .of (execLatchPoint_kept late) rfl
  | .decisionPoint c sc z => .of (execDecisionPoint_kept c sc z) rfl
  | .svcAccess g h => .of (execSvcAccess_kept g h) rfl
  | .crownPageAccess tap addr wide wr data => .of (execCrownPageAccess_kept tap addr wide wr data) rfl
  | .registerWrite src addr wide data => .of (execRegisterWrite_kept src addr wide data) rfl
  | .rcRead src addr => .of (execRcRead_kept src addr) rfl
  | .loReadLatch src addr => .of (execLoReadLatch_kept src addr) rfl
  | .pgCtlWrite src page v => .of (execPgCtlWrite_kept src page v) rfl
  | .escEnClear src => .of (execEscEnClear_kept src) rfl
  | .escEnSet src => .of (execEscEnSet_kept src) rfl
  | .intentAdoption page => .of (execIntentAdoption_kept page) rfl
  | .pgIsetWrite src page v => .of (execPgIsetWrite_kept src page v) rfl
  | .commitGo src page => .of (execCommitGo_kept src page) rfl
  | .commitCancel src page => .of (execCommitCancel_kept src page) rfl
  | .commitDiscard src page => .of (execCommitDiscard_kept src page) rfl
  | .commitCheck page => .of (execCommitCheck_kept page) rfl
  | .interruptMessage => .of (execInterruptMessage_kept) rfl
  | .blkIntEoi src => .of (execBlkIntEoi_kept src) rfl
  | .blkIntCfgWrite src v => .of (execBlkIntCfgWrite_kept src v) rfl
  | .mbGo src m => .of (execMbGo_kept src m) rfl
  | .unknownCommand => .of (execUnknownCommand_kept) rfl
  | .frameSet => .of (execFrameSet_kept) rfl
  | .frameStatus => .of (execFrameStatus_kept) rfl
  | .mapSet => .of (execMapSet_kept) rfl
  | .reserveSet => .of (execReserveSet_kept) rfl
  | .tableSet => .of (execTableSet_kept) rfl
  | .refreshSet => .of (execRefreshSet_kept) rfl
  | .park => .of (execPark_kept) rfl
  | .arbSet => .of (execArbSet_kept) rfl
  | .train => .of (execTrain_kept) rfl
  | .calSet => .of (execCalSet_kept) rfl
  | .scrubSet => .of (execScrubSet_kept) rfl
  | .burlSet => .of (execBurlSet_kept) rfl
  | .heatSet => .of (execHeatSet_kept) rfl
  | .routeSet => .of (execRouteSet_kept) rfl
  | .latheSetPool => .of (execLatheSetPool_kept) rfl
  | .latheSetAttach => .of (execLatheSetAttach_kept) rfl
  | .latheSetDetach => .of (execLatheSetDetach_kept) rfl
  | .latheSetEngine => .of (execLatheSetEngine_kept) rfl
  | .insCreate => .of (execInsCreate_kept) rfl
  | .insDestroy => .of (execInsDestroy_kept) rfl
  | .insReset => .of (execInsReset_kept) rfl
  | .shareSet => .of (execShareSet_kept) rfl
  | .freeze => .of (execFreeze_kept) rfl
  | .thaw => .of (execThaw_kept) rfl
  | .save => .of (execSave_kept) rfl
  | .restore => .of (execRestore_kept) rfl
  | .cntUserSet => .of (execCntUserSet_kept) rfl
  | .takeover => .of (execTakeover_kept) rfl
  | .rejoin => .of (execRejoin_kept) rfl
  | .fwSwap wrote => .of (execFwSwap_kept wrote) rfl
  | .chanTestLine errs ranks w0 w1 => .of (execChanTestLine_kept errs ranks w0 w1) rfl
  | .chanTestLoopback errs ranks w0 w1 => .of (execChanTestLoopback_kept errs ranks w0 w1) rfl
  | .intentGet => .of (execIntentGet_kept) rfl
  | .lineRead g h => .of (execLineRead_kept g h) rfl
  | .multiRead g h => .of (execMultiRead_kept g h) rfl
  | .lineWrite g h => .of (execLineWrite_kept g h) rfl
  | .lineWriteData g seq d => .of (execLineWriteData_kept g seq d) rfl
  | .strayDataFlit g seq d => .of (execStrayDataFlit_kept g seq d) rfl
  | .missingWriteData g h => .of (execMissingWriteData_kept g h) rfl
  | .linkCrcError g => .of (execLinkCrcError_kept g) rfl
  | .ackReceived g ack => .of (execAckReceived_kept g ack) rfl
  | .nakReceived g ack => .of (execNakReceived_kept g ack) rfl
  | .rewindTimer g => .of (execRewindTimer_kept g) rfl
  | .replayTimeout g => .of (execReplayTimeout_kept g) rfl
  | .idleAck g => .of (execIdleAck_kept g) rfl
  | .phaseErr g => .of (execPhaseErr_kept g) rfl
  | .aliveFall g => .of (execAliveFall_kept g) rfl
  | .aliveRise g => .of (execAliveRise_kept g) rfl
  | .linkInit g => .of (execLinkInit_kept g) rfl
  | .meshInit g hdr data => .of (execMeshInit_kept g hdr data) rfl
  | .gwFlush src g => .of (execGwFlush_kept src g) rfl
  | .tailDiscardEat g seq d => .of (execTailDiscardEat_kept g seq d) rfl
  | .tailDiscardHeader g h => .of (execTailDiscardHeader_kept g h) rfl
  | .responseEgress g => .of (execResponseEgress_kept g) rfl
  | .retryCBounce g => .of (execRetryCBounce_kept g) rfl
  | .setAsideRelease g => .of (execSetAsideRelease_kept g) rfl
  | .addrMapEpochSwitch ms => .of (execAddrMapEpochSwitch_kept ms) rfl
  | .mapXlate src pa => .of (execMapXlate_kept src pa) rfl
  | .alertN c sc k => .of (execAlertN_kept c sc k) rfl
  | .alertWindowClose c sc => .of (execAlertWindowClose_kept c sc) rfl
  | .mr4Read c sc asks => .of (execMr4Read_kept c sc asks) rfl
  | .ecsRead c sc count dev bg ba row => .of (execEcsRead_kept c sc count dev bg ba row) rfl
  | .mrCmdGo src c v => .of (execMrCmdGo_kept src c v) rfl
  | .i3cCmdGo src c v => .of (execI3cCmdGo_kept src c v) rfl
  | .sidebandTransactionDone c r => .of (execSidebandTransactionDone_kept c r) rfl
  | .sidebandPoll c phy => .of (execSidebandPoll_kept c phy) rfl
  | .inBandInterrupt c hid dtype => .of (execInBandInterrupt_kept c hid dtype) rfl
  | .sidebandTimeout c => .of (execSidebandTimeout_kept c) rfl
  | .prsntChange c level => .of (execPrsntChange_kept c level) rfl
  | .channelEnqueue c => .of (execChannelEnqueue_kept c) rfl
  | .crownAccessEnqueue => .of (execCrownAccessEnqueue_kept) rfl
  | .readDecode c sc err => .of (execReadDecode_kept c sc err) rfl
  | .emergencyCommand c sc => .of (execEmergencyCommand_kept c sc) rfl
  | .selfRefreshEntry c ms => .of (execSelfRefreshEntry_kept c ms) rfl
  | .selfRefreshExitDone c => .of (execSelfRefreshExitDone_kept c) rfl
  | .parkEntry c ms => .of (execParkEntry_kept c ms) rfl
  | .arbiterRound c => .of (execArbiterRound_kept c) rfl
  | .backoffEnd c j => .of (execBackoffEnd_kept c j) rfl
  | .urgency3 c n => .of (execUrgency3_kept c n) rfl
  | .crownEmerg => .of (execCrownEmerg_kept) rfl
  | .blockResetRelease => .of (execBlockResetRelease_kept) rfl
  | .startPhaseComplete x => .of (execStartPhaseComplete_kept x) rfl
  | .bclkLock => .of (execBclkLock_kept) rfl
  | .bclkLockTimeout => .of (execBclkLockTimeout_kept) rfl
  | .warmReset => .of (execWarmReset_kept) rfl
  | .fastRestoreDone c pass => .of (execFastRestoreDone_kept c pass) rfl
  | .zeroFillDone c => .of (execZeroFillDone_kept c) rfl
  | .chRst src mask => .of (execChRst_kept src mask) rfl
  | .mvcRestart src crc => .of (execMvcRestart_kept src crc) rfl
  | .cntClr src => .of (execCntClr_kept src) rfl
  | .lockstepDisagreement crc => .of (execLockstepDisagreement_kept crc) rfl
  | .thermUpd headroom tj => .of (execThermUpd_kept headroom tj) rfl
  | .headroomStale => .of (execHeadroomStale_kept) rfl
  | .rebuildRateEval ms => .of (execRebuildRateEval_kept ms) rfl
  | .caliperRunStart c spd => .of (execCaliperRunStart_kept c spd) rfl
  | .caliperRefab c step rk progress => .of (execCaliperRefab_kept c step rk progress) rfl
  | .calStepTimeout c again => .of (execCalStepTimeout_kept c again) rfl
  | .caliperRunEnd c ws => .of (execCaliperRunEnd_kept c ws) rfl
  | .jewelRecordWrite bad1 bad2 => .of (execJewelRecordWrite_kept bad1 bad2) rfl
  | .balanceRunStart c ms => .of (execBalanceRunStart_kept c ms) rfl
  | .compatStopEnd c sc grid osc => .of (execCompatStopEnd_kept c sc grid osc) rfl
  | .scrubCredit c => .of (execScrubCredit_kept c) rfl
  | .holdReceive u => .of (execHoldReceive_kept u) rfl
  | .heldRequestRelease u => .of (execHeldRequestRelease_kept u) rfl
  | .burlWindowRollover c sc ms => .of (execBurlWindowRollover_kept c sc ms) rfl
  | .heatIntervalEnd c ms => .of (execHeatIntervalEnd_kept c ms) rfl
  | .heatPublish ms => .of (execHeatPublish_kept ms) rfl
  | .brlIdxWrite src c v => .of (execBrlIdxWrite_kept src c v) rfl
  | .routeEpochSwitch ms => .of (execRouteEpochSwitch_kept ms) rfl
  | .torusFlitCrcError n p again => .of (execTorusFlitCrcError_kept n p again) rfl
  | .creditTimeout n p => .of (execCreditTimeout_kept n p) rfl
  | .lossSwitchGo => .of (execLossSwitchGo_kept) rfl
  | .clear n => .of (execClear_kept n) rfl
  | .clearAll => .of (execClearAll_kept) rfl
  | .clearAllAnswer ms => .of (execClearAllAnswer_kept ms) rfl
  | .fenceEffect c ms => .of (execFenceEffect_kept c ms) rfl
  | .fencedSink u => .of (execFencedSink_kept u) rfl
  | .insDoorbell src n v => .of (execInsDoorbell_kept src n v) rfl
  | .doorbellRestart e => .of (execDoorbellRestart_kept e) rfl
  | .doorbellArrival e => .of (execDoorbellArrival_kept e) rfl
  | .ringAttach src r => .of (execRingAttach_kept src r) rfl
  | .ringDetach src r => .of (execRingDetach_kept src r) rfl
  | .ringFlush src r => .of (execRingFlush_kept src r) rfl
  | .latheLineIssue e => .of (execLatheLineIssue_kept e) rfl
  | .descriptorFetchReturn e => .of (execDescriptorFetchReturn_kept e) rfl
  | .latheLineResponse e => .of (execLatheLineResponse_kept e) rfl
  | .offlineReissue e => .of (execOfflineReissue_kept e) rfl
  | .completionForm r => .of (execCompletionForm_kept r) rfl
  | .handoverDone e => .of (execHandoverDone_kept e) rfl
  | .enginePowerUp e => .of (execEnginePowerUp_kept e) rfl
  | .resetDone n => .of (execResetDone_kept n) rfl
  | .quiesced n => .of (execQuiesced_kept n) rfl
  | .instanceFree n ms => .of (execInstanceFree_kept n ms) rfl
  | .instanceIntMessage n => .of (execInstanceIntMessage_kept n) rfl
  | .takeoverStart c => .of (execTakeoverStart_kept c) rfl
  | .copyLine => .of (execCopyLine_kept) rfl
  | .poisonMode => .of (execPoisonMode_kept) rfl
  | .takeoverPower => .of (execTakeoverPower_kept) rfl
  | .fwRestart ms => .of (execFwRestart_kept ms) rfl
  | .fwHeartbeatTimeout => .of (execFwHeartbeatTimeout_kept) rfl
  | .crnInjGo tap v => .of (execCrnInjGo_kept tap v) rfl
  | .injDone => .of (execInjDone_kept) rfl
  | .snap src b => .of (execSnap_kept src b) rfl
  | .quadClr src b => .of (execQuadClr_kept src b) rfl
  | .cntSnapClr src b => .of (execCntSnapClr_kept src b) rfl
  | .cntValWrite src b n v => .of (execCntValWrite_kept src b n v) rfl
  | .cntCtlWrite src b v => .of (execCntCtlWrite_kept src b v) rfl
  | .sampleWindowEnd b => .of (execSampleWindowEnd_kept b) rfl
  | .meshCreditReturn g hdr data => .of (execMeshCreditReturn_kept g hdr data) rfl
  | .fwSwapped => .of (execFwSwapped_kept) rfl
  | .powerFailure code => .of (execPowerFailure_kept code) rfl
  | .crownTestPortClaim on => .of (execCrownTestPortClaim_kept on) rfl
  | .serviceProcessorLink up => .of (execServiceProcessorLink_kept up) rfl
end Sys2Proof.Machine
end

section
/-! The BCLK count as time passes: what the gateways do by themselves leaves it, and the passing ends in the BCLK that is its aim (R68). -/
namespace Sys2Proof.Machine

theorem bclk_advance (s : State) (t : Nat) : (s.advance t).bclk = max s.bclk t := by
  unfold State.advance
  split
  · exact (max_eq_left ‹_›).symm
  · exact (max_eq_right (le_of_not_ge ‹_›)).symm

theorem bclk_gwDo (s : State) (g : Nat) (w : GwWork) : (s.gwDo g w).bclk = s.bclk :=
  (State.gwDo_kept (Within.self _) (Kept.refl _ s) g w).part .bclk (by decide)

theorem bclk_gwRun {s : State} {t : Nat} (h : s.bclk ≤ t) (n : Nat) : s.bclk ≤ (State.gwRun t n s).bclk ∧ (State.gwRun t n s).bclk ≤ t := by
  induction n generalizing s with
  | zero => exact ⟨le_rfl, h⟩
  | succ n ih =>
    unfold State.gwRun
    split
    · next m g w _ =>
      split
      · exact ⟨le_rfl, h⟩
      · next hm =>
        have hb : ((s.advance (m / 2)).gwDo g w).bclk = max s.bclk (m / 2) := (bclk_gwDo _ g w).trans (bclk_advance s _)
        have hle : m / 2 ≤ t := by simp only [atStart] at hm; omega
        obtain ⟨hlo, hhi⟩ := ih (s := (s.advance (m / 2)).gwDo g w) (hb ▸ max_le h hle)
        exact ⟨(le_max_left _ _).trans (hb ▸ hlo), hhi⟩
    · exact ⟨le_rfl, h⟩

@[simp] theorem bclk_goto (s : State) (t : Nat) : (s.goto t).bclk = max s.bclk t := by
  unfold State.goto
  split
  · exact (max_eq_left ‹_›).symm
  · next h =>
    have := bclk_gwRun (s := s) (t := t) (by omega) s.gwWork
    rw [bclk_advance]
    omega

theorem bclk_mbPoll (s : State) : s.mbPoll.bclk = s.bclk := (State.mbPoll_kept (Within.self _) (Kept.refl _ s)).part .bclk (by decide)

end Sys2Proof.Machine
end

section
/-! The step (log entry 1) and what every step keeps. -/
namespace Sys2Proof.Machine

theorem step_of_front {s : State} {c : Instr} {rest : List Instr} (h : s.pending = c :: rest) :
    step s = exec c { s with pending := rest } := by
  unfold step
  rw [h]

theorem step_of_idle {s : State} (h : s.pending = []) : step s = .next s.idleBclk := by
  unfold step
  rw [h]

theorem idleBclk_unlocked {s : State} (h : s.locked = false) : s.idleBclk = s := by
  unfold State.idleBclk
  simp [h]

theorem bclk_idleBclk {s : State} (hl : s.locked = true) (hr : s.canReach (s.bclk + 1) = true) : s.bclk + 1 ≤ s.idleBclk.bclk := by
  unfold State.idleBclk
  rw [if_pos ⟨hl, hr⟩, bclk_mbPoll, bclk_goto]
  exact le_max_right _ _

/-- Settles O1: `step` by the cases of the queue, and the count after an idle BCLK. -/
theorem stepRunsTheFrontCommand : Obligations.StepRunsTheFrontCommand := by
  unfold Obligations.StepRunsTheFrontCommand
  refine fun s => ⟨fun c rest h => step_of_front h, fun h => ⟨_, step_of_idle h, ?_, idleBclk_unlocked, bclk_idleBclk⟩⟩
  exact (State.idleBclk_kept (Within.self _) (Kept.refl _ s)).queue.trans h

/-- Settles O2: a command keeps the form by what `exec_framed` says of it, and so does an idle BCLK. -/
theorem stepsKeepLinesCanonical : Obligations.StepsKeepLinesCanonical := by
  unfold Obligations.StepsKeepLinesCanonical
  intro s t hinv hstep
  cases hq : s.pending with
  | nil =>
    rw [step_of_idle hq] at hstep
    cases hstep
    exact (State.idleBclk_kept (Within.self _) (Kept.refl _ s)).mem hinv
  | cons c rest =>
    obtain ⟨u, l, hexec, hkept, -⟩ := exec_framed c { s with pending := rest }
    rw [step_of_front hq, hexec] at hstep
    cases hstep
    exact hkept.mem hinv

/-- Settles O3: after reset no line is stored. -/
theorem resetLinesCanonical : Obligations.ResetLinesCanonical := by
  unfold Obligations.ResetLinesCanonical
  rfl

/-- Settles O5: `exec_framed`. -/
theorem everyCommandAnswersANextState : Obligations.EveryCommandAnswersANextState := by
  unfold Obligations.EveryCommandAnswersANextState
  intro c s
  obtain ⟨t, l, hexec, hkept, -⟩ := exec_framed c s
  exact ⟨t, hexec, hkept.queue⟩

theorem exec_onlyIn {c : Instr} {s t : State} (h : exec c s = .next t) : OnlyIn (frameOf c) s t := by
  obtain ⟨u, l, hexec, hkept, hmask⟩ := exec_framed c s
  rw [hexec] at h
  cases h
  exact hkept.onlyIn (mem_of_maskIn hmask)

theorem readLine_of_same {s t : State} (hmem : t.mem = s.mem) (hchans : t.chans = s.chans) (l : Loc) : t.readLine l = s.readLine l := by
  unfold State.readLine State.chan
  rw [hmem, hchans]

/-- Settles O7: the frame of `exec_framed`; what a line reads as depends on the stored lines and the channels alone. -/
theorem commandsChangeOnlyTheirParts : Obligations.CommandsChangeOnlyTheirParts := by
  unfold Obligations.CommandsChangeOnlyTheirParts
  refine fun c => ⟨fun s t h => exec_onlyIn h, fun hmem hchans s t l h => ?_⟩
  obtain ⟨-, hsame⟩ := exec_onlyIn h
  exact readLine_of_same (hsame .mem hmem) (hsame .chans hchans) l

end Sys2Proof.Machine
end

section
/-! The frame count (R35, R48): a command that carries out the coming tick adds 1 to it, a reset sets it to 0, and no other command has it in
its frame. -/
namespace Sys2Proof.Machine

/-- The count is as it was, or the command has opened the next frame. -/
def FrameStep (s t : State) : Prop := t.esc.frame = s.esc.frame ∨ (s.esc.running = true ∧ t.esc.frame = s.esc.frame + 1)

theorem frameStep_escapementTick (s : State) (ms : List CalMeas) : FrameStep s (s.escapementTick ms) := by
  cases hrun : s.esc.running with
  | true => exact .inr ⟨hrun, frame_escapementTick hrun ms⟩
  | false => exact .inl (by rw [escapementTick_of_stopped hrun])

theorem frameStep_tickWhen (s : State) (ms : List CalMeas) (due : Bool) : FrameStep s (s.tickWhen ms due) := by
  unfold State.tickWhen
  split
  · exact frameStep_escapementTick s ms
  · exact .inl rfl

theorem frameStep_insCommand {s : State} {f : State → State} (hf : (f s).esc.frame = s.esc.frame) (kind code : Nat) :
    FrameStep s (s.insCommand kind f code) := by
  unfold State.insCommand
  split
  · exact .inl hf
  · exact frameStep_tickWhen s [] _

theorem frameStep_of_opensFrame {c : Instr} {s t : State} (hc : opensFrame c = true) (h : exec c s = .next t) : FrameStep s t := by
  cases c with
  | escapementTick ms => cases h; exact frameStep_escapementTick s ms
  | insReset =>
    cases h
    exact frameStep_insCommand ((State.mbInsReset_kept (Within.self _) (Kept.refl _ s)).part .frame (by decide)) ..
  | freeze =>
    cases h
    exact frameStep_insCommand ((State.mbFreeze_kept (Within.self _) (Kept.refl _ s)).part .frame (by decide)) ..
  | addrMapEpochSwitch | selfRefreshEntry | parkEntry | rebuildRateEval | balanceRunStart | burlWindowRollover | heatIntervalEnd
  | heatPublish | routeEpochSwitch | clearAllAnswer | fenceEffect | instanceFree | fwRestart => cases h; exact frameStep_tickWhen s _ _
  | _ => exact Bool.noConfusion hc

theorem frame_mem_frameOf {c : Instr} (hc : opensFrame c = false) (hw : c ≠ .warmReset) (hp : ∀ code, c ≠ .powerFailure code) :
    Part.frame ∉ frameOf c := by
  cases c with
  | warmReset => exact absurd rfl hw
  | powerFailure code => exact absurd rfl (hp code)
  | escapementTick | insReset | freeze | addrMapEpochSwitch | selfRefreshEntry | parkEntry | rebuildRateEval | balanceRunStart
  | burlWindowRollover | heatIntervalEnd | heatPublish | routeEpochSwitch | clearAllAnswer | fenceEffect | instanceFree | fwRestart =>
    exact Bool.noConfusion hc
  | _ => exact of_decide_eq_false rfl

/-- The block in reset before its channels take what the warm domain keeps of them (R514). -/
def State.warmBase (s : State) : State :=
  let m : Mvc := { slot := s.mvc.slot, verA := s.mvc.verA, verB := s.mvc.verB, faults := s.mvc.faults, swaps := s.mvc.swaps }
  let r : State :=
    { State.reset with pending := s.pending, warm := true, gens := s.gens, jwl := { copies := s.jwl.copies }, mem := s.mem,
                       nextSn := s.nextSn, nextFree := s.nextFree, mvc := m, blk := { badAccCnt := s.blk.badAccCnt } }
  (r.setStart .blk 0x040 (s.reg .blk 0x040)).setStart .blk 0x048 (s.reg .blk 0x048)

/-- A channel takes what the warm domain keeps of it. -/
def State.warmChan (s r : State) (c : Nat) : State :=
  let r := r.updChan c fun _ => s.keptChan c
  let r := if (r.chan c).retained then r else r.loseLines c false
  r.setBoth (.cc c) 0x050 (s.reg (.cc c) 0x050 &&& 0x30000)

theorem warmReset_eq (s : State) : s.warmReset = (List.range 17).foldl s.warmChan s.warmBase := rfl

theorem esc_setStart (s : State) (p : PageId) (off : Nat) (v : Word) : (s.setStart p off v).esc = s.esc :=
  (State.setStart_kept (Within.self _) (Kept.refl _ s) p off v).part .esc (by decide)

theorem esc_warmBase (s : State) : s.warmBase.esc = {} := (esc_setStart _ _ _ _).trans (esc_setStart _ _ _ _)

theorem esc_warmChan (s r : State) (c : Nat) : (s.warmChan r c).esc = r.esc := by
  have hboth := fun (u : State) v => (State.setBoth_kept (Within.self _) (Kept.refl _ u) (.cc c) 0x050 v).part .esc (by decide)
  have hlose := fun u : State => (State.loseLines_kept (Within.self _) (Kept.refl _ u) c false).part .esc (by decide)
  unfold State.warmChan
  dsimp only
  split
  · exact (hboth _ _).trans (State.esc_updChan r c _)
  · exact ((hboth _ _).trans (hlose _)).trans (State.esc_updChan r c _)

theorem esc_warmReset (s : State) : s.warmReset.esc = {} := by
  rw [warmReset_eq, List.foldlRecOn (motive := fun r : State => r.esc = {}) (List.range 17) s.warmChan (esc_warmBase s) fun r h c _ =>
    (esc_warmChan s r c).trans h]

/-- Settles O6: the commands by what they do to the count. -/
theorem onlyTicksAdvanceTheFrame : Obligations.OnlyTicksAdvanceTheFrame := by
  unfold Obligations.OnlyTicksAdvanceTheFrame
  intro c s t h
  by_cases hopen : opensFrame c = true
  · exact (frameStep_of_opensFrame hopen h).imp_right fun ⟨hrun, hframe⟩ => .inl ⟨hopen, hrun, hframe⟩
  by_cases hwarm : c = .warmReset
  · subst hwarm
    cases h
    exact .inr (.inr ⟨.inl rfl, congrArg Esc.frame (esc_warmReset s)⟩)
  by_cases hpower : ∃ code, c = .powerFailure code
  · obtain ⟨code, rfl⟩ := hpower
    cases h
    exact .inr (.inr ⟨.inr ⟨code, rfl⟩, rfl⟩)
  · obtain ⟨-, hsame⟩ := exec_onlyIn h
    exact .inl (hsame .frame (frame_mem_frameOf (by simpa using hopen) hwarm fun code hc => hpower ⟨code, hc⟩))

end Sys2Proof.Machine
end

section
/-! Pages as register accesses leave them: what a page reads as is told by its body, and an interrupt once pending stays so through events. -/
namespace Sys2Proof.Machine

/-- A part of a page other than its pending interrupts is told by its body. -/
theorem Page.of_body {α : Type} {f : Page → α} (hf : ∀ pg : Page, f pg.body = f pg) {a b : Page} (h : a.body = b.body) : f a = f b := by
  rw [← hf a, ← hf b, h]

/-- A part of a page, read off a page with the same body. -/
theorem Page.field {α : Type} (f : Page → α) {a b : Page} (h : a.body = b.body) {x : α} (hx : f b = x)
    (hf : ∀ pg : Page, f pg.body = f pg := by exact fun _ => rfl) : f a = x := (Page.of_body hf h).trans hx

theorem shd_of_body {s t : State} {p : PageId} (h : (t.page p).body = (s.page p).body) (o : Nat) : t.shd p o = s.shd p o :=
  Page.of_body (f := fun pg => pg.shdReg p o) (fun _ => rfl) h

theorem reg_of_body {s t : State} {p : PageId} (h : (t.page p).body = (s.page p).body) (o : Nat) : t.reg p o = s.reg p o :=
  Page.of_body (f := fun pg => pg.actReg p o) (fun _ => rfl) h

theorem shd_updPage (m : State) (p : PageId) (f : Page → Page) (o : Nat) :
    (m.updPage p f).shd p o = Tbl.get (regReset p) (f (m.page p)).shd o :=
  Page.of_body (f := fun pg => pg.shdReg p o) (fun _ => rfl) (updPage_body_self m p f)

theorem reg_updPage (m : State) (p : PageId) (f : Page → Page) (o : Nat) :
    (m.updPage p f).reg p o = Tbl.get (regReset p) (f (m.page p)).act o :=
  Page.of_body (f := fun pg => pg.actReg p o) (fun _ => rfl) (updPage_body_self m p f)

theorem shd_setShd (m : State) (p : PageId) (off : Nat) (v : Word) (o : Nat) :
    (m.setShd p off v).shd p o = if o = off then v else m.shd p o :=
  (shd_updPage m p _ o).trans (Tbl.get_set _ _ _ _ _)

theorem reg_setReg (m : State) (p : PageId) (off : Nat) (v : Word) (o : Nat) :
    (m.setReg p off v).reg p o = if o = off then v else m.reg p o :=
  (reg_updPage m p _ o).trans (Tbl.get_set _ _ _ _ _)

theorem reg_setShd (m : State) (p : PageId) (off : Nat) (v : Word) (o : Nat) : (m.setShd p off v).reg p o = m.reg p o := reg_updPage m p _ o

theorem shd_setReg (m : State) (p : PageId) (off : Nat) (v : Word) (o : Nat) : (m.setReg p off v).shd p o = m.shd p o := shd_updPage m p _ o

theorem shd_setErr (m : State) (p : PageId) (off rule o : Nat) : (m.setErr p off rule).shd p o = m.shd p o := shd_updPage m p _ o

theorem reg_setErr (m : State) (p : PageId) (off rule o : Nat) : (m.setErr p off rule).reg p o = m.reg p o := reg_updPage m p _ o

theorem err_setErr (m : State) (p : PageId) (off rule : Nat) :
    ((m.setErr p off rule).page p).err = pack [(0, 12, off), (16, 8, rule), (24, 8, 0x0C)] :=
  Page.of_body (f := Page.err) (fun _ => rfl) (updPage_body_self m p _)

theorem shd_answered (m : State) (st d : Nat) (p : PageId) (o : Nat) : (m.answered st d).shd p o = m.shd p o :=
  shd_of_body (answered_body m st d p) o

theorem reg_answered (m : State) (st d : Nat) (p : PageId) (o : Nat) : (m.answered st d).reg p o = m.reg p o :=
  reg_of_body (answered_body m st d p) o

/-- No page but `p` differs, pending interrupts left out of account. -/
def OnlyPage (p : PageId) (m n : State) : Prop := ∀ q : PageId, q.num ≠ p.num → (n.page q).body = (m.page q).body

theorem OnlyPage.refl (p : PageId) (m : State) : OnlyPage p m m := fun _ _ => rfl

theorem OnlyPage.trans {p : PageId} {s t u : State} (h : OnlyPage p s t) (k : OnlyPage p t u) : OnlyPage p s u :=
  fun q hq => (k q hq).trans (h q hq)

theorem OnlyPage.of_sameBody {p : PageId} {s t : State} (h : SameBody s t) : OnlyPage p s t := fun q _ => h q

theorem OnlyPage.of_pages {p : PageId} {s t : State} (h : t.pages = s.pages) : OnlyPage p s t := .of_sameBody (SameBody.of_pages h)

theorem OnlyPage.updPage (m : State) (p : PageId) (f : Page → Page) : OnlyPage p m (m.updPage p f) :=
  fun _ hq => congrArg Page.body (updPage_other hq)

/-! ### Pending interrupts -/

/-- Every interrupt that is pending in the one state is pending in the other. -/
def IsrGrows (s t : State) : Prop := ∀ (p : PageId) (i : Nat), flag (s.page p).isr i = true → flag (t.page p).isr i = true

theorem IsrGrows.refl (s : State) : IsrGrows s s := fun _ _ h => h

theorem IsrGrows.trans {s t u : State} (h : IsrGrows s t) (k : IsrGrows t u) : IsrGrows s u := fun p i hp => k p i (h p i hp)

theorem IsrGrows.of_pages {s t : State} (h : t.pages = s.pages) : IsrGrows s t := fun p i hp => by
  unfold State.page at hp ⊢
  rwa [h]

theorem Page.isr_rewire (pg : Page) (t : Nat) : (pg.rewire t).isr = pg.isr := by
  unfold Page.rewire
  split <;> rfl

theorem isr_updPage (m : State) (p : PageId) (f : Page → Page) : ((m.updPage p f).page p).isr = (f (m.page p)).isr := by
  rw [State.page_upd, if_pos rfl, Page.isr_rewire]

theorem page_congr {s : State} {p q : PageId} (h : p.num = q.num) : s.page p = s.page q :=
  congrArg (Tbl.get pageDflt s.pages) h

theorem IsrGrows.updPage {s : State} {p : PageId} {f : Page → Page}
    (hf : ∀ i, flag (s.page p).isr i = true → flag (f (s.page p)).isr i = true) : IsrGrows s (s.updPage p f) := by
  intro q i hq
  rw [State.page_upd]
  split
  · next h => rw [Page.isr_rewire]; exact hf i (page_congr (s := s) h ▸ hq)
  · exact hq

theorem flag_or (v w : Word) (i : Nat) : flag (v ||| w) i = (flag v i || flag w i) := by
  simp [flag, BitVec.toNat_or, Nat.testBit_or]

theorem flag_and (v w : Word) (i : Nat) : flag (v &&& w) i = (flag v i && flag w i) := by
  simp [flag, BitVec.toNat_and, Nat.testBit_and]

theorem flag_ofNat {n i : Nat} (h : i < 32) : flag (BitVec.ofNat 32 n) i = n.testBit i := by
  rw [flag, BitVec.toNat_ofNat, Nat.testBit_mod_two_pow, decide_eq_true h, Bool.true_and]

theorem flag_setBit (v : Word) {i : Nat} (h : i < 32) (j : Nat) : flag (setBit v i) j = (flag v j || decide (j = i)) := by
  rw [setBit, flag_or]
  congr 1
  by_cases hj : j < 32
  · rw [flag_ofNat hj, Nat.one_shiftLeft, Nat.testBit_two_pow]
    simp [eq_comm]
  · have : j ≠ i := by omega
    simp only [flag, this, decide_false]
    exact Nat.testBit_lt_two_pow (lt_of_lt_of_le (BitVec.isLt _) (Nat.pow_le_pow_right (by decide) (by omega)))

theorem flag_setBit_of_flag {v : Word} {j : Nat} (h : flag v j = true) (i : Nat) : flag (setBit v i) j = true := by
  rw [setBit, flag_or, h, Bool.true_or]

theorem IsrGrows.raise (s : State) (p : PageId) (bit : Nat) : IsrGrows s (s.raise p bit) :=
  IsrGrows.updPage fun _ h => flag_setBit_of_flag h bit

theorem flag_raise (s : State) (p : PageId) {bit : Nat} (h : bit < 32) : flag ((s.raise p bit).page p).isr bit = true := by
  unfold State.raise
  rw [isr_updPage, flag_setBit _ h]
  simp

/-! ### Events -/

/-- A count box but for what it counts and samples (R908, R920). -/
def Cnt.still (c : Cnt) : Cnt := { c with vals := [], sample := [], armed := none }

theorem Cnt.still_arm (c : Cnt) (n now : Nat) : (c.arm n now).still = c.still := by
  unfold Cnt.arm
  split <;> rfl

/-- A relation of states that holds through whatever an event does at its box: counters and samples change, and interrupts of the box are
raised. -/
structure EvClosed (box : Nat) (R : State → State → Prop) : Prop where
  refl : ∀ s, R s s
  trans : ∀ {s t u}, R s t → R t u → R s u
  updCnt : ∀ s f, (∀ c, (f c).still = c.still) → R s (s.updCnt box f)
  raise : ∀ s n, R s (s.raise (.cnt box) n)

namespace EvClosed
variable {R : State → State → Prop} {b : Nat}

theorem bump (h : EvClosed b R) (s : State) (fuel n k : Nat) : R s (s.bump b fuel n k) := by
  induction fuel generalizing s n k with
  | zero => exact h.refl s
  | succ fuel ih =>
    unfold State.bump
    dsimp only
    have hcnt := h.updCnt s (fun c => { c with vals := Tbl.set (fun _ => 0) c.vals n ((Tbl.get (fun _ => 0) (s.cnt b).vals n + k) % 2 ^ 48) })
      fun _ => rfl
    split
    · exact hcnt
    have hraise := h.trans hcnt (h.raise _ n)
    split <;> split
    · exact h.trans (h.trans hraise (h.updCnt _ _ fun c => c.still_arm n _)) (ih _ _ _)
    · exact h.trans hraise (h.updCnt _ _ fun c => c.still_arm n _)
    · exact h.trans hraise (ih _ _ _)
    · exact hraise

theorem writeSample (h : EvClosed b R) (s : State) (ws : List (Nat × Word)) : R s (s.writeSample b ws) :=
  h.trans (h.updCnt s (fun c => { c with armed := none, sample := ws.foldl (fun t w => Tbl.set (fun _ => 0) t w.1 w.2) c.sample })
    fun _ => rfl) (h.raise _ _)

theorem foldl {α : Type} (h : EvClosed b R) {f : State → α → State} (hf : ∀ s a, R s (f s a)) (l : List α) (s : State) :
    R s (l.foldl f s) := by
  induction l generalizing s with
  | nil => exact h.refl s
  | cons a l ih => exact h.trans (hf s a) (ih _)

theorem ev {e : Ev} (h : EvClosed e.box R) (s : State) : R s (s.ev e) := by
  unfold State.ev
  split
  · exact h.refl s
  refine h.foldl (fun s n => ?_) _ s
  dsimp only
  split
  · have hbump := h.bump s 8 n e.n
    split
    · split
      · exact h.trans hbump (h.writeSample _ _)
      · exact hbump
    · exact hbump
  · exact h.refl s

end EvClosed

theorem IsrGrows.closed (b : Nat) : EvClosed b IsrGrows where
  refl := IsrGrows.refl
  trans := IsrGrows.trans
  updCnt _ _ _ := IsrGrows.of_pages rfl
  raise s n := IsrGrows.raise s _ n

theorem IsrGrows.ev (s : State) (e : Ev) : IsrGrows s (s.ev e) := (IsrGrows.closed e.box).ev s

theorem IsrGrows.answered (m : State) (st d : Nat) : IsrGrows m (m.answered st d) := by
  unfold State.answered
  split
  · exact (IsrGrows.ev m _).trans (IsrGrows.of_pages rfl)
  · exact IsrGrows.of_pages rfl

/-- The boxes other than `b` are the same. -/
def OtherBoxes (b : Nat) (s t : State) : Prop := ∀ k, k ≠ b → t.cnt k = s.cnt k

theorem OtherBoxes.closed (b : Nat) : EvClosed b (OtherBoxes b) where
  refl _ _ _ := rfl
  trans h k n hn := (k n hn).trans (h n hn)
  updCnt _ _ _ _ hn := State.cnt_upd_ne _ hn _
  raise _ _ _ _ := rfl

/-- Every box is the same but for what it counts and samples. -/
def BoxesStill (s t : State) : Prop := ∀ k, (t.cnt k).still = (s.cnt k).still

theorem BoxesStill.updCnt (s : State) (b : Nat) {f : Cnt → Cnt} (hf : ∀ c, (f c).still = c.still) : BoxesStill s (s.updCnt b f) := by
  intro k
  by_cases h : k = b
  · rw [h, State.cnt_upd_self, hf]
  · rw [State.cnt_upd_ne _ h]

theorem BoxesStill.closed (b : Nat) : EvClosed b BoxesStill where
  refl _ _ := rfl
  trans h k n := (k n).trans (h n)
  updCnt s _ hf := BoxesStill.updCnt s b hf
  raise _ _ _ := rfl

theorem otherBoxes_answered (m : State) (st d : Nat) : OtherBoxes boxBlk m (m.answered st d) := by
  unfold State.answered
  split
  · exact (OtherBoxes.closed boxBlk).ev (e := { box := boxBlk, code := 0x04 }) m
  · exact (OtherBoxes.closed boxBlk).refl m

theorem boxesStill_answered (m : State) (st d : Nat) : BoxesStill m (m.answered st d) := by
  unfold State.answered
  split
  · exact (BoxesStill.closed boxBlk).ev (e := { box := boxBlk, code := 0x04 }) m
  · exact (BoxesStill.closed boxBlk).refl m

end Sys2Proof.Machine
end

section
/-! Granted writes of stored registers (R97, R105, R106), of PG_ISET (R96) and of PG_CTL (R92, R93). -/
namespace Sys2Proof.Machine

theorem exec_registerWrite (s : State) (src : Src) (addr : Nat) (data : BitVec 64) :
    exec (.registerWrite src addr false data) s = .next (s.regAccess src addr false true data.toNat) := rfl

theorem exec_crownPageAccess_write (s : State) (tap : Bool) (addr : Nat) (data : BitVec 64) :
    exec (.crownPageAccess tap addr false true data) s = .next (s.regAccess (.crown tap) addr false true data.toNat) := rfl

/-- A granted 4-byte write is its register's, with its answer. -/
theorem wrote_eq (s : State) (src : Src) (p : PageId) (off : Nat) (v : Word) :
    s.wrote src p off v = (((s.atPage src p off).writeReg src p off v).1).answered ((s.atPage src p off).writeReg src p off v).2 0 := rfl

theorem mem_of_regRow {p : PageId} {off : Nat} {r : RegRow} (h : regRow p off = some r) : r ∈ regRows p ∧ r.has off = true :=
  ⟨List.mem_of_find?_eq_some h, List.find?_some (p := fun r : RegRow => r.has off) h⟩

/-- Function registers begin at 0x040 (R84). -/
theorem regRows_off (p : PageId) : ∀ r ∈ regRows p, 0x040 ≤ r.off := by
  cases p with
  | cnt b =>
    intro r hr
    simp only [regRows, List.mem_append] at hr
    rcases hr with hr | hr
    · revert r; decide
    · split at hr
      · revert r; decide
      · cases hr
  | _ => simp only [regRows]; decide

theorem regRow_off {p : PageId} {off : Nat} {r : RegRow} (h : regRow p off = some r) : 0x040 ≤ off := by
  obtain ⟨hmem, hhas⟩ := mem_of_regRow h
  have := regRows_off p r hmem
  simp only [RegRow.has, Bool.and_eq_true, decide_eq_true_eq] at hhas
  omega

theorem writeReg_fn {s : State} (hl : s.locked = true) {off : Nat} (ho : 0x040 ≤ off) (src : Src) (p : PageId) (v : Word) :
    s.writeReg src p off v = s.writeFn p off v := by
  unfold State.writeReg
  rw [if_neg (by simp [hl]), if_pos ho]

/-- A count box holds no shadowed register. -/
theorem cnt_row_acc (b : Nat) : ∀ r ∈ regRows (.cnt b), r.acc ≠ .rs := by
  intro r hr
  simp only [regRows, List.mem_append] at hr
  rcases hr with hr | hr
  · revert r; decide
  · split at hr
    · revert r; decide
    · cases hr

/-- A write that does no more than store its value. -/
def plainStore (p : PageId) (off : Nat) (r : RegRow) : Prop := r.acc = .rs ∨ (r.acc = .rw ∧ plainRw p off = true)

theorem plainStore.ne {p : PageId} {off n : Nat} {r x : RegRow} (h : plainStore p off r) (hr : regRow p off = some r)
    (hx : regRow p n = some x) (hrs : x.acc ≠ .rs) (hrw : x.acc = .rw → plainRw p n = false) : off ≠ n := by
  rintro rfl
  obtain rfl : r = x := Option.some.inj (hr.symm.trans hx)
  rcases h with h | ⟨h, hp⟩
  · exact hrs h
  · exact absurd hp (by simp [hrw h])

theorem blk_rs_off {off : Nat} {r : RegRow} (hr : regRow .blk off = some r) (h : r.acc = .rs) : off = 0x040 ∨ off = 0x048 := by
  obtain ⟨hmem, hhas⟩ := mem_of_regRow hr
  have hrow : ∀ x ∈ regRows .blk, x.acc = .rs → x.stride = 4 ∧ x.count = 1 ∧ (x.off = 0x040 ∨ x.off = 0x048) := by decide
  obtain ⟨hstride, hcount, hoff⟩ := hrow r hmem h
  simp only [RegRow.has, hstride, hcount, Bool.and_eq_true, decide_eq_true_eq] at hhas
  omega

/-- A shadowed register, and a plain read-write one, is stored and does nothing else. -/
theorem writeFn_stored {s : State} {p : PageId} {off : Nat} {r : RegRow} (hr : regRow p off = some r) (h : plainStore p off r) (v : Word) :
    s.writeFn p off v = (s.writeStored p off v, 0) := by
  have hne := fun {n : Nat} {x : RegRow} => h.ne (n := n) (x := x) hr
  cases p with
  | blk =>
    rcases h with h | ⟨-, h⟩
    · exact if_pos (blk_rs_off hr h)
    · cases h
  | map => simp [State.writeFn, hne (n := 0x418) rfl nofun nofun, hne (n := 0x41C) rfl nofun nofun]
  | esc => simp [State.writeFn, hne (n := 0x09C) rfl nofun nofun]
  | crn => simp [State.writeFn, hne (n := 0x050) rfl nofun nofun]
  | gw g => simp [State.writeFn, hne (n := 0x05C) rfl nofun nofun]
  | cc c => simp [State.writeFn, hne (n := 0x070) rfl nofun fun _ => rfl, hne (n := 0x080) rfl nofun fun _ => rfl]
  | brl c => simp [State.writeFn, hne (n := 0x04C) rfl nofun fun _ => rfl]
  | lthPool => simp [State.writeFn, hne (n := 0x050) rfl nofun fun _ => rfl]
  | ins i => simp [State.writeFn, hne (n := 0x048) rfl nofun nofun, hne (n := 0x04C) rfl nofun nofun]
  | cnt b =>
    have hlow : off < 0x080 := by
      rcases h with h | ⟨-, h⟩
      · exact absurd h (cnt_row_acc b r (mem_of_regRow hr).1)
      · simpa [plainRw] using h
    have hsnap : off ≠ 0x04C := hne (n := 0x04C) (x := ⟨0x04C, .w1s, [], 4, 1⟩) rfl nofun nofun
    simp [State.writeFn, hsnap, hlow.not_ge]
  | _ => rfl

/-- What a write of a stored register leaves before it stores: HI halves that a read of the register held are let go. -/
def State.letGo (s : State) (p : PageId) (off : Nat) : State :=
  s.updPage p fun pg => { pg with hiHeld := pg.hiHeld.filter fun e => e.1 != off }

theorem pendingCmt_letGo (s : State) (p : PageId) (off : Nat) (q : PageId) :
    ((s.letGo p off).page q).pendingCmt = (s.page q).pendingCmt := by
  unfold State.letGo
  by_cases h : q.num = p.num
  · rw [page_congr h, page_congr (s := s) h]
    exact Page.field Page.pendingCmt (updPage_body_self s p _) rfl
  · rw [updPage_other h]

theorem rsLocked_letGo (s : State) (p : PageId) (off : Nat) : (s.letGo p off).rsLocked p = s.rsLocked p := by
  unfold State.rsLocked
  rw [pendingCmt_letGo]
  cases p with
  | trt n => exact congrArg _ (pendingCmt_letGo s _ off _)
  | _ => rfl

theorem writeStored_rs {s : State} {p : PageId} {off : Nat} {r : RegRow} (hr : regRow p off = some r) (ha : r.acc = .rs) (v : Word) :
    s.writeStored p off v =
      if s.rsLocked p then (s.letGo p off).setErr p off 3 else (s.letGo p off).setShd p off (v &&& regMask p off) := by
  unfold State.writeStored
  rw [hr]
  dsimp only
  rw [ha, ← rsLocked_letGo s p off]
  rfl

theorem writeStored_rw {s : State} {p : PageId} {off : Nat} {r : RegRow} (hr : regRow p off = some r) (ha : r.acc = .rw) (v : Word) :
    s.writeStored p off v = (s.letGo p off).setReg p off (v &&& regMask p off) := by
  unfold State.writeStored
  rw [hr]
  dsimp only
  rw [ha]
  rfl

/-- A granted write of a register that does no more than store is answered OK with what `writeStored` leaves. -/
theorem regAccess_stored {s : State} {src : Src} {p : PageId} {off : Nat} {r : RegRow} (hw : wfSrc src = true)
    (hg : s.granted src p off false true = true) (hl : s.locked = true) (hr : regRow p off = some r) (h : plainStore p off r) (n : Nat) :
    s.regAccess src (p.num * 4096 + off) false true n =
      ((s.atPage src p off).writeStored p off (BitVec.ofNat 32 n)).answered 0 0 := by
  rw [regAccess_write hw hg, wrote_eq, writeReg_fn ((atPage_locked s src p off).trans hl) (regRow_off hr), writeFn_stored hr h]

theorem onlyPage_letGo (s : State) (p : PageId) (off : Nat) : OnlyPage p s (s.letGo p off) := OnlyPage.updPage s p _

theorem shd_letGo (s : State) (p : PageId) (off o : Nat) : (s.letGo p off).shd p o = s.shd p o := shd_updPage s p _ o

theorem reg_letGo (s : State) (p : PageId) (off o : Nat) : (s.letGo p off).reg p o = s.reg p o := reg_updPage s p _ o

/-- Settles O13: the write comes to `writeStored`, which stores into the shadow, into the register, or is refused. -/
theorem storedRegistersTakeWrites : Obligations.StoredRegistersTakeWrites := by
  unfold Obligations.StoredRegistersTakeWrites
  intro s src p off data r c hw hg hl hr hc m v
  have hexec : plainStore p off r → exec c s = .next ((m.writeStored p off (BitVec.ofNat 32 data.toNat)).answered 0 0) := by
    intro hp
    rw [← regAccess_stored hw hg hl hr hp]
    rcases hc with rfl | ⟨tap, rfl, rfl⟩ <;> rfl
  refine ⟨fun ha hlock => ⟨_, hexec (.inl ha), ?_⟩, fun ha hlock => ⟨_, hexec (.inl ha), ?_⟩,
    fun ha hplain => ⟨_, hexec (.inr ⟨ha, hplain⟩), ?_⟩⟩
  · rw [writeStored_rs hr ha, hlock, if_neg Bool.false_ne_true]
    refine ⟨answered_of ((onlyPage_letGo m p off).trans (OnlyPage.updPage _ p _)), ?_, fun o ho => ?_, fun o => ?_⟩
    · rw [shd_answered, shd_setShd, if_pos rfl]
    · rw [shd_answered, shd_setShd, if_neg ho, shd_letGo]
    · rw [reg_answered, reg_setShd, reg_letGo]
  · rw [writeStored_rs hr ha, hlock, if_pos rfl]
    refine ⟨answered_of ((onlyPage_letGo m p off).trans (OnlyPage.updPage _ p _)), ?_, fun o => ⟨?_, ?_⟩⟩
    · exact (Page.body_err (answered_body _ 0 0 p)).trans (err_setErr _ p off 3)
    · rw [shd_answered, shd_setErr, shd_letGo]
    · rw [reg_answered, reg_setErr, reg_letGo]
  · rw [writeStored_rw hr ha]
    refine ⟨answered_of ((onlyPage_letGo m p off).trans (OnlyPage.updPage _ p _)), ?_, fun o ho => ?_, fun o => ?_⟩
    · rw [reg_answered, reg_setReg, if_pos rfl]
    · rw [reg_answered, reg_setReg, if_neg ho, reg_letGo]
    · rw [shd_answered, shd_setReg, shd_letGo]

theorem exec_pgIsetWrite (s : State) (src : Src) (p : PageId) (v : Word) :
    exec (.pgIsetWrite src p.num v) s = .next (s.pageWrite src p.num 0x018 v.toNat) := rfl

theorem writeReg_iset {s : State} (hl : s.locked = true) (src : Src) (p : PageId) (v : Word) :
    s.writeReg src p 0x018 v = (s.writeIrq p 0x018 v, 0) := by
  simp [State.writeReg, hl]

theorem isr_writeIset (m : State) (p : PageId) (v : Word) :
    ((m.writeIrq p 0x018 v).page p).isr = (m.page p).isr ||| (v &&& BitVec.ofNat 32 p.isrMask) := by
  unfold State.writeIrq
  rw [isr_updPage]
  rfl

/-- Settles O18: the write of PG_ISET adds its bits to PG_ISR, and the answer's event takes none away. -/
theorem isetSetsPendingBits : Obligations.IsetSetsPendingBits := by
  unfold Obligations.IsetSetsPendingBits
  intro s src p v hw hg hl m
  have hexec : exec (.pgIsetWrite src p.num v) s = .next ((m.writeIrq p 0x018 v).answered 0 0) := by
    rw [exec_pgIsetWrite, pageWrite_granted hw hg, wrote_eq, BitVec.ofNat_toNat, BitVec.setWidth_eq,
      writeReg_iset ((atPage_locked s src p _).trans hl)]
  have hbody : ((m.writeIrq p 0x018 v).page p).body = (m.page p).body := updPage_body_self m p _
  refine ⟨_, hexec, answered_of (OnlyPage.updPage m p _), (answered_body _ 0 0 p).trans hbody, fun i hi h => ?_⟩
  refine IsrGrows.answered _ 0 0 p i ?_
  rw [isr_writeIset, flag_or, flag_and, flag_ofNat hi]
  rcases h with ⟨hv, hmask⟩ | h
  · simp [hv, hmask]
  · simp [h]

theorem exec_pgCtlWrite (s : State) (src : Src) (p : PageId) (v : Word) :
    exec (.pgCtlWrite src p.num v) s = .next (s.pageWrite src p.num 0x008 v.toNat) := rfl

theorem body_overrun (s : State) (kind unit : Nat) : SameBody s (s.overrun kind unit) :=
  SameBody.of_pages ((State.overrun_kept (Within.self _) (Kept.refl _ s) kind unit).part .pages (by decide))

/-- What a page's EN request may leave of the page: the request itself and its author (R92, R104). -/
structure EnAsked (p : PageId) (en : Bool) (m n : State) : Prop where
  others : OnlyPage p m n
  page : ∃ by_ : Nat, (n.page p).body = Page.body { m.page p with enReq := en, enBy := by_ }

theorem EnAsked.put {p : PageId} {m u : State} (h : SameBody m u) (en : Bool) (n : Nat) :
    EnAsked p en m (u.updPage p fun pg => { pg with enReq := en, enBy := n }) :=
  ⟨(OnlyPage.of_sameBody h).trans (OnlyPage.updPage u p _), n, (updPage_body_self u p _).trans <|
    Page.of_body (f := fun pg => Page.body { pg with enReq := en, enBy := n }) (fun _ => rfl) (h p)⟩

theorem EnAsked.unchanged {p : PageId} {m : State} {en : Bool} (h : (m.page p).enReq = en) : EnAsked p en m m :=
  ⟨OnlyPage.refl p m, (m.page p).enBy, by subst h; rfl⟩

/-- A request of the manager or the Crown port to change EN of a page other than the ESC page. -/
theorem EnAsked.writeEn {m : State} {src : Src} {p : PageId} (hs : src ≠ .movement) (hp : p ≠ .esc) (en : Bool) :
    EnAsked p en m (m.writeEn src p en) := by
  unfold State.writeEn
  dsimp only
  split
  · next h => exact EnAsked.unchanged h.symm
  · cases src with
    | movement => exact absurd rfl hs
    | fabric g i v => exact EnAsked.put (SameBody.refl m) en 0
    | crown tap =>
      dsimp only
      split
      · exact EnAsked.put (body_overrun m _ _) en 2
      · exact EnAsked.put (SameBody.refl m) en 2

theorem ctlOpen_of_src {m : State} {src : Src} {p : PageId} (hphase : 7 ≤ m.phase) (h : m.cmtShown p = .idle ∧
    (m.page p).pendingCmt = false ∧ m.mvcShown p = false) : m.ctlOpen src p := ⟨.inr hphase, .inr h⟩

/-- R502: before phase 7 PG_CTL is Movement's. -/
theorem writeCtl_early {m : State} {src : Src} (hs : src ≠ .movement) (hphase : m.phase < 7) (p : PageId) (v : Word) :
    m.writeCtl src p v = m.setErr p 0x008 8 := by
  cases src with
  | movement => exact absurd rfl hs
  | _ => simp [State.writeCtl, hphase]

/-- What a write of PG_CTL makes of the modes of a page (R92, R94, R131). -/
def Page.moded (v : Word) (ex us wasEx : Bool) (x : Page) : Page :=
  { x with expert := ex, user := us, shadowView := flag v 3, mvcActive := x.mvcActive || (wasEx && !ex) }

theorem writeCtl_free {m : State} {src : Src} {p : PageId} {v : Word} (hs : src ≠ .movement) (ho : m.ctlOpen src p)
    (hfree : flag v 0 = true ∨ (m.page p).enReq = false ∨ m.enHeld p = false) :
    m.writeCtl src p v = (m.writeEn src p (flag v 0)).updPage p
      (Page.moded v (flag v 1 && p.expertOk) (flag v 2 && p.userOk) (m.page p).expert) := by
  obtain ⟨hphase, hidle⟩ := ho
  have hheld : ¬((!flag v 0) = true ∧ (m.page p).enReq = true ∧ m.enHeld p = true) := by
    rcases hfree with h | h | h <;> simp [h]
  cases src with
  | movement => exact absurd rfl hs
  | crown _ | fabric _ _ _ =>
    simp only [reduceCtorEq, false_or] at hphase hidle
    obtain ⟨hcmt, hpend, hmvc⟩ := hidle
    unfold State.writeCtl
    simp only [Bool.not_false, hphase.not_gt, and_false, if_false, Bool.false_eq_true, hcmt, hpend, ne_eq, not_true_eq_false, or_self,
      hmvc, hheld]
    rfl

/-- Settles O16: before phase 7 the write is refused; after it, EN is asked for and the page's modes change. -/
theorem pgCtlWriteTakesLevels : Obligations.PgCtlWriteTakesLevels := by
  unfold Obligations.PgCtlWriteTakesLevels
  intro s src p v hw hg hl hs hp m
  have hexec : exec (.pgCtlWrite src p.num v) s = .next ((m.writeCtl src p v).answered 0 0) := by
    rw [exec_pgCtlWrite, pageWrite_pgCtl hw hg hl, BitVec.ofNat_toNat, BitVec.setWidth_eq]
  refine ⟨fun hphase => ⟨_, hexec, ?_⟩, fun hphase hidle hfree => ⟨_, hexec, ?_⟩⟩
  · rw [writeCtl_early hs hphase]
    have hbody := (answered_body (m.setErr p 0x008 8) 0 0 p).trans (updPage_body_self m p _)
    exact ⟨answered_upd, Page.field Page.err hbody rfl, Page.field Page.enReq hbody rfl, Page.field Page.en hbody rfl,
      Page.field Page.expert hbody rfl⟩
  · rw [writeCtl_free hs (ctlOpen_of_src hphase hidle) hfree]
    obtain ⟨hothers, by_, hpage⟩ := EnAsked.writeEn (m := m) hs hp (flag v 0)
    obtain ⟨-, -, hmvc⟩ := hidle
    have hactive : (m.page p).mvcActive = false := by
      simp only [State.mvcShown, Bool.or_eq_false_iff] at hmvc
      exact hmvc.1.1
    let f := Page.moded v (flag v 1 && p.expertOk) (flag v 2 && p.userOk) (m.page p).expert
    have hbody : ∀ n : State, n = ((m.writeEn src p (flag v 0)).updPage p f).answered 0 0 →
        (n.page p).body = Page.body (f { m.page p with enReq := flag v 0, enBy := by_ }) := by
      rintro n rfl
      refine (answered_body _ 0 0 p).trans ((updPage_body_self _ p f).trans ?_)
      exact Page.of_body (f := fun pg => Page.body (f pg)) (fun _ => rfl) hpage
    have hb := hbody _ rfl
    refine ⟨answered_of (hothers.trans (OnlyPage.updPage _ p _)), Page.field Page.enReq hb rfl, Page.field Page.en hb rfl,
      Page.field Page.expert hb rfl, Page.field Page.user hb rfl, Page.field Page.shadowView hb rfl, ?_, fun o => ⟨?_, ?_⟩⟩
    · exact Page.field Page.mvcActive hb (by simp [f, Page.moded, hactive])
    · exact Page.field (fun pg => pg.actReg p o) hb rfl
    · exact Page.field (fun pg => pg.shdReg p o) hb rfl

end Sys2Proof.Machine
end

section
/-! Granted reads (R85, R97, R99): read-clear registers, and the LO half of a read-only pair. -/
namespace Sys2Proof.Machine

theorem exec_rcRead (s : State) (src : Src) (addr : Nat) : exec (.rcRead src addr) s = .next (s.regAccess src addr false false 0) := rfl

theorem exec_loReadLatch (s : State) (src : Src) (addr : Nat) :
    exec (.loReadLatch src addr) s = .next (s.regAccess src addr false false 0) := rfl

/-- A granted 4-byte read is its register's, with its answer. -/
theorem hasRead_eq (s : State) (src : Src) (p : PageId) (off : Nat) :
    s.hasRead src p off = (((s.atPage src p off).readReg p off).1).answered 0 ((s.atPage src p off).readReg p off).2.toNat := rfl

/-- The answer to a granted read whose register reads as `x`, leaving `n`. -/
theorem regAccess_reads {s n : State} {src : Src} {p : PageId} {off : Nat} {x : Word} (hw : wfSrc src = true)
    (hg : s.granted src p off false false = true) (h : (s.atPage src p off).readReg p off = (n, x)) :
    s.regAccess src (p.num * 4096 + off) false false 0 = n.answered 0 x.toNat := by
  rw [regAccess_read hw hg, hasRead_eq, h]

theorem readReg_err {m : State} (hl : m.locked = true) (p : PageId) :
    m.readReg p 0x024 =
      (m.updPage p fun pg => { pg with err := (rcRead (m.page p).errWas m.bclk (m.page p).err).2, errWas := rcRest pg.errWas m.bclk },
       (rcRead (m.page p).errWas m.bclk (m.page p).err).1) := by
  simp [State.readReg, hl]

theorem readReg_badAcc {m : State} (hl : m.locked = true) :
    m.readReg .blk 0x070 =
      ({ m with blk := { m.blk with badAcc := (rcRead m.blk.badWas m.bclk m.blk.badAcc).2, badWas := rcRest m.blk.badWas m.bclk } },
       (rcRead m.blk.badWas m.bclk m.blk.badAcc).1) := by
  simp [State.readReg, hl]

theorem readReg_cmtRef {m : State} (hl : m.locked = true) :
    m.readReg .blk 0x078 =
      ({ m with blk := { m.blk with cmtRef := (rcRead m.blk.refWas m.bclk m.blk.cmtRef).2, refWas := rcRest m.blk.refWas m.bclk } },
       (rcRead m.blk.refWas m.bclk m.blk.cmtRef).1) := by
  simp [State.readReg, hl]

theorem readReg_laneEvt {m : State} (hl : m.locked = true) (c : Nat) :
    m.readReg (.bal c) 0x04C =
      (m.updBal c fun b => { b with laneEvt := (rcRead (m.chan c).bal.laneWas m.bclk (m.chan c).bal.laneEvt).2,
                                    laneWas := rcRest b.laneWas m.bclk },
       (rcRead (m.chan c).bal.laneWas m.bclk (m.chan c).bal.laneEvt).1) := by
  simp [State.readReg, hl]

theorem rcRead_settled {was : Option (Nat × Word)} {b : Nat} (h : ∀ x, was = some x → x.1 ≠ b) (v : Word) : rcRead was b v = (v, 0) := by
  cases was with
  | none => rfl
  | some x => exact if_neg (h x rfl)

theorem chan_answered (m : State) (st d c : Nat) : (m.answered st d).chan c = m.chan c :=
  congrArg (fun l => Tbl.get (fun _ => ({} : Chan)) l c) ((answered_kept m st d).part .chans (by decide))

/-- Settles O14: each read-clear register by what its read answers and leaves. -/
theorem readClearAnswersAndClears : Obligations.ReadClearAnswersAndClears := by
  unfold Obligations.ReadClearAnswersAndClears
  intro s src p off hw hg hl m c
  have hm : m.locked = true := (atPage_locked s src p off).trans hl
  have hexec : ∀ {n : State} {x : Word}, m.readReg p off = (n, x) → exec c s = .next (n.answered 0 x.toNat) := fun h => by
    rw [exec_rcRead, regAccess_reads hw hg h]
  refine ⟨?_, ?_, ?_, ?_, fun was b v h => rcRead_settled h v⟩
  · rintro rfl
    exact ⟨_, hexec (readReg_err hm p), answered_upd,
      Page.field Page.err ((answered_body _ 0 _ p).trans (updPage_body_self m p _)) rfl⟩
  · rintro rfl rfl
    exact ⟨_, hexec (readReg_badAcc hm), answered_of (OnlyPage.of_pages rfl), by rw [answered_blk], by rw [answered_blk]⟩
  · rintro rfl rfl
    exact ⟨_, hexec (readReg_cmtRef hm), answered_of (OnlyPage.of_pages rfl), by rw [answered_blk], by rw [answered_blk]⟩
  · rintro ch rfl rfl
    refine ⟨_, hexec (readReg_laneEvt hm ch), answered_of (OnlyPage.of_pages rfl), ?_, fun k hk => ?_⟩
    · rw [chan_answered, State.updBal, State.chan_upd_self]
    · rw [chan_answered, State.updBal, State.chan_upd_ne _ hk]

/-! ### LO and HI (R85) -/

/-- The read-only pairs lie among the function registers. -/
theorem roLo_off {p : PageId} {off : Nat} (h : roLo p off = true) : 0x040 ≤ off := by
  cases p with
  | ins i =>
    simp only [roLo, Bool.and_eq_true, decide_eq_true_eq] at h
    omega
  | esc =>
    simp only [roLo, List.contains_eq_mem, decide_eq_true_eq, List.mem_cons, List.not_mem_nil, or_false] at h
    omega
  | blk | slt _ _ | jwl =>
    simp only [roLo, beq_iff_eq] at h
    omega
  | _ => cases h

/-- A read of either half of a read-only pair. -/
theorem readReg_pair {m : State} (hl : m.locked = true) {p : PageId} {off k : Nat} (h : roLo p off = true) (hk : k = off ∨ k = off + 4) :
    m.readReg p k = m.readHalf p k (m.regValue p k) := by
  have hoff := roLo_off h
  unfold State.readReg
  dsimp only
  rw [if_neg (by simp [hl]), if_neg (by omega)]
  cases p with
  | blk =>
    simp only [roLo, beq_iff_eq] at h
    dsimp only
    rw [if_neg (by omega), if_neg (by omega)]
  | cnt b | bal c => cases h
  | _ => rfl

theorem roLo_readReg {m : State} (hl : m.locked = true) {p : PageId} {off : Nat} (h : roLo p off = true) :
    m.readReg p off =
      (m.updPage p fun pg => { pg with hi := Tbl.set (resetRead p) pg.hi (off + 4) (m.regValue p (off + 4)) }, m.regValue p off) := by
  rw [readReg_pair hl h (.inl rfl), State.readHalf, if_pos h]

/-- The register above the LO half of a read-only pair is no LO half itself. -/
theorem roLo_hi {p : PageId} {off : Nat} (h : roLo p off = true) : roLo p (off + 4) = false := by
  cases p with
  | ins i =>
    simp only [roLo, Bool.and_eq_true, decide_eq_true_eq, beq_iff_eq] at h
    simp only [roLo, Bool.and_eq_false_iff, beq_eq_false_iff_ne]
    omega
  | esc =>
    simp only [roLo, List.contains_eq_mem, decide_eq_true_eq, List.mem_cons, List.not_mem_nil, or_false] at h
    rcases h with rfl | rfl | rfl | rfl <;> rfl
  | blk | slt _ _ | jwl =>
    simp only [roLo, beq_iff_eq] at h
    subst h
    rfl
  | _ => cases h

theorem roLo_readHi {u : State} (hl : u.locked = true) {p : PageId} {off : Nat} (h : roLo p off = true) :
    (u.readReg p (off + 4)).2 = Tbl.get (resetRead p) (u.page p).hi (off + 4) := by
  rw [readReg_pair hl h (.inr rfl), State.readHalf, roLo_hi h, if_neg Bool.false_ne_true, if_pos ⟨by omega, h⟩]

/-- Settles O15: the read of LO stores what HI holds, and the next read of HI answers from there. -/
theorem loReadLatchesHi : Obligations.LoReadLatchesHi := by
  unfold Obligations.LoReadLatchesHi
  intro s src p off hw hg hl hlo m
  have hm : m.locked = true := (atPage_locked s src p off).trans hl
  refine ⟨_, (exec_loReadLatch s src _).trans (congrArg _ (regAccess_reads hw hg (roLo_readReg hm hlo))), answered_upd, fun u hu hpage => ?_⟩
  rw [roLo_readHi hu hlo, hpage]
  exact Page.field (fun pg => Tbl.get (resetRead p) pg.hi (off + 4)) ((answered_body _ 0 _ p).trans (updPage_body_self m p _))
    (Tbl.get_set_self _ _ _ _)

end Sys2Proof.Machine
end

section
/-! Commits of registers (R105 to R113, R131): what each operation on a page's commit leaves of the page's two copies. -/
namespace Sys2Proof.Machine

/-- A table filled from a function holds its value at every key filled. -/
theorem Tbl.get_foldl_set {α : Type} [DecidableEq α] (d f : Nat → α) (l : List Nat) (t : Tbl α) (o : Nat) :
    Tbl.get d (l.foldl (fun t o => Tbl.set d t o (f o)) t) o = if o ∈ l then f o else Tbl.get d t o := by
  induction l generalizing t with
  | nil => rfl
  | cons a l ih =>
    rw [List.foldl_cons, ih, Tbl.get_set]
    by_cases ha : o = a
    · subst ha; simp
    · simp [ha]

/-! ### Adoption (R131) -/

theorem exec_intentAdoption (s : State) (page : Nat) : exec (.intentAdoption page) s = .next (s.adoptPage page) := rfl

theorem adoptPage_of {s : State} {page : Nat} {p : PageId} (hp : pageOf page = some p) (ha : (s.page p).mvcActive = true)
    (he : (s.page p).expert = false) (hr : s.mvc.running = true) : s.adoptPage page = s.adopt p := by
  simp [State.adoptPage, hp, ha, he, hr]

/-- Settles O19: the command comes to `adopt`, which changes the intent and MVC_ACTIVE of the page and nothing else. -/
theorem adoptionTakesActiveValues : Obligations.AdoptionTakesActiveValues := by
  unfold Obligations.AdoptionTakesActiveValues
  intro s page p hp ha he hr
  have hbody := updPage_body_self s p fun pg =>
    { pg with intent := p.rsOffs.foldl (fun t o => Tbl.set (regReset p) t o (s.reg p o)) [], mvcActive := false }
  refine ⟨_, (exec_intentAdoption s page).trans (congrArg _ (adoptPage_of hp ha he hr)), Page.field Page.mvcActive hbody rfl,
    fun o ho => ?_, fun o => ⟨?_, ?_⟩, fun q hq => updPage_other hq⟩
  · refine Page.field (fun pg => Tbl.get (regReset p) pg.intent o) hbody ?_
    rw [Tbl.get_foldl_set, if_pos ho]
  · exact Page.field (fun pg => pg.actReg p o) hbody rfl
  · exact Page.field (fun pg => pg.shdReg p o) hbody rfl

/-! ### What reads the same of every page -/

/-- Every page reads the same through `f`. -/
def PagesAgree {α : Type} (f : Page → α) (s t : State) : Prop := ∀ p : PageId, f (t.page p) = f (s.page p)

namespace PagesAgree
variable {α : Type} {f : Page → α}

theorem refl (f : Page → α) (s : State) : PagesAgree f s s := fun _ => rfl

theorem trans {s t u : State} (h : PagesAgree f s t) (k : PagesAgree f t u) : PagesAgree f s u := fun p => (k p).trans (h p)

theorem of_pages {s t : State} (h : t.pages = s.pages) : PagesAgree f s t := fun p => by unfold State.page; rw [h]

theorem updPage (s : State) (p : PageId) {g : Page → Page} (hg : ∀ pg, f (g pg) = f pg := by exact fun _ => rfl)
    (hf : ∀ pg : Page, f pg.body = f pg := by exact fun _ => rfl) : PagesAgree f s (s.updPage p g) := by
  intro q
  by_cases h : q.num = p.num
  · rw [page_congr h, page_congr (s := s) h]
    exact (Page.of_body hf (updPage_body_self s p g)).trans (hg _)
  · rw [updPage_other h]

theorem foldl {β : Type} {g : State → β → State} (hg : ∀ s b, PagesAgree f s (g s b)) (l : List β) (s : State) :
    PagesAgree f s (l.foldl g s) := by
  induction l generalizing s with
  | nil => exact refl f s
  | cons b l ih => exact (hg s b).trans (ih _)

end PagesAgree

/-- A page but for its pending interrupts, its standing intent, and whether the ESC page's commit carries it. -/
def Page.core (pg : Page) : Page := { pg.body with intent := [], carried := false }

/-- A part of a page that its core tells. -/
theorem Page.coreField {α : Type} (f : Page → α) {a b : Page} (h : a.core = b.core) {x : α} (hx : f b = x)
    (hf : ∀ pg : Page, f pg.core = f pg := by exact fun _ => rfl) : f a = x := by
  rw [← hf a, h, hf b, hx]

theorem core_intentBack (s : State) (p : PageId) : PagesAgree Page.core s (s.intentBack p) := by
  unfold State.intentBack
  dsimp only
  split
  · exact .refl _ s
  · refine .foldl (fun s q => ?_) _ s
    exact .updPage s q

theorem core_uncarry (s : State) : PagesAgree Page.core s s.uncarry := by
  unfold State.uncarry
  refine .foldl (fun s x => ?_) _ s
  exact .updPage s (.slt x.1 x.2)

theorem core_raise (s : State) (p : PageId) (n : Nat) : PagesAgree Page.core s (s.raise p n) :=
  .updPage s p

theorem core_answered (s : State) (st d : Nat) : PagesAgree Page.core s (s.answered st d) :=
  fun p => Page.of_body (f := Page.core) (fun _ => rfl) (answered_body s st d p)

theorem PagesAgree.reg {s t : State} (h : PagesAgree Page.core s t) (p : PageId) (o : Nat) : t.reg p o = s.reg p o :=
  Page.coreField (fun pg => pg.actReg p o) (h p) rfl

theorem PagesAgree.shd {s t : State} (h : PagesAgree Page.core s t) (p : PageId) (o : Nat) : t.shd p o = s.shd p o :=
  Page.coreField (fun pg => pg.shdReg p o) (h p) rfl

/-! ### GO, CANCEL and DISCARD (R105, R111) -/

theorem exec_commitGo (s : State) (src : Src) (p : PageId) : exec (.commitGo src p.num) s = .next (s.pageWrite src p.num 0x01C 1) := rfl

theorem exec_commitCancel (s : State) (src : Src) (p : PageId) :
    exec (.commitCancel src p.num) s = .next (s.pageWrite src p.num 0x01C 2) := rfl

theorem exec_commitDiscard (s : State) (src : Src) (p : PageId) :
    exec (.commitDiscard src p.num) s = .next (s.pageWrite src p.num 0x01C 4) := rfl

/-- A granted write of PG_COMMIT comes to `writeCommit`. -/
theorem pageWrite_commit {s : State} {src : Src} {p : PageId} (hw : wfSrc src = true) (hg : s.granted src p 0x01C false true = true)
    (hl : s.locked = true) (n : Nat) :
    s.pageWrite src p.num 0x01C n =
      ((s.atPage src p 0x01C).writeCommit p (BitVec.ofNat 32 n) (decide (src = .movement))).answered 0 0 := by
  rw [pageWrite_granted hw hg, wrote_eq]
  have hm : (s.atPage src p 0x01C).locked = true := (atPage_locked s src p _).trans hl
  have hreg : (s.atPage src p 0x01C).writeReg src p 0x01C (BitVec.ofNat 32 n) =
      ((s.atPage src p 0x01C).writeCommit p (BitVec.ofNat 32 n) (decide (src = .movement)), 0) := by
    cases src <;> simp [State.writeReg, hm]
  rw [hreg]

/-- The page as GO leaves it. -/
def State.goPage (m : State) (mvc : Bool) (pg : Page) : Page :=
  { pg with cmt := .checking, cmtRefused := false,
            commit := { arrive := m.esc.frame, late := m.pastLatch, want := pg.commitFrame, mvc := mvc, at_ := m.bclk } }

theorem commitGo_of {m : State} {p : PageId} (hk : p.commitKind ≠ 0) (hpend : (m.page p).pendingCmt = false) (hrun : m.esc.running = true)
    (htrt : ∀ n, p = .trt n → n = m.ctlRouter) (hesc : p = .esc → m.fsNew = none ∨ ∀ x ∈ m.fsPages, (m.page (.slt x.1 x.2)).cmt = .idle)
    (mvc : Bool) : ((m.commitGo p mvc).page p).core = (m.goPage mvc (m.page p)).core := by
  have hfs : ¬(p = .esc ∧ m.fsNew.isSome = true ∧ (m.fsPages.any fun x => (m.page (.slt x.1 x.2)).cmt != .idle) = true) := by
    rintro ⟨hp, hnew, hany⟩
    rcases hesc hp with h | h
    · simp [h] at hnew
    · obtain ⟨x, hx, hne⟩ := List.any_eq_true.mp hany
      simp [h x hx] at hne
  have hgo : ((m.updPage p (m.goPage mvc)).page p).core = (m.goPage mvc (m.page p)).core :=
    Page.of_body (f := Page.core) (fun _ => rfl) (updPage_body_self m p _)
  unfold State.commitGo
  dsimp only
  rw [if_neg hk, if_neg (by simp [hpend]), if_neg (by simp [hrun]), if_neg ?router, if_neg hfs]
  case router =>
    split
    · next n => simp [htrt n rfl]
    · exact Bool.false_ne_true
  split
  · refine Eq.trans (PagesAgree.foldl (f := Page.core) (fun s x => ?_) _ _ p) hgo
    exact .updPage s (.slt x.1 x.2)
  · exact hgo

theorem shd_foldl_setShd (m : State) (p : PageId) (l : List Nat) :
    let t := l.foldl (fun s o => s.setShd p o (s.reg p o)) m
    (∀ o, t.reg p o = m.reg p o) ∧ (∀ o, t.shd p o = if o ∈ l then m.reg p o else m.shd p o) ∧ OnlyPage p m t := by
  induction l generalizing m with
  | nil => exact ⟨fun _ => rfl, fun _ => rfl, OnlyPage.refl p m⟩
  | cons a l ih =>
    obtain ⟨hreg, hshd, honly⟩ := ih (m.setShd p a (m.reg p a))
    refine ⟨fun o => (hreg o).trans (reg_setShd m p a _ o), fun o => ?_, (OnlyPage.updPage m p _).trans honly⟩
    refine (hshd o).trans ?_
    rw [reg_setShd, shd_setShd]
    by_cases ha : o = a
    · subst ha; simp
    · simp [ha]

theorem commitDiscard_of {m : State} {p : PageId} (hk : p.commitKind ≠ 0) (hpend : (m.page p).pendingCmt = false) :
    m.commitDiscard p = p.rsOffs.foldl (fun s o => s.setShd p o (s.reg p o)) m := by
  simp [State.commitDiscard, hk, hpend]

theorem commitCancel_of {m : State} {p : PageId} (hk : p.commitKind ≠ 0) (hlate : m.cancelLate p = false) :
    m.commitCancel p = m.disarm p := by
  simp [State.commitCancel, hk, hlate]

/-- A disarmed page is idle; nothing else that its core tells has changed (R59). -/
theorem core_disarm (m : State) (p : PageId) : ((m.disarm p).page p).core = Page.core { m.page p with cmt := .idle } := by
  have hback : ((((m.updPage p fun pg => { pg with cmt := .idle }).intentBack p)).page p).core = Page.core { m.page p with cmt := .idle } :=
    (core_intentBack _ p p).trans (Page.of_body (f := Page.core) (fun _ => rfl) (updPage_body_self m p _))
  unfold State.disarm
  cases p with
  | esc => exact (core_uncarry _ .esc).trans hback
  | _ => exact hback

/-- Settles O20: GO, CANCEL and DISCARD by what each leaves of the page. -/
theorem commitGoCancelDiscard : Obligations.CommitGoCancelDiscard := by
  unfold Obligations.CommitGoCancelDiscard
  intro s src p hw hg hl hk m
  refine ⟨fun hpend hrun htrt hesc => ⟨_, (exec_commitGo s src p).trans (congrArg _ (pageWrite_commit hw hg hl 1)), ?_⟩,
    fun hlate => ⟨_, (exec_commitCancel s src p).trans (congrArg _ (pageWrite_commit hw hg hl 2)), ?_⟩,
    fun hpend => ⟨_, (exec_commitDiscard s src p).trans (congrArg _ (pageWrite_commit hw hg hl 4)), ?_⟩⟩
  · have hcore := (core_answered (m.commitGo p (decide (src = .movement))) 0 0 p).trans
      (commitGo_of hk hpend hrun htrt hesc (decide (src = .movement)))
    exact ⟨by rw [answered_blk], Page.coreField Page.cmt hcore rfl, Page.coreField Page.cmtRefused hcore rfl,
      Page.coreField Page.commit hcore rfl, fun o => ⟨Page.coreField (fun pg => pg.actReg p o) hcore rfl,
      Page.coreField (fun pg => pg.shdReg p o) hcore rfl⟩⟩
  · have hcore := (core_answered (m.disarm p) 0 0 p).trans (core_disarm m p)
    rw [← commitCancel_of hk hlate] at hcore
    exact ⟨by rw [answered_blk], Page.coreField Page.cmt hcore rfl, fun o => ⟨Page.coreField (fun pg => pg.actReg p o) hcore rfl,
      Page.coreField (fun pg => pg.shdReg p o) hcore rfl⟩⟩
  · obtain ⟨hreg, hshd, honly⟩ := shd_foldl_setShd m p p.rsOffs
    rw [← commitDiscard_of hk hpend] at hreg hshd honly
    refine ⟨answered_of honly, fun o ho => ?_, fun o => (reg_answered _ 0 0 p o).trans (hreg o)⟩
    exact (shd_answered _ 0 0 p o).trans ((hshd o).trans (if_pos ho))

end Sys2Proof.Machine
end

section
/-! The checks of a register commit (R56, R58, R107 to R109). -/
namespace Sys2Proof.Machine

theorem exec_commitCheck {s : State} {page : Nat} {p : PageId} (hp : pageOf page = some p) :
    exec (.commitCheck page) s = .next (s.commitCheck p) := by
  change Host.Outcome.next (match pageOf page with | some p => s.commitCheck p | none => s) = _
  rw [hp]

/-- What a page of shadowed registers alone is not (R91). -/
theorem commitKind_one {p : PageId} (hk : p.commitKind = 1) :
    p ≠ .esc ∧ p ≠ .map ∧ (∀ n, p ≠ .trt n) ∧ ∀ c sc, p ≠ .slt c sc := by
  refine ⟨?_, ?_, fun n => ?_, fun c sc => ?_⟩ <;> rintro rfl <;> cases hk

/-- The page of a refused commit (R109, R112). -/
def Page.refused (o r : Nat) (pg : Page) : Page :=
  { pg with cmt := .idle, cmtRefused := true, err := pack [(0, 12, o), (16, 8, r), (24, 8, 0x0C)] }

/-- A page but for what a refusal remembers of PG_ERR (R99). -/
def Page.coreErr (pg : Page) : Page := { pg.core with errWas := none }

theorem Page.coreErrField {α : Type} (f : Page → α) {a b : Page} (h : a.coreErr = b.coreErr) {x : α} (hx : f b = x)
    (hf : ∀ pg : Page, f pg.coreErr = f pg := by exact fun _ => rfl) : f a = x := by
  rw [← hf a, h, hf b, hx]

/-- A refusal returns the page to idle and records the field (R109, R123). -/
theorem commitRefuseAt_of {s : State} {p : PageId} (hp : p ≠ .esc) (o r t : Nat) :
    let u := s.commitRefuseAt p o r t
    (u.page p).coreErr = ((s.page p).refused o r).coreErr ∧ u.blk.cmtRef = pack [(0, 13, p.num), (16, 8, r), (31, 1, 1)] ∧
      flag (u.page .blk).isr 2 = true := by
  let v := ((s.setErrAt p o r t).updPage p fun pg => { pg with cmt := .idle, cmtRefused := true }).intentBack p
  let w : State := { v with blk := { v.blk with cmtRef := pack [(0, 13, p.num), (16, 8, r), (31, 1, 1)],
                                                refWas := rcSet v.blk.refWas t v.blk.cmtRef } }
  have hu : s.commitRefuseAt p o r t = w.raise .blk 2 := by
    unfold State.commitRefuseAt
    dsimp only
    split
    · exact absurd rfl hp
    · rfl
  intro u
  have hpage : (u.page p).core = ((((s.setErrAt p o r t).updPage p fun pg => { pg with cmt := .idle, cmtRefused := true })).page p).core := by
    rw [show u = w.raise .blk 2 from hu]
    exact ((core_raise w .blk 2 p).trans (PagesAgree.of_pages (f := Page.core) (s := v) (t := w) rfl p)).trans (core_intentBack _ p p)
  refine ⟨?_, ?_, ?_⟩
  · refine Page.coreField Page.coreErr hpage ?_
    refine Page.field Page.coreErr (updPage_body_self _ p _) ?_
    exact Page.field (fun pg => Page.coreErr { pg with cmt := .idle, cmtRefused := true }) (updPage_body_self s p _) rfl
  · rw [show u = w.raise .blk 2 from hu]
    exact congrArg Blk.cmtRef (State.blk_updPage w .blk _)
  · rw [show u = w.raise .blk 2 from hu]
    exact flag_raise w .blk (by decide)

theorem commitCheck_refused {s : State} {p : PageId} (hk : p.commitKind = 1) (hc : (s.page p).cmt = .checking) {o r : Nat}
    (hf : s.fieldFail p = some (o, r)) : s.commitCheck p = s.commitRefuseAt p o r s.bclk := by
  obtain ⟨-, -, htrt, -⟩ := commitKind_one hk
  unfold State.commitCheck State.commitCheckAt
  dsimp only
  rw [if_neg (by simp [hc])]
  split
  · next o' r' hbad =>
    split at hbad
    · exact absurd rfl (htrt _)
    · rw [hf] at hbad
      cases hbad
      rfl
  · next hbad =>
    split at hbad
    · exact absurd rfl (htrt _)
    · rw [hf] at hbad
      cases hbad

/-- The conditions of a commit do not hang on the commit itself (R109). -/
theorem stateFail_updCommit (s : State) (p : PageId) (g : Commit → Commit) (hk : p.commitKind = 1) (mvc : Bool) :
    (s.updPage p fun pg => { pg with commit := g pg.commit }).stateFail p mvc = s.stateFail p mvc := by
  set u := s.updPage p fun pg => { pg with commit := g pg.commit } with hu
  have hshd : ∀ q o, u.shd q o = s.shd q o := fun q o =>
    have h : PagesAgree (fun pg => pg.shdReg q o) s u := .updPage s p
    h q
  have hreg : ∀ q o, u.reg q o = s.reg q o := fun q o =>
    have h : PagesAgree (fun pg => pg.actReg q o) s u := .updPage s p
    h q
  have hex : ∀ q, (u.page q).expert = (s.page q).expert := PagesAgree.updPage (f := Page.expert) s p
  have hen : ∀ q, (u.page q).en = (s.page q).en := PagesAgree.updPage (f := Page.en) s p
  obtain ⟨hesc, hmap, htrt, hslt⟩ := commitKind_one hk
  have hchan : ∀ c, u.chan c = s.chan c := fun _ => rfl
  have htraffic : u.traffic = s.traffic := by
    simp only [State.traffic, State.effective, hen]
    rfl
  have hact : u.mapAct = s.mapAct := funext fun o => hreg .map o
  have hin : ∀ c, u.inMap c = s.inMap c := fun c => by simp only [State.inMap, hact, hchan]
  cases p with
  | esc => exact absurd rfl hesc
  | map => exact absurd rfl hmap
  | trt n => exact absurd rfl (htrt n)
  | slt c sc => exact absurd rfl (hslt c sc)
  | cc c => simp only [State.stateFail, hshd, hex, htraffic, hact, hin, hchan]; rfl
  | cal c => simp only [State.stateFail, hshd]; rfl
  | brl c => simp only [State.stateFail, hshd]; rfl
  | lth e => simp only [State.stateFail, hshd]; rfl
  | lthPool => simp only [State.stateFail, hshd, hreg]; rfl
  | _ => rfl

/-- The target frame that GO captured is the next boundary, or names a frame ahead (R56). -/
def Targets (c : Commit) (named : Nat) : Prop :=
  (targetOf c.arrive c.want.toNat = none ∧ named = 0) ∨ targetOf c.arrive c.want.toNat = some (some named)

/-- A commit whose checks pass is armed for its target or the earliest frame (R56, R58). -/
theorem commitCheck_armed {s : State} {p : PageId} (hk : p.commitKind = 1) (hc : (s.page p).cmt = .checking)
    (hf : s.fieldFail p = none) (hs : s.stateFail p (s.page p).commit.mvc = none) {named : Nat} (hn : Targets (s.page p).commit named) :
    ∃ tg, s.commitCheck p =
      (s.updPage p fun pg => { pg with commit := { pg.commit with target := tg } }).commitArm p
        (max named ((s.page p).commit.arrive + 1 + b2n (s.page p).commit.late)) := by
  obtain ⟨hesc, hmap, htrt, hslt⟩ := commitKind_one hk
  obtain ⟨tg, htarget, hnamed⟩ : ∃ tg : Option Nat, (targetOf (s.page p).commit.arrive (s.page p).commit.want.toNat = tg.map some) ∧
      tg.getD 0 = named := by
    rcases hn with ⟨h, rfl⟩ | h
    · exact ⟨none, h, rfl⟩
    · exact ⟨some named, h, rfl⟩
  have hearly : earliestEff 1 (s.page p).commit + b2n false = (s.page p).commit.arrive + 1 + b2n (s.page p).commit.late := rfl
  have hstate := (stateFail_updCommit s p (fun c => { c with target := tg }) hk (s.page p).commit.mvc).trans hs
  refine ⟨tg, ?_⟩
  rw [← hnamed, ← hearly, ← hk]
  unfold State.commitCheck State.commitCheckAt
  dsimp only
  rw [if_neg (by simp [hc]), htarget]
  cases p with
  | esc => exact absurd rfl hesc
  | map => exact absurd rfl hmap
  | trt n => exact absurd rfl (htrt n)
  | slt c sc => exact absurd rfl (hslt c sc)
  | _ =>
    dsimp only
    rw [hf]
    cases tg <;> (dsimp only [Option.map] at hstate ⊢; rw [hstate])

/-- An armed page (R58). -/
def Page.armed (k eff : Nat) (pg : Page) : Page :=
  { pg with cmt := .armed, commitFrame := BitVec.ofNat 32 eff,
            commit := { pg.commit with eff := eff, ref := pg.commit.target.getD (pg.commit.arrive + kindFrames k) } }

theorem commitArm_eq (s : State) (p : PageId) (eff : Nat) : s.commitArm p eff = s.updPage p (Page.armed p.commitKind eff) := by
  unfold State.commitArm
  congr 1
  funext pg
  unfold Page.armed
  cases pg.commit.target <;> rfl

theorem commitArm_body (s : State) (p : PageId) (tg : Option Nat) (eff : Nat) :
    (((s.updPage p fun pg => { pg with commit := { pg.commit with target := tg } }).commitArm p eff).page p).body =
      Page.body (Page.armed p.commitKind eff { s.page p with commit := { (s.page p).commit with target := tg } }) := by
  rw [commitArm_eq]
  exact (updPage_body_self _ p _).trans
    (Page.field (fun pg => Page.body (Page.armed p.commitKind eff pg)) (updPage_body_self s p _) rfl)

/-- Settles O21: a field that fails refuses the commit, and otherwise it is armed. -/
theorem commitCheckArmsOrRefuses : Obligations.CommitCheckArmsOrRefuses := by
  unfold Obligations.CommitCheckArmsOrRefuses
  intro s page p hp hk hc
  obtain ⟨hesc, -⟩ := commitKind_one hk
  refine ⟨fun o r hf => ⟨_, exec_commitCheck hp, ?_⟩, fun named hf hs hn => ⟨_, exec_commitCheck hp, ?_⟩⟩
  · rw [commitCheck_refused hk hc hf]
    obtain ⟨hpage, hblk, hisr⟩ := commitRefuseAt_of (s := s) hesc o r s.bclk
    exact ⟨Page.coreErrField Page.cmt hpage rfl, Page.coreErrField Page.cmtRefused hpage rfl, Page.coreErrField Page.err hpage rfl,
      hblk, hisr, fun x => ⟨Page.coreErrField (fun pg => pg.actReg p x) hpage rfl, Page.coreErrField (fun pg => pg.shdReg p x) hpage rfl⟩⟩
  · obtain ⟨tg, h⟩ := commitCheck_armed hk hc hf hs hn
    have hbody := commitArm_body s p tg (max named ((s.page p).commit.arrive + 1 + b2n (s.page p).commit.late))
    rw [← h] at hbody
    exact ⟨Page.field Page.cmt hbody rfl, Page.field (fun pg => pg.commit.eff) hbody rfl, Page.field Page.commitFrame hbody rfl,
      fun x => ⟨Page.field (fun pg => pg.actReg p x) hbody rfl, Page.field (fun pg => pg.shdReg p x) hbody rfl⟩⟩

end Sys2Proof.Machine
end

section
/-! Accesses of the fabric that the level rules exclude (R81, R94, R102, R121, R500). -/
namespace Sys2Proof.Machine

/-- In phase 15 an access of the fabric comes to nothing (R500). -/
theorem regAccess_unheld {s : State} {g i : Nat} {priv : Bool} (hw : wfSrc (.fabric g i priv) = true)
    (hhold : (s.runSvcsTo (s.bclk - 1)).holdsPort (.fabric g i priv) = false) (addr : Nat) (wide wr : Bool) (n : Nat) :
    s.regAccess (.fabric g i priv) addr wide wr n = s.runSvcsTo (s.bclk - 1) := by
  unfold State.regAccess
  rw [cutSrc_wf hw]
  unfold State.accessHere State.accessNow
  dsimp only
  rw [hhold]
  rfl

/-- R102: a page that the access does not reach answers ACCESS, and the block records it. -/
theorem regAccess_unreached {s : State} {g i : Nat} {priv : Bool} {p : PageId} {off : Nat} {wr : Bool}
    (hw : wfSrc (.fabric g i priv) = true) (halign : off % 4 = 0)
    (hhold : (s.runSvcsTo (s.bclk - 1)).holdsPort (.fabric g i priv) = true)
    (hreach : (s.met (.fabric g i priv) p off).reachesAt i priv wr (p.num * 4096 + off) = false) (n : Nat) :
    s.regAccess (.fabric g i priv) (p.num * 4096 + off) false wr n =
      ((s.met (.fabric g i priv) p off).badAccess (.fabric g i priv) (p.num * 4096 + off) wr true).answered 8 0 := by
  have hmod : (p.num * 4096 + off) % 4 = 0 := by omega
  have hreach' : (s.runSvcsTo (s.bclk - 1)).reachesAt i priv wr (p.num * 4096 + off) = false := hreach
  unfold State.regAccess
  rw [cutSrc_wf hw]
  unfold State.accessHere State.accessNow
  dsimp only
  rw [hhold, if_neg (by decide), if_pos (by simp [hmod, hreach'])]
  rfl

/-- R94: a register that its page's level keeps from the source answers ACCESS. -/
theorem regAccess_denied {s : State} {g i : Nat} {priv : Bool} {p : PageId} {off : Nat}
    (hw : wfSrc (.fabric g i priv) = true) (h4 : off < 4096) (halign : off % 4 = 0) (hat : pageAt (p.num * 4096 + off) = some p)
    (hhold : (s.runSvcsTo (s.bclk - 1)).holdsPort (.fabric g i priv) = true)
    (hreach : (s.met (.fabric g i priv) p off).reachesAt i priv true (p.num * 4096 + off) = true)
    (hmay : (s.atPage (.fabric g i priv) p off).mayWrite (.fabric g i priv) p off = false) (n : Nat) :
    s.regAccess (.fabric g i priv) (p.num * 4096 + off) false true n = (s.atPage (.fabric g i priv) p off).answered 8 0 := by
  have hmod : (p.num * 4096 + off) % 4 = 0 := by omega
  have hoff : (p.num * 4096 + off) % 4096 = off := by omega
  have hmay' : ((s.met (.fabric g i priv) p off).settle).mayWrite (.fabric g i priv) p off = false := hmay
  unfold State.regAccess
  rw [cutSrc_wf hw, accessHere_met h4 hhold hreach]
  simp only [State.access, Bool.false_eq_true, if_false, hmod, ne_eq, not_true_eq_false, hat, hoff, if_true, List.all_cons,
    hmay', Bool.false_and]
  rfl

/-- R121: the record of an access that is not answered. -/
theorem badAcc_badAccess (s : State) (g i : Nat) (priv : Bool) (addr : Nat) (wr acc : Bool) :
    (s.badAccess (.fabric g i priv) addr wr acc).blk.badAcc =
      pack [(0, 25, addr), (25, 4, g), (29, 1, b2n wr), (30, 1, b2n acc), (31, 1, 1)] :=
  congrArg Blk.badAcc ((State.ev_kept (Within.self 0x20020)
    (State.raise_kept ((Within.self 0x20020).of (by decide)) (Kept.refl _ _) .blk 3) _).part .blk (by decide))

theorem body_badAccess (s : State) (src : Src) (addr : Nat) (wr acc : Bool) : SameBody s (s.badAccess src addr wr acc) := by
  cases src with
  | fabric g i v => exact ((SameBody.of_pages (s := s) rfl).trans (State.raise_body _ .blk 3)).trans (State.ev_body _ _)
  | crown _ | movement => exact SameBody.refl s

/-- Settles O24: the access ends before it comes to a register. -/
theorem deniedAccessesChangeNothing : Obligations.DeniedAccessesChangeNothing := by
  unfold Obligations.DeniedAccessesChangeNothing
  intro s g i priv p off data src hw h4 halign hat m
  refine ⟨fun hhold => ?_, fun hhold hreach hmay => ⟨_, exec_registerWrite s src _ data, ?_⟩,
    fun hhold hreach => ⟨_, exec_registerWrite s src _ data, ?_⟩⟩
  · rw [exec_registerWrite, regAccess_unheld hw hhold]
  · rw [regAccess_denied hw h4 halign hat hhold hreach hmay]
    exact ⟨rfl, rfl, rfl⟩
  · rw [regAccess_unreached hw halign hhold hreach]
    exact ⟨rfl, badAcc_badAccess _ g i priv _ true true, fun q => (answered_body _ 8 0 q).trans (body_badAccess _ _ _ _ _ q)⟩

end Sys2Proof.Machine
end

section
/-! Granted writes of function registers, and those of a count box (R914, R915, R917, R929, R935). -/
namespace Sys2Proof.Machine

/-- A granted 4-byte write of a function register that its page takes is answered OK. -/
theorem pageWrite_fn {s t : State} {src : Src} {p : PageId} {off n : Nat} (hw : wfSrc src = true)
    (hg : s.granted src p off false true = true) (hl : s.locked = true) (ho : 0x040 ≤ off)
    (ht : (s.atPage src p off).writeFn p off (BitVec.ofNat 32 n) = (t, 0)) : s.pageWrite src p.num off n = t.answered 0 0 := by
  rw [pageWrite_granted hw hg, wrote_eq, writeReg_fn ((atPage_locked s src p off).trans hl) ho, ht]

/-- A granted 8-byte write of a pair of function registers is the writes of its halves, low one first (R84). -/
theorem regAccess_wide {s a t : State} {src : Src} {p : PageId} {off n : Nat} (hw : wfSrc src = true)
    (hg : s.granted src p off true true = true) (hl : s.locked = true) (ho : 0x040 ≤ off)
    (hlo : (s.atPage src p off).writeFn p off (BitVec.ofNat 32 n) = (a, 0)) (ha : a.locked = (s.atPage src p off).locked)
    (hhi : a.writeFn p (off + 4) (BitVec.ofNat 32 (n / 2 ^ 32)) = (t, 0)) :
    s.regAccess src (p.num * 4096 + off) true true n = t.answered 0 0 := by
  obtain ⟨hhold, hreach, halign, h4, hat, hmay⟩ := granted_cases hg
  have hm : (s.atPage src p off).locked = true := (atPage_locked s src p off).trans hl
  have hfirst := (writeReg_fn hm ho src p (BitVec.ofNat 32 n)).trans hlo
  have hsecond := (writeReg_fn (ha.trans hm) (ho.trans (Nat.le_add_right _ 4)) src p (BitVec.ofNat 32 (n / 2 ^ 32))).trans hhi
  have hoff : (p.num * 4096 + off) % 4096 = off := by omega
  simp only [if_true, List.mem_cons, List.not_mem_nil, or_false, forall_eq_or_imp, forall_eq] at halign hmay
  obtain ⟨hmay0, hmay4⟩ := hmay
  unfold State.atPage at hfirst hmay0 hmay4
  unfold State.regAccess
  rw [cutSrc_wf hw, accessHere_met h4 hhold hreach]
  simp only [State.access, if_true, halign, ne_eq, not_true_eq_false, if_false, hat, hoff, List.all_cons, List.all_nil, hmay0, hmay4,
    Bool.and_self, hfirst, hsecond]
  rfl

theorem onlyPage_of_pages {s t : State} (p : PageId) (h : t.pages = s.pages) : OnlyPage p s t :=
  OnlyPage.of_sameBody (SameBody.of_pages h)

theorem exec_snap (s : State) (src : Src) (b : Fin 72) :
    exec (.snap src b) s = .next (s.pageWrite src (PageId.cnt b).num 0x04C 1) := rfl

theorem exec_quadClr (s : State) (src : Src) (b : Fin 72) :
    exec (.quadClr src b) s = .next (s.pageWrite src (PageId.cnt b).num 0x04C 2) := rfl

theorem exec_cntSnapClr (s : State) (src : Src) (b : Fin 72) :
    exec (.cntSnapClr src b) s = .next (s.pageWrite src (PageId.cnt b).num 0x04C 4) := rfl

theorem exec_cntValWrite (s : State) (src : Src) (b : Fin 72) (n : Fin 8) (v : BitVec 48) :
    exec (.cntValWrite src b n v) s = .next (s.regAccess src ((PageId.cnt b).num * 4096 + (0x080 + 8 * n.val)) true true v.toNat) := by
  rw [← Nat.add_assoc]
  rfl

theorem exec_cntCtlWrite (s : State) (src : Src) (b : Fin 72) (v : Word) :
    exec (.cntCtlWrite src b v) s = .next (s.pageWrite src (PageId.cnt b).num 0x048 v.toNat) := rfl

theorem writeFn_cntSnap (m : State) (b : Nat) (v : Word) : m.writeFn (.cnt b) 0x04C v = (m.cntSnap b v, 0) := rfl

theorem cntSnap_snap (m : State) (b : Nat) : m.cntSnap b (BitVec.ofNat 32 1) = m.snap b := rfl

theorem cntSnap_quadClr (m : State) {b : Nat} (hb : b < 17) :
    m.cntSnap b (BitVec.ofNat 32 2) = m.updCnt b fun c => { c with quadClr := true } := if_pos ⟨rfl, hb⟩

theorem cntSnap_clear (m : State) (b : Nat) : m.cntSnap b (BitVec.ofNat 32 4) = m.cntClear b := rfl

/-- A box but for what it counts reads the same after an answer. -/
theorem Cnt.still_field {α : Type} {a b : Cnt} (f : Cnt → α) (h : a.still = b.still) (hf : ∀ c : Cnt, f c.still = f c := by intro; rfl) :
    f a = f b := by
  rw [← hf a, h, hf]

theorem cnt_answered_ne {b : Nat} (h : b ≠ 71) (m : State) (st d : Nat) : (m.answered st d).cnt b = m.cnt b :=
  otherBoxes_answered m st d b h

/-- The two writes of an 8-byte write of CNT_VALn. -/
theorem writeFn_cntVal (m : State) (b : Nat) (n : Fin 8) (v : Word) :
    m.writeFn (.cnt b) (0x080 + 8 * n.val) v = (m.cntVal b n.val false v, 0) ∧
    m.writeFn (.cnt b) (0x080 + 8 * n.val + 4) v = (m.cntVal b n.val true v, 0) := by
  have hn := n.isLt
  have hlow : ∀ k : Fin 8, (0x080 + 8 * k.val ≠ 0x04C ∧ 0x080 ≤ 0x080 + 8 * k.val ∧ 0x080 + 8 * k.val < 0x0C0 ∧
      (0x080 + 8 * k.val) % 4 = 0) ∧ (0x080 + 8 * k.val - 0x080) / 8 = k.val ∧ ((0x080 + 8 * k.val) % 8 == 4) = false := by decide
  have hhigh : ∀ k : Fin 8, (0x080 + 8 * k.val + 4 ≠ 0x04C ∧ 0x080 ≤ 0x080 + 8 * k.val + 4 ∧ 0x080 + 8 * k.val + 4 < 0x0C0 ∧
      (0x080 + 8 * k.val + 4) % 4 = 0) ∧ (0x080 + 8 * k.val + 4 - 0x080) / 8 = k.val ∧
      ((0x080 + 8 * k.val + 4) % 8 == 4) = true := by decide
  obtain ⟨⟨hsnap, hrange⟩, hidx, hhalf⟩ := hlow n
  obtain ⟨⟨hsnap4, hrange4⟩, hidx4, hhalf4⟩ := hhigh n
  constructor
  · simp only [State.writeFn]
    rw [if_neg hsnap, if_pos hrange, hidx, hhalf]
  · simp only [State.writeFn]
    rw [if_neg hsnap4, if_pos hrange4, hidx4, hhalf4]

/-- The two halves of a write put a value of 48 bits together. -/
theorem putHalf_both (x : Nat) (v : BitVec 48) :
    putHalf (putHalf x false (BitVec.ofNat 32 v.toNat) 16) true (BitVec.ofNat 32 (v.toNat / 2 ^ 32)) 16 = v.toNat := by
  have hv := v.isLt
  simp only [putHalf, Bool.false_eq_true, if_false, if_true, fld, bits, BitVec.toNat_ofNat, Nat.shiftRight_zero]
  omega

/-- Settles O30: each command comes to `cntSnap`, `cntVal` or the store of CNT_CTL. -/
theorem countBoxCommands : Obligations.CountBoxCommands := by
  unfold Obligations.CountBoxCommands
  intro s src b hw hl
  refine ⟨?_, ?_⟩
  · intro m hg
    have hpage := fun {t : State} (n : Nat) (ht : m.cntSnap b (BitVec.ofNat 32 n) = t) =>
      pageWrite_fn (n := n) hw hg hl (by decide) (congrArg (·, 0) ht)
    refine ⟨⟨_, exec_snap s src b, ?_⟩, fun hb => ⟨_, exec_quadClr s src b, ?_⟩, fun hb => ⟨_, exec_cntSnapClr s src b, ?_⟩⟩
    · rw [hpage 1 (cntSnap_snap m b)]
      have hself : (m.snap b).cnt b = { m.cnt b with bank := m.capture b, capture := none, snapMan := true } := State.cnt_upd_self m b _
      have hstill := boxesStill_answered (m.snap b) 0 0 b
      rw [hself] at hstill
      exact ⟨rfl, Cnt.still_field Cnt.bank hstill, Cnt.still_field Cnt.snapMan hstill, Cnt.still_field Cnt.capture hstill⟩
    · rw [hpage 2 (cntSnap_quadClr m hb)]
      exact ⟨rfl, (cnt_answered_ne (by omega) _ 0 0).trans (State.cnt_upd_self m b _), (answered_kept _ 0 0).part .subs (by decide)⟩
    · rw [hpage 4 (cntSnap_clear m b)]
      exact ⟨rfl, (cnt_answered_ne hb _ 0 0).trans (State.cnt_upd_self m b _),
        fun k hk hk71 => (cnt_answered_ne hk71 _ 0 0).trans (State.cnt_upd_ne m hk _)⟩
  · refine ⟨fun n v hb hg => ⟨_, exec_cntValWrite s src b n v, ?_⟩, fun v hg => ⟨_, exec_cntCtlWrite s src b v, ?_⟩⟩
    · let m := s.atPage src (.cnt b) (0x080 + 8 * n.val)
      let a := m.cntVal b n.val false (BitVec.ofNat 32 v.toNat)
      rw [regAccess_wide hw hg hl (by omega) (writeFn_cntVal m b n _).1 rfl (writeFn_cntVal a b n _).2]
      have hvals : (((a.cntVal b n.val true (BitVec.ofNat 32 (v.toNat / 2 ^ 32))).answered 0 0).cnt b).vals =
          Tbl.upd (fun _ => 0) (Tbl.upd (fun _ => 0) (m.cnt b).vals n.val fun x => putHalf x false (BitVec.ofNat 32 v.toNat) 16) n.val
            fun x => putHalf x true (BitVec.ofNat 32 (v.toNat / 2 ^ 32)) 16 := by
        simp only [cnt_answered_ne hb, a, State.cntVal, State.cnt_upd_self]
      refine ⟨rfl, ?_, fun j hj => ?_, fun k hk hk71 => ?_⟩
      · rw [hvals, Tbl.get_upd_self, Tbl.get_upd_self, putHalf_both]
      · rw [hvals, Tbl.get_upd_ne _ _ _ hj, Tbl.get_upd_ne _ _ _ hj]
      · rw [cnt_answered_ne hk71]
        exact (State.cnt_upd_ne a hk _).trans (State.cnt_upd_ne m hk _)
    · have hrow : regRow (.cnt b) 0x048 = some ⟨0x048, .rw, [⟨0, 2, 0, 0, 3, false⟩, ⟨4, 12, 0, 0, 0xFFF, false⟩], 4, 1⟩ := rfl
      rw [pageWrite_fn hw hg hl (by decide) (writeFn_stored hrow (.inr ⟨rfl, rfl⟩) _), writeStored_rw hrow rfl]
      refine ⟨answered_of ((onlyPage_letGo _ _ _).trans (OnlyPage.updPage _ _ _)), ?_⟩
      rw [reg_answered, reg_setReg, if_pos rfl, BitVec.ofNat_toNat, BitVec.setWidth_eq]

end Sys2Proof.Machine
end

section
/-! What an event and a raised interrupt leave alone: every part of the state but the pages and, for an event, the count boxes. -/
namespace Sys2Proof.Machine

theorem ev_kept_self (s : State) (e : Ev) : Kept 0x20020 s (s.ev e) := State.ev_kept (Within.self _) (Kept.refl _ s) e
theorem raise_kept_self (s : State) (p : PageId) (bit : Nat) : Kept 0x20 s (s.raise p bit) :=
  State.raise_kept (Within.self _) (Kept.refl _ s) p bit

/-- A field of a record that is known as a whole. -/
theorem fieldOf {α β : Type} {a b : α} {x : β} (h : a = b) (f : α → β) (hx : f b = x := by rfl) : f a = x := h ▸ hx

theorem gw_of_gws {s t : State} (h : t.gws = s.gws) (g : Nat) : t.gw g = s.gw g := by unfold State.gw; rw [h]
theorem chan_of_chans {s t : State} (h : t.chans = s.chans) (c : Nat) : t.chan c = s.chan c := by unfold State.chan; rw [h]
theorem sub_of_subs {s t : State} (h : t.subs = s.subs) (c sc : Nat) : t.sub c sc = s.sub c sc := by unfold State.sub; rw [h]
theorem insOf_of_ins {s t : State} (h : t.ins = s.ins) (i : Nat) : t.insOf i = s.insOf i := by unfold State.insOf; rw [h]
theorem ring_of_rings {s t : State} (h : t.rings = s.rings) (r : Nat) : t.ring r = s.ring r := by unfold State.ring; rw [h]
theorem le_of_les {s t : State} (h : t.les = s.les) (e : Nat) : t.le e = s.le e := by unfold State.le; rw [h]

@[simp] theorem bclk_ev (s : State) (e : Ev) : (s.ev e).bclk = s.bclk := (ev_kept_self s e).part .bclk (by decide)
@[simp] theorem blk_ev (s : State) (e : Ev) : (s.ev e).blk = s.blk := (ev_kept_self s e).part .blk (by decide)
@[simp] theorem gw_ev (s : State) (e : Ev) (g : Nat) : (s.ev e).gw g = s.gw g := gw_of_gws ((ev_kept_self s e).part .gws (by decide)) g
@[simp] theorem chan_ev (s : State) (e : Ev) (c : Nat) : (s.ev e).chan c = s.chan c :=
  chan_of_chans ((ev_kept_self s e).part .chans (by decide)) c
@[simp] theorem sub_ev (s : State) (e : Ev) (c sc : Nat) : (s.ev e).sub c sc = s.sub c sc :=
  sub_of_subs ((ev_kept_self s e).part .subs (by decide)) c sc
@[simp] theorem insOf_ev (s : State) (e : Ev) (i : Nat) : (s.ev e).insOf i = s.insOf i :=
  insOf_of_ins ((ev_kept_self s e).part .ins (by decide)) i
@[simp] theorem ring_ev (s : State) (e : Ev) (r : Nat) : (s.ev e).ring r = s.ring r :=
  ring_of_rings ((ev_kept_self s e).part .rings (by decide)) r
@[simp] theorem le_ev (s : State) (e : Ev) (n : Nat) : (s.ev e).le n = s.le n :=
  le_of_les ((ev_kept_self s e).part .les (by decide)) n

@[simp] theorem bclk_raise (s : State) (p : PageId) (b : Nat) : (s.raise p b).bclk = s.bclk := rfl
@[simp] theorem blk_raise (s : State) (p : PageId) (b : Nat) : (s.raise p b).blk = s.blk := rfl
@[simp] theorem gw_raise (s : State) (p : PageId) (b g : Nat) : (s.raise p b).gw g = s.gw g := rfl
@[simp] theorem chan_raise (s : State) (p : PageId) (b c : Nat) : (s.raise p b).chan c = s.chan c := rfl
@[simp] theorem sub_raise (s : State) (p : PageId) (b c sc : Nat) : (s.raise p b).sub c sc = s.sub c sc := rfl
@[simp] theorem insOf_raise (s : State) (p : PageId) (b i : Nat) : (s.raise p b).insOf i = s.insOf i := rfl
@[simp] theorem ring_raise (s : State) (p : PageId) (b r : Nat) : (s.raise p b).ring r = s.ring r := rfl
@[simp] theorem le_raise (s : State) (p : PageId) (b e : Nat) : (s.raise p b).le e = s.le e := rfl

theorem gw_answered (m : State) (st d g : Nat) : (m.answered st d).gw g = m.gw g :=
  gw_of_gws ((answered_kept m st d).part .gws (by decide)) g

end Sys2Proof.Machine
end

section
/-! A flush of a gateway's ingress FIFO (R186, R188). -/
namespace Sys2Proof.Machine

theorem exec_gwFlush (s : State) (src : Src) (g : Fin 16) :
    exec (.gwFlush src g) s = .next (s.pageWrite src (PageId.gw g).num 0x05C 1) := rfl

theorem writeFn_gwFlush (m : State) (g : Nat) : m.writeFn (.gw g) 0x05C (BitVec.ofNat 32 1) = (m.gwFlush g, 0) := rfl

theorem gwFlush_of_clear {m : State} {g : Nat} (h : (m.gw g).discards m.bclk = false) :
    m.gwFlush g = m.updGw g fun w => { w with flushAt := some m.bclk } :=
  if_neg (by simp [h])

/-- The answer that a flush in BCLK `t` gives the item `x.2` of the FIFO. -/
def flushAnswer (g t : Nat) (x : Item × Nat) : Eg :=
  { resp := { req := { hdrReq x.1.hdr g 0 (x.1.hdr.itag % 4096) 0 t x.1.at_ with use := 0 }, status := 9, bare := true },
    at_ := t + 1 + x.2, own := true }

/-- A flush answers one item: what it adds to the gateway. -/
def State.flushOne (g : Nat) (s : State) (x : Item × Nat) : State :=
  let r := { hdrReq x.1.hdr g 0 (x.1.hdr.itag % 4096) 0 s.bclk x.1.at_ with use := 0 }
  let u := s.ev { box := boxGw g, code := 0x16, req := some r, itag := some r.itag }
  u.ownResp g { req := r, status := 9, bare := true } (u.bclk + 1 + x.2)

theorem bclk_ownResp (s : State) (g : Nat) (r : Resp) (t : Nat) : (s.ownResp g r t).bclk = s.bclk := by simp [State.ownResp]

/-- Responses join a gateway's egress. -/
def Gw.egress (w : Gw) (l : List Eg) : Gw := { w with eg := w.eg ++ l }

theorem Gw.egress_nil (w : Gw) : w.egress [] = w := by unfold Gw.egress; rw [List.append_nil]

theorem Gw.egress_egress (w : Gw) (l m : List Eg) : (w.egress l).egress m = w.egress (l ++ m) := by
  simp only [Gw.egress, List.append_assoc]

theorem gw_ownResp (s : State) (g : Nat) (r : Resp) (t : Nat) :
    (s.ownResp g r t).gw g = (s.gw g).egress [{ resp := r, at_ := t, own := true }] :=
  (State.gw_upd_self _ g _).trans (congrArg (Gw.egress · [{ resp := r, at_ := t, own := true }]) (gw_ev s _ g))

theorem bclk_flushOne (g : Nat) (s : State) (x : Item × Nat) : (s.flushOne g x).bclk = s.bclk :=
  (bclk_ownResp _ g _ _).trans (bclk_ev s _)

theorem gw_flushOne (g : Nat) (s : State) (x : Item × Nat) : (s.flushOne g x).gw g = (s.gw g).egress [flushAnswer g s.bclk x] := by
  unfold State.flushOne
  rw [gw_ownResp, gw_ev, bclk_ev]
  rfl

theorem gw_flushOne_foldl (g : Nat) (l : List (Item × Nat)) (s : State) :
    (l.foldl (State.flushOne g) s).gw g = (s.gw g).egress (l.map (flushAnswer g s.bclk)) := by
  induction l generalizing s with
  | nil => exact (Gw.egress_nil _).symm
  | cons x l ih => rw [List.foldl_cons, ih, bclk_flushOne, gw_flushOne, Gw.egress_egress, List.map_cons, List.singleton_append]

/-- A flush leaves of the gateway what its FIFO did not hold. -/
def Gw.flushed (w : Gw) : Gw :=
  let part := match w.fifo.getLast? with | some i => i.flits.1 == 2 && i.data.isNone | none => false
  { w with fifo := [], due := if part then 0 else w.due, tailDisc := w.tailDisc || part, flushAt := none }.giveBack w.fifo.length
    (w.fifo.filter fun (i : Item) => i.data.isSome && i.hdr.opcode == 3).length

theorem flushItems_answered (s : State) (g : Nat) :
    s.flushItems g false = ((s.gw g).fifo.zipIdx.foldl (State.flushOne g) (s.updGw g fun _ => (s.gw g).flushed)).raise (.gw g) 2 := rfl

/-- The gateway after a flush. -/
def Gw.flushedAt (w : Gw) (g t : Nat) : Gw :=
  { w.flushed.egress (w.fifo.zipIdx.map (flushAnswer g t)) with discAt := some t }

theorem gw_flushNow (s : State) (g : Nat) : (s.flushNow g).gw g = (s.gw g).flushedAt g s.bclk := by
  have hgw : (s.flushItems g false).gw g = (s.gw g).flushed.egress ((s.gw g).fifo.zipIdx.map (flushAnswer g s.bclk)) := by
    rw [flushItems_answered, gw_raise, gw_flushOne_foldl, State.gw_upd_self]
    rfl
  exact (State.gw_upd_self _ g _).trans (congrArg (fun w : Gw => { w with discAt := some s.bclk }) hgw)

theorem isr_flushNow (s : State) (g : Nat) : flag ((s.flushNow g).page (.gw g)).isr 2 = true :=
  flag_raise _ (.gw g) (by decide)

/-- Settles O25: the write notes the flush, and the flush answers the FIFO's items as it empties it. -/
theorem flushEmptiesIngress : Obligations.FlushEmptiesIngress := by
  unfold Obligations.FlushEmptiesIngress
  refine ⟨?_, fun s g => ?_⟩
  · intro s src g hw hg hl m hclear
    refine ⟨_, exec_gwFlush s src g, ?_⟩
    rw [pageWrite_fn hw hg hl (by decide) (writeFn_gwFlush _ g)]
    have hgw : ((m.gwFlush g).answered 0 0).gw g = { m.gw g with flushAt := some m.bclk } := by
      rw [gw_answered, gwFlush_of_clear hclear, State.gw_upd_self]
    exact ⟨rfl, fieldOf hgw Gw.flushAt, fieldOf hgw Gw.fifo, fieldOf hgw Gw.tags⟩
  · change ((s.flushNow g).gw g).fifo = [] ∧ ((s.flushNow g).gw g).flushAt = none ∧ ((s.flushNow g).gw g).discAt = some s.bclk ∧
      ((s.flushNow g).gw g).tags = (s.gw g).tags ∧ ((s.flushNow g).gw g).reqHdr = (s.gw g).reqHdr + (s.gw g).fifo.length ∧
      flag ((s.flushNow g).page (.gw g)).isr 2 = true ∧ ∀ n x, (s.gw g).fifo[n]? = some x → ∃ e ∈ ((s.flushNow g).gw g).eg, _
    rw [gw_flushNow]
    refine ⟨rfl, rfl, rfl, rfl, rfl, isr_flushNow s g, fun n x hx => ⟨flushAnswer g s.bclk (x, n), ?_, rfl, rfl, rfl⟩⟩
    exact List.mem_append_right _ (List.mem_map_of_mem (List.mk_mem_zipIdx_iff_getElem?.mpr hx))

end Sys2Proof.Machine
end

section
/-! Granted writes that sample what they select: MAP_XLATE (R259, R260) and BRL_IDX (R704, R705). -/
namespace Sys2Proof.Machine

theorem exec_mapXlate (s : State) (src : Src) (pa : BitVec 52) :
    exec (.mapXlate src pa) s = .next (s.regAccess src (PageId.map.num * 4096 + 0x418) true true pa.toNat) := rfl

theorem exec_brlIdxWrite (s : State) (src : Src) (c : Fin 17) (v : Word) :
    exec (.brlIdxWrite src c v) s = .next (s.pageWrite src (PageId.brl c).num 0x04C v.toNat) := rfl

/-- MAP_XLATE_LO as written. -/
def State.xlateLoSet (m : State) (v : Word) : State := { m with map := { m.map with xlateLo := v } }

theorem writeFn_xlateLo (m : State) (v : Word) : m.writeFn .map 0x418 v = (m.xlateLoSet v, 0) := rfl
theorem writeFn_xlateHi (m : State) (v : Word) : m.writeFn .map (0x418 + 4) v = (m.mapXlate v, 0) := rfl

/-- The decode does not read the halves of its own address. -/
theorem xlate_xlateLoSet (m : State) (v : Word) (pa : Nat) : (m.xlateLoSet v).xlate pa = m.xlate pa := rfl

/-- The halves of an address of 52 bits make it up. -/
theorem halves_join (pa : BitVec 52) :
    (BitVec.ofNat 32 pa.toNat).toNat + (BitVec.ofNat 32 (pa.toNat / 2 ^ 32) &&& 0xFFFFF).toNat * 2 ^ 32 = pa.toNat := by
  have hpa := pa.isLt
  have hmask : (BitVec.ofNat 32 (pa.toNat / 2 ^ 32) &&& 0xFFFFF).toNat = pa.toNat / 2 ^ 32 := by
    have hand : (pa.toNat / 2 ^ 32 % 2 ^ 32) &&& (2 ^ 20 - 1) = pa.toNat / 2 ^ 32 % 2 ^ 32 % 2 ^ 20 := Nat.and_two_pow_sub_one_eq_mod _ 20
    rw [BitVec.toNat_and, BitVec.toNat_ofNat]
    refine hand.trans ?_
    omega
  rw [hmask, BitVec.toNat_ofNat]
  omega

/-- The registers of MAP_XLATE after both halves have been written. -/
theorem map_mapXlate (m : State) (pa : BitVec 52) :
    ((m.xlateLoSet (BitVec.ofNat 32 pa.toNat)).mapXlate (BitVec.ofNat 32 (pa.toNat / 2 ^ 32))).map =
      { m.map with xlateLo := BitVec.ofNat 32 pa.toNat, xlateHi := BitVec.ofNat 32 (pa.toNat / 2 ^ 32) &&& 0xFFFFF,
                   xlateRes := m.xlate pa.toNat } := by
  rw [← congrArg m.xlate (halves_join pa), ← xlate_xlateLoSet m (BitVec.ofNat 32 pa.toNat)]
  rfl

theorem writeFn_brlIdx (m : State) (c : Nat) (v : Word) : m.writeFn (.brl c) 0x04C v = (m.brlIdx c v, 0) := rfl

theorem map_answered (m : State) (st d : Nat) : (m.answered st d).map = m.map := (answered_kept m st d).part .map (by decide)

/-- Settles O26. -/
theorem indexedReadsSampleTheirTarget : Obligations.IndexedReadsSampleTheirTarget := by
  unfold Obligations.IndexedReadsSampleTheirTarget
  constructor
  · intro s src pa hw hg hl m
    refine ⟨_, exec_mapXlate s src pa, ?_⟩
    rw [regAccess_wide hw hg hl (by decide) (writeFn_xlateLo m _) rfl (writeFn_xlateHi _ _)]
    have hmap := (map_answered _ 0 0).trans (map_mapXlate m pa)
    refine ⟨answered_of (onlyPage_of_pages .map rfl), fieldOf hmap MapSt.xlateRes, ?_, fieldOf hmap MapSt.epoch⟩
    exact fieldOf hmap (fun x => x.xlateLo.toNat + x.xlateHi.toNat * 2 ^ 32) (halves_join pa)
  · intro s src c v hw hg hl m w
    have hpage : s.pageWrite src (PageId.brl c).num 0x04C v.toNat = (m.brlIdx c v).answered 0 0 :=
      pageWrite_fn hw hg hl (by decide) (by rw [BitVec.ofNat_toNat, BitVec.setWidth_eq]; exact writeFn_brlIdx m c v)
    refine ⟨_, (exec_brlIdxWrite s src c v).trans (congrArg _ hpage), ?_⟩
    have hchan : ((m.brlIdx c v).chan c).brl.data = (m.setReg (.brl c) 0x04C w).brlSample c w := by
      unfold State.brlIdx
      rw [State.chan_upd_self]
    refine ⟨answered_of ?_, ?_, ?_, ?_⟩
    · exact (OnlyPage.updPage m (.brl c) fun pg => { pg with act := Tbl.set (regReset (.brl c)) pg.act 0x04C w }).trans
        (onlyPage_of_pages (.brl c) rfl)
    · rw [reg_answered]
      exact (reg_setReg m _ _ _ _).trans (if_pos rfl)
    · rw [chan_answered, hchan]
    · exact (answered_kept _ 0 0).part .subs (by decide)

end Sys2Proof.Machine
end

section
/-! GO of a mode-register and of a sideband command (R281 to R283, R288, R295, R299), and of an injection (R890, R903). -/
namespace Sys2Proof.Machine

theorem exec_mrCmdGo (s : State) (src : Src) (c : Fin 17) (v : Word) :
    exec (.mrCmdGo src c v) s = .next (s.pageWrite src (PageId.cc c).num 0x080 (setBit v 21).toNat) := rfl

theorem exec_i3cCmdGo (s : State) (src : Src) (c : Fin 17) (v : Word) :
    exec (.i3cCmdGo src c v) s = .next (s.pageWrite src (PageId.cc c).num 0x070 (setBit v 18).toNat) := rfl

theorem exec_crnInjGo (s : State) (tap : Bool) (v : Word) :
    exec (.crnInjGo tap v) s = .next (s.pageWrite (.crown tap) PageId.crn.num 0x050 (setBit v 0).toNat) := rfl

theorem ofNat_toNat_word (v : Word) : BitVec.ofNat 32 v.toNat = v := by rw [BitVec.ofNat_toNat, BitVec.setWidth_eq]

theorem flag_setBit_self (v : Word) {n : Nat} (hn : n < 32) : flag (setBit v n) n = true := by
  rw [flag_setBit v hn]
  simp

theorem writeFn_mrGo (m : State) (c : Nat) {v : Word} (hv : flag v 21 = true) : m.writeFn (.cc c) 0x080 v = (m.mrGo c v, 0) := by
  simp [State.writeFn, hv]

theorem writeFn_i3cGo (m : State) (c : Nat) {v : Word} (hv : flag v 18 = true) : m.writeFn (.cc c) 0x070 v = (m.i3cGo c v, 0) := by
  simp [State.writeFn, hv]

theorem onlyPage_setReg (m : State) (p : PageId) (off : Nat) (v : Word) : OnlyPage p m (m.setReg p off v) := OnlyPage.updPage m p _

/-- A rank or a state of the channel that forbids a mode-register command (R281 to R283). -/
def Chan.mrRefuses (ch : Chan) (w : Word) : Bool :=
  !ch.hasRank (fld w 16 3) || ch.calRun || (if flag w 20 then ch.inService || ch.calState != 3 else ch.resetN || ch.sr == .idleSr || ch.sr == .parked)

theorem mrGo_of_idle {m : State} {c : Nat} (h : (m.chan c).mrBusy = false) (w : Word) :
    m.mrGo c w = (m.setReg (.cc c) 0x080 (w &&& regMask (.cc c) 0x080)).updChan c fun ch =>
      { ch with mrCmd := w, mrBusy := !(m.chan c).mrRefuses w, mrDone := (m.chan c).mrRefuses w, mrDenied := (m.chan c).mrRefuses w } := by
  unfold State.mrGo
  dsimp only
  rw [if_neg (by simp [h])]
  rfl

/-- A transaction that GO of CC_I3C_CMD asks for (R288). -/
def i3cTxn (w : Word) : SbTxn := { kind := 2, hid := fld w 8 3, dtype := fld w 11 4, cmd := w }

/-- The channel once GO of a sideband command has been taken (R288, R295). -/
def Chan.sbAsked (ch : Chan) (w : Word) : Chan :=
  { ch with sbBusy := true, sbDone := false, sbNack := false, sbPec := false, sbDenied := false, sbTmo := false,
            sbQueue := ch.sbQueue ++ [i3cTxn w] }

theorem i3cGo_of_idle {m : State} {c : Nat} (h : (m.chan c).sbBusy = false) (w : Word) :
    m.i3cGo c w = ((m.setReg (.cc c) 0x070 (w &&& regMask (.cc c) 0x070)).updChan c fun ch => ch.sbAsked w).sbGo c := by
  unfold State.i3cGo
  dsimp only
  rw [if_neg (by simp [h])]
  rfl

/-- A transaction on the bus keeps the others waiting. -/
theorem sbGo_of_txn {m : State} {c : Nat} (h : (m.chan c).sbTxn.isSome = true) : m.sbGo c = m := by
  unfold State.sbGo State.sbStart
  exact if_pos h

theorem sbReady_of_command {m : State} {c : Nat} {x : SbTxn} (hq : (m.chan c).sbQueue = [x]) (hk : x.kind = 2) : m.sbReady c = [x] := by
  unfold State.sbReady
  dsimp only
  rw [hq]
  split
  · simp [hk]
  · rfl

theorem nextTxn_single {x : SbTxn} (hk : x.kind = 2) : nextTxn [x] = some x := by simp [nextTxn, hk]

/-- A command alone in the queue of a free bus starts at once (R288). -/
theorem chan_sbGo_start {m : State} {c : Nat} {x : SbTxn} (htxn : (m.chan c).sbTxn = none) (hq : (m.chan c).sbQueue = [x]) (hk : x.kind = 2)
    (hok : dtypeOk x.dtype = true) (hallow : (flag x.cmd 17 && x.dtype == dtPmic && (m.chan c).inService) = false) :
    (m.sbGo c).chan c = { m.chan c with sbQueue := [], sbTxn := some { x with start := m.bclk } } := by
  have herase : eraseFirst (fun y => y == x) [x] = [] := by simp [eraseFirst]
  unfold State.sbGo State.sbStart
  dsimp only
  rw [if_neg (by simp [htxn]), sbReady_of_command hq hk, nextTxn_single hk]
  dsimp only
  rw [if_neg (by simp [hok, hallow]), State.chan_upd_self, State.chan_upd_self, hq, herase]
  rfl

/-- Settles O27. -/
theorem moduleCommandsStart : Obligations.ModuleCommandsStart := by
  unfold Obligations.ModuleCommandsStart
  constructor
  · intro s src c v hw hg hl m w ch bad hidle
    have hpage : s.pageWrite src (PageId.cc c).num 0x080 w.toNat = (m.mrGo c w).answered 0 0 :=
      pageWrite_fn hw hg hl (by decide) (by rw [ofNat_toNat_word]; exact writeFn_mrGo m c (flag_setBit_self v (by decide)))
    refine ⟨_, (exec_mrCmdGo s src c v).trans (congrArg _ hpage), ?_⟩
    rw [mrGo_of_idle hidle]
    refine ⟨answered_of ((onlyPage_setReg m (.cc c) _ _).trans (onlyPage_of_pages (.cc c) rfl)), ?_, fun k hk => ?_⟩
    · exact (chan_answered _ 0 0 c).trans (State.chan_upd_self _ _ _)
    · exact (chan_answered _ 0 0 k).trans (State.chan_upd_ne _ hk _)
  · intro s src c v hw hg hl m w ch x hidle
    have hpage : s.pageWrite src (PageId.cc c).num 0x070 w.toNat = (m.i3cGo c w).answered 0 0 :=
      pageWrite_fn hw hg hl (by decide) (by rw [ofNat_toNat_word]; exact writeFn_i3cGo m c (flag_setBit_self v (by decide)))
    have hexec := (exec_i3cCmdGo s src c v).trans (congrArg _ hpage)
    let u := (m.setReg (.cc c) 0x070 (w &&& regMask (.cc c) 0x070)).updChan c fun ch => ch.sbAsked w
    have hchan : u.chan c = ch.sbAsked w := State.chan_upd_self _ _ _
    have honly : OnlyPage (.cc c) m (m.i3cGo c w) := by
      rw [i3cGo_of_idle hidle]
      exact (onlyPage_setReg m (.cc c) _ _).trans
        (onlyPage_of_pages (.cc c) ((State.sbGo_kept (Within.self _) (Kept.refl _ u) c).part .pages (by decide)))
    have hgo : ((m.i3cGo c w).answered 0 0).chan c = (u.sbGo c).chan c := by
      rw [chan_answered, i3cGo_of_idle hidle]
    refine ⟨fun htxn => ⟨_, hexec, answered_of honly, ?_⟩, fun htxn hq hok hallow => ⟨_, hexec, answered_of honly, ?_⟩⟩
    · rw [hgo, sbGo_of_txn (by rw [hchan]; exact htxn), hchan]
      exact ⟨rfl, rfl, rfl, rfl⟩
    · have hqueue : (u.chan c).sbQueue = [x] := by
        rw [hchan]
        exact congrArg (· ++ [x]) hq
      rw [hgo, chan_sbGo_start (by rw [hchan]; exact htxn) hqueue rfl hok (by rw [hchan]; exact hallow), hchan]
      exact ⟨rfl, rfl, rfl, rfl⟩

theorem writeFn_injGo (m : State) (v : Word) : m.writeFn .crn 0x050 v = (m.injGo v, 0) := rfl

theorem injGo_disabled {m : State} {w : Word} (hgo : flag w 0 = true) (hidle : m.crn.busy = false) (hen : flag (m.reg .crn 0x040) 0 = false) :
    m.injGo w = { m with crn := { m.crn with denied := true } } := by
  unfold State.injGo
  rw [if_neg (by simp [hgo, hidle]), if_pos (by simp [hen])]

/-- What GO leaves of the Crown page where its location exists: an access of the port that waits for its EMERG (R890, R903). -/
theorem injGo_loc {m : State} {w : Word} {l : Loc} (hgo : flag w 0 = true) (hidle : m.crn.busy = false)
    (hen : flag (m.reg .crn 0x040) 0 = true) (hby : flag w 2 = true) (hl : injLoc (m.reg .crn 0x048) (m.reg .crn 0x04C) = some l) :
    ∃ r : Req, m.injGo w = { m with crn := { m.crn with busy := true, done := false, denied := false, emerg := some (r, m.bclk) } } ∧
      r.loc = l ∧ r.src = 20 ∧ r.write = flag w 1 := by
  have hl' : injLoc (({ m with crn := { m.crn with busy := true, done := false, denied := false } } : State).reg .crn 0x048)
      (({ m with crn := { m.crn with busy := true, done := false, denied := false } } : State).reg .crn 0x04C) = some l := hl
  unfold State.injGo
  rw [if_neg (by simp [hgo, hidle]), if_neg (by simp [hen])]
  dsimp only
  rw [if_pos hby, hl']
  exact ⟨_, rfl, rfl, rfl, rfl⟩

theorem crn_answered (m : State) (st d : Nat) : (m.answered st d).crn = m.crn := (answered_kept m st d).part .crn (by decide)

/-- Settles O28. -/
theorem injectionStartsOrIsDenied : Obligations.InjectionStartsOrIsDenied := by
  unfold Obligations.InjectionStartsOrIsDenied
  intro s tap v hg hl m hidle
  have hgo : flag (setBit v 0) 0 = true := flag_setBit_self v (by decide)
  have hpage : s.pageWrite (.crown tap) PageId.crn.num 0x050 (setBit v 0).toNat = (m.injGo (setBit v 0)).answered 0 0 :=
    pageWrite_fn rfl hg hl (by decide) (by rw [ofNat_toNat_word]; exact writeFn_injGo m _)
  have hexec := (exec_crnInjGo s tap v).trans (congrArg _ hpage)
  refine ⟨fun hen => ⟨_, hexec, ?_⟩, fun hen hby l hloc => ⟨_, hexec, ?_⟩⟩
  · rw [injGo_disabled hgo hidle hen]
    exact ⟨answered_of (onlyPage_of_pages .crn rfl), crn_answered _ 0 0⟩
  · obtain ⟨r, hstate, hrloc, hrsrc, hrwrite⟩ := injGo_loc hgo hidle hen hby hloc
    have hcrn := crn_answered (m.injGo (setBit v 0)) 0 0
    rw [hstate] at hcrn ⊢
    exact ⟨answered_of (onlyPage_of_pages .crn rfl), fieldOf hcrn Crn.busy, fieldOf hcrn Crn.done, fieldOf hcrn Crn.denied, r,
      fieldOf hcrn Crn.emerg, hrloc, hrsrc, hrwrite⟩

end Sys2Proof.Machine
end

section
/-! BLK_RESET (R517): a channel reset does not keep a role that is not 31. -/
namespace Sys2Proof.Machine

/-- A running block whose channel 0 is out of service in a role beyond those that R896 gives. -/
def strayRole : State :=
  { State.reset with locked := true, bclk := 1000, phase := 9, bin := .rdimm5600, mvc := { running := true } }.updChan 0 fun ch =>
    { ch with role := 20 }

/-- CH_RST of its channel 0, as the write of BLK_RESET leaves the block. -/
def strayRoleReset : State := strayRole.pageWrite .movement PageId.blk.num 0x044 (1 : BitVec 17).toNat

theorem exec_chRst (s : State) (src : Src) (mask : BitVec 17) :
    exec (.chRst src mask) s = .next (s.pageWrite src PageId.blk.num 0x044 mask.toNat) := rfl

theorem strayRole_granted : strayRole.granted .movement .blk 0x044 false true = true := by decide +kernel
theorem strayRole_open : (strayRole.atPage .movement .blk 0x044).chRstDenies 0 = false := by decide +kernel
theorem strayRole_role : ((strayRole.atPage .movement .blk 0x044).chan 0).role = 20 := by decide +kernel
theorem strayRoleReset_role : (strayRoleReset.chan 0).role = 31 := by decide +kernel

/-- Refutes O29: a reset leaves a channel in role 31 (R896), and the statement asks for the role it had, which a channel out of service
need not have as 31: in `strayRole` it is 20. -/
theorem not_blkResetBitsReset : ¬ Obligations.BlkResetBitsReset := by
  unfold Obligations.BlkResetBitsReset
  rintro ⟨hreset, -⟩
  obtain ⟨t, hexec, -, -, -, hrole, -⟩ := (hreset strayRole .movement 1 0 rfl strayRole_granted rfl (by decide) (by decide)).1 strayRole_open
  obtain rfl : strayRoleReset = t := Host.Outcome.next.inj ((exec_chRst strayRole .movement 1).symm.trans hexec)
  rw [strayRoleReset_role, strayRole_role] at hrole
  exact absurd hrole (by decide)

end Sys2Proof.Machine
end

section
/-! Ring commands of the pool page (R767, R768, R812) and doorbells (R769). -/
namespace Sys2Proof.Machine

theorem exec_ringAttach {s : State} (h : s.pool.busy = false) (src : Src) (r : BitVec 18) :
    exec (.ringAttach src r) s = .next (s.ringCommand src r 1) :=
  congrArg Host.Outcome.next (if_neg (by simp [h]))

theorem exec_ringDetach (s : State) (src : Src) (r : BitVec 18) :
    exec (.ringDetach src r) s = .next (s.ringCommand src r 2) := rfl

theorem exec_ringFlush (s : State) (src : Src) (r : BitVec 18) :
    exec (.ringFlush src r) s = .next (s.ringCommand src r 3) := rfl

theorem exec_insDoorbell (s : State) (src : Src) (i : Fin 4096) (v : BitVec 64) :
    exec (.insDoorbell src i v) s = .next (s.regAccess src ((PageId.ins i).num * 4096 + 0x048) true true v.toNat) := rfl

/-- LTH_RING_SEL as a command of a ring selects it (R812). -/
def State.ringSelected (m : State) (r : BitVec 18) (cmd : Nat) : State :=
  m.setReg .lthPool 0x050 (BitVec.ofNat 32 (r.toNat + cmd * 2 ^ 18) &&& regMask .lthPool 0x050)

/-- The fields of LTH_RING_SEL in the word that a ring command writes. -/
theorem ringSel_fields (r : BitVec 18) {cmd : Nat} (hc : cmd < 4) : fld (BitVec.ofNat 32 (r.toNat + cmd * 2 ^ 18)) 18 3 = cmd ∧
    fld (BitVec.ofNat 32 (r.toNat + cmd * 2 ^ 18)) 0 18 = r.toNat := by
  have hr := r.isLt
  simp only [fld, bits, BitVec.toNat_ofNat, Nat.shiftRight_eq_div_pow]
  omega

theorem writeFn_ringSel (m : State) (v : Word) : m.writeFn .lthPool 0x050 v = (m.ringSel v, 0) := rfl

theorem ringSel_enabled {m : State} {r : BitVec 18} {cmd : Nat} (hc : cmd < 4) (hen : (m.page .lthPool).en = true) :
    m.ringSel (BitVec.ofNat 32 (r.toNat + cmd * 2 ^ 18)) = (m.ringSelected r cmd).ringCmd r.toNat cmd := by
  obtain ⟨hcmd, hring⟩ := ringSel_fields r hc
  have hen' : ((m.ringSelected r cmd).page .lthPool).en = true := Page.field Page.en (updPage_body_self _ .lthPool _) hen
  unfold State.ringSel
  dsimp only
  rw [hcmd, hring]
  exact if_pos hen'

/-- A command written into LTH_RING_SEL of an enabled pool page goes to its ring (R93, R812). -/
theorem ringCommand_eq {s : State} {src : Src} {r : BitVec 18} {cmd : Nat} (hw : wfSrc src = true)
    (hg : s.granted src .lthPool 0x050 false true = true) (hl : s.locked = true)
    (hen : ((s.atPage src .lthPool 0x050).page .lthPool).en = true) (hc : cmd < 4) :
    s.ringCommand src r cmd = (((s.atPage src .lthPool 0x050).ringSelected r cmd).ringCmd r.toNat cmd).answered 0 0 := by
  have hfn := (writeFn_ringSel (s.atPage src .lthPool 0x050) (BitVec.ofNat 32 (r.toNat + cmd * 2 ^ 18))).trans
    (congrArg (·, 0) (ringSel_enabled hc hen))
  exact pageWrite_fn hw hg hl (by decide) hfn

theorem ringCmd_attach {m : State} (h : m.pool.busy = false) {r : Nat} {u : State} {n : Nat} (ha : m.attach? r = some (u, n)) :
    m.ringCmd r 1 = u.poolDone n := by simp [State.ringCmd, h, ha]

theorem ringCmd_detach {m : State} (h : m.pool.busy = false) (r : Nat) : m.ringCmd r 2 = (m.detach r).1.poolDone (m.detach r).2 := by
  simp [State.ringCmd, h]

theorem ringCmd_flush {m : State} (h : m.pool.busy = false) (r : Nat) : m.ringCmd r 3 = (m.flushRing r).poolDone 0 := by
  simp [State.ringCmd, h]

/-- The ring that an attach makes of a context (R767). -/
def State.attached (m : State) (c : Ctx) : Ring :=
  { ctx := ({ c with cur := 0, chainPos := 0, chainAddr := 0, acc := 0, err := 0, errIdx := 0, gen := m.genOf c.itag } : Ctx).wake,
    fetchIdx := c.head }

/-- A context that passes its checks is attached (R767). -/
theorem attach_of_passes {m : State} {r : Nat} {l : Line} (hsee : m.seeLine (m.ctxAddr r) = .data l) (hpass : m.attachFails r l = 0) :
    m.attach? r = some ((m.updRing r fun _ => m.attached (ctxOfLine l)).lookup ((m.updRing r fun _ => m.attached (ctxOfLine l)).srvOf r) r, 0) := by
  unfold State.attach?
  rw [hsee]
  dsimp only
  rw [if_neg (by simp [hpass])]
  rfl

theorem rings_lookup (s : State) (e r : Nat) : (s.lookup e r).rings = s.rings :=
  (State.lookup_kept (Within.self _) (Kept.refl _ s) e r).part .rings (by decide)

theorem rings_poolDone (s : State) (n : Nat) : (s.poolDone n).rings = s.rings := rfl

theorem rings_answered (m : State) (st d : Nat) : (m.answered st d).rings = m.rings := (answered_kept m st d).part .rings (by decide)

theorem pool_answered (m : State) (st d : Nat) : (m.answered st d).pool = m.pool := (answered_kept m st d).part .pool (by decide)

/-- The end of a ring command as the pool page shows it (R812, R813). -/
theorem pool_poolDone (s : State) (n : Nat) : (s.poolDone n).pool = { s.pool with busy := false, result := n } := rfl

theorem ring_dropRing (m : State) (r : Nat) : (m.dropRing r).ring r = {} := State.ring_upd_self _ r _

theorem detach_of_idle {m : State} {r : Nat} (h : (m.ring r).ctx.st = 1 ∨ (m.ring r).ctx.st = 3) : m.detach r = (m.dropRing r, 0) := if_pos h

theorem detach_refused {m : State} {r : Nat} (h1 : (m.ring r).ctx.st ≠ 1) (h3 : (m.ring r).ctx.st ≠ 3) : m.detach r = (m, 1) :=
  if_neg (by simp [h1, h3])

theorem flushRing_of_attached {m : State} {r : Nat} (h : (m.ring r).ctx.st ≠ 0) :
    m.flushRing r = m.putLine (m.ctxAddr r) (lineOfCtx (m.ring r).ctx) := if_neg h

/-- An ATTACH whose context passes ends with the ring attached (R767, R812). -/
theorem ringCmd_attach_ends {k : State} {r : Nat} {l : Line} (hb : k.pool.busy = false) (hsee : k.seeLine (k.ctxAddr r) = .data l)
    (hpass : k.attachFails r l = 0) : (k.ringCmd r 1).pool = { k.pool with busy := false, result := 0 } ∧
    (k.ringCmd r 1).ring r = k.attached (ctxOfLine l) := by
  rw [ringCmd_attach hb (attach_of_passes hsee hpass)]
  let u := k.updRing r fun _ => k.attached (ctxOfLine l)
  have hlookup := State.lookup_kept (Within.self _) (Kept.refl _ u) (u.srvOf r) r
  have hpool : (u.lookup (u.srvOf r) r).pool = k.pool := hlookup.part .pool (by decide)
  exact ⟨by rw [pool_poolDone, hpool], (ring_of_rings ((rings_poolDone _ 0).trans (rings_lookup u _ r)) r).trans (State.ring_upd_self k r _)⟩

/-- A DETACH of an idle or halted ring leaves it OFF (R768). -/
theorem ringCmd_detach_ends {k : State} {r : Nat} (hb : k.pool.busy = false) (hst : (k.ring r).ctx.st = 1 ∨ (k.ring r).ctx.st = 3) :
    (k.ringCmd r 2).pool = { k.pool with busy := false, result := 0 } ∧ (k.ringCmd r 2).ring r = {} := by
  rw [ringCmd_detach hb, detach_of_idle hst]
  have hpool : (k.dropRing r).pool = k.pool := (State.dropRing_kept (Within.self _) (Kept.refl _ k) r).part .pool (by decide)
  exact ⟨by rw [pool_poolDone, hpool], (ring_of_rings (rings_poolDone _ 0) r).trans (ring_dropRing k r)⟩

theorem ringCmd_detach_refused {k : State} {r : Nat} (hb : k.pool.busy = false) (h1 : (k.ring r).ctx.st ≠ 1) (h3 : (k.ring r).ctx.st ≠ 3) :
    k.ringCmd r 2 = k.poolDone 1 := by
  rw [ringCmd_detach hb, detach_refused h1 h3]

theorem ringCmd_flush_of_attached {k : State} {r : Nat} (hb : k.pool.busy = false) (hst : (k.ring r).ctx.st ≠ 0) :
    k.ringCmd r 3 = (k.putLine (k.ctxAddr r) (lineOfCtx (k.ring r).ctx)).poolDone 0 := by
  rw [ringCmd_flush hb, flushRing_of_attached hst]

/-! ### Hops (R715) after a change of another page -/

theorem neighbour_lt {n : Nat} (h : n < 36) (p : Nat) : neighbour n p < 36 := by
  unfold neighbour
  dsimp only
  split
  · omega
  split
  · omega
  split
  · omega
  split <;> omega

/-- The routes in force are the same in two states. -/
structure SameRoutes (s t : State) : Prop where
  active : t.trt.active = s.trt.active
  reg : ∀ n o, n < 36 → t.reg (.trt n) o = s.reg (.trt n) o

theorem SameRoutes.attach {s t : State} (h : SameRoutes s t) {n : Nat} (hn : n < 36) : t.attach n = s.attach n := by
  unfold State.attach State.regFld
  dsimp only
  rw [h.reg _ _ (neighbour_lt hn 0)]

theorem attach_lt (s : State) {n : Nat} (hn : n < 36) : s.attach n < 36 := by
  unfold State.attach
  dsimp only
  split
  · exact neighbour_lt hn 0
  · exact hn

theorem SameRoutes.routePort {s t : State} (h : SameRoutes s t) {n : Nat} (hn : n < 36) (d : Nat) : t.routePort n d = s.routePort n d := by
  unfold State.routePort State.regFld State.routeBase
  rw [h.active, h.reg _ _ hn]

theorem SameRoutes.walk {s t : State} (h : SameRoutes s t) {d : Nat} (hd : d < 36) (fuel : Nat) {n : Nat} (hn : n < 36) :
    t.walk d fuel n = s.walk d fuel n := by
  induction fuel generalizing n with
  | zero => rfl
  | succ fuel ih =>
    unfold State.walk
    dsimp only
    rw [h.routePort hn, h.attach hd, ih (neighbour_lt hn _)]

theorem SameRoutes.hops {s t : State} (h : SameRoutes s t) {a b : Nat} (ha : a < 36) (hb : b < 36) : t.hops a b = s.hops a b := by
  unfold State.hops
  rw [h.attach ha, h.walk hb 13 (attach_lt s ha)]

theorem SameRoutes.updIns (s : State) (i : Nat) (f : Page → Page) : SameRoutes s (s.updPage (.ins i) f) where
  active := rfl
  reg n o hn := congrArg (fun pg => pg.actReg (.trt n) o) (updPage_other (m := s) (f := f) (q := .trt n) (p := .ins i) (by
    simp only [PageId.num]
    omega))

theorem writeFn_bellTail (m : State) (i : Nat) (v : Word) : m.writeFn (.ins i) 0x048 v = (m.setReg (.ins i) 0x048 v, 0) := rfl

theorem writeFn_bellRing (m : State) (i : Nat) (v : Word) :
    m.writeFn (.ins i) (0x048 + 4) v = (m.ringBell i (m.reg (.ins i) 0x048).toNat v.toNat m.bclk, 0) := rfl

/-- The doorbell that both halves of a write make (R769). -/
theorem bells_doorbell (m : State) (i : Nat) (v : BitVec 64) :
    let a := m.setReg (.ins i) 0x048 (BitVec.ofNat 32 v.toNat)
    let hi := v.toNat / 2 ^ 32
    let n := 2 + 2 * m.hops nodeSvc (nodeLe (m.srvOf (hi % 2 ^ 18)))
    (a.ringBell i (a.reg (.ins i) 0x048).toNat (BitVec.ofNat 32 hi).toNat a.bclk).bells =
      m.bells ++ [{ page := i, ring := hi % 2 ^ 18, tail := v.toNat % 2 ^ 21, restart := hi.testBit 31,
                    arr := m.bclk + n, held := if m.trt.hold = true then some n else none }] := by
  intro a hi n
  have hv := v.isLt
  have hhi : (BitVec.ofNat 32 hi).toNat = hi := by
    rw [BitVec.toNat_ofNat]
    omega
  have hlo : (a.reg (.ins i) 0x048).toNat % 2 ^ 21 = v.toNat % 2 ^ 21 := by
    have hreg : a.reg (.ins i) 0x048 = BitVec.ofNat 32 v.toNat := (reg_setReg m _ _ _ _).trans (if_pos rfl)
    rw [hreg, BitVec.toNat_ofNat]
    omega
  have hnode : ∀ e, nodeLe e < 36 := fun e => by unfold nodeLe; split <;> omega
  have hhops : a.hops nodeSvc (nodeLe (a.srvOf (hi % 2 ^ 18))) = m.hops nodeSvc (nodeLe (m.srvOf (hi % 2 ^ 18))) :=
    (SameRoutes.updIns m i _).hops (by decide) (hnode _)
  unfold State.ringBell
  dsimp only
  rw [hhi, hlo, hhops]
  rfl

/-- Settles O31. -/
theorem ringCommandsAndDoorbells : Obligations.RingCommandsAndDoorbells := by
  unfold Obligations.RingCommandsAndDoorbells
  constructor
  · intro s src r hw hg hl hpool m sel hen hbusy
    have hcmd := fun {cmd : Nat} (hc : cmd < 4) => ringCommand_eq (r := r) hw hg hl hen hc
    have hsel : ∀ k, sel k = m.ringSelected r k := fun _ => rfl
    simp only [hsel]
    refine ⟨fun l hsee hpass => ⟨_, (exec_ringAttach hpool src r).trans (congrArg _ (hcmd (by decide))), rfl, ?_⟩,
      fun hst => ⟨_, (exec_ringDetach s src r).trans (congrArg _ (hcmd (by decide))), rfl, ?_⟩,
      fun h1 h3 => ⟨_, (exec_ringDetach s src r).trans (congrArg _ (hcmd (by decide))), rfl, ?_⟩,
      fun hst => ⟨_, (exec_ringFlush s src r).trans (congrArg _ (hcmd (by decide))), rfl, ?_⟩⟩
    · obtain ⟨hp, hring⟩ := ringCmd_attach_ends (k := m.ringSelected r 1) hbusy hsee hpass
      rw [pool_answered, ring_of_rings (rings_answered _ 0 0), hp, hring]
      exact ⟨rfl, rfl, rfl, rfl, rfl, rfl, rfl⟩
    · obtain ⟨hp, hring⟩ := ringCmd_detach_ends (k := m.ringSelected r 2) hbusy hst
      rw [pool_answered, ring_of_rings (rings_answered _ 0 0), hp, hring]
      exact ⟨rfl, rfl, rfl⟩
    · rw [ringCmd_detach_refused (k := m.ringSelected r 2) hbusy h1 h3, pool_answered, rings_answered]
      exact ⟨rfl, rfl, rfl⟩
    · rw [ringCmd_flush_of_attached (k := m.ringSelected r 3) hbusy hst]
      have hput := State.putLine_kept (Within.self _) (Kept.refl _ (m.ringSelected r 3)) ((m.ringSelected r 3).ctxAddr r.toNat)
        (lineOfCtx ((m.ringSelected r 3).ring r.toNat).ctx)
      have hans := fun u : State => answered_kept (u.poolDone 0) 0 0
      exact ⟨congrArg Pool.busy (pool_answered _ 0 0), congrArg Pool.result (pool_answered _ 0 0),
        (rings_answered _ 0 0).trans (hput.part .rings (by decide)), (hans _).part .mem (by decide), (hans _).part .subs (by decide)⟩
  · intro s src i v hw hg hl m hi n
    refine ⟨_, exec_insDoorbell s src i v, ?_⟩
    rw [regAccess_wide hw hg hl (by decide) (writeFn_bellTail m i _) rfl (writeFn_bellRing _ i _)]
    refine ⟨answered_of ((onlyPage_setReg m (.ins i) _ _).trans (onlyPage_of_pages (.ins i) rfl)), ?_⟩
    exact ((answered_kept _ 0 0).part .bells (by decide)).trans (bells_doorbell m i v)

end Sys2Proof.Machine
end

section
/-! The latch point (R43). -/
namespace Sys2Proof.Machine

theorem exec_latchPoint (s : State) (late : List (Nat × Nat)) : exec (.latchPoint late) s = .next (s.latchPoint late) := rfl

theorem latchPoint_of_due {s : State} (hrun : s.esc.running = true) (hdue : s.esc.latched = false)
    (hreach : s.canReach (max s.bclk s.latchBclk) = true) (late : List (Nat × Nat)) :
    s.latchPoint late = (s.goto (max s.bclk s.latchBclk)).latch late := if_neg (by simp [hrun, hdue, hreach])

theorem latchPoint_of_latched {s : State} (h : s.esc.latched = true) (late : List (Nat × Nat)) : s.latchPoint late = s :=
  if_pos (.inr (.inl h))

theorem latched_latch (s : State) (late : List (Nat × Nat)) : (s.latch late).esc.latched = true := rfl

/-- Settles O11: the block comes to the slot's first BCLK, and nothing of the latch point moves the count on. -/
theorem latchPointComesOncePerFrame : Obligations.LatchPointComesOncePerFrame := by
  unfold Obligations.LatchPointComesOncePerFrame
  refine fun s late hrun => ⟨fun hdue hreach => ⟨_, exec_latchPoint s late, ?_⟩, fun hlatched => ?_⟩
  · have hpoint := State.latchPoint_kept (Within.self _) (Kept.refl _ s) late
    have hlatch := State.latch_kept (Within.self _) (Kept.refl _ (s.goto (max s.bclk s.latchBclk))) late
    refine ⟨?_, ?_, hpoint.part .frame (by decide), hpoint.part .mem (by decide)⟩
    · rw [latchPoint_of_due hrun hdue hreach]
      exact latched_latch _ late
    · rw [latchPoint_of_due hrun hdue hreach]
      refine Eq.trans (hlatch.part .bclk (by decide)) ((bclk_goto s _).trans ?_)
      omega
  · rw [exec_latchPoint, latchPoint_of_latched hlatched]

end Sys2Proof.Machine
end

section
/-! Commands that name an event of a tick carry out the coming tick where the event falls due (log entry 4). -/
namespace Sys2Proof.Machine

theorem tickWhen_pos {s : State} (h : s.esc.running = true) (ms : List CalMeas) : s.tickWhen ms true = s.escapementTick ms := by
  simp [State.tickWhen, h]

theorem tickWhen_neg {s : State} {ms : List CalMeas} {b : Bool} (h : ¬(s.esc.running = true ∧ b = true)) : s.tickWhen ms b = s := if_neg h

/-- A command that is the coming tick where its test holds names what the test tells. -/
theorem namesTick_of {s : State} {ms : List CalMeas} {c : Instr} {b : Bool} {due : Prop} (hexec : exec c s = .next (s.tickWhen ms b))
    (hb : b = true ↔ due) : NamesTick s (s.escapementTick ms) c (s.esc.running = true ∧ due) := by
  refine ⟨fun ⟨hrun, hdue⟩ => ⟨_, ?_, rfl, frame_escapementTick hrun ms⟩, fun hnot => ?_⟩
  · rw [hexec, hb.mpr hdue, tickWhen_pos hrun]
  · rw [hexec, tickWhen_neg (fun h => hnot ⟨h.1, hb.mp h.2⟩)]

/-- What every step of a fold leaves alone, the fold leaves alone. -/
theorem foldl_keeps {σ ι α : Type} (g : σ → α) {f : σ → ι → σ} (h : ∀ s i, g (f s i) = g s) (l : List ι) (s : σ) :
    g (l.foldl f s) = g s := by
  induction l generalizing s with
  | nil => rfl
  | cons i l ih => rw [List.foldl_cons, ih, h]

theorem wrapAdd_one_ne (n : Nat) : wrapAdd 16 n 1 ≠ n := by
  unfold wrapAdd
  omega

/-! ### The rate of the rebuild (R523) -/

theorem rateEval_of_due {v : State} (h : v.frameNo % 1024 = 0) : v.rateEval.therm.rateNext = some (min (v.regFld .blk 0x048 5 7)
    (5 * if v.therm.capBclk = some v.bclk then v.therm.prev else if v.therm.stale = true then 0 else v.therm.headroom)) := by
  unfold State.rateEval
  rw [if_neg (by simp [h])]

/-! ### The switch of the address map (R244) -/

theorem epoch_setRole (s : State) (c r : Nat) : (s.setRole c r).map.epoch = s.map.epoch := by
  unfold State.setRole
  split
  · rfl
  dsimp only
  split
  · rfl
  split <;> rfl

theorem map_aliveLost (s : State) (i : Nat) (on : Nat → Bool) : (s.aliveLost i on).map = s.map :=
  (State.aliveLost_kept (Within.self _) (Kept.refl _ s) i on).part .map (by decide)

theorem epoch_giveRole (s : State) (c r : Nat) : (s.giveRole c r).map.epoch = s.map.epoch := by
  unfold State.giveRole
  dsimp only
  rw [State.map_updChan]
  split
  · rw [map_aliveLost, epoch_setRole]
  · exact epoch_setRole s c r

theorem epoch_assignRoles (s : State) (nom : Nat) (ok : Nat → Bool) : (s.assignRoles nom ok).map.epoch = s.map.epoch := by
  have hfold := foldl_keeps (fun s : State => s.map.epoch) (f := fun s c => s.giveRole c (if ok c then if c < nom then c else c - 1 else 31))
    (fun s c => epoch_giveRole s c _) ((List.range 17).filter (· != nom)) s
  unfold State.assignRoles
  dsimp only
  split <;> exact (epoch_giveRole _ _ _).trans hfold

theorem map_setFldBoth (s : State) (p : PageId) (off lo w v : Nat) : (s.setFldBoth p off lo w v).map = s.map :=
  (State.setFldBoth_kept (Within.self _) (Kept.refl _ s) p off lo w v).part .map (by decide)

theorem epoch_tkRoles (s : State) : s.tkRoles.map.epoch = s.map.epoch := by
  unfold State.tkRoles
  dsimp only
  split <;> simp only [map_setFldBoth, State.map_updChan, epoch_giveRole, epoch_setRole]

theorem map_mapApply (s : State) : s.mapApply.map = s.map := (State.mapApply_kept (Within.self _) (Kept.refl _ s)).part .map (by decide)

theorem map_slip (s : State) : s.slip.map = s.map := (State.slip_kept (Within.self _) (Kept.refl _ s)).part .map (by decide)

@[simp] theorem map_ev (s : State) (e : Ev) : (s.ev e).map = s.map := (ev_kept_self s e).part .map (by decide)
@[simp] theorem map_raise (s : State) (p : PageId) (b : Nat) : (s.raise p b).map = s.map := rfl

theorem map_mapSwitch {s : State} (h : s.map.kind ≠ 0 ∧ s.map.hold = true ∧ s.map.eff < s.esc.frame ∧ s.mapReady = true) :
    s.mapSwitch.map.epoch = wrapAdd 16 s.map.epoch 1 ∧ s.mapSwitch.map.hold = false ∧ s.mapSwitch.map.kind = 0 := by
  obtain ⟨hkind, hhold, heff, hready⟩ := h
  unfold State.mapSwitch
  rw [if_neg (by simp [hkind, hhold, heff, hready])]
  dsimp only
  rw [apply_ite State.map, map_slip, ite_self, map_ev, map_raise]
  refine ⟨congrArg (wrapAdd 16 · 1) ?_, rfl, rfl⟩
  split
  · dsimp only
    split
    · rw [epoch_assignRoles, State.map_updPage, map_mapApply]
    · rw [State.map_updPage, map_mapApply]
  split
  · rfl
  · exact epoch_tkRoles s

theorem mapSwitch_of_not_due {s : State} (h : ¬(s.map.kind ≠ 0 ∧ s.map.hold = true ∧ s.map.eff < s.esc.frame ∧ s.mapReady = true)) :
    s.mapSwitch = s := by
  refine if_pos (Classical.byContradiction fun hno => h ?_)
  simpa only [not_or, Bool.not_eq_true', Bool.not_eq_false, not_le] using hno

theorem mapSwitch_iff (s : State) : (s.mapSwitch.map.epoch != s.map.epoch) = true ↔
    s.map.kind ≠ 0 ∧ s.map.hold = true ∧ s.map.eff < s.esc.frame ∧ s.mapReady = true := by
  rw [bne_iff_ne]
  refine ⟨fun hne => Classical.byContradiction fun hno => hne (by rw [mapSwitch_of_not_due hno]), fun h => ?_⟩
  rw [(map_mapSwitch h).1]
  exact wrapAdd_one_ne _

/-! ### The switch of the route epoch (R735) -/

@[simp] theorem trt_ev (s : State) (e : Ev) : (s.ev e).trt = s.trt := (ev_kept_self s e).part .trt (by decide)
@[simp] theorem trt_raise (s : State) (p : PageId) (b : Nat) : (s.raise p b).trt = s.trt := rfl

theorem epoch_losePkt (s : State) (p : Pkt) (answered : Bool) : (s.losePkt p answered).trt.epoch = s.trt.epoch := by
  have hungrant : (s.ungrant p.body).trt = s.trt := (State.ungrant_kept (Within.self _) (Kept.refl _ s) p.body).part .trt (by decide)
  unfold State.losePkt
  dsimp only
  split <;> simp only [hungrant]

theorem epoch_discardAt (s : State) (n : Nat) (p : Pkt) (answered : Bool) : (s.discardAt n p answered).trt.epoch = s.trt.epoch := by
  unfold State.discardAt
  dsimp only
  rw [epoch_losePkt, trt_ev, State.trt_updRtr]

theorem trt_requeue (s : State) (rs : List Req) : (s.requeue rs).trt = s.trt :=
  (State.requeue_kept (Within.self _) (Kept.refl _ s) rs).part .trt (by decide)

theorem trt_cutTrains (s : State) (sel : Req → Bool) : (s.cutTrains sel).1.trt = s.trt :=
  (State.cutTrains_kept (Within.self _) (Kept.refl _ s) sel).part .trt (by decide)

theorem epoch_openRouteHold (s : State) : s.openRouteHold.trt.epoch = s.trt.epoch := by
  unfold State.openRouteHold
  dsimp only
  split
  · rw [foldl_keeps (fun s : State => s.trt.epoch) fun s p => epoch_discardAt s _ p true]
    simp only [trt_requeue, trt_cutTrains]
  · simp only [trt_requeue, trt_cutTrains]

theorem trt_slip (s : State) : s.slip.trt = s.trt := (State.slip_kept (Within.self _) (Kept.refl _ s)).part .trt (by decide)
theorem trt_routeApply (s : State) : s.routeApply.trt = s.trt := (State.routeApply_kept (Within.self _) (Kept.refl _ s)).part .trt (by decide)
theorem trt_setFldBoth (s : State) (p : PageId) (off lo w v : Nat) : (s.setFldBoth p off lo w v).trt = s.trt :=
  (State.setFldBoth_kept (Within.self _) (Kept.refl _ s) p off lo w v).part .trt (by decide)
theorem trt_releaseHeld (s : State) : s.releaseHeld.trt = s.trt := (State.releaseHeld_kept (Within.self _) (Kept.refl _ s)).part .trt (by decide)
theorem trt_markHeld (s : State) : s.markHeld.trt = s.trt := (State.markHeld_kept (Within.self _) (Kept.refl _ s)).part .trt (by decide)
theorem trt_raiseIf (s : State) (b : Bool) (p : PageId) (bit : Nat) : (s.raiseIf b p bit).trt = s.trt :=
  (State.raiseIf_kept (Within.self _) (Kept.refl _ s) b p bit).part .trt (by decide)

theorem trt_routeSwitch (s : State) :
    s.routeSwitch.trt.epoch = wrapAdd 16 s.trt.epoch 1 ∧ s.routeSwitch.trt.hold = false ∧ s.routeSwitch.trt.active = !s.trt.active := by
  unfold State.routeSwitch
  dsimp only
  rw [trt_releaseHeld]
  split
  · simp only [trt_markHeld, trt_ev, trt_raiseIf, trt_raise, State.trt_updPage, trt_setFldBoth, trt_routeApply]
    split <;> simp only [trt_slip, and_self]
  · simp only [trt_ev, trt_raiseIf, trt_raise, State.trt_updPage, trt_setFldBoth, trt_routeApply]
    split <;> simp only [trt_slip, and_self]

theorem routeStep_of_due {s : State} (h : s.trt.hold = true ∧ s.routeDrained s.bclk = true) : s.routeStep = s.routeSwitch := by
  obtain ⟨hhold, hdrained⟩ := h
  exact (if_pos hhold).trans (if_pos hdrained)

theorem epoch_routeStep_of_not_due {s : State} (h : ¬(s.trt.hold = true ∧ s.routeDrained s.bclk = true)) :
    s.routeStep.trt.epoch = s.trt.epoch := by
  unfold State.routeStep
  dsimp only
  split
  · next hhold => rw [if_neg fun hdrained => h ⟨hhold, hdrained⟩]
  split
  · rfl
  split
  · exact epoch_openRouteHold s
  split <;> rfl

theorem routeStep_iff (s : State) : (s.routeStep.trt.epoch != s.trt.epoch) = true ↔ s.trt.hold = true ∧ s.routeDrained s.bclk = true := by
  rw [bne_iff_ne]
  refine ⟨fun hne => Classical.byContradiction fun hno => hne (epoch_routeStep_of_not_due hno), fun h => ?_⟩
  rw [routeStep_of_due h, (trt_routeSwitch s).1]
  exact wrapAdd_one_ne _

/-! ### The release of an instance's page (R851) -/

/-- What R851 waits for before an instance is FREE. -/
def State.insFreeDue (v : State) (i : Nat) : Prop :=
  (v.insOf i).st = 5 ∧ (v.insOf i).resetDone = true ∧ v.ringsOf i = [] ∧ (v.insOf i).effAt < v.esc.frame ∧
    ∀ c, c < 17 → (v.chan c).shareOf i = 0 ∧ ∀ y ∈ (v.chan c).shareChg, y.1 ≠ i

theorem insFreeDue_iff (v : State) (i : Nat) : v.insFreeDue i ↔ ¬((v.insOf i).st ≠ 5 ∨ !(v.insOf i).resetDone ∨ v.ringsOf i ≠ [] ∨
    v.esc.frame ≤ (v.insOf i).effAt ∨ (List.range 17).any fun c => (v.chan c).shareOf i != 0 || (v.chan c).shareChg.any fun y => y.1 == i) := by
  unfold State.insFreeDue
  simp only [not_or, not_not, Bool.not_eq_true', Bool.not_eq_false, not_le, List.any_eq_true, List.mem_range, not_exists, not_and,
    Bool.or_eq_true, bne_iff_ne, ne_eq, beq_iff_eq]

theorem insFreeTick_of_due {v : State} {i : Nat} (h : v.insFreeDue i) :
    (v.insFreeTick i).insOf i = {} ∧ ((v.insFreeTick i).page (.ins i)).en = false := by
  unfold State.insFreeTick
  rw [if_neg ((insFreeDue_iff v i).mp h)]
  dsimp only
  exact ⟨(insOf_of_ins (State.ins_updPage _ _ _) i).trans (State.insOf_upd_self _ i _), Page.field Page.en (updPage_body_self _ (.ins i) _) rfl⟩

theorem insFreeTick_of_not_due {v : State} {i : Nat} (h : ¬v.insFreeDue i) : v.insFreeTick i = v :=
  if_pos (Classical.byContradiction fun hno => h ((insFreeDue_iff v i).mpr hno))

theorem insFreeTick_iff (v : State) (i : Nat) (late : Bool) :
    (!late && (v.insOf i).st == 5 && ((v.insFreeTick i).insOf i).st == 0) = true ↔ late = false ∧ v.insFreeDue i := by
  simp only [Bool.and_eq_true, Bool.not_eq_true', beq_iff_eq, and_assoc, and_congr_right_iff]
  refine fun _ => ⟨fun ⟨h5, h0⟩ => Classical.byContradiction fun hno => ?_, fun h => ⟨h.1, ?_⟩⟩
  · rw [insFreeTick_of_not_due hno, h5] at h0
    exact absurd h0 (by decide)
  · rw [(insFreeTick_of_due h).1]

end Sys2Proof.Machine
end

section
/-! The events of a channel at a tick: Balance, Burl's windows and heat lists, fences and sleep. -/
namespace Sys2Proof.Machine

/-! ### Balance (R580) -/

theorem chan_updBal (s : State) (c : Nat) (f : Bal → Bal) : (s.updBal c f).chan c = { s.chan c with bal := f (s.chan c).bal } :=
  State.chan_upd_self s c _

theorem running_chanSlew {s : State} {c : Nat} (h : (s.chan c).bal.running = false) (ms : List CalMeas) :
    ((s.chanSlew ms c).chan c).bal.running = false := by
  unfold State.chanSlew
  extract_lets u
  have hu : (u.chan c).bal.running = false := by
    unfold u
    split
    · rw [chan_updBal]
      exact h
    · exact h
  split
  · exact hu
  · unfold State.balStep
    rw [if_pos (by simp [hu])]
    exact hu

/-- The state of a Balance run as its channel starts it (R580). -/
def Bal.opened (b : Bal) (frame : Nat) (x : Bal) : Prop :=
  x.running = true ∧ x.lastTrig = firstTrig b.trigLatched ∧ x.startFrame = frame

theorem bal_balStart (v : State) (c : Nat) : (v.chan c).bal.opened v.esc.frame ((v.balStart c).chan c).bal := by
  have hfold : ∀ (l : List Nat) (x : Bal), (v.chan c).bal.opened v.esc.frame x → (v.chan c).bal.opened v.esc.frame
      (l.foldl (fun b p => (b.updRank p fun r => { r with osc := 0, zq := 0 }).updProbe p fun x => { x with want := true }) x) := by
    intro l
    induction l with
    | nil => exact fun x h => h
    | cons p l ih => exact fun x h => ih _ h
  have hset : ∀ (u : State) p off lo w n, (u.setFldBoth p off lo w n).chan c = u.chan c := fun u p off lo w n =>
    chan_of_chans ((State.setFldBoth_kept (Within.self _) (Kept.refl _ u) p off lo w n).part .chans (by decide)) c
  have hover : ∀ (u : State) k n, (u.overrun k n).chan c = u.chan c := fun u k n =>
    chan_of_chans ((State.overrun_kept (Within.self _) (Kept.refl _ u) k n).part .chans (by decide)) c
  unfold State.balStart
  dsimp only
  rw [apply_ite (fun s : State => (s.chan c).bal), apply_ite (fun s : State => (s.chan c).bal), hover, hset, ite_self, ite_self, chan_updBal]
  exact hfold _ _ ⟨rfl, rfl, rfl⟩

theorem balOpen_of_due {v : State} {c : Nat} (h : (v.chan c).bal.trigLatched ≠ 0 ∧ v.balMay c = true) :
    v.balOpen false c = v.balStart c := if_pos ⟨rfl, h⟩

theorem balOpen_iff {v : State} {c : Nat} {ran : Bool} (hrun : ran = false → (v.chan c).bal.running = false) :
    (!ran && ((v.balOpen ran c).chan c).bal.running) = true ↔ ran = false ∧ (v.chan c).bal.trigLatched ≠ 0 ∧ v.balMay c = true := by
  cases ran with
  | true => simp
  | false =>
    simp only [Bool.not_false, Bool.true_and, true_and]
    refine ⟨fun h => Classical.byContradiction fun hno => ?_, fun h => ?_⟩
    · have hsame : v.balOpen false c = v := if_neg fun h => hno h.2
      rw [hsame, hrun rfl] at h
      exact absurd h (by decide)
    · rw [balOpen_of_due h]
      exact (bal_balStart v c).1

/-! ### Burl's windows (R678) and the lists of heat (R697 to R699) -/

theorem sub_windowOpen {v : State} {c sc : Nat} (h : (v.chan c).inService = true ∧ v.windowEnds c sc v.esc.frame = true) :
    ((v.windowOpen c sc).sub c sc).winSeq = wrapAdd 16 (v.sub c sc).winSeq 1 ∧ ((v.windowOpen c sc).sub c sc).winStart = v.esc.frame ∧
      ((v.windowOpen c sc).sub c sc).hammer = [] := by
  obtain ⟨hin, hends⟩ := h
  unfold State.windowOpen State.windowTick State.rollover
  rw [if_pos hin, if_pos hends]
  dsimp only
  rw [State.sub_upd_self]
  exact ⟨rfl, rfl, rfl⟩

theorem windowOpen_iff (v : State) (c sc : Nat) : (((v.windowOpen c sc).sub c sc).winSeq != (v.sub c sc).winSeq) = true ↔
    (v.chan c).inService = true ∧ v.windowEnds c sc v.esc.frame = true := by
  rw [bne_iff_ne]
  refine ⟨fun hne => Classical.byContradiction fun hno => hne ?_, fun h => ?_⟩
  · unfold State.windowOpen State.windowTick
    by_cases hin : (v.chan c).inService = true
    · rw [if_pos hin, if_neg fun h => hno ⟨hin, h⟩, State.sub_upd_self]
    · rw [if_neg hin]
  · rw [(sub_windowOpen h).1]
    exact wrapAdd_one_ne _

theorem cap_heatCapture {v : State} {c : Nat}
    (h : v.regFld (.brl c) 0x044 0 16 ≠ 0 ∧ v.frameNo % v.regFld (.brl c) 0x044 0 16 = 0) :
    ((v.heatCapture c).chan c).brl.cap = some (v.heatMerge c, v.esc.frame + 8) := by
  obtain ⟨hn, hmod⟩ := h
  unfold State.heatCapture
  dsimp only
  rw [if_neg (by simp [hn, hmod]), State.chan_upd_self]
  cases (([0, 1].foldl (fun s sc => s.updSub c sc fun b => { b with heat := [], hfloor := 0 }) v).chan c).brl.cap.isSome <;> rfl

theorem heatNow_iff (v : State) (c : Nat) : v.heatNow c = true ↔ ∃ l f, (v.chan c).brl.cap = some (l, f) ∧ f ≤ v.esc.frame := by
  unfold State.heatNow
  cases h : (v.chan c).brl.cap with
  | none => simp
  | some x => simp [Prod.ext_iff]

/-- A channel publishes the list that it has captured (R698, R699). -/
def Chan.published (ch : Chan) : Chan :=
  match ch.brl.cap with
  | some (rows, _) => { ch with brl := { ch.brl with list := rows, scale := heatScale rows, valid := true, cap := none,
                                                     seq := wrapAdd 16 ch.brl.seq 1 } }
  | none => ch

theorem chan_publish_foldl (cs : List Nat) (hcs : cs.Nodup) (v : State) {c : Nat} (hc : c ∈ cs) :
    (cs.foldl (fun s c => (s.updChan c Chan.published).raise (.brlHeat c) 0) v).chan c = (v.chan c).published := by
  induction cs generalizing v with
  | nil => cases hc
  | cons d cs ih =>
    rw [List.foldl_cons]
    obtain ⟨hd, hcs⟩ := List.nodup_cons.mp hcs
    by_cases hcd : c = d
    · subst hcd
      have hrest : ∀ (l : List Nat), c ∉ l → ∀ u : State,
          (l.foldl (fun s c => (s.updChan c Chan.published).raise (.brlHeat c) 0) u).chan c = u.chan c := by
        intro l
        induction l with
        | nil => exact fun _ _ => rfl
        | cons e l ihl =>
          intro hl u
          rw [List.foldl_cons, ihl (fun h => hl (List.mem_cons_of_mem _ h)), chan_raise,
            State.chan_upd_ne u (by rintro rfl; exact hl List.mem_cons_self)]
      rw [hrest cs hd, chan_raise, State.chan_upd_self]
    · rw [ih hcs _ ((List.mem_cons.mp hc).resolve_left hcd), chan_raise, State.chan_upd_ne _ hcd]

theorem chan_heatPublish {v : State} {c : Nat} (hc : c < 17) (hnow : v.heatNow c = true) : (v.heatPublish.chan c) = (v.chan c).published := by
  have hmem : c ∈ (List.range 17).filter fun c => v.heatNow c := List.mem_filter.mpr ⟨List.mem_range.mpr hc, hnow⟩
  have hfold := chan_publish_foldl _ (List.nodup_range.filter fun c => v.heatNow c) v hmem
  unfold State.heatPublish
  dsimp only
  rw [if_neg (List.ne_nil_of_mem hmem)]
  split
  · exact hfold
  · refine (foldl_keeps (fun s : State => s.chan c) (fun s e => ?_) _ _).trans hfold
    rfl

/-! ### Fences (R746) and sleep (R415, R420) -/

theorem fenceTick_of_due {v : State} {c : Nat} (h : (v.chan c).fencePend = true ∧ (v.chan c).fenceLatch = true) :
    ((v.fenceTick c).chan c).fenced = true ∧ flag ((v.fenceTick c).page (.cc c)).isr 8 = true := by
  have hstep : v.fenceTick c = (v.updChan c fun ch => { ch with fenced := true, fencePend := false, fenceLatch := false }).raise (.cc c) 8 :=
    if_pos h
  rw [hstep]
  refine ⟨?_, flag_raise _ _ (by decide)⟩
  rw [chan_raise, State.chan_upd_self]

theorem fenceTick_iff (v : State) (c : Nat) : (!(v.chan c).fenced && ((v.fenceTick c).chan c).fenced) = true ↔
    (v.chan c).fenced = false ∧ (v.chan c).fencePend = true ∧ (v.chan c).fenceLatch = true := by
  simp only [Bool.and_eq_true, Bool.not_eq_true', and_congr_right_iff]
  refine fun hnot => ⟨fun h => Classical.byContradiction fun hno => ?_, fun h => (fenceTick_of_due h).1⟩
  have hsame : v.fenceTick c = v := if_neg hno
  rw [hsame, hnot] at h
  exact absurd h (by decide)

theorem sr_parkRecord (v : State) (c : Nat) : ((v.parkRecord c).chan c).sr = (v.chan c).sr :=
  congrArg Chan.sr (chan_of_chans ((State.parkRecord_kept (Within.self _) (Kept.refl _ v) c).part .chans (by decide)) c)

theorem chan_mrsBack (v : State) (c d : Nat) : (v.mrsBack c).chan d = v.chan d :=
  chan_of_chans ((State.mrsBack_kept (Within.self _) (Kept.refl _ v) c).part .chans (by decide)) d

theorem sr_srEnter (v : State) (c : Nat) (park : Bool) : ((v.srEnter c park).chan c).sr = if park then .parked else .idleSr := by
  unfold State.srEnter
  dsimp only
  rw [apply_ite (fun s : State => (s.chan c).sr), sr_parkRecord, ite_self, chan_raise]
  refine (congrArg Chan.sr (foldl_keeps (fun s : State => s.chan c) (fun s sc => ?_) _ _)).trans ?_
  · rfl
  · rw [chan_mrsBack, State.chan_upd_self]

/-- What a tick makes of a channel's sleep (R415, R420). -/
theorem sr_srTick (v : State) (c : Nat) : ((v.srTick c).chan c).sr =
    if (v.chan c).sr = .idleSr ∧ flag (v.reg (.cc c) 0x050) 17 = true then .parked
    else if (v.chan c).sr = .awake ∧ v.idle c = true ∧ flag (v.reg (.cc c) 0x050) 17 = true then .parked
    else if (v.chan c).sr = .awake ∧ v.idle c = true ∧ v.regFld (.cc c) 0x050 0 16 ≠ 0 ∧ v.regFld (.cc c) 0x050 0 16 ≤ (v.chan c).idleCnt
    then .idleSr else (v.chan c).sr := by
  unfold State.srTick
  dsimp only
  split
  · rw [sr_parkRecord, State.chan_upd_self]
  split
  · next h => simp [h]
  next h =>
  rw [not_not] at h
  simp only [h, true_and]
  split
  · next hidle =>
    rw [State.chan_upd_self]
    simp only [Bool.not_eq_true'] at hidle
    simp [hidle, h]
  next hidle =>
  simp only [Bool.not_eq_true', Bool.not_eq_false] at hidle
  simp only [hidle, true_and]
  split
  · exact sr_srEnter v c true
  split
  · exact sr_srEnter v c false
  · exact h

end Sys2Proof.Machine
end

section
/-! The events of the block at a tick, and the commands that name them (log entry 4). -/
namespace Sys2Proof.Machine

/-! ### Movement's restart into a new image (R888) -/

theorem fwTick_of_due {v : State} (h : v.mvc.swapPend = true ∧ v.mvc.halted = false ∧ v.mvc.swapFrame ≤ v.esc.frame) :
    v.fwTick.mvc.swapPend = false ∧ v.fwTick.mvc.running = false ∧ v.fwTick.mvc.trial = some (v.esc.frame, v.bclk) := by
  obtain ⟨hpend, hhalt, hframe⟩ := h
  let u := ((v.crcFree.2).mvcRestart v.crcFree.1).beatFold
  have hstep : v.fwTick = { u with mvc := { u.mvc with swapPend := false, running := false, trial := some (u.esc.frame, u.bclk) } } :=
    if_neg (by simp [hpend, hhalt, hframe])
  have hu : Kept 0x400b0328070 v u := State.beatFold_kept ((Within.self _).of (by decide))
    (State.mvcRestart_kept ((Within.self _).of (by decide)) (State.crcFree_kept ((Within.self _).of (by decide)) (Kept.refl _ v)) v.crcFree.1)
  have hesc : u.esc.frame = v.esc.frame := hu.part .frame (by decide)
  have hbclk : u.bclk = v.bclk := hu.part .bclk (by decide)
  rw [hstep, ← hesc, ← hbclk]
  exact ⟨rfl, rfl, rfl⟩

theorem fwTick_iff (v : State) (late : Bool) : (!late && v.mvc.swapPend && !v.fwTick.mvc.swapPend) = true ↔
    late = false ∧ v.mvc.swapPend = true ∧ v.mvc.halted = false ∧ v.mvc.swapFrame ≤ v.esc.frame := by
  simp only [Bool.and_eq_true, Bool.not_eq_true', and_assoc, and_congr_right_iff]
  refine fun _ hpend => ⟨fun h => Classical.byContradiction fun hno => ?_, fun h => (fwTick_of_due ⟨hpend, h⟩).1⟩
  have hsame : v.fwTick = v := if_pos (Classical.byContradiction fun hc => hno (by
    simp only [hpend, not_or, Bool.not_eq_true, not_lt] at hc
    exact ⟨hc.2.1, hc.2.2⟩))
  rw [hsame, hpend] at h
  exact absurd h (by decide)

/-! ### The answers after CLEAR_ALL (R742) -/

theorem clearAnswer_of_due {v : State} {f : Nat} (hf : v.trt.clearAll = some f) (hdue : f + 4 ≤ v.esc.frame) :
    v.clearAnswer.trt.clearAll = none ∧ v.clearAnswer.trt.clearPend = false ∧ v.clearAnswer.trt.clears = [] := by
  have hanswer : ∀ (u : State) (r : Req), (u.answerLost r).trt = u.trt := fun u r =>
    (State.answerLost_kept (Within.self _) (Kept.refl _ u) r).part .trt (by decide)
  unfold State.clearAnswer
  rw [hf]
  dsimp only
  rw [if_neg (by omega), trt_raise, foldl_keeps State.trt hanswer]
  exact ⟨rfl, rfl, rfl⟩

theorem clearAnswer_iff (v : State) : (v.trt.clearAll.isSome && v.clearAnswer.trt.clearAll.isNone) = true ↔
    ∃ f, v.trt.clearAll = some f ∧ f + 4 ≤ v.esc.frame := by
  cases hf : v.trt.clearAll with
  | none => simp
  | some f =>
    have hex : (∃ g, some f = some g ∧ g + 4 ≤ v.esc.frame) ↔ f + 4 ≤ v.esc.frame := by simp
    rw [hex]
    simp only [Option.isSome_some, Bool.true_and]
    refine ⟨fun h => Classical.byContradiction fun hno => ?_, fun h => ?_⟩
    · have hsame : v.clearAnswer = v := by
        unfold State.clearAnswer
        rw [hf]
        exact if_pos (by omega)
      rw [hsame, hf] at h
      cases h
    · rw [(clearAnswer_of_due hf h).1]
      rfl

/-! ### The commands -/

/-- A command of the instances that has no mailbox command to take up is the tick that carries out one taken up before (R827). -/
theorem insCommand_of_none {s : State} {code : Nat} (h : s.mbOf code = none) (kind : Nat) (f : State → State) :
    s.insCommand kind f code = s.tickWhen [] (s.ins.any fun e => State.insTicked e.1 kind s s.atInsDone) := by
  unfold State.insCommand
  rw [h]
  rfl

theorem insTicked_any_iff (s v : State) (kind : Nat) : (s.ins.any fun e => State.insTicked e.1 kind s v) = true ↔
    ∃ e ∈ s.ins, (s.insOf e.1).next = kind ∧ (v.insOf e.1).next ≠ kind := by
  simp [List.any_eq_true, State.insTicked]

theorem any_heatNow_iff (v : State) : (List.range 17).any v.heatNow = true ↔
    ∃ c, c < 17 ∧ ∃ l f, (v.chan c).brl.cap = some (l, f) ∧ f ≤ v.esc.frame := by
  simp only [List.any_eq_true, List.mem_range, heatNow_iff]

theorem brl_published {ch : Chan} {l : List HeatRow} {f : Nat} (h : ch.brl.cap = some (l, f)) :
    ch.published.brl.cap = none ∧ ch.published.brl.list = l ∧ ch.published.brl.valid = true := by
  unfold Chan.published
  rw [h]
  exact ⟨rfl, rfl, rfl⟩

/-- The channel falls asleep, or is parked, at a tick (R415, R420). -/
theorem srTick_idle_iff (v : State) (c : Nat) : ((v.chan c).sr == .awake && ((v.srTick c).chan c).sr == .idleSr) = true ↔
    (v.chan c).sr = .awake ∧ v.idle c = true ∧ flag (v.reg (.cc c) 0x050) 17 = false ∧ v.regFld (.cc c) 0x050 0 16 ≠ 0 ∧
      v.regFld (.cc c) 0x050 0 16 ≤ (v.chan c).idleCnt := by
  rw [sr_srTick, Bool.and_eq_true, beq_iff_eq, beq_iff_eq, and_congr_right_iff]
  intro hsr
  cases flag (v.reg (.cc c) 0x050) 17 <;> cases v.idle c <;> simp [hsr]

theorem srTick_park_iff (v : State) (c : Nat) : ((v.chan c).sr != .parked && ((v.srTick c).chan c).sr == .parked) = true ↔
    flag (v.reg (.cc c) 0x050) 17 = true ∧ ((v.chan c).sr = .idleSr ∨ ((v.chan c).sr = .awake ∧ v.idle c = true)) := by
  rw [sr_srTick, Bool.and_eq_true, bne_iff_ne, beq_iff_eq]
  cases hsr : (v.chan c).sr <;> cases flag (v.reg (.cc c) 0x050) 17 <;> cases v.idle c <;> simp
  split <;> simp

/-- Settles O10: each command is the coming tick where its test holds, and each test tells that its event falls due. -/
theorem tickEventsCarryOutTheirTick : Obligations.TickEventsCarryOutTheirTick := by
  unfold Obligations.TickEventsCarryOutTheirTick
  intro s ms Ticks
  refine ⟨?_, namesTick_of rfl beq_iff_eq, fun v => rateEval_of_due, ⟨namesTick_of rfl (mapSwitch_iff _), map_mapSwitch⟩,
    ⟨namesTick_of rfl (routeStep_iff _), fun h => ?_⟩, fun i => ⟨namesTick_of rfl (insFreeTick_iff _ i _), fun h => insFreeTick_of_due h.2⟩,
    fun c => ⟨?_, fun sc => ⟨namesTick_of rfl (windowOpen_iff _ c sc), sub_windowOpen⟩, ?_, ?_, ?_⟩, ?_, ?_, ?_, ?_⟩
  · refine namesTick_of (b := true) ?_ (by simp)
    cases hrun : s.esc.running with
    | true => rw [exec_escapementTick, tickWhen_pos hrun]
    | false => rw [exec_escapementTick, tickWhen_neg (by simp [hrun]), escapementTick_of_stopped hrun]
  · rw [routeStep_of_due h]
    exact trt_routeSwitch _
  · refine ⟨namesTick_of rfl (balOpen_iff fun h => running_chanSlew h ms), fun h => ?_⟩
    have hopened := bal_balStart (s.atBal ms c) c
    rw [← balOpen_of_due h.2] at hopened
    exact hopened
  · exact ⟨namesTick_of rfl (by simp only [Bool.and_eq_true, bne_iff_ne, beq_iff_eq]), cap_heatCapture⟩
  · exact ⟨namesTick_of rfl (fenceTick_iff _ c), fun h => fenceTick_of_due h.2⟩
  · refine ⟨namesTick_of rfl (srTick_idle_iff _ c), fun h => ?_, namesTick_of rfl (srTick_park_iff _ c), fun h => ?_⟩
    · have hboth := (srTick_idle_iff _ c).mpr h
      rw [Bool.and_eq_true, beq_iff_eq, beq_iff_eq] at hboth
      exact hboth.2
    · have hboth := (srTick_park_iff _ c).mpr h
      rw [Bool.and_eq_true, bne_iff_ne, beq_iff_eq] at hboth
      exact hboth.2
  · refine ⟨namesTick_of rfl (any_heatNow_iff _), fun c l f hc hcap hdue => ?_⟩
    rw [chan_heatPublish hc ((heatNow_iff _ c).mpr ⟨l, f, hcap, hdue⟩)]
    exact brl_published hcap
  · exact ⟨namesTick_of rfl (fwTick_iff _ _), fun h => fwTick_of_due h.2⟩
  · exact ⟨namesTick_of rfl (clearAnswer_iff _), fun f => clearAnswer_of_due⟩
  · rintro rfl
    refine ⟨fun h => namesTick_of ?_ (insTicked_any_iff s _ 3), fun h => namesTick_of ?_ (insTicked_any_iff s _ 4)⟩
    · exact congrArg Host.Outcome.next (insCommand_of_none h 3 _)
    · exact congrArg Host.Outcome.next (insCommand_of_none h 4 _)

end Sys2Proof.Machine
end

section
/-! The state after reset. -/
namespace Sys2Proof.Machine

/-- The default route tables hold the shorter ways of the XY routing (R729, R730). -/
theorem routePort_reset : ∀ n < 36, ∀ d < 36, State.reset.routePort n d = xyPort n d := by decide +kernel

theorem page_reset (p : PageId) : (State.reset.page p).imr = 0xFFFFFFFF ∧ (State.reset.page p).isr = 0 ∧ (State.reset.page p).cmt = .idle ∧
    (State.reset.page p).expert = false ∧ (State.reset.page p).err = 0 := by
  have hpage : State.reset.page p = pageDflt p.num := rfl
  rw [hpage]
  unfold pageDflt
  split <;> exact ⟨rfl, rfl, rfl, rfl, rfl⟩

/-- Settles O4. -/
theorem resetValues : Obligations.ResetValues := by
  unfold Obligations.ResetValues
  refine ⟨rfl, rfl, rfl, rfl, rfl, rfl, page_reset, fun n d hn hd => routePort_reset n hn d hd,
    fun c _ => ⟨rfl, rfl, rfl⟩, fun g _ => ⟨rfl, rfl, rfl, rfl, rfl⟩⟩

end Sys2Proof.Machine
end

section
/-! Commands of a mailbox (R136 to R138): whose turn it is, and the end of a command. -/
namespace Sys2Proof.Machine

theorem mbTake_of {s : State} {code m : Nat} (h : s.mbOf code = some m) (f : Nat → Mbx → State) : s.mbTake code f = f m (s.mbx m) := by
  unfold State.mbTake
  rw [h]

theorem mbTake_eq_self {s : State} {code : Nat} (h : s.mbOf code = none) (f : Nat → Mbx → State) : s.mbTake code f = s := by
  unfold State.mbTake
  rw [h]

/-- The results of a command, each register named once (R137). -/
theorem get_put (x : Mbx) {res : List (Nat × Nat)} (hres : (res.map Prod.fst).Nodup) (n : Nat) :
    Tbl.get (fun _ => 0) (x.put res).res n = ((res.lookup n).map (BitVec.ofNat 32)).getD (Tbl.get (fun _ => 0) x.res n) := by
  have hfold : ∀ t : Tbl Word, Tbl.get (fun _ => 0) (res.foldl (fun t e => Tbl.set (fun _ => 0) t e.1 (BitVec.ofNat 32 e.2)) t) n =
      ((res.lookup n).map (BitVec.ofNat 32)).getD (Tbl.get (fun _ => 0) t n) := by
    induction res with
    | nil => exact fun t => rfl
    | cons e res ih =>
      intro t
      obtain ⟨hnot, hrest⟩ := List.nodup_cons.mp hres
      rw [List.foldl_cons, ih hrest, Tbl.get_set, List.lookup_cons]
      by_cases hn : n = e.1
      · have hlook : res.lookup n = none := List.lookup_eq_none_iff.mpr fun p hp => by
          have : e.1 ≠ p.1 := fun h => hnot (h ▸ List.mem_map_of_mem hp)
          simpa [hn] using this
        rw [← hn, hlook, if_pos rfl, beq_self_eq_true]
        rfl
      · rw [if_neg hn, beq_false_of_ne hn]
  exact hfold x.res

theorem ended_of_mbx {s t : State} {m status : Nat} {res : List (Nat × Nat)} (hres : (res.map Prod.fst).Nodup)
    (h : t.mbx m = (s.mbx m).ended status 0 res) : Ended s t m status 0 res := by
  unfold Ended
  rw [h]
  exact ⟨rfl, rfl, rfl, rfl, rfl, rfl, get_put (s.mbx m) hres⟩

/-- The end of a command on a block whose mailbox is as it was (R137). -/
theorem ended_mbDone {s u : State} {m : Nat} (hu : u.mbx m = s.mbx m) (status : Nat) {res : List (Nat × Nat)}
    (hres : (res.map Prod.fst).Nodup := by decide) : Ended s (u.mbDone m status 0 res) m status 0 res :=
  ended_of_mbx hres ((mbx_mbDone u m status 0 res).trans (congrArg (Mbx.ended · status 0 res) hu))

theorem mbDone_kept_self (s : State) (m status detail : Nat) (res : List (Nat × Nat)) : Kept 0x20060 s (s.mbDone m status detail res) :=
  State.mbDone_kept (Within.self _) (Kept.refl _ s) m status detail res

theorem mbField_zero (s : State) (m : Nat) : s.mbField m 0 = s.mbDone m 0x0C 0 [] := rfl

/-! ### Commands that end at once (R79, R138, R832) -/

theorem exec_unknownCommand (s : State) : exec .unknownCommand s = .next s.mbUnknown := rfl
theorem exec_frameStatus (s : State) : exec .frameStatus s = .next s.mbFrameStatus := rfl
theorem exec_intentGet (s : State) : exec .intentGet s = .next s.mbIntentGet := rfl

theorem mbUnknown_of {s : State} {m : Nat} (hfront : s.mbFront = some m) (hcmd : (s.mbx m).cmd ∉ mbCodes) :
    s.mbUnknown = s.mbDone m 4 0 [] := by
  unfold State.mbUnknown
  rw [hfront]
  exact if_neg (by simpa using hcmd)

/-- The results of FRAME_STATUS, where log entry 57 puts them. -/
def State.frameResults (s : State) : List (Nat × Nat) :=
  [(0, s.frameNo % 2 ^ 32), (1, s.frameNo / 2 ^ 32),
   (2, packNat [(0, 9, s.esc.fs), (16, 9, ((s.fsArmed).map (·.2)).getD 0), (31, 1, b2n (s.fsArmed).isSome)]),
   (3, ((s.fsArmed).map (·.1 % 2 ^ 32)).getD 0)]

/-- The overrun counts as FRAME_STATUS stores them. -/
def State.ovrBytes (s : State) : List Nat :=
  (List.range 7).flatMap fun i => bytesOf (BitVec.ofNat 32 (Tbl.get (fun _ => 0) s.esc.ovrCnt i))

theorem mbFrameStatus_written {s u : State} {m : Nat} (h : s.mbOf 0x02 = some m) (hu : s.writeBytes 2 ((s.mbx m).addr 0) s.ovrBytes = .inr u) :
    s.mbFrameStatus = u.mbDone m 0 0 s.frameResults := by
  have hesc : u.esc = s.esc := (State.writeBytes_kept (Within.self _) 2 (Kept.refl _ s) _ _ hu).part .esc (by decide)
  unfold State.ovrBytes at hu
  unfold State.mbFrameStatus
  rw [mbTake_of h]
  dsimp only
  rw [hu]
  dsimp only
  unfold State.frameNo State.frameResults
  rw [hesc]
  cases s.fsArmed <;> rfl

theorem mbFrameStatus_unwritten {s : State} {m st : Nat} (h : s.mbOf 0x02 = some m)
    (hst : s.writeBytes 2 ((s.mbx m).addr 0) s.ovrBytes = .inl st) : s.mbFrameStatus = s.mbDone m st 0 [] := by
  unfold State.ovrBytes at hst
  unfold State.mbFrameStatus
  rw [mbTake_of h]
  dsimp only
  rw [hst]

/-- What INTENT_GET answers of an instance (R832). -/
def State.insResults (s : State) (i : Nat) : List (Nat × Nat) :=
  [(0, (s.insOf i).quota)] ++ (List.range 6).map (fun n => (n + 1, bits (packNat ((List.range 17).map fun j =>
    (10 * j, 10, (s.insOf i).shares.getD j 0))) (32 * n) 32)) ++ [(7, s.insFlags i)]

/-- What it answers of another page: the first eight intents in offset order (log entry 58). -/
def State.pageResults (s : State) (p : PageId) : List (Nat × Nat) :=
  ((p.rsOffs.take 8).zipIdx).map fun o => (o.2, (s.intentOf p o.1).toNat)

/-- What INTENT_GET answers of a page. -/
def State.intentResults (s : State) (p : PageId) : List (Nat × Nat) :=
  match p with
  | .ins i => s.insResults i
  | p => s.pageResults p

theorem mbIntentGet_of {s : State} {m : Nat} {p : PageId} (h : s.mbOf 0xC0 = some m) (harg : ((s.mbx m).arg 0).toNat = p.num * 4096)
    (hp : pageOf p.num = some p) (hidle : (s.page p).mvcActive = false) : s.mbIntentGet = s.mbDone m 0 0 (s.intentResults p) := by
  have hpage : (if ((s.mbx m).arg 0).toNat % 4096 = 0 then pageOf (((s.mbx m).arg 0).toNat / 4096) else none) = some p := by
    rw [harg, Nat.mul_mod_left, Nat.mul_div_left _ (by decide), hp]
    rfl
  unfold State.mbIntentGet
  rw [mbTake_of h]
  dsimp only
  rw [hpage, if_neg (by simp [hidle])]
  cases p <;> rfl

theorem intentResults_of_other {s : State} {p : PageId} (h : ∀ i, p ≠ .ins i) : s.intentResults p = s.pageResults p := by
  cases p with
  | ins i => exact absurd rfl (h i)
  | _ => rfl

theorem insResults_nodup (s : State) (i : Nat) : ((s.insResults i).map Prod.fst).Nodup := by
  have hkeys : (s.insResults i).map Prod.fst = List.range 8 := rfl
  rw [hkeys]
  exact List.nodup_range

theorem pageResults_nodup (s : State) (p : PageId) : ((s.pageResults p).map Prod.fst).Nodup := by
  have hkeys : (s.pageResults p).map Prod.fst = (p.rsOffs.take 8).zipIdx.map Prod.snd := by
    unfold State.pageResults
    rw [List.map_map]
    rfl
  rw [hkeys, List.zipIdx_map_snd]
  exact List.nodup_range'

theorem lookup_zipIdx {α : Type} (f : α → Nat) (l : List α) (k n : Nat) :
    ((l.zipIdx k).map fun o => (o.2, f o.1)).lookup (k + n) = (l[n]?).map f := by
  induction l generalizing k n with
  | nil => rfl
  | cons a l ih =>
    rw [List.zipIdx_cons, List.map_cons, List.lookup_cons]
    cases n with
    | zero => simp
    | succ n =>
      have hne : (k + (n + 1) == k) = false := by simp
      rw [hne, show k + (n + 1) = (k + 1) + n by omega]
      exact ih (k + 1) n

/-- Settles O32. -/
theorem mailboxCommandsAnswerAtOnce : Obligations.MailboxCommandsAnswerAtOnce := by
  unfold Obligations.MailboxCommandsAnswerAtOnce
  intro s m x
  refine ⟨fun hfront hcmd => ⟨_, exec_unknownCommand s, ?_⟩, fun h => ⟨fun u hu => ⟨_, exec_frameStatus s, ?_⟩,
    fun st hst => ⟨_, exec_frameStatus s, ?_⟩⟩, fun h p harg hp hidle => ⟨fun hother => ⟨_, exec_intentGet s, s.pageResults p, ?_⟩,
    fun i hi => ⟨_, exec_intentGet s, ?_⟩⟩⟩
  · rw [mbUnknown_of hfront hcmd]
    have hkept := mbDone_kept_self s m 4 0 []
    exact ⟨ended_mbDone rfl 4, hkept.part .esc (by decide), hkept.part .chans (by decide)⟩
  · rw [mbFrameStatus_written h hu]
    have hbuf := State.writeBytes_kept (Within.self _) 2 (Kept.refl _ s) _ _ hu
    have hdone := mbDone_kept_self u m 0 0 s.frameResults
    exact ⟨hdone.part .mem (by decide), hdone.part .subs (by decide), (hdone.part .esc (by decide)).trans (hbuf.part .esc (by decide)),
      ended_mbDone (mbx_of_blk_eq (hbuf.part .blk (by decide)) m) 0 (by simp [State.frameResults])⟩
  · rw [mbFrameStatus_unwritten h hst]
    exact ⟨(mbDone_kept_self s m st 0 []).part .mem (by decide), ended_mbDone rfl st⟩
  · rw [mbIntentGet_of h harg hp hidle, intentResults_of_other hother]
    refine ⟨ended_mbDone rfl 0 (pageResults_nodup s p), fun n o ho => ?_⟩
    have hlook := lookup_zipIdx (fun o => (s.intentOf p o).toNat) (p.rsOffs.take 8) 0 n
    rw [Nat.zero_add, ho] at hlook
    exact hlook
  · subst hi
    rw [mbIntentGet_of h harg hp hidle]
    exact ended_mbDone rfl 0 (insResults_nodup s i)

end Sys2Proof.Machine
end

section
/-! Movement writes shadows of pages and commits the pages (R56, R127, R132): what is left of the pages written and of every other one. -/
namespace Sys2Proof.Machine

/-- A page but for what a write of Movement's to its shadow changes. -/
def Page.unwritten (pg : Page) : Page := { pg.body with shd := [], intent := [] }

/-- A page but for what a commit of it changes. -/
def Page.uncommitted (pg : Page) : Page := { pg.body with cmt := .idle, cmtRefused := false, commit := {}, commitFrame := 0, carried := false }

theorem Page.unwrittenField {α : Type} (f : Page → α) {a b : Page} (h : a.unwritten = b.unwritten)
    (hf : ∀ pg : Page, f pg.unwritten = f pg := by intro; rfl) : f a = f b := by
  rw [← hf a, h, hf]

theorem Page.uncommittedField {α : Type} (f : Page → α) {a b : Page} (h : a.uncommitted = b.uncommitted)
    (hf : ∀ pg : Page, f pg.uncommitted = f pg := by intro; rfl) : f a = f b := by
  rw [← hf a, h, hf]

/-! ### Writes -/

theorem mvcWrite_of {u : State} {p : PageId} (h : (u.page p).expert = false) (off : Nat) (v : Word) :
    u.mvcWrite p off v = (u.setShd p off (v &&& regMask p off)).updPage p fun pg =>
      { pg with intent := Tbl.set (regReset p) pg.intent off (v &&& regMask p off) } := by
  unfold State.mvcWrite State.mvcShadow
  rw [if_neg (by simp [h])]
  rfl

theorem unwritten_mvcWrite {u : State} {p : PageId} (h : (u.page p).expert = false) (off : Nat) (v : Word) :
    PagesAgree Page.unwritten u (u.mvcWrite p off v) := by
  rw [mvcWrite_of h]
  exact (PagesAgree.updPage u p).trans (PagesAgree.updPage _ p)

theorem onlyPage_mvcWrite {u : State} {p : PageId} (h : (u.page p).expert = false) (off : Nat) (v : Word) :
    OnlyPage p u (u.mvcWrite p off v) := by
  rw [mvcWrite_of h]
  exact (OnlyPage.updPage u p _).trans (OnlyPage.updPage _ p _)

theorem shd_mvcWrite {u : State} {p : PageId} (h : (u.page p).expert = false) (off : Nat) (v : Word) (o : Nat) :
    (u.mvcWrite p off v).shd p o = if o = off then v &&& regMask p off else u.shd p o := by
  rw [mvcWrite_of h]
  exact (shd_updPage _ p _ o).trans (shd_setShd u p off _ o)

/-- A write of one register of one page, with its value. -/
abbrev ShdWrite := PageId × Nat × Word

/-- Writes that name no register twice. -/
def ApartWrites (ws : List ShdWrite) : Prop := ws.Pairwise fun a b => a.1.num ≠ b.1.num ∨ (a.1 = b.1 ∧ a.2.1 ≠ b.2.1)

/-- What the writes of a list leave. -/
def State.mvcWrites (s : State) (ws : List ShdWrite) : State := ws.foldl (fun s w => s.mvcWrite w.1 w.2.1 w.2.2) s

theorem unwritten_mvcWrites {s : State} {ws : List ShdWrite} (h : ∀ w ∈ ws, (s.page w.1).expert = false) :
    PagesAgree Page.unwritten s (s.mvcWrites ws) := by
  induction ws generalizing s with
  | nil => exact PagesAgree.refl _ s
  | cons w ws ih =>
    have hw := unwritten_mvcWrite (h w List.mem_cons_self) w.2.1 w.2.2
    refine hw.trans (ih fun x hx => ?_)
    exact (Page.unwrittenField Page.expert (hw x.1)).trans (h x (List.mem_cons_of_mem _ hx))

theorem shd_mvcWrites_other {s : State} {ws : List ShdWrite} (h : ∀ w ∈ ws, (s.page w.1).expert = false) {p : PageId} {o : Nat}
    (hp : ∀ w ∈ ws, p.num ≠ w.1.num ∨ (p = w.1 ∧ o ≠ w.2.1)) : (s.mvcWrites ws).shd p o = s.shd p o := by
  induction ws generalizing s with
  | nil => rfl
  | cons w ws ih =>
    have hw := h w List.mem_cons_self
    have hrest : ∀ x ∈ ws, ((s.mvcWrite w.1 w.2.1 w.2.2).page x.1).expert = false := fun x hx =>
      (Page.unwrittenField Page.expert (unwritten_mvcWrite hw _ _ x.1)).trans (h x (List.mem_cons_of_mem _ hx))
    refine (ih hrest fun x hx => hp x (List.mem_cons_of_mem _ hx)).trans ?_
    rcases hp w List.mem_cons_self with hne | ⟨rfl, hne⟩
    · exact shd_of_body (onlyPage_mvcWrite hw _ _ p hne) o
    · rw [shd_mvcWrite hw, if_neg hne]

theorem shd_mvcWrites {s : State} {ws : List ShdWrite} (h : ∀ w ∈ ws, (s.page w.1).expert = false) (ha : ApartWrites ws) :
    ∀ w ∈ ws, (s.mvcWrites ws).shd w.1 w.2.1 = w.2.2 &&& regMask w.1 w.2.1 := by
  induction ws generalizing s with
  | nil => exact fun w hw => absurd hw List.not_mem_nil
  | cons a ws ih =>
    obtain ⟨hapart, ha⟩ := List.pairwise_cons.mp ha
    have hexp := h a List.mem_cons_self
    have hrest : ∀ x ∈ ws, ((s.mvcWrite a.1 a.2.1 a.2.2).page x.1).expert = false := fun x hx =>
      (Page.unwrittenField Page.expert (unwritten_mvcWrite hexp _ _ x.1)).trans (h x (List.mem_cons_of_mem _ hx))
    intro w hw
    rcases List.mem_cons.mp hw with rfl | hw
    · refine (shd_mvcWrites_other hrest hapart).trans ?_
      rw [shd_mvcWrite hexp, if_pos rfl]
    · exact ih hrest ha w hw

theorem mvcWrites_kept_self (s : State) (ws : List ShdWrite) : Kept 0x20000020 s (s.mvcWrites ws) :=
  Kept.foldl (f := fun s (w : ShdWrite) => s.mvcWrite w.1 w.2.1 w.2.2) (fun _ _ h => State.mvcWrite_kept (Within.self _) h _ _ _) (Kept.refl _ s) ws

/-! ### Commits -/

/-- What a commit of Movement's makes of its page (R56, R105). -/
def State.mvcGone (u : State) (target : Word) (pg : Page) : Page :=
  u.goPage true { pg with commitFrame := target }

/-- A page that Movement may commit by itself: it is at the basic level, no commit is pending on it, and it commits alone. -/
structure State.commitsAlone (u : State) (p : PageId) : Prop where
  kind : p.commitKind ≠ 0
  basic : (u.page p).expert = false
  idle : (u.page p).pendingCmt = false
  control : ∀ n, p = .trt n → n = u.ctlRouter
  frame : p ≠ .esc ∨ u.fsNew = none

theorem State.commitsAlone.of_agree {u v : State} {p : PageId} (h : u.commitsAlone p) (hbasic : (v.page p).expert = (u.page p).expert)
    (hidle : (v.page p).pendingCmt = (u.page p).pendingCmt) (hcontrol : v.ctlRouter = u.ctlRouter) (hframe : v.fsNew = u.fsNew) :
    v.commitsAlone p :=
  ⟨h.kind, hbasic.trans h.basic, hidle.trans h.idle, by rw [hcontrol]; exact h.control, by rw [hframe]; exact h.frame⟩

theorem fsNew_of_shd {u v : State} (hesc : v.esc = u.esc) (h : v.shd .esc 0x050 = u.shd .esc 0x050) : v.fsNew = u.fsNew := by
  unfold State.fsNew
  rw [hesc, h]

theorem fsNew_updPage {u : State} (p : PageId) {f : Page → Page} (hf : ∀ pg, (f pg).shd = pg.shd := by intro; rfl) :
    (u.updPage p f).fsNew = u.fsNew :=
  fsNew_of_shd rfl (congrArg (Tbl.get (regReset .esc) · 0x050) (show ((u.updPage p f).page .esc).shd = (u.page .esc).shd from
    PagesAgree.updPage (f := Page.shd) u p hf (fun _ => rfl) .esc))

theorem mvcCommit_of {u : State} {p : PageId} (h : u.commitsAlone p) (hrun : u.esc.running = true) (target : Word) :
    u.mvcCommit p target = (u.updPage p fun pg => { pg with commitFrame := target }).updPage p (u.goPage true) := by
  obtain ⟨hkind, hbasic, hidle, hcontrol, hframe⟩ := h
  have hidle' : ((u.updPage p fun pg => { pg with commitFrame := target }).page p).pendingCmt = false :=
    Page.field Page.pendingCmt (updPage_body_self u p _) hidle
  have hesc : ∀ v : State, v.fsNew = u.fsNew → ¬(p = .esc ∧ v.fsNew.isSome = true) := by
    rintro v hv ⟨hp, hsome⟩
    rcases hframe with hne | hnone
    · exact hne hp
    · simp [hv, hnone] at hsome
  have hfirst := hesc _ (fsNew_updPage p (f := fun pg => { pg with commitFrame := target }))
  have hsecond := hesc _ ((fsNew_updPage (u := u.updPage p fun pg => { pg with commitFrame := target }) p (f := u.goPage true)).trans
    (fsNew_updPage p))
  unfold State.mvcCommit
  rw [if_neg (by simp [hbasic])]
  unfold State.commitGo
  dsimp only
  rw [if_neg hkind, if_neg (by simp [hidle']), if_neg (by simp [hrun]), if_neg ?router, if_neg fun h => hfirst ⟨h.1, h.2.1⟩]
  case router =>
    split
    · next n => exact fun hne => bne_iff_ne.mp hne (hcontrol n rfl)
    · exact Bool.false_ne_true
  exact if_neg hsecond

theorem mvcCommit_page {u : State} {p : PageId} (h : u.commitsAlone p) (hrun : u.esc.running = true) (target : Word) :
    ((u.mvcCommit p target).page p).body = (u.goPage true { u.page p with commitFrame := target }).body := by
  rw [mvcCommit_of h hrun]
  refine (updPage_body_self _ p _).trans ?_
  exact Page.of_body (f := fun pg => (u.goPage true pg).body) (fun _ => rfl) (updPage_body_self u p _)

theorem uncommitted_mvcCommit {u : State} {p : PageId} (h : u.commitsAlone p) (hrun : u.esc.running = true) (target : Word) :
    PagesAgree Page.uncommitted u (u.mvcCommit p target) := by
  rw [mvcCommit_of h hrun]
  exact (PagesAgree.updPage u p).trans (PagesAgree.updPage _ p)

theorem onlyPage_mvcCommit {u : State} {p : PageId} (h : u.commitsAlone p) (hrun : u.esc.running = true) (target : Word) :
    OnlyPage p u (u.mvcCommit p target) := by
  rw [mvcCommit_of h hrun]
  exact (OnlyPage.updPage u p _).trans (OnlyPage.updPage _ p _)

/-- The commit's page is being checked (R105). -/
theorem checking_mvcCommit {u : State} {p : PageId} (h : u.commitsAlone p) (hrun : u.esc.running = true) (target : Word) :
    Checking u (u.mvcCommit p target) p target :=
  have hbody := mvcCommit_page h hrun target
  ⟨Page.field Page.cmt hbody rfl, Page.field (·.commit.want) hbody rfl, Page.field (·.commit.arrive) hbody rfl⟩

/-- What the commits of a list of pages leave. -/
def State.mvcCommits (s : State) (target : Word) (ps : List PageId) : State := ps.foldl (fun s p => s.mvcCommit p target) s

/-- Each of the pages may be committed by itself, and no two are one. -/
structure State.commitsEach (s : State) (ps : List PageId) : Prop where
  alone : ∀ p ∈ ps, s.commitsAlone p
  apart : ps.Pairwise fun p q => p.num ≠ q.num
  running : s.esc.running = true

theorem State.commitsEach.tail {s : State} {p : PageId} {ps : List PageId} (h : s.commitsEach (p :: ps)) (target : Word) :
    (s.mvcCommit p target).commitsEach ps := by
  obtain ⟨halone, hapart, hrun⟩ := h
  obtain ⟨hp, hps⟩ := List.pairwise_cons.mp hapart
  have hpage := halone p List.mem_cons_self
  have hkept := State.mvcCommit_kept (Within.self _) (Kept.refl _ s) p target
  have hun := uncommitted_mvcCommit hpage hrun target
  have hfs : (s.mvcCommit p target).fsNew = s.fsNew := fsNew_of_shd (hkept.part .esc (by decide))
    (Page.uncommittedField (fun pg => pg.shdReg .esc 0x050) (hun .esc))
  have hctl : (s.mvcCommit p target).ctlRouter = s.ctlRouter := by
    rw [mvcCommit_of hpage hrun]
    rfl
  refine ⟨fun q hq => ?_, hps, (congrArg Esc.running (hkept.part .esc (by decide))).trans hrun⟩
  have hother := onlyPage_mvcCommit hpage hrun target q (hp q hq).symm
  exact (halone q (List.mem_cons_of_mem _ hq)).of_agree (Page.field Page.expert hother rfl) (Page.field Page.pendingCmt hother rfl) hctl hfs

theorem uncommitted_mvcCommits {s : State} {ps : List PageId} (h : s.commitsEach ps) (target : Word) :
    PagesAgree Page.uncommitted s (s.mvcCommits target ps) := by
  induction ps generalizing s with
  | nil => exact PagesAgree.refl _ s
  | cons p ps ih => exact (uncommitted_mvcCommit (h.alone p List.mem_cons_self) h.running target).trans (ih (h.tail target))

theorem mvcCommits_other {s : State} {ps : List PageId} (h : s.commitsEach ps) (target : Word) {q : PageId} (hq : ∀ p ∈ ps, q.num ≠ p.num) :
    ((s.mvcCommits target ps).page q).body = (s.page q).body := by
  induction ps generalizing s with
  | nil => rfl
  | cons p ps ih =>
    exact (ih (h.tail target) fun x hx => hq x (List.mem_cons_of_mem _ hx)).trans
      (onlyPage_mvcCommit (h.alone p List.mem_cons_self) h.running target q (hq p List.mem_cons_self))

theorem checking_mvcCommits {s : State} {ps : List PageId} (h : s.commitsEach ps) (target : Word) :
    ∀ p ∈ ps, Checking s (s.mvcCommits target ps) p target := by
  induction ps generalizing s with
  | nil => exact fun p hp => absurd hp List.not_mem_nil
  | cons p ps ih =>
    have hpage := h.alone p List.mem_cons_self
    have hesc : (s.mvcCommit p target).esc = s.esc := (State.mvcCommit_kept (Within.self _) (Kept.refl _ s) p target).part .esc (by decide)
    intro q hq
    rcases List.mem_cons.mp hq with rfl | hq
    · have hrest := mvcCommits_other (h.tail target) target fun x hx => (List.pairwise_cons.mp h.apart).1 x hx
      obtain ⟨hcmt, hwant, harrive⟩ := checking_mvcCommit hpage h.running target
      exact ⟨Page.field Page.cmt hrest hcmt, Page.field (·.commit.want) hrest hwant, Page.field (·.commit.arrive) hrest harrive⟩
    · obtain ⟨hcmt, hwant, harrive⟩ := ih (h.tail target) q hq
      exact ⟨hcmt, hwant, harrive.trans (congrArg Esc.frame hesc)⟩

theorem mvcCommits_kept_self (s : State) (target : Word) (ps : List PageId) : Kept 0x20000260 s (s.mvcCommits target ps) :=
  Kept.foldl (f := fun s p => s.mvcCommit p target) (fun _ _ h => State.mvcCommit_kept (Within.self _) h _ _) (Kept.refl _ s) ps

end Sys2Proof.Machine
end

section
/-! Commands that commit registers (R425, R467, R614, R663, R700, R801): the shadows written, the pages committed once each, and the mailbox that awaits them. -/
namespace Sys2Proof.Machine

/-! ### One command -/

/-- The pages of a command that Movement commits, and what it writes: each page commits alone, no page or register is named twice, and only
those pages are written. -/
structure State.Committable (s : State) (pages : List PageId) (ws : List ShdWrite) : Prop where
  kind : ∀ p ∈ pages, p.commitKind ≠ 0
  notEsc : ∀ p ∈ pages, p ≠ .esc
  control : ∀ p ∈ pages, ∀ n, p = .trt n → n = s.ctlRouter
  apart : pages.Pairwise fun p q => p.num ≠ q.num
  writes : ApartWrites ws
  named : ∀ w ∈ ws, w.1 ∈ pages

theorem basic_of_pagesOpen {s : State} {pages : List PageId} (h : s.pagesOpen pages) {p : PageId} (hp : p ∈ pages) : (s.page p).expert = false := by
  have hany := h.2.1
  unfold State.anyExpert at hany
  simpa using List.any_eq_false.mp hany p hp

theorem idle_of_pagesOpen {s : State} {pages : List PageId} (h : s.pagesOpen pages) {p : PageId} (hp : p ∈ pages) :
    (s.page p).mvcActive = false ∧ (s.page p).pendingCmt = false := by
  have hany := h.2.2
  unfold State.pagesBusy at hany
  simpa using List.any_eq_false.mp hany p hp

theorem awaits_mbRun (u : State) (m : Nat) (pages : List PageId) (chans : List Nat) : Awaits (u.mbRun m (pages.map PageId.num) chans) m pages := by
  unfold Awaits State.mbRun
  rw [mbx_updMbx]
  exact ⟨rfl, rfl, rfl⟩

theorem page_mbRun (u : State) (m : Nat) (await chans : List Nat) (p : PageId) : (u.mbRun m await chans).page p = u.page p := by
  have hpages : (u.mbRun m await chans).pages = u.pages := (State.updMbx_kept (Within.self _) (Kept.refl _ u) m _).part .pages (by decide)
  unfold State.page
  rw [hpages]

theorem ctlRouter_of_rtrs {s t : State} (h : t.rtrs = s.rtrs) : t.ctlRouter = s.ctlRouter := by
  unfold State.ctlRouter State.routerDead State.rtr
  rw [h]

theorem commitsEach_mvcWrites {s : State} {pages : List PageId} {ws : List ShdWrite} (hc : s.Committable pages ws) (ho : s.pagesOpen pages) :
    (s.mvcWrites ws).commitsEach pages := by
  have hbasic : ∀ w ∈ ws, (s.page w.1).expert = false := fun w hw => basic_of_pagesOpen ho (hc.named w hw)
  have hun := unwritten_mvcWrites hbasic
  have hkept := mvcWrites_kept_self s ws
  have hctl : (s.mvcWrites ws).ctlRouter = s.ctlRouter := ctlRouter_of_rtrs (hkept.part .rtrs (by decide))
  refine ⟨fun p hp => ⟨hc.kind p hp, ?_, ?_, ?_, .inl (hc.notEsc p hp)⟩, hc.apart, (congrArg Esc.running (hkept.part .esc (by decide))).trans ho.1⟩
  · exact (Page.unwrittenField Page.expert (hun p)).trans (basic_of_pagesOpen ho hp)
  · exact (Page.unwrittenField Page.pendingCmt (hun p)).trans (idle_of_pagesOpen ho hp).2
  · rw [hctl]
    exact hc.control p hp

theorem commits_mbRun {s : State} {pages : List PageId} {ws : List ShdWrite} (hc : s.Committable pages ws) (ho : s.pagesOpen pages) (m : Nat)
    (target : Word) : Commits s m pages target ws (((s.mvcWrites ws).mvcCommits target pages).mbRun m (pages.map PageId.num) []) := by
  have hbasic : ∀ w ∈ ws, (s.page w.1).expert = false := fun w hw => basic_of_pagesOpen ho (hc.named w hw)
  have heach := commitsEach_mvcWrites hc ho
  have hun := uncommitted_mvcCommits heach target
  have hesc : (s.mvcWrites ws).esc.frame = s.esc.frame := congrArg Esc.frame ((mvcWrites_kept_self s ws).part .esc (by decide))
  refine ⟨awaits_mbRun _ m pages [], fun w hw => ?_, fun p hp => ?_, fun p o => ?_⟩
  · unfold State.shd
    rw [page_mbRun]
    exact (Page.uncommittedField (fun pg => pg.shdReg w.1 w.2.1) (hun w.1)).trans (shd_mvcWrites hbasic hc.writes w hw)
  · obtain ⟨hcmt, hwant, harrive⟩ := checking_mvcCommits heach target p hp
    unfold Checking
    rw [page_mbRun]
    exact ⟨hcmt, hwant, harrive.trans hesc⟩
  · unfold State.reg
    rw [page_mbRun]
    exact (Page.uncommittedField (fun pg => pg.actReg p o) (hun p)).trans (Page.unwrittenField (fun pg => pg.actReg p o) (unwritten_mvcWrites hbasic p))

/-! ### The pages of the writes -/

/-- The pages that a list of writes names, each once, after those given. -/
def pagesOnto (l : List PageId) (ws : List ShdWrite) : List PageId :=
  ws.foldl (fun (l : List PageId) w => if l.contains w.1 then l else l ++ [w.1]) l

theorem pagesOnto_append (l : List PageId) (ws vs : List ShdWrite) : pagesOnto l (ws ++ vs) = pagesOnto (pagesOnto l ws) vs :=
  List.foldl_append

theorem pagesOnto_of_mem {l : List PageId} {ws : List ShdWrite} (h : ∀ w ∈ ws, w.1 ∈ l) : pagesOnto l ws = l := by
  induction ws with
  | nil => rfl
  | cons w ws ih =>
    have hw : l.contains w.1 = true := by simpa using h w List.mem_cons_self
    refine Eq.trans ?_ (ih fun x hx => h x (List.mem_cons_of_mem _ hx))
    unfold pagesOnto
    rw [List.foldl_cons, if_pos hw]

theorem pagesOnto_cons {l : List PageId} {w : ShdWrite} (h : w.1 ∉ l) (ws : List ShdWrite) : pagesOnto l (w :: ws) = pagesOnto (l ++ [w.1]) ws := by
  unfold pagesOnto
  rw [List.foldl_cons, if_neg (by simpa using h)]

/-- Writes of one page. -/
theorem pagesOnto_same {l : List PageId} {p : PageId} {ws : List ShdWrite} (hp : p ∉ l) (hne : ws ≠ []) (h : ∀ w ∈ ws, w.1 = p) :
    pagesOnto l ws = l ++ [p] := by
  cases ws with
  | nil => exact absurd rfl hne
  | cons w ws =>
    have hw : w.1 = p := h w List.mem_cons_self
    rw [pagesOnto_cons (hw ▸ hp), hw]
    exact pagesOnto_of_mem fun x hx => by simp [h x (List.mem_cons_of_mem _ hx)]

theorem pagesOnto_flatMap {ds : Nat → List PageId} {ws : Nat → List ShdWrite} (h : ∀ (l : List PageId) c, (l ++ ds c).Nodup → pagesOnto l (ws c) = l ++ ds c)
    (cs : List Nat) (l : List PageId) (hn : (l ++ cs.flatMap ds).Nodup) : pagesOnto l (cs.flatMap ws) = l ++ cs.flatMap ds := by
  induction cs generalizing l with
  | nil => exact (List.append_nil l).symm
  | cons c cs ih =>
    rw [List.flatMap_cons, ← List.append_assoc] at hn
    rw [List.flatMap_cons, List.flatMap_cons, pagesOnto_append, h l c (List.nodup_append.mp hn).1, ih _ hn, List.append_assoc]

theorem nodup_of_nums {pages : List PageId} (h : pages.Pairwise fun p q => p.num ≠ q.num) : pages.Nodup :=
  h.imp fun hne heq => hne (congrArg PageId.num heq)

/-! ### Registers of channels (R138) -/

theorem maskChans_nodup (w : Nat) : (maskChans w).Nodup := List.nodup_range.filter _

theorem maskChans_lt {w c : Nat} (h : c ∈ maskChans w) : c < 17 := List.mem_range.mp (List.mem_of_mem_filter h)

theorem mbCommit_of {s : State} {pages : List PageId} {ws : List ShdWrite} (hp : pagesOnto [] ws = pages) (hne : pages ≠ []) (ho : s.pagesOpen pages)
    (m : Nat) (target : Word) :
    s.mbCommit m pages ws target = ((s.mvcWrites ws).mvcCommits target pages).mbRun m (pages.map PageId.num) [] := by
  obtain ⟨-, hbasic, hidle⟩ := ho
  unfold State.mbCommit
  rw [if_neg (by simp [hbasic]), if_neg (by simp [hidle]), if_neg hne, ← hp]
  rfl

/-- What the writes of a command do to the pages that it names. -/
theorem commits_mbCommit {s : State} {pages : List PageId} {ws : List ShdWrite} (hp : pagesOnto [] ws = pages) (hne : pages ≠ [])
    (hc : s.Committable pages ws) (ho : s.pagesOpen pages) (m : Nat) (target : Word) : Commits s m pages target ws (s.mbCommit m pages ws target) := by
  rw [mbCommit_of hp hne ho]
  exact commits_mbRun hc ho m target

/-- What a command asks of each channel: the pages that it writes there, and its writes. -/
structure ChanWrites (ds : Nat → List PageId) (ws : Nat → List ShdWrite) : Prop where
  kind : ∀ c, ∀ p ∈ ds c, p.commitKind = 1
  some : ∀ c, ds c ≠ []
  apart : ∀ c, (ds c).Pairwise fun p q => p.num ≠ q.num
  apartChans : ∀ c d, c < 17 → d < 17 → c ≠ d → ∀ p ∈ ds c, ∀ q ∈ ds d, p.num ≠ q.num
  pages : ∀ (l : List PageId) c, (l ++ ds c).Nodup → pagesOnto l (ws c) = l ++ ds c
  named : ∀ c, ∀ w ∈ ws c, w.1 ∈ ds c
  writes : ∀ c, ApartWrites (ws c)

namespace ChanWrites
variable {ds : Nat → List PageId} {ws : Nat → List ShdWrite} (h : ChanWrites ds ws) (mask : Nat)
include h

theorem apart_flatMap : ((maskChans mask).flatMap ds).Pairwise fun p q => p.num ≠ q.num :=
  List.pairwise_flatMap.mpr ⟨fun c _ => h.apart c, (maskChans_nodup mask).imp_of_mem fun ha hb hne =>
    h.apartChans _ _ (maskChans_lt ha) (maskChans_lt hb) hne⟩

theorem pagesOnto_eq : pagesOnto [] ((maskChans mask).flatMap ws) = (maskChans mask).flatMap ds :=
  pagesOnto_flatMap h.pages _ [] (nodup_of_nums (h.apart_flatMap mask))

theorem committable (s : State) : s.Committable ((maskChans mask).flatMap ds) ((maskChans mask).flatMap ws) := by
  have hkind : ∀ p ∈ (maskChans mask).flatMap ds, p.commitKind = 1 := fun p hp => by
    obtain ⟨c, -, hp⟩ := List.mem_flatMap.mp hp
    exact h.kind c p hp
  refine ⟨fun p hp => by rw [hkind p hp]; decide, ?_, ?_, h.apart_flatMap mask, ?_, fun w hw => ?_⟩
  · rintro p hp rfl
    exact absurd (hkind _ hp) (by decide)
  · rintro p hp n rfl
    exact absurd (hkind _ hp) (by intro hn; exact nomatch hn)
  · refine List.pairwise_flatMap.mpr ⟨fun c _ => h.writes c, (maskChans_nodup mask).imp_of_mem fun ha hb hne v hv w hw => .inl ?_⟩
    exact h.apartChans _ _ (maskChans_lt ha) (maskChans_lt hb) hne _ (h.named _ v hv) _ (h.named _ w hw)
  · obtain ⟨c, hc, hw⟩ := List.mem_flatMap.mp hw
    exact List.mem_flatMap.mpr ⟨c, hc, h.named c w hw⟩

/-- A command on the channels of MB_ARG0. -/
theorem commits_mbChans {s : State} {m : Nat} {x : Mbx} (hbad : badMask (x.arg 0) = false) (hcs : maskChans (x.arg 0).toNat ≠ [])
    (ho : s.pagesOpen ((maskChans (x.arg 0).toNat).flatMap ds)) (target : Word) :
    Commits s m ((maskChans (x.arg 0).toNat).flatMap ds) target ((maskChans (x.arg 0).toNat).flatMap ws) (s.mbChans m x target ws) := by
  have hne : (maskChans (x.arg 0).toNat).flatMap ds ≠ [] := by
    obtain ⟨c, cs, hc⟩ := List.exists_cons_of_ne_nil hcs
    rw [hc, List.flatMap_cons]
    exact List.append_ne_nil_of_left_ne_nil (h.some c) _
  have hpages := h.pagesOnto_eq (x.arg 0).toNat
  unfold State.mbChans
  rw [if_neg (by simp [hbad])]
  dsimp only
  rw [show ((maskChans (x.arg 0).toNat).flatMap ws).foldl (fun (l : List PageId) w => if l.contains w.1 then l else l ++ [w.1]) [] =
    (maskChans (x.arg 0).toNat).flatMap ds from hpages]
  exact commits_mbCommit hpages hne (h.committable _ s) ho m target

end ChanWrites

/-- A command that writes one page of each channel. -/
theorem ChanWrites.commits_pages {pg : Nat → PageId} {ws : Nat → List ShdWrite} (h : ChanWrites (fun c => [pg c]) ws) {s : State} {m : Nat} {x : Mbx}
    (hbad : badMask (x.arg 0) = false) (hcs : maskChans (x.arg 0).toNat ≠ []) (ho : s.pagesOpen ((maskChans (x.arg 0).toNat).map pg)) (target : Word) :
    Commits s m ((maskChans (x.arg 0).toNat).map pg) target ((maskChans (x.arg 0).toNat).flatMap ws) (s.mbChans m x target ws) := by
  rw [List.map_eq_flatMap] at ho ⊢
  exact h.commits_mbChans hbad hcs ho target

theorem chanWrites_page {pg : Nat → PageId} {ws : Nat → List ShdWrite} (hkind : ∀ c, (pg c).commitKind = 1) (hnum : ∀ c d, c ≠ d → (pg c).num ≠ (pg d).num)
    (hsome : ∀ c, ws c ≠ []) (hnamed : ∀ c, ∀ w ∈ ws c, w.1 = pg c) (hoffs : ∀ c, (ws c).Pairwise fun a b => a.2.1 ≠ b.2.1) :
    ChanWrites (fun c => [pg c]) ws where
  kind c p hp := by rw [List.mem_singleton.mp hp, hkind]
  some c := List.cons_ne_nil _ _
  apart c := List.pairwise_singleton _ _
  apartChans c d _ _ hne p hp q hq := by rw [List.mem_singleton.mp hp, List.mem_singleton.mp hq]; exact hnum c d hne
  pages l c hn := pagesOnto_same (fun hp => (List.nodup_append.mp hn).2.2 _ hp _ List.mem_cons_self rfl) (hsome c) (hnamed c)
  named c w hw := by rw [hnamed c w hw]; exact List.mem_cons_self
  writes c := (hoffs c).imp_of_mem fun ha hb hne => .inr ⟨(hnamed c _ ha).trans (hnamed c _ hb).symm, hne⟩

/-! ### The commands (R336, R425, R467, R614, R663, R700, R801) -/

theorem exec_refreshSet (s : State) : exec .refreshSet s = .next s.mbRefreshSet := rfl
theorem exec_arbSet (s : State) : exec .arbSet s = .next s.mbArbSet := rfl
theorem exec_calSet (s : State) : exec .calSet s = .next s.mbCalSet := rfl
theorem exec_scrubSet (s : State) : exec .scrubSet s = .next s.mbScrubSet := rfl
theorem exec_burlSet (s : State) : exec .burlSet s = .next s.mbBurlSet := rfl
theorem exec_heatSet (s : State) : exec .heatSet s = .next s.mbHeatSet := rfl
theorem exec_latheSetPool (s : State) : exec .latheSetPool s = .next s.mbLthPool := rfl
theorem exec_latheSetEngine (s : State) : exec .latheSetEngine s = .next s.mbLthEngine := rfl

theorem num_cc_ne {c d : Nat} (h : c ≠ d) : (PageId.cc c).num ≠ (PageId.cc d).num := by
  simp only [PageId.num, ne_eq]
  omega

theorem num_bal_ne {c d : Nat} (h : c ≠ d) : (PageId.bal c).num ≠ (PageId.bal d).num := by
  simp only [PageId.num, ne_eq]
  omega

theorem num_brl_ne {c d : Nat} (h : c ≠ d) : (PageId.brl c).num ≠ (PageId.brl d).num := by
  simp only [PageId.num, ne_eq]
  omega

/-- One register of each channel. -/
theorem chanWrites_register {pg : Nat → PageId} (hkind : ∀ c, (pg c).commitKind = 1) (hnum : ∀ c d, c ≠ d → (pg c).num ≠ (pg d).num) (off : Nat)
    (v : Word) : ChanWrites (fun c => [pg c]) fun c => [(pg c, off, v)] :=
  chanWrites_page hkind hnum (fun c => List.cons_ne_nil _ _) (fun c w hw => by rw [List.mem_singleton.mp hw]) fun c => List.pairwise_singleton _ _

theorem commits_register {pg : Nat → PageId} (hkind : ∀ c, (pg c).commitKind = 1) (hnum : ∀ c d, c ≠ d → (pg c).num ≠ (pg d).num) {s : State}
    {m : Nat} {x : Mbx} (hbad : badMask (x.arg 0) = false) (hcs : maskChans (x.arg 0).toNat ≠ []) (ho : s.pagesOpen ((maskChans (x.arg 0).toNat).map pg))
    (off : Nat) (v target : Word) :
    Commits s m ((maskChans (x.arg 0).toNat).map pg) target ((maskChans (x.arg 0).toNat).map fun c => (pg c, off, v))
      (s.mbChans m x target fun c => [(pg c, off, v)]) := by
  have hcommits := (chanWrites_register hkind hnum off v).commits_pages (m := m) hbad hcs ho target
  rwa [← List.map_eq_flatMap] at hcommits

theorem chanWrites_refresh (v : Word) (w : Nat → Word) : ChanWrites (fun c => [.cc c]) fun c => [(.cc c, 0x054, v), (.cc c, 0x050, w c)] := by
  refine chanWrites_page (fun c => rfl) (fun c d => num_cc_ne) (fun c => List.cons_ne_nil _ _) (fun c x hx => ?_) fun c => ?_
  · simp only [List.mem_cons, List.not_mem_nil, or_false] at hx
    rcases hx with rfl | rfl <;> rfl
  · exact List.pairwise_pair.mpr (show 0x054 ≠ 0x050 by decide)

/-- The requesters' registers that ARB_SET writes on a channel (R467). -/
def arbThresholds (mask t : Word) (c : Nat) : List ShdWrite :=
  ((List.range 20).filter fun i => flag mask i).map fun i => (.cc c, 0x100 + 4 * i, t)

theorem arbThresholds_eq (mask : Word) (t : Word) (c : Nat) :
    ((List.range 20).filterMap fun i => if flag mask i then some (PageId.cc c, 0x100 + 4 * i, t) else none) = arbThresholds mask t c := by
  unfold arbThresholds
  induction List.range 20 with
  | nil => rfl
  | cons i l ih =>
    rw [List.filterMap_cons, List.filter_cons]
    split <;> simp_all

theorem chanWrites_arb (v mask t : Word) : ChanWrites (fun c => [.cc c]) fun c => (.cc c, 0x060, v) :: arbThresholds mask t c := by
  have hmem : ∀ {c : Nat} {w : ShdWrite}, w ∈ arbThresholds mask t c → w.1 = .cc c ∧ 0x100 ≤ w.2.1 := fun {c w} hw => by
    obtain ⟨i, -, rfl⟩ := List.mem_map.mp hw
    exact ⟨rfl, Nat.le_add_right _ _⟩
  refine chanWrites_page (fun c => rfl) (fun c d => num_cc_ne) (fun c => List.cons_ne_nil _ _) (fun c w hw => ?_) fun c =>
    List.pairwise_cons.mpr ⟨fun w hw => ?_, ?_⟩
  · rcases List.mem_cons.mp hw with rfl | hw
    · rfl
    · exact (hmem hw).1
  · have hle := (hmem hw).2
    change 0x060 ≠ w.2.1
    omega
  · refine List.pairwise_map.mpr ((List.nodup_range.filter _).imp fun {i j} hne => ?_)
    change 0x100 + 4 * i ≠ 0x100 + 4 * j
    omega

theorem chanWrites_scrub (v w : Word) : ChanWrites (fun c => [.cc c, .elog c]) fun c => [(.cc c, 0x068, v), (.elog c, 0x040, w)] where
  kind c p hp := by
    simp only [List.mem_cons, List.not_mem_nil, or_false] at hp
    rcases hp with rfl | rfl <;> rfl
  some c := List.cons_ne_nil _ _
  apart c := List.pairwise_pair.mpr (by simp only [PageId.num, ne_eq]; omega)
  apartChans c d hc hd hne p hp q hq := by
    simp only [List.mem_cons, List.not_mem_nil, or_false] at hp hq
    rcases hp with rfl | rfl <;> rcases hq with rfl | rfl <;> (simp only [PageId.num, ne_eq]; omega)
  pages l c hn := by
    obtain ⟨-, -, hnot⟩ := List.nodup_append.mp hn
    have hcc : PageId.cc c ∉ l := fun hm => hnot _ hm _ List.mem_cons_self rfl
    have helog : PageId.elog c ∉ l ++ [.cc c] := fun hm => by
      rcases List.mem_append.mp hm with hm | hm
      · exact hnot _ hm _ (List.mem_cons_of_mem _ List.mem_cons_self) rfl
      · exact nomatch List.mem_singleton.mp hm
    rw [pagesOnto_cons hcc, pagesOnto_cons helog, List.append_assoc]
    rfl
  named c w hw := by
    simp only [List.mem_cons, List.not_mem_nil, or_false] at hw
    rcases hw with rfl | rfl <;> simp
  writes c := List.pairwise_pair.mpr (.inl (by simp only [PageId.num, ne_eq]; omega))

theorem mbArbSet_of {s : State} {m : Nat} (h : s.mbOf 0x40 = some m) (hbad : badMask ((s.mbx m).arg 0) = false)
    (hhigh : (s.mbx m).argF 2 20 12 = 0) (hthr : (s.mbx m).argF 2 0 20 = 0 ∨ (s.mbx m).argF 3 0 16 ≠ 0) :
    s.mbArbSet = s.mbChans m (s.mbx m) ((s.mbx m).arg 4) fun c =>
      (.cc c, 0x060, (s.mbx m).arg 1) :: arbThresholds ((s.mbx m).arg 2) (BitVec.ofNat 32 ((s.mbx m).argF 3 0 16)) c := by
  unfold State.mbArbSet
  rw [mbTake_of h]
  dsimp only
  rw [if_neg (by simp [hbad]), if_neg (by simp [hhigh]), if_neg (by tauto)]
  simp only [arbThresholds_eq]

/-- Movement writes and commits a page of its own. -/
theorem commits_onePage {s : State} {p : PageId} {ws : List ShdWrite} (hkind : p.commitKind = 1) (hne : ws ≠ []) (hnamed : ∀ w ∈ ws, w.1 = p)
    (hoffs : ws.Pairwise fun a b => a.2.1 ≠ b.2.1) (ho : s.pagesOpen [p]) (m : Nat) (target : Word) :
    Commits s m [p] target ws (s.mbCommit m [p] ws target) := by
  refine commits_mbCommit (pagesOnto_same List.not_mem_nil hne hnamed) (List.cons_ne_nil _ _) ⟨?_, ?_, ?_, List.pairwise_singleton _ _, ?_, ?_⟩ ho m target
  · intro q hq
    rw [List.mem_singleton.mp hq, hkind]
    decide
  · rintro q hq rfl
    rw [← List.mem_singleton.mp hq] at hkind
    exact absurd hkind (by decide)
  · rintro q hq n rfl
    rw [← List.mem_singleton.mp hq] at hkind
    exact absurd hkind (by intro hn; exact nomatch hn)
  · exact hoffs.imp_of_mem fun ha hb hne => .inr ⟨(hnamed _ ha).trans (hnamed _ hb).symm, hne⟩
  · intro w hw
    rw [hnamed w hw]
    exact List.mem_cons_self

theorem mbLathe_of {s : State} {m f : Nat} (h : s.mbOf 0x90 = some m) (hf : (s.mbx m).argF 0 0 2 = f) (g : Nat → Mbx → State) :
    s.mbLathe f g = g m (s.mbx m) := by
  unfold State.mbLathe
  rw [mbTake_of h]
  exact if_pos hf

/-- Settles O33. -/
theorem registerCommandsCommitTheirPages : Obligations.RegisterCommandsCommitTheirPages := by
  intro s m
  refine ⟨fun hbad hcs => ⟨fun hm ho => ?_, fun hm hhigh hthr ho => ?_, fun hm ho => ?_, fun hm ho => ?_, fun hm ho => ?_, fun hm ho => ?_⟩,
    fun hm hf ho => ?_, fun hm hf e he harg ho => ?_⟩
  · refine ⟨_, exec_refreshSet s, ?_⟩
    unfold State.mbRefreshSet
    rw [mbTake_of hm]
    exact (chanWrites_refresh _ _).commits_pages hbad hcs ho 0
  · refine ⟨_, exec_arbSet s, ?_⟩
    rw [mbArbSet_of hm hbad hhigh hthr]
    exact (chanWrites_arb _ _ _).commits_pages hbad hcs ho _
  · refine ⟨_, exec_calSet s, ?_⟩
    unfold State.mbCalSet
    rw [mbTake_of hm]
    exact commits_register (fun c => rfl) (fun c d => num_bal_ne) hbad hcs ho _ _ _
  · refine ⟨_, exec_scrubSet s, ?_⟩
    unfold State.mbScrubSet
    rw [mbTake_of hm]
    exact (chanWrites_scrub _ _).commits_mbChans hbad hcs ho _
  · refine ⟨_, exec_burlSet s, ?_⟩
    unfold State.mbBurlSet
    rw [mbTake_of hm]
    exact commits_register (fun c => rfl) (fun c d => num_brl_ne) hbad hcs ho _ _ _
  · refine ⟨_, exec_heatSet s, ?_⟩
    unfold State.mbHeatSet
    rw [mbTake_of hm]
    exact commits_register (fun c => rfl) (fun c d => num_brl_ne) hbad hcs ho _ _ _
  · refine ⟨_, exec_latheSetPool s, ?_⟩
    unfold State.mbLthPool
    rw [mbLathe_of hm hf]
    exact commits_onePage rfl (List.cons_ne_nil _ _) (by simp) (by simp) ho m _
  · have hlow : (s.mbx m).argF 1 0 1 = e := by
      unfold Mbx.argF fld bits
      rw [harg]
      omega
    refine ⟨_, exec_latheSetEngine s, ?_⟩
    unfold State.mbLthEngine
    rw [mbLathe_of hm hf, if_neg (by omega), hlow]
    exact commits_onePage rfl (List.cons_ne_nil _ _) (by simp) (by simp) ho m _

end Sys2Proof.Machine
end

section
/-! MAP_SET of a map in use (R880): its first step is staged for a tick to come, which the task records. -/
namespace Sys2Proof.Machine

/-- A running block whose channels 0 and 1 hold modules, the second the reserve, with port 15 open and page 0 of the map on channel 0. -/
def inUse : State :=
  let up : State := { State.reset with
    locked := true, bclk := 1000, phase := 9, bin := .rdimm5600, esc := { running := true, tickBclk := 900 }, mvc := { running := true } }
  let mapped := [(4, 13), (7, 14), (8, 15), (9, 16), (10, 17), (11, 18)].foldl (fun s x => s.setReg .map (0x100 + 8 * x.1) (BitVec.ofNat 32 (2 ^ x.2)))
    ((up.setReg .map 0x400 (pack [(0, 4, 7), (4, 5, 16)])).setReg .map 0x0C0 0x100001)
  let held := (mapped.updChan 0 fun ch => { ch with role := 0, prsnt := true, powered := true, resetN := false, calState := 3, filled := true, spd := some {} }).updChan
    1 fun ch => { ch with role := 16, calState := 3, resetN := false, powered := true, prsnt := true, spd := some {} }
  ((held.updPage (.gw 15) fun pg => { pg with en := true, enReq := true }).updPage (.gwAdm 15) fun pg => { pg with en := true, enReq := true }).updGw 15 fun w =>
    { w with alive := true, link := .up, rspHdr := 9, rspData := 9 }

/-- Its map with masks 4 and 7 exchanged. -/
def exchanged (o : Nat) : Word := if o = 0x120 then 2 ^ 14 else if o = 0x138 then 2 ^ 13 else inUse.reg .map o

/-- The bytes of that map. -/
def exchangedBytes : List Nat := (List.range 244).flatMap fun i => bytesOf (exchanged (0x040 + 4 * i))

/-- MAP_SET of it, from a buffer at 2^24. -/
def rehashGiven : State :=
  let args := [(0, 2 ^ 24), (2, 976)].foldl (fun (t : Tbl Word) (a : Nat × Nat) => Tbl.set (fun _ => 0) t a.1 (BitVec.ofNat 32 a.2)) []
  let given := inUse.updMbx 0 fun x => { x with go := true, busy := true, cmd := 0x10, seq := 7, args := args }
  match given.writeBytes 80 (2 ^ 24) exchangedBytes with | .inr t => t | .inl _ => given

/-- The map's image as the command finds it. -/
def exchangedImg (o : Nat) : Word := (wordsOf exchangedBytes).getD ((o - 0x040) / 4) 0

/-- The shadow of the map page as the command writes it. -/
def rehashWritten : State := PageId.map.rsOffs.foldl (fun s o => s.mvcWrite .map o (exchangedImg o)) rehashGiven

/-- What MAP_SET looks at before it writes the shadow. -/
theorem rehashGiven_facts :
    (rehashGiven.mbOf 0x10 = some 0 ∧ ((rehashGiven.mbx 0).arg 2).toNat = 976 ∧ rehashGiven.map.kind = 0 ∧
      rehashGiven.readBytes ((rehashGiven.mbx 0).addr 0) 976 = .inr exchangedBytes) ∧
    (rehashGiven.esc.running = true ∧ rehashGiven.anyExpert [.map] = false ∧ rehashGiven.pagesBusy [.map] = false) ∧
    (rehashGiven.traffic = true ∧ rehashGiven.mapDiff exchangedImg = [0x120, 0x138] ∧
      ([0x120, 0x138].all fun o => (rehashGiven.rehashSet o).isSome) = true ∧ rehashGiven.chanOfRole 16 = some 1 ∧
      rehashGiven.rehashLchs [0x120, 0x138] = [0]) ∧
    rehashGiven.anyExpert (rehashGiven.rehashPages 1 [0]) = false ∧ rehashGiven.pagesBusy (rehashGiven.rehashPages 1 [0]) = false ∧
    rehashGiven.atWork = false := by decide +kernel

theorem rehashWritten_facts : rehashWritten.mapFails rehashWritten.mapShd = none ∧ rehashWritten.chanOfRole 16 = some 1 ∧
    rehashWritten.rehashLchs [0x120, 0x138] = [0] := by decide +kernel

theorem exec_mapSet (s : State) : exec .mapSet s = .next s.mbMapSet := rfl

/-- The first step of a rehash is for a tick to come (R127). -/
theorem task_rehashStart {s : State} (m : Nat) {diff : List Nat} {d l : Nat} {rest : List Nat} (hpass : s.mapFails s.mapShd = none)
    (hres : s.chanOfRole 16 = some d) (hsteps : s.rehashLchs diff = l :: rest) : (s.rehashStart m diff).task.at_ ≠ 0 := by
  unfold State.rehashStart
  rw [hpass, hres, hsteps]
  exact Nat.ne_of_gt (Nat.lt_of_lt_of_le (Nat.succ_pos _) (Nat.le_add_right _ _))

theorem mbMapSet_moves : rehashGiven.mbMapSet = rehashWritten.rehashStart 0 [0x120, 0x138] := by
  obtain ⟨⟨hturn, hlen, hkind, hbytes⟩, ⟨-, hbasic, hidle⟩, ⟨htraffic, hdiff, hsets, hres, hlchs⟩, hbasics, hidles, hwork⟩ := rehashGiven_facts
  have hmoves : rehashGiven.traffic = true ∧ [0x120, 0x138] ≠ [] ∧ ([0x120, 0x138].all fun o => (rehashGiven.rehashSet o).isSome) = true :=
    ⟨htraffic, List.cons_ne_nil _ _, hsets⟩
  unfold State.mbMapSet
  rw [mbTake_of hturn]
  dsimp only
  rw [hlen, if_neg (by decide), if_neg (by decide), hbytes]
  dsimp only
  rw [if_neg (by simp [hbasic]), if_neg (by simp [hidle, hkind])]
  rw [show (rehashGiven.mapDiff fun o => (wordsOf exchangedBytes).getD ((o - 0x040) / 4) 0) = [0x120, 0x138] from hdiff, if_pos hmoves, hlchs, hres]
  dsimp only
  rw [if_neg (by simp [hbasics]), if_neg (by simp [hwork]), if_neg (by simp [hidles])]
  rfl

/-- Refutes O34: a MAP_SET that moves the data of a map in use stages the first step for the next tick whose latch point is still to come,
and the statement gives the task no such frame. In `rehashGiven` the first step is for frame 1 or later. -/
theorem not_setCommandsCommitTheirPages : ¬ Obligations.SetCommandsCommitTheirPages := by
  unfold Obligations.SetCommandsCommitTheirPages
  intro h
  obtain ⟨⟨hturn, hlen, hkind, hbytes⟩, hopen, ⟨htraffic, hdiff, hsets, hres, hlchs⟩, hbasics, hidles, hwork⟩ := rehashGiven_facts
  obtain ⟨hpass, hres', hsteps⟩ := rehashWritten_facts
  obtain ⟨-, hmap, -⟩ := h rehashGiven 0
  have himg : (fun o => (wordsOf exchangedBytes).getD ((o - 0x040) / 4) 0) = exchangedImg := rfl
  obtain ⟨-, hmoves⟩ := hmap hturn hkind hlen _ hbytes hopen
  dsimp only at hmoves
  rw [himg, hdiff, hlchs] at hmoves
  obtain ⟨hfirst, -⟩ := hmoves (by rw [htraffic, hsets]; rfl) 1 hres hbasics hidles hwork
  obtain ⟨t, hexec, -, -, -, htask⟩ := hfirst 0 [] hpass rfl
  obtain rfl : rehashGiven.mbMapSet = t := Host.Outcome.next.inj ((exec_mapSet rehashGiven).symm.trans hexec)
  rw [mbMapSet_moves] at htask
  exact task_rehashStart 0 hpass hres' hsteps (congrArg Task.at_ htask)

end Sys2Proof.Machine
end

section
/-! TRAIN (R561, R562): the channels whose runs are asked for, and how the mailbox awaits them. -/
namespace Sys2Proof.Machine

/-! ### A running command's first look at what it awaits (R137) -/

theorem running_of_mbOf {s : State} {code m : Nat} (h : s.mbOf code = some m) : s.mvc.running = true := by
  unfold State.mbOf State.mbFront at h
  by_cases hr : s.mvc.running = true
  · exact hr
  · rw [if_pos (.inl (by simpa using hr))] at h
    exact nomatch h

theorem cmd_of_mbOf {s : State} {code m : Nat} (h : s.mbOf code = some m) : (s.mbx m).cmd = code := by
  unfold State.mbOf at h
  split at h
  · split at h
    · next hc => exact Option.some.inj h ▸ hc
    · exact nomatch h
  · exact nomatch h

theorem mbPages_of_none {s : State} {m : Nat} (h : (s.mbx m).await = []) : s.mbPages m = s := by
  unfold State.mbPages
  dsimp only
  rw [h]
  rfl

/-- A command that awaits no commit is finished if it can be (R137). -/
theorem mbPoll1_of_none {s : State} {m : Nat} (hrun : (s.mbx m).running = true) (hmvc : s.mvc.running = true) (h : (s.mbx m).await = []) :
    s.mbPoll1 m = s.mbFinish m := by
  unfold State.mbPoll1
  dsimp only
  rw [if_neg (by simp [hrun, hmvc]), mbPages_of_none h, if_pos h]

/-- A command that awaits channels, with the pages refused (R137). -/
def State.mbAwaitChans (s : State) (m : Nat) (chans refused : List Nat) : State :=
  (s.mbRun m [] chans).updMbx m fun y => { y with refused := refused }

theorem mbx_mbAwaitChans (s : State) (m : Nat) (chans refused : List Nat) : (s.mbAwaitChans m chans refused).mbx m =
    { s.mbx m with go := false, running := true, await := [], refused := refused, chans := chans, eff := 0 } := by
  unfold State.mbAwaitChans State.mbRun
  rw [mbx_updMbx, mbx_updMbx]

theorem mbAwaitChans_kept_self (s : State) (m : Nat) (chans refused : List Nat) : Kept 0x40 s (s.mbAwaitChans m chans refused) :=
  State.updMbx_kept (Within.self _) (State.updMbx_kept (Within.self _) (Kept.refl _ s) m _) m _

/-! ### The runs that are asked for -/

/-- What TRAIN does to one channel (R561). -/
def State.trainChan (s : State) (mode : Nat) (noJwl : Bool) (c : Nat) : State :=
  (if (s.chan c).powered then s.enable (.cal c) else s.stageSupply c true).calRequest c mode 2 noJwl

theorem chans_enable (s : State) (p : PageId) : (s.enable p).chans = s.chans := (State.enable_kept (Within.self _) (Kept.refl _ s) p).part .chans (by decide)

/-- The tick for which Movement stages what it changes now is the same. -/
theorem soonFrame_congr {s t : State} (hframe : t.esc.frame = s.esc.frame) (hlatch : t.pastLatch = s.pastLatch) : t.soonFrame = s.soonFrame := by
  unfold State.soonFrame
  rw [hframe, hlatch]

theorem soonFrame_overrun (s : State) (kind unit : Nat) : (s.overrun kind unit).soonFrame = s.soonFrame := by
  unfold State.overrun
  split <;> rfl

theorem soonFrame_enable (s : State) (p : PageId) : (s.enable p).soonFrame = s.soonFrame := by
  unfold State.enable
  split
  · rfl
  split
  · rfl
  split
  · exact soonFrame_overrun s _ _
  · rfl

theorem soonFrame_of_parts {s t : State} (hesc : t.esc = s.esc) (hbclk : t.bclk = s.bclk) (hbin : t.bin = s.bin) : t.soonFrame = s.soonFrame := by
  unfold State.soonFrame State.pastLatch State.latchBclk State.k
  rw [hesc, hbclk, hbin]

theorem soonFrame_trainChan (s : State) (mode : Nat) (noJwl : Bool) (c : Nat) : (s.trainChan mode noJwl c).soonFrame = s.soonFrame := by
  have hcal : ∀ u : State, (u.calRequest c mode 2 noJwl).soonFrame = u.soonFrame := fun u =>
    have hkept := State.calRequest_kept (Within.self _) (Kept.refl _ u) c mode 2 noJwl
    soonFrame_of_parts (hkept.part .esc (by decide)) (hkept.part .bclk (by decide)) (hkept.part .bin (by decide))
  refine (hcal _).trans ?_
  split
  · exact soonFrame_enable s (.cal c)
  · rfl

/-- The channel as TRAIN leaves it (R561). -/
def Chan.asked (ch : Chan) (soon : Nat) : Chan :=
  { ch with calState := 1, calSeen := 1, supNext := if ch.powered then ch.supNext else some (true, soon) }

/-- Its calibration block. -/
def Cal.asked (x : Cal) (kind owner : Nat) (noJwl : Bool) : Cal := { x with kind := kind, owner := owner, noJwl := noJwl, fell := false }

/-- The kind of run that a channel is given: a fast restore only where the Jewel serves it (R541, R561). -/
def State.trainKind (s : State) (mode c : Nat) : Nat := if mode = 2 ∧ (s.jwlServes c).isNone then 1 else mode

theorem chan_calRequest (s : State) (c kind owner : Nat) (noJwl : Bool) (d : Nat) :
    (s.calRequest c kind owner noJwl).chan d = if d = c then { s.chan c with calState := 1, calSeen := 1 } else s.chan d :=
  State.chan_upd _ c d _

theorem cal_calRequest (s : State) (c kind owner : Nat) (noJwl : Bool) (d : Nat) :
    (s.calRequest c kind owner noJwl).cal d = if d = c then (s.cal c).asked (s.trainKind kind c) owner noJwl else s.cal d :=
  State.cal_upd s c d fun x => x.asked (s.trainKind kind c) owner noJwl

theorem chan_trainChan (s : State) (mode : Nat) (noJwl : Bool) (c d : Nat) :
    (s.trainChan mode noJwl c).chan d = if d = c then (s.chan c).asked s.soonFrame else s.chan d := by
  unfold State.trainChan
  rw [chan_calRequest]
  unfold Chan.asked
  by_cases hp : (s.chan c).powered = true
  · rw [if_pos hp, if_pos hp, chan_of_chans (chans_enable s (.cal c)) c, chan_of_chans (chans_enable s (.cal c)) d]
  · rw [if_neg hp, if_neg hp]
    unfold State.stageSupply
    rw [State.chan_upd_self]
    by_cases hd : d = c
    · rw [if_pos hd, if_pos hd]
    · rw [if_neg hd, if_neg hd, State.chan_upd_ne s hd]

/-- What tells whether the Jewel serves a channel. -/
theorem jwlServes_congr {s t : State} {c : Nat} (hjwl : t.jwl = s.jwl) (hspd : (t.chan c).spd = (s.chan c).spd) (hcfg : t.startCfg = s.startCfg)
    (hbin : t.bin = s.bin) : t.jwlServes c = s.jwlServes c := by
  unfold State.jwlServes State.jwlRecord State.jwlForce State.jwlCopy
  rw [hjwl, hspd, hcfg, hbin]

/-- What asking for a run leaves alone of the records and of the supplies' frame. -/
structure TrainKeeps (s t : State) : Prop where
  soon : t.soonFrame = s.soonFrame
  serves : ∀ d, t.jwlServes d = s.jwlServes d
  mbx : ∀ m, t.mbx m = s.mbx m
  mvc : t.mvc.running = s.mvc.running

theorem TrainKeeps.refl (s : State) : TrainKeeps s s := ⟨rfl, fun _ => rfl, fun _ => rfl, rfl⟩

theorem TrainKeeps.trans {s t u : State} (h : TrainKeeps s t) (k : TrainKeeps t u) : TrainKeeps s u :=
  ⟨k.soon.trans h.soon, fun d => (k.serves d).trans (h.serves d), fun m => (k.mbx m).trans (h.mbx m), k.mvc.trans h.mvc⟩

theorem mvc_enable (s : State) (p : PageId) : (s.enable p).mvc.running = s.mvc.running := by
  unfold State.enable State.overrun State.standoff
  split
  · rfl
  split
  · rfl
  split
  · split <;> rfl
  · rfl

theorem trainChan_kept_self (s : State) (mode : Nat) (noJwl : Bool) (c : Nat) : Kept 0x20400430 s (s.trainChan mode noJwl c) := by
  unfold State.trainChan
  refine State.calRequest_kept ((Within.self _).of (by decide)) ?_ _ _ _ _
  split
  · exact State.enable_kept ((Within.self _).of (by decide)) (Kept.refl _ s) _
  · exact State.stageSupply_kept ((Within.self _).of (by decide)) (Kept.refl _ s) _ _

theorem mvc_calRequest (s : State) (c kind owner : Nat) (noJwl : Bool) : (s.calRequest c kind owner noJwl).mvc = s.mvc :=
  (State.calRequest_kept (Within.self _) (Kept.refl _ s) c kind owner noJwl).part .mvc (by decide)

theorem mvc_trainChan (s : State) (mode : Nat) (noJwl : Bool) (c : Nat) : (s.trainChan mode noJwl c).mvc.running = s.mvc.running := by
  unfold State.trainChan
  rw [mvc_calRequest]
  split
  · exact mvc_enable s (.cal c)
  · rfl

theorem trainKeeps_trainChan (s : State) (mode : Nat) (noJwl : Bool) (c : Nat) : TrainKeeps s (s.trainChan mode noJwl c) := by
  have hk := trainChan_kept_self s mode noJwl c
  refine ⟨soonFrame_trainChan s mode noJwl c, fun d => jwlServes_congr (hk.part .jwl (by decide)) ?_ (congrArg Prod.snd (hk.part .plat (by decide)))
    (hk.part .bin (by decide)), mbx_of_blk_eq (hk.part .blk (by decide)), mvc_trainChan s mode noJwl c⟩
  rw [chan_trainChan]
  split
  · next hd => rw [hd]; rfl
  · rfl

theorem trainKind_congr {s t : State} (mode : Nat) {c : Nat} (h : t.jwlServes c = s.jwlServes c) : t.trainKind mode c = s.trainKind mode c := by
  unfold State.trainKind
  rw [h]

theorem cal_trainChan (s : State) (mode : Nat) (noJwl : Bool) (c d : Nat) :
    (s.trainChan mode noJwl c).cal d = if d = c then (s.cal c).asked (s.trainKind mode c) 2 noJwl else s.cal d := by
  unfold State.trainChan
  rw [cal_calRequest]
  by_cases hp : (s.chan c).powered = true
  · have hk := State.enable_kept (Within.self _) (Kept.refl _ s) (.cal c)
    have hcal : ∀ e, (s.enable (.cal c)).cal e = s.cal e := fun e => by
      unfold State.cal
      rw [show (s.enable (.cal c)).cals = s.cals from hk.part .cals (by decide)]
    have hserves : (s.enable (.cal c)).jwlServes c = s.jwlServes c :=
      jwlServes_congr (hk.part .jwl (by decide)) (by rw [chan_of_chans (chans_enable s _)]) (congrArg Prod.snd (hk.part .plat (by decide)))
        (hk.part .bin (by decide))
    rw [if_pos hp, hcal, hcal, trainKind_congr mode hserves]
  · have hserves : (s.stageSupply c true).jwlServes c = s.jwlServes c :=
      jwlServes_congr rfl (by unfold State.stageSupply; rw [State.chan_upd_self]) rfl rfl
    rw [if_neg hp, trainKind_congr mode hserves]
    rfl

theorem onlyPage_enable (s : State) (p : PageId) : OnlyPage p s (s.enable p) := by
  unfold State.enable
  split
  · exact OnlyPage.refl p s
  split
  · exact OnlyPage.of_pages rfl
  split
  · refine OnlyPage.of_pages ?_
    unfold State.overrun
    split <;> rfl
  · exact OnlyPage.updPage s p _

theorem onlyPage_trainChan (s : State) (mode : Nat) (noJwl : Bool) (c : Nat) : OnlyPage (.cal c) s (s.trainChan mode noJwl c) := by
  unfold State.trainChan
  split
  · exact (onlyPage_enable s (.cal c)).trans (OnlyPage.of_pages rfl)
  · exact OnlyPage.of_pages rfl

theorem enReq_enable {s : State} {p : PageId} (hexp : (s.page p).expert = false) (hby : (s.page p).enBy ≠ 2) : ((s.enable p).page p).enReq = true := by
  unfold State.enable
  by_cases hreq : (s.page p).enReq = true
  · rw [if_pos hreq]
    exact hreq
  · rw [if_neg hreq, if_neg (by simp [hexp]), if_neg hby]
    exact Page.field Page.enReq (updPage_body_self s p _) rfl

theorem enReq_trainChan {s : State} {c : Nat} (hpow : (s.chan c).powered = true) (hexp : (s.page (.cal c)).expert = false)
    (hby : (s.page (.cal c)).enBy ≠ 2) (mode : Nat) (noJwl : Bool) : ((s.trainChan mode noJwl c).page (.cal c)).enReq = true := by
  unfold State.trainChan
  rw [if_pos hpow]
  exact enReq_enable hexp hby

theorem num_cal_ne {c d : Nat} (h : c ≠ d) : (PageId.cal c).num ≠ (PageId.cal d).num := by
  simp only [PageId.num, ne_eq]
  omega

/-- What TRAIN does to the channels of a list. -/
def State.trainChans (s : State) (mode : Nat) (noJwl : Bool) (cs : List Nat) : State := cs.foldl (fun s c => s.trainChan mode noJwl c) s

theorem trainKeeps_trainChans (s : State) (mode : Nat) (noJwl : Bool) (cs : List Nat) : TrainKeeps s (s.trainChans mode noJwl cs) := by
  induction cs generalizing s with
  | nil => exact TrainKeeps.refl s
  | cons c cs ih => exact (trainKeeps_trainChan s mode noJwl c).trans (ih _)

theorem trainChans_other (s : State) (mode : Nat) (noJwl : Bool) {cs : List Nat} {d : Nat} (h : d ∉ cs) :
    (s.trainChans mode noJwl cs).chan d = s.chan d ∧ (s.trainChans mode noJwl cs).cal d = s.cal d ∧
      ((s.trainChans mode noJwl cs).page (.cal d)).body = (s.page (.cal d)).body := by
  induction cs generalizing s with
  | nil => exact ⟨rfl, rfl, rfl⟩
  | cons c cs ih =>
    obtain ⟨hne, hcs⟩ := not_or.mp fun ho => h (List.mem_cons.mpr ho)
    obtain ⟨hchan, hcal, hpage⟩ := ih (s.trainChan mode noJwl c) hcs
    refine ⟨hchan.trans ?_, hcal.trans ?_, hpage.trans (onlyPage_trainChan s mode noJwl c _ (num_cal_ne hne))⟩
    · rw [chan_trainChan, if_neg hne]
    · rw [cal_trainChan, if_neg hne]

/-- A channel that TRAIN has asked a run of (R127, R561). -/
structure TrainAsked (s t : State) (mode : Nat) (noJwl : Bool) (c : Nat) : Prop where
  chan : t.chan c = (s.chan c).asked s.soonFrame
  cal : t.cal c = (s.cal c).asked (s.trainKind mode c) 2 noJwl
  page : (s.chan c).powered = true → (s.page (.cal c)).expert = false → (s.page (.cal c)).enBy ≠ 2 → (t.page (.cal c)).enReq = true

theorem trainAsked_trainChans {s : State} (mode : Nat) (noJwl : Bool) {cs : List Nat} (h : cs.Nodup) :
    ∀ c ∈ cs, TrainAsked s (s.trainChans mode noJwl cs) mode noJwl c := by
  induction cs generalizing s with
  | nil => exact fun c hc => absurd hc List.not_mem_nil
  | cons a cs ih =>
    obtain ⟨hnot, hrest⟩ := List.nodup_cons.mp h
    intro c hc
    rcases List.mem_cons.mp hc with rfl | hc
    · obtain ⟨hchan, hcal, hpage⟩ := trainChans_other (s.trainChan mode noJwl c) mode noJwl hnot
      refine ⟨hchan.trans (by rw [chan_trainChan, if_pos rfl]), hcal.trans (by rw [cal_trainChan, if_pos rfl]), fun hp he hb => ?_⟩
      exact Page.field Page.enReq hpage (enReq_trainChan hp he hb mode noJwl)
    · have hne : c ≠ a := fun heq => hnot (heq ▸ hc)
      obtain ⟨hchan, hcal, hpage⟩ := ih (s := s.trainChan mode noJwl a) hrest c hc
      have hkeeps := trainKeeps_trainChan s mode noJwl a
      have hbody := onlyPage_trainChan s mode noJwl a (.cal c) (num_cal_ne hne)
      rw [chan_trainChan, if_neg hne, hkeeps.soon] at hchan
      rw [cal_trainChan, if_neg hne, trainKind_congr mode (hkeeps.serves c)] at hcal
      rw [chan_trainChan, if_neg hne] at hpage
      exact ⟨hchan, hcal, fun hp he hb => hpage hp (Page.field Page.expert hbody he) (by rw [Page.field Page.enBy hbody rfl]; exact hb)⟩

/-! ### The command -/

theorem exec_train (s : State) : exec .train s = .next s.mbTrain := rfl

/-- The channels that TRAIN refuses for their state, those that it refuses for their level, and those whose runs it asks for (R562). -/
def State.trainBad (s : State) (all : List Nat) : List Nat := all.filter s.trainRefused
def State.trainLvl (s : State) (all : List Nat) : List Nat := all.filter fun c => !(s.trainBad all).contains c && s.trainLevel c
def State.trainGo (s : State) (all : List Nat) : List Nat := all.filter fun c => !(s.trainBad all).contains c && !(s.trainLvl all).contains c

/-- The pages by which the refused channels are remembered. -/
def State.trainRefs (s : State) (all : List Nat) : List Nat :=
  (s.trainBad all).map (fun c => PageId.num (.cc c)) ++ (s.trainLvl all).map fun c => PageId.num (.cal c)

/-- The channels as TRAIN leaves them, and the mailbox that awaits them. -/
def State.trainAwaits (s : State) (m mode : Nat) (noJwl : Bool) (all : List Nat) : State :=
  (s.trainChans mode noJwl (s.trainGo all)).mbAwaitChans m (s.trainGo all) (s.trainRefs all)

theorem mbTrain_of {s : State} {m : Nat} (h : s.mbOf 0x50 = some m) (hbad : badMask ((s.mbx m).arg 0) = false)
    (hall : maskChans ((s.mbx m).arg 0).toNat ≠ []) (hmode : (s.mbx m).argF 1 0 2 = 1 ∨ (s.mbx m).argF 1 0 2 = 2) (hrest : (s.mbx m).argF 2 1 31 = 0)
    (hidle : s.pagesBusy ((s.trainGo (maskChans ((s.mbx m).arg 0).toNat)).map .cal) = false) :
    s.mbTrain = (s.trainAwaits m ((s.mbx m).argF 1 0 2) (flag ((s.mbx m).arg 2) 0) (maskChans ((s.mbx m).arg 0).toNat)).mbPoll1 m := by
  unfold State.trainGo State.trainLvl State.trainBad at hidle
  unfold State.mbTrain
  rw [mbTake_of h]
  dsimp only
  rw [if_neg (by simp [hbad]), if_neg hall, if_neg (by omega), if_neg (by simp [hrest]), if_neg (by rw [hidle]; exact Bool.false_ne_true)]
  rfl

theorem mbFinish_train {u : State} {m : Nat} (hcmd : (u.mbx m).cmd = 0x50) (hbusy : ∃ c ∈ (u.mbx m).chans, (u.chan c).calState = 1) : u.mbFinish m = u := by
  obtain ⟨c, hc, hone⟩ := hbusy
  unfold State.mbFinish
  dsimp only
  rw [hcmd]
  refine if_neg fun hall => ?_
  have hdone := List.all_eq_true.mp hall c hc
  simp [hone] at hdone

/-- TRAIN with no run to ask for ends at once (R561, R562). -/
theorem mbFinish_train_none {u : State} {m : Nat} (hcmd : (u.mbx m).cmd = 0x50) (hchans : (u.mbx m).chans = []) :
    u.mbFinish m = u.mbDone m (if pageChans (u.mbx m).refused = [] then 0 else
      if ((u.mbx m).refused.all fun n => match pageOf n with | some (.cal _) => true | _ => false) then 8 else 0x0C) 0
      [(0, 0), (1, 0), (2, chanMask (pageChans (u.mbx m).refused))] := by
  unfold State.mbFinish
  dsimp only
  rw [hcmd, hchans]
  rfl

theorem pageOf_cc : ∀ c, c < 17 → pageOf (PageId.num (.cc c)) = some (.cc c) := by decide

theorem pageOf_cal : ∀ c, c < 17 → pageOf (PageId.num (.cal c)) = some (.cal c) := by decide

theorem pageChans_cc {l : List Nat} (h : ∀ c ∈ l, c < 17) : pageChans (l.map fun c => PageId.num (.cc c)) = l := by
  unfold pageChans
  rw [List.filterMap_map]
  refine (List.filterMap_congr fun c hc => ?_).trans List.filterMap_some
  change (pageOf (PageId.num (.cc c))).bind _ = _
  rw [pageOf_cc c (h c hc)]
  rfl

theorem pageChans_cal {l : List Nat} (h : ∀ c ∈ l, c < 17) : pageChans (l.map fun c => PageId.num (.cal c)) = l := by
  unfold pageChans
  rw [List.filterMap_map]
  refine (List.filterMap_congr fun c hc => ?_).trans List.filterMap_some
  change (pageOf (PageId.num (.cal c))).bind _ = _
  rw [pageOf_cal c (h c hc)]
  rfl

section
variable (s : State) {all : List Nat} (hall : ∀ c ∈ all, c < 17)
include hall

theorem pageChans_trainRefs : pageChans (s.trainRefs all) = s.trainBad all ++ s.trainLvl all := by
  have hbad : ∀ c ∈ s.trainBad all, c < 17 := fun c hc => hall c (List.mem_of_mem_filter hc)
  have hlvl : ∀ c ∈ s.trainLvl all, c < 17 := fun c hc => hall c (List.mem_of_mem_filter hc)
  have happend : pageChans (s.trainRefs all) = pageChans ((s.trainBad all).map fun c => PageId.num (.cc c)) ++
      pageChans ((s.trainLvl all).map fun c => PageId.num (.cal c)) := List.filterMap_append
  rw [happend, pageChans_cc hbad, pageChans_cal hlvl]

/-- Only channels refused for their state are remembered by their CC pages. -/
theorem trainRefs_cal : ((s.trainRefs all).all fun n => match pageOf n with | some (.cal _) => true | _ => false) = decide (s.trainBad all = []) := by
  have hlvl : ((s.trainLvl all).map fun c => PageId.num (.cal c)).all (fun n => match pageOf n with | some (.cal _) => true | _ => false) = true := by
    refine List.all_eq_true.mpr fun n hn => ?_
    obtain ⟨c, hc, rfl⟩ := List.mem_map.mp hn
    rw [pageOf_cal c (hall c (List.mem_of_mem_filter hc))]
  unfold State.trainRefs
  rw [List.all_append, hlvl, Bool.and_true]
  cases hbad : s.trainBad all with
  | nil => rfl
  | cons c l =>
    have hc : c < 17 := hall c (List.mem_of_mem_filter (hbad ▸ List.mem_cons_self : c ∈ s.trainBad all))
    rw [List.map_cons, List.all_cons, pageOf_cc c hc]
    rfl

end

/-- Where no run is asked for, a channel is refused (R562). -/
theorem trainBad_append_ne_nil {s : State} {all : List Nat} (hall : all ≠ []) (hgo : s.trainGo all = []) : s.trainBad all ++ s.trainLvl all ≠ [] := by
  obtain ⟨c, cs, hcs⟩ := List.exists_cons_of_ne_nil hall
  have hc : c ∈ all := hcs ▸ List.mem_cons_self
  intro hnil
  obtain ⟨hbad, hlvl⟩ := List.append_eq_nil_iff.mp hnil
  have hno := List.filter_eq_nil_iff.mp hgo c hc
  simp [hbad, hlvl] at hno

theorem supplyTick_on {v : State} {c f : Nat} (hnext : (v.chan c).supNext = some (true, f)) (hdue : f ≤ v.esc.frame) :
    (v.supplyTick c).chan c = { v.chan c with powered := true, svcReady := false, resetN := false, supNext := none } := by
  unfold State.supplyTick
  rw [hnext]
  dsimp only
  rw [if_neg (Nat.not_lt.mpr hdue), if_pos rfl]
  unfold State.supplyOn
  have hchans : ∀ (l : List PageId) (u : State), (l.foldl (fun s p => s.enable p) u).chans = u.chans := fun l u =>
    foldl_keeps (fun s => s.chans) (fun s p => chans_enable s p) l u
  rw [chan_of_chans (hchans _ _) c, State.chan_upd_self, State.chan_upd_self]

theorem train_asks {s : State} {m : Nat} (h : s.mbOf 0x50 = some m) {mode : Nat} (hmode : mode = 1 ∨ mode = 2) (noJwl : Bool) {all : List Nat}
    (hnodup : all.Nodup) (hgo : s.trainGo all ≠ []) :
    let t := (s.trainAwaits m mode noJwl all).mbPoll1 m
    (t.mbx m).running = true ∧ (t.mbx m).chans = s.trainGo all ∧ (t.mbx m).refused = s.trainRefs all ∧ ∀ c ∈ s.trainGo all,
      (t.chan c).calState = 1 ∧ (t.chan c).powered = (s.chan c).powered ∧
      (t.chan c).supNext = (if (s.chan c).powered = true then (s.chan c).supNext else some (true, s.soonFrame)) ∧
      ((s.chan c).powered = true → (s.page (.cal c)).enBy ≠ 2 → (t.page (.cal c)).enReq = true) ∧
      (t.cal c).owner = 2 ∧ (t.cal c).noJwl = noJwl ∧ (t.cal c).kind = if mode = 2 ∧ (s.jwlServes c).isSome = true then 2 else 1 := by
  have hkeeps := trainKeeps_trainChans s mode noJwl (s.trainGo all)
  have hkept := mbAwaitChans_kept_self (s.trainChans mode noJwl (s.trainGo all)) m (s.trainGo all) (s.trainRefs all)
  have hmbx : (s.trainAwaits m mode noJwl all).mbx m =
      { s.mbx m with go := false, running := true, await := [], refused := s.trainRefs all, chans := s.trainGo all, eff := 0 } := by
    unfold State.trainAwaits
    rw [mbx_mbAwaitChans, hkeeps.mbx]
  have hmvc : (s.trainAwaits m mode noJwl all).mvc.running = true :=
    (congrArg Mvc.running (hkept.part .mvc (by decide))).trans (hkeeps.mvc.trans (running_of_mbOf h))
  have hchan : ∀ c, (s.trainAwaits m mode noJwl all).chan c = (s.trainChans mode noJwl (s.trainGo all)).chan c :=
    chan_of_chans (hkept.part .chans (by decide))
  have hcal : ∀ c, (s.trainAwaits m mode noJwl all).cal c = (s.trainChans mode noJwl (s.trainGo all)).cal c := fun c => by
    unfold State.cal
    rw [show (s.trainAwaits m mode noJwl all).cals = (s.trainChans mode noJwl (s.trainGo all)).cals from hkept.part .cals (by decide)]
  have hpage : ∀ p, (s.trainAwaits m mode noJwl all).page p = (s.trainChans mode noJwl (s.trainGo all)).page p := fun p => by
    unfold State.page
    rw [show (s.trainAwaits m mode noJwl all).pages = (s.trainChans mode noJwl (s.trainGo all)).pages from hkept.part .pages (by decide)]
  have hasked := trainAsked_trainChans (s := s) mode noJwl (cs := s.trainGo all) (hnodup.filter _)
  have hbusy : ∃ c ∈ ((s.trainAwaits m mode noJwl all).mbx m).chans, ((s.trainAwaits m mode noJwl all).chan c).calState = 1 := by
    obtain ⟨c, cs, hcs⟩ := List.exists_cons_of_ne_nil hgo
    have hc : c ∈ s.trainGo all := hcs ▸ List.mem_cons_self
    refine ⟨c, by rw [hmbx]; exact hc, ?_⟩
    rw [hchan, (hasked c hc).chan]
    rfl
  have hpoll : (s.trainAwaits m mode noJwl all).mbPoll1 m = s.trainAwaits m mode noJwl all :=
    (mbPoll1_of_none (by rw [hmbx]) hmvc (by rw [hmbx])).trans
      (mbFinish_train (by rw [hmbx]; exact cmd_of_mbOf h) hbusy)
  intro t
  rw [show t = s.trainAwaits m mode noJwl all from hpoll, hmbx]
  refine ⟨rfl, rfl, rfl, fun c hc => ?_⟩
  obtain ⟨hch, hca, hpg⟩ := hasked c hc
  obtain ⟨-, hlevel⟩ := List.mem_filter.mp hc
  have hexp : (s.page (.cal c)).expert = false := by
    by_cases he : (s.page (.cal c)).expert = true
    · have hall := List.mem_of_mem_filter hc
      simp only [Bool.and_eq_true, Bool.not_eq_true', List.contains_eq_mem, decide_eq_false_iff_not] at hlevel
      refine absurd (List.mem_filter.mpr ⟨hall, ?_⟩) hlevel.2
      simp [hlevel.1, State.trainLevel, he]
    · simpa using he
  rw [hchan, hch, hcal, hca, hpage]
  refine ⟨rfl, rfl, rfl, fun hp hb => hpg hp hexp hb, rfl, rfl, ?_⟩
  change s.trainKind mode c = _
  unfold State.trainKind
  rcases hmode with rfl | rfl
  · simp
  · cases s.jwlServes c <;> simp

theorem train_ends {s : State} {m : Nat} (h : s.mbOf 0x50 = some m) (mode : Nat) (noJwl : Bool) {all : List Nat} (hlt : ∀ c ∈ all, c < 17)
    (hall : all ≠ []) (hgo : s.trainGo all = []) :
    Ended s ((s.trainAwaits m mode noJwl all).mbPoll1 m) m (if s.trainBad all = [] then 8 else 0x0C) 0
      [(0, 0), (1, 0), (2, chanMask (s.trainBad all ++ s.trainLvl all))] := by
  have hawaits : s.trainAwaits m mode noJwl all = s.mbAwaitChans m [] (s.trainRefs all) := by
    unfold State.trainAwaits
    rw [hgo]
    rfl
  have hmbx := mbx_mbAwaitChans s m [] (s.trainRefs all)
  have hmvc : (s.mbAwaitChans m [] (s.trainRefs all)).mvc.running = true :=
    (congrArg Mvc.running ((mbAwaitChans_kept_self s m [] (s.trainRefs all)).part .mvc (by decide))).trans (running_of_mbOf h)
  have hend := mbFinish_train_none (u := s.mbAwaitChans m [] (s.trainRefs all)) (m := m) (by rw [hmbx]; exact cmd_of_mbOf h) (by rw [hmbx])
  have hrefs : ((s.mbAwaitChans m [] (s.trainRefs all)).mbx m).refused = s.trainRefs all := by rw [hmbx]
  rw [hrefs, pageChans_trainRefs s hlt, trainRefs_cal s hlt, if_neg (trainBad_append_ne_nil hall hgo)] at hend
  rw [hawaits, mbPoll1_of_none (by rw [hmbx]) hmvc (by rw [hmbx]), hend]
  refine ended_of_mbx (show [0, 1, 2].Nodup by decide) ?_
  rw [mbx_mbDone, hmbx]
  by_cases hb : s.trainBad all = [] <;> simp [hb] <;> rfl

/-- Settles O35. -/
theorem trainAsksForRuns : Obligations.TrainAsksForRuns := by
  refine ⟨fun s m h hbad hall hmode hrest hidle => ⟨fun hgo => ?_, fun hgo => ?_⟩, fun v c f hnext hdue => ?_⟩
  · refine ⟨_, exec_train s, ?_⟩
    rw [mbTrain_of h hbad hall hmode hrest hidle]
    exact train_asks h hmode _ (maskChans_nodup _) hgo
  · refine ⟨_, exec_train s, ?_⟩
    rw [mbTrain_of h hbad hall hmode hrest hidle]
    exact train_ends h _ _ (fun c hc => maskChans_lt hc) hall hgo
  · rw [supplyTick_on hnext hdue]
    exact ⟨rfl, rfl, rfl, rfl⟩

end Sys2Proof.Machine
end

section
/-! LATHE_SET ATTACH and DETACH (R767, R768, R801): a ring command that waits for its tick, what it does there, and the end of its mailbox's command. -/
namespace Sys2Proof.Machine

theorem exec_latheSetAttach (s : State) : exec .latheSetAttach s = .next s.mbLthAttach := rfl
theorem exec_latheSetDetach (s : State) : exec .latheSetDetach s = .next s.mbLthDetach := rfl

/-! ### The command is staged -/

/-- A ring command that Movement has staged (R40, R127). -/
structure RingStaged (s t : State) (m r cmd : Nat) : Prop where
  running : (t.mbx m).running = true
  go : (t.mbx m).go = false
  await : (t.mbx m).await = []
  pool : t.pool = { s.pool with next := some (m, r, cmd, s.soonFrame) }
  rings : t.rings = s.rings

theorem mbRun_kept_self (s : State) (m : Nat) (await chans : List Nat) : Kept 0x40 s (s.mbRun m await chans) :=
  State.updMbx_kept (Within.self _) (Kept.refl _ s) m _

theorem mbx_mbRun (u : State) (m : Nat) (await chans : List Nat) :
    (u.mbRun m await chans).mbx m = { u.mbx m with go := false, running := true, await := await, refused := [], chans := chans, eff := 0 } :=
  mbx_updMbx u m _

theorem ringStaged_stageRing {s u : State} (hpool : u.pool = s.pool) (hrings : u.rings = s.rings) (hsoon : u.soonFrame = s.soonFrame) (m r cmd : Nat) :
    RingStaged s (u.stageRing m r cmd) m r cmd := by
  have hkept := mbRun_kept_self u m [] []
  have hmbx : (u.stageRing m r cmd).mbx m = (u.mbRun m [] []).mbx m := rfl
  rw [mbx_mbRun] at hmbx
  refine ⟨by rw [hmbx], by rw [hmbx], by rw [hmbx], ?_, (show (u.mbRun m [] []).rings = u.rings from hkept.part .rings (by decide)).trans hrings⟩
  rw [← hsoon, ← hpool]
  rfl

theorem stageRing_same (u : State) (m r cmd : Nat) : (u.stageRing m r cmd).mem = u.mem ∧ (u.stageRing m r cmd).chans = u.chans := by
  have hkept := mbRun_kept_self u m [] []
  exact ⟨hkept.part .mem (by decide), hkept.part .chans (by decide)⟩

theorem mbLthDetach_of {s : State} {m : Nat} (h : s.mbOf 0x90 = some m) (hf : (s.mbx m).argF 0 0 2 = 2) (hlt : ((s.mbx m).arg 1).toNat < 2 ^ 18)
    (hbasic : s.anyExpert [.lthPool] = false) (hidle : s.pagesBusy [.lthPool] = false) (hpool : s.pool.busy = false) (hnext : s.pool.next = none) :
    s.mbLthDetach = s.stageRing m ((s.mbx m).arg 1).toNat 2 := by
  unfold State.mbLthDetach
  rw [mbLathe_of h hf]
  dsimp only
  rw [if_neg (by omega), if_neg (by simp [hbasic]), if_neg (by simp [hidle, hpool, hnext])]

/-- The context's image, written where the ring is OFF (R801). -/
def State.ctxWritten (s : State) (r : Nat) (b : List Nat) : State :=
  if (s.ring r).ctx.st = 0 then (match s.writeBytes 2 (s.ctxAddr r) b with | .inr t => t | .inl _ => s) else s

theorem mbLthAttach_of {s : State} {m : Nat} (h : s.mbOf 0x90 = some m) (hf : (s.mbx m).argF 0 0 2 = 1) (hlt : ((s.mbx m).arg 1).toNat < 2 ^ 18)
    (hbasic : s.anyExpert [.lthPool] = false) (hidle : s.pagesBusy [.lthPool] = false) (hpool : s.pool.busy = false) (hnext : s.pool.next = none)
    {b : List Nat} (hb : s.readBytes ((s.mbx m).addr 2) 64 = .inr b)
    (hown : (ctxOfLine (lineWith 0 0 b)).itag = 0 ∨ (s.insMay (ctxOfLine (lineWith 0 0 b)).itag = true ∧
      (s.rings.filter fun e => e.2.ctx.st != 0 && e.2.ctx.itag == (ctxOfLine (lineWith 0 0 b)).itag).length <
        (s.insOf (ctxOfLine (lineWith 0 0 b)).itag).quota)) :
    s.mbLthAttach = (s.ctxWritten ((s.mbx m).arg 1).toNat b).stageRing m ((s.mbx m).arg 1).toNat 1 := by
  unfold State.mbLthAttach
  rw [mbLathe_of h hf]
  refine (if_neg (show ¬262143 < ((s.mbx m).arg 1).toNat by omega)).trans ?_
  refine (if_neg (by simp [hbasic])).trans ?_
  refine (if_neg (by simp [hidle, hpool, hnext])).trans ?_
  rw [hb]
  refine (if_neg ?may).trans ?_
  case may =>
    rintro ⟨hne, hno⟩
    rcases hown with hzero | ⟨hmay, hquota⟩
    · exact hne hzero
    · rcases hno with hno | hno
      · rw [hmay] at hno
        exact Bool.false_ne_true hno
      · exact Nat.not_lt.mpr hno hquota
  unfold State.ctxWritten
  cases s.writeBytes 2 (s.ctxAddr ((s.mbx m).arg 1).toNat) b <;> rfl

theorem ctxWritten_of_off {s u : State} {r : Nat} {b : List Nat} (hst : (s.ring r).ctx.st = 0) (hu : s.writeBytes 2 (s.ctxAddr r) b = .inr u) :
    s.ctxWritten r b = u := by
  unfold State.ctxWritten
  rw [if_pos hst, hu]

theorem ctxWritten_of_attached {s : State} {r : Nat} {b : List Nat} (hst : (s.ring r).ctx.st ≠ 0) : s.ctxWritten r b = s := if_neg hst

/-! ### Its tick (R127, R767, R768) -/

/-- The block as the staged command leaves the pool page's queue. -/
def State.poolTaken (v : State) : State := { v with pool := { v.pool with next := none } }

theorem ringTick_of {v : State} {m r cmd f : Nat} (hnext : v.pool.next = some (m, r, cmd, f)) (hdue : f ≤ v.esc.frame) (hidle : v.pool.busy = false)
    (hrun : v.mvc.running = true) (hbasic : (v.page .lthPool).expert = false) : v.ringTick = v.poolTaken.ringCmd r cmd := by
  unfold State.ringTick
  rw [hnext]
  dsimp only
  rw [if_neg (by simp [hidle, hrun, Nat.not_lt.mpr hdue])]
  exact if_neg fun hexp => Bool.false_ne_true (hbasic.symm.trans hexp)

/-! ### The end of the mailbox's command (R801) -/

theorem mbFinish_ring {v : State} {m : Nat} (hcmd : (v.mbx m).cmd = 0x90) (hf : (v.mbx m).argF 0 0 2 = 1 ∨ (v.mbx m).argF 0 0 2 = 2)
    (hnext : v.pool.next = none) (hidle : v.pool.busy = false) :
    v.mbFinish m = if v.pool.result = 0 then v.mbDone m 0 0 [] else v.mbDone m 0x0C 0 [(1, v.pool.result)] := by
  unfold State.mbFinish
  dsimp only
  rw [hcmd]
  refine (if_pos hf).trans (if_neg ?_)
  simp [hnext, hidle]

/-- Settles O36. -/
theorem ringMailboxCommandsEnd : Obligations.RingMailboxCommandsEnd := by
  unfold Obligations.RingMailboxCommandsEnd
  refine ⟨?staged, ?tick, ?ends⟩
  case staged =>
    intro s m h x r hlt hbasic hidle hpool hnext Stages
    have hstages : ∀ {cmd : Nat} {t : State}, RingStaged s t m r cmd → Stages cmd t := fun hst => ⟨hst.running, hst.go, hst.await, hst.pool, hst.rings⟩
    refine ⟨?attach, fun hf => ?_⟩
    case attach =>
      intro hf b hb i hown
      refine ⟨fun u hst hu => ?_, fun hst => ?_⟩
      · have hkept := State.writeBytes_kept (Within.self _) 2 (Kept.refl _ s) _ _ hu
        refine ⟨_, exec_latheSetAttach s, ?_⟩
        rw [mbLthAttach_of h hf hlt hbasic hidle hpool hnext hb hown, ctxWritten_of_off hst hu]
        exact ⟨hstages (ringStaged_stageRing (hkept.part .pool (by decide)) (hkept.part .rings (by decide))
          (soonFrame_of_parts (hkept.part .esc (by decide)) (hkept.part .bclk (by decide)) (hkept.part .bin (by decide))) m r 1), stageRing_same u m r 1⟩
      · refine ⟨_, exec_latheSetAttach s, ?_⟩
        rw [mbLthAttach_of h hf hlt hbasic hidle hpool hnext hb hown, ctxWritten_of_attached hst]
        exact ⟨hstages (ringStaged_stageRing rfl rfl rfl m r 1), stageRing_same s m r 1⟩
    refine ⟨_, exec_latheSetDetach s, ?_⟩
    rw [mbLthDetach_of h hf hlt hbasic hidle hpool hnext]
    exact ⟨hstages (ringStaged_stageRing rfl rfl rfl m r 2), (stageRing_same s m r 2).1⟩
  case tick =>
    intro v m r cmd f hnext hdue hidle hrun hbasic u t
    have ht : t = u.ringCmd r cmd := ringTick_of hnext hdue hidle hrun hbasic
    refine ⟨fun l hcmd hsee hpass => ?_, fun hcmd hst => ?_, fun hcmd h1 h3 => ?_⟩
    · obtain ⟨hp, hring⟩ := ringCmd_attach_ends (k := u) hidle hsee hpass
      rw [ht, hcmd, hp, hring]
      exact ⟨rfl, rfl, rfl, rfl⟩
    · obtain ⟨hp, hring⟩ := ringCmd_detach_ends (k := u) hidle hst
      rw [ht, hcmd, hp, hring]
      exact ⟨rfl, rfl⟩
    · rw [ht, hcmd, ringCmd_detach_refused (k := u) hidle h1 h3]
      exact ⟨rfl, rfl⟩
  case ends =>
    intro v m hcmd hf hnext hidle
    rw [mbFinish_ring hcmd hf hnext hidle]
    split
    · exact ended_mbDone rfl 0
    · exact ended_mbDone rfl 0x0C (show [1].Nodup by decide)

end Sys2Proof.Machine
end

section
/-! The commands of instances (R826 to R831, R833, R843, R846, R849 to R851): what a command leaves to wait for its tick. -/
namespace Sys2Proof.Machine

theorem exec_insCreate (s : State) : exec .insCreate s = .next s.mbInsCreate := rfl
theorem exec_insDestroy (s : State) : exec .insDestroy s = .next s.mbInsDestroy := rfl
theorem exec_thaw (s : State) : exec .thaw s = .next s.mbThaw := rfl
theorem exec_restore (s : State) : exec .restore s = .next s.mbRestore := rfl
theorem exec_cntUserSet (s : State) : exec .cntUserSet s = .next s.mbCntUserSet := rfl
theorem exec_shareSet (s : State) : exec .shareSet s = .next s.mbShareSet := rfl

theorem insCommand_of_some {s : State} {code m : Nat} (h : s.mbOf code = some m) (kind : Nat) (f : State → State) : s.insCommand kind f code = f s := by
  unfold State.insCommand
  rw [h]
  rfl

theorem exec_insReset {s : State} {m : Nat} (h : s.mbOf 0xA2 = some m) : exec .insReset s = .next s.mbInsReset :=
  congrArg Host.Outcome.next (insCommand_of_some h 3 State.mbInsReset)

theorem exec_freeze {s : State} {m : Nat} (h : s.mbOf 0xA4 = some m) : exec .freeze s = .next s.mbFreeze :=
  congrArg Host.Outcome.next (insCommand_of_some h 4 State.mbFreeze)

theorem mbIns_of {s : State} {code m : Nat} (h : s.mbOf code = some m) {zero : Bool} (hi : (s.mbx m).argF 0 0 12 ≠ 0 ∨ zero = true)
    (go : Nat → Mbx → Nat → State) : s.mbIns code zero go = go m (s.mbx m) ((s.mbx m).argF 0 0 12) := by
  unfold State.mbIns
  rw [mbTake_of h]
  refine if_neg ?_
  rintro ⟨h0, hz⟩
  rcases hi with hi | hi
  · exact hi h0
  · simp [hi] at hz

/-! ### A command that waits -/

/-- An instance whose command waits for its tick (R827). -/
structure InsWaits (s t : State) (m i kind : Nat) : Prop where
  running : (t.mbx m).running = true
  go : (t.mbx m).go = false
  next : (t.insOf i).next = kind
  nextAt : (t.insOf i).nextAt = s.soonFrame
  mb : (t.insOf i).mb = some m
  st : (t.insOf i).st = (s.insOf i).st
  other : ∀ j, j ≠ i → t.insOf j = s.insOf j

theorem insOf_mbRun (s : State) (m : Nat) (await chans : List Nat) (i : Nat) : (s.mbRun m await chans).insOf i = s.insOf i :=
  insOf_of_ins ((mbRun_kept_self s m await chans).part .ins (by decide)) i

/-- A mailbox runs and an instance's fields are set. -/
theorem insWaits_updIns {s u : State} {m i kind : Nat} (hins : ∀ j, u.insOf j = s.insOf j) {f : Ins → Ins} (hnext : (f (s.insOf i)).next = kind)
    (hat : (f (s.insOf i)).nextAt = s.soonFrame) (hmb : (f (s.insOf i)).mb = some m) (hst : (f (s.insOf i)).st = (s.insOf i).st) :
    InsWaits s ((u.mbRun m [] []).updIns i f) m i kind := by
  have hmbx : ((u.mbRun m [] []).updIns i f).mbx m = (u.mbRun m [] []).mbx m := rfl
  rw [mbx_mbRun] at hmbx
  have hself : ((u.mbRun m [] []).updIns i f).insOf i = f (s.insOf i) := by
    rw [State.insOf_upd_self, insOf_mbRun, hins]
  refine ⟨by rw [hmbx], by rw [hmbx], by rw [hself, hnext], by rw [hself, hat], by rw [hself, hmb], by rw [hself, hst], fun j hj => ?_⟩
  rw [State.insOf_upd_ne _ hj, insOf_mbRun, hins]

theorem insWaits_insNext (s : State) (m i kind : Nat) : InsWaits s (s.insNext m i kind) m i kind :=
  insWaits_updIns (fun _ => rfl) rfl rfl rfl rfl

theorem insState_eq (s : State) (m : Nat) : s.insState m = s.mbDone m 0x0C 0 [(1, 1)] := rfl

section
variable {s : State} {m : Nat}

theorem mbInsDestroy_of (h : s.mbOf 0xA1 = some m) (hi : (s.mbx m).argF 0 0 12 ≠ 0) :
    s.mbInsDestroy = if ((s.insOf ((s.mbx m).argF 0 0 12)).st = 1 ∨ (s.insOf ((s.mbx m).argF 0 0 12)).st = 4) ∧
      (s.insOf ((s.mbx m).argF 0 0 12)).next = 0 then s.insNext m ((s.mbx m).argF 0 0 12) 6 else s.insState m := by
  unfold State.mbInsDestroy
  rw [mbIns_of h (.inl hi)]

theorem mbInsReset_of (h : s.mbOf 0xA2 = some m) (hi : (s.mbx m).argF 0 0 12 ≠ 0) (hst : (s.insOf ((s.mbx m).argF 0 0 12)).st = 1)
    (hnext : (s.insOf ((s.mbx m).argF 0 0 12)).next = 0) (halias : s.aliases ((s.mbx m).argF 0 0 12) = false) :
    s.mbInsReset = s.insNext m ((s.mbx m).argF 0 0 12) 3 := by
  unfold State.mbInsReset
  rw [mbIns_of h (.inl hi)]
  exact if_pos ⟨hst, hnext, by rw [halias]; rfl⟩

theorem mbFreeze_of (h : s.mbOf 0xA4 = some m) (hi : (s.mbx m).argF 0 0 12 ≠ 0) (hthaw : flag ((s.mbx m).arg 0) 12 = false)
    (hst : (s.insOf ((s.mbx m).argF 0 0 12)).st = 1) (hnext : (s.insOf ((s.mbx m).argF 0 0 12)).next = 0) :
    s.mbFreeze = s.insNext m ((s.mbx m).argF 0 0 12) 4 := by
  unfold State.mbFreeze
  rw [mbIns_of h (.inl hi)]
  exact (if_neg (by rw [hthaw]; exact Bool.false_ne_true)).trans (if_pos ⟨hst, hnext⟩)

theorem mbThaw_of (h : s.mbOf 0xA4 = some m) (hi : (s.mbx m).argF 0 0 12 ≠ 0) (hthaw : flag ((s.mbx m).arg 0) 12 = true)
    (hst : (s.insOf ((s.mbx m).argF 0 0 12)).st = 4) (hnext : (s.insOf ((s.mbx m).argF 0 0 12)).next = 0) :
    s.mbThaw = s.insNext m ((s.mbx m).argF 0 0 12) 5 := by
  unfold State.mbThaw
  rw [mbIns_of h (.inl hi)]
  exact (if_neg (by rw [hthaw]; exact Bool.false_ne_true)).trans (if_pos ⟨hst, hnext⟩)

theorem mbCntUserSet_of (h : s.mbOf 0xA7 = some m) (hi : (s.mbx m).argF 0 0 12 = 0 ∨ ((s.insOf ((s.mbx m).argF 0 0 12)).st ≠ 0 ∧
      (s.insOf ((s.mbx m).argF 0 0 12)).st ≠ 5 ∧ (s.insOf ((s.mbx m).argF 0 0 12)).next = 0)) :
    s.mbCntUserSet = (s.insNext m ((s.mbx m).argF 0 0 12) 7).updIns ((s.mbx m).argF 0 0 12) fun y => { y with userNext := flag ((s.mbx m).arg 0) 12 } := by
  unfold State.mbCntUserSet
  rw [mbIns_of h (.inr rfl)]
  refine if_neg ?_
  rintro ⟨hne, hbad⟩
  rcases hi with hi | ⟨h0, h5, hn⟩
  · exact hne hi
  · rcases hbad with hbad | hbad | hbad
    · exact h0 hbad
    · exact h5 hbad
    · exact hbad hn

theorem cntUserSet_waits (i : Nat) (user : Bool) :
    InsWaits s ((s.insNext m i 7).updIns i fun y => { y with userNext := user }) m i 7 ∧
      (((s.insNext m i 7).updIns i fun y => { y with userNext := user }).insOf i).userNext = user := by
  obtain ⟨hrun, hgo, hnext, hat, hmb, hst, hother⟩ := insWaits_insNext s m i 7
  have hself := State.insOf_upd_self (s.insNext m i 7) i fun y => { y with userNext := user }
  refine ⟨⟨hrun, hgo, ?_, ?_, ?_, ?_, fun j hj => (State.insOf_upd_ne _ hj _).trans (hother j hj)⟩, ?_⟩
  all_goals rw [hself]
  · exact hnext
  · exact hat
  · exact hmb
  · exact hst

/-! ### Creation and restore -/

/-- What INS_CREATE leaves staged of a record (R827, R831). -/
def State.createStage (s : State) (m : Nat) (b : List Nat) : InsStage :=
  let x := s.mbx m
  let w := x.arg 0
  { itag := x.argF 0 0 12, body := insOfRecord (x.arg 1).toNat (flag w 12) (flag w 13) b,
    cfg := pack [(0, 1, fld w 14 1), (1, 1, fld w 20 1), (2, 1, fld w 15 1), (8, 4, fld w 16 4)], at_ := s.soonFrame, mb := some m }

theorem mbInsCreate_of (h : s.mbOf 0xA0 = some m) (hi : (s.mbx m).argF 0 0 12 ≠ 0) (hlen : ((s.mbx m).arg 4).toNat = 128)
    (hquota : ((s.mbx m).arg 1).toNat ≤ 262144) {b : List Nat} (hb : s.readBytes ((s.mbx m).addr 2) 128 = .inr b)
    (hpass : s.recordFails ((s.mbx m).argF 0 0 12) ((s.mbx m).arg 1).toNat (flag ((s.mbx m).arg 0) 12) (flag ((s.mbx m).arg 0) 13) b = none) :
    s.mbInsCreate = { s.mbRun m [] [] with insStage := some (s.createStage m b) } := by
  unfold State.mbInsCreate
  rw [mbIns_of h (.inl hi)]
  refine (if_neg (show ¬((s.mbx m).arg 4).toNat = 0 by omega)).trans ?_
  refine (if_neg (Nat.not_lt.mpr hquota)).trans ?_
  refine (if_neg (not_not.mpr hlen)).trans ?_
  rw [hb]
  dsimp only
  rw [hpass]
  rfl

/-- What RESTORE leaves staged of a blob (R849). -/
def State.restoreStage (s : State) (m : Nat) (b : List Nat) : InsStage :=
  let flags := leNat b 0x0F 1
  { itag := (s.mbx m).argF 0 0 12,
    body := { insOfRecord (leNat b 0x14 4) (flags.testBit 0) (flags.testBit 1) ((b.drop 0x40).take 128) with
      st := 4, tally := (List.range 8).foldl (fun t k => Tbl.set (fun _ => 0) t k (leNat b (0xC0 + 8 * k) 8)) ([] : Tbl Nat) },
    cfg := pack [(0, 1, bits flags 2 1), (1, 1, bits flags 4 1), (2, 1, bits flags 3 1), (8, 4, leNat b 0x1E 1)],
    rings := blobRings b, restore := true, at_ := s.soonFrame, mb := some m }

theorem mbRestore_of (h : s.mbOf 0xA6 = some m) (hi : (s.mbx m).argF 0 0 12 ≠ 0) (hlen : 256 ≤ ((s.mbx m).arg 3).toNat) {b : List Nat}
    (hb : s.readBytes ((s.mbx m).addr 1) ((s.mbx m).arg 3).toNat = .inr b) (hblob : blobFails b ((s.mbx m).arg 3).toNat = none)
    (hrings : ∀ r ∈ blobRings b, (s.ring r.1).ctx.st = 0)
    (hpass : s.recordFails ((s.mbx m).argF 0 0 12) (leNat b 0x14 4) ((leNat b 0x0F 1).testBit 0) ((leNat b 0x0F 1).testBit 1)
      ((b.drop 0x40).take 128) = none) :
    s.mbRestore = { s.mbRun m [] [] with insStage := some (s.restoreStage m b) } := by
  have hfind : ((blobRings b).find? fun r => (s.ring r.1).ctx.st != 0) = none := by
    refine List.find?_eq_none.mpr fun r hr => ?_
    rw [hrings r hr]
    exact Bool.false_ne_true
  unfold State.mbRestore
  rw [mbIns_of h (.inl hi)]
  refine (if_neg (show ¬((s.mbx m).arg 3).toNat = 0 by omega)).trans ?_
  refine (if_neg (Nat.not_lt.mpr hlen)).trans ?_
  rw [hb]
  dsimp only
  rw [hpass, hblob]
  dsimp only
  rw [hfind]
  rfl

theorem staged_fields (k : InsStage) : (({ s.mbRun m [] [] with insStage := some k } : State).mbx m).running = true ∧
    ({ s.mbRun m [] [] with insStage := some k } : State).ins = s.ins := by
  have hmbx : ({ s.mbRun m [] [] with insStage := some k } : State).mbx m = (s.mbRun m [] []).mbx m := rfl
  rw [mbx_mbRun] at hmbx
  exact ⟨by rw [hmbx], (mbRun_kept_self s m [] []).part .ins (by decide)⟩

end

/-! ### Shares (R833) -/

/-- SHARE_SET arms the share of one role on the channel that holds it (R833). -/
def State.armRole (s : State) (i : Nat) (sh : List Nat) (f ref : Nat) (j : Nat) : State :=
  match s.chanOfRole j with
  | some c => if (s.chan c).shareFinal i = sh.getD j 0 then s else s.armShare c i (sh.getD j 0) f ref
  | none => s

theorem armRole_kept {r s : State} (h : Kept 0x400 r s) (i : Nat) (sh : List Nat) (f ref j : Nat) : Kept 0x400 r (s.armRole i sh f ref j) := by
  unfold State.armRole
  split
  · split
    · exact h
    · exact State.armShare_kept (Within.self _) h _ _ _ _ _
  · exact h

theorem role_armRole (s : State) (i : Nat) (sh : List Nat) (f ref j d : Nat) : ((s.armRole i sh f ref j).chan d).role = (s.chan d).role := by
  unfold State.armRole
  split
  · split
    · rfl
    · unfold State.armShare
      rw [State.chan_upd]
      split
      · next hd => rw [hd]
      · rfl
  · rfl

theorem chanOfRole_congr {s t : State} (h : ∀ d, (t.chan d).role = (s.chan d).role) (j : Nat) : t.chanOfRole j = s.chanOfRole j := by
  unfold State.chanOfRole
  simp only [h]

theorem role_of_chanOfRole {s : State} {j c : Nat} (h : s.chanOfRole j = some c) : (s.chan c).role = j := by
  simpa using List.find?_some h

theorem chan_armRole_other {s : State} {j d : Nat} (h : s.chanOfRole j ≠ some d) (i : Nat) (sh : List Nat) (f ref : Nat) :
    (s.armRole i sh f ref j).chan d = s.chan d := by
  unfold State.armRole
  split
  · next c hc =>
    split
    · rfl
    · exact State.chan_upd_ne s (fun hd => h (hc.trans (congrArg some hd.symm))) _
  · rfl

theorem chan_armRole {s : State} {j c : Nat} (h : s.chanOfRole j = some c) {i : Nat} {sh : List Nat} (hne : (s.chan c).shareFinal i ≠ sh.getD j 0)
    (f ref : Nat) : (i, sh.getD j 0, f, ref) ∈ ((s.armRole i sh f ref j).chan c).shareChg := by
  unfold State.armRole
  rw [h]
  dsimp only
  rw [if_neg hne]
  unfold State.armShare
  rw [State.chan_upd_self]
  exact List.mem_append_right _ List.mem_cons_self

/-- The shares that SHARE_SET arms. -/
def State.armRoles (s : State) (i : Nat) (sh : List Nat) (f ref : Nat) (js : List Nat) : State := js.foldl (fun s j => s.armRole i sh f ref j) s

theorem chanOfRole_armRole (s : State) (i : Nat) (sh : List Nat) (f ref j j' : Nat) : (s.armRole i sh f ref j).chanOfRole j' = s.chanOfRole j' :=
  chanOfRole_congr (role_armRole s i sh f ref j) j'

theorem chan_armRoles_other {s : State} {js : List Nat} {d : Nat} (h : ∀ j ∈ js, s.chanOfRole j ≠ some d) (i : Nat) (sh : List Nat) (f ref : Nat) :
    (s.armRoles i sh f ref js).chan d = s.chan d := by
  induction js generalizing s with
  | nil => rfl
  | cons j js ih =>
    refine (ih (s := s.armRole i sh f ref j) fun j' hj' => ?_).trans (chan_armRole_other (h j List.mem_cons_self) i sh f ref)
    rw [chanOfRole_armRole]
    exact h j' (List.mem_cons_of_mem _ hj')

theorem shareChg_armRoles {s : State} {js : List Nat} (hjs : js.Nodup) {i : Nat} {sh : List Nat} (f ref : Nat) {j c : Nat} (hj : j ∈ js)
    (hc : s.chanOfRole j = some c) (hne : (s.chan c).shareFinal i ≠ sh.getD j 0) :
    (i, sh.getD j 0, f, ref) ∈ ((s.armRoles i sh f ref js).chan c).shareChg := by
  induction js generalizing s with
  | nil => exact absurd hj List.not_mem_nil
  | cons a js ih =>
    obtain ⟨hnot, hrest⟩ := List.nodup_cons.mp hjs
    rcases List.mem_cons.mp hj with rfl | hj
    · have hother : ((s.armRole i sh f ref j).armRoles i sh f ref js).chan c = (s.armRole i sh f ref j).chan c := by
        refine chan_armRoles_other (fun j' hj' hc' => hnot ?_) i sh f ref
        rw [chanOfRole_armRole] at hc'
        rw [← role_of_chanOfRole hc, role_of_chanOfRole hc']
        exact hj'
      change _ ∈ (((s.armRole i sh f ref j).armRoles i sh f ref js).chan c).shareChg
      rw [hother]
      exact chan_armRole hc hne f ref
    · have hja : s.chanOfRole a ≠ some c := fun ha => hnot (by rw [← role_of_chanOfRole ha, role_of_chanOfRole hc]; exact hj)
      refine ih (s := s.armRole i sh f ref a) hrest hj ((chanOfRole_armRole s i sh f ref a j).trans hc) ?_
      rw [chan_armRole_other hja]
      exact hne

theorem armRoles_kept_self (s : State) (i : Nat) (sh : List Nat) (f ref : Nat) (js : List Nat) : Kept 0x400 s (s.armRoles i sh f ref js) :=
  Kept.foldl (f := fun s j => s.armRole i sh f ref j) (fun _ _ h => armRole_kept h i sh f ref _) (Kept.refl _ s) js

theorem mbShareSet_of {s : State} {m : Nat} (h : s.mbOf 0xA3 = some m) (hi : (s.mbx m).argF 0 0 12 = 0 ∨
      ((s.insOf ((s.mbx m).argF 0 0 12)).st ≠ 0 ∧ (s.insOf ((s.mbx m).argF 0 0 12)).st ≠ 5 ∧ (s.insOf ((s.mbx m).argF 0 0 12)).next = 0 ∧
        (s.insOf ((s.mbx m).argF 0 0 12)).elastic = true)) (hlen : ((s.mbx m).arg 3).toNat = 34) (htarget : ((s.mbx m).arg 4).toNat = 0)
    {b : List Nat} (hb : s.readBytes ((s.mbx m).addr 1) 34 = .inr b) (hroom : s.shareBad ((s.mbx m).argF 0 0 12) (sharesOf b) = none) :
    s.mbShareSet = ((s.armRoles ((s.mbx m).argF 0 0 12) (sharesOf b) s.soonFrame (s.esc.frame + 1) (List.range 17)).mbRun m [] []).updIns
      ((s.mbx m).argF 0 0 12) fun y => { y with shares := sharesOf b, next := 8, nextAt := s.soonFrame, mb := some m } := by
  have hno : targetOf s.esc.frame ((s.mbx m).arg 4).toNat = none := if_pos htarget
  unfold State.mbShareSet
  rw [mbIns_of h (.inr rfl)]
  refine (if_neg (show ¬((s.mbx m).arg 3).toNat = 0 by omega)).trans ?_
  refine (if_neg (not_not.mpr hlen)).trans ?_
  refine (if_neg ?state).trans ?_
  case state =>
    rintro ⟨hne, hbad⟩
    rcases hi with hi | ⟨h0, h5, hn, -⟩
    · exact hne hi
    · rcases hbad with hbad | hbad | hbad
      · exact h0 hbad
      · exact h5 hbad
      · exact hbad hn
  refine (if_neg ?fixed).trans ?_
  case fixed =>
    rintro ⟨hne, hbad⟩
    rcases hi with hi | ⟨-, -, -, he⟩
    · exact hne hi
    · simp [he] at hbad
  rw [hno, hb]
  dsimp only
  rw [hroom]
  dsimp only
  rw [Nat.zero_max, if_pos rfl]
  rfl

end Sys2Proof.Machine
end

section
/-! The ticks of instances (R827, R831, R835, R843, R846, R849 to R851): what the tick of a waiting command does. -/
namespace Sys2Proof.Machine

/-! ### A mailbox hears of the end -/

theorem insOf_mbDone (s : State) (m status detail : Nat) (res : List (Nat × Nat)) (i : Nat) : (s.mbDone m status detail res).insOf i = s.insOf i :=
  insOf_of_ins ((mbDone_kept_self s m status detail res).part .ins (by decide)) i

theorem insOf_insTell (s : State) (i : Nat) (res : List (Nat × Nat)) : (s.insTell i res).insOf i = { s.insOf i with mb := none } := by
  unfold State.insTell
  split
  · rw [State.insOf_upd_self, insOf_mbDone]
  · next hmb =>
    rw [← hmb]

theorem ended_insTell {r s : State} {i m : Nat} (hmb : (s.insOf i).mb = some m) (hmbx : s.mbx m = r.mbx m) {res : List (Nat × Nat)}
    (hres : (res.map Prod.fst).Nodup) : Ended r (s.insTell i res) m 0 0 res := by
  have htell : (s.insTell i res).mbx m = (s.mbDone m 0 0 res).mbx m := by
    unfold State.insTell
    rw [hmb]
    rfl
  exact ended_of_mbx hres (htell.trans ((mbx_mbDone s m 0 0 res).trans (congrArg (Mbx.ended · 0 0 res) hmbx)))

/-! ### Generations (R835) -/

theorem genOf_of_gens {s t : State} (h : t.gens = s.gens) (i : Nat) : t.genOf i = s.genOf i := by
  unfold State.genOf
  rw [h]

theorem genOf_updIns (s : State) (i : Nat) (f : Ins → Ins) (j : Nat) : (s.updIns i f).genOf j = s.genOf j := genOf_of_gens rfl j

theorem genOf_setGen (s : State) (i gen : Nat) : (s.setGen i gen).genOf i = gen := Tbl.get_set_self _ _ _ _

/-- The old generation's work leaves the gateways and the engines. -/
def State.genBumped (s : State) (i : Nat) : State := ((s.setGen i (s.nextGen i)).dropOld i).dropOldOps i

theorem genBumped_kept_self (s : State) (i : Nat) : Kept 0x4040100 s (s.genBumped i) :=
  State.dropOldOps_kept ((Within.self _).of (by decide)) (State.dropOld_kept ((Within.self _).of (by decide))
    (State.setGen_kept ((Within.self _).of (by decide)) (Kept.refl _ s) i _) i) i

/-- The instance as the bump of its generation leaves it (R835). -/
def Ins.bumped (x : Ins) (old bclk : Nat) : Ins :=
  { x with oldGen := old, resetDone := false, resetBclk := bclk, elogCnt := 0, lastCh := 0, lastIdx := 0, lastValid := false }

theorem bumpGen_eq (s : State) (i : Nat) : s.bumpGen i = (s.genBumped i).updIns i fun x => x.bumped (s.genOf i) (s.genBumped i).bclk := rfl

theorem insOf_bumpGen (s : State) (i : Nat) : (s.bumpGen i).insOf i = (s.insOf i).bumped (s.genOf i) s.bclk := by
  have hkept := genBumped_kept_self s i
  rw [bumpGen_eq, State.insOf_upd_self, show (s.genBumped i).bclk = s.bclk from hkept.part .bclk (by decide),
    insOf_of_ins (hkept.part .ins (by decide))]

theorem genOf_of_kept {l : Nat} {s t : State} (h : Kept l s t) (hl : l.testBit Part.gens.bit = false) (i : Nat) : t.genOf i = s.genOf i :=
  genOf_of_gens (congrArg Prod.fst (h.part .gens hl)) i

theorem genOf_bumpGen (s : State) (i : Nat) : (s.bumpGen i).genOf i = s.nextGen i := by
  have hkept : Kept 0x4000100 (s.setGen i (s.nextGen i)) (s.genBumped i) :=
    State.dropOldOps_kept ((Within.self _).of (by decide)) (State.dropOld_kept ((Within.self _).of (by decide)) (Kept.refl _ _) i) i
  rw [bumpGen_eq, genOf_updIns, genOf_of_kept hkept (by decide), genOf_setGen]

/-! ### Ticks -/

/-- The instance as the tick that carries out its command finds it (R827). -/
def State.insDueAt (v : State) (i : Nat) : State := v.updIns i fun y => { y with next := 0, effAt := v.esc.frame }

/-- What its tick does for a command of an instance, by the command's kind. -/
def State.insCarry (w : State) (i f : Nat) (user : Bool) (kind : Nat) : State :=
  match kind with
  | 3 => w.insResetTick i
  | 4 => w.updIns i fun y => { y with st := 3 }
  | 5 => (w.insThawTick i).insTell i [(0, f)]
  | 6 => w.insDestroyTick i
  | 7 =>
    if w.superseded (.ins i) 0x050 2 then (w.overrun 6 255).updIns i fun y => { y with next := 7, nextAt := w.esc.frame + 1 }
    else ((w.setFldBoth (.ins i) 0x050 1 1 (b2n user)).keepFld (.ins i) 0x050 1 1 (b2n user)).insTell i [(0, f)]
  | _ => w

section
variable {v : State} {i : Nat}

theorem insTick1_of {kind : Nat} (hkind : (v.insOf i).next = kind) (hnext : kind ≠ 0) (h8 : kind ≠ 8) (hdue : (v.insOf i).nextAt ≤ v.esc.frame) :
    v.insTick1 i = (v.insDueAt i).insCarry i (v.frameNo % 2 ^ 32) (v.insOf i).userNext kind := by
  unfold State.insTick1
  dsimp only
  rw [hkind, if_neg (not_or.mpr ⟨hnext, Nat.not_lt.mpr hdue⟩), if_neg h8]
  rfl

theorem insTick1_reset (hkind : (v.insOf i).next = 3) (hdue : (v.insOf i).nextAt ≤ v.esc.frame) : v.insTick1 i = (v.insDueAt i).insResetTick i := by
  rw [insTick1_of hkind (by decide) (by decide) hdue]
  rfl

theorem insTick1_freeze (hkind : (v.insOf i).next = 4) (hdue : (v.insOf i).nextAt ≤ v.esc.frame) :
    v.insTick1 i = (v.insDueAt i).updIns i fun y => { y with st := 3 } := by
  rw [insTick1_of hkind (by decide) (by decide) hdue]
  rfl

theorem insTick1_thaw (hkind : (v.insOf i).next = 5) (hdue : (v.insOf i).nextAt ≤ v.esc.frame) :
    v.insTick1 i = ((v.insDueAt i).insThawTick i).insTell i [(0, v.frameNo % 2 ^ 32)] := by
  rw [insTick1_of hkind (by decide) (by decide) hdue]
  rfl

theorem insTick1_destroy (hkind : (v.insOf i).next = 6) (hdue : (v.insOf i).nextAt ≤ v.esc.frame) :
    v.insTick1 i = (v.insDueAt i).insDestroyTick i := by
  rw [insTick1_of hkind (by decide) (by decide) hdue]
  rfl

theorem insOf_insDueAt (v : State) (i : Nat) : (v.insDueAt i).insOf i = { v.insOf i with next := 0, effAt := v.esc.frame } := State.insOf_upd_self v i _

theorem insResetTick_eq (s : State) (i : Nat) : s.insResetTick i =
    (((s.bumpGen i).updIns i fun x => { x with st := 2, resets := wrapAdd 8 x.resets 1 }).ringsOf i).foldl (fun s r => s.resetRing r (s.genOf i))
      ((s.bumpGen i).updIns i fun x => { x with st := 2, resets := wrapAdd 8 x.resets 1 }) := rfl

/-- A reset's tick (R835, R836). -/
theorem insOf_insResetTick (s : State) (i : Nat) : (s.insResetTick i).insOf i =
    { (s.insOf i).bumped (s.genOf i) s.bclk with st := 2, resets := wrapAdd 8 (s.insOf i).resets 1 } ∧ (s.insResetTick i).genOf i = s.nextGen i := by
  have hrings : ∀ (l : List Nat) (u : State), Kept 0x2000000 u (l.foldl (fun s r => s.resetRing r (s.genOf i)) u) := fun l u =>
    Kept.foldl (fun _ _ h => State.resetRing_kept (Within.self _) h _ _) (Kept.refl _ u) l
  rw [insResetTick_eq, insOf_of_ins ((hrings _ _).part .ins (by decide)), genOf_of_kept (hrings _ _) (by decide), State.insOf_upd_self, insOf_bumpGen,
    genOf_updIns, genOf_bumpGen]
  exact ⟨rfl, rfl⟩

/-- The shares of a destroyed instance are released (R851). -/
def State.releaseShare (s : State) (i c : Nat) : State :=
  if (s.chan c).shareFinal i = 0 then s else s.armShare c i 0 (s.esc.frame + 1) (s.esc.frame + 1)

theorem insDestroyTick_eq (s : State) (i : Nat) : s.insDestroyTick i = (List.range 17).foldl (fun s c => s.releaseShare i c)
    ((((s.bumpGen i).ringsOf i).foldl (fun s r => s.dropRing r) (s.bumpGen i)).updIns i fun x =>
      { x with st := 5, slice := none, ranges := [], quota := 0, shares := [] }) := rfl

/-- A destruction's tick (R851). -/
theorem insOf_insDestroyTick (s : State) (i : Nat) : (s.insDestroyTick i).insOf i =
    { (s.insOf i).bumped (s.genOf i) s.bclk with st := 5, slice := none, ranges := [], quota := 0, shares := [] } ∧
      (s.insDestroyTick i).genOf i = s.nextGen i := by
  have hrings : ∀ (l : List Nat) (u : State), Kept 0x26000a00 u (l.foldl (fun s r => s.dropRing r) u) := fun l u =>
    Kept.foldl (fun _ _ h => State.dropRing_kept (Within.self _) h _) (Kept.refl _ u) l
  have hshares : ∀ (l : List Nat) (u : State), Kept 0x400 u (l.foldl (fun s c => s.releaseShare i c) u) := fun l u =>
    Kept.foldl (fun s c h => by
      unfold State.releaseShare
      split
      exacts [h, State.armShare_kept (Within.self _) h _ _ _ _ _]) (Kept.refl _ u) l
  rw [insDestroyTick_eq, insOf_of_ins ((hshares _ _).part .ins (by decide)), genOf_of_kept (hshares _ _) (by decide), State.insOf_upd_self,
    genOf_updIns, insOf_of_ins ((hrings _ _).part .ins (by decide)), genOf_of_kept (hrings _ _) (by decide), insOf_bumpGen, genOf_bumpGen]
  exact ⟨rfl, rfl⟩

theorem insThawTick_eq (s : State) (i : Nat) : s.insThawTick i =
    ((s.updIns i fun x => { x with st := 1 }).ringsOf i).foldl (fun s r => if (s.ring r).ctx.st = 4 then s.updCtx r fun c => c.wake else s)
      (s.updIns i fun x => { x with st := 1 }) := rfl

/-- A thaw's tick (R850). -/
theorem insOf_insThawTick (s : State) (i : Nat) : (s.insThawTick i).insOf i = { s.insOf i with st := 1 } ∧ (s.insThawTick i).blk = s.blk := by
  have hrings : ∀ (l : List Nat) (u : State), Kept 0x2000000 u (l.foldl (fun s r => if (s.ring r).ctx.st = 4 then s.updCtx r fun c => c.wake else s) u) :=
    fun l u => Kept.foldl (fun s r h => by split; exacts [State.updCtx_kept (Within.self _) h _ _, h]) (Kept.refl _ u) l
  have hblk : (s.insThawTick i).blk = (s.updIns i fun x => { x with st := 1 }).blk := (hrings _ _).part .blk (by decide)
  refine ⟨?_, hblk⟩
  rw [insThawTick_eq, insOf_of_ins ((hrings _ _).part .ins (by decide)), State.insOf_upd_self]

end

end Sys2Proof.Machine
end

section
/-! Settles O37: the ticks of the remaining commands of instances, and of a create or restore. -/
namespace Sys2Proof.Machine

theorem sameBody_mbDone (s : State) (m status detail : Nat) (res : List (Nat × Nat)) : SameBody s (s.mbDone m status detail res) := by
  let u := s.updMbx m fun x => x.ended status detail res
  have hu : SameBody s u := SameBody.of_pages ((State.updMbx_kept (Within.self _) (Kept.refl _ s) m _).part .pages (by decide))
  exact (hu.trans (State.raise_body u .blk m)).trans (State.ev_body _ _)

theorem sameBody_insTell (s : State) (i : Nat) (res : List (Nat × Nat)) : SameBody s (s.insTell i res) := by
  unfold State.insTell
  split
  · exact (sameBody_mbDone s _ 0 0 res).trans (SameBody.of_pages rfl)
  · exact SameBody.refl s

theorem insTell_kept_self (s : State) (i : Nat) (res : List (Nat × Nat)) : Kept 0x120060 s (s.insTell i res) :=
  State.insTell_kept (Within.self _) (Kept.refl _ s) i res

theorem flag_setFld_one (w : Word) (b : Bool) : flag (setFld w 1 1 (b2n b)) 1 = b := by
  have hw : w.toNat < 2 ^ 32 := w.isLt
  unfold flag setFld bits b2n
  rw [BitVec.toNat_ofNat, Nat.testBit_eq_decide_div_mod_eq, Nat.shiftLeft_eq, Nat.shiftLeft_eq]
  cases b <;> simp only [decide_eq_true_eq, decide_eq_false_iff_not, if_true, Bool.false_eq_true, if_false] <;> omega

/-! ### CNT_USER_SET's tick (R843) -/

/-- What the tick of CNT_USER_SET writes. -/
def State.userSet (s : State) (i : Nat) (user : Bool) : State :=
  (s.setFldBoth (.ins i) 0x050 1 1 (b2n user)).keepFld (.ins i) 0x050 1 1 (b2n user)

theorem userSet_kept_self (s : State) (i : Nat) (user : Bool) : Kept 0x20 s (s.userSet i user) :=
  State.keepFld_kept (Within.self _) (State.setFldBoth_kept (Within.self _) (Kept.refl _ s) _ _ _ _ _) _ _ _ _ _

theorem reg_userSet (s : State) (i : Nat) (user : Bool) : flag ((s.userSet i user).reg (.ins i) 0x050) 1 = user := by
  unfold State.userSet State.keepFld State.setFldBoth
  rw [reg_updPage]
  change flag ((((s.setReg (.ins i) 0x050 _).setShd (.ins i) 0x050 _)).reg (.ins i) 0x050) 1 = user
  rw [reg_setShd, reg_setReg, if_pos rfl, flag_setFld_one]

theorem superseded_insDueAt (v : State) (i : Nat) (p : PageId) (off : Nat) (w : Word) : (v.insDueAt i).superseded p off w = v.superseded p off w := rfl

section
variable {v : State} {i : Nat}

theorem insTick1_user (hnext : (v.insOf i).next = 7) (hdue : (v.insOf i).nextAt ≤ v.esc.frame) (hfree : v.superseded (.ins i) 0x050 2 = false) :
    v.insTick1 i = ((v.insDueAt i).userSet i (v.insOf i).userNext).insTell i [(0, v.frameNo % 2 ^ 32)] :=
  (insTick1_of hnext (by decide) (by decide) hdue).trans (if_neg (by rw [superseded_insDueAt, hfree]; exact Bool.false_ne_true))

/-- SHARE_SET has taken effect once none of its changes is armed (R833). -/
theorem insTick1_shares (hnext : (v.insOf i).next = 8) (hdue : (v.insOf i).nextAt ≤ v.esc.frame)
    (hdone : ∀ c, c < 17 → ∀ y ∈ (v.chan c).shareChg, y.1 ≠ i) :
    v.insTick1 i = (v.updIns i fun y => { y with next := 0 }).insTell i [(0, v.frameNo % 2 ^ 32)] := by
  unfold State.insTick1
  dsimp only
  rw [hnext, if_neg (not_or.mpr ⟨by decide, Nat.not_lt.mpr hdue⟩), if_pos rfl, if_neg ?armed]
  case armed =>
    intro hany
    obtain ⟨c, hc, hchg⟩ := List.any_eq_true.mp hany
    obtain ⟨y, hy, hi⟩ := List.any_eq_true.mp hchg
    exact hdone c (List.mem_range.mp hc) y hy (beq_iff_eq.mp hi)

end

/-! ### The tick of a create or restore (R831, R849) -/

/-- A new instance takes its share of a role on the channel that holds it. -/
def State.giveShare (s : State) (k : InsStage) (j : Nat) : State :=
  match s.chanOfRole j with
  | some c => s.updChan c fun ch => { ch with share := Tbl.set (fun _ => 0) ch.share k.itag (k.body.shares.getD j 0),
                                              shareChg := ch.shareChg.filter fun x => x.1 != k.itag }
  | none => s

/-- A ring of a blob is restored. -/
def State.giveRing (s : State) (k : InsStage) (gen : Nat) (r : Nat × Ctx) : State :=
  (s.updRing r.1 fun _ => { ctx := { r.2 with itag := k.itag, gen := gen }, fetchIdx := ({ r.2 with itag := k.itag, gen := gen } : Ctx).head }).writeBack r.1

/-- The block with nothing staged. -/
def State.unstaged (v : State) : State := { v with insStage := none }

/-- The new instance with its page, before its shares and rings. -/
def State.insMade (v : State) (k : InsStage) : State :=
  ((((v.unstaged.setGen k.itag (v.nextGen k.itag)).updIns k.itag fun _ =>
    { k.body with effAt := v.esc.frame, mb := k.mb }).setBoth (.ins k.itag) 0x050 k.cfg).keepFld (.ins k.itag) 0x050 0 32 k.cfg.toNat).updPage
      (.ins k.itag) fun pg => { pg with en := true, enReq := true }

/-- Its shares. -/
def State.insShared (v : State) (k : InsStage) : State := (List.range 17).foldl (fun s j => s.giveShare k j) (v.insMade k)

/-- Its rings. -/
def State.insRinged (v : State) (k : InsStage) : State := k.rings.foldl (fun s r => s.giveRing k (v.nextGen k.itag) r) (v.insShared k)

theorem insStageTick_of {v : State} {k : InsStage} (h : v.insStage = some k) (hdue : k.at_ ≤ v.esc.frame) :
    v.insStageTick = (v.insRinged k).insTell k.itag [(0, (v.insRinged k).frameNo % 2 ^ 32), (1, v.nextGen k.itag)] := by
  unfold State.insStageTick
  rw [h]
  exact if_neg (Nat.not_lt.mpr hdue)

theorem giveShare_kept {r s : State} (h : Kept 0x400 r s) (k : InsStage) (j : Nat) : Kept 0x400 r (s.giveShare k j) := by
  unfold State.giveShare
  split
  · refine State.updChan_kept (Within.self _) (fun _ hx => ?_) h _
    exact hx
  · exact h

theorem insShared_kept (v : State) (k : InsStage) : Kept 0x400 (v.insMade k) (v.insShared k) :=
  Kept.foldl (fun _ _ h => giveShare_kept h k _) (Kept.refl _ _) _

theorem insRinged_kept (v : State) (k : InsStage) : Kept 0x22000a00 (v.insShared k) (v.insRinged k) :=
  Kept.foldl (f := fun s r => s.giveRing k (v.nextGen k.itag) r)
    (fun _ _ h => State.writeBack_kept ((Within.self _).of (by decide)) (State.updRing_kept ((Within.self _).of (by decide)) h _ _) _) (Kept.refl _ _) _

theorem insMade_kept (v : State) (k : InsStage) : Kept 0x140020 v.unstaged (v.insMade k) :=
  State.updPage_kept ((Within.self _).of (by decide)) (State.keepFld_kept ((Within.self _).of (by decide)) (State.setBoth_kept ((Within.self _).of (by decide))
    (State.updIns_kept ((Within.self _).of (by decide)) (State.setGen_kept ((Within.self _).of (by decide)) (Kept.refl _ _) _ _) _ _) _ _ _) _ _ _ _ _) _ _

/-- What the page's change leaves of the instance. -/
theorem insMade_same (v : State) (k : InsStage) : Kept 0x20 ((v.unstaged.setGen k.itag (v.nextGen k.itag)).updIns k.itag fun _ =>
    { k.body with effAt := v.esc.frame, mb := k.mb }) (v.insMade k) :=
  State.updPage_kept (Within.self _) (State.keepFld_kept (Within.self _) (State.setBoth_kept (Within.self _) (Kept.refl _ _) _ _ _) _ _ _ _ _) _ _

theorem insOf_insMade (v : State) (k : InsStage) : (v.insMade k).insOf k.itag = { k.body with effAt := v.esc.frame, mb := k.mb } :=
  (insOf_of_ins ((insMade_same v k).part .ins (by decide)) _).trans (State.insOf_upd_self _ _ _)

theorem genOf_insMade (v : State) (k : InsStage) : (v.insMade k).genOf k.itag = v.nextGen k.itag := by
  rw [genOf_of_kept (insMade_same v k) (by decide), genOf_updIns, genOf_setGen]

theorem en_insMade (v : State) (k : InsStage) : ((v.insMade k).page (.ins k.itag)).en = true :=
  Page.field Page.en (updPage_body_self _ (.ins k.itag) _) rfl

/-- What the tick leaves of the new instance, before its mailbox hears of it. -/
theorem insRinged_facts (v : State) (k : InsStage) : (v.insRinged k).insStage = none ∧
    (v.insRinged k).insOf k.itag = { k.body with effAt := v.esc.frame, mb := k.mb } ∧ (v.insRinged k).genOf k.itag = v.nextGen k.itag ∧
    ((v.insRinged k).page (.ins k.itag)).en = true ∧ (v.insRinged k).frameNo = v.frameNo ∧ (v.insRinged k).blk = v.blk := by
  have hshared := insShared_kept v k
  have hringed := insRinged_kept v k
  have hmade := insMade_kept v k
  have hesc : (v.insRinged k).esc = v.unstaged.esc := (hringed.part .esc (by decide)).trans ((hshared.part .esc (by decide)).trans (hmade.part .esc (by decide)))
  refine ⟨?_, ?_, ?_, ?_, ?_, ?_⟩
  · exact (hringed.part .insStage (by decide)).trans ((hshared.part .insStage (by decide)).trans (hmade.part .insStage (by decide)))
  · rw [insOf_of_ins (hringed.part .ins (by decide)), insOf_of_ins (hshared.part .ins (by decide)), insOf_insMade]
  · rw [genOf_of_kept hringed (by decide), genOf_of_kept hshared (by decide), genOf_insMade]
  · have hpages : (v.insRinged k).pages = (v.insMade k).pages := (hringed.part .pages (by decide)).trans (hshared.part .pages (by decide))
    exact Page.field Page.en (SameBody.of_pages hpages (.ins k.itag)) (en_insMade v k)
  · unfold State.frameNo
    rw [hesc]
    rfl
  · exact (hringed.part .blk (by decide)).trans ((hshared.part .blk (by decide)).trans (hmade.part .blk (by decide)))

/-! Shares -/

theorem role_giveShare (s : State) (k : InsStage) (j d : Nat) : ((s.giveShare k j).chan d).role = (s.chan d).role := by
  unfold State.giveShare
  split
  · rw [State.chan_upd]
    split
    · next hd => rw [hd]
    · rfl
  · rfl

theorem chan_giveShare_other {s : State} {j d : Nat} (h : s.chanOfRole j ≠ some d) (k : InsStage) : (s.giveShare k j).chan d = s.chan d := by
  unfold State.giveShare
  split
  · next c hc => exact State.chan_upd_ne s (fun hd => h (hc.trans (congrArg some hd.symm))) _
  · rfl

theorem chan_giveShare {s : State} {j c : Nat} (h : s.chanOfRole j = some c) (k : InsStage) :
    ((s.giveShare k j).chan c).shareOf k.itag = k.body.shares.getD j 0 := by
  unfold State.giveShare
  rw [h]
  dsimp only
  rw [State.chan_upd_self]
  exact Tbl.get_set_self _ _ _ _

theorem chanOfRole_giveShare (s : State) (k : InsStage) (j j' : Nat) : (s.giveShare k j).chanOfRole j' = s.chanOfRole j' :=
  chanOfRole_congr (role_giveShare s k j) j'

theorem chan_giveShares_other {js : List Nat} {d : Nat} (k : InsStage) {s : State} (h : ∀ j ∈ js, s.chanOfRole j ≠ some d) :
    (js.foldl (fun s j => s.giveShare k j) s).chan d = s.chan d := by
  induction js generalizing s with
  | nil => rfl
  | cons j js ih =>
    refine (ih (s := s.giveShare k j) fun j' hj' => ?_).trans (chan_giveShare_other (h j List.mem_cons_self) k)
    rw [chanOfRole_giveShare]
    exact h j' (List.mem_cons_of_mem _ hj')

theorem shareOf_giveShares {js : List Nat} (hjs : js.Nodup) (k : InsStage) {s : State} {j c : Nat} (hj : j ∈ js) (hc : s.chanOfRole j = some c) :
    ((js.foldl (fun s j => s.giveShare k j) s).chan c).shareOf k.itag = k.body.shares.getD j 0 := by
  induction js generalizing s with
  | nil => exact absurd hj List.not_mem_nil
  | cons a js ih =>
    obtain ⟨hnot, hrest⟩ := List.nodup_cons.mp hjs
    rcases List.mem_cons.mp hj with rfl | hj
    · have hother : (js.foldl (fun s j => s.giveShare k j) (s.giveShare k j)).chan c = (s.giveShare k j).chan c := by
        refine chan_giveShares_other k fun j' hj' hc' => hnot ?_
        rw [chanOfRole_giveShare] at hc'
        rw [← role_of_chanOfRole hc, role_of_chanOfRole hc']
        exact hj'
      rw [List.foldl_cons, hother]
      exact chan_giveShare hc k
    · exact ih (s := s.giveShare k a) hrest hj ((chanOfRole_giveShare s k a j).trans hc)

theorem shareOf_insRinged (v : State) (k : InsStage) {j c : Nat} (hj : j < 17) (hc : v.chanOfRole j = some c) :
    ((v.insRinged k).chan c).shareOf k.itag = k.body.shares.getD j 0 := by
  have hmade : ∀ d, (v.insMade k).chan d = v.chan d := fun d => chan_of_chans ((insMade_kept v k).part .chans (by decide)) d
  rw [chan_of_chans ((insRinged_kept v k).part .chans (by decide))]
  exact shareOf_giveShares List.nodup_range k (List.mem_range.mpr hj) ((chanOfRole_congr (fun d => by rw [hmade]) j).trans hc)

/-- The tick of a create or restore makes the instance (R831, R849). -/
theorem insStageTick_makes {v : State} {k : InsStage} (h : v.insStage = some k) (hdue : k.at_ ≤ v.esc.frame) :
    let u := v.insStageTick
    u.insStage = none ∧ (u.insOf k.itag).st = k.body.st ∧ (u.insOf k.itag).quota = k.body.quota ∧ (u.insOf k.itag).slice = k.body.slice ∧
    (u.page (.ins k.itag)).en = true ∧ u.genOf k.itag = v.nextGen k.itag ∧
    (∀ j c, j < 17 → v.chanOfRole j = some c → (u.chan c).shareOf k.itag = k.body.shares.getD j 0) ∧
    ∀ m, k.mb = some m → Ended v u m 0 0 [(0, v.frameNo % 2 ^ 32), (1, v.nextGen k.itag)] := by
  obtain ⟨hstage, hins, hgen, hen, hframe, hblk⟩ := insRinged_facts v k
  have hkept := insTell_kept_self (v.insRinged k) k.itag [(0, v.frameNo % 2 ^ 32), (1, v.nextGen k.itag)]
  intro u
  rw [show u = _ from insStageTick_of h hdue, hframe, insOf_insTell, hins]
  refine ⟨(hkept.part .insStage (by decide)).trans hstage, rfl, rfl, rfl, Page.field Page.en (sameBody_insTell _ _ _ _) hen,
    (genOf_of_kept hkept (by decide) _).trans hgen, fun j c hj hc => ?_, fun m hm => ?_⟩
  · rw [chan_of_chans (hkept.part .chans (by decide))]
    exact shareOf_insRinged v k hj hc
  · exact ended_insTell (by rw [hins]; exact hm) (mbx_of_blk_eq hblk m) (show [0, 1].Nodup by decide)

/-! ### The statement -/

theorem chan_updIns (s : State) (i : Nat) (f : Ins → Ins) (c : Nat) : (s.updIns i f).chan c = s.chan c := rfl

theorem waits_iff {s t : State} {m i kind : Nat} (h : InsWaits s t m i kind) : (t.mbx m).running = true ∧ (t.mbx m).go = false ∧
    (t.insOf i).next = kind ∧ (t.insOf i).nextAt = s.soonFrame ∧ (t.insOf i).mb = some m ∧ (t.insOf i).st = (s.insOf i).st ∧
    ∀ j, j ≠ i → t.insOf j = s.insOf j := ⟨h.running, h.go, h.next, h.nextAt, h.mb, h.st, h.other⟩

/-- The tick carries out what the command asks (R827, R835, R843, R846, R850, R851). -/
theorem insTick1_carries {v : State} {i : Nat} (hdue : (v.insOf i).nextAt ≤ v.esc.frame) :
    let x := v.insOf i
    let u := v.insTick1 i
    let Told := fun (res : List (Nat × Nat)) => ∀ m, x.mb = some m → Ended v u m 0 0 res
    (x.next = 3 → (u.insOf i).next = 0 ∧ (u.insOf i).st = 2 ∧ (u.insOf i).resets = wrapAdd 8 x.resets 1 ∧ u.genOf i = v.nextGen i) ∧
    (x.next = 4 → (u.insOf i).next = 0 ∧ (u.insOf i).st = 3 ∧ u.genOf i = v.genOf i) ∧
    (x.next = 5 → (u.insOf i).next = 0 ∧ (u.insOf i).st = 1 ∧ Told [(0, v.frameNo % 2 ^ 32)]) ∧
    (x.next = 6 → (u.insOf i).next = 0 ∧ (u.insOf i).st = 5 ∧ (u.insOf i).slice = none ∧ (u.insOf i).quota = 0 ∧ u.genOf i = v.nextGen i) ∧
    (x.next = 7 → v.superseded (.ins i) 0x050 2 = false →
      (u.insOf i).next = 0 ∧ flag (u.reg (.ins i) 0x050) 1 = x.userNext ∧ Told [(0, v.frameNo % 2 ^ 32)]) ∧
    (x.next = 8 → (∀ c, c < 17 → ∀ y ∈ (v.chan c).shareChg, y.1 ≠ i) → (u.insOf i).next = 0 ∧ Told [(0, v.frameNo % 2 ^ 32)]) := by
  dsimp only
  have hat := insOf_insDueAt v i
  have hnextGen : (v.insDueAt i).nextGen i = v.nextGen i := rfl
  have htold : ∀ w : State, (w.insOf i).mb = (v.insOf i).mb → w.blk = v.blk → ∀ m, (v.insOf i).mb = some m →
      Ended v (w.insTell i [(0, v.frameNo % 2 ^ 32)]) m 0 0 [(0, v.frameNo % 2 ^ 32)] := fun w hw hblk m hm =>
    ended_insTell (hw.trans hm) (mbx_of_blk_eq hblk m) (show [0].Nodup by decide)
  refine ⟨fun hx => ?_, fun hx => ?_, fun hx => ?_, fun hx => ?_, fun hx hfree => ?_, fun hx hdone => ?_⟩
  · obtain ⟨hins, hgen⟩ := insOf_insResetTick (v.insDueAt i) i
    rw [insTick1_reset hx hdue, hins, hgen, hat, hnextGen]
    exact ⟨rfl, rfl, rfl, rfl⟩
  · rw [insTick1_freeze hx hdue, State.insOf_upd_self, hat, genOf_updIns]
    exact ⟨rfl, rfl, genOf_updIns v i _ i⟩
  · obtain ⟨hins, hblk⟩ := insOf_insThawTick (v.insDueAt i) i
    rw [insTick1_thaw hx hdue, insOf_insTell, hins, hat]
    exact ⟨rfl, rfl, htold _ (by rw [hins, hat]) hblk⟩
  · obtain ⟨hins, hgen⟩ := insOf_insDestroyTick (v.insDueAt i) i
    rw [insTick1_destroy hx hdue, hins, hgen, hat, hnextGen]
    exact ⟨rfl, rfl, rfl, rfl, rfl⟩
  · have hkept := userSet_kept_self (v.insDueAt i) i (v.insOf i).userNext
    have hins := (insOf_of_ins (hkept.part .ins (by decide)) i).trans hat
    rw [insTick1_user hx hdue hfree, insOf_insTell, hins, reg_of_body (sameBody_insTell _ _ _ _), reg_userSet]
    exact ⟨rfl, rfl, htold _ (by rw [hins]) (hkept.part .blk (by decide))⟩
  · rw [insTick1_shares hx hdue hdone, insOf_insTell, State.insOf_upd_self]
    exact ⟨rfl, htold _ (by rw [State.insOf_upd_self]) rfl⟩

/-- Settles O37. -/
theorem instanceCommandsWaitForTheirTick : Obligations.InstanceCommandsWaitForTheirTick := by
  unfold Obligations.InstanceCommandsWaitForTheirTick
  refine ⟨?commands, ?ticks, ?stage⟩
  case commands =>
    intro s m x i k Waits
    refine ⟨fun hi => ⟨?_, ?_, ?_, ?_, ?_, ?_, ?_⟩, ?_, ?_⟩
    · intro h hst hnext
      refine ⟨_, exec_insDestroy s, ?_⟩
      rw [mbInsDestroy_of h hi, if_pos ⟨hst, hnext⟩]
      exact waits_iff (insWaits_insNext s m i 6)
    · intro h hbad
      refine ⟨_, exec_insDestroy s, ?_⟩
      rw [mbInsDestroy_of h hi, if_neg (by tauto), insState_eq]
      exact ⟨ended_mbDone rfl 0x0C (show [1].Nodup by decide), (mbDone_kept_self s m 0x0C 0 _).part .ins (by decide)⟩
    · intro h hst hnext halias
      refine ⟨_, exec_insReset h, ?_⟩
      rw [mbInsReset_of h hi hst hnext halias]
      exact waits_iff (insWaits_insNext s m i 3)
    · intro h hthaw hst hnext
      refine ⟨_, exec_freeze h, ?_⟩
      rw [mbFreeze_of h hi hthaw hst hnext]
      exact waits_iff (insWaits_insNext s m i 4)
    · intro h hthaw hst hnext
      refine ⟨_, exec_thaw s, ?_⟩
      rw [mbThaw_of h hi hthaw hst hnext]
      exact waits_iff (insWaits_insNext s m i 5)
    · intro h hlen hquota b hb hpass
      refine ⟨_, exec_insCreate s, ?_⟩
      rw [mbInsCreate_of h hi hlen hquota hb hpass]
      obtain ⟨hrun, hins⟩ := staged_fields (s := s) (m := m) (s.createStage m b)
      exact ⟨hrun, hins, s.createStage m b, rfl, rfl, rfl, rfl, rfl, rfl, rfl⟩
    · intro h b hlen hb hblob hrings hpass
      refine ⟨_, exec_restore s, ?_⟩
      rw [mbRestore_of h hi hlen hb hblob hrings hpass]
      obtain ⟨hrun, hins⟩ := staged_fields (s := s) (m := m) (s.restoreStage m b)
      exact ⟨hrun, hins, s.restoreStage m b, rfl, rfl, rfl, rfl, rfl, rfl, rfl⟩
    · intro h hi
      refine ⟨_, exec_cntUserSet s, ?_⟩
      rw [mbCntUserSet_of h hi]
      obtain ⟨hwaits, huser⟩ := cntUserSet_waits (s := s) (m := m) i (flag (x.arg 0) 12)
      exact ⟨waits_iff hwaits, huser⟩
    · intro h hi hlen htarget b hb hroom
      have hkept := armRoles_kept_self s i (sharesOf b) s.soonFrame (s.esc.frame + 1) (List.range 17)
      have hins : ∀ j, (s.armRoles i (sharesOf b) s.soonFrame (s.esc.frame + 1) (List.range 17)).insOf j = s.insOf j :=
        insOf_of_ins (hkept.part .ins (by decide))
      refine ⟨_, exec_shareSet s, ?_⟩
      rw [mbShareSet_of h hi hlen htarget hb hroom]
      refine ⟨waits_iff (insWaits_updIns hins rfl rfl rfl rfl), ?_, fun j c hj hc hne => ?_⟩
      · rw [State.insOf_upd_self]
      · have hchans := (mbRun_kept_self (s.armRoles i (sharesOf b) s.soonFrame (s.esc.frame + 1) (List.range 17)) m [] []).part .chans (by decide)
        have harmed := shareChg_armRoles List.nodup_range s.soonFrame (s.esc.frame + 1) (List.mem_range.mpr hj) hc hne
        rw [chan_updIns, chan_of_chans hchans c]
        exact harmed
  case ticks =>
    intro v i x u Told hdue
    exact insTick1_carries hdue
  case stage =>
    intro v k h hdue
    exact insStageTick_makes h hdue

end Sys2Proof.Machine
end

section
/-! SAVE, and the drains of instances (R837, R844, R846 to R848). -/
namespace Sys2Proof.Machine

theorem exec_save (s : State) : exec .save s = .next s.mbSave := rfl
theorem exec_resetDone (i : Fin 4096) (s : State) : exec (.resetDone i) s = .next (s.resetDone i) := rfl
theorem exec_quiesced (i : Fin 4096) (s : State) : exec (.quiesced i) s = .next (s.quiesced i) := rfl
theorem exec_instanceIntMessage (i : Fin 4096) (s : State) : exec (.instanceIntMessage i) s = .next (s.insMessage i) := rfl

/-! ### SAVE -/

theorem ended_mbDone_detail {s u : State} {m : Nat} (hu : u.mbx m = s.mbx m) (status : Nat) {detail : Nat} (hdetail : detail < 256)
    {res : List (Nat × Nat)} (hres : (res.map Prod.fst).Nodup) : Ended s (u.mbDone m status detail res) m status detail res := by
  unfold Ended
  rw [mbx_mbDone, hu]
  exact ⟨rfl, rfl, rfl, rfl, Nat.mod_eq_of_lt hdetail, rfl, get_put (s.mbx m) hres⟩

section
variable {s : State} {m : Nat}

theorem mbSave_writes (h : s.mbOf 0xA5 = some m) (hi : (s.mbx m).argF 0 0 12 ≠ 0) (hlen : ((s.mbx m).arg 3).toNat ≠ 0)
    (hst : (s.insOf ((s.mbx m).argF 0 0 12)).st = 4) (hfits : (s.blobBytes ((s.mbx m).argF 0 0 12)).length ≤ ((s.mbx m).arg 3).toNat) {u : State}
    (hu : s.writeBytes ((s.blobBytes ((s.mbx m).argF 0 0 12)).length / 64 + 2) ((s.mbx m).addr 1) (s.blobBytes ((s.mbx m).argF 0 0 12)) = .inr u) :
    s.mbSave = u.mbDone m 0 0 [(0, (s.blobBytes ((s.mbx m).argF 0 0 12)).length), (1, leNat (s.blobBytes ((s.mbx m).argF 0 0 12)) 0x3C 4)] := by
  unfold State.mbSave
  rw [mbIns_of h (.inl hi)]
  refine (if_neg hlen).trans ((if_neg (not_not.mpr hst)).trans ((if_neg (Nat.not_lt.mpr hfits)).trans ?_))
  rw [hu]

theorem mbSave_refused (h : s.mbOf 0xA5 = some m) (hi : (s.mbx m).argF 0 0 12 ≠ 0) (hlen : ((s.mbx m).arg 3).toNat ≠ 0)
    (hst : (s.insOf ((s.mbx m).argF 0 0 12)).st = 4) (hlong : ((s.mbx m).arg 3).toNat < (s.blobBytes ((s.mbx m).argF 0 0 12)).length) :
    s.mbSave = s.mbDone m 0x0C 3 [(0, (s.blobBytes ((s.mbx m).argF 0 0 12)).length)] := by
  unfold State.mbSave
  rw [mbIns_of h (.inl hi)]
  exact (if_neg hlen).trans ((if_neg (not_not.mpr hst)).trans (if_pos hlong))

end

/-- Settles O38. -/
theorem saveWritesTheBlob : Obligations.SaveWritesTheBlob := by
  intro s m h x i b hi hlen hst
  refine ⟨fun hfits u hu => ?_, fun hlong => ?_⟩
  · have hkept := mbDone_kept_self u m 0 0 [(0, b.length), (1, leNat b 0x3C 4)]
    have hmbx : u.mbx m = s.mbx m := mbx_of_blk_eq ((State.writeBytes_kept (Within.self _) _ (Kept.refl _ s) _ _ hu).part .blk (by decide)) m
    refine ⟨_, exec_save s, ?_⟩
    beta_reduce
    rw [mbSave_writes h hi hlen hst hfits hu]
    exact ⟨ended_mbDone hmbx 0 (show [0, 1].Nodup by decide), hkept.part .mem (by decide), hkept.part .subs (by decide), hkept.part .ins (by decide)⟩
  · have hkept := mbDone_kept_self s m 0x0C 3 [(0, b.length)]
    refine ⟨_, exec_save s, ?_⟩
    beta_reduce
    rw [mbSave_refused h hi hlen hst hlong]
    exact ⟨ended_mbDone_detail rfl 0x0C (by decide) (show [0].Nodup by decide), hkept.part .mem (by decide), hkept.part .ins (by decide)⟩

/-! ### A reset that has drained (R837) -/

/-- The instance as RESET_DONE leaves it, before its mailbox hears of it. -/
def State.drained (s : State) (i : Nat) : State :=
  (s.updIns i fun y => { y with resetDone := true, st := if y.st = 2 then 1 else y.st }).raise (.ins i) 4

theorem resetDone_of {s : State} {i : Nat} (hdone : (s.insOf i).resetDone = false) (hold : s.oldWrites i = false) (hclear : s.trt.clearPend = false) :
    s.resetDone i = if (s.insOf i).st = 2 then (s.drained i).insTell i
      [(0, (s.insOf i).effAt % 2 ^ 32), (1, (s.drained i).genOf i), (2, (s.bclk - (s.insOf i).resetBclk) % 2 ^ 32)] else s.drained i := by
  unfold State.resetDone
  exact if_neg (by simp [hdone, hold, hclear])

theorem insOf_drained (s : State) (i : Nat) : (s.drained i).insOf i =
    { s.insOf i with resetDone := true, st := if (s.insOf i).st = 2 then 1 else (s.insOf i).st } := by
  unfold State.drained
  rw [insOf_raise, State.insOf_upd_self]

theorem flag_drained (s : State) (i : Nat) : flag ((s.drained i).page (.ins i)).isr 4 = true := flag_raise _ (.ins i) (by decide)

theorem genOf_drained (s : State) (i : Nat) : (s.drained i).genOf i = s.genOf i :=
  (genOf_of_kept (raise_kept_self _ (.ins i) 4) (by decide) i).trans (genOf_updIns s i _ i)

theorem mbx_drained (s : State) (i m : Nat) : (s.drained i).mbx m = s.mbx m :=
  mbx_of_blk_eq ((raise_kept_self (s.updIns i fun y => { y with resetDone := true, st := if y.st = 2 then 1 else y.st }) (.ins i) 4).part .blk (by decide)) m

/-! ### A freeze that has drained (R846) -/

/-- A ring as the freeze of its instance leaves it. -/
def Ring.frozen (s : State) (r : Nat) : Ring :=
  let g := (s.quiesceRing r).ring r
  { g with ctx := { g.ctx with st := if g.ctx.st = 3 then 3 else 4 } }

/-- A ring of a freezing instance is set down in memory. -/
def State.freezeRing (s : State) (r : Nat) : State :=
  ((s.quiesceRing r).updCtx r fun c => { c with st := if c.st = 3 then 3 else 4 }).writeBack r

theorem rings_writeBack (s : State) (r : Nat) : (s.writeBack r).rings = s.rings :=
  (State.writeBack_kept (Within.self _) (Kept.refl _ s) r).part .rings (by decide)

theorem ring_freezeRing (s : State) (r q : Nat) : (s.freezeRing r).ring q = if q = r then Ring.frozen s r else s.ring q := by
  unfold State.freezeRing State.updCtx Ring.frozen
  rw [ring_of_rings (rings_writeBack _ r), State.ring_upd]
  split
  · rfl
  · next hne => exact State.ring_upd_ne s hne _

theorem frozen_fields (s : State) (r : Nat) : (Ring.frozen s r).jobs = [] ∧ (Ring.frozen s r).ctx.st = if (s.ring r).ctx.st = 3 then 3 else 4 := by
  unfold Ring.frozen State.quiesceRing
  rw [State.ring_upd_self]
  refine ⟨rfl, ?_⟩
  dsimp only
  have hst : ∀ c : Ctx, c.st = (s.ring r).ctx.st → (if c.st = 3 then 3 else 4) = if (s.ring r).ctx.st = 3 then 3 else 4 := fun c hc => by rw [hc]
  refine hst _ ?_
  split
  · split <;> rfl
  · rfl

theorem ring_freezeRings {l : List Nat} {s : State} {r : Nat} (hr : r ∈ l) :
    ((l.foldl (fun s r => s.freezeRing r) s).ring r).jobs = [] ∧
      ((l.foldl (fun s r => s.freezeRing r) s).ring r).ctx.st = if (s.ring r).ctx.st = 3 then 3 else 4 := by
  have hother : ∀ (l : List Nat) (s : State), r ∉ l → (l.foldl (fun s r => s.freezeRing r) s).ring r = s.ring r := fun l => by
    induction l with
    | nil => exact fun _ _ => rfl
    | cons a l ih =>
      intro s hr
      obtain ⟨hne, hl⟩ := not_or.mp fun ho => hr (List.mem_cons.mpr ho)
      exact (ih (s.freezeRing a) hl).trans (by rw [ring_freezeRing, if_neg hne])
  induction l generalizing s with
  | nil => exact absurd hr List.not_mem_nil
  | cons a l ih =>
    have hself := frozen_fields s r
    by_cases hl : r ∈ l
    · obtain ⟨hjobs, hst⟩ := ih (s := s.freezeRing a) hl
      refine ⟨hjobs, hst.trans ?_⟩
      rw [ring_freezeRing]
      split
      · next ha =>
        subst ha
        rw [hself.2]
        by_cases h3 : (s.ring r).ctx.st = 3 <;> simp [h3]
      · rfl
    · obtain rfl : r = a := (List.mem_cons.mp hr).resolve_right hl
      rw [List.foldl_cons, hother l _ hl, ring_freezeRing, if_pos rfl]
      exact hself

/-- The rings of an instance are set down. -/
def State.ringsDown (s : State) (i : Nat) : State := (s.ringsOf i).foldl (fun s r => s.freezeRing r) s

theorem ringsDown_kept_self (s : State) (i : Nat) : Kept 0x22000a00 s (s.ringsDown i) :=
  Kept.foldl (f := fun s r => s.freezeRing r) (fun _ _ h => State.writeBack_kept ((Within.self _).of (by decide))
    (State.updCtx_kept ((Within.self _).of (by decide)) (State.quiesceRing_kept ((Within.self _).of (by decide)) h _) _ _) _) (Kept.refl _ s) _

/-- The instance once its rings are set down (R846). -/
def State.frozen (s : State) (i : Nat) : State := ((s.ringsDown i).updIns i fun y => { y with st := 4 }).raise (.ins i) 5

theorem quiesced_of {s : State} {i : Nat} (hst : (s.insOf i).st = 3)
    (htags : (s.gws.any fun e => e.2.tags.any fun t => t.2.itag == i && decide (0 < t.2.left)) = false)
    (hops : (s.les.any fun e => e.2.ops.any fun o => o.itag == i) = false) (hform : ∀ r ∈ s.ringsOf i, s.mayForm r = false) :
    s.quiesced i = (s.frozen i).insTell i [(0, (s.insOf i).effAt % 2 ^ 32)] := by
  unfold State.quiesced
  refine if_neg ?_
  rintro (h3 | hbusy | hmay)
  · exact h3 hst
  · rw [htags, hops] at hbusy
    exact Bool.false_ne_true hbusy
  · obtain ⟨r, hr, hyes⟩ := List.any_eq_true.mp hmay
    rw [hform r hr] at hyes
    exact Bool.false_ne_true hyes

theorem insOf_frozen (s : State) (i : Nat) : (s.frozen i).insOf i = { s.insOf i with st := 4 } := by
  unfold State.frozen
  rw [insOf_raise, State.insOf_upd_self, insOf_of_ins ((ringsDown_kept_self s i).part .ins (by decide))]

theorem mbx_frozen (s : State) (i m : Nat) : (s.frozen i).mbx m = s.mbx m :=
  mbx_of_blk_eq (((raise_kept_self _ (.ins i) 5).part .blk (by decide)).trans ((ringsDown_kept_self s i).part .blk (by decide))) m

theorem ring_frozen (s : State) (i r : Nat) : (s.frozen i).ring r = (s.ringsDown i).ring r :=
  ring_of_rings ((raise_kept_self ((s.ringsDown i).updIns i fun y => { y with st := 4 }) (.ins i) 5).part .rings
    (by decide)) r

/-! ### The interrupt message of an instance (R844) -/

theorem msgsDue_of_none {s : State} (h : s.blk.msgs = []) : s.msgsDue = s := by
  have hblk : { s.blk with msgs := [], delivered := s.blk.delivered } = s.blk := by rw [← h]
  unfold State.msgsDue
  rw [h]
  change { s with blk := { s.blk with msgs := [], delivered := s.blk.delivered } } = s
  rw [hblk]

theorem resendMsgs_of_none {s : State} (h : s.blk.msgs = []) : s.resendMsgs = s := by
  have hblk : { s.blk with msgs := [] } = s.blk := by rw [← h]
  unfold State.resendMsgs
  rw [h]
  change { s with blk := { s.blk with msgs := [] } } = s
  rw [hblk]

/-- A message joins those under way, held where its port's link is not up or the routes are on hold (R115, R844). -/
theorem msgs_sendMsg (s : State) (x : IntMsg) (f : Nat) : ∃ y : IntMsg, (s.sendMsg x f).blk.msgs = s.blk.msgs ++ [y] ∧ y.port = x.port ∧
    y.addr = x.addr ∧ y.data = x.data ∧ y.ins = x.ins ∧ y.held = (!s.linkUp x.port || s.trt.hold) := by
  by_cases hheld : (!s.linkUp x.port) = true ∨ s.trt.hold = true
  · refine ⟨{ x with held := true }, ?_, rfl, rfl, rfl, rfl, ?_⟩
    · unfold State.sendMsg
      rw [if_pos hheld]
    · rcases hheld with h | h <;> simp [h]
  · refine ⟨{ x with at_ := s.msgAt x.port f, held := false }, ?_, rfl, rfl, rfl, rfl, ?_⟩
    · unfold State.sendMsg
      rw [if_neg hheld]
      dsimp only
      exact congrArg Blk.msgs ((State.routeEvents_kept (Within.self _) (State.ev_kept (Within.self _) (Kept.refl _ _) _) _ _).part .blk (by decide))
    · rw [not_or] at hheld
      simp [hheld.1, hheld.2]

theorem insMessage_of {s : State} {i : Nat} (hi : i < 4096) (hmsgs : s.blk.msgs = []) (hmode : flag (s.reg (.ins i) 0x050) 2 = true)
    (hdue : (s.insOf i).msgDue = none) (hon : (s.page (.ins i)).asserts = true) (hnew : (s.insOf i).asserted = false) :
    s.insMessage i = (s.updIns i fun x => { x with msgDue := none, asserted := true }).sendMsg
      { port := fld (s.reg (.ins i) 0x050) 8 4, addr := (s.insOf i).msgAddr, data := (s.insOf i).msgData, ins := some i }
      (max s.bclk (((((s.page (.ins i)).wire.head?).map (·.1)).getD s.bclk) + 5)) := by
  unfold State.insMessage
  rw [msgsDue_of_none hmsgs, resendMsgs_of_none hmsgs]
  dsimp only
  rw [if_neg (by simp [hmode, hon, hnew]; omega), hdue, hon]
  rfl

/-- Settles O39. -/
theorem instancesDrain : Obligations.InstancesDrain := by
  intro s i x
  refine ⟨fun hdone hold hclear hst hmb => ?_, fun hdone hold hclear hst m hmb => ?_, fun hdone hold hclear hst => ?_,
    fun hst htags hops hform => ?_, fun hmsgs hmode hdue hon hnew => ?_⟩
  · have hnone : (s.drained i).insTell i [(0, x.effAt % 2 ^ 32), (1, (s.drained i).genOf i), (2, (s.bclk - x.resetBclk) % 2 ^ 32)] = s.drained i := by
      unfold State.insTell
      rw [insOf_drained, show (s.insOf i).mb = none from hmb]
    refine ⟨_, exec_resetDone i s, ?_⟩
    beta_reduce
    rw [resetDone_of hdone hold hclear, if_pos hst, hnone, insOf_drained, if_pos hst]
    exact ⟨rfl, flag_drained s i⟩
  · refine ⟨_, exec_resetDone i s, ?_⟩
    beta_reduce
    rw [resetDone_of hdone hold hclear, if_pos hst, genOf_drained, insOf_insTell, insOf_drained, if_pos hst]
    exact ⟨ended_insTell (by rw [insOf_drained]; exact hmb) (mbx_drained s i m) (show [0, 1, 2].Nodup by decide), rfl⟩
  · refine ⟨_, exec_resetDone i s, ?_⟩
    beta_reduce
    rw [resetDone_of hdone hold hclear, if_neg hst, insOf_drained, if_neg hst]
    exact ⟨rfl, flag_drained s i⟩
  · have hkept := insTell_kept_self (s.frozen i) i [(0, x.effAt % 2 ^ 32)]
    refine ⟨_, exec_quiesced i s, ?_⟩
    beta_reduce
    rw [quiesced_of hst htags hops hform, insOf_insTell, insOf_frozen]
    refine ⟨rfl, rfl, fun r hr => ?_, fun m hmb => ended_insTell (by rw [insOf_frozen]; exact hmb) (mbx_frozen s i m) (show [0].Nodup by decide)⟩
    rw [ring_of_rings (hkept.part .rings (by decide)), ring_frozen]
    exact ring_freezeRings hr
  · let u := s.updIns i fun x => { x with msgDue := none, asserted := true }
    refine ⟨_, exec_instanceIntMessage i s, ?_⟩
    beta_reduce
    rw [insMessage_of i.isLt hmsgs hmode hdue hon hnew]
    obtain ⟨y, hy, hport, haddr, hdata, hins, hheld⟩ := msgs_sendMsg u
      { port := fld (s.reg (.ins i) 0x050) 8 4, addr := x.msgAddr, data := x.msgData, ins := some i.val }
      (max s.bclk (((((s.page (.ins i)).wire.head?).map (·.1)).getD s.bclk) + 5))
    refine ⟨?_, y, hy.trans (by rw [show u.blk.msgs = [] from hmsgs]; rfl), hport, haddr, hdata, hins, hheld⟩
    rw [insOf_of_ins ((State.sendMsg_kept (Within.self _) (Kept.refl _ _) _ _).part .ins (by decide)), State.insOf_upd_self]

end Sys2Proof.Machine
end

section
/-! CHAN_TEST (R883 to R885): a test ends with its results in their order, so of two for one register the later stands. -/
namespace Sys2Proof.Machine

/-- A channel test that ends at the tick with two results for MB_RES0. -/
def testTwice : State := { State.reset with tst := { on := true, mb := some 0, fin := some (0, [(0, 1), (0, 2)], 0) } }

theorem testTwice_res : Tbl.get (fun _ => 0) (testTwice.testTick.mbx 0).res 0 = 2 := by decide +kernel

/-- Refutes O40: a test's results are written to the mailbox in their order (R137), and the statement reads the first that names a register.
A state may hold two: in `testTwice` MB_RES0 takes 1 and then 2. -/
theorem not_liveServiceCommandsStart : ¬ Obligations.LiveServiceCommandsStart := by
  unfold Obligations.LiveServiceCommandsStart
  rintro ⟨-, htick, -⟩
  obtain ⟨-, -, -, -, -, -, -, hends⟩ := htick testTwice 0 [(0, 1), (0, 2)] 0 rfl rfl (Nat.zero_le _)
  obtain ⟨-, -, -, -, -, -, hres⟩ := hends 0 rfl
  have hres0 := hres 0
  rw [testTwice_res] at hres0
  exact absurd hres0 (by decide)

end Sys2Proof.Machine
end

section
/-! Flits at a gateway's port (R149, R152, R155, R163, R166, R960): what a flit with the expected number does, by the port's state. -/
namespace Sys2Proof.Machine

/-! ### The port's operations on their gateway -/

/-- A gateway that has taken a good flit with the expected number in BCLK `t` (R149 to R151). -/
def Gw.flitTaken (w : Gw) (t : Nat) : Gw :=
  { w with expSeq := (w.expSeq + 1) % 4096, nakMode := false, unacked := some (w.unacked.getD t) }

/-- The block with that gateway. -/
def State.flitTaken (s : State) (g : Nat) : State := s.updGw g fun w => w.flitTaken s.bclk

theorem flitIn_of_ok {s : State} {g seq : Nat} (h : s.flitOk g seq) (f : State → State) : s.flitIn g (seq % 4096) f = f (s.flitTaken g) := by
  obtain ⟨hlink, hen, hseq⟩ := h
  have hup : s.linkUp g = true := by
    unfold State.linkUp
    rw [hlink, hen]
    rfl
  unfold State.flitIn
  rw [if_neg (by rw [hup]; decide), if_pos ((Nat.mod_mod _ _).trans hseq)]
  rfl

theorem seq_cutHdr (h : ReqHdr) : (cutHdr h).seq = h.seq % 4096 := rfl

theorem hdrFlit_of_ok {s : State} {g : Fin 16} {h : ReqHdr} (hok : s.flitOk g (cutHdr h).seq) :
    s.hdrFlit g h = (s.flitTaken g).headerIn g (cutHdr h) := by
  rw [seq_cutHdr] at hok
  unfold State.hdrFlit
  rw [← Nat.mod_mod h.seq 4096, flitIn_of_ok hok]

theorem dataFlit_of_ok {s : State} {g : Fin 16} {seq : Nat} (hok : s.flitOk g seq) (d : Line) :
    s.dataFlit g seq d = (s.flitTaken g).dataIn g d := flitIn_of_ok hok _

theorem gw_flitTaken (s : State) (g : Nat) : (s.flitTaken g).gw g = (s.gw g).flitTaken s.bclk := State.gw_upd_self _ g _

/-- A gateway that has counted a protocol error (R214). -/
def Gw.protoErr (w : Gw) : Gw := { w with protoCnt := satAdd 255 w.protoCnt 1 }

theorem gw_protoErr (s : State) (g : Nat) : (s.protoErr g).gw g = (s.gw g).protoErr :=
  (gw_raise _ _ _ _).trans (State.gw_upd_self _ g _)

theorem bclk_protoErr (s : State) (g : Nat) : (s.protoErr g).bclk = s.bclk := rfl

theorem page_updGw (s : State) (g : Nat) (f : Gw → Gw) (p : PageId) : (s.updGw g f).page p = s.page p := rfl
theorem pkts_raise (s : State) (p : PageId) (b : Nat) : (s.raise p b).pkts = s.pkts := rfl

theorem pkts_protoErr (s : State) (g : Nat) : (s.protoErr g).pkts = s.pkts := (pkts_raise _ _ _).trans (State.pkts_updGw _ g _)

theorem isr_protoErr (s : State) (g : Nat) : flag ((s.protoErr g).page (.gw g)).isr 1 = true := flag_raise _ (.gw g) (by decide)

/-- A gateway with a header flit taken as a new item (R152, R184). -/
def Gw.newItem (w : Gw) (h : ReqHdr) (t thr : Nat) : Gw :=
  { w with reqHdr := w.reqHdr - 1, fifo := w.fifo ++ [{ hdr := h, at_ := t, thr := thr }], due := if h.last then 0 else if h.opcode = 3 then 1 else 2 }

theorem gw_newItem (s : State) (g : Nat) (h : ReqHdr) : (s.newItem g h).gw g = (s.gw g).newItem h s.bclk (s.ctThresh g) := State.gw_upd_self _ g _

/-! ### Headers by the port's state -/

theorem headerIn_of_clear {u : State} {g : Nat} (hcr : 0 < (u.gw g).reqHdr) (htail : (u.gw g).tailDisc = false) (hdue : (u.gw g).due = 0) (h : ReqHdr) :
    u.headerIn g h = u.newItem g h := by
  unfold State.headerIn
  dsimp only
  rw [if_neg (Nat.ne_of_gt hcr), if_neg (by rw [htail]; decide), if_neg (by rw [hdue]; decide), if_neg (by rw [hdue]; decide)]

theorem headerIn_of_tail {u : State} {g : Nat} (hcr : 0 < (u.gw g).reqHdr) (htail : (u.gw g).tailDisc = true) (h : ReqHdr) :
    u.headerIn g h = ((u.protoErr g).updGw g fun w => { w with tailDisc := false, discAt := some u.bclk }).newItem g h := by
  unfold State.headerIn
  dsimp only
  rw [if_neg (Nat.ne_of_gt hcr), if_pos htail]

theorem headerIn_of_data {u : State} {g : Nat} (hcr : 0 < (u.gw g).reqHdr) (htail : (u.gw g).tailDisc = false) (hdue : (u.gw g).due = 1) (h : ReqHdr) :
    u.headerIn g h = ((u.protoErr g).dropWrite g).newItem g h := by
  unfold State.headerIn
  dsimp only
  rw [if_neg (Nat.ne_of_gt hcr), if_neg (by rw [htail]; decide), if_neg (by rw [hdue]; decide), if_pos hdue]

/-! ### Data flits by the port's state -/

theorem dataIn_of_tail {u : State} {g : Nat} (hcr : 0 < (u.gw g).reqData) (htail : (u.gw g).tailDisc = true) (d : Line) :
    u.dataIn g d = u.updGw g fun w => { w with tailDisc := false, discAt := some u.bclk, crData := w.crData + 1 } := by
  unfold State.dataIn
  dsimp only
  rw [if_neg (Nat.ne_of_gt hcr), if_pos htail]

theorem dataIn_of_skip {u : State} {g : Nat} (hcr : 0 < (u.gw g).reqData) (htail : (u.gw g).tailDisc = false) (hdue : (u.gw g).due = 2) (d : Line) :
    u.dataIn g d = u.updGw g fun w => w.skipFlit false := by
  unfold State.dataIn
  dsimp only
  rw [if_neg (Nat.ne_of_gt hcr), if_neg (by rw [htail]; decide), if_pos hdue]

theorem dataIn_of_data {u : State} {g : Nat} (hcr : 0 < (u.gw g).reqData) (htail : (u.gw g).tailDisc = false) (hdue : (u.gw g).due = 1) (d : Line) :
    u.dataIn g d = u.updGw g fun w => w.joinData d u.bclk := by
  unfold State.dataIn
  dsimp only
  rw [if_neg (Nat.ne_of_gt hcr), if_neg (by rw [htail]; decide), if_neg (by rw [hdue]; decide), if_pos hdue]

theorem dataIn_of_stray {u : State} {g : Nat} (hcr : 0 < (u.gw g).reqData) (htail : (u.gw g).tailDisc = false) (hdue : (u.gw g).due = 0) (d : Line) :
    u.dataIn g d = (u.protoErr g).updGw g fun w => { w with crData := w.crData + 1 } := by
  unfold State.dataIn
  dsimp only
  rw [if_neg (Nat.ne_of_gt hcr), if_neg (by rw [htail]; decide), if_neg (by rw [hdue]; decide), if_neg (by rw [hdue]; decide)]

/-! ### The write whose data is due -/

theorem partLast_of_writeDue {s : State} {g : Nat} {is : List Item} {i : Item} (h : s.writeDue g is i) : (s.gw g).partLast = true := by
  obtain ⟨hfifo, hlast, hdata, -, -⟩ := h
  unfold Gw.partLast
  rw [hfifo, List.getLast?_concat]
  unfold Item.part Item.flits
  dsimp only
  rw [hlast, hdata]
  rfl

theorem fillLast_concat (d : Line) (is : List Item) (i : Item) : fillLast d (is ++ [i]) = is ++ [{ i with data := some d }] := by
  induction is with
  | nil => rfl
  | cons a is ih =>
    cases is with
    | nil => rfl
    | cons b is => exact congrArg (a :: ·) ih

/-- The answer MALFORMED to a write in the FIFO whose data is missing (R960). -/
def missingAnswer (g t : Nat) (i : Item) : Resp := { req := hdrReq i.hdr g 0 (i.hdr.itag % 4096) 0 t i.at_, status := stMalformed, bare := true }

/-- The answer to one in the pipeline. -/
def missingLine (l : PLine) : Resp := { req := l.req, status := stMalformed, rkind := if l.req.use = 9 then 3 else 4, thr := l.req.thr }

/-- A gateway that has taken a write whose data is missing out of its FIFO (R960). -/
def Gw.writeDropped (w : Gw) : Gw := { w with due := 0, malfCnt := satAdd 65535 w.malfCnt 1, fifo := w.fifo.dropLast }.giveBack 1 0

/-- A gateway that has taken one out of its pipeline. -/
def Gw.lineDropped (w : Gw) : Gw := { w with due := 0, malfCnt := satAdd 65535 w.malfCnt 1, pipe := w.pipe.filter fun x => !x.wait }

theorem gw_dropWrite_fifo {u : State} {g : Nat} {is : List Item} {i : Item} (hfifo : (u.gw g).fifo = is ++ [i]) (hpart : (u.gw g).partLast = true) :
    (u.dropWrite g).gw g = (u.gw g).writeDropped.egress [{ resp := missingAnswer g u.bclk i, at_ := u.bclk + 1, own := true }] := by
  unfold State.dropWrite
  dsimp only
  rw [if_pos hpart, hfifo, List.getLast?_concat]
  dsimp only
  rw [gw_ownResp, State.gw_upd_self, State.gw_upd_self]
  rfl

theorem gw_dropWrite_line {u : State} {g : Nat} {l : PLine} (hpart : (u.gw g).partLast = false) (hline : (u.gw g).pipe.find? (·.wait) = some l) :
    (u.dropWrite g).gw g = (u.gw g).lineDropped.egress [{ resp := missingLine l, at_ := u.bclk + 1, own := true }] := by
  unfold State.dropWrite
  dsimp only
  rw [if_neg (by rw [hpart]; decide)]
  dsimp only
  rw [hline]
  dsimp only
  unfold State.refuse
  rw [gw_ownResp, State.gw_upd_self, State.gw_upd_self]
  rfl

theorem bclk_dropWrite (u : State) (g : Nat) : (u.dropWrite g).bclk = u.bclk := by
  unfold State.dropWrite
  dsimp only
  split
  · exact bclk_ownResp _ _ _ _
  · split
    · exact bclk_ownResp _ _ _ _
    · rfl

theorem ctThresh_of_reg {s t : State} {g : Nat} (h : t.reg (.gw g) 0x050 = s.reg (.gw g) 0x050) : t.ctThresh g = s.ctThresh g := by
  unfold State.ctThresh
  rw [h]

theorem sameBody_ownResp (s : State) (g : Nat) (r : Resp) (t : Nat) : SameBody s (s.ownResp g r t) :=
  (State.ev_body s _).trans (SameBody.of_pages rfl)

theorem sameBody_updGw (s : State) (g : Nat) (f : Gw → Gw) : SameBody s (s.updGw g f) := SameBody.of_pages rfl

theorem sameBody_dropWrite (u : State) (g : Nat) : SameBody u (u.dropWrite g) := by
  unfold State.dropWrite
  dsimp only
  split
  · exact (sameBody_updGw u g _).trans ((sameBody_updGw _ g _).trans (sameBody_ownResp _ g _ _))
  · split
    · exact (sameBody_updGw u g _).trans ((sameBody_updGw _ g _).trans (sameBody_ownResp _ g _ _))
    · exact sameBody_updGw u g _

theorem sameBody_protoErr (u : State) (g : Nat) : SameBody u (u.protoErr g) := (sameBody_updGw u g _).trans (State.raise_body _ _ _)

theorem ctThresh_of_body {s t : State} (h : SameBody s t) (g : Nat) : t.ctThresh g = s.ctThresh g := ctThresh_of_reg (reg_of_body (h (.gw g)) 0x050)

theorem bclk_taken_protoErr (s : State) (g : Nat) : ((s.flitTaken g).protoErr g).bclk = s.bclk := bclk_protoErr (s.flitTaken g) g

/-- A gateway where a header comes instead of a write's data: the write is dropped, and the header is taken. -/
theorem gw_headerIn_missing {s : State} {g : Nat} {w : Gw} (hdrop : ((((s.flitTaken g).protoErr g).dropWrite g).gw g) = w) (h : ReqHdr) :
    ((((s.flitTaken g).protoErr g).dropWrite g).newItem g h).gw g = w.newItem h s.bclk (s.ctThresh g) := by
  rw [gw_newItem, hdrop, bclk_dropWrite]
  have hbody : SameBody s (((s.flitTaken g).protoErr g).dropWrite g) :=
    (sameBody_updGw s g _).trans ((sameBody_protoErr _ g).trans (sameBody_dropWrite _ g))
  rw [ctThresh_of_body hbody, bclk_taken_protoErr]

theorem exec_lineWriteData (s : State) (g : Fin 16) (seq : Nat) (d : Line) : exec (.lineWriteData g seq d) s = .next (s.dataFlit g seq d) := rfl
theorem exec_strayDataFlit (s : State) (g : Fin 16) (seq : Nat) (d : Line) : exec (.strayDataFlit g seq d) s = .next (s.dataFlit g seq d) := rfl
theorem exec_tailDiscardEat (s : State) (g : Fin 16) (seq : Nat) (d : Line) : exec (.tailDiscardEat g seq d) s = .next (s.dataFlit g seq d) := rfl
theorem exec_missingWriteData (s : State) (g : Fin 16) (h : ReqHdr) : exec (.missingWriteData g h) s = .next (s.hdrFlit g h) := rfl

section
variable {s : State} {g : Fin 16}

theorem taken_field {α : Type} (f : Gw → α) (hf : f ((s.gw g).flitTaken s.bclk) = f (s.gw g)) : f ((s.flitTaken g).gw g) = f (s.gw g) :=
  (congrArg f (gw_flitTaken s g)).trans hf

theorem lineWriteData_joins {seq : Nat} {d : Line} (hok : s.flitOk g seq) (hcr : 0 < (s.gw g).reqData) (htail : (s.gw g).tailDisc = false)
    (hdue : (s.gw g).due = 1) : (s.dataFlit g seq d).gw g = ((s.gw g).flitTaken s.bclk).joinData d s.bclk := by
  rw [dataFlit_of_ok hok, dataIn_of_data ((taken_field Gw.reqData rfl).symm ▸ hcr) ((taken_field Gw.tailDisc rfl).trans htail)
    ((taken_field Gw.due rfl).trans hdue), State.gw_upd_self, gw_flitTaken]
  rfl

theorem joinData_of_part {w : Gw} (h : w.partLast = true) (d : Line) (t : Nat) :
    w.joinData d t = { w with due := 0, reqData := w.reqData - 1, fifo := fillLast d w.fifo } := if_pos h

theorem joinData_of_line {w : Gw} (h : w.partLast = false) (d : Line) (t : Nat) :
    w.joinData d t = { w with due := 0, crData := w.crData + 1, pipe := w.pipe.map fun l =>
      if l.wait then { l with wait := false, g0 := max l.g0 (t - 4), req := { l.req with data := d } } else l } :=
  if_neg (by rw [h]; decide)

end

theorem mem_egress_newItem (w : Gw) (e : Eg) (h : ReqHdr) (t thr : Nat) : e ∈ ((w.egress [e]).newItem h t thr).eg :=
  List.mem_append_right w.eg (List.mem_singleton.mpr rfl)

/-- The gateway that a header finds where a write's data is due, once it has counted the protocol error. -/
theorem gw_taken_protoErr (s : State) (g : Nat) : ((s.flitTaken g).protoErr g).gw g = ((s.gw g).flitTaken s.bclk).protoErr := by
  rw [gw_protoErr, gw_flitTaken]

theorem hdrFlit_missing {s : State} {g : Fin 16} {h : ReqHdr} (hok : s.flitOk g (cutHdr h).seq) (hcr : 0 < (s.gw g).reqHdr)
    (htail : (s.gw g).tailDisc = false) (hdue : (s.gw g).due = 1) :
    s.hdrFlit g h = (((s.flitTaken g).protoErr g).dropWrite g).newItem g (cutHdr h) := by
  rw [hdrFlit_of_ok hok, headerIn_of_data ((taken_field Gw.reqHdr rfl).symm ▸ hcr) ((taken_field Gw.tailDisc rfl).trans htail)
    ((taken_field Gw.due rfl).trans hdue)]

theorem gw_missing_fifo {s : State} {g : Fin 16} {h : ReqHdr} (hok : s.flitOk g (cutHdr h).seq) (hcr : 0 < (s.gw g).reqHdr)
    {is : List Item} {i : Item} (hw : s.writeDue g is i) : (s.hdrFlit g h).gw g =
      ((((s.gw g).flitTaken s.bclk).protoErr.writeDropped.egress [{ resp := missingAnswer g s.bclk i, at_ := s.bclk + 1, own := true }]).newItem
        (cutHdr h) s.bclk (s.ctThresh g)) := by
  obtain ⟨hfifo, -, -, hdue, htail⟩ := id hw
  have hproto := gw_taken_protoErr s g
  rw [hdrFlit_missing hok hcr htail hdue]
  refine gw_headerIn_missing ?_ (cutHdr h)
  rw [gw_dropWrite_fifo ((congrArg Gw.fifo hproto).trans hfifo) ((congrArg Gw.partLast hproto).trans (partLast_of_writeDue hw)), hproto,
    bclk_taken_protoErr]

theorem gw_missing_line {s : State} {g : Fin 16} {h : ReqHdr} (hok : s.flitOk g (cutHdr h).seq) (hcr : 0 < (s.gw g).reqHdr)
    (htail : (s.gw g).tailDisc = false) (hdue : (s.gw g).due = 1) {l : PLine} (hpart : (s.gw g).partLast = false)
    (hline : (s.gw g).pipe.find? (·.wait) = some l) : (s.hdrFlit g h).gw g =
      ((((s.gw g).flitTaken s.bclk).protoErr.lineDropped.egress [{ resp := missingLine l, at_ := s.bclk + 1, own := true }]).newItem
        (cutHdr h) s.bclk (s.ctThresh g)) := by
  have hproto := gw_taken_protoErr s g
  rw [hdrFlit_missing hok hcr htail hdue]
  refine gw_headerIn_missing ?_ (cutHdr h)
  rw [gw_dropWrite_line ((congrArg Gw.partLast hproto).trans hpart) ((congrArg (fun w : Gw => w.pipe.find? (·.wait)) hproto).trans hline), hproto,
    bclk_taken_protoErr]

/-- Settles O45: a flit with the expected number comes to the port's own reading of it, whose branches are the statement's cases. -/
theorem portTakesDataFlits : Obligations.PortTakesDataFlits := by
  unfold Obligations.PortTakesDataFlits
  refine fun s g => ⟨fun seq d hok hcr => ⟨fun is i hw => ⟨_, exec_lineWriteData s g seq d, ?_⟩,
    fun hpart hdue htail => ⟨_, exec_lineWriteData s g seq d, ?_⟩, fun htail => ⟨_, exec_tailDiscardEat s g seq d, ?_⟩,
    fun htail hdue => ⟨_, exec_strayDataFlit s g seq d, ?_⟩, fun htail hdue => ⟨_, exec_lineWriteData s g seq d, ?_⟩⟩, fun h => ?_⟩
  · obtain ⟨hfifo, -, -, hdue, htail⟩ := id hw
    rw [lineWriteData_joins hok hcr htail hdue, joinData_of_part (w := (s.gw g).flitTaken s.bclk) (partLast_of_writeDue hw)]
    generalize s.gw g = w at hfifo ⊢
    exact ⟨rfl, rfl, (congrArg (fillLast d) hfifo).trans (fillLast_concat d is i), rfl⟩
  · beta_reduce
    rw [lineWriteData_joins hok hcr htail hdue, joinData_of_line (w := (s.gw g).flitTaken s.bclk) hpart]
    generalize s.gw g = w
    exact ⟨rfl, rfl, rfl, rfl, rfl⟩
  · beta_reduce
    rw [dataFlit_of_ok hok, dataIn_of_tail ((taken_field Gw.reqData rfl).symm ▸ hcr) ((taken_field Gw.tailDisc rfl).trans htail),
      State.gw_upd_self, gw_flitTaken]
    generalize s.gw g = w
    exact ⟨rfl, rfl, rfl, rfl, rfl, rfl, rfl⟩
  · beta_reduce
    rw [dataFlit_of_ok hok, dataIn_of_stray ((taken_field Gw.reqData rfl).symm ▸ hcr) ((taken_field Gw.tailDisc rfl).trans htail)
      ((taken_field Gw.due rfl).trans hdue), State.gw_upd_self, gw_protoErr, gw_flitTaken,
      page_updGw, State.pkts_updGw, pkts_protoErr]
    generalize s.gw g = w
    exact ⟨rfl, isr_protoErr (s.flitTaken g) g, rfl, rfl, rfl, rfl, State.pkts_updGw _ g _⟩
  · beta_reduce
    rw [dataFlit_of_ok hok, dataIn_of_skip ((taken_field Gw.reqData rfl).symm ▸ hcr) ((taken_field Gw.tailDisc rfl).trans htail)
      ((taken_field Gw.due rfl).trans hdue), State.gw_upd_self, gw_flitTaken]
    generalize s.gw g = w
    exact ⟨rfl, rfl, rfl, rfl, rfl⟩
  · intro y hok hcr htail new
    refine ⟨fun is i hw => ⟨_, exec_missingWriteData s g h, ?_⟩, fun l hpart hdue hline => ⟨_, exec_missingWriteData s g h, ?_⟩⟩
    · beta_reduce
      have hfifo := hw.1
      rw [gw_missing_fifo hok hcr hw]
      generalize s.gw g = w at hfifo ⊢
      refine ⟨?_, Nat.add_sub_cancel _ 1, rfl, rfl, { resp := missingAnswer g s.bclk i, at_ := s.bclk + 1, own := true }, ?_, rfl, rfl, rfl⟩
      · exact congrArg (· ++ [new]) ((congrArg List.dropLast hfifo).trans List.dropLast_concat)
      · exact mem_egress_newItem _ _ _ _ _
    · beta_reduce
      rw [gw_missing_line hok hcr htail hdue hpart hline]
      generalize s.gw g = w
      refine ⟨rfl, rfl, rfl, rfl, rfl, { resp := missingLine l, at_ := s.bclk + 1, own := true }, ?_, rfl, rfl, rfl⟩
      exact mem_egress_newItem _ _ _ _ _

end Sys2Proof.Machine
end

section
/-! Requests at a port (R164 to R167, R175, R184, R189): the header flit, and what G0 does with its item. -/
namespace Sys2Proof.Machine

theorem exec_lineRead (s : State) (g : Fin 16) (h : ReqHdr) : exec (.lineRead g h) s = .next (s.hdrFlit g h) := rfl
theorem exec_multiRead (s : State) (g : Fin 16) (h : ReqHdr) : exec (.multiRead g h) s = .next (s.hdrFlit g { h with opcode := 2 }) := rfl
theorem exec_lineWrite (s : State) (g : Fin 16) (h : ReqHdr) : exec (.lineWrite g h) s = .next (s.hdrFlit g { h with opcode := 3 }) := rfl
theorem exec_tailDiscardHeader (s : State) (g : Fin 16) (h : ReqHdr) : exec (.tailDiscardHeader g h) s = .next (s.hdrFlit g h) := rfl
theorem exec_svcAccess (s : State) (g : Fin 16) (h : ReqHdr) : exec (.svcAccess g h) s = .next (s.svcAccess g (cutHdr { h with opcode := 4 })) := rfl

/-! ### The header flit (R149, R152, R184, R189) -/

theorem headerTaken_of_clear {s : State} {g : Fin 16} {h : ReqHdr} (hok : s.flitOk g (cutHdr h).seq) (hclear : s.portClear g) :
    HeaderTaken s (s.hdrFlit g h) g (cutHdr h) ∧ ((s.hdrFlit g h).gw g).protoCnt = (s.gw g).protoCnt := by
  obtain ⟨hdue, htail, hcr⟩ := hclear
  have heq : s.hdrFlit g h = (s.flitTaken g).newItem g (cutHdr h) := by
    rw [hdrFlit_of_ok hok, headerIn_of_clear ((taken_field Gw.reqHdr rfl).symm ▸ hcr) ((taken_field Gw.tailDisc rfl).trans htail)
      ((taken_field Gw.due rfl).trans hdue)]
  have hgw : (s.hdrFlit g h).gw g = ((s.gw g).flitTaken s.bclk).newItem (cutHdr h) s.bclk (s.ctThresh g) := by
    have hthr : (s.flitTaken g).ctThresh g = s.ctThresh g := ctThresh_of_body (sameBody_updGw s g _) g
    rw [heq, gw_newItem, gw_flitTaken, hthr]
    rfl
  have hpkts : (s.hdrFlit g h).pkts = s.pkts := (congrArg State.pkts heq).trans ((State.pkts_updGw _ g _).trans (State.pkts_updGw _ g _))
  unfold HeaderTaken
  rw [hgw, hpkts]
  generalize s.gw g = w
  exact ⟨⟨rfl, rfl, rfl, rfl, rfl, rfl⟩, rfl⟩

/-- A gateway whose tail discard a header ends (R189). -/
def Gw.tailEnded (w : Gw) (t : Nat) : Gw := { w with tailDisc := false, discAt := some t }

theorem headerTaken_of_tail {s : State} {g : Fin 16} {h : ReqHdr} (hok : s.flitOk g (cutHdr h).seq) (htail : (s.gw g).tailDisc = true)
    (hcr : 0 < (s.gw g).reqHdr) : HeaderTaken s (s.hdrFlit g h) g (cutHdr h) ∧
      ((s.hdrFlit g h).gw g).protoCnt = satAdd 255 (s.gw g).protoCnt 1 ∧ ((s.hdrFlit g h).gw g).tailDisc = false ∧
      ((s.hdrFlit g h).gw g).discAt = some s.bclk := by
  have heq : s.hdrFlit g h = (((s.flitTaken g).protoErr g).updGw g fun w => w.tailEnded s.bclk).newItem g (cutHdr h) := by
    rw [hdrFlit_of_ok hok, headerIn_of_tail ((taken_field Gw.reqHdr rfl).symm ▸ hcr) ((taken_field Gw.tailDisc rfl).trans htail)]
    rfl
  have hgw : (s.hdrFlit g h).gw g = (((s.gw g).flitTaken s.bclk).protoErr.tailEnded s.bclk).newItem (cutHdr h) s.bclk (s.ctThresh g) := by
    have hthr : (((s.flitTaken g).protoErr g).updGw g fun w => w.tailEnded s.bclk).ctThresh g = s.ctThresh g :=
      ctThresh_of_body (((sameBody_updGw s g _).trans (sameBody_protoErr _ g)).trans (sameBody_updGw _ g _)) g
    rw [heq, gw_newItem, State.gw_upd_self, gw_taken_protoErr, State.bclk_updGw, bclk_taken_protoErr, hthr]
  have hpkts : (s.hdrFlit g h).pkts = s.pkts := by
    rw [heq]
    exact (State.pkts_updGw _ g _).trans ((State.pkts_updGw _ g _).trans ((pkts_protoErr _ g).trans (State.pkts_updGw _ g _)))
  unfold HeaderTaken
  rw [hgw, hpkts]
  generalize s.gw g = w
  exact ⟨⟨rfl, rfl, rfl, rfl, rfl, rfl⟩, rfl, rfl, rfl⟩

/-! ### G0 (R166, R167, R175) -/

/-- A gateway whose first item leaves the FIFO at G0, which is busy up to BCLK `free`. -/
def Gw.g0Taken (w : Gw) (i : Item) (rest : List Item) (free : Nat) : Gw :=
  { w with fifo := rest, g0Free := free }.giveBack 1 (b2n (i.data.isSome && i.hdr.opcode == 3))

/-- The tag record of an item that leaves G0 with `n` answers to come. -/
def g0Tag (i : Item) (n : Nat) : TagRec := { left := n, itag := i.hdr.itag % 4096, wr := i.hdr.opcode == 3, at_ := i.at_ }

/-- A gateway with a tag recorded. -/
def Gw.tagged (w : Gw) (t : Nat) (r : TagRec) : Gw := if 384 ≤ t then w else { w with tags := Tbl.set (fun _ => {}) w.tags t r }

/-- Line `k` of an item that leaves G0 in BCLK `t`. -/
def g0Line (g t : Nat) (op : Bool) (i : Item) (k : Nat) : PLine :=
  { req := { hdrReq i.hdr g k (i.hdr.itag % 4096) 0 t i.at_ with open_ := op, data := i.data.getD 0 }, hdr := i.hdr, g0 := t + k,
    wait := i.hdr.opcode == 3 && i.data.isNone }

/-- The answer to a malformed item. -/
def g0Refusal (g t : Nat) (i : Item) : Resp :=
  { req := { hdrReq i.hdr g 0 (i.hdr.itag % 4096) 0 t i.at_ with use := 0 }, status := stMalformed, bare := decide (384 ≤ i.hdr.tag) }

/-- An item leaves the FIFO in its BCLK, with `n` answers to come. -/
def State.g0Out (s : State) (g : Nat) (i : Item) (rest : List Item) (n : Nat) : State :=
  (s.updGw g fun w => w.g0Taken i rest (s.bclk + n)).ev { box := boxGw g, code := 0x01, qual := .is 6 i.hdr.opcode }

/-- Its tag is recorded. -/
def State.g0Tagged (s : State) (g : Nat) (i : Item) (rest : List Item) (n : Nat) : State :=
  if 384 ≤ i.hdr.tag then s.g0Out g i rest n
  else (s.g0Out g i rest n).updGw g fun w => { w with tags := Tbl.set (fun _ => {}) w.tags i.hdr.tag (g0Tag i n) }

/-- It is answered MALFORMED. -/
def State.g0Refused (s : State) (g : Nat) (i : Item) (rest : List Item) : State :=
  ((s.g0Tagged g i rest 1).updGw g fun w => { w with malfCnt := satAdd 65535 w.malfCnt 1 }).ownResp g (g0Refusal g s.bclk i) (s.bclk + 5)

/-- Its lines enter the pipeline. -/
def State.g0Lined (s : State) (g : Nat) (i : Item) (rest : List Item) : State :=
  let u := s.g0Tagged g i rest (hdrAnswers i.hdr)
  u.updGw g fun w => { w with pipe := w.pipe ++ (List.range (hdrAnswers i.hdr)).map (g0Line g s.bclk (u.hintOpen g i.hdr) i) }

section
variable {s : State} {g : Nat} {i : Item} {rest : List Item}

theorem g0_eq (hfifo : (s.gw g).fifo = i :: rest) :
    s.g0 g = if (s.gw g).inUse i.hdr.tag then (s.g0Out g i rest (if hdrMalformed i.hdr ∨ (s.gw g).inUse i.hdr.tag then 1 else hdrAnswers i.hdr)).protoErr g
      else
        let n := if hdrMalformed i.hdr ∨ (s.gw g).inUse i.hdr.tag then 1 else hdrAnswers i.hdr
        let u := s.g0Tagged g i rest n
        if hdrMalformed i.hdr then (u.updGw g fun w => { w with malfCnt := satAdd 65535 w.malfCnt 1 }).ownResp g (g0Refusal g s.bclk i) (s.bclk + 5)
        else u.updGw g fun w => { w with pipe := w.pipe ++ (List.range n).map (g0Line g s.bclk (u.hintOpen g i.hdr) i) } := by
  unfold State.g0
  rw [hfifo]
  rfl

theorem g0_of_dup (hfifo : (s.gw g).fifo = i :: rest) (hdup : (s.gw g).inUse i.hdr.tag = true) : s.g0 g = (s.g0Out g i rest 1).protoErr g := by
  rw [g0_eq hfifo, if_pos hdup, if_pos (Or.inr hdup)]

theorem g0_of_malformed (hfifo : (s.gw g).fifo = i :: rest) (hnew : (s.gw g).inUse i.hdr.tag = false) (hbad : hdrMalformed i.hdr = true) :
    s.g0 g = s.g0Refused g i rest := by
  rw [g0_eq hfifo, if_neg (by rw [hnew]; decide)]
  dsimp only
  rw [if_pos hbad, if_pos (Or.inl hbad)]
  rfl

theorem g0_of_formed (hfifo : (s.gw g).fifo = i :: rest) (hnew : (s.gw g).inUse i.hdr.tag = false) (hgood : hdrMalformed i.hdr = false) :
    s.g0 g = s.g0Lined g i rest := by
  have hn : ¬(hdrMalformed i.hdr = true ∨ (s.gw g).inUse i.hdr.tag = true) := by
    rw [hnew, hgood]
    decide
  rw [g0_eq hfifo, if_neg (by rw [hnew]; decide)]
  dsimp only
  rw [if_neg (by rw [hgood]; decide), if_neg hn]
  rfl

end

theorem gw_g0Out (s : State) (g : Nat) (i : Item) (rest : List Item) (n : Nat) :
    (s.g0Out g i rest n).gw g = (s.gw g).g0Taken i rest (s.bclk + n) := (gw_ev _ _ g).trans (State.gw_upd_self _ g _)

theorem gw_g0Tagged (s : State) (g : Nat) (i : Item) (rest : List Item) (n : Nat) :
    (s.g0Tagged g i rest n).gw g = ((s.gw g).g0Taken i rest (s.bclk + n)).tagged i.hdr.tag (g0Tag i n) := by
  unfold State.g0Tagged Gw.tagged
  split
  · exact gw_g0Out s g i rest n
  · rw [State.gw_upd_self, gw_g0Out]

theorem gw_g0Refused (s : State) (g : Nat) (i : Item) (rest : List Item) : (s.g0Refused g i rest).gw g =
    { ((s.gw g).g0Taken i rest (s.bclk + 1)).tagged i.hdr.tag (g0Tag i 1) with malfCnt := satAdd 65535 (s.gw g).malfCnt 1 }.egress
      [{ resp := g0Refusal g s.bclk i, at_ := s.bclk + 5, own := true }] := by
  unfold State.g0Refused
  rw [gw_ownResp, State.gw_upd_self, gw_g0Tagged]
  unfold Gw.tagged
  split <;> rfl

theorem gw_g0Lined (s : State) (g : Nat) (i : Item) (rest : List Item) : ∃ op, (s.g0Lined g i rest).gw g =
    { ((s.gw g).g0Taken i rest (s.bclk + hdrAnswers i.hdr)).tagged i.hdr.tag (g0Tag i (hdrAnswers i.hdr)) with
      pipe := (s.gw g).pipe ++ (List.range (hdrAnswers i.hdr)).map (g0Line g s.bclk op i) } := by
  refine ⟨(s.g0Tagged g i rest (hdrAnswers i.hdr)).hintOpen g i.hdr, ?_⟩
  unfold State.g0Lined
  dsimp only
  rw [State.gw_upd_self, gw_g0Tagged]
  unfold Gw.tagged
  split <;> rfl

/-- A well-formed request has a tag of the link (R161, R166). -/
theorem tag_lt_of_formed {h : ReqHdr} (hgood : hdrMalformed h = false) : h.tag < 384 := by
  by_contra hge
  have hbad : hdrMalformed h = true := by
    unfold hdrMalformed
    simp [Nat.le_of_not_lt hge]
  rw [hbad] at hgood
  exact absurd hgood (by decide)

/-! ### What falls due at the end of a BCLK (R175) -/

theorem gwWork_pos (s : State) : ∃ n, s.gwWork = n + 1 := by
  unfold State.gwWork
  suffices h : ∀ (l : Tbl Gw) (k : Nat), 0 < k → 0 < l.foldl (fun n e => n + 20 * e.2.fifo.length + 4 * e.2.pipe.length + e.2.resend + 5) k by
    exact ⟨_, (Nat.sub_add_cancel (h s.gws 1 Nat.one_pos)).symm⟩
  intro l
  induction l with
  | nil => exact fun k hk => hk
  | cons e l ih => exact fun _ _ => ih _ (Nat.succ_pos _)

theorem advance_of_le {s : State} {t : Nat} (h : t ≤ s.bclk) : s.advance t = s := if_pos h

theorem goto_next_of_gwFirst {s : State} {g : Nat} {e : GwWork} (h : s.gwFirst = some (atEnd s.bclk, g, e)) :
    ∃ n, s.goto (s.bclk + 1) = (State.gwRun (s.bclk + 1) n (s.gwDo g e)).advance (s.bclk + 1) := by
  obtain ⟨n, hn⟩ := gwWork_pos s
  refine ⟨n, ?_⟩
  unfold State.goto
  rw [if_neg (by omega), hn, State.gwRun, h]
  dsimp only
  rw [if_neg (by unfold atStart atEnd; omega), advance_of_le (s := s) (t := atEnd s.bclk / 2) (by unfold atEnd; omega)]

/-! ### Register requests (R481) -/

theorem filterMap_one {α β : Type} (f : α → Option β) (x : α) : [x].filterMap f = (f x).toList := by
  cases h : f x <;> simp [h]

/-- The one register request that is on its way is its gateway's. -/
theorem firstSvc_one {u : State} {p : Pkt} {g : Nat} {z : ReqHdr} (hpkts : u.pkts = [p]) (hbody : p.body = .svcReq g z) (k : Nat) :
    u.firstSvc k = if g = k ∧ !p.waiting ∧ !(u.trt.hold && u.svcLate p z) then some (p, z) else none := by
  unfold State.firstSvc
  rw [hpkts, filterMap_one, hbody]
  dsimp only
  split <;> rfl

theorem nextSvc_one {u : State} {p : Pkt} {g : Fin 16} {z : ReqHdr} (hpkts : u.pkts = [p]) (hbody : p.body = .svcReq g z)
    (hfirst : u.firstSvc g = some (p, z)) : u.nextSvc = some (u.svcWhen p z, g.val) := by
  have hother : ∀ k, k ≠ g.val → u.firstSvc k = none := fun k hk => by
    rw [firstSvc_one hpkts hbody, if_neg fun h => hk h.1.symm]
  unfold State.nextSvc
  suffices h : ∀ (l : List Nat) (a : Option (Nat × Nat)), (g.val ∈ l ∨ a = some (u.svcWhen p z, g.val)) →
      (a = none ∨ a = some (u.svcWhen p z, g.val)) →
      l.foldl (fun a g => match u.firstSvc g with
        | none => a
        | some (p, h) =>
          let t := u.svcWhen p h
          match a with
          | some x => if t < x.1 then some (t, g) else a
          | none => some (t, g)) a = some (u.svcWhen p z, g.val) by
    exact h _ none (.inl (List.mem_range.mpr g.isLt)) (.inl rfl)
  intro l
  induction l with
  | nil => exact fun a ha _ => ha.resolve_left List.not_mem_nil
  | cons k l ih =>
    intro a ha hform
    rw [List.foldl_cons]
    by_cases hk : k = g.val
    · subst hk
      refine ih _ (.inr ?_) (.inr ?_) <;> · rw [hfirst]; rcases hform with rfl | rfl <;> simp
    · refine ih _ ?_ ?_
      · rw [hother k hk]
        exact ha.imp_left fun h => (List.mem_cons.mp h).resolve_left (Ne.symm hk)
      · rw [hother k hk]
        exact hform

theorem firstSvc_of_svcOne {u v : State} {p : Pkt} {g : Nat} {z : ReqHdr} (hpkts : u.pkts = [p]) (hbody : p.body = .svcReq g z)
    (hone : u.svcOne g = some v) : u.firstSvc g = some (p, z) := by
  rw [firstSvc_one hpkts hbody]
  refine if_pos ?_
  by_contra hno
  unfold State.svcOne at hone
  rw [firstSvc_one hpkts hbody, if_neg hno] at hone
  exact absurd hone (by simp)

theorem runSvcs_one {u v : State} {p : Pkt} {g : Fin 16} {z : ReqHdr} (hpkts : u.pkts = [p]) (hbody : p.body = .svcReq g z)
    (hone : u.svcOne g = some v) : u.runSvcs = v := by
  have hfirst := firstSvc_of_svcOne hpkts hbody hone
  unfold State.runSvcs
  rw [hpkts, List.length_singleton, State.svcsWhile, nextSvc_one hpkts hbody hfirst]
  dsimp only
  rw [if_pos rfl, hone]
  rfl

end Sys2Proof.Machine
end

section
/-! Packets (R443, R718, R727): injecting one moves the BCLK of others, and never what a packet holds or where it goes. -/
namespace Sys2Proof.Machine

/-- What a packet is, apart from the BCLK that its ports give it: body, source, destination and train. -/
def Pkt.face (p : Pkt) : Body × Nat × Nat × Option Nat := (p.body, p.src, p.dst, p.train)

theorem map_mapIdx_of {α β : Type} {f : α → β} {g : Nat → α → α} (h : ∀ n x, f (g n x) = f x) (l : List α) : (l.mapIdx g).map f = l.map f := by
  refine List.ext_getElem? fun n => ?_
  rw [List.getElem?_map, List.getElem?_mapIdx, List.getElem?_map]
  cases l[n]? with
  | none => rfl
  | some x => exact congrArg some (h n x)

theorem faces_planIn (l : List Pkt) (k : Nat × Nat) (now fresh : Nat) : (planIn l k now fresh).map Pkt.face = l.map Pkt.face :=
  map_mapIdx_of (fun n p => by split <;> rfl) l

theorem faces_planOut (l : List Pkt) (k : Nat × Nat) (now fresh : Nat) : (planOut l k now fresh).map Pkt.face = l.map Pkt.face :=
  map_mapIdx_of (fun n p => by split <;> rfl) l

theorem faces_planOuts (ks : List (Nat × Nat)) (l : List Pkt) (now fresh : Nat) :
    (ks.foldl (fun l k => planOut l k now fresh) l).map Pkt.face = l.map Pkt.face := by
  induction ks generalizing l with
  | nil => rfl
  | cons k ks ih => exact (ih _).trans (faces_planOut l k now fresh)

theorem faces_putPkt (s : State) (body : Body) (src dst t : Nat) (train : Option Nat) :
    (s.putPkt body src dst t train).pkts.map Pkt.face = s.pkts.map Pkt.face ++ [(body, src, dst, train)] := by
  unfold State.putPkt
  dsimp only
  rw [faces_planOuts, faces_planIn, List.map_append]
  rfl

theorem pkts_routeEvents (s : State) (body : Body) (l : List (Nat × Nat × Bool)) : (s.routeEvents body l).pkts = s.pkts :=
  (State.routeEvents_kept (Within.self _) (Kept.refl _ s) body l).part .pkts (by decide)

theorem faces_inject (s : State) (body : Body) (src dst t : Nat) (train : Option Nat) :
    (s.inject body src dst t train).pkts.map Pkt.face = s.pkts.map Pkt.face ++ [(body, src, dst, train)] := by
  unfold State.inject
  split
  · exact faces_putPkt s body src dst t train
  · rw [faces_putPkt, pkts_routeEvents]

/-- A packet of a block, by what it is. -/
theorem exists_pkt_of_face {s : State} {body : Body} {src dst : Nat} {train : Option Nat} (h : (body, src, dst, train) ∈ s.pkts.map Pkt.face) :
    ∃ p ∈ s.pkts, p.src = src ∧ p.dst = dst ∧ p.body = body ∧ p.train = train := by
  obtain ⟨p, hp, hface⟩ := List.mem_map.mp h
  simp only [Pkt.face, Prod.mk.injEq] at hface
  exact ⟨p, hp, hface.2.1, hface.2.2.1, hface.1, hface.2.2.2⟩

theorem exists_pkt_inject (s : State) (body : Body) (src dst t : Nat) (train : Option Nat) :
    ∃ p ∈ (s.inject body src dst t train).pkts, p.src = src ∧ p.dst = dst ∧ p.body = body ∧ p.train = train :=
  exists_pkt_of_face (by rw [faces_inject]; exact List.mem_append_right _ (List.mem_singleton.mpr rfl))

end Sys2Proof.Machine
end

section
/-! The requests of a port (R164 to R167, R175): the obligation. -/
namespace Sys2Proof.Machine

theorem response_of_svcOne {u v : State} {g : Nat} {p : Pkt} {z : ReqHdr} (hfirst : u.firstSvc g = some (p, z)) (hone : u.svcOne g = some v) :
    ∃ q ∈ v.pkts, ∃ r : Resp, q.body = .memResp r ∧ r.rkind = 3 ∧ r.req.src = g ∧ r.req.tag = z.tag ∧ r.req.use = 9 := by
  unfold State.svcOne at hone
  rw [hfirst] at hone
  dsimp only at hone
  split at hone
  · exact absurd hone (by simp)
  · rw [← Option.some.inj hone]
    obtain ⟨q, hq, -, -, hbody, -⟩ := exists_pkt_inject _ _ _ _ _ _
    exact ⟨q, hq, _, hbody, rfl, rfl, rfl, rfl⟩

theorem svcAccess_serves {s : State} {g : Fin 16} {y : ReqHdr} {p : Pkt} {z : ReqHdr} {v : State}
    (hpkts : ((s.flitIn g y.seq fun s => s.headerIn g y).gwAhead fun s => (s.firstSvc g).map fun _ => s.bclk).pkts = [p])
    (hbody : p.body = .svcReq g z)
    (hone : ((s.flitIn g y.seq fun s => s.headerIn g y).gwAhead fun s => (s.firstSvc g).map fun _ => s.bclk).svcOne g = some v) :
    s.svcAccess g y = v ∧ ∃ q ∈ (s.svcAccess g y).pkts, ∃ r : Resp,
      q.body = .memResp r ∧ r.rkind = 3 ∧ r.req.src = g ∧ r.req.tag = z.tag ∧ r.req.use = 9 := by
  have hv : s.svcAccess g y = v := runSvcs_one hpkts hbody hone
  exact ⟨hv, hv.symm ▸ response_of_svcOne (firstSvc_of_svcOne hpkts hbody hone) hone⟩

theorem gw_g0Dup (s : State) (g : Nat) (i : Item) (rest : List Item) :
    ((s.g0Out g i rest 1).protoErr g).gw g = ((s.gw g).g0Taken i rest (s.bclk + 1)).protoErr := by
  rw [gw_protoErr, gw_g0Out]

theorem exists_getElem?_g0Line {g t : Nat} {op : Bool} {i : Item} {n k : Nat} {l : PLine} (h : ((List.range k).map (g0Line g t op i))[n]? = some l) :
    l = g0Line g t op i n := by
  rw [List.getElem?_map] at h
  obtain ⟨m, hm, rfl⟩ := Option.map_eq_some_iff.mp h
  obtain ⟨hlt, hget⟩ := List.getElem?_eq_some_iff.mp hm
  rw [← hget, List.getElem_range]

theorem Gw.tagged_of_lt {w : Gw} {t : Nat} (h : t < 384) (r : TagRec) : w.tagged t r = { w with tags := Tbl.set (fun _ => {}) w.tags t r } :=
  if_neg (Nat.not_le.mpr h)

theorem g0_gives (s : State) (g : Nat) (i : Item) (rest : List Item) (hfifo : (s.gw g).fifo = i :: rest) :
    ((s.g0 g).gw g).fifo = rest ∧ ((s.g0 g).gw g).reqHdr = (s.gw g).reqHdr + 1 := by
  by_cases hdup : (s.gw g).inUse i.hdr.tag = true
  · rw [g0_of_dup hfifo hdup, gw_g0Dup]
    generalize s.gw g = w
    exact ⟨rfl, rfl⟩
  · have hnew : (s.gw g).inUse i.hdr.tag = false := by simpa using hdup
    by_cases hbad : hdrMalformed i.hdr = true
    · rw [g0_of_malformed hfifo hnew hbad, gw_g0Refused]
      unfold Gw.tagged
      generalize s.gw g = w
      split <;> exact ⟨rfl, rfl⟩
    · obtain ⟨op, hgw⟩ := gw_g0Lined s g i rest
      rw [g0_of_formed hfifo hnew (by simpa using hbad), hgw]
      unfold Gw.tagged
      generalize s.gw g = w
      split <;> exact ⟨rfl, rfl⟩

/-- Settles O43: a header is taken as the port's state has it, and G0 goes by its item's tag and form. -/
theorem portAcceptsHeaders : Obligations.PortAcceptsHeaders := by
  unfold Obligations.PortAcceptsHeaders
  refine ⟨fun s g h hok hclear => ⟨⟨_, exec_lineRead s g h, headerTaken_of_clear hok hclear⟩,
    ⟨_, exec_multiRead s g h, headerTaken_of_clear hok hclear⟩, ⟨_, exec_lineWrite s g h, headerTaken_of_clear hok hclear⟩, ?_⟩,
    fun s g h hok htail hcr => ⟨_, exec_tailDiscardHeader s g h, headerTaken_of_tail hok htail hcr⟩, fun s g i rest hfifo => ?_,
    fun s g e hdue => goto_next_of_gwFirst hdue⟩
  · intro y u p z v hpkts hbody hone
    exact ⟨_, exec_svcAccess s g h, svcAccess_serves hpkts hbody hone⟩
  · change ((s.g0 g).gw g).fifo = rest ∧ _
    obtain ⟨hrest, hcr⟩ := g0_gives s g i rest hfifo
    refine ⟨hrest, hcr, fun hdup => ?_, fun hnew hbad => ?_, fun hnew hgood => ?_⟩
    · have heq : s.gwDo g .g0 = (s.g0Out g i rest 1).protoErr g := g0_of_dup hfifo hdup
      rw [heq, gw_g0Dup]
      have hisr := isr_protoErr (s.g0Out g i rest 1) g
      generalize s.gw g = w
      exact ⟨rfl, rfl, rfl, rfl, hisr⟩
    · have heq : s.gwDo g .g0 = s.g0Refused g i rest := g0_of_malformed hfifo hnew hbad
      rw [heq, gw_g0Refused]
      unfold Gw.tagged
      generalize s.gw g = w
      refine ⟨?_, ?_, { resp := g0Refusal g s.bclk i, at_ := s.bclk + 5, own := true }, ?_, rfl, rfl, rfl⟩
      · split <;> rfl
      · split <;> rfl
      · exact List.mem_append_right _ (List.mem_singleton.mpr rfl)
    · have heq : s.gwDo g .g0 = s.g0Lined g i rest := g0_of_formed hfifo hnew hgood
      obtain ⟨op, hgw⟩ := gw_g0Lined s g i rest
      rw [Gw.tagged_of_lt (tag_lt_of_formed hgood)] at hgw
      rw [heq, hgw]
      generalize s.gw g = w
      refine ⟨Tbl.get_set_self _ _ _ _, fun k hk => Tbl.get_set_ne _ _ _ hk, rfl, _, rfl, by simp, fun n l hl => ?_⟩
      rw [exists_getElem?_g0Line hl]
      exact ⟨rfl, rfl, rfl, rfl, rfl, rfl⟩

end Sys2Proof.Machine
end

section
/-! The stages of a line in a gateway's pipeline (R175 to R178, R216, R815, R818). -/
namespace Sys2Proof.Machine

/-! ### The gateway at each stage -/

/-- A gateway with a line taken out of its pipeline. -/
def Gw.without (w : Gw) (i : Nat) : Gw := { w with pipe := w.pipe.eraseIdx i }

/-- A gateway with a line of its pipeline changed. -/
def Gw.withLine (w : Gw) (i : Nat) (l : PLine) : Gw := { w with pipe := w.pipe.set i l }

theorem gw_pipeOut (s : State) (g i : Nat) : (s.pipeOut g i).gw g = (s.gw g).without i := State.gw_upd_self _ g _
theorem gw_pipeSet (s : State) (g i : Nat) (l : PLine) : (s.pipeSet g i l).gw g = (s.gw g).withLine i l := State.gw_upd_self _ g _

/-- The answer that refuses a request. -/
def refusal (r : Req) (status : Nat) : Resp := { req := r, status := status, rkind := if r.use = 9 then 3 else 4, thr := r.thr }

theorem gw_refuse (s : State) (g : Nat) (r : Req) (status t : Nat) :
    (s.refuse g r status t).gw g = (s.gw g).egress [{ resp := refusal r status, at_ := t, own := true }] := gw_ownResp s g (refusal r status) t

/-- A line is refused: it has left the pipeline, and its answer waits at the egress from BCLK `t` on. -/
theorem refused_of_gw {s : State} {u : State} {g i status t : Nat} {r : Req} {w : Gw} (hgw : u.gw g = (w.without i).egress
    [{ resp := refusal r status, at_ := t, own := true }]) (hpipe : w.pipe = (s.gw g).pipe) :
    (u.gw g).pipe = (s.gw g).pipe.eraseIdx i ∧ ∃ e ∈ (u.gw g).eg, e.at_ = t ∧ e.resp.status = status ∧ e.resp.req.tag = r.tag ∧
      e.resp.req.line = r.line := by
  rw [hgw]
  exact ⟨congrArg (List.eraseIdx · i) hpipe, _, List.mem_append_right _ (List.mem_singleton.mpr rfl), rfl, rfl, rfl, rfl⟩

theorem gwDo_line {s : State} {g i : Nat} {l : PLine} (h : (s.gw g).pipe[i]? = some l) : s.gwDo g (.line i) = s.stageOf g i l := by
  unfold State.gwDo
  dsimp only
  rw [h]

section
variable {s : State} {g i : Nat} {l : PLine}

/-! ### G1 (R175, R176, R815, R818) -/

/-- The block with a line's instance known to its tag. -/
def State.tagOwned (s : State) (g : Nat) (l : PLine) (k : Nat) : State :=
  s.updGw g fun w => { w with tags := Tbl.upd (fun _ => {}) w.tags l.hdr.tag fun x => { x with itag := k, gen := s.genOf k } }

/-- A line's request with its instance known. -/
def Req.owned (r : Req) (k gen : Nat) : Req := { r with itag := k, gen := gen }

theorem stageOf_g1 (hst : l.st = 0) : s.stageOf g i l = s.g1 g i l := if_pos hst

theorem g1_of_unknown (h : s.itagOf g l.hdr = none) :
    s.g1 g i l = ((s.pipeOut g i).refuse g l.req 8 (s.bclk - 1 + 5)).raise (.gwAdm g) 0 := by
  unfold State.g1
  rw [h]

theorem lineMay_updGw (s : State) (g : Nat) (f : Gw → Gw) (k pa : Nat) : (s.updGw g f).lineMay k pa = s.lineMay k pa := rfl

theorem g1_of_permitted {k : Nat} (h : s.itagOf g l.hdr = some k) (hop : l.hdr.opcode ≠ 4) (hmay : s.lineMay k l.req.pa = true) :
    s.g1 g i l = (s.tagOwned g l k).pipeSet g i { l with req := l.req.owned k (s.genOf k), st := 1 } := by
  unfold State.g1
  rw [h]
  dsimp only
  rw [if_neg hop, lineMay_updGw, if_pos hmay]
  rfl

theorem g1_of_forbidden {k : Nat} (h : s.itagOf g l.hdr = some k) (hop : l.hdr.opcode ≠ 4) (hmay : s.lineMay k l.req.pa = false) :
    s.g1 g i l = (((s.tagOwned g l k).pipeOut g i).refuse g (l.req.owned k (s.genOf k)) 8 (s.bclk - 1 + 5)).raise (.gwAdm g) 0 := by
  unfold State.g1
  rw [h]
  dsimp only
  rw [if_neg hop, lineMay_updGw, if_neg (by rw [hmay]; decide)]
  rfl

/-! ### G2 and G3 (R175, R176, R216) -/

/-- The block with its gateway's G2 busy in the present BCLK. -/
def State.g2Used (s : State) (g : Nat) : State := s.updGw g fun w => { w with g2Free := s.bclk + 1 }

/-- Where G2 finds a line's address; none is found before READY (R501). -/
def State.g2Dest (s : State) (pa : Nat) : Dest := if s.phase < 9 then .unmapped else s.dest pa

theorem stageOf_g2 (hst : l.st = 1) : s.stageOf g i l = s.g2 g i l := by
  unfold State.stageOf
  rw [if_neg (by rw [hst]; decide), if_pos hst]

theorem dest_updGw (s : State) (g : Nat) (f : Gw → Gw) (pa : Nat) : (s.updGw g f).dest pa = s.dest pa := rfl

/-- What G2 does with a line, by where its address lies. -/
def State.g2To (s : State) (g i : Nat) (l : PLine) : Dest → State
  | .unmapped => (((s.g2Used g).pipeOut g i).refuse g l.req 2 (s.bclk - 2 + 5)).raise (.gwAdm g) 1
  | .closed => ((s.g2Used g).pipeOut g i).refuse g l.req 3 (s.bclk - 2 + 5)
  | .at_ x => (s.g2Used g).pipeSet g i { l with req := { l.req with loc := x }, g0 := s.bclk - 2, st := 3 }

theorem g2_eq (s : State) (g i : Nat) (l : PLine) : s.g2 g i l = s.g2To g i l (s.g2Dest l.req.pa) := by
  unfold State.g2 State.g2Dest
  dsimp only
  rw [State.phase_updGw, dest_updGw]
  cases (if s.phase < 9 then Dest.unmapped else s.dest l.req.pa) <;> rfl

/-! ### G4 (R175, R177, R178) -/

/-- The block with a line out of the pipeline at G4 in the present BCLK. -/
def State.g4Left (s : State) (g i : Nat) : State := (s.pipeOut g i).updGw g fun w => { w with g4Free := s.bclk + 1 }

theorem stageOf_g4 (hst : l.st = 3) : s.stageOf g i l = s.g4Out g i l := by
  unfold State.stageOf
  rw [if_neg (by rw [hst]; decide), if_neg (by rw [hst]; decide)]

theorem gw_g4Left (s : State) (g i : Nat) : (s.g4Left g i).gw g = { (s.gw g).without i with g4Free := s.bclk + 1 } := by
  unfold State.g4Left
  rw [State.gw_upd_self, gw_pipeOut]

/-- A line that no hold, no earlier request and no place at G4 concerns is classed at once. -/
theorem g4Out_of_free (hholds : (s.gw g).holds = []) (hrecent : (s.gw g).recent = []) :
    s.g4Out g i l = (s.g4Left g i).classLine g { l.req with created := s.bclk } s.bclk := by
  have hh : ((s.g4Left g i).gw g).holds = [] := (congrArg Gw.holds (gw_g4Left s g i)).trans hholds
  have hr : ((s.g4Left g i).gw g).recent = [] := (congrArg Gw.recent (gw_g4Left s g i)).trans hrecent
  change ((s.g4Left g i).g4 g { l.req with created := s.bclk } s.bclk).getD _ = _
  unfold State.g4
  dsimp only
  rw [hh]
  dsimp only [List.find?_nil]
  unfold State.asideOrClass
  dsimp only
  rw [hr]
  rfl

theorem waitsLine_of_parts {s t : State} {g pa : Nat} (hcq : (t.gw g).cq = (s.gw g).cq) (hpkts : t.pkts = s.pkts) (hbclk : t.bclk = s.bclk) :
    t.waitsLine g pa = s.waitsLine g pa := by
  unfold State.waitsLine
  rw [hcq, hpkts, hbclk]

theorem gws_inject (s : State) (body : Body) (src dst t : Nat) (train : Option Nat) : (s.inject body src dst t train).gws = s.gws :=
  (State.inject_kept (Within.self _) (Kept.refl _ s) body src dst t train).part .gws (by decide)

theorem pkts_ev (s : State) (e : Ev) : (s.ev e).pkts = s.pkts := (ev_kept_self s e).part .pkts (by decide)

/-- A line whose owner holds a share goes to its channel in class G (R177). -/
theorem classLine_toG {s : State} {g t : Nat} {r : Req} (hshare : 0 < Tbl.get (fun _ => 0) (s.chan r.loc.ch).share r.itag)
    (hallc : flag (s.reg (.gwAdm g) 0x040) 0 = false) (hwait : s.waitsLine g r.pa = false) :
    (∃ x, (s.classLine g r t).gw g = { s.gw g with gOut := (s.gw g).gOut + 1, recent := x }) ∧
      ∃ p ∈ (s.classLine g r t).pkts, p.src = nodeGw g ∧ p.dst = nodeCh r.loc.ch ∧ p.body = .memReq { r with g := true } := by
  unfold State.classLine
  dsimp only
  rw [if_pos ⟨hshare, by rw [hallc]; rfl, by rw [hwait]; rfl⟩]
  constructor
  · rw [State.gw_upd_self, gw_of_gws (gws_inject _ _ _ _ _ _), gw_ev]
    exact ⟨_, rfl⟩
  · rw [State.pkts_updGw]
    obtain ⟨p, hp, hsrc, hdst, hbody, -⟩ := exists_pkt_inject _ _ _ _ _ _
    exact ⟨p, hp, hsrc, hdst, hbody⟩

/-- Any other joins the gateway's queue (R178). -/
theorem classLine_toC {s : State} {g t : Nat} {r : Req} (h : Tbl.get (fun _ => 0) (s.chan r.loc.ch).share r.itag = 0 ∨
    flag (s.reg (.gwAdm g) 0x040) 0 = true ∨ s.waitsLine g r.pa = true) : s.classLine g r t = s.raiseC g r (t + 1) := by
  unfold State.classLine
  dsimp only
  refine if_neg fun hall => ?_
  obtain ⟨hshare, hallc, hwait⟩ := hall
  rcases h with h | h | h
  · exact absurd hshare (by rw [h]; exact Nat.lt_irrefl 0)
  · rw [h] at hallc
    exact absurd hallc (by decide)
  · rw [h] at hwait
    exact absurd hwait (by decide)

theorem gw_raiseC (s : State) (g : Nat) (r : Req) (t : Nat) :
    (s.raiseC g r t).gw g = { s.gw g with cq := (s.gw g).cq ++ [{ req := { r with g := false }, raised := t }] } := by
  unfold State.raiseC
  dsimp only
  rw [State.gw_upd_self, gw_ev]

theorem pkts_raiseC (s : State) (g : Nat) (r : Req) (t : Nat) : (s.raiseC g r t).pkts = s.pkts := (State.pkts_updGw _ g _).trans (pkts_ev _ _)

end

end Sys2Proof.Machine
end

section
/-! The stages of a line (R175 to R178): the obligation. -/
namespace Sys2Proof.Machine

section
variable {s : State} {g : Fin 16} {i : Nat} {l : PLine}

theorem pipe_tagOwned (s : State) (g : Nat) (l : PLine) (k : Nat) : ((s.tagOwned g l k).gw g).pipe = (s.gw g).pipe := by
  unfold State.tagOwned
  rw [State.gw_upd_self]

theorem pipe_g2Used (s : State) (g : Nat) : ((s.g2Used g).gw g).pipe = (s.gw g).pipe := by
  unfold State.g2Used
  rw [State.gw_upd_self]

theorem cq_g4Left (s : State) (g i : Nat) : ((s.g4Left g i).gw g).cq = (s.gw g).cq := by
  rw [gw_g4Left]
  rfl

theorem refused_g1_unknown (h : s.itagOf g l.hdr = none) : (((s.g1 g i l).gw g).pipe = (s.gw g).pipe.eraseIdx i ∧
    ∃ e ∈ ((s.g1 g i l).gw g).eg, e.at_ = s.bclk - 1 + 5 ∧ e.resp.status = 8 ∧ e.resp.req.tag = l.req.tag ∧ e.resp.req.line = l.req.line) ∧
    flag ((s.g1 g i l).page (.gwAdm g)).isr 0 = true := by
  rw [g1_of_unknown h]
  refine ⟨refused_of_gw (w := s.gw g) ?_ rfl, flag_raise _ (.gwAdm g) (by decide)⟩
  rw [gw_raise, gw_refuse, gw_pipeOut]

theorem refused_g1_forbidden {k : Nat} (h : s.itagOf g l.hdr = some k) (hop : l.hdr.opcode ≠ 4) (hmay : s.lineMay k l.req.pa = false) :
    (((s.g1 g i l).gw g).pipe = (s.gw g).pipe.eraseIdx i ∧ ∃ e ∈ ((s.g1 g i l).gw g).eg, e.at_ = s.bclk - 1 + 5 ∧ e.resp.status = 8 ∧
      e.resp.req.tag = l.req.tag ∧ e.resp.req.line = l.req.line) ∧ flag ((s.g1 g i l).page (.gwAdm g)).isr 0 = true := by
  rw [g1_of_forbidden h hop hmay]
  refine ⟨refused_of_gw (r := l.req.owned k (s.genOf k)) (w := (s.tagOwned g l k).gw g) ?_ (pipe_tagOwned s g l k),
    flag_raise _ (.gwAdm g) (by decide)⟩
  rw [gw_raise, gw_refuse, gw_pipeOut]

theorem permitted_g1 {k : Nat} (h : s.itagOf g l.hdr = some k) (hop : l.hdr.opcode ≠ 4) (hmay : s.lineMay k l.req.pa = true) :
    ((s.g1 g i l).gw g).pipe = (s.gw g).pipe.set i { l with req := { l.req with itag := k, gen := s.genOf k }, st := 1 } ∧
      (((s.g1 g i l).gw g).tag l.hdr.tag).itag = k ∧ (((s.g1 g i l).gw g).tag l.hdr.tag).gen = s.genOf k := by
  have htag : ((s.g1 g i l).gw g).tag l.hdr.tag = { (s.gw g).tag l.hdr.tag with itag := k, gen := s.genOf k } := by
    rw [g1_of_permitted h hop hmay, gw_pipeSet]
    unfold State.tagOwned
    rw [State.gw_upd_self]
    exact Tbl.get_upd_self (fun _ => ({} : TagRec)) (s.gw g).tags l.hdr.tag fun x => { x with itag := k, gen := s.genOf k }
  refine ⟨?_, congrArg TagRec.itag htag, congrArg TagRec.gen htag⟩
  rw [g1_of_permitted h hop hmay, gw_pipeSet]
  exact congrArg (List.set · i _) (pipe_tagOwned s g l k)

theorem decoded_g2 {x : Loc} (h : s.g2Dest l.req.pa = .at_ x) : ((s.g2 g i l).gw g).pipe =
    (s.gw g).pipe.set i { l with req := { l.req with loc := x }, g0 := s.bclk - 2, st := 3 } := by
  rw [g2_eq, h]
  change (((s.g2Used g).pipeSet g i _).gw g).pipe = _
  rw [gw_pipeSet]
  exact congrArg (List.set · i _) (pipe_g2Used s g)

theorem refused_g2_unmapped (h : s.g2Dest l.req.pa = .unmapped) : (((s.g2 g i l).gw g).pipe = (s.gw g).pipe.eraseIdx i ∧
    ∃ e ∈ ((s.g2 g i l).gw g).eg, e.at_ = s.bclk - 2 + 5 ∧ e.resp.status = 2 ∧ e.resp.req.tag = l.req.tag ∧ e.resp.req.line = l.req.line) ∧
    flag ((s.g2 g i l).page (.gwAdm g)).isr 1 = true := by
  rw [g2_eq, h]
  refine ⟨refused_of_gw (w := (s.g2Used g).gw g) (r := l.req) ?_ (pipe_g2Used s g), flag_raise _ (.gwAdm g) (by decide)⟩
  unfold State.g2To
  rw [gw_raise, gw_refuse, gw_pipeOut]

theorem refused_g2_closed (h : s.g2Dest l.req.pa = .closed) : ((s.g2 g i l).gw g).pipe = (s.gw g).pipe.eraseIdx i ∧
    ∃ e ∈ ((s.g2 g i l).gw g).eg, e.at_ = s.bclk - 2 + 5 ∧ e.resp.status = 3 ∧ e.resp.req.tag = l.req.tag ∧ e.resp.req.line = l.req.line := by
  rw [g2_eq, h]
  refine refused_of_gw (w := (s.g2Used g).gw g) (r := l.req) ?_ (pipe_g2Used s g)
  unfold State.g2To
  rw [gw_refuse, gw_pipeOut]

theorem g2Dest_of_ready (h : 9 ≤ s.phase) (pa : Nat) : s.g2Dest pa = s.dest pa := if_neg (Nat.not_lt.mpr h)

theorem g2Dest_unmapped {pa : Nat} (h : s.phase < 9 ∨ s.dest pa = .unmapped) : s.g2Dest pa = .unmapped := by
  unfold State.g2Dest
  split
  · rfl
  · next hready => exact h.resolve_left hready

theorem waitsLine_g4Left (s : State) (g i pa : Nat) : (s.g4Left g i).waitsLine g pa = s.waitsLine g pa :=
  waitsLine_of_parts (cq_g4Left s g i) ((State.pkts_updGw _ g _).trans (State.pkts_updGw _ g _)) rfl

theorem share_g4Left (s : State) (g i c : Nat) : (s.g4Left g i).chan c = s.chan c := rfl

theorem reg_g4Left (s : State) (g i : Nat) (p : PageId) (o : Nat) : (s.g4Left g i).reg p o = s.reg p o := rfl

end

/-- Settles O44: each stage is done by the branch that the line's state, its instance and its address select. -/
theorem lineReadIsAdmitted : Obligations.LineReadIsAdmitted := by
  unfold Obligations.LineReadIsAdmitted
  intro s g i l hline
  dsimp only
  rw [gwDo_line hline]
  refine ⟨fun hst => ?_, fun hst => ?_, fun hst hholds hrecent hcq => ?_⟩
  · rw [stageOf_g1 hst]
    exact ⟨refused_g1_unknown, fun k => permitted_g1, fun k => refused_g1_forbidden⟩
  · rw [stageOf_g2 hst]
    exact ⟨fun hready x hx => decoded_g2 ((g2Dest_of_ready hready _).trans hx), fun h => refused_g2_unmapped (g2Dest_unmapped h),
      fun hready hx => refused_g2_closed ((g2Dest_of_ready hready _).trans hx)⟩
  · rw [stageOf_g4 hst, g4Out_of_free hholds hrecent]
    refine ⟨fun hshare hallc hwait => ?_, fun h => ?_⟩
    · obtain ⟨⟨x, hgw⟩, hpkt⟩ := classLine_toG (s := s.g4Left g i) (t := s.bclk) (r := { l.req with created := s.bclk }) hshare hallc
        ((waitsLine_g4Left s g i _).trans hwait)
      rw [gw_g4Left] at hgw
      rw [hgw]
      exact ⟨rfl, rfl, hcq, hpkt⟩
    · have hC := classLine_toC (s := s.g4Left g i) (t := s.bclk) (r := { l.req with created := s.bclk })
        (h.imp_right (.imp_right (waitsLine_g4Left s g i _).trans))
      rw [hC, gw_raiseC, pkts_raiseC, gw_g4Left]
      refine ⟨rfl, (State.pkts_updGw _ g _).trans (State.pkts_updGw _ g _), rfl, ?_⟩
      exact congrArg (· ++ [_]) hcq

end Sys2Proof.Machine
end

section
/-! Interrupts once set stay (R95): through events, messages, and what Movement commits. -/
namespace Sys2Proof.Machine

theorem IsrGrows.foldl {α : Type} {f : State → α → State} (hf : ∀ s a, IsrGrows s (f s a)) (l : List α) (s : State) : IsrGrows s (l.foldl f s) := by
  induction l generalizing s with
  | nil => exact IsrGrows.refl s
  | cons a l ih => exact (hf s a).trans (ih _)

theorem IsrGrows.updPage_same {s : State} {p : PageId} {f : Page → Page} (hf : ∀ pg, (f pg).isr = pg.isr) : IsrGrows s (s.updPage p f) :=
  IsrGrows.updPage fun _ h => (hf (s.page p)).symm ▸ h

theorem IsrGrows.setShd (s : State) (p : PageId) (o : Nat) (v : Word) : IsrGrows s (s.setShd p o v) := IsrGrows.updPage_same fun _ => rfl

theorem IsrGrows.setErrAt (s : State) (p : PageId) (o r t : Nat) : IsrGrows s (s.setErrAt p o r t) := IsrGrows.updPage_same fun _ => rfl

theorem IsrGrows.setErr (s : State) (p : PageId) (o r : Nat) : IsrGrows s (s.setErr p o r) := IsrGrows.setErrAt s p o r s.bclk

theorem IsrGrows.intentBack (s : State) (p : PageId) : IsrGrows s (s.intentBack p) := by
  unfold State.intentBack
  dsimp only
  split
  · exact IsrGrows.refl s
  · refine IsrGrows.foldl (fun u q => ?_) _ s
    exact IsrGrows.updPage_same fun _ => rfl

theorem IsrGrows.uncarry (s : State) : IsrGrows s s.uncarry := by
  unfold State.uncarry
  refine IsrGrows.foldl (fun u x => ?_) _ s
  exact IsrGrows.updPage_same fun _ => rfl

/-- A page's commit is refused, before the block takes note of it. -/
def State.refusedPage (s : State) (p : PageId) (o r t : Nat) : State :=
  ((s.setErrAt p o r t).updPage p fun pg => { pg with cmt := .idle, cmtRefused := true }).intentBack p

/-- The block takes note of a refused commit (R112). -/
def State.refusalNoted (s : State) (p : PageId) (r t : Nat) : State :=
  { s with blk := { s.blk with cmtRef := pack [(0, 13, p.num), (16, 8, r), (31, 1, 1)], refWas := rcSet s.blk.refWas t s.blk.cmtRef } }

theorem IsrGrows.refusedPage (s : State) (p : PageId) (o r t : Nat) : IsrGrows s (s.refusedPage p o r t) := by
  unfold State.refusedPage
  refine IsrGrows.trans ?_ (IsrGrows.intentBack _ p)
  refine (IsrGrows.setErrAt s p o r t).trans ?_
  exact IsrGrows.updPage_same fun _ => rfl

theorem pages_refusalNoted (s : State) (p : PageId) (r t : Nat) : (s.refusalNoted p r t).pages = s.pages := rfl

theorem IsrGrows.commitRefuseAt (s : State) (p : PageId) (o r t : Nat) : IsrGrows s (s.commitRefuseAt p o r t) := by
  have hnoted : IsrGrows s (((s.refusedPage p o r t).refusalNoted p r t).raise .blk 2) :=
    (IsrGrows.refusedPage s p o r t).trans ((IsrGrows.of_pages (pages_refusalNoted _ p r t)).trans (IsrGrows.raise _ _ _))
  unfold State.commitRefuseAt
  split
  · exact hnoted.trans (IsrGrows.uncarry _)
  · exact hnoted

/-- The check of a page's commit begins (R105). -/
def State.checkBegun (s : State) (p : PageId) (mvc : Bool) : State :=
  s.updPage p fun pg => { pg with
    cmt := .checking, cmtRefused := false,
    commit := { arrive := s.esc.frame, late := s.pastLatch, want := pg.commitFrame, mvc := mvc, at_ := s.bclk } }

theorem IsrGrows.checkBegun (s : State) (p : PageId) (mvc : Bool) : IsrGrows s (s.checkBegun p mvc) := IsrGrows.updPage_same fun _ => rfl

/-- The tables that a frame length carries with it are marked (R109). -/
def State.carriedTables (s : State) : State := s.fsPages.foldl (fun s x => s.updPage (.slt x.1 x.2) fun pg => { pg with carried := true }) s

theorem IsrGrows.carriedTables (s : State) : IsrGrows s s.carriedTables := by
  unfold State.carriedTables
  refine IsrGrows.foldl (fun u x => ?_) _ s
  exact IsrGrows.updPage_same fun _ => rfl

/-- A router's page other than the one whose commit sets all routers (R732). -/
def State.strayRouter (s : State) (p : PageId) : Bool := match p with | .trt n => n != s.ctlRouter | _ => false

theorem commitGo_eq (s : State) (p : PageId) (mvc : Bool) : s.commitGo p mvc =
    if p.commitKind = 0 then s.setErr p 0x01C 8
    else if (s.page p).pendingCmt then s.setErr p 0x01C 3
    else if !s.esc.running then s.commitRefuse p 0x01C 8
    else if s.strayRouter p then s.commitRefuse p 0x01C 8
    else if p = .esc ∧ s.fsNew.isSome ∧ s.fsPages.any fun x => (s.page (.slt x.1 x.2)).cmt != .idle then s.commitRefuse p 0x050 3
    else if p = .esc ∧ (s.checkBegun p mvc).fsNew.isSome then (s.checkBegun p mvc).carriedTables else s.checkBegun p mvc := rfl

theorem IsrGrows.commitGo (s : State) (p : PageId) (mvc : Bool) : IsrGrows s (s.commitGo p mvc) := by
  rw [commitGo_eq]
  split
  · exact IsrGrows.setErr s p _ _
  split
  · exact IsrGrows.setErr s p _ _
  split
  · exact IsrGrows.commitRefuseAt s p _ _ _
  split
  · exact IsrGrows.commitRefuseAt s p _ _ _
  split
  · exact IsrGrows.commitRefuseAt s p _ _ _
  split
  · exact (IsrGrows.checkBegun s p mvc).trans (IsrGrows.carriedTables _)
  · exact IsrGrows.checkBegun s p mvc

theorem IsrGrows.mvcCommit (s : State) (p : PageId) (v : Word) : IsrGrows s (s.mvcCommit p v) := by
  unfold State.mvcCommit
  split
  · exact IsrGrows.of_pages rfl
  · refine IsrGrows.trans ?_ (IsrGrows.commitGo _ p true)
    exact IsrGrows.updPage_same fun _ => rfl

theorem IsrGrows.reapply (s : State) (p : PageId) : IsrGrows s (s.reapply p) := by
  unfold State.reapply
  split
  · exact IsrGrows.refl s
  · refine IsrGrows.trans ?_ (IsrGrows.mvcCommit _ p 0)
    refine IsrGrows.foldl (fun u o => ?_) _ s
    exact IsrGrows.setShd u p o _

theorem IsrGrows.gwReapply (s : State) (g : Nat) : IsrGrows s (s.gwReapply g) := by
  unfold State.gwReapply
  split
  · exact (IsrGrows.reapply s _).trans (IsrGrows.reapply _ _)
  · exact IsrGrows.refl s

theorem IsrGrows.routeEvents (s : State) (b : Body) (l : List (Nat × Nat × Bool)) : IsrGrows s (s.routeEvents b l) := by
  unfold State.routeEvents
  refine IsrGrows.foldl (fun s x => ?_) l s
  dsimp only
  split
  · split
    · exact (IsrGrows.ev s _).trans ((IsrGrows.ev _ _).trans (IsrGrows.ev _ _))
    · exact (IsrGrows.ev s _).trans (IsrGrows.ev _ _)
  · exact IsrGrows.ev s _

theorem IsrGrows.sendMsg (s : State) (m : IntMsg) (f : Nat) : IsrGrows s (s.sendMsg m f) := by
  unfold State.sendMsg
  split
  · exact IsrGrows.of_pages rfl
  · refine IsrGrows.trans ?_ (IsrGrows.routeEvents _ _ _)
    refine IsrGrows.trans ?_ (IsrGrows.ev _ _)
    exact IsrGrows.of_pages rfl

theorem IsrGrows.resendMsgs (s : State) : IsrGrows s s.resendMsgs := by
  unfold State.resendMsgs
  refine IsrGrows.trans ?_ (IsrGrows.foldl (fun s m => IsrGrows.sendMsg s m s.bclk) _ _)
  exact IsrGrows.of_pages rfl

end Sys2Proof.Machine
end

section
/-! A port goes away (R155, R190, R192, R193): what its gateway holds afterwards. -/
namespace Sys2Proof.Machine

/-- What a gateway holds that going away leaves alone: its link, its faults, and what it has to send. -/
def Gw.standing (w : Gw) : GwLink × Bool × Nat × List Eg × List RpFlit := (w.link, w.phaseErr, w.falls, w.eg, w.replay)

/-- A gateway that holds no request. -/
def Gw.bare (w : Gw) : Prop := w.fifo = [] ∧ w.cq = [] ∧ w.aside = [] ∧ w.pipe = []

/-- A gateway with a response dropped (R190, R191, R194). -/
def Gw.respDropped (w : Gw) (r : Resp) : Gw :=
  { w.answered r with
    dropCnt := wrapAdd 32 w.dropCnt 1,
    downTags := if w.downTags.contains r.req.tag then w.downTags else w.downTags ++ [r.req.tag] }

theorem gw_dropResp (s : State) (g : Nat) (r : Resp) : (s.dropResp g r).gw g = (s.gw g).respDropped r := by
  unfold State.dropResp
  dsimp only
  rw [State.gw_upd_self, gw_ev]
  rfl

theorem Gw.standing_respDropped (w : Gw) (r : Resp) : (w.respDropped r).standing = w.standing := by
  unfold Gw.respDropped Gw.answered
  split <;> rfl

theorem Gw.fifo_respDropped (w : Gw) (r : Resp) : (w.respDropped r).fifo = w.fifo := by
  unfold Gw.respDropped Gw.answered
  split <;> rfl

/-- A flush of a port that goes away drops the answer of one item. -/
def State.flushLost (g : Nat) (s : State) (x : Item × Nat) : State :=
  let r := { hdrReq x.1.hdr g 0 (x.1.hdr.itag % 4096) 0 s.bclk x.1.at_ with use := 0 }
  (s.ev { box := boxGw g, code := 0x16, req := some r, itag := some r.itag }).dropResp g { req := r, status := 9, bare := true }

theorem flushItems_lost (s : State) (g : Nat) :
    s.flushItems g true = ((s.gw g).fifo.zipIdx.foldl (State.flushLost g) (s.updGw g fun _ => (s.gw g).flushed)).raise (.gw g) 2 := rfl

theorem gw_flushItems_lost (s : State) (g : Nat) : ((s.flushItems g true).gw g).standing = (s.gw g).standing ∧ ((s.flushItems g true).gw g).fifo = [] := by
  rw [flushItems_lost, gw_raise]
  have hone : ∀ (u : State) (x : Item × Nat), ((u.flushLost g x).gw g).standing = (u.gw g).standing ∧ ((u.flushLost g x).gw g).fifo = (u.gw g).fifo :=
    fun u x => by
      unfold State.flushLost
      dsimp only
      rw [gw_dropResp, gw_ev]
      exact ⟨Gw.standing_respDropped _ _, Gw.fifo_respDropped _ _⟩
  have hfold := foldl_keeps (fun u : State => ((u.gw g).standing, (u.gw g).fifo)) (fun u x => Prod.ext (hone u x).1 (hone u x).2)
    (s.gw g).fifo.zipIdx (s.updGw g fun _ => (s.gw g).flushed)
  obtain ⟨hst, hfifo⟩ := Prod.ext_iff.mp hfold
  dsimp only at hst hfifo
  rw [hst, hfifo, State.gw_upd_self]
  generalize s.gw g = w
  exact ⟨rfl, rfl⟩

theorem Gw.releaseAll_kept (w : Gw) (rs : List Req) : (w.releaseAll rs).standing = w.standing ∧ (w.releaseAll rs).fifo = w.fifo := by
  unfold Gw.releaseAll
  refine Prod.ext_iff.mp (foldl_keeps (fun w : Gw => (w.standing, w.fifo)) (fun v r => ?_) rs w)
  rfl

theorem isr_flushItems (s : State) (g : Nat) (b : Bool) : flag ((s.flushItems g b).page (.gw g)).isr 2 = true := flag_raise _ (.gw g) (by decide)

/-- A gateway whose port goes away, with the tags released of what it has not admitted, of the requests `cut` of its trains and of those
on their way, `early`. -/
def Gw.gone (w : Gw) (cut early : List Req) : Gw :=
  let w := w.releaseAll (w.unadmitted ++ cut ++ early)
  { w with gOut := w.gOut - (early.filter fun (r : Req) => r.g).length,
           due := 0, tailDisc := false, pipe := [], holds := w.holds.map (fun h => { h with held := [] }), aside := [], g4q := [], cq := [],
           crStall := false, nakMode := false, nakAt := none, resend := 0, stallSince := none, unacked := none }

/-- A packet of a gateway that has not been injected by BCLK `now`. -/
def Pkt.mine (p : Pkt) (g now : Nat) : Bool :=
  decide (now < p.inj) && match p.body with | .memReq r => r.src == g | .svcReq k _ => k == g | _ => false

/-- The requests of such packets. -/
def State.mineEarly (s : State) (g : Nat) : List Req :=
  s.pkts.filterMap fun p => if !p.mine g s.bclk then none else match p.body with
    | .memReq r => some r | .svcReq _ h => some (hdrReq h g 0 h.itag 0 0 0) | _ => none

/-- The trains of a port that goes away, cut. -/
def State.portCut (s : State) (g : Nat) : State × List Req := (s.flushItems g true).cutTrains fun r => r.src == g

/-- The block without the packets of the port that are still to be injected. -/
def State.portEmptied (s : State) (g : Nat) : State := { s with pkts := s.pkts.filter fun p => !p.mine g s.bclk }

theorem portGone_eq (s : State) (g : Nat) : s.portGone g =
    (((s.portCut g).1.portEmptied g).updGw g fun w => w.gone (s.portCut g).2 ((s.portCut g).1.mineEarly g)).forgetLosses g fun _ => true := rfl

theorem portCut_kept (s : State) (g : Nat) : Kept 0x1400 (s.flushItems g true) (s.portCut g).1 :=
  State.cutTrains_kept (Within.self _) (Kept.refl _ _) _

theorem gws_portEmptied (s : State) (g : Nat) : (s.portEmptied g).gws = s.gws := rfl
theorem pages_portEmptied (s : State) (g : Nat) : (s.portEmptied g).pages = s.pages := rfl

theorem gw_portGone (s : State) (g : Nat) :
    (s.portGone g).gw g = ((s.flushItems g true).gw g).gone (s.portCut g).2 ((s.portCut g).1.mineEarly g) := by
  rw [portGone_eq, gw_of_gws ((State.forgetLosses_kept (Within.self _) (Kept.refl _ _) g _).part .gws (by decide)), State.gw_upd_self,
    gw_of_gws (gws_portEmptied _ g), gw_of_gws ((portCut_kept s g).part .gws (by decide))]

theorem pages_portGone (s : State) (g : Nat) : (s.portGone g).pages = (s.flushItems g true).pages := by
  rw [portGone_eq, (State.forgetLosses_kept (Within.self _) (Kept.refl _ _) g _).part .pages (by decide), State.pages_updGw, pages_portEmptied,
    (portCut_kept s g).part .pages (by decide)]

theorem Gw.standing_gone (w : Gw) (cut early : List Req) : (w.gone cut early).standing = w.standing :=
  (Gw.releaseAll_kept w (w.unadmitted ++ cut ++ early)).1

theorem Gw.bare_gone {w : Gw} (h : w.fifo = []) (cut early : List Req) : (w.gone cut early).bare :=
  ⟨(Gw.releaseAll_kept w (w.unadmitted ++ cut ++ early)).2.trans h, rfl, rfl, rfl⟩

/-- What a port that goes away leaves at its gateway. -/
theorem portGone_gives (s : State) (g : Nat) : ((s.portGone g).gw g).standing = (s.gw g).standing ∧ ((s.portGone g).gw g).bare ∧
    flag ((s.portGone g).page (.gw g)).isr 2 = true := by
  obtain ⟨hst, hfifo⟩ := gw_flushItems_lost s g
  rw [gw_portGone]
  refine ⟨(Gw.standing_gone _ _ _).trans hst, Gw.bare_gone hfifo _ _, ?_⟩
  unfold State.page
  rw [pages_portGone]
  exact isr_flushItems s g true

/-! ### The link's state -/

theorem gw_setLink (s : State) (g : Nat) (l : GwLink) : (s.setLink g l).gw g = { s.gw g with link := l } := by
  unfold State.setLink
  rw [State.gw_upd_self, gw_of_gws ((State.msgsDue_kept (Within.self _) (Kept.refl _ s)).part .gws (by decide))]

theorem standing_setLink (s : State) (g : Nat) (l : GwLink) :
    ((s.setLink g l).gw g).standing = (l, (s.gw g).phaseErr, (s.gw g).falls, (s.gw g).eg, (s.gw g).replay) := by
  rw [gw_setLink]
  rfl

/-- A port that goes away in a link state. -/
theorem portGone_setLink (s : State) (g : Nat) (l : GwLink) :
    let t := (s.setLink g l).portGone g
    (t.gw g).link = l ∧ (t.gw g).phaseErr = (s.gw g).phaseErr ∧ (t.gw g).falls = (s.gw g).falls ∧ (t.gw g).eg = (s.gw g).eg ∧
      (t.gw g).replay = (s.gw g).replay ∧ (t.gw g).bare ∧ flag (t.page (.gw g)).isr 2 = true := by
  intro t
  obtain ⟨hst, hbare, hisr⟩ := portGone_gives (s.setLink g l) g
  rw [standing_setLink] at hst
  simp only [Gw.standing, Prod.mk.injEq] at hst
  obtain ⟨hlink, hphase, hfalls, heg, hreplay⟩ := hst
  exact ⟨hlink, hphase, hfalls, heg, hreplay, hbare, hisr⟩

end Sys2Proof.Machine
end

section
/-! ALIVE, the INITs and the link coming up (R190, R194 to R197). -/
namespace Sys2Proof.Machine

theorem exec_aliveFall (s : State) (g : Fin 16) : exec (.aliveFall g) s = .next (s.aliveFall g) := rfl
theorem exec_aliveRise (s : State) (g : Fin 16) : exec (.aliveRise g) s = .next ((s.aliveRise g).gwReapply g) := rfl
theorem exec_meshInit (s : State) (g : Fin 16) (hdr data : Nat) : exec (.meshInit g hdr data) s = .next (s.meshInit g hdr data) := rfl
theorem exec_linkInit (s : State) (g : Fin 16) : exec (.linkInit g) s = .next (s.linkInit g) := rfl

/-- A gateway whose ALIVE has fallen (R190, R194). -/
def Gw.fallen (w : Gw) : Gw :=
  { w with alive := false, falls := satAdd 65535 w.falls 1, initSent := none, initRecv := none, replay := [],
           tags := w.tags.map fun e => (e.1, { e.2 with old := true }) }

/-- A gateway whose ALIVE has risen (R195). -/
def Gw.risen (w : Gw) : Gw :=
  { w with alive := true, downTags := [], link := if w.phaseErr then .down else .init, initSent := none, initRecv := none,
           reqHdr := 48, reqData := 32, crHdr := 0, crData := 0, expSeq := 0, txSeq := 0, due := 0, tailDisc := false,
           nakMode := false, replay := [] }

theorem aliveFall_of_alive {s : State} {g : Nat} (h : (s.gw g).alive = true) :
    s.aliveFall g = (((s.setLink g .aliveLow).portGone g).updGw g Gw.fallen).raise (.gw g) 3 := by
  unfold State.aliveFall
  rw [if_neg (by rw [h]; decide)]
  rfl

theorem aliveRise_of_low {s : State} {g : Nat} (h : (s.gw g).alive = false) : s.aliveRise g = (s.updGw g Gw.risen).raise (.gw g) 3 := by
  unfold State.aliveRise
  rw [if_neg (by rw [h]; decide)]
  rfl

theorem gw_gwReapply (s : State) (g k : Nat) : (s.gwReapply g).gw k = s.gw k :=
  gw_of_gws ((State.gwReapply_kept (Within.self _) (Kept.refl _ s) g).part .gws (by decide)) k

theorem gw_aliveFall {s : State} {g : Nat} (h : (s.gw g).alive = true) :
    (s.aliveFall g).gw g = (((s.setLink g .aliveLow).portGone g).gw g).fallen := by rw [aliveFall_of_alive h, gw_raise, State.gw_upd_self]

theorem isr_portGone_setLink (s : State) (g : Nat) (l : GwLink) : flag (((s.setLink g l).portGone g).page (.gw g)).isr 2 = true :=
  (portGone_gives _ g).2.2

theorem isr_fallen (s : State) (g : Nat) (h : flag (s.page (.gw g)).isr 2 = true) :
    flag (((s.updGw g Gw.fallen).raise (.gw g) 3).page (.gw g)).isr 2 = true :=
  IsrGrows.raise _ _ 3 _ _ ((IsrGrows.of_pages (State.pages_updGw s g _)) _ _ h)

theorem isr_aliveFall {s : State} {g : Nat} (h : (s.gw g).alive = true) :
    flag ((s.aliveFall g).page (.gw g)).isr 2 = true ∧ flag ((s.aliveFall g).page (.gw g)).isr 3 = true := by
  rw [aliveFall_of_alive h]
  have hgone := isr_portGone_setLink s g .aliveLow
  generalize (s.setLink g .aliveLow).portGone g = t at hgone ⊢
  exact ⟨isr_fallen t g hgone, flag_raise (t.updGw g Gw.fallen) (.gw g) (by decide)⟩

theorem aliveFall_gives {s : State} {g : Nat} (h : (s.gw g).alive = true) :
    ((s.aliveFall g).gw g).alive = false ∧ ((s.aliveFall g).gw g).link = .aliveLow ∧
      ((s.aliveFall g).gw g).falls = satAdd 65535 (s.gw g).falls 1 ∧ ((s.aliveFall g).gw g).bare ∧ ((s.aliveFall g).gw g).replay = [] := by
  obtain ⟨hlink, -, hfalls, -, -, hbare, -⟩ := portGone_setLink s g .aliveLow
  rw [gw_aliveFall h]
  generalize ((s.setLink g .aliveLow).portGone g).gw g = w at hlink hfalls hbare ⊢
  exact ⟨rfl, hlink, congrArg (satAdd 65535 · 1) hfalls, hbare, rfl⟩

theorem aliveRise_gives {s : State} {g : Nat} (h : (s.gw g).alive = false) :
    let t := (s.aliveRise g).gwReapply g
    (t.gw g).alive = true ∧ (t.gw g).reqHdr = 48 ∧ (t.gw g).reqData = 32 ∧ (t.gw g).expSeq = 0 ∧ (t.gw g).txSeq = 0 ∧ (t.gw g).downTags = [] ∧
      (t.gw g).link = (if (s.gw g).phaseErr = true then .down else .init) ∧ flag (t.page (.gw g)).isr 3 = true := by
  intro t
  have hgw : t.gw g = (s.gw g).risen := by
    change ((s.aliveRise g).gwReapply g).gw g = _
    rw [gw_gwReapply, aliveRise_of_low h, gw_raise, State.gw_upd_self]
  have hisr : flag (t.page (.gw g)).isr 3 = true := IsrGrows.gwReapply _ _ _ _ (by
    rw [aliveRise_of_low h]
    exact flag_raise _ (.gw g) (by decide))
  rw [hgw]
  generalize s.gw g = w
  exact ⟨rfl, rfl, rfl, rfl, rfl, rfl, rfl, hisr⟩

section
variable {s : State} {g : Nat}

theorem meshInit_of_init (hlink : (s.gw g).link = .init) (hen : s.gwEn g = true) (hrecv : (s.gw g).initRecv = none) (hdr data : Nat) :
    s.meshInit g hdr data = s.updGw g fun w =>
      { w with initRecv := some s.bclk, rspHdr := min 255 hdr, rspData := min 255 data, expSeq := 1, unacked := some s.bclk } := by
  unfold State.meshInit
  exact if_neg (by rw [hlink, hen, hrecv]; decide)

theorem linkDue_of_init (hlink : (s.gw g).link = .init) (hen : s.gwEn g = true) : s.linkDue g = match (s.gw g).initSent, (s.gw g).initRecv with
    | none, _ => if (s.gw g).tags = [] then some (atEnd s.bclk) else none
    | some a, some b => some (atStart (max a b + 1))
    | some _, none => none := by
  unfold State.linkDue
  exact if_neg (by rw [hlink, hen]; decide)

theorem gwDo_link_sends (hsent : (s.gw g).initSent = none) : s.gwDo g .link = s.sendInit g := if_pos (by rw [hsent]; rfl)

theorem gwDo_link_rises {a : Nat} (hsent : (s.gw g).initSent = some a) : s.gwDo g .link = s.linkGoesUp g := if_neg (by rw [hsent]; exact Bool.false_ne_true)

theorem gw_sendInit (s : State) (g : Nat) : (s.sendInit g).gw g = { s.gw g with initSent := some s.bclk }.sendNew { fkind := 3 } s.bclk :=
  State.gw_upd_self _ g _

theorem gw_linkGoesUp (s : State) (g : Nat) : (s.linkGoesUp g).gw g = { s.gw g with link := .up } := by
  unfold State.linkGoesUp
  rw [gw_of_gws ((State.resendMsgs_kept (Within.self _) (Kept.refl _ _)).part .gws (by decide)), gw_raise, gw_setLink]

theorem isr_linkGoesUp (s : State) (g : Nat) : flag ((s.linkGoesUp g).page (.gw g)).isr 4 = true :=
  IsrGrows.resendMsgs _ _ _ (flag_raise _ (.gw g) (by decide))

theorem linkInit_of_due {m : Nat} (hdue : s.linkDue g = some m) (hreach : s.canReach (max ((m + 1) / 2) (s.bclk + 1)) = true) :
    s.linkInit g = s.goto (max ((m + 1) / 2) (s.bclk + 1)) := by
  unfold State.linkInit
  rw [hdue]
  exact if_pos hreach

end

/-- Settles O47: each event of a port by its own branch; what going away leaves is `portGone_setLink`. -/
theorem portComesAndGoes : Obligations.PortComesAndGoes := by
  unfold Obligations.PortComesAndGoes
  refine fun s g => ⟨fun h => ⟨_, exec_aliveFall s g, ?_⟩, fun h => ⟨_, exec_aliveRise s g, aliveRise_gives h⟩,
    fun hlink hen => ⟨fun hrecv hdr data => ⟨_, exec_meshInit s g hdr data, ?_⟩, fun hsent => ⟨fun htags => ?_, ?_⟩, fun a b hsent hrecv => ?_⟩,
    fun m hdue hreach => ⟨_, exec_linkInit s g, linkInit_of_due hdue hreach, ?_⟩⟩
  · obtain ⟨halive, hlink, hfalls, ⟨hfifo, hcq, haside, hpipe⟩, hreplay⟩ := aliveFall_gives h
    exact ⟨halive, hlink, hfalls, hfifo, hcq, haside, hpipe, hreplay, isr_aliveFall h⟩
  · beta_reduce
    rw [meshInit_of_init hlink hen hrecv, State.gw_upd_self]
  · rw [linkDue_of_init hlink hen, hsent]
    exact if_pos htags
  · dsimp only
    rw [gwDo_link_sends hsent, gw_sendInit]
    generalize s.gw g = w
    exact ⟨rfl, rfl, ⟨_, rfl, rfl, rfl⟩, _, rfl, rfl, rfl⟩
  · rw [linkDue_of_init hlink hen, hsent, hrecv, gwDo_link_rises hsent, gw_linkGoesUp]
    exact ⟨rfl, rfl, isr_linkGoesUp s g⟩
  · rw [linkInit_of_due hdue hreach, bclk_goto]
    exact Nat.max_eq_right ((Nat.le_succ _).trans (Nat.le_max_right _ _))

end Sys2Proof.Machine
end

section
/-! The link's flits and timers (R145 to R160). -/
namespace Sys2Proof.Machine

theorem exec_phaseErr (s : State) (g : Fin 16) : exec (.phaseErr g) s = .next (s.phaseErr g) := rfl
theorem exec_linkCrcError (s : State) (g : Fin 16) : exec (.linkCrcError g) s = .next (s.linkCrc g) := rfl
theorem exec_replayTimeout (s : State) (g : Fin 16) : exec (.replayTimeout g) s = .next (s.replayTimeout g) := rfl
theorem exec_idleAck (s : State) (g : Fin 16) : exec (.idleAck g) s = .next (s.idleAck g) := rfl
theorem exec_meshCreditReturn (s : State) (g : Fin 16) (hdr data : Nat) :
    exec (.meshCreditReturn g hdr data) s = .next (s.meshCredit g hdr data) := rfl
theorem exec_ackReceived (s : State) (g : Fin 16) (ack : Nat) : exec (.ackReceived g ack) s = .next (s.ackReceived g (ack % 4096)) := rfl
theorem exec_nakReceived (s : State) (g : Fin 16) (ack : Nat) : exec (.nakReceived g ack) s = .next (s.nakReceived g (ack % 4096)) := rfl
theorem exec_rewindTimer (s : State) (g : Fin 16) : exec (.rewindTimer g) s = .next (s.rewindTimer g) := rfl

/-- What the port's going down with its link leaves of the gateway (R145, R190). -/
theorem phaseErr_of_live {s : State} {g : Nat} (h : (s.gw g).link = .init ∨ (s.gw g).link = .up) :
    s.phaseErr g = ((s.updGw g fun w => { w with phaseErr := true }).setLink g .down).portGone g :=
  if_pos (by rw [State.gw_upd_self]; exact h)

theorem phaseErr_of_down {s : State} {g : Nat} (h : ¬ ((s.gw g).link = .init ∨ (s.gw g).link = .up)) :
    s.phaseErr g = s.updGw g fun w => { w with phaseErr := true } :=
  if_neg (by rw [State.gw_upd_self]; exact h)

theorem phaseErr_gives {s : State} {g : Nat} (h : (s.gw g).link = .init ∨ (s.gw g).link = .up) :
    ((s.phaseErr g).gw g).phaseErr = true ∧ ((s.phaseErr g).gw g).link = .down ∧ ((s.phaseErr g).gw g).bare := by
  obtain ⟨hlink, herr, -, -, -, hbare, -⟩ := portGone_setLink (s.updGw g fun w => { w with phaseErr := true }) g .down
  rw [State.gw_upd_self] at herr
  rw [phaseErr_of_live h]
  exact ⟨herr, hlink, hbare⟩

theorem portDown_gives (s : State) (g : Nat) :
    ((s.portDown g).gw g).link = .down ∧ ((s.portDown g).gw g).eg = (s.gw g).eg ∧ ((s.portDown g).gw g).replay = (s.gw g).replay ∧
      ((s.portDown g).gw g).bare ∧ flag ((s.portDown g).page (.gw g)).isr 0 = true := by
  obtain ⟨hlink, -, -, heg, hreplay, hbare, -⟩ := portGone_setLink s g .down
  unfold State.portDown
  rw [gw_raise]
  exact ⟨hlink, heg, hreplay, hbare, flag_raise _ _ (by decide)⟩

theorem bclk_portDown (s : State) (g : Nat) : (s.portDown g).bclk = s.bclk :=
  (State.portDown_kept (Within.self _) (Kept.refl _ s) g).part .bclk (by decide)

/-- The egress of a port whose replay buffer has stalled too long is emptied (R160): `replayTimeout` between its waiting and its going down. -/
def State.stallCut (s : State) (g : Nat) : State :=
  let here := s.arrived g s.bclk
  let half := ((s.gw g).replay.take 1).filter fun f => f.fkind == 2
  let sent := (half ++ (s.gw g).replay.filter fun f => f.fkind == 1).map fun f => { f.resp with bare := true }
  let rs := sent ++ here.map (·.2) ++ (s.gw g).eg.map (·.resp)
  let s := { s with pkts := s.pkts.filter fun p => !here.any fun x => x.1 == p }
  let s := rs.foldl (fun s r => s.dropResp g r) s
  s.updGw g fun w => { w with eg := [], replay := [], gOut := w.gOut - (here.filter fun x => x.2.req.g).length }

section
variable {s : State} {g : Nat}

theorem replayTimeout_of_stalled {b : Nat} (hup : s.linkUp g = true) (hstall : (s.gw g).stallSince = some b)
    (hreach : s.canReach (b + s.bin.us (fld (s.reg (.gw g) 0x054) 0 10)) = true) :
    s.replayTimeout g = ((s.goto (b + s.bin.us (fld (s.reg (.gw g) 0x054) 0 10))).stallCut g).portDown g := by
  unfold State.replayTimeout
  rw [hstall]
  exact if_neg (by rw [hup, hreach]; decide)

theorem bclk_dropResp (s : State) (g : Nat) (r : Resp) : (s.dropResp g r).bclk = s.bclk :=
  (State.dropResp_kept (Within.self _) (Kept.refl _ s) g r).part .bclk (by decide)

theorem bclk_stallCut (s : State) (g : Nat) : (s.stallCut g).bclk = s.bclk := by
  unfold State.stallCut
  dsimp only
  exact (foldl_keeps State.bclk (fun t r => bclk_dropResp t g r) _ _)

theorem egress_stallCut (s : State) (g : Nat) : ((s.stallCut g).gw g).eg = [] ∧ ((s.stallCut g).gw g).replay = [] := by
  unfold State.stallCut
  dsimp only
  rw [State.gw_upd_self]
  exact ⟨rfl, rfl⟩

theorem linkCrc_of_good (hup : s.linkUp g = true) (hnak : (s.gw g).nakMode = false) :
    (s.linkCrc g).gw g = { s.gw g with nakMode := true, nakAt := some (s.bclk + 1), rplyIn := satAdd 255 (s.gw g).rplyIn 1 } := by
  unfold State.linkCrc
  rw [if_neg (by rw [hup, hnak]; decide)]
  dsimp only
  rw [State.gw_upd_self, gw_ev, bclk_ev]

theorem Gw.unacked_sendIdle (w : Gw) (t : Nat) : (w.sendIdle t).unacked = none := rfl

theorem idleAck_of_due {b : Nat} (hup : s.linkUp g = true) (hacks : (s.gw g).unacked = some b) (hreach : s.canReach (b + 64) = true)
    (hstill : ((s.goto (b + 64)).gw g).unacked = some b) (hidle : (s.goto (b + 64)).egIdle g (s.goto (b + 64)).bclk = true) :
    s.idleAck g = (s.goto (b + 64)).updGw g fun w => w.sendIdle (w.linkFree (s.goto (b + 64)).bclk) := by
  unfold State.idleAck
  rw [hacks]
  exact (if_neg (by rw [hup, hreach]; decide)).trans (if_pos ⟨hstill, hidle⟩)

/-- What leaves a port next is read from the packets and the gateway's own egress. -/
theorem nextEgress_updGw (s : State) (g : Nat) {f : Gw → Gw} (h : (f (s.gw g)).eg = (s.gw g).eg) : (s.updGw g f).nextEgress g = s.nextEgress g := by
  unfold State.nextEgress
  rw [State.pkts_updGw, State.gw_upd_self, h]

/-- A gateway that has received credits for its responses. -/
def Gw.credited (w : Gw) (hdr data : Nat) : Gw :=
  { w with rspHdr := satAdd 255 w.rspHdr (hdr % 8), rspData := satAdd 255 w.rspData (data % 8) }

theorem meshCredit_of_up (hup : s.linkUp g = true) (hdr data : Nat) : (s.meshCredit g hdr data).gw g =
    { (s.gw g).credited hdr data with
      crStall := ((s.gw g).credited hdr data).crStall && (match s.nextEgress g with
        | some x => ((s.gw g).credited hdr data).lacks x.1
        | none => false) } := by
  have hnext : (s.updGw g fun w => w.credited hdr data).nextEgress g = s.nextEgress g := nextEgress_updGw s g rfl
  unfold State.meshCredit
  rw [if_neg (by rw [hup]; decide)]
  dsimp only
  rw [show (fun w : Gw => { w with rspHdr := satAdd 255 w.rspHdr (hdr % 8), rspData := satAdd 255 w.rspData (data % 8) }) =
    fun w => w.credited hdr data from rfl, hnext, State.gw_upd_self, State.gw_upd_self] <;> rfl

theorem replay_after {a b : List RpFlit} {f : RpFlit} {ack : Nat} (hf : f.seq = ack) (ha : ∀ x ∈ a, x.seq ≠ ack) :
    ((a ++ f :: b).dropWhile fun x => x.seq != ack).drop 1 = b := by
  rw [List.dropWhile_append_of_pos fun x hx => by simpa using ha x hx, List.dropWhile_cons_of_neg (by simp [hf])]
  rfl

theorem gw_ackReceived {a b : List RpFlit} {f : RpFlit} {ack : Nat} (hhears : s.linkHears g = true) (hreplay : (s.gw g).replay = a ++ f :: b)
    (hack : ack < 4096) (hf : f.seq = ack) (ha : ∀ x ∈ a, x.seq ≠ ack) : (s.ackReceived g (ack % 4096)).gw g =
      { s.gw g with replay := b, resend := min (s.gw g).resend b.length, stallSince := none } := by
  unfold State.ackReceived
  rw [Nat.mod_mod, Nat.mod_eq_of_lt hack]
  dsimp only
  rw [if_pos (by rw [hhears, hreplay]; simp [hf]), State.gw_upd_self, hreplay, replay_after hf ha]

/-- A gateway whose egress rewinds to the mark (R159). -/
def Gw.rewound (w : Gw) (b : Nat) : Gw :=
  { w with resend := w.replay.length, egFree := max w.egFree (b - 1), rplyOut := satAdd 255 w.rplyOut 1 }

theorem gw_rewind (s : State) (g : Nat) : (s.rewind g).gw g = (s.gw g).rewound s.bclk := by
  unfold State.rewind
  dsimp only
  rw [State.gw_upd_self, gw_ev, bclk_ev]
  rfl

theorem bclk_rewind (s : State) (g : Nat) : (s.rewind g).bclk = s.bclk :=
  (State.rewind_kept (Within.self _) (Kept.refl _ s) g).part .bclk (by decide)

theorem nakReceived_of_hears (h : s.linkHears g = true) (ack : Nat) : s.nakReceived g ack = (s.ackReceived g ack).rewind g := if_pos h

theorem rewindTimer_of_due {f : RpFlit} {b : List RpFlit} (hup : s.linkUp g = true ∨ ((s.gw g).link = .init ∧ s.gwEn g = true))
    (hreplay : (s.gw g).replay = f :: b) (hresend : (s.gw g).resend = 0) (hreach : s.canReach (f.sent + s.bin.us 2) = true) :
    s.rewindTimer g = (s.goto (f.sent + s.bin.us 2)).rewind g := by
  have hlive : (s.linkUp g || (s.gw g).link == .init && s.gwEn g) = true := by
    rcases hup with hup | ⟨hinit, hen⟩
    · rw [hup, Bool.true_or]
    · rw [hinit, hen]
      exact Bool.or_true _
  unfold State.rewindTimer
  rw [hreplay]
  exact if_neg (by rw [hlive, hresend, hreach]; decide)

end

theorem Gw.sendAgain_of_mark {w : Gw} {f : RpFlit} (h : w.replay[w.replay.length - w.resend]? = some f) (t : Nat) :
    w.sendAgain t = { w.emit f.seq f.fkind f.last f.body t with
      replay := w.replay.set (w.replay.length - w.resend) { f with sent := t }, resend := w.resend - 1 } := by
  unfold Gw.sendAgain
  dsimp only
  rw [h]

/-- Sending a flit of the replay buffer again keeps its number and its place (R159). -/
theorem Gw.sendAgain_keeps_numbers {w : Gw} {f : RpFlit} (h : w.replay[w.replay.length - w.resend]? = some f) (t : Nat) :
    (w.sendAgain t).replay.map RpFlit.seq = w.replay.map RpFlit.seq := by
  obtain ⟨hlt, hf⟩ := List.getElem?_eq_some_iff.mp h
  subst hf
  rw [Gw.sendAgain_of_mark h, List.map_set]
  exact (congrArg _ (List.getElem_map RpFlit.seq).symm).trans (List.set_getElem_self (by rwa [List.length_map]))

/-- Settles O46: each flit and timer by its own branch; a port that goes down is `portGone_setLink`. -/
theorem linkKeepsFlits : Obligations.LinkKeepsFlits := by
  unfold Obligations.LinkKeepsFlits
  refine fun s g => ⟨fun h => ⟨_, exec_phaseErr s g, ?_⟩, fun hi hu => ⟨_, exec_phaseErr s g, ?_⟩,
    fun hup => ⟨fun hnak => ⟨_, exec_linkCrcError s g, linkCrc_of_good hup hnak⟩, fun b hstall => ?_, fun b hacks hreach => ?_, fun hdr data => ?_⟩,
    fun hhears ack a f b hreplay hack hf ha => ⟨⟨_, exec_ackReceived s g ack, ?_⟩, _, exec_nakReceived s g ack, ?_⟩,
    fun hlive f b hreplay hresend hreach => ⟨_, exec_rewindTimer s g, ?_⟩, ?_⟩
  · obtain ⟨herr, hlink, hfifo, hcq, -, hpipe⟩ := phaseErr_gives h
    exact ⟨herr, hlink, hfifo, hcq, hpipe⟩
  · beta_reduce
    rw [phaseErr_of_down (not_or.mpr ⟨hi, hu⟩), State.gw_upd_self]
  · intro e hreach
    refine ⟨_, exec_replayTimeout s g, ?_⟩
    beta_reduce
    rw [replayTimeout_of_stalled hup hstall hreach]
    obtain ⟨hlink, heg, hreplay, ⟨hfifo, hcq, -, hpipe⟩, hisr⟩ := portDown_gives ((s.goto e).stallCut g) g
    obtain ⟨hno, hnone⟩ := egress_stallCut (s.goto e) g
    refine ⟨?_, hlink, heg.trans hno, hreplay.trans hnone, hfifo, hcq, hpipe, hisr⟩
    rw [bclk_portDown, bclk_stallCut, bclk_goto]
  · intro u hstill hidle
    refine ⟨_, exec_idleAck s g, ?_⟩
    beta_reduce
    rw [idleAck_of_due hup hacks hreach hstill hidle, State.gw_upd_self]
    exact ⟨bclk_goto s _, rfl, Gw.unacked_sendIdle _ _⟩
  · intro w
    exact ⟨_, exec_meshCreditReturn s g hdr data, meshCredit_of_up hup hdr data⟩
  · beta_reduce
    rw [gw_ackReceived hhears hreplay hack hf ha]
    exact ⟨rfl, rfl, rfl, rfl⟩
  · beta_reduce
    rw [nakReceived_of_hears hhears, gw_rewind, gw_ackReceived hhears hreplay hack hf ha]
    exact ⟨rfl, rfl, rfl⟩
  · dsimp only
    rw [rewindTimer_of_due hlive hreplay hresend hreach, bclk_rewind, gw_rewind, bclk_goto]
    exact ⟨rfl, rfl, rfl, rfl⟩
  · intro w f hmark
    refine ⟨rfl, ?_, Gw.sendAgain_keeps_numbers hmark _, ?_⟩
    · exact congrArg Gw.resend (Gw.sendAgain_of_mark hmark _)
    · exact ⟨_, congrArg Gw.tx (Gw.sendAgain_of_mark hmark _), rfl, rfl⟩

end Sys2Proof.Machine
end

section
/-! Responses, bounces and set-aside requests of a gateway (R156 to R158, R169 to R174, R183, R191, R192, R462). -/
namespace Sys2Proof.Machine

theorem exec_responseEgress (s : State) (g : Fin 16) :
    exec (.responseEgress g) s = .next (((s.egressAhead g).svcsFor g).responseEgress g) := rfl
theorem exec_retryCBounce (s : State) (g : Fin 16) : exec (.retryCBounce g) s = .next (s.bounceArrives g) := rfl
theorem exec_setAsideRelease (s : State) (g : Fin 16) :
    exec (.setAsideRelease g) s = .next ((s.gwAhead fun s => (s.gw g).firstAside.map (·.until_)).asideRelease g) := rfl

/-- A response taken from where it stood, its place in class G given back (R174). -/
def State.egressTaken (s : State) (g : Nat) (r : Resp) (p : Option Pkt) : State :=
  let s := s.takeEgress g r p
  if r.req.g then s.updGw g fun w => { w with gOut := w.gOut - 1 } else s

/-- A response dropped at a port that is not up, its place in class G given back. -/
def State.egressDropped (s : State) (g : Nat) (r : Resp) (p : Option Pkt) : State :=
  let s := (s.takeEgress g r p).dropResp g r
  if r.req.g then s.updGw g fun w => { w with gOut := w.gOut - 1 } else s

/-- The gateway after a stale response has been discarded (R183). -/
def Gw.staleGone (w : Gw) (r : Resp) : Gw := { w.answered r with staleCnt := wrapAdd 32 w.staleCnt 1, crStall := false }

/-- The flits of a response go into the replay buffer (R148, R156). -/
def Gw.flitsSent (w : Gw) (r : Resp) (t : Nat) : Gw :=
  if r.rkind == 1 then (w.sendNew { fkind := 1, resp := r } t).sendNew { fkind := 2, resp := r } (t + 1) else w.sendNew { fkind := 1, resp := r } t

/-- The gateway after a response has gone into its replay buffer (R148, R156, R157). -/
def Gw.respSent (w : Gw) (r : Resp) (t : Nat) : Gw :=
  let w := (w.answered r).flitsSent r t
  { w with
    out := r :: w.out, rspHdr := w.rspHdr - 1, rspData := if r.rkind == 1 then w.rspData - 1 else w.rspData,
    thrCnt := if r.thr then wrapAdd 32 w.thrCnt 1 else w.thrCnt }

/-- What becomes of a response in the BCLK in which it leaves E2, `e` being the BCLK in which it entered E0 (R154, R158, R183, R191). -/
def State.egressEnds (s : State) (g : Nat) (r : Resp) (p : Option Pkt) (e : Nat) : State :=
  if p.isSome ∧ s.staleAt r e then
    ((s.egressTaken g r p).ev { box := boxGw g, code := 0x0E, req := some r.req, itag := some r.req.itag }).updGw g fun w => w.staleGone r
  else if !s.linkUp g then s.egressDropped g r p
  else if (s.gw g).lacks r then s.updGw g fun w => { w with crStall := true }
  else if 256 < (s.gw g).replay.length + (if r.rkind = 1 then 2 else 1) then
    s.updGw g fun w => { w with stallSince := some (w.stallSince.getD s.bclk) }
  else (s.egressTaken g r p).sendResp g r

section
variable {s : State} {g : Nat} {r : Resp} {b : Nat} {p : Option Pkt}

theorem responseEgress_of_resend (hnext : s.nextEgress g = some (r, b, p)) (hresend : (s.gw g).resend ≠ 0) : s.responseEgress g = s := by
  unfold State.responseEgress
  rw [hnext]
  exact if_pos (.inr hresend)

theorem responseEgress_of_next (hnext : s.nextEgress g = some (r, b, p)) (hreach : s.canReach (max b (s.gw g).egFree + 2) = true)
    (hresend : (s.gw g).resend = 0) :
    s.responseEgress g = (s.goto (max b (s.gw g).egFree + 2)).egressEnds g r p (max b (s.gw g).egFree) := by
  unfold State.responseEgress
  rw [hnext]
  refine (if_neg ?_).trans rfl
  rintro (h | h)
  · rw [hreach] at h
    exact Bool.false_ne_true h
  · exact h hresend

theorem bclk_takeEgress (s : State) (g : Nat) (r : Resp) (p : Option Pkt) : (s.takeEgress g r p).bclk = s.bclk := by cases p <;> rfl

theorem bclk_egressTaken (s : State) (g : Nat) (r : Resp) (p : Option Pkt) : (s.egressTaken g r p).bclk = s.bclk := by
  unfold State.egressTaken
  split
  · exact bclk_takeEgress s g r p
  · exact bclk_takeEgress s g r p

theorem gw_takeEgress (s : State) (g : Nat) (r : Resp) (p : Option Pkt) : ∃ eg, (s.takeEgress g r p).gw g = { s.gw g with eg := eg } := by
  cases p with
  | none => exact ⟨_, State.gw_upd_self s g _⟩
  | some p => exact ⟨_, rfl⟩

theorem gw_egressTaken (s : State) (g : Nat) (r : Resp) (p : Option Pkt) :
    ∃ eg n, (s.egressTaken g r p).gw g = { s.gw g with eg := eg, gOut := n } := by
  obtain ⟨eg, heg⟩ := gw_takeEgress s g r p
  unfold State.egressTaken
  split
  · exact ⟨eg, _, (State.gw_upd_self _ g _).trans (by rw [heg])⟩
  · exact ⟨eg, _, heg⟩

theorem gw_respTally (s : State) (r : Resp) (g : Nat) : (s.respTally r).gw g = s.gw g :=
  gw_of_gws ((State.respTally_kept (Within.self _) (Kept.refl _ s) r).part .gws (by decide)) g

theorem gw_sendResp (s : State) (g : Nat) (r : Resp) : (s.sendResp g r).gw g = (s.gw g).respSent r s.bclk := by
  unfold State.sendResp
  dsimp only
  rw [State.gw_upd_self, gw_respTally]
  rw [gw_ev, gw_ev, gw_ev, gw_ev, gw_ev]
  rfl

theorem bclk_sendResp (s : State) (g : Nat) (r : Resp) : (s.sendResp g r).bclk = s.bclk :=
  (State.sendResp_kept (Within.self _) (Kept.refl _ s) g r).part .bclk (by decide)

theorem bclk_egressDropped (s : State) (g : Nat) (r : Resp) (p : Option Pkt) : (s.egressDropped g r p).bclk = s.bclk := by
  have h : ((s.takeEgress g r p).dropResp g r).bclk = s.bclk := (bclk_dropResp _ g r).trans (bclk_takeEgress s g r p)
  unfold State.egressDropped
  split
  · exact h
  · exact h

theorem gw_egressDropped (s : State) (g : Nat) (r : Resp) (p : Option Pkt) :
    ∃ eg n, (s.egressDropped g r p).gw g = { ({ s.gw g with eg := eg } : Gw).respDropped r with gOut := n } := by
  obtain ⟨eg, heg⟩ := gw_takeEgress s g r p
  have h : ((s.takeEgress g r p).dropResp g r).gw g = ({ s.gw g with eg := eg } : Gw).respDropped r := by rw [gw_dropResp, heg]
  unfold State.egressDropped
  split
  · exact ⟨eg, _, (State.gw_upd_self _ g _).trans (by rw [h])⟩
  · exact ⟨eg, _, h⟩

/-- The tags, the responses sent and the loss counters of a gateway, which the queues of the egress do not enter. -/
theorem Gw.answered_with_egress (w : Gw) (eg : List Eg) (n : Nat) (r : Resp) :
    ({ w with eg := eg, gOut := n } : Gw).answered r = { w.answered r with eg := eg, gOut := n } := by
  unfold Gw.answered
  split <;> rfl

theorem Gw.length_replay_sendNew (w : Gw) (f : RpFlit) (t : Nat) : (w.sendNew f t).replay.length = w.replay.length + 1 := by
  unfold Gw.sendNew
  rw [List.length_append]
  rfl

/-- What sending flits leaves of a gateway. -/
def Gw.credits (w : Gw) : List Resp × Nat × Nat × List (Nat × TagRec) := (w.out, w.rspHdr, w.rspData, w.tags)

theorem Gw.credits_sendNew (w : Gw) (f : RpFlit) (t : Nat) : (w.sendNew f t).credits = w.credits := rfl

theorem Gw.credits_flitsSent (w : Gw) (r : Resp) (t : Nat) : (w.flitsSent r t).credits = w.credits := by
  unfold Gw.flitsSent
  split
  · exact (Gw.credits_sendNew _ _ _).trans (Gw.credits_sendNew _ _ _)
  · exact Gw.credits_sendNew _ _ _

theorem Gw.length_replay_flitsSent (w : Gw) (r : Resp) (t : Nat) :
    (w.flitsSent r t).replay.length = w.replay.length + (if r.rkind = 1 then 2 else 1) := by
  unfold Gw.flitsSent
  by_cases h : r.rkind = 1
  · rw [if_pos (beq_iff_eq.mpr h), if_pos h, Gw.length_replay_sendNew, Gw.length_replay_sendNew]
  · rw [if_neg (mt beq_iff_eq.mp h), if_neg h, Gw.length_replay_sendNew]

theorem Gw.credits_answered (w : Gw) (r : Resp) : (w.answered r).credits = (w.out, w.rspHdr, w.rspData, (w.answered r).tags) := by
  unfold Gw.answered
  split <;> rfl

theorem Gw.replay_answered (w : Gw) (r : Resp) : (w.answered r).replay = w.replay := by
  unfold Gw.answered
  split <;> rfl

/-- The credits and flits of a response that leaves, each counted once. -/
theorem Gw.respSent_fields (w : Gw) (r : Resp) (t : Nat) : (w.respSent r t).out = r :: w.out ∧ (w.respSent r t).rspHdr = w.rspHdr - 1 ∧
    (w.respSent r t).rspData = (if r.rkind == 1 then w.rspData - 1 else w.rspData) ∧
    (w.respSent r t).replay.length = w.replay.length + (if r.rkind = 1 then 2 else 1) ∧ (w.respSent r t).tags = (w.answered r).tags := by
  have hcr : ((w.answered r).flitsSent r t).credits = (w.out, w.rspHdr, w.rspData, (w.answered r).tags) :=
    (Gw.credits_flitsSent _ r t).trans (w.credits_answered r)
  have hlen := Gw.length_replay_flitsSent (w.answered r) r t
  rw [w.replay_answered r] at hlen
  unfold Gw.respSent
  generalize (w.answered r).flitsSent r t = x at hcr hlen ⊢
  obtain ⟨hout, hrest⟩ := Prod.mk.inj hcr
  obtain ⟨hhdr, hrest⟩ := Prod.mk.inj hrest
  obtain ⟨hdata, htags⟩ := Prod.mk.inj hrest
  dsimp only
  rw [hout, hhdr, hdata, hlen, htags]
  exact ⟨rfl, rfl, rfl, rfl, rfl⟩

theorem Gw.respSent_gives {w : Gw} {r : Resp} (h : w.lacks r = false) (t : Nat) :
    (w.respSent r t).rspHdr + 1 = w.rspHdr ∧ (w.respSent r t).rspData + b2n (r.rkind == 1) = w.rspData := by
  obtain ⟨-, hhdr, hdata, -, -⟩ := w.respSent_fields r t
  obtain ⟨hpos, hdpos⟩ := Bool.or_eq_false_iff.mp h
  rw [hhdr, hdata]
  refine ⟨Nat.sub_add_cancel (Nat.pos_of_ne_zero (beq_eq_false_iff_ne.mp hpos)), ?_⟩
  cases hrd : r.rkind == 1 with
  | false => rfl
  | true =>
    rw [hrd] at hdpos
    exact Nat.sub_add_cancel (Nat.pos_of_ne_zero (beq_eq_false_iff_ne.mp hdpos))

/-- What the gateway is once its response has been sent, from the state `v` in which it passes E2. -/
theorem gw_egressSent {v : State} {g : Nat} {r : Resp} (p : Option Pkt) (h : (v.gw g).lacks r = false) :
    let t := (v.egressTaken g r p).sendResp g r
    (t.gw g).out = r :: (v.gw g).out ∧ (t.gw g).rspHdr + 1 = (v.gw g).rspHdr ∧ (t.gw g).rspData + b2n (r.rkind == 1) = (v.gw g).rspData ∧
      (t.gw g).replay.length = (v.gw g).replay.length + (if r.rkind = 1 then 2 else 1) ∧ (t.gw g).tags = ((v.gw g).answered r).tags := by
  obtain ⟨eg, n, hgw⟩ := gw_egressTaken v g r p
  intro t
  have ht : t.gw g = ({ v.gw g with eg := eg, gOut := n } : Gw).respSent r (v.egressTaken g r p).bclk := by
    change ((v.egressTaken g r p).sendResp g r).gw g = _
    rw [gw_sendResp, hgw]
  rw [ht]
  generalize v.gw g = w at h
  generalize (v.egressTaken g r p).bclk = b
  obtain ⟨hhdr, hdata⟩ := Gw.respSent_gives (w := { w with eg := eg, gOut := n }) h b
  obtain ⟨hout, -, -, hlen, htags⟩ := Gw.respSent_fields { w with eg := eg, gOut := n } r b
  exact ⟨hout, hhdr, hdata, hlen, htags.trans (by rw [Gw.answered_with_egress])⟩

theorem gw_egressDropped_gives (v : State) (g : Nat) (r : Resp) (p : Option Pkt) :
    let t := v.egressDropped g r p
    (t.gw g).out = (v.gw g).out ∧ (t.gw g).dropCnt = wrapAdd 32 (v.gw g).dropCnt 1 ∧ (t.gw g).tags = ((v.gw g).answered r).tags := by
  obtain ⟨eg, n, hgw⟩ := gw_egressDropped v g r p
  intro t
  rw [show t.gw g = _ from hgw]
  generalize v.gw g = w
  have hout := congrArg Prod.fst (w.credits_answered r)
  have hans : ({ w with eg := eg } : Gw).answered r = { w.answered r with eg := eg } := by
    unfold Gw.answered
    split <;> rfl
  unfold Gw.respDropped
  rw [hans]
  exact ⟨hout, rfl, rfl⟩

theorem gw_egressStale (v : State) (g : Nat) (r : Resp) (p : Option Pkt) (e : Ev) :
    let t := ((v.egressTaken g r p).ev e).updGw g fun w => w.staleGone r
    (t.gw g).crStall = false ∧ (t.gw g).out = (v.gw g).out ∧ (t.gw g).staleCnt = wrapAdd 32 (v.gw g).staleCnt 1 ∧
      (t.gw g).tags = ((v.gw g).answered r).tags := by
  obtain ⟨eg, n, hgw⟩ := gw_egressTaken v g r p
  intro t
  have ht : t.gw g = ({ v.gw g with eg := eg, gOut := n } : Gw).staleGone r := by
    change (((v.egressTaken g r p).ev e).updGw g fun w => w.staleGone r).gw g = _
    rw [State.gw_upd_self, gw_ev, hgw]
  rw [ht]
  generalize v.gw g = w
  have hout := congrArg Prod.fst (w.credits_answered r)
  unfold Gw.staleGone
  rw [Gw.answered_with_egress]
  exact ⟨rfl, hout, rfl, rfl⟩

end

/-- Of two packets that pass a test the one that arrives first, in one BCLK the one seen first. -/
def earlierPkt (test : Pkt → Bool) (o : Option Pkt) (q : Pkt) : Option Pkt :=
  if test q then (match o with | some x => if q.arr < x.arr then some q else o | none => some q) else o

theorem foldl_earlierPkt_of_none {test : Pkt → Bool} {l : List Pkt} (h : ∀ q ∈ l, test q = false) (o : Option Pkt) :
    l.foldl (earlierPkt test) o = o := by
  induction l with
  | nil => rfl
  | cons q l ih =>
    rw [List.foldl_cons, show earlierPkt test o q = o from if_neg (by rw [h q List.mem_cons_self]; exact Bool.false_ne_true)]
    exact ih fun x hx => h x (List.mem_cons_of_mem q hx)

/-- The packet that arrives first, where no other passes the test. -/
theorem firstPkt_of_only {test : Pkt → Bool} {a b : List Pkt} {p : Pkt} (hothers : ∀ q ∈ a ++ b, test q = false) (hp : test p = true) :
    (a ++ p :: b).foldl (earlierPkt test) none = some p := by
  rw [List.foldl_append, foldl_earlierPkt_of_none fun q hq => hothers q (List.mem_append_left b hq), List.foldl_cons,
    show earlierPkt test none p = some p from if_pos hp, foldl_earlierPkt_of_none fun q hq => hothers q (List.mem_append_right a hq)]

/-- A gateway whose request has bounced (R179, R385). -/
def Gw.bounced (w : Gw) (r : Req) (n : Nat) : Gw :=
  { w with gOut := w.gOut - 1,
           recent := w.recent.map (fun x => if x.req = r then { x with bounced := true } else x),
           aside := w.aside.map (fun x => if x.req.pa / 64 = r.pa / 64 then { x with bounced := true } else x),
           rcToken := if n = 1 then wrapAdd 16 w.rcToken 1 else w.rcToken,
           rcHorizon := if n = 2 then wrapAdd 8 w.rcHorizon 1 else w.rcHorizon,
           rcFull := if n = 3 then wrapAdd 8 w.rcFull 1 else w.rcFull }

/-- A bounce taken at its gateway, before what it asks for is raised. -/
def State.bounceTaken (s : State) (g : Nat) (p : Pkt) (r : Req) (n : Nat) : State :=
  (State.ev { s with pkts := eraseFirst (fun q => q == p) s.pkts }
    { box := boxGw g, code := 0x08, qual := .is 6 n, req := some r, itag := some r.itag }).updGw g fun w => w.bounced r n

theorem gw_bounceTaken (s : State) (g : Nat) (p : Pkt) (r : Req) (n : Nat) : (s.bounceTaken g p r n).gw g = (s.gw g).bounced r n := by
  unfold State.bounceTaken
  rw [State.gw_upd_self, gw_ev]
  rfl

theorem pkts_bounceTaken (s : State) (g : Nat) (p : Pkt) (r : Req) (n : Nat) :
    (s.bounceTaken g p r n).pkts = eraseFirst (fun q => q == p) s.pkts := by
  unfold State.bounceTaken
  rw [State.pkts_updGw, pkts_ev]

theorem bclk_bounceTaken (s : State) (g : Nat) (p : Pkt) (r : Req) (n : Nat) : (s.bounceTaken g p r n).bclk = s.bclk := by
  unfold State.bounceTaken
  rw [State.bclk_updGw, bclk_ev]

theorem genOf_bounceTaken (s : State) (g : Nat) (p : Pkt) (r : Req) (n i : Nat) : (s.bounceTaken g p r n).genOf i = s.genOf i := by
  unfold State.bounceTaken
  exact genOf_of_kept (ev_kept_self _ _) (by decide) i

/-- Whether a gateway and its admission are enabled is read from the bodies of their pages. -/
theorem gwEn_of_body {s t : State} (h : SameBody s t) (g : Nat) : t.gwEn g = s.gwEn g := by
  unfold State.gwEn
  rw [Page.of_body (f := Page.en) (fun _ => rfl) (h (.gw g)), Page.of_body (f := Page.en) (fun _ => rfl) (h (.gwAdm g))]

theorem linkUp_bounceTaken (s : State) (g : Nat) (p : Pkt) (r : Req) (n : Nat) : (s.bounceTaken g p r n).linkUp g = s.linkUp g := by
  have hen : (s.bounceTaken g p r n).gwEn g = s.gwEn g := gwEn_of_body ((State.ev_body { s with pkts := _ } _).trans (sameBody_updGw _ g _)) g
  unfold State.linkUp
  rw [gw_bounceTaken, hen]
  rfl

section
variable {s : State} {g : Nat} {a b : List Pkt} {p : Pkt} {r : Req} {n : Nat}

/-- A bounce that is alone on its way to the gateway arrives (R179, R192). -/
theorem bounceArrives_of_only (hpkts : s.pkts = a ++ p :: b) (hothers : ∀ q ∈ a ++ b, q.bounceFor g = none) (hp : p.bounceFor g = some (r, n))
    (hreach : s.canReach (p.arr + 1) = true) : s.bounceArrives g =
      let v := (s.goto (p.arr + 1)).bounceTaken g p r n
      if v.linkUp g ∧ !((v.gw g).tag r.tag).old ∧ v.genOf r.itag = r.gen then v.raiseC g r (p.arr + 1 + 1) else v.updGw g fun w => w.release r.tag := by
  have hfirst : s.pkts.foldl (earlierPkt fun q => (q.bounceFor g).isSome) none = some p := by
    rw [hpkts]
    exact firstPkt_of_only (fun q hq => by rw [hothers q hq]; rfl) (by rw [hp]; rfl)
  have heq : s.bounceArrives g = match s.pkts.foldl (earlierPkt fun q => (q.bounceFor g).isSome) none with
    | none => s
    | some p => match p.bounceFor g with
      | none => s
      | some (r, n) => if !s.canReach (p.arr + 1) then s else
        let v := (s.goto (p.arr + 1)).bounceTaken g p r n
        if v.linkUp g ∧ !((v.gw g).tag r.tag).old ∧ v.genOf r.itag = r.gen then v.raiseC g r (p.arr + 1 + 1)
        else v.updGw g fun w => w.release r.tag := rfl
  rw [heq, hfirst]
  dsimp only
  rw [hp]
  exact if_neg (by rw [hreach]; decide)

/-- R179, R192: the bounce is raised as a C request, or its tag is given back. -/
theorem bounceArrives_raised {u : State} (hu : u = s.goto (p.arr + 1)) (hpkts : s.pkts = a ++ p :: b)
    (hothers : ∀ q ∈ a ++ b, q.bounceFor g = none) (hp : p.bounceFor g = some (r, n)) (hreach : s.canReach (p.arr + 1) = true)
    (hup : u.linkUp g = true) (hold : ((u.gw g).tag r.tag).old = false) (hgen : u.genOf r.itag = r.gen) :
    s.bounceArrives g = (u.bounceTaken g p r n).raiseC g r (p.arr + 2) := by
  subst hu
  rw [bounceArrives_of_only hpkts hothers hp hreach]
  refine if_pos ⟨(linkUp_bounceTaken _ g p r n).trans hup, ?_, (genOf_bounceTaken _ g p r n _).trans hgen⟩
  rw [gw_bounceTaken, show (((s.goto (p.arr + 1)).gw g).bounced r n).tag r.tag = ((s.goto (p.arr + 1)).gw g).tag r.tag from rfl, hold]
  rfl

theorem bounceArrives_released {u : State} (hu : u = s.goto (p.arr + 1)) (hpkts : s.pkts = a ++ p :: b)
    (hothers : ∀ q ∈ a ++ b, q.bounceFor g = none) (hp : p.bounceFor g = some (r, n)) (hreach : s.canReach (p.arr + 1) = true)
    (h : u.linkUp g = false ∨ ((u.gw g).tag r.tag).old = true ∨ u.genOf r.itag ≠ r.gen) :
    s.bounceArrives g = (u.bounceTaken g p r n).updGw g fun w => w.release r.tag := by
  subst hu
  rw [bounceArrives_of_only hpkts hothers hp hreach]
  refine if_neg ?_
  rintro ⟨hup, hold, hgen⟩
  rw [linkUp_bounceTaken] at hup
  rw [gw_bounceTaken, show (((s.goto (p.arr + 1)).gw g).bounced r n).tag r.tag = ((s.goto (p.arr + 1)).gw g).tag r.tag from rfl] at hold
  rw [genOf_bounceTaken] at hgen
  rcases h with hdown | hwas | hne
  · exact Bool.false_ne_true (hdown.symm.trans hup)
  · rw [hwas] at hold
    exact Bool.false_ne_true hold
  · exact hne hgen

end

theorem bclk_raiseC (s : State) (g : Nat) (r : Req) (t : Nat) : (s.raiseC g r t).bclk = s.bclk :=
  (State.raiseC_kept (Within.self _) (Kept.refl _ s) g r t).part .bclk (by decide)

theorem bouncesTo_of_none {s : State} {g : Nat} (h : ∀ p ∈ s.pkts, p.bounceFor g = none) (t : Nat) : s.bouncesTo g t = s := by
  unfold State.bouncesTo
  rw [List.filter_eq_nil_iff.mpr fun p hp => by rw [h p hp]; exact Bool.false_ne_true]
  rfl

/-- A set-aside request leaves its place. -/
def State.asideTaken (s : State) (g : Nat) (x : Aside) : State :=
  s.updGw g fun w => { w with aside := eraseFirst (fun y => y == x) w.aside }

/-- A set-aside request whose line has bounced joins the C queue behind the bounced request (R462), with no line waiting at G4. -/
theorem asideRelease_of_bounced {u : State} {g : Nat} {a x : Aside} (hfirst : (u.gw g).firstAside = some a) (hreach : u.canReach a.until_ = true)
    (hnone : ∀ p ∈ u.pkts, p.bounceFor g = none) (hx : (((u.goto a.until_).gw g).firstAside).getD a = x)
    (hg4 : ((u.goto a.until_).gw g).g4q = []) (hb : x.bounced = true) : u.asideRelease g =
      (((u.goto a.until_).asideTaken g x).raiseC g x.req ((u.goto a.until_).bclk + 1)).updGw g fun w => { w with g4q := [] } := by
  have heq : u.asideRelease g = match (u.gw g).firstAside with
    | none => u
    | some a => if !u.canReach a.until_ then u else
      let v := (u.bouncesTo g a.until_).goto a.until_
      let x := ((v.gw g).firstAside).getD a
      let v := v.asideTaken g x
      let v := if x.bounced then v.raiseC g x.req (v.bclk + 1) else v.classLine g x.req v.bclk
      v.g4Retry g (v.gw g).g4q := rfl
  rw [heq, hfirst]
  dsimp only
  rw [if_neg (by rw [hreach]; decide), bouncesTo_of_none hnone, hx, if_pos hb, gw_raiseC]
  rw [show (((u.goto a.until_).asideTaken g x).gw g) = _ from State.gw_upd_self _ g _]
  dsimp only
  rw [hg4]
  rfl

/-- Settles O48: each end of a response's egress by its own lemma, the bounce by whether it is raised, the set-aside request by
`asideRelease_of_bounced`. -/
theorem egressSendsResponses : Obligations.EgressSendsResponses := by
  unfold Obligations.EgressSendsResponses
  intro s g
  refine ⟨?_, fun a p b r n hpkts hothers hp hreach => ?_, ?_⟩
  · intro u r b p hnext
    have hexec : exec (.responseEgress g) s = .next (u.responseEgress g) := exec_responseEgress s g
    refine ⟨fun hresend => by rw [hexec, responseEgress_of_resend hnext hresend], ?_⟩
    intro e v fresh need hreach hresend
    have heq : u.responseEgress g = v.egressEnds g r p e := responseEgress_of_next hnext hreach hresend
    have hbclk : v.bclk = max u.bclk (e + 2) := bclk_goto u _
    have hfresh : fresh → ¬ (p.isSome = true ∧ v.staleAt r e = true) := by
      rintro (rfl | hnot) ⟨hsome, hstale⟩
      · exact Bool.false_ne_true hsome
      · exact Bool.false_ne_true (hnot.symm.trans hstale)
    refine ⟨fun hf hup hcr hroom => ⟨_, hexec, ?_⟩, fun hf hup hcr => ⟨_, hexec, ?_⟩, fun hf hup hcr hfull => ⟨_, hexec, ?_⟩,
      fun hf hdown => ⟨_, hexec, ?_⟩, fun hsome hstale => ⟨_, hexec, ?_⟩⟩
    · beta_reduce
      rw [heq]
      unfold State.egressEnds
      rw [if_neg (hfresh hf), if_neg (by rw [hup]; decide), if_neg (by rw [hcr]; exact Bool.false_ne_true), if_neg (Nat.not_lt.mpr hroom)]
      exact ⟨(bclk_sendResp _ _ _).trans ((bclk_egressTaken v g r p).trans hbclk), gw_egressSent p hcr⟩
    · beta_reduce
      rw [heq]
      unfold State.egressEnds
      rw [if_neg (hfresh hf), if_neg (by rw [hup]; decide), if_pos hcr]
    · beta_reduce
      rw [heq]
      unfold State.egressEnds
      rw [if_neg (hfresh hf), if_neg (by rw [hup]; decide), if_neg (by rw [hcr]; exact Bool.false_ne_true), if_pos hfull]
    · beta_reduce
      rw [heq]
      unfold State.egressEnds
      rw [if_neg (hfresh hf), if_pos (by rw [hdown]; rfl)]
      exact ⟨(bclk_egressDropped v g r p).trans hbclk, gw_egressDropped_gives v g r p⟩
    · beta_reduce
      rw [heq]
      unfold State.egressEnds
      rw [if_pos ⟨hsome, hstale⟩]
      refine ⟨?_, gw_egressStale v g r p _⟩
      rw [State.bclk_updGw, bclk_ev, bclk_egressTaken]
      exact hbclk
  · intro u
    refine ⟨fun h => ⟨_, exec_retryCBounce s g, ?_⟩, fun hup hold hgen => ⟨_, exec_retryCBounce s g, ?_⟩⟩
    · beta_reduce
      rw [bounceArrives_released rfl hpkts hothers hp hreach h, State.bclk_updGw, bclk_bounceTaken, State.gw_upd_self, gw_bounceTaken]
      exact ⟨bclk_goto s _, rfl, rfl⟩
    · beta_reduce
      rw [bounceArrives_raised rfl hpkts hothers hp hreach hup hold hgen, bclk_raiseC, bclk_bounceTaken, pkts_raiseC, pkts_bounceTaken, gw_raiseC,
        gw_bounceTaken]
      exact ⟨bclk_goto s _, rfl, rfl, rfl, rfl⟩
  · intro u a hfirst hreach hnone v x hg4 hb
    refine ⟨_, exec_setAsideRelease s g, ?_⟩
    beta_reduce
    rw [asideRelease_of_bounced hfirst hreach hnone rfl hg4 hb, State.bclk_updGw, bclk_raiseC, State.gw_upd_self, gw_raiseC,
      show ((u.goto a.until_).asideTaken g x).gw g = _ from State.gw_upd_self _ g _]
    exact ⟨bclk_goto u _, rfl, rfl⟩

end Sys2Proof.Machine
end

section
/-! The Crown port's injections and test port, and the samplers (R890, R902, R919). -/
namespace Sys2Proof.Machine

theorem exec_injDone (s : State) : exec .injDone s = .next s.injDone := rfl
theorem exec_sampleWindowEnd (s : State) (b : Fin 72) : exec (.sampleWindowEnd b) s = .next (s.sampleEnd b) := rfl

/-- The first `n` words of an injected read's data go to the Crown page (R890). -/
def State.injWords (s : State) (r : Resp) (n : Nat) : State :=
  (List.range n).foldl (fun s i => s.setReg .crn (0x100 + 4 * i) (BitVec.ofNat 32 (lineNat r.data (4 * i) 4))) s

theorem injWords_succ (s : State) (r : Resp) (n : Nat) :
    s.injWords r (n + 1) = (s.injWords r n).setReg .crn (0x100 + 4 * n) (BitVec.ofNat 32 (lineNat r.data (4 * n) 4)) := by
  unfold State.injWords
  rw [List.range_succ, List.foldl_append]
  rfl

theorem injWords_kept (s : State) (r : Resp) (n : Nat) : Kept 0x20 s (s.injWords r n) :=
  Kept.foldl (fun _ _ hu => State.setReg_kept (Within.self _) hu _ _ _) (Kept.refl _ s) _

theorem reg_injWords (s : State) (r : Resp) {n i : Nat} (h : i < n) :
    (s.injWords r n).reg .crn (0x100 + 4 * i) = BitVec.ofNat 32 (lineNat r.data (4 * i) 4) := by
  induction n with
  | zero => exact absurd h (Nat.not_lt_zero i)
  | succ n ih =>
    rw [injWords_succ, reg_setReg]
    rcases Nat.lt_succ_iff_lt_or_eq.mp h with hlt | rfl
    · rw [if_neg (by omega), ih hlt]
    · rw [if_pos rfl]

/-- The state in which an injection's answer has come and its data, if any, have been stored. -/
def State.injAnswered (s : State) (p : Pkt) (r : Resp) : State :=
  if r.rkind = 1 then State.injWords { s with pkts := eraseFirst (fun q => q == p) s.pkts } r 16
  else { s with pkts := eraseFirst (fun q => q == p) s.pkts }

theorem injAnswered_kept (s : State) (p : Pkt) (r : Resp) : Kept 0x20 { s with pkts := eraseFirst (fun q => q == p) s.pkts } (s.injAnswered p r) := by
  unfold State.injAnswered
  split
  · exact injWords_kept _ r 16
  · exact Kept.refl _ _

theorem injDone_of_resp {s : State} {p : Pkt} {r : Resp} (h : s.injResp = some (p, r)) (hreach : s.canReach p.arr = true) :
    s.injDone = ((s.goto p.arr).injAnswered p r).injEnd r.status r.late r.corr := by
  unfold State.injDone
  rw [h]
  exact if_neg (by rw [hreach]; decide)

/-- The Crown port's registers once an injection has ended. -/
def Crn.injected (x : Crn) (status : Nat) (late corr : Bool) : Crn :=
  { x with busy := false, done := true, late := late, corr := corr, status := status }

/-- What the end of an injection leaves of the state, but for its event and its interrupt. -/
def State.injOver (s : State) (status : Nat) (late corr : Bool) : State := { s with crn := s.crn.injected status late corr }

theorem injEnd_eq (s : State) (status : Nat) (late corr : Bool) :
    s.injEnd status late corr = ((s.injOver status late corr).raise .crn 0).ev { box := boxBlk, code := 0x0B } := rfl

theorem injEnd_kept (s : State) (status : Nat) (late corr : Bool) : Kept 0x20020 (s.injOver status late corr) (s.injEnd status late corr) := by
  rw [injEnd_eq]
  exact State.ev_kept (Within.self _) (State.raise_kept (Within.of (Within.self _) (by decide)) (Kept.refl _ _) _ _) _

theorem reg_injOver (s : State) (status : Nat) (late corr : Bool) (o : Nat) : (s.injOver status late corr).reg .crn o = s.reg .crn o := rfl

theorem reg_injEnd (s : State) (status : Nat) (late corr : Bool) (o : Nat) : (s.injEnd status late corr).reg .crn o = s.reg .crn o := by
  rw [injEnd_eq]
  exact (reg_of_body (((State.raise_body _ .crn 0).trans (State.ev_body _ _)) .crn) o).trans (reg_injOver s status late corr o)

theorem isr_injEnd (s : State) (status : Nat) (late corr : Bool) : flag ((s.injEnd status late corr).page .crn).isr 0 = true := by
  rw [injEnd_eq]
  exact IsrGrows.ev _ _ _ _ (flag_raise _ .crn (by decide))

theorem cnt_upd_self (s : State) (b : Nat) (f : Cnt → Cnt) : (s.updCnt b f).cnt b = f (s.cnt b) := Tbl.get_upd_self _ _ _ f

theorem armed_writeSample (s : State) (b : Nat) (ws : List (Nat × Word)) : ((s.writeSample b ws).cnt b).armed = none := by
  have h : (s.writeSample b ws).cnt b = (s.updCnt b fun c =>
    { c with armed := none, sample := ws.foldl (fun t w => Tbl.set (fun _ => 0) t w.1 w.2) c.sample }).cnt b := rfl
  rw [h, cnt_upd_self]

theorem bclk_writeSample (s : State) (b : Nat) (ws : List (Nat × Word)) : (s.writeSample b ws).bclk = s.bclk := rfl

/-- A window that has passed ends with a record of what the sampler holds then, or with none where an event has taken it (R919). -/
theorem sampleEnd_of_armed {s : State} {b : Nat} {a : Armed} {e : Nat} (he : e = max s.bclk (a.at_ + 16 * s.k + 1)) (h : (s.cnt b).armed = some a)
    (hreach : s.canReach e = true) : s.sampleEnd b = match ((s.goto e).cnt b).armed with
      | some a => (s.goto e).writeSample b ((s.goto e).sampleWords b a none)
      | none => s.goto e := by
  subst he
  unfold State.sampleEnd
  rw [h]
  exact if_neg (by rw [hreach]; decide)

/-- Settles O53. -/
theorem crownPortAndSamplers : Obligations.CrownPortAndSamplers := by
  unfold Obligations.CrownPortAndSamplers
  refine fun s => ⟨fun on => rfl, fun up => rfl, fun p r hresp hreach => ⟨_, exec_injDone s, ?_⟩, fun b a harmed => ?_⟩
  · beta_reduce
    rw [injDone_of_resp hresp hreach]
    have hans := injAnswered_kept (s.goto p.arr) p r
    have hend := injEnd_kept ((s.goto p.arr).injAnswered p r) r.status r.late r.corr
    have hcrn : (s.goto p.arr).crn = s.crn := (State.goto_kept (Within.self _) (Kept.refl _ s) _).part .crn (by decide)
    refine ⟨?_, ?_, ?_, isr_injEnd _ _ _ _, fun hrd i hi => ?_⟩
    · rw [hend.part .bclk (by decide)]
      exact (hans.part .bclk (by decide)).trans (bclk_goto s _)
    · rw [hend.part .crn (by decide)]
      exact congrArg (Crn.injected · r.status r.late r.corr) ((hans.part .crn (by decide)).trans hcrn)
    · rw [hend.part .pkts (by decide)]
      exact hans.part .pkts (by decide)
    · rw [reg_injEnd, show (s.goto p.arr).injAnswered p r = State.injWords _ r 16 from if_pos hrd]
      exact reg_injWords _ r hi
  · intro e hreach
    refine ⟨_, exec_sampleWindowEnd s b, ?_⟩
    beta_reduce
    rw [sampleEnd_of_armed rfl harmed hreach]
    have hbclk : (s.goto e).bclk = e := (bclk_goto s e).trans (Nat.max_eq_right (Nat.le_max_left _ _))
    cases hlater : ((s.goto e).cnt b).armed with
    | none => exact ⟨hbclk, hlater⟩
    | some a' => exact ⟨(bclk_writeSample _ _ _).trans hbclk, armed_writeSample _ _ _⟩

end Sys2Proof.Machine
end

section
/-! What the time that passes leaves alone (R175, R186, R196, R657, R908): `goto` moves the gateways on, and beside them it changes only
pending interrupts, the counters, the logs' staging queues, the interrupt messages on their way and the end of a train in transfer. -/
namespace Sys2Proof.Machine

/-- A channel but for its log's staging queue and the end of the train in transfer. -/
def Chan.still (ch : Chan) : Chan := { ch with elog := {}, arb := { ch.arb with free := 0, idle := 0 } }

/-- An instance but for its view of the error logs. -/
def Ins.unlogged (x : Ins) : Ins := { x with elogCnt := 0, lastCh := 0, lastIdx := 0, lastValid := false }

/-- The block's own registers but for its messages and the denied accesses noted. -/
def Blk.still (x : Blk) : Blk := { x with msgs := [], delivered := [], badAcc := 0, badAccCnt := 0, badWas := none }

/-- What the time that passes leaves alone. -/
structure Passing (s t : State) : Prop where
  body : SameBody s t
  isr : IsrGrows s t
  chan : ∀ c, (t.chan c).still = (s.chan c).still
  ins : ∀ i, (t.insOf i).unlogged = (s.insOf i).unlogged
  blk : t.blk.still = s.blk.still

namespace Passing
variable {r s t : State}

theorem refl (s : State) : Passing s s := ⟨SameBody.refl s, IsrGrows.refl s, fun _ => rfl, fun _ => rfl, rfl⟩

theorem trans {u : State} (h : Passing s t) (k : Passing t u) : Passing s u :=
  ⟨h.body.trans k.body, h.isr.trans k.isr, fun c => (k.chan c).trans (h.chan c), fun i => (k.ins i).trans (h.ins i), k.blk.trans h.blk⟩

theorem of_parts (hpages : t.pages = s.pages) (hchans : t.chans = s.chans) (hins : t.ins = s.ins) (hblk : t.blk.still = s.blk.still) : Passing s t :=
  ⟨SameBody.of_pages hpages, IsrGrows.of_pages hpages, fun c => congrArg Chan.still (chan_of_chans hchans c),
    fun i => congrArg Ins.unlogged (insOf_of_ins hins i), hblk⟩

theorem raise (s : State) (p : PageId) (b : Nat) : Passing s (s.raise p b) :=
  ⟨State.raise_body s p b, IsrGrows.raise s p b, fun _ => rfl, fun _ => rfl, rfl⟩

theorem closed (b : Nat) : EvClosed b Passing where
  refl := refl
  trans := trans
  updCnt _ _ _ := of_parts rfl rfl rfl rfl
  raise s n := raise s _ n

theorem ev (s : State) (e : Ev) : Passing s (s.ev e) := (closed e.box).ev s

theorem foldl {α : Type} {f : State → α → State} (hf : ∀ s a, Passing s (f s a)) (l : List α) (s : State) : Passing s (l.foldl f s) :=
  (closed 0).foldl hf l s

theorem updGw (s : State) (g : Nat) (f : Gw → Gw) : Passing s (s.updGw g f) := of_parts rfl rfl rfl rfl

theorem raiseIf (s : State) (b : Bool) (p : PageId) (n : Nat) : Passing s (s.raiseIf b p n) := by
  unfold State.raiseIf
  split
  · exact raise s p n
  · exact refl s

theorem updIns (s : State) (i : Nat) {f : Ins → Ins} (hf : ∀ x, (f x).unlogged = x.unlogged) : Passing s (s.updIns i f) := by
  refine ⟨SameBody.of_pages rfl, IsrGrows.of_pages rfl, fun _ => rfl, fun j => ?_, rfl⟩
  rw [State.insOf_upd]
  split
  · next h => rw [hf, h]
  · rfl

theorem updChan (s : State) (c : Nat) {f : Chan → Chan} (hf : ∀ ch, (f ch).still = ch.still) : Passing s (s.updChan c f) := by
  refine ⟨SameBody.of_pages rfl, IsrGrows.of_pages rfl, fun d => ?_, fun _ => rfl, rfl⟩
  rw [State.chan_updChan]
  split
  · next h => rw [hf, h]
  · rfl

/-! ### Packets -/

theorem putPkt (s : State) (body : Body) (src dst t : Nat) (train : Option Nat) : Passing s (s.putPkt body src dst t train) := by
  unfold State.putPkt
  dsimp only
  refine (foldl (fun u c => ?_) _ s).trans (of_parts rfl rfl rfl rfl)
  exact updChan u c fun _ => rfl

theorem routeEvents (s : State) (body : Body) (l : List (Nat × Nat × Bool)) : Passing s (s.routeEvents body l) := by
  unfold State.routeEvents
  refine foldl (fun u x => ?_) l s
  dsimp only
  split
  · split
    · exact ((ev u _).trans (ev _ _)).trans (ev _ _)
    · exact (ev u _).trans (ev _ _)
  · exact ev u _

theorem inject (s : State) (body : Body) (src dst t : Nat) (train : Option Nat) : Passing s (s.inject body src dst t train) := by
  unfold State.inject
  split
  · exact putPkt s body src dst t train
  · exact (routeEvents s _ _).trans (putPkt _ body src dst t train)

/-! ### What a gateway does by itself -/

theorem protoErr (s : State) (g : Nat) : Passing s (s.protoErr g) := (updGw s g _).trans (raise _ _ _)

theorem ownResp (s : State) (g : Nat) (r : Resp) (t : Nat) : Passing s (s.ownResp g r t) := (ev s _).trans (updGw _ g _)

theorem refuse (s : State) (g : Nat) (r : Req) (status t : Nat) : Passing s (s.refuse g r status t) := ownResp s g _ t

theorem raiseC (s : State) (g : Nat) (r : Req) (t : Nat) : Passing s (s.raiseC g r t) := (ev s _).trans (updGw _ g _)

theorem classLine (s : State) (g : Nat) (r : Req) (t : Nat) : Passing s (s.classLine g r t) := by
  unfold State.classLine
  dsimp only
  split
  · exact ((ev s _).trans (inject _ _ _ _ _ _)).trans (updGw _ g _)
  · exact raiseC s g r _

/-- An outcome that may be none keeps what every one of its states keeps. -/
theorem getD {o : Option State} (h : ∀ t, o = some t → Passing s t) {u : State} (hu : Passing s u) : Passing s (o.getD u) := by
  cases o with
  | none => exact hu
  | some t => exact h t rfl

theorem asideOrClass {g : Nat} {r : Req} {b : Nat} (h : s.asideOrClass g r b = some t) : Passing s t := by
  unfold State.asideOrClass at h
  dsimp only at h
  split at h
  · split at h
    · exact absurd h nofun
    · exact Option.some.inj h ▸ (ev s _).trans (updGw _ g _)
  · exact Option.some.inj h ▸ classLine s g r b

theorem holdLine {g : Nat} {x : HoldEnt} {r : Req} (h : s.holdLine g x r = some t) : Passing s t := by
  unfold State.holdLine at h
  dsimp only at h
  split at h
  · exact absurd h nofun
  · exact Option.some.inj h ▸ ((ev s _).trans (updGw _ g _)).trans (raiseIf _ _ _ _)

theorem g4 {g : Nat} {r : Req} {b : Nat} (h : s.g4 g r b = some t) : Passing s t := by
  unfold State.g4 at h
  dsimp only at h
  split at h
  · exact holdLine h
  split at h
  · exact asideOrClass h
  split at h
  · exact holdLine h
  · exact (updGw s g _).trans (asideOrClass h)

theorem g4Retry (s : State) (g : Nat) (l : List Req) : Passing s (s.g4Retry g l) := by
  induction l generalizing s with
  | nil => exact updGw s g _
  | cons r l ih =>
    unfold State.g4Retry
    split
    · next hg4 => exact (g4 hg4).trans (ih _)
    · exact updGw s g _

theorem g0 (s : State) (g : Nat) : Passing s (s.g0 g) := by
  unfold State.g0
  dsimp only
  split
  · exact refl s
  have htaken : ∀ (f : Gw → Gw) (e : Ev), Passing s ((s.updGw g f).ev e) := fun f e => (updGw s g f).trans (ev _ e)
  split
  · exact (htaken _ _).trans (protoErr _ g)
  have htag : ∀ (u : State) (c : Prop) [Decidable c] (f : Gw → Gw), Passing u (if c then u else u.updGw g f) := by
    intro u c _ f
    split
    · exact refl u
    · exact updGw u g f
  split
  · exact (((htaken _ _).trans (htag _ _ _)).trans (updGw _ g _)).trans (ownResp _ g _ _)
  · exact ((htaken _ _).trans (htag _ _ _)).trans (updGw _ g _)

theorem badAccess (s : State) (src : Src) (addr : Nat) (wr acc : Bool) : Passing s (s.badAccess src addr wr acc) := by
  unfold State.badAccess
  split
  · refine Passing.trans ?_ (ev _ _)
    refine Passing.trans ?_ (raise _ _ _)
    exact of_parts rfl rfl rfl rfl
  · exact refl s

theorem svcG1 (s : State) (g : Nat) (h : ReqHdr) (r : Req) (b : Nat) : Passing s (s.svcG1 g h r b) := by
  unfold State.svcG1
  split
  · exact (refuse s g r _ _).trans (raise _ _ _)
  split
  · exact ((badAccess s _ _ _ _).trans (refuse _ g r _ _)).trans (raise _ _ _)
  · exact inject s _ _ _ _ _

theorem pipeOut (s : State) (g i : Nat) : Passing s (s.pipeOut g i) := updGw s g _

theorem pipeSet (s : State) (g i : Nat) (l : PLine) : Passing s (s.pipeSet g i l) := updGw s g _

theorem g1 (s : State) (g i : Nat) (l : PLine) : Passing s (s.g1 g i l) := by
  unfold State.g1
  dsimp only
  split
  · exact ((pipeOut s g i).trans (refuse _ g _ _ _)).trans (raise _ _ _)
  split
  · exact ((updGw s g _).trans (pipeOut _ g i)).trans (svcG1 _ g _ _ _)
  split
  · exact (updGw s g _).trans (pipeSet _ g i _)
  · exact (((updGw s g _).trans (pipeOut _ g i)).trans (refuse _ g _ _ _)).trans (raise _ _ _)

theorem g2 (s : State) (g i : Nat) (l : PLine) : Passing s (s.g2 g i l) := by
  have hfree : ∀ f, Passing s (s.updGw g f) := fun f => updGw s g f
  unfold State.g2
  dsimp only
  split
  · exact (((hfree _).trans (pipeOut _ g i)).trans (refuse _ g _ _ _)).trans (raise _ _ _)
  · exact ((hfree _).trans (pipeOut _ g i)).trans (refuse _ g _ _ _)
  · exact (hfree _).trans (pipeSet _ g i _)

theorem g4Out (s : State) (g i : Nat) (l : PLine) : Passing s (s.g4Out g i l) := by
  unfold State.g4Out
  dsimp only
  refine ((pipeOut s g i).trans (updGw _ g _)).trans (getD (fun t h => g4 h) (updGw _ g _))

theorem flushItems (s : State) (g : Nat) : Passing s (s.flushItems g false) := by
  unfold State.flushItems
  dsimp only
  refine (updGw s g _).trans ((foldl (fun u x => ?_) _ _).trans (raise _ _ _))
  exact (ev u _).trans (ownResp _ g _ _)

theorem flushNow (s : State) (g : Nat) : Passing s (s.flushNow g) := (flushItems s g).trans (updGw _ g _)

/-! ### Messages and the link -/

theorem msgsDue (s : State) : Passing s s.msgsDue := of_parts rfl rfl rfl rfl

theorem sendMsg (s : State) (m : IntMsg) (f : Nat) : Passing s (s.sendMsg m f) := by
  unfold State.sendMsg
  split
  · exact of_parts rfl rfl rfl rfl
  · refine Passing.trans ?_ (routeEvents _ _ _)
    refine Passing.trans ?_ (ev _ _)
    exact of_parts rfl rfl rfl rfl

theorem resendMsgs (s : State) : Passing s s.resendMsgs := by
  unfold State.resendMsgs
  dsimp only
  refine Passing.trans ?_ (foldl (fun u m => sendMsg u m _) _ _)
  exact of_parts rfl rfl rfl rfl

theorem setLink (s : State) (g : Nat) (l : GwLink) : Passing s (s.setLink g l) := (msgsDue s).trans (updGw _ g _)

theorem linkStep (s : State) (g : Nat) : Passing s (s.linkStep g) := by
  unfold State.linkStep
  split
  · exact updGw s g _
  · exact ((setLink s g .up).trans (raise _ _ _)).trans (resendMsgs _)

theorem gwDo (s : State) (g : Nat) (w : GwWork) : Passing s (s.gwDo g w) := by
  cases w with
  | link => exact linkStep s g
  | line i =>
    unfold State.gwDo
    dsimp only
    split
    · unfold State.stageOf
      split
      · exact g1 s g i _
      split
      · exact g2 s g i _
      · exact g4Out s g i _
    · exact refl s
  | g0 => exact g0 s g
  | flush => exact flushNow s g
  | again => exact updGw s g _
  | nak => exact updGw s g _

/-! ### The counters and the logs -/

theorem accrue (s : State) (n : Nat) : Passing s (s.accrue n) := by
  unfold State.accrue
  refine foldl (fun u e => ?_) _ s
  split
  · split
    · refine foldl (fun v i => ?_) _ u
      dsimp only
      split
      · exact (closed _).bump v _ _ _
      · exact refl v
    · exact refl u
  · exact refl u

theorem insElog (s : State) (c idx : Nat) (e : LogEnt) : Passing s (s.insElog c idx e) := by
  unfold State.insElog
  dsimp only
  split
  · exact refl s
  · refine Passing.trans ?_ (raise _ _ _)
    exact updIns s _ (f := fun x => { x with elogCnt := wrapAdd 16 x.elogCnt 1, lastCh := c, lastIdx := idx, lastValid := true }) fun _ => rfl

theorem logDrain (s : State) (c n : Nat) : Passing s (s.logDrain c n) := by
  induction n generalizing s with
  | zero => exact refl s
  | succ n ih =>
    unfold State.logDrain
    dsimp only
    split
    · exact refl s
    · refine Passing.trans ?_ (ih _)
      refine Passing.trans ?_ (insElog _ c _ _)
      refine Passing.trans ?_ (raiseIf _ _ _ _)
      exact updChan s c fun _ => rfl

theorem logsDrain (s : State) (n : Nat) : Passing s (s.logsDrain n) := by
  unfold State.logsDrain
  refine foldl (fun u e => ?_) _ s
  split
  · exact refl u
  · exact logDrain u _ _

theorem advance (s : State) (b : Nat) : Passing s (s.advance b) := by
  unfold State.advance
  split
  · exact refl s
  · exact ((accrue s _).trans (logsDrain _ _)).trans (of_parts rfl rfl rfl rfl)

theorem gwRun (b n : Nat) (s : State) : Passing s (State.gwRun b n s) := by
  induction n generalizing s with
  | zero => exact refl s
  | succ n ih =>
    unfold State.gwRun
    split
    · split
      · exact refl s
      · exact ((advance s _).trans (gwDo _ _ _)).trans (ih _)
    · exact refl s

theorem goto (s : State) (b : Nat) : Passing s (s.goto b) := by
  unfold State.goto
  split
  · exact refl s
  · exact (gwRun b _ s).trans (advance _ b)

theorem gwAheadOf (cand : State → Option Nat) (n : Nat) (s : State) : Passing s (State.gwAheadOf cand n s) := by
  induction n generalizing s with
  | zero => exact refl s
  | succ n ih =>
    have hstep : ∀ (c : Prop) [Decidable c] (b : Nat), Passing s (if c then s else State.gwAheadOf cand n (s.goto b)) := by
      intro c _ b
      split
      · exact refl s
      · exact (goto s b).trans (ih _)
    unfold State.gwAheadOf
    split
    · exact refl s
    · exact hstep _ _

theorem gwAhead (s : State) (cand : State → Option Nat) : Passing s (s.gwAhead cand) := gwAheadOf cand _ s

/-! ### What that says of a part -/

theorem reg (h : Passing s t) (p : PageId) (o : Nat) : t.reg p o = s.reg p o := reg_of_body (h.body p) o

/-- What does not read a channel's log or train has not changed. -/
theorem chanField {α : Type} (f : Chan → α) (hf : ∀ ch, f ch.still = f ch) (h : Passing s t) (c : Nat) : f (t.chan c) = f (s.chan c) := by
  rw [← hf (t.chan c), h.chan c, hf]

theorem insField {α : Type} (f : Ins → α) (hf : ∀ x, f x.unlogged = f x) (h : Passing s t) (i : Nat) : f (t.insOf i) = f (s.insOf i) := by
  rw [← hf (t.insOf i), h.ins i, hf]

theorem blkField {α : Type} (f : Blk → α) (hf : ∀ x, f x.still = f x) (h : Passing s t) : f t.blk = f s.blk := by
  rw [← hf t.blk, h.blk, hf]

end Passing

theorem goto_kept_self (s : State) (b : Nat) : Kept 0x121562 s (s.goto b) := State.goto_kept (Within.self _) (Kept.refl _ s) b

theorem gwAhead_kept_self (s : State) (cand : State → Option Nat) : Kept 0x121562 s (s.gwAhead cand) :=
  State.gwAhead_kept (Within.self _) (Kept.refl _ s) cand

end Sys2Proof.Machine
end

section
/-! The scrubber and Burl's holds (R648, R649, R687, R689). -/
namespace Sys2Proof.Machine

theorem exec_scrubCredit (s : State) (c : Fin 17) : exec (.scrubCredit c) s = .next (s.scrubCredit c) := rfl
theorem exec_holdReceive (s : State) (u : Fin 18) : exec (.holdReceive u) s = .next (s.holdReceive u) := rfl
theorem exec_heldRequestRelease (s : State) (u : Fin 18) : exec (.heldRequestRelease u) s =
    .next (if u.val < 16 then (s.gwAhead fun s => s.heldDue u).heldRelease u else s.leHeldRelease (u - 16)) := rfl

/-- A scrubber that has earned a credit (R648). -/
def Scrub.credited (x : Scrub) : Scrub := { x with credits := min 16 (x.credits + 1), last := x.last + x.interval, awake := x.awake + x.interval }

/-- The patrol request of a line (R648, R649). -/
def scrubReq (l : Loc) (b : Nat) : Req := { src := 18, loc := l, created := b, hdrAt := b, use := 1 }

/-- A scrubber that has raised its next read. -/
def Scrub.raised (x : Scrub) (l : Loc) (b : Nat) : Scrub :=
  { x with credits := x.credits - 1, fly := some l, wrote := false, pos := x.pos + 1, q := x.q ++ [{ req := scrubReq l b, raised := b }] }

section
variable {s : State} {c : Nat}

theorem scrubCredit_of_due {b : Nat} (hc : c < 17) (hheld : s.scrubHeld c = false) (hint : (s.chan c).scrub.interval ≠ 0)
    (hb : b = max s.bclk ((s.chan c).scrub.last + (s.chan c).scrub.interval)) (hreach : s.canReach b = true) :
    s.scrubCredit c = ((s.goto b).updScrub c Scrub.credited).scrubRaise c := by
  subst hb
  refine if_neg ?_
  rintro (h | h | h | h)
  · exact absurd hc (Nat.not_lt.mpr h)
  · exact Bool.false_ne_true (hheld.symm.trans h)
  · exact hint h
  · rw [hreach] at h
    exact Bool.false_ne_true h

theorem scrub_updScrub (s : State) (c : Nat) (f : Scrub → Scrub) : ((s.updScrub c f).chan c).scrub = f (s.chan c).scrub :=
  congrArg Chan.scrub (State.chan_upd_self _ c _)

theorem scrubHeld_updScrub (s : State) (c : Nat) (f : Scrub → Scrub) : (s.updScrub c f).scrubHeld c = s.scrubHeld c := by
  have h : (s.updScrub c f).chan c = { s.chan c with scrub := f (s.chan c).scrub } := State.chan_upd_self _ c _
  unfold State.scrubHeld
  rw [h]
  rfl

theorem scrubRaise_of_fly (h : (s.chan c).scrub.fly ≠ none) : s.scrubRaise c = s := if_pos (.inr (.inl (Option.isSome_iff_ne_none.mpr h)))

theorem scrubRaise_of_free (hcredit : (s.chan c).scrub.credits ≠ 0) (hfly : (s.chan c).scrub.fly = none) (hheld : s.scrubHeld c = false)
    (hpos : (s.chan c).scrub.pos < s.chanLines) :
    s.scrubRaise c = s.updScrub c fun x => x.raised (s.lineLoc c (s.chan c).scrub.pos) s.bclk := by
  refine if_neg ?_
  rintro (h | h | h | h)
  · exact hcredit h
  · rw [hfly] at h
    exact Bool.false_ne_true h
  · exact Bool.false_ne_true (hheld.symm.trans h)
  · exact absurd hpos (Nat.not_lt.mpr h)

end

/-- What the scrubber reads of its channel and of the map does not change with the time. -/
theorem Passing.scrubHeld {s t : State} (h : Passing s t) (c : Nat) : t.scrubHeld c = s.scrubHeld c := by
  unfold State.scrubHeld State.scrubCfg
  rw [h.reg]
  exact h.chanField (fun ch => ch.sr != .awake || ch.calRun || !ch.inService || fld (s.reg (.cc c) 0x068) 0 8 == 0) (fun _ => rfl) c

theorem Passing.mapAct {s t : State} (h : Passing s t) : t.mapAct = s.mapAct := funext fun o => h.reg .map o

theorem Passing.lineLoc {s t : State} (h : Passing s t) (c n : Nat) : t.lineLoc c n = s.lineLoc c n := by
  unfold State.lineLoc
  rw [h.mapAct]

theorem Passing.chanLines {s t : State} (h : Passing s t) : t.chanLines = s.chanLines := by
  unfold State.chanLines
  rw [h.mapAct]

theorem Passing.scrub {s t : State} (h : Passing s t) (c : Nat) : (t.chan c).scrub = (s.chan c).scrub := h.chanField Chan.scrub (fun _ => rfl) c

/-! ### A hold arrives (R687) -/

/-- The entries of a unit: a gateway's, or from 16 on an engine's. -/
def State.holdsOf (s : State) (u : Nat) : List HoldEnt := if u < 16 then (s.gw u).holds else (s.le (u - 16)).holds

theorem takeHold_of_new {hs : List HoldEnt} {h : HoldEnt} (hnew : ∀ x ∈ hs, x.same h = false) (hroom : hs.length < 32) :
    takeHold hs h = (hs ++ [h], 1) := by
  unfold takeHold
  rw [if_neg, if_neg (Nat.not_le.mpr hroom)]
  rw [List.any_eq_true]
  rintro ⟨x, hx, hsame⟩
  exact Bool.false_ne_true ((hnew x hx).symm.trans hsame)

/-- A hold packet leaves the network. -/
def State.holdTaken (s : State) (p : Pkt) : State := { s with pkts := eraseFirst (fun q => q == p) s.pkts }

/-- A hold is entered at a gateway, or at an engine. -/
def State.holdPut (s : State) (u : Nat) (h : HoldEnt) : State :=
  if u < 16 then
    let r := takeHold (s.gw u).holds h
    let s := s.updGw u fun w => { w with holds := r.1, ovf := if r.2 = 2 then satAdd 255 w.ovf 1 else w.ovf }
    (s.raiseIf (r.2 == 1) (.gwAdm u) 2).raiseIf (r.2 == 2) (.gwAdm u) 3
  else
    let r := takeHold (s.le (u - 16)).holds h
    s.updLe (u - 16) fun w => { w with holds := r.1, ovf := if r.2 = 2 then satAdd 255 w.ovf 1 else w.ovf }

section
variable {s : State} {u : Nat} {a b : List Pkt} {p : Pkt} {h : HoldEnt}

theorem holdReceive_of_only (hu : u < 18) (hpkts : s.pkts = a ++ p :: b) (hothers : ∀ q ∈ a ++ b, q.holdFor u = none)
    (hp : p.holdFor u = some h) (hreach : s.canReach (max s.bclk (p.arr + 1)) = true) :
    s.holdReceive u = ((s.goto (max s.bclk (p.arr + 1))).holdTaken p).holdPut u h := by
  have hfirst : s.pkts.foldl (earlierPkt fun q => (q.holdFor u).isSome) none = some p := by
    rw [hpkts]
    exact firstPkt_of_only (fun q hq => by rw [hothers q hq]; rfl) (by rw [hp]; rfl)
  have heq : s.holdReceive u = match s.pkts.foldl (earlierPkt fun q => (q.holdFor u).isSome) none with
    | none => s
    | some p => match p.holdFor u with
      | none => s
      | some h => if 18 ≤ u ∨ !s.canReach (max s.bclk (p.arr + 1)) then s
        else ((s.goto (max s.bclk (p.arr + 1))).holdTaken p).holdPut u h := rfl
  rw [heq, hfirst]
  dsimp only
  rw [hp]
  refine if_neg ?_
  rintro (hge | hno)
  · exact absurd hu (Nat.not_lt.mpr hge)
  · rw [hreach] at hno
    exact Bool.false_ne_true hno

theorem holdPut_gives (hnew : ∀ x ∈ s.holdsOf u, x.same h = false) (hroom : (s.holdsOf u).length < 32) :
    let t := s.holdPut u h
    t.bclk = s.bclk ∧ t.pkts = s.pkts ∧ t.holdsOf u = s.holdsOf u ++ [h] ∧ (u < 16 → flag (t.page (.gwAdm u)).isr 2 = true) := by
  intro t
  by_cases hu : u < 16
  · have hold : s.holdsOf u = (s.gw u).holds := if_pos hu
    rw [hold] at hnew hroom ⊢
    have ht : t = ((s.updGw u fun w => { w with holds := (s.gw u).holds ++ [h], ovf := w.ovf }).raise (.gwAdm u) 2) := by
      refine (if_pos hu).trans ?_
      rw [takeHold_of_new hnew hroom]
      rfl
    rw [ht]
    refine ⟨rfl, rfl, (if_pos hu).trans ?_, fun _ => flag_raise _ _ (by decide)⟩
    rw [gw_raise, State.gw_upd_self]
  · have hold : s.holdsOf u = (s.le (u - 16)).holds := if_neg hu
    rw [hold] at hnew hroom ⊢
    have ht : t = s.updLe (u - 16) fun w => { w with holds := (s.le (u - 16)).holds ++ [h], ovf := w.ovf } := by
      refine (if_neg hu).trans ?_
      rw [takeHold_of_new hnew hroom]
      rfl
    rw [ht]
    refine ⟨rfl, rfl, (if_neg hu).trans ?_, fun hlt => absurd hlt hu⟩
    rw [State.le_upd_self]

end

theorem holdsOf_holdTaken (s : State) (p : Pkt) (u : Nat) : (s.holdTaken p).holdsOf u = s.holdsOf u := rfl

/-! ### A held request goes on (R689) -/

theorem replaceFirst_single {α : Type} {t : α → Bool} {x : α} (h : t x = true) (f : α → α) : replaceFirst t f [x] = [f x] := if_pos h

/-- An entry whose only held request has gone on. -/
def HoldEnt.released (h : HoldEnt) (frame : Nat) : HoldEnt := { h with held := [], next := frame + h.gap }

section
variable {s : State} {u : Nat} {h : HoldEnt} {r : Req}

/-- The test by which a unit finds the entry whose admission frame has come. -/
theorem find_due (hheld : h.held = [r]) {frame : Nat} (hnext : h.next ≤ frame) :
    [h].find? (fun x => x.held != [] && decide (x.next ≤ frame)) = some h := by
  refine List.find?_cons_of_pos ?_
  rw [hheld, decide_eq_true hnext]
  rfl

theorem replaceFirst_released (h : HoldEnt) (frame : Nat) :
    replaceFirst (fun x => x == h) (fun x => { x with held := [], next := frame + x.gap }) [h] = [h.released frame] :=
  replaceFirst_single (t := fun x => x == h) (beq_self_eq_true h) _

theorem asideOrClass_of_no_recent {s : State} {g : Nat} (h : (s.gw g).recent = []) (r : Req) (t : Nat) :
    s.asideOrClass g r t = some (s.classLine g r t) := by
  unfold State.asideOrClass
  dsimp only
  rw [h]
  rfl

/-- An entry of a gateway whose only held request goes on. -/
def State.holdDone (s : State) (u : Nat) (h : HoldEnt) : State :=
  s.updGw u fun w => { w with holds := replaceFirst (fun x => x == h) (fun x => { x with held := [], next := s.esc.frame + x.gap }) w.holds }

/-- A released request is set aside or classed, or waits at G4. -/
def State.goesOn (s : State) (u : Nat) (q : Req) (t : Nat) : State :=
  (s.asideOrClass u q t).getD (s.updGw u fun w => { w with g4q := w.g4q ++ [q] })

theorem gw_holdDone (hholds : (s.gw u).holds = [h]) : (s.holdDone u h).gw u = { s.gw u with holds := [h.released s.esc.frame] } := by
  unfold State.holdDone
  rw [State.gw_upd_self, hholds, replaceFirst_released]

theorem goesOn_of_unshared {s : State} {u : Nat} {r : Req} (hrecent : (s.gw u).recent = [])
    (hshare : Tbl.get (fun _ => 0) (s.chan r.loc.ch).share r.itag = 0) (t : Nat) : s.goesOn u r t = s.raiseC u r (t + 1) := by
  unfold State.goesOn
  rw [asideOrClass_of_no_recent hrecent, classLine_toC (.inl hshare)]
  rfl

/-- At a gateway the request is classed: without a share of its owner it joins the C queue. -/
theorem heldRelease_of_due (hheld : h.held = [r]) (hnext : h.next ≤ s.esc.frame) (hholds : (s.gw u).holds = [h])
    (hrecent : (s.gw u).recent = []) (hg4 : (s.gw u).g4q = []) (hshare : Tbl.get (fun _ => 0) (s.chan r.loc.ch).share r.itag = 0) :
    s.heldRelease u = ((s.holdDone u h).raiseC u r (s.bclk + 1)).updGw u fun w => { w with g4q := [] } := by
  have hgw := gw_holdDone hholds
  have heq : s.heldRelease u = ((s.holdDone u h).goesOn u r s.bclk).g4Retry u (((s.holdDone u h).goesOn u r s.bclk).gw u).g4q := by
    unfold State.heldRelease
    rw [hholds, find_due hheld hnext]
    dsimp only
    rw [hheld]
    rfl
  rw [heq, goesOn_of_unshared (s := s.holdDone u h) (by rw [hgw]; exact hrecent) hshare, gw_raiseC, hgw]
  dsimp only
  rw [hg4]
  rfl

theorem leHeldRelease_of_due {e : Nat} (hheld : h.held = [r]) (hnext : h.next ≤ s.esc.frame) (hholds : (s.le e).holds = [h]) :
    ((s.leHeldRelease e).le e).holds = [h.released s.esc.frame] ∧
      ((s.leHeldRelease e).le e).cq = insertWait { req := r, raised := s.bclk } (s.le e).cq := by
  unfold State.leHeldRelease
  rw [hholds, find_due hheld hnext]
  dsimp only
  rw [hheld]
  dsimp only
  rw [State.le_upd_self, hholds]
  exact ⟨replaceFirst_released h _, rfl⟩

end

/-- Settles O58: the scrubber reads what the time that passes leaves alone (`Passing`); a hold and a release by their own lemmas. -/
theorem scrubberAndHolds : Obligations.ScrubberAndHolds := by
  unfold Obligations.ScrubberAndHolds
  refine fun s => ⟨fun c => ?_, fun u a p b h hpkts hothers hp hreach => ?_, fun u h r hheld => ⟨?_, ?_⟩⟩
  · intro x b hheld hint hreach
    have hpass := Passing.goto s b
    have hv : (((s.goto b).updScrub c Scrub.credited).chan c).scrub = x.credited := by rw [scrub_updScrub, hpass.scrub]
    have heq : s.scrubCredit c = ((s.goto b).updScrub c Scrub.credited).scrubRaise c := scrubCredit_of_due c.isLt hheld hint rfl hreach
    have hbclk : (s.goto b).bclk = b := (bclk_goto s b).trans (Nat.max_eq_right (Nat.le_max_left _ _))
    have hlater : ((s.goto b).updScrub c Scrub.credited).bclk = b := hbclk
    have hlines : ((s.goto b).updScrub c Scrub.credited).chanLines = s.chanLines := hpass.chanLines
    have hloc : ((s.goto b).updScrub c Scrub.credited).lineLoc c x.pos = s.lineLoc c x.pos := hpass.lineLoc c x.pos
    have hfree : ((s.goto b).updScrub c Scrub.credited).scrubHeld c = false := by rw [scrubHeld_updScrub, hpass.scrubHeld, hheld]
    generalize (s.goto b).updScrub c Scrub.credited = v at hv heq hlater hlines hloc hfree
    refine ⟨fun hfly => ⟨_, exec_scrubCredit s c, ?_⟩, fun hfly hpos => ⟨_, exec_scrubCredit s c, ?_⟩⟩
    · beta_reduce
      rw [heq, scrubRaise_of_fly (by rw [hv]; exact hfly), hv]
      exact ⟨hlater, rfl⟩
    · beta_reduce
      have hcredit : x.credited.credits ≠ 0 := by
        change min 16 (x.credits + 1) ≠ 0
        omega
      rw [heq, scrubRaise_of_free (by rw [hv]; exact hcredit) (by rw [hv]; exact hfly) hfree (by rw [hv, hlines]; exact hpos), scrub_updScrub,
        hv, hlater, show x.credited.pos = x.pos from rfl, hloc]
      exact ⟨hlater, rfl, rfl, rfl, rfl, _, rfl, rfl, rfl, rfl, rfl⟩
  · intro v old hnew hroom
    refine ⟨_, exec_holdReceive s u, ?_⟩
    beta_reduce
    rw [holdReceive_of_only u.isLt hpkts hothers hp hreach]
    obtain ⟨hbclk, hpk, hold, hisr⟩ := holdPut_gives (s := v.holdTaken p) (h := h) hnew hroom
    refine ⟨?_, hpk, hold, hisr⟩
    rw [hbclk]
    exact (bclk_goto s _).trans (Nat.max_eq_right (Nat.le_max_left _ _))
  · intro s0 hu hnext hholds hrecent hcq hg4 hshare
    refine ⟨_, (exec_heldRequestRelease s u).trans (congrArg _ (if_pos hu)), ?_⟩
    beta_reduce
    rw [heldRelease_of_due hheld hnext hholds hrecent hg4 hshare, State.gw_upd_self, gw_raiseC, gw_holdDone hholds]
    refine ⟨rfl, ?_⟩
    dsimp only
    rw [hcq]
    rfl
  · intro hu hnext hholds
    refine ⟨_, (exec_heldRequestRelease s u).trans (congrArg _ (if_neg (Nat.not_lt.mpr hu))), ?_⟩
    exact leHeldRelease_of_due hheld hnext hholds

end Sys2Proof.Machine
end

section
/-! The inlet arbiters (R437 to R444, R448, R449, R453, R455). -/
namespace Sys2Proof.Machine

theorem exec_arbiterRound (s : State) (c : Fin 17) : exec (.arbiterRound c) s = .next (s.arbiterRound c) := rfl
theorem exec_backoffEnd (s : State) (c : Fin 17) (i : Fin 20) : exec (.backoffEnd c i) s = .next (s.backoffEnd c i) := rfl
theorem exec_urgency3 (s : State) (c : Fin 17) (i : Fin 20) : exec (.urgency3 c i) s = .next (s.urgency3 c i) := rfl
theorem exec_crownEmerg (s : State) : exec .crownEmerg s = .next s.crownEmerg := rfl

/-! ### An arbiter and its requesters -/

theorem arb_updArb (s : State) (c : Nat) (f : Arb → Arb) : ((s.updArb c f).chan c).arb = f (s.chan c).arb :=
  congrArg Chan.arb (State.chan_upd_self s c _)

theorem scrub_updArb (s : State) (c : Nat) (f : Arb → Arb) (d : Nat) : ((s.updArb c f).chan d).scrub = (s.chan d).scrub := by
  unfold State.updArb
  rw [State.chan_upd]
  split
  · next h => rw [h]
  · rfl

/-- An arbiter but for its requesters. -/
def Arb.bare (a : Arb) : Arb := { a with reqs := [] }

/-- A requester's losses and the end of its backoff. -/
def Arb.toll (a : Arb) (i : Nat) : Nat × Nat := ((a.req i).losses, (a.req i).until_)

theorem losses_of_toll {a b : Arb} {j : Nat} (h : a.toll j = b.toll j) : (a.req j).losses = (b.req j).losses := congrArg Prod.fst h

theorem req_updArbReq (s : State) (c i : Nat) (f : ArbReq → ArbReq) (j : Nat) :
    ((s.updArbReq c i f).chan c).arb.req j = if j = i then f ((s.chan c).arb.req i) else (s.chan c).arb.req j := by
  unfold State.updArbReq
  rw [arb_updArb]
  exact Tbl.get_upd _ _ _ _ f

theorem bare_updArbReq (s : State) (c i : Nat) (f : ArbReq → ArbReq) : ((s.updArbReq c i f).chan c).arb.bare = (s.chan c).arb.bare := by
  unfold State.updArbReq
  rw [arb_updArb]
  rfl

theorem scrub_updArbReq (s : State) (c i : Nat) (f : ArbReq → ArbReq) (d : Nat) : ((s.updArbReq c i f).chan d).scrub = (s.chan d).scrub :=
  scrub_updArb s c _ d

/-! ### The queues of the requesters -/

/-- What the queues of a channel's requesters are read from. -/
structure SameWaits (c : Nat) (s t : State) : Prop where
  gws : t.gws = s.gws
  les : ∀ e, (t.le e).cq = (s.le e).cq
  mvc : t.mvc = s.mvc
  scrub : (t.chan c).scrub = (s.chan c).scrub

theorem SameWaits.refl (c : Nat) (s : State) : SameWaits c s s := ⟨rfl, fun _ => rfl, rfl, rfl⟩

theorem SameWaits.trans {c : Nat} {s t u : State} (h : SameWaits c s t) (k : SameWaits c t u) : SameWaits c s u :=
  ⟨k.gws.trans h.gws, fun e => (k.les e).trans (h.les e), k.mvc.trans h.mvc, k.scrub.trans h.scrub⟩

theorem SameWaits.cwaits {c : Nat} {s t : State} (h : SameWaits c s t) (i : Nat) : t.cwaits c i = s.cwaits c i := by
  unfold State.cwaits
  rw [gw_of_gws h.gws, h.les, h.mvc, h.scrub]

theorem SameWaits.of_kept {c l : Nat} {s t : State} (h : Kept l s t) (hg : l.testBit Part.gws.bit = false) (hl : l.testBit Part.les.bit = false)
    (hm : l.testBit Part.mvc.bit = false) (hscrub : (t.chan c).scrub = (s.chan c).scrub) : SameWaits c s t :=
  ⟨h.part .gws hg, fun e => congrArg Le.cq (le_of_les (h.part .les hl) e), h.part .mvc hm, hscrub⟩

theorem eraseFirst_eq_erase {α : Type} [BEq α] [LawfulBEq α] (w : α) (l : List α) : eraseFirst (fun x => x == w) l = l.erase w := by
  induction l with
  | nil => rfl
  | cons a l ih =>
    rw [List.erase_cons, ← ih]
    rfl

theorem dropWaits_eq_diff (l train : List CWait) : dropWaits l train = l.diff train := by
  unfold dropWaits
  induction train generalizing l with
  | nil => rfl
  | cons w train ih => rw [List.foldl_cons, ih, eraseFirst_eq_erase, List.diff_cons]

theorem filter_diff {α : Type} [BEq α] [LawfulBEq α] (p : α → Bool) (l train : List α) : (l.diff train).filter p = (l.filter p).diff train := by
  induction train generalizing l with
  | nil => rfl
  | cons w train ih => rw [List.diff_cons, ih, List.diff_cons, List.erase_filter]

/-- What a grant takes leaves the requester's queue, once for each of its requests. -/
theorem length_diff_take {α : Type} [BEq α] [LawfulBEq α] (l : List α) (p : α → Bool) {n : Nat} (h : n ≤ (l.filter p).length) :
    (l.diff ((l.filter p).take n)).length + n = l.length := by
  have hperm := List.subperm_append_diff_self_of_count_le (l₁ := (l.filter p).take n) (l₂ := l)
    fun x _ => ((List.take_sublist _ _).trans List.filter_sublist).count_le x
  rw [← hperm.length_eq, List.length_append, List.length_take, Nat.min_eq_left h, Nat.add_comm]

theorem cwaits_dropWaits (s : State) (c i : Nat) (train : List CWait) :
    (s.updWaits c i fun l => dropWaits l train).cwaits c i = (s.cwaits c i).diff train := by
  unfold State.cwaits State.updWaits
  by_cases hg : i < 16
  · rw [if_pos hg, if_pos hg, if_pos hg, State.gw_upd_self, ← filter_diff, ← dropWaits_eq_diff]
  rw [if_neg hg, if_neg hg, if_neg hg]
  by_cases hl : i < 18
  · rw [if_pos hl, if_pos hl, if_pos hl, State.le_upd_self, ← filter_diff, ← dropWaits_eq_diff]
  rw [if_neg hl, if_neg hl, if_neg hl]
  by_cases hs : i = 18
  · rw [if_pos hs, if_pos hs, if_pos hs, scrub_updScrub, ← dropWaits_eq_diff]
  · rw [if_neg hs, if_neg hs, if_neg hs, ← filter_diff, ← dropWaits_eq_diff]

theorem arb_updWaits (s : State) (c i : Nat) (f : List CWait → List CWait) (d : Nat) : ((s.updWaits c i f).chan d).arb = (s.chan d).arb := by
  unfold State.updWaits
  split
  · rfl
  split
  · rfl
  split
  · rw [show s.updScrub c _ = s.updChan c _ from rfl, State.chan_upd]
    split
    · next h => rw [h]
    · rfl
  · rfl

/-! ### The losers of a round (R442, R448) -/

/-- A requester that has lost a round whose R0 fell in BCLK `t`, under a backoff configuration. -/
def lossOf (cfg : Word) (losses t urg : Nat) : Nat × Nat :=
  let n := satAdd 15 losses 1
  let b := backoffRounds (fld cfg 5 4) (fld cfg 9 4) n urg
  (n, if b = 0 then 0 else t + 2 + 2 * b)

section
variable {s : State} {c : Nat}

theorem toll_lose (s : State) (c i t urg j : Nat) : ((s.lose c i t urg).chan c).arb.toll j =
    if j = i then lossOf (s.reg (.cc c) 0x060) ((s.chan c).arb.req i).losses t urg else (s.chan c).arb.toll j := by
  unfold State.lose Arb.toll
  dsimp only
  rw [req_updArbReq, chan_ev]
  split <;> rfl

theorem bare_lose (s : State) (c i t urg : Nat) : ((s.lose c i t urg).chan c).arb.bare = (s.chan c).arb.bare := by
  unfold State.lose
  dsimp only
  rw [bare_updArbReq, chan_ev]

theorem lose_kept_self (s : State) (c i t urg : Nat) : Kept 0x20420 s (s.lose c i t urg) := State.lose_kept (Within.self _) (Kept.refl _ s) c i t urg

theorem waits_lose (s : State) (c i t urg : Nat) : SameWaits c s (s.lose c i t urg) := by
  refine SameWaits.of_kept (lose_kept_self s c i t urg) (by decide) (by decide) (by decide) ?_
  unfold State.lose
  dsimp only
  rw [scrub_updArbReq, chan_ev]

theorem reg_lose (s : State) (c i t urg : Nat) (p : PageId) (o : Nat) : (s.lose c i t urg).reg p o = s.reg p o :=
  reg_of_body (State.ev_body s _ p) o

/-- The requesters of a list lose, one after another. -/
def State.losers (s : State) (c t : Nat) (urg : Nat → Nat) (l : List Nat) : State := l.foldl (fun s j => s.lose c j t (urg j)) s

theorem losers_keep (s : State) (c t : Nat) (urg : Nat → Nat) (l : List Nat) :
    ((s.losers c t urg l).chan c).arb.bare = (s.chan c).arb.bare ∧ SameWaits c s (s.losers c t urg l) ∧ (s.losers c t urg l).bclk = s.bclk := by
  unfold State.losers
  induction l generalizing s with
  | nil => exact ⟨rfl, SameWaits.refl c s, rfl⟩
  | cons i l ih =>
    obtain ⟨hbare, hwaits, hbclk⟩ := ih (s.lose c i t (urg i))
    exact ⟨hbare.trans (bare_lose s c i t _), (waits_lose s c i t _).trans hwaits, hbclk.trans ((lose_kept_self s c i t _).part .bclk (by decide))⟩

theorem toll_losers_of_not_mem (s : State) (c t : Nat) (urg : Nat → Nat) {l : List Nat} {j : Nat} (h : j ∉ l) :
    ((s.losers c t urg l).chan c).arb.toll j = (s.chan c).arb.toll j := by
  unfold State.losers
  induction l generalizing s with
  | nil => rfl
  | cons i l ih =>
    obtain ⟨hne, hnot⟩ := not_or.mp (mt List.mem_cons.mpr h)
    exact (ih (s.lose c i t (urg i)) hnot).trans ((toll_lose s c i t _ j).trans (if_neg hne))

theorem toll_losers_of_mem (s : State) (c t : Nat) (urg : Nat → Nat) {l : List Nat} (hl : l.Nodup) {j : Nat} (h : j ∈ l) :
    ((s.losers c t urg l).chan c).arb.toll j = lossOf (s.reg (.cc c) 0x060) ((s.chan c).arb.req j).losses t (urg j) := by
  induction l generalizing s with
  | nil => exact absurd h List.not_mem_nil
  | cons i l ih =>
    obtain ⟨hnot, hnodup⟩ := List.nodup_cons.mp hl
    have hcons : s.losers c t urg (i :: l) = (s.lose c i t (urg i)).losers c t urg l := rfl
    rw [hcons]
    rcases List.mem_cons.mp h with rfl | hmem
    · rw [toll_losers_of_not_mem _ c t urg hnot, toll_lose, if_pos rfl]
    · have hne : j ≠ i := fun he => hnot (he ▸ hmem)
      have hlosses : ((s.lose c i t (urg i)).chan c).arb.toll j = (s.chan c).arb.toll j := (toll_lose s c i t _ j).trans (if_neg hne)
      rw [ih _ hnodup hmem, reg_lose, losses_of_toll hlosses]

end

/-! ### The train is sent (R443) -/

/-- What sending a train leaves at its channel: the time, the arbiter's grant, the queues, and the packets sent before. -/
structure Sending (c : Nat) (s t : State) : Prop where
  bclk : t.bclk = s.bclk
  chan : (t.chan c).still = (s.chan c).still
  waits : SameWaits c s t
  faces : ∀ f ∈ s.pkts.map Pkt.face, f ∈ t.pkts.map Pkt.face

theorem Sending.refl (c : Nat) (s : State) : Sending c s s := ⟨rfl, rfl, SameWaits.refl c s, fun _ h => h⟩

theorem Sending.trans {c : Nat} {s t u : State} (h : Sending c s t) (k : Sending c t u) : Sending c s u :=
  ⟨k.bclk.trans h.bclk, k.chan.trans h.chan, h.waits.trans k.waits, fun f hf => k.faces f (h.faces f hf)⟩

theorem inject_kept_self (s : State) (body : Body) (src dst t : Nat) (train : Option Nat) : Kept 0x21420 s (s.inject body src dst t train) :=
  State.inject_kept (Within.self _) (Kept.refl _ s) body src dst t train

theorem Sending.inject (c : Nat) (s : State) (body : Body) (src dst t : Nat) (train : Option Nat) : Sending c s (s.inject body src dst t train) := by
  have hkept := inject_kept_self s body src dst t train
  have hpass := Passing.inject s body src dst t train
  refine ⟨hkept.part .bclk (by decide), hpass.chan c, SameWaits.of_kept hkept (by decide) (by decide) (by decide) (hpass.scrub c), fun f hf => ?_⟩
  rw [faces_inject]
  exact List.mem_append_left _ hf

theorem Sending.ev (c : Nat) (s : State) (e : Ev) : Sending c s (s.ev e) :=
  have hkept := ev_kept_self s e
  ⟨bclk_ev s e, congrArg Chan.still (chan_ev s e c), SameWaits.of_kept hkept (by decide) (by decide) (by decide) (by rw [chan_ev]),
    fun f hf => by rwa [pkts_ev]⟩

theorem Sending.updLe {c : Nat} (s : State) (e : Nat) {f : Le → Le} (hf : ∀ x, (f x).cq = x.cq) : Sending c s (s.updLe e f) := by
  refine ⟨rfl, rfl, ⟨rfl, fun d => ?_, rfl, rfl⟩, fun _ h => h⟩
  rw [State.le_upd]
  split
  · next h => rw [hf, h]
  · rfl

/-- A packet stands in the network. -/
def State.addPkt (s : State) (p : Pkt) : State := { s with pkts := s.pkts ++ [p] }

theorem Sending.addPkt (c : Nat) (s : State) (p : Pkt) : Sending c s (s.addPkt p) := by
  refine ⟨rfl, rfl, ⟨rfl, fun _ => rfl, rfl, rfl⟩, fun f hf => ?_⟩
  unfold State.addPkt
  rw [List.map_append]
  exact List.mem_append_left _ hf

/-- A request of a train leaves its requester, before its packet is sent. -/
def State.leavesFor (s : State) (c i : Nat) (r : Req) : State :=
  if i < 16 then s.ev { box := boxGw i, code := 6, qual := .is 6 (c + 1), req := some r, itag := some r.itag }
  else if i < 18 then s.updLe (i - 16) fun w =>
    { w with ops := w.ops.map fun o => if o.id = r.tag ∧ o.st = .queued then { o with st := .sent } else o }
  else s

theorem admitC_eq (s : State) (c i g : Nat) (r : Req) (t : Nat) : s.admitC c i g r t =
    if i = 18 then (s.leavesFor c i r).addPkt
      { body := .memReq r, src := nodeCh c, dst := nodeCh c, ready := t, inj := t, near := t, arr := t, train := some g }
    else (s.leavesFor c i r).inject (.memReq r) (nodeOfSrc i) (nodeCh c) t (some g) := rfl

theorem Sending.leavesFor (c : Nat) (s : State) (i : Nat) (r : Req) : Sending c s (s.leavesFor c i r) := by
  unfold State.leavesFor
  split
  · exact Sending.ev c s _
  split
  · exact Sending.updLe s _ fun _ => rfl
  · exact Sending.refl c s

/-- A request of a train is sent: a packet that carries it, with the BCLK of the grant. -/
theorem sending_admitC (s : State) (c i g : Nat) (r : Req) (t : Nat) :
    Sending c s (s.admitC c i g r t) ∧ ∃ src dst, (Body.memReq r, src, dst, some g) ∈ (s.admitC c i g r t).pkts.map Pkt.face := by
  rw [admitC_eq]
  have hleaves := Sending.leavesFor c s i r
  generalize s.leavesFor c i r = v at hleaves
  split
  · refine ⟨hleaves.trans (Sending.addPkt c v _), nodeCh c, nodeCh c, ?_⟩
    unfold State.addPkt
    rw [List.map_append]
    exact List.mem_append_right _ (List.mem_singleton.mpr rfl)
  · refine ⟨hleaves.trans (Sending.inject c v _ _ _ _ _), nodeOfSrc i, nodeCh c, ?_⟩
    rw [faces_inject]
    exact List.mem_append_right _ (List.mem_singleton.mpr rfl)

theorem sending_sendTrain (s : State) (c i g : Nat) (ws : List CWait) (t : Nat) : Sending c s (s.sendTrain c i g ws t) ∧
    ∀ x ∈ ws, ∃ p ∈ (s.sendTrain c i g ws t).pkts, p.body = .memReq x.req ∧ p.train = some g := by
  induction ws generalizing s t with
  | nil => exact ⟨Sending.refl c s, fun x hx => absurd hx List.not_mem_nil⟩
  | cons w ws ih =>
    obtain ⟨hadmit, src, dst, hmem⟩ := sending_admitC s c i g w.req t
    obtain ⟨hrest, hsent⟩ := ih (s.admitC c i g w.req t) (if i = 18 then t + 1 + b2n w.req.write else t)
    refine ⟨hadmit.trans hrest, fun x hx => ?_⟩
    rcases List.mem_cons.mp hx with rfl | hx
    · obtain ⟨p, hp, -, -, hbody, htrain⟩ := exists_pkt_of_face (hrest.faces _ hmem)
      exact ⟨p, hp, hbody, htrain⟩
    · exact hsent x hx

/-! ### A round (R437 to R444) -/

/-- The round's urgencies as the arbiter's registers show them. -/
def State.urgsShown (s : State) (c : Nat) (urg : Nat → Nat) : State :=
  requesters.foldl (fun s j => s.updArbReq c j fun q => { q with urg := urg j }) s

/-- The arbiter after a grant of `n` requests, in `f` flits, whose R0 fell in BCLK `t` (R439, R441). -/
def Arb.won (a : Arb) (i n f t : Nat) : Arb :=
  { a with pre := some (t + 2, a.lastWin, a.ptr, n), ptr := (i + 1) % 20, lastWin := i, win := i, grantAt := t + 2, granted := a.granted + n,
           free := t + 2 + max f 2 - 2, idle := t + 2 + f }

/-- A round is settled for requester `i` before its train is sent. -/
def State.roundSettled (s : State) (c i n f t : Nat) (hold : Bool) (urg : Nat → Nat) (el : List Nat) (train : List CWait) : State :=
  let s := s.urgsShown c urg
  let s := if hold then s else s.losers c t urg (el.filter fun j => j != i)
  let s := s.updArbReq c i fun q => { q with losses := 0 }
  let s := s.ev { box := c, code := 0x21, qual := .is 6 (i + 1), req := train.head?.map (·.req), itag := train.head?.map (·.req.itag) }
  let s := s.updWaits c i fun l => dropWaits l train
  s.updArb c fun a => a.won i n f t

/-- The arbiter once its train's last flit is known (R443). -/
def Arb.until2 (a : Arb) (f last : Nat) : Arb := { a with free := max a.free (if f = 1 then last else last - 1), idle := max a.idle (last + 1) }

/-- The train is sent and LAST2 taken from its last flit (R443). -/
def State.roundSent (s : State) (c i f t : Nat) (train : List CWait) : State :=
  let s := s.sendTrain c i (t + 2) train (t + 2)
  let last := trainEnd s.pkts c (t + 2)
  (s.updArb c fun a => a.until2 f last).mirrorBufs

/-- The flits of a train. -/
def trainFlits (train : List CWait) : Nat := train.foldl (fun k x => k + 1 + b2n x.req.write) 0

/-- A round from its R1 on, in the state `u`, its R0 having fallen in BCLK `t`. -/
def State.roundFrom (u : State) (c t : Nat) : State :=
  let urg := fun i => u.urgAt c i t
  let el := requesters.filter fun i => u.eligibleAt c i t
  match winnerOf (u.chan c).arb.ptr (if u.holdAt c t then fun _ => 0 else urg) el with
  | none => u
  | some i =>
    let w := (u.cwaits c i).filter fun x => decide (x.raised + 1 ≤ t)
    let n := min (min w.length 8) (min (fld (u.reg (.cc c) 0x060) 1 4) (u.grantRoom c))
    if n = 0 then u else
    (u.roundSettled c i n (trainFlits (w.take n)) t (u.holdAt c t) urg el (w.take n)).roundSent c i (trainFlits (w.take n)) t (w.take n)

theorem arbiterRound_of_R0 {s s0 : State} {c b : Nat} (hs0 : s0 = s.gwAhead fun s => s.nextR0 c) (hr0 : s0.nextR0 c = some b)
    (hhold : s0.trt.hold = false) (hreach : s0.canReach (b + 1) = true) (hroom : s0.grantRoom c ≠ 0) (hemerg : s0.emergSoon c b = false) :
    s.arbiterRound c = (s0.goto (b + 1)).roundFrom c b := by
  have heq : s.arbiterRound c = match (s.gwAhead fun s => s.nextR0 c).nextR0 c with
    | none => s.gwAhead fun s => s.nextR0 c
    | some t => if (s.gwAhead fun s => s.nextR0 c).trt.hold ∨ !(s.gwAhead fun s => s.nextR0 c).canReach (t + 1) ∨
        (s.gwAhead fun s => s.nextR0 c).grantRoom c = 0 ∨ (s.gwAhead fun s => s.nextR0 c).emergSoon c t then s.gwAhead fun s => s.nextR0 c
      else ((s.gwAhead fun s => s.nextR0 c).goto (t + 1)).roundFrom c t := rfl
  rw [heq, ← hs0, hr0]
  exact if_neg (by rw [hhold, hreach, hemerg]; simpa using hroom)

/-- What the first part of a round leaves: the arbiter but for its requesters, the queues and the time. -/
structure Arbitrates (c : Nat) (s t : State) : Prop where
  bclk : t.bclk = s.bclk
  bare : (t.chan c).arb.bare = (s.chan c).arb.bare
  waits : SameWaits c s t

theorem Arbitrates.trans {c : Nat} {s t u : State} (h : Arbitrates c s t) (k : Arbitrates c t u) : Arbitrates c s u :=
  ⟨k.bclk.trans h.bclk, k.bare.trans h.bare, h.waits.trans k.waits⟩

theorem Arbitrates.updArbReq (c : Nat) (s : State) (i : Nat) (f : ArbReq → ArbReq) : Arbitrates c s (s.updArbReq c i f) :=
  ⟨rfl, bare_updArbReq s c i f, rfl, fun _ => rfl, rfl, scrub_updArbReq s c i f c⟩

theorem Arbitrates.ev (c : Nat) (s : State) (e : Ev) : Arbitrates c s (s.ev e) :=
  ⟨bclk_ev s e, by rw [chan_ev], (Sending.ev c s e).waits⟩

/-- What showing the urgencies leaves. -/
theorem urgsShown_gives (s : State) (c : Nat) (urg : Nat → Nat) : Arbitrates c s (s.urgsShown c urg) ∧
    (∀ j, ((s.urgsShown c urg).chan c).arb.toll j = (s.chan c).arb.toll j) ∧ (s.urgsShown c urg).pages = s.pages := by
  unfold State.urgsShown
  generalize requesters = l
  induction l generalizing s with
  | nil => exact ⟨⟨rfl, rfl, SameWaits.refl c s⟩, fun _ => rfl, rfl⟩
  | cons i l ih =>
    obtain ⟨harb, htoll, hpages⟩ := ih (s.updArbReq c i fun q => { q with urg := urg i })
    refine ⟨(Arbitrates.updArbReq c s i _).trans harb, fun j => (htoll j).trans ?_, hpages⟩
    unfold Arb.toll
    rw [req_updArbReq]
    split
    · next h => rw [h]
    · rfl

/-- The winner of a round among those whose losses have been counted. -/
def State.roundCounted (s : State) (c i t : Nat) (hold : Bool) (urg : Nat → Nat) (el : List Nat) : State :=
  let s := s.urgsShown c urg
  let s := if hold then s else s.losers c t urg (el.filter fun j => j != i)
  s.updArbReq c i fun q => { q with losses := 0 }

theorem roundCounted_gives (s : State) (c i t : Nat) (hold : Bool) (urg : Nat → Nat) {el : List Nat} (hel : el.Nodup) :
    let v := s.roundCounted c i t hold urg el
    Arbitrates c s v ∧ ((v.chan c).arb.req i).losses = 0 ∧
      ∀ j ∈ el, j ≠ i → hold = false → (v.chan c).arb.toll j = lossOf (s.reg (.cc c) 0x060) ((s.chan c).arb.req j).losses t (urg j) := by
  intro v
  obtain ⟨hshown, htoll, hpages⟩ := urgsShown_gives s c urg
  have hlast : ∀ x : State, (((x.updArbReq c i fun q => { q with losses := 0 }).chan c).arb.req i).losses = 0 := by
    intro x
    rw [req_updArbReq, if_pos rfl]
  have hother : ∀ (x : State) (j : Nat), j ≠ i → ((x.updArbReq c i fun q => { q with losses := 0 }).chan c).arb.toll j = (x.chan c).arb.toll j := by
    intro x j hj
    unfold Arb.toll
    rw [req_updArbReq, if_neg hj]
  cases hold with
  | true => exact ⟨hshown.trans (Arbitrates.updArbReq c _ i _), hlast _, fun j _ _ h => absurd h (by decide)⟩
  | false =>
    obtain ⟨hbare, hwaits, hbclk⟩ := losers_keep (s.urgsShown c urg) c t urg (el.filter fun j => j != i)
    refine ⟨(hshown.trans ⟨hbclk, hbare, hwaits⟩).trans (Arbitrates.updArbReq c _ i _), hlast _, fun j hj hne _ => ?_⟩
    have hmem : j ∈ el.filter fun j => j != i := List.mem_filter.mpr ⟨hj, bne_iff_ne.mpr hne⟩
    have hlost := toll_losers_of_mem (s.urgsShown c urg) c t urg (hel.filter _) hmem
    rw [reg_of_body (SameBody.of_pages hpages (.cc c)), losses_of_toll (htoll j)] at hlost
    exact (hother _ j hne).trans hlost

theorem roundSettled_gives (s : State) (c i n f t : Nat) (hold : Bool) (urg : Nat → Nat) {el : List Nat} (hel : el.Nodup) (train : List CWait) :
    let v := s.roundSettled c i n f t hold urg el train
    v.bclk = s.bclk ∧ (v.chan c).arb.lastWin = i ∧ (v.chan c).arb.ptr = (i + 1) % 20 ∧ (v.chan c).arb.grantAt = t + 2 ∧
      (v.chan c).arb.granted = (s.chan c).arb.granted + n ∧ ((v.chan c).arb.req i).losses = 0 ∧
      v.cwaits c i = (s.cwaits c i).diff train ∧
      ∀ j ∈ el, j ≠ i → hold = false → (v.chan c).arb.toll j = lossOf (s.reg (.cc c) 0x060) ((s.chan c).arb.req j).losses t (urg j) := by
  intro v
  obtain ⟨hcounted, hzero, htoll⟩ := roundCounted_gives s c i t hold urg hel
  have hv : ∃ e, v = (((s.roundCounted c i t hold urg el).ev e).updWaits c i fun l => dropWaits l train).updArb c fun a => a.won i n f t := ⟨_, rfl⟩
  obtain ⟨e, hv⟩ := hv
  rw [hv]
  generalize s.roundCounted c i t hold urg el = x at hcounted hzero htoll
  have harb : ((((x.ev e).updWaits c i fun l => dropWaits l train).updArb c fun a => a.won i n f t).chan c).arb = (x.chan c).arb.won i n f t := by
    rw [arb_updArb, arb_updWaits, chan_ev]
  have hbclk : ((x.ev e).updWaits c i fun l => dropWaits l train).bclk = x.bclk :=
    ((State.updWaits_kept (Within.self _) (Kept.refl _ _) c i _).part .bclk (by decide)).trans (bclk_ev x e)
  have hqueue : ((((x.ev e).updWaits c i fun l => dropWaits l train).updArb c fun a => a.won i n f t).cwaits c i) = (s.cwaits c i).diff train := by
    have hsame : SameWaits c ((x.ev e).updWaits c i fun l => dropWaits l train)
        (((x.ev e).updWaits c i fun l => dropWaits l train).updArb c fun a => a.won i n f t) := ⟨rfl, fun _ => rfl, rfl, scrub_updArb _ c _ c⟩
    rw [hsame.cwaits, cwaits_dropWaits, (Arbitrates.ev c x e).waits.cwaits, hcounted.waits.cwaits]
  have hgranted : (x.chan c).arb.granted = (s.chan c).arb.granted := by
    have hbare := congrArg Arb.granted hcounted.bare
    exact hbare
  rw [harb]
  exact ⟨hbclk.trans hcounted.bclk, rfl, rfl, rfl, congrArg (· + n) hgranted, hzero, hqueue, htoll⟩

theorem sending_roundSent (s : State) (c i f t : Nat) (train : List CWait) : Sending c s (s.roundSent c i f t train) ∧
    ∀ x ∈ train, ∃ p ∈ (s.roundSent c i f t train).pkts, p.body = .memReq x.req ∧ p.train = some (t + 2) := by
  obtain ⟨hsend, hpkts⟩ := sending_sendTrain s c i (t + 2) train (t + 2)
  unfold State.roundSent
  dsimp only
  generalize s.sendTrain c i (t + 2) train (t + 2) = u at hsend hpkts
  generalize trainEnd u.pkts c (t + 2) = last
  have hmir := State.mirrorBufs_kept (Within.self _) (Kept.refl _ (u.updArb c fun a => a.until2 f last))
  have hchans : ((u.updArb c fun a => a.until2 f last).mirrorBufs).chan c = { u.chan c with arb := (u.chan c).arb.until2 f last } :=
    (chan_of_chans (hmir.part .chans (by decide)) c).trans (State.chan_upd_self u c _)
  have hpk : ((u.updArb c fun a => a.until2 f last).mirrorBufs).pkts = u.pkts := hmir.part .pkts (by decide)
  refine ⟨hsend.trans ⟨hmir.part .bclk (by decide), ?_, SameWaits.of_kept (l := 0x600) ?_ (by decide) (by decide) (by decide) ?_, ?_⟩, ?_⟩
  · rw [hchans]
    rfl
  · exact State.mirrorBufs_kept (Within.of (Within.self 0x600) (by decide)) (State.updArb_kept (Within.of (Within.self 0x600) (by decide)) (Kept.refl _ u) c _)
  · rw [hchans]
  · rw [hpk]
    exact fun _ h => h
  · rw [hpk]
    exact hpkts

/-- What a channel's arbiter holds but for the end of its train, which no train moves. -/
theorem arb_of_still {α : Type} (f : Arb → α) (hf : ∀ a : Arb, f { a with free := 0, idle := 0 } = f a) {a b : Chan} (h : a.still = b.still) :
    f a.arb = f b.arb := by
  have harb := congrArg Chan.arb h
  rw [← hf a.arb, ← hf b.arb]
  exact congrArg f harb

/-- A round whose R0 finds a winner (R437 to R444, R448). -/
theorem roundFrom_gives {u : State} {c b i : Nat} (hwin : winnerOf (u.chan c).arb.ptr (if u.holdAt c b then fun _ => 0 else fun j => u.urgAt c j b)
      (requesters.filter fun j => u.eligibleAt c j b) = some i) {w : List CWait}
    (hw : w = (u.cwaits c i).filter fun x => decide (x.raised + 1 ≤ b)) {n : Nat}
    (hn : n = min (min w.length 8) (min (fld (u.reg (.cc c) 0x060) 1 4) (u.grantRoom c))) (hpos : n ≠ 0) :
    let t := u.roundFrom c b
    t.bclk = u.bclk ∧ (t.chan c).arb.lastWin = i ∧ (t.chan c).arb.ptr = (i + 1) % 20 ∧ (t.chan c).arb.grantAt = b + 2 ∧
      (t.chan c).arb.granted = (u.chan c).arb.granted + n ∧ ((t.chan c).arb.req i).losses = 0 ∧
      (t.cwaits c i).length + n = (u.cwaits c i).length ∧
      (∀ x ∈ w.take n, ∃ p ∈ t.pkts, p.body = .memReq x.req ∧ p.train = some (b + 2)) ∧
      ∀ j ∈ requesters.filter (fun j => u.eligibleAt c j b), j ≠ i → u.holdAt c b = false →
        (t.chan c).arb.toll j = lossOf (u.reg (.cc c) 0x060) ((u.chan c).arb.req j).losses b (u.urgAt c j b) := by
  intro t
  have ht : t = (u.roundSettled c i n (trainFlits (w.take n)) b (u.holdAt c b) (fun j => u.urgAt c j b)
      (requesters.filter fun j => u.eligibleAt c j b) (w.take n)).roundSent c i (trainFlits (w.take n)) b (w.take n) := by
    change u.roundFrom c b = _
    unfold State.roundFrom
    dsimp only
    rw [hwin]
    dsimp only
    rw [← hw, ← hn, if_neg hpos]
  have hel : (requesters.filter fun j => u.eligibleAt c j b).Nodup := List.nodup_range.filter _
  obtain ⟨hbclk, hlast, hptr, hat, hgranted, hzero, hqueue, htoll⟩ :=
    roundSettled_gives u c i n (trainFlits (w.take n)) b (u.holdAt c b) (fun j => u.urgAt c j b) hel (w.take n)
  rw [ht]
  generalize u.roundSettled c i n (trainFlits (w.take n)) b (u.holdAt c b) (fun j => u.urgAt c j b)
    (requesters.filter fun j => u.eligibleAt c j b) (w.take n) = v at *
  obtain ⟨hsend, hpkts⟩ := sending_roundSent v c i (trainFlits (w.take n)) b (w.take n)
  refine ⟨hsend.bclk.trans hbclk, (arb_of_still Arb.lastWin (fun _ => rfl) hsend.chan).trans hlast,
    (arb_of_still Arb.ptr (fun _ => rfl) hsend.chan).trans hptr, (arb_of_still Arb.grantAt (fun _ => rfl) hsend.chan).trans hat,
    (arb_of_still Arb.granted (fun _ => rfl) hsend.chan).trans hgranted,
    (arb_of_still (fun a => (a.req i).losses) (fun _ => rfl) hsend.chan).trans hzero, ?_, hpkts, fun j hj hne hhold =>
    (arb_of_still (fun a => a.toll j) (fun _ => rfl) hsend.chan).trans (htoll j hj hne hhold)⟩
  rw [hsend.waits.cwaits, hqueue, hw]
  refine length_diff_take _ _ ?_
  rw [← hw, hn]
  exact (Nat.min_le_left _ _).trans (Nat.min_le_left _ _)

/-! ### Backoffs and urgencies (R448, R449) -/

theorem arb_passing {s t : State} (h : Passing s t) (c i : Nat) : (t.chan c).arb.req i = (s.chan c).arb.req i :=
  h.chanField (fun ch => ch.arb.req i) (fun _ => rfl) c

theorem backoffEnd_of_until {s : State} {c i e : Nat} (he : e = ((s.chan c).arb.req i).until_) (hne : e ≠ 0) (hreach : s.canReach e = true) :
    s.backoffEnd c i = (s.goto e).updArbReq c i fun q => { q with until_ := 0 } := by
  subst he
  exact if_neg (by rw [hreach]; simpa using hne)

/-- A requester's oldest request has met its T3 (R449). -/
def State.urged (s : State) (c i : Nat) (w : CWait) : State :=
  (s.updWaits c i (replaceFirst (fun x => x == w) fun x => { x with urg3 := true })).updArbReq c i fun q => { q with until_ := 0, from_ := 0 }

theorem urgency3_of_due {s s0 : State} {c i e : Nat} {w : CWait} (hs0 : s0 = s.gwAhead fun s => if s.cwaits c i = [] then none else some s.bclk)
    (hw : (s0.cwaits c i).find? (fun y => y.req.created == oldest (s0.cwaits c i) && !y.urg3) = some w)
    (he : e = max (oldest (s0.cwaits c i) + 9 * s0.latTgt c i / 10 + 1) (w.raised + 1)) (halive : s0.alive c i = true)
    (hreach : s0.canReach e = true) :
    s.urgency3 c i = (((s0.goto e).urged c i w).ev { box := c, code := 0x24, qual := .is 6 (i + 1) }).raise (.cc c) 4 := by
  subst he
  have heq : s.urgency3 c i = match (s0.cwaits c i).find? fun y => y.req.created == oldest (s0.cwaits c i) && !y.urg3 with
    | none => s0
    | some w => if !s0.alive c i ∨ !s0.canReach (max (oldest (s0.cwaits c i) + 9 * s0.latTgt c i / 10 + 1) (w.raised + 1)) then s0
      else (((s0.goto (max (oldest (s0.cwaits c i) + 9 * s0.latTgt c i / 10 + 1) (w.raised + 1))).urged c i w).ev
        { box := c, code := 0x24, qual := .is 6 (i + 1) }).raise (.cc c) 4 := by
    rw [hs0]
    rfl
  rw [heq, hw]
  exact if_neg (by rw [halive, hreach]; decide)

theorem urged_kept (s : State) (c i : Nat) (w : CWait) : Kept 0x24000500 s (s.urged c i w) :=
  State.updArbReq_kept (Within.of (Within.self _) (by decide)) (State.updWaits_kept (Within.self _) (Kept.refl _ s) c i _) c i _

/-! ### The Crown port's EMERG (R453, R455) -/

/-- The train in transfer to a channel ends at the next request boundary (R455). -/
def State.trainRevoked (s : State) (c : Nat) : State :=
  let cut := s.cutTrains fun q => q.loc.ch == c
  match cut.2 with
  | [] => cut.1
  | _ :: _ =>
    let s := (cut.1.requeue cut.2).updArb c fun a => { a with revokeCnt := wrapAdd 8 a.revokeCnt 1 }
    (s.ev { box := c, code := 0x23 }).raise (.cc c) 5

/-- The arbiter that has given the Crown port its grant for BCLK `egnt`. -/
def Arb.crowned (a : Arb) (egnt : Nat) : Arb := { a with pre := some (egnt, a.lastWin, a.ptr, 0), lastWin := 20, free := egnt, idle := egnt }

/-- The Crown port's grant follows in BCLK `egnt` (R454). -/
def State.crownGranted (s : State) (r : Req) (egnt : Nat) : State :=
  let s := s.updArb r.loc.ch fun a => a.crowned egnt
  let s := s.ev { box := r.loc.ch, code := 0x21, qual := .is 6 21, req := some r, itag := some r.itag }
  { s with crn := { s.crn with emerg := none, egnt := some (r, egnt) } }

theorem trainRevoked_kept (s : State) (c : Nat) : Kept 0x24021520 s (s.trainRevoked c) := by
  have hcut : Kept 0x24021520 s (s.cutTrains fun q => q.loc.ch == c).1 :=
    State.cutTrains_kept (Within.of (Within.self _) (by decide)) (Kept.refl _ s) _
  unfold State.trainRevoked
  dsimp only
  split
  · exact hcut
  · exact State.raise_kept (Within.of (Within.self _) (by decide)) (State.ev_kept (Within.of (Within.self _) (by decide))
      (State.updArb_kept (Within.of (Within.self _) (by decide)) (State.requeue_kept (Within.of (Within.self _) (by decide)) hcut _) c _) _) _ _

theorem crownEmerg_of_emerg {s : State} {r : Req} {e : Nat} (h : s.crn.emerg = some (r, e)) (hreach : s.canReach (e + 1) = true) :
    s.crownEmerg = ((s.goto (e + 1)).trainRevoked r.loc.ch).crownGranted r (max (((s.goto (e + 1)).trainRevoked r.loc.ch).bclk + 1)
      ((s.goto (e + 1)).lastFlit r.loc.ch (s.goto (e + 1)).bclk + 1)) := by
  unfold State.crownEmerg
  rw [h]
  exact if_neg (by rw [hreach]; decide)

theorem crownGranted_gives (s : State) (r : Req) (egnt : Nat) : (s.crownGranted r egnt).bclk = s.bclk ∧ (s.crownGranted r egnt).crn.emerg = none ∧
    (s.crownGranted r egnt).crn.egnt = some (r, egnt) ∧ ((s.crownGranted r egnt).chan r.loc.ch).arb.lastWin = 20 := by
  unfold State.crownGranted
  dsimp only
  refine ⟨bclk_ev _ _, rfl, rfl, ?_⟩
  have harb : (((s.updArb r.loc.ch fun a => a.crowned egnt).ev
      { box := r.loc.ch, code := 0x21, qual := .is 6 21, req := some r, itag := some r.itag }).chan r.loc.ch).arb.lastWin = 20 := by
    rw [chan_ev, arb_updArb]
    rfl
  exact harb

/-- Settles O52: a round by `roundFrom_gives`, the rest by what the time that passes leaves alone (`Passing`). -/
theorem arbitersGrant : Obligations.ArbitersGrant := by
  unfold Obligations.ArbitersGrant
  refine fun s c => ⟨?_, fun i => ?_, fun i => ?_, fun r e hemerg hreach => ⟨_, exec_crownEmerg s, ?_⟩⟩
  · intro s0 b hr0 htrt hreach hroom hsoon u hold el i hwin w n hpos
    refine ⟨_, exec_arbiterRound s c, ?_⟩
    beta_reduce
    rw [arbiterRound_of_R0 rfl hr0 htrt hreach hroom hsoon]
    obtain ⟨hbclk, hlast, hptr, hat, hgranted, hzero, hqueue, hpkts, htoll⟩ := roundFrom_gives (u := u) hwin rfl rfl hpos
    refine ⟨hbclk.trans (bclk_goto s0 _), hlast, hptr, hat, hgranted, hzero, hqueue, hpkts, fun j hj hne hhold => ?_⟩
    exact Prod.mk.inj (htoll j hj hne hhold)
  · intro e hne hreach
    refine ⟨_, exec_backoffEnd s c i, ?_⟩
    beta_reduce
    rw [backoffEnd_of_until rfl hne hreach]
    refine ⟨bclk_goto s e, ?_, fun j hj => ?_⟩
    · rw [req_updArbReq, if_pos rfl]
    · rw [req_updArbReq, if_neg hj, arb_passing (Passing.goto s e)]
  · intro s0 w hw e halive hreach
    refine ⟨_, exec_urgency3 s c i, ?_⟩
    beta_reduce
    rw [urgency3_of_due rfl hw rfl halive hreach]
    refine ⟨?_, ?_, flag_raise _ _ (by decide)⟩
    · rw [bclk_raise, bclk_ev, (urged_kept _ c i w).part .bclk (by decide)]
      exact bclk_goto s0 e
    · rw [chan_raise, chan_ev]
      unfold State.urged
      rw [req_updArbReq, if_pos rfl]
  · beta_reduce
    rw [crownEmerg_of_emerg hemerg hreach]
    have hrev : ((s.goto (e + 1)).trainRevoked r.loc.ch).bclk = (s.goto (e + 1)).bclk := (trainRevoked_kept _ _).part .bclk (by decide)
    obtain ⟨hbclk, hnone, hegnt, hlast⟩ := crownGranted_gives ((s.goto (e + 1)).trainRevoked r.loc.ch) r (max (((s.goto (e + 1)).trainRevoked
      r.loc.ch).bclk + 1) ((s.goto (e + 1)).lastFlit r.loc.ch (s.goto (e + 1)).bclk + 1))
    refine ⟨hbclk.trans (hrev.trans (bclk_goto s _)), hnone, hlast, _, hegnt, ?_⟩
    rw [hbclk]
    exact Nat.lt_of_succ_le (Nat.le_max_left _ _)

end Sys2Proof.Machine
end

section
/-! Mode-register reads, the sideband and presence (R280, R287, R290, R296, R297, R399, R656, R952). -/
namespace Sys2Proof.Machine

theorem exec_prsntChange (s : State) (c : Fin 17) (level : Presence) : exec (.prsntChange c level) s = .next (s.prsntChange c level) := rfl
theorem exec_mr4Read (s : State) (c : Fin 17) (sc : Fin 2) (asks : Nat) : exec (.mr4Read c sc asks) s = .next (s.mr4Read c sc asks) := rfl
theorem exec_ecsRead (s : State) (c : Fin 17) (sc : Fin 2) (count dev bg ba row : Nat) :
    exec (.ecsRead c sc count dev bg ba row) s = .next (s.ecsRead c sc count dev bg ba row) := rfl
theorem exec_sbTxnDone (s : State) (c : Fin 17) (r : SbResult) : exec (.sidebandTransactionDone c r) s = .next (s.sbTxnDone c r) := rfl
theorem exec_sidebandPoll (s : State) (c : Fin 17) (phy : BitVec 8) : exec (.sidebandPoll c phy) s = .next (s.sbPoll c phy.toNat) := rfl
theorem exec_inBandInterrupt (s : State) (c : Fin 17) (hid dtype : Nat) : exec (.inBandInterrupt c hid dtype) s = .next (s.sbIbi c hid dtype) := rfl
theorem exec_sidebandTimeout (s : State) (c : Fin 17) : exec (.sidebandTimeout c) s = .next (s.sbTimeout c) := rfl

/-! ### Fields of a packed word -/

theorem testBit_packNat (fs : List (Nat × Nat × Nat)) (k : Nat) :
    (packNat fs).testBit k = fs.any fun f => decide (f.1 ≤ k) && (decide (k - f.1 < f.2.1) && f.2.2.testBit (k - f.1)) := by
  induction fs with
  | nil => exact Nat.zero_testBit k
  | cons f fs ih =>
    obtain ⟨lo, n, v⟩ := f
    rw [List.any_cons, ← ih]
    change ((v % 2 ^ n) <<< lo ||| packNat fs).testBit k = _
    rw [Nat.testBit_or, Nat.testBit_shiftLeft, Nat.testBit_mod_two_pow]

/-- A field of a packed word that no other field overlaps. -/
theorem fld_pack {fs : List (Nat × Nat × Nat)} {lo n v : Nat} (hmem : (lo, n, v) ∈ fs) (hfit : lo + n ≤ 32)
    (hothers : ∀ f ∈ fs, f = (lo, n, v) ∨ f.1 + f.2.1 ≤ lo ∨ lo + n ≤ f.1) : fld (pack fs) lo n = v % 2 ^ n := by
  unfold fld bits pack
  refine Nat.eq_of_testBit_eq fun i => ?_
  rw [Nat.testBit_mod_two_pow, Nat.testBit_mod_two_pow]
  by_cases hi : i < n
  · rw [Nat.testBit_shiftRight, BitVec.toNat_ofNat, Nat.testBit_mod_two_pow, testBit_packNat, decide_eq_true (by omega : lo + i < 32), Bool.true_and]
    refine congrArg _ (Bool.eq_iff_iff.mpr ⟨fun h => ?_, fun h => ?_⟩)
    · obtain ⟨f, hf, hbit⟩ := List.any_eq_true.mp h
      simp only [Bool.and_eq_true, decide_eq_true_eq] at hbit
      obtain ⟨hlo, hn, hv⟩ := hbit
      rcases hothers f hf with rfl | hbelow | habove
      · rwa [Nat.add_sub_cancel_left] at hv
      · omega
      · omega
    · refine List.any_eq_true.mpr ⟨_, hmem, ?_⟩
      dsimp only
      rw [Nat.add_sub_cancel_left, decide_eq_true (Nat.le_add_right lo i), decide_eq_true hi, h]
      rfl
  · rw [decide_eq_false hi, Bool.false_and, Bool.false_and]

/-- The entry of an ECS count in the error log (R656). -/
theorem ecsEnt_fields (l : Loc) (dev src itag gen count frame : Nat) (marked : Bool) :
    fld (logEnt 8 l 0 dev 0 src itag gen count marked frame).w0 1 5 = 8 ∧
      fld (logEnt 8 l 0 dev 0 src itag gen count marked frame).w2 20 8 = count % 256 := by
  unfold logEnt
  exact ⟨fld_pack (v := 8) (by simp) (by decide) (by simp), fld_pack (by simp) (by decide) (by simp)⟩

/-! ### Readings are staged (R40) -/

/-- A channel with a reading staged. -/
def Chan.staging (ch : Chan) (f : Nat) (r : Reading) : Chan := { ch with staged := ch.staged ++ [(f, r)] }

theorem chan_stage (s : State) (c : Nat) (r : Reading) : (s.stage c r).chan c = (s.chan c).staging s.soonFrame r := State.chan_upd_self s c _

/-- A subchannel whose oldest read of a kind has been answered. -/
def Sub.mrsDone (b : Sub) (kind : Nat) : Sub := { b with mrsRead := eraseFirst (fun x => x.1 == kind) b.mrsRead }

/-- A channel whose sideband has started a transaction in BCLK `b`. -/
def Chan.sbBegun (ch : Chan) (t : SbTxn) (b : Nat) : Chan :=
  { ch with sbQueue := eraseFirst (fun x => x == t) ch.sbQueue, sbTxn := some { t with start := b } }

section
variable {s : State} {c sc : Nat}

theorem mr4Read_of_read {p : Nat} (h : (s.sub c sc).mrsOf 0 = some p) (asks : Nat) : s.mr4Read c sc asks =
    (s.updSub c sc fun b => b.mrsDone 0).stage c (.mr4 p (max 1 (min 3 asks))) := by
  unfold State.mr4Read
  rw [h]
  rfl

theorem ecsRead_of_read {p : Nat} (h : (s.sub c sc).mrsOf 1 = some p) (count dev bg ba row : Nat) : s.ecsRead c sc count dev bg ba row =
    (s.updSub c sc fun b => b.mrsDone 1).stage c (.ecs p count dev bg ba row) := by
  unfold State.ecsRead
  rw [h]
  rfl

/-- A reading that has been made leaves the list of those awaited and is staged. -/
theorem readStaged_gives (s : State) (c sc kind : Nat) (r : Reading) :
    (((s.updSub c sc fun b => b.mrsDone kind).stage c r).chan c).staged = (s.chan c).staged ++ [(s.soonFrame, r)] ∧
      (((s.updSub c sc fun b => b.mrsDone kind).stage c r).sub c sc).mrsRead = eraseFirst (fun x => x.1 == kind) (s.sub c sc).mrsRead := by
  have hsub : ((s.updSub c sc fun b => b.mrsDone kind).stage c r).sub c sc = (s.sub c sc).mrsDone kind :=
    State.sub_upd_self s c sc fun b => b.mrsDone kind
  rw [hsub]
  exact ⟨congrArg Chan.staged (chan_stage _ c r), rfl⟩

/-! ### The sideband -/

theorem sbGo_of_empty (h : (s.chan c).sbQueue = []) : s.sbGo c = s := by
  have hready : s.sbReady c = [] := by
    unfold State.sbReady
    rw [h]
    split <;> rfl
  unfold State.sbGo
  rw [h]
  unfold State.sbStart
  dsimp only
  rw [hready]
  split <;> rfl

/-- The sideband starts a transaction that is not one of CC_I3C_CMD. -/
theorem sbGo_of_next {t : SbTxn} (hfree : (s.chan c).sbTxn = none) (hnext : nextTxn (s.sbReady c) = some t) (hkind : t.kind ≠ 2) :
    (s.sbGo c).chan c = (s.chan c).sbBegun t s.bclk := by
  unfold State.sbGo State.sbStart
  dsimp only
  rw [hfree, hnext]
  dsimp only
  rw [if_neg (c := (none : Option SbTxn).isSome = true) Bool.false_ne_true, if_neg (fun h => hkind h.1), State.chan_upd_self, State.chan_upd_self]
  generalize s.chan c = ch
  rfl

end

/-- A channel whose transaction has ended. -/
def Chan.sbEnded (ch : Chan) : Chan := { ch with sbTxn := none }

/-- A transaction of CC_I3C_CMD has ended (R296, R297). -/
def Chan.sbReplied (ch : Chan) (r : SbResult) : Chan := { ch with sbBusy := false, sbDone := true, sbNack := r == .nack, sbPec := r == .pecErr }

/-- What the end of a transaction gives, before the sideband goes on. -/
def State.sbResult (s : State) (c : Nat) (t : SbTxn) (r : SbResult) : State :=
  let s := s.updChan c Chan.sbEnded
  if t.kind = 2 then
    let s := s.updChan c fun ch => ch.sbReplied r
    match r with
    | .data v => if flag t.cmd 17 then s else s.setReg (.cc c) 0x074 (i3cBytes t.cmd v)
    | _ => s
  else match r with
    | .data v => (s.pollEnded c t).stage c (.dev t.hid t.dtype v)
    | _ => (s.pollEnded c t).pollFails c t 0

section
variable {s : State} {c : Nat} {x : SbTxn}

theorem sbTxnDone_of_txn (h : (s.chan c).sbTxn = some x) (hin : s.bclk ≤ x.start + s.bin.us 100) (r : SbResult) :
    s.sbTxnDone c r = (s.sbResult c x r).sbGo c := by
  unfold State.sbTxnDone
  rw [h]
  exact if_neg (Nat.not_lt.mpr hin)

theorem chan_sbResult_cmd (h : x.kind = 2) (r : SbResult) : (s.sbResult c x r).chan c = (s.chan c).sbEnded.sbReplied r := by
  have hreplied : ((s.updChan c Chan.sbEnded).updChan c fun ch => ch.sbReplied r).chan c = (s.chan c).sbEnded.sbReplied r := by
    rw [State.chan_upd_self, State.chan_upd_self]
  unfold State.sbResult
  rw [if_pos h]
  dsimp only
  split
  · split
    · exact hreplied
    · exact hreplied
  · exact hreplied

theorem reg_sbResult_cmd (h : x.kind = 2) (hread : flag x.cmd 17 = false) (v : Word) :
    (s.sbResult c x (.data v)).reg (.cc c) 0x074 = i3cBytes x.cmd v := by
  unfold State.sbResult
  rw [if_pos h]
  dsimp only
  rw [if_neg (by rw [hread]; exact Bool.false_ne_true), reg_setReg, if_pos rfl]

/-- A channel after one of a device's polls has ended (R290). -/
def Chan.pollOver (ch : Chan) (t : SbTxn) : Chan :=
  if t.kind = 0 then { ch with sbAbandoned := Tbl.set (fun _ => 0) ch.sbAbandoned (devKey t.hid t.dtype) 0 } else ch

theorem chan_pollEnded (s : State) (c : Nat) (t : SbTxn) : (s.pollEnded c t).chan c = (s.chan c).pollOver t := by
  unfold State.pollEnded Chan.pollOver
  split
  · exact State.chan_upd_self s c _
  · rfl

theorem soonFrame_pollEnded (s : State) (c : Nat) (t : SbTxn) : (s.pollEnded c t).soonFrame = s.soonFrame := by
  unfold State.pollEnded
  split <;> rfl

theorem chan_sbResult_data (h : x.kind ≠ 2) (v : Word) : (s.sbResult c x (.data v)).chan c =
    ((s.chan c).sbEnded.pollOver x).staging s.soonFrame (.dev x.hid x.dtype v) := by
  unfold State.sbResult
  rw [if_neg h]
  dsimp only
  rw [chan_stage, chan_pollEnded, soonFrame_pollEnded, State.chan_upd_self]
  rfl

theorem chan_pollFails (s : State) (c : Nat) (t : SbTxn) (run : Nat) : (s.pollFails c t run).chan c =
    if t.kind = 0 then (s.chan c).staging s.soonFrame (.noPoll t.hid t.dtype run) else s.chan c := by
  unfold State.pollFails
  split
  · exact chan_stage s c _
  · rfl

theorem chan_sbResult_fail (h : x.kind ≠ 2) {r : SbResult} (hr : r = .nack ∨ r = .pecErr) : (s.sbResult c x r).chan c =
    if x.kind = 0 then ((s.chan c).sbEnded.pollOver x).staging s.soonFrame (.noPoll x.hid x.dtype 0) else (s.chan c).sbEnded.pollOver x := by
  have hfail : (((s.updChan c Chan.sbEnded).pollEnded c x).pollFails c x 0).chan c =
      if x.kind = 0 then ((s.chan c).sbEnded.pollOver x).staging s.soonFrame (.noPoll x.hid x.dtype 0) else (s.chan c).sbEnded.pollOver x := by
    rw [chan_pollFails, chan_pollEnded, soonFrame_pollEnded, State.chan_upd_self]
    rfl
  unfold State.sbResult
  rw [if_neg h]
  rcases hr with rfl | rfl
  · exact hfail
  · exact hfail

theorem Chan.pollOver_fields (ch : Chan) (t : SbTxn) : (ch.pollOver t).sbTxn = ch.sbTxn ∧ (ch.pollOver t).sbQueue = ch.sbQueue ∧
    (ch.pollOver t).staged = ch.staged ∧ (ch.pollOver t).pollErr = ch.pollErr := by
  unfold Chan.pollOver
  split <;> exact ⟨rfl, rfl, rfl, rfl⟩

end

/-- A channel whose polls have been queued (R287). -/
def Chan.polled (ch : Chan) (frame : Nat) (d : Spd) : Chan :=
  { ch with pollAt := frame + 4096,
            sbQueue := ch.sbQueue.filter (fun t => t.kind != 0) ++ ([dtTs 0, dtTs 1, dtPmic].map fun t => ({ kind := 0, hid := 0, dtype := t } : SbTxn)) ++
              if d.dpc2 then [dtTs 0, dtTs 1, dtPmic].map fun t => ({ kind := 0, hid := 1, dtype := t } : SbTxn) else [] }

theorem sbPoll_of_due {s : State} {c : Nat} (hc : c < 17) {d : Spd} (hspd : (s.chan c).spd = some d) (hprsnt : (s.chan c).prsnt = true)
    (hrun : s.esc.running = true) (hat : (s.chan c).pollAt ≤ s.esc.frame) (phy : Nat) :
    s.sbPoll c phy = ((s.updChan c fun ch => ch.polled s.esc.frame d).stage c (.phy (phy % 256))).sbGo c := by
  unfold State.sbPoll
  dsimp only
  rw [hspd]
  refine if_neg ?_
  rw [hprsnt, hrun]
  rintro (h | h | h | h)
  · omega
  · exact Bool.false_ne_true h
  · exact Bool.false_ne_true h
  · omega

/-- What may start is the queue, while the frames run and the channel's sampling has not been abandoned. -/
theorem sbReady_of_running {s : State} {c : Nat} (hrun : s.esc.running = true) (hlate : s.wasLate 2 c = false) : s.sbReady c = (s.chan c).sbQueue := by
  unfold State.sbReady
  exact if_neg (by rw [hrun, hlate]; decide)

/-- The first of a DIMM's polls starts (R287). -/
theorem sbPoll_gives {s : State} {c : Nat} (hc : c < 17) {d : Spd} (hspd : (s.chan c).spd = some d) (hprsnt : (s.chan c).prsnt = true)
    (hrun : s.esc.running = true) (hat : (s.chan c).pollAt ≤ s.esc.frame) (hlate : s.wasLate 2 c = false) (hfree : (s.chan c).sbTxn = none)
    (hqueue : (s.chan c).sbQueue = []) (phy : Nat) :
    (s.sbPoll c phy).chan c = (((s.chan c).polled s.esc.frame d).staging s.soonFrame (.phy (phy % 256))).sbBegun { kind := 0, hid := 0, dtype := dtTs 0 }
      s.bclk := by
  have hchan : ((s.updChan c fun ch => ch.polled s.esc.frame d).stage c (.phy (phy % 256))).chan c =
      ((s.chan c).polled s.esc.frame d).staging s.soonFrame (.phy (phy % 256)) := by
    rw [chan_stage, State.chan_upd_self]
    rfl
  have hready : ((s.updChan c fun ch => ch.polled s.esc.frame d).stage c (.phy (phy % 256))).sbReady c = ((s.chan c).polled s.esc.frame d).sbQueue := by
    rw [sbReady_of_running (s := (s.updChan c fun ch => ch.polled s.esc.frame d).stage c _) hrun hlate, hchan]
    rfl
  have hnext : nextTxn ((s.chan c).polled s.esc.frame d).sbQueue = some { kind := 0, hid := 0, dtype := dtTs 0 } := by
    unfold Chan.polled
    dsimp only
    rw [hqueue]
    cases d.dpc2 <;> rfl
  rw [sbPoll_of_due hc hspd hprsnt hrun hat, sbGo_of_next (by rw [hchan]; exact hfree) (by rw [hready]; exact hnext) (by decide), hchan]
  rfl

/-! ### In-band interrupts and time-outs (R284, R287, R290) -/

/-- A channel that has received an in-band interrupt. -/
def Chan.interrupted (ch : Chan) (hid dtype : Nat) : Chan :=
  { ch with ibiCnt := wrapAdd 8 ch.ibiCnt 1, sbQueue := ch.sbQueue ++ [{ kind := 1, hid := hid, dtype := dtype }] }

theorem sbIbi_gives {s : State} {c hid dtype : Nat} (hc : c < 17) (hphase : 4 ≤ s.phase) (hi2c : (s.chan c).sbI2c = false) (hhid : hid < 2)
    (hdev : dtype = dtPmic ∨ dtype = dtTs 0 ∨ dtype = dtTs 1) (hrun : s.esc.running = true) (hlate : s.wasLate 2 c = false)
    (hfree : (s.chan c).sbTxn = none) (hqueue : (s.chan c).sbQueue = []) :
    (s.sbIbi c hid dtype).chan c = ((s.chan c).interrupted hid dtype).sbBegun { kind := 1, hid := hid, dtype := dtype } s.bclk := by
  have heq : s.sbIbi c hid dtype = (s.updChan c fun ch => ch.interrupted hid dtype).sbGo c := by
    refine if_neg ?_
    rw [hi2c]
    rintro (h | h | h | h | h)
    · omega
    · omega
    · exact Bool.false_ne_true h
    · omega
    · rcases hdev with rfl | rfl | rfl <;> exact absurd h (by decide)
  have hchan : (s.updChan c fun ch => ch.interrupted hid dtype).chan c = (s.chan c).interrupted hid dtype := State.chan_upd_self s c _
  have hready : (s.updChan c fun ch => ch.interrupted hid dtype).sbReady c = [{ kind := 1, hid := hid, dtype := dtype }] := by
    rw [sbReady_of_running (s := s.updChan c fun ch => ch.interrupted hid dtype) hrun hlate, hchan]
    exact congrArg (· ++ _) hqueue
  rw [heq, sbGo_of_next (by rw [hchan]; exact hfree) (by rw [hready]; rfl) (show (1 : Nat) ≠ 2 by decide), hchan]
  rfl

/-- A channel whose transaction has been abandoned (R290). -/
def Chan.sbTimedOut (ch : Chan) (t : SbTxn) : Chan := { ch with sbTxn := none, sbTmo := true, sbBusy := ch.sbBusy && t.kind != 2 }

/-- The polls of a device that have been abandoned in a row, this one with them. -/
def Chan.abandoned (ch : Chan) (t : SbTxn) : Nat := Tbl.get (fun _ => 0) ch.sbAbandoned (devKey t.hid t.dtype) + 1

/-- A channel that has counted an abandoned poll. -/
def Chan.pollLost (ch : Chan) (t : SbTxn) (n : Nat) : Chan :=
  if t.kind = 0 then { ch with sbAbandoned := Tbl.set (fun _ => 0) ch.sbAbandoned (devKey t.hid t.dtype) (n % 3) } else ch

/-- The state in which a time-out has been counted, before what it stages. -/
def State.sbLost (s : State) (c : Nat) (t : SbTxn) (n : Nat) : State :=
  if t.kind = 0 then s.updChan c fun ch => { ch with sbAbandoned := Tbl.set (fun _ => 0) ch.sbAbandoned (devKey t.hid t.dtype) (n % 3) } else s

theorem chan_sbLost (s : State) (c : Nat) (t : SbTxn) (n : Nat) : (s.sbLost c t n).chan c = (s.chan c).pollLost t n := by
  unfold State.sbLost Chan.pollLost
  split
  · exact State.chan_upd_self s c _
  · rfl

theorem soonFrame_sbLost (s : State) (c : Nat) (t : SbTxn) (n : Nat) : (s.sbLost c t n).soonFrame = s.soonFrame := by
  unfold State.sbLost
  split <;> rfl

section
variable {s : State} {c e : Nat} {x : SbTxn}

theorem sbTimeout_of_txn (h : (s.chan c).sbTxn = some x) (he : e = max s.bclk (x.start + s.bin.us 100)) (hreach : s.canReach e = true) :
    s.sbTimeout c = ((((s.goto e).updChan c fun ch => ch.sbTimedOut x).sbLost c x (((s.goto e).chan c).sbTimedOut x |>.abandoned x)).pollFails c x
      (((s.goto e).chan c).sbTimedOut x |>.abandoned x)).sbGo c := by
  subst he
  unfold State.sbTimeout
  rw [h]
  refine (if_neg (by rw [hreach]; decide)).trans ?_
  rw [← show ((s.goto (max s.bclk (x.start + s.bin.us 100))).updChan c fun ch => ch.sbTimedOut x).chan c = _ from State.chan_upd_self _ c _]
  rfl

/-- The channel after a time-out that has nothing queued behind it. -/
theorem chan_sbTimeout (h : (s.chan c).sbTxn = some x) (hqueue : (s.chan c).sbQueue = []) (he : e = max s.bclk (x.start + s.bin.us 100))
    (hreach : s.canReach e = true) :
    (s.sbTimeout c).bclk = e ∧ (s.sbTimeout c).chan c =
      let y := ((s.goto e).chan c).sbTimedOut x
      if x.kind = 0 then (y.pollLost x (y.abandoned x)).staging (s.goto e).soonFrame (.noPoll x.hid x.dtype (y.abandoned x))
      else y.pollLost x (y.abandoned x) := by
  have hpass := Passing.goto s e
  have hchan : ((((s.goto e).updChan c fun ch => ch.sbTimedOut x).sbLost c x (((s.goto e).chan c).sbTimedOut x |>.abandoned x)).pollFails c x
      (((s.goto e).chan c).sbTimedOut x |>.abandoned x)).chan c = _ := chan_pollFails _ c x _
  rw [chan_sbLost, soonFrame_sbLost, State.chan_upd_self] at hchan
  have hq : ∀ n, ((((s.goto e).chan c).sbTimedOut x).pollLost x n).sbQueue = [] := by
    intro n
    have hgoto : ((s.goto e).chan c).sbQueue = [] := (hpass.chanField Chan.sbQueue (fun _ => rfl) c).trans hqueue
    unfold Chan.pollLost
    split
    · exact hgoto
    · exact hgoto
  have hempty : (((((s.goto e).updChan c fun ch => ch.sbTimedOut x).sbLost c x (((s.goto e).chan c).sbTimedOut x |>.abandoned x)).pollFails c x
      (((s.goto e).chan c).sbTimedOut x |>.abandoned x)).chan c).sbQueue = [] := by
    rw [hchan]
    split
    · exact hq _
    · exact hq _
  rw [sbTimeout_of_txn h he hreach, sbGo_of_empty hempty]
  refine ⟨?_, hchan⟩
  have hlost : ∀ (u : State) n, (u.sbLost c x n).bclk = u.bclk := by
    intro u n
    unfold State.sbLost
    split <;> rfl
  rw [(State.pollFails_kept (Within.self _) (Kept.refl _ _) c x _).part .bclk (by decide), hlost, he]
  exact (bclk_goto s _).trans (Nat.max_eq_right (Nat.le_max_left _ _))

end

/-! ### Readings take effect (R280, R287, R399, R401, R431, R656) -/

/-- A channel with an event noted (R401). -/
def Chan.noted (ch : Chan) (n : Nat) (at_ : Option Nat) : Chan := { ch with events := Nat.lor ch.events (2 ^ n), evtAt := at_ }

/-- An event calls for a takeover of its channel (R862). -/
def State.eventCalls (s : State) (c n : Nat) : Bool :=
  flag (s.reg (.cc c) 0x040) n && (s.task.kind == 0 || s.task.kind == 3 || s.task.kind == 5)

theorem chan_chanEvent (s : State) (c n : Nat) : ∃ a, (s.chanEvent c n).chan c = (s.chan c).noted n a := by
  have heq : (s.chanEvent c n).chan c = (s.updChan c fun ch => ch.noted n (if s.eventCalls c n then some s.bclk else ch.evtAt)).chan c := rfl
  rw [heq, State.chan_upd_self]
  exact ⟨_, rfl⟩

theorem Chan.testBit_noted (ch : Chan) (n : Nat) (a : Option Nat) : (ch.noted n a).events.testBit n = true := by
  unfold Chan.noted
  exact (Nat.testBit_or _ _ n).trans (by rw [Nat.testBit_two_pow_self, Bool.or_true])

/-- What an operation of channel `c` keeps where it keeps a field of the channel. -/
theorem staged_updBal (s : State) (c : Nat) (f : Bal → Bal) : ((s.updBal c f).chan c).staged = (s.chan c).staged := by
  rw [chan_updBal]

theorem staged_chanEvent (s : State) (c n : Nat) : ((s.chanEvent c n).chan c).staged = (s.chan c).staged := by
  obtain ⟨a, ha⟩ := chan_chanEvent s c n
  rw [ha]
  rfl

theorem staged_rejectCount (s : State) (c reason : Nat) : ((s.rejectCount c reason).chan c).staged = (s.chan c).staged := by
  unfold State.rejectCount
  dsimp only
  rw [chan_ev, staged_updBal]

theorem staged_reject (s : State) (c p i reason : Nat) : ((s.reject c p i reason).chan c).staged = (s.chan c).staged := by
  have hcount := staged_rejectCount s c reason
  unfold State.reject
  dsimp only
  generalize s.rejectCount c reason = u at hcount ⊢
  split
  · split
    · exact (staged_updBal u c _).trans hcount
    · split
      · rw [staged_chanEvent, chan_raise, chan_raise, staged_updBal, hcount]
      · rw [chan_raise, staged_updBal, hcount]
  · exact hcount

theorem staged_stageTarget (s : State) (c kind p i : Nat) (v : Int) : ((s.stageTarget c kind p i v).chan c).staged = (s.chan c).staged := by
  unfold State.stageTarget
  dsimp only
  split
  · exact (staged_updBal _ c _).trans (staged_updBal s c _)
  · exact staged_reject s c p i 5

theorem staged_stopResults (s : State) (c p : Nat) (grid osc : List Nat) : ((s.stopResults c p grid osc).chan c).staged = (s.chan c).staged := by
  unfold State.stopResults
  dsimp only
  refine (foldl_keeps (fun u : State => (u.chan c).staged) (fun u i => ?_) _ _).trans (staged_updBal s c _)
  have hrest : ∀ (v : State) (q : Prop) [Decidable q] (k : Nat) (x : Int), (v.chan c).staged = (u.chan c).staged →
      ((if q then v.reject c p i 7 else v.stageTarget c k p i x).chan c).staged = (u.chan c).staged := by
    intro v q _ k x hv
    split
    · exact (staged_reject v c p i 7).trans hv
    · exact (staged_stageTarget v c k p i x).trans hv
  refine hrest _ _ _ _ ?_
  split
  · exact staged_reject u c p i 4
  · exact (staged_stageTarget _ c _ _ i _).trans (staged_stageTarget u c _ p i _)

/-- A channel with an entry on its way into the error log (R657). -/
def Chan.logged (ch : Chan) (e : LogEnt) : Chan := { ch with elog := { ch.elog with stage := ch.elog.stage ++ [e] } }

/-- A channel with a rank's ECS count. -/
def Chan.counted (ch : Chan) (p count : Nat) : Chan := { ch with ecs := Tbl.set (fun _ => 0) ch.ecs p count }

theorem chan_log (s : State) (c cls : Nat) (e : LogEnt) : (s.log c cls e).chan c =
    if (s.page (.elog c)).en ∧ (s.page (.elog2 c)).en then (s.chan c).logged e else s.chan c := by
  have hraise : ∀ u : State, (match classBit cls with | some b => u.raise (.elog c) b | none => u).chan c = u.chan c := by
    intro u
    cases classBit cls <;> rfl
  unfold State.log
  refine (hraise _).trans ?_
  split
  · exact State.chan_upd_self s c _
  · rfl

/-- The state in which a rank's ECS count has been taken. -/
def State.ecsCounted (s : State) (c p count : Nat) : State := s.updChan c fun ch => ch.counted p count

theorem ecsTake_of_le {s : State} {c p count : Nat} (h : count ≤ Tbl.get (fun _ => 0) (s.chan c).ecs p) (dev bg ba row : Nat) :
    s.ecsTake c p count dev bg ba row = s.ecsCounted c p count := if_neg (Nat.not_lt.mpr h)

/-- An increase is logged, in the entry that R656 gives. -/
theorem ecsTake_of_lt {s : State} {c p count : Nat} (h : Tbl.get (fun _ => 0) (s.chan c).ecs p < count) (dev bg ba row : Nat) :
    ∃ l src itag gen marked frame, s.ecsTake c p count dev bg ba row = ({ s.ecsCounted c p count with nextFree := s.nextFree + 1 }).log c 8
      (logEnt 8 l 0 dev 0 src itag gen (min 255 (count - Tbl.get (fun _ => 0) (s.chan c).ecs p)) marked frame) := by
  unfold State.ecsTake
  dsimp only
  rw [if_pos h]
  exact ⟨_, _, _, _, _, _, rfl⟩

theorem chan_ecsCounted (s : State) (c p count : Nat) : (s.ecsCounted c p count).chan c = (s.chan c).counted p count := State.chan_upd_self s c _

theorem staged_ecsTake (s : State) (c p count dev bg ba row : Nat) : ((s.ecsTake c p count dev bg ba row).chan c).staged = (s.chan c).staged := by
  by_cases h : Tbl.get (fun _ => 0) (s.chan c).ecs p < count
  · obtain ⟨l, src, itag, gen, marked, frame, heq⟩ := ecsTake_of_lt h dev bg ba row
    have hchan : ({ s.ecsCounted c p count with nextFree := s.nextFree + 1 } : State).chan c = (s.chan c).counted p count := chan_ecsCounted s c p count
    rw [heq, chan_log, hchan]
    split <;> rfl
  · rw [ecsTake_of_le (Nat.not_lt.mp h), chan_ecsCounted]
    rfl

theorem Chan.staged_take (ch : Chan) (r : Reading) : (ch.take r).staged = ch.staged := by
  cases r with
  | dev hid dtype v =>
    unfold Chan.take
    dsimp only
    split
    · rfl
    split <;> rfl
  | _ => rfl

theorem staged_takeReading (s : State) (c : Nat) (r : Reading) : ((s.takeReading c r).chan c).staged = (s.chan c).staged := by
  have htake : ((s.updChan c fun ch => ch.take r).chan c).staged = (s.chan c).staged := by rw [State.chan_upd_self, Chan.staged_take]
  unfold State.takeReading
  dsimp only
  generalize (s.updChan c fun ch => ch.take r) = u at htake ⊢
  cases r with
  | mr4 p v =>
    dsimp only
    split
    · exact (staged_chanEvent u c 5).trans htake
    · exact htake
  | ecs p count dev bg ba row => exact (staged_ecsTake u c p count dev bg ba row).trans htake
  | dev hid dtype v =>
    dsimp only
    split
    · exact (staged_chanEvent u c 2).trans htake
    · exact htake
  | phy v => exact htake
  | noPoll hid dtype n =>
    dsimp only
    split
    · exact (staged_chanEvent u c 4).trans htake
    · exact htake
  | misread p mask =>
    refine (foldl_keeps (fun v : State => (v.chan c).staged) (fun v i => ?_) _ _).trans htake
    split
    · exact staged_reject v c p i 3
    · rfl
  | spoilt reason => exact (staged_rejectCount u c reason).trans htake
  | stop p grid osc =>
    dsimp only
    rw [chan_raise, staged_updBal, staged_stopResults, htake]

theorem staged_sampleTick (s : State) (c : Nat) :
    ((s.sampleTick c).chan c).staged = (s.chan c).staged.filter fun x => decide (s.esc.frame < x.1) := by
  unfold State.sampleTick
  dsimp only
  refine (foldl_keeps (fun u : State => (u.chan c).staged) (fun u r => staged_takeReading u c r) _ _).trans ?_
  exact congrArg Chan.staged (State.chan_upd_self s c _)

/-! ### What each reading gives -/

section
variable (s : State) (c : Nat)

/-- A reading that may call for a channel event leaves the channel as it takes it, the event apart. -/
theorem chan_eventIf (u : State) (q : Prop) [Decidable q] (n : Nat) :
    ∃ x, (if q then u.chanEvent c n else u).chan c = x ∧ (x = u.chan c ∨ ∃ a, x = (u.chan c).noted n a) ∧ (q → x.events.testBit n = true) := by
  obtain ⟨a, ha⟩ := chan_chanEvent u c n
  by_cases h : q
  · rw [if_pos h]
    exact ⟨_, ha, .inr ⟨a, rfl⟩, fun _ => Chan.testBit_noted _ n a⟩
  · rw [if_neg h]
    exact ⟨_, rfl, .inl rfl, fun hq => absurd hq h⟩

/-- A field of a channel that no event changes. -/
theorem field_of_noted {α : Type} (f : Chan → α) (hf : ∀ ch n a, f (Chan.noted ch n a) = f ch) {x ch : Chan} {n : Nat}
    (h : x = ch ∨ ∃ a, x = ch.noted n a) : f x = f ch := by
  rcases h with rfl | ⟨a, rfl⟩
  · rfl
  · exact hf ch n a

theorem takeReading_mr4 (p v : Nat) : Tbl.get (fun _ => 0) ((s.takeReading c (.mr4 p v)).chan c).mr4 p = v ∧
    ((s.takeReading c (.mr4 p v)).chan c).tooHot = ((s.chan c).tooHot || v == 3) ∧
    (v = 3 → ((s.takeReading c (.mr4 p v)).chan c).events.testBit 5 = true) := by
  obtain ⟨x, hx, hor, hevent⟩ := chan_eventIf c (s.updChan c fun ch => ch.take (.mr4 p v)) (v = 3) 5
  have ht : (s.takeReading c (.mr4 p v)).chan c = x := hx
  rw [State.chan_upd_self] at hor
  rw [ht, field_of_noted Chan.mr4 (fun _ _ _ => rfl) hor, field_of_noted Chan.tooHot (fun _ _ _ => rfl) hor]
  exact ⟨Tbl.get_set_self _ _ _ _, rfl, hevent⟩

theorem takeReading_dev (hid dtype : Nat) (w : Word) :
    (dtype ≠ dtPmic → Tbl.get (fun _ => 0) ((s.takeReading c (.dev hid dtype w)).chan c).tsRaw (2 * hid + b2n (dtype == dtTs 1)) = fld w 0 8) ∧
      (dtype = dtPmic → ((s.takeReading c (.dev hid dtype w)).chan c).tsRaw = (s.chan c).tsRaw ∧
        (w ≠ 0 → ((s.takeReading c (.dev hid dtype w)).chan c).events.testBit 2 = true)) := by
  obtain ⟨x, hx, hor, hevent⟩ := chan_eventIf c (s.updChan c fun ch => ch.take (.dev hid dtype w)) (dtype = dtPmic ∧ w ≠ 0) 2
  have ht : (s.takeReading c (.dev hid dtype w)).chan c = x := hx
  rw [State.chan_upd_self] at hor
  rw [ht, field_of_noted Chan.tsRaw (fun _ _ _ => rfl) hor]
  refine ⟨fun hne => ?_, fun he => ⟨?_, fun hw => hevent ⟨he, hw⟩⟩⟩
  · have hraw : ((s.chan c).take (.dev hid dtype w)).tsRaw = Tbl.set (fun _ => 0) (s.chan c).tsRaw (2 * hid + b2n (dtype == dtTs 1)) (fld w 0 8) := by
      unfold Chan.take
      dsimp only
      rw [if_neg hne]
      split <;> rfl
    rw [hraw]
    exact Tbl.get_set_self _ _ _ _
  · unfold Chan.take
    dsimp only
    rw [if_pos he]

theorem takeReading_noPoll (hid dtype n : Nat) :
    ((s.takeReading c (.noPoll hid dtype n)).chan c).pollErr = satAdd 255 (s.chan c).pollErr 1 ∧
      ((s.takeReading c (.noPoll hid dtype n)).chan c).tsRaw = (s.chan c).tsRaw ∧
      (n = 3 → ((s.takeReading c (.noPoll hid dtype n)).chan c).events.testBit 4 = true) := by
  obtain ⟨x, hx, hor, hevent⟩ := chan_eventIf c (s.updChan c fun ch => ch.take (.noPoll hid dtype n)) (n = 3) 4
  have ht : (s.takeReading c (.noPoll hid dtype n)).chan c = x := hx
  rw [State.chan_upd_self] at hor
  rw [ht, field_of_noted Chan.pollErr (fun _ _ _ => rfl) hor, field_of_noted Chan.tsRaw (fun _ _ _ => rfl) hor]
  exact ⟨rfl, rfl, hevent⟩

/-- The state in which an ECS reading is taken: the channel takes nothing from it before its count is set. -/
theorem takeReading_ecs (p count dev bg ba row : Nat) : let t := s.takeReading c (.ecs p count dev bg ba row)
    let was := Tbl.get (fun _ => 0) (s.chan c).ecs p
    Tbl.get (fun _ => 0) (t.chan c).ecs p = count ∧ (count ≤ was → (t.chan c).elog = (s.chan c).elog ∧ t.nextFree = s.nextFree) ∧
      (was < count → (s.page (.elog c)).en = true → (s.page (.elog2 c)).en = true → ∃ e, (t.chan c).elog.stage = (s.chan c).elog.stage ++ [e] ∧
        fld e.w0 1 5 = 8 ∧ fld e.w2 20 8 = min 255 (count - was) ∧ flag (t.page (.elog c)).isr 5 = true) := by
  intro t was
  have ht : t = (s.updChan c fun ch => ch).ecsTake c p count dev bg ba row := rfl
  have hu : (s.updChan c fun ch => ch).chan c = s.chan c := State.chan_upd_self s c _
  have hpage : ∀ q, (s.updChan c fun ch => ch).page q = s.page q := fun _ => rfl
  have hfree : (s.updChan c fun ch => ch).nextFree = s.nextFree := rfl
  rw [ht]
  generalize (s.updChan c fun ch => ch) = u at hu hpage hfree
  have hset : Tbl.get (fun _ => 0) ((s.chan c).counted p count).ecs p = count := Tbl.get_set_self _ _ _ _
  by_cases h : was < count
  · obtain ⟨l, src, itag, gen, marked, frame, heq⟩ := ecsTake_of_lt (s := u) (c := c) (by rw [hu]; exact h) dev bg ba row
    have hchan : ({ u.ecsCounted c p count with nextFree := u.nextFree + 1 } : State).chan c = (s.chan c).counted p count :=
      (chan_ecsCounted u c p count).trans (by rw [hu])
    have hpg : ∀ q, ({ u.ecsCounted c p count with nextFree := u.nextFree + 1 } : State).page q = s.page q := hpage
    rw [heq, hu, chan_log, hchan, hpg, hpg]
    generalize ({ u.ecsCounted c p count with nextFree := u.nextFree + 1 } : State) = v
    refine ⟨?_, fun hle => absurd h (Nat.not_lt.mpr hle), fun _ hen hen2 => ?_⟩
    · split
      · exact hset
      · exact hset
    · rw [if_pos ⟨hen, hen2⟩]
      obtain ⟨hcls, hcount⟩ := ecsEnt_fields l dev src itag gen (min 255 (count - was)) frame marked
      refine ⟨_, rfl, hcls, hcount.trans (Nat.mod_eq_of_lt (by omega)), ?_⟩
      exact flag_raise _ (.elog c) (by decide)
  · have hle : count ≤ was := Nat.not_lt.mp h
    rw [ecsTake_of_le (by rw [hu]; exact hle), chan_ecsCounted, hu]
    exact ⟨hset, fun _ => ⟨rfl, hfree⟩, fun hlt => absurd hlt h⟩

end

theorem length_polled {ch : Chan} (h : ch.sbQueue = []) (frame : Nat) (d : Spd) :
    (eraseFirst (fun x => x == ({ kind := 0, hid := 0, dtype := dtTs 0 } : SbTxn)) (ch.polled frame d).sbQueue).length = if d.dpc2 = true then 5 else 2 := by
  unfold Chan.polled
  dsimp only
  rw [h]
  cases d.dpc2 <;> rfl

theorem sbQueue_interrupted {ch : Chan} (h : ch.sbQueue = []) (hid dtype : Nat) :
    eraseFirst (fun x => x == ({ kind := 1, hid := hid, dtype := dtype } : SbTxn)) (ch.interrupted hid dtype).sbQueue = [] := by
  unfold Chan.interrupted
  dsimp only
  rw [h]
  exact if_pos (beq_self_eq_true ({ kind := 1, hid := hid, dtype := dtype } : SbTxn))

/-- A channel after an abandoned poll, or after another transaction abandoned (R290). -/
theorem timedOut_fields (ch : Chan) (x : SbTxn) : let y := (ch.sbTimedOut x).pollLost x (ch.abandoned x)
    y.sbTxn = none ∧ y.sbTmo = true ∧ y.sbBusy = (ch.sbBusy && x.kind != 2) ∧ y.pollErr = ch.pollErr ∧ y.staged = ch.staged ∧
      (x.kind = 0 → Tbl.get (fun _ => 0) y.sbAbandoned (devKey x.hid x.dtype) = ch.abandoned x % 3) ∧
      (x.kind ≠ 0 → y.sbAbandoned = ch.sbAbandoned) := by
  intro y
  by_cases h : x.kind = 0
  · have hy : y = { ch.sbTimedOut x with sbAbandoned := Tbl.set (fun _ => 0) ch.sbAbandoned (devKey x.hid x.dtype) (ch.abandoned x % 3) } := if_pos h
    rw [hy]
    exact ⟨rfl, rfl, rfl, rfl, rfl, fun _ => Tbl.get_set_self _ _ _ _, fun hne => absurd h hne⟩
  · have hy : y = ch.sbTimedOut x := if_neg h
    rw [hy]
    exact ⟨rfl, rfl, rfl, rfl, rfl, fun he => absurd he h, fun _ => rfl⟩

/-- PRSNT_N as a channel takes it (R952, R956). -/
def Chan.present (ch : Chan) (level : Presence) : Chan :=
  match level with
  | .high => { ch with prsnt := false }
  | .low ok => { ch with prsnt := true, supplies := if ch.prsnt then ch.supplies else ok }

theorem prsntChange_eq {s : State} {c : Nat} (hc : c < 17) (level : Presence) : s.prsntChange c level = s.updChan c fun ch => ch.present level := by
  refine (if_neg (Nat.not_le.mpr hc)).trans ?_
  cases level <;> rfl

/-- Settles O49: what a command stages is read off the channel it leaves, what a reading gives off `takeReading`. -/
theorem modulesAreRead : Obligations.ModulesAreRead := by
  unfold Obligations.ModulesAreRead
  refine ⟨fun s c => ?_, fun s c => ?_⟩
  · intro ch D
    refine ⟨fun level => ⟨_, exec_prsntChange s c level, ?_⟩, fun sc asks p h => ⟨_, exec_mr4Read s c sc asks, ?_⟩,
      fun sc count dev bg ba row p h => ⟨_, exec_ecsRead s c sc count dev bg ba row, ?_⟩, fun x r htxn hqueue hin =>
        ⟨fun hkind => ⟨_, exec_sbTxnDone s c r, ?_⟩, fun hkind v hr => ⟨_, exec_sbTxnDone s c r, ?_⟩, fun hkind hr => ⟨_, exec_sbTxnDone s c r, ?_⟩⟩,
      fun phy d hspd hprsnt hrun hat hlate hfree hqueue => ⟨_, exec_sidebandPoll s c phy, ?_⟩,
      fun hid dtype hphase hi2c hhid hdev hrun hlate hfree hqueue => ⟨_, exec_inBandInterrupt s c hid dtype, ?_⟩, fun x htxn hqueue => ?_⟩
    · beta_reduce
      rw [prsntChange_eq c.isLt, State.chan_upd_self]
      refine ⟨fun k hk => State.chan_upd_ne s hk _, ?_, ?_⟩
      · rintro rfl
        rfl
      · rintro ok rfl
        rfl
    · beta_reduce
      rw [mr4Read_of_read h]
      exact readStaged_gives s c sc 0 _
    · beta_reduce
      rw [ecsRead_of_read h]
      exact readStaged_gives s c sc 1 _
    · have hchan := chan_sbResult_cmd (s := s) (c := c) hkind r
      have hempty : ((s.sbResult c x r).chan c).sbQueue = [] := by
        rw [hchan]
        exact hqueue
      beta_reduce
      rw [sbTxnDone_of_txn htxn hin, sbGo_of_empty hempty, hchan]
      refine ⟨rfl, rfl, rfl, rfl, rfl, rfl, ?_⟩
      rintro v rfl hread
      exact reg_sbResult_cmd hkind hread v
    · subst hr
      have hchan := chan_sbResult_data (s := s) (c := c) hkind v
      obtain ⟨hnone, hq, hst, -⟩ := (s.chan c).sbEnded.pollOver_fields x
      have hempty : ((s.sbResult c x (.data v)).chan c).sbQueue = [] := by
        rw [hchan]
        exact hq.trans hqueue
      rw [sbTxnDone_of_txn htxn hin, sbGo_of_empty hempty, hchan]
      exact ⟨hnone, congrArg (· ++ _) hst⟩
    · have hchan := chan_sbResult_fail (s := s) (c := c) hkind hr
      obtain ⟨hnone, hq, hst, herr⟩ := (s.chan c).sbEnded.pollOver_fields x
      have hempty : ((s.sbResult c x r).chan c).sbQueue = [] := by
        rw [hchan]
        split
        · exact hq.trans hqueue
        · exact hq.trans hqueue
      beta_reduce
      rw [sbTxnDone_of_txn htxn hin, sbGo_of_empty hempty, hchan]
      split
      · exact ⟨hnone, herr, congrArg (· ++ _) hst⟩
      · exact ⟨hnone, herr, hst.trans (List.append_nil _).symm⟩
    · beta_reduce
      rw [sbPoll_gives c.isLt hspd hprsnt hrun hat hlate hfree hqueue, Nat.mod_eq_of_lt phy.isLt]
      exact ⟨rfl, rfl, rfl, length_polled hqueue s.esc.frame d⟩
    · beta_reduce
      rw [sbIbi_gives c.isLt hphase hi2c hhid hdev hrun hlate hfree hqueue]
      exact ⟨rfl, sbQueue_interrupted hqueue hid dtype, rfl⟩
    · intro e hreach
      refine ⟨_, exec_sidebandTimeout s c, ?_⟩
      obtain ⟨hbclk, hchan⟩ := chan_sbTimeout htxn hqueue rfl hreach
      have hpass := Passing.goto s e
      obtain ⟨hnone, htmo, hbusy, herr, hst, hlost, hother⟩ := timedOut_fields ((s.goto e).chan c) x
      refine ⟨hbclk, ?_⟩
      have hbusy' : ((s.goto e).chan c).sbBusy = ch.sbBusy := hpass.chanField Chan.sbBusy (fun _ => rfl) c
      have herr' : ((s.goto e).chan c).pollErr = ch.pollErr := hpass.chanField Chan.pollErr (fun _ => rfl) c
      have hst' : ((s.goto e).chan c).staged = ch.staged := hpass.chanField Chan.staged (fun _ => rfl) c
      have hab : ((s.goto e).chan c).sbAbandoned = ch.sbAbandoned := hpass.chanField Chan.sbAbandoned (fun _ => rfl) c
      have hn : ((s.goto e).chan c).abandoned x = Tbl.get (fun _ => 0) ch.sbAbandoned (devKey x.hid x.dtype) + 1 := by
        unfold Chan.abandoned
        rw [hab]
      have hn' : (((s.goto e).chan c).sbTimedOut x).abandoned x = ((s.goto e).chan c).abandoned x := rfl
      rw [hbusy'] at hbusy
      rw [herr'] at herr
      rw [hst'] at hst
      rw [hn] at hlost
      rw [hab] at hother
      rw [hchan]
      dsimp only
      rw [hn', ← hn]
      rw [← hn] at hlost
      generalize (((s.goto e).chan c).sbTimedOut x).pollLost x (((s.goto e).chan c).abandoned x) = y at *
      by_cases hkind : x.kind = 0
      · rw [if_pos hkind, if_pos hkind]
        exact ⟨hnone, htmo, hbusy, herr, hlost hkind, congrArg (· ++ _) hst⟩
      · rw [if_neg hkind, if_neg hkind]
        exact ⟨hnone, htmo, hbusy, herr, hother hkind, hst⟩
  · intro old
    refine ⟨staged_sampleTick s c, fun r => ?_⟩
    intro t
    refine ⟨?_, ?_, ?_, ?_, ?_⟩
    · rintro p v rfl
      exact takeReading_mr4 s c p v
    · rintro p count dev bg ba row rfl
      exact takeReading_ecs s c p count dev bg ba row
    · rintro hid dtype w rfl
      exact takeReading_dev s c hid dtype w
    · rintro hid dtype n rfl
      exact takeReading_noPoll s c hid dtype n
    · rintro v rfl
      exact congrArg Chan.tsPhy (State.chan_upd_self s c fun ch => ch.take (.phy v))

end Sys2Proof.Machine
end

section
/-! Alerts and the write buffer (R276 to R278, R362, R372, R375, R377). -/
namespace Sys2Proof.Machine

theorem exec_alertN (s : State) (c : Fin 17) (sc : Fin 2) (k : AlertKind) :
    exec (.alertN c sc k) s = .next ((s.alertN c sc k).calParity c sc k) := rfl
theorem exec_alertWindowClose (s : State) (c : Fin 17) (sc : Fin 2) : exec (.alertWindowClose c sc) s = .next (s.alertWindowClose c sc) := rfl

/-- The alert's window: its first slot, and the slot of the alert (R277). -/
def State.alertSpan (s : State) (c sc : Nat) : Pos × Pos :=
  let b := s.sub c sc
  let here := s.posAt s.bclk
  let from0 := s.posAt (s.bclk - min s.bclk (32 * s.k))
  let from1 : Pos := if s.bclk < s.esc.tickBclk + 32 * s.k then
      let back := 32 - s.slotNow
      { frame := s.esc.frame - 1, slot := s.fsAt (s.esc.frame - 1) - back }
    else from0
  match b.alert with
  | some a => if !b.alertDone ∧ Pos.lt from1 a.to_ then (a.from_, here) else (from1, here)
  | none => (from1, here)

/-- The state in which an alert's window has been opened and Balance interrupted (R277). -/
def State.alertOpened (s : State) (c sc : Nat) (k : AlertKind) : State :=
  let w := s.alertSpan c sc
  let s := s.ev { box := c, code := 0x1F, qual := .is 3 (alertCode k) }
  let s := s.updSub c sc fun b => { b with alert := some { from_ := w.1, to_ := w.2, kind := k } }
  (s.rankPositions c).foldl (fun s p => if p / 4 = sc then s.balInterrupt c p else s) s

/-- What an alert of a kind does once its window is open (R276, R375, R962). -/
def State.alertActs (v s : State) (c sc : Nat) (k : AlertKind) : State :=
  let b := s.sub c sc
  let win := s.alertSpan c sc
  match k with
  | .backOff rk n fr =>
    v.updSub c sc fun b => { b with mits := b.mits ++ List.replicate n { rk := rk, deadline := v.esc.frame + fr } }
  | .writeCrc =>
    (b.wb.filter fun w => !w.retry && !w.final && !w.closed &&
        (match w.slot with | some p => Pos.le win.1 p && Pos.lt p win.2 | none => false)).foldl
      (fun s w => s.nameWrite c sc w false) v
  | _ =>
    let s := (b.wb.filter fun w => !w.retry && !w.final && !w.closed &&
        w.slot.isSome && v.cmdIn w.cmds win.1 win.2).foldl
      (fun s w => s.nameWrite c sc w true) v
    let s := (b.served.filter fun x => !x.named && !x.req.write && s.cmdIn x.cmds win.1 win.2).foldl
      (fun s v => s.nameRead c sc v) s
    s.caParityCount c sc

theorem alertN_of_running {s : State} (h : s.esc.running = true) (c sc : Nat) (k : AlertKind) :
    s.alertN c sc k = (s.alertOpened c sc k).alertActs s c sc k := by
  unfold State.alertN
  rw [if_neg (by rw [h]; decide)]
  cases k <;> rfl

/-- The first slot of an alert's window, where no window is open (R277). -/
def State.alertFrom (s : State) : Pos :=
  if s.bclk < s.esc.tickBclk + 32 * s.k then
    { frame := s.esc.frame - 1, slot := s.fsAt (s.esc.frame - 1) - (32 - s.slotNow) }
  else s.posAt (s.bclk - min s.bclk (32 * s.k))

/-- The subchannel with the window of a write closed (R362). -/
def Sub.closing (b : Sub) (w : WLine) : Sub :=
  { b with wb := replaceFirst (fun x => x.sn == w.sn) (fun x => { x with closed := true }) b.wb }

/-- A step of a run that is tried again (R554). -/
def State.calTriedAgain (s : State) (c : Nat) : State := s.updCal c fun x => { x with tries := x.tries + 1, progAt := s.bclk }

/-! ### What the operations of an alert leave of a subchannel -/

/-- What every operation of an alert but the naming of writes leaves of its subchannel. -/
def Sub.alerted (b : Sub) : Option AlertWin × List Mitig × List WLine := (b.alert, b.mits, b.wb)

section
variable (s : State) (c sc : Nat)

theorem alerted_discard : ((s.discard c sc none).sub c sc).alerted = (s.sub c sc).alerted := by
  have hraise : ∀ (u : State) (b : Bool), (u.raiseIf b (.cnt c) 9).sub c sc = u.sub c sc := by
    intro u b
    cases b <;> rfl
  unfold State.discard
  dsimp only
  rw [sub_ev, hraise, State.sub_upd_self]
  rfl

theorem sub_log (cls : Nat) (e : LogEnt) (d dc : Nat) : (s.log c cls e).sub d dc = s.sub d dc :=
  sub_of_subs ((State.log_kept (Within.self _) (Kept.refl _ s) c cls e).part .subs (by decide)) d dc

/-- A write named for retry (R375). -/
def WLine.named (x : WLine) (b sn : Nat) (ca : Bool) (last : Bool) : WLine :=
  { x with retry := true, retryAt := b, moved := none, capar := ca, final := last, finalSn := sn }

theorem alerted_nameWrite (w : WLine) (ca : Bool) : ((s.nameWrite c sc w ca).sub c sc).alerted =
    ((s.sub c sc).alert, (s.sub c sc).mits,
      replaceFirst (fun x => x.sn == w.sn) (fun x => x.named s.bclk s.nextSn ca (decide (4 ≤ w.attempts))) (s.sub c sc).wb) := by
  have hupd : ∀ f : Sub → Sub, ∀ q : Prop, ∀ [Decidable q], (((if q then s.updSub c sc f else (s.updSub c sc f).discard c sc none).sub c sc).alerted) =
      (f (s.sub c sc)).alerted := by
    intro f q _
    split
    · rw [State.sub_upd_self]
    · rw [alerted_discard, State.sub_upd_self]
  unfold State.nameWrite
  dsimp only
  split
  · rw [sub_raise, sub_log]
    exact hupd _ _
  · exact hupd _ _

omit s c sc in
/-- What both ways of a choice keep, the choice keeps. -/
theorem of_ite {α β : Type} {g : α → β} {v : β} {p : Prop} [Decidable p] {x y : α} (hx : g x = v) (hy : g y = v) :
    g (if p then x else y) = v := by
  split
  · exact hx
  · exact hy

/-- An update of a subchannel that keeps its alert keeps every subchannel's. -/
theorem alert_updSub {f : Sub → Sub} (hf : ∀ b, (f b).alert = b.alert) (d e : Nat) :
    ((s.updSub c sc f).sub d e).alert = (s.sub d e).alert := by
  by_cases h : 2 * d + e = 2 * c + sc
  · have hto : ∀ u : State, u.sub d e = u.sub c sc := fun u => congrArg (Tbl.get (fun _ => ({} : Sub)) u.subs) h
    rw [hto, hto, State.sub_upd_self]
    exact hf _
  · exact congrArg Sub.alert (State.sub_upd_ne _ h f)

theorem alert_nameRead (v : Served) (d e : Nat) : ((s.nameRead c sc v).sub d e).alert = (s.sub d e).alert := by
  unfold State.nameRead
  dsimp only
  rw [sub_log]
  apply alert_updSub
  exact fun _ => rfl

theorem alert_caParityCount (d e : Nat) : ((s.caParityCount c sc).sub d e).alert = (s.sub d e).alert := by
  unfold State.caParityCount
  dsimp only
  split
  · rw [sub_of_subs ((State.chanEvent_kept (Within.self _) (Kept.refl _ _) c 1).part .subs (by decide)) d e]
    apply alert_updSub
    exact fun _ => rfl
  · apply alert_updSub
    exact fun _ => rfl

theorem alert_calEnd (d e : Nat) : ((s.calEnd c).sub d e).alert = (s.sub d e).alert := by
  unfold State.calEnd
  dsimp only
  rw [sub_of_subs ((State.clearReq_kept (Within.self _) (Kept.refl _ _) c).part .subs (by decide)) d e]
  refine foldl_keeps (fun u : State => (u.sub d e).alert) (fun u i => ?_) _ _
  apply alert_updSub
  exact fun _ => rfl

theorem sub_updCal (v : State) (i : Nat) (f : Cal → Cal) (d e : Nat) : (v.updCal i f).sub d e = v.sub d e := rfl
theorem sub_updChan (v : State) (i : Nat) (f : Chan → Chan) (d e : Nat) : (v.updChan i f).sub d e = v.sub d e := rfl

theorem alert_calFail (step si rk lane reason d e : Nat) :
    ((s.calFail c step si rk lane reason).sub d e).alert = (s.sub d e).alert := by
  unfold State.calFail
  dsimp only
  rw [sub_raise, sub_of_subs ((State.loseLines_kept (Within.self _) (Kept.refl _ _) c false).part .subs (by decide)) d e,
    sub_updChan, sub_updCal]
  exact alert_calEnd s c d e

omit sc in
theorem sub_calTriedAgain (d e : Nat) : (s.calTriedAgain c).sub d e = s.sub d e := rfl

theorem alert_calParity (k : AlertKind) (d e : Nat) : ((s.calParity c sc k).sub d e).alert = (s.sub d e).alert := by
  have heq : s.calParity c sc k =
      if (s.chan c).calState ≠ 2 ∨ (s.cal c).kind ≠ 1 ∨ (s.cal c).step < 6 ∨ 11 < (s.cal c).step ∨ k ≠ .caParity then s
      else if (s.cal c).tries < s.regFld (.cal c) 0x040 14 2 then s.calTriedAgain c
      else s.calFail c (s.cal c).step sc (s.cal c).stepRk 0 5 := rfl
  rw [heq]
  exact of_ite (g := fun u : State => (u.sub d e).alert) rfl (of_ite (g := fun u : State => (u.sub d e).alert)
    (congrArg Sub.alert (sub_calTriedAgain s c d e)) (alert_calFail s c _ _ _ _ _ d e))

theorem calParity_of_ne {k : AlertKind} (h : k ≠ .caParity) : s.calParity c sc k = s :=
  if_pos (.inr (.inr (.inr (.inr h))))

end

/-! ### What an alert does -/

section
variable (s : State) (c sc : Nat) (k : AlertKind)

theorem alerted_alertOpened : ((s.alertOpened c sc k).sub c sc).alerted =
    (some { from_ := (s.alertSpan c sc).1, to_ := (s.alertSpan c sc).2, kind := k }, (s.sub c sc).mits, (s.sub c sc).wb) := by
  unfold State.alertOpened
  dsimp only
  refine (congrArg Sub.alerted (foldl_keeps (fun u : State => u.sub c sc) (fun u p => ?_) _ _)).trans ?_
  · exact of_ite (g := fun u : State => u.sub c sc)
      (sub_of_subs ((State.balInterrupt_kept (Within.self _) (Kept.refl _ u) c p).part .subs (by decide)) c sc) rfl
  · rw [State.sub_upd_self, sub_ev]
    rfl

theorem alertOpened_kept : Kept 0x20620 s (s.alertOpened c sc k) := by
  unfold State.alertOpened
  dsimp only
  refine Kept.foldl (fun u p h => ?_) (State.updSub_kept (Within.of (Within.self _) (by decide)) (State.ev_kept (Within.of (Within.self _) (by decide)) (Kept.refl _ _) _) ..) _
  split
  · exact State.balInterrupt_kept (Within.of (Within.self _) (by decide)) h c p
  · exact h

theorem alert_nameWrites (ca : Bool) (ws : List WLine) :
    ((ws.foldl (fun s w => s.nameWrite c sc w ca) s).sub c sc).alert = (s.sub c sc).alert :=
  foldl_keeps (fun u : State => (u.sub c sc).alert) (fun u w => congrArg Prod.fst (alerted_nameWrite u c sc w ca)) ws s

theorem alert_alertActs (v : State) : ((v.alertActs s c sc k).sub c sc).alert = (v.sub c sc).alert := by
  have hparity : ∀ (ws : List WLine) (f : State → List Served),
      ((((f (ws.foldl (fun s w => s.nameWrite c sc w true) v)).foldl (fun s x => s.nameRead c sc x)
        (ws.foldl (fun s w => s.nameWrite c sc w true) v)).caParityCount c sc).sub c sc).alert = (v.sub c sc).alert := fun ws f =>
    (alert_caParityCount _ c sc c sc).trans ((foldl_keeps (fun u : State => (u.sub c sc).alert)
      (fun u x => alert_nameRead u c sc x c sc) _ _).trans (alert_nameWrites v c sc true ws))
  cases k with
  | writeCrc => exact alert_nameWrites v c sc false _
  | backOff rk n fr =>
    apply alert_updSub
    exact fun _ => rfl
  | caParity => exact hparity _ (fun u => (s.sub c sc).served.filter fun x => !x.named && !x.req.write &&
      u.cmdIn x.cmds (s.alertSpan c sc).1 (s.alertSpan c sc).2)
  | unclassified => exact hparity _ (fun u => (s.sub c sc).served.filter fun x => !x.named && !x.req.write &&
      u.cmdIn x.cmds (s.alertSpan c sc).1 (s.alertSpan c sc).2)

/-- A write CRC alert of a fresh window names the writes of its span (R375). -/
theorem alertSpan_fresh (hal : (s.sub c sc).alert = none) (htick : s.esc.tickBclk + 32 * s.k ≤ s.bclk) :
    s.alertSpan c sc = (s.posAt (s.bclk - 32 * s.k), s.posAt s.bclk) := by
  have hspan : s.alertSpan c sc = match (s.sub c sc).alert with
      | some a => if !(s.sub c sc).alertDone ∧ Pos.lt (s.alertFrom) a.to_ then (a.from_, s.posAt s.bclk) else (s.alertFrom, s.posAt s.bclk)
      | none => (s.alertFrom, s.posAt s.bclk) := rfl
  have hfrom : s.alertFrom = s.posAt (s.bclk - min s.bclk (32 * s.k)) := if_neg (Nat.not_lt.mpr htick)
  rw [hspan, hal, hfrom, Nat.min_eq_right (by omega)]

theorem wb_writeCrc {w : WLine} {p : Pos} (hal : (s.sub c sc).alert = none) (hwb : (s.sub c sc).wb = [w])
    (htick : s.esc.tickBclk + 32 * s.k ≤ s.bclk) (hslot : w.slot = some p) (hretry : w.retry = false) (hfinal : w.final = false)
    (hclosed : w.closed = false) (hfrom : Pos.le (s.posAt (s.bclk - 32 * s.k)) p = true) (hto : Pos.lt p (s.posAt s.bclk) = true)
    (v : State) (hv : (v.sub c sc).wb = [w]) :
    ((v.alertActs s c sc .writeCrc).sub c sc).wb = [w.named v.bclk v.nextSn false (decide (4 ≤ w.attempts))] := by
  have hacts : v.alertActs s c sc .writeCrc = ((s.sub c sc).wb.filter fun w => !w.retry && !w.final && !w.closed &&
        (match w.slot with | some p => Pos.le (s.alertSpan c sc).1 p && Pos.lt p (s.alertSpan c sc).2 | none => false)).foldl
      (fun s w => s.nameWrite c sc w false) v := rfl
  have hnamed : ((s.sub c sc).wb.filter fun w => !w.retry && !w.final && !w.closed &&
      (match w.slot with | some p => Pos.le (s.alertSpan c sc).1 p && Pos.lt p (s.alertSpan c sc).2 | none => false)) = [w] := by
    rw [hwb, alertSpan_fresh s c sc hal htick]
    simp [hslot, hretry, hfinal, hclosed, hfrom, hto]
  rw [hacts, hnamed]
  have h := congrArg (fun x => x.2.2) (alerted_nameWrite v c sc w false)
  refine h.trans ?_
  rw [hv]
  exact replaceFirst_single (t := fun x : WLine => x.sn == w.sn) (beq_self_eq_true w.sn) _

end

/-! ### The end of an alert's window -/

theorem alertWindowClose_single (s : State) (c sc : Nat) {w : WLine} {p : Pos} (hwb : (s.sub c sc).wb = [w])
    (hslot : w.slot = some p) (hretry : w.retry = false) (hclosed : w.closed = false) (hreach : s.canReach (s.closeAt w) = true) :
    s.alertWindowClose c sc = (s.goto (s.closeAt w)).updSub c sc fun b => (b.closing w).release := by
  have hcand : ((s.sub c sc).wb.filter fun w => w.slot.isSome && !w.retry && !w.closed) = [w] := by
    rw [hwb]
    simp [hslot, hretry, hclosed]
  unfold State.alertWindowClose
  dsimp only
  rw [hcand]
  exact if_neg (by rw [hreach]; decide)

/-- Settles O50: an alert's operations keep the window that it opens; the one buffered write of its span is the one named. -/
theorem alertsRetryWrites : Obligations.AlertsRetryWrites := by
  intro s c sc
  refine ⟨fun k hrun => ?_, fun w p hwb hslot hretry hclosed hreach => ?_⟩
  · have hopen := alerted_alertOpened s c sc k
    have hkept := alertOpened_kept s c sc k
    have heq := alertN_of_running hrun c sc k
    have hsub : ∀ f : AlertKind, f ≠ .caParity → (s.alertN c sc f).calParity c sc f = (s.alertOpened c sc f).alertActs s c sc f :=
      fun f hf => (calParity_of_ne _ c sc hf).trans (alertN_of_running hrun c sc _)
    refine ⟨_, exec_alertN s c sc k, ⟨{ from_ := (s.alertSpan c sc).1, to_ := (s.alertSpan c sc).2, kind := k }, ?_, rfl⟩, ?_, ?_⟩
    · rw [alert_calParity, heq, alert_alertActs]
      exact congrArg Prod.fst hopen
    · rintro rk n fr rfl
      rw [hsub (.backOff rk n fr) nofun]
      have hacts : ∀ v : State, v.alertActs s c sc (.backOff rk n fr) = v.updSub c sc fun b =>
          { b with mits := b.mits ++ List.replicate n { rk := rk, deadline := v.esc.frame + fr } } := fun _ => rfl
      have hmits : ((s.alertOpened c sc (.backOff rk n fr)).sub c sc).mits = (s.sub c sc).mits := congrArg (fun x => x.2.1) hopen
      have hframe : (s.alertOpened c sc (.backOff rk n fr)).esc.frame = s.esc.frame := hkept.part .frame (by decide)
      rw [hacts, State.sub_upd_self, hframe]
      exact congrArg (· ++ List.replicate n { rk := rk, deadline := s.esc.frame + fr }) hmits
    · rintro w p rfl hal hwb htick hslot hretry hfinal hclosed hfrom hto
      rw [hsub .writeCrc nofun,
        wb_writeCrc s c sc hal hwb htick hslot hretry hfinal hclosed hfrom hto _ ((congrArg (fun x => x.2.2) hopen).trans hwb)]
      exact ⟨_, rfl, rfl, rfl, rfl, rfl, rfl⟩
  · refine ⟨_, exec_alertWindowClose s c sc, ?_⟩
    rw [alertWindowClose_single s c sc hwb hslot hretry hclosed hreach]
    have hb : ((s.goto (s.closeAt w)).sub c sc).wb = [w] := by
      rw [sub_of_subs ((goto_kept_self s (s.closeAt w)).part .subs (by decide)), hwb]
    refine ⟨?_, ?_⟩
    · exact bclk_goto s (s.closeAt w)
    · rw [State.sub_upd_self]
      have hwbs : ∀ b : Sub, b.wb = [w] → (b.closing w).release.wb =
          if w.bound = [] ∧ w.mir = false then [] else [{ w with closed := true }] := by
        intro b hb
        unfold Sub.release Sub.closing
        dsimp only
        rw [hb, replaceFirst_single (t := fun x : WLine => x.sn == w.sn) (beq_self_eq_true w.sn)]
        cases hbd : w.bound <;> cases hm : w.mir <;> simp [hslot, hretry]
      exact hwbs _ hb

end Sys2Proof.Machine
end

section
/-! The requests of a channel and what its subchannels do with them (R347, R348, R369, R384, R409, R417 to R419, R454). -/
namespace Sys2Proof.Machine

theorem exec_channelEnqueue (s : State) (c : Fin 17) : exec (.channelEnqueue c) s = .next (s.channelEnqueue c) := rfl
theorem exec_crownAccessEnqueue (s : State) : exec .crownAccessEnqueue s = .next s.crownEnqueue := rfl
theorem exec_readDecode (s : State) (c : Fin 17) (sc : Fin 2) (e : RawLine) : exec (.readDecode c sc e) s = .next (s.readDecode c sc e) := rfl
theorem exec_emergencyCommand (s : State) (c : Fin 17) (sc : Fin 2) : exec (.emergencyCommand c sc) s = .next (s.emergencyCommand c sc) := rfl
theorem exec_selfRefreshExitDone (s : State) (c : Fin 17) : exec (.selfRefreshExitDone c) s = .next (s.srExit c) := rfl

/-! ### A record enters the request RAM (R348) -/

/-- The buffer line that a read finds its line in (R373). -/
def Sub.bufFor (b : Sub) (r : Req) : Option WLine := if r.write then none else b.bufOf r.loc

/-- The record of a request that is stamped (R348). -/
def State.entry (s : State) (c sc : Nat) (r : Req) (g : Bool) (p : Pos) : Rec :=
  let b := s.sub c sc
  let kind : RKind := if r.write then .write else if (b.bufFor r).isSome then .fwd else .read
  { sn := s.nextSn, kind := kind, g := g, req := r, stamp := p,
    wbuf := if r.write then some s.nextSn else (b.bufFor r).map (·.sn), pred := (b.predOf r.loc).map (·.1), exc := r.exc }

/-- The write buffer as a request has been stamped: a write's line joins it, a forwarding line is bound (R348, R373). -/
def State.entryWb (s : State) (c sc : Nat) (r : Req) (p : Pos) : List WLine :=
  let b := s.sub c sc
  if r.write then b.wb ++ [{ sn := s.nextSn, req := r, stamp := p }]
  else match b.bufFor r with
    | some w => replaceFirst (fun x => x.sn == w.sn) (fun x => { x with bound := x.bound ++ [s.nextSn] }) b.wb
    | none => b.wb

/-- The subchannel with a record and its buffer entered. -/
def Sub.enter (b : Sub) (x : Rec) (wb : List WLine) (r : Req) (g : Bool) (p : Pos) : Sub :=
  { b with
    ram := b.ram ++ [x], wb := wb,
    claims := Tbl.set (fun _ => {}) b.claims (fifoKey (locBank r.loc) g r.write) p,
    maxStamp := some (match b.maxStamp with | some q => Pos.max q p | none => p),
    peakRam := max b.peakRam (b.ram.length + 1), peakWb := max b.peakWb wb.length }

/-- The state with a record entered, before what its entry is told to. -/
def State.entered (s : State) (c sc : Nat) (r : Req) (g : Bool) (p : Pos) : State :=
  { s with nextSn := s.nextSn + 1 }.updSub c sc fun b => b.enter (s.entry c sc r g p) (s.entryWb c sc r p) r g p

/-- A requester's page is counted (R690). -/
def State.heated (s : State) (c sc : Nat) (r : Req) : State :=
  if r.src < 18 then s.updSub c sc fun b => b.heatCount (r.pa / 4096) r.itag else s

/-- What follows a record's entry: the buffer's full mark, the scrubber, the page counts and the event. -/
def State.enterNotes (s : State) (c sc : Nat) (r : Req) (g : Bool) (n : Nat) : State :=
  (((s.raiseIf (r.write && decide (n = 96)) (.slt c sc) 6).scrubNote c r).heated c sc r).ev
    (evReq c (if r.write then 0x11 else 0x10) (.is 2 (if g then 2 else 1)) r none)

section
variable (s : State) (c sc : Nat) (r : Req) (g : Bool) (p : Pos) (tend : Nat)

theorem enter_eq : s.enter c sc r g p tend =
    if r.write then ((s.entered c sc r g p).enterNotes c sc r g (s.entryWb c sc r p).length).respond c (tend + 1)
      { req := r, status := 0, rkind := 2, stamp := p.stamp, thr := r.thr }
    else (s.entered c sc r g p).enterNotes c sc r g (s.entryWb c sc r p).length := rfl

/-- What a record's entry is judged by: the records and the number of buffered writes. -/
def Sub.records (b : Sub) : List Rec × Nat := (b.ram, b.wb.length)

theorem records_heatCount (b : Sub) (page itag : Nat) : (b.heatCount page itag).records = b.records := by
  unfold Sub.heatCount
  dsimp only
  repeat' split
  all_goals rfl

theorem records_heated : ((s.heated c sc r).sub c sc).records = (s.sub c sc).records := by
  unfold State.heated
  split
  · rw [State.sub_upd_self, records_heatCount]
  · rfl

theorem records_enterNotes (n : Nat) : ((s.enterNotes c sc r g n).sub c sc).records = (s.sub c sc).records := by
  unfold State.enterNotes
  rw [sub_ev, records_heated, sub_of_subs ((State.scrubNote_kept (Within.self _) (Kept.refl _ _) c r).part .subs (by decide))]
  cases r.write && decide (n = 96) <;> rfl

theorem heated_kept : Kept 0x200 s (s.heated c sc r) := by
  unfold State.heated
  split
  · exact State.updSub_kept (Within.self _) (Kept.refl _ s) ..
  · exact Kept.refl _ s

theorem enterNotes_kept (n : Nat) : Kept 0x20620 s (s.enterNotes c sc r g n) := by
  unfold State.enterNotes
  refine State.ev_kept (Within.of (Within.self _) (by decide)) ?_ _
  have hraise : Kept 0x20620 s (s.raiseIf (r.write && decide (n = 96)) (.slt c sc) 6) :=
    State.raiseIf_kept (Within.of (Within.self _) (by decide)) (Kept.refl _ s) ..
  have hnote := State.scrubNote_kept (Within.of (Within.self _) (by decide)) hraise c r
  unfold State.heated
  split
  · exact State.updSub_kept (Within.of (Within.self _) (by decide)) hnote ..
  · exact hnote

theorem records_entered : ((s.entered c sc r g p).sub c sc).records =
    ((s.sub c sc).ram ++ [s.entry c sc r g p], (s.entryWb c sc r p).length) := by
  unfold State.entered
  rw [State.sub_upd_self]
  rfl

theorem respond_of_src {a : Resp} (h : a.req.src < 18) :
    s.respond c tend a = s.inject (.memResp a) (nodeCh c) (nodeOfSrc a.req.src) tend :=
  if_neg (by omega)

theorem records_enter : ((s.enter c sc r g p tend).sub c sc).records =
    ((s.sub c sc).ram ++ [s.entry c sc r g p], (s.entryWb c sc r p).length) := by
  have hnotes := (records_enterNotes (s.entered c sc r g p) c sc r g (s.entryWb c sc r p).length).trans (records_entered s c sc r g p)
  rw [enter_eq]
  split
  · rw [sub_of_subs ((State.respond_kept (Within.self _) (Kept.refl _ _) ..).part .subs (by decide)), hnotes]
  · exact hnotes

theorem nextSn_enter : (s.enter c sc r g p tend).nextSn = s.nextSn + 1 := by
  have hnotes : ((s.entered c sc r g p).enterNotes c sc r g (s.entryWb c sc r p).length).nextSn = s.nextSn + 1 :=
    (enterNotes_kept _ c sc r g _).part .nextSn (by decide)
  rw [enter_eq]
  split
  · exact ((State.respond_kept (Within.self _) (Kept.refl _ _) ..).part .nextSn (by decide)).trans hnotes
  · exact hnotes

theorem pkt_enter (hw : r.write = true) (hsrc : r.src < 18) : ∃ k ∈ (s.enter c sc r g p tend).pkts, k.src = nodeCh c ∧
    k.dst = nodeOfSrc r.src ∧ k.body = .memResp { req := r, status := 0, rkind := 2, stamp := p.stamp, thr := r.thr } := by
  have hresp : s.enter c sc r g p tend =
      ((s.entered c sc r g p).enterNotes c sc r g (s.entryWb c sc r p).length).inject
        (.memResp { req := r, status := 0, rkind := 2, stamp := p.stamp, thr := r.thr }) (nodeCh c) (nodeOfSrc r.src) (tend + 1) :=
    (enter_eq s c sc r g p tend).trans ((if_pos hw).trans (respond_of_src _ _ _ hsrc))
  rw [hresp]
  obtain ⟨k, hk, hksrc, hdst, hbody, -⟩ := exists_pkt_inject _ _ _ _ _ _
  exact ⟨k, hk, hksrc, hdst, hbody⟩

theorem length_entryWb (hw : r.write = true) : (s.entryWb c sc r p).length = (s.sub c sc).wb.length + 1 := by
  have heq : s.entryWb c sc r p = (s.sub c sc).wb ++ [{ sn := s.nextSn, req := r, stamp := p }] := if_pos hw
  rw [heq, List.length_append]
  rfl

end

/-! ### A request is stamped, bounced or answered OFFLINE (R347, R384, R459) -/

/-- The channel with a token of a G request spent (R383). -/
def Chan.tokenSpent (ch : Chan) (r : Req) (g : Bool) (p : Pos) : Chan :=
  { ch with tokens := Tbl.upd (fun _ => 0) ch.tokens r.itag (· - 1),
            ownerLast := if g then Tbl.upd (fun _ => {}) ch.ownerLast r.itag fun q => Pos.max q p else ch.ownerLast }

/-- The state with a G request's token spent (R383). -/
def State.tokenSpent (s : State) (c : Nat) (r : Req) (g : Bool) (p : Pos) : State :=
  if r.g ∧ r.due.isNone then
    if g then s.updChan c fun ch => ch.tokenSpent r g p
    else (s.updChan c fun ch => ch.tokenSpent r g p).ev (evReq c 0x0E (.sc r.loc.sc) r none)
  else s

/-- A bounce leaves the channel (R384). -/
def State.bounced (s : State) (c : Nat) (r : Req) (n tend : Nat) : State :=
  (((s.ev (evReq c 0x0F (.is 2 n) r none)).raiseIf (n == 3) (.slt c r.loc.sc) 3).raiseIf (n == 2) (.slt c r.loc.sc) 4).inject
    (.bounce r n) (nodeCh c) (nodeOfSrc r.src) (tend + 1)

section
variable {s : State} {c : Nat} {r : Req} {tend : Nat}

theorem enqueue_at {g : Bool} {p : Pos} (huse : r.use ≠ 2) (h : s.place c r.loc.sc r tend = .at_ g p) :
    s.enqueue c r tend = ((s.tokenSpent c r g p).wake c tend).enter c r.loc.sc r g p tend := by
  have hfree : ¬(r.use = 2 ∧ (s.chan c).scrub.wrote = true) := fun hw => huse hw.1
  have heq : s.enqueue c r tend = if r.use = 2 ∧ (s.chan c).scrub.wrote then
      ((s.ev { box := c, code := 0x1D }).updScrub c fun x => { x with fly := none }).scrubRaise c
    else match s.place c r.loc.sc r tend with
      | .none => s.answerOffline c tend r
      | .bounce n => s.bounced c r n tend
      | .at_ g p => ((s.tokenSpent c r g p).wake c tend).enter c r.loc.sc r g p tend := rfl
  rw [heq, if_neg hfree, h]

theorem enqueue_bounce {n : Nat} (huse : r.use ≠ 2) (h : s.place c r.loc.sc r tend = .bounce n) : s.enqueue c r tend = s.bounced c r n tend := by
  have hfree : ¬(r.use = 2 ∧ (s.chan c).scrub.wrote = true) := fun hw => huse hw.1
  have heq : s.enqueue c r tend = if r.use = 2 ∧ (s.chan c).scrub.wrote then
      ((s.ev { box := c, code := 0x1D }).updScrub c fun x => { x with fly := none }).scrubRaise c
    else match s.place c r.loc.sc r tend with
      | .none => s.answerOffline c tend r
      | .bounce n => s.bounced c r n tend
      | .at_ g p => ((s.tokenSpent c r g p).wake c tend).enter c r.loc.sc r g p tend := rfl
  rw [heq, if_neg hfree, h]

variable (s c r tend)

theorem tokenSpent_kept (g : Bool) (p : Pos) : Kept 0x20420 s (s.tokenSpent c r g p) := by
  have hspent : Kept 0x20420 s (s.updChan c fun ch => ch.tokenSpent r g p) :=
    State.updChan_kept (f := fun ch => ch.tokenSpent r g p) (Within.of (Within.self 0x20420) (by decide)) (fun _ h => h) (Kept.refl _ s) c
  unfold State.tokenSpent
  split
  · split
    · exact hspent
    · exact State.ev_kept (Within.of (Within.self _) (by decide)) hspent _
  · exact Kept.refl _ s

theorem bounced_kept (n : Nat) : Kept 0x21420 s (s.bounced c r n tend) := by
  unfold State.bounced
  refine State.inject_kept (Within.self _) (State.raiseIf_kept (Within.of (Within.self _) (by decide))
    (State.raiseIf_kept (Within.of (Within.self _) (by decide)) (State.ev_kept (Within.of (Within.self _) (by decide)) (Kept.refl _ s) _) ..) ..) ..

end

/-- The state at which the arbiter's request that reached a channel is stamped: it has left the torus (R347). -/
def Chan.stamping (ch : Chan) (r : Req) (start : Nat) : Chan :=
  { ch with enqFree := start + 1, arb := { ch.arb with granted := if r.g then ch.arb.granted else ch.arb.granted - 1 } }

def State.reqStart (s : State) (c : Nat) (p : Pkt) (r : Req) : Nat := max (p.arr + b2n r.write + 1) (s.chan c).enqFree

def State.reqTaken (s : State) (c : Nat) (p : Pkt) (r : Req) : State :=
  let v := s.goto (s.reqStart c p r + 2)
  State.updChan { v with pkts := eraseFirst (fun q => q == p) v.pkts } c fun ch => ch.stamping r (s.reqStart c p r)

/-- A write that the copy unit mirrors is marked where it has taken a record (R867). -/
def State.mirrorMarked (s : State) (c sc sn : Nat) (m : Bool) : State :=
  if m = true ∧ s.nextSn ≠ sn then s.updSub c sc fun b => { b with wb := b.wb.map fun w => if w.sn = sn then { w with mir := true } else w }
  else s

section
variable {s : State} {c : Nat} {p : Pkt} {r : Req}

theorem bclk_reqTaken : (s.reqTaken c p r).bclk = max s.bclk (s.reqStart c p r + 2) := bclk_goto s _

theorem channelEnqueue_eq (h : (s.gwAhead fun s => (s.firstReq c).map fun x => x.1.arr).firstReq c = some (p, r))
    (hfence : ((s.gwAhead fun s => (s.firstReq c).map fun x => x.1.arr).chan c).fenced = false)
    (hroom : r.due = none ∨ ((s.gwAhead fun s => (s.firstReq c).map fun x => x.1.arr).sub c r.loc.sc).ram.length < 192)
    (hreach : (s.gwAhead fun s => (s.firstReq c).map fun x => x.1.arr).canReach
      ((s.gwAhead fun s => (s.firstReq c).map fun x => x.1.arr).reqStart c p r + 2) = true) :
    let s0 := s.gwAhead fun s => (s.firstReq c).map fun x => x.1.arr
    let u := s0.reqTaken c p r
    let tend := s0.reqStart c p r + 2
    s.channelEnqueue c = if u.offOrParked c = true ∨ (u.chan c).calRun = true then u.answerOffline c tend r
      else (u.enqueue c r tend).mirrorMarked c r.loc.sc u.nextSn (u.mirrors c r) := by
  intro s0 u tend
  have hfree : ¬((s0.chan c).fenced = true ∨ (r.due.isSome = true ∧ 192 ≤ (s0.sub c r.loc.sc).ram.length)) := by
    rintro (hf | ⟨hd, hl⟩)
    · rw [hfence] at hf
      exact Bool.noConfusion hf
    · rcases hroom with hn | hn
      · rw [hn] at hd
        exact Bool.noConfusion hd
      · exact absurd hl (Nat.not_le.mpr hn)
  have heq : s.channelEnqueue c = match s0.firstReq c with
      | none => s0
      | some (p, r) =>
        if (s0.chan c).fenced ∨ (r.due.isSome ∧ 192 ≤ (s0.sub c r.loc.sc).ram.length) then s0
        else if !s0.canReach (s0.reqStart c p r + 2) then s0
        else if (s0.reqTaken c p r).offOrParked c ∨ ((s0.reqTaken c p r).chan c).calRun then
          (s0.reqTaken c p r).answerOffline c (s0.reqStart c p r + 2) r
        else ((s0.reqTaken c p r).enqueue c r (s0.reqStart c p r + 2)).mirrorMarked c r.loc.sc (s0.reqTaken c p r).nextSn
          ((s0.reqTaken c p r).mirrors c r) := rfl
  rw [heq, h]
  refine (if_neg hfree).trans ((if_neg ?_).trans rfl)
  rw [hreach]
  decide

variable (s c)

theorem records_mirrorMarked (sc sn : Nat) (m : Bool) : ((s.mirrorMarked c sc sn m).sub c sc).records = (s.sub c sc).records := by
  unfold State.mirrorMarked
  split
  · rw [State.sub_upd_self]
    exact Prod.ext rfl (List.length_map _)
  · rfl

theorem mirrorMarked_kept (sc sn : Nat) (m : Bool) : Kept 0x200 s (s.mirrorMarked c sc sn m) := by
  unfold State.mirrorMarked
  split
  · exact State.updSub_kept (Within.self _) (Kept.refl _ s) ..
  · exact Kept.refl _ s

theorem mirrorMarked_of_same (sc : Nat) {sn : Nat} (h : s.nextSn = sn) (m : Bool) : s.mirrorMarked c sc sn m = s :=
  if_neg fun hm => hm.2 h

end

/-- What a channel does with the request that reaches it first, once it has taken it (R347, R348, R384, R459). -/
theorem reqTaken_meets (u : State) (c : Nat) (r : Req) (tend : Nat) :
    (r.use ≠ 2 →
      (∀ g q, u.place c r.loc.sc r tend = .at_ g q → ∀ t, t = (u.enqueue c r tend).mirrorMarked c r.loc.sc u.nextSn (u.mirrors c r) →
        t.bclk = u.bclk ∧ t.nextSn = u.nextSn + 1 ∧
        (∃ x, (t.sub c r.loc.sc).ram = (u.sub c r.loc.sc).ram ++ [x] ∧ x.sn = u.nextSn ∧ x.req = r ∧ x.stamp = q ∧ x.g = g) ∧
        (r.write = true → (t.sub c r.loc.sc).wb.length = (u.sub c r.loc.sc).wb.length + 1 ∧
          (r.src < 18 → ∃ k ∈ t.pkts, k.src = nodeCh c ∧ k.dst = nodeOfSrc r.src ∧
            k.body = .memResp { req := r, status := 0, rkind := 2, stamp := q.stamp, thr := r.thr }))) ∧
      (∀ n, u.place c r.loc.sc r tend = .bounce n → ∀ t, t = (u.enqueue c r tend).mirrorMarked c r.loc.sc u.nextSn (u.mirrors c r) →
        t.bclk = u.bclk ∧ t.nextSn = u.nextSn ∧ (t.sub c r.loc.sc).ram = (u.sub c r.loc.sc).ram ∧
        ∃ k ∈ t.pkts, k.src = nodeCh c ∧ k.dst = nodeOfSrc r.src ∧ k.body = .bounce r n)) ∧
    (r.src < 18 → ∀ t, t = u.answerOffline c tend r → t.bclk = u.bclk ∧ t.nextSn = u.nextSn ∧ t.subs = u.subs ∧
      ∃ k ∈ t.pkts, k.src = nodeCh c ∧ k.dst = nodeOfSrc r.src ∧ k.body = .memResp { req := r, status := 3, rkind := 4, thr := r.thr }) := by
  refine ⟨fun huse => ⟨?_, ?_⟩, ?_⟩
  · rintro g q hplace t rfl
    rw [enqueue_at huse hplace]
    have hwoken : Kept 0x20420 u ((u.tokenSpent c r g q).wake c tend) :=
      State.wake_kept (Within.of (Within.self _) (by decide)) (tokenSpent_kept u c r g q) c tend
    generalize hv : (u.tokenSpent c r g q).wake c tend = v at hwoken
    have hsub : v.sub c r.loc.sc = u.sub c r.loc.sc := sub_of_subs (hwoken.part .subs (by decide)) c r.loc.sc
    have hsn : v.nextSn = u.nextSn := hwoken.part .nextSn (by decide)
    have hmark := mirrorMarked_kept (v.enter c r.loc.sc r g q tend) c r.loc.sc u.nextSn (u.mirrors c r)
    have hrec := (records_mirrorMarked (v.enter c r.loc.sc r g q tend) c r.loc.sc u.nextSn (u.mirrors c r)).trans
      (records_enter v c r.loc.sc r g q tend)
    refine ⟨?_, ?_, ⟨v.entry c r.loc.sc r g q, ?_, hsn, rfl, rfl, rfl⟩, fun hw => ⟨?_, fun hsrc => ?_⟩⟩
    · exact (hmark.part .bclk (by decide)).trans (((State.enter_kept (Within.self _) (Kept.refl _ v) c r.loc.sc r g q tend).part
        .bclk (by decide)).trans (hwoken.part .bclk (by decide)))
    · exact (hmark.part .nextSn (by decide)).trans ((nextSn_enter v c r.loc.sc r g q tend).trans (congrArg (· + 1) hsn))
    · exact (congrArg Prod.fst hrec).trans (congrArg (fun b : Sub => b.ram ++ [v.entry c r.loc.sc r g q]) hsub)
    · exact (congrArg Prod.snd hrec).trans ((length_entryWb v c r.loc.sc r q hw).trans (congrArg (fun b : Sub => b.wb.length + 1) hsub))
    · obtain ⟨k, hk, hrest⟩ := pkt_enter v c r.loc.sc r g q tend hw hsrc
      refine ⟨k, ?_, hrest⟩
      rw [show ((v.enter c r.loc.sc r g q tend).mirrorMarked c r.loc.sc u.nextSn (u.mirrors c r)).pkts =
        (v.enter c r.loc.sc r g q tend).pkts from hmark.part .pkts (by decide)]
      exact hk
  · rintro n hplace t rfl
    have hkept := bounced_kept u c r tend n
    rw [enqueue_bounce huse hplace, mirrorMarked_of_same _ _ _ (hkept.part .nextSn (by decide))]
    obtain ⟨k, hk, hsrc, hdst, hbody, -⟩ := exists_pkt_inject
      (((u.ev (evReq c 0x0F (.is 2 n) r none)).raiseIf (n == 3) (.slt c r.loc.sc) 3).raiseIf (n == 2) (.slt c r.loc.sc) 4)
      (.bounce r n) (nodeCh c) (nodeOfSrc r.src) (tend + 1) none
    exact ⟨hkept.part .bclk (by decide), hkept.part .nextSn (by decide),
      congrArg Sub.ram (sub_of_subs (hkept.part .subs (by decide)) c r.loc.sc), k, hk, hsrc, hdst, hbody⟩
  · rintro hsrc t rfl
    have hkept := State.answerOffline_kept (Within.self _) (Kept.refl _ u) c tend r
    have heq : u.answerOffline c tend r =
        u.inject (.memResp { req := r, status := 3, rkind := 4, thr := r.thr }) (nodeCh c) (nodeOfSrc r.src) (tend + 1) := by
      have h0 : u.answerOffline c tend r = State.respond (if r.src = 18 then u.updScrub c fun x => { x with fly := none } else u) c (tend + 1)
          { req := r, status := 3, rkind := 4, thr := r.thr } := rfl
      rw [h0, if_neg (by omega)]
      exact respond_of_src _ _ _ hsrc
    refine ⟨hkept.part .bclk (by decide), hkept.part .nextSn (by decide), hkept.part .subs (by decide), ?_⟩
    rw [heq]
    obtain ⟨k, hk, hksrc, hdst, hbody, -⟩ := exists_pkt_inject _ _ _ _ _ _
    exact ⟨k, hk, hksrc, hdst, hbody⟩

/-! ### A Crown access takes its place (R379, R454) -/

/-- A granted Crown access on its way into its subchannel, at a BCLK (R454). -/
def Chan.crownStarted (ch : Chan) (t : Nat) : Chan := { ch with enqFree := t + 1 }

def State.crownStart (s : State) (c b : Nat) : State := { s with crn := { s.crn with egnt := none } }.updChan c fun ch => ch.crownStarted b

/-- The Crown access as its subchannel holds it. -/
def State.crownAcc (s : State) (c : Nat) (r : Req) (b : Nat) : CrnAcc :=
  let x := s.sub c r.loc.sc
  { req := r, sn := s.nextSn, at_ := b, pred := (x.predOf r.loc).map (·.1),
    wbuf := if r.write then none else (x.bufOf r.loc).map (·.sn), mir := s.mirrors c r }

/-- The subchannel with a Crown access pending. -/
def Sub.crowned (x : Sub) (a : CrnAcc) : Sub :=
  { x with crown := some a, wb := x.wb.map fun (w : WLine) => if a.wbuf = some w.sn then { w with bound := w.bound ++ [a.sn] } else w }

def State.crownIn (s : State) (c : Nat) (r : Req) (b : Nat) : State :=
  { s with nextSn := s.nextSn + 1 }.updSub c r.loc.sc fun x => x.crowned (s.crownAcc c r b)

theorem crownEnqueue_eq {s : State} {r : Req} {e c : Nat} (h : s.crn.egnt = some (r, e)) (hc : r.loc.ch = c)
    (hreach : s.canReach (max e (s.chan c).enqFree + 2) = true) :
    let b := max e (s.chan c).enqFree
    let u := ((s.enqueueBefore c b s.pkts.length).goto b).crownStart c b
    s.crownEnqueue = if u.offOrParked c = true ∨ (u.chan c).fenced = true ∨ (u.chan c).calRun = true then u.crownAnswer r 3 (b + 1)
      else (u.wake c (b + 2)).crownIn c r b := by
  subst hc
  intro b u
  have heq : s.crownEnqueue = match s.crn.egnt with
      | none => s
      | some (r, e) =>
        let b := max e (s.chan r.loc.ch).enqFree
        let u := ((s.enqueueBefore r.loc.ch b s.pkts.length).goto b).crownStart r.loc.ch b
        if !s.canReach (b + 2) then s
        else if u.offOrParked r.loc.ch ∨ (u.chan r.loc.ch).fenced ∨ (u.chan r.loc.ch).calRun then u.crownAnswer r 3 (b + 1)
        else (u.wake r.loc.ch (b + 2)).crownIn r.loc.ch r b := rfl
  rw [heq, h]
  exact if_neg (by rw [hreach]; decide)

theorem chan_crownStart (s : State) (c b : Nat) : (s.crownStart c b).chan c = (s.chan c).crownStarted b := State.chan_upd_self ..

/-- The offline state of a channel's node is not the clock's. -/
theorem crownStart_serves (s : State) (c b : Nat) : (s.crownStart c b).offOrParked c = s.offOrParked c ∧
    ((s.crownStart c b).chan c).fenced = (s.chan c).fenced ∧ ((s.crownStart c b).chan c).calRun = (s.chan c).calRun := by
  unfold State.offOrParked
  rw [chan_crownStart]
  exact ⟨rfl, rfl, rfl⟩

theorem sub_crownIn (s : State) (c : Nat) (r : Req) (b : Nat) : ((s.crownIn c r b).sub c r.loc.sc).crown = some (s.crownAcc c r b) := by
  unfold State.crownIn
  rw [State.sub_upd_self]
  rfl

theorem crownIn_keeps (s : State) (c : Nat) (r : Req) (b : Nat) :
    (s.crownIn c r b).bclk = s.bclk ∧ (s.crownIn c r b).crn = s.crn ∧ (s.crownIn c r b).nextSn = s.nextSn + 1 := ⟨rfl, rfl, rfl⟩

theorem crownStart_keeps (s : State) (c b : Nat) :
    (s.crownStart c b).bclk = s.bclk ∧ (s.crownStart c b).crn.egnt = none ∧ (s.crownStart c b).nextSn = s.nextSn := ⟨rfl, rfl, rfl⟩

/-- The Crown access has taken its place. -/
theorem crownIn_meets (u : State) (c : Nat) (r : Req) (b : Nat) {t : State} (ht : t = ((u.crownStart c b).wake c (b + 2)).crownIn c r b) :
    t.bclk = u.bclk ∧ t.crn.egnt = none ∧ t.nextSn = u.nextSn + 1 ∧
      ∃ a, (t.sub c r.loc.sc).crown = some a ∧ a.req = r ∧ a.sn = u.nextSn ∧ a.at_ = b := by
  subst ht
  obtain ⟨hclk, hgnt, hsn⟩ := crownStart_keeps u c b
  have hwake := State.wake_kept (Within.self _) (Kept.refl _ (u.crownStart c b)) c (b + 2)
  have wclk : ((u.crownStart c b).wake c (b + 2)).bclk = (u.crownStart c b).bclk := hwake.part .bclk (by decide)
  have wcrn : ((u.crownStart c b).wake c (b + 2)).crn = (u.crownStart c b).crn := hwake.part .crn (by decide)
  have wsn : ((u.crownStart c b).wake c (b + 2)).nextSn = (u.crownStart c b).nextSn := hwake.part .nextSn (by decide)
  generalize (u.crownStart c b).wake c (b + 2) = v at *
  obtain ⟨iclk, icrn, isn⟩ := crownIn_keeps v c r b
  exact ⟨iclk.trans (wclk.trans hclk), by rw [icrn, wcrn, hgnt], by rw [isn, wsn, hsn], _, sub_crownIn v c r b, rfl, wsn.trans hsn, rfl⟩

/-- The Crown access has been answered OFFLINE. -/
theorem crownAnswer_meets (u : State) (c : Nat) {r : Req} (b : Nat) (hch : r.loc.ch = c) {t : State}
    (ht : t = (u.crownStart c b).crownAnswer r 3 (b + 1)) :
    t.bclk = u.bclk ∧ t.crn.egnt = none ∧ t.nextSn = u.nextSn ∧ ∃ k ∈ t.pkts, k.src = nodeCh c ∧ k.dst = nodeSvc ∧
      k.body = .memResp { req := r, status := 3, rkind := 4 } := by
  subst ht
  obtain ⟨hclk, hgnt, hsn⟩ := crownStart_keeps u c b
  generalize u.crownStart c b = v at *
  have hans : v.crownAnswer r 3 (b + 1) = v.inject (.memResp { req := r, status := 3, rkind := 4 }) (nodeCh c) nodeSvc (b + 1) := by
    unfold State.crownAnswer
    rw [hch]
  rw [hans]
  have hkept := inject_kept_self v (.memResp { req := r, status := 3, rkind := 4 }) (nodeCh c) nodeSvc (b + 1) none
  obtain ⟨k, hk, hsrc, hdst, hbody, -⟩ := exists_pkt_inject v (.memResp { req := r, status := 3, rkind := 4 }) (nodeCh c) nodeSvc (b + 1) none
  exact ⟨(hkept.part .bclk (by decide)).trans hclk, (congrArg Crn.egnt (hkept.part .crn (by decide))).trans hgnt,
    (hkept.part .nextSn (by decide)).trans hsn, k, hk, hsrc, hdst, hbody⟩

/-! ### The oldest read leaves the decoder (R369) -/

/-- The subchannel as its oldest served read has left the decoder: nothing is bound to that read's buffer line (R369, R372). -/
def Sub.decoded (b : Sub) (v : Served) (rest : List Served) : Sub :=
  { b with served := rest, wb := b.wb.map fun w => { w with bound := w.bound.filter (· != v.sn) } : Sub }.release

/-- The state as a served read has been decoded, before its answer (R369, R646). -/
def State.decoded (s : State) (c sc : Nat) (v : Served) (rest : List Served) (d : Decode) : State :=
  let u := s.updSub c sc fun b => b.decoded v rest
  let u := if v.named ∨ v.fwd ∨ v.req.write then u
    else u.noteDecode c v.req.loc d v.req v.slot.frame (if v.req.src = 18 then 0 else (v.answer d).status)
  u.raiseIf v.late (.slt c sc) 5

section
variable {s : State} {c sc : Nat} {v : Served} {rest : List Served}

theorem decoded_kept (s : State) (c sc : Nat) (v : Served) (rest : List Served) (d : Decode) :
    Kept 0x80020620 (s.updSub c sc fun b => b.decoded v rest) (s.decoded c sc v rest d) := by
  unfold State.decoded
  refine State.raiseIf_kept (Within.of (Within.self _) (by decide)) ?_ ..
  split
  · exact Kept.refl _ _
  · exact State.noteDecode_kept (Within.of (Within.self _) (by decide)) (Kept.refl _ _) ..

theorem served_decoded (s : State) (c sc : Nat) (v : Served) (rest : List Served) (d : Decode) :
    ((s.decoded c sc v rest d).sub c sc).served = rest := by
  have hsub : (s.decoded c sc v rest d).sub c sc = (s.updSub c sc fun b => b.decoded v rest).sub c sc := by
    unfold State.decoded
    have hraise : ∀ (u : State) (b : Bool), (u.raiseIf b (.slt c sc) 5).sub c sc = u.sub c sc := by
      intro u b
      cases b <;> rfl
    rw [hraise]
    exact of_ite (g := fun u : State => u.sub c sc) rfl
      (sub_of_subs ((State.noteDecode_kept (Within.self _) (Kept.refl _ _) ..).part .subs (by decide)) c sc)
  rw [hsub, State.sub_upd_self]
  rfl

theorem readDecode_eq (err : RawLine) (h : (s.sub c sc).served = v :: rest) (hreach : s.canReach (s.slotBclk v.slot + s.k + 7) = true)
    (hsrc : v.req.src < 18) (huse : v.req.use ≠ 3) :
    let b := s.slotBclk v.slot + s.k + 7
    let u := s.goto b
    let d := decodeLine ((u.chan c).elog.markOf (u.rankPos sc v.req.loc.rk)) (v.raw ^^^ err)
    s.readDecode c sc err = (u.decoded c sc v rest d).inject (.memResp (v.answer d)) (nodeCh c) (nodeOfSrc v.req.src) b := by
  intro b u d
  have heq : s.readDecode c sc err = match (s.sub c sc).served with
      | [] => s
      | v :: rest =>
        let b := s.slotBclk v.slot + s.k + 7
        let u := s.goto b
        let mark := (u.chan c).elog.markOf (u.rankPos sc v.req.loc.rk)
        let d := decodeLine mark (v.raw ^^^ err)
        let w := u.decoded c sc v rest d
        if !s.canReach b then s
        else if v.req.src = 18 then
          ((if v.named ∨ v.fwd then w.updScrub c fun x => { x with fly := none } else w.scrubActs c v.req.loc d mark).scrubPass c).scrubRaise c
        else if v.req.use = 3 then w.copyBack v.req.loc (v.answer d) b
        else w.respond c b (v.answer d) := rfl
  rw [heq, h]
  refine (if_neg (by rw [hreach]; decide)).trans ((if_neg (by omega)).trans ((if_neg huse).trans ?_))
  exact respond_of_src _ _ _ (show (v.answer d).req.src < 18 from hsrc)

end

/-- The read has been answered. -/
theorem decoded_meets (u : State) (c sc : Nat) (v : Served) (rest : List Served) (d : Decode) (b : Nat) {t : State}
    (ht : t = (u.decoded c sc v rest d).inject (.memResp (v.answer d)) (nodeCh c) (nodeOfSrc v.req.src) b) :
    t.bclk = u.bclk ∧ (t.sub c sc).served = rest ∧ ∃ k ∈ t.pkts, k.src = nodeCh c ∧ k.dst = nodeOfSrc v.req.src ∧
      k.body = .memResp (v.answer d) := by
  subst ht
  have hclk : (u.decoded c sc v rest d).bclk = u.bclk := (decoded_kept u c sc v rest d).part .bclk (by decide)
  have hserved := served_decoded u c sc v rest d
  generalize u.decoded c sc v rest d = w at *
  have hkept := inject_kept_self w (.memResp (v.answer d)) (nodeCh c) (nodeOfSrc v.req.src) b none
  obtain ⟨k, hk, hsrc, hdst, hbody, -⟩ := exists_pkt_inject w (.memResp (v.answer d)) (nodeCh c) (nodeOfSrc v.req.src) b none
  exact ⟨(hkept.part .bclk (by decide)).trans hclk,
    (congrArg Sub.served (sub_of_subs (hkept.part .subs (by decide)) c sc)).trans hserved, k, hk, hsrc, hdst, hbody⟩

/-! ### An emergency issues its command (R409, R410) -/

section
variable (s : State) (c sc : Nat)

theorem debtAt_setDebt (b : Sub) (g : Target) (n : Int) : (b.setDebt g n).debtAt g = n := Tbl.get_set_self ..

/-- What the refresh of a rank leaves of a subchannel: all but its activation counts. -/
def Sub.unraa (b : Sub) : Sub := { b with raa := [] }

theorem unraa_raaRefresh (rk : Nat) (ba : Option Nat) : ((s.raaRefresh c sc rk ba).sub c sc).unraa = (s.sub c sc).unraa := by
  unfold State.raaRefresh
  dsimp only
  rw [State.sub_upd_self]
  rfl

/-- The subchannel with a refresh issued (R398, R409). -/
def Sub.refreshed (b : Sub) (g : Target) (t len : Nat) (emerg : Bool) : Sub :=
  { b.setDebt g (b.debtAt g - 1) with
    refs := b.refs ++ [{ rk := g.1, ba := g.2, tck := t, len := len, emerg := emerg }], ca := b.ca ++ [(t, 1)] }

theorem unraa_issueRef (g : Target) (t len : Nat) (emerg : Bool) :
    ((s.issueRef c sc g t len emerg).sub c sc).unraa = ((s.sub c sc).refreshed g t len emerg).unraa := by
  have heq : s.issueRef c sc g t len emerg = ((s.updSub c sc fun b => b.refreshed g t len emerg).raaRefresh c sc g.1 g.2).ev
      { box := c, code := 0x14, qual := .sc sc } := rfl
  rw [heq, sub_ev, unraa_raaRefresh, State.sub_upd_self]

/-- The subchannel with a mitigation issued (R410). -/
def Sub.mitigated (b : Sub) (m : Mitig) (t len : Nat) (emerg : Bool) : Sub :=
  { b with mits := eraseFirst (fun x => x == m) b.mits,
           refs := b.refs ++ [{ rk := m.rk, ba := m.ba, tck := t, len := len, emerg := emerg }], ca := b.ca ++ [(t, 1)] }

theorem unraa_issueMit (m : Mitig) (t : Nat) (emerg : Bool) :
    ((s.issueMit c sc m t emerg).sub c sc).unraa = ((s.sub c sc).mitigated m t (s.mitLen c m) emerg).unraa := by
  have hcount : ∀ (u : State) (q : Prop) [Decidable q] (f : Chan → Chan), (if q then u.updChan c f else u).sub c sc = u.sub c sc := by
    intro u q _ f
    split <;> rfl
  have hraise : ∀ (u : State) (q : Prop) [Decidable q] (f : Chan → Chan),
      (if q then (u.updChan c f).raise (.brl c) 2 else u).sub c sc = u.sub c sc := by
    intro u q _ f
    split
    · exact (sub_raise _ _ _ _ _).trans (sub_updChan u c f c sc)
    · rfl
  unfold State.issueMit
  dsimp only
  rw [sub_ev, unraa_raaRefresh, hraise, hcount, State.sub_upd_self]
  rfl

theorem sub_balInterrupt (p d e : Nat) : (s.balInterrupt c p).sub d e = s.sub d e :=
  sub_of_subs ((State.balInterrupt_kept (Within.self _) (Kept.refl _ s) c p).part .subs (by decide)) d e

/-- The state in which an emergency's command has been issued (R409, R410). -/
def State.emergIssued (s : State) (c sc : Nat) (e : Emerg) (k : Nat) : State :=
  match e.mit with
  | some m => (s.issueMit c sc m k true).updSub c sc fun u => { u with emergs := eraseFirst (fun x => x == e) u.emergs }
  | none => s.issueRef c sc (e.rk, e.ba) k (s.rfcAt c sc s.esc.frame) true

theorem emergIssued_kept (e : Emerg) (k : Nat) : Kept 0x20620 s (s.emergIssued c sc e k) := by
  unfold State.emergIssued
  split
  · exact State.updSub_kept (Within.of (Within.self _) (by decide))
      (State.issueMit_kept (Within.self _) (Kept.refl _ s) ..) ..
  · exact State.issueRef_kept (Within.of (Within.self _) (by decide)) (Kept.refl _ s) ..

end

theorem emergencyCommand_eq {s : State} {c sc : Nat} {e : Emerg} (h : s.emergNext c sc = some e)
    (hreach : s.canReach (max s.bclk (s.bclkOfTck (s.emergTck c sc e))) = true) :
    s.emergencyCommand c sc =
      State.balInterrupt ((s.goto (max s.bclk (s.bclkOfTck (s.emergTck c sc e)))).emergIssued c sc e (s.emergTck c sc e)) c
        (State.rankPos ((s.goto (max s.bclk (s.bclkOfTck (s.emergTck c sc e)))).emergIssued c sc e (s.emergTck c sc e)) sc e.rk) := by
  have heq : s.emergencyCommand c sc = match s.emergNext c sc with
      | none => s
      | some e =>
        if !s.canReach (max s.bclk (s.bclkOfTck (s.emergTck c sc e))) then s
        else State.balInterrupt ((s.goto (max s.bclk (s.bclkOfTck (s.emergTck c sc e)))).emergIssued c sc e (s.emergTck c sc e)) c
          (State.rankPos ((s.goto (max s.bclk (s.bclkOfTck (s.emergTck c sc e)))).emergIssued c sc e (s.emergTck c sc e)) sc e.rk) := rfl
  rw [heq, h]
  exact if_neg (by rw [hreach]; decide)

/-- What an emergency that owes a refresh leaves (R409). -/
theorem emergencyCommand_ref {s : State} {c sc : Nat} {e : Emerg} (h : s.emergNext c sc = some e)
    (hreach : s.canReach (max s.bclk (s.bclkOfTck (s.emergTck c sc e))) = true) :
    let t := s.emergencyCommand c sc
    let k := s.emergTck c sc e
    let b := max s.bclk (s.bclkOfTck k)
    t.bclk = b ∧
    (e.mit = none → (t.sub c sc).unraa = ((s.sub c sc).refreshed (e.rk, e.ba) k ((s.goto b).rfcAt c sc (s.goto b).esc.frame) true).unraa) ∧
    ∀ m, e.mit = some m → (t.sub c sc).emergs = eraseFirst (fun y => y == e) (s.sub c sc).emergs ∧
      { (t.sub c sc).unraa with emergs := [] } = { ((s.sub c sc).mitigated m k ((s.goto b).mitLen c m) true).unraa with emergs := [] } := by
  intro t k b
  have ht : t = _ := emergencyCommand_eq h hreach
  have hgoto : (s.goto b).sub c sc = s.sub c sc := sub_of_subs ((goto_kept_self s b).part .subs (by decide)) c sc
  have hsub : t.sub c sc = ((s.goto b).emergIssued c sc e k).sub c sc := by rw [ht, sub_balInterrupt]
  refine ⟨?_, fun hm => ?_, fun m hm => ?_⟩
  · have hbal := (State.balInterrupt_kept (Within.self _) (Kept.refl _ ((s.goto b).emergIssued c sc e k)) c
      (State.rankPos ((s.goto b).emergIssued c sc e k) sc e.rk)).part .bclk (by decide)
    rw [ht]
    exact hbal.trans (((emergIssued_kept (s.goto b) c sc e k).part .bclk (by decide)).trans
      ((bclk_goto s b).trans (max_eq_right (le_max_left _ _))))
  · have hissue : (s.goto b).emergIssued c sc e k = (s.goto b).issueRef c sc (e.rk, e.ba) k ((s.goto b).rfcAt c sc (s.goto b).esc.frame) true := by
      unfold State.emergIssued
      rw [hm]
    rw [hsub, hissue, unraa_issueRef, hgoto]
  · have hissue : (s.goto b).emergIssued c sc e k = ((s.goto b).issueMit c sc m k true).updSub c sc fun u =>
        { u with emergs := eraseFirst (fun x => x == e) u.emergs } := by
      unfold State.emergIssued
      rw [hm]
    have hmit := unraa_issueMit (s.goto b) c sc m k true
    rw [hgoto] at hmit
    have hem := congrArg Sub.emergs hmit
    rw [hsub, hissue, State.sub_upd_self]
    exact ⟨congrArg (eraseFirst fun y => y == e) hem, congrArg (fun u : Sub => { u with emergs := [] }) hmit⟩

/-! ### A channel is awake (R417 to R419) -/

/-- The channel as it has left self-refresh. -/
def Chan.wakened (ch : Chan) : Chan :=
  { ch with sr := .awake, rate2x := true, rateNext := none, wakes := wrapAdd 8 ch.wakes 1, idleCnt := 0, mr4Norm := [] }

/-- The state of a channel that has left self-refresh, before what it raises. -/
def State.wakened (s : State) (c : Nat) : State :=
  [0, 1].foldl (fun s sc => s.updSub c sc fun b => { b with debt := [] })
    ((s.updChan c fun ch => ch.wakened).updBal c fun b => { b with trig := Nat.lor b.trig 16 })

theorem srExit_eq {s : State} {c : Nat} (hc : c < 17) (hsr : (s.chan c).sr = .waking)
    (hreach : s.canReach (max s.bclk (s.chan c).readyAt) = true) :
    s.srExit c = (((s.goto (max s.bclk (s.chan c).readyAt)).wakened c).raise (.cc c) 2).scrubRaise c := by
  have heq : s.srExit c = if 17 ≤ c ∨ (s.chan c).sr ≠ .waking ∨ !s.canReach (max s.bclk (s.chan c).readyAt) then s
      else (((s.goto (max s.bclk (s.chan c).readyAt)).wakened c).raise (.cc c) 2).scrubRaise c := rfl
  rw [heq]
  refine if_neg ?_
  rintro (h | h | h)
  · omega
  · exact h hsr
  · rw [hreach] at h
    exact Bool.noConfusion h

theorem debt_wakened (s : State) (c sc : Nat) (h : sc < 2) : ((s.wakened c).sub c sc).debt = [] := by
  have heq : ∀ u : State, [0, 1].foldl (fun s sc => s.updSub c sc fun b => { b with debt := [] }) u =
      (u.updSub c 0 fun b => { b with debt := [] }).updSub c 1 fun b => { b with debt := [] } := fun _ => rfl
  unfold State.wakened
  rw [heq]
  obtain rfl | rfl : sc = 0 ∨ sc = 1 := by omega
  · rw [State.sub_upd_ne _ (by omega), State.sub_upd_self]
  · rw [State.sub_upd_self]

theorem bclk_wakened (s : State) (c : Nat) : (s.wakened c).bclk = s.bclk := by
  unfold State.wakened
  refine (foldl_keeps (fun u : State => u.bclk) (fun u i => ?_) _ _).trans ?_
  · rfl
  · rfl

theorem chan_wakened (s : State) (c : Nat) : ((s.wakened c).chan c).sr = .awake ∧ ((s.wakened c).chan c).rate2x = true ∧
    ((s.wakened c).chan c).wakes = wrapAdd 8 (s.chan c).wakes 1 := by
  have heq : (s.wakened c).chan c = ((s.updChan c fun ch => ch.wakened).updBal c fun b => { b with trig := Nat.lor b.trig 16 }).chan c := rfl
  rw [heq, chan_updBal, State.chan_upd_self]
  exact ⟨rfl, rfl, rfl⟩

/-- The scrubber's next read changes only its own part of its channel. -/
theorem scrubRaise_keeps (s : State) (c : Nat) : ((s.scrubRaise c).chan c).sr = (s.chan c).sr ∧
    ((s.scrubRaise c).chan c).rate2x = (s.chan c).rate2x ∧ ((s.scrubRaise c).chan c).wakes = (s.chan c).wakes := by
  unfold State.scrubRaise
  dsimp only
  split
  · exact ⟨rfl, rfl, rfl⟩
  · unfold State.updScrub
    rw [State.chan_upd_self]
    exact ⟨rfl, rfl, rfl⟩

/-- The channel is awake. -/
theorem wakened_meets (u : State) (c : Nat) {t : State} (ht : t = ((u.wakened c).raise (.cc c) 2).scrubRaise c) :
    t.bclk = u.bclk ∧ (t.chan c).sr = .awake ∧ (t.chan c).rate2x = true ∧ (t.chan c).wakes = wrapAdd 8 (u.chan c).wakes 1 ∧
      (∀ sc, sc < 2 → (t.sub c sc).debt = []) ∧ flag (t.page (.cc c)).isr 2 = true := by
  subst ht
  have wclk := bclk_wakened u c
  obtain ⟨wsr, wrate, wwakes⟩ := chan_wakened u c
  have wdebt := debt_wakened u c
  generalize hv : u.wakened c = v at *
  have hscrub := State.scrubRaise_kept (Within.self _) (Kept.refl _ (v.raise (.cc c) 2)) c
  obtain ⟨hsr, hrate, hwakes⟩ := scrubRaise_keeps (v.raise (.cc c) 2) c
  rw [chan_raise] at hsr hrate hwakes
  refine ⟨(hscrub.part .bclk (by decide)).trans wclk, hsr.trans wsr, hrate.trans wrate, hwakes.trans wwakes, fun sc hsc => ?_, ?_⟩
  · rw [sub_of_subs (hscrub.part .subs (by decide)) c sc, sub_raise]
    exact wdebt sc hsc
  · exact IsrGrows.of_pages (hscrub.part .pages (by decide)) (.cc c) 2 (flag_raise v (.cc c) (by decide))

/-- Settles O51: each command's state equation, and what its steps keep of the records, the packets and the clock. -/
theorem subchannelsServe : Obligations.SubchannelsServe := by
  intro s c
  refine ⟨?_, ?_, ?_, ?_, ?_⟩
  · intro s0 p r hfirst hfence hroom b v u hreach
    have heq := channelEnqueue_eq hfirst hfence hroom hreach
    have hb : u.bclk = max s0.bclk (b + 2) := bclk_reqTaken
    obtain ⟨hserve, hoff⟩ := reqTaken_meets u c r (b + 2)
    refine ⟨fun hpark hcal huse => ?_, fun hpark hsrc => ?_⟩
    · have ht : s.channelEnqueue c = (u.enqueue c r (b + 2)).mirrorMarked c r.loc.sc u.nextSn (u.mirrors c r) := by
        refine heq.trans (if_neg ?_)
        rintro (h | h)
        · exact Bool.noConfusion (hpark.symm.trans h)
        · exact Bool.noConfusion (hcal.symm.trans h)
      obtain ⟨hat, hbounce⟩ := hserve huse
      refine ⟨fun g q hplace => ?_, fun n hplace => ?_⟩
      · obtain ⟨hclk, hrest⟩ := hat g q hplace _ ht
        exact ⟨_, exec_channelEnqueue s c, hclk.trans hb, hrest⟩
      · obtain ⟨hclk, hrest⟩ := hbounce n hplace _ ht
        exact ⟨_, exec_channelEnqueue s c, hclk.trans hb, hrest⟩
    · obtain ⟨hclk, hrest⟩ := hoff hsrc _ (heq.trans (if_pos hpark))
      exact ⟨_, exec_channelEnqueue s c, hclk.trans hb, hrest⟩
  · intro r e hgnt hch b u hreach
    have heq := crownEnqueue_eq hgnt hch hreach
    obtain ⟨hpark, hfence, hcal⟩ := crownStart_serves u c b
    refine ⟨fun hp hf hk => ?_, fun hout => ?_⟩
    · refine ⟨_, exec_crownAccessEnqueue s, crownIn_meets u c r b (heq.trans (if_neg ?_))⟩
      rw [hpark, hfence, hcal, hp, hf, hk]
      decide
    · refine ⟨_, exec_crownAccessEnqueue s, crownAnswer_meets u c b hch (heq.trans (if_pos ?_))⟩
      rw [hpark, hfence, hcal]
      exact hout
  · intro sc err v rest hserved b u hreach hsrc huse
    obtain ⟨hclk, hrest⟩ := decoded_meets u c sc v rest (decodeLine ((u.chan c).elog.markOf (u.rankPos sc v.req.loc.rk)) (v.raw ^^^ err)) b
      (readDecode_eq err hserved hreach hsrc huse)
    exact ⟨_, exec_readDecode s c sc err, hclk.trans (bclk_goto s b), hrest⟩
  · intro sc e hnext k b hreach
    obtain ⟨hclk, href, hmit⟩ := emergencyCommand_ref hnext hreach
    refine ⟨fun hm => ?_, fun m hm => ?_⟩
    · have h := href hm
      refine ⟨_, exec_emergencyCommand s c sc, hclk, ?_, _, congrArg Sub.refs h, rfl, rfl, rfl, rfl⟩
      exact (congrArg (fun x : Sub => x.debtAt (e.rk, e.ba)) h).trans (debtAt_setDebt _ _ _)
    · obtain ⟨hem, hrest⟩ := hmit m hm
      exact ⟨_, exec_emergencyCommand s c sc, hclk, hem, congrArg Sub.mits hrest, _, congrArg Sub.refs hrest, rfl, rfl, rfl, rfl⟩
  · intro b hsr hreach
    obtain ⟨hclk, hsr', hrate, hwakes, hdebt, hflag⟩ := wakened_meets (s.goto b) c (srExit_eq c.isLt hsr hreach)
    refine ⟨_, exec_selfRefreshExitDone s c, hclk.trans ((bclk_goto s b).trans (max_eq_right (le_max_left _ _))), hsr', hrate, ?_,
      hdebt, hflag⟩
    exact hwakes.trans (congrArg (fun n => wrapAdd 8 n 1) ((Passing.goto s b).chanField Chan.wakes (fun _ => rfl) c))

end Sys2Proof.Machine
end

section
/-! Resets (R423, R424, R514, R515, R612). -/
namespace Sys2Proof.Machine

theorem exec_warmReset (s : State) : exec .warmReset s = .next s.warmReset := rfl
theorem exec_powerFailure (s : State) (code : Nat) : exec (.powerFailure code) s = .next (s.powerFailure code) := rfl

/-! ### The channels of a warm reset -/

/-- A channel whose lines are lost (R512). -/
def Chan.emptied (ch : Chan) (fill : Bool) : Chan := { ch with filled := fill, memGen := ch.memGen + 1 }

/-- What a channel is after a warm reset (R423, R514). -/
def State.warmedChan (s : State) (c : Nat) : Chan := if (s.keptChan c).retained then s.keptChan c else (s.keptChan c).emptied false

section
variable (s r : State) (c : Nat)

theorem chan_loseLines (fill : Bool) (d : Nat) : (s.loseLines c fill).chan d = if d = c then (s.chan c).emptied fill else s.chan d :=
  Tbl.get_upd (d := fun _ => ({} : Chan)) s.chans c d fun ch : Chan => ch.emptied fill

theorem chan_setBoth (p : PageId) (off : Nat) (v : Word) (d : Nat) : (s.setBoth p off v).chan d = s.chan d := rfl

theorem chan_warmChan_self : (s.warmChan r c).chan c = s.warmedChan c := by
  unfold State.warmChan State.warmedChan
  dsimp only
  rw [chan_setBoth, State.chan_upd_self]
  split
  · rw [State.chan_upd_self]
  · rw [chan_loseLines, if_pos rfl, State.chan_upd_self]

theorem chan_warmChan_ne {d : Nat} (h : d ≠ c) : (s.warmChan r c).chan d = r.chan d := by
  unfold State.warmChan
  dsimp only
  rw [chan_setBoth]
  split
  · rw [State.chan_upd_ne _ h]
  · rw [chan_loseLines, if_neg h, State.chan_upd_ne _ h]

/-- A channel that a list names is as its own step leaves it. -/
theorem chan_foldl_of_mem {g : State → Nat → State} {f : Nat → Chan} (hself : ∀ s i, (g s i).chan i = f i)
    (hother : ∀ s i d, d ≠ i → (g s i).chan d = s.chan d) (l : List Nat) (s : State) {c : Nat} (hc : c ∈ l ∨ s.chan c = f c) :
    (l.foldl g s).chan c = f c := by
  induction l generalizing s with
  | nil => exact hc.resolve_left List.not_mem_nil
  | cons i l ih =>
    rw [List.foldl_cons]
    refine ih _ ?_
    by_cases h : c = i
    · subst h
      exact .inr (hself s c)
    · rw [hother s i c h]
      exact hc.imp (fun hm => (List.mem_cons.mp hm).resolve_left h) id

theorem keptChan_retained : (s.keptChan c).retained = ((s.chan c).sr == .parked && flag (s.reg (.cc c) 0x050) 16) := rfl

theorem warmedChan_keeps : (s.warmedChan c).elog = (s.chan c).elog ∧ (s.warmedChan c).role = 31 ∧
    if (s.chan c).sr = .parked ∧ flag (s.reg (.cc c) 0x050) 16 = true then
      (s.warmedChan c).sr = .parked ∧ (s.warmedChan c).retained = true ∧ (s.warmedChan c).memGen = (s.chan c).memGen ∧
        (s.warmedChan c).filled = (s.chan c).filled
    else (s.warmedChan c).sr = .awake ∧ (s.warmedChan c).retained = false ∧ (s.warmedChan c).memGen = (s.chan c).memGen + 1 ∧
      (s.warmedChan c).filled = false := by
  unfold State.warmedChan
  by_cases hkeep : (s.chan c).sr = .parked ∧ flag (s.reg (.cc c) 0x050) 16 = true
  · have hret : (s.keptChan c).retained = true := by rw [keptChan_retained, hkeep.1, hkeep.2]; rfl
    have hsr : (s.keptChan c).sr = if (s.keptChan c).retained = true then .parked else .awake := rfl
    rw [if_pos hret, if_pos hkeep]
    exact ⟨rfl, rfl, hsr.trans (if_pos hret), hret, rfl, rfl⟩
  · have hret : ¬(s.keptChan c).retained = true := by
      rw [keptChan_retained, Bool.and_eq_true, beq_iff_eq]
      exact hkeep
    have hsr : (s.keptChan c).sr = if (s.keptChan c).retained = true then .parked else .awake := rfl
    rw [if_neg hret, if_neg hkeep]
    exact ⟨rfl, rfl, hsr.trans (if_neg hret), Bool.eq_false_iff.mpr hret, rfl, rfl⟩

theorem chan_warmReset (hc : c < 17) : s.warmReset.chan c = s.warmedChan c := by
  rw [warmReset_eq]
  exact chan_foldl_of_mem (fun r i => chan_warmChan_self s r i) (fun r i d h => chan_warmChan_ne s r i h) _ _
    (.inl (List.mem_range.mpr hc))

/-! ### The rest of a warm reset -/

/-- What a reset's domain is judged by: all but pages, channels and lines. -/
def State.domain (s : State) : (Nat × Bool × Esc × Bool) × List Pkt × Tbl Nat × Blk × Jwl × Mvc :=
  ((s.phase, s.locked, s.esc, s.warm), s.pkts, s.gens, s.blk, s.jwl, s.mvc)

theorem domain_setBoth (p : PageId) (off : Nat) (v : Word) : (s.setBoth p off v).domain = s.domain := rfl

theorem domain_setStart (p : PageId) (off : Nat) (v : Word) : (s.setStart p off v).domain = s.domain := by
  unfold State.setStart
  split
  · rfl
  · dsimp only
    split
    · rfl
    · split <;> rfl

theorem domain_warmChan : (s.warmChan r c).domain = r.domain := by
  unfold State.warmChan
  dsimp only
  rw [domain_setBoth]
  split <;> rfl

theorem domain_warmReset : s.warmReset.domain =
    ((0, false, {}, true), [], s.gens, { badAccCnt := s.blk.badAccCnt }, { copies := s.jwl.copies },
      { slot := s.mvc.slot, verA := s.mvc.verA, verB := s.mvc.verB, faults := s.mvc.faults, swaps := s.mvc.swaps }) := by
  have hbase : s.warmBase.domain = ((0, false, {}, true), [], s.gens, { badAccCnt := s.blk.badAccCnt }, { copies := s.jwl.copies },
      { slot := s.mvc.slot, verA := s.mvc.verA, verB := s.mvc.verB, faults := s.mvc.faults, swaps := s.mvc.swaps }) :=
    (domain_setStart _ _ _ _).trans (domain_setStart _ _ _ _)
  rw [warmReset_eq]
  exact (foldl_keeps State.domain (fun r c => domain_warmChan s r c) _ _).trans hbase

/-! ### A loss of supply (R612) -/

/-- The state as the supply fails: the copy being written is as the failure says. -/
def State.supplyLost (s : State) (code : Nat) : State :=
  match s.jwlNext with
  | some c => if code = 0 ∨ 6 ≤ code then s else s.setCopy c (s.jwlDest c).1 { s.jwlCopy c (s.jwlDest c).1 with st := code }
  | none => s

/-- What a loss of supply leaves. -/
def State.coldStart (u : State) : State :=
  { State.reset with
    pending := u.pending, jwl := { copies := u.jwl.copies }, mvc := { slot := u.mvc.slot, verA := u.mvc.verA, verB := u.mvc.verB },
    nextSn := u.nextSn, nextFree := u.nextFree }

theorem powerFailure_eq (code : Nat) : s.powerFailure code = (s.supplyLost code).coldStart := rfl

theorem mvc_supplyLost (code : Nat) : (s.supplyLost code).mvc = s.mvc := by
  unfold State.supplyLost
  split
  · split <;> rfl
  · rfl

theorem supplyLost_of_none {s : State} (h : s.jwlNext = none) (code : Nat) : s.supplyLost code = s := by
  unfold State.supplyLost
  rw [h]

theorem jwlCopy_supplyLost {s : State} {c code : Nat} (h : s.jwlNext = some c) (hlo : 1 ≤ code) (hhi : code < 6) :
    (s.supplyLost code).coldStart.jwlCopy c (s.jwlDest c).1 = { s.jwlCopy c (s.jwlDest c).1 with st := code } := by
  have heq : s.supplyLost code = s.setCopy c (s.jwlDest c).1 { s.jwlCopy c (s.jwlDest c).1 with st := code } := by
    unfold State.supplyLost
    rw [h]
    exact if_neg (by omega)
  rw [heq]
  exact Tbl.get_set_self (d := fun _ => ({} : JwlCopy)) s.jwl.copies (2 * c + (s.jwlDest c).1) _

end

/-- Settles O55: a warm reset's own state equation and its channels one by one; a loss of supply is a reset with what the supply keeps. -/
theorem resetsKeepTheirDomain : Obligations.ResetsKeepTheirDomain := by
  intro s
  refine ⟨⟨_, exec_warmReset s, ?_⟩, fun code => ⟨_, exec_powerFailure s code, ?_⟩⟩
  · have hdom := domain_warmReset s
    simp only [State.domain, Prod.mk.injEq] at hdom
    obtain ⟨⟨hphase, hlocked, hesc, hwarm⟩, hpkts, hgens, hblk, hjwl, hmvc⟩ := hdom
    refine ⟨hphase, hlocked, (congrArg Esc.running hesc :), (congrArg Esc.frame hesc :), hwarm, hpkts, hgens, (congrArg Blk.badAccCnt hblk :), hjwl,
      (congrArg Mvc.slot hmvc :), (congrArg Mvc.running hmvc :), fun c hc => ?_⟩
    rw [chan_warmReset s c hc]
    exact warmedChan_keeps s c
  · rw [powerFailure_eq]
    have hmvc := mvc_supplyLost s code
    refine ⟨rfl, rfl, rfl, rfl, rfl, rfl, (congrArg Mvc.slot hmvc :), (congrArg Mvc.verA hmvc :), (congrArg Mvc.verB hmvc :), fun hnone => ?_,
      fun c hc hlo hhi => jwlCopy_supplyLost hc hlo hhi⟩
    rw [supplyLost_of_none hnone]
    rfl

end Sys2Proof.Machine
end

section
/-! Fast restore, the fill and the thermal headroom (R504, R509, R511, R512, R524, R528, R878, R950). -/
namespace Sys2Proof.Machine

theorem exec_fastRestoreDone (s : State) (c : Fin 17) (pass : Bool) : exec (.fastRestoreDone c pass) s = .next (s.fastRestoreDone c pass) := rfl
theorem exec_zeroFillDone (s : State) (c : Fin 17) :
    exec (.zeroFillDone c) s = .next (if s.filling.contains c.val then s.zeroFillDone c else s.fillDone c) := rfl
theorem exec_thermUpd (s : State) (h j : BitVec 8) : exec (.thermUpd h j) s = .next (s.thermUpd h.toNat j.toNat) := rfl
theorem exec_headroomStale (s : State) : exec .headroomStale s = .next s.headroomStale := rfl

/-! ### How a run ends (R504, R509) -/

/-- A run's record as the run ends. -/
def Cal.ended (x : Cal) (ms : Nat) : Cal := { x with kind := 0, place := x.place && x.owner == 4, elapsed := ms }

/-- A channel as its run ends. -/
def Chan.calEnded (ch : Chan) (rate : Bool) : Chan := { ch with calRun := false, rate2x := rate, rateNext := none }

/-- The state of a run that ends, before its channel is free. -/
def State.calStopped (s : State) (c : Nat) : State :=
  [0, 1].foldl (fun s sc => s.updSub c sc fun b => { b with debt := [], refs := [], emergs := [] })
    (s.updCal c fun x => x.ended (min 255 (s.msOf (s.bclk - (s.cal c).start))))

/-- A channel that passed its run. -/
def Chan.calPassed (ch : Chan) (restored : Bool) : Chan :=
  { ch with calState := 3, filled := if restored then ch.filled else false, elog := if restored then ch.elog else ch.elog.clearMarks }

/-- Balance as a run passes. -/
def Bal.afterRun (b : Bal) : Bal := { b with trig := Nat.lor b.trig 8, lanes := [], probes := [], ranks := [], running := false }

/-- The record of a fast restore that failed (R509). -/
def Cal.restoreFailed (x : Cal) (reason : Nat) : Cal :=
  { x with restoreFails := wrapAdd 8 x.restoreFails 1, step := 12, failWord := packNat [(0, 4, 12), (12, 4, reason)] }

section
variable (s : State) (c : Nat)

theorem calEnd_eq : s.calEnd c = ((s.calStopped c).updChan c fun ch =>
    ch.calEnded (((s.calStopped c).rateDemand c ((s.calStopped c).reg (.cc c) 0x054)).getD ch.rate2x)).clearReq c := rfl

theorem calStopped_keeps : (s.calStopped c).chans = s.chans ∧
    (s.calStopped c).cals = (s.updCal c fun x => x.ended (min 255 (s.msOf (s.bclk - (s.cal c).start)))).cals := by
  unfold State.calStopped
  refine ⟨foldl_keeps State.chans (fun u i => ?_) _ _, foldl_keeps State.cals (fun u i => ?_) _ _⟩
  · rfl
  · rfl

theorem chan_calEnd : ∃ rate, (s.calEnd c).chan c = (s.chan c).calEnded rate := by
  rw [calEnd_eq, chan_of_chans ((State.clearReq_kept (Within.self _) (Kept.refl _ _) c).part .chans (by decide)) c, State.chan_upd_self,
    chan_of_chans (calStopped_keeps s c).1]
  exact ⟨_, rfl⟩

theorem cals_calEnd : (s.calEnd c).cals = (s.updCal c fun x => x.ended (min 255 (s.msOf (s.bclk - (s.cal c).start)))).cals := by
  rw [calEnd_eq]
  exact ((State.clearReq_kept (Within.self _) (Kept.refl _ _) c).part .cals (by decide)).trans (calStopped_keeps s c).2

theorem cal_of_cals {s t : State} (h : t.cals = s.cals) (c : Nat) : t.cal c = s.cal c := by unfold State.cal; rw [h]

theorem cal_calEnd : (s.calEnd c).cal c = (s.cal c).ended (min 255 (s.msOf (s.bclk - (s.cal c).start))) := by
  rw [cal_of_cals (cals_calEnd s c), State.cal_upd_self]

theorem chan_updCal (f : Cal → Cal) (d : Nat) : (s.updCal c f).chan d = s.chan d := rfl

/-- The state of a run that has passed, before its record is queued (R538, R559). -/
def State.calPassed (s : State) (c : Nat) (restored : Bool) : State :=
  ((((s.calEnd c).updCal c fun x => { x with restored := restored }).updChan c fun ch => ch.calPassed restored).raise (.cal c) 0).updBal c
    fun b => b.afterRun

theorem calPassed_chan (restored : Bool) : ∃ rate bal,
    (s.calPassed c restored).chan c = { ((s.chan c).calEnded rate).calPassed restored with bal := bal } := by
  obtain ⟨rate, hchan⟩ := chan_calEnd s c
  unfold State.calPassed
  generalize s.calEnd c = v at *
  rw [chan_updBal, chan_raise, State.chan_upd_self, chan_updCal, hchan]
  exact ⟨rate, _, rfl⟩

theorem calPassed_cal (restored : Bool) : (s.calPassed c restored).cal c =
    { (s.cal c).ended (min 255 (s.msOf (s.bclk - (s.cal c).start))) with restored := restored } := by
  have hcal := cal_calEnd s c
  unfold State.calPassed
  generalize s.calEnd c = v at *
  have hsame : ∀ (u : State) (f : Chan → Chan) (g : Bal → Bal), (((u.updChan c f).raise (.cal c) 0).updBal c g).cal c = u.cal c :=
    fun _ _ _ => rfl
  rw [hsame, State.cal_upd_self, hcal]

theorem calPassed_isr (restored : Bool) : flag ((s.calPassed c restored).page (.cal c)).isr 0 = true := by
  have hpage : ∀ (u : State) (g : Bal → Bal), (u.updBal c g).page (.cal c) = u.page (.cal c) := fun _ _ => rfl
  unfold State.calPassed
  rw [hpage]
  exact flag_raise _ (.cal c) (by decide)

/-- What a fast restore that passes leaves (R504). -/
theorem calPass_restored_meets {t : State} (ht : t = s.calPass c true) :
    (t.chan c).calState = 3 ∧ (t.chan c).calRun = false ∧ (t.cal c).restored = true ∧ (t.cal c).kind = 0 ∧
      (t.chan c).filled = (s.chan c).filled ∧ (t.chan c).memGen = (s.chan c).memGen ∧ flag (t.page (.cal c)).isr 0 = true := by
  have heq : t = s.calPassed c true := ht
  obtain ⟨rate, bal, hchan⟩ := calPassed_chan s c true
  rw [heq, hchan, calPassed_cal]
  exact ⟨rfl, rfl, rfl, rfl, rfl, rfl, calPassed_isr s c true⟩

theorem cal_goFull : (s.goFull c).cal c = { s.cal c with kind := 1, fell := (s.chan c).calState == 2 } :=
  State.cal_upd_self s c fun x => { x with kind := 1, fell := (s.chan c).calState == 2 }

theorem chan_goFull : (s.goFull c).chan c = { s.chan c with calState := 1, calRun := false } := State.chan_upd_self ..

/-- The state in which a fast restore has fallen back to full training, before its interrupt (R509). -/
def State.fellBack (s : State) (c reason : Nat) : State :=
  ((s.updCal c fun x => x.restoreFailed reason).goFull c).updChan c fun ch => { ch with retained := false }

theorem restoreFail_meets (reason : Nat) {t : State} (ht : t = s.restoreFail c reason) :
    (t.chan c).calState = 1 ∧ (t.cal c).kind = 1 ∧ (t.cal c).restoreFails = wrapAdd 8 (s.cal c).restoreFails 1 ∧
      flag (t.page (.cal c)).isr 1 = true := by
  have heq : t = (s.fellBack c reason).raise (.cal c) 1 := ht
  have hchan : (s.fellBack c reason).chan c = { ((s.updCal c fun x => x.restoreFailed reason).goFull c).chan c with retained := false } :=
    State.chan_upd_self ..
  have hgo := chan_goFull (s.updCal c fun x => x.restoreFailed reason) c
  have hcal : (s.fellBack c reason).cal c = ((s.updCal c fun x => x.restoreFailed reason).goFull c).cal c := rfl
  rw [cal_goFull, State.cal_upd_self] at hcal
  rw [heq]
  refine ⟨?_, ?_, ?_, flag_raise _ (.cal c) (by decide)⟩
  · rw [chan_raise, hchan, hgo]
  · exact congrArg Cal.kind hcal
  · exact congrArg Cal.restoreFails hcal

end

/-- The state of a fast restore whose sanity reads are over: what they wrote is lost but in a retained channel (R508). -/
def State.sanityOver (s : State) (c : Nat) : State := if (s.chan c).retained then s else s.sanityLines c

theorem fastRestoreDone_eq {s : State} {c : Nat} (hc : c < 17) (hst : (s.chan c).calState = 2) (hkind : (s.cal c).kind = 2)
    (hsr : (s.chan c).sr = .awake) (pass : Bool) :
    s.fastRestoreDone c pass = if pass then (s.sanityOver c).calPass c true else (s.sanityOver c).restoreFail c 8 := by
  have heq : s.fastRestoreDone c pass = if 17 ≤ c ∨ (s.chan c).calState ≠ 2 ∨ (s.cal c).kind ≠ 2 ∨ (s.chan c).sr ≠ .awake then s
      else if pass then (s.sanityOver c).calPass c true else (s.sanityOver c).restoreFail c 8 := rfl
  rw [heq]
  refine if_neg ?_
  rintro (h | h | h | h)
  · omega
  · exact h hst
  · exact h hkind
  · exact h hsr

theorem sanityOver_kept (s : State) (c : Nat) : Kept 0x8800 s (s.sanityOver c) := by
  unfold State.sanityOver
  split
  · exact Kept.refl _ s
  · exact State.sanityLines_kept (Within.self _) (Kept.refl _ s) c

/-! ### A fill ends (R511, R512, R878) -/

/-- A key that is dropped reads as its default. -/
theorem get_drop {α : Type} {d : Nat → α} {p : Nat → Bool} (t : Tbl α) (n : Nat) (h : p n = true) : Tbl.get d (Tbl.drop p t) n = d n := by
  induction t with
  | nil => rfl
  | cons e t ih =>
    unfold Tbl.drop at ih ⊢
    rw [List.filter_cons]
    split
    · next hkeep =>
      have hne : ¬n = e.1 := by
        rintro rfl
        rw [h] at hkeep
        exact Bool.noConfusion hkeep
      exact (if_neg hne).trans ih
    · exact ih

section
variable (s : State) (c : Nat)

/-- The state of a channel whose fill has ended: its lines are zero and it takes set 0 (R511). -/
def State.refilled (s : State) (c : Nat) : State := (s.loseLines c true).bootTables c 0 true

theorem refilled_kept : Kept 0x20000260 (s.loseLines c true) (s.refilled c) :=
  State.bootTables_kept (Within.self _) (Kept.refl _ _) ..

theorem chan_refilled : (s.refilled c).chan c = (s.chan c).emptied true := by
  rw [chan_of_chans ((refilled_kept s c).part .chans (by decide)), chan_loseLines, if_pos rfl]

/-- A line of the channel reads as zero. -/
theorem readLine_refilled {l : Loc} (hkey : chanOfKey (locKey l) = c) : (s.refilled c).readLine l = 0 := by
  have hmem : (s.refilled c).mem = Tbl.drop (fun key => chanOfKey key == c) s.mem := (refilled_kept s c).part .mem (by decide)
  have hget : Tbl.get (fun _ => none) (s.refilled c).mem (locKey l) = none := by
    rw [hmem]
    exact get_drop _ _ (beq_iff_eq.mpr hkey)
  unfold State.readLine
  rw [hget, hkey, chan_refilled]
  rfl

theorem zeroFillDone_eq (h8 : s.phase = 8) (hrun : s.mvc.running = true) (hfill : s.filling.contains c = true) (hdone : s.tablesDone c = true) :
    s.zeroFillDone c = { s.refilled c with filling := s.filling.filter (· != c) } := by
  have heq : s.zeroFillDone c = if s.phase = 8 then
      if !s.filling.contains c ∨ !s.tablesDone c ∨ !s.mvc.running then s
      else { s.refilled c with filling := s.filling.filter (· != c) }
    else s.fillDone c := rfl
  rw [heq, if_pos h8]
  exact if_neg (by rw [hrun, hfill, hdone]; decide)

theorem zeroFillDone_of_live (h8 : s.phase ≠ 8) : s.zeroFillDone c = s.fillDone c := if_neg h8

/-- A rejoining channel's pages as its fill ends (R878). -/
def State.rejoinWritten (s : State) (c : Nat) : State :=
  let s := (s.mvcWrite (.cc c) 0x04C 0).mvcWrite (.cc c) 0x090 0
  let s := (PageId.cc c).rsOffs.foldl (fun s o => s.mvcShadow (.cc c) o (s.intentOf (.cc c) o) false) s
  let s := s.mvcCommit (.cc c) (s.ahead 3)
  let s := [PageId.phy c, .cal c, .elog c].foldl (fun s p => s.reapply p) s
  [PageId.bal c, .brl c, .brlHeat c].foldl (fun s p => (s.enable p).reapply p) s

/-- A rejoin whose fill has ended waits for the frame at which it is whole (R878). -/
def State.rejoinSoon (s : State) (k : Task) : State :=
  { s with task := { k with rjn := some (5, s.soonFrame), until_ := some (s.esc.frame + 3 + b2n s.pastLatch) } }

theorem rejoinSoon_keeps (k : Task) : (s.rejoinSoon k).chans = s.chans ∧ (s.rejoinSoon k).task.kind = k.kind ∧
    (s.rejoinSoon k).task.rjn = some (5, s.soonFrame) := ⟨rfl, rfl, rfl⟩

theorem fillDone_rejoin (hkind : s.task.kind = 2) (hdst : s.task.dst = c) (hdone : s.tablesDone c = true) (hrun : s.mvc.running = true)
    (hrjn : (s.chan c).rjn = 4) (hbusy : s.pagesBusy [.cc c] = false) :
    s.fillDone c = ((s.refilled c).rejoinWritten c).rejoinSoon s.task := by
  have hgo : ¬(s.task.dst ≠ c ∨ (!s.tablesDone c) = true ∨ (!s.mvc.running) = true) := by
    rw [hdone, hrun]
    rintro (h | h | h)
    · exact h hdst
    · exact Bool.noConfusion h
    · exact Bool.noConfusion h
  unfold State.fillDone
  extract_lets k u1 u2 u3 u4 u5 u6
  have hu : u6 = (s.refilled c).rejoinWritten c := rfl
  rw [← hu]
  clear_value u6
  exact (if_neg hgo).trans (if_pos ⟨hkind, hrjn, by rw [hbusy]; rfl⟩)

/-- What the rejoin's pages are told to leave: the channels and the frame that comes soon. -/
def State.soonView (s : State) : Tbl Chan × Nat := (s.chans, s.soonFrame)

theorem soonView_of_kept {s t : State} (h : Kept 0x20000260 s t) : t.soonView = s.soonView :=
  Prod.ext (h.part .chans (by decide))
    (soonFrame_of_parts (h.part .esc (by decide)) (h.part .bclk (by decide)) (h.part .bin (by decide)))

theorem soonView_enable (p : PageId) : (s.enable p).soonView = s.soonView :=
  Prod.ext ((State.enable_kept (Within.self _) (Kept.refl _ s) p).part .chans (by decide)) (soonFrame_enable s p)

theorem soonView_rejoinWritten : (s.rejoinWritten c).soonView = s.soonView := by
  have hreapply : ∀ (u : State) (p : PageId), (u.reapply p).soonView = u.soonView := fun u p =>
    soonView_of_kept (State.reapply_kept (Within.self _) (Kept.refl _ u) p)
  have hshadow : ∀ (u : State) (p : PageId) (o : Nat) (v : Word) (k : Bool), (u.mvcShadow p o v k).soonView = u.soonView := fun u p o v k =>
    soonView_of_kept (State.mvcShadow_kept (Within.of (Within.self _) (by decide)) (Kept.refl _ u) p o v k)
  unfold State.rejoinWritten
  dsimp only
  rw [foldl_keeps State.soonView (fun u p => (hreapply _ p).trans (soonView_enable u p)), foldl_keeps State.soonView hreapply,
    soonView_of_kept (State.mvcCommit_kept (Within.self _) (Kept.refl _ _) ..), foldl_keeps State.soonView (fun u o => hshadow u _ o _ _)]
  exact (hshadow _ _ _ _ _).trans (hshadow _ _ _ _ _)

theorem rejoinWritten_keeps : (s.rejoinWritten c).chans = s.chans ∧ (s.rejoinWritten c).soonFrame = s.soonFrame := by
  have h := soonView_rejoinWritten s c
  unfold State.soonView at h
  exact Prod.mk.inj h

theorem soonFrame_refilled : (s.refilled c).soonFrame = s.soonFrame :=
  congrArg Prod.snd (soonView_of_kept (refilled_kept s c))

end

/-! ### The thermal headroom (R524, R528, R950) -/

theorem headroomStale_eq {s : State} {b : Nat} (hcap : s.therm.capBclk = some b) (hfresh : s.therm.stale = false)
    (hreach : s.canReach (max s.bclk (b + s.bin.us 1000)) = true) :
    s.headroomStale = { s.goto (max s.bclk (b + s.bin.us 1000)) with therm := { s.therm with stale := true } } := by
  unfold State.headroomStale
  rw [hcap]
  exact if_neg (by rw [hfresh, hreach]; decide)

/-- Settles O56: a fast restore's end, a fill's end in start-up and in a rejoin, and the clock of the headroom. -/
theorem restoreFillAndHeadroom : Obligations.RestoreFillAndHeadroom := by
  intro s c
  refine ⟨fun hst hkind hsr => ⟨?_, ?_⟩, fun h8 hrun hfill hdone => ?_, fun h8 hrun hkind hdst hdone hrjn hbusy => ?_, fun hlock h j => ?_,
    fun b hcap hfresh => ?_⟩
  · have hchan : (s.sanityOver c).chan c = s.chan c := chan_of_chans ((sanityOver_kept s c).part .chans (by decide)) c
    obtain ⟨hcal, hrest, hres, hk, hfilled, hgen, hflag⟩ := calPass_restored_meets (s.sanityOver c) c
      (fastRestoreDone_eq c.isLt hst hkind hsr true)
    rw [hchan] at hfilled hgen
    exact ⟨_, exec_fastRestoreDone s c true, hcal, hrest, hres, hk, hfilled, hgen, hflag⟩
  · have hcalsame : (s.sanityOver c).cal c = s.cal c := cal_of_cals ((sanityOver_kept s c).part .cals (by decide)) c
    obtain ⟨hcal, hk, hfails, hflag⟩ := restoreFail_meets (s.sanityOver c) c 8 (fastRestoreDone_eq c.isLt hst hkind hsr false)
    rw [hcalsame] at hfails
    exact ⟨_, exec_fastRestoreDone s c false, hcal, hk, hfails, hflag⟩
  · refine ⟨_, exec_zeroFillDone s c, ?_⟩
    rw [if_pos hfill, zeroFillDone_eq s c h8 hrun hfill hdone]
    have hch := chan_refilled s c
    exact ⟨congrArg Chan.filled hch, congrArg Chan.memGen hch, rfl,
      fun l _ hkey => readLine_refilled s c hkey⟩
  · refine ⟨_, exec_zeroFillDone s c, ?_⟩
    rw [zeroFillDone_of_live s c h8, ite_self, fillDone_rejoin s c hkind hdst hdone hrun hrjn hbusy]
    obtain ⟨hwritten, hsoon⟩ := rejoinWritten_keeps (s.refilled c) c
    have hch : ((s.refilled c).rejoinWritten c).chan c = (s.chan c).emptied true :=
      (chan_of_chans hwritten c).trans (chan_refilled s c)
    obtain ⟨hchans, htask, hwhen⟩ := rejoinSoon_keeps ((s.refilled c).rejoinWritten c) s.task
    rw [chan_of_chans hchans c, hch, htask, hwhen, hsoon, soonFrame_refilled]
    exact ⟨rfl, rfl, hrjn, hkind, rfl⟩
  · refine ⟨_, exec_thermUpd s h j, ?_⟩
    have heq : s.thermUpd h.toNat j.toNat = { s with therm := { s.therm with
        headroom := h.toNat % 256, tj := j.toNat % 256, stale := false, capBclk := some s.bclk,
        prev := if s.therm.capBclk = some s.bclk then s.therm.prev else if s.therm.stale then 0 else s.therm.headroom } } :=
      if_neg (by rw [hlock]; decide)
    rw [heq]
    exact ⟨Nat.mod_eq_of_lt h.isLt, Nat.mod_eq_of_lt j.isLt, rfl, rfl, rfl⟩
  · intro e hreach
    refine ⟨_, exec_headroomStale s, ?_⟩
    rw [headroomStale_eq hcap hfresh hreach]
    exact ⟨(bclk_goto s e).trans (max_eq_right (le_max_left _ _)), rfl⟩

end Sys2Proof.Machine
end

section
/-! Caliper's runs and the record of a run (R532, R535, R536, R538 to R540, R542, R545, R553 to R555, R603, R609). -/
namespace Sys2Proof.Machine

theorem exec_caliperRunStart (s : State) (c : Fin 17) (spd : Spd) : exec (.caliperRunStart c spd) s = .next (s.runStart c spd) := rfl
theorem exec_caliperRefab (s : State) (c : Fin 17) (step rk progress : Nat) :
    exec (.caliperRefab c step rk progress) s = .next (s.caliperRefab c step rk progress) := rfl
theorem exec_calStepTimeout (s : State) (c : Fin 17) (again : Bool) : exec (.calStepTimeout c again) s = .next (s.calStepTimeout c again) := rfl
theorem exec_caliperRunEnd (s : State) (c : Fin 17) (ws : List Sweep) : exec (.caliperRunEnd c ws) s = .next (s.caliperEnd c ws) := rfl
theorem exec_jewelRecordWrite (s : State) (bad1 bad2 : Nat) : exec (.jewelRecordWrite bad1 bad2) s = .next (s.jewelWrite bad1 bad2) := rfl
theorem exec_compatStopEnd (s : State) (c : Fin 17) (sc : Fin 2) (grid osc : List Nat) :
    exec (.compatStopEnd c sc grid osc) s = .next (s.stopEnd c sc grid osc) := rfl

/-! ### A run fails (R554) -/

/-- The record of a run that failed. -/
def Cal.runFailed (x : Cal) (step word : Nat) : Cal :=
  { x with failed := true, restored := false, runFails := wrapAdd 8 x.runFails 1, step := step, failWord := word }

/-- A channel whose run failed. -/
def Chan.runFailed (ch : Chan) : Chan := { ch with calState := 0, resetN := true }

/-- What CAL_FAIL says of a failure. -/
def failCode (step sc rk lane reason : Nat) : Nat := packNat [(0, 4, step), (4, 1, sc), (5, 3, rk), (8, 4, lane), (12, 4, reason)]

theorem fld_failCode (step sc rk lane reason : Nat) : fld (BitVec.ofNat 32 (failCode step sc rk lane reason)) 12 4 = reason % 16 :=
  fld_pack (fs := [(0, 4, step), (4, 1, sc), (5, 3, rk), (8, 4, lane), (12, 4, reason)]) (by simp) (by decide) (by simp)

section
variable (s : State) (c : Nat)

theorem calFail_eq (step sc rk lane reason : Nat) : s.calFail c step sc rk lane reason =
    ((((s.calEnd c).updCal c fun x => x.runFailed step (failCode step sc rk lane reason)).updChan c fun ch => ch.runFailed).loseLines c false).raise
      (.cal c) 1 := rfl

theorem bclk_calEnd : (s.calEnd c).bclk = s.bclk := (State.calEnd_kept (Within.self _) (Kept.refl _ s) c).part .bclk (by decide)

theorem cal_loseLines (fill : Bool) (d : Nat) : (s.loseLines c fill).cal d = s.cal d := rfl
theorem cal_raise (p : PageId) (b d : Nat) : (s.raise p b).cal d = s.cal d := rfl
theorem cal_updChan (f : Chan → Chan) (d : Nat) : (s.updChan c f).cal d = s.cal d := rfl

theorem calFail_meets {step sc rk lane reason : Nat} {t : State} (ht : t = s.calFail c step sc rk lane reason) :
    t.bclk = s.bclk ∧ (t.chan c).calState = 0 ∧ (t.chan c).calRun = false ∧ (t.chan c).resetN = true ∧ (t.chan c).filled = false ∧
      (t.cal c).failed = true ∧ (t.cal c).failWord = failCode step sc rk lane reason ∧ flag (t.page (.cal c)).isr 1 = true := by
  rw [calFail_eq] at ht
  subst ht
  have hclk := bclk_calEnd s c
  obtain ⟨rate, hchan⟩ := chan_calEnd s c
  generalize s.calEnd c = v at *
  refine ⟨hclk, ?_⟩
  rw [chan_raise, chan_loseLines, if_pos rfl, State.chan_upd_self, chan_updCal, hchan, cal_raise, cal_loseLines, cal_updChan, State.cal_upd_self]
  exact ⟨rfl, rfl, rfl, rfl, rfl, rfl, flag_raise _ (.cal c) (by decide)⟩

end

/-! ### A run starts (R532, R535) -/

/-- The record of a run that starts (R532). -/
def Cal.begun (x k : Cal) (full : Bool) (b : Nat) : Cal :=
  { x with place := full || x.place, start := if k.fell then x.start else b, failed := false, jwlWritten := false,
           runs := if k.fell then x.runs else satAdd 65535 x.runs 1, fell := false,
           step := if full then 1 else 12, stepSc := if full then 1 else 0, stepRk := 0, progress := 0, tries := 0,
           refabs := 0, progAt := b, refAt := b, res := if full then [] else x.res }

/-- A channel whose run starts. -/
def Chan.begun (ch : Chan) : Chan := { ch with calState := 2, calRun := true, resetN := false }

/-- A channel whose modules have been read afresh (R266). -/
def Chan.reread (ch : Chan) (d : Spd) : Chan := { ch with spd := some d, idGone := false }

/-- A subchannel's table returns to TURN entries (R32). -/
def State.turnTable (s : State) (c sc : Nat) : State :=
  let s := s.updPage (.slt c sc) fun pg => { pg with act := [], shd := [] }
  let s := s.setBoth (.slt c sc) 0x040 (pack [(0, 9, s.esc.fs), (12, 3, 4)])
  s.updSub c sc fun b => { b with legal := false, flex := [], old := [], owed := [] }

section
variable (s : State) (c : Nat)

theorem turnTables_eq : s.turnTables c = (s.turnTable c 0).turnTable c 1 := rfl

theorem legal_turnTables {sc : Nat} (h : sc < 2) : ((s.turnTables c).sub c sc).legal = false := by
  have hself : ∀ (u : State) (x : Nat), ((u.turnTable c x).sub c x).legal = false := fun u x => by
    unfold State.turnTable
    dsimp only
    rw [State.sub_upd_self]
  have hother : ∀ (u : State), (u.turnTable c 1).sub c 0 = u.sub c 0 := fun u => by
    unfold State.turnTable
    dsimp only
    rw [State.sub_upd_ne _ (by omega)]
    rfl
  rw [turnTables_eq]
  obtain rfl | rfl : sc = 0 ∨ sc = 1 := by omega
  · rw [hother]
    exact hself s 0
  · exact hself _ 1

theorem turnTables_kept : Kept 0x220 s (s.turnTables c) := State.turnTables_kept (Within.self _) (Kept.refl _ s) c

/-- The state of a run that has started, before its modules are read. -/
def State.calBegun (s : State) (c : Nat) : State :=
  ((s.updCal c fun x => x.begun (s.cal c) ((s.cal c).kind == 1) s.bclk).updChan c fun ch => ch.begun).turnTables c

theorem calBegun_keeps : (s.calBegun c).chan c = (s.chan c).begun ∧
    (s.calBegun c).cal c = (s.cal c).begun (s.cal c) ((s.cal c).kind == 1) s.bclk ∧
    (s.calBegun c).bin = s.bin ∧ (s.calBegun c).refSpd = s.refSpd := by
  have hkept := turnTables_kept ((s.updCal c fun x => x.begun (s.cal c) ((s.cal c).kind == 1) s.bclk).updChan c fun ch => ch.begun) c
  unfold State.calBegun
  refine ⟨?_, ?_, hkept.part .bin (by decide), hkept.part .refSpd (by decide)⟩
  · rw [chan_of_chans (hkept.part .chans (by decide)), State.chan_upd_self, chan_updCal]
  · rw [cal_of_cals (hkept.part .cals (by decide)), cal_updChan, State.cal_upd_self]

/-- The module data that a run goes by (R266, R535). -/
def State.calReread (s : State) (c : Nat) (spd : Spd) : State :=
  s.updChan c fun ch => ch.reread (judge (some s.bin) s.refSpd (s.calRead c spd))

/-- The state of a run whose modules are known. -/
def State.calModules (s : State) (c : Nat) (spd : Spd) : State :=
  if (s.cal c).owner = 0 then s.calBegun c else (s.calBegun c).calReread c spd

theorem caliperStart_full {s : State} {c : Nat} (hc : c < 17) (hmay : s.calMay c = true) (hkind : (s.cal c).kind = 1) (spd : Spd) :
    s.caliperStart c spd = if (s.cal c).owner ≠ 0 ∧ !((s.calModules c spd).chan c).accepted then (s.calModules c spd).calFail c 1 0 0 0 7
      else s.calModules c spd := by
  have heq : s.caliperStart c spd = if 17 ≤ c ∨ !s.calMay c then s
      else if (s.cal c).owner ≠ 0 ∧ !((s.calModules c spd).chan c).accepted then (s.calModules c spd).calFail c 1 0 0 0 7
      else match (s.cal c).kind == 1, (s.calModules c spd).jwlServes c with
        | false, some r =>
          ((s.calModules c spd).updBal c fun b => r.vals.foldl (fun b e => b.anchorVal e.1 e.2) { b with vals := [] }).updChan c
            fun ch => { ch with mods := r.mods }
        | false, none => if ((s.calModules c spd).chan c).retained then (s.calModules c spd).restoreFail c 9 else (s.calModules c spd).goFull c
        | true, _ => s.calModules c spd := rfl
  have hfull : ((s.cal c).kind == 1) = true := beq_iff_eq.mpr hkind
  rw [heq, hfull]
  refine (if_neg ?_).trans rfl
  rw [hmay]
  rintro (h | h)
  · omega
  · exact Bool.noConfusion h

/-- A run that is no fast restore leaves the pages to themselves (R508). -/
theorem runStart_of_not_restore {s : State} {c : Nat} {spd : Spd}
    (h : ((s.caliperStart c spd).chan c).calState ≠ 2 ∨ ((s.caliperStart c spd).cal c).kind ≠ 2) :
    s.runStart c spd = s.caliperStart c spd := by
  refine if_neg ?_
  rintro ⟨-, hst, -, hkind⟩
  exact h.elim (fun h => h hst) (fun h => h hkind)

theorem accepted_reread (ch : Chan) (d : Spd) : (ch.reread d).accepted = (d.refuse == 0) := rfl

/-- What a full run that starts leaves (R532, R535). -/
theorem runStart_meets {s : State} {c : Nat} (hc : c < 17) (hmay : s.calMay c = true) (hkind : (s.cal c).kind = 1) (spd : Spd)
    {t : State} (ht : t = s.runStart c spd) :
    (((s.cal c).owner = 0 ∨ (judge (some s.bin) s.refSpd (s.calRead c spd)).refuse = 0) →
      (t.chan c).calState = 2 ∧ (t.chan c).calRun = true ∧ (t.chan c).resetN = false ∧ t.cal c = (s.cal c).begun (s.cal c) true s.bclk ∧
        ∀ sc, sc < 2 → (t.sub c sc).legal = false) ∧
    ((s.cal c).owner ≠ 0 → (judge (some s.bin) s.refSpd (s.calRead c spd)).refuse ≠ 0 →
      (t.chan c).calState = 0 ∧ (t.chan c).calRun = false ∧ (t.chan c).resetN = true ∧ (t.cal c).failed = true ∧
        (t.cal c).failWord = failCode 1 0 0 0 7) := by
  have hstart := caliperStart_full hc hmay hkind spd
  unfold State.calModules at hstart
  obtain ⟨hchan, hcal, hbin, href⟩ := calBegun_keeps s c
  have hlegal : ∀ sc, sc < 2 → ((s.calBegun c).sub c sc).legal = false := fun sc h => legal_turnTables _ c h
  have hread : (s.calBegun c).calRead c spd = s.calRead c spd := by
    unfold State.calRead
    rw [hchan]
    rfl
  have hfull : ((s.cal c).kind == 1) = true := beq_iff_eq.mpr hkind
  rw [hfull] at hcal
  generalize s.calBegun c = v at *
  have hacc : ((v.calReread c spd).chan c) = (s.chan c).begun.reread (judge (some s.bin) s.refSpd (s.calRead c spd)) := by
    unfold State.calReread
    rw [State.chan_upd_self, hchan, hbin, href, hread]
  by_cases how : (s.cal c).owner = 0
  · rw [if_pos how, if_neg (not_and.mpr fun h => absurd how h)] at hstart
    have hrun : t = v := by
      refine ht.trans ((runStart_of_not_restore (.inr ?_)).trans hstart)
      rw [hstart, hcal]
      exact fun h => absurd (hkind.symm.trans h) (by decide)
    subst hrun
    rw [hchan, hcal]
    exact ⟨fun _ => ⟨rfl, rfl, rfl, rfl, hlegal⟩, fun h => absurd how h⟩
  · rw [if_neg how, hacc, accepted_reread] at hstart
    refine ⟨fun h => ?_, fun _ hbad => ?_⟩
    · have hgood := h.resolve_left how
      rw [hgood, if_neg (fun h : _ ∧ _ => Bool.noConfusion h.2)] at hstart
      have hcalr : (v.calReread c spd).cal c = v.cal c := rfl
      have hsubr : ∀ sc, (v.calReread c spd).sub c sc = v.sub c sc := fun _ => rfl
      have hrun : t = v.calReread c spd := by
        refine ht.trans ((runStart_of_not_restore (.inr ?_)).trans hstart)
        rw [hstart, hcalr, hcal]
        exact fun h => absurd (hkind.symm.trans h) (by decide)
      subst hrun
      rw [hacc, hcalr, hcal]
      exact ⟨rfl, rfl, rfl, rfl, fun sc hsc => by rw [hsubr]; exact hlegal sc hsc⟩
    · rw [if_pos ⟨how, by rw [beq_eq_false_iff_ne.mpr hbad]; rfl⟩] at hstart
      obtain ⟨-, hst, hrun, hreset, -, hfailed, hword, -⟩ := calFail_meets (v.calReread c spd) c hstart
      have heq : t = s.caliperStart c spd := ht.trans (runStart_of_not_restore (.inl (by rw [hst]; decide)))
      rw [heq]
      exact ⟨hst, hrun, hreset, hfailed, hword⟩

end

/-! ### A run goes on (R536, R545, R553) -/

theorem canReach_not {s : State} {b : Nat} (h : s.canReach b = true) : ¬((!s.canReach b) = true) := by rw [h]; decide

/-- A run's record as a refresh of a rank follows a sweep point (R536). -/
def Cal.refreshed (x k : Cal) (step rk progress b : Nat) : Cal :=
  let moved := step != k.step || rk != k.stepRk || progress != k.progress
  { x with step := step, stepSc := 1, stepRk := rk, progress := min 255 progress,
           tries := if step = x.step ∧ rk = x.stepRk then x.tries else 0, refabs := x.refabs + 1, refAt := b,
           progAt := if moved then b else x.progAt }

theorem cal_goto (s : State) (b c : Nat) : (s.goto b).cal c = s.cal c := cal_of_cals ((goto_kept_self s b).part .cals (by decide)) c

theorem caliperRefab_eq {s : State} {c step : Nat} (hc : c < 17) (hst : (s.chan c).calState = 2) (hkind : (s.cal c).kind = 1)
    (hlo : 3 ≤ step) (hhi : step ≤ 11) (hfrom : (s.cal c).step ≤ step)
    (hreach : s.canReach ((s.cal c).refAt + (s.bin.mhz * 195 + 99) / 100) = true) (rk progress : Nat) :
    let u := s.goto ((s.cal c).refAt + (s.bin.mhz * 195 + 99) / 100)
    s.caliperRefab c step rk progress = u.updCal c fun x => x.refreshed (s.cal c) step rk progress u.bclk := by
  intro u
  refine if_neg ?_
  rintro (h | h | h | h | h | h | h)
  · omega
  · exact h hst
  · exact h hkind
  · omega
  · omega
  · exact absurd h (Nat.not_lt.mpr hfrom)
  · exact canReach_not hreach h

theorem calStepTimeout_eq {s : State} {c : Nat} (hc : c < 17) (hst : (s.chan c).calState = 2) (hkind : (s.cal c).kind = 1)
    (hreach : s.canReach ((s.cal c).progAt + s.bin.us 1000) = true) (again : Bool) :
    let u := s.goto ((s.cal c).progAt + s.bin.us 1000)
    s.calStepTimeout c again = if again = true ∧ (s.cal c).tries < u.regFld (.cal c) 0x040 14 2 then u.calTriedAgain c
      else u.calFail c (s.cal c).step (s.cal c).stepSc (s.cal c).stepRk 0 6 := by
  intro u
  refine (if_neg ?_).trans rfl
  rintro (h | h | h | h)
  · omega
  · exact h hst
  · exact h hkind
  · exact canReach_not hreach h

theorem cal_calTriedAgain (s : State) (c : Nat) : (s.calTriedAgain c).cal c = { s.cal c with tries := (s.cal c).tries + 1, progAt := s.bclk } :=
  State.cal_upd_self s c fun x => { x with tries := x.tries + 1, progAt := s.bclk }

theorem calTriedAgain_keeps (s : State) (c : Nat) : (s.calTriedAgain c).bclk = s.bclk ∧ (s.calTriedAgain c).chan c = s.chan c := ⟨rfl, rfl⟩

theorem regFld_goto (s : State) (b : Nat) (p : PageId) (off lo n : Nat) : (s.goto b).regFld p off lo n = s.regFld p off lo n :=
  congrArg (fun w => fld w lo n) ((Passing.goto s b).reg p off)

theorem calParity_eq {s : State} {c : Nat} (hst : (s.chan c).calState = 2) (hkind : (s.cal c).kind = 1) (hlo : 6 ≤ (s.cal c).step)
    (hhi : (s.cal c).step ≤ 11) (sc : Nat) :
    s.calParity c sc .caParity = if (s.cal c).tries < s.regFld (.cal c) 0x040 14 2 then s.calTriedAgain c
      else s.calFail c (s.cal c).step sc (s.cal c).stepRk 0 5 := by
  refine (if_neg ?_).trans rfl
  rintro (h | h | h | h | h)
  · exact h hst
  · exact h hkind
  · omega
  · omega
  · exact h rfl

/-! ### An alert leaves the run of its channel to itself (R545) -/

/-- The state of a channel's run and every register are the same in two states. -/
structure RunKept (c : Nat) (s t : State) : Prop where
  calState : (t.chan c).calState = (s.chan c).calState
  body : SameBody s t

section
variable {c : Nat} {s t : State}

theorem RunKept.refl (c : Nat) (s : State) : RunKept c s s := ⟨rfl, SameBody.refl s⟩

theorem RunKept.trans {u : State} (h : RunKept c s t) (k : RunKept c t u) : RunKept c s u :=
  ⟨k.calState.trans h.calState, h.body.trans k.body⟩

theorem RunKept.of_same (hchan : t.chan c = s.chan c) (hbody : SameBody s t) : RunKept c s t := ⟨congrArg Chan.calState hchan, hbody⟩

theorem RunKept.foldl {α : Type} {f : State → α → State} (h : ∀ u a, RunKept c u (f u a)) (l : List α) (s : State) :
    RunKept c s (l.foldl f s) := by
  induction l generalizing s with
  | nil => exact .refl c s
  | cons a l ih => exact (h s a).trans (ih (f s a))

variable (c s)

theorem RunKept.ev (e : Ev) : RunKept c s (s.ev e) := .of_same (chan_ev s e c) (State.ev_body s e)
theorem RunKept.raise (p : PageId) (b : Nat) : RunKept c s (s.raise p b) := .of_same rfl (State.raise_body s p b)
theorem RunKept.updSub (d e : Nat) (f : Sub → Sub) : RunKept c s (s.updSub d e f) := .of_same rfl (SameBody.of_pages rfl)

theorem RunKept.raiseIf (b : Bool) (p : PageId) (i : Nat) : RunKept c s (s.raiseIf b p i) := by
  cases b
  · exact .refl c s
  · exact .raise c s p i

theorem RunKept.discard (sc : Nat) : RunKept c s (s.discard c sc none) := by
  unfold State.discard
  dsimp only
  exact ((RunKept.updSub c s c sc _).trans (.raiseIf c _ _ _ _)).trans (.ev c _ _)

theorem RunKept.log (cls : Nat) (e : LogEnt) : RunKept c s (s.log c cls e) := by
  have hchan := chan_log s c cls e
  refine ⟨?_, ?_⟩
  · rw [hchan]
    exact of_ite (g := Chan.calState) rfl rfl
  · have hraise : ∀ u : State, SameBody u (match classBit cls with | some b => u.raise (.elog c) b | none => u) := by
      intro u
      cases classBit cls
      · exact SameBody.refl u
      · exact State.raise_body u _ _
    unfold State.log
    refine SameBody.trans ?_ (hraise _)
    split
    · exact SameBody.of_pages rfl
    · exact SameBody.refl s

theorem RunKept.chanEvent (n : Nat) : RunKept c s (s.chanEvent c n) := by
  obtain ⟨a, ha⟩ := chan_chanEvent s c n
  refine ⟨by rw [ha]; rfl, ?_⟩
  unfold State.chanEvent
  dsimp only
  exact (SameBody.of_pages rfl).trans (State.raise_body _ _ _)

theorem RunKept.nameWrite (sc : Nat) (w : WLine) (ca : Bool) : RunKept c s (s.nameWrite c sc w ca) := by
  unfold State.nameWrite
  dsimp only
  have hupd : ∀ f : Sub → Sub, ∀ q : Prop, ∀ [Decidable q], RunKept c s (if q then s.updSub c sc f else (s.updSub c sc f).discard c sc none) := by
    intro f q _
    split
    · exact .updSub c s c sc f
    · exact (RunKept.updSub c s c sc f).trans (.discard c _ sc)
  split
  · exact ((hupd _ _).trans (.log c _ _ _)).trans (.raise c _ _ _)
  · exact hupd _ _

theorem RunKept.nameRead (sc : Nat) (v : Served) : RunKept c s (s.nameRead c sc v) := by
  unfold State.nameRead
  dsimp only
  exact (RunKept.updSub c s c sc _).trans (.log c _ _ _)

theorem RunKept.caParityCount (sc : Nat) : RunKept c s (s.caParityCount c sc) := by
  unfold State.caParityCount
  dsimp only
  split
  · exact (RunKept.updSub c s c sc _).trans (.chanEvent c _ _)
  · exact .updSub c s c sc _

theorem RunKept.balInterrupt (p : Nat) : RunKept c s (s.balInterrupt c p) := by
  refine ⟨?_, SameBody.of_pages ?_⟩
  · unfold State.balInterrupt
    dsimp only
    split
    · rw [chan_stage, chan_updBal]
      rfl
    · rfl
  · unfold State.balInterrupt
    dsimp only
    split <;> rfl

theorem RunKept.alertN (sc : Nat) : RunKept c s (s.alertN c sc .caParity) := by
  by_cases hrun : s.esc.running = true
  · rw [alertN_of_running hrun]
    have hopened : RunKept c s (s.alertOpened c sc .caParity) := by
      unfold State.alertOpened
      dsimp only
      refine ((RunKept.ev c s _).trans (.updSub c _ c sc _)).trans (.foldl (fun u p => ?_) _ _)
      split
      · exact .balInterrupt c u p
      · exact .refl c u
    refine hopened.trans ?_
    unfold State.alertActs
    dsimp only
    exact ((RunKept.foldl (fun u w => .nameWrite c u sc w true) _ _).trans (.foldl (fun u v => .nameRead c u sc v) _ _)).trans
      (.caParityCount c _ sc)
  · unfold State.alertN
    rw [if_pos (by rw [Bool.eq_false_iff.mpr hrun]; rfl)]
    exact .refl c s

end

/-! ### A run ends (R538, R554, R559) -/

/-- What the end of a run that passed puts into its channel, before it ends (R538). -/
def State.runValues (s : State) (c : Nat) (res : Tbl CalRes) : State :=
  let imp := (s.chan c).bal.vals.filter fun e => e.1 / 256 == 8
  let s := s.updBal c fun b => res.foldl (Bal.putResult s) { b with vals := imp }
  (s.updCal c fun x => { x with step := 11, progress := 255 }).putMods c

/-- The state of a run whose sweeps are over: the channel's lines are undefined (R542). -/
def State.swept (s : State) (c : Nat) (res : Tbl CalRes) : State := (s.loseLines c false).updCal c fun x => { x with res := res }

theorem caliperEnd_eq {s : State} {c : Nat} (hc : c < 17) (hst : (s.chan c).calState = 2) (hkind : (s.cal c).kind = 1) (ws : List Sweep) :
    let out := calRun (s.calCfg c) ws (s.calCfg c).plan []
    s.caliperEnd c ws = match out.2 with
      | some (st, sc, rk, l, why) => (s.swept c out.1).calFail c st sc rk l why
      | none => ((s.swept c out.1).runValues c out.1).calPass c false := by
  intro out
  have heq : s.caliperEnd c ws = if 17 ≤ c ∨ (s.chan c).calState ≠ 2 ∨ (s.cal c).kind ≠ 1 then s
      else match out.2 with
      | some (st, sc, rk, l, why) => (s.swept c out.1).calFail c st sc rk l why
      | none => ((s.swept c out.1).runValues c out.1).calPass c false := rfl
  rw [heq]
  refine if_neg ?_
  rintro (h | h | h)
  · omega
  · exact h hst
  · exact h hkind

theorem res_runValues (s : State) (c : Nat) (res : Tbl CalRes) : ((s.runValues c res).cal c).res = (s.cal c).res := by
  have hmods : ∀ u : State, (u.putMods c).cal c = u.cal c := fun _ => rfl
  have hbal : ∀ (u : State) (g : Bal → Bal), (u.updBal c g).cal c = u.cal c := fun _ _ => rfl
  unfold State.runValues
  dsimp only
  rw [hmods, State.cal_upd_self, hbal]

/-- What a run that passes leaves (R538): its record is queued, unless none is wanted (R559). -/
theorem calPass_full_meets {s : State} {c : Nat} {t : State} (ht : t = s.calPass c false) :
    (t.chan c).calState = 3 ∧ (t.chan c).calRun = false ∧ (t.cal c).kind = 0 ∧ (t.cal c).restored = false ∧ (t.cal c).res = (s.cal c).res ∧
      (t.chan c).filled = false ∧ flag (t.page (.cal c)).isr 0 = true := by
  obtain ⟨rate, bal, hchan⟩ := calPassed_chan s c false
  have hcal := calPassed_cal s c false
  have hisr := calPassed_isr s c false
  have heq : s.calPass c false = if false ∨ (s.cal c).noJwl then s.calPassed c false
      else if (((s.calPassed c false).jwlQueue c ((s.calPassed c false).payload c 1)).jwlPend c).isSome then
        ((s.calPassed c false).jwlQueue c ((s.calPassed c false).payload c 1)).updCal c fun x => { x with jwlPending := true }
      else (s.calPassed c false).jwlQueue c ((s.calPassed c false).payload c 1) := rfl
  rw [heq] at ht
  generalize s.calPassed c false = v at *
  have hqueue : ∀ p, (v.jwlQueue c p).chan c = v.chan c ∧ (v.jwlQueue c p).cal c = v.cal c ∧ (v.jwlQueue c p).page (.cal c) = v.page (.cal c) := by
    intro p
    unfold State.jwlQueue
    split <;> exact ⟨rfl, rfl, rfl⟩
  have hkeeps : t.chan c = v.chan c ∧ { t.cal c with jwlPending := false } = { v.cal c with jwlPending := false } ∧
      t.page (.cal c) = v.page (.cal c) := by
    obtain ⟨qchan, qcal, qpage⟩ := hqueue (v.payload c 1)
    subst ht
    split
    · exact ⟨rfl, rfl, rfl⟩
    · split
      · exact ⟨qchan, by rw [State.cal_upd_self, qcal], qpage⟩
      · exact ⟨qchan, by rw [qcal], qpage⟩
  obtain ⟨kchan, kcal, kpage⟩ := hkeeps
  rw [hcal] at kcal
  rw [kchan, kpage, hchan]
  exact ⟨rfl, rfl, (congrArg Cal.kind kcal :), (congrArg Cal.restored kcal :), (congrArg Cal.res kcal :), rfl, hisr⟩

/-! ### The record of a run is written (R603, R609) -/

/-- The copy of a record as it has been written. -/
def JwlPend.copy (p : JwlPend) (st seq : Nat) : JwlCopy :=
  { st := st, kind := p.kind, seq := seq, frame := p.frame, spd := p.spd, bin := p.bin, moduleId := p.moduleId, temp := p.temp,
    vals := p.vals, mods := p.mods }

/-- The Jewel with a record written (R603). -/
def Jwl.written (j : Jwl) (k copy b n st : Nat) : Jwl :=
  { j with pend := Tbl.set (fun _ => none) j.pend k none, last := Tbl.set (fun _ => 0) j.last k (b + 1), wrCnt := j.wrCnt + n,
           lastCh := k, lastCopy := copy == 1, wrFail := st != 0, wrFails := satAdd 65535 j.wrFails (b2n (st != 0)) }

/-- The state in which a record has been written, before it is told. -/
def State.jwlWritten (s : State) (k : Nat) (p : JwlPend) (n st : Nat) : State :=
  let u := s.setCopy k (s.jwlDest k).1 (p.copy st (s.jwlDest k).2)
  { u with jwl := u.jwl.written k (s.jwlDest k).1 s.bclk n st }

/-- What tells of a record's write. -/
def State.jwlTold (s : State) (k : Nat) (p : JwlPend) (n st : Nat) : State :=
  let s := s.ev { box := boxBlk, code := 0x0A, n := n }
  if st = 0 then
    if p.kind = 1 then ((s.raise .jwl 0).updCal k fun x => { x with jwlPending := false, jwlWritten := true }).raise (.cal k) 2 else s.raise .jwl 0
  else s.raise .jwl 1

theorem jewelWrite_eq {s : State} {k : Nat} {p : JwlPend} (hnext : s.jwlNext = some k) (hpend : s.jwlPend k = some p)
    (hrun : s.mvc.running = true) (bad1 bad2 : Nat) :
    s.jewelWrite bad1 bad2 = (s.jwlWritten k p (if bad1 = 0 then 1 else 2) (if bad1 = 0 then 0 else bad2)).jwlTold k p
      (if bad1 = 0 then 1 else 2) (if bad1 = 0 then 0 else bad2) := by
  have heq : s.jewelWrite bad1 bad2 = match s.jwlNext with
      | none => s
      | some k => match s.jwlPend k with
        | none => s
        | some p => if !s.mvc.running then s
          else (s.jwlWritten k p (if bad1 = 0 then 1 else 2) (if bad1 = 0 then 0 else bad2)).jwlTold k p
            (if bad1 = 0 then 1 else 2) (if bad1 = 0 then 0 else bad2) := rfl
  rw [heq, hnext]
  dsimp only
  rw [hpend]
  exact if_neg (by rw [hrun]; decide)

theorem jwl_jwlTold (s : State) (k : Nat) (p : JwlPend) (n st : Nat) : (s.jwlTold k p n st).jwl = s.jwl := by
  have hev : (s.ev { box := boxBlk, code := 0x0A, n := n }).jwl = s.jwl := (ev_kept_self s _).part .jwl (by decide)
  unfold State.jwlTold
  dsimp only
  generalize s.ev { box := boxBlk, code := 0x0A, n := n } = v at *
  exact of_ite (g := State.jwl) (of_ite (g := State.jwl) hev hev) hev

theorem jwl_jwlWritten (s : State) (k : Nat) (p : JwlPend) (n st : Nat) : (s.jwlWritten k p n st).jwl =
    Jwl.written { s.jwl with copies := Tbl.set (fun _ => {}) s.jwl.copies (2 * k + (s.jwlDest k).1) (p.copy st (s.jwlDest k).2) } k
      (s.jwlDest k).1 s.bclk n st := rfl

/-- What a record's write leaves (R603, R609). -/
theorem jewelWrite_meets {s : State} {k : Nat} {p : JwlPend} {n st : Nat} {t : State} (ht : t = (s.jwlWritten k p n st).jwlTold k p n st) :
    t.jwlCopy k (s.jwlDest k).1 = p.copy st (s.jwlDest k).2 ∧ t.jwlPend k = none ∧ t.jwl.wrCnt = s.jwl.wrCnt + n ∧ t.jwl.lastCh = k ∧
      t.jwl.wrFail = (st != 0) := by
  have hjwl : t.jwl = _ := (congrArg State.jwl ht).trans ((jwl_jwlTold _ k p n st).trans (jwl_jwlWritten s k p n st))
  unfold State.jwlCopy State.jwlPend
  rw [hjwl]
  exact ⟨Tbl.get_set_self (d := fun _ => ({} : JwlCopy)) _ _ _, Tbl.get_set_self (d := fun _ => (none : Option JwlPend)) s.jwl.pend k none, rfl, rfl, rfl⟩

/-! ### A compatibility stop (R580) -/

section
variable (s : State) (c : Nat)

theorem stopEnd_eq {s : State} {c sc : Nat} {st : Stop} (h : (s.sub c sc).stop = some st) (hreach : s.canReach (max s.bclk st.ends) = true)
    (grid osc : List Nat) :
    let u := (s.goto (max s.bclk st.ends)).updSub c sc fun b => { b with stop := none }
    s.stopEnd c sc grid osc = u.stage c (.stop (u.rankPos sc st.rk) grid osc) := by
  intro u
  unfold State.stopEnd
  rw [h]
  exact (if_neg (canReach_not hreach)).trans rfl

/-- What a stop found is staged (R40). -/
theorem stopEnd_meets {s : State} {c sc : Nat} {st : Stop} (h : (s.sub c sc).stop = some st)
    (hreach : s.canReach (max s.bclk st.ends) = true) (grid osc : List Nat) {t : State} (ht : t = s.stopEnd c sc grid osc) :
    t.bclk = max s.bclk st.ends ∧ (t.sub c sc).stop = none ∧ (t.chan c).staged = (s.chan c).staged ++
      [((s.goto (max s.bclk st.ends)).soonFrame, .stop (s.rankPos sc st.rk) grid osc)] := by
  have hclk := bclk_goto s (max s.bclk st.ends)
  have hbin : (s.goto (max s.bclk st.ends)).bin = s.bin := (goto_kept_self s _).part .bin (by decide)
  have hstaged := (Passing.goto s (max s.bclk st.ends)).chanField Chan.staged (fun _ => rfl) c
  rw [stopEnd_eq h hreach grid osc] at ht
  generalize s.goto (max s.bclk st.ends) = v at *
  have hpos : v.rankPos sc st.rk = s.rankPos sc st.rk := by
    unfold State.rankPos
    rw [hbin]
  subst ht
  refine ⟨hclk.trans (max_eq_right (le_max_left _ _)), ?_, ?_⟩
  · have hstop : ∀ (u : State) (r : Reading), (u.stage c r).sub c sc = u.sub c sc := fun _ _ => rfl
    rw [hstop, State.sub_upd_self]
  · rw [chan_stage, ← hpos, ← hstaged]
    rfl

/-- A change of Balance that keeps its count of stops keeps the channel's. -/
theorem stops_updBal {f : Bal → Bal} (hf : ∀ b, (f b).stops = b.stops) : ((s.updBal c f).chan c).bal.stops = (s.chan c).bal.stops := by
  rw [chan_updBal]
  exact hf _

theorem stops_rejectCount (reason : Nat) : ((s.rejectCount c reason).chan c).bal.stops = (s.chan c).bal.stops := by
  unfold State.rejectCount
  dsimp only
  rw [chan_ev]
  apply stops_updBal
  exact fun _ => rfl

theorem stops_chanEvent (n : Nat) : ((s.chanEvent c n).chan c).bal.stops = (s.chan c).bal.stops := by
  obtain ⟨a, ha⟩ := chan_chanEvent s c n
  rw [ha]
  rfl

theorem stops_reject (p i reason : Nat) : ((s.reject c p i reason).chan c).bal.stops = (s.chan c).bal.stops := by
  have hcount := stops_rejectCount s c reason
  unfold State.reject
  dsimp only
  generalize s.rejectCount c reason = u at hcount ⊢
  split
  · split
    · refine Eq.trans ?_ hcount
      apply stops_updBal
      exact fun _ => rfl
    · split
      · rw [stops_chanEvent, chan_raise, chan_raise, stops_updBal u c ?_, hcount]
        exact fun _ => rfl
      · rw [chan_raise, stops_updBal u c ?_, hcount]
        exact fun _ => rfl
  · exact hcount

theorem stops_stageTarget (kind p i : Nat) (v : Int) : ((s.stageTarget c kind p i v).chan c).bal.stops = (s.chan c).bal.stops := by
  unfold State.stageTarget State.acceptLane
  dsimp only
  split
  · rw [stops_updBal _ c ?_, stops_updBal _ c ?_]
    · exact fun _ => rfl
    · exact fun _ => rfl
  · exact stops_reject s c p i 5

theorem stops_stopResults (p : Nat) (grid osc : List Nat) : ((s.stopResults c p grid osc).chan c).bal.stops = (s.chan c).bal.stops := by
  unfold State.stopResults State.oscRead
  dsimp only
  refine (foldl_keeps (fun u : State => (u.chan c).bal.stops) (fun u i => ?_) _ _).trans (stops_updBal s c fun _ => rfl)
  have hrest : ∀ (v : State) (q : Prop) [Decidable q] (k : Nat) (x : Int), (v.chan c).bal.stops = (u.chan c).bal.stops →
      ((if q then v.reject c p i 7 else v.stageTarget c k p i x).chan c).bal.stops = (u.chan c).bal.stops := by
    intro v q _ k x hv
    split
    · exact (stops_reject v c p i 7).trans hv
    · exact (stops_stageTarget v c k p i x).trans hv
  refine hrest _ _ _ _ ?_
  split
  · exact stops_reject u c p i 4
  · exact (stops_stageTarget _ c _ _ i _).trans (stops_stageTarget u c _ p i _)

/-- Balance with a stop counted. -/
def Bal.stopped (b : Bal) : Bal := { b with stops := b.stops + 1 }

theorem takeReading_stop (p : Nat) (grid osc : List Nat) : s.takeReading c (.stop p grid osc) =
    (((s.updChan c fun ch => ch.take (.stop p grid osc)).stopResults c p grid osc).updBal c fun b => b.stopped).raise (.bal c) 2 := rfl

theorem takeReading_stop_meets (p : Nat) (grid osc : List Nat) :
    ((s.takeReading c (.stop p grid osc)).chan c).bal.stops = (s.chan c).bal.stops + 1 ∧
      flag ((s.takeReading c (.stop p grid osc)).page (.bal c)).isr 2 = true := by
  have htake : (s.updChan c fun ch => ch.take (.stop p grid osc)).chan c = s.chan c := State.chan_upd_self s c fun ch => ch.take (.stop p grid osc)
  have hres := stops_stopResults (s.updChan c fun ch => ch.take (.stop p grid osc)) c p grid osc
  rw [htake] at hres
  rw [takeReading_stop]
  generalize (s.updChan c fun ch => ch.take (.stop p grid osc)).stopResults c p grid osc = v at *
  refine ⟨?_, flag_raise _ (.bal c) (by decide)⟩
  rw [chan_raise, chan_updBal]
  exact congrArg (· + 1) hres

end

/-- Settles O57: each command's state equation, what a failed run and a passed run leave, and what an alert leaves of a run. -/
theorem caliperRuns : Obligations.CaliperRuns := by
  intro s c
  refine ⟨fun spd hmay hkind => ?_, fun hst hkind => ⟨?_, ?_, ?_, ?_⟩, fun bad1 bad2 k p hnext hpend hrun => ?_, fun sc grid osc st hstop => ?_,
    fun p grid osc => takeReading_stop_meets s c p grid osc⟩
  · obtain ⟨hgo, hend⟩ := runStart_meets c.isLt hmay hkind spd rfl
    refine ⟨fun h => ?_, fun how hbad => ?_⟩
    · obtain ⟨hst, hrun, hreset, hcal, hlegal⟩ := hgo h
      refine ⟨_, exec_caliperRunStart s c spd, hst, hrun, hreset, ?_⟩
      rw [hcal]
      refine ⟨rfl, rfl, rfl, fun hfell => ?_, fun hfell => ?_, hlegal⟩
      · unfold Cal.begun
        dsimp only
        rw [hfell]
        exact ⟨rfl, rfl⟩
      · unfold Cal.begun
        dsimp only
        rw [hfell]
        exact ⟨rfl, rfl⟩
    · obtain ⟨hst, hrun, hreset, hfailed, hword⟩ := hend how hbad
      refine ⟨_, exec_caliperRunStart s c spd, hst, hrun, hreset, hfailed, ?_⟩
      rw [hword]
      exact fld_failCode 1 0 0 0 7
  · intro step rk progress e hlo hhi hfrom hreach
    have heq := caliperRefab_eq c.isLt hst hkind hlo hhi hfrom hreach rk progress
    refine ⟨_, exec_caliperRefab s c step rk progress, ?_⟩
    rw [heq]
    beta_reduce
    rw [State.cal_upd_self, cal_goto]
    exact ⟨bclk_goto s e, rfl, rfl, rfl, rfl, rfl⟩
  · intro again e hreach
    have heq := calStepTimeout_eq c.isLt hst hkind hreach again
    dsimp only at heq
    rw [regFld_goto] at heq
    refine ⟨fun hagain hleft => ?_, fun hout => ?_⟩
    · rw [if_pos ⟨hagain, hleft⟩] at heq
      obtain ⟨hclk, hchan⟩ := calTriedAgain_keeps (s.goto e) c
      refine ⟨_, exec_calStepTimeout s c again, ?_⟩
      rw [heq]
      beta_reduce
      rw [hclk, hchan, cal_calTriedAgain, cal_goto]
      exact ⟨bclk_goto s e, rfl, rfl, ((Passing.goto s e).chanField Chan.calState (fun _ => rfl) c).trans hst⟩
    · rw [if_neg (by rintro ⟨h1, h2⟩; rcases hout with h | h; exact Bool.noConfusion (h.symm.trans h1); omega)] at heq
      obtain ⟨hclk, hst', -, hreset, hfilled, hfailed, hword, -⟩ := calFail_meets (s.goto e) c heq
      refine ⟨_, exec_calStepTimeout s c again, hclk.trans (bclk_goto s e), hst', hreset, hfailed, ?_, hfilled⟩
      rw [hword]
      exact fld_failCode _ _ _ _ 6
  · intro sc hlo hhi
    have hkept := RunKept.alertN c.val s sc
    have halert := State.alertN_kept (Within.self _) (Kept.refl _ s) c sc .caParity
    have hcal : (s.alertN c sc .caParity).cal c = s.cal c := cal_of_cals (halert.part .cals (by decide)) c
    have hclk : (s.alertN c sc .caParity).bclk = s.bclk := halert.part .bclk (by decide)
    have hfld : (s.alertN c sc .caParity).regFld (.cal c) 0x040 14 2 = s.regFld (.cal c) 0x040 14 2 :=
      congrArg (fun w => fld w 14 2) (reg_of_body (hkept.body (.cal c)) 0x040)
    have hcst := hkept.calState.trans hst
    have hexec := exec_alertN s c sc .caParity
    generalize s.alertN c sc .caParity = u at *
    have heq := calParity_eq hcst (by rw [hcal]; exact hkind) (by rw [hcal]; exact hlo) (by rw [hcal]; exact hhi) sc
    rw [hcal, hfld] at heq
    refine ⟨fun hleft => ?_, fun hout => ?_⟩
    · rw [if_pos hleft] at heq
      obtain ⟨-, hchan⟩ := calTriedAgain_keeps u c
      refine ⟨_, hexec, ?_⟩
      rw [heq]
      beta_reduce
      rw [hchan, cal_calTriedAgain, hcal, hclk]
      exact ⟨hcst, rfl, rfl⟩
    · rw [if_neg (Nat.not_lt.mpr hout)] at heq
      obtain ⟨-, hst', -, hreset, -, hfailed, hword, -⟩ := calFail_meets u c heq
      refine ⟨_, hexec, hst', hreset, hfailed, ?_⟩
      rw [hword]
      exact fld_failCode _ _ _ _ 5
  · intro ws k out
    have heq := caliperEnd_eq c.isLt hst hkind ws
    have hres : ((s.swept c out.1).cal c).res = out.1 := by
      unfold State.swept
      rw [State.cal_upd_self]
    refine ⟨fun hpass => ?_, fun step sc rk l why hfail => ?_⟩
    · have hend : s.caliperEnd c ws = ((s.swept c out.1).runValues c out.1).calPass c false := by
        rw [heq, hpass]
      obtain ⟨hst', hrun, hk, hrestored, hr, hfilled, hisr⟩ := calPass_full_meets hend
      exact ⟨_, exec_caliperRunEnd s c ws, hst', hrun, hk, hrestored, hr.trans ((res_runValues _ c _).trans hres), hfilled, hisr⟩
    · have hend : s.caliperEnd c ws = (s.swept c out.1).calFail c step sc rk l why := by
        rw [heq, hfail]
      obtain ⟨-, hst', -, hreset, hfilled, hfailed, hword, hisr⟩ := calFail_meets _ c hend
      exact ⟨_, exec_caliperRunEnd s c ws, hst', hreset, hfailed, hfilled, hword, hisr⟩
  · obtain ⟨hcopy, hpd, hcnt, hlast, hwr⟩ := jewelWrite_meets (jewelWrite_eq hnext hpend hrun bad1 bad2)
    refine ⟨_, exec_jewelRecordWrite s bad1 bad2, ?_⟩
    beta_reduce
    intro d
    rw [hcopy]
    refine ⟨rfl, rfl, rfl, rfl, rfl, hpd, hcnt, hlast, hwr.trans ?_⟩
    by_cases hb : bad1 = 0 <;> simp [hb, bne, BEq.beq]
  · intro e hreach
    obtain ⟨hclk, hstopped, hstaged⟩ := stopEnd_meets hstop hreach grid osc rfl
    exact ⟨_, exec_compatStopEnd s c sc grid osc, hclk, hstopped, hstaged⟩

end Sys2Proof.Machine
end

section
/-! Start-up, phase by phase (R497 to R500, R502, R506, R511, R513, R520, R525). -/
namespace Sys2Proof.Machine

theorem exec_blockResetRelease (s : State) : exec .blockResetRelease s = .next s.resetRelease := rfl
theorem exec_bclkLock (s : State) : exec .bclkLock s = .next s.bclkLock := rfl
theorem exec_bclkLockTimeout (s : State) : exec .bclkLockTimeout s = .next s.bclkLockTimeout := rfl
theorem exec_startPhaseComplete (s : State) (x : PhaseIn) : exec (.startPhaseComplete x) s = .next (s.phaseComplete x) := rfl

/-! ### BCLK locks (R497) -/

/-- What the lock of BCLK is judged by: the clock, the frames, EN of the ESC page and the phase. -/
def State.lockView (s : State) : Bool × Nat × Bool × Nat × Nat × Bool × Nat :=
  (s.locked, s.bclk, s.esc.running, s.esc.fs, s.esc.frame, (s.page .esc).en, s.phase)

section
variable (s : State)

theorem en_updPage {f : Page → Page} (hf : ∀ pg, (f pg).en = pg.en) (q p : PageId) : ((s.updPage q f).page p).en = (s.page p).en := by
  rw [State.page_upd]
  split
  · next h =>
    rw [Page.body_en (Page.body_rewire _ _), hf, page_congr h]
  · rfl

theorem lockView_updPage {f : Page → Page} (hf : ∀ pg, (f pg).en = pg.en) (q : PageId) : (s.updPage q f).lockView = s.lockView := by
  unfold State.lockView
  rw [en_updPage s hf]
  rfl

theorem lockView_setReg (p : PageId) (o : Nat) (v : Word) : (s.setReg p o v).lockView = s.lockView := by
  unfold State.setReg
  apply lockView_updPage
  exact fun _ => rfl

theorem lockView_setBoth (p : PageId) (o : Nat) (v : Word) : (s.setBoth p o v).lockView = s.lockView := by
  unfold State.setBoth State.setShd
  refine Eq.trans ?_ (lockView_setReg s p o v)
  apply lockView_updPage
  exact fun _ => rfl

theorem lockView_setStart (p : PageId) (o : Nat) (v : Word) : (s.setStart p o v).lockView = s.lockView := by
  unfold State.setStart
  split
  · rfl
  · dsimp only
    split
    · rfl
    · split
      · exact lockView_setReg s p o _
      · refine Eq.trans ?_ (lockView_setBoth s p o (v &&& regMask p o))
        apply lockView_updPage
        exact fun _ => rfl

theorem lockView_turnTable (c sc : Nat) : (s.turnTable c sc).lockView = s.lockView := by
  have hsub : ∀ (u : State) (f : Sub → Sub), (u.updSub c sc f).lockView = u.lockView := fun _ _ => rfl
  unfold State.turnTable
  dsimp only
  rw [hsub, lockView_setBoth]
  apply lockView_updPage
  exact fun _ => rfl

theorem lockView_enable (p : PageId) : (s.enable p).lockView = s.lockView := by
  unfold State.enable
  split
  · rfl
  split
  · rfl
  split
  · unfold State.overrun
    split <;> rfl
  · apply lockView_updPage
    exact fun _ => rfl

/-- BCLK counts and the frames run (R497, R525). -/
def State.counting (s : State) : State :=
  State.updPage { s with locked := true, bclk := 0, esc := { s.esc with running := true, fs := s.bin.slots, tickBclk := 0 } } .esc
    fun pg => { pg with en := true, enReq := true }

theorem lockView_counting : s.counting.lockView = (true, 0, true, s.bin.slots, s.esc.frame, true, s.phase) := by
  have hen : (s.counting.page .esc).en = true := by
    unfold State.counting
    rw [State.page_upd_self, Page.body_en (Page.body_rewire _ _)]
  unfold State.lockView
  rw [hen]
  rfl

theorem lockView_bclkLock {s : State} (h4 : s.phase = 4) (hlock : s.locked = false) : s.bclkLock.lockView = s.counting.lockView := by
  have hcfg : ∀ (u : State) (w : Word), ({ u with startCfg := w } : State).lockView = u.lockView := fun _ _ => rfl
  have hgo : ¬(s.phase ≠ 4 ∨ s.locked = true) := by
    rw [hlock]
    rintro (h | h)
    · exact h h4
    · exact Bool.noConfusion h
  unfold State.bclkLock
  rw [if_neg hgo]
  dsimp only
  rw [hcfg, foldl_keeps State.lockView, foldl_keeps State.lockView lockView_enable, foldl_keeps State.lockView, lockView_setStart]
  · rfl
  · exact fun u c => (lockView_turnTable _ c 1).trans (lockView_turnTable u c 0)
  · intro u x
    split
    · rfl
    · exact lockView_setStart u _ _ _

end

/-! ### Phases 1 to 3 -/

/-- The work that ends each phase (R498). -/
def State.phaseDone (s : State) (x : PhaseIn) : Nat → State
  | 1 => s.bootPhase x
  | 2 => s.calrefPhase x
  | 3 => s.sidebandPhase x
  | 4 => if s.locked then { s with phase := 5 } else s
  | 5 => ((List.range 17).filter fun c => (s.dimmPhase.chan c).inService).foldl (fun s c => s.trainBegin c) s.dimmPhase
  | 6 => if (List.range 17).any (fun c => s.calBusy c) then s else s.trainPhase.commitPhase
  | 7 => if s.commitsDone then s.fillPhase else s
  | 8 => if s.filling = [] ∧ s.trained.all (fun c => s.tablesDone c) then { s with phase := 9 } else s
  | _ => s

section
variable {s : State} {x : PhaseIn}

/-- From phase 2 on it is Movement that goes on (R520). -/
theorem phaseComplete_halted (h2 : 2 ≤ s.phase) (hrun : s.mvc.running = false) : s.phaseComplete x = s :=
  if_pos ⟨h2, by rw [hrun]; rfl⟩

theorem phaseComplete_boot (h1 : s.phase = 1) : s.phaseComplete x = s.bootPhase x := by
  unfold State.phaseComplete
  rw [if_neg (by omega), h1]
  rfl

theorem phaseComplete_live (hrun : s.mvc.running = true) : s.phaseComplete x = s.phaseDone x s.phase := by
  have hgo : ¬(2 ≤ s.phase ∧ (!s.mvc.running) = true) := by
    rw [hrun]
    exact fun h => Bool.noConfusion h.2
  exact (if_neg hgo).trans rfl

/-- The versions that a boot finds (R498). -/
def State.booting (s : State) (x : PhaseIn) : State :=
  { s with mvc := { s.mvc with verA := x.verA &&& 0x8FFFFFFF, verB := x.verB &&& 0x8FFFFFFF } }

/-- The slot that a boot takes: the active image, else the other one. -/
def State.bootSlot (s : State) (x : PhaseIn) : Bool := if flag (if s.mvc.slot then x.verB else x.verA) 31 then s.mvc.slot else !s.mvc.slot

theorem bootPhase_none (ha : flag x.verA 31 = false) (hb : flag x.verB 31 = false) : (s.bootPhase x).phase = 15 := by
  have heq : s.bootPhase x = if (!flag x.verA 31) = true ∧ (!flag x.verB 31) = true then { s.booting x with phase := 15 } else _ := rfl
  rw [heq, if_pos (by rw [ha, hb]; decide)]

theorem bootPhase_some (h : flag x.verA 31 = true ∨ flag x.verB 31 = true) :
    (s.bootPhase x).phase = 2 ∧ (s.bootPhase x).mvc.running = true ∧ (s.bootPhase x).plat = x.plat ∧ (s.bootPhase x).mvc.slot = s.bootSlot x := by
  have hgo : ¬((!flag x.verA 31) = true ∧ (!flag x.verB 31) = true) := by
    rcases h with h | h <;> rw [h] <;> simp
  have heq : s.bootPhase x = if (!flag x.verA 31) = true ∧ (!flag x.verB 31) = true then _ else
      { s.booting x with
        phase := 2, plat := x.plat,
        mvc := { (s.booting x).mvc with running := true, slot := s.bootSlot x, intentOk := true, beatAt := (s.booting x).bclk },
        map := { (s.booting x).map with reserveNom := min 16 x.plat.reserve } } := rfl
  rw [heq, if_neg hgo]
  exact ⟨rfl, rfl, rfl, rfl⟩

/-- The image of the slot taken passes. -/
theorem flag_bootSlot (h : flag x.verA 31 = true ∨ flag x.verB 31 = true) : flag (if s.bootSlot x = true then x.verB else x.verA) 31 = true := by
  unfold State.bootSlot
  cases s.mvc.slot <;> cases ha : flag x.verA 31 <;> cases hb : flag x.verB 31 <;> simp_all

theorem phase_calrefPhase : (s.calrefPhase x).phase = 3 := rfl

/-- The modules are judged: the roles are assigned, or no module is accepted (R266 to R270, R500). -/
theorem sidebandPhase_meets : ((s.sidebandPhase x).phase = 4 ∨
      ((s.sidebandPhase x).phase = 15 ∧ ∀ c, c < 17 → ((s.sidebandPhase x).chan c).accepted = false)) ∧
    ∀ b, s.plat.bin = some b → (s.sidebandPhase x).bin = b := by
  unfold State.sidebandPhase
  extract_lets read all ref free bin named u v
  have hbin : ∀ b, s.plat.bin = some b → v.bin = b := by
    intro b hb
    have hv : v.bin = bin := rfl
    rw [hv]
    simp only [bin]
    rw [hb]
  clear_value v
  split
  · next hall =>
    refine ⟨.inr ⟨rfl, fun c hc => ?_⟩, hbin⟩
    have hnone := List.all_eq_true.mp hall c (List.mem_range.mpr hc)
    have h : (v.chan c).accepted = false := by simpa using hnone
    exact h
  · have hkept := State.assignRoles_kept (Within.self _) (Kept.refl _ v) v.map.reserveNom fun c => (v.chan c).accepted && !v.calrefFault c
    exact ⟨.inl rfl, fun b hb => (hkept.part .bin (by decide)).trans (hbin b hb)⟩

end

/-! ### Phases 5 and 6 (R498, R503 to R509) -/

/-- A channel whose DIMMs are brought up (R499). -/
def Chan.brought (ch : Chan) (fault : Bool) : Chan := { ch with powered := true, svcReady := false, resetN := fault }

/-- Phase 5 brings a channel up. -/
def State.dimmChan (s : State) (c : Nat) : State :=
  (chanPages c).foldl (fun s p => s.enable p)
    (if (s.chan c).retained then s else s.updChan c fun ch => ch.brought (s.calrefFault c))

theorem dimmPhase_eq (s : State) :
    s.dimmPhase = { ((List.range 17).filter fun c => (s.chan c).accepted).foldl State.dimmChan s with phase := 6 } := rfl

/-- A property of a channel that every step keeps and the channel's own step sets up holds after a list that names it. -/
theorem foldl_reaches {P : State → Prop} {f : State → Nat → State} {c : Nat} (hkeep : ∀ s i, P s → P (f s i)) (hown : ∀ s, P (f s c))
    {l : List Nat} (hc : c ∈ l) (s : State) : P (l.foldl f s) := by
  have hall : ∀ (l : List Nat) (s : State), P s → P (l.foldl f s) := by
    intro l
    induction l with
    | nil => exact fun _ h => h
    | cons i l ih => exact fun s h => ih _ (hkeep s i h)
  induction l generalizing s with
  | nil => exact absurd hc List.not_mem_nil
  | cons i l ih =>
    rw [List.foldl_cons]
    rcases List.mem_cons.mp hc with rfl | hmem
    · exact hall l _ (hown s)
    · exact ih hmem _

section
variable (s : State)

theorem chans_enables (l : List PageId) : (l.foldl (fun s p => s.enable p) s).chans = s.chans :=
  foldl_keeps State.chans chans_enable l s

theorem calrefs_enables (l : List PageId) : (l.foldl (fun s p => s.enable p) s).calrefs = s.calrefs :=
  foldl_keeps State.calrefs (fun u p => (State.enable_kept (Within.self _) (Kept.refl _ u) p).part .calrefs (by decide)) l s

theorem calrefs_dimmChan (c : Nat) : (s.dimmChan c).calrefs = s.calrefs := by
  unfold State.dimmChan
  rw [calrefs_enables]
  exact of_ite (g := State.calrefs) rfl rfl

theorem calrefFault_dimmChan (c d : Nat) : (s.dimmChan c).calrefFault d = s.calrefFault d := by
  unfold State.calrefFault State.calref
  rw [calrefs_dimmChan]

theorem chan_dimmChan (c d : Nat) : (s.dimmChan c).chan d =
    if d = c ∧ (s.chan c).retained = false then (s.chan c).brought (s.calrefFault c) else s.chan d := by
  unfold State.dimmChan
  rw [chan_of_chans (chans_enables _ _)]
  by_cases hret : (s.chan c).retained = true
  · rw [if_pos hret, if_neg (fun h : _ ∧ _ => Bool.noConfusion (hret.symm.trans h.2))]
  · rw [if_neg hret]
    by_cases hd : d = c
    · rw [hd, State.chan_upd_self, if_pos ⟨rfl, Bool.eq_false_iff.mpr hret⟩]
    · rw [State.chan_upd_ne _ hd, if_neg (fun h : _ ∧ _ => hd h.1)]

/-- The channels of phase 5 one by one. -/
theorem chan_dimmChans (c : Nat) (l : List Nat) (s : State) : (l.foldl State.dimmChan s).chan c =
    if c ∈ l ∧ (s.chan c).retained = false then (s.chan c).brought (s.calrefFault c) else s.chan c := by
  induction l generalizing s with
  | nil => rw [if_neg (fun h : _ ∧ _ => List.not_mem_nil h.1)]; rfl
  | cons i l ih =>
    have hself : ∀ (ch : Chan) (b : Bool), (ch.brought b).brought b = ch.brought b := fun _ _ => rfl
    have hret : ∀ (ch : Chan) (b : Bool), (ch.brought b).retained = ch.retained := fun _ _ => rfl
    rw [List.foldl_cons, ih, chan_dimmChan, calrefFault_dimmChan]
    by_cases hi : c = i
    · subst hi
      by_cases hr : (s.chan c).retained = false
      · simp [hr, hret, hself]
      · simp [hr]
    · simp [hi]

theorem calrefFault_dimmChans (d : Nat) (l : List Nat) : (l.foldl State.dimmChan s).calrefFault d = s.calrefFault d :=
  foldl_keeps (fun u : State => u.calrefFault d) (fun u c => calrefFault_dimmChan u c d) l s

/-- Phase 5's own end of a channel: the run of phase 6 is asked for. -/
theorem chan_trainBegin_self (c : Nat) : ((s.trainBegin c).chan c).calState = 1 ∧ ((s.chan c).retained = false →
    (s.trainBegin c).chan c = { s.chan c with calState := 1, calSeen := 1 }) := by
  have hreq : (s.calRequest c 2 0 false).chan c = { s.chan c with calState := 1, calSeen := 1 } := State.chan_upd_self ..
  have heq : s.trainBegin c = if (s.chan c).retained = true ∧ (s.jwlServes c).isNone = true then
      ((s.calRequest c 2 0 false).restoreFail c 9).updChan c fun ch => { ch with sr := .awake, resetN := true }
    else s.calRequest c 2 0 false := rfl
  rw [heq]
  refine ⟨?_, fun hret => ?_⟩
  · split
    · obtain ⟨hst, -⟩ := restoreFail_meets (s.calRequest c 2 0 false) c 9 rfl
      rw [State.chan_upd_self]
      exact hst
    · rw [hreq]
  · rw [if_neg (fun h : _ ∧ _ => Bool.noConfusion (hret.symm.trans h.1)), hreq]

theorem chan_trainBegin_ne {c d : Nat} (h : d ≠ c) : (s.trainBegin c).chan d = s.chan d := by
  have hreq : (s.calRequest c 2 0 false).chan d = s.chan d := State.chan_upd_ne _ h _
  have hfail : ∀ u : State, (u.restoreFail c 9).chan d = u.chan d := by
    intro u
    unfold State.restoreFail
    dsimp only
    rw [chan_raise, State.chan_upd_ne _ h]
    exact State.chan_upd_ne _ h _
  unfold State.trainBegin
  dsimp only
  split
  · rw [State.chan_upd_ne _ h, hfail, hreq]
  · exact hreq

/-- A channel that nothing retains keeps its supplies and RESET_n as the runs of phase 6 are asked for. -/
def Chan.suppliesAs (ch : Chan) (b : Bool) : Prop := ch.retained = false ∧ ch.powered = true ∧ ch.svcReady = false ∧ ch.resetN = b

theorem suppliesAs_trainBegin {s : State} {c : Nat} {b : Bool} (h : (s.chan c).suppliesAs b) (i : Nat) : ((s.trainBegin i).chan c).suppliesAs b := by
  by_cases hi : c = i
  · subst hi
    rw [(chan_trainBegin_self s c).2 h.1]
    exact h
  · rw [chan_trainBegin_ne s hi]
    exact h

theorem suppliesAs_trainBegins {c : Nat} {b : Bool} (l : List Nat) (s : State) (h : (s.chan c).suppliesAs b) :
    ((l.foldl (fun s c => s.trainBegin c) s).chan c).suppliesAs b := by
  induction l generalizing s with
  | nil => exact h
  | cons i l ih => exact ih _ (suppliesAs_trainBegin h i)

theorem calState_trainBegins {c : Nat} {l : List Nat} (hc : c ∈ l) (s : State) :
    ((l.foldl (fun s c => s.trainBegin c) s).chan c).calState = 1 :=
  foldl_reaches (P := fun u : State => (u.chan c).calState = 1) (fun u i h => by
    by_cases hi : c = i
    · subst hi
      exact (chan_trainBegin_self u c).1
    · rw [chan_trainBegin_ne u hi]
      exact h) (fun u => (chan_trainBegin_self u c).1) hc s

/-- What phase 5 leaves (R498, R499, R503). -/
theorem phaseDone_dimm (x : PhaseIn) {t : State} (ht : t = s.phaseDone x 5) : t.phase = 6 ∧ ∀ c, c < 17 → (s.chan c).retained = false →
    ((s.chan c).accepted = true → (t.chan c).powered = true ∧ (t.chan c).svcReady = false ∧ (t.chan c).resetN = s.calrefFault c) ∧
    ((s.chan c).inService = true → (t.chan c).calState = 1) := by
  subst ht
  have hdimm : ∀ c, s.dimmPhase.chan c = (((List.range 17).filter fun c => (s.chan c).accepted).foldl State.dimmChan s).chan c := fun _ => rfl
  have hphase : s.dimmPhase.phase = 6 := rfl
  refine ⟨?_, fun c hc hret => ⟨fun hacc => ?_, fun hsvc => ?_⟩⟩
  · exact (foldl_keeps State.phase (fun u i => (State.trainBegin_kept (Within.self _) (Kept.refl _ u) i).part .phase (by decide)) _ _).trans hphase
  · have hmem : c ∈ (List.range 17).filter fun c => (s.chan c).accepted := List.mem_filter.mpr ⟨List.mem_range.mpr hc, hacc⟩
    have hsup : (s.dimmPhase.chan c).suppliesAs (s.calrefFault c) := by
      rw [hdimm, chan_dimmChans, if_pos ⟨hmem, hret⟩]
      exact ⟨hret, rfl, rfl, rfl⟩
    exact (suppliesAs_trainBegins _ _ hsup).2
  · have hrole : (s.dimmPhase.chan c).inService = true := by
      rw [hdimm, chan_dimmChans]
      exact of_ite (g := Chan.inService) hsvc hsvc
    exact calState_trainBegins (List.mem_filter.mpr ⟨List.mem_range.mpr hc, hrole⟩) _

end

/-! ### Phases 6 to 9 (R506, R511, R513, R824) -/

section
variable {s : State}

/-- Instance 0 as the pages are committed (R824). -/
def Ins.opened (x : Ins) (shares : List Nat) : Ins := { x with st := 1, elastic := true, shares := shares }

/-- Phase 7 begins: instance 0 is active with the platform's shares. -/
theorem commitPhase_meets (s : State) : s.commitPhase.phase = 7 ∧
    ∃ x : Ins, s.commitPhase.insOf 0 = x.opened ((List.range 17).map fun r => s.plat.shares.getD r 0) := by
  have hplat : ∀ {u v : State} {l : Nat}, Kept l u v → l.testBit Part.plat.bit = false → v.plat = u.plat :=
    fun h hl => congrArg Prod.fst (h.part .plat hl)
  unfold State.commitPhase
  extract_lets chs u1 late rw rs u2 u3 ps u4 sh u5 f u6
  have h1 : u1.plat = s.plat := foldl_keeps State.plat (fun u c => hplat (State.bootTables_kept (Within.self _) (Kept.refl _ u) c 0 true) (by decide)) _ _
  have h2 : u2.plat = u1.plat :=
    foldl_keeps State.plat (fun u (y : PageId × Nat × Word) => hplat (State.setStart_kept (Within.self _) (Kept.refl _ u) y.1 y.2.1 y.2.2) (by decide)) _ _
  have h3 : u3.plat = u2.plat := hplat (State.mvcSet_kept (Within.self _) (Kept.refl _ u2) rs 0) (by decide)
  have h4 : u4.plat = u3.plat := foldl_keeps State.plat (fun u p => hplat (State.enable_kept (Within.self _) (Kept.refl _ u) p) (by decide)) _ _
  have hsh : sh = (List.range 17).map fun r => s.plat.shares.getD r 0 := by
    have heq : sh = (List.range 17).map fun r => u4.plat.shares.getD r 0 := rfl
    rw [heq, h4, h3, h2, h1]
  have h5 : u5.insOf 0 = (u4.insOf 0).opened sh := State.insOf_upd_self ..
  have h6 : u6.insOf 0 = u5.insOf 0 := by
    refine foldl_keeps (fun u : State => u.insOf 0) (fun u r => ?_) _ _
    split
    · exact of_ite (g := fun u : State => u.insOf 0) rfl rfl
    · rfl
  have h7 : u6.insOf 0 = (u4.insOf 0).opened ((List.range 17).map fun r => s.plat.shares.getD r 0) := by rw [h6, h5, hsh]
  clear_value u6
  exact ⟨rfl, u4.insOf 0, h7⟩

theorem phaseDone_train (x : PhaseIn) (hidle : ∀ c, c < 17 → s.calBusy c = false) : s.phaseDone x 6 = s.trainPhase.commitPhase := by
  refine if_neg fun h => ?_
  obtain ⟨c, hc, hbusy⟩ := List.any_eq_true.mp h
  exact Bool.noConfusion ((hidle c (List.mem_range.mp hc)).symm.trans hbusy)

theorem plat_trainPhase (s : State) : s.trainPhase.plat = s.plat :=
  congrArg Prod.fst ((State.trainPhase_kept (Within.self _) (Kept.refl _ s)).part .plat (by decide))

/-- Phase 8 begins, or is skipped (R511, R513). -/
theorem fillPhase_meets (s : State) : if flag s.startCfg 1 = true then
      s.fillPhase.phase = 8 ∧ s.fillPhase.filling = s.trained.filter (fun c => !(s.chan c).retained)
    else s.fillPhase.phase = 9 ∧ s.fillPhase.fillSkipped = true := by
  by_cases h : flag s.startCfg 1 = true
  · have heq : s.fillPhase = { (s.trained.filter fun c => !(s.chan c).retained).foldl (fun s c => s.bootTables c 1 false) s with
        phase := 8, filling := s.trained.filter fun c => !(s.chan c).retained } := if_neg (by rw [h]; decide)
    rw [if_pos h, heq]
    exact ⟨rfl, rfl⟩
  · have heq : s.fillPhase = { s with phase := 9, fillSkipped := true } := if_pos (by rw [Bool.eq_false_iff.mpr h]; rfl)
    rw [if_neg h, heq]
    exact ⟨rfl, rfl⟩

end

/-- Settles O54: each phase's own end, and what of it the statement names. -/
theorem startUpGoesPhaseByPhase : Obligations.StartUpGoesPhaseByPhase := by
  intro s
  refine ⟨fun h0 => ?_, fun h4 hlock => ⟨?_, ?_⟩, fun x => ⟨fun h2 hrun => ?_, fun h1 ha hb => ?_, fun h1 himg => ?_, fun hrun => ?_⟩⟩
  · rw [exec_blockResetRelease]
    exact congrArg _ (if_pos h0)
  · have hview := (lockView_bclkLock h4 hlock).trans (lockView_counting s)
    simp only [State.lockView, Prod.mk.injEq] at hview
    obtain ⟨hlocked, hclk, hgo, hfs, hframe, hen, hphase⟩ := hview
    exact ⟨_, exec_bclkLock s, hlocked, hclk, hgo, hfs, hframe, hen, hphase.trans h4⟩
  · rw [exec_bclkLockTimeout]
    exact congrArg _ (if_pos ⟨h4, by rw [hlock]; rfl⟩)
  · rw [exec_startPhaseComplete, phaseComplete_halted h2 hrun]
  · refine ⟨_, exec_startPhaseComplete s x, ?_⟩
    rw [phaseComplete_boot h1]
    exact bootPhase_none ha hb
  · refine ⟨_, exec_startPhaseComplete s x, ?_⟩
    rw [phaseComplete_boot h1]
    obtain ⟨hphase, hgo, hplat, hslot⟩ := bootPhase_some (s := s) himg
    refine ⟨hphase, hgo, hplat, ?_⟩
    rw [hslot]
    exact flag_bootSlot himg
  · have hdone : ∀ {n}, s.phase = n → s.phaseComplete x = s.phaseDone x n := fun h => (phaseComplete_live hrun).trans (by rw [h])
    have hexec := exec_startPhaseComplete s x
    refine ⟨fun h => ?_, fun h => ?_, fun h hlock => ?_, fun h => ?_, fun h hidle => ?_, fun h hcmt => ?_, fun h hfill htab => ?_⟩
    · have hcalref : s.phaseDone x 2 = s.calrefPhase x := rfl
      rw [hdone h, hcalref] at hexec
      exact ⟨_, hexec, phase_calrefPhase⟩
    · have hside : s.phaseDone x 3 = s.sidebandPhase x := rfl
      rw [hdone h, hside] at hexec
      exact ⟨_, hexec, sidebandPhase_meets⟩
    · rw [hexec, hdone h]
      exact congrArg _ (if_pos hlock)
    · rw [hdone h] at hexec
      exact ⟨_, hexec, phaseDone_dimm s x rfl⟩
    · rw [hdone h, phaseDone_train x hidle] at hexec
      obtain ⟨hphase, i, hi⟩ := commitPhase_meets s.trainPhase
      refine ⟨_, hexec, hphase, ?_⟩
      rw [hi, plat_trainPhase]
      exact ⟨rfl, rfl⟩
    · have hfill : s.phaseDone x 7 = s.fillPhase := if_pos hcmt
      rw [hdone h, hfill] at hexec
      refine ⟨_, hexec, ?_⟩
      exact fillPhase_meets s
    · rw [hexec, hdone h]
      exact congrArg _ (if_pos ⟨hfill, List.all_eq_true.mpr htab⟩)

end Sys2Proof.Machine
end

section
/-! Movement's restarts and its image swap (R518, R520, R886 to R888). -/
namespace Sys2Proof.Machine

theorem exec_fwSwapped (s : State) : exec .fwSwapped s = .next s.fwSwapped := rfl
theorem exec_fwHeartbeatTimeout (s : State) : exec .fwHeartbeatTimeout s = .next s.fwTimeout := rfl
theorem exec_lockstepDisagreement (s : State) (crc : Bool) : exec (.lockstepDisagreement crc) s = .next (s.lockstep crc) := rfl

/-! ### What Movement's pages leave of Movement -/

/-- Movement but for its count of stand-offs and its queue of requests. -/
def Mvc.plain (m : Mvc) : Mvc := { m with standoff := 0, cq := [] }

/-- Movement itself and its mailboxes are the same in two states, the count of stand-offs and the queue of requests apart. -/
structure MvcSame (s t : State) : Prop where
  mvc : t.mvc.plain = s.mvc.plain
  mbx : ∀ m, t.mbx m = s.mbx m

section
variable {s t u : State}

theorem MvcSame.refl (s : State) : MvcSame s s := ⟨rfl, fun _ => rfl⟩

theorem MvcSame.trans (h : MvcSame s t) (k : MvcSame t u) : MvcSame s u := ⟨k.mvc.trans h.mvc, fun m => (k.mbx m).trans (h.mbx m)⟩

theorem MvcSame.of_parts (hmvc : t.mvc = s.mvc) (hblk : t.blk = s.blk) : MvcSame s t :=
  ⟨congrArg Mvc.plain hmvc, fun m => mbx_of_blk_eq hblk m⟩

theorem MvcSame.of_kept {l : Nat} (h : Kept l s t) (hmvc : l.testBit Part.mvc.bit = false) (hblk : l.testBit Part.blk.bit = false) : MvcSame s t :=
  .of_parts (h.part .mvc hmvc) (h.part .blk hblk)

theorem MvcSame.foldl {α : Type} {f : State → α → State} (h : ∀ u a, MvcSame u (f u a)) (l : List α) (s : State) : MvcSame s (l.foldl f s) := by
  induction l generalizing s with
  | nil => exact .refl s
  | cons a l ih => exact (h s a).trans (ih (f s a))

theorem MvcSame.ite {p : Prop} [Decidable p] (h : MvcSame s t) (k : MvcSame s u) : MvcSame s (if p then t else u) := by
  split
  · exact h
  · exact k

variable (s)

theorem MvcSame.standoff : MvcSame s s.standoff := ⟨rfl, fun _ => rfl⟩

theorem MvcSame.updPage (p : PageId) (f : Page → Page) : MvcSame s (s.updPage p f) := ⟨rfl, fun _ => rfl⟩

theorem MvcSame.raise (p : PageId) (b : Nat) : MvcSame s (s.raise p b) := ⟨rfl, fun _ => rfl⟩

theorem MvcSame.intentBack (p : PageId) : MvcSame s (s.intentBack p) := by
  unfold State.intentBack
  dsimp only
  exact .ite (.refl s) (.foldl (fun v q => .updPage v q _) _ _)

theorem MvcSame.refused (x : Word) (y : Option (Nat × Word)) : MvcSame s { s with blk := { s.blk with cmtRef := x, refWas := y } } :=
  ⟨rfl, fun _ => rfl⟩

/-- A refused commit of the ESC page no longer carries tables. -/
def State.refuseEnd (s : State) (p : PageId) : State := match p with | .esc => s.uncarry | _ => s

theorem MvcSame.refuseEnd (p : PageId) : MvcSame s (s.refuseEnd p) := by
  unfold State.refuseEnd
  split
  · exact .foldl (fun v x => .updPage v _ _) _ _
  · exact .refl s

theorem MvcSame.commitRefuseAt (p : PageId) (off rule b : Nat) : MvcSame s (s.commitRefuseAt p off rule b) := by
  unfold State.commitRefuseAt
  refine MvcSame.trans ?_ (MvcSame.refuseEnd _ p)
  refine MvcSame.trans ?_ (.raise _ .blk 2)
  refine MvcSame.trans ?_ (.refused _ _ _)
  refine MvcSame.trans ?_ (.intentBack _ p)
  exact MvcSame.trans (t := s.setErrAt p off rule b) (.updPage s p _) (.updPage _ p _)

theorem MvcSame.commitGo (p : PageId) (mvc : Bool) : MvcSame s (s.commitGo p mvc) := by
  have herr : ∀ (off rule : Nat), MvcSame s (s.setErr p off rule) := fun _ _ => .updPage s p _
  have href : ∀ (off rule : Nat), MvcSame s (s.commitRefuse p off rule) := fun off rule => .commitRefuseAt s p off rule s.bclk
  unfold State.commitGo
  dsimp only
  refine .ite (herr _ _) (.ite (herr _ _) (.ite (href _ _) (.ite (href _ _) (.ite (href _ _) ?_))))
  exact .ite ((MvcSame.updPage s p _).trans (.foldl (fun v x => .updPage v _ _) _ _)) (.updPage s p _)

theorem MvcSame.mvcCommit (p : PageId) (target : Word) : MvcSame s (s.mvcCommit p target) := by
  unfold State.mvcCommit
  exact .ite (.standoff s) ((MvcSame.updPage s p _).trans (.commitGo _ p true))

theorem MvcSame.reapply (p : PageId) : MvcSame s (s.reapply p) := by
  unfold State.reapply
  exact .ite (.refl s) ((MvcSame.foldl (fun v o => .updPage v _ _) _ _).trans (.mvcCommit _ p 0))

theorem MvcSame.reapplyAll : MvcSame s s.reapplyAll := by
  have hpages : MvcSame s ((s.pages.filterMap fun e => pageOf e.1).foldl (fun s p => match p with | .trt _ => s | _ => s.reapply p) s) := by
    refine .foldl (fun u p => ?_) _ _
    split
    · exact .refl u
    · exact .reapply u _
  unfold State.reapplyAll
  dsimp only
  refine hpages.trans (.ite (.refl _) ((MvcSame.foldl (fun u p => ?_) _ _).trans (.mvcCommit _ _ 0)))
  exact .foldl (fun v o => .updPage v _ _) _ _

/-- The adoption of an intent is a page's alone. -/
theorem mvc_adopts (ps : List PageId) : (ps.foldl (fun s p => s.adopt p) s).mvc = s.mvc ∧ (ps.foldl (fun s p => s.adopt p) s).blk = s.blk :=
  ⟨foldl_keeps State.mvc (fun u p => (State.adopt_kept (Within.self _) (Kept.refl _ u) p).part .mvc (by decide)) ps s,
    foldl_keeps State.blk (fun u p => (State.adopt_kept (Within.self _) (Kept.refl _ u) p).part .blk (by decide)) ps s⟩

theorem intentLost_keeps : s.intentLost.mvc = { s.mvc with intentOk := false } ∧ s.intentLost.blk = s.blk ∧ s.intentLost.bclk = s.bclk :=
  ⟨(mvc_adopts _ _).1, (mvc_adopts _ _).2, (State.intentLost_kept (Within.self _) (Kept.refl _ s)).part .bclk (by decide)⟩

/-! ### The image swap ends (R888) -/

/-- Movement as the first heartbeat of a new image comes (R888). -/
def Mvc.swapped (m : Mvc) (b : Nat) : Mvc :=
  { m with running := true, slot := !m.slot, fallback := false, swaps := wrapAdd 8 m.swaps 1, heartbeat := wrapAdd 32 m.heartbeat 1,
           beatAt := b, trial := none, swapMb := none }

/-- The state of a swap that is complete, before its command ends. -/
def State.swapComplete (s : State) : State := ({ s with mvc := s.mvc.swapped s.bclk }.raise .mvc 0).reapplyAll

/-- FW_SWAP's command ends, where one waits. -/
def State.swapTold (s : State) (mb : Option Nat) (f v : Nat) : State :=
  match mb with | some m => s.mbDone m 0 0 [(0, f), (1, v)] | none => s

theorem fwSwapped_eq {s : State} {f b : Nat} (h : s.mvc.trial = some (f, b)) (hin : s.bclk ≤ b + s.bin.us 10000) (hhalt : s.mvc.halted = false) :
    s.fwSwapped = s.swapComplete.swapTold s.mvc.swapMb f (fld (if s.mvc.slot = true then s.mvc.verA else s.mvc.verB) 0 28) := by
  have heq : s.fwSwapped = match s.mvc.trial with
      | none => s
      | some (f, b) => if b + s.bin.us 10000 < s.bclk ∨ s.mvc.halted then s
        else s.swapComplete.swapTold s.mvc.swapMb f (fld (if (!s.mvc.slot) = true then s.mvc.verB else s.mvc.verA) 0 28) := rfl
  have hver : (if (!s.mvc.slot) = true then s.mvc.verB else s.mvc.verA) = if s.mvc.slot = true then s.mvc.verA else s.mvc.verB := by
    cases s.mvc.slot <;> rfl
  rw [heq, h, ← hver]
  refine if_neg ?_
  rw [hhalt]
  rintro (h | h)
  · omega
  · exact Bool.noConfusion h

theorem swapComplete_keeps : s.swapComplete.mvc.plain = (s.mvc.swapped s.bclk).plain ∧ ∀ m, s.swapComplete.mbx m = s.mbx m := by
  have h := MvcSame.reapplyAll ({ s with mvc := s.mvc.swapped s.bclk }.raise .mvc 0)
  exact ⟨h.mvc, h.mbx⟩

theorem mvc_mbDone (m status detail : Nat) (res : List (Nat × Nat)) : (s.mbDone m status detail res).mvc = s.mvc :=
  (mbDone_kept_self s m status detail res).part .mvc (by decide)

theorem swapTold_meets {v : State} {mb : Option Nat} {f n : Nat} (hmbx : ∀ m, v.mbx m = s.mbx m) :
    (v.swapTold mb f n).mvc = v.mvc ∧ ∀ m, mb = some m → Ended s (v.swapTold mb f n) m 0 0 [(0, f), (1, n)] := by
  refine ⟨?_, fun m hm => ?_⟩
  · unfold State.swapTold
    split
    · exact mvc_mbDone v _ _ _ _
    · rfl
  · subst hm
    exact ended_mbDone (hmbx m) 0 (by simp)

/-- Movement as it goes back to the old slot (R888). -/
def Mvc.wentBack (m : Mvc) (b : Nat) (ok : Bool) : Mvc :=
  { m with running := !m.halted, beatAt := b, fallback := true, intentOk := ok, restarts := wrapAdd 8 m.restarts 1, trial := none, swapMb := none }

/-- The state in which Movement has restarted from the old slot, before FW_SWAP's command ends (R519, R888). -/
def State.wentBack (s : State) : State :=
  let v := { s.crcFree.2 with mvc := s.mvc.wentBack s.bclk s.crcFree.1 }.raise .mvc 1
  if s.crcFree.1 then v else v.intentLost

/-- FW_SWAP's command fails, where one waits. -/
def State.swapFailed (s : State) (mb : Option Nat) : State :=
  match mb with | some m => s.mbReason m 9 | none => s

theorem fwTimeout_eq {s : State} {f b : Nat} (h : s.mvc.trial = some (f, b))
    (hreach : s.canReach (max s.bclk (b + s.bin.us 10000)) = true) :
    s.fwTimeout = (s.goto (max s.bclk (b + s.bin.us 10000))).wentBack.swapFailed (s.goto (max s.bclk (b + s.bin.us 10000))).mvc.swapMb := by
  unfold State.fwTimeout
  rw [h]
  exact (if_neg (canReach_not hreach)).trans rfl

theorem wentBack_keeps : (∃ ok, s.wentBack.mvc = s.mvc.wentBack s.bclk ok) ∧ s.wentBack.blk = s.blk ∧ s.wentBack.bclk = s.bclk := by
  unfold State.wentBack
  dsimp only
  split
  · exact ⟨⟨_, rfl⟩, rfl, rfl⟩
  · obtain ⟨hmvc, hblk, hclk⟩ := intentLost_keeps ({ s.crcFree.2 with mvc := s.mvc.wentBack s.bclk s.crcFree.1 }.raise .mvc 1)
    exact ⟨⟨false, hmvc⟩, hblk, hclk⟩

theorem swapFailed_meets {v : State} {mb : Option Nat} (hmbx : ∀ m, v.mbx m = s.mbx m) :
    (v.swapFailed mb).mvc = v.mvc ∧ (v.swapFailed mb).bclk = v.bclk ∧ ∀ m, mb = some m → Ended s (v.swapFailed mb) m 0x0C 0 [(1, 9)] := by
  refine ⟨?_, ?_, fun m hm => ?_⟩
  · unfold State.swapFailed
    split
    · exact mvc_mbDone v _ _ _ _
    · rfl
  · unfold State.swapFailed
    split
    · exact (mbDone_kept_self v _ _ _ _).part .bclk (by decide)
    · rfl
  · subst hm
    exact ended_mbDone (hmbx m) 0x0C

/-! ### The lockstep pair disagrees (R518) -/

/-- Movement but for its count of beats, of stand-offs and its queue of requests. -/
def Mvc.lasting (m : Mvc) : Mvc := { m with standoff := 0, cq := [], heartbeat := 0, beatAt := 0 }

theorem lasting_of_eq {m n : Mvc} (h : m = n) : m.lasting = n.lasting := congrArg Mvc.lasting h

/-- Movement's work is cut short: what it overran, and its count of beats. -/
theorem lasting_overrun (p : Prop) [Decidable p] (k n : Nat) : (if p then s.overrun k n else s).mvc = s.mvc :=
  of_ite (g := State.mvc) ((State.overrun_kept (Within.self _) (Kept.refl _ s) k n).part .mvc (by decide)) rfl

theorem lasting_beatFold : s.beatFold.mvc.lasting = s.mvc.lasting := rfl

/-- The mailboxes of a restart: commands in progress end OFFLINE, but for FW_SWAP's, and an idle mailbox is reset (R518). -/
def State.restartMail (s : State) : State :=
  [0, 1].foldl (fun s m =>
    if s.mvc.swapMb = some m ∨ (s.mvc.swapMb.isSome ∧ !(s.mbx m).running) then s
    else if (s.mbx m).busy then s.mbDone m 3 0 [] else s.updMbx m fun _ => {}) s

theorem mvc_restartMail : s.restartMail.mvc = s.mvc := by
  refine foldl_keeps State.mvc (fun u m => ?_) _ _
  exact of_ite (g := State.mvc) rfl (of_ite (g := State.mvc) (mvc_mbDone u m 3 0 []) (mvc_updMbx u m _))

/-- The state in which Movement's work is cut short by a restart. -/
def State.restartCut (s : State) : State :=
  let s := if s.mbBusy then s.overrun 6 255 else s
  let s := if s.mvc.running then s else s.beatFold
  s.restartMail

/-- Movement as it restarts. -/
def Mvc.restarted (m : Mvc) (crc : Bool) : Mvc :=
  { m with running := true, halted := false, fault := false, intentOk := crc, restarts := wrapAdd 8 m.restarts 1 }

theorem mvcRestart_eq (crc : Bool) : s.mvcRestart crc =
    if crc then { s.restartCut.dropMail with mvc := s.restartCut.mvc.restarted crc }
    else State.intentLost { s.restartCut.dropMail with mvc := s.restartCut.mvc.restarted crc } := rfl

theorem lasting_restartCut : s.restartCut.mvc.lasting = s.mvc.lasting := by
  unfold State.restartCut
  dsimp only
  rw [mvc_restartMail]
  have hover := lasting_overrun s (s.mbBusy = true) 6 255
  generalize (if s.mbBusy = true then s.overrun 6 255 else s) = v at *
  exact (of_ite (g := fun u : State => u.mvc.lasting) rfl (lasting_beatFold v)).trans (lasting_of_eq hover)

theorem lasting_mvcRestart (crc : Bool) : (s.mvcRestart crc).mvc.lasting = (s.mvc.restarted crc).lasting := by
  have hcut : (s.restartCut.mvc.restarted crc).lasting = (s.mvc.restarted crc).lasting :=
    congrArg (fun m : Mvc => m.restarted crc) (lasting_restartCut s)
  rw [mvcRestart_eq]
  cases crc
  · have hlost := (intentLost_keeps { s.restartCut.dropMail with mvc := s.restartCut.mvc.restarted false }).1
    exact (lasting_of_eq hlost).trans hcut
  · exact hcut

/-- The mailboxes of a halt: commands in progress end OFFLINE, but for FW_SWAP's (R518). -/
def State.haltMail (s : State) : State :=
  [0, 1].foldl (fun s m => if (s.mbx m).busy ∧ s.mvc.swapMb ≠ some m then s.mbDone m 3 0 [] else s) s

/-- Movement as it halts. -/
def Mvc.stopped (m : Mvc) : Mvc := { m with running := false, halted := true }

/-- The state in which Movement has halted, before the arbiters know. -/
def State.haltCut (s : State) : State :=
  let v := (if s.mbBusy then s.overrun 6 255 else s).haltMail.dropMail.beatFold
  { v with mvc := v.mvc.stopped }

theorem mvcHalt_eq : s.mvcHalt = s.haltCut.aliveLost 19 fun c => !s.haltCut.alive c 19 := rfl

theorem lasting_haltCut : s.haltCut.mvc.lasting = s.mvc.stopped.lasting := by
  have hover := lasting_overrun s (s.mbBusy = true) 6 255
  unfold State.haltCut
  dsimp only
  generalize (if s.mbBusy = true then s.overrun 6 255 else s) = v at *
  have hmail : v.haltMail.mvc = v.mvc := foldl_keeps State.mvc (fun u m => of_ite (g := State.mvc) (mvc_mbDone u m 3 0 []) rfl) _ _
  have hdrop : v.haltMail.dropMail.mvc = v.haltMail.mvc :=
    (State.dropMail_kept (Within.self _) (Kept.refl _ v.haltMail)).part .mvc (by decide)
  generalize v.haltMail.dropMail = w at *
  have hfold : w.beatFold.mvc.stopped.lasting = w.mvc.stopped.lasting := rfl
  exact hfold.trans (congrArg (fun m : Mvc => m.stopped.lasting) (hdrop.trans (hmail.trans hover)))

theorem lasting_updWaits (c i : Nat) (f : List CWait → List CWait) : (s.updWaits c i f).mvc.lasting = s.mvc.lasting := by
  unfold State.updWaits
  exact of_ite (g := fun u : State => u.mvc.lasting) rfl (of_ite (g := fun u : State => u.mvc.lasting) rfl
    (of_ite (g := fun u : State => u.mvc.lasting) rfl rfl))

theorem lasting_requeue (rs : List Req) : (s.requeue rs).mvc.lasting = s.mvc.lasting := by
  unfold State.requeue
  refine foldl_keeps (fun u : State => u.mvc.lasting) (fun u r => ?_) _ _
  refine Eq.trans ?_ (lasting_updWaits u r.loc.ch r.src fun l => { req := r, raised := r.created, urg3 := u.overT3 r.loc.ch r } :: l)
  split <;> rfl

theorem lasting_aliveLost (i : Nat) (on : Nat → Bool) : (s.aliveLost i on).mvc.lasting = s.mvc.lasting := by
  have hcut : (s.cutTrains fun r => r.src == i && on r.loc.ch).1.mvc = s.mvc :=
    (State.cutTrains_kept (Within.self _) (Kept.refl _ s) _).part .mvc (by decide)
  unfold State.aliveLost
  dsimp only
  generalize (s.cutTrains fun r => r.src == i && on r.loc.ch) = cut at *
  exact (lasting_of_eq ((State.forgetLosses_kept (Within.self _) (Kept.refl _ _) i on).part .mvc (by decide))).trans
    ((lasting_requeue cut.1 cut.2).trans (lasting_of_eq hcut))

theorem lasting_mvcHalt : s.mvcHalt.mvc.lasting = s.mvc.stopped.lasting := by
  rw [mvcHalt_eq]
  exact (lasting_aliveLost _ _ _).trans (lasting_haltCut s)

/-- Movement with a disagreement noted (R518). -/
def Mvc.disagreed (m : Mvc) (near : List Nat) (b : Nat) : Mvc := { m with faults := satAdd 65535 m.faults 1, recent := near ++ [b] }

/-- The state in which a disagreement has been noted. -/
def State.disagreed (s : State) (near : List Nat) : State := { s with mvc := s.mvc.disagreed near s.bclk }.raise .blk 4

/-- The fault that halts Movement. -/
def State.faulted (s : State) : State := { s with mvc := { s.mvc with fault := true } }

theorem lockstep_eq {s : State} (h0 : s.phase ≠ 0) (hhalt : s.mvc.halted = false) (crc : Bool) :
    let near := s.mvc.recent.filter fun t => decide (s.bclk ≤ t + s.bin.us 1000000)
    s.lockstep crc = if 2 ≤ near.length then (s.disagreed near).faulted.mvcHalt else (s.disagreed near).mvcRestart crc := by
  refine (if_neg ?_).trans rfl
  rw [hhalt]
  rintro (h | h)
  · exact h0 h
  · exact Bool.noConfusion h

end

/-- Settles O41: the swap's end, its time-out and the lockstep's disagreement, each by what it leaves of Movement itself. -/
theorem movementChangesItsImage : Obligations.MovementChangesItsImage := by
  intro s
  refine ⟨fun f b htrial hin hhalt => ?_, fun f b htrial hreach => ?_, fun crc h0 hhalt => ?_⟩
  · obtain ⟨hmvc, hmbx⟩ := swapComplete_keeps s
    obtain ⟨htold, hend⟩ := swapTold_meets s (mb := s.mvc.swapMb) (f := f)
      (n := fld (if s.mvc.slot = true then s.mvc.verA else s.mvc.verB) 0 28) hmbx
    have heq := fwSwapped_eq htrial hin hhalt
    rw [← heq] at htold hend
    have hlast : s.fwSwapped.mvc.plain = (s.mvc.swapped s.bclk).plain := (congrArg Mvc.plain htold).trans hmvc
    exact ⟨_, exec_fwSwapped s, (congrArg Mvc.running hlast :), (congrArg Mvc.slot hlast :), (congrArg Mvc.fallback hlast :),
      (congrArg Mvc.swaps hlast :), (congrArg Mvc.heartbeat hlast :), (congrArg Mvc.beatAt hlast :), (congrArg Mvc.trial hlast :),
      (congrArg Mvc.swapMb hlast :), hend⟩
  · have heq := fwTimeout_eq htrial hreach
    have hgoto := goto_kept_self s (max s.bclk (b + s.bin.us 10000))
    have hgmvc : (s.goto (max s.bclk (b + s.bin.us 10000))).mvc = s.mvc := hgoto.part .mvc (by decide)
    have hgclk := (bclk_goto s (max s.bclk (b + s.bin.us 10000))).trans (max_eq_right (le_max_left _ _))
    have hgmbx : ∀ m, (s.goto (max s.bclk (b + s.bin.us 10000))).mbx m = s.mbx m := by
      have hp := Passing.goto s (max s.bclk (b + s.bin.us 10000))
      intro m
      unfold State.mbx
      rw [hp.blkField Blk.mb1 fun _ => rfl, hp.blkField Blk.mb0 fun _ => rfl]
    generalize s.goto (max s.bclk (b + s.bin.us 10000)) = u at *
    obtain ⟨⟨ok, hmvc⟩, hblk, hclk⟩ := wentBack_keeps u
    obtain ⟨htold, htclk, hend⟩ := swapFailed_meets s (mb := u.mvc.swapMb) (v := u.wentBack) fun m => (mbx_of_blk_eq hblk m).trans (hgmbx m)
    rw [← heq] at htold htclk hend
    rw [hgmvc] at hend hmvc
    have hlast := htold.trans hmvc
    have ht := htclk.trans (hclk.trans hgclk)
    refine ⟨_, exec_fwHeartbeatTimeout s, ht, ?_⟩
    rw [hlast, ht, ← hgclk]
    exact ⟨rfl, rfl, rfl, rfl, rfl, rfl, rfl, hend⟩
  · intro near
    have heq := lockstep_eq h0 hhalt crc
    by_cases hfew : near.length < 2
    · have ht : s.lockstep crc = (s.disagreed near).mvcRestart crc := heq.trans (if_neg (Nat.not_le.mpr hfew))
      have hlast := (lasting_of_eq (congrArg State.mvc ht)).trans (lasting_mvcRestart (s.disagreed near) crc)
      refine ⟨_, exec_lockstepDisagreement s crc, (congrArg Mvc.faults hlast :), (congrArg Mvc.recent hlast :), ?_⟩
      rw [if_pos hfew]
      exact ⟨(congrArg Mvc.running hlast :), (congrArg Mvc.halted hlast :), (congrArg Mvc.restarts hlast :), (congrArg Mvc.intentOk hlast :)⟩
    · have ht : s.lockstep crc = (s.disagreed near).faulted.mvcHalt := heq.trans (if_pos (Nat.not_lt.mp hfew))
      have hlast := (lasting_of_eq (congrArg State.mvc ht)).trans (lasting_mvcHalt (s.disagreed near).faulted)
      refine ⟨_, exec_lockstepDisagreement s crc, (congrArg Mvc.faults hlast :), (congrArg Mvc.recent hlast :), ?_⟩
      rw [if_neg hfew]
      exact ⟨(congrArg Mvc.running hlast :), (congrArg Mvc.halted hlast :), (congrArg Mvc.restarts hlast :)⟩

end Sys2Proof.Machine
end


section

/-! ### A takeover: its start, the copy unit, poison mode and the last phase (R862, R864 to R866, R869, R873) -/

namespace Sys2Proof.Machine

open Instr

section
variable {s : State}

/-- A channel whose event has been taken up. -/
def Chan.unmarked (ch : Chan) : Chan := { ch with evtAt := none }

theorem chan_moveStart (s : State) (c d : Nat) :
    ((s.updChan c Chan.unmarked).moveStart 1 c d false none [] s.bclk).chan c = (s.chan c).unmarked :=
  State.chan_upd_self (s := s) c Chan.unmarked

theorem takeoverStart_eq {c : Fin 17} {e d : Nat} (hevt : (s.chan c).evtAt = some e) (hin : s.bclk ≤ e + s.bin.us 1000)
    (hdst : s.chanOfRole 16 = some d) (href : s.tkRefuse c = 0) (hrun : s.mvc.running = true) (hmap : s.map.kind = 0)
    (hexp : s.anyExpert (tkPages c d) = false) (hbusy : s.pagesBusy (tkPages c d) = false) :
    s.takeoverStart c = (s.updChan c Chan.unmarked).moveStart 1 c d false none [] s.bclk := by
  unfold State.takeoverStart
  rw [hevt, hdst]
  refine if_neg ?_
  rw [href, hrun, hmap, hexp, hbusy]
  have hc := c.isLt
  rintro (h | h | h | h | h | h | h)
  · exact absurd h (by omega)
  · exact absurd h (by omega)
  · exact h rfl
  · exact Bool.noConfusion h
  · exact h rfl
  · exact Bool.noConfusion h
  · exact Bool.noConfusion h

theorem exec_takeoverStart (s : State) (c : Fin 17) : exec (.takeoverStart c) s = .next (s.takeoverStart c) := rfl

theorem mem_insertWait (w : CWait) (l : List CWait) : w ∈ insertWait w l := by
  induction l with
  | nil => exact List.mem_singleton.mpr rfl
  | cons x t ih =>
    unfold insertWait
    split
    · exact List.mem_cons_self
    · exact List.mem_cons_of_mem _ ih

/-- The request of a copy read of line `n` (R866). -/
def copyReq (l : Loc) (n b : Nat) : Req := { src := 19, tag := n, loc := l, created := b, hdrAt := b, use := 3 }

/-- The copy unit has queued the read of line `n` of channel `src`, its record `k` as before. -/
def State.copyReadOut (s : State) (k : Copy) (n : Nat) : State :=
  let s := { s with mvc := { s.mvc with cq := insertWait { req := copyReq (s.lineLoc k.src n) n s.bclk, raised := s.bclk } s.mvc.cq } }
  { s with copy := { s.copy with next := n + 1, out := s.copy.out ++ [n], lastRead := if k.out = [] then s.bclk else k.lastRead } }

/-- The copy unit has queued the poison write of line `n` of channel `src`. -/
def State.copyPoison (s : State) (src n : Nat) : State :=
  let s := s.copyWrite (s.lineLoc src n) 0 true 4 0 s.bclk
  { s with copy := { s.copy with next := n + 1, poisoned := s.copy.poisoned + 1 } }

theorem copyReadOut_meets (s : State) (k : Copy) (n : Nat) : (s.copyReadOut k n).bclk = s.bclk ∧ (s.copyReadOut k n).copy.next = n + 1 ∧
    (s.copyReadOut k n).copy.out = s.copy.out ++ [n] ∧ (s.copyReadOut k n).copy.poisoned = s.copy.poisoned ∧
    ∃ w ∈ (s.copyReadOut k n).mvc.cq, w.req.src = 19 ∧ w.req.use = 3 ∧ w.req.tag = n ∧ w.req.write = false ∧ w.raised = s.bclk :=
  ⟨rfl, rfl, rfl, rfl, _, mem_insertWait _ _, rfl, rfl, rfl, rfl, rfl⟩

theorem copyPoison_meets (s : State) (c n : Nat) : (s.copyPoison c n).bclk = s.bclk ∧ (s.copyPoison c n).copy.next = n + 1 ∧
    (s.copyPoison c n).copy.out = s.copy.out ∧ (s.copyPoison c n).copy.poisoned = s.copy.poisoned + 1 ∧
    ∃ w ∈ (s.copyPoison c n).mvc.cq, w.req.src = 19 ∧ w.req.poison = true ∧ w.req.write = true ∧ w.raised = s.bclk :=
  ⟨rfl, rfl, rfl, rfl, _, mem_insertWait _ _, rfl, rfl, rfl, rfl⟩

theorem copyLine_eq (s : State) :
    let n := s.copy.next
    let b := max s.bclk (s.copyTime n)
    s.copyLine = if (!s.copy.on) = true ∨ s.chanLines ≤ n ∨ s.therm.rate = 0 then s
      else if (!s.canReach b) = true ∨ ((!s.copy.poison) = true ∧
        64 < s.copy.out.length + (s.mvc.cq.filter fun w => w.req.use == 4 || w.req.use == 5).length + 16) then s
      else if s.copy.poison = true then (s.goto b).copyPoison s.copy.src n else (s.goto b).copyReadOut s.copy n := rfl

theorem copyLine_read (hon : s.copy.on = true) (hn : s.copy.next < s.chanLines) (hrate : s.therm.rate ≠ 0)
    (hreach : s.canReach (max s.bclk (s.copyTime s.copy.next)) = true) (hpoison : s.copy.poison = false)
    (hroom : s.copy.out.length + (s.mvc.cq.filter fun w => w.req.use == 4 || w.req.use == 5).length + 16 ≤ 64) :
    s.copyLine = (s.goto (max s.bclk (s.copyTime s.copy.next))).copyReadOut s.copy s.copy.next := by
  rw [copyLine_eq, if_neg, if_neg, if_neg (by rw [hpoison]; decide)]
  · rintro (h | ⟨-, h⟩)
    · exact canReach_not hreach h
    · omega
  · rw [hon]
    rintro (h | h | h)
    · exact Bool.noConfusion h
    · omega
    · exact hrate h

theorem copyLine_poison (hon : s.copy.on = true) (hn : s.copy.next < s.chanLines) (hrate : s.therm.rate ≠ 0)
    (hreach : s.canReach (max s.bclk (s.copyTime s.copy.next)) = true) (hpoison : s.copy.poison = true) :
    s.copyLine = (s.goto (max s.bclk (s.copyTime s.copy.next))).copyPoison s.copy.src s.copy.next := by
  rw [copyLine_eq, if_neg, if_neg, if_pos hpoison]
  · rintro (h | ⟨h, -⟩)
    · exact canReach_not hreach h
    · rw [hpoison] at h
      exact Bool.noConfusion h
  · rw [hon]
    rintro (h | h | h)
    · exact Bool.noConfusion h
    · omega
    · exact hrate h

theorem exec_copyLine (s : State) : exec .copyLine s = .next s.copyLine := rfl

/-- The copy unit has left its reads and poisons the lines of those that were out (R869). -/
def State.poisoned (s : State) (k : Copy) : State :=
  let s := k.out.foldl (fun s n => s.copyWrite (s.lineLoc k.src n) 0 true 4 0 s.bclk) s
  { s with mvc := { s.mvc with cq := s.mvc.cq.filter fun w => w.req.use != 3 },
           copy := { s.copy with poison := true, out := [], poisoned := s.copy.poisoned + k.out.length } }

theorem poisonMode_eq (hon : s.copy.on = true) (hpoison : s.copy.poison = false) (hout : s.copy.out ≠ [])
    (hreach : s.canReach (max s.bclk (s.copy.lastRead + s.bin.us 10000)) = true) :
    s.poisonMode = (s.goto (max s.bclk (s.copy.lastRead + s.bin.us 10000))).poisoned s.copy := by
  refine (if_neg ?_).trans rfl
  rw [hon, hpoison]
  rintro (h | h | h | h)
  · exact Bool.noConfusion h
  · exact Bool.noConfusion h
  · exact hout h
  · exact canReach_not hreach h

theorem poisoned_keeps (s : State) (k : Copy) : (s.poisoned k).bclk = s.bclk ∧
    (s.poisoned k).copy = { s.copy with poison := true, out := [], poisoned := s.copy.poisoned + k.out.length } ∧
    ∀ w ∈ (s.poisoned k).mvc.cq, w.req.use ≠ 3 := by
  unfold State.poisoned
  have hclk : (k.out.foldl (fun s n => s.copyWrite (s.lineLoc k.src n) 0 true 4 0 s.bclk) s).bclk = s.bclk := by
    refine foldl_keeps State.bclk (fun u n => ?_) _ _
    rfl
  have hcopy : (k.out.foldl (fun s n => s.copyWrite (s.lineLoc k.src n) 0 true 4 0 s.bclk) s).copy = s.copy := by
    refine foldl_keeps State.copy (fun u n => ?_) _ _
    rfl
  generalize k.out.foldl (fun s n => s.copyWrite (s.lineLoc k.src n) 0 true 4 0 s.bclk) s = u at *
  refine ⟨hclk, congrArg (fun x : Copy => { x with poison := true, out := [], poisoned := x.poisoned + k.out.length }) hcopy, fun w hw => ?_⟩
  have h := (List.mem_filter.mp hw).2
  exact fun heq => by rw [heq] at h; exact Bool.noConfusion h

theorem exec_poisonMode (s : State) : exec .poisonMode s = .next s.poisonMode := rfl

/-! ### The last phase -/

theorem takeoverPower_eq (hkind : s.task.kind = 1) (hphase : s.task.phase = 5) (hrun : s.mvc.running = true) :
    s.takeoverPower = { s with task := { s.task with phase := 6, at_ := s.soonFrame } } := by
  refine (if_neg ?_).trans rfl
  rw [hkind, hphase, hrun]
  decide

theorem exec_takeoverPower (s : State) : exec .takeoverPower s = .next s.takeoverPower := rfl

theorem moveTick_done (hkind : s.task.kind = 1) (hrun : s.mvc.running = true) (hphase : s.task.phase = 6) (hat : s.task.at_ ≤ s.esc.frame) :
    s.moveTick = s.moveDone := by
  unfold State.moveTick
  dsimp only
  rw [if_neg, if_neg, hphase, if_neg (by decide), if_neg (by decide), if_neg (by decide), if_neg (by decide),
    if_neg (fun h : _ ∧ _ => absurd h.1 (by decide)), if_neg (fun h : _ ∧ _ => absurd h.1 (by decide)), if_pos rfl]
  · rw [hphase]
    exact fun h => absurd h.2 (by decide)
  · rw [hkind, hrun]
    rintro (h | h | h)
    · exact absurd h.1 (by decide)
    · exact Bool.noConfusion h
    · omega

/-- A channel that has lost its supplies. -/
def Chan.unpowered (ch : Chan) : Chan := { ch with powered := false, svcReady := true, resetN := true, calState := 0, rjn := 0, test := false }

/-- The source of a takeover that is over. -/
def Chan.moved (ch : Chan) : Chan := { ch with tko := 6 }

theorem chan_supplyOff (s : State) (c : Nat) : (s.supplyOff c).chan c = (s.chan c).unpowered := State.chan_upd_self (s := s) c Chan.unpowered

/-- The source of a takeover that is over has no supplies and raises its interrupt. -/
def State.sourceOff (s : State) (c : Nat) : State := ((s.supplyOff c).updChan c Chan.moved).raise (.cc c) 10

/-- The takeover's task `k` is over. -/
def State.moveOver (s : State) (k : Task) : State := { s.sourceOff k.src with task := {} }

/-- Movement reapplies the intents of the channel that has taken the index. -/
def State.reapplyChan (s : State) (c : Nat) : State := [PageId.cc c, .slt c 0, .slt c 1, .brl c].foldl (fun s p => s.reapply p) s

/-- The command that asked for takeover `k`, if any, ends. -/
def State.moveTold (s : State) (k : Task) : State :=
  match k.mb with
  | some m => s.mbDone m 0 0 [(0, k.swFrame), (1, min s.copy.poisoned (2 ^ 32 - 1)), (2, k.copyMs)]
  | none => s

theorem moveDone_eq (s : State) : s.moveDone = ((s.moveOver s.task).reapplyChan s.task.dst).moveTold s.task := rfl

theorem chan_moveOver (s : State) (k : Task) : (s.moveOver k).chan k.src = (s.chan k.src).unpowered.moved :=
  (State.chan_upd_self (s := s.supplyOff k.src) k.src Chan.moved).trans (congrArg Chan.moved (chan_supplyOff s k.src))

theorem sourceOff_kept_self (s : State) (c : Nat) : Kept 0x420 s (s.sourceOff c) :=
  State.raise_kept (Within.self 0x420 |>.of (by decide)) (State.updChan_kept (f := Chan.moved) (Within.self 0x420 |>.of (by decide)) (fun _ h => h)
    (State.supplyOff_kept (Within.self 0x420 |>.of (by decide)) (Kept.refl _ s) c) c) _ _

theorem mbx_moveOver (s : State) (k : Task) (m : Nat) : (s.moveOver k).mbx m = s.mbx m :=
  mbx_of_blk_eq ((sourceOff_kept_self s k.src).part .blk (by decide)) m

theorem copy_moveOver (s : State) (k : Task) : (s.moveOver k).copy = s.copy := (sourceOff_kept_self s k.src).part .copy (by decide)

theorem isr_moveOver (s : State) (k : Task) : flag ((s.moveOver k).page (.cc k.src)).isr 10 = true :=
  flag_raise ((s.supplyOff k.src).updChan k.src Chan.moved) (.cc k.src) (by decide)

theorem reapplyChan_kept_self (s : State) (c : Nat) : Kept 0x20000260 s (s.reapplyChan c) :=
  Kept.foldl (fun _ _ hs => State.reapply_kept (Within.self _) hs _) (Kept.refl _ s) _

theorem IsrGrows.reapplyChan (s : State) (c : Nat) : IsrGrows s (s.reapplyChan c) := IsrGrows.foldl (fun u p => IsrGrows.reapply u p) _ s

theorem mbx_reapplyChan (s : State) (c m : Nat) : (s.reapplyChan c).mbx m = s.mbx m :=
  (MvcSame.foldl (fun v p => MvcSame.reapply v p) _ s).mbx m

theorem IsrGrows.mbDone (s : State) (m status detail : Nat) (res : List (Nat × Nat)) : IsrGrows s (s.mbDone m status detail res) :=
  ((IsrGrows.of_pages (t := s.updMbx m fun x => { (x.put res) with
    go := false, busy := false, running := false, done := true, status := status, seqEcho := x.seq, detail := detail % 256, await := [],
    refused := [], chans := [], eff := 0 }) ((State.updMbx_kept (Within.self 0x40) (Kept.refl _ s) m _).part .pages (by decide))).trans (IsrGrows.raise _ .blk m)).trans (IsrGrows.ev _ _)

theorem moveTold_kept_self (s : State) (k : Task) : Kept 0x20060 s (s.moveTold k) := by
  unfold State.moveTold
  split
  · exact mbDone_kept_self s _ 0 0 _
  · exact Kept.refl _ s

theorem IsrGrows.moveTold (s : State) (k : Task) : IsrGrows s (s.moveTold k) := by
  unfold State.moveTold
  split
  · exact .mbDone s _ 0 0 _
  · exact .refl s

theorem ended_moveTold {v : State} {k : Task} {m : Nat} (hm : k.mb = some m) (hmbx : v.mbx m = s.mbx m) (hcopy : v.copy = s.copy) :
    Ended s (v.moveTold k) m 0 0 [(0, k.swFrame), (1, min s.copy.poisoned (2 ^ 32 - 1)), (2, k.copyMs)] := by
  unfold State.moveTold
  rw [hm, hcopy]
  exact ended_mbDone hmbx 0 (by simp)

end

/-- Settles O42: the start, a copy read and a poison write, poison mode, and the two ends of a takeover's POWER. -/
theorem takeoverRuns : Obligations.TakeoverRuns := by
  intro s
  refine ⟨fun c e d hevt hin hdst href hrun hmap hexp hbusy => ?_, ?_, ?_, ?_⟩
  · refine ⟨_, exec_takeoverStart s c, ?_⟩
    rw [takeoverStart_eq hevt hin hdst href hrun hmap hexp hbusy]
    have hchan := chan_moveStart s c d
    exact ⟨(congrArg Chan.evtAt hchan :), (congrArg Chan.tko hchan :), rfl⟩
  · intro n b hon hn hrate hreach
    have hgoto := goto_kept_self s b
    have hcopy : (s.goto b).copy = s.copy := hgoto.part .copy (by decide)
    have hclk : (s.goto b).bclk = b := (bclk_goto s b).trans (max_eq_right (le_max_left _ _))
    refine ⟨fun hpoison hroom => ⟨_, exec_copyLine s, ?_⟩, fun hpoison => ⟨_, exec_copyLine s, ?_⟩⟩
    · rw [copyLine_read hon hn hrate hreach hpoison hroom]
      have hmeets := copyReadOut_meets (s.goto b) s.copy n
      rwa [hcopy, hclk] at hmeets
    · rw [copyLine_poison hon hn hrate hreach hpoison]
      have hmeets := copyPoison_meets (s.goto b) s.copy.src n
      rwa [hcopy, hclk] at hmeets
  · intro b hon hpoison hout hreach
    have hcopy : (s.goto b).copy = s.copy := (goto_kept_self s b).part .copy (by decide)
    have hclk : (s.goto b).bclk = b := (bclk_goto s b).trans (max_eq_right (le_max_left _ _))
    refine ⟨_, exec_poisonMode s, ?_⟩
    rw [poisonMode_eq hon hpoison hout hreach]
    obtain ⟨hpclk, hpcopy, hreads⟩ := poisoned_keeps (s.goto b) s.copy
    rw [hcopy] at hpcopy
    exact ⟨hpclk.trans hclk, hpcopy, hreads⟩
  · intro k hkind hrun
    refine ⟨fun hphase => (exec_takeoverPower s).trans (congrArg Host.Outcome.next (takeoverPower_eq hkind hphase hrun)), fun hphase hat => ?_⟩
    intro t
    have ht : t = ((s.moveOver k).reapplyChan k.dst).moveTold k := (moveTick_done hkind hrun hphase hat).trans (moveDone_eq s)
    clear_value t
    subst ht
    have hback := reapplyChan_kept_self (s.moveOver k) k.dst
    have htold := moveTold_kept_self ((s.moveOver k).reapplyChan k.dst) k
    have hchan : (((s.moveOver k).reapplyChan k.dst).moveTold k).chan k.src = (s.chan k.src).unpowered.moved :=
      ((chan_of_chans (htold.part .chans (by decide)) k.src).trans (chan_of_chans (hback.part .chans (by decide)) k.src)).trans
        (chan_moveOver s k)
    have htask : (((s.moveOver k).reapplyChan k.dst).moveTold k).task = {} :=
      (htold.part .task (by decide)).trans (hback.part .task (by decide))
    have hisr := ((IsrGrows.reapplyChan (s.moveOver k) k.dst).trans (.moveTold _ k)) _ _ (isr_moveOver s k)
    refine ⟨htask, (congrArg Chan.powered hchan :), (congrArg Chan.svcReady hchan :), (congrArg Chan.resetN hchan :),
      (congrArg Chan.tko hchan :), hisr, fun m hm => ?_⟩
    exact ended_moveTold hm ((mbx_reapplyChan (s.moveOver k) k.dst m).trans (mbx_moveOver s k m))
      (Eq.trans (hback.part .copy (by decide)) (copy_moveOver s k))

end Sys2Proof.Machine
end


section

/-! ### Torus links: retries, links declared failed, and CLEAR (R719, R738, R742) -/

namespace Sys2Proof.Machine

open Instr

section
variable {s t u : State}

theorem rtr_of_rtrs (h : t.rtrs = s.rtrs) (n : Nat) : t.rtr n = s.rtr n := by
  unfold State.rtr
  rw [h]

/-! #### A link once declared failed stays so -/

/-- No failed link comes back and no pending interrupt is taken back. -/
structure LinksLost (s t : State) : Prop where
  links : ∀ n p, (s.rtr n).linkFail.testBit p = true → (t.rtr n).linkFail.testBit p = true
  isr : IsrGrows s t

theorem LinksLost.refl (s : State) : LinksLost s s := ⟨fun _ _ h => h, .refl s⟩

theorem LinksLost.trans (h : LinksLost s t) (k : LinksLost t u) : LinksLost s u :=
  ⟨fun n p hp => k.links n p (h.links n p hp), h.isr.trans k.isr⟩

theorem LinksLost.of_parts (hr : t.rtrs = s.rtrs) (hp : t.pages = s.pages) : LinksLost s t :=
  ⟨fun n p h => by rwa [rtr_of_rtrs hr], .of_pages hp⟩

theorem LinksLost.ev (s : State) (e : Ev) : LinksLost s (s.ev e) :=
  ⟨fun n p h => by rwa [rtr_of_rtrs ((ev_kept_self s e).part .rtrs (by decide))], .ev s e⟩

theorem LinksLost.raise (s : State) (p : PageId) (b : Nat) : LinksLost s (s.raise p b) := ⟨fun _ _ h => h, .raise s p b⟩

theorem LinksLost.updRtr {s : State} {n : Nat} {f : Rtr → Rtr} (hf : ∀ p, (s.rtr n).linkFail.testBit p = true → (f (s.rtr n)).linkFail.testBit p = true) :
    LinksLost s (s.updRtr n f) := by
  refine ⟨fun m p h => ?_, .of_pages rfl⟩
  rw [State.rtr_upd]
  split
  · next hm => exact hf p (hm ▸ h)
  · exact h

theorem LinksLost.foldl {α : Type} {f : State → α → State} (h : ∀ u a, LinksLost u (f u a)) (l : List α) (s : State) :
    LinksLost s (l.foldl f s) := by
  induction l generalizing s with
  | nil => exact .refl s
  | cons a l ih => exact (h s a).trans (ih (f s a))

theorem LinksLost.losePkt (s : State) (p : Pkt) (answered : Bool) : LinksLost s (s.losePkt p answered) := by
  have hkept := State.losePkt_kept (Within.self _) (Kept.refl _ s) p answered
  exact .of_parts (hkept.part .rtrs (by decide)) (hkept.part .pages (by decide))

theorem LinksLost.discardAt (s : State) (n : Nat) (p : Pkt) (answered : Bool) : LinksLost s (s.discardAt n p answered) := by
  unfold State.discardAt
  refine LinksLost.trans (LinksLost.trans ?_ (.ev _ _)) (.losePkt _ p answered)
  exact .updRtr fun _ h => h

/-! #### The failure of a link (R738) -/

/-- Router `a` stops using its port `q`. -/
def State.markLink (s : State) (a q : Nat) : State :=
  (s.updRtr a fun r => { r with linkFail := Nat.lor r.linkFail (2 ^ q), fails := Tbl.set (fun _ => 0) r.fails q 0 }).raise (.trt a) 0

/-- What becomes of packet `k` as the link on port `p` of router `n` fails; `old` tells where it stood. -/
def State.pktAtFailure (old : State) (n p : Nat) (dbl : Bool) (s : State) (k : Pkt) : State :=
  if k.waiting then { s with pkts := s.pkts ++ [k] }
  else match old.onLink k n p with
    | .clear => { s with pkts := s.pkts ++ [k] }
    | .on => s.losePkt k (!dbl)
    | .ahead => if dbl then s.discardAt n k false else { s with pkts := s.pkts ++ [{ k with waiting := true, stuck := true }] }

/-- Both ends have stopped using the link, and its packets are lost, wait or stay. -/
def State.pktsAtFailure (u old : State) (n p : Nat) (dbl : Bool) : State :=
  u.pkts.foldl (old.pktAtFailure n p dbl) { u with pkts := [] }

/-- A failure that is a double fault is told (R745). -/
def State.tellDouble (s : State) (dbl : Bool) : State :=
  if dbl then ({ s with trt := { s.trt with double := true } }).raise (.trt s.ctlRouter) 4 else s

theorem failLink_eq {n p : Nat} (h : (s.rtr n).linkFail.testBit p = false) :
    let u := (s.markLink n p).markLink (neighbour n p) (backPort p)
    s.failLink n p = (u.pktsAtFailure s n p (u.isDouble n p)).tellDouble (u.isDouble n p) :=
  (if_neg (by rw [h]; exact Bool.false_ne_true)).trans rfl

theorem LinksLost.markLink (s : State) (a q : Nat) : LinksLost s (s.markLink a q) := by
  unfold State.markLink
  refine LinksLost.trans (.updRtr fun p h => ?_) (.raise _ _ _)
  exact (Nat.testBit_or _ _ p).trans (by rw [h]; rfl)

theorem linkFail_markLink (s : State) (a q : Nat) : ((s.markLink a q).rtr a).linkFail.testBit q = true := by
  have h := State.rtr_upd_self (s := s) a fun r => { r with linkFail := Nat.lor r.linkFail (2 ^ q), fails := Tbl.set (fun _ => 0) r.fails q 0 }
  refine (congrArg (fun r : Rtr => r.linkFail.testBit q) h).trans ((Nat.testBit_or _ _ q).trans ?_)
  rw [Nat.testBit_two_pow_self, Bool.or_true]

theorem isr_markLink (s : State) (a q : Nat) : flag ((s.markLink a q).page (.trt a)).isr 0 = true := flag_raise _ _ (by decide)

theorem LinksLost.pktAtFailure (old : State) (n p : Nat) (dbl : Bool) (s : State) (k : Pkt) : LinksLost s (old.pktAtFailure n p dbl s k) := by
  unfold State.pktAtFailure
  split
  · exact .of_parts rfl rfl
  · split
    · exact .of_parts rfl rfl
    · exact .losePkt s k _
    · split
      · exact .discardAt s n k false
      · exact .of_parts rfl rfl

theorem LinksLost.pktsAtFailure (u old : State) (n p : Nat) (dbl : Bool) : LinksLost u (u.pktsAtFailure old n p dbl) := by
  unfold State.pktsAtFailure
  refine LinksLost.trans (t := { u with pkts := [] }) (.of_parts rfl rfl) ?_
  exact .foldl (.pktAtFailure old n p dbl) _ _

theorem LinksLost.tellDouble (s : State) (dbl : Bool) : LinksLost s (s.tellDouble dbl) := by
  unfold State.tellDouble
  split
  · refine LinksLost.trans (t := { s with trt := { s.trt with double := true } }) (.of_parts rfl rfl) ?_
    exact .raise _ _ _
  · exact .refl s

/-- The link on port `p` of router `n` is declared failed at both ends, and the router's page tells it. -/
def LinkDown (n p : Nat) (t : State) : Prop :=
  (t.rtr n).linkFail.testBit p = true ∧ (t.rtr (neighbour n p)).linkFail.testBit (backPort p) = true ∧ flag (t.page (.trt n)).isr 0 = true

theorem linkDown_failLink {n p : Nat} (h : (s.rtr n).linkFail.testBit p = false) : LinkDown n p (s.failLink n p) := by
  rw [failLink_eq h]
  have hback := LinksLost.markLink (s.markLink n p) (neighbour n p) (backPort p)
  have hnear := hback.links n p (linkFail_markLink s n p)
  have hfar := linkFail_markLink (s.markLink n p) (neighbour n p) (backPort p)
  have hisr := hback.isr _ _ (isr_markLink s n p)
  generalize (s.markLink n p).markLink (neighbour n p) (backPort p) = u at *
  have hrest := (LinksLost.pktsAtFailure u s n p (u.isDouble n p)).trans (.tellDouble _ (u.isDouble n p))
  exact ⟨hrest.links _ _ hnear, hrest.links _ _ hfar, hrest.isr _ _ hisr⟩

theorem exec_creditTimeout (s : State) (n : Fin 36) (p : Fin 4) : exec (.creditTimeout n p) s = .next (s.creditTimeout n p) := rfl

theorem creditTimeout_eq (s : State) (n : Fin 36) (p : Fin 4) : s.creditTimeout n p = s.failLink n p :=
  if_neg (not_or.mpr ⟨Nat.not_le.mpr n.isLt, Nat.not_le.mpr p.isLt⟩)

/-! #### A flit with a bad CRC (R719) -/

/-- Router `n` asks for the flit on port `p` again, after `k` failed resends. -/
def State.resent (s : State) (n p k : Nat) : State :=
  s.updRtr n fun r => { r with fails := Tbl.set (fun _ => 0) r.fails p k, retries := satAdd 127 r.retries 1 }

/-- Both ends count a resend, and the router's page tells it. -/
def State.crcTold (s : State) (n p : Nat) : State :=
  ((s.ev { box := boxTr n, code := 6, qual := .port p 0 }).ev { box := boxTr (neighbour n p), code := 5, qual := .port (backPort p) 0 }).raise (.trt n) 5

theorem flitCrc_eq (n : Fin 36) (p : Fin 4) (h : (s.rtr n).linkFail.testBit p = false) (again : Bool) :
    let k := if again then Tbl.get (fun _ => 0) (s.rtr n).fails p + 1 else 0
    let u := (s.resent n p k).crcTold n p
    s.flitCrc n p again = if u.regFld (.trt n) 0x040 0 4 ≤ k then u.failLink n p else u := by
  refine (if_neg ?_).trans rfl
  rintro (hn | hp | hf)
  · exact absurd n.isLt (Nat.not_lt.mpr hn)
  · exact absurd p.isLt (Nat.not_lt.mpr hp)
  · exact Bool.noConfusion (h.symm.trans hf)

theorem crcTold_kept_self (s : State) (n p : Nat) : Kept 0x20020 s (s.crcTold n p) :=
  State.raise_kept (Within.self 0x20020 |>.of (by decide)) (State.ev_kept (Within.self _) (ev_kept_self s _) _) _ _

theorem regFld_crcTold (s : State) (n p : Nat) (q : PageId) (off lo w : Nat) : (s.crcTold n p).regFld q off lo w = s.regFld q off lo w :=
  congrArg (fld · lo w) (reg_of_body ((((State.ev_body s _).trans (State.ev_body _ _)).trans (State.raise_body _ _ 5)) q) off)

theorem rtr_resent (s : State) (n p k : Nat) : ((s.resent n p k).rtr n) =
    { s.rtr n with fails := Tbl.set (fun _ => 0) (s.rtr n).fails p k, retries := satAdd 127 (s.rtr n).retries 1 } :=
  State.rtr_upd_self (s := s) n _

theorem isr_crcTold (s : State) (n p : Nat) : flag ((s.crcTold n p).page (.trt n)).isr 5 = true := flag_raise _ _ (by decide)

theorem exec_torusFlitCrcError (s : State) (n : Fin 36) (p : Fin 4) (again : Bool) :
    exec (.torusFlitCrcError n p again) s = .next (s.flitCrc n p again) := rfl

/-! #### CLEAR (R742) -/

theorem exec_clear (s : State) (n : Fin 36) : exec (.clear n) s = .next (s.sendClear n) := rfl

theorem sendClear_eq {n : Nat} (hpend : s.trt.clearPend = true) (hall : s.trt.clearAll = none) (hunit : n ∈ s.clearUnits)
    (hnew : n ∉ s.trt.clears) (hheld : s.holdsMarked n = false) :
    s.sendClear n = { s with trt := { s.trt with clears := s.trt.clears ++ [n] } } := by
  refine if_neg ?_
  rw [hpend, hall, hheld, List.contains_iff_mem.mpr hunit]
  rintro (h | h | h | h | h)
  · exact Bool.noConfusion h
  · exact Bool.noConfusion h
  · exact Bool.noConfusion h
  · exact hnew (List.contains_iff_mem.mp h)
  · exact Bool.noConfusion h

theorem exec_clearAll (s : State) : exec .clearAll s = .next s.clearAllGo := rfl

theorem clearAllGo_meets (hpend : s.trt.clearPend = true) (hall : s.trt.clearAll = none) (hunits : ∀ n ∈ s.clearUnits, n ∈ s.trt.clears) :
    ∃ f, s.clearAllGo = { s with trt := { s.trt with clearAll := some f } } ∧ (f = s.esc.frame ∨ f = s.esc.frame + 1) := by
  refine ⟨_, if_neg ?_, ?_⟩
  · rw [hpend, hall, List.all_eq_true.mpr fun n hn => List.contains_iff_mem.mpr (hunits n hn)]
    decide
  · split
    · exact .inr rfl
    · exact .inl rfl

end

end Sys2Proof.Machine
end


section

/-! ### The loss switch and what a fenced node answers (R739, R740, R747, R798) -/

namespace Sys2Proof.Machine

open Instr

section
variable {s t u : State}

/-! #### The detour set goes into the shadows (R739) -/

/-- The write of register `i` of router `n`'s page that a route commit's image asks for. -/
def State.routeWrite (s : State) (img : Nat → Nat → Word) (loss : Bool) (n i : Nat) : ShdWrite :=
  (.trt n, s.routeOff i, if i = 0 then setFld (img n i) 13 1 (b2n (loss && n == s.ctlRouter)) else img n i)

/-- The routers that a route commit is written to. -/
def State.liveRouters (s : State) : List Nat := (List.range 36).filter fun n => !s.routerDead n

/-- The writes of a route commit. -/
def State.routeWrites (s : State) (img : Nat → Nat → Word) (loss : Bool) : List ShdWrite :=
  s.liveRouters.flatMap fun n => (List.range 38).map fun i => s.routeWrite img loss n i

theorem routeOff_of_trt (h : t.trt = s.trt) (i : Nat) : t.routeOff i = s.routeOff i := by
  unfold State.routeOff State.standbyBase
  rw [h]

/-- One write of a route commit, its place told by the state it meets. -/
def State.routeWritten (s : State) (img : Nat → Nat → Word) (loss : Bool) (n : Nat) (u : State) (i : Nat) : State :=
  u.mvcWrite (.trt n) (u.routeOff i) (if i = 0 then setFld (img n i) 13 1 (b2n (loss && n == s.ctlRouter)) else img n i)

theorem routeGo_eq (s : State) (img : Nat → Nat → Word) (loss : Bool) :
    s.routeGo img loss = (s.liveRouters.foldl (fun u n => (List.range 38).foldl (s.routeWritten img loss n) u) s).mvcCommit (.trt s.ctlRouter) 0 := rfl

theorem trt_mvcWrites (s : State) (ws : List ShdWrite) : (s.mvcWrites ws).trt = s.trt := (mvcWrites_kept_self s ws).part .trt (by decide)

theorem mvcWrites_append (s : State) (ws vs : List ShdWrite) : s.mvcWrites (ws ++ vs) = (s.mvcWrites ws).mvcWrites vs := List.foldl_append

theorem routeWrittens_eq (img : Nat → Nat → Word) (loss : Bool) (n : Nat) (l : List Nat) (h : u.trt = s.trt) :
    l.foldl (s.routeWritten img loss n) u = u.mvcWrites (l.map fun i => s.routeWrite img loss n i) := by
  induction l generalizing u with
  | nil => rfl
  | cons i l ih =>
    have hstep : s.routeWritten img loss n u i = u.mvcWrites [s.routeWrite img loss n i] := by
      unfold State.routeWritten
      rw [routeOff_of_trt h]
      rfl
    rw [List.foldl_cons, hstep, ih ((trt_mvcWrites u _).trans h), ← mvcWrites_append]
    rfl

theorem routeFold_eq (img : Nat → Nat → Word) (loss : Bool) (l : List Nat) (h : u.trt = s.trt) :
    l.foldl (fun u n => (List.range 38).foldl (s.routeWritten img loss n) u) u =
      u.mvcWrites (l.flatMap fun n => (List.range 38).map fun i => s.routeWrite img loss n i) := by
  induction l generalizing u with
  | nil => rfl
  | cons n l ih =>
    rw [List.foldl_cons, routeWrittens_eq img loss n _ h, ih ((trt_mvcWrites u _).trans h), ← mvcWrites_append, List.flatMap_cons]

theorem routeGo_writes (s : State) (img : Nat → Nat → Word) (loss : Bool) :
    s.routeGo img loss = (s.mvcWrites (s.routeWrites img loss)).mvcCommit (.trt s.ctlRouter) 0 :=
  (routeGo_eq s img loss).trans (congrArg (fun v : State => v.mvcCommit (.trt s.ctlRouter) 0) (routeFold_eq img loss s.liveRouters rfl))

theorem routeOff_injective {i j : Nat} (h : s.routeOff i = s.routeOff j) : i = j := by
  have hbase : 0x100 ≤ s.standbyBase := by
    unfold State.standbyBase
    split <;> decide
  unfold State.routeOff at h
  generalize s.standbyBase = base at h hbase
  grind

theorem num_trt_ne {n m : Nat} (h : n ≠ m) : PageId.num (.trt n) ≠ PageId.num (.trt m) := fun he => h (Nat.add_left_cancel he)

theorem nodup_liveRouters (s : State) : s.liveRouters.Nodup := List.Nodup.filter _ List.nodup_range

theorem mem_liveRouters {n : Nat} (hn : n < 36) (h : s.routerDead n = false) : n ∈ s.liveRouters :=
  List.mem_filter.mpr ⟨List.mem_range.mpr hn, by rw [h]; rfl⟩

theorem apart_routeWrites (s : State) (img : Nat → Nat → Word) (loss : Bool) : ApartWrites (s.routeWrites img loss) := by
  refine List.pairwise_flatMap.mpr ⟨fun n _ => ?_, ?_⟩
  · refine List.pairwise_map.mpr (List.pairwise_lt_range.imp fun hlt => ?_)
    exact .inr ⟨rfl, fun h => absurd (routeOff_injective h) (Nat.ne_of_lt hlt)⟩
  · refine (nodup_liveRouters s).imp fun hne a ha b hb => ?_
    obtain ⟨i, -, rfl⟩ := List.mem_map.mp ha
    obtain ⟨j, -, rfl⟩ := List.mem_map.mp hb
    exact .inl (num_trt_ne hne)

theorem mem_routeWrites (img : Nat → Nat → Word) (loss : Bool) {n i : Nat} (hn : n ∈ s.liveRouters) (hi : i < 38) :
    s.routeWrite img loss n i ∈ s.routeWrites img loss :=
  List.mem_flatMap.mpr ⟨n, hn, List.mem_map.mpr ⟨i, List.mem_range.mpr hi, rfl⟩⟩

theorem page_routeWrites {img : Nat → Nat → Word} {loss : Bool} {w : ShdWrite} (h : w ∈ s.routeWrites img loss) :
    w.1 ∈ (List.range 36).map PageId.trt := by
  obtain ⟨n, hn, hw⟩ := List.mem_flatMap.mp h
  obtain ⟨i, -, rfl⟩ := List.mem_map.mp hw
  exact List.mem_map.mpr ⟨n, (List.mem_filter.mp hn).1, rfl⟩

theorem ctlRouter_lt (s : State) : s.ctlRouter < 36 := by
  unfold State.ctlRouter
  split <;> decide

/-- A route commit of Movement's on open pages: its page is being checked, and every live router's shadow holds the image. -/
theorem routeGo_meets (img : Nat → Nat → Word) (loss : Bool) (ho : s.pagesOpen ((List.range 36).map PageId.trt)) :
    Checking s (s.routeGo img loss) (.trt s.ctlRouter) 0 ∧
      ∀ n i, n < 36 → s.routerDead n = false → i < 38 → (s.routeGo img loss).shd (.trt n) (s.routeOff i) =
        (s.routeWrite img loss n i).2.2 &&& regMask (.trt n) (s.routeOff i) := by
  have hbasic : ∀ w ∈ s.routeWrites img loss, (s.page w.1).expert = false := fun w hw => basic_of_pagesOpen ho (page_routeWrites hw)
  have hctl : PageId.trt s.ctlRouter ∈ (List.range 36).map PageId.trt := List.mem_map.mpr ⟨_, List.mem_range.mpr (ctlRouter_lt s), rfl⟩
  have hun := unwritten_mvcWrites hbasic
  have hkept := mvcWrites_kept_self s (s.routeWrites img loss)
  have hesc : (s.mvcWrites (s.routeWrites img loss)).esc = s.esc := hkept.part .esc (by decide)
  have halone : (s.mvcWrites (s.routeWrites img loss)).commitsAlone (.trt s.ctlRouter) := by
    refine ⟨nofun, ?_, ?_, fun n hn => ?_, .inl nofun⟩
    · exact (Page.unwrittenField Page.expert (hun _)).trans (basic_of_pagesOpen ho hctl)
    · exact (Page.unwrittenField Page.pendingCmt (hun _)).trans (idle_of_pagesOpen ho hctl).2
    · rw [ctlRouter_of_rtrs (hkept.part .rtrs (by decide))]
      exact (PageId.trt.inj hn).symm
  have hrun := (congrArg Esc.running hesc).trans ho.1
  rw [routeGo_writes]
  obtain ⟨hcmt, hwant, harrive⟩ := checking_mvcCommit halone hrun 0
  refine ⟨⟨hcmt, hwant, harrive.trans (congrArg Esc.frame hesc)⟩, fun n i hn hlive hi => ?_⟩
  exact (Page.uncommittedField (fun pg => pg.shdReg (.trt n) (s.routeOff i)) (uncommitted_mvcCommit halone hrun 0 (.trt n))).trans
    (shd_mvcWrites hbasic (apart_routeWrites s img loss) _ (mem_routeWrites img loss (mem_liveRouters hn hlive) hi))

theorem flag_lossMask (n : Nat) : flag (regMask (.trt n) 0x040) 13 = true := by
  have hrow : regRow (.trt n) 0x040 = regRow (.trt 0) 0x040 := rfl
  unfold regMask
  rw [hrow]
  decide

theorem flag_setFld_thirteen (w : Word) : flag (setFld w 13 1 1) 13 = true := by
  have hw : w.toNat < 2 ^ 32 := w.isLt
  unfold flag setFld bits
  rw [BitVec.toNat_ofNat, Nat.testBit_eq_decide_div_mod_eq, Nat.shiftLeft_eq, Nat.shiftLeft_eq]
  simp only [decide_eq_true_eq]
  omega

theorem lossSwitchGo_eq {set : Nat} (hset : s.detourSet = some set) (hrun : s.mvc.running = true) (hdbl : s.trt.double = false)
    (hclear : s.trt.clearPend = false) (ho : s.pagesOpen ((List.range 36).map PageId.trt)) :
    s.lossSwitchGo = s.routeGo (fun n i => routeSetWord set n i) true := by
  unfold State.lossSwitchGo
  rw [hset]
  refine if_neg ?_
  rw [hrun, hdbl, hclear, ho.2.1, ho.2.2]
  decide

theorem exec_lossSwitchGo (s : State) : exec .lossSwitchGo s = .next s.lossSwitchGo := rfl

/-! #### Fenced channels and powered-down engines (R747, R798) -/

/-- Of two packets that a fenced node's sink takes at node `d`, the one that arrives first. -/
def sunkPkt (d : Nat) (a : Option Pkt) (p : Pkt) : Option Pkt :=
  if p.dst = d ∧ !p.waiting ∧ p.body.cls ≤ 1 then
    (match a with | some q => if p.arr < q.arr then some p else a | none => some p) else a

theorem sunkPkt_of_only {d : Nat} {a b : List Pkt} {p : Pkt} (hdst : p.dst = d) (hw : p.waiting = false) (hcls : p.body.cls ≤ 1)
    (hothers : ∀ q ∈ a ++ b, q.dst ≠ d) : (a ++ p :: b).foldl (sunkPkt d) none = some p := by
  have hskip : ∀ l : List Pkt, (∀ q ∈ l, q.dst ≠ d) → ∀ o, l.foldl (sunkPkt d) o = o := by
    intro l hl o
    induction l with
    | nil => rfl
    | cons q l ih =>
      have hq : sunkPkt d o q = o := if_neg fun h => hl q List.mem_cons_self h.1
      rw [List.foldl_cons, hq]
      exact ih fun x hx => hl x (List.mem_cons_of_mem q hx)
  have hp : sunkPkt d none p = some p := if_pos ⟨hdst, by rw [hw]; rfl, hcls⟩
  rw [List.foldl_append, hskip a fun q hq => hothers q (List.mem_append_left b hq), List.foldl_cons, hp,
    hskip b fun q hq => hothers q (List.mem_append_right a hq)]

/-- A packet is gone from those on their way. -/
def State.pktGone (s : State) (p : Pkt) : State := { s with pkts := eraseFirst (fun q => q == p) s.pkts }

/-- What the packet that a fenced channel has taken stood for no longer counts. -/
def State.sunk (s : State) (c : Nat) (p : Pkt) : State :=
  match p.body with
  | .memReq r => if r.g then s else s.updArb c fun a => { a with granted := a.granted - 1 }
  | _ => s

theorem fencedSink_eq {c : Nat} {p : Pkt} (hfirst : s.pkts.foldl (sunkPkt (nodeCh c)) none = some p) (hf : (s.chan c).fenced = true)
    (hreach : s.canReach p.arr = true) : s.fencedSink c = ((s.fenced c p).pktGone p).sunk c p := by
  have heq : s.fencedSink c = match s.pkts.foldl (sunkPkt (nodeCh c)) none with
    | none => s
    | some p => if !(s.chan c).fenced ∨ !s.canReach p.arr then s else ((s.fenced c p).pktGone p).sunk c p := rfl
  rw [heq, hfirst]
  refine if_neg ?_
  rw [hf, hreach]
  decide

theorem sunk_keeps (s : State) (c : Nat) (p : Pkt) : (s.sunk c p).bclk = s.bclk ∧ (s.sunk c p).pkts = s.pkts := by
  unfold State.sunk
  split
  · split
    · exact ⟨rfl, rfl⟩
    · exact ⟨rfl, rfl⟩
  · exact ⟨rfl, rfl⟩

theorem mem_eraseFirst_of_ne {α : Type} [BEq α] [LawfulBEq α] {p q : α} {l : List α} (h : q ∈ l) (hne : q ≠ p) : q ∈ eraseFirst (fun x => x == p) l := by
  induction l with
  | nil => exact h
  | cons x l ih =>
    unfold eraseFirst
    split
    · next hx =>
      rcases List.mem_cons.mp h with rfl | hl
      · exact absurd (eq_of_beq hx) hne
      · exact hl
    · rcases List.mem_cons.mp h with rfl | hl
      · exact List.mem_cons_self
      · exact List.mem_cons_of_mem x (ih hl)

theorem fencedSink_meets {c : Nat} {p : Pkt} {r : Req} (hfirst : s.pkts.foldl (sunkPkt (nodeCh c)) none = some p)
    (hf : (s.chan c).fenced = true) (hreach : s.canReach p.arr = true) (hbody : p.body = .memReq r) :
    (s.fencedSink c).bclk = max s.bclk p.arr ∧ ∃ q ∈ (s.fencedSink c).pkts, q.src = nodeCh c ∧ q.dst = nodeOfSrc r.src ∧
      q.body = .memResp { req := r, status := 3, rkind := 4 } := by
  rw [fencedSink_eq hfirst hf hreach]
  obtain ⟨hclk, hpkts⟩ := sunk_keeps ((s.fenced c p).pktGone p) c p
  have hfenced : s.fenced c p = (s.goto p.arr).inject (.memResp { req := r, status := 3, rkind := 4 }) (nodeCh c) (nodeOfSrc r.src) (p.arr + 1) := by
    unfold State.fenced
    rw [hbody]
  rw [hclk, hpkts]
  refine ⟨?_, ?_⟩
  · change (s.fenced c p).bclk = _
    rw [hfenced, (inject_kept_self (s.goto p.arr) _ _ _ _ _).part .bclk (by decide), bclk_goto]
  · obtain ⟨q, hq, hsrc, hdst, hqbody, -⟩ := exists_pkt_inject (s.goto p.arr) (.memResp { req := r, status := 3, rkind := 4 }) (nodeCh c)
      (nodeOfSrc r.src) (p.arr + 1) none
    rw [← hfenced] at hq
    refine ⟨q, mem_eraseFirst_of_ne hq fun h => ?_, hsrc, hdst, hqbody⟩
    rw [h, hbody] at hqbody
    exact nomatch hqbody

/-- A powered-down engine discards packet `p`. -/
def State.engineDiscards (s : State) (e : Nat) (p : Pkt) : State :=
  ((s.pktGone p).updLe e fun w => { w with disc := satAdd 255 w.disc 1 }).raise (.lth e) 4

theorem engineSink_eq {e : Nat} {p : Pkt} (hfirst : s.pkts.foldl (sunkPkt (nodeLe e)) none = some p) (hst : (s.le e).st = 3)
    (hreach : s.canReach p.arr = true) : s.engineSink e = (s.goto p.arr).engineDiscards e p := by
  have heq : s.engineSink e = match s.pkts.foldl (sunkPkt (nodeLe e)) none with
    | none => s
    | some p => if (s.le e).st ≠ 3 ∨ !s.canReach p.arr then s else (s.goto p.arr).engineDiscards e p := rfl
  rw [heq, hfirst]
  refine if_neg ?_
  rw [hst, hreach]
  decide

theorem engineDiscards_meets (s : State) (e : Nat) (p : Pkt) : (s.engineDiscards e p).bclk = s.bclk ∧
    (s.engineDiscards e p).pkts = eraseFirst (fun q => q == p) s.pkts ∧ ((s.engineDiscards e p).le e).disc = satAdd 255 (s.le e).disc 1 ∧
    flag ((s.engineDiscards e p).page (.lth e)).isr 4 = true :=
  have hle := State.le_upd_self (s := s.pktGone p) e fun w => { w with disc := satAdd 255 w.disc 1 }
  ⟨rfl, rfl, (congrArg Le.disc hle :), flag_raise _ _ (by decide)⟩

theorem exec_fencedSink (s : State) (u : Fin 19) : exec (.fencedSink u) s = .next (if u.val < 17 then s.fencedSink u else s.engineSink (u - 17)) := rfl

end

/-- Settles O59: links by what a failure leaves of both ends, the loss switch by the writes of its route commit, CLEAR and the sinks. -/
theorem torusMeetsLoss : Obligations.TorusMeetsLoss := by
  intro s
  refine ⟨fun n p hlink => ?_, fun set hset hrun hdbl hclear ho => ?_, fun hpend hall => ?_, fun u a p b hpkts hw hreach => ?_⟩
  · refine ⟨⟨_, exec_creditTimeout s n p, ?_⟩, fun again => ?_⟩
    · rw [creditTimeout_eq]
      exact linkDown_failLink hlink
    · intro k
      have heq := flitCrc_eq n p hlink again
      have hkept := crcTold_kept_self (s.resent n p k) n p
      have hrtr := (rtr_of_rtrs (hkept.part .rtrs (by decide)) n).trans (rtr_resent s n p k)
      have hreg := regFld_crcTold (s.resent n p k) n p (.trt n) 0x040 0 4
      have hisr := isr_crcTold (s.resent n p k) n p
      have hsame : (s.resent n p k).regFld (.trt n) 0x040 0 4 = s.regFld (.trt n) 0x040 0 4 := rfl
      have hpk : ((s.resent n p k).crcTold n p).pkts = s.pkts := hkept.part .pkts (by decide)
      refine ⟨fun hmore => ⟨_, exec_torusFlitCrcError s n p again, ?_⟩, fun hover => ⟨_, exec_torusFlitCrcError s n p again, ?_⟩⟩
      · rw [heq, if_neg (by rw [hreg, hsame]; exact Nat.not_le.mpr hmore)]
        refine ⟨(congrArg Rtr.linkFail hrtr :), (congrArg Rtr.retries hrtr :), ?_, hisr, hpk⟩
        rw [hrtr]
        exact Tbl.get_set_self _ _ _ _
      · rw [heq, if_pos (by rw [hreg, hsame]; exact hover)]
        exact linkDown_failLink ((congrArg (fun r : Rtr => r.linkFail.testBit p) hrtr).trans hlink)
  · intro k hlive
    obtain ⟨hcheck, hshd⟩ := routeGo_meets (s := s) (fun n i => routeSetWord set n i) true ho
    have hloss := hshd s.ctlRouter 0 (ctlRouter_lt s) hlive (by decide)
    refine ⟨_, exec_lossSwitchGo s, ?_⟩
    rw [lossSwitchGo_eq hset hrun hdbl hclear ho]
    refine ⟨hcheck, ?_, fun r i hr hrlive hi hlt => ?_⟩
    · have hmask : flag (regMask (.trt s.ctlRouter) 0x040) 13 = true := flag_lossMask _
      have hval : (s.routeWrite (fun n i => routeSetWord set n i) true s.ctlRouter 0).2.2 = setFld (routeSetWord set s.ctlRouter 0) 13 1 1 := by
        unfold State.routeWrite
        rw [if_pos rfl, beq_self_eq_true]
        rfl
      rw [hval] at hloss
      exact (congrArg (flag · 13) hloss).trans ((flag_and _ _ 13).trans (by rw [flag_setFld_thirteen]; exact hmask))
    · refine (hshd r i hr hrlive hlt).trans (congrArg (· &&& regMask (.trt r) (s.routeOff i)) ?_)
      exact if_neg (Nat.ne_of_gt hi)
  · exact ⟨fun n hunit hnew hheld => (exec_clear s n).trans (congrArg Host.Outcome.next (sendClear_eq hpend hall hunit hnew hheld)),
      fun hunits => ⟨_, exec_clearAll s, clearAllGo_meets hpend hall hunits⟩⟩
  · refine ⟨fun r hu hdst hothers hbody hf => ?_, fun hu hdst hothers hcls hst => ?_⟩
    · have hfirst : s.pkts.foldl (sunkPkt (nodeCh u)) none = some p := by
        rw [hpkts]
        exact sunkPkt_of_only hdst hw (by rw [hbody]; exact Nat.zero_le 1) hothers
      refine ⟨_, (exec_fencedSink s u).trans (congrArg Host.Outcome.next (if_pos hu)), ?_⟩
      exact fencedSink_meets hfirst hf hreach hbody
    · have hfirst : s.pkts.foldl (sunkPkt (nodeLe (u - 17))) none = some p := by
        rw [hpkts]
        exact sunkPkt_of_only hdst hw hcls hothers
      refine ⟨_, (exec_fencedSink s u).trans (congrArg Host.Outcome.next (if_neg (Nat.not_lt.mpr hu))), ?_⟩
      rw [engineSink_eq hfirst hst hreach]
      have hle : ((s.goto p.arr).le (u - 17)).disc = (s.le (u - 17)).disc :=
        congrArg Le.disc (le_of_les ((goto_kept_self s p.arr).part .les (by decide)) _)
      have hmeets := engineDiscards_meets (s.goto p.arr) (u - 17) p
      rwa [bclk_goto, hle] at hmeets

end Sys2Proof.Machine
end


section

/-! ### The block's interrupt path (R115, R119, R120): arming it, an end of interrupt, and the message an armed path sends -/

namespace Sys2Proof.Machine

open Instr

section
variable {s t u : State}

/-! #### The time that passes sends no message of its own -/

/-- Where no message is on its way or held, none comes. -/
def NoMessage (s t : State) : Prop := s.blk.msgs = [] → t.blk.msgs = []

theorem NoMessage.trans (h : NoMessage s t) (k : NoMessage t u) : NoMessage s u := fun h0 => k (h h0)

theorem NoMessage.of_msgs (h : t.blk.msgs = s.blk.msgs) : NoMessage s t := fun h0 => h.trans h0

theorem NoMessage.of_kept {l : Nat} (h : Kept l s t) (hblk : l.testBit Part.blk.bit = false) : NoMessage s t :=
  .of_msgs (congrArg Blk.msgs (h.part .blk hblk))

theorem msgs_badAccess (s : State) (src : Src) (addr : Nat) (wr acc : Bool) : (s.badAccess src addr wr acc).blk.msgs = s.blk.msgs := by
  unfold State.badAccess
  split
  · rw [blk_ev, blk_raise]
  · rfl

theorem NoMessage.svcG1 (s : State) (g : Nat) (h : ReqHdr) (r : Req) (t0 : Nat) : NoMessage s (s.svcG1 g h r t0) := by
  unfold State.svcG1
  split
  · exact .of_kept (State.raise_kept (Within.self 0x20120 |>.of (by decide)) (State.refuse_kept (Within.self _) (Kept.refl _ s) g r 8 _) _ _) (by decide)
  split
  · refine NoMessage.trans (.of_msgs (msgs_badAccess s (.fabric g h.itag h.priv) h.addr h.svcWr true)) ?_
    exact .of_kept (State.raise_kept (Within.self 0x20120 |>.of (by decide)) (State.refuse_kept (Within.self _) (Kept.refl _ _) g r 8 _) _ _) (by decide)
  · exact .of_kept (inject_kept_self s _ _ _ _ _) (by decide)

theorem NoMessage.updGw (s : State) (g : Nat) (f : Gw → Gw) : NoMessage s (s.updGw g f) := .of_msgs rfl

theorem NoMessage.g1 (s : State) (g i : Nat) (l : PLine) : NoMessage s (s.g1 g i l) := by
  have hout : ∀ (u : State) (r : Req), NoMessage u (((u.pipeOut g i).refuse g r 8 (s.bclk - 1 + 5)).raise (.gwAdm g) 0) := fun u r =>
    .of_kept (State.raise_kept (Within.self 0x20120 |>.of (by decide)) (State.refuse_kept (Within.self _)
      (State.pipeOut_kept (Within.self 0x20120 |>.of (by decide)) (Kept.refl _ u) g i) g r 8 _) _ _) (by decide)
  unfold State.g1
  dsimp only
  split
  · exact hout s _
  split
  · exact ((NoMessage.updGw s g _).trans (.updGw _ g _)).trans (.svcG1 _ g _ _ _)
  split
  · exact (NoMessage.updGw s g _).trans (.updGw _ g _)
  · exact (NoMessage.updGw s g _).trans (hout _ _)

theorem NoMessage.linkGoesUp (s : State) (g : Nat) : NoMessage s (s.linkGoesUp g) := by
  intro h
  have hup : ((s.setLink g .up).raise (.gw g) 4).blk.msgs = [] := by
    rw [blk_raise]
    change s.msgsDue.blk.msgs = []
    rw [msgsDue_of_none h, h]
  unfold State.linkGoesUp
  rw [resendMsgs_of_none hup, hup]

theorem NoMessage.gwDo (s : State) (g : Nat) (w : GwWork) : NoMessage s (s.gwDo g w) := by
  cases w with
  | link =>
    change NoMessage s (s.linkStep g)
    unfold State.linkStep
    split
    · exact .of_msgs rfl
    · exact .linkGoesUp s g
  | line i =>
    unfold State.gwDo
    dsimp only
    split
    · unfold State.stageOf
      split
      · exact .g1 s g i _
      split
      · exact .of_kept (State.g2_kept (Within.self _) (Kept.refl _ s) g i _) (by decide)
      · exact .of_kept (State.g4Out_kept (Within.self _) (Kept.refl _ s) g i _) (by decide)
    · exact fun h => h
  | g0 => exact .of_kept (State.g0_kept (Within.self _) (Kept.refl _ s) g) (by decide)
  | flush => exact .of_kept (State.flushNow_kept (Within.self _) (Kept.refl _ s) g) (by decide)
  | again => exact .of_msgs rfl
  | nak => exact .of_msgs rfl

theorem NoMessage.advance (s : State) (b : Nat) : NoMessage s (s.advance b) :=
  .of_kept (State.advance_kept (Within.self _) (Kept.refl _ s) b) (by decide)

theorem NoMessage.gwRun (b n : Nat) (s : State) : NoMessage s (State.gwRun b n s) := by
  induction n generalizing s with
  | zero => exact fun h => h
  | succ n ih =>
    unfold State.gwRun
    split
    · split
      · exact fun h => h
      · exact ((NoMessage.advance s _).trans (.gwDo _ _ _)).trans (ih _)
    · exact fun h => h

theorem NoMessage.goto (s : State) (b : Nat) : NoMessage s (s.goto b) := by
  unfold State.goto
  split
  · exact fun h => h
  · exact (NoMessage.gwRun b _ s).trans (.advance _ b)

/-! #### One message (R115) -/

/-- The armed path is disarmed. -/
def State.disarmed (s : State) : State := { s with blk := { s.blk with intArmed := false } }

theorem formInt_eq (s : State) (f : Nat) :
    s.formInt f = s.disarmed.sendMsg { port := s.blk.intPort, addr := s.blk.intAddr, data := s.blk.intData } f := rfl

theorem armed_sendMsg (s : State) (m : IntMsg) (f : Nat) : (s.sendMsg m f).blk.intArmed = s.blk.intArmed :=
  (Passing.sendMsg s m f).blkField Blk.intArmed fun _ => rfl

theorem formInt_meets (f : Nat) (h : s.blk.msgs = []) : (s.formInt f).bclk = s.bclk ∧ (s.formInt f).blk.intArmed = false ∧
    ∃ x, (s.formInt f).blk.msgs = [x] ∧ x.port = s.blk.intPort ∧ x.addr = s.blk.intAddr ∧ x.data = s.blk.intData ∧
      x.held = (!s.linkUp s.blk.intPort || s.trt.hold) := by
  rw [formInt_eq]
  obtain ⟨x, hx, hport, haddr, hdata, -, hheld⟩ := msgs_sendMsg s.disarmed { port := s.blk.intPort, addr := s.blk.intAddr, data := s.blk.intData } f
  have hmsgs : s.disarmed.blk.msgs = [] := h
  rw [hmsgs] at hx
  exact ⟨(State.sendMsg_kept (Within.self _) (Kept.refl _ s.disarmed) _ f).part .bclk (by decide), armed_sendMsg s.disarmed _ f,
    x, hx, hport, haddr, hdata, hheld⟩

theorem intMessage_eq {f : Nat} (hmsgs : s.blk.msgs = []) (hen : s.blk.intEn = true) (harm : s.blk.intArmed = true) (hnext : s.intNext = some f)
    (hreach : f ≤ s.bclk ∨ s.canReach f = true) : s.intMessage = (s.goto f).formInt f := by
  unfold State.intMessage
  rw [msgsDue_of_none hmsgs, resendMsgs_of_none hmsgs]
  dsimp only
  rw [if_neg (by rw [hen, harm]; decide), hnext]
  dsimp only
  split
  · next hle =>
    have hgoto : s.goto f = s := if_pos hle
    rw [hgoto]
  · next hlt => exact if_pos (hreach.resolve_left hlt)

theorem exec_interruptMessage (s : State) : exec .interruptMessage s = .next s.intMessage := rfl

/-! #### The two registers (R119, R120) -/

theorem exec_blkIntCfgWrite (s : State) (src : Src) (v : Word) :
    exec (.blkIntCfgWrite src v) s = .next (s.pageWrite src PageId.blk.num 0x064 v.toNat) := rfl

theorem exec_blkIntEoi (s : State) (src : Src) : exec (.blkIntEoi src) s = .next (s.pageWrite src PageId.blk.num 0x068 1) := rfl

theorem writeFn_intCfg (m : State) (v : Word) : m.writeFn .blk 0x064 v = (m.intCfg v, 0) := rfl

theorem writeFn_intEoi (m : State) (v : Word) : m.writeFn .blk 0x068 v = (m.intEoi v, 0) := rfl

/-- The path is armed again (R120). -/
def State.rearmed (s : State) : State := { s with blk := { s.blk with intArmed := true, armedAt := s.bclk } }

theorem intEoi_eq (h : s.blk.msgs = []) : s.intEoi (BitVec.ofNat 32 1) =
    if s.blk.intEn = true ∧ s.intSum ≠ 0 then s.rearmed.formInt (s.bclk + 1) else s.rearmed := by
  have hmsgs : s.rearmed.blk.msgs = [] := h
  have heoi : s.intEoi (BitVec.ofNat 32 1) = s.rearmed.intAtOnce := if_pos rfl
  have hsum : s.rearmed.intSum = s.intSum := rfl
  rw [heoi]
  unfold State.intAtOnce
  rw [msgsDue_of_none hmsgs, resendMsgs_of_none hmsgs]
  dsimp only
  rw [hsum]
  have hiff : (s.rearmed.blk.intEn = true ∧ s.rearmed.blk.intArmed = true ∧ s.intSum ≠ 0) ↔ (s.blk.intEn = true ∧ s.intSum ≠ 0) :=
    ⟨fun ⟨hen, _, hne⟩ => ⟨hen, hne⟩, fun ⟨hen, hne⟩ => ⟨hen, rfl, hne⟩⟩
  exact if_congr hiff rfl rfl

end

/-- Settles O22: the two registers by what their writes make of the path, the message by what `formInt` sends once the time has passed. -/
theorem interruptPathSendsOneMessage : Obligations.InterruptPathSendsOneMessage := by
  refine ⟨?_, ?_, fun s f hmsgs hen harm hnext hreach => ?_⟩
  · intro s src v hw hg hl m
    have hpage : s.pageWrite src PageId.blk.num 0x064 v.toNat = (m.intCfg v).answered 0 0 :=
      pageWrite_fn hw hg hl (by decide) (by rw [BitVec.ofNat_toNat, BitVec.setWidth_eq]; exact writeFn_intCfg m v)
    refine ⟨_, (exec_blkIntCfgWrite s src v).trans (congrArg _ hpage), answered_of (onlyPage_of_pages .blk rfl), ?_⟩
    rw [answered_blk]
    exact ⟨rfl, rfl, rfl, rfl⟩
  · intro s src hw hg hl m hmsgs
    have hpage : s.pageWrite src PageId.blk.num 0x068 1 = (m.intEoi (BitVec.ofNat 32 1)).answered 0 0 :=
      pageWrite_fn hw hg hl (by decide) (writeFn_intEoi m _)
    refine ⟨_, (exec_blkIntEoi s src).trans (congrArg _ hpage), ?_⟩
    beta_reduce
    rw [answered_blk, intEoi_eq hmsgs]
    refine ⟨rfl, ?_⟩
    split
    · obtain ⟨-, harm, x, hx, hport, haddr, hdata, hheld⟩ := formInt_meets (s := m.rearmed) (m.bclk + 1) hmsgs
      exact ⟨harm, x, hx, hport, haddr, hdata, hheld⟩
    · exact ⟨rfl, hmsgs⟩
  · refine ⟨_, exec_interruptMessage s, ?_⟩
    rw [intMessage_eq hmsgs hen harm hnext hreach]
    have hp := Passing.goto s f
    have hmeets := formInt_meets (s := s.goto f) f (NoMessage.goto s f hmsgs)
    have hhold : (s.goto f).trt = s.trt := (goto_kept_self s f).part .trt (by decide)
    rwa [bclk_goto, hp.blkField Blk.intPort fun _ => rfl, hp.blkField Blk.intAddr fun _ => rfl, hp.blkField Blk.intData fun _ => rfl,
      hhold] at hmeets

end Sys2Proof.Machine
end


section

/-! ### What a decision point leaves of its subchannel (R352, R364, R389, R511) -/

namespace Sys2Proof.Machine

open Instr

section
variable {s t u : State} {c sc : Nat}

/-! #### The records that wait and the reads served -/

/-- The sequence numbers of the records that wait in a subchannel. -/
def Sub.waiting (b : Sub) : List Nat := b.ram.map Rec.sn

/-- The records that wait in a subchannel and the reads it has served are as before. -/
structure SameQueue (c sc : Nat) (s t : State) : Prop where
  waiting : (t.sub c sc).waiting = (s.sub c sc).waiting
  served : (t.sub c sc).served = (s.sub c sc).served

theorem SameQueue.refl (s : State) : SameQueue c sc s s := ⟨rfl, rfl⟩

theorem SameQueue.trans (h : SameQueue c sc s t) (k : SameQueue c sc t u) : SameQueue c sc s u :=
  ⟨k.waiting.trans h.waiting, k.served.trans h.served⟩

theorem SameQueue.of_sub (h : t.sub c sc = s.sub c sc) : SameQueue c sc s t := ⟨congrArg Sub.waiting h, congrArg Sub.served h⟩

theorem SameQueue.of_kept {l : Nat} (h : Kept l s t) (hsubs : l.testBit Part.subs.bit = false) : SameQueue c sc s t :=
  .of_sub (sub_of_subs (h.part .subs hsubs) c sc)

theorem SameQueue.ev (s : State) (e : Ev) : SameQueue c sc s (s.ev e) := .of_sub (sub_ev s e c sc)

theorem SameQueue.updSub {f : Sub → Sub} (hw : ∀ b, (f b).waiting = b.waiting) (hs : ∀ b, (f b).served = b.served) :
    SameQueue c sc s (s.updSub c sc f) := by
  have h := State.sub_upd_self (s := s) c sc f
  exact ⟨(congrArg Sub.waiting h).trans (hw _), (congrArg Sub.served h).trans (hs _)⟩

theorem SameQueue.foldl {α : Type} {f : State → α → State} (h : ∀ u a, SameQueue c sc u (f u a)) (l : List α) (s : State) :
    SameQueue c sc s (l.foldl f s) := by
  induction l generalizing s with
  | nil => exact .refl s
  | cons a l ih => exact (h s a).trans (ih (f s a))

theorem map_replaceFirst {α β : Type} (g : α → β) (p : α → Bool) {f : α → α} (hf : ∀ x, g (f x) = g x) (l : List α) :
    (replaceFirst p f l).map g = l.map g := by
  induction l with
  | nil => rfl
  | cons x l ih =>
    unfold replaceFirst
    split
    · rw [List.map_cons, List.map_cons, hf]
    · rw [List.map_cons, List.map_cons, ih]

theorem length_eraseFirst {α : Type} (p : α → Bool) {l : List α} (h : ∃ x ∈ l, p x = true) : (eraseFirst p l).length + 1 = l.length := by
  induction l with
  | nil => exact absurd h (by rintro ⟨x, hx, -⟩; exact List.not_mem_nil hx)
  | cons x l ih =>
    unfold eraseFirst
    split
    · rfl
    · next hx =>
      obtain ⟨y, hy, hp⟩ := h
      rcases List.mem_cons.mp hy with rfl | hy
      · exact absurd hp hx
      · exact congrArg (· + 1) (ih ⟨y, hy, hp⟩)

theorem SameQueue.countExc (s : State) (sn n : Nat) (p : Pos) : SameQueue c sc s (s.countExc c sc sn n p) := by
  unfold State.countExc
  split
  · exact .refl s
  · split
    · exact .refl s
    · refine SameQueue.trans ?_ (.ev _ _)
      refine .updSub (fun b => map_replaceFirst Rec.sn _ ?_ b.ram) fun _ => rfl
      exact fun _ => rfl

theorem SameQueue.countHeld (s : State) (p : Pos) (r : Rec) : SameQueue c sc s (s.countHeld c sc p r) := by
  unfold State.countHeld
  split
  · split
    · exact .countExc s _ _ p
    · exact .refl s
  · exact .refl s

theorem SameQueue.heldG (s : State) (p : Pos) (e : Entry) (h : How) : SameQueue c sc s (s.heldG c sc p e h) := by
  unfold State.heldG
  split
  · split
    · exact .countHeld s p _
    · exact .refl s
  · exact .refl s

theorem SameQueue.closeRow (s : State) (bank act : Nat) : SameQueue c sc s (s.closeRow c sc bank act) := by
  unfold State.closeRow
  split
  · exact .refl s
  · refine SameQueue.trans ?_ (.ev _ _)
    exact .updSub (fun _ => rfl) fun _ => rfl

theorem SameQueue.commands (s : State) (p : Pos) (col : Bool) (r : Req) : SameQueue c sc s (s.commands c sc p col r) := by
  unfold State.commands
  extract_lets cp bank act v1 v2 u1 op u2
  have hact : SameQueue c sc s u1 := by
    unfold u1
    split
    · exact .refl s
    · refine (SameQueue.trans (.closeRow s bank act) (.trans ?_ (.ev v2 _)))
      exact .updSub (fun _ => rfl) fun _ => rfl
  have hopen : SameQueue c sc u1 u2 := by
    unfold u2
    split
    · exact .ev _ _
    · exact .refl u1
  refine (hact.trans hopen).trans ?_
  exact .updSub (fun _ => rfl) fun _ => rfl

/-- The count of slots that an outcome stands for goes up by one (R909). -/
def Sub.counted (b : Sub) (o : SlotOut) : Sub :=
  match o with
  | .readMoved => { b with quadRd := (b.quadRd + 1) % 2 ^ 48 }
  | .writeMoved => { b with quadWr := (b.quadWr + 1) % 2 ^ 48 }
  | .demandIdle => { b with quadDem := (b.quadDem + 1) % 2 ^ 48 }
  | .planIdle => { b with quadPlan := (b.quadPlan + 1) % 2 ^ 48 }

theorem sub_raiseIf (s : State) (b : Bool) (p : PageId) (bit d e : Nat) : (s.raiseIf b p bit).sub d e = s.sub d e := by
  unfold State.raiseIf
  split <;> rfl

theorem sub_quad (s : State) (o : SlotOut) (p : Option Pos) (r : Option Req) : (s.quad c sc o p r).sub c sc = (s.sub c sc).counted o := by
  unfold State.quad
  dsimp only
  rw [sub_ev, sub_raiseIf, State.sub_upd_self]
  cases o <;> rfl

theorem waiting_counted (b : Sub) (o : SlotOut) : (b.counted o).waiting = b.waiting := by cases o <;> rfl

theorem served_counted (b : Sub) (o : SlotOut) : (b.counted o).served = b.served := by cases o <;> rfl

theorem SameQueue.quad (s : State) (o : SlotOut) (p : Option Pos) (r : Option Req) : SameQueue c sc s (s.quad c sc o p r) :=
  have h := sub_quad (c := c) (sc := sc) s o p r
  ⟨(congrArg Sub.waiting h).trans (waiting_counted _ o), (congrArg Sub.served h).trans (served_counted _ o)⟩

theorem SameQueue.discard (s : State) (p : Option Pos) : SameQueue c sc s (s.discard c sc p) := by
  unfold State.discard
  dsimp only
  refine SameQueue.trans ?_ (.ev _ _)
  refine SameQueue.trans ?_ (.of_sub (sub_raiseIf _ _ _ _ c sc))
  exact .updSub (fun _ => rfl) fun _ => rfl

theorem SameQueue.preDue (s : State) (p : Pos) : SameQueue c sc s (s.preDue c sc p) := by
  unfold State.preDue
  refine .foldl (fun u x => ?_) _ s
  split
  · dsimp only
    split
    · exact .closeRow u _ _
    · exact .refl u
  · exact .refl u

theorem SameQueue.prune (s : State) (p : Pos) : SameQueue c sc s (s.prune c sc p) := by
  unfold State.prune
  exact .updSub (fun _ => rfl) fun _ => rfl

/-! #### A read that is served (R361, R364) -/

theorem mem_of_head {b : Sub} {bank : Nat} {g dir : Bool} {r : Rec} (h : b.head bank g dir = some r) : r ∈ b.ram := List.mem_of_find?_eq_some h

theorem mem_of_cHead {b : Sub} {e : Entry} {how h : How} {r : Rec} (hs : b.cHead e how = .serve r h) : r ∈ b.ram := by
  unfold Sub.cHead at hs
  split at hs
  · next q hq =>
    split at hs
    · exact (Found.serve.inj hs).1 ▸ mem_of_head hq
    · exact nomatch hs
  · exact nomatch hs

theorem mem_of_found {p : Pos} {e : Entry} {r : Rec} {h : How} (hs : s.found c sc p e = .serve r h) : r ∈ (s.sub c sc).ram := by
  unfold State.found at hs
  dsimp only at hs
  split at hs
  · split at hs
    · exact mem_of_cHead hs
    · split at hs
      · next q hq =>
        split at hs
        · split at hs
          · exact (Found.serve.inj hs).1 ▸ mem_of_head hq
          · split at hs
            · next hc => exact (Found.serve.inj hs).1 ▸ mem_of_cHead hc
            · exact nomatch hs
        · exact mem_of_cHead hs
      · exact mem_of_cHead hs
  · split at hs
    · split at hs
      · next q hq =>
        split at hs
        · exact nomatch hs
        · split at hs
          · exact (Found.serve.inj hs).1 ▸ mem_of_head hq
          · exact nomatch hs
      · exact nomatch hs
    · exact mem_of_cHead hs

/-- A request whose bound has passed is counted before it is served (R492). -/
def State.boundCounted (s : State) (c sc : Nat) (p : Pos) (r : Rec) : State :=
  match r.req.due with
  | some d => if Pos.lt d p then s.countExc c sc r.sn 5 p else s
  | none => s

/-- A subchannel whose record `n` has left the request RAM; a write counted under an exception carries that to the buffer. -/
def Sub.recLeft (b : Sub) (n : Nat) (exc : Bool) : Sub :=
  { b with ram := eraseFirst (fun x => x.sn == n) b.ram,
           wb := if exc then replaceFirst (fun x => x.sn == n) (fun x => { x with exc := true }) b.wb else b.wb }

/-- Record `r` has left the request RAM, served as `h` says. -/
def State.recTaken (s : State) (c sc : Nat) (p : Pos) (r : Rec) (h : How) : State :=
  let exc := (s.sub c sc).ram.any fun x => x.sn == r.sn && x.exc.isSome
  (s.updSub c sc fun b => b.recLeft r.sn exc).ev (evReq c h.code (.sc sc) r.req (some p))

/-- A read on its way to decode. -/
def Rec.onWay (r : Rec) (p : Pos) (raw : RawLine) (cmds : List Nat) : Served :=
  { sn := r.sn, req := r.req, slot := p, late := Pos.lt (r.req.due.getD r.stamp) p, raw := raw, cmds := cmds }

/-- A subchannel with one more read on its way to decode. -/
def Sub.readServed (b : Sub) (x : Served) : Sub := { b with served := b.served ++ [x] }

/-- The commands of a read have been issued and its line is on its way. -/
def State.readOnWay (s : State) (c sc : Nat) (p : Pos) (r : Rec) (h : How) : State :=
  let u := s.commands c sc p (h == .colHit) r.req
  u.updSub c sc fun b => b.readServed (r.onWay p (s.readLine r.req.loc) (u.useCmds c sc p (h == .colHit) r.req))

/-- A read whose data will be thrown away is counted (R389). -/
def State.deadCounted (s : State) (c sc : Nat) (p : Pos) (r : Req) : State :=
  if s.deadReq r then (s.discard c sc (some p)).raise (.slt c sc) 7 else s

theorem serve_read {p : Pos} {r : Rec} (h : How) (z : Sense) (hw : r.req.write = false) (hk : r.kind = .read) :
    let u := ((s.boundCounted c sc p r).recTaken c sc p r h).readOnWay c sc p r h
    s.serve c sc p r h z = ((u.track c (u.rankPos sc r.req.loc.rk) z).quad c sc .readMoved (some p) (some r.req)).deadCounted c sc p r.req := by
  unfold State.serve
  rw [hw, hk]
  rfl

theorem SameQueue.boundCounted (s : State) (p : Pos) (r : Rec) : SameQueue c sc s (s.boundCounted c sc p r) := by
  unfold State.boundCounted
  split
  · split
    · exact .countExc s _ _ p
    · exact .refl s
  · exact .refl s

theorem SameQueue.deadCounted (s : State) (p : Pos) (r : Req) : SameQueue c sc s (s.deadCounted c sc p r) := by
  unfold State.deadCounted
  split
  · exact (SameQueue.discard s (some p)).trans (.of_sub (sub_raise _ _ _ c sc))
  · exact .refl s

theorem sub_recTaken (s : State) (p : Pos) (r : Rec) (h : How) :
    ∃ exc, (s.recTaken c sc p r h).sub c sc = (s.sub c sc).recLeft r.sn exc := by
  refine ⟨_, (sub_ev _ _ c sc).trans (State.sub_upd_self (s := s) c sc _)⟩

theorem sub_readOnWay (s : State) (p : Pos) (r : Rec) (h : How) : ∃ raw cmds,
    (s.readOnWay c sc p r h).sub c sc = ((s.commands c sc p (h == .colHit) r.req).sub c sc).readServed (r.onWay p raw cmds) :=
  ⟨_, _, State.sub_upd_self (s := s.commands c sc p (h == .colHit) r.req) c sc _⟩

/-- Once served, a read has left the request RAM and its line is the last on its way to decode. -/
structure ReadTaken (c sc : Nat) (r : Rec) (p : Pos) (s t : State) : Prop where
  left : (t.sub c sc).ram.length + 1 = (s.sub c sc).ram.length
  onWay : ∃ x, (t.sub c sc).served = (s.sub c sc).served ++ [x] ∧ x.sn = r.sn ∧ x.req = r.req ∧ x.slot = p ∧ x.fwd = false

theorem length_waiting (b : Sub) : b.waiting.length = b.ram.length := List.length_map _

theorem ReadTaken.after {r : Rec} {p : Pos} (h : ReadTaken c sc r p s t) (k : SameQueue c sc t u) : ReadTaken c sc r p s u := by
  obtain ⟨hleft, x, hx, hrest⟩ := h
  refine ⟨?_, x, k.served.trans hx, hrest⟩
  rw [← length_waiting, k.waiting, length_waiting]
  exact hleft

theorem ReadTaken.before {r : Rec} {p : Pos} (h : SameQueue c sc s t) (k : ReadTaken c sc r p t u) : ReadTaken c sc r p s u := by
  obtain ⟨hleft, x, hx, hrest⟩ := k
  refine ⟨hleft.trans ?_, x, hx.trans (congrArg (· ++ [x]) h.served), hrest⟩
  rw [← length_waiting, h.waiting, length_waiting]

theorem readTaken_serve {p : Pos} {r : Rec} {h : How} (z : Sense) (hw : r.req.write = false) (hk : r.kind = .read) (hr : r.sn ∈ (s.sub c sc).waiting) :
    ReadTaken c sc r p s (s.serve c sc p r h z) := by
  rw [serve_read h z hw hk]
  have hbound := SameQueue.boundCounted (c := c) (sc := sc) s p r
  rw [← hbound.waiting] at hr
  refine .before hbound ?_
  generalize s.boundCounted c sc p r = v at hr ⊢
  obtain ⟨exc, hsub⟩ := sub_recTaken (c := c) (sc := sc) v p r h
  generalize v.recTaken c sc p r h = w at hsub ⊢
  refine ReadTaken.after ?_ (.deadCounted _ p r.req)
  refine ReadTaken.after ?_ (.quad _ .readMoved (some p) (some r.req))
  refine ReadTaken.after ?_ (.of_kept (State.track_kept (Within.self _) (Kept.refl _ _) c _ z) (by decide))
  have hcmds := SameQueue.commands (c := c) (sc := sc) w p (h == .colHit) r.req
  obtain ⟨raw, cmds, hself⟩ := sub_readOnWay (c := c) (sc := sc) w p r h
  refine ⟨?_, r.onWay p raw cmds, ?_, rfl, rfl, rfl, rfl⟩
  · have hlen : ((w.readOnWay c sc p r h).sub c sc).ram.length = (w.sub c sc).waiting.length := by
      rw [← length_waiting, hself]
      exact congrArg List.length hcmds.waiting
    rw [hlen, length_waiting, hsub]
    obtain ⟨x, hx, hsn⟩ := List.mem_map.mp hr
    exact length_eraseFirst _ ⟨x, hx, beq_iff_eq.mpr hsn⟩
  · rw [hself]
    refine congrArg (· ++ [r.onWay p raw cmds]) (hcmds.served.trans ?_)
    rw [hsub]
    rfl

end

end Sys2Proof.Machine
end


section

/-! ### The decision point (R352, R389) -/

namespace Sys2Proof.Machine

open Instr

section
variable {s : State} {c sc : Nat}

/-- The state in which the decision for position `p` is taken. -/
def State.atDecision (s : State) (c sc : Nat) (p : Pos) : State :=
  let d := (s.goto (s.decBclk c p)).drainActs c sc (s.goto (s.decBclk c p)).bclk
  d.updSub c sc fun b => { b with lastDec := some p, crnWr := b.crnWr.filter fun x => decide (d.bclk < x.2) }

/-- A slot that an engine which does not run leaves as it is (R389, R511). -/
def State.leaveSlot (s : State) (c sc : Nat) (p : Pos) (z : Sense) : State :=
  let e := s.effEntry c sc p
  (s.mrOffline c sc p z).quad c sc (if e.isData && e.dir && s.fills c sc then .writeMoved else .planIdle) (some p) none

theorem decisionPoint_eq (z : Sense) (hrun : s.esc.running = true) (hreach : s.canReach (s.decBclk c (s.nextDec c sc)) = true) :
    let p := s.nextDec c sc
    let u := s.atDecision c sc p
    s.decisionPoint c sc z = if u.notRunning c sc p = true then u.leaveSlot c sc p z else ((u.decideAt c sc p z).preDue c sc p).prune c sc p := by
  refine (if_neg ?_).trans rfl
  rw [hrun]
  rintro (h | h)
  · exact Bool.noConfusion h
  · exact canReach_not hreach h

theorem bclk_atDecision (s : State) (c sc : Nat) (p : Pos) : (s.atDecision c sc p).bclk = max s.bclk (s.decBclk c p) :=
  ((State.drainActs_kept (Within.self _) (Kept.refl _ _) c sc _).part .bclk (by decide)).trans (bclk_goto s _)

theorem bclk_leaveSlot (s : State) (c sc : Nat) (p : Pos) (z : Sense) : (s.leaveSlot c sc p z).bclk = s.bclk :=
  ((State.quad_kept (Within.self _) (Kept.refl _ _) c sc _ _ _).part .bclk (by decide)).trans
    ((State.mrOffline_kept (Within.self _) (Kept.refl _ s) c sc p z).part .bclk (by decide))

theorem sub_leaveSlot (s : State) (p : Pos) (z : Sense) :
    (s.leaveSlot c sc p z).sub c sc = ((s.mrOffline c sc p z).sub c sc).counted
      (if ((s.effEntry c sc p).isData && (s.effEntry c sc p).dir && s.fills c sc) = true then .writeMoved else .planIdle) := sub_quad _ _ _ _

theorem bclk_decided (s : State) (c sc : Nat) (p : Pos) (z : Sense) : (((s.decideAt c sc p z).preDue c sc p).prune c sc p).bclk = s.bclk :=
  (((State.prune_kept (Within.self _) (Kept.refl _ _) c sc p).part .bclk (by decide)).trans
    ((State.preDue_kept (Within.self _) (Kept.refl _ _) c sc p).part .bclk (by decide))).trans
    ((State.decideAt_kept (Within.self _) (Kept.refl _ s) c sc p z).part .bclk (by decide))

theorem exec_decisionPoint (s : State) (c : Fin 17) (sc : Fin 2) (z : Sense) : exec (.decisionPoint c sc z) s = .next (s.decisionPoint c sc z) := rfl

theorem decideAt_serves {p : Pos} (z : Sense) {v : State} {e : Entry} (hv : (s.flexDecide c sc p).decideWins c sc p = v) (he : v.effEntry c sc p = e)
    (hdrain : (v.chan c).drain = false) (hsup : v.suppressed c sc p e = none) (hmrs : e.isMrs = false) (hcal : e.isCal = false)
    (hkind : e.kind ≠ 3) (hcol : e.col = false) (hwin : ((v.sub c sc).winDec.any fun q => q.1 == p && q.2) = false) (hdir : e.dir = false) :
    s.decideAt c sc p z = (v.closeRow c sc e.bank (cmdPos v.bin (v.timing c) e.dir (v.absSlot p)).act.toNat).serveEntry c sc p e z := by
  unfold State.decideAt
  dsimp only
  rw [hv, he, if_neg (by rw [hdrain]; exact fun h => Bool.noConfusion h.1), hsup]
  dsimp only
  rw [if_neg hkind, if_neg (by rw [hmrs]; decide), if_neg (by rw [hcal]; decide), if_neg (by rw [hwin]; decide),
    if_neg (by rw [hdir]; exact fun h => Bool.noConfusion h.1), if_neg (by rw [hcol]; decide)]

theorem serveEntry_found {p : Pos} {e : Entry} (z : Sense) (hdir : e.dir = false) (hcrown : (s.sub c sc).crown = none) {r : Rec} {h : How}
    (hfound : s.found c sc p e = .serve r h) : s.serveEntry c sc p e z = (s.heldG c sc p e h).serve c sc p r h z := by
  have hretry : s.retryFor c sc p e = none := if_neg (by rw [hdir]; exact fun h => Bool.noConfusion h.2.1)
  have hcrn : s.crownFor c sc p e = none := by
    unfold State.crownFor
    rw [hcrown]
    rfl
  unfold State.serveEntry
  rw [hretry, hcrn, hfound]

end

/-- Settles O12: a slot left as it is, and a read served, by what each leaves of its subchannel. -/
theorem decisionPointDecidesNextSlot : Obligations.DecisionPointDecidesNextSlot := by
  intro s c sc z p at_ d u hrun hreach
  have heq := decisionPoint_eq (c := c.val) (sc := sc.val) z hrun hreach
  have hu : s.atDecision c sc p = u := rfl
  have hclk := bclk_atDecision s c sc p
  rw [hu] at hclk
  refine ⟨fun hnot => ⟨_, exec_decisionPoint s c sc z, ?_⟩, fun hruns => ?_⟩
  · rw [heq, hu, if_pos hnot]
    refine ⟨(bclk_leaveSlot u c sc p z).trans hclk, ?_⟩
    intro w e
    refine (sub_leaveSlot u p z).trans ?_
    split <;> rfl
  · intro v e w hdrain hsup _ hmrs hcal hkind hcol hwin hdir hcrown r h hfound hk hw
    refine ⟨_, exec_decisionPoint s c sc z, ?_⟩
    rw [heq, hu, if_neg (by rw [hruns]; decide)]
    refine ⟨(bclk_decided u c sc p z).trans hclk, ?_⟩
    have hserved : u.decideAt c sc p z = (w.heldG c sc p e h).serve c sc p r h z :=
      (decideAt_serves z (v := v) (e := e) rfl rfl hdrain hsup hmrs hcal hkind hcol hwin hdir).trans (serveEntry_found z hdir hcrown hfound)
    have hheld := SameQueue.heldG (c := c) (sc := sc) w p e h
    have hmem : r.sn ∈ ((w.heldG c sc p e h).sub c sc).waiting := by
      rw [hheld.waiting]
      exact List.mem_map.mpr ⟨r, mem_of_found hfound, rfl⟩
    have htaken := (ReadTaken.before hheld (readTaken_serve (p := p) (h := h) z hw hk hmem)).after
      ((SameQueue.preDue _ p).trans (.prune _ p))
    rw [← hserved] at htaken
    exact ⟨htaken.left, htaken.onWay⟩

end Sys2Proof.Machine
end


section
/-! What the steps of a Lathe engine leave alone (R761, R778, R779): how an address decodes, what an operation asks for, and an engine but
for its context cache. -/
namespace Sys2Proof.Machine

section
variable {s t u : State}

/-! ### How an address decodes -/

/-- Nothing that tells how an address decodes, and for whom, has changed. -/
structure SameMap (s t : State) : Prop where
  body : SameBody s t
  map : t.map = s.map
  role : ∀ c, (t.chan c).role = (s.chan c).role
  rotNew : ∀ c, (t.chan c).rotNew = (s.chan c).rotNew
  st : ∀ i, (t.insOf i).st = (s.insOf i).st
  ranges : ∀ i, (t.insOf i).ranges = (s.insOf i).ranges

namespace SameMap

theorem refl (s : State) : SameMap s s := ⟨SameBody.refl s, rfl, fun _ => rfl, fun _ => rfl, fun _ => rfl, fun _ => rfl⟩

theorem trans (h : SameMap s t) (k : SameMap t u) : SameMap s u :=
  ⟨h.body.trans k.body, k.map.trans h.map, fun c => (k.role c).trans (h.role c), fun c => (k.rotNew c).trans (h.rotNew c),
    fun i => (k.st i).trans (h.st i), fun i => (k.ranges i).trans (h.ranges i)⟩

/-- A change of other parts than the pages, the map, the channels and the owners. -/
theorem of_parts (hpages : SameBody s t) (hmap : t.map = s.map) (hchans : t.chans = s.chans) (hins : t.ins = s.ins) : SameMap s t :=
  ⟨hpages, hmap, fun c => congrArg Chan.role (chan_of_chans hchans c), fun c => congrArg Chan.rotNew (chan_of_chans hchans c),
    fun i => congrArg Ins.st (insOf_of_ins hins i), fun i => congrArg Ins.ranges (insOf_of_ins hins i)⟩

theorem of_kept {l : Nat} (h : Kept l s t) (hpages : l.testBit Part.pages.bit = false) (hmap : l.testBit Part.map.bit = false)
    (hchans : l.testBit Part.chans.bit = false) (hins : l.testBit Part.ins.bit = false) : SameMap s t :=
  of_parts (SameBody.of_pages (h.part .pages hpages)) (h.part .map hmap) (h.part .chans hchans) (h.part .ins hins)

theorem of_passing (h : Passing s t) (hmap : t.map = s.map) : SameMap s t :=
  ⟨h.body, hmap, h.chanField Chan.role fun _ => rfl, h.chanField Chan.rotNew fun _ => rfl, h.insField Ins.st fun _ => rfl,
    h.insField Ins.ranges fun _ => rfl⟩

theorem goto (s : State) (b : Nat) : SameMap s (s.goto b) := of_passing (Passing.goto s b) ((goto_kept_self s b).part .map (by decide))

theorem ev (s : State) (e : Ev) : SameMap s (s.ev e) := of_passing (Passing.ev s e) ((ev_kept_self s e).part .map (by decide))

theorem raise (s : State) (p : PageId) (b : Nat) : SameMap s (s.raise p b) := of_passing (Passing.raise s p b) rfl

theorem updLe (s : State) (e : Nat) (f : Le → Le) : SameMap s (s.updLe e f) := of_parts (SameBody.of_pages rfl) rfl rfl rfl

theorem updRing (s : State) (r : Nat) (f : Ring → Ring) : SameMap s (s.updRing r f) := of_parts (SameBody.of_pages rfl) rfl rfl rfl

theorem tally (s : State) (i n k : Nat) : SameMap s (s.tally i n k) := by
  refine ⟨SameBody.of_pages rfl, rfl, fun _ => rfl, fun _ => rfl, fun j => ?_, fun j => ?_⟩
  all_goals
    unfold State.tally
    rw [State.insOf_upd]
    split
    · next h => rw [h]
    · rfl

theorem putLine (s : State) (pa : Nat) (d : Line) : SameMap s (s.putLine pa d) :=
  of_kept (State.putLine_kept (Within.self _) (Kept.refl _ s) pa d) (by decide) (by decide) (by decide) (by decide)

theorem foldl {α : Type} {f : State → α → State} (h : ∀ u a, SameMap u (f u a)) (l : List α) (s : State) : SameMap s (l.foldl f s) := by
  induction l generalizing s with
  | nil => exact refl s
  | cons a l ih => exact (h s a).trans (ih (f s a))

theorem lookup (s : State) (e r : Nat) : SameMap s (s.lookup e r) := by
  unfold State.lookup
  split
  · exact (updLe s e _).trans (ev _ _)
  · extract_lets v1 v2
    have hmiss : SameMap s v1 := (updLe s e _).trans (ev _ _)
    have hold : SameMap v1 v2 := by
      unfold v2
      split
      · exact refl v1
      · split
        · exact refl v1
        · exact (putLine v1 _ _).trans (updLe _ e _)
    exact (hmiss.trans hold).trans (updLe v2 e _)

/-! ### What follows -/

theorem mapAct (h : SameMap s t) : t.mapAct = s.mapAct := funext fun off => reg_of_body (h.body .map) off

theorem mapShd (h : SameMap s t) : t.mapShd = s.mapShd := funext fun off => shd_of_body (h.body .map) off

theorem chanOfRole (h : SameMap s t) (r : Nat) : t.chanOfRole r = s.chanOfRole r := by
  unfold State.chanOfRole
  simp only [h.role]

theorem dest (h : SameMap s t) (pa : Nat) : t.dest pa = s.dest pa := by
  unfold State.dest State.setAt State.physOf State.physRes
  simp only [h.mapAct, h.mapShd, h.chanOfRole, h.map, h.rotNew]

theorem lineMay (h : SameMap s t) (i pa : Nat) : t.lineMay i pa = s.lineMay i pa := by
  unfold State.lineMay State.insMay
  rw [h.st, h.ranges]

theorem lDecode (h : SameMap s t) (i pa : Nat) : t.lDecode i pa = s.lDecode i pa := by
  unfold State.lDecode
  rw [h.lineMay, h.dest]

theorem reg (h : SameMap s t) (p : PageId) (off : Nat) : t.reg p off = s.reg p off := reg_of_body (h.body p) off

theorem en (h : SameMap s t) (p : PageId) : (t.page p).en = (s.page p).en := Page.field Page.en (h.body p) rfl

theorem ctxBase (h : SameMap s t) : t.ctxBase = s.ctxBase := by
  unfold State.ctxBase
  rw [h.reg, h.reg]

theorem ctxAddr (h : SameMap s t) (r : Nat) : t.ctxAddr r = s.ctxAddr r := congrArg (· + 64 * r) h.ctxBase

theorem descCode (h : SameMap s t) (d : Desc) : t.descCode d = s.descCode d := by
  unfold State.descCode State.descFails State.inCtxr
  simp only [h.ctxBase]

end SameMap

/-! ### An engine but for its context cache -/

/-- An engine but for what a context lookup changes of it. -/
def Le.uncounted (w : Le) : Le := { w with ctxHit := 0, ctxMiss := 0, cached := [] }

theorem uncounted_updLe {f : Le → Le} (hf : ∀ w, (f w).uncounted = w.uncounted) (s : State) (e k : Nat) :
    ((s.updLe e f).le k).uncounted = (s.le k).uncounted := by
  rw [State.le_upd]
  split
  · next h => rw [hf, h]
  · rfl

theorem les_putLine (s : State) (pa : Nat) (d : Line) : (s.putLine pa d).les = s.les :=
  (State.putLine_kept (Within.self _) (Kept.refl _ s) pa d).part .les (by decide)

theorem uncounted_lookup (s : State) (e r k : Nat) : ((s.lookup e r).le k).uncounted = (s.le k).uncounted := by
  unfold State.lookup
  split
  · rw [le_ev]
    apply uncounted_updLe
    exact fun _ => rfl
  · extract_lets v1 v2
    have hmiss : (v1.le k).uncounted = (s.le k).uncounted := by
      unfold v1
      rw [le_ev]
      apply uncounted_updLe
      exact fun _ => rfl
    have hold : (v2.le k).uncounted = (v1.le k).uncounted := by
      unfold v2
      split
      · rfl
      · split
        · rfl
        · refine (uncounted_updLe ?_ _ e k).trans (congrArg Le.uncounted (le_of_les (les_putLine v1 _ _) k))
          exact fun _ => rfl
    refine (uncounted_updLe ?_ v2 e k).trans (hold.trans hmiss)
    exact fun _ => rfl

/-- What a lookup does not change of an engine reads as before. -/
theorem leField_lookup {α : Type} (f : Le → α) (hf : ∀ w, f w.uncounted = f w) (s : State) (e r k : Nat) : f ((s.lookup e r).le k) = f (s.le k) := by
  rw [← hf ((s.lookup e r).le k), uncounted_lookup, hf]

theorem lookup_kept_self (s : State) (e r : Nat) : Kept 0x24020a20 s (s.lookup e r) := State.lookup_kept (Within.self _) (Kept.refl _ s) e r

/-! ### Operations -/

/-- What an operation asks for, whatever has become of its request. -/
def LOp.asked (o : LOp) : LOp := { o with st := .queued, thr := false }

/-- What the operations of engine `e` ask for is as before. -/
def SameOps (e : Nat) (s t : State) : Prop := (t.le e).ops.map LOp.asked = (s.le e).ops.map LOp.asked

theorem SameOps.trans {e : Nat} (h : SameOps e s t) (k : SameOps e t u) : SameOps e s u := Eq.trans k h

theorem SameOps.of_ops {e : Nat} (h : (t.le e).ops = (s.le e).ops) : SameOps e s t := congrArg (List.map LOp.asked) h

theorem SameOps.updOp {f : LOp → LOp} (hf : ∀ o, (f o).asked = o.asked) (s : State) (e id : Nat) : SameOps e s (s.updOp e id f) := by
  have hops : ((s.updOp e id f).le e).ops = (s.le e).ops.map fun o => if o.id = id then f o else o :=
    congrArg Le.ops (State.le_upd_self (s := s) e _)
  unfold SameOps
  rw [hops, List.map_map]
  refine List.map_congr_left fun o _ => ?_
  change (if o.id = id then f o else o).asked = o.asked
  split
  · exact hf o
  · rfl

theorem SameOps.updLe {e : Nat} {f : Le → Le} (hf : ∀ w, (f w).ops = w.ops) (s : State) : SameOps e s (s.updLe e f) :=
  .of_ops ((congrArg Le.ops (State.le_upd_self (s := s) e f)).trans (hf _))

theorem exists_op_of_sameOps {e : Nat} {o : LOp} (h : SameOps e s t) (ho : o ∈ (s.le e).ops) : ∃ x ∈ (t.le e).ops, x.asked = o.asked := by
  have hmem : o.asked ∈ (t.le e).ops.map LOp.asked := by
    rw [h]
    exact List.mem_map_of_mem ho
  obtain ⟨x, hx, heq⟩ := List.mem_map.mp hmem
  exact ⟨x, hx, heq⟩

/-- What an operation asks for tells its number, kind, ring, address and data. -/
theorem fields_of_asked {x o : LOp} (h : x.asked = o.asked) : x.id = o.id ∧ x.kind = o.kind ∧ x.ring = o.ring ∧ x.pa = o.pa ∧ x.data = o.data ∧
    x.poison = o.poison :=
  ⟨(congrArg LOp.id h :), (congrArg LOp.kind h :), (congrArg LOp.ring h :), (congrArg LOp.pa h :), (congrArg LOp.data h :),
    (congrArg LOp.poison h :)⟩

/-- The event that a request of an operation is (R930). -/
def opEv (e : Nat) (o : LOp) (l : Loc) (t : Nat) : Ev :=
  { box := boxLe e, code := if o.kind.writes then 0x03 else 0x02, req := some (o.req e l t), itag := some o.itag }

/-- An operation's request joins the engine's queue. -/
def State.opQueued (s : State) (e : Nat) (o : LOp) (l : Loc) (t : Nat) : State :=
  (s.updOp e o.id fun o => { o with st := .queued }).updLe e fun w => { w with cq := insertWait { req := o.req e l t, raised := t } w.cq }

/-- An operation's request joins those that a Burl hold keeps. -/
def State.opHeld (s : State) (e : Nat) (o : LOp) (l : Loc) (t : Nat) (h : HoldEnt) : State :=
  let s := s.ev { box := boxLe e, code := 0x09, req := some (o.req e l t), itag := some o.itag }
  let s := s.tally o.itag 7 1
  let s := s.updJob o.ring o.job fun j => { j with thr := true }
  let s := s.updOp e o.id fun o => { o with st := .held, thr := true }
  s.updLe e fun w =>
    { w with holds := replaceFirst (fun x => x == h) (fun x => { x with held := x.held ++ [{ (o.req e l t) with thr := true }] }) w.holds }

/-- A hold has admitted a request. -/
def State.holdPassed (s : State) (e : Nat) (h : HoldEnt) : State :=
  s.updLe e fun w => { w with holds := replaceFirst (fun x => x == h) (fun x => { x with next := s.esc.frame + x.gap }) w.holds }

theorem raiseOp_eq (s : State) (e : Nat) (o : LOp) (l : Loc) (t : Nat) :
    let u := s.ev (opEv e o l t)
    s.raiseOp e o l t = match (u.le e).holds.find? fun h => h.held.any fun q => q.pa / 64 == o.pa / 64 with
      | some h => u.opHeld e o l t h
      | none => match (u.le e).holds.find? fun h => h.hits (o.req e l t) with
        | none => u.opQueued e o l t
        | some h => if u.esc.frame < h.next then u.opHeld e o l t h else (u.holdPassed e h).opQueued e o l t := rfl

theorem raiseOp_queued {e : Nat} (h : (s.le e).holds = []) (o : LOp) (l : Loc) (t : Nat) :
    s.raiseOp e o l t = (s.ev (opEv e o l t)).opQueued e o l t := by
  have hev : ((s.ev (opEv e o l t)).le e).holds = [] := by rw [le_ev, h]
  rw [raiseOp_eq, hev]
  rfl

theorem SameOps.opQueued (s : State) (e : Nat) (o : LOp) (l : Loc) (t : Nat) : SameOps e s (s.opQueued e o l t) := by
  unfold State.opQueued
  refine SameOps.trans (.updOp ?_ s e o.id) (.updLe ?_ _)
  · exact fun _ => rfl
  · exact fun _ => rfl

theorem SameOps.opHeld (s : State) (e : Nat) (o : LOp) (l : Loc) (t : Nat) (h : HoldEnt) : SameOps e s (s.opHeld e o l t h) := by
  unfold State.opHeld
  extract_lets v1 v2 v3 v4
  have hv1 : SameOps e s v1 := .of_ops (congrArg Le.ops (le_ev s _ e))
  have hv3 : SameOps e v1 v3 := .of_ops rfl
  have hv4 : SameOps e v3 v4 := by
    refine .updOp ?_ v3 e o.id
    exact fun _ => rfl
  refine ((hv1.trans hv3).trans hv4).trans (.updLe ?_ v4)
  exact fun _ => rfl

theorem SameOps.raiseOp (s : State) (e : Nat) (o : LOp) (l : Loc) (t : Nat) : SameOps e s (s.raiseOp e o l t) := by
  have hev : SameOps e s (s.ev (opEv e o l t)) := .of_ops (congrArg Le.ops (le_ev s _ e))
  have hpass : ∀ (u : State) (h : HoldEnt), SameOps e u (u.holdPassed e h) := by
    intro u h
    refine .updLe ?_ u
    exact fun _ => rfl
  rw [raiseOp_eq]
  split
  · exact hev.trans (.opHeld _ e o l t _)
  · split
    · exact hev.trans (.opQueued _ e o l t)
    · split
      · exact hev.trans (.opHeld _ e o l t _)
      · exact (hev.trans (hpass _ _)).trans (.opQueued _ e o l t)

theorem startOp_go {e : Nat} {o : LOp} {l : Loc} (h : s.lDecode o.itag o.pa = .go l) (t : Nat) : s.startOp e o t = s.raiseOp e o l t := by
  unfold State.startOp
  rw [h]

/-- An operation in the slot of number `id`. -/
def LOp.inSlot (o : LOp) (id : Nat) : LOp := { o with id := id }

/-- An operation has taken a slot. -/
def State.opTaken (s : State) (e : Nat) (o : LOp) : State := s.updLe e fun w => { w with ops := w.ops ++ [o] }

theorem newOp_eq {e id : Nat} (h : (s.le e).freeId = some id) (o : LOp) :
    s.newOp e o = (s.opTaken e (o.inSlot id)).startOp e (o.inSlot id) (s.bclk + 6) := by
  unfold State.newOp
  rw [h]
  rfl

theorem op_mem_opTaken (s : State) (e : Nat) (o : LOp) : o ∈ ((s.opTaken e o).le e).ops := by
  have hops : ((s.opTaken e o).le e).ops = (s.le e).ops ++ [o] := congrArg Le.ops (State.le_upd_self (s := s) e _)
  rw [hops]
  exact List.mem_append_right _ (List.mem_singleton.mpr rfl)

/-- A new operation whose address decodes is among the engine's. -/
theorem exists_newOp {e id : Nat} {o : LOp} {l : Loc} (hid : (s.le e).freeId = some id) (hgo : s.lDecode o.itag o.pa = .go l) :
    ∃ x ∈ ((s.newOp e o).le e).ops, x.id = id ∧ x.kind = o.kind ∧ x.ring = o.ring ∧ x.pa = o.pa := by
  have hgo' : (s.opTaken e (o.inSlot id)).lDecode (o.inSlot id).itag (o.inSlot id).pa = .go l := ((SameMap.updLe s e _).lDecode _ _).trans hgo
  rw [newOp_eq hid, startOp_go hgo']
  obtain ⟨x, hx, hasked⟩ := exists_op_of_sameOps (.raiseOp _ e _ l _) (op_mem_opTaken s e (o.inSlot id))
  obtain ⟨hxid, hkind, hring, hpa, -, -⟩ := fields_of_asked hasked
  exact ⟨x, hx, hxid, hkind, hring, hpa⟩

end

end Sys2Proof.Machine
end


section

/-! ### Lathe: doorbells, the issue of lines, what comes back, completions and the change of engine (R769 to R799) -/

namespace Sys2Proof.Machine

open Instr

section
variable {s t : State}

/-! #### Doorbells (R769 to R771) -/

/-- What a fold that keeps or takes its next element ends with is one of those it met. -/
theorem of_foldl_selects {α : Type} {p : α → Prop} {f : Option α → α → Option α} (hf : ∀ a x, f a x = some x ∨ f a x = a) {l : List α}
    (hl : ∀ x ∈ l, p x) {a : Option α} (ha : ∀ x, a = some x → p x) {b : α} (h : l.foldl f a = some b) : p b := by
  induction l generalizing a with
  | nil => exact ha b h
  | cons x l ih =>
    refine ih (fun y hy => hl y (List.mem_cons_of_mem x hy)) (fun y hy => ?_) h
    rcases hf a x with hx | hx
    · exact Option.some.inj (hx.symm.trans hy) ▸ hl x List.mem_cons_self
    · exact ha y (hx.symm.trans hy)

/-- Of two doorbells the one that arrives first. -/
def earlierBell (a : Option Bell) (b : Bell) : Option Bell := match a with | some x => if b.arr < x.arr then some b else a | none => some b

theorem earlierBell_selects (a : Option Bell) (b : Bell) : earlierBell a b = some b ∨ earlierBell a b = a := by
  unfold earlierBell
  split
  · split
    · exact .inl rfl
    · exact .inr rfl
  · exact .inl rfl

theorem firstBell_chosen {p : Bell → Bool} {b : Bell} (h : s.firstBell p = some b) : p b = true := by
  have heq : s.firstBell p = (s.bells.filter fun b => b.held.isNone && p b).foldl earlierBell none := rfl
  rw [heq] at h
  refine of_foldl_selects (p := fun b => p b = true) earlierBell_selects (fun x hx => ?_) (by rintro x ⟨⟩) h
  exact (Bool.and_eq_true_iff.mp (List.mem_filter.mp hx).2).2

/-- A doorbell is no longer on its way. -/
def State.bellTaken (s : State) (b : Bell) : State := { s with bells := eraseFirst (fun x => x == b) s.bells }

theorem bellArrives_eq {p : Bell → Bool} {b : Bell} (h : s.firstBell p = some b) (hreach : s.canReach b.arr = true) :
    s.bellArrives p = ((s.goto b.arr).bellTaken b).bellAt b := by
  have heq : s.bellArrives p = match s.firstBell p with
    | none => s
    | some b => if !s.canReach b.arr then s else ((s.goto b.arr).bellTaken b).bellAt b := rfl
  rw [heq, h]
  exact if_neg (canReach_not hreach)

theorem bellAt_kept_self (s : State) (b : Bell) : Kept 0x26020a20 s (s.bellAt b) := State.bellAt_kept (Within.self _) (Kept.refl _ s) b

/-- A doorbell is rejected (R769). -/
def State.bellRejected (s : State) (e : Nat) : State :=
  ((s.updLe e fun w => { w with dbRej := satAdd 255 w.dbRej 1 }).ev { box := boxLe e, code := 0x0C }).raise (.lth e) 3

theorem bellAt_rejects {b : Bell} (h : (s.ring b.ring).ctx.st = 0 ∨ (s.ring b.ring).ctx.itag ≠ b.page) :
    s.bellAt b = s.bellRejected (s.srvOf b.ring) := if_pos h

theorem bellRejected_meets (s : State) (e : Nat) : ((s.bellRejected e).le e).dbRej = satAdd 255 (s.le e).dbRej 1 ∧
    (s.bellRejected e).rings = s.rings ∧ flag ((s.bellRejected e).page (.lth e)).isr 3 = true := by
  have hle := State.le_upd_self (s := s) e fun w => { w with dbRej := satAdd 255 w.dbRej 1 }
  refine ⟨?_, ?_, flag_raise _ _ (by decide)⟩
  · unfold State.bellRejected
    rw [le_raise, le_ev]
    exact congrArg Le.dbRej hle
  · exact (ev_kept_self (s.updLe e fun w => { w with dbRej := satAdd 255 w.dbRej 1 }) _).part .rings (by decide)

/-- The engine takes from a doorbell no more than the tail (R769). -/
def State.onlyTail (s : State) (e i : Nat) : Bool := !(s.page (.lth e)).en || (i != 0 && decide (3 ≤ (s.insOf i).st))

/-- A context as a doorbell moves its tail. -/
def Ctx.told (c : Ctx) (tail head : Nat) (only : Bool) : Ctx :=
  { c with tail := tail, st := if c.st = 1 ∧ sub21 tail head ≠ 0 ∧ !only then 2 else c.st }

/-- A halted context starts anew (R771). -/
def Ctx.restarted (c : Ctx) : Ctx := ({ c with err := 0 } : Ctx).wake

/-- A doorbell has moved the tail of its ring. -/
def State.tailMoved (s : State) (e : Nat) (b : Bell) (head : Nat) (only : Bool) : State :=
  (s.updCtx b.ring fun c => c.told b.tail head only).ev { box := boxLe e, code := 0x0B }

/-- A doorbell whose tail does not fit is stale (R770). -/
def State.bellStale (s : State) (e : Nat) : State :=
  (s.updLe e fun w => { w with dbStale := satAdd 255 w.dbStale 1 }).ev { box := boxLe e, code := 0x0C }

/-- A doorbell with RESTART starts a halted ring again. -/
def State.bellRestarts (s : State) (b : Bell) (only : Bool) : State :=
  if b.restart ∧ !only ∧ (s.ring b.ring).ctx.st = 3 then s.updCtx b.ring Ctx.restarted else s

theorem bellAt_takes {b : Bell} (hst : (s.ring b.ring).ctx.st ≠ 0) (hpage : (s.ring b.ring).ctx.itag = b.page)
    (htail : sub21 (s.ring b.ring).ctx.tail (s.ring b.ring).ctx.head ≤ sub21 b.tail (s.ring b.ring).ctx.head)
    (hroom : sub21 b.tail (s.ring b.ring).ctx.head ≤ 2 ^ (s.ring b.ring).ctx.log2) :
    let e := s.srvOf b.ring
    let u := s.lookup e b.ring
    let only := u.onlyTail e (s.ring b.ring).ctx.itag
    s.bellAt b = (u.tailMoved e b (s.ring b.ring).ctx.head only).bellRestarts b only := by
  intro e u only
  have hok : (decide (sub21 (s.ring b.ring).ctx.tail (s.ring b.ring).ctx.head ≤ sub21 b.tail (s.ring b.ring).ctx.head) &&
      decide (sub21 b.tail (s.ring b.ring).ctx.head ≤ 2 ^ (s.ring b.ring).ctx.log2)) = true := by
    rw [decide_eq_true htail, decide_eq_true hroom]
    rfl
  have heq : s.bellAt b = if (s.ring b.ring).ctx.st = 0 ∨ (s.ring b.ring).ctx.itag ≠ b.page then s.bellRejected e
      else (if (decide (sub21 (s.ring b.ring).ctx.tail (s.ring b.ring).ctx.head ≤ sub21 b.tail (s.ring b.ring).ctx.head) &&
          decide (sub21 b.tail (s.ring b.ring).ctx.head ≤ 2 ^ (s.ring b.ring).ctx.log2)) = true
        then u.tailMoved e b (s.ring b.ring).ctx.head only else u.bellStale e).bellRestarts b only := rfl
  rw [heq, if_neg (not_or.mpr ⟨hst, fun h => h hpage⟩), if_pos hok]

theorem ctx_updCtx (s : State) (r : Nat) (f : Ctx → Ctx) : ((s.updCtx r f).ring r).ctx = f (s.ring r).ctx :=
  congrArg Ring.ctx (State.ring_upd_self (s := s) r _)

theorem ctx_tailMoved (s : State) (e : Nat) (b : Bell) (head : Nat) (only : Bool) :
    ((s.tailMoved e b head only).ring b.ring).ctx = (s.ring b.ring).ctx.told b.tail head only :=
  (congrArg Ring.ctx (ring_ev _ _ b.ring)).trans (ctx_updCtx s b.ring _)

theorem les_tailMoved (s : State) (e : Nat) (b : Bell) (head : Nat) (only : Bool) : (s.tailMoved e b head only).les = s.les :=
  (ev_kept_self (s.updCtx b.ring fun c => c.told b.tail head only) _).part .les (by decide)

theorem les_bellRestarts (s : State) (b : Bell) (only : Bool) : (s.bellRestarts b only).les = s.les := by
  unfold State.bellRestarts
  split <;> rfl

theorem bellRestarts_keeps (s : State) (b : Bell) (only : Bool) :
    ((s.bellRestarts b only).ring b.ring).ctx.tail = (s.ring b.ring).ctx.tail ∧ ((s.bellRestarts b only).ring b.ring).ctx.head = (s.ring b.ring).ctx.head := by
  unfold State.bellRestarts
  split
  · rw [ctx_updCtx]
    exact ⟨rfl, rfl⟩
  · exact ⟨rfl, rfl⟩

theorem bellRestarts_halted {b : Bell} (hb : b.restart = true) (hst : (s.ring b.ring).ctx.st = 3) :
    ((s.bellRestarts b false).ring b.ring).ctx.err = 0 ∧
      ((s.bellRestarts b false).ring b.ring).ctx.st = if (s.ring b.ring).ctx.tail = (s.ring b.ring).ctx.head then 1 else 2 := by
  have heq : s.bellRestarts b false = s.updCtx b.ring Ctx.restarted := if_pos ⟨hb, rfl, hst⟩
  rw [heq, ctx_updCtx]
  exact ⟨rfl, rfl⟩

theorem exec_doorbell (s : State) (e : Fin 2) (rs : Bool) : exec (if rs then Instr.doorbellRestart e else Instr.doorbellArrival e) s =
    .next (s.bellArrives fun x => (if rs then x.restart else !x.restart) && s.srvOf x.ring == e.val) := by
  cases rs <;> rfl

theorem bells_bellAt (s : State) (b : Bell) : (s.bellAt b).bells = s.bells := (bellAt_kept_self s b).part .bells (by decide)

theorem bclk_bellAt (s : State) (b : Bell) : (s.bellAt b).bclk = s.bclk := (bellAt_kept_self s b).part .bclk (by decide)

/-! #### The issue of lines (R776 to R781) -/

/-- An engine whose turn goes to a ring; `n` tells the slots that the work takes, and `t` from when the next may be taken. -/
def Le.turned (w : Le) (r : Nat) (line : Bool) (n t : Nat) : Le :=
  { w with turn := r, turnCnt := if w.turn = r then w.turnCnt + b2n line else b2n line, free := if n = 0 then w.free else t }

/-- The engine has done a piece of a ring's work. -/
def State.workDone (s : State) (e r : Nat) (k : Work) (n t : Nat) : State :=
  ((s.lookup e r).doWork e r k).updLe e fun w => w.turned r (k == .line) n t

theorem lineIssue_eq {e r : Nat} {k : Work} (hst : (s.le e).st = 0) (hen : (s.page (.lth e)).en = true) (hhold : s.map.hold = false)
    (hreach : s.canReach (max s.bclk (s.le e).free) = true) (hready : s.readyWrite e = none) (hturn : s.turnOf e = some r)
    (hwork : s.ringWork r = some k) (hops : (s.le e).ops.length + (s.workNeeds r k).1 ≤ 1024)
    (hbufs : (s.le e).bufs + (s.workNeeds r k).2 ≤ 1024) :
    let b := max s.bclk (s.le e).free
    s.lineIssue e = (s.goto b).workDone e r k (s.workNeeds r k).1 (b + 1) := by
  intro b
  unfold State.lineIssue
  dsimp only
  rw [if_neg (by rw [hst, hen, hreach]; decide), hready]
  dsimp only
  rw [if_neg (by rw [hhold]; decide), hturn]
  dsimp only
  rw [hwork]
  dsimp only
  rw [if_neg (by omega)]
  rfl

theorem exec_latheLineIssue (s : State) (e : Fin 2) : exec (.latheLineIssue e) s = .next (s.lineIssue e) := rfl

theorem bclk_workDone (s : State) (e r : Nat) (k : Work) (n t : Nat) : (s.workDone e r k n t).bclk = s.bclk :=
  ((State.doWork_kept (Within.self _) (Kept.refl _ (s.lookup e r)) e r k).part .bclk (by decide)).trans
    ((lookup_kept_self s e r).part .bclk (by decide))

theorem turn_workDone (s : State) (e r : Nat) (k : Work) (n t : Nat) : ((s.workDone e r k n t).le e).turn = r :=
  congrArg Le.turn (State.le_upd_self (s := (s.lookup e r).doWork e r k) e _)

theorem ops_workDone (s : State) (e r : Nat) (k : Work) (n t : Nat) :
    ((s.workDone e r k n t).le e).ops = (((s.lookup e r).doWork e r k).le e).ops :=
  have hle : (s.workDone e r k n t).le e = (((s.lookup e r).doWork e r k).le e).turned r (k == .line) n t := State.le_upd_self (s := (s.lookup e r).doWork e r k) e _
  (congrArg Le.ops hle :)

theorem ring_lookup (s : State) (e r q : Nat) : (s.lookup e r).ring q = s.ring q := ring_of_rings ((lookup_kept_self s e r).part .rings (by decide)) q

theorem meet_top (j : Job) (st off pos k : Nat) : (j.meet st off pos k).top = j.top ∧ (j.meet st off pos k).sn = j.sn := by
  unfold Job.meet
  split <;> exact ⟨rfl, rfl⟩

theorem startJob_meets {r n : Nat} {d : Desc} {rest : List (Nat × Desc)} (h : (s.ring r).pre = (n, d) :: rest) :
    ((s.startJob r).ring r).pre = rest ∧ ∃ j, ((s.startJob r).ring r).jobs = (s.ring r).jobs ++ [j] ∧ j.top = d ∧ j.sn = (s.ring r).nextJob := by
  unfold State.startJob
  extract_lets g idx c acc
  split
  · next hnil => exact nomatch hnil.symm.trans h
  next code d' rest' hcons =>
  cases hcons.symm.trans h
  extract_lets j0 resume st jm j1 jr j2
  have hm : ∀ (j : Job) (st off pos k : Nat), j.top = d ∧ j.sn = (s.ring r).nextJob →
      (j.meet st off pos k).top = d ∧ (j.meet st off pos k).sn = (s.ring r).nextJob :=
    fun j st off pos k hj => ⟨(meet_top j st off pos k).1.trans hj.1, (meet_top j st off pos k).2.trans hj.2⟩
  have h0 : j0.top = d ∧ j0.sn = (s.ring r).nextJob := ⟨rfl, rfl⟩
  have hjm : jm.top = d ∧ jm.sn = (s.ring r).nextJob := hm j0 st d.len 0 0 h0
  have h1 : j1.top = d ∧ j1.sn = (s.ring r).nextJob := by
    clear_value j0 jm
    unfold j1
    split
    · exact hjm
    · split
      · exact h0
      · split
        · exact h0
        · split
          · exact h0
          · exact h0
  have hjr : jr.top = d ∧ jr.sn = (s.ring r).nextJob := h1
  have h2 : j2.top = d ∧ j2.sn = (s.ring r).nextJob := by
    clear_value j1 jr
    unfold j2
    split
    · split
      · exact hm jr _ 0 0 0 hjr
      · exact hjr
    · exact h1
  clear_value j2
  rw [State.ring_upd_self]
  exact ⟨rfl, j2, rfl, h2.1, h2.2⟩

end

end Sys2Proof.Machine
end


section

/-! ### Lathe: the answers to its lines (R775, R778 to R784) -/

namespace Sys2Proof.Machine

open Instr

section
variable {s t : State} {e : Nat}

/-! #### The response that arrives first -/

/-- Of two responses at an engine the one that arrives first. -/
def earlierResp (a : Option (Pkt × Resp × LOp)) (x : Pkt × Resp × LOp) : Option (Pkt × Resp × LOp) :=
  match a with
  | some y => if x.1.arr < y.1.arr then some x else a
  | none => some x

theorem earlierResp_selects (a : Option (Pkt × Resp × LOp)) (x : Pkt × Resp × LOp) : earlierResp a x = some x ∨ earlierResp a x = a := by
  unfold earlierResp
  split
  · split
    · exact .inl rfl
    · exact .inr rfl
  · exact .inl rfl

/-- The operation that a packet at an engine answers, where it is one of those chosen. -/
def State.respOf (s : State) (e : Nat) (p : LOp → Bool) (k : Pkt) : Option (Pkt × Resp × LOp) :=
  match k.body with
  | .memResp r =>
    if k.dst = nodeLe e ∧ !k.waiting then
      match (s.le e).ops.find? fun o => o.id == r.req.tag with
      | some o => if p o then some (k, r, o) else none
      | none => none
    else none
  | _ => none

theorem op_of_firstLeResp {p : LOp → Bool} {k : Pkt} {r : Resp} {o : LOp} (h : s.firstLeResp e p = some (k, r, o)) : o ∈ (s.le e).ops := by
  have heq : s.firstLeResp e p = (s.pkts.filterMap (s.respOf e p)).foldl earlierResp none := rfl
  rw [heq] at h
  refine of_foldl_selects (p := fun x => x.2.2 ∈ (s.le e).ops) earlierResp_selects (fun x hx => ?_) (by rintro x ⟨⟩) h
  obtain ⟨q, -, hq⟩ := List.mem_filterMap.mp hx
  unfold State.respOf at hq
  split at hq
  · split at hq
    · split at hq
      · next y hy =>
        split at hq
        · rw [← Option.some.inj hq]
          exact List.mem_of_find?_eq_some hy
        · exact nomatch hq
      · exact nomatch hq
    · exact nomatch hq
  · exact nomatch hq

/-! #### What is gone and what is counted -/

theorem ops_freeOp (s : State) (e id : Nat) : ((s.freeOp e id).le e).ops = (s.le e).ops.filter fun o => o.id != id :=
  congrArg Le.ops (State.le_upd_self (s := s) e _)

theorem not_mem_freeOp (s : State) (e id : Nat) : ∀ x ∈ ((s.freeOp e id).le e).ops, x.id ≠ id := by
  rw [ops_freeOp]
  exact fun x hx => bne_iff_ne.mp (List.mem_filter.mp hx).2

theorem mem_updOp {f : LOp → LOp} {o : LOp} (h : o ∈ (s.le e).ops) : f o ∈ ((s.updOp e o.id f).le e).ops := by
  have hops : ((s.updOp e o.id f).le e).ops = (s.le e).ops.map fun x => if x.id = o.id then f x else x :=
    congrArg Le.ops (State.le_upd_self (s := s) e _)
  rw [hops]
  exact List.mem_map.mpr ⟨o, h, if_pos rfl⟩

theorem insOf_tally (s : State) (i n k : Nat) : ((s.tally i n k).insOf i).fold = Tbl.upd (fun _ => 0) (s.insOf i).fold n (· + k) :=
  congrArg Ins.fold (State.insOf_upd_self (s := s) i _)

theorem fold_tally_same (s : State) (i n k : Nat) :
    Tbl.get (fun _ => 0) ((s.tally i n k).insOf i).fold n = Tbl.get (fun _ => 0) (s.insOf i).fold n + k := by
  rw [insOf_tally, Tbl.get_upd_self]

theorem fold_tally_ne {n m : Nat} (h : m ≠ n) (s : State) (i k : Nat) :
    Tbl.get (fun _ => 0) ((s.tally i n k).insOf i).fold m = Tbl.get (fun _ => 0) (s.insOf i).fold m := by
  rw [insOf_tally, Tbl.get_upd_ne _ _ _ h]

/-! #### The return of a fetch (R775, R777) -/

theorem gens_pktGone (s : State) (k : Pkt) : (s.pktGone k).gens = s.gens := rfl

theorem genOf_arrived (s : State) (k : Pkt) (i : Nat) : ((s.goto k.arr).pktGone k).genOf i = s.genOf i :=
  genOf_of_gens ((gens_pktGone _ k).trans (congrArg Prod.fst ((goto_kept_self s k.arr).part .gens (by decide)) :)) i

/-- An answer to a fetch is taken. -/
def State.fetchTaken (s : State) (e : Nat) (r : Resp) (o : LOp) : State :=
  if o.gen ≠ s.genOf o.itag then (s.ev { box := boxLe e, code := 0x0A, req := some r.req, itag := some o.itag }).freeOp e o.id
  else if r.status = 3 then s.opOffline e o
  else if r.status = 0 then (s.freeOp e o.id).fetched o r.data
  else s.opFails e o r.status

theorem fetchReturn_eq {k : Pkt} {r : Resp} {o : LOp} (h : s.firstLeResp e LOp.fetches = some (k, r, o)) (hreach : s.canReach k.arr = true)
    (hgen : o.gen = s.genOf o.itag) (hst : r.status = 0) :
    s.fetchReturn e = (((s.goto k.arr).pktGone k).freeOp e o.id).fetched o r.data := by
  have heq : s.fetchReturn e = match s.firstLeResp e LOp.fetches with
    | none => s
    | some (k, r, o) => if !s.canReach k.arr then s else ((s.goto k.arr).pktGone k).fetchTaken e r o := rfl
  have hg := genOf_arrived s k o.itag
  rw [heq, h]
  refine (if_neg (canReach_not hreach)).trans ?_
  unfold State.fetchTaken
  rw [if_neg (by rw [hg]; exact not_not.mpr hgen), hst, if_neg (by decide), if_pos rfl]

/-- The descriptors that a fetched line adds to a ring, with their checks. -/
def State.fetchAdds (s : State) (g : Ring) (l : Line) : List (Nat × Desc) :=
  let code := fun i => (s.descCode (descOfLine l i), descOfLine l i)
  code (32 * (g.fetchIdx % 2)) :: (if g.fetchIdx % 2 = 0 ∧ (g.fetchIdx + 1) % 2 ^ 21 ≠ g.ctx.tail then [code 32] else [])

/-- A ring that has taken fetched descriptors. -/
def Ring.fetched (g : Ring) (n : Nat) (ds : List (Nat × Desc)) : Ring := { g with pre := g.pre ++ ds, fetchIdx := (n + ds.length) % 2 ^ 21 }

theorem fetched_eq {o : LOp} (h : o.kind = .fetch) (l : Line) : (s.fetched o l).ring o.ring =
    (s.ring o.ring).fetched (s.ring o.ring).fetchIdx (s.fetchAdds (s.ring o.ring) l) := by
  have heq : s.fetched o l = s.updRing o.ring fun g => g.fetched (s.ring o.ring).fetchIdx (s.fetchAdds (s.ring o.ring) l) :=
    if_neg (by rw [h]; decide)
  rw [heq]
  exact State.ring_upd_self (s := s) o.ring _

theorem exec_descriptorFetchReturn (s : State) (e : Fin 2) : exec (.descriptorFetchReturn e) s = .next (s.fetchReturn e) := rfl

theorem fetched_kept_self (s : State) (o : LOp) (l : Line) : Kept 0x2000000 s (s.fetched o l) := State.fetched_kept (Within.self _) (Kept.refl _ s) o l

/-! #### The answers to other lines (R778, R783) -/

theorem lineResponse_eq {k : Pkt} {r : Resp} {o : LOp} (h : s.firstLeResp e (fun x => !x.fetches) = some (k, r, o)) (hreach : s.canReach k.arr = true)
    (hkind : o.kind ≠ .chkA ∧ o.kind ≠ .chkB) : s.lineResponse e = ((s.goto k.arr).pktGone k).opResp e r o := by
  have hhalf : s.halfBack e o = false := by
    unfold State.halfBack
    rw [beq_eq_false_iff_ne.mpr hkind.1, beq_eq_false_iff_ne.mpr hkind.2]
    rfl
  have heq : s.lineResponse e = match s.firstLeResp e (fun x => !x.fetches) with
    | none => s
    | some (k, r, o) => if !s.canReach (k.arr + b2n (s.halfBack e o)) then s
      else ((s.goto (k.arr + b2n (s.halfBack e o))).pktGone k).opResp e r o := rfl
  rw [heq, h]
  dsimp only
  rw [hhalf]
  exact if_neg (canReach_not hreach)

/-- What becomes of an answer that is not OFFLINE, by the kind of its operation. -/
theorem opResp_ok {r : Resp} {o : LOp} (hgen : o.gen = s.genOf o.itag) (hst : r.status = 0) :
    s.opResp e r o = match o.kind with
      | .read => (s.leFlags r o).copyRead e r o
      | .write => ((s.leFlags r o).tally o.itag 6 64).freeOp e o.id
      | .cmpl => let u := (s.leFlags r o).freeOp e o.id
        if o.irq then u.raise (.ins o.itag) 0 else u
      | _ => (s.leFlags r o).checkRead e r o := by
  unfold State.opResp
  rw [if_neg (not_not.mpr hgen)]
  dsimp only
  rw [hst, if_neg (by decide)]
  rfl

theorem fold_leFlags (s : State) (r : Resp) (o : LOp) :
    Tbl.get (fun _ => 0) ((s.leFlags r o).insOf o.itag).fold 6 = Tbl.get (fun _ => 0) (s.insOf o.itag).fold 6 := by
  unfold State.leFlags
  dsimp only
  split
  · exact fold_tally_ne (by decide) s o.itag 1
  · rfl

theorem leFlags_kept_self (s : State) (r : Resp) (o : LOp) : Kept 0x2100000 s (s.leFlags r o) := State.leFlags_kept (Within.self _) (Kept.refl _ s) r o

theorem SameMap.leFlags (s : State) (r : Resp) (o : LOp) : SameMap s (s.leFlags r o) := by
  unfold State.leFlags
  dsimp only
  split
  · exact (tally s _ _ _).trans (updRing _ _ _)
  · exact updRing s _ _

/-- A copy's read whose data are back is its write. -/
def LOp.written (o : LOp) (r : Resp) : LOp :=
  { o with kind := .write, pa := o.dst, data := swapLine o.swap r.data, poison := false, st := .order }

theorem copyRead_ok {r : Resp} {o : LOp} (hst : r.status = 0) :
    let u := s.updOp e o.id fun _ => o.written r
    s.copyRead e r o = if u.mustWait e (o.written r) = true then u else u.startOp e (o.written r) (u.bclk + 1) := by
  have hok : (r.status == 1) = false := by rw [hst]; rfl
  unfold State.copyRead
  dsimp only
  rw [hok]
  rfl

theorem exists_copyRead {r : Resp} {o : LOp} {l : Loc} (ho : o ∈ (s.le e).ops) (hst : r.status = 0) (hgo : s.lDecode o.itag o.dst = .go l) :
    ∃ x ∈ ((s.copyRead e r o).le e).ops, x.id = o.id ∧ x.kind = .write ∧ x.pa = o.dst ∧ x.data = swapLine o.swap r.data ∧ x.poison = false := by
  have hmem : o.written r ∈ ((s.updOp e o.id fun _ => o.written r).le e).ops := mem_updOp (f := fun _ => o.written r) ho
  rw [copyRead_ok hst]
  split
  · exact ⟨_, hmem, rfl, rfl, rfl, rfl, rfl⟩
  · have hgo' : (s.updOp e o.id fun _ => o.written r).lDecode (o.written r).itag (o.written r).pa = .go l :=
      ((SameMap.updLe s e _).lDecode _ _).trans hgo
    rw [startOp_go hgo']
    obtain ⟨x, hx, hasked⟩ := exists_op_of_sameOps (.raiseOp _ e _ l _) hmem
    obtain ⟨hid, hkind, -, hpa, hdata, hpoison⟩ := fields_of_asked hasked
    exact ⟨x, hx, hid, hkind, hpa, hdata, hpoison⟩

theorem exec_latheLineResponse (s : State) (e : Fin 2) : exec (.latheLineResponse e) s = .next (s.lineResponse e) := rfl

/-! #### What was offline is issued again (R784) -/

theorem offlineReissue_eq {o : LOp} {b : Nat} (hops : (s.le e).ops = [o]) (hst : o.st = .retry b) (hhold : s.map.hold = false)
    (hreach : s.canReach b = true) (hin : max s.bclk b < (s.firstOffline o).getD b + s.latheTmo) :
    s.offlineReissue e = ((s.goto b).ev { box := boxLe e, code := 0x08, itag := some o.itag }).startOp e o ((s.goto b).bclk + 6) := by
  have hfirst : (s.goto b).firstOffline o = s.firstOffline o := by
    unfold State.firstOffline
    rw [ring_of_rings ((goto_kept_self s b).part .rings (by decide))]
  have htmo : (s.goto b).latheTmo = s.latheTmo := by
    unfold State.latheTmo
    rw [(SameMap.goto s b).reg, (goto_kept_self s b).part .bin (by decide)]
  have hmap : (s.goto b).map.hold = false := (congrArg MapSt.hold (SameMap.goto s b).map).trans hhold
  unfold State.offlineReissue
  rw [hops]
  dsimp only [List.foldl]
  rw [hst]
  dsimp only
  rw [if_neg (canReach_not hreach), if_neg (by rw [hfirst, htmo, bclk_goto]; exact Nat.not_le.mpr hin), if_neg (by rw [hmap]; decide)]

theorem le_opQueued (s : State) (e : Nat) (o : LOp) (l : Loc) (t : Nat) : (s.opQueued e o l t).le e =
    { s.le e with ops := (s.le e).ops.map fun x => if x.id = o.id then { x with st := .queued } else x,
                  cq := insertWait { req := o.req e l t, raised := t } (s.le e).cq } := by
  unfold State.opQueued State.updOp
  rw [State.le_upd_self, State.le_upd_self]

theorem opQueued_only {o : LOp} (hops : (s.le e).ops = [o]) (l : Loc) (t : Nat) : ((s.opQueued e o l t).le e).ops = [{ o with st := .queued }] ∧
    ((s.opQueued e o l t).le e).cq = insertWait { req := o.req e l t, raised := t } (s.le e).cq := by
  rw [le_opQueued]
  refine ⟨?_, rfl⟩
  dsimp only
  rw [hops]
  exact congrArg (· :: []) (if_pos rfl)

theorem exec_offlineReissue (s : State) (e : Fin 2) : exec (.offlineReissue e) s = .next (s.offlineReissue e) := rfl

end

end Sys2Proof.Machine
end


section

/-! ### Lathe: completions and the change of engine (R782, R785, R797 to R799), and all that O60 asks -/

namespace Sys2Proof.Machine

open Instr

section
variable {s t : State} {e : Nat}

/-! #### Completions (R785, R786) -/

/-- The records of the line that a job's completion is written with. -/
def State.complRecs (s : State) (r : Nat) (j : Job) : List (Nat × Nat) :=
  ((s.ring r).recs.filter fun x => x.1 / 4 == j.idx / 4) ++ [(j.idx, s.record r j)]

/-- The write of a job's completion (R786). -/
def State.complOp (s : State) (r : Nat) (j : Job) : LOp :=
  let c := (s.ring r).ctx
  { kind := .cmpl, ring := r, itag := c.itag, gen := c.gen, job := j.sn, idx := j.idx, pa := (c.cmplBase + 16 * (j.idx % 2 ^ c.log2)) / 64 * 64,
    open_ := c.cfg % 4 == 2, data := complLine c.log2 j.idx (s.complRecs r j), irq := j.top.irq || c.cfg.testBit 2 }

/-- A ring whose first job's completion has been formed. -/
def Ring.completed (g : Ring) (rest : List Job) (recs : List (Nat × Nat)) (head st : Nat) : Ring :=
  { g with jobs := rest, recs := recs, ctx := { g.ctx with head := head, st := st } }

/-- HEAD has advanced past a job. -/
def State.headMoved (s : State) (r : Nat) (j : Job) (rest : List Job) : State :=
  let c := (s.ring r).ctx
  let head := (j.idx + 1) % 2 ^ 21
  s.updRing r fun g => g.completed rest (s.complRecs r j) head (if head = c.tail ∧ c.st = 2 then 1 else c.st)

/-- A completion is counted. -/
def State.complCounted (s : State) (e i : Nat) (j : Job) : State :=
  let s := s.ev { box := boxLe e, code := 0x01, qual := .is 6 (j.status + 1), itag := some i }
  if j.status ≠ 0 then s.tally i 5 1 else s

theorem completionForm_eq {r : Nat} {j : Job} {rest : List Job} (hjobs : (s.ring r).jobs = j :: rest) (hmay : s.mayForm r = true)
    (hen : (s.page (.lth (s.srvOf r))).en = true) (hhold : s.map.hold = false) (hops : (s.le (s.srvOf r)).ops.length < 1024)
    (hgen : (s.ring r).ctx.gen = s.genOf (s.ring r).ctx.itag) (hhalt : j.halt = false) :
    s.completionForm r = ((s.headMoved r j rest).complCounted (s.srvOf r) (s.ring r).ctx.itag j).newOp (s.srvOf r) (s.complOp r j) := by
  have heq : s.completionForm r = match (s.ring r).jobs with
    | [] => s
    | j :: rest =>
      if !s.mayForm r ∨ !(s.page (.lth (s.srvOf r))).en ∨ s.map.hold ∨ 1024 ≤ (s.le (s.srvOf r)).ops.length ∨
        (s.ring r).ctx.gen ≠ s.genOf (s.ring r).ctx.itag then s
      else
        let u := ((s.headMoved r j rest).complCounted (s.srvOf r) (s.ring r).ctx.itag j).newOp (s.srvOf r) (s.complOp r j)
        if j.halt then u.haltRing r j.status j.idx else u := rfl
  rw [heq, hjobs]
  dsimp only
  rw [if_neg, if_neg (by rw [hhalt]; decide)]
  rw [hmay, hen, hhold]
  rintro (h | h | h | h | h)
  · exact Bool.noConfusion h
  · exact Bool.noConfusion h
  · exact Bool.noConfusion h
  · omega
  · exact h hgen

theorem SameMap.complCounted (s : State) (e i : Nat) (j : Job) : SameMap s (s.complCounted e i j) := by
  unfold State.complCounted
  dsimp only
  split
  · exact (ev s _).trans (tally _ i 5 1)
  · exact ev s _

theorem complCounted_kept_self (s : State) (e i : Nat) (j : Job) : Kept 0x120020 s (s.complCounted e i j) := by
  unfold State.complCounted
  dsimp only
  have hev : Kept 0x120020 s (s.ev { box := boxLe e, code := 0x01, qual := .is 6 (j.status + 1), itag := some i }) :=
    State.ev_kept (Within.self 0x120020 |>.of (by decide)) (Kept.refl _ s) _
  split
  · exact State.tally_kept (Within.self 0x120020 |>.of (by decide)) hev i 5 1
  · exact hev

/-- A new operation whose address decodes, at an engine without holds, changes no ring. -/
theorem rings_newOp {id : Nat} {o : LOp} {l : Loc} (hid : (s.le e).freeId = some id) (hgo : s.lDecode o.itag o.pa = .go l)
    (hholds : (s.le e).holds = []) : (s.newOp e o).rings = s.rings := by
  have hgo' : (s.opTaken e (o.inSlot id)).lDecode (o.inSlot id).itag (o.inSlot id).pa = .go l := ((SameMap.updLe s e _).lDecode _ _).trans hgo
  have hholds' : ((s.opTaken e (o.inSlot id)).le e).holds = [] := (congrArg Le.holds (State.le_upd_self (s := s) e _)).trans hholds
  rw [newOp_eq hid, startOp_go hgo', raiseOp_queued hholds']
  exact (ev_kept_self (s.opTaken e (o.inSlot id)) _).part .rings (by decide)

theorem exec_completionForm (s : State) (r : BitVec 18) : exec (.completionForm r) s = .next (s.completionForm r.toNat) := rfl

/-! #### The change of engine (R797 to R799) -/

/-- What the loss of a requester leaves of an engine. -/
def Le.standing (w : Le) : Nat × List Nat := (w.st, w.cached)

theorem standing_updLe {f : Le → Le} (hf : ∀ w, (f w).standing = w.standing) (s : State) (e k : Nat) :
    ((s.updLe e f).le k).standing = (s.le k).standing := by
  rw [State.le_upd]
  split
  · next h => rw [hf, h]
  · rfl

theorem standing_updWaits (s : State) (c i k : Nat) (f : List CWait → List CWait) : ((s.updWaits c i f).le k).standing = (s.le k).standing := by
  unfold State.updWaits
  split
  · rfl
  split
  · apply standing_updLe
    exact fun _ => rfl
  split
  · rfl
  · rfl

theorem standing_requeue (rs : List Req) (s : State) (k : Nat) : ((s.requeue rs).le k).standing = (s.le k).standing := by
  unfold State.requeue
  refine foldl_keeps (fun u : State => (u.le k).standing) (fun u r => ?_) _ _
  refine Eq.trans ?_ (standing_updWaits u r.loc.ch r.src k fun l => { req := r, raised := r.created, urg3 := u.overT3 r.loc.ch r } :: l)
  dsimp only
  split
  · apply standing_updLe
    exact fun _ => rfl
  · rfl

theorem standing_aliveLost (s : State) (i : Nat) (on : Nat → Bool) (k : Nat) : ((s.aliveLost i on).le k).standing = (s.le k).standing := by
  have hcut : (s.cutTrains fun r => r.src == i && on r.loc.ch).1.les = s.les :=
    (State.cutTrains_kept (Within.self _) (Kept.refl _ s) _).part .les (by decide)
  unfold State.aliveLost
  dsimp only
  generalize (s.cutTrains fun r => r.src == i && on r.loc.ch) = cut at *
  rw [le_of_les ((State.forgetLosses_kept (Within.self _) (Kept.refl _ _) i on).part .les (by decide)) k, standing_requeue, le_of_les hcut]

/-- Rings of an engine that goes offline are put away. -/
def State.ringsPut (s : State) (rs : List Nat) : State := rs.foldl (fun s r => (s.quiesceRing r).writeBack r) s

theorem SameMap.ringsPut (s : State) (rs : List Nat) : SameMap s (s.ringsPut rs) :=
  foldl (fun u r => (updRing u r _).trans (putLine _ _ _)) rs s

/-- The rings that an engine serves. -/
def State.served (s : State) (e : Nat) : List Nat := (s.rings.filter fun x => s.srvOf x.1 == e && x.2.ctx.st != 0).map (·.1)

/-- An engine that serves no ring any more. -/
def Le.away (w : Le) (down : Bool) : Le := { w with st := if down then 3 else 2, cached := [] }

/-- An engine has gone offline, its rings put away. -/
def State.wentOffline (s : State) (e : Nat) : State :=
  ((s.updLe e fun w => w.away (flag (s.reg (.lth e) 0x040) 8)).aliveLost (16 + e) fun _ => true).raise (.lth e) 1

theorem handoverDone_eq (hst : (s.le e).st = 1) (hops : (s.le e).ops = [])
    (hform : ∀ x ∈ s.rings, s.srvOf x.1 = e → x.2.ctx.st ≠ 0 → s.mayForm x.1 = false) :
    s.handoverDone e = (s.ringsPut (s.served e)).wentOffline e := by
  refine (if_neg ?_).trans rfl
  rw [hst, hops]
  rintro (h | h | h)
  · exact h rfl
  · exact h rfl
  · obtain ⟨r, hr, hmay⟩ := List.any_eq_true.mp h
    obtain ⟨x, hx, rfl⟩ := List.mem_map.mp hr
    obtain ⟨hmem, hsel⟩ := List.mem_filter.mp hx
    obtain ⟨hsrv, hon⟩ := Bool.and_eq_true_iff.mp hsel
    exact Bool.noConfusion (hmay.symm.trans (hform x hmem (beq_iff_eq.mp hsrv) (bne_iff_ne.mp hon)))

theorem wentOffline_meets (s : State) (e : Nat) : ((s.wentOffline e).le e).st = (if flag (s.reg (.lth e) 0x040) 8 = true then 3 else 2) ∧
    ((s.wentOffline e).le e).cached = [] ∧ flag ((s.wentOffline e).page (.lth e)).isr 1 = true := by
  have hle := State.le_upd_self (s := s) e fun w => w.away (flag (s.reg (.lth e) 0x040) 8)
  have hstand := standing_aliveLost (s.updLe e fun w => w.away (flag (s.reg (.lth e) 0x040) 8)) (16 + e) (fun _ => true) e
  rw [hle] at hstand
  refine ⟨?_, ?_, flag_raise _ _ (by decide)⟩
  · unfold State.wentOffline
    rw [le_raise]
    exact (congrArg Prod.fst hstand :)
  · unfold State.wentOffline
    rw [le_raise]
    exact (congrArg Prod.snd hstand :)

theorem exec_handoverDone (s : State) (e : Fin 2) : exec (.handoverDone e) s = .next (s.handoverDone e) := rfl

/-- An engine is online. -/
def State.online (s : State) (e : Nat) : State := (s.updLe e fun w => { w with st := 0 }).raise (.lth e) 1

/-- The rings that an engine takes back from its partner. -/
def State.takenBack (s : State) (e : Nat) : State :=
  ((s.rings.filter fun x => x.1 % 2 == e && x.2.ctx.st != 0).map (·.1)).foldl (fun s r => ((s.quiesceRing r).writeBack r).uncache r) s

theorem enginePowerUp_eq (hst : 2 ≤ (s.le e).st) (hctl : flag (s.reg (.lth e) 0x040) 0 = true)
    (hops : ∀ o ∈ (s.le (1 - e)).ops, o.ring % 2 ≠ e) : s.enginePowerUp e = (s.takenBack e).online e := by
  refine (if_neg ?_).trans rfl
  rw [hctl]
  rintro (h | h | h)
  · omega
  · exact Bool.noConfusion h
  · obtain ⟨o, ho, hring⟩ := List.any_eq_true.mp h
    exact hops o ho (beq_iff_eq.mp hring)

theorem online_meets (s : State) (e : Nat) : ((s.online e).le e).st = 0 ∧ flag ((s.online e).page (.lth e)).isr 1 = true :=
  have hle := State.le_upd_self (s := s) e fun w => { w with st := 0 }
  ⟨(congrArg Le.st hle :), flag_raise _ _ (by decide)⟩

theorem exec_enginePowerUp (s : State) (e : Fin 2) : exec (.enginePowerUp e) s = .next (s.enginePowerUp e) := rfl

end

end Sys2Proof.Machine
end


section

/-! ### All that O60 asks of Lathe -/

namespace Sys2Proof.Machine

open Instr

section
variable {s m t : State} {e : Nat}

/-! #### Doorbells at the state in which they arrive -/

theorem srvOf_of_les (h : t.les = s.les) (r : Nat) : t.srvOf r = s.srvOf r := by
  unfold State.srvOf
  rw [le_of_les h]

theorem onlyTail_lookup (s : State) (e r k i : Nat) (hen : (s.page (.lth k)).en = true) (hi : i = 0) : (s.lookup e r).onlyTail k i = false := by
  unfold State.onlyTail
  rw [(SameMap.lookup s e r).en, hen, hi]
  rfl

theorem bellAt_moves {b : Bell} (hsrv : m.srvOf b.ring = e) (hst : (m.ring b.ring).ctx.st ≠ 0) (hpage : (m.ring b.ring).ctx.itag = b.page)
    (htail : sub21 (m.ring b.ring).ctx.tail (m.ring b.ring).ctx.head ≤ sub21 b.tail (m.ring b.ring).ctx.head)
    (hroom : sub21 b.tail (m.ring b.ring).ctx.head ≤ 2 ^ (m.ring b.ring).ctx.log2) :
    ((m.bellAt b).ring b.ring).ctx.tail = b.tail ∧ ((m.bellAt b).ring b.ring).ctx.head = (m.ring b.ring).ctx.head ∧
      ((m.bellAt b).le e).dbRej = (m.le e).dbRej ∧
      ((m.ring b.ring).ctx.itag = 0 → (m.page (.lth e)).en = true → b.restart = true → (m.ring b.ring).ctx.st = 3 →
        ((m.bellAt b).ring b.ring).ctx.err = 0 ∧
          ((m.bellAt b).ring b.ring).ctx.st = if b.tail = (m.ring b.ring).ctx.head then 1 else 2) := by
  have heq := bellAt_takes hst hpage htail hroom
  rw [hsrv] at heq
  dsimp only at heq
  have honly := fun hi hen => onlyTail_lookup m e b.ring e (m.ring b.ring).ctx.itag hen hi
  have hring := congrArg Ring.ctx (ring_lookup m e b.ring b.ring)
  have hle : ((m.lookup e b.ring).le e).dbRej = (m.le e).dbRej := leField_lookup Le.dbRej (fun _ => rfl) m e b.ring e
  generalize m.lookup e b.ring = u at *
  generalize u.onlyTail e (m.ring b.ring).ctx.itag = only at *
  have hctx := ctx_tailMoved u e b (m.ring b.ring).ctx.head only
  rw [hring] at hctx
  obtain ⟨hkt, hkh⟩ := bellRestarts_keeps (u.tailMoved e b (m.ring b.ring).ctx.head only) b only
  rw [heq]
  refine ⟨hkt.trans (congrArg Ctx.tail hctx :), hkh.trans (congrArg Ctx.head hctx :), ?_, fun hi hen hb h3 => ?_⟩
  · refine (congrArg Le.dbRej (le_of_les ?_ e)).trans hle
    exact (les_bellRestarts _ b only).trans (les_tailMoved u e b _ only)
  · have hst3 : ((u.tailMoved e b (m.ring b.ring).ctx.head only).ring b.ring).ctx.st = 3 := by
      rw [hctx]
      exact (if_neg (by rw [h3]; omega)).trans h3
    have hboth := bellRestarts_halted hb hst3
    rw [hctx] at hboth
    rw [honly hi hen] at hboth ⊢
    exact hboth

/-- R769 to R771: what a doorbell that comes first does. -/
theorem doorbell_meets (e : Fin 2) (b : Bell) (rs : Bool)
    (h : s.firstBell (fun x => (if rs then x.restart else !x.restart) && s.srvOf x.ring == e.val) = some b) (hreach : s.canReach b.arr = true) :
    let c := if rs then Instr.doorbellRestart e else Instr.doorbellArrival e
    let x := (s.ring b.ring).ctx
    ((x.st = 0 ∨ x.itag ≠ b.page) → Gives c s fun t => t.bclk = max s.bclk b.arr ∧ t.bells = eraseFirst (fun y => y == b) s.bells ∧
      (t.le e).dbRej = satAdd 255 (s.le e).dbRej 1 ∧ t.rings = s.rings ∧ flag (t.page (.lth e)).isr 3 = true) ∧
    (x.st ≠ 0 → x.itag = b.page → sub21 x.tail x.head ≤ sub21 b.tail x.head → sub21 b.tail x.head ≤ 2 ^ x.log2 →
      Gives c s fun t => t.bclk = max s.bclk b.arr ∧ t.bells = eraseFirst (fun y => y == b) s.bells ∧ (t.ring b.ring).ctx.tail = b.tail ∧
        (t.ring b.ring).ctx.head = x.head ∧ (t.le e).dbRej = (s.le e).dbRej ∧
        (x.itag = 0 → (s.page (.lth e)).en = true → rs = true → x.st = 3 → (t.ring b.ring).ctx.err = 0 ∧
          (t.ring b.ring).ctx.st = if b.tail = x.head then 1 else 2)) := by
  obtain ⟨hrs, hsrv⟩ := Bool.and_eq_true_iff.mp (firstBell_chosen h)
  have hexec := exec_doorbell s e rs
  rw [bellArrives_eq h hreach] at hexec
  have hclk : ((s.goto b.arr).bellTaken b).bclk = max s.bclk b.arr := bclk_goto s b.arr
  have hkept := goto_kept_self s b.arr
  have hbells : ((s.goto b.arr).bellTaken b).bells = eraseFirst (fun y => y == b) s.bells :=
    congrArg (eraseFirst fun y => y == b) (hkept.part .bells (by decide))
  have hrings : ((s.goto b.arr).bellTaken b).rings = s.rings := hkept.part .rings (by decide)
  have hles : ((s.goto b.arr).bellTaken b).les = s.les := hkept.part .les (by decide)
  have hen : (((s.goto b.arr).bellTaken b).page (.lth e)).en = (s.page (.lth e)).en := (SameMap.goto s b.arr).en _
  generalize (s.goto b.arr).bellTaken b = m at *
  have hsrv' : m.srvOf b.ring = e.val := (srvOf_of_les hles b.ring).trans (beq_iff_eq.mp hsrv)
  have hring := congrArg Ring.ctx (ring_of_rings hrings b.ring)
  intro c x
  refine ⟨fun hbad => ⟨_, hexec, (bclk_bellAt m b).trans hclk, (bells_bellAt m b).trans hbells, ?_⟩,
    fun hst hpage htail hroom => ⟨_, hexec, (bclk_bellAt m b).trans hclk, (bells_bellAt m b).trans hbells, ?_⟩⟩
  · rw [bellAt_rejects (by rwa [hring]), hsrv']
    obtain ⟨hrej, hr, hflag⟩ := bellRejected_meets m e
    exact ⟨hrej.trans (by rw [le_of_les hles]), hr.trans hrings, hflag⟩
  · obtain ⟨ht, hh, hrej, hrest⟩ := bellAt_moves (m := m) (b := b) hsrv' (by rwa [hring]) (by rwa [hring]) (by rwa [hring]) (by rwa [hring])
    rw [hring, hen] at hrest
    refine ⟨ht, hh.trans (congrArg Ctx.head hring), hrej.trans (by rw [le_of_les hles]), fun hi hon hre h3 => ?_⟩
    refine hrest hi hon ?_ h3
    rw [hre] at hrs
    exact hrs

/-! #### The issue of a piece of work -/

/-- The fetch of a ring's next descriptors. -/
def Ring.fetchOp (g : Ring) (r : Nat) : LOp :=
  { ring := r, itag := g.ctx.itag, gen := g.ctx.gen, idx := g.fetchIdx, open_ := g.ctx.cfg % 4 == 2, kind := .fetch,
    pa := g.ctx.descAddr g.fetchIdx / 64 * 64 }

theorem doWork_fetch (s : State) (e r : Nat) : s.doWork e r .fetch = s.newOp e ((s.ring r).fetchOp r) := rfl

theorem freeId_lookup (s : State) (e r : Nat) : ((s.lookup e r).le e).freeId = (s.le e).freeId :=
  leField_lookup Le.freeId (fun _ => rfl) s e r e

theorem ring_workDone_start (s : State) (e r n t : Nat) : (s.workDone e r .startJob n t).ring r = ((s.lookup e r).startJob r).ring r := rfl

/-- R776, R777: what an engine does on the ring whose turn it is. -/
theorem lineIssue_meets (e : Fin 2) :
    let b := max s.bclk (s.le e).free
    (s.le e).st = 0 → (s.page (.lth e)).en = true → s.map.hold = false → s.canReach b = true → s.readyWrite e = none →
      (s.le e).ops.length < 1024 → (s.le e).bufs ≤ 1024 → ∀ r, s.turnOf e = some r →
      (∀ n d rest, s.ringWork r = some .startJob → (s.ring r).pre = (n, d) :: rest → Gives (.latheLineIssue e) s fun t => t.bclk = b ∧
        (t.le e).turn = r ∧ (t.ring r).pre = rest ∧ ∃ j, (t.ring r).jobs = (s.ring r).jobs ++ [j] ∧ j.top = d ∧ j.sn = (s.ring r).nextJob) ∧
      (∀ id l, s.ringWork r = some .fetch → (s.le e).freeId = some id →
        let pa := (s.ring r).ctx.descAddr (s.ring r).fetchIdx / 64 * 64
        s.lDecode (s.ring r).ctx.itag pa = .go l → Gives (.latheLineIssue e) s fun t => t.bclk = b ∧ (t.le e).turn = r ∧
          ∃ o ∈ (t.le e).ops, o.id = id ∧ o.kind = .fetch ∧ o.ring = r ∧ o.pa = pa) := by
  intro b hst hen hhold hreach hready hops hbufs r hturn
  have hclk : (s.goto b).bclk = b := (bclk_goto s b).trans (max_eq_right (le_max_left _ _))
  have hkept := goto_kept_self s b
  have hring := ring_of_rings (hkept.part .rings (by decide)) r
  have hle := le_of_les (hkept.part .les (by decide)) e.val
  have hmap := SameMap.goto s b
  refine ⟨fun n d rest hwork hpre => ?_, fun id l hwork hid => ?_⟩
  · have heq := lineIssue_eq hst hen hhold hreach hready hturn hwork (Nat.le_of_lt hops) hbufs
    refine ⟨_, (exec_latheLineIssue s e).trans (congrArg Host.Outcome.next heq), ?_⟩
    generalize s.goto b = m at *
    have hsame := (ring_lookup m e r r).trans hring
    have hstart := startJob_meets (s := m.lookup e r) (congrArg Ring.pre hsame |>.trans hpre)
    rw [hsame] at hstart
    exact ⟨(bclk_workDone m e r .startJob _ _).trans hclk, turn_workDone m e r .startJob _ _, hstart⟩
  · intro pa hgo
    have heq := lineIssue_eq hst hen hhold hreach hready hturn hwork hops hbufs
    refine ⟨_, (exec_latheLineIssue s e).trans (congrArg Host.Outcome.next heq), ?_⟩
    generalize s.goto b = m at *
    refine ⟨(bclk_workDone m e r .fetch _ _).trans hclk, turn_workDone m e r .fetch _ _, ?_⟩
    rw [ops_workDone, doWork_fetch, ring_lookup, hring]
    exact exists_newOp (o := (s.ring r).fetchOp r) ((freeId_lookup m e r).trans ((congrArg Le.freeId hle).trans hid))
      (((hmap.trans (SameMap.lookup m e r)).lDecode _ _).trans hgo)

/-! #### What comes back -/

theorem SameMap.arrived (s : State) (k : Pkt) : SameMap s ((s.goto k.arr).pktGone k) :=
  (goto s k.arr).trans (of_parts (SameBody.of_pages rfl) rfl rfl rfl)

/-- R775, R777: the return of a fetch. -/
theorem fetchReturn_meets (e : Fin 2) {k : Pkt} {r : Resp} {o : LOp} (h : s.firstLeResp e LOp.fetches = some (k, r, o)) (hreach : s.canReach k.arr = true)
    (hgen : o.gen = s.genOf o.itag) (hst : r.status = 0) (hkind : o.kind = .fetch) :
    let n := (s.ring o.ring).fetchIdx
    let two : Prop := n % 2 = 0 ∧ (n + 1) % 2 ^ 21 ≠ (s.ring o.ring).ctx.tail
    let d := fun i => descOfLine r.data i
    Gives (.descriptorFetchReturn e) s fun t => t.bclk = max s.bclk k.arr ∧ t.pkts = eraseFirst (fun q => q == k) (s.goto k.arr).pkts ∧
      (∀ x ∈ (t.le e).ops, x.id ≠ o.id) ∧
      (two → (t.ring o.ring).pre = (s.ring o.ring).pre ++ [(s.descCode (d 0), d 0), (s.descCode (d 32), d 32)] ∧
        (t.ring o.ring).fetchIdx = (n + 2) % 2 ^ 21) ∧
      (¬two → (t.ring o.ring).pre = (s.ring o.ring).pre ++ [(s.descCode (d (32 * (n % 2))), d (32 * (n % 2)))] ∧
        (t.ring o.ring).fetchIdx = (n + 1) % 2 ^ 21) := by
  intro n two d
  refine ⟨_, (exec_descriptorFetchReturn s e).trans (congrArg Host.Outcome.next (fetchReturn_eq h hreach hgen hst)), ?_⟩
  have hclk : ((s.goto k.arr).pktGone k).bclk = max s.bclk k.arr := bclk_goto s k.arr
  have hpkts : ((s.goto k.arr).pktGone k).pkts = eraseFirst (fun q => q == k) (s.goto k.arr).pkts := rfl
  have hring : ((s.goto k.arr).pktGone k).ring o.ring = s.ring o.ring :=
    ring_of_rings ((goto_kept_self s k.arr).part .rings (by decide)) o.ring
  have hmap := SameMap.arrived s k
  generalize (s.goto k.arr).pktGone k = m at *
  have hfree : SameMap s (m.freeOp e o.id) := hmap.trans (SameMap.updLe m e _)
  have hringf : (m.freeOp e o.id).ring o.ring = s.ring o.ring := hring
  have hkept := fetched_kept_self (m.freeOp e o.id) o r.data
  have hgone := not_mem_freeOp m e o.id
  have hnew := fetched_eq (s := m.freeOp e o.id) hkind r.data
  rw [hringf] at hnew
  unfold State.fetchAdds at hnew
  simp only [hfree.descCode] at hnew
  refine ⟨(hkept.part .bclk (by decide)).trans hclk, (hkept.part .pkts (by decide)).trans hpkts, ?_, fun htwo => ?_, fun htwo => ?_⟩
  · rw [le_of_les (hkept.part .les (by decide))]
    exact hgone
  · rw [hnew, if_pos htwo, htwo.1]
    exact ⟨rfl, rfl⟩
  · rw [hnew, if_neg htwo]
    exact ⟨rfl, rfl⟩

/-- R778, R783: an answer OK to a copy's write, and to its read. -/
theorem lineResponse_meets (e : Fin 2) {k : Pkt} {r : Resp} {o : LOp} (h : s.firstLeResp e (fun x => !x.fetches) = some (k, r, o))
    (hreach : s.canReach k.arr = true) (hgen : o.gen = s.genOf o.itag) (hst : r.status = 0) :
    (o.kind = .write → Gives (.latheLineResponse e) s fun t => t.bclk = max s.bclk k.arr ∧ t.pkts = eraseFirst (fun q => q == k) (s.goto k.arr).pkts ∧
      (∀ x ∈ (t.le e).ops, x.id ≠ o.id) ∧
      Tbl.get (fun _ => 0) (t.insOf o.itag).fold 6 = Tbl.get (fun _ => 0) (s.insOf o.itag).fold 6 + 64) ∧
    (∀ l, o.kind = .read → s.map.hold = false → s.lDecode o.itag o.dst = .go l → Gives (.latheLineResponse e) s fun t => t.bclk = max s.bclk k.arr ∧
      ∃ x ∈ (t.le e).ops, x.id = o.id ∧ x.kind = .write ∧ x.pa = o.dst ∧ x.data = swapLine o.swap r.data ∧ x.poison = false) := by
  have heq := fun hkind => (exec_latheLineResponse s e).trans (congrArg Host.Outcome.next (lineResponse_eq h hreach hkind))
  have hclk : ((s.goto k.arr).pktGone k).bclk = max s.bclk k.arr := bclk_goto s k.arr
  have hpkts : ((s.goto k.arr).pktGone k).pkts = eraseFirst (fun q => q == k) (s.goto k.arr).pkts := rfl
  have hops : (((s.goto k.arr).pktGone k).le e).ops = (s.le e).ops :=
    congrArg Le.ops (le_of_les ((goto_kept_self s k.arr).part .les (by decide)) e.val)
  have hfold : (((s.goto k.arr).pktGone k).insOf o.itag).fold = (s.insOf o.itag).fold :=
    (Passing.goto s k.arr).insField Ins.fold (fun _ => rfl) o.itag
  have hmap := SameMap.arrived s k
  have hg := hgen.trans (genOf_arrived s k o.itag).symm
  generalize (s.goto k.arr).pktGone k = m at *
  have hflags := leFlags_kept_self m r o
  have hfl := fold_leFlags m r o
  have hmapf := hmap.trans (SameMap.leFlags m r o)
  have hok := opResp_ok (e := e) hg hst
  refine ⟨fun hkind => ⟨_, heq (by rw [hkind]; decide), ?_⟩, fun l hkind _ hgo => ⟨_, heq (by rw [hkind]; decide), ?_⟩⟩
  · rw [hok, hkind]
    dsimp only
    generalize m.leFlags r o = u at *
    exact ⟨(hflags.part .bclk (by decide)).trans hclk, (hflags.part .pkts (by decide)).trans hpkts, not_mem_freeOp (u.tally o.itag 6 64) e o.id,
      (fold_tally_same u o.itag 6 64).trans (by rw [hfl, hfold])⟩
  · rw [hok, hkind]
    dsimp only
    have hmem : o ∈ ((m.leFlags r o).le e).ops := by
      rw [le_of_les (hflags.part .les (by decide)), hops]
      exact op_of_firstLeResp h
    generalize m.leFlags r o = u at *
    have hkept : Kept 0x6120020 u (u.copyRead e r o) := State.copyRead_kept (Within.self _) (Kept.refl _ u) e r o
    exact ⟨(hkept.part .bclk (by decide)).trans ((hflags.part .bclk (by decide)).trans hclk),
      exists_copyRead hmem hst ((hmapf.lDecode _ _).trans hgo)⟩

/-- R784: what an engine's one offline operation does when its time has come. -/
theorem offlineReissue_meets (e : Fin 2) {o : LOp} {b : Nat} {l : Loc} (hops : (s.le e).ops = [o]) (hst : o.st = .retry b) (hhold : s.map.hold = false)
    (hreach : s.canReach b = true) (hholds : (s.le e).holds = []) (hin : max s.bclk b < (s.firstOffline o).getD b + s.latheTmo)
    (hgo : s.lDecode o.itag o.pa = .go l) :
    Gives (.offlineReissue e) s fun t => t.bclk = max s.bclk b ∧ (t.le e).ops = [{ o with st := .queued }] ∧
      ∃ w, (t.le e).cq = insertWait w (s.le e).cq ∧ w.req.pa = o.pa ∧ w.req.loc = l ∧ w.raised = t.bclk + 6 := by
  refine ⟨_, (exec_offlineReissue s e).trans (congrArg Host.Outcome.next (offlineReissue_eq hops hst hhold hreach hin)), ?_⟩
  have hclk := bclk_goto s b
  have hle := le_of_les ((goto_kept_self s b).part .les (by decide)) e.val
  have hmap := SameMap.goto s b
  generalize s.goto b = m at *
  have hev := le_ev m { box := boxLe e, code := 0x08, itag := some o.itag } e.val
  have hmap' := hmap.trans (SameMap.ev m { box := boxLe e, code := 0x08, itag := some o.itag })
  have hclk' := bclk_ev m { box := boxLe e, code := 0x08, itag := some o.itag }
  generalize m.ev { box := boxLe e, code := 0x08, itag := some o.itag } = u at *
  have hleu := hev.trans hle
  rw [startOp_go ((hmap'.lDecode _ _).trans hgo), raiseOp_queued ((congrArg Le.holds hleu).trans hholds)]
  have hle2 := (le_ev u (opEv e o l (m.bclk + 6)) e.val).trans hleu
  have hclk2 := bclk_ev u (opEv e o l (m.bclk + 6))
  generalize u.ev (opEv e o l (m.bclk + 6)) = v at *
  obtain ⟨hq, hcq⟩ := opQueued_only (e := e) ((congrArg Le.ops hle2).trans hops) l (m.bclk + 6)
  have hclkv : (v.opQueued e o l (m.bclk + 6)).bclk = m.bclk := hclk2.trans hclk'
  exact ⟨hclkv.trans hclk, hq, _, hcq.trans (by rw [hle2]), rfl, rfl, congrArg (· + 6) hclkv.symm⟩

/-! #### Completions and the change of engine -/

theorem ring_headMoved (s : State) (r : Nat) (j : Job) (rest : List Job) : ∃ st, (s.headMoved r j rest).ring r =
    (s.ring r).completed rest (s.complRecs r j) ((j.idx + 1) % 2 ^ 21) st :=
  ⟨_, State.ring_upd_self (s := s) r _⟩

/-- R785, R786: the completion of a ring's first job. -/
theorem completionForm_meets (e : Fin 2) {r : BitVec 18} {j : Job} {rest : List Job} {id : Nat} {l : Loc} (hjobs : (s.ring r.toNat).jobs = j :: rest)
    (hsrv : s.srvOf r.toNat = e) (hmay : s.mayForm r.toNat = true) (hen : (s.page (.lth e)).en = true) (hhold : s.map.hold = false)
    (hops : (s.le e).ops.length < 1024) (hgen : (s.ring r.toNat).ctx.gen = s.genOf (s.ring r.toNat).ctx.itag) (hid : (s.le e).freeId = some id)
    (hholds : (s.le e).holds = []) (hhalt : j.halt = false)
    (hgo : s.lDecode (s.ring r.toNat).ctx.itag (s.complOp r.toNat j).pa = .go l) :
    Gives (.completionForm r) s fun t => (t.ring r.toNat).jobs = rest ∧
      (t.ring r.toNat).ctx.head = (j.idx + 1) % 2 ^ 21 ∧ (∃ x ∈ (t.ring r.toNat).recs, x = (j.idx, s.record r.toNat j)) ∧
      ∃ o ∈ (t.le e).ops, o.id = id ∧ o.kind = .cmpl ∧ o.pa = (s.complOp r.toNat j).pa := by
  have heq := completionForm_eq hjobs hmay (by rw [hsrv]; exact hen) hhold (by rw [hsrv]; exact hops) hgen hhalt
  rw [hsrv] at heq
  refine ⟨_, (exec_completionForm s r).trans (congrArg Host.Outcome.next heq), ?_⟩
  obtain ⟨st, hring⟩ := ring_headMoved s r.toNat j rest
  have hmoved : (s.headMoved r.toNat j rest).le e = s.le e := rfl
  have hmap : SameMap s (s.headMoved r.toNat j rest) := .of_parts (SameBody.of_pages rfl) rfl rfl rfl
  generalize s.headMoved r.toNat j rest = v at *
  have hkept := complCounted_kept_self v e (s.ring r.toNat).ctx.itag j
  have hmapc := hmap.trans (SameMap.complCounted v e (s.ring r.toNat).ctx.itag j)
  generalize v.complCounted e (s.ring r.toNat).ctx.itag j = u at *
  have hle : u.le e = s.le e := (le_of_les (hkept.part .les (by decide)) _).trans hmoved
  have hid' := (congrArg Le.freeId hle).trans hid
  have hgo' : u.lDecode (s.complOp r.toNat j).itag (s.complOp r.toNat j).pa = .go l := (hmapc.lDecode _ _).trans hgo
  have hringu := (ring_of_rings ((rings_newOp hid' hgo' ((congrArg Le.holds hle).trans hholds)).trans (hkept.part .rings (by decide))) r.toNat).trans hring
  rw [hringu]
  obtain ⟨x, hx, hxid, hkind, -, hpa⟩ := exists_newOp hid' hgo'
  exact ⟨rfl, rfl, ⟨_, List.mem_append_right _ (List.mem_singleton.mpr rfl), rfl⟩, x, hx, hxid, hkind, hpa⟩

/-- R797, R798: an engine whose work has ended hands its rings over. -/
theorem handoverDone_meets (e : Fin 2) (hst : (s.le e).st = 1) (hops : (s.le e).ops = [])
    (hform : ∀ x ∈ s.rings, s.srvOf x.1 = e.val → x.2.ctx.st ≠ 0 → s.mayForm x.1 = false) :
    Gives (.handoverDone e) s fun t =>
      (t.le e).st = (if flag (s.reg (.lth e) 0x040) 8 = true then 3 else 2) ∧ (t.le e).cached = [] ∧ flag (t.page (.lth e)).isr 1 = true := by
  refine ⟨_, (exec_handoverDone s e).trans (congrArg Host.Outcome.next (handoverDone_eq hst hops hform)), ?_⟩
  have hmeets := wentOffline_meets (s.ringsPut (s.served e)) e
  rwa [(SameMap.ringsPut s (s.served e)).reg] at hmeets

/-- R799: an engine powered up again takes its rings back. -/
theorem enginePowerUp_meets (e : Fin 2) (hst : 2 ≤ (s.le e).st) (hctl : flag (s.reg (.lth e) 0x040) 0 = true)
    (hops : ∀ o ∈ (s.le (1 - e.val)).ops, o.ring % 2 ≠ e.val) :
    Gives (.enginePowerUp e) s fun t => (t.le e).st = 0 ∧ flag (t.page (.lth e)).isr 1 = true :=
  ⟨_, (exec_enginePowerUp s e).trans (congrArg Host.Outcome.next (enginePowerUp_eq hst hctl hops)), online_meets (s.takenBack e) e⟩

end

/-- Settles O60, a lemma per command of Lathe over the state in which it comes. -/
theorem latheRuns : Obligations.LatheRuns := by
  intro s e
  refine ⟨fun b rs hfirst hreach => doorbell_meets e b rs hfirst hreach, lineIssue_meets e,
    fun k r o h hreach hgen hst hkind => fetchReturn_meets e h hreach hgen hst hkind,
    fun k r o h hreach hgen hst => lineResponse_meets e h hreach hgen hst,
    fun o b l hops hst hhold hreach hholds hin hgo => offlineReissue_meets e hops hst hhold hreach hholds hin hgo, ?_,
    fun hst hops hform => handoverDone_meets e hst hops hform, fun hst hctl hops => enginePowerUp_meets e hst hctl hops⟩
  intro r j rest id l hjobs hsrv hmay hen hhold hops c hgen hid hholds hhalt pa hgo
  exact completionForm_meets e hjobs hsrv hmay hen hhold hops hgen hid hholds hhalt hgo

end Sys2Proof.Machine
end


section

/-! ### The sanity lines of a fast restore may be another channel's (O8) -/

namespace Sys2Proof.Machine

open Instr

section
variable {s : State}

/-- A sanity read leaves its line new contents (R504). -/
def State.sanityWrite (s : State) (l : Loc) : State :=
  { s.writeLine l (Config.freeLine (2 * s.nextFree + 1)) with nextFree := s.nextFree + 1 }

/-- The column of a rank that a sanity read reads. -/
def sanityLoc (mrd : Bool) (c p col : Nat) : Loc := { ch := c, sc := p / 4, rk := rkOfPos mrd (p % 4), col := col }

theorem sanityLines_eq (s : State) (c : Nat) : s.sanityLines c =
    ((s.rankPositions c).flatMap fun p => (List.range 128).map (sanityLoc s.bin.mrd c p)).foldl State.sanityWrite s := rfl

theorem foldl_sanityWrite_keeps (ls : List Loc) (s : State) :
    (ls.foldl State.sanityWrite s).nextFree = s.nextFree + ls.length ∧ (ls.foldl State.sanityWrite s).chans = s.chans := by
  induction ls generalizing s with
  | nil => exact ⟨rfl, rfl⟩
  | cons l ls ih =>
    obtain ⟨hfree, hchans⟩ := ih (s.sanityWrite l)
    exact ⟨hfree.trans (by rw [List.length_cons, Nat.add_comm ls.length, ← Nat.add_assoc]; rfl), hchans⟩

theorem mem_sanityWrite {l : Loc} (h : (s.chan (chanOfKey (locKey l))).filled = false) :
    Tbl.get (fun _ => none) (s.sanityWrite l).mem (locKey l) = some (Config.freeLine (2 * s.nextFree + 1)) := by
  have hnew : (s.sanityWrite l).mem = Tbl.set (fun _ => none) s.mem (locKey l)
    (if (s.chan (chanOfKey (locKey l))).filled ∧ Config.freeLine (2 * s.nextFree + 1) = 0 then none else some (Config.freeLine (2 * s.nextFree + 1))) := rfl
  rw [hnew, Tbl.get_set_self, h]
  exact if_neg fun hx => Bool.noConfusion hx.1

/-- The last of the lines that the sanity reads leave holds what was left last. -/
theorem mem_foldl_sanityWrite {l : Loc} (h : (s.chan (chanOfKey (locKey l))).filled = false) (ls : List Loc) :
    Tbl.get (fun _ => none) ((ls ++ [l]).foldl State.sanityWrite s).mem (locKey l) = some (Config.freeLine (2 * (s.nextFree + ls.length) + 1)) := by
  obtain ⟨hfree, hchans⟩ := foldl_sanityWrite_keeps ls s
  rw [List.foldl_append, ← hfree]
  refine mem_sanityWrite (s := ls.foldl State.sanityWrite s) ?_
  rwa [chan_of_chans hchans]

theorem readLine_of_mem {l : Loc} {r : RawLine} (h : Tbl.get (fun _ => none) s.mem (locKey l) = some r) : s.readLine l = r := by
  unfold State.readLine
  rw [h]

/-! #### The counterexample -/

/-- The rank positions of channel 0 whose module tells nine ranks in a bin of MRDIMMs, but for the last, which is 8. -/
def nineRanks : List Nat := [0, 1, 0, 1, 2, 3, 2, 3, 4, 4, 5, 4, 5, 6, 7, 6, 7]

/-- The sanity lines of that channel but for the last. -/
def sanityBefore : List Loc := (nineRanks.flatMap fun p => (List.range 128).map (sanityLoc true 0 p)) ++ (List.range 127).map (sanityLoc true 0 8)

/-- The last of the sanity lines: rank position 8 of channel 0 is subchannel 2, which is subchannel 0 of channel 1. -/
def strayLoc : Loc := sanityLoc true 0 8 127

/-- The line of channel 1 that it is. -/
def hitLoc : Loc := { ch := 1, col := 127 }

/-- What the restore leaves there. -/
def strayLine : RawLine := Config.freeLine (2 * sanityBefore.length + 1)

/-- Channel 0 in its fast restore, its module's SPD telling nine ranks; the line of channel 1 holds other contents. -/
def nineRankRestore : State :=
  { bin := .mrdimm8800, chans := [(0, { calState := 2, spd := some { ranksM1 := 8 } })], cals := [(0, { kind := 2 })],
    mem := Tbl.set (fun _ => none) [] (locKey hitLoc) (some (strayLine + 1)) }

theorem locKey_strayLoc : locKey strayLoc = locKey hitLoc := rfl

theorem sanityLocs_nineRankRestore : (nineRankRestore.rankPositions 0).flatMap (fun p => (List.range 128).map (sanityLoc nineRankRestore.bin.mrd 0 p)) =
    sanityBefore ++ [strayLoc] := by
  have hpos : nineRankRestore.rankPositions 0 = nineRanks ++ [8] := rfl
  have hcols : (List.range 128).map (sanityLoc true 0 8) = (List.range 127).map (sanityLoc true 0 8) ++ [strayLoc] := by
    rw [List.range_succ, List.map_append]
    rfl
  have hmrd : nineRankRestore.bin.mrd = true := rfl
  rw [hpos, hmrd, List.flatMap_append, List.flatMap_singleton, hcols]
  exact (List.append_assoc _ _ _).symm

theorem readLine_before : nineRankRestore.readLine hitLoc = strayLine + 1 :=
  readLine_of_mem (Tbl.get_set_self (d := fun _ => none) [] (locKey hitLoc) (some (strayLine + 1)))

theorem mem_after : Tbl.get (fun _ => none) (nineRankRestore.fastRestoreDone 0 true).mem (locKey hitLoc) = some strayLine := by
  have heq : nineRankRestore.fastRestoreDone 0 true = (nineRankRestore.sanityLines 0).calPass 0 true := rfl
  have hmem : ((nineRankRestore.sanityLines 0).calPass 0 true).mem = (nineRankRestore.sanityLines 0).mem :=
    (State.calPass_kept (Within.self _) (Kept.refl _ _) 0 true).part .mem (by decide)
  rw [heq, hmem, sanityLines_eq, sanityLocs_nineRankRestore, ← locKey_strayLoc]
  refine (mem_foldl_sanityWrite ?_ sanityBefore).trans ?_
  · rfl
  · rw [show nineRankRestore.nextFree = 0 from rfl, Nat.zero_add]
    rfl

end

/-- Refutes O8: the sanity reads of a fast restore leave lines at the rank positions that the SPD tells, and the statement's state is any at all,
so the SPD may tell nine ranks: position 8 of channel 0 is a line of channel 1, and that line does not read as before. -/
theorem not_storesKeepOtherLines : ¬ Obligations.StoresKeepOtherLines := by
  unfold Obligations.StoresKeepOtherLines
  intro h
  obtain ⟨-, hchan, -⟩ := h nineRankRestore (nineRankRestore.fastRestoreDone 0 true) hitLoc
  have hsame := hchan 0 (.fastRestoreDone 0 true) (.inr (.inr (.inr (.inl ⟨true, rfl⟩)))) (exec_fastRestoreDone nineRankRestore 0 true) (by decide) (by decide)
  rw [readLine_before, readLine_of_mem mem_after] at hsame
  exact absurd hsame (by simp)

end Sys2Proof.Machine
end
